-- ==== Sys2Proof/Word.lean ====
section
/-! DEFINITION. Words and bytes, and the names the manual gives the parts of the device: actuators, ports,
complexes, register blocks, requesters and packet paths. -/

namespace Sys2Proof

/-- One 32-bit register or table word. -/
abbrev Word := BitVec 32

/-- One byte of a memory. -/
abbrev Byte := BitVec 8

/-- The two actuators (R70); actuator 0 owns the lower-numbered surfaces. -/
inductive Act where
  | a0 | a1
deriving DecidableEq, Repr

/-- The actuator's digit in register prefixes. -/
def Act.idx : Act → Nat
  | .a0 => 0
  | .a1 => 1

def Act.other : Act → Act
  | .a0 => .a1
  | .a1 => .a0

def Act.ofBit (n : Nat) : Act := if n = 0 then .a0 else .a1

/-- One value for each actuator. -/
structure Per (α : Type) where
  a0 : α
  a1 : α
deriving DecidableEq, Repr

def Per.get {α : Type} (p : Per α) : Act → α
  | .a0 => p.a0
  | .a1 => p.a1

def Per.set {α : Type} (p : Per α) (a : Act) (v : α) : Per α :=
  match a with
  | .a0 => { p with a0 := v }
  | .a1 => { p with a1 := v }

/-- The two host ports with their controllers 0x0001 and 0x0002 (R437). -/
inductive Port where
  | A | B
deriving DecidableEq, Repr

def Port.idx : Port → Nat
  | .A => 0
  | .B => 1

/-- The two command complexes (R437). -/
inductive Cpx where
  | X | Y
deriving DecidableEq, Repr

def Cpx.other : Cpx → Cpx
  | .X => .Y
  | .Y => .X

def Cpx.idx : Cpx → Nat
  | .X => 0
  | .Y => 1

/-- One value for each of two numbered things (ports, complexes, flash banks). -/
structure Two (α : Type) where
  x : α
  y : α
deriving DecidableEq, Repr

def Two.get {α : Type} (t : Two α) (i : Nat) : α := if i = 0 then t.x else t.y

def Two.set {α : Type} (t : Two α) (i : Nat) (v : α) : Two α :=
  if i = 0 then { t with x := v } else { t with y := v }

/-- The register blocks of Table 01.10. -/
inductive Block where
  | sys | tick | siz | blk (a : Act) | cst (a : Act) | chn (a : Act) | afe (a : Act) | was (a : Act)
  | srv (a : Act) | spn | pwr | tnl (a : Act) | zqe | flt | buf | dmc | crn | ful | hbr | hpa | hpb | cpx
  | nvc | pdm | fmg | sec | dbg
deriving DecidableEq, Repr

/-- The BLOCK index of Table 21.1: the block's place in Table 01.10. -/
def Block.index : Block → Nat
  | .sys => 0 | .tick => 1 | .siz => 2 | .blk a => 3 + a.idx | .cst a => 5 + a.idx | .chn a => 7 + a.idx
  | .afe a => 9 + a.idx | .was a => 11 + a.idx | .srv a => 13 + a.idx | .spn => 15 | .pwr => 16
  | .tnl a => 17 + a.idx | .zqe => 19 | .flt => 20 | .buf => 21 | .dmc => 22 | .crn => 23 | .ful => 24
  | .hbr => 25 | .hpa => 26 | .hpb => 27 | .cpx => 28 | .nvc => 29 | .pdm => 30 | .fmg => 31 | .sec => 32
  | .dbg => 33

/-- The units that hold a generation number (R32): the register blocks, the management cores and the complexes. -/
inductive UnitId where
  | block (b : Block) | core (n : Fin 4) | complex (c : Cpx)
deriving DecidableEq, Repr

/-- A number for each unit that holds a generation. -/
def UnitId.key : UnitId → Nat
  | .block b => b.index
  | .core n => 40 + n.val
  | .complex c => 50 + c.idx

/-- A host command: its controller's port, its submission queue and its command identifier. -/
structure CmdId where
  port : Port
  sq : Nat
  cid : Nat
deriving DecidableEq, Repr

/-- What the check of a host transfer finds (R414, Table 14.6): nothing wrong, a protection information mismatch, or a
TLP marked poisoned. -/
inductive Transfer where
  | ok | guard | appTag | refTag | poisoned
deriving DecidableEq, Repr

/-- How a decode ended (R170, R77): a zero syndrome, the CRC's agreement, the iterations used, a rung 2 offset other
than 0, and whether the device found the position weak. -/
structure DecodeEnd where
  zeroSyndrome : Bool
  crcGood : Bool
  globals : Nat
  locals : Nat
  offset : Bool
  weak : Bool
deriving DecidableEq, Repr

/-- What the fetch of a record with two copies finds (R149, R195, R205): the first copy good, the first bad and replaced
from the second, or both bad. -/
inductive Fetch where
  | good | firstBad | bothBad
deriving DecidableEq, Repr

/-- What the source reads of a reconstruction gave (R364): the member positions that failed at rungs 0 to 2, whether
the P and Q records failed, the blocks that carry poison, and for each byte column the sources read (member position
and byte) with its P and Q bytes. -/
structure SourceReads where
  missing : List Nat
  pBad : Bool
  qBad : Bool
  parityPoison : Bool
  poison : Nat
  columns : List (List (Nat × Nat) × Nat × Nat)
deriving DecidableEq, Repr

/-- What a Blocker's word meets outside it: the fetches of the rate-zone and write records at a bind (R149, R195) and of
the assist record at a pre-bias (R205), and whether a RAW_CHECK finds the data of the record read equal to the record
written (R218). -/
structure WordObs where
  rz : Fetch
  wr : Fetch
  assist : Fetch
  same : Bool
deriving DecidableEq, Repr

/-- What the channel finds in a read fragment (R138, R157, R172, R174): the deviations at which the primary and the
secondary mark were found in their windows, the lanes that meet a condition of R157 as a mask, and for each lane its live
words A and B at the end and its saturated samples. -/
structure FragObs where
  primary : Option Int
  secondary : Option Int
  bad : Nat
  live : List (BitVec 32 × BitVec 32)
  saturated : List Nat
deriving DecidableEq, Repr

/-- Who armed a launch stamp (R24): a Blocker's waiting word, the automatic servo gate, a heater back-off start, an
operate ramp, the spindle or the power stage. -/
inductive StampOwner where
  | blocker (a : Act) | servoGate (a : Act) | backOff (a : Act) | ramp (a : Act) | spindle | power
deriving DecidableEq, Repr

/-- How a control-lane transaction crosses the link (R232, R237): both frames good, or one of them with a CRC error. -/
inductive Wire where
  | good | requestBad | responseBad
deriving DecidableEq, Repr

/-- What a training of a Tenil link observes (R241): the receive sampling phases that pass, as a mask, and the number
of LINK_CHECK words that arrive. -/
structure Training where
  passing : Nat
  linkWords : Nat
deriving DecidableEq, Repr

/-- What a register access meets outside it: what a Blocker's stepped word meets, what a retrained link observes, the
input Fuller has consumed at a flush, and whether a capture sample read is poisoned (R279, R503). -/
structure FabricObs where
  word : WordObs
  train : Training
  consumed : Nat
  poisoned : Bool
deriving DecidableEq, Repr

/-- What a lane of the servo engine shows when the lanes disagree (R270): a residue error, a poisoned read, a wrong read
checksum. -/
structure LaneSeen where
  residue : Bool
  poison : Bool
  readBad : Bool
deriving DecidableEq, Repr

/-- A lane mismatch (R270): the CAUSE of SRVn_LANE_LOG, and what each lane shows. -/
structure LaneMiss where
  cause : Nat
  a : LaneSeen
  b : LaneSeen
deriving DecidableEq, Repr

/-- What the demodulator and the power die give a servo engine in one wedge (Table 09.1, R255): the Gray bits with the
number of weak symbols, the burst amplitudes, the runout field unless its parity is bad, the voice coil's velocity and
the means of the two vibration sensors as scalars, a lane mismatch, and whether the feed-forward stages missed the
cut-off. -/
structure ServoField where
  gray : Nat
  weak : Nat
  n : Int
  q : Int
  runout : Option Nat
  velocity : BitVec 32
  sensorA : BitVec 32
  sensorB : BitVec 32
  miss : Option LaneMiss
  ffLost : Bool
deriving DecidableEq, Repr

/-- The paths that carry packets (R471, Table 18.4). -/
inductive Path where
  | nvme (p : Port) | miInBand (p : Port) | miBus (p : Port) | uart | twin
deriving DecidableEq, Repr

/-- The requesters of the register space (R31). -/
inductive Requester where
  | core (n : Fin 4) | debug | path (p : Path)
deriving DecidableEq, Repr

/-- A number for each requester, used as the key of its latches. -/
def Requester.key : Requester → Nat
  | .core n => n.val
  | .debug => 4
  | .path (.nvme p) => 5 + p.idx
  | .path (.miInBand p) => 7 + p.idx
  | .path (.miBus p) => 9 + p.idx
  | .path .uart => 11
  | .path .twin => 12

/-- A byte with its poison mark (R379). -/
abbrev PByte := Byte × Bool

/-- The requesters of the Crown cache (R394). -/
inductive CrownUser where
  | core (n : Fin 4) | zqe | felt | blocker (a : Act)
deriving DecidableEq, Repr

/-- Uncorrectable state that a Crown request meets in its set (R409): ways whose tag or valid bit fails, as a mask, and
the replacement word. -/
structure TagErr where
  ways : Nat
  plru : Bool
deriving DecidableEq, Repr

/-- How a store into flash stands when its step ends (R488): finished, or cut by what comes next after some sectors were
erased, after some words of the stream, or after some words of the header were programmed. -/
inductive StoreEnd where
  | done
  | erasing (sectors : Nat)
  | stream (words : Nat)
  | header (words : Nat)
deriving DecidableEq, Repr

/-- What the profile's format lays down at the first Format NVM (R555): the band records as their four words (Table
03.1), the zone map, the conventional map as (band, first copy, second copy), the zone size and the conventional
capacity in blocks. -/
structure FormatLayout where
  bands : List (List Word)
  zones : List Nat
  conv : List (Nat × Nat)
  zoneBlocks : Nat
  convBlocks : Nat
deriving DecidableEq, Repr

/-- What a profile declares that no register holds: the heads per actuator (R70), the readers of each head, keyed by 12 ×
actuator + head (R71), and the initial data memory image of each Blocker (R584). -/
structure ProfileDecl where
  nh : Nat
  readers : List (Nat × Nat)
  data0 : List Byte
  data1 : List Byte
deriving DecidableEq, Repr

/-- How a record read for a diagnostic packet ended (R191): the rung that delivered it or the last one tried, whether it
was delivered, and the decode. -/
structure ReadEnd where
  rung : Nat
  good : Bool
  decode : DecodeEnd
deriving DecidableEq, Repr

/-- What a packet meets outside the model (chapter 18): its register accesses, whether an image's signature verifies, how
far a store into flash gets, the codings Fuller chooses, what a profile declares, the records read, a reconstruction's
sources, raw samples, the value a recalibration finds, and the MRAM units that read uncorrectable. -/
structure MpiObs where
  fabric : FabricObs
  sig : Bool
  store : StoreEnd
  codings : List (List Byte)
  decl : ProfileDecl
  reads : List ReadEnd
  source : SourceReads
  samples : List Word
  spOp : Option Nat
  mram : List Nat
deriving DecidableEq, Repr

/-- The data structures of Read NVMe-MI Data Structure (Table 16.13). -/
inductive MiData where
  | subsystem | port (p : Port) | controllers | controller (p : Port)
deriving DecidableEq, Repr

/-- The configurations of Configuration Get and Set (Table 16.13). -/
inductive MiConfig where
  | smbusFrequency | unitSize
deriving DecidableEq, Repr

/-- The admin commands that NVMe-MI tunnels (Table 16.13); any other by its opcode. -/
inductive MiAdmin where
  | identify (cns ns csi : Nat) | getLogPage (lid : Nat) (retain : Bool) | getFeatures (fid sel : Nat) | other (opcode : Nat)
deriving DecidableEq, Repr

/-- An NVMe-MI request (Table 16.13); any other by its opcode. -/
inductive MiRequest where
  | data (x : MiData) | subsystemHealth | controllerHealth | configGet (c : MiConfig) | configSet (c : MiConfig) (v : Nat)
  | vpdRead (off len : Nat) | tunnelled (x : MiAdmin) | vendor (ws : List (BitVec 32)) (o : MpiObs) | other (opcode : Nat)
deriving DecidableEq, Repr

/-- What step 10 of start-up meets (R551, R552, R515): which system area copies are valid, the SEQ of journal records whose
CRC fails, whether the vault's delta section is sound, the dirty regions whose sections are not, and the Hatband records
whose MRAM units read uncorrectable. -/
structure RestoreObs where
  copy0 : Bool
  copy1 : Bool
  journal : List Nat
  deltas : Bool
  regions : List Nat
  records : List Nat
deriving DecidableEq, Repr

/-- A request between units with the two generations it carries (R33). -/
structure UnitReq where
  tag : Nat
  requester : UnitId
  target : UnitId
  targetGen : Nat
  requesterGen : Nat
deriving DecidableEq, Repr

/-- The unit instances of Table 23.1. -/
inductive FUnit where
  | servoLane (a : Act) | servoEngine (a : Act) | controlStore (a : Act) | blocker (a : Act)
  | channelLane (a : Act) | record (a : Act) | tenil (a : Act) | spindle | core (n : Fin 4) | complex (c : Cpx)
  | crown | fuller | hatband | felt | buffer | dram | zqe | security | faultManager
  | assist (a : Act) | writeBack (a : Act)
deriving DecidableEq, Repr

/-- The variants of Table 00.2. -/
inductive Variant where
  | D | S | C | P | L
deriving DecidableEq, Repr

/-- SYS_CAPS.VARIANT (Table 01.9). -/
def Variant.code : Variant → Nat
  | .D => 0 | .S => 1 | .C => 2 | .P => 3 | .L => 4

end Sys2Proof
end

