-- ==== Sys2Proof/Syntax.lean ====
section
/-! DEFINITION. The commands of the block: one constructor for each row of the table of operations and events. The
operands are what the step takes from outside: who sends it, what it carries, and what the device observes. -/

namespace Sys2Proof

inductive Instr where
  /-- REGISTER_WRITE (R7): A write to a register field that has no row of its own takes effect according to its access type. -/
  | registerWrite (who : Requester) (addr : Nat) (w : Word) (o : FabricObs)
  /-- RC_READ (R7): A read of an RC field returns its value and clears it. -/
  | rcRead (who : Requester) (addr : Nat) (o : FabricObs)
  /-- TICK_NOW_LO_READ (R31): A read of TICK_NOW_LO returns clock bits [31:0] and latches bits [47:32] into the reading requester's TICK_NOW_HI latch. -/
  | tickNowLoRead (who : Requester)
  /-- TICK_EDGE (R29): At each tick edge the device checks done reports, applies a pending RWS commit and latches pending RWT writes, before any phase-0 stamp fires. -/
  | tickEdge (periodNs late : Nat)
  /-- ADDRESS_MARK (R19): The demodulator detects a servo address mark, which disciplines the rotation clock when it comes from the master head. -/
  | addressMark (a : Act) (field phase : Nat) (confirms : Bool)
  /-- MISSED_MARK (R247): No position in the search window qualifies, so the mark counts as missed and the clock runs on the flywheel. -/
  | missedMark (a : Act)
  /-- FLYWHEEL_LIMIT (R20): After 8 consecutive missed marks, mastership moves to the other actuator or the clock source changes to coarse. -/
  | flywheelLimit
  /-- STAMP_FIRE (R24): An armed launch stamp fires at the first clock value that equals or passes it, and is spent. -/
  | stampFire (owner : StampOwner) (o : WordObs) (sixthNs : Nat)
  /-- UNIT_REQUEST (R34): An inter-unit request carrying both generations arrives, and is refused if its generation is stale or the unit is resetting. -/
  | unitRequest (r : UnitReq)
  /-- UNIT_RESPONSE (R35): A response arrives and is discarded if it names a stale target or requester generation. -/
  | unitResponse (r : UnitReq)
  /-- UNIT_RESET (R32): A unit resets and its generation increments. -/
  | unitReset (u : UnitId)
  /-- READY_NOTICE (R36): A unit sends its ready notice once no old response is in flight, and each requester replays its outstanding requests in issue order. -/
  | readyNotice (u : UnitId) (oldInFlight : Bool)
  /-- COMMIT (R53): Writing SIZ_CTL.COMMIT freezes the configuration set and runs the agreement, commit-state and admission checks. -/
  | commit (who : Requester)
  /-- DISCARD (R57): Writing SIZ_CTL.DISCARD empties the configuration set without a commit, unless BUSY is set. -/
  | discard
  /-- MICROWORD (R100): The Blocker executes one microword: safe-point event test, bind, stamp arming, issue, Plank operation, register and counter operations and condition. -/
  | microword (a : Act) (o : WordObs)
  /-- CONDITION_WAIT (R104): A Blocker holding at a condition-wait word continues at ALT once the condition becomes true. -/
  | conditionWait (a : Act)
  /-- READ_FRAG (R109): The Blocker acquires, syncs and samples the current DATA fragment; a LAST fragment starts the decode. -/
  | readFrag (a : Act) (darg : Nat) (o : FragObs)
  /-- WRITE_FRAG (R109): The Blocker writes preamble, marks and payload of the current DATA fragment after the checks of R198. -/
  | writeFrag (a : Act)
  /-- LOAD_REC (R110): The Blocker streams COUNT records from buffer descriptors through encryption, felt tap and encoder. -/
  | loadRec (a : Act)
  /-- FELT_ARM (R355): The Blocker attaches the named felt accumulator pair to the records of the current request. -/
  | feltArm (a : Act)
  /-- HEATER (R196): The Blocker issues a heater step, and a new heater code is sent on the launch lane. -/
  | heater (a : Act) (step : Nat)
  /-- SERVO_REQ_SEEK (R283): SERVO_REQ DARG 0 selects the head and targets the bound track, stepping REF or starting a trajectory. -/
  | servoReqSeek (a : Act) (head : Nat)
  /-- SERVO_REQ_SELECT (R283): SERVO_REQ DARG 1 selects the head and targets its first valid position rounded to a data track centre of the bound band. -/
  | servoReqSelect (a : Act) (head : Nat)
  /-- SERVO_REQ_LOAD (R297): SERVO_REQ DARG 2 loads the head in ramp mode, unless its preconditions fail. -/
  | servoReqLoad (a : Act) (head : Nat)
  /-- SERVO_REQ_UNLOAD (R299): SERVO_REQ DARG 3 unloads the actuator toward the ramp in ramp mode. -/
  | servoReqUnload (a : Act)
  /-- POST (R115): The Blocker completes the current request with the named status. -/
  | post (a : Act) (darg : Nat)
  /-- ACCEPT (R113): The Blocker loads the next request descriptor into G8 to G14. -/
  | accept (a : Act)
  /-- HOLD_SAMPLES (R176): The Blocker closes every pending and held replay buffer to capture until the next FIRST read. -/
  | holdSamples (a : Act)
  /-- RAW_CHECK (R218): The Blocker compares a read-back bolt with the record written and releases or condemns its position. -/
  | rawCheck (a : Act) (same : Bool)
  /-- TRACE (R109): The Blocker sends a register with the program counter and stamp to the debug trace. -/
  | trace (a : Act) (darg : Nat)
  /-- RETURN (R119): The Blocker restores the saved state of the current depth and resumes the interrupted SAFE word. -/
  | return (a : Act)
  /-- ABANDON (R119): The Blocker clears the resume record of the current depth and continues at BLKn_VEC_0. -/
  | abandon (a : Act)
  /-- PLANK_BIND (R112): The Blocker binds the band and track index, selecting the Plank table, or binds nothing. -/
  | plankBind (a : Act) (o : WordObs)
  /-- PLANK_FIND (R583): The Blocker makes current the next occurrence of a slot's FIRST entry at least PLK_LEAD ticks ahead. -/
  | plankFind (a : Act) (gs : Nat)
  /-- PLANK_ADVANCE (R112): The Blocker moves to the next DATA entry, wrapping at END into the next revolution. -/
  | plankAdvance (a : Act)
  /-- PRE_BIAS (R208): AG code 1 ramps the assist lane to SP_BIAS and sets the pre-bias heater back-off. -/
  | preBias (a : Act) (f : Fetch)
  /-- BACK_OFF_START (R208): BO_ADV ticks before the pre-bias stamp, the heater back-off starts and a heater code is issued. -/
  | backOffStart (a : Act)
  /-- OPERATE (R208): AG code 2 makes the assist lane operate-armed and sets BO_OP. -/
  | operate (a : Act) (gate : Bool)
  /-- ASSIST_OFF (R208): AG code 3 takes the assist lane off, sets BO to 0 and starts an unwind. -/
  | assistOff (a : Act)
  /-- UNWIND_STEP (R215): At each of the two tick edges after an unwind starts, half and then the rest of the heater difference is applied. -/
  | unwindStep (a : Act) (head : Nat)
  /-- ASSIST_SELF_OFF (R210): A lane with no write gate for PRELEAD + PB_HOLD ticks goes off by itself, unwinds and sets fault KIND 3. -/
  | assistSelfOff (a : Act)
  /-- QUEUE_RESET (R585): A withdrawal removes the named requests from the Blocker queue and ladder and makes QUEUE_RESET pending if the current request is named. -/
  | queueReset (a : Act) (tags : List Nat)
  /-- BLK_HALT (R126): Writing HALT makes the Blocker halt at its next SAFE word, where it is honoured. -/
  | blkHalt (a : Act) (v : Bool)
  /-- BLK_RESUME (R126): Writing RESUME ends a Blocker halt. -/
  | blkResume (a : Act)
  /-- BLK_STEP (R126): Writing STEP executes one word while the Blocker is halted. -/
  | blkStep (a : Act) (o : WordObs)
  /-- CST_DATA_3_WRITE (R128): A write to CSTn_DATA_3 stages a 128-bit control-store word, computing check bits unless RAW mode applies. -/
  | cstData3Write (a : Act) (v : Word)
  /-- CST_DATA_3_READ (R128): A read of CSTn_DATA_3 returns the committed word and, with AUTOINC, increments WORD. -/
  | cstData3Read (a : Act) (who : Requester)
  /-- MICROCODE_IMAGE_WRITE (R122): When the Blocker reaches its dispatch wait after an admitted image, it resets and the whole image is written into the store. -/
  | microcodeImageWrite (a : Act)
  /-- SYNTH_LOCKED (R134): The synthesizer completes its relock and LOCKED reads 1. -/
  | synthLocked (a : Act)
  /-- AVERAGE_COMPLETE (R151): An adaptation accumulator reaches 2^AVG_LOG2 contributions and moves its average into the completed-average buffer. -/
  | averageComplete (a : Act) (ws : List (Nat × Word))
  /-- WRITE_BACK_BATCH (R153): The firmware stages a write-back batch from a completed average with drift flags, or it is refused. -/
  | writeBackBatch (a : Act)
  /-- READER_FAIL (R157): A lane condition holds in 16 consecutive fragments of one head and its reader is marked failed. -/
  | readerFail (a : Act) (head lane : Nat)
  /-- LANE_FAIL (R157): A lane meets the failure count on a second head and fails. -/
  | laneFail (a : Act) (head lane : Nat)
  /-- LANE_POWER_FAULT (R157): A lane's power domain reports a fault and the lane fails, or lane 1's fault fails the synthesizer. -/
  | lanePowerFault (a : Act) (lane : Nat)
  /-- LANE_FAIL_CLEAR (R158): Writing 1 to a lane or reader FAIL bit clears it, where honoured, and requalifies the lane or reader. -/
  | laneFailClear (a : Act) (head : Option Nat) (mask : Nat)
  /-- DECODE_START (R171): A decode starts when its codeword's LAST fragment ends and a decoder is free. -/
  | decodeStart (a : Act)
  /-- DECODE_DONE (R170): A decode ends with a zero syndrome or exhausted iterations, and the record is checked, delivered or sent down the ladder. -/
  | decodeDone (a : Act) (tag slot : Nat) (e : DecodeEnd)
  /-- RUNG_COST_ELAPSED (R179): A rung's cost elapses and the record moves to the next rung of its plan or the ladder ends. -/
  | rungCostElapsed (a : Act)
  /-- RECONSTRUCTION (R364): Rung 7 locates the part, reads the sources at rungs 0 to 2 and solves the missing member. -/
  | reconstruction (a : Act) (tag : Nat) (o : SourceReads)
  /-- RECONSTRUCTION_BOUND (R364): A reconstruction not solved within c7 ticks ends UNRECOVERED. -/
  | reconstructionBound (a : Act) (tag : Nat)
  /-- SERVO_FIELD_END (R255): At the burst end the demodulator forms the position and delivers PES to the engine, write path and capture. -/
  | servoFieldEnd (a : Act) (o : ServoField)
  /-- OFFTRACK_REQUALIFIED (R199): After REQUAL consecutive wedges within half the threshold, the off-track inhibit clears. -/
  | offtrackRequalified (a : Act)
  /-- PES_MISS_LIMIT (R256): PES_MISS reaches PES_MISS_MAX in automatic mode and the device reports a servo fault and starts a reacquisition. -/
  | pesMissLimit (a : Act)
  /-- REACQUISITION_TIMEOUT (R293): No valid PES within SETTLE.MAX ticks makes EMERGENCY_PARK pending and unloads the actuator. -/
  | reacquisitionTimeout (a : Act)
  /-- TRANSFER_TIMEOUT (R272): A manual-to-automatic transfer that finds no valid PES within PES_MISS_MAX ticks sets XFER_FAIL. -/
  | transferTimeout (a : Act)
  /-- INJECTION_START (R276): An enabled injection starts at the first edge with no write request between ACCEPT and POST. -/
  | injectionStart (a : Act)
  /-- CAP_CTL_ARM (R278): Writing ARM starts a capture in one-shot or ring mode. -/
  | capCtlArm (a : Act) (mode trig pre : Nat)
  /-- CAP_CTL_ABORT (R278): Writing ABORT stops recording at once, keeping the samples held. -/
  | capCtlAbort (a : Act)
  /-- CAP_DATA_READ (R278): A read of SRVn_CAP_DATA returns the indexed sample and increments INDEX. -/
  | capDataRead (a : Act) (who : Requester) (poisoned : Bool)
  /-- TRAJECTORY_START (R284): At the tick edge after the seek decision, a trajectory of Tn ticks starts and any injection ends. -/
  | trajectoryStart (a : Act)
  /-- TRAJECTORY_END (R284): At tick Tn REF equals the target and the state becomes settling. -/
  | trajectoryEnd (a : Act)
  /-- SETTLE_LATE (R287): A head still settling after SETTLE.MAX ticks restarts its settle count once, and a second late settle is a servo fault. -/
  | settleLate (a : Act)
  /-- STAGGER_EXPIRY (R303): Actuator 1's trajectory starts STAGGER ticks after a shared start edge. -/
  | staggerExpiry
  /-- SHOCK_SENSOR_TRIGGER (R295): A sensor sample at or above THR sets a shock inhibit within 2 µs and makes SHOCK pending. -/
  | shockSensorTrigger (a : Act) (sensorB : Bool)
  /-- SHOCK_CLEAR (R296): After HOLD ticks without a trigger and with PES within half the threshold, the shock inhibit clears. -/
  | shockClear (a : Act)
  /-- SHOCK_PARK (R296): Triggers in PARK_TICKS consecutive ticks unload the actuator and set PARKED. -/
  | shockPark (a : Act)
  /-- LOAD_TIMEOUT (R298): A load not transferred within LOAD_MAX ticks fails, unloads and is retried at most twice. -/
  | loadTimeout (a : Act)
  /-- UNLOAD_VELOCITY_LOW (R299): Back-EMF below 1/64 of UNLOAD_VEL for 4 ticks starts the latch hold. -/
  | unloadVelocityLow (a : Act)
  /-- LATCH_END (R299): After LATCH ticks the unload sets mode off and STATE 0. -/
  | latchEnd (a : Act)
  /-- PWR_RET_GO (R300): Writing PWR_RET_CTL.GO starts a retract of cause 2. -/
  | pwrRetGo
  /-- COMMAND_FRAME_TIMEOUT (R300): No command frame from a loaded servo engine for 200 µs starts a retract of cause 4. -/
  | commandFrameTimeout (a : Act)
  /-- RETRACT_REGULATION_END (R301): After TIME ms of back-EMF regulation, the retract applies latch current. -/
  | retractRegulationEnd
  /-- RETRACT_LATCH_END (R301): After 20 ms of latch current, the retract turns the drivers off and ends. -/
  | retractLatchEnd
  /-- COMMUTATION_STEP (R307): A spindle step edge ramps the phase currents and the speed is measured and regulated. -/
  | commutationStep (sixthNs : Nat)
  /-- ZERO_CROSSING (R312): The observer sees a back-EMF zero crossing, used for alignment, start and checking. -/
  | zeroCrossing (err : Int) (fits : Bool)
  /-- MISSED_CROSSING (R318): No crossing arrives within ±15° of its expected instant. -/
  | missedCrossing
  /-- SPN_CTL_RUN (R314): Writing SPN_CTL.RUN starts the spindle or sets the target to 0. -/
  | spnCtlRun (cal run : Bool)
  /-- SENSE_END (R314): The 100 ms sense window ends and the start case is decided. -/
  | senseEnd (backward : Bool) (rpm : Nat)
  /-- BRAKE_END (R314): The 200 ms brake ends and a new sense window runs. -/
  | brakeEnd
  /-- ALIGN_END (R315): The align time ends and forced open-loop steps begin. -/
  | alignEnd
  /-- FORCED_STEP (R315): A forced step's time ends and the next forced step starts, shortened by 10 %. -/
  | forcedStep
  /-- LOCKED_ROTOR (R316): No commutation event arrives within the limit, so the drive turns off and LOCKED is set. -/
  | lockedRotor
  /-- LOCK_RETRY (R316): After WAIT × 10 ms the start begins again from sensing. -/
  | lockRetry
  /-- START_TIMEOUT (R317): A start that misses AT_SPEED within SPIN_MAX, or a brake over 5 s, is a spindle fault. -/
  | startTimeout
  /-- COAST_END (R318): After one coasting electrical cycle, the spindle catches on the fly. -/
  | coastEnd
  /-- CATCH_TIMEOUT (R318): No catch within 50 ms of the loss forces a full restart and sets RESTART. -/
  | catchTimeout
  /-- SUPPLY_DROP (R319): A supply stays below its threshold for the filter time, which trips the power-loss sequence. -/
  | supplyDrop (v12 v5 core : Bool)
  /-- POWER_FAIL (R322): The digital die inhibits writes, stops fetching, turns off non-vault domains and writes the vault. -/
  | powerFail
  /-- VAULT_SEAL (R323): The save completes, the seal is written and the digital die holds itself in reset. -/
  | vaultSeal (ms mj : Nat)
  /-- VHOLD_LOST (R323): VHOLD fails before the save completes, so the save ends without a seal. -/
  | vholdLost
  /-- SUPPLY_GOOD (R320): An input rises above its threshold plus HYST. -/
  | supplyGood (v12 v5 : Bool)
  /-- VAULT_ARM (R324): The vault arms once all its conditions hold. -/
  | vaultArm
  /-- VAULT_UNHEALTHY (R425): The vault is unarmed for 5 s in an operational state at speed, so SMART bit 4 is set. -/
  | vaultUnhealthy
  /-- WRITE (R91): A Write to the conventional namespace goes to both copies; a zoned Write goes to the zone queue engine. -/
  | write (id : CmdId) (ns lba : Nat) (data : List Nat) (dtype : Nat) (marked : Bool) (t : Transfer)
  /-- WRITE_ACCEPT (R333): An in-order write whose data is in the buffer and has room is accepted: WP advances, is journalled, released and completed. -/
  | writeAccept (z : Nat) (id : CmdId) (onMedia : Bool)
  /-- HOLD_EXPIRED (R336): A held write whose wait reaches HOLD completes with Zone Invalid Write. -/
  | holdExpired (z : Nat) (id : CmdId)
  /-- JOURNAL_CHECKPOINT (R340): When the journal ring is three-quarters full, a new zone state image and a checkpoint mark are written. -/
  | journalCheckpoint
  /-- ZONE_APPEND (R337): A Zone Append is placed at the write pointer and accepted, returning its LBA. -/
  | zoneAppend (id : CmdId) (ns lba : Nat) (data : List Nat) (marked : Bool) (t : Transfer)
  /-- OPEN_ZONE (R330): Open Zone makes the zone Explicitly Opened if the counts allow. -/
  | openZone (id : CmdId) (ns lba : Nat) (all marked : Bool)
  /-- CLOSE_ZONE (R343): Close Zone makes an opened zone Closed, or Empty, keeping its held writes. -/
  | closeZone (id : CmdId) (ns lba : Nat) (all marked : Bool)
  /-- FINISH_ZONE (R341): Finish Zone records the finish point, writes the partial bolt and makes the zone Full. -/
  | finishZone (id : CmdId) (ns lba : Nat) (all marked : Bool)
  /-- RESET_ZONE (R342): Reset Zone drops unwritten data, withdraws requests, writes a reset record and makes the zone Empty. -/
  | resetZone (id : CmdId) (ns lba : Nat) (all marked : Bool)
  /-- OFFLINE_ZONE (R330): Offline Zone resets a Read Only zone to Offline and refuses other zones. -/
  | offlineZone (id : CmdId) (ns lba : Nat) (all marked : Bool)
  /-- SET_ZONE_DESCRIPTOR_EXTENSION (R332): The action completes with Invalid Field in Command. -/
  | setZoneDescriptorExtension (id : CmdId) (ns lba : Nat) (all marked : Bool)
  /-- REPORT_ZONES (R328): Zone Management Receive returns zone descriptors with their state codes. -/
  | reportZones (id : CmdId) (ns lba count : Nat) (part marked : Bool)
  /-- EXTENDED_REPORT_ZONES (R348): Zone Management Receive returns descriptors with their 64-byte extensions. -/
  | extendedReportZones (id : CmdId) (ns lba count : Nat) (part marked : Bool)
  /-- FELT_CHECKPOINT (R360): Every CKPT × 0.25 s each changed scratch slot's older half is written with its COVER header. -/
  | feltCheckpoint
  /-- GARBAGE_COLLECTION (R359): A surface's free log positions fall to START, and live records are copied out until STOP is reached. -/
  | garbageCollection (surface : Nat)
  /-- HEAD_HEALTH_UPDATE (R221): The firmware recomputes a head's health score at each penalty change and at least hourly. -/
  | headHealthUpdate (a : Act) (head : Nat)
  /-- AGING_COMPENSATION (R220): When the averaged trim reaches AGE_THR, SP_OP and the integral are shifted in one adaptation commit. -/
  | agingCompensation (a : Act) (head : Nat)
  /-- TEMPERATURE_FRAME (R235): A PA_NFT response arrives and the assist loop updates its trim. -/
  | temperatureFrame (a : Act) (nft : Nat)
  /-- TEMPERATURE_FRAME_LOST (R213): A frame that fails its CRC or does not return within 0.52 µs holds the trim; the third in a row is an assist fault. -/
  | temperatureFrameLost (a : Act)
  /-- ASSIST_ILIM_LIMIT (R214): SP_OP + trim at ILIM in 8 consecutive operating ticks is an assist fault of KIND 1. -/
  | assistIlimLimit (a : Act)
  /-- CONTROL_REQUEST (R234): The TNL block starts a control-lane transaction in priority order when it can end before the next phase 0. -/
  | controlRequest (a : Act)
  /-- CONTROL_RESPONSE (R232): A preamplifier response frame arrives and is checked, delivered or retried. -/
  | controlResponse (a : Act) (w : Wire) (o : Training)
  /-- RESPONSE_LOST (R233): A response that has not started within TIMEOUT bit times is lost and the transaction retried. -/
  | responseLost (a : Act) (o : Training)
  /-- FAULT_LINE (R240): A falling Tenil fault line sets a PREAMP inhibit, reads and clears PA_STATUS and restores the head settings. -/
  | faultLine (a : Act) (causes persist : Nat) (o : Training)
  /-- FAULT_LINE_STUCK (R240): A fault line low for 1 ms after a clear with PA_STATUS 0 is a link failure. -/
  | faultLineStuck (a : Act)
  /-- TNL_RETRAIN_GO (R244): Writing TNLn_RETRAIN.GO starts a retrain from step 2 of R241. -/
  | tnlRetrainGo (a : Act) (o : Training)
  /-- PA_ACC_GO (R244): Writing TNLn_PA_ACC.GO starts one pass-through preamplifier transaction. -/
  | paAccGo (a : Act) (w : Word)
  /-- CORRECTION_WRITE_BACK (R378): A corrected unit is written back within 100 ns if its stored bits are unchanged. -/
  | correctionWriteBack
  /-- FENCE_ADVANCE (R383): The zero-fill fence passes an address, and any write held above it proceeds. -/
  | fenceAdvance (mib : Nat)
  /-- FENCE_DONE (R383): The DRAM zero fill ends and DMC_FENCE.DONE becomes 1. -/
  | fenceDone
  /-- SCRUB_PASS (R384): The Pouncer scrubber reads every unit of the protected memories once per scrub period. -/
  | scrubPass (late : Bool) (mramCe : Nat) (mramUe : List Nat)
  /-- BUF_TEST_GO (R386): Writing BUF_TEST_CTL.GO XORs the masks into a buffer byte and its check bits. -/
  | bufTestGo (cal : Bool) (w : Word)
  /-- DMC_TEST_GO (R386): Writing DMC_TEST_CTL.GO injects errors into a DRAM granule quarter and its poison copies. -/
  | dmcTestGo (cal : Bool) (w : Word)
  /-- CROWN_READ (R397): A requester reads through the Crown cache, hitting, joining a fill or allocating a miss register. -/
  | crownRead (who : CrownUser) (addr len : Nat) (err : TagErr)
  /-- CROWN_WRITE (R400): A write updates a hit line and enters the Batt merging buffer, or waits if the buffer is full. -/
  | crownWrite (who : CrownUser) (addr : Nat) (data : List PByte) (err : TagErr)
  /-- FILL_GRANULE (R398): A fill granule arrives, requesters restart, and the line is installed once both granules have arrived. -/
  | fillGranule (line : Nat)
  /-- BATT_DRAIN (R402): A Batt entry drains to DRAM on a full mask, its age, high water, a fence, power fail or reset. -/
  | battDrain (line : Nat)
  /-- CROWN_FENCE (R403): A fence request completes once every earlier Batt entry has drained. -/
  | crownFence (who : CrownUser)
  /-- COHERENCE_REPORT (R406): The DRAM controller reports another master's write and the line is invalidated by address. -/
  | coherenceReport (line : Nat)
  /-- MAINT_INVALIDATE_LINE (R407): CRN_MAINT operation 1 invalidates the line at CRN_MAINT_ADDR in the cache and the Nap buffer. -/
  | maintInvalidateLine (set way : Nat)
  /-- MAINT_INVALIDATE_WAY (R407): CRN_MAINT operation 2 invalidates one set and way. -/
  | maintInvalidateWay (set way : Nat)
  /-- MAINT_INVALIDATE_ALL (R407): CRN_MAINT operation 3 invalidates every line and Nap entry. -/
  | maintInvalidateAll (set way : Nat)
  /-- MAINT_FENCE (R407): CRN_MAINT operation 4 runs a fence. -/
  | maintFence (set way : Nat)
  /-- MAINT_PREFETCH (R407): CRN_MAINT operation 5 prefetches a line into the Nap buffer. -/
  | maintPrefetch (set way : Nat)
  /-- MAINT_READ_TAG (R407): CRN_MAINT operation 6 reads a way's tag and the set's replacement word. -/
  | maintReadTag (set way : Nat)
  /-- READ (R418): A Read is dispatched to the media, buffer or zero fill and completes its blocks. -/
  | read (id : CmdId) (ns lba len : Nat) (limited marked : Bool) (first : Nat)
  /-- WRITE_ZEROES (R412): Write Zeroes acts as a write of zeros. -/
  | writeZeroes (id : CmdId) (ns lba len : Nat) (marked : Bool)
  /-- FLUSH (R421): Flush completes within 1 tick of its fetch. -/
  | flush (id : CmdId) (marked : Bool)
  /-- ABORT (R422): Abort completes reporting that the command was not aborted. -/
  | abort (id : CmdId)
  /-- DELETE_IO_SUBMISSION_QUEUE (R423): Deleting a submission queue completes or withdraws each of its commands, then completes. -/
  | deleteIoSubmissionQueue (id : CmdId) (qid : Nat)
  /-- DELETE_IO_COMPLETION_QUEUE (R423): Deleting a completion queue completes, or fails if submission queues are attached. -/
  | deleteIoCompletionQueue (id : CmdId) (qid : Nat)
  /-- CREATE_IO_SUBMISSION_QUEUE (R419): Creates an I/O submission queue, optionally ORDERED. -/
  | createIoSubmissionQueue (id : CmdId) (qid size cq : Nat) (ordered : Bool)
  /-- CREATE_IO_COMPLETION_QUEUE (R417): Creates an I/O completion queue. -/
  | createIoCompletionQueue (id : CmdId) (qid size : Nat)
  /-- GET_LOG_PAGE (R412): Returns a supported log page. -/
  | getLogPage (id : CmdId) (lid : Nat) (retain : Bool)
  /-- PEL_CONTEXT_ESTABLISH (R516): Log Specific Field 01b establishes a persistent event log context and freezes the records. -/
  | pelContextEstablish (id : CmdId)
  /-- PEL_CONTEXT_RELEASE (R516): Log Specific Field 10b releases the controller's persistent event log context. -/
  | pelContextRelease (id : CmdId)
  /-- IDENTIFY (R413): Returns the Identify data of the named CNS. -/
  | identify (id : CmdId) (cns ns csi : Nat)
  /-- ASYNCHRONOUS_EVENT_REQUEST (R412): Queues an Asynchronous Event Request, up to 8 outstanding. -/
  | asynchronousEventRequest (id : CmdId)
  /-- SET_ARBITRATION (R412): Set Features Arbitration sets the controller's value. -/
  | setArbitration (id : CmdId) (v : Nat)
  /-- SET_POWER_MANAGEMENT (R432): Set Features Power Management sets the controller's power state value. -/
  | setPowerManagement (id : CmdId) (ps : Nat)
  /-- SET_TEMPERATURE_THRESHOLD (R526): Set Features Temperature Threshold sets a sensor's over- or under-threshold, under the semaphore. -/
  | setTemperatureThreshold (id : CmdId) (sensor : Nat) (under : Bool) (kelvins : Nat)
  /-- SET_ERROR_RECOVERY (R420): Set Features Error Recovery sets the namespace TLER, checked against the floor. -/
  | setErrorRecovery (id : CmdId) (ns tler : Nat) (dulbe : Bool)
  /-- SET_VOLATILE_WRITE_CACHE (R421): Feature 0x06 completes with Invalid Field in Command. -/
  | setVolatileWriteCache (id : CmdId)
  /-- SET_NUMBER_OF_QUEUES (R417): Set Features Number of Queues sets the controller's queue count. -/
  | setNumberOfQueues (id : CmdId) (nsq ncq : Nat)
  /-- SET_INTERRUPT_COALESCING (R412): Sets the controller's interrupt coalescing. -/
  | setInterruptCoalescing (id : CmdId) (v : Nat)
  /-- SET_INTERRUPT_VECTOR_CONFIGURATION (R412): Sets the controller's interrupt vector configuration. -/
  | setInterruptVectorConfiguration (id : CmdId) (vector : Nat) (cd : Bool)
  /-- SET_WRITE_ATOMICITY_NORMAL (R412): Sets Write Atomicity Normal, with no effect. -/
  | setWriteAtomicityNormal (id : CmdId) (v : Nat)
  /-- SET_ASYNC_EVENT_CONFIGURATION (R412): Sets the controller's asynchronous event configuration. -/
  | setAsyncEventConfiguration (id : CmdId) (v : Nat)
  /-- SET_TIMESTAMP (R412): Sets the subsystem Timestamp, under the semaphore. -/
  | setTimestamp (id : CmdId) (ms : Nat)
  /-- GET_FEATURES (R412): Returns the value of a standard feature. -/
  | getFeatures (id : CmdId) (fid sel : Nat)
  /-- GET_ZONE_REORDER (R412): Vendor feature 0xC0 returns WINDOW and HOLD, or the guaranteed depth. -/
  | getZoneReorder (id : CmdId) (depth : Bool)
  /-- GET_ERROR_RECOVERY_VENDOR_DATA (R420): Vendor feature 0xC1 returns the plan encoding and the floor. -/
  | getErrorRecoveryVendorData (id : CmdId) (ns : Nat)
  /-- FIRMWARE_IMAGE_DOWNLOAD (R431): Takes one 4 KiB-aligned piece of a firmware image. -/
  | firmwareImageDownload (id : CmdId) (ofs : Nat) (bs : List Byte)
  /-- FIRMWARE_COMMIT_CA_000 (R431): Verifies and stores the image into the slot without changing the boot record. -/
  | firmwareCommitCa000 (id : CmdId) (fs : Nat) (sig : Bool) (e : StoreEnd)
  /-- FIRMWARE_COMMIT_CA_001 (R486): Stores the image and makes the slot pending for the next reset. -/
  | firmwareCommitCa001 (id : CmdId) (fs : Nat) (sig : Bool) (e : StoreEnd)
  /-- FIRMWARE_COMMIT_CA_010 (R486): Makes an already valid slot pending for the next reset. -/
  | firmwareCommitCa010 (id : CmdId) (fs : Nat) (sig : Bool)
  /-- FIRMWARE_COMMIT_CA_011 (R454): Stores the image and activates it without reset by planned handovers. -/
  | firmwareCommitCa011 (id : CmdId) (fs : Nat) (sig : Bool) (e : StoreEnd)
  /-- ACTIVATION_STEP (R454): Once a restarted complex resyncs, activation proceeds to its next planned handover. -/
  | activationStep
  /-- NAMESPACE_ATTACHMENT (R413): Completes with Namespace Already Attached or Invalid Field in Command. -/
  | namespaceAttachment (id : CmdId) (attach : Bool)
  /-- FORMAT_NVM (R428): Formats both namespaces under the semaphore: erase, felt layout commit, zone reset, end record. -/
  | formatNvm (id : CmdId) (lbaf ses : Nat) (layout : FormatLayout)
  /-- SANITIZE_EXIT_FAILURE_MODE (R429): Sanitize action 001b exits failure mode. -/
  | sanitizeExitFailureMode (id : CmdId)
  /-- SANITIZE_OVERWRITE (R429): Sanitize action 011b overwrites the bands, then crypto-erases and resets the zones. -/
  | sanitizeOverwrite (id : CmdId) (owpass : Nat) (ovrpat : Word) (oipbp ause fails : Bool)
  /-- SANITIZE_CRYPTO_ERASE (R429): Sanitize action 100b crypto-erases and resets the zones. -/
  | sanitizeCryptoErase (id : CmdId) (ause fails : Bool)
  /-- NVME_MI_SEND (R436): Carries an in-band NVMe-MI request. -/
  | nvmeMiSend (id : CmdId) (r : MiRequest)
  /-- NVME_MI_RECEIVE (R436): Returns an in-band NVMe-MI response. -/
  | nvmeMiReceive (id : CmdId)
  /-- MPI_SEND (R435): Vendor opcode 0xC1 carries one MPI packet. -/
  | mpiSend (id : CmdId) (ws : List Word) (o : MpiObs)
  /-- MPI_RECEIVE (R435): Vendor opcode 0xC2 returns the reply to the last MPI Send on this admin queue. -/
  | mpiReceive (id : CmdId) (len : Nat)
  /-- SEMAPHORE_CLAIM (R442): Vendor opcode 0xC4 claims the semaphore, completing when granted. -/
  | semaphoreClaim (id : CmdId)
  /-- SEMAPHORE_RELEASE (R444): Vendor opcode 0xC8 frees the semaphore if the sender holds it. -/
  | semaphoreRelease (id : CmdId)
  /-- SEMAPHORE_ABANDONED (R445): The 5 s abandonment timer expires and the semaphore is released. -/
  | semaphoreAbandoned
  /-- CONTROLLER_RESET (R426): CC.EN cleared, PERST# or a link-down resets one controller. -/
  | controllerReset (p : Port) (linkLost : Bool)
  /-- CC_EN_SET (R548): The host sets CC.EN, and CSTS.RDY becomes 1 once step 7 has ended. -/
  | ccEnSet (p : Port)
  /-- NORMAL_SHUTDOWN (R427): A normal shutdown notification flushes dirty data and writes a zone state image before SHST. -/
  | normalShutdown (p : Port)
  /-- ABRUPT_SHUTDOWN (R427): An abrupt shutdown notification stops fetching and sets SHST within 1 ms. -/
  | abruptShutdown (p : Port)
  /-- POWER_STATE_TRANSITION (R433): A new power state takes effect once no I/O is outstanding, and a command arriving during entry reverses it. -/
  | powerStateTransition
  /-- BASIC_MANAGEMENT_COMMAND (R436): Returns status flags, SMART warnings and temperature over SMBus. -/
  | basicManagementCommand (p : Port)
  /-- READ_NVME_MI_DATA_STRUCTURE (R436): Returns an NVMe-MI data structure. -/
  | readNvmeMiDataStructure (p : Port) (x : MiData)
  /-- NVM_SUBSYSTEM_HEALTH_STATUS_POLL (R436): Returns subsystem health from the SMART data. -/
  | nvmSubsystemHealthStatusPoll (p : Port)
  /-- CONTROLLER_HEALTH_STATUS_POLL (R436): Returns controller health from the SMART data. -/
  | controllerHealthStatusPoll (p : Port)
  /-- CONFIGURATION_GET (R436): Returns the SMBus frequency or MCTP unit size. -/
  | configurationGet (p : Port) (c : MiConfig)
  /-- CONFIGURATION_SET (R436): Sets the SMBus frequency or MCTP unit size. -/
  | configurationSet (p : Port) (c : MiConfig) (v : Nat)
  /-- VPD_READ (R436): Returns vital product data. -/
  | vpdRead (p : Port) (off len : Nat)
  /-- TUNNELLED_ADMIN_COMMAND (R436): Runs a tunnelled Identify, Get Log Page or Get Features. -/
  | tunnelledAdminCommand (p c : Port) (x : MiAdmin)
  /-- VENDOR_SPECIFIC_MESSAGE (R436): Carries one MPI packet and its reply over NVMe-MI. -/
  | vendorSpecificMessage (p : Port) (ws : List Word) (o : MpiObs)
  /-- MIRROR_RECORD (R446): A queue-state change is sent to the twin complex and applied in order. -/
  | mirrorRecord
  /-- MIRROR_ACK (R447): The twin acknowledges a mirror record, releasing the held host-visible step. -/
  | mirrorAck
  /-- COMPLEX_SYNC (R448): A complex that copied its twin's state reports SYNC 1, and may hand back its port. -/
  | complexSync (c : Cpx)
  /-- HEARTBEAT_TIMEOUT (R449): A complex heartbeat does not advance for 40 µs and the complex is declared faulty. -/
  | heartbeatTimeout (c : Cpx) (stall : Nat)
  /-- LOCKSTEP_MISMATCH (R449): A complex's lockstep core pair disagrees and the complex is declared faulty. -/
  | lockstepMismatch (c : Cpx) (stall : Nat)
  /-- CPX_TO_X (R455): Writing CPX_CTL.TO_X starts a planned handover of every port to X. -/
  | cpxToX (cal : Bool)
  /-- CPX_TO_Y (R455): Writing CPX_CTL.TO_Y starts a planned handover of every port to Y. -/
  | cpxToY (cal : Bool)
  /-- CPX_SEM_FREE (R455): Writing CPX_CTL.SEM_FREE releases the semaphore and empties its queue. -/
  | cpxSemFree (cal : Bool)
  /-- ECHO (R459): MPI ECHO returns the packet's TLVs. -/
  | echo (path : Path) (ws : List Word) (o : MpiObs)
  /-- GET_INFO (R459): MPI GET_INFO returns identity, capabilities, versions and SIZ_STATUS. -/
  | getInfo (path : Path) (ws : List Word) (o : MpiObs)
  /-- SEM_CLAIM (R443): MPI SEM_CLAIM claims the semaphore or returns SEMAPHORE_HELD. -/
  | semClaim (path : Path) (ws : List Word) (o : MpiObs)
  /-- SEM_RELEASE (R444): MPI SEM_RELEASE releases the semaphore. -/
  | semRelease (path : Path) (ws : List Word) (o : MpiObs)
  /-- SEM_STATUS (R441): MPI SEM_STATUS returns CPX_SEM. -/
  | semStatus (path : Path) (ws : List Word) (o : MpiObs)
  /-- JOB_STATUS (R468): MPI JOB_STATUS reports a job's progress and final status. -/
  | jobStatus (path : Path) (ws : List Word) (o : MpiObs)
  /-- JOB_ABORT (R468): MPI JOB_ABORT ends a job at its next safe point. -/
  | jobAbort (path : Path) (ws : List Word) (o : MpiObs)
  /-- JOB_STATUS_EXPIRED (R468): An unread final job status is discarded 60 s after the job ends. -/
  | jobStatusExpired (no : Nat)
  /-- REG_READ (R465): MPI REG_READ reads COUNT registers. -/
  | regRead (path : Path) (ws : List Word) (o : MpiObs)
  /-- REG_WRITE (R466): MPI REG_WRITE writes a register, with an optional read-merge-write mask. -/
  | regWrite (path : Path) (ws : List Word) (o : MpiObs)
  /-- REG_WRITE_BATCH (R466): MPI REG_WRITE_BATCH writes up to 1,024 items in order. -/
  | regWriteBatch (path : Path) (ws : List Word) (o : MpiObs)
  /-- REG_POLL (R465): MPI REG_POLL polls a register until it matches or TIME passes. -/
  | regPoll (path : Path) (ws : List Word) (o : MpiObs)
  /-- MEM_READ (R465): MPI MEM_READ returns bytes from a space, with a poison map. -/
  | memRead (path : Path) (ws : List Word) (o : MpiObs)
  /-- MEM_WRITE (R471): MPI MEM_WRITE writes DRAM or buffer SRAM, in safe mode only. -/
  | memWrite (path : Path) (ws : List Word) (o : MpiObs)
  /-- CFG_COMMIT (R53): MPI CFG_COMMIT commits the configuration set. -/
  | cfgCommit (path : Path) (ws : List Word) (o : MpiObs)
  /-- CFG_DISCARD (R57): MPI CFG_DISCARD discards the configuration set. -/
  | cfgDiscard (path : Path) (ws : List Word) (o : MpiObs)
  /-- CFG_STATUS (R53): MPI CFG_STATUS returns SIZ_STATUS and the Sizer results. -/
  | cfgStatus (path : Path) (ws : List Word) (o : MpiObs)
  /-- SIZER_CHECK (R58): MPI SIZER_CHECK runs the proof over the committed image overlaid with the set, applying nothing. -/
  | sizerCheck (path : Path) (ws : List Word) (o : MpiObs)
  /-- TABLE_WRITE (R470): MPI TABLE_WRITE stages profile-table bytes, recomputing the table's CRC. -/
  | tableWrite (path : Path) (ws : List Word) (o : MpiObs)
  /-- TABLE_READ (R43): MPI TABLE_READ returns committed profile-table bytes. -/
  | tableRead (path : Path) (ws : List Word) (o : MpiObs)
  /-- CST_WRITE (R128): MPI CST_WRITE stages control-store words. -/
  | cstWrite (path : Path) (ws : List Word) (o : MpiObs)
  /-- PROFILE_LOAD (R469): MPI PROFILE_LOAD verifies an image, executes its packets and commits. -/
  | profileLoad (path : Path) (ws : List Word) (o : MpiObs)
  /-- PROFILE_SECTION (R470): MPI PROFILE_SECTION makes the following packets apply only to the variants in the mask. -/
  | profileSection (path : Path) (ws : List Word) (o : MpiObs)
  /-- PROFILE_DOWNLOAD (R469): MPI PROFILE_DOWNLOAD takes one piece of a profile image. -/
  | profileDownload (path : Path) (ws : List Word) (o : MpiObs)
  /-- PROFILE_STORE (R487): MPI PROFILE_STORE stores a profile image into a slot under an erase ticket. -/
  | profileStore (path : Path) (ws : List Word) (o : MpiObs)
  /-- PROFILE_SELECT (R486): MPI PROFILE_SELECT sets PROF_SEL for the next start-up. -/
  | profileSelect (path : Path) (ws : List Word) (o : MpiObs)
  /-- CAL_REG_WRITE (R467): MPI CAL_REG_WRITE writes a register, including calibration-only fields. -/
  | calRegWrite (path : Path) (ws : List Word) (o : MpiObs)
  /-- SPINDLE_RUN (R314): MPI SPINDLE_RUN starts or stops the spindle as a job. -/
  | spindleRun (path : Path) (ws : List Word) (o : MpiObs)
  /-- HEAD_LOAD (R297): MPI HEAD_LOAD loads or unloads a head as a job. -/
  | headLoad (path : Path) (ws : List Word) (o : MpiObs)
  /-- SEEK (R283): MPI SEEK moves a head to a servo track. -/
  | seek (path : Path) (ws : List Word) (o : MpiObs)
  /-- INJECT (R275): MPI INJECT writes the injection registers. -/
  | inject (path : Path) (ws : List Word) (o : MpiObs)
  /-- CAPTURE_ARM (R278): MPI CAPTURE_ARM writes the capture control, select and trigger registers. -/
  | captureArm (path : Path) (ws : List Word) (o : MpiObs)
  /-- CAPTURE_READ (R278): MPI CAPTURE_READ returns capture samples. -/
  | captureRead (path : Path) (ws : List Word) (o : MpiObs)
  /-- PREAMP_ACCESS (R244): MPI PREAMP_ACCESS runs one pass-through preamplifier transaction. -/
  | preampAccess (path : Path) (ws : List Word) (o : MpiObs)
  /-- LINK_RETRAIN (R242): MPI LINK_RETRAIN retrains a Tenil link. -/
  | linkRetrain (path : Path) (ws : List Word) (o : MpiObs)
  /-- READER_CLEAR (R158): MPI READER_CLEAR clears lane or reader failure bits. -/
  | readerClear (path : Path) (ws : List Word) (o : MpiObs)
  /-- ASSIST_RECAL (R219): MPI ASSIST_RECAL recalibrates a head's SP_OP as a job. -/
  | assistRecal (path : Path) (ws : List Word) (o : MpiObs)
  /-- ECC_INJECT (R386): MPI ECC_INJECT writes a TEST_CTL word to inject an error. -/
  | eccInject (path : Path) (ws : List Word) (o : MpiObs)
  /-- HANDOVER (R453): MPI HANDOVER moves ports to X or Y, or frees the semaphore. -/
  | handover (path : Path) (ws : List Word) (o : MpiObs)
  /-- TRACK_READ (R471): MPI TRACK_READ reads one record and returns its bytes and decode status. -/
  | trackRead (path : Path) (ws : List Word) (o : MpiObs)
  /-- TRACK_SCAN (R471): MPI TRACK_SCAN scans tracks as a job and returns a decode-status summary per track. -/
  | trackScan (path : Path) (ws : List Word) (o : MpiObs)
  /-- REPLAY_READ (R175): MPI REPLAY_READ returns raw replay samples. -/
  | replayRead (path : Path) (ws : List Word) (o : MpiObs)
  /-- LBA_TO_PHYS (R88): MPI LBA_TO_PHYS maps an LBA to its band, surface, track, slot and wedge. -/
  | lbaToPhys (path : Path) (ws : List Word) (o : MpiObs)
  /-- DEFECT_READ (R85): MPI DEFECT_READ returns a band's slip, pending or reassignment entries. -/
  | defectRead (path : Path) (ws : List Word) (o : MpiObs)
  /-- DEFECT_PEND (R86): MPI DEFECT_PEND adds a pending slip at a position. -/
  | defectPend (path : Path) (ws : List Word) (o : MpiObs)
  /-- HEAD_FAIL (R367): MPI HEAD_FAIL declares a head failing as a job. -/
  | headFail (path : Path) (ws : List Word) (o : MpiObs)
  /-- RECON_READ (R364): MPI RECON_READ rebuilds a bolt at rung 7 and returns it. -/
  | reconRead (path : Path) (ws : List Word) (o : MpiObs)
  /-- HATBAND_READ (R511): MPI HATBAND_READ returns records with HBR_SEQ before and after. -/
  | hatbandRead (path : Path) (ws : List Word) (o : MpiObs)
  /-- HATBAND_CLEAR (R513): MPI HATBAND_CLEAR zeroes every record and writes CLEARED, unless a frozen range exists. -/
  | hatbandClear (path : Path) (ws : List Word) (o : MpiObs)
  /-- HATBAND_ARCHIVE (R514): MPI HATBAND_ARCHIVE compresses the frozen records into DRAM as a job. -/
  | hatbandArchive (path : Path) (ws : List Word) (o : MpiObs)
  /-- COUNTERS (R465): MPI COUNTERS reads every counter of a block once, clearing RC fields. -/
  | counters (path : Path) (ws : List Word) (o : MpiObs)
  /-- HEAD_HEALTH (R221): MPI HEAD_HEALTH returns a head's log page 0xC1 entry. -/
  | headHealth (path : Path) (ws : List Word) (o : MpiObs)
  /-- FELT_LOG (R367): MPI FELT_LOG returns felt event records. -/
  | feltLog (path : Path) (ws : List Word) (o : MpiObs)
  /-- VAULT_INFO (R493): MPI VAULT_INFO returns log page 0xC2. -/
  | vaultInfo (path : Path) (ws : List Word) (o : MpiObs)
  /-- NV_READ (R478): MPI NV_READ returns MRAM, flash or option-area bytes, refusing a busy bank. -/
  | nvRead (path : Path) (ws : List Word) (o : MpiObs)
  /-- OPTION_WRITE (R483): MPI OPTION_WRITE checks a copy and writes it over the copy not loaded. -/
  | optionWrite (path : Path) (ws : List Word) (o : MpiObs)
  /-- SLOT_INFO (R486): MPI SLOT_INFO returns state, version and check value of each slot. -/
  | slotInfo (path : Path) (ws : List Word) (o : MpiObs)
  /-- FW_DOWNLOAD (R431): MPI FW_DOWNLOAD takes one piece of a firmware image. -/
  | fwDownload (path : Path) (ws : List Word) (o : MpiObs)
  /-- FW_COMMIT (R486): MPI FW_COMMIT commits a firmware slot with a commit action as a job. -/
  | fwCommit (path : Path) (ws : List Word) (o : MpiObs)
  /-- FULLER_JOB (R505): MPI FULLER_JOB runs a compress or decompress job into DRAM. -/
  | fullerJob (path : Path) (ws : List Word) (o : MpiObs)
  /-- MIRROR_VERSION (R464): Twin packet returning the mirror version and versions readable. -/
  | mirrorVersion (path : Path) (ws : List Word) (o : MpiObs)
  /-- HANDOVER_REQ (R464): Twin packet requesting a handover of the ports in the mask. -/
  | handoverReq (path : Path) (ws : List Word) (o : MpiObs)
  /-- HANDOVER_DONE (R464): Twin packet reporting a handover of the ports in the mask done. -/
  | handoverDone (path : Path) (ws : List Word) (o : MpiObs)
  /-- HEARTBEAT (R464): Twin packet returning the heartbeat count. -/
  | heartbeat (path : Path) (ws : List Word) (o : MpiObs)
  /-- UART_GAP_TIMEOUT (R462): A gap of more than 10 ms inside a UART frame discards the frame without a reply. -/
  | uartGapTimeout
  /-- FLASH_KEY (R476): A write to NVC_FLb_KEY advances or ends the unlock sequence. -/
  | flashKey (bank : Nat) (w : Word)
  /-- FLASH_PROGRAM (R477): The PROGRAM command, started by the DATA_7 write, programs one 32-byte word. -/
  | flashProgram (bank : Nat) (w : Word)
  /-- FLASH_ERASE (R477): The ERASE command, started by the ADDR write, erases one sector. -/
  | flashErase (bank : Nat) (w : Word)
  /-- FLASH_SUSPEND (R480): SUSPEND pauses a running erase, making the bank readable. -/
  | flashSuspend (bank : Nat)
  /-- FLASH_RESUME (R480): RESUME continues a suspended erase. -/
  | flashResume (bank : Nat)
  /-- FLASH_CLEAR (R476): CLEAR sets ERR to 0. -/
  | flashClear (bank : Nat)
  /-- PROGRAM_DONE (R477): A program ends and the word is verified. -/
  | programDone (bank : Nat) (ok : Bool)
  /-- ERASE_DONE (R477): An erase ends and the sector is verified. -/
  | eraseDone (bank : Nat) (ok : Bool)
  /-- SUSPEND_HOLD_RELEASE (R481): A held SUSPEND takes effect once the erase has run 1 ms after a RESUME. -/
  | suspendHoldRelease (bank : Nat)
  /-- FLASH_BUS_FAULT (R478): A read of a busy bank or suspended sector returns poisoned zeros and latches NVC_FL_FAULT. -/
  | flashBusFault (core : Option (Fin 4)) (addr : Nat)
  /-- COMPRESS_JOB (R500): A submitted compress job cuts its input into blocks and writes a stream, or ends without one. -/
  | compressJob (codings : List (List Byte))
  /-- DECOMPRESS_JOB (R502): A submitted decompress job decodes and checks a stream into its output. -/
  | decompressJob
  /-- FUL_FLUSH (R503): Writing FUL_CTL.FLUSH ends the running compress job's current block. -/
  | fulFlush (consumed : Nat)
  /-- HATBAND_EVENT (R508): An event reaches the recorder and is written, coalesced or lost. -/
  | hatbandEvent (code : Nat) (block : Block) (arg0 arg1 : Nat)
  /-- HBR_CURSOR_WRITE (R511): Writing HBR_CURSOR.INDEX latches that record into the window registers. -/
  | hbrCursorWrite (w : Word)
  /-- HBR_WIN_7_READ (R511): Reading HBR_WIN_7 with AUTOINC latches the next record. -/
  | hbrWin7Read (who : Requester)
  /-- DOMAIN_ON (R524): The PDM ramps a domain, sweeps its memories, loads committed values and sends its ready notice. -/
  | domainOn (dom : Nat) (train : Training)
  /-- DOMAIN_OFF (R524): The PDM quiesces a unit, marks it resetting, isolates and removes power. -/
  | domainOff (dom : Nat) (done : Bool)
  /-- THERMAL_SAMPLE (R525): Every 10 ms the sensors are sampled and the throttle level and warnings updated. -/
  | thermalSample (t0 t1 t2 t3 t4 : Int)
  /-- THROTTLE_LEVEL_FALL (R527): After 10 s 5 °C below the current level's limit, the level falls by one. -/
  | throttleLevelFall
  /-- THERMAL_HOLD_END (R527): After 60 s with every sensor below its Warn limit, the thermal hold ends. -/
  | thermalHoldEnd
  /-- FAULT (R530): A fault reaches the fault manager, which counts it and orders a recovery. -/
  | fault (ext : Option (FUnit × Nat)) (stall : Nat)
  /-- CORE_WATCHDOG (R536): A core watchdog expires without service. -/
  | coreWatchdog (n : Fin 4)
  /-- COMPLEX_WATCHDOG (R536): A complex watchdog expires after 30 µs without service. -/
  | complexWatchdog (c : Cpx) (stall : Nat)
  /-- BLOCKER_WATCHDOG (R536): A Blocker watchdog expires after BLK revolutions without progress. -/
  | blockerWatchdog (a : Act)
  /-- MODULE_WATCHDOG (R536): The module watchdog expires and the power die retracts with cause 3. -/
  | moduleWatchdog
  /-- FMG_KICK (R536): Writing FMG_KICK.MOD services the module watchdog. -/
  | fmgKick
  /-- POWER_GOOD (R542): All four converter outputs are in regulation and start-up begins. -/
  | powerGood (pins : Nat) (portOff : Bool)
  /-- OPTION_AREA_LOAD (R543): Step 2 loads the option area, latches straps, locks the PLLs and handles open erase tickets. -/
  | optionAreaLoad (edges : Bool)
  /-- CLOCK_SOURCE_TIMEOUT (R543): A clock source with no edges for 1 ms makes the device use the other source. -/
  | clockSourceTimeout (other : Bool)
  /-- FIRMWARE_VERIFY (R544): Step 3 chooses a firmware slot and verifies its header and signature. -/
  | firmwareVerify (sigA sigB : Bool)
  /-- FIRMWARE_DECOMPRESS (R544): Step 4 sweeps SRAM and decompresses the firmware, or returns to step 3 with the other slot. -/
  | firmwareDecompress
  /-- DRAM_TRAINING (R546): Step 5 trains each DRAM channel up to twice and starts the zero fill. -/
  | dramTraining (c0 c1 : Bool)
  /-- PROFILE_ADMISSION (R547): Step 6 loads and admits the profile under holder 6 and trains the Tenil links. -/
  | profileAdmission (sig0 sig1 : Bool) (decl0 decl1 : ProfileDecl) (o : FabricObs) (train0 train1 : Training)
  /-- CONTROLLERS_READY (R548): Step 7 makes the controllers ready and sets NESTED to 0. -/
  | controllersReady
  /-- SPIN_UP (R549): Step 8 starts the spindle once supplies and temperature allow. -/
  | spinUp
  /-- HEAD_LOAD_CALIBRATION (R550): Step 9 calibrates back-EMF, loads each actuator and checks every head and runout table. -/
  | headLoadCalibration (emf0 emf1 : Word) (bad0 bad1 : List Nat)
  /-- STATE_RESTORE (R552): Step 10 loads the system area, replays the journal, restores the vault and resumes format or sanitize. -/
  | stateRestore (o : RestoreObs)
  /-- NAMESPACES_READY (R553): Step 11 makes the namespaces ready and I/O is served. -/
  | namespacesReady
  /-- PERST_DEASSERT (R545): PERST# deasserts and the port trains its link once step 2 has ended. -/
  | perstDeassert (p : Port)
  /-- PWRDIS (R577): PWRDIS held high for 5 µs acts as a supply drop of both inputs. -/
  | pwrdis
  /-- FAULT_LINE_RELEASE (R240): The Tenil fault line TNx_FLT_N returns high while PA_STATUS reads 0, and the PREAMP write inhibit ends. -/
  | faultLineRelease (a : Act)
  /-- SUPPLIES_GOOD_100_MS (R576): Both inputs have stayed good, and both PWRDIS balls low, for 100 ms, so the power die starts the power-up sequence again. -/
  | suppliesGood100Ms
  /-- HOLDER_BUS_IDLE (R445): No traffic arrives on the bus of a semaphore holder 3 to 5 for 5 s, so the abandonment timer starts and the path's queued requests are withdrawn. -/
  | holderBusIdle (holder : Nat)
  /-- READY_LIMIT_EXPIRED (R529): A unit does not send its ready notice within its ready limit, which is a fault for the fault manager. -/
  | readyLimitExpired (u : UnitId)
  /-- CLOCK_SOURCE_RETRY (R543): While neither clock source gives edges in step 2, the device retries the clock sources every 100 ms. -/
  | clockSourceRetry (chosen other : Bool)
  /-- SPINDLE_STOPPED (R308): A coasting or stopping spindle comes to rest, so SPN_STATUS.STATE becomes stopped and the rotation clock source can become stopped. -/
  | spindleStopped
  /-- MOTOR_OUTPUT_SHORT (R572): A short on a spindle, VCM or microactuator output turns that output off within 2 µs and raises a fault of the unit. -/
  | motorOutputShort (output : Nat)
deriving DecidableEq, Repr

end Sys2Proof
end

