-- ==== Sys2Proof/Config.lean ====
section
/-! DEFINITION. What the manual leaves open: the free values. Each is a constant with no body, applied to the values it
may depend on or to the free-value counter of the state, so no proof can see what it is. -/

namespace Sys2Proof.Config

/-- A fresh value for each count, where the manual gives an effect and leaves the value open. -/
opaque freeNat : Nat → Nat

end Sys2Proof.Config
end

