-- ==== Sys2Proof/Machine/Operands.lean ====
section
/-! DEFINITION. Operand forms: the fields of a register (Table 00.3), sparse maps with a default value, and the
small field and sign helpers that every meaning uses. -/

namespace Sys2Proof.Machine

/-- A field FIELD[hi:lo] of the register at an address. -/
structure Fld where
  addr : Nat
  hi : Nat
  lo : Nat
deriving DecidableEq, Repr

/-- The same field of actuator `a`'s copy of the register, `stride` bytes apart. -/
def Fld.at (f : Fld) (stride : Nat) (a : Act) : Fld := { f with addr := f.addr + stride * a.idx }

/-- The same field in actuator `a`'s 64 KiB window (Table 01.10). -/
def Fld.on (f : Fld) (a : Act) : Fld := f.at 0x10000 a

/-- The same field of entry `n` of a register array whose entries lie four bytes apart. -/
def Fld.nth (f : Fld) (n : Nat) : Fld := { f with addr := f.addr + 4 * n }

/-- The width of a field in bits. -/
def Fld.width (f : Fld) : Nat := f.hi + 1 - f.lo

/-- The value of bits [hi:lo] of a word, right-aligned. -/
def bits (w : Word) (hi lo : Nat) : Nat := (w.toNat >>> lo) % 2 ^ (hi + 1 - lo)

/-- The mask of bits [hi:lo]. -/
def bitMask (hi lo : Nat) : Word := BitVec.ofNat 32 ((2 ^ (hi + 1 - lo) - 1) <<< lo)

/-- The word with bits [hi:lo] replaced by the low bits of `v`. -/
def withBits (w : Word) (hi lo v : Nat) : Word :=
  (w &&& ~~~bitMask hi lo) ||| BitVec.ofNat 32 ((v % 2 ^ (hi + 1 - lo)) <<< lo)

/-- Two's-complement reading of the low `n` bits of `v`. -/
def signed (n v : Nat) : Int :=
  let m := v % 2 ^ n
  if m < 2 ^ (n - 1) then (m : Int) else (m : Int) - 2 ^ n

/-- The low `n` bits of the two's-complement form of `i`. -/
def unsigned (n : Nat) (i : Int) : Nat := (i % (2 ^ n : Int)).toNat

/-- A count that stops at `lim` (the counters that saturate). -/
def satAdd (lim a b : Nat) : Nat := Nat.min lim (a + b)

/-- 1 for true, as flag bits hold it. -/
def flag (b : Bool) : Nat := if b then 1 else 0

/-- The access types of Table 00.3. -/
inductive Acc where
  | ro | rw | rwt | rws | w1c | wo | rc
deriving DecidableEq, Repr

/-- The fixed legal values of a field (R46, R581). -/
inductive Legal where
  | any
  | range (lo hi : Nat)
deriving DecidableEq, Repr

/-- When a register's writes are honoured (R106, R126, R127, R158, R244, R279, R326, R386, R455, R479, R481, R541). -/
inductive Guard where
  /-- always -/
  | always
  /-- only in safe mode or through the calibration packets -/
  | calOrSafe
  /-- only through the calibration packets -/
  | calOnly
  /-- only through CAL_REG_WRITE, for the one field so marked -/
  | calOnlyStrict
  /-- only in safe mode -/
  | safeOnly
  /-- only in safe mode or with debug enabled -/
  | safeOrDebug
  /-- only while CSTn_CTL.RAW is 1 -/
  | rawOnly
deriving DecidableEq, Repr

/-- One field of a register row: its bits, access type, legal values and agreement group (0 none). -/
structure RegField where
  hi : Nat
  lo : Nat
  acc : Acc
  legal : Legal
  group : Nat
deriving DecidableEq, Repr

/-- One register, or an array of `count` registers `stride` bytes apart, repeated at `perAct` for the second actuator
(0 when there is one). -/
structure RegRow where
  addr : Nat
  count : Nat
  stride : Nat
  perAct : Nat
  guard : Guard
  fields : List RegField
deriving DecidableEq, Repr

/-- Whether an offset names an entry of the row's array. -/
def RegRow.hasOffset (r : RegRow) (off : Nat) : Bool :=
  off % r.stride == 0 && decide (off / r.stride < r.count)

/-- Whether the row occupies an address. -/
def RegRow.covers (r : RegRow) (addr : Nat) : Bool :=
  (decide (r.addr ≤ addr) && r.hasOffset (addr - r.addr)) ||
  (decide (r.perAct ≠ 0) && decide (r.addr + r.perAct ≤ addr) && r.hasOffset (addr - (r.addr + r.perAct)))

/-- The value of a sparse map at a key: the listed value, or the default. -/
def sget {α : Type} (dflt : α) : List (Nat × α) → Nat → α
  | [], _ => dflt
  | (k, v) :: m, a => if a = k then v else sget dflt m a

/-- The sparse map with the value at one key replaced, in the canonical form: keys rising, no entry equal to the
default. -/
def sset {α : Type} [DecidableEq α] (dflt : α) : List (Nat × α) → Nat → α → List (Nat × α)
  | [], a, v => if v = dflt then [] else [(a, v)]
  | (k, w) :: m, a, v =>
    if a < k then (if v = dflt then (k, w) :: m else (a, v) :: (k, w) :: m)
    else if a = k then (if v = dflt then m else (a, v) :: m)
    else (k, w) :: sset dflt m a v

/-- The canonical form of a sparse map above a bound: keys rise strictly and no entry holds the default. -/
def swfFrom {α : Type} [DecidableEq α] (dflt : α) : Nat → List (Nat × α) → Bool
  | _, [] => true
  | b, (k, v) :: m => decide (b ≤ k) && decide (v ≠ dflt) && swfFrom dflt (k + 1) m

/-- The canonical form of a sparse map. -/
def swf {α : Type} [DecidableEq α] (dflt : α) (m : List (Nat × α)) : Bool := swfFrom dflt 0 m

/-- Every key of a range set to one value, the lowest first. -/
def sfill {α : Type} [DecidableEq α] (dflt : α) (m : List (Nat × α)) (a : Nat) (v : α) : Nat → List (Nat × α)
  | 0 => m
  | n + 1 => sfill dflt (sset dflt m a v) (a + 1) v n

/-- Consecutive keys set to the values of a list. -/
def ssetList {α : Type} [DecidableEq α] (dflt : α) (m : List (Nat × α)) (a : Nat) : List α → List (Nat × α)
  | [] => m
  | v :: vs => ssetList dflt (sset dflt m a v) (a + 1) vs

/-- The values at `n` consecutive keys. -/
def sgetList {α : Type} (dflt : α) (m : List (Nat × α)) (a : Nat) : Nat → List α
  | 0 => []
  | n + 1 => sget dflt m a :: sgetList dflt m (a + 1) n

/-- Four bytes, least significant first, as one word. -/
def wordOfBytes (b0 b1 b2 b3 : Byte) : Word := b3 ++ b2 ++ b1 ++ b0

/-- The little-endian number that a list of bytes spells. -/
def natOfBytes : List Byte → Nat
  | [] => 0
  | b :: bs => b.toNat + 256 * natOfBytes bs

/-- The low `n` bytes of a number, least significant first. -/
def bytesOfNat : Nat → Nat → List Byte
  | 0, _ => []
  | n + 1, v => BitVec.ofNat 8 v :: bytesOfNat n (v / 256)

/-- Replace the element at an index (nothing when the index is out of range). -/
def setNth {α : Type} (l : List α) (n : Nat) (v : α) : List α := l.set n v

/-- Table 03.5's and other tables' bit test on a number. -/
def testBit (v n : Nat) : Bool := decide ((v >>> n) % 2 = 1)

end Sys2Proof.Machine
end

