-- ==== Sys2Proof/Machine/RegMap.lean ====
section
/-! DEFINITION. The register map: every register of the register tables (Tables 01.7, 01.8, 02.5, 04.9, 04.10 and the
register tables of the other chapters), its address, its fields with access type, legal values and agreement group,
and the reset values the tables give. -/

namespace Sys2Proof.Machine


/- Registers of R16, R38, Tables 01.7 and 01.8. -/
def Reg.TICK_NOW_LO : Nat := 0x10000
def Reg.TICK_NOW_LO_NOW_LO : Fld := ⟨0x10000, 31, 0⟩
def Reg.TICK_NOW_HI : Nat := 0x10004
def Reg.TICK_NOW_HI_NOW_HI : Fld := ⟨0x10004, 15, 0⟩
def Reg.TICK_STATUS : Nat := 0x10008
def Reg.TICK_STATUS_MISSED : Fld := ⟨0x10008, 11, 8⟩
def Reg.TICK_STATUS_MASTER_HEAD : Fld := ⟨0x10008, 7, 4⟩
def Reg.TICK_STATUS_MASTER_ACT : Fld := ⟨0x10008, 2, 2⟩
def Reg.TICK_STATUS_SRC : Fld := ⟨0x10008, 1, 0⟩
def Reg.TICK_CFG : Nat := 0x1000C
def Reg.TICK_CFG_WEDGES : Fld := ⟨0x1000C, 9, 0⟩
def Reg.TICK_OVR : Nat := 0x10010
def Reg.TICK_OVR_UNITS : Fld := ⟨0x10010, 7, 0⟩
def Reg.TICK_OVR_CNT : Nat := 0x10014
def Reg.TICK_OVR_CNT_COUNT : Fld := ⟨0x10014, 15, 0⟩
def Reg.TICK_EVENT : Nat := 0x10018
def Reg.TICK_EVENT_LATE_LAUNCH : Fld := ⟨0x10018, 4, 4⟩
def Reg.TICK_EVENT_FLYWHEEL_LIMIT : Fld := ⟨0x10018, 3, 3⟩
def Reg.TICK_EVENT_COARSE_ENTRY : Fld := ⟨0x10018, 2, 2⟩
def Reg.TICK_EVENT_HANDOVER : Fld := ⟨0x10018, 1, 1⟩
def Reg.TICK_EVENT_STEP : Fld := ⟨0x10018, 0, 0⟩
def Reg.TICK_PERIOD : Nat := 0x1001C
def Reg.TICK_PERIOD_PERIOD_NS : Fld := ⟨0x1001C, 15, 0⟩
def Reg.TICK_SKEW : Nat := 0x10100
def Reg.TICK_SKEW_SKEW : Fld := ⟨0x10100, 15, 0⟩
def Reg.SYS_ID : Nat := 0x0
def Reg.SYS_ID_PART : Fld := ⟨0x0, 15, 0⟩
def Reg.SYS_REV : Nat := 0x4
def Reg.SYS_REV_PWR_REV : Fld := ⟨0x4, 31, 24⟩
def Reg.SYS_REV_NVD_REV : Fld := ⟨0x4, 23, 16⟩
def Reg.SYS_REV_CHD_REV : Fld := ⟨0x4, 15, 8⟩
def Reg.SYS_REV_DIG_REV : Fld := ⟨0x4, 7, 0⟩
def Reg.SYS_CAPS : Nat := 0x8
def Reg.SYS_CAPS_MAX_SURF : Fld := ⟨0x8, 25, 20⟩
def Reg.SYS_CAPS_MAX_HEADS : Fld := ⟨0x8, 19, 16⟩
def Reg.SYS_CAPS_VARIANT : Fld := ⟨0x8, 10, 8⟩
def Reg.SYS_CAPS_SEC : Fld := ⟨0x8, 7, 7⟩
def Reg.SYS_CAPS_FELT : Fld := ⟨0x8, 6, 6⟩
def Reg.SYS_CAPS_PORTB : Fld := ⟨0x8, 5, 5⟩
def Reg.SYS_CAPS_PORTA : Fld := ⟨0x8, 4, 4⟩
def Reg.SYS_CAPS_ASSIST1 : Fld := ⟨0x8, 3, 3⟩
def Reg.SYS_CAPS_ASSIST0 : Fld := ⟨0x8, 2, 2⟩
def Reg.SYS_CAPS_ACT1 : Fld := ⟨0x8, 1, 1⟩
def Reg.SYS_CAPS_ACT0 : Fld := ⟨0x8, 0, 0⟩

/- Registers of Table 02.5. -/
def Reg.SIZ_CTL : Nat := 0x20000
def Reg.SIZ_CTL_DISCARD : Fld := ⟨0x20000, 1, 1⟩
def Reg.SIZ_CTL_COMMIT : Fld := ⟨0x20000, 0, 0⟩
def Reg.SIZ_STATUS : Nat := 0x20004
def Reg.SIZ_STATUS_LAST_STATUS : Fld := ⟨0x20004, 15, 8⟩
def Reg.SIZ_STATUS_DROPPED : Fld := ⟨0x20004, 3, 3⟩
def Reg.SIZ_STATUS_PENDING : Fld := ⟨0x20004, 2, 2⟩
def Reg.SIZ_STATUS_BUSY : Fld := ⟨0x20004, 1, 1⟩
def Reg.SIZ_STATUS_SAFE : Fld := ⟨0x20004, 0, 0⟩
def Reg.SIZ_RESULT : Nat := 0x20008
def Reg.SIZ_RESULT_GROUP : Fld := ⟨0x20008, 15, 8⟩
def Reg.SIZ_RESULT_CHECK : Fld := ⟨0x20008, 7, 0⟩
def Reg.SIZ_MARGIN : Nat := 0x2000C
def Reg.SIZ_MARGIN_MIN_SLACK : Fld := ⟨0x2000C, 17, 0⟩
def Reg.SIZ_FLOOR : Nat := 0x20010
def Reg.SIZ_FLOOR_FLOOR_100MS : Fld := ⟨0x20010, 31, 24⟩
def Reg.SIZ_FLOOR_FLOOR_TICKS : Fld := ⟨0x20010, 23, 0⟩
def Reg.SIZ_TRIM_CNT : Nat := 0x20014
def Reg.SIZ_TRIM_CNT_OVERFLOW : Fld := ⟨0x20014, 16, 16⟩
def Reg.SIZ_TRIM_CNT_COUNT : Fld := ⟨0x20014, 8, 0⟩
def Reg.SIZ_TRIM_CUR : Nat := 0x20018
def Reg.SIZ_TRIM_CUR_INDEX : Fld := ⟨0x20018, 7, 0⟩
def Reg.SIZ_TRIM_W : Nat := 0x20020
def Reg.SIZ_TRIM_W_WORD : Fld := ⟨0x20020, 31, 0⟩
def Reg.SIZ_DRAM_DECL : Nat := 0x20030
def Reg.SIZ_DRAM_DECL_MIB : Fld := ⟨0x20030, 15, 0⟩
def Reg.SIZ_KE : Nat := 0x20034
def Reg.SIZ_KE_E : Fld := ⟨0x20034, 15, 0⟩

/- Registers of R126, R127. -/
def Reg.BLK_CTL : Nat := 0x100000
def Reg.BLK_CTL_STEP : Fld := ⟨0x100000, 2, 2⟩
def Reg.BLK_CTL_RESUME : Fld := ⟨0x100000, 1, 1⟩
def Reg.BLK_CTL_HALT : Fld := ⟨0x100000, 0, 0⟩
def Reg.BLK_STATUS : Nat := 0x100004
def Reg.BLK_STATUS_GEN : Fld := ⟨0x100004, 31, 24⟩
def Reg.BLK_STATUS_LONG_WAIT : Fld := ⟨0x100004, 23, 23⟩
def Reg.BLK_STATUS_RELOADING : Fld := ⟨0x100004, 22, 22⟩
def Reg.BLK_STATUS_LOAD_PENDING : Fld := ⟨0x100004, 21, 21⟩
def Reg.BLK_STATUS_DEPTH : Fld := ⟨0x100004, 20, 19⟩
def Reg.BLK_STATUS_HALTED : Fld := ⟨0x100004, 18, 18⟩
def Reg.BLK_STATUS_WAITING : Fld := ⟨0x100004, 17, 17⟩
def Reg.BLK_STATUS_IDLE : Fld := ⟨0x100004, 16, 16⟩
def Reg.BLK_STATUS_PC : Fld := ⟨0x100004, 13, 0⟩
def Reg.BLK_EVT_PEND : Nat := 0x100008
def Reg.BLK_EVT_PEND_EVT : Fld := ⟨0x100008, 7, 1⟩
def Reg.BLK_EVT_SEEN : Nat := 0x10000C
def Reg.BLK_EVT_SEEN_EVT : Fld := ⟨0x10000C, 7, 1⟩
def Reg.BLK_CS_CE : Nat := 0x100010
def Reg.BLK_CS_CE_COUNT : Fld := ⟨0x100010, 15, 0⟩
def Reg.BLK_CS_UE : Nat := 0x100014
def Reg.BLK_CS_UE_COUNT : Fld := ⟨0x100014, 7, 0⟩
def Reg.BLK_CS_ELOG : Nat := 0x100018
def Reg.BLK_CS_ELOG_VALID : Fld := ⟨0x100018, 31, 31⟩
def Reg.BLK_CS_ELOG_UE : Fld := ⟨0x100018, 30, 30⟩
def Reg.BLK_CS_ELOG_HALF : Fld := ⟨0x100018, 29, 28⟩
def Reg.BLK_CS_ELOG_ADDR : Fld := ⟨0x100018, 13, 0⟩
def Reg.BLK_LOADERR : Nat := 0x10001C
def Reg.BLK_LOADERR_PATHLEN : Fld := ⟨0x10001C, 31, 24⟩
def Reg.BLK_LOADERR_REASON : Fld := ⟨0x10001C, 23, 20⟩
def Reg.BLK_LOADERR_ADDR : Fld := ⟨0x10001C, 13, 0⟩
def Reg.BLK_PLK_LEAD : Nat := 0x100020
def Reg.BLK_PLK_LEAD_LEAD : Fld := ⟨0x100020, 3, 0⟩
def Reg.BLK_PLANK : Nat := 0x100024
def Reg.BLK_PLANK_ENTRY : Fld := ⟨0x100024, 31, 16⟩
def Reg.BLK_PLANK_TABLE : Fld := ⟨0x100024, 15, 0⟩
def Reg.BLK_LAST_STAMP : Nat := 0x100028
def Reg.BLK_LAST_STAMP_STAMP : Fld := ⟨0x100028, 27, 0⟩
def Reg.BLK_VEC : Nat := 0x100040
def Reg.BLK_VEC_ENTRY : Fld := ⟨0x100040, 13, 0⟩
def Reg.BLK_G : Nat := 0x100100
def Reg.BLK_G_VALUE : Fld := ⟨0x100100, 31, 0⟩
def Reg.BLK_K : Nat := 0x100140
def Reg.BLK_K_VALUE : Fld := ⟨0x100140, 15, 0⟩
def Reg.CST_ADDR : Nat := 0x120000
def Reg.CST_ADDR_AUTOINC : Fld := ⟨0x120000, 31, 31⟩
def Reg.CST_ADDR_WORD : Fld := ⟨0x120000, 13, 0⟩
def Reg.CST_CTL : Nat := 0x120004
def Reg.CST_CTL_RAW : Fld := ⟨0x120004, 0, 0⟩
def Reg.CST_DATA : Nat := 0x120010
def Reg.CST_DATA_PAYLOAD : Fld := ⟨0x120010, 31, 0⟩
def Reg.CST_CHECK : Nat := 0x120020
def Reg.CST_CHECK_CHECK : Fld := ⟨0x120020, 15, 0⟩

/- Registers of chapter 05. -/
def Reg.AFE_SYN_STATUS : Nat := 0x220000
def Reg.AFE_SYN_STATUS_TRACK_LIMIT : Fld := ⟨0x220000, 2, 2⟩
def Reg.AFE_SYN_STATUS_UNLOCK_GATE : Fld := ⟨0x220000, 1, 1⟩
def Reg.AFE_SYN_STATUS_LOCKED : Fld := ⟨0x220000, 0, 0⟩
def Reg.AFE_SYN_FW : Nat := 0x220004
def Reg.AFE_SYN_FW_FW_LIVE : Fld := ⟨0x220004, 31, 0⟩
def Reg.AFE_TRACK : Nat := 0x220008
def Reg.AFE_TRACK_EN : Fld := ⟨0x220008, 31, 31⟩
def Reg.AFE_TRACK_TRIM : Fld := ⟨0x220008, 15, 0⟩
def Reg.AFE_LANE_STATUS : Nat := 0x22000C
def Reg.AFE_LANE_STATUS_FAIL : Fld := ⟨0x22000C, 10, 8⟩
def Reg.AFE_LANE_STATUS_PWR : Fld := ⟨0x22000C, 6, 4⟩
def Reg.AFE_LANE_STATUS_USED : Fld := ⟨0x22000C, 2, 0⟩
def Reg.AFE_LIVE_SEL : Nat := 0x220010
def Reg.AFE_LIVE_SEL_LANE : Fld := ⟨0x220010, 1, 0⟩
def Reg.AFE_LIVE_A : Nat := 0x220014
def Reg.AFE_LIVE_A_VALUE : Fld := ⟨0x220014, 31, 0⟩
def Reg.AFE_LIVE_B : Nat := 0x220018
def Reg.AFE_LIVE_B_VALUE : Fld := ⟨0x220018, 31, 0⟩
def Reg.AFE_SAT_CNT : Nat := 0x22001C
def Reg.AFE_SAT_CNT_COUNT : Fld := ⟨0x22001C, 15, 0⟩
def Reg.AFE_RDR_FAIL : Nat := 0x220040
def Reg.AFE_RDR_FAIL_FAIL : Fld := ⟨0x220040, 2, 0⟩
def Reg.CHN_RZ_BASE : Nat := 0x200000
def Reg.CHN_RZ_BASE_ADDR : Fld := ⟨0x200000, 31, 8⟩
def Reg.CHN_RZ_CUR : Nat := 0x200004
def Reg.CHN_RZ_CUR_RGEN : Fld := ⟨0x200004, 23, 12⟩
def Reg.CHN_RZ_CUR_RZONE : Fld := ⟨0x200004, 9, 4⟩
def Reg.CHN_RZ_CUR_HEAD : Fld := ⟨0x200004, 3, 0⟩
def Reg.CHN_ADAPT_CTL : Nat := 0x200008
def Reg.CHN_ADAPT_CTL_AVG_LOG2 : Fld := ⟨0x200008, 11, 8⟩
def Reg.CHN_ADAPT_CTL_TARGETS : Fld := ⟨0x200008, 3, 3⟩
def Reg.CHN_ADAPT_CTL_TAPS : Fld := ⟨0x200008, 2, 2⟩
def Reg.CHN_ADAPT_CTL_OFFSET : Fld := ⟨0x200008, 1, 1⟩
def Reg.CHN_ADAPT_CTL_GAIN : Fld := ⟨0x200008, 0, 0⟩
def Reg.CHN_ADAPT_THR : Nat := 0x20000C
def Reg.CHN_ADAPT_THR_GAIN_THR : Fld := ⟨0x20000C, 31, 24⟩
def Reg.CHN_ADAPT_THR_OFF_THR : Fld := ⟨0x20000C, 23, 16⟩
def Reg.CHN_ADAPT_THR_TAP_THR : Fld := ⟨0x20000C, 15, 8⟩
def Reg.CHN_ADAPT_THR_TGT_THR : Fld := ⟨0x20000C, 7, 0⟩
def Reg.CHN_ADAPT_STATUS : Nat := 0x200010
def Reg.CHN_ADAPT_STATUS_DROPPED : Fld := ⟨0x200010, 23, 16⟩
def Reg.CHN_ADAPT_STATUS_READY : Fld := ⟨0x200010, 15, 14⟩
def Reg.CHN_ADAPT_STATUS_ACCUM : Fld := ⟨0x200010, 12, 0⟩
def Reg.CHN_WB_STATUS : Nat := 0x200014
def Reg.CHN_WB_STATUS_BATCHES : Fld := ⟨0x200014, 31, 16⟩
def Reg.CHN_WB_STATUS_REFUSED : Fld := ⟨0x200014, 15, 8⟩
def Reg.CHN_WB_STATUS_STALE : Fld := ⟨0x200014, 7, 0⟩
def Reg.CHN_RZ_ERR : Nat := 0x200018
def Reg.CHN_RZ_ERR_VALID : Fld := ⟨0x200018, 31, 31⟩
def Reg.CHN_RZ_ERR_BOTH : Fld := ⟨0x200018, 30, 30⟩
def Reg.CHN_RZ_ERR_RZONE : Fld := ⟨0x200018, 9, 4⟩
def Reg.CHN_RZ_ERR_HEAD : Fld := ⟨0x200018, 3, 0⟩
def Reg.CHN_WB_CFG : Nat := 0x200020
def Reg.CHN_WB_CFG_WORDS : Fld := ⟨0x200020, 24, 18⟩
def Reg.CHN_WB_CFG_START : Fld := ⟨0x200020, 17, 0⟩

/- Registers of chapter 06. -/
def Reg.CHN_DEC_CFG : Nat := 0x200040
def Reg.CHN_DEC_CFG_NORM : Fld := ⟨0x200040, 18, 16⟩
def Reg.CHN_DEC_CFG_REP_LOCAL : Fld := ⟨0x200040, 13, 8⟩
def Reg.CHN_DEC_CFG_REP_GLOBAL : Fld := ⟨0x200040, 3, 0⟩
def Reg.CHN_SYNC_CFG : Nat := 0x200044
def Reg.CHN_SYNC_CFG_WIN2 : Fld := ⟨0x200044, 12, 8⟩
def Reg.CHN_SYNC_CFG_WIN1 : Fld := ⟨0x200044, 3, 0⟩
def Reg.CHN_ALT : Nat := 0x200048
def Reg.CHN_ALT_BASE : Fld := ⟨0x200048, 31, 9⟩
def Reg.CHN_ALT_SR_SET : Fld := ⟨0x200048, 6, 4⟩
def Reg.CHN_ALT_CNT : Fld := ⟨0x200048, 2, 0⟩
def Reg.CHN_RPL_STATUS : Nat := 0x20004C
def Reg.CHN_RPL_STATUS_NOBACK : Fld := ⟨0x20004C, 23, 16⟩
def Reg.CHN_RPL_STATUS_FREE : Fld := ⟨0x20004C, 4, 0⟩
def Reg.CHN_LADDER_STATUS : Nat := 0x200050
def Reg.CHN_LADDER_STATUS_RUNG : Fld := ⟨0x200050, 31, 28⟩
def Reg.CHN_LADDER_STATUS_ACTIVE : Fld := ⟨0x200050, 27, 27⟩
def Reg.CHN_LADDER_STATUS_TAG : Fld := ⟨0x200050, 23, 0⟩
def Reg.CHN_LADDER_QUEUE : Nat := 0x200054
def Reg.CHN_LADDER_QUEUE_DEPTH : Fld := ⟨0x200054, 10, 0⟩
def Reg.CHN_RUNG_OK : Nat := 0x200060
def Reg.CHN_RUNG_OK_COUNT : Fld := ⟨0x200060, 31, 0⟩
def Reg.CHN_UNREC : Nat := 0x200080
def Reg.CHN_UNREC_COUNT : Fld := ⟨0x200080, 31, 0⟩
def Reg.CHN_LADDER_CFG : Nat := 0x200090
def Reg.CHN_LADDER_CFG_SHIFT_EN : Fld := ⟨0x200090, 13, 8⟩
def Reg.CHN_LADDER_CFG_EN : Fld := ⟨0x200090, 7, 0⟩
def Reg.CHN_RUNG_COST : Nat := 0x2000A0
def Reg.CHN_RUNG_COST_TICKS : Fld := ⟨0x2000A0, 23, 0⟩

/- Registers of chapter 07. -/
def Reg.WAS_WR_BASE : Nat := 0x240000
def Reg.WAS_WR_BASE_ADDR : Fld := ⟨0x240000, 31, 5⟩
def Reg.WAS_WR_CFG : Nat := 0x240004
def Reg.WAS_WR_CFG_WR_LAT : Fld := ⟨0x240004, 23, 16⟩
def Reg.WAS_WR_CFG_REQUAL : Fld := ⟨0x240004, 11, 8⟩
def Reg.WAS_WR_CFG_FLY_MAX : Fld := ⟨0x240004, 1, 0⟩
def Reg.WAS_INH_THR : Nat := 0x240008
def Reg.WAS_INH_THR_CMR : Fld := ⟨0x240008, 15, 8⟩
def Reg.WAS_INH_THR_SMR : Fld := ⟨0x240008, 7, 0⟩
def Reg.WAS_STATUS : Nat := 0x24000C
def Reg.WAS_STATUS_UNWIND : Fld := ⟨0x24000C, 27, 16⟩
def Reg.WAS_STATUS_INH_CAUSE : Fld := ⟨0x24000C, 15, 12⟩
def Reg.WAS_STATUS_INHIBIT : Fld := ⟨0x24000C, 11, 11⟩
def Reg.WAS_STATUS_WG : Fld := ⟨0x24000C, 10, 10⟩
def Reg.WAS_STATUS_UNWIND_GATE : Fld := ⟨0x24000C, 9, 9⟩
def Reg.WAS_STATUS_WR_SUSP : Fld := ⟨0x24000C, 8, 8⟩
def Reg.WAS_WF_LOG : Nat := 0x240010
def Reg.WAS_WF_LOG_VALID : Fld := ⟨0x240010, 31, 31⟩
def Reg.WAS_WF_LOG_HEAD : Fld := ⟨0x240010, 23, 20⟩
def Reg.WAS_WF_LOG_WEDGE : Fld := ⟨0x240010, 13, 4⟩
def Reg.WAS_WF_LOG_CAUSE : Fld := ⟨0x240010, 3, 0⟩
def Reg.WAS_WF_CNT : Nat := 0x240014
def Reg.WAS_WF_CNT_COUNT : Fld := ⟨0x240014, 15, 0⟩
def Reg.WAS_RAW_CFG : Nat := 0x240018
def Reg.WAS_RAW_CFG_MAXG : Fld := ⟨0x240018, 31, 28⟩
def Reg.WAS_RAW_CFG_MARK_POS : Fld := ⟨0x240018, 13, 0⟩
def Reg.WAS_RAW_STATUS : Nat := 0x24001C
def Reg.WAS_RAW_STATUS_CHECKS : Fld := ⟨0x24001C, 31, 16⟩
def Reg.WAS_RAW_STATUS_MISMATCH : Fld := ⟨0x24001C, 15, 8⟩
def Reg.WAS_HTR_STEP : Nat := 0x240048
def Reg.WAS_HTR_STEP_DELTA : Fld := ⟨0x240048, 7, 0⟩
def Reg.WAS_HH : Nat := 0x240080
def Reg.WAS_HH_FAILED : Fld := ⟨0x240080, 31, 31⟩
def Reg.WAS_HH_WARN : Fld := ⟨0x240080, 30, 30⟩
def Reg.WAS_HH_SCORE : Fld := ⟨0x240080, 7, 0⟩
def Reg.WAS_HH_THR : Nat := 0x2400C0
def Reg.WAS_HH_THR_WARN : Fld := ⟨0x2400C0, 15, 8⟩
def Reg.WAS_HH_THR_FAIL : Fld := ⟨0x2400C0, 7, 0⟩
def Reg.WAS_AS_BASE : Nat := 0x248000
def Reg.WAS_AS_BASE_ADDR : Fld := ⟨0x248000, 31, 5⟩
def Reg.WAS_AS_STATUS : Nat := 0x248004
def Reg.WAS_AS_STATUS_HEAD : Fld := ⟨0x248004, 31, 28⟩
def Reg.WAS_AS_STATUS_STATE : Fld := ⟨0x248004, 25, 24⟩
def Reg.WAS_AS_STATUS_BAND : Fld := ⟨0x248004, 23, 22⟩
def Reg.WAS_AS_STATUS_LEVEL : Fld := ⟨0x248004, 19, 10⟩
def Reg.WAS_AS_LOOP : Nat := 0x248008
def Reg.WAS_AS_LOOP_NFT : Fld := ⟨0x248008, 31, 24⟩
def Reg.WAS_AS_LOOP_TRIM : Fld := ⟨0x248008, 15, 0⟩
def Reg.WAS_AS_TBAND : Nat := 0x24800C
def Reg.WAS_AS_TBAND_T3 : Fld := ⟨0x24800C, 23, 16⟩
def Reg.WAS_AS_TBAND_T2 : Fld := ⟨0x24800C, 15, 8⟩
def Reg.WAS_AS_TBAND_T1 : Fld := ⟨0x24800C, 7, 0⟩
def Reg.WAS_AS_FAULT : Nat := 0x248010
def Reg.WAS_AS_FAULT_VALID : Fld := ⟨0x248010, 31, 31⟩
def Reg.WAS_AS_FAULT_KIND : Fld := ⟨0x248010, 30, 28⟩
def Reg.WAS_AS_FAULT_HEAD : Fld := ⟨0x248010, 27, 24⟩
def Reg.WAS_AS_CNT : Nat := 0x248014
def Reg.WAS_AS_CNT_HOPS : Fld := ⟨0x248014, 31, 16⟩
def Reg.WAS_AS_CNT_FAULTS : Fld := ⟨0x248014, 15, 0⟩
def Reg.WAS_AS_HEAD : Nat := 0x248040
def Reg.WAS_AS_HEAD_TYPE : Fld := ⟨0x248040, 31, 30⟩
def Reg.WAS_AS_HEAD_ILIM : Fld := ⟨0x248040, 25, 16⟩
def Reg.WAS_AS_HEAD_PRELEAD : Fld := ⟨0x248040, 11, 8⟩
def Reg.WAS_AS_HEAD_PB_HOLD : Fld := ⟨0x248040, 3, 0⟩
def Reg.WAS_AGE_CFG : Nat := 0x248080
def Reg.WAS_AGE_CFG_AGE_THR : Fld := ⟨0x248080, 23, 16⟩
def Reg.WAS_AGE_CFG_AGE_LOG2 : Fld := ⟨0x248080, 3, 0⟩

/- Registers of chapter 08. -/
def Reg.PA_ID : Nat := 0x0
def Reg.PA_ID_CLASS : Fld := ⟨0x0, 15, 8⟩
def Reg.PA_ID_TENIL_REV : Fld := ⟨0x0, 7, 0⟩
def Reg.PA_CAPS : Nat := 0x1
def Reg.PA_CAPS_HEADS : Fld := ⟨0x1, 15, 12⟩
def Reg.PA_CAPS_ASSIST : Fld := ⟨0x1, 11, 10⟩
def Reg.PA_CAPS_LAT_PA : Fld := ⟨0x1, 7, 0⟩
def Reg.PA_TIMING : Nat := 0x2
def Reg.PA_TIMING_HS_SETTLE : Fld := ⟨0x2, 15, 8⟩
def Reg.PA_TIMING_CTL_LAT : Fld := ⟨0x2, 7, 0⟩
def Reg.PA_STATUS : Nat := 0x3
def Reg.PA_STATUS_CAUSE : Fld := ⟨0x3, 10, 0⟩
def Reg.PA_HEAD : Nat := 0x4
def Reg.PA_HEAD_WG : Fld := ⟨0x4, 7, 7⟩
def Reg.PA_HEAD_READERS : Fld := ⟨0x4, 6, 4⟩
def Reg.PA_HEAD_HEAD : Fld := ⟨0x4, 3, 0⟩
def Reg.PA_IW : Nat := 0x8
def Reg.PA_IW_IW : Fld := ⟨0x8, 7, 0⟩
def Reg.PA_OS : Nat := 0x9
def Reg.PA_OS_OSA : Fld := ⟨0x9, 15, 8⟩
def Reg.PA_OS_OSD : Fld := ⟨0x9, 7, 0⟩
def Reg.PA_RAMP : Nat := 0xC
def Reg.PA_RAMP_RAMP_PB : Fld := ⟨0xC, 15, 8⟩
def Reg.PA_RAMP_RAMP_OP : Fld := ⟨0xC, 7, 0⟩
def Reg.PA_ILIM : Nat := 0xD
def Reg.PA_ILIM_ILIM : Fld := ⟨0xD, 9, 0⟩
def Reg.PA_NFT : Nat := 0x10
def Reg.PA_NFT_VALID : Fld := ⟨0x10, 15, 15⟩
def Reg.PA_NFT_NFT : Fld := ⟨0x10, 7, 0⟩
def Reg.PA_ASMON : Nat := 0x11
def Reg.PA_ASMON_LEVEL : Fld := ⟨0x11, 9, 0⟩
def Reg.PA_LINKCNT : Nat := 0x14
def Reg.PA_LINKCNT_COUNT : Fld := ⟨0x14, 15, 0⟩
def Reg.TNL_STATUS : Nat := 0x340000
def Reg.TNL_STATUS_FAILED : Fld := ⟨0x340000, 5, 5⟩
def Reg.TNL_STATUS_TRAINING : Fld := ⟨0x340000, 4, 4⟩
def Reg.TNL_STATUS_FAULT_IN : Fld := ⟨0x340000, 3, 3⟩
def Reg.TNL_STATUS_CTL_UP : Fld := ⟨0x340000, 2, 2⟩
def Reg.TNL_STATUS_LAUNCH_UP : Fld := ⟨0x340000, 1, 1⟩
def Reg.TNL_PA_ID : Nat := 0x340004
def Reg.TNL_PA_ID_CAPS : Fld := ⟨0x340004, 31, 16⟩
def Reg.TNL_PA_ID_ID : Fld := ⟨0x340004, 15, 0⟩
def Reg.TNL_PA_FAULT : Nat := 0x340008
def Reg.TNL_PA_FAULT_VALID : Fld := ⟨0x340008, 31, 31⟩
def Reg.TNL_PA_FAULT_HEAD : Fld := ⟨0x340008, 19, 16⟩
def Reg.TNL_PA_FAULT_CAUSE : Fld := ⟨0x340008, 10, 0⟩
def Reg.TNL_CTL_CFG : Nat := 0x34000C
def Reg.TNL_CTL_CFG_RX_PHASE : Fld := ⟨0x34000C, 19, 16⟩
def Reg.TNL_CTL_CFG_TIMEOUT : Fld := ⟨0x34000C, 15, 8⟩
def Reg.TNL_CTL_CFG_RETRY : Fld := ⟨0x34000C, 1, 0⟩
def Reg.TNL_ERR_CNT : Nat := 0x340010
def Reg.TNL_ERR_CNT_CTL_CRC : Fld := ⟨0x340010, 31, 24⟩
def Reg.TNL_ERR_CNT_CTL_LOST : Fld := ⟨0x340010, 23, 16⟩
def Reg.TNL_ERR_CNT_LAUNCH : Fld := ⟨0x340010, 15, 8⟩
def Reg.TNL_ERR_CNT_RETRAIN : Fld := ⟨0x340010, 7, 0⟩
def Reg.TNL_TEMP_MISS : Nat := 0x340014
def Reg.TNL_TEMP_MISS_COUNT : Fld := ⟨0x340014, 15, 0⟩
def Reg.TNL_PA_ACC : Nat := 0x340018
def Reg.TNL_PA_ACC_GO : Fld := ⟨0x340018, 31, 31⟩
def Reg.TNL_PA_ACC_RW : Fld := ⟨0x340018, 30, 30⟩
def Reg.TNL_PA_ACC_ADDR : Fld := ⟨0x340018, 29, 23⟩
def Reg.TNL_PA_ACC_DATA : Fld := ⟨0x340018, 15, 0⟩
def Reg.TNL_PA_RESULT : Nat := 0x34001C
def Reg.TNL_PA_RESULT_DONE : Fld := ⟨0x34001C, 31, 31⟩
def Reg.TNL_PA_RESULT_STATUS : Fld := ⟨0x34001C, 17, 16⟩
def Reg.TNL_PA_RESULT_DATA : Fld := ⟨0x34001C, 15, 0⟩
def Reg.TNL_RETRAIN : Nat := 0x340020
def Reg.TNL_RETRAIN_GO : Fld := ⟨0x340020, 0, 0⟩

/- Registers of R279. -/
def Reg.SRV_MODE : Nat := 0x300000
def Reg.SRV_MODE_MSUB : Fld := ⟨0x300000, 5, 4⟩
def Reg.SRV_MODE_MODE : Fld := ⟨0x300000, 1, 0⟩
def Reg.SRV_STATUS : Nat := 0x300004
def Reg.SRV_STATUS_GEN : Fld := ⟨0x300004, 31, 24⟩
def Reg.SRV_STATUS_XFER_FAIL : Fld := ⟨0x300004, 23, 23⟩
def Reg.SRV_STATUS_SET : Fld := ⟨0x300004, 22, 22⟩
def Reg.SRV_STATUS_DRIVE : Fld := ⟨0x300004, 21, 21⟩
def Reg.SRV_STATUS_PES_VALID : Fld := ⟨0x300004, 20, 20⟩
def Reg.SRV_STATUS_MOTION : Fld := ⟨0x300004, 19, 18⟩
def Reg.SRV_STATUS_MODE_NOW : Fld := ⟨0x300004, 17, 16⟩
def Reg.SRV_STATUS_PES_MISS : Fld := ⟨0x300004, 15, 8⟩
def Reg.SRV_MAN_CUR : Nat := 0x300008
def Reg.SRV_MAN_CUR_SLEW : Fld := ⟨0x300008, 31, 16⟩
def Reg.SRV_MAN_CUR_CUR : Fld := ⟨0x300008, 15, 0⟩
def Reg.SRV_SFMT : Nat := 0x30000C
def Reg.SRV_SFMT_CELL_PS : Fld := ⟨0x30000C, 13, 0⟩
def Reg.SRV_SAM : Nat := 0x300010
def Reg.SRV_SAM_MAXERR : Fld := ⟨0x300010, 27, 24⟩
def Reg.SRV_SAM_WIN : Fld := ⟨0x300010, 23, 16⟩
def Reg.SRV_SAM_PATTERN : Fld := ⟨0x300010, 11, 0⟩
def Reg.SRV_DEMOD_CFG : Nat := 0x300014
def Reg.SRV_DEMOD_CFG_MIN_AMP : Fld := ⟨0x300014, 31, 16⟩
def Reg.SRV_DEMOD_CFG_GRAY_THR : Fld := ⟨0x300014, 15, 8⟩
def Reg.SRV_DEMOD_CFG_PES_MISS_MAX : Fld := ⟨0x300014, 7, 0⟩
def Reg.SRV_POS : Nat := 0x300018
def Reg.SRV_POS_TRACK : Fld := ⟨0x300018, 21, 0⟩
def Reg.SRV_PES : Nat := 0x30001C
def Reg.SRV_PES_PES : Fld := ⟨0x30001C, 23, 0⟩
def Reg.SRV_DEMOD_CNT : Nat := 0x300020
def Reg.SRV_DEMOD_CNT_SAM_MISS : Fld := ⟨0x300020, 31, 24⟩
def Reg.SRV_DEMOD_CNT_GRAY_BAD : Fld := ⟨0x300020, 23, 16⟩
def Reg.SRV_DEMOD_CNT_IDX_BAD : Fld := ⟨0x300020, 15, 8⟩
def Reg.SRV_DEMOD_CNT_RRO_BAD : Fld := ⟨0x300020, 7, 0⟩
def Reg.SRV_SET_SEL : Nat := 0x300024
def Reg.SRV_SET_SEL_SEL : Fld := ⟨0x300024, 0, 0⟩
def Reg.SRV_CYCLES : Nat := 0x300028
def Reg.SRV_CYCLES_FF : Fld := ⟨0x300028, 31, 16⟩
def Reg.SRV_CYCLES_LAW : Fld := ⟨0x300028, 15, 0⟩
def Reg.SRV_LANE_CNT : Nat := 0x300030
def Reg.SRV_LANE_CNT_MISMATCH : Fld := ⟨0x300030, 31, 24⟩
def Reg.SRV_LANE_CNT_RELOAD : Fld := ⟨0x300030, 23, 16⟩
def Reg.SRV_LANE_CNT_LOST : Fld := ⟨0x300030, 15, 8⟩
def Reg.SRV_LANE_CNT_OVF : Fld := ⟨0x300030, 7, 0⟩
def Reg.SRV_LANE_LOG : Nat := 0x300034
def Reg.SRV_LANE_LOG_VALID : Fld := ⟨0x300034, 31, 31⟩
def Reg.SRV_LANE_LOG_CAUSE : Fld := ⟨0x300034, 30, 28⟩
def Reg.SRV_LANE_LOG_LANE : Fld := ⟨0x300034, 27, 27⟩
def Reg.SRV_LANE_LOG_LOST : Fld := ⟨0x300034, 26, 26⟩
def Reg.SRV_LANE_LOG_WEDGE : Fld := ⟨0x300034, 25, 16⟩
def Reg.SRV_AGREED : Nat := 0x300038
def Reg.SRV_AGREED_CRC : Fld := ⟨0x300038, 31, 0⟩
def Reg.SRV_INJ_CTL : Nat := 0x300040
def Reg.SRV_INJ_CTL_EN : Fld := ⟨0x300040, 31, 31⟩
def Reg.SRV_INJ_CTL_DONE : Fld := ⟨0x300040, 30, 30⟩
def Reg.SRV_INJ_CTL_POINT : Fld := ⟨0x300040, 29, 28⟩
def Reg.SRV_INJ_CTL_TYPE : Fld := ⟨0x300040, 27, 26⟩
def Reg.SRV_INJ_CTL_PRBS : Fld := ⟨0x300040, 25, 24⟩
def Reg.SRV_INJ_CTL_HOLD : Fld := ⟨0x300040, 23, 16⟩
def Reg.SRV_INJ_AMP : Nat := 0x300044
def Reg.SRV_INJ_AMP_EXP : Fld := ⟨0x300044, 31, 24⟩
def Reg.SRV_INJ_AMP_MANT : Fld := ⟨0x300044, 23, 0⟩
def Reg.SRV_INJ_F0 : Nat := 0x300048
def Reg.SRV_INJ_F0_INC : Fld := ⟨0x300048, 31, 0⟩
def Reg.SRV_INJ_F1 : Nat := 0x30004C
def Reg.SRV_INJ_F1_INC : Fld := ⟨0x30004C, 31, 0⟩
def Reg.SRV_INJ_DF : Nat := 0x300050
def Reg.SRV_INJ_DF_STEP : Fld := ⟨0x300050, 31, 0⟩
def Reg.SRV_CAP_CTL : Nat := 0x300060
def Reg.SRV_CAP_CTL_ARM : Fld := ⟨0x300060, 31, 31⟩
def Reg.SRV_CAP_CTL_ABORT : Fld := ⟨0x300060, 30, 30⟩
def Reg.SRV_CAP_CTL_MODE : Fld := ⟨0x300060, 29, 28⟩
def Reg.SRV_CAP_CTL_TRIG : Fld := ⟨0x300060, 27, 25⟩
def Reg.SRV_CAP_CTL_PRE : Fld := ⟨0x300060, 15, 0⟩
def Reg.SRV_CAP_SEL : Nat := 0x300064
def Reg.SRV_CAP_SEL_SIG2 : Fld := ⟨0x300064, 22, 16⟩
def Reg.SRV_CAP_SEL_SIG1 : Fld := ⟨0x300064, 14, 8⟩
def Reg.SRV_CAP_SEL_SIG0 : Fld := ⟨0x300064, 6, 0⟩
def Reg.SRV_CAP_TRIG : Nat := 0x300068
def Reg.SRV_CAP_TRIG_VALUE : Fld := ⟨0x300068, 23, 0⟩
def Reg.SRV_CAP_STATUS : Nat := 0x30006C
def Reg.SRV_CAP_STATUS_DONE : Fld := ⟨0x30006C, 31, 31⟩
def Reg.SRV_CAP_STATUS_TRIGGERED : Fld := ⟨0x30006C, 30, 30⟩
def Reg.SRV_CAP_STATUS_WRAPPED : Fld := ⟨0x30006C, 29, 29⟩
def Reg.SRV_CAP_STATUS_COUNT : Fld := ⟨0x30006C, 16, 0⟩
def Reg.SRV_CAP_RD : Nat := 0x300070
def Reg.SRV_CAP_RD_MEM : Fld := ⟨0x300070, 17, 16⟩
def Reg.SRV_CAP_RD_INDEX : Fld := ⟨0x300070, 15, 0⟩
def Reg.SRV_CAP_DATA : Nat := 0x300074
def Reg.SRV_CAP_DATA_EXP : Fld := ⟨0x300074, 31, 24⟩
def Reg.SRV_CAP_DATA_MANT : Fld := ⟨0x300074, 23, 0⟩
def Reg.SRV_SET0 : Nat := 0x308000
def Reg.SRV_SET0_WORD : Fld := ⟨0x308000, 31, 0⟩
def Reg.SRV_SET1 : Nat := 0x30C000
def Reg.SRV_SET1_WORD : Fld := ⟨0x30C000, 31, 0⟩

/- Registers of chapter 10. -/
def Reg.SRV_SEEK_CFG : Nat := 0x300100
def Reg.SRV_SEEK_CFG_SHORT : Fld := ⟨0x300100, 31, 20⟩
def Reg.SRV_SEEK_CFG_STAGGER : Fld := ⟨0x300100, 15, 8⟩
def Reg.SRV_SEEK_KA : Nat := 0x300104
def Reg.SRV_SEEK_KA_EXP : Fld := ⟨0x300104, 31, 24⟩
def Reg.SRV_SEEK_KA_MANT : Fld := ⟨0x300104, 23, 0⟩
def Reg.SRV_SETTLE : Nat := 0x300108
def Reg.SRV_SETTLE_RD_WIN : Fld := ⟨0x300108, 31, 24⟩
def Reg.SRV_SETTLE_WR_WIN : Fld := ⟨0x300108, 23, 16⟩
def Reg.SRV_SETTLE_RD_CNT : Fld := ⟨0x300108, 15, 12⟩
def Reg.SRV_SETTLE_WR_CNT : Fld := ⟨0x300108, 11, 8⟩
def Reg.SRV_SETTLE_MAX : Fld := ⟨0x300108, 7, 0⟩
def Reg.SRV_TARGET : Nat := 0x30010C
def Reg.SRV_TARGET_TRACK : Fld := ⟨0x30010C, 21, 0⟩
def Reg.SRV_SHIFT : Nat := 0x300110
def Reg.SRV_SHIFT_PCT : Fld := ⟨0x300110, 7, 0⟩
def Reg.SRV_FF_CTL : Nat := 0x300114
def Reg.SRV_FF_CTL_RVB : Fld := ⟨0x300114, 2, 2⟩
def Reg.SRV_FF_CTL_RVA : Fld := ⟨0x300114, 1, 1⟩
def Reg.SRV_FF_CTL_RRO : Fld := ⟨0x300114, 0, 0⟩
def Reg.SRV_RRO_DIR : Nat := 0x300118
def Reg.SRV_RRO_DIR_ADDR : Fld := ⟨0x300118, 31, 5⟩
def Reg.SRV_XOVER : Nat := 0x30011C
def Reg.SRV_XOVER_VCM_FC : Fld := ⟨0x30011C, 31, 16⟩
def Reg.SRV_XOVER_MA_FC : Fld := ⟨0x30011C, 15, 0⟩
def Reg.SRV_XA_CFG : Nat := 0x300120
def Reg.SRV_XA_CFG_EN : Fld := ⟨0x300120, 31, 31⟩
def Reg.SRV_XA_CFG_STAGE : Fld := ⟨0x300120, 6, 0⟩
def Reg.SRV_SHOCK_CFG : Nat := 0x300124
def Reg.SRV_SHOCK_CFG_THR : Fld := ⟨0x300124, 31, 24⟩
def Reg.SRV_SHOCK_CFG_PES_THR : Fld := ⟨0x300124, 23, 16⟩
def Reg.SRV_SHOCK_CFG_HOLD : Fld := ⟨0x300124, 15, 8⟩
def Reg.SRV_SHOCK_CFG_PARK : Fld := ⟨0x300124, 7, 7⟩
def Reg.SRV_SHOCK_CFG_PARK_TICKS : Fld := ⟨0x300124, 6, 0⟩
def Reg.SRV_SHOCK_STATUS : Nat := 0x300128
def Reg.SRV_SHOCK_STATUS_ACTIVE : Fld := ⟨0x300128, 31, 31⟩
def Reg.SRV_SHOCK_STATUS_PARKED : Fld := ⟨0x300128, 30, 30⟩
def Reg.SRV_SHOCK_STATUS_SOURCE : Fld := ⟨0x300128, 29, 28⟩
def Reg.SRV_SHOCK_STATUS_COUNT : Fld := ⟨0x300128, 15, 0⟩
def Reg.SRV_LOAD_VEL : Nat := 0x30012C
def Reg.SRV_LOAD_VEL_UNLOAD : Fld := ⟨0x30012C, 31, 16⟩
def Reg.SRV_LOAD_VEL_LOAD : Fld := ⟨0x30012C, 15, 0⟩
def Reg.SRV_LOAD_TRK : Nat := 0x300130
def Reg.SRV_LOAD_TRK_TRACK : Fld := ⟨0x300130, 21, 0⟩
def Reg.SRV_LOAD_TIME : Nat := 0x300134
def Reg.SRV_LOAD_TIME_LOAD_MAX : Fld := ⟨0x300134, 31, 16⟩
def Reg.SRV_LOAD_TIME_LATCH : Fld := ⟨0x300134, 15, 0⟩
def Reg.SRV_LOAD_STATUS : Nat := 0x300138
def Reg.SRV_LOAD_STATUS_LOADED : Fld := ⟨0x300138, 31, 31⟩
def Reg.SRV_LOAD_STATUS_STATE : Fld := ⟨0x300138, 30, 28⟩
def Reg.SRV_LOAD_STATUS_FAILS : Fld := ⟨0x300138, 7, 0⟩
def Reg.SRV_SEEK_TBL : Nat := 0x300140
def Reg.SRV_SEEK_TBL_DIST : Fld := ⟨0x300140, 31, 14⟩
def Reg.SRV_SEEK_TBL_TICKS : Fld := ⟨0x300140, 13, 0⟩
def Reg.SRV_JOG : Nat := 0x3001C0
def Reg.SRV_JOG_JOG : Fld := ⟨0x3001C0, 15, 0⟩
def Reg.PWR_RET_CFG : Nat := 0x330200
def Reg.PWR_RET_CFG_TIME : Fld := ⟨0x330200, 31, 24⟩
def Reg.PWR_RET_CFG_ILIM : Fld := ⟨0x330200, 23, 16⟩
def Reg.PWR_RET_CFG_LATCH : Fld := ⟨0x330200, 15, 8⟩
def Reg.PWR_RET_VEL : Nat := 0x330204
def Reg.PWR_RET_VEL_VEL : Fld := ⟨0x330204, 15, 0⟩
def Reg.PWR_RET_CTL : Nat := 0x330208
def Reg.PWR_RET_CTL_GO : Fld := ⟨0x330208, 0, 0⟩
def Reg.PWR_RET_STATUS : Nat := 0x33020C
def Reg.PWR_RET_STATUS_VALID : Fld := ⟨0x33020C, 31, 31⟩
def Reg.PWR_RET_STATUS_ACTIVE : Fld := ⟨0x33020C, 30, 30⟩
def Reg.PWR_RET_STATUS_CAUSE : Fld := ⟨0x33020C, 29, 27⟩
def Reg.PWR_RET_STATUS_DONE : Fld := ⟨0x33020C, 25, 24⟩
def Reg.PWR_RET_STATUS_COUNT : Fld := ⟨0x33020C, 15, 0⟩

/- Registers of R326. -/
def Reg.SPN_CTL : Nat := 0x320000
def Reg.SPN_CTL_RUN : Fld := ⟨0x320000, 0, 0⟩
def Reg.SPN_SPEED_CMD : Nat := 0x320004
def Reg.SPN_SPEED_CMD_SPEED : Fld := ⟨0x320004, 20, 0⟩
def Reg.SPN_TARGET : Nat := 0x320008
def Reg.SPN_TARGET_SPEED : Fld := ⟨0x320008, 20, 0⟩
def Reg.SPN_STATUS : Nat := 0x32000C
def Reg.SPN_STATUS_FAULT : Fld := ⟨0x32000C, 11, 11⟩
def Reg.SPN_STATUS_DIR : Fld := ⟨0x32000C, 10, 10⟩
def Reg.SPN_STATUS_INHIBIT : Fld := ⟨0x32000C, 9, 9⟩
def Reg.SPN_STATUS_AT_SPEED : Fld := ⟨0x32000C, 8, 8⟩
def Reg.SPN_STATUS_SRC : Fld := ⟨0x32000C, 5, 4⟩
def Reg.SPN_STATUS_STATE : Fld := ⟨0x32000C, 3, 0⟩
def Reg.SPN_SPEED : Nat := 0x320010
def Reg.SPN_SPEED_SPEED : Fld := ⟨0x320010, 20, 0⟩
def Reg.SPN_ERR : Nat := 0x320014
def Reg.SPN_ERR_PPM : Fld := ⟨0x320014, 23, 0⟩
def Reg.SPN_COMM_CFG : Nat := 0x320018
def Reg.SPN_COMM_CFG_ADVANCE : Fld := ⟨0x320018, 12, 8⟩
def Reg.SPN_COMM_CFG_SLEW : Fld := ⟨0x320018, 4, 0⟩
def Reg.SPN_REG : Nat := 0x32001C
def Reg.SPN_REG_KP : Fld := ⟨0x32001C, 31, 16⟩
def Reg.SPN_REG_KI : Fld := ⟨0x32001C, 15, 0⟩
def Reg.SPN_ILIM : Nat := 0x320020
def Reg.SPN_ILIM_START : Fld := ⟨0x320020, 31, 16⟩
def Reg.SPN_ILIM_RUN : Fld := ⟨0x320020, 15, 0⟩
def Reg.SPN_START_CFG : Nat := 0x320024
def Reg.SPN_START_CFG_ALIGN : Fld := ⟨0x320024, 31, 24⟩
def Reg.SPN_START_CFG_OBS_MIN : Fld := ⟨0x320024, 15, 0⟩
def Reg.SPN_LOCK_CFG : Nat := 0x320028
def Reg.SPN_LOCK_CFG_SPIN_MAX : Fld := ⟨0x320028, 31, 24⟩
def Reg.SPN_LOCK_CFG_WAIT : Fld := ⟨0x320028, 23, 16⟩
def Reg.SPN_LOCK_CFG_RETRIES : Fld := ⟨0x320028, 3, 0⟩
def Reg.SPN_COMM_MAP : Nat := 0x32002C
def Reg.SPN_COMM_MAP_ALIGNED : Fld := ⟨0x32002C, 31, 31⟩
def Reg.SPN_COMM_MAP_OFS : Fld := ⟨0x32002C, 17, 0⟩
def Reg.SPN_OBS : Nat := 0x320030
def Reg.SPN_OBS_PHASE_ERR : Fld := ⟨0x320030, 23, 16⟩
def Reg.SPN_OBS_MISSED : Fld := ⟨0x320030, 3, 0⟩
def Reg.SPN_EVENT : Nat := 0x320034
def Reg.SPN_EVENT_TIMEOUT : Fld := ⟨0x320034, 4, 4⟩
def Reg.SPN_EVENT_RESTART : Fld := ⟨0x320034, 3, 3⟩
def Reg.SPN_EVENT_OBS_LOST : Fld := ⟨0x320034, 2, 2⟩
def Reg.SPN_EVENT_BRAKED : Fld := ⟨0x320034, 1, 1⟩
def Reg.SPN_EVENT_LOCKED : Fld := ⟨0x320034, 0, 0⟩
def Reg.SPN_CNT : Nat := 0x320038
def Reg.SPN_CNT_LOCKED : Fld := ⟨0x320038, 31, 24⟩
def Reg.SPN_CNT_OBS_LOST : Fld := ⟨0x320038, 23, 16⟩
def Reg.SPN_CNT_RESTART : Fld := ⟨0x320038, 15, 8⟩
def Reg.SPN_CNT_INHIBIT : Fld := ⟨0x320038, 7, 0⟩
def Reg.PWR_SMON_CFG : Nat := 0x330100
def Reg.PWR_SMON_CFG_UV12 : Fld := ⟨0x330100, 31, 24⟩
def Reg.PWR_SMON_CFG_UV5 : Fld := ⟨0x330100, 23, 16⟩
def Reg.PWR_SMON_CFG_HYST : Fld := ⟨0x330100, 15, 8⟩
def Reg.PWR_SMON_CFG_DEB : Fld := ⟨0x330100, 3, 0⟩
def Reg.PWR_SMON_STATUS : Nat := 0x330104
def Reg.PWR_SMON_STATUS_TRIP : Fld := ⟨0x330104, 31, 31⟩
def Reg.PWR_SMON_STATUS_CAUSE : Fld := ⟨0x330104, 7, 4⟩
def Reg.PWR_SMON_STATUS_CORE_PG : Fld := ⟨0x330104, 3, 3⟩
def Reg.PWR_SMON_STATUS_GOODHOLD : Fld := ⟨0x330104, 2, 2⟩
def Reg.PWR_SMON_STATUS_GOOD5 : Fld := ⟨0x330104, 1, 1⟩
def Reg.PWR_SMON_STATUS_GOOD12 : Fld := ⟨0x330104, 0, 0⟩
def Reg.PWR_GEN_CFG : Nat := 0x330108
def Reg.PWR_GEN_CFG_VHOLD : Fld := ⟨0x330108, 31, 24⟩
def Reg.PWR_GEN_CFG_MIN_RPM : Fld := ⟨0x330108, 15, 0⟩
def Reg.PWR_VAULT_STATUS : Nat := 0x33010C
def Reg.PWR_VAULT_STATUS_ARMED : Fld := ⟨0x33010C, 31, 31⟩
def Reg.PWR_VAULT_STATUS_LAST : Fld := ⟨0x33010C, 30, 28⟩
def Reg.PWR_VAULT_STATUS_TIME : Fld := ⟨0x33010C, 27, 16⟩
def Reg.PWR_VAULT_STATUS_ENERGY : Fld := ⟨0x33010C, 15, 0⟩
def Reg.PWR_VAULT_REASON : Nat := 0x330110
def Reg.PWR_VAULT_REASON_MRAM : Fld := ⟨0x330110, 5, 5⟩
def Reg.PWR_VAULT_REASON_SPEED : Fld := ⟨0x330110, 4, 4⟩
def Reg.PWR_VAULT_REASON_STATE : Fld := ⟨0x330110, 3, 3⟩
def Reg.PWR_VAULT_REASON_HOLD : Fld := ⟨0x330110, 2, 2⟩
def Reg.PWR_VAULT_REASON_SUPPLY : Fld := ⟨0x330110, 1, 1⟩
def Reg.PWR_VAULT_REASON_RESTORE : Fld := ⟨0x330110, 0, 0⟩

/- Registers of chapter 12. -/
def Reg.ZQE_CFG : Nat := 0x400000
def Reg.ZQE_CFG_HOLD : Fld := ⟨0x400000, 22, 16⟩
def Reg.ZQE_CFG_WINDOW : Fld := ⟨0x400000, 8, 0⟩
def Reg.ZQE_POOL : Nat := 0x400004
def Reg.ZQE_POOL_DEPTH : Fld := ⟨0x400004, 31, 16⟩
def Reg.ZQE_POOL_SIZE : Fld := ⟨0x400004, 15, 0⟩
def Reg.ZQE_POOL_BASE : Nat := 0x400008
def Reg.ZQE_POOL_BASE_ADDR : Fld := ⟨0x400008, 23, 0⟩
def Reg.ZQE_LIMITS : Nat := 0x40000C
def Reg.ZQE_LIMITS_MAX_ACTIVE : Fld := ⟨0x40000C, 31, 16⟩
def Reg.ZQE_LIMITS_MAX_OPEN : Fld := ⟨0x40000C, 15, 0⟩
def Reg.ZQE_STATUS : Nat := 0x400010
def Reg.ZQE_STATUS_ACTIVE : Fld := ⟨0x400010, 31, 16⟩
def Reg.ZQE_STATUS_OPEN : Fld := ⟨0x400010, 15, 0⟩
def Reg.ZQE_HELD : Nat := 0x400014
def Reg.ZQE_HELD_ZONES : Fld := ⟨0x400014, 31, 16⟩
def Reg.ZQE_HELD_MIB : Fld := ⟨0x400014, 15, 0⟩
def Reg.ZQE_CNT : Nat := 0x400018
def Reg.ZQE_CNT_EXPIRED : Fld := ⟨0x400018, 31, 24⟩
def Reg.ZQE_CNT_OUTSIDE : Fld := ⟨0x400018, 23, 16⟩
def Reg.ZQE_CNT_NO_SLOT : Fld := ⟨0x400018, 15, 8⟩
def Reg.ZQE_CNT_OVERLAP : Fld := ⟨0x400018, 7, 0⟩
def Reg.ZQE_JRNL_SEQ : Nat := 0x40001C
def Reg.ZQE_JRNL_SEQ_SEQ : Fld := ⟨0x40001C, 31, 0⟩
def Reg.ZQE_JRNL_FILL : Nat := 0x400020
def Reg.ZQE_JRNL_FILL_CKPT : Fld := ⟨0x400020, 31, 31⟩
def Reg.ZQE_JRNL_FILL_RECORDS : Fld := ⟨0x400020, 18, 0⟩
def Reg.ZQE_RESCUE : Nat := 0x400024
def Reg.ZQE_RESCUE_FREE : Fld := ⟨0x400024, 31, 16⟩
def Reg.ZQE_RESCUE_ZONES : Fld := ⟨0x400024, 15, 0⟩
def Reg.ZQE_ZSEL : Nat := 0x400030
def Reg.ZQE_ZSEL_ZONE : Fld := ⟨0x400030, 17, 0⟩
def Reg.ZQE_ZINFO : Nat := 0x400034
def Reg.ZQE_ZINFO_STATE : Fld := ⟨0x400034, 31, 28⟩
def Reg.ZQE_ZINFO_HELD : Fld := ⟨0x400034, 27, 27⟩
def Reg.ZQE_ZINFO_ZFC : Fld := ⟨0x400034, 26, 26⟩
def Reg.ZQE_ZINFO_FZR : Fld := ⟨0x400034, 25, 25⟩
def Reg.ZQE_ZINFO_RESCUED : Fld := ⟨0x400034, 24, 24⟩
def Reg.ZQE_ZINFO_WP : Fld := ⟨0x400034, 17, 0⟩

/- Registers of chapter 13. -/
def Reg.FLT_CFG : Nat := 0x410000
def Reg.FLT_CFG_ON : Fld := ⟨0x410000, 31, 31⟩
def Reg.FLT_CFG_PAR : Fld := ⟨0x410000, 25, 24⟩
def Reg.FLT_CFG_WIDTH : Fld := ⟨0x410000, 20, 16⟩
def Reg.FLT_CFG_ROT : Fld := ⟨0x410000, 12, 8⟩
def Reg.FLT_CFG_CKPT : Fld := ⟨0x410000, 3, 0⟩
def Reg.FLT_GRP : Nat := 0x410004
def Reg.FLT_GRP_ADDR : Fld := ⟨0x410004, 31, 7⟩
def Reg.FLT_GRP_CNT : Nat := 0x410008
def Reg.FLT_GRP_CNT_COUNT : Fld := ⟨0x410008, 17, 0⟩
def Reg.FLT_SCR : Nat := 0x41000C
def Reg.FLT_SCR_BAND : Fld := ⟨0x41000C, 31, 12⟩
def Reg.FLT_SCR_SIZE : Fld := ⟨0x41000C, 11, 0⟩
def Reg.FLT_RECON : Nat := 0x410010
def Reg.FLT_RECON_REVS : Fld := ⟨0x410010, 3, 0⟩
def Reg.FLT_GC : Nat := 0x410014
def Reg.FLT_GC_START : Fld := ⟨0x410014, 31, 16⟩
def Reg.FLT_GC_STOP : Fld := ⟨0x410014, 15, 0⟩
def Reg.FLT_STATUS : Nat := 0x410018
def Reg.FLT_STATUS_GC : Fld := ⟨0x410018, 31, 31⟩
def Reg.FLT_STATUS_REFELT : Fld := ⟨0x410018, 30, 30⟩
def Reg.FLT_STATUS_UNFELT : Fld := ⟨0x410018, 29, 29⟩
def Reg.FLT_STATUS_RECON : Fld := ⟨0x410018, 20, 16⟩
def Reg.FLT_STATUS_SLOTS : Fld := ⟨0x410018, 11, 0⟩
def Reg.FLT_DEBT : Nat := 0x41001C
def Reg.FLT_DEBT_BOLTS : Fld := ⟨0x41001C, 31, 0⟩
def Reg.FLT_CNT : Nat := 0x410020
def Reg.FLT_CNT_RECON_OK : Fld := ⟨0x410020, 31, 16⟩
def Reg.FLT_CNT_RECON_FAIL : Fld := ⟨0x410020, 15, 0⟩
def Reg.FLT_SURF_SEL : Nat := 0x410030
def Reg.FLT_SURF_SEL_SURF : Fld := ⟨0x410030, 4, 0⟩
def Reg.FLT_SURF_INFO : Nat := 0x410034
def Reg.FLT_SURF_INFO_LOST : Fld := ⟨0x410034, 31, 31⟩
def Reg.FLT_SURF_INFO_FREE : Fld := ⟨0x410034, 30, 16⟩
def Reg.FLT_SURF_INFO_LIVE : Fld := ⟨0x410034, 15, 0⟩
def Reg.FLT_EVT : Nat := 0x410038
def Reg.FLT_EVT_VALID : Fld := ⟨0x410038, 31, 31⟩
def Reg.FLT_EVT_CAUSE : Fld := ⟨0x410038, 30, 28⟩
def Reg.FLT_EVT_ZONE : Fld := ⟨0x410038, 17, 0⟩

/- Registers of chapter 14. -/
def Reg.BUF_BANK : Nat := 0x420000
def Reg.BUF_BANK_ALLOC : Fld := ⟨0x420000, 31, 16⟩
def Reg.BUF_BANK_PWR : Fld := ⟨0x420000, 15, 0⟩
def Reg.BUF_DIRTY : Nat := 0x420004
def Reg.BUF_DIRTY_MAX : Fld := ⟨0x420004, 21, 16⟩
def Reg.BUF_DIRTY_NOW : Fld := ⟨0x420004, 15, 0⟩
def Reg.BUF_DESC : Nat := 0x420008
def Reg.BUF_DESC_BASE : Fld := ⟨0x420008, 31, 4⟩
def Reg.BUF_ECC_CNT : Nat := 0x42000C
def Reg.BUF_ECC_CNT_CE : Fld := ⟨0x42000C, 31, 16⟩
def Reg.BUF_ECC_CNT_UE : Fld := ⟨0x42000C, 15, 0⟩
def Reg.BUF_ELOG : Nat := 0x420010
def Reg.BUF_ELOG_VALID : Fld := ⟨0x420010, 31, 31⟩
def Reg.BUF_ELOG_MEM : Fld := ⟨0x420010, 30, 27⟩
def Reg.BUF_ELOG_SCRUB : Fld := ⟨0x420010, 26, 26⟩
def Reg.BUF_ELOG_ADDR : Fld := ⟨0x420010, 25, 0⟩
def Reg.BUF_POUNCE : Nat := 0x420020
def Reg.BUF_POUNCE_LATE : Fld := ⟨0x420020, 31, 31⟩
def Reg.BUF_POUNCE_PERIOD : Fld := ⟨0x420020, 23, 16⟩
def Reg.BUF_POUNCE_DONE_PCT : Fld := ⟨0x420020, 7, 0⟩
def Reg.BUF_TEST_ADDR : Nat := 0x420024
def Reg.BUF_TEST_ADDR_ADDR : Fld := ⟨0x420024, 25, 0⟩
def Reg.BUF_TEST_CTL : Nat := 0x420028
def Reg.BUF_TEST_CTL_GO : Fld := ⟨0x420028, 31, 31⟩
def Reg.BUF_TEST_CTL_CMASK : Fld := ⟨0x420028, 12, 8⟩
def Reg.BUF_TEST_CTL_DMASK : Fld := ⟨0x420028, 7, 0⟩
def Reg.DMC_CAP : Nat := 0x430000
def Reg.DMC_CAP_MIB : Fld := ⟨0x430000, 14, 0⟩
def Reg.DMC_FENCE : Nat := 0x430004
def Reg.DMC_FENCE_DONE : Fld := ⟨0x430004, 31, 31⟩
def Reg.DMC_FENCE_MIB : Fld := ⟨0x430004, 14, 0⟩
def Reg.DMC_ECC_CNT : Nat := 0x430008
def Reg.DMC_ECC_CNT_CE : Fld := ⟨0x430008, 31, 16⟩
def Reg.DMC_ECC_CNT_UE : Fld := ⟨0x430008, 15, 8⟩
def Reg.DMC_ECC_CNT_FENCE : Fld := ⟨0x430008, 7, 0⟩
def Reg.DMC_ELOG : Nat := 0x43000C
def Reg.DMC_ELOG_VALID : Fld := ⟨0x43000C, 31, 31⟩
def Reg.DMC_ELOG_SCRUB : Fld := ⟨0x43000C, 30, 30⟩
def Reg.DMC_ELOG_GRANULE : Fld := ⟨0x43000C, 27, 0⟩
def Reg.DMC_TEST_ADDR : Nat := 0x430010
def Reg.DMC_TEST_ADDR_GRANULE : Fld := ⟨0x430010, 27, 0⟩
def Reg.DMC_TEST_CTL : Nat := 0x430014
def Reg.DMC_TEST_CTL_GO : Fld := ⟨0x430014, 31, 31⟩
def Reg.DMC_TEST_CTL_QUARTER : Fld := ⟨0x430014, 30, 29⟩
def Reg.DMC_TEST_CTL_DEN : Fld := ⟨0x430014, 28, 28⟩
def Reg.DMC_TEST_CTL_DBIT : Fld := ⟨0x430014, 27, 21⟩
def Reg.DMC_TEST_CTL_CMASK : Fld := ⟨0x430014, 20, 12⟩
def Reg.DMC_TEST_CTL_PMASK : Fld := ⟨0x430014, 2, 0⟩
def Reg.SEC_STATUS : Nat := 0x630000
def Reg.SEC_STATUS_SELFTEST : Fld := ⟨0x630000, 3, 3⟩
def Reg.SEC_STATUS_VAULT_KEY : Fld := ⟨0x630000, 2, 2⟩
def Reg.SEC_STATUS_SYS_KEY : Fld := ⟨0x630000, 1, 1⟩
def Reg.SEC_STATUS_MEDIA_KEY : Fld := ⟨0x630000, 0, 0⟩
def Reg.SEC_KEYGEN : Nat := 0x630004
def Reg.SEC_KEYGEN_GEN : Fld := ⟨0x630004, 31, 0⟩
def Reg.SEC_CNT : Nat := 0x630008
def Reg.SEC_CNT_STALE_KEY : Fld := ⟨0x630008, 31, 16⟩
def Reg.SEC_CNT_ERASES : Fld := ⟨0x630008, 15, 0⟩

/- Registers of chapter 15. -/
def Reg.CRN_CFG : Nat := 0x440000
def Reg.CRN_CFG_COMPAT : Fld := ⟨0x440000, 8, 8⟩
def Reg.CRN_CFG_NAP_SEQ : Fld := ⟨0x440000, 1, 0⟩
def Reg.CRN_BATT_CFG : Nat := 0x440004
def Reg.CRN_BATT_CFG_AGE : Fld := ⟨0x440004, 31, 16⟩
def Reg.CRN_BATT_CFG_HIWAT : Fld := ⟨0x440004, 4, 0⟩
def Reg.CRN_STATUS : Nat := 0x440008
def Reg.CRN_STATUS_MISSES : Fld := ⟨0x440008, 31, 27⟩
def Reg.CRN_STATUS_BATT : Fld := ⟨0x440008, 26, 21⟩
def Reg.CRN_STATUS_NAP : Fld := ⟨0x440008, 20, 16⟩
def Reg.CRN_STATUS_COMPAT_NOW : Fld := ⟨0x440008, 0, 0⟩
def Reg.CRN_WIN : Nat := 0x440010
def Reg.CRN_WIN_EN : Fld := ⟨0x440010, 31, 31⟩
def Reg.CRN_WIN_BASE : Fld := ⟨0x440010, 27, 14⟩
def Reg.CRN_WIN_SIZE : Fld := ⟨0x440010, 13, 0⟩
def Reg.CRN_MAINT : Nat := 0x440040
def Reg.CRN_MAINT_GO : Fld := ⟨0x440040, 31, 31⟩
def Reg.CRN_MAINT_BUSY : Fld := ⟨0x440040, 30, 30⟩
def Reg.CRN_MAINT_OP : Fld := ⟨0x440040, 26, 24⟩
def Reg.CRN_MAINT_SET : Fld := ⟨0x440040, 23, 14⟩
def Reg.CRN_MAINT_WAY : Fld := ⟨0x440040, 7, 4⟩
def Reg.CRN_MAINT_ADDR : Nat := 0x440044
def Reg.CRN_MAINT_ADDR_LINE : Fld := ⟨0x440044, 26, 0⟩
def Reg.CRN_MAINT_TAG : Nat := 0x440048
def Reg.CRN_MAINT_TAG_VALID : Fld := ⟨0x440048, 31, 31⟩
def Reg.CRN_MAINT_TAG_RESERVED : Fld := ⟨0x440048, 30, 30⟩
def Reg.CRN_MAINT_TAG_TAG : Fld := ⟨0x440048, 16, 0⟩
def Reg.CRN_MAINT_PLRU : Nat := 0x44004C
def Reg.CRN_MAINT_PLRU_NODES : Fld := ⟨0x44004C, 15, 1⟩
def Reg.CRN_HIT : Nat := 0x440060
def Reg.CRN_HIT_COUNT : Fld := ⟨0x440060, 31, 0⟩
def Reg.CRN_MISS : Nat := 0x440064
def Reg.CRN_MISS_COUNT : Fld := ⟨0x440064, 31, 0⟩
def Reg.CRN_NAP : Nat := 0x440068
def Reg.CRN_NAP_PREFETCH : Fld := ⟨0x440068, 31, 16⟩
def Reg.CRN_NAP_PROMOTED : Fld := ⟨0x440068, 15, 0⟩
def Reg.CRN_BATT_CNT : Nat := 0x44006C
def Reg.CRN_BATT_CNT_MERGE : Fld := ⟨0x44006C, 31, 16⟩
def Reg.CRN_BATT_CNT_FULL_STALL : Fld := ⟨0x44006C, 15, 0⟩
def Reg.CRN_RACE : Nat := 0x440070
def Reg.CRN_RACE_VICTIM_HIT : Fld := ⟨0x440070, 31, 16⟩
def Reg.CRN_RACE_NO_INSTALL : Fld := ⟨0x440070, 15, 0⟩
def Reg.CRN_ERR : Nat := 0x440074
def Reg.CRN_ERR_TAG_UE : Fld := ⟨0x440074, 15, 0⟩

/- Registers of R455. -/
def Reg.CPX_STATUS : Nat := 0x520000
def Reg.CPX_STATUS_GEN_Y : Fld := ⟨0x520000, 31, 24⟩
def Reg.CPX_STATUS_GEN_X : Fld := ⟨0x520000, 23, 16⟩
def Reg.CPX_STATUS_STATE_Y : Fld := ⟨0x520000, 15, 13⟩
def Reg.CPX_STATUS_STATE_X : Fld := ⟨0x520000, 12, 10⟩
def Reg.CPX_STATUS_SYNC : Fld := ⟨0x520000, 9, 9⟩
def Reg.CPX_STATUS_PB_BY : Fld := ⟨0x520000, 8, 8⟩
def Reg.CPX_STATUS_PA_BY : Fld := ⟨0x520000, 7, 7⟩
def Reg.CPX_CFG : Nat := 0x520004
def Reg.CPX_CFG_AUTO_BACK : Fld := ⟨0x520004, 0, 0⟩
def Reg.CPX_SEM : Nat := 0x520008
def Reg.CPX_SEM_HOLDER : Fld := ⟨0x520008, 31, 29⟩
def Reg.CPX_SEM_EXPLICIT : Fld := ⟨0x520008, 28, 28⟩
def Reg.CPX_SEM_TIMER : Fld := ⟨0x520008, 27, 27⟩
def Reg.CPX_SEM_ABANDONED : Fld := ⟨0x520008, 26, 26⟩
def Reg.CPX_SEM_QUEUE : Fld := ⟨0x520008, 22, 16⟩
def Reg.CPX_SEM_GRANTS : Fld := ⟨0x520008, 15, 0⟩
def Reg.CPX_SEM_CNT : Nat := 0x52000C
def Reg.CPX_SEM_CNT_REFUSED : Fld := ⟨0x52000C, 31, 16⟩
def Reg.CPX_SEM_CNT_EXPIRED : Fld := ⟨0x52000C, 15, 0⟩
def Reg.CPX_MIRROR : Nat := 0x520010
def Reg.CPX_MIRROR_VER : Fld := ⟨0x520010, 31, 24⟩
def Reg.CPX_MIRROR_LAG : Fld := ⟨0x520010, 15, 0⟩
def Reg.CPX_TAKE_LOG : Nat := 0x520014
def Reg.CPX_TAKE_LOG_VALID : Fld := ⟨0x520014, 31, 31⟩
def Reg.CPX_TAKE_LOG_FROM : Fld := ⟨0x520014, 30, 30⟩
def Reg.CPX_TAKE_LOG_CAUSE : Fld := ⟨0x520014, 29, 27⟩
def Reg.CPX_TAKE_LOG_STALL : Fld := ⟨0x520014, 24, 15⟩
def Reg.CPX_TAKE_LOG_CONTEXTS : Fld := ⟨0x520014, 14, 0⟩
def Reg.CPX_TAKE_CNT : Nat := 0x520018
def Reg.CPX_TAKE_CNT_TAKEOVER : Fld := ⟨0x520018, 31, 16⟩
def Reg.CPX_TAKE_CNT_HANDOVER : Fld := ⟨0x520018, 15, 0⟩
def Reg.CPX_CTL : Nat := 0x52001C
def Reg.CPX_CTL_SEM_FREE : Fld := ⟨0x52001C, 2, 2⟩
def Reg.CPX_CTL_TO_Y : Fld := ⟨0x52001C, 1, 1⟩
def Reg.CPX_CTL_TO_X : Fld := ⟨0x52001C, 0, 0⟩

/- Registers of R472. -/
def Reg.SYS_MPI_STATUS : Nat := 0x40
def Reg.SYS_MPI_STATUS_JOBS : Fld := ⟨0x40, 31, 24⟩
def Reg.SYS_MPI_STATUS_BAUD_100 : Fld := ⟨0x40, 21, 0⟩
def Reg.SYS_MPI_CNT : Nat := 0x44
def Reg.SYS_MPI_CNT_PACKETS : Fld := ⟨0x44, 31, 16⟩
def Reg.SYS_MPI_CNT_BAD_FRAME : Fld := ⟨0x44, 15, 8⟩
def Reg.SYS_MPI_CNT_LOST_REPLY : Fld := ⟨0x44, 7, 0⟩

/- Registers of chapter 19. -/
def Reg.NVC_FL_STATUS : Nat := 0x600000
def Reg.NVC_FL_STATUS_SUSP_SECTOR : Fld := ⟨0x600000, 23, 16⟩
def Reg.NVC_FL_STATUS_ERR : Fld := ⟨0x600000, 11, 8⟩
def Reg.NVC_FL_STATUS_OP : Fld := ⟨0x600000, 2, 0⟩
def Reg.NVC_FL_KEY : Nat := 0x600004
def Reg.NVC_FL_KEY_KEY : Fld := ⟨0x600004, 7, 0⟩
def Reg.NVC_FL_CMD : Nat := 0x600008
def Reg.NVC_FL_CMD_CODE : Fld := ⟨0x600008, 7, 0⟩
def Reg.NVC_FL_ADDR : Nat := 0x60000C
def Reg.NVC_FL_ADDR_ADDR : Fld := ⟨0x60000C, 24, 0⟩
def Reg.NVC_FL_DATA : Nat := 0x600010
def Reg.NVC_FL_DATA_DATA : Fld := ⟨0x600010, 31, 0⟩
def Reg.NVC_FL_MODE : Nat := 0x600200
def Reg.NVC_FL_MODE_NESTED : Fld := ⟨0x600200, 0, 0⟩
def Reg.NVC_FL_ECC : Nat := 0x600204
def Reg.NVC_FL_ECC_CE : Fld := ⟨0x600204, 31, 16⟩
def Reg.NVC_FL_ECC_UE : Fld := ⟨0x600204, 15, 0⟩
def Reg.NVC_FL_FAULT : Nat := 0x600208
def Reg.NVC_FL_FAULT_VALID : Fld := ⟨0x600208, 31, 31⟩
def Reg.NVC_FL_FAULT_ADDR : Fld := ⟨0x600208, 24, 0⟩
def Reg.NVC_OPT_STATUS : Nat := 0x600210
def Reg.NVC_OPT_STATUS_DEFAULT : Fld := ⟨0x600210, 31, 31⟩
def Reg.NVC_OPT_STATUS_COPY : Fld := ⟨0x600210, 30, 30⟩
def Reg.NVC_OPT_SEQ : Nat := 0x600214
def Reg.NVC_OPT_SEQ_SEQ : Fld := ⟨0x600214, 31, 0⟩
def Reg.NVC_BOOT : Nat := 0x600220
def Reg.NVC_BOOT_FALLBACK : Fld := ⟨0x600220, 31, 31⟩
def Reg.NVC_BOOT_TRIES : Fld := ⟨0x600220, 27, 24⟩
def Reg.NVC_BOOT_PENDING : Fld := ⟨0x600220, 19, 18⟩
def Reg.NVC_BOOT_ACTIVE : Fld := ⟨0x600220, 16, 16⟩
def Reg.NVC_BOOT_FW_BOOTED : Fld := ⟨0x600220, 2, 2⟩
def Reg.NVC_BOOT_PROF_LOADED : Fld := ⟨0x600220, 1, 1⟩
def Reg.NVC_BOOT_PROF_SEL : Fld := ⟨0x600220, 0, 0⟩
def Reg.NVC_TICKET : Nat := 0x600230
def Reg.NVC_TICKET_WORD0 : Fld := ⟨0x600230, 31, 0⟩
def Reg.NVC_MRAM_ECC : Nat := 0x600240
def Reg.NVC_MRAM_ECC_CE : Fld := ⟨0x600240, 31, 16⟩
def Reg.NVC_MRAM_ECC_UE : Fld := ⟨0x600240, 15, 0⟩
def Reg.NVC_MRAM_ELOG : Nat := 0x600244
def Reg.NVC_MRAM_ELOG_VALID : Fld := ⟨0x600244, 31, 31⟩
def Reg.NVC_MRAM_ELOG_ADDR : Fld := ⟨0x600244, 25, 0⟩

/- Registers of chapter 20. -/
def Reg.FUL_RING : Nat := 0x450000
def Reg.FUL_RING_BASE : Fld := ⟨0x450000, 25, 5⟩
def Reg.FUL_RING_TAIL : Nat := 0x450004
def Reg.FUL_RING_TAIL_TAIL : Fld := ⟨0x450004, 3, 0⟩
def Reg.FUL_STATUS : Nat := 0x450008
def Reg.FUL_STATUS_BUSY : Fld := ⟨0x450008, 31, 31⟩
def Reg.FUL_STATUS_VAULT : Fld := ⟨0x450008, 30, 30⟩
def Reg.FUL_STATUS_HEAD : Fld := ⟨0x450008, 3, 0⟩
def Reg.FUL_CTL : Nat := 0x45000C
def Reg.FUL_CTL_FLUSH : Fld := ⟨0x45000C, 0, 0⟩
def Reg.FUL_CNT : Nat := 0x450010
def Reg.FUL_CNT_JOBS : Fld := ⟨0x450010, 31, 16⟩
def Reg.FUL_CNT_NOSHRINK : Fld := ⟨0x450010, 15, 8⟩
def Reg.FUL_CNT_FULL : Fld := ⟨0x450010, 7, 0⟩
def Reg.FUL_ERR : Nat := 0x450014
def Reg.FUL_ERR_VALID : Fld := ⟨0x450014, 31, 31⟩
def Reg.FUL_ERR_STATUS : Fld := ⟨0x450014, 15, 8⟩
def Reg.FUL_ERR_JOB : Fld := ⟨0x450014, 3, 0⟩

/- Registers of R517. -/
def Reg.HBR_STATUS : Nat := 0x460000
def Reg.HBR_STATUS_FULL : Fld := ⟨0x460000, 31, 31⟩
def Reg.HBR_STATUS_CLEARING : Fld := ⟨0x460000, 30, 30⟩
def Reg.HBR_STATUS_FROZEN : Fld := ⟨0x460000, 29, 29⟩
def Reg.HBR_STATUS_COUNT : Fld := ⟨0x460000, 16, 0⟩
def Reg.HBR_SEQ : Nat := 0x460004
def Reg.HBR_SEQ_SEQ : Fld := ⟨0x460004, 31, 0⟩
def Reg.HBR_LOST : Nat := 0x460008
def Reg.HBR_LOST_COUNT : Fld := ⟨0x460008, 15, 0⟩
def Reg.HBR_CURSOR : Nat := 0x46000C
def Reg.HBR_CURSOR_AUTOINC : Fld := ⟨0x46000C, 31, 31⟩
def Reg.HBR_CURSOR_POISON : Fld := ⟨0x46000C, 30, 30⟩
def Reg.HBR_CURSOR_INDEX : Fld := ⟨0x46000C, 15, 0⟩
def Reg.HBR_WIN : Nat := 0x460010
def Reg.HBR_WIN_WORD : Fld := ⟨0x460010, 31, 0⟩
def Reg.HBR_ARCH : Nat := 0x460030
def Reg.HBR_ARCH_ADDR : Fld := ⟨0x460030, 31, 5⟩

/- Registers of R528. -/
def Reg.PDM_STATUS : Nat := 0x610000
def Reg.PDM_STATUS_BUSY : Fld := ⟨0x610000, 31, 31⟩
def Reg.PDM_STATUS_TARGET : Fld := ⟨0x610000, 29, 27⟩
def Reg.PDM_STATUS_STATE : Fld := ⟨0x610000, 26, 24⟩
def Reg.PDM_ON : Nat := 0x610010
def Reg.PDM_ON_ON : Fld := ⟨0x610010, 31, 0⟩
def Reg.PDM_LOW : Nat := 0x610020
def Reg.PDM_LOW_LOW : Fld := ⟨0x610020, 31, 0⟩
def Reg.PDM_ABSENT : Nat := 0x610030
def Reg.PDM_ABSENT_ABSENT : Fld := ⟨0x610030, 31, 0⟩
def Reg.PDM_PS_ON : Nat := 0x610100
def Reg.PDM_PS_ON_ON : Fld := ⟨0x610100, 31, 0⟩
def Reg.PDM_PS_LOW : Nat := 0x610180
def Reg.PDM_PS_LOW_LOW : Fld := ⟨0x610180, 31, 0⟩
def Reg.PDM_PS_MW : Nat := 0x610200
def Reg.PDM_PS_MW_MW : Fld := ⟨0x610200, 15, 0⟩
def Reg.PDM_PS_EXIT : Nat := 0x610220
def Reg.PDM_PS_EXIT_EXIT_US : Fld := ⟨0x610220, 31, 0⟩
def Reg.PDM_PS_DRIVE_MW : Nat := 0x610280
def Reg.PDM_PS_DRIVE_MW_MW : Fld := ⟨0x610280, 31, 0⟩
def Reg.PDM_PS_RAMP : Nat := 0x6102A0
def Reg.PDM_PS_RAMP_RAMP_US : Fld := ⟨0x6102A0, 31, 0⟩
def Reg.PDM_PS3_SPEED : Nat := 0x610240
def Reg.PDM_PS3_SPEED_SPEED : Fld := ⟨0x610240, 20, 0⟩
def Reg.PDM_CNT : Nat := 0x610260
def Reg.PDM_CNT_WAKES : Fld := ⟨0x610260, 31, 16⟩
def Reg.PDM_CNT_REWAKE : Fld := ⟨0x610260, 15, 0⟩
def Reg.PDM_TEMP : Nat := 0x610300
def Reg.PDM_TEMP_TEMP : Fld := ⟨0x610300, 15, 0⟩
def Reg.PDM_THERM_CFG : Nat := 0x610320
def Reg.PDM_THERM_CFG_SHUT : Fld := ⟨0x610320, 23, 16⟩
def Reg.PDM_THERM_CFG_CRIT : Fld := ⟨0x610320, 15, 8⟩
def Reg.PDM_THERM_CFG_WARN : Fld := ⟨0x610320, 7, 0⟩
def Reg.PDM_THERM_STATUS : Nat := 0x610324
def Reg.PDM_THERM_STATUS_HOLD : Fld := ⟨0x610324, 31, 31⟩
def Reg.PDM_THERM_STATUS_HOT : Fld := ⟨0x610324, 12, 8⟩
def Reg.PDM_THERM_STATUS_LEVEL : Fld := ⟨0x610324, 1, 0⟩
def Reg.PDM_THERM_CNT : Nat := 0x610328
def Reg.PDM_THERM_CNT_THROTTLE : Fld := ⟨0x610328, 31, 16⟩
def Reg.PDM_THERM_CNT_HOLDS : Fld := ⟨0x610328, 15, 0⟩

/- Registers of R541. -/
def Reg.FMG_STATUS : Nat := 0x620000
def Reg.FMG_STATUS_HOLD : Fld := ⟨0x620000, 31, 31⟩
def Reg.FMG_STATUS_CORES : Fld := ⟨0x620000, 27, 24⟩
def Reg.FMG_STATUS_RESTARTS : Fld := ⟨0x620000, 23, 20⟩
def Reg.FMG_CFG : Nat := 0x620004
def Reg.FMG_CFG_WINDOW : Fld := ⟨0x620004, 31, 24⟩
def Reg.FMG_CFG_LIMIT : Fld := ⟨0x620004, 23, 20⟩
def Reg.FMG_CFG_RESTARTS : Fld := ⟨0x620004, 19, 16⟩
def Reg.FMG_WDT : Nat := 0x620008
def Reg.FMG_WDT_MOD : Fld := ⟨0x620008, 31, 24⟩
def Reg.FMG_WDT_BLK : Fld := ⟨0x620008, 23, 16⟩
def Reg.FMG_WDT_CORE : Fld := ⟨0x620008, 15, 8⟩
def Reg.FMG_KICK : Nat := 0x62000C
def Reg.FMG_KICK_MOD : Fld := ⟨0x62000C, 0, 0⟩
def Reg.FMG_ELOG : Nat := 0x620010
def Reg.FMG_ELOG_VALID : Fld := ⟨0x620010, 31, 31⟩
def Reg.FMG_ELOG_CAUSE : Fld := ⟨0x620010, 30, 28⟩
def Reg.FMG_ELOG_BLOCK : Fld := ⟨0x620010, 27, 22⟩
def Reg.FMG_ELOG_CORE : Fld := ⟨0x620010, 21, 20⟩
def Reg.FMG_ELOG_WEDGE : Fld := ⟨0x620010, 9, 0⟩
def Reg.FMG_CNT : Nat := 0x620014
def Reg.FMG_CNT_FAULTS : Fld := ⟨0x620014, 31, 16⟩
def Reg.FMG_CNT_RESETS : Fld := ⟨0x620014, 15, 0⟩
def Reg.FMG_FAILED : Nat := 0x620018
def Reg.FMG_FAILED_FAILED : Fld := ⟨0x620018, 31, 0⟩

/- Registers of chapter 24. -/
def Reg.SYS_BOOT : Nat := 0x10
def Reg.SYS_BOOT_STEP : Fld := ⟨0x10, 31, 28⟩
def Reg.SYS_BOOT_RESULT : Fld := ⟨0x10, 27, 25⟩
def Reg.SYS_BOOT_CLK_ALT : Fld := ⟨0x10, 24, 24⟩
def Reg.SYS_BOOT_DRAM_CH : Fld := ⟨0x10, 23, 22⟩
def Reg.SYS_BOOT_VAULT_RESTORED : Fld := ⟨0x10, 21, 21⟩
def Reg.SYS_BOOT_RESUMED : Fld := ⟨0x10, 20, 20⟩
def Reg.SYS_STRAP : Nat := 0x14
def Reg.SYS_STRAP_EFFECTIVE : Fld := ⟨0x14, 15, 8⟩
def Reg.SYS_STRAP_PINS : Fld := ⟨0x14, 7, 0⟩
def Reg.SYS_BOOT_MS : Nat := 0x80
def Reg.SYS_BOOT_MS_MS : Fld := ⟨0x80, 31, 0⟩

def regRows0 : List RegRow := [
  ⟨0x10000, 1, 4, 0x0, .always, [⟨31, 0, .ro, .any, 0⟩]⟩,  -- TICK_NOW_LO
  ⟨0x10004, 1, 4, 0x0, .always, [⟨15, 0, .ro, .any, 0⟩]⟩,  -- TICK_NOW_HI
  ⟨0x10008, 1, 4, 0x0, .always, [⟨11, 8, .ro, .any, 0⟩, ⟨7, 4, .ro, .any, 0⟩, ⟨2, 2, .ro, .any, 0⟩, ⟨1, 0, .ro, .any, 0⟩]⟩,  -- TICK_STATUS
  ⟨0x1000C, 1, 4, 0x0, .always, [⟨9, 0, .rws, .range 1 1023, 3⟩]⟩,  -- TICK_CFG
  ⟨0x10010, 1, 4, 0x0, .always, [⟨7, 0, .w1c, .any, 0⟩]⟩,  -- TICK_OVR
  ⟨0x10014, 1, 4, 0x0, .always, [⟨15, 0, .rc, .any, 0⟩]⟩,  -- TICK_OVR_CNT
  ⟨0x10018, 1, 4, 0x0, .always, [⟨4, 4, .w1c, .any, 0⟩, ⟨3, 3, .w1c, .any, 0⟩, ⟨2, 2, .w1c, .any, 0⟩, ⟨1, 1, .w1c, .any, 0⟩, ⟨0, 0, .w1c, .any, 0⟩]⟩,  -- TICK_EVENT
  ⟨0x1001C, 1, 4, 0x0, .always, [⟨15, 0, .ro, .any, 0⟩]⟩,  -- TICK_PERIOD
  ⟨0x10100, 24, 4, 0x0, .always, [⟨15, 0, .rws, .any, 3⟩]⟩,  -- TICK_SKEW
  ⟨0x0, 1, 4, 0x0, .always, [⟨15, 0, .ro, .any, 0⟩]⟩,  -- SYS_ID
  ⟨0x4, 1, 4, 0x0, .always, [⟨31, 24, .ro, .any, 0⟩, ⟨23, 16, .ro, .any, 0⟩, ⟨15, 8, .ro, .any, 0⟩, ⟨7, 0, .ro, .any, 0⟩]⟩,  -- SYS_REV
  ⟨0x8, 1, 4, 0x0, .always, [⟨25, 20, .ro, .any, 0⟩, ⟨19, 16, .ro, .any, 0⟩, ⟨10, 8, .ro, .any, 0⟩, ⟨7, 7, .ro, .any, 0⟩, ⟨6, 6, .ro, .any, 0⟩, ⟨5, 5, .ro, .any, 0⟩, ⟨4, 4, .ro, .any, 0⟩, ⟨3, 3, .ro, .any, 0⟩, ⟨2, 2, .ro, .any, 0⟩, ⟨1, 1, .ro, .any, 0⟩, ⟨0, 0, .ro, .any, 0⟩]⟩,  -- SYS_CAPS
  ⟨0x20000, 1, 4, 0x0, .always, [⟨1, 1, .wo, .any, 0⟩, ⟨0, 0, .wo, .any, 0⟩]⟩,  -- SIZ_CTL
  ⟨0x20004, 1, 4, 0x0, .always, [⟨15, 8, .ro, .any, 0⟩, ⟨3, 3, .w1c, .any, 0⟩, ⟨2, 2, .ro, .any, 0⟩, ⟨1, 1, .ro, .any, 0⟩, ⟨0, 0, .ro, .any, 0⟩]⟩,  -- SIZ_STATUS
  ⟨0x20008, 1, 4, 0x0, .always, [⟨15, 8, .ro, .any, 0⟩, ⟨7, 0, .ro, .any, 0⟩]⟩,  -- SIZ_RESULT
  ⟨0x2000C, 1, 4, 0x0, .always, [⟨17, 0, .ro, .any, 0⟩]⟩,  -- SIZ_MARGIN
  ⟨0x20010, 1, 4, 0x0, .always, [⟨31, 24, .ro, .any, 0⟩, ⟨23, 0, .ro, .any, 0⟩]⟩,  -- SIZ_FLOOR
  ⟨0x20014, 1, 4, 0x0, .always, [⟨16, 16, .ro, .any, 0⟩, ⟨8, 0, .ro, .any, 0⟩]⟩,  -- SIZ_TRIM_CNT
  ⟨0x20018, 1, 4, 0x0, .always, [⟨7, 0, .rw, .any, 0⟩]⟩,  -- SIZ_TRIM_CUR
  ⟨0x20020, 4, 4, 0x0, .always, [⟨31, 0, .ro, .any, 0⟩]⟩,  -- SIZ_TRIM_W
  ⟨0x20030, 1, 4, 0x0, .always, [⟨15, 0, .rws, .any, 0⟩]⟩,  -- SIZ_DRAM_DECL
  ⟨0x20034, 1, 4, 0x0, .always, [⟨15, 0, .rws, .any, 0⟩]⟩,  -- SIZ_KE
  ⟨0x100000, 1, 4, 0x10000, .safeOrDebug, [⟨2, 2, .wo, .any, 0⟩, ⟨1, 1, .wo, .any, 0⟩, ⟨0, 0, .rw, .any, 0⟩]⟩,  -- BLK_CTL
  ⟨0x100004, 1, 4, 0x10000, .always, [⟨31, 24, .ro, .any, 0⟩, ⟨23, 23, .w1c, .any, 0⟩, ⟨22, 22, .ro, .any, 0⟩, ⟨21, 21, .ro, .any, 0⟩, ⟨20, 19, .ro, .any, 0⟩, ⟨18, 18, .ro, .any, 0⟩, ⟨17, 17, .ro, .any, 0⟩, ⟨16, 16, .ro, .any, 0⟩, ⟨13, 0, .ro, .any, 0⟩]⟩,  -- BLK_STATUS
  ⟨0x100008, 1, 4, 0x10000, .always, [⟨7, 1, .ro, .any, 0⟩]⟩]  -- BLK_EVT_PEND

def regRows1 : List RegRow := [
  ⟨0x10000C, 1, 4, 0x10000, .always, [⟨7, 1, .w1c, .any, 0⟩]⟩,  -- BLK_EVT_SEEN
  ⟨0x100010, 1, 4, 0x10000, .always, [⟨15, 0, .rc, .any, 0⟩]⟩,  -- BLK_CS_CE
  ⟨0x100014, 1, 4, 0x10000, .always, [⟨7, 0, .rc, .any, 0⟩]⟩,  -- BLK_CS_UE
  ⟨0x100018, 1, 4, 0x10000, .always, [⟨31, 31, .w1c, .any, 0⟩, ⟨30, 30, .ro, .any, 0⟩, ⟨29, 28, .ro, .any, 0⟩, ⟨13, 0, .ro, .any, 0⟩]⟩,  -- BLK_CS_ELOG
  ⟨0x10001C, 1, 4, 0x10000, .always, [⟨31, 24, .ro, .any, 0⟩, ⟨23, 20, .ro, .any, 0⟩, ⟨13, 0, .ro, .any, 0⟩]⟩,  -- BLK_LOADERR
  ⟨0x100020, 1, 4, 0x10000, .always, [⟨3, 0, .rws, .any, 0⟩]⟩,  -- BLK_PLK_LEAD
  ⟨0x100024, 1, 4, 0x10000, .always, [⟨31, 16, .ro, .any, 0⟩, ⟨15, 0, .ro, .any, 0⟩]⟩,  -- BLK_PLANK
  ⟨0x100028, 1, 4, 0x10000, .always, [⟨27, 0, .ro, .any, 0⟩]⟩,  -- BLK_LAST_STAMP
  ⟨0x100040, 8, 4, 0x10000, .always, [⟨13, 0, .rws, .any, 0⟩]⟩,  -- BLK_VEC
  ⟨0x100100, 16, 4, 0x10000, .always, [⟨31, 0, .ro, .any, 0⟩]⟩,  -- BLK_G
  ⟨0x100140, 4, 4, 0x10000, .always, [⟨15, 0, .ro, .any, 0⟩]⟩,  -- BLK_K
  ⟨0x120000, 1, 4, 0x20000, .always, [⟨31, 31, .rw, .any, 0⟩, ⟨13, 0, .rw, .any, 0⟩]⟩,  -- CST_ADDR
  ⟨0x120004, 1, 4, 0x20000, .safeOnly, [⟨0, 0, .rw, .any, 0⟩]⟩,  -- CST_CTL
  ⟨0x120010, 4, 4, 0x20000, .always, [⟨31, 0, .rws, .any, 0⟩]⟩,  -- CST_DATA
  ⟨0x120020, 1, 4, 0x20000, .rawOnly, [⟨15, 0, .rws, .any, 0⟩]⟩,  -- CST_CHECK
  ⟨0x220000, 1, 4, 0x10000, .always, [⟨2, 2, .w1c, .any, 0⟩, ⟨1, 1, .w1c, .any, 0⟩, ⟨0, 0, .ro, .any, 0⟩]⟩,  -- AFE_SYN_STATUS
  ⟨0x220004, 1, 4, 0x10000, .always, [⟨31, 0, .ro, .any, 0⟩]⟩,  -- AFE_SYN_FW
  ⟨0x220008, 1, 4, 0x10000, .always, [⟨31, 31, .rws, .any, 0⟩, ⟨15, 0, .ro, .any, 0⟩]⟩,  -- AFE_TRACK
  ⟨0x22000C, 1, 4, 0x10000, .calOrSafe, [⟨10, 8, .w1c, .any, 0⟩, ⟨6, 4, .ro, .any, 0⟩, ⟨2, 0, .ro, .any, 0⟩]⟩,  -- AFE_LANE_STATUS
  ⟨0x220010, 1, 4, 0x10000, .always, [⟨1, 0, .rw, .range 0 2, 0⟩]⟩,  -- AFE_LIVE_SEL
  ⟨0x220014, 1, 4, 0x10000, .always, [⟨31, 0, .ro, .any, 0⟩]⟩,  -- AFE_LIVE_A
  ⟨0x220018, 1, 4, 0x10000, .always, [⟨31, 0, .ro, .any, 0⟩]⟩,  -- AFE_LIVE_B
  ⟨0x22001C, 1, 4, 0x10000, .always, [⟨15, 0, .rc, .any, 0⟩]⟩,  -- AFE_SAT_CNT
  ⟨0x220040, 12, 4, 0x10000, .calOrSafe, [⟨2, 0, .w1c, .any, 0⟩]⟩,  -- AFE_RDR_FAIL
  ⟨0x200000, 1, 4, 0x10000, .always, [⟨31, 8, .rws, .any, 0⟩]⟩]  -- CHN_RZ_BASE

def regRows2 : List RegRow := [
  ⟨0x200004, 1, 4, 0x10000, .always, [⟨23, 12, .ro, .any, 0⟩, ⟨9, 4, .ro, .any, 0⟩, ⟨3, 0, .ro, .any, 0⟩]⟩,  -- CHN_RZ_CUR
  ⟨0x200008, 1, 4, 0x10000, .always, [⟨11, 8, .rws, .range 4 12, 0⟩, ⟨3, 3, .rwt, .any, 0⟩, ⟨2, 2, .rwt, .any, 0⟩, ⟨1, 1, .rwt, .any, 0⟩, ⟨0, 0, .rwt, .any, 0⟩]⟩,  -- CHN_ADAPT_CTL
  ⟨0x20000C, 1, 4, 0x10000, .always, [⟨31, 24, .rws, .any, 0⟩, ⟨23, 16, .rws, .any, 0⟩, ⟨15, 8, .rws, .any, 0⟩, ⟨7, 0, .rws, .any, 0⟩]⟩,  -- CHN_ADAPT_THR
  ⟨0x200010, 1, 4, 0x10000, .always, [⟨23, 16, .rc, .any, 0⟩, ⟨15, 14, .ro, .any, 0⟩, ⟨12, 0, .ro, .any, 0⟩]⟩,  -- CHN_ADAPT_STATUS
  ⟨0x200014, 1, 4, 0x10000, .always, [⟨31, 16, .rc, .any, 0⟩, ⟨15, 8, .rc, .any, 0⟩, ⟨7, 0, .rc, .any, 0⟩]⟩,  -- CHN_WB_STATUS
  ⟨0x200018, 1, 4, 0x10000, .always, [⟨31, 31, .w1c, .any, 0⟩, ⟨30, 30, .ro, .any, 0⟩, ⟨9, 4, .ro, .any, 0⟩, ⟨3, 0, .ro, .any, 0⟩]⟩,  -- CHN_RZ_ERR
  ⟨0x200020, 1, 4, 0x0, .always, [⟨24, 18, .rws, .range 1 64, 0⟩, ⟨17, 0, .rws, .any, 0⟩]⟩,  -- CHN_WB_CFG
  ⟨0x200040, 1, 4, 0x10000, .always, [⟨18, 16, .rws, .any, 0⟩, ⟨13, 8, .rws, .range 24 40, 0⟩, ⟨3, 0, .rws, .range 6 12, 0⟩]⟩,  -- CHN_DEC_CFG
  ⟨0x200044, 1, 4, 0x10000, .always, [⟨12, 8, .rws, .range 4 24, 0⟩, ⟨3, 0, .rws, .range 1 8, 0⟩]⟩,  -- CHN_SYNC_CFG
  ⟨0x200048, 1, 4, 0x10000, .always, [⟨31, 9, .rws, .any, 0⟩, ⟨6, 4, .rws, .range 0 4, 10⟩, ⟨2, 0, .rws, .range 0 4, 10⟩]⟩,  -- CHN_ALT
  ⟨0x20004C, 1, 4, 0x10000, .always, [⟨23, 16, .rc, .any, 0⟩, ⟨4, 0, .ro, .any, 0⟩]⟩,  -- CHN_RPL_STATUS
  ⟨0x200050, 1, 4, 0x10000, .always, [⟨31, 28, .ro, .any, 0⟩, ⟨27, 27, .ro, .any, 0⟩, ⟨23, 0, .ro, .any, 0⟩]⟩,  -- CHN_LADDER_STATUS
  ⟨0x200054, 1, 4, 0x10000, .always, [⟨10, 0, .ro, .any, 0⟩]⟩,  -- CHN_LADDER_QUEUE
  ⟨0x200060, 8, 4, 0x10000, .always, [⟨31, 0, .rc, .any, 0⟩]⟩,  -- CHN_RUNG_OK
  ⟨0x200080, 1, 4, 0x10000, .always, [⟨31, 0, .rc, .any, 0⟩]⟩,  -- CHN_UNREC
  ⟨0x200090, 1, 4, 0x0, .always, [⟨13, 8, .rws, .any, 0⟩, ⟨7, 0, .rws, .any, 10⟩]⟩,  -- CHN_LADDER_CFG
  ⟨0x2000A0, 3, 4, 0x0, .always, [⟨23, 0, .ro, .any, 10⟩]⟩,  -- CHN_RUNG_COST
  ⟨0x2000AC, 4, 4, 0x0, .always, [⟨23, 0, .rws, .any, 10⟩]⟩,  -- CHN_RUNG_COST
  ⟨0x2000BC, 1, 4, 0x0, .always, [⟨23, 0, .ro, .any, 10⟩]⟩,  -- CHN_RUNG_COST
  ⟨0x240000, 1, 4, 0x10000, .always, [⟨31, 5, .rws, .any, 0⟩]⟩,  -- WAS_WR_BASE
  ⟨0x240004, 1, 4, 0x10000, .always, [⟨23, 16, .rws, .any, 0⟩, ⟨11, 8, .rws, .range 1 15, 0⟩, ⟨1, 0, .rws, .range 0 2, 0⟩]⟩,  -- WAS_WR_CFG
  ⟨0x240008, 1, 4, 0x10000, .always, [⟨15, 8, .rws, .range 2 12, 0⟩, ⟨7, 0, .rws, .range 2 8, 0⟩]⟩,  -- WAS_INH_THR
  ⟨0x24000C, 1, 4, 0x10000, .always, [⟨27, 16, .ro, .any, 0⟩, ⟨15, 12, .ro, .any, 0⟩, ⟨11, 11, .ro, .any, 0⟩, ⟨10, 10, .ro, .any, 0⟩, ⟨9, 9, .w1c, .any, 0⟩, ⟨8, 8, .ro, .any, 0⟩]⟩,  -- WAS_STATUS
  ⟨0x240010, 1, 4, 0x10000, .always, [⟨31, 31, .w1c, .any, 0⟩, ⟨23, 20, .ro, .any, 0⟩, ⟨13, 4, .ro, .any, 0⟩, ⟨3, 0, .ro, .any, 0⟩]⟩,  -- WAS_WF_LOG
  ⟨0x240014, 1, 4, 0x10000, .always, [⟨15, 0, .rc, .any, 0⟩]⟩]  -- WAS_WF_CNT

def regRows3 : List RegRow := [
  ⟨0x240018, 1, 4, 0x10000, .always, [⟨31, 28, .rws, .range 1 6, 0⟩, ⟨13, 0, .rws, .any, 0⟩]⟩,  -- WAS_RAW_CFG
  ⟨0x24001C, 1, 4, 0x10000, .always, [⟨31, 16, .rc, .any, 0⟩, ⟨15, 8, .rc, .any, 0⟩]⟩,  -- WAS_RAW_STATUS
  ⟨0x240048, 14, 4, 0x10000, .always, [⟨7, 0, .rws, .any, 0⟩]⟩,  -- WAS_HTR_STEP
  ⟨0x240080, 12, 4, 0x10000, .always, [⟨31, 31, .ro, .any, 0⟩, ⟨30, 30, .ro, .any, 0⟩, ⟨7, 0, .ro, .any, 0⟩]⟩,  -- WAS_HH
  ⟨0x2400C0, 1, 4, 0x10000, .always, [⟨15, 8, .rws, .any, 0⟩, ⟨7, 0, .rws, .any, 0⟩]⟩,  -- WAS_HH_THR
  ⟨0x248000, 1, 4, 0x10000, .always, [⟨31, 5, .rws, .any, 0⟩]⟩,  -- WAS_AS_BASE
  ⟨0x248004, 1, 4, 0x10000, .always, [⟨31, 28, .ro, .any, 0⟩, ⟨25, 24, .ro, .any, 0⟩, ⟨23, 22, .ro, .any, 0⟩, ⟨19, 10, .ro, .any, 0⟩]⟩,  -- WAS_AS_STATUS
  ⟨0x248008, 1, 4, 0x10000, .always, [⟨31, 24, .ro, .any, 0⟩, ⟨15, 0, .ro, .any, 0⟩]⟩,  -- WAS_AS_LOOP
  ⟨0x24800C, 1, 4, 0x10000, .always, [⟨23, 16, .rws, .any, 0⟩, ⟨15, 8, .rws, .any, 0⟩, ⟨7, 0, .rws, .any, 0⟩]⟩,  -- WAS_AS_TBAND
  ⟨0x248010, 1, 4, 0x10000, .always, [⟨31, 31, .w1c, .any, 0⟩, ⟨30, 28, .ro, .any, 0⟩, ⟨27, 24, .ro, .any, 0⟩]⟩,  -- WAS_AS_FAULT
  ⟨0x248014, 1, 4, 0x10000, .always, [⟨31, 16, .rc, .any, 0⟩, ⟨15, 0, .rc, .any, 0⟩]⟩,  -- WAS_AS_CNT
  ⟨0x248040, 12, 4, 0x10000, .always, [⟨31, 30, .rws, .range 0 2, 4⟩, ⟨25, 16, .rws, .any, 4⟩, ⟨11, 8, .rws, .range 0 8, 4⟩, ⟨3, 0, .rws, .range 0 8, 4⟩]⟩,  -- WAS_AS_HEAD
  ⟨0x248080, 1, 4, 0x10000, .always, [⟨23, 16, .rws, .any, 0⟩, ⟨3, 0, .rws, .range 12 15, 0⟩]⟩,  -- WAS_AGE_CFG
  ⟨0x340000, 1, 4, 0x10000, .always, [⟨5, 5, .ro, .any, 0⟩, ⟨4, 4, .ro, .any, 0⟩, ⟨3, 3, .ro, .any, 0⟩, ⟨2, 2, .ro, .any, 0⟩, ⟨1, 1, .ro, .any, 0⟩]⟩,  -- TNL_STATUS
  ⟨0x340004, 1, 4, 0x10000, .always, [⟨31, 16, .ro, .any, 0⟩, ⟨15, 0, .ro, .any, 0⟩]⟩,  -- TNL_PA_ID
  ⟨0x340008, 1, 4, 0x10000, .always, [⟨31, 31, .w1c, .any, 0⟩, ⟨19, 16, .ro, .any, 0⟩, ⟨10, 0, .ro, .any, 0⟩]⟩,  -- TNL_PA_FAULT
  ⟨0x34000C, 1, 4, 0x10000, .always, [⟨19, 16, .ro, .any, 0⟩, ⟨15, 8, .rws, .range 16 48, 0⟩, ⟨1, 0, .rws, .any, 0⟩]⟩,  -- TNL_CTL_CFG
  ⟨0x340010, 1, 4, 0x10000, .always, [⟨31, 24, .rc, .any, 0⟩, ⟨23, 16, .rc, .any, 0⟩, ⟨15, 8, .rc, .any, 0⟩, ⟨7, 0, .rc, .any, 0⟩]⟩,  -- TNL_ERR_CNT
  ⟨0x340014, 1, 4, 0x10000, .always, [⟨15, 0, .rc, .any, 0⟩]⟩,  -- TNL_TEMP_MISS
  ⟨0x340018, 1, 4, 0x10000, .calOrSafe, [⟨31, 31, .wo, .any, 0⟩, ⟨30, 30, .rw, .any, 0⟩, ⟨29, 23, .rw, .any, 0⟩, ⟨15, 0, .rw, .any, 0⟩]⟩,  -- TNL_PA_ACC
  ⟨0x34001C, 1, 4, 0x10000, .always, [⟨31, 31, .ro, .any, 0⟩, ⟨17, 16, .ro, .any, 0⟩, ⟨15, 0, .ro, .any, 0⟩]⟩,  -- TNL_PA_RESULT
  ⟨0x340020, 1, 4, 0x10000, .calOrSafe, [⟨0, 0, .wo, .any, 0⟩]⟩,  -- TNL_RETRAIN
  ⟨0x300000, 1, 4, 0x10000, .always, [⟨5, 4, .rwt, .range 0 2, 0⟩, ⟨1, 0, .rwt, .range 0 2, 0⟩]⟩,  -- SRV_MODE
  ⟨0x300004, 1, 4, 0x10000, .always, [⟨31, 24, .ro, .any, 0⟩, ⟨23, 23, .w1c, .any, 0⟩, ⟨22, 22, .ro, .any, 0⟩, ⟨21, 21, .ro, .any, 0⟩, ⟨20, 20, .ro, .any, 0⟩, ⟨19, 18, .ro, .any, 0⟩, ⟨17, 16, .ro, .any, 0⟩, ⟨15, 8, .ro, .any, 0⟩]⟩,  -- SRV_STATUS
  ⟨0x300008, 1, 4, 0x10000, .always, [⟨31, 16, .rwt, .any, 0⟩, ⟨15, 0, .rwt, .any, 0⟩]⟩]  -- SRV_MAN_CUR

def regRows4 : List RegRow := [
  ⟨0x30000C, 1, 4, 0x10000, .always, [⟨13, 0, .rws, .range 1000 10000, 0⟩]⟩,  -- SRV_SFMT
  ⟨0x300010, 1, 4, 0x10000, .always, [⟨27, 24, .rws, .range 0 3, 0⟩, ⟨23, 16, .rws, .range 1 32, 0⟩, ⟨11, 0, .rws, .any, 0⟩]⟩,  -- SRV_SAM
  ⟨0x300014, 1, 4, 0x10000, .always, [⟨31, 16, .rws, .any, 0⟩, ⟨15, 8, .rws, .any, 0⟩, ⟨7, 0, .rws, .range 1 8, 0⟩]⟩,  -- SRV_DEMOD_CFG
  ⟨0x300018, 1, 4, 0x10000, .always, [⟨21, 0, .ro, .any, 0⟩]⟩,  -- SRV_POS
  ⟨0x30001C, 1, 4, 0x10000, .always, [⟨23, 0, .ro, .any, 0⟩]⟩,  -- SRV_PES
  ⟨0x300020, 1, 4, 0x10000, .always, [⟨31, 24, .rc, .any, 0⟩, ⟨23, 16, .rc, .any, 0⟩, ⟨15, 8, .rc, .any, 0⟩, ⟨7, 0, .rc, .any, 0⟩]⟩,  -- SRV_DEMOD_CNT
  ⟨0x300024, 1, 4, 0x10000, .always, [⟨0, 0, .rws, .any, 0⟩]⟩,  -- SRV_SET_SEL
  ⟨0x300028, 1, 4, 0x10000, .always, [⟨31, 16, .ro, .any, 0⟩, ⟨15, 0, .ro, .any, 0⟩]⟩,  -- SRV_CYCLES
  ⟨0x300030, 1, 4, 0x10000, .always, [⟨31, 24, .rc, .any, 0⟩, ⟨23, 16, .rc, .any, 0⟩, ⟨15, 8, .rc, .any, 0⟩, ⟨7, 0, .rc, .any, 0⟩]⟩,  -- SRV_LANE_CNT
  ⟨0x300034, 1, 4, 0x10000, .always, [⟨31, 31, .w1c, .any, 0⟩, ⟨30, 28, .ro, .any, 0⟩, ⟨27, 27, .ro, .any, 0⟩, ⟨26, 26, .ro, .any, 0⟩, ⟨25, 16, .ro, .any, 0⟩]⟩,  -- SRV_LANE_LOG
  ⟨0x300038, 1, 4, 0x10000, .always, [⟨31, 0, .ro, .any, 0⟩]⟩,  -- SRV_AGREED
  ⟨0x300040, 1, 4, 0x10000, .calOrSafe, [⟨31, 31, .rwt, .any, 0⟩, ⟨30, 30, .w1c, .any, 0⟩, ⟨29, 28, .rwt, .range 0 2, 0⟩, ⟨27, 26, .rwt, .range 0 2, 0⟩, ⟨25, 24, .rwt, .range 0 2, 0⟩, ⟨23, 16, .rwt, .range 1 255, 0⟩]⟩,  -- SRV_INJ_CTL
  ⟨0x300044, 1, 4, 0x10000, .calOrSafe, [⟨31, 24, .rwt, .any, 0⟩, ⟨23, 0, .rwt, .any, 0⟩]⟩,  -- SRV_INJ_AMP
  ⟨0x300048, 1, 4, 0x10000, .calOrSafe, [⟨31, 0, .rwt, .any, 0⟩]⟩,  -- SRV_INJ_F0
  ⟨0x30004C, 1, 4, 0x10000, .calOrSafe, [⟨31, 0, .rwt, .any, 0⟩]⟩,  -- SRV_INJ_F1
  ⟨0x300050, 1, 4, 0x10000, .calOrSafe, [⟨31, 0, .rwt, .any, 0⟩]⟩,  -- SRV_INJ_DF
  ⟨0x300060, 1, 4, 0x10000, .calOrSafe, [⟨31, 31, .wo, .any, 0⟩, ⟨30, 30, .wo, .any, 0⟩, ⟨29, 28, .rw, .range 0 1, 0⟩, ⟨27, 25, .rw, .range 0 5, 0⟩, ⟨15, 0, .rw, .any, 0⟩]⟩,  -- SRV_CAP_CTL
  ⟨0x300064, 1, 4, 0x10000, .calOrSafe, [⟨22, 16, .rw, .any, 0⟩, ⟨14, 8, .rw, .any, 0⟩, ⟨6, 0, .rw, .any, 0⟩]⟩,  -- SRV_CAP_SEL
  ⟨0x300068, 1, 4, 0x10000, .calOrSafe, [⟨23, 0, .rw, .any, 0⟩]⟩,  -- SRV_CAP_TRIG
  ⟨0x30006C, 1, 4, 0x10000, .always, [⟨31, 31, .ro, .any, 0⟩, ⟨30, 30, .ro, .any, 0⟩, ⟨29, 29, .ro, .any, 0⟩, ⟨16, 0, .ro, .any, 0⟩]⟩,  -- SRV_CAP_STATUS
  ⟨0x300070, 1, 4, 0x10000, .always, [⟨17, 16, .rw, .range 0 2, 0⟩, ⟨15, 0, .rw, .any, 0⟩]⟩,  -- SRV_CAP_RD
  ⟨0x300074, 1, 4, 0x10000, .always, [⟨31, 24, .ro, .any, 0⟩, ⟨23, 0, .ro, .any, 0⟩]⟩,  -- SRV_CAP_DATA
  ⟨0x308000, 4096, 4, 0x10000, .always, [⟨31, 0, .rws, .any, 2⟩]⟩,  -- SRV_SET0
  ⟨0x30C000, 4096, 4, 0x10000, .always, [⟨31, 0, .rws, .any, 2⟩]⟩,  -- SRV_SET1
  ⟨0x300100, 1, 4, 0x10000, .always, [⟨31, 20, .rws, .any, 0⟩, ⟨15, 8, .rws, .any, 0⟩]⟩]  -- SRV_SEEK_CFG

def regRows5 : List RegRow := [
  ⟨0x300104, 1, 4, 0x10000, .always, [⟨31, 24, .rws, .any, 0⟩, ⟨23, 0, .rws, .any, 0⟩]⟩,  -- SRV_SEEK_KA
  ⟨0x300108, 1, 4, 0x10000, .always, [⟨31, 24, .rws, .any, 0⟩, ⟨23, 16, .rws, .any, 0⟩, ⟨15, 12, .rws, .range 1 15, 0⟩, ⟨11, 8, .rws, .range 1 15, 0⟩, ⟨7, 0, .rws, .range 1 255, 0⟩]⟩,  -- SRV_SETTLE
  ⟨0x30010C, 1, 4, 0x10000, .always, [⟨21, 0, .ro, .any, 0⟩]⟩,  -- SRV_TARGET
  ⟨0x300110, 1, 4, 0x10000, .always, [⟨7, 0, .ro, .any, 0⟩]⟩,  -- SRV_SHIFT
  ⟨0x300114, 1, 4, 0x10000, .always, [⟨2, 2, .rwt, .any, 0⟩, ⟨1, 1, .rwt, .any, 0⟩, ⟨0, 0, .rwt, .any, 0⟩]⟩,  -- SRV_FF_CTL
  ⟨0x300118, 1, 4, 0x10000, .always, [⟨31, 5, .rws, .any, 0⟩]⟩,  -- SRV_RRO_DIR
  ⟨0x30011C, 1, 4, 0x10000, .always, [⟨31, 16, .rws, .any, 6⟩, ⟨15, 0, .rws, .any, 6⟩]⟩,  -- SRV_XOVER
  ⟨0x300120, 1, 4, 0x10000, .always, [⟨31, 31, .rws, .any, 5⟩, ⟨6, 0, .rws, .range 0 95, 5⟩]⟩,  -- SRV_XA_CFG
  ⟨0x300124, 1, 4, 0x10000, .always, [⟨31, 24, .rws, .any, 0⟩, ⟨23, 16, .rws, .range 10 50, 0⟩, ⟨15, 8, .rws, .range 1 255, 0⟩, ⟨7, 7, .rws, .any, 0⟩, ⟨6, 0, .rws, .range 1 127, 0⟩]⟩,  -- SRV_SHOCK_CFG
  ⟨0x300128, 1, 4, 0x10000, .always, [⟨31, 31, .ro, .any, 0⟩, ⟨30, 30, .w1c, .any, 0⟩, ⟨29, 28, .ro, .any, 0⟩, ⟨15, 0, .rc, .any, 0⟩]⟩,  -- SRV_SHOCK_STATUS
  ⟨0x30012C, 1, 4, 0x10000, .always, [⟨31, 16, .rws, .any, 0⟩, ⟨15, 0, .rws, .any, 0⟩]⟩,  -- SRV_LOAD_VEL
  ⟨0x300130, 1, 4, 0x10000, .always, [⟨21, 0, .rws, .any, 0⟩]⟩,  -- SRV_LOAD_TRK
  ⟨0x300134, 1, 4, 0x10000, .always, [⟨31, 16, .rws, .any, 0⟩, ⟨15, 0, .rws, .any, 0⟩]⟩,  -- SRV_LOAD_TIME
  ⟨0x300138, 1, 4, 0x10000, .always, [⟨31, 31, .ro, .any, 0⟩, ⟨30, 28, .ro, .any, 0⟩, ⟨7, 0, .rc, .any, 0⟩]⟩,  -- SRV_LOAD_STATUS
  ⟨0x300140, 32, 4, 0x10000, .always, [⟨31, 14, .rws, .any, 0⟩, ⟨13, 0, .rws, .any, 0⟩]⟩,  -- SRV_SEEK_TBL
  ⟨0x3001C0, 12, 4, 0x10000, .always, [⟨15, 0, .rws, .any, 0⟩]⟩,  -- SRV_JOG
  ⟨0x330200, 1, 4, 0x0, .always, [⟨31, 24, .rws, .range 20 150, 0⟩, ⟨23, 16, .rws, .range 10 180, 0⟩, ⟨15, 8, .rws, .range 0 100, 0⟩]⟩,  -- PWR_RET_CFG
  ⟨0x330204, 1, 4, 0x0, .always, [⟨15, 0, .rws, .any, 0⟩]⟩,  -- PWR_RET_VEL
  ⟨0x330208, 1, 4, 0x0, .always, [⟨0, 0, .wo, .any, 0⟩]⟩,  -- PWR_RET_CTL
  ⟨0x33020C, 1, 4, 0x0, .always, [⟨31, 31, .w1c, .any, 0⟩, ⟨30, 30, .ro, .any, 0⟩, ⟨29, 27, .ro, .any, 0⟩, ⟨25, 24, .ro, .any, 0⟩, ⟨15, 0, .rc, .any, 0⟩]⟩,  -- PWR_RET_STATUS
  ⟨0x320000, 1, 4, 0x0, .calOnly, [⟨0, 0, .rw, .any, 0⟩]⟩,  -- SPN_CTL
  ⟨0x320004, 1, 4, 0x0, .always, [⟨20, 0, .rws, .range 180000 1200000, 3⟩]⟩,  -- SPN_SPEED_CMD
  ⟨0x320008, 1, 4, 0x0, .always, [⟨20, 0, .ro, .any, 0⟩]⟩,  -- SPN_TARGET
  ⟨0x32000C, 1, 4, 0x0, .always, [⟨11, 11, .ro, .any, 0⟩, ⟨10, 10, .ro, .any, 0⟩, ⟨9, 9, .ro, .any, 0⟩, ⟨8, 8, .ro, .any, 0⟩, ⟨5, 4, .ro, .any, 0⟩, ⟨3, 0, .ro, .any, 0⟩]⟩,  -- SPN_STATUS
  ⟨0x320010, 1, 4, 0x0, .always, [⟨20, 0, .ro, .any, 0⟩]⟩]  -- SPN_SPEED

def regRows6 : List RegRow := [
  ⟨0x320014, 1, 4, 0x0, .always, [⟨23, 0, .ro, .any, 0⟩]⟩,  -- SPN_ERR
  ⟨0x320018, 1, 4, 0x0, .always, [⟨12, 8, .rwt, .range 0 30, 0⟩, ⟨4, 0, .rwt, .range 2 20, 0⟩]⟩,  -- SPN_COMM_CFG
  ⟨0x32001C, 1, 4, 0x0, .always, [⟨31, 16, .rws, .any, 0⟩, ⟨15, 0, .rws, .any, 0⟩]⟩,  -- SPN_REG
  ⟨0x320020, 1, 4, 0x0, .always, [⟨31, 16, .rws, .range 500 3000, 0⟩, ⟨15, 0, .rws, .range 200 3000, 0⟩]⟩,  -- SPN_ILIM
  ⟨0x320024, 1, 4, 0x0, .always, [⟨31, 24, .rws, .range 5 100, 0⟩, ⟨15, 0, .rws, .range 100 600, 0⟩]⟩,  -- SPN_START_CFG
  ⟨0x320028, 1, 4, 0x0, .always, [⟨31, 24, .rws, .range 50 200, 0⟩, ⟨23, 16, .rws, .any, 0⟩, ⟨3, 0, .rws, .range 1 8, 0⟩]⟩,  -- SPN_LOCK_CFG
  ⟨0x32002C, 1, 4, 0x0, .always, [⟨31, 31, .ro, .any, 0⟩, ⟨17, 0, .ro, .any, 0⟩]⟩,  -- SPN_COMM_MAP
  ⟨0x320030, 1, 4, 0x0, .always, [⟨23, 16, .ro, .any, 0⟩, ⟨3, 0, .ro, .any, 0⟩]⟩,  -- SPN_OBS
  ⟨0x320034, 1, 4, 0x0, .always, [⟨4, 4, .w1c, .any, 0⟩, ⟨3, 3, .w1c, .any, 0⟩, ⟨2, 2, .w1c, .any, 0⟩, ⟨1, 1, .w1c, .any, 0⟩, ⟨0, 0, .w1c, .any, 0⟩]⟩,  -- SPN_EVENT
  ⟨0x320038, 1, 4, 0x0, .always, [⟨31, 24, .rc, .any, 0⟩, ⟨23, 16, .rc, .any, 0⟩, ⟨15, 8, .rc, .any, 0⟩, ⟨7, 0, .rc, .any, 0⟩]⟩,  -- SPN_CNT
  ⟨0x330100, 1, 4, 0x0, .always, [⟨31, 24, .rws, .range 192 220, 0⟩, ⟨23, 16, .rws, .range 210 235, 0⟩, ⟨15, 8, .rws, .range 5 50, 0⟩, ⟨3, 0, .rws, .any, 0⟩]⟩,  -- PWR_SMON_CFG
  ⟨0x330104, 1, 4, 0x0, .always, [⟨31, 31, .w1c, .any, 0⟩, ⟨7, 4, .ro, .any, 0⟩, ⟨3, 3, .ro, .any, 0⟩, ⟨2, 2, .ro, .any, 0⟩, ⟨1, 1, .ro, .any, 0⟩, ⟨0, 0, .ro, .any, 0⟩]⟩,  -- PWR_SMON_STATUS
  ⟨0x330108, 1, 4, 0x0, .always, [⟨31, 24, .rws, .range 70 100, 0⟩, ⟨15, 0, .rws, .any, 0⟩]⟩,  -- PWR_GEN_CFG
  ⟨0x33010C, 1, 4, 0x0, .always, [⟨31, 31, .ro, .any, 0⟩, ⟨30, 28, .ro, .any, 0⟩, ⟨27, 16, .ro, .any, 0⟩, ⟨15, 0, .ro, .any, 0⟩]⟩,  -- PWR_VAULT_STATUS
  ⟨0x330110, 1, 4, 0x0, .always, [⟨5, 5, .ro, .any, 0⟩, ⟨4, 4, .ro, .any, 0⟩, ⟨3, 3, .ro, .any, 0⟩, ⟨2, 2, .ro, .any, 0⟩, ⟨1, 1, .ro, .any, 0⟩, ⟨0, 0, .ro, .any, 0⟩]⟩,  -- PWR_VAULT_REASON
  ⟨0x400000, 1, 4, 0x0, .always, [⟨22, 16, .rws, .range 0 100, 7⟩, ⟨8, 0, .rws, .range 0 256, 7⟩]⟩,  -- ZQE_CFG
  ⟨0x400004, 1, 4, 0x0, .always, [⟨31, 16, .rws, .range 0 16384, 7⟩, ⟨15, 0, .rws, .range 0 4096, 7⟩]⟩,  -- ZQE_POOL
  ⟨0x400008, 1, 4, 0x0, .always, [⟨23, 0, .rws, .any, 0⟩]⟩,  -- ZQE_POOL_BASE
  ⟨0x40000C, 1, 4, 0x0, .always, [⟨31, 16, .rws, .range 1 2048, 0⟩, ⟨15, 0, .rws, .range 1 1024, 0⟩]⟩,  -- ZQE_LIMITS
  ⟨0x400010, 1, 4, 0x0, .always, [⟨31, 16, .ro, .any, 0⟩, ⟨15, 0, .ro, .any, 0⟩]⟩,  -- ZQE_STATUS
  ⟨0x400014, 1, 4, 0x0, .always, [⟨31, 16, .ro, .any, 0⟩, ⟨15, 0, .ro, .any, 0⟩]⟩,  -- ZQE_HELD
  ⟨0x400018, 1, 4, 0x0, .always, [⟨31, 24, .rc, .any, 0⟩, ⟨23, 16, .rc, .any, 0⟩, ⟨15, 8, .rc, .any, 0⟩, ⟨7, 0, .rc, .any, 0⟩]⟩,  -- ZQE_CNT
  ⟨0x40001C, 1, 4, 0x0, .always, [⟨31, 0, .ro, .any, 0⟩]⟩,  -- ZQE_JRNL_SEQ
  ⟨0x400020, 1, 4, 0x0, .always, [⟨31, 31, .ro, .any, 0⟩, ⟨18, 0, .ro, .any, 0⟩]⟩,  -- ZQE_JRNL_FILL
  ⟨0x400024, 1, 4, 0x0, .always, [⟨31, 16, .ro, .any, 0⟩, ⟨15, 0, .ro, .any, 0⟩]⟩]  -- ZQE_RESCUE

def regRows7 : List RegRow := [
  ⟨0x400030, 1, 4, 0x0, .always, [⟨17, 0, .rw, .any, 0⟩]⟩,  -- ZQE_ZSEL
  ⟨0x400034, 1, 4, 0x0, .always, [⟨31, 28, .ro, .any, 0⟩, ⟨27, 27, .ro, .any, 0⟩, ⟨26, 26, .ro, .any, 0⟩, ⟨25, 25, .ro, .any, 0⟩, ⟨24, 24, .ro, .any, 0⟩, ⟨17, 0, .ro, .any, 0⟩]⟩,  -- ZQE_ZINFO
  ⟨0x410000, 1, 4, 0x0, .always, [⟨31, 31, .rws, .any, 8⟩, ⟨25, 24, .rws, .range 1 2, 8⟩, ⟨20, 16, .rws, .range 4 22, 8⟩, ⟨12, 8, .rws, .range 1 23, 8⟩, ⟨3, 0, .rws, .range 1 8, 8⟩]⟩,  -- FLT_CFG
  ⟨0x410004, 1, 4, 0x0, .always, [⟨31, 7, .rws, .any, 8⟩]⟩,  -- FLT_GRP
  ⟨0x410008, 1, 4, 0x0, .always, [⟨17, 0, .rws, .any, 8⟩]⟩,  -- FLT_GRP_CNT
  ⟨0x41000C, 1, 4, 0x0, .always, [⟨31, 12, .rws, .any, 8⟩, ⟨11, 0, .rws, .range 1 4095, 8⟩]⟩,  -- FLT_SCR
  ⟨0x410010, 1, 4, 0x0, .always, [⟨3, 0, .rws, .range 2 15, 10⟩]⟩,  -- FLT_RECON
  ⟨0x410014, 1, 4, 0x0, .always, [⟨31, 16, .rws, .any, 0⟩, ⟨15, 0, .rws, .any, 0⟩]⟩,  -- FLT_GC
  ⟨0x410018, 1, 4, 0x0, .always, [⟨31, 31, .ro, .any, 0⟩, ⟨30, 30, .ro, .any, 0⟩, ⟨29, 29, .ro, .any, 0⟩, ⟨20, 16, .ro, .any, 0⟩, ⟨11, 0, .ro, .any, 0⟩]⟩,  -- FLT_STATUS
  ⟨0x41001C, 1, 4, 0x0, .always, [⟨31, 0, .ro, .any, 0⟩]⟩,  -- FLT_DEBT
  ⟨0x410020, 1, 4, 0x0, .always, [⟨31, 16, .rc, .any, 0⟩, ⟨15, 0, .rc, .any, 0⟩]⟩,  -- FLT_CNT
  ⟨0x410030, 1, 4, 0x0, .always, [⟨4, 0, .rw, .any, 0⟩]⟩,  -- FLT_SURF_SEL
  ⟨0x410034, 1, 4, 0x0, .always, [⟨31, 31, .ro, .any, 0⟩, ⟨30, 16, .ro, .any, 0⟩, ⟨15, 0, .ro, .any, 0⟩]⟩,  -- FLT_SURF_INFO
  ⟨0x410038, 1, 4, 0x0, .always, [⟨31, 31, .w1c, .any, 0⟩, ⟨30, 28, .ro, .any, 0⟩, ⟨17, 0, .ro, .any, 0⟩]⟩,  -- FLT_EVT
  ⟨0x420000, 1, 4, 0x0, .always, [⟨31, 16, .ro, .any, 0⟩, ⟨15, 0, .ro, .any, 0⟩]⟩,  -- BUF_BANK
  ⟨0x420004, 1, 4, 0x0, .always, [⟨21, 16, .rws, .range 1 48, 0⟩, ⟨15, 0, .ro, .any, 0⟩]⟩,  -- BUF_DIRTY
  ⟨0x420008, 1, 4, 0x0, .always, [⟨31, 4, .rws, .any, 0⟩]⟩,  -- BUF_DESC
  ⟨0x42000C, 1, 4, 0x0, .always, [⟨31, 16, .rc, .any, 0⟩, ⟨15, 0, .rc, .any, 0⟩]⟩,  -- BUF_ECC_CNT
  ⟨0x420010, 1, 4, 0x0, .always, [⟨31, 31, .w1c, .any, 0⟩, ⟨30, 27, .ro, .any, 0⟩, ⟨26, 26, .ro, .any, 0⟩, ⟨25, 0, .ro, .any, 0⟩]⟩,  -- BUF_ELOG
  ⟨0x420020, 1, 4, 0x0, .always, [⟨31, 31, .w1c, .any, 0⟩, ⟨23, 16, .rws, .range 1 168, 0⟩, ⟨7, 0, .ro, .any, 0⟩]⟩,  -- BUF_POUNCE
  ⟨0x420024, 1, 4, 0x0, .always, [⟨25, 0, .rw, .any, 0⟩]⟩,  -- BUF_TEST_ADDR
  ⟨0x420028, 1, 4, 0x0, .calOrSafe, [⟨31, 31, .wo, .any, 0⟩, ⟨12, 8, .rw, .any, 0⟩, ⟨7, 0, .rw, .any, 0⟩]⟩,  -- BUF_TEST_CTL
  ⟨0x430000, 1, 4, 0x0, .always, [⟨14, 0, .ro, .any, 0⟩]⟩,  -- DMC_CAP
  ⟨0x430004, 1, 4, 0x0, .always, [⟨31, 31, .ro, .any, 0⟩, ⟨14, 0, .ro, .any, 0⟩]⟩,  -- DMC_FENCE
  ⟨0x430008, 1, 4, 0x0, .always, [⟨31, 16, .rc, .any, 0⟩, ⟨15, 8, .rc, .any, 0⟩, ⟨7, 0, .rc, .any, 0⟩]⟩]  -- DMC_ECC_CNT

def regRows8 : List RegRow := [
  ⟨0x43000C, 1, 4, 0x0, .always, [⟨31, 31, .w1c, .any, 0⟩, ⟨30, 30, .ro, .any, 0⟩, ⟨27, 0, .ro, .any, 0⟩]⟩,  -- DMC_ELOG
  ⟨0x430010, 1, 4, 0x0, .always, [⟨27, 0, .rw, .any, 0⟩]⟩,  -- DMC_TEST_ADDR
  ⟨0x430014, 1, 4, 0x0, .calOrSafe, [⟨31, 31, .wo, .any, 0⟩, ⟨30, 29, .rw, .any, 0⟩, ⟨28, 28, .rw, .any, 0⟩, ⟨27, 21, .rw, .any, 0⟩, ⟨20, 12, .rw, .any, 0⟩, ⟨2, 0, .rw, .any, 0⟩]⟩,  -- DMC_TEST_CTL
  ⟨0x630000, 1, 4, 0x0, .always, [⟨3, 3, .ro, .any, 0⟩, ⟨2, 2, .ro, .any, 0⟩, ⟨1, 1, .ro, .any, 0⟩, ⟨0, 0, .ro, .any, 0⟩]⟩,  -- SEC_STATUS
  ⟨0x630004, 1, 4, 0x0, .always, [⟨31, 0, .ro, .any, 0⟩]⟩,  -- SEC_KEYGEN
  ⟨0x630008, 1, 4, 0x0, .always, [⟨31, 16, .rc, .any, 0⟩, ⟨15, 0, .ro, .any, 0⟩]⟩,  -- SEC_CNT
  ⟨0x440000, 1, 4, 0x0, .always, [⟨8, 8, .rws, .any, 0⟩, ⟨1, 0, .rwt, .range 0 2, 0⟩]⟩,  -- CRN_CFG
  ⟨0x440004, 1, 4, 0x0, .always, [⟨31, 16, .rws, .range 64 65535, 0⟩, ⟨4, 0, .rws, .range 8 31, 0⟩]⟩,  -- CRN_BATT_CFG
  ⟨0x440008, 1, 4, 0x0, .always, [⟨31, 27, .ro, .any, 0⟩, ⟨26, 21, .ro, .any, 0⟩, ⟨20, 16, .ro, .any, 0⟩, ⟨0, 0, .ro, .any, 0⟩]⟩,  -- CRN_STATUS
  ⟨0x440010, 8, 4, 0x0, .always, [⟨31, 31, .rws, .any, 0⟩, ⟨27, 14, .rws, .any, 0⟩, ⟨13, 0, .rws, .any, 0⟩]⟩,  -- CRN_WIN
  ⟨0x440040, 1, 4, 0x0, .always, [⟨31, 31, .wo, .any, 0⟩, ⟨30, 30, .ro, .any, 0⟩, ⟨26, 24, .rw, .any, 0⟩, ⟨23, 14, .rw, .any, 0⟩, ⟨7, 4, .rw, .any, 0⟩]⟩,  -- CRN_MAINT
  ⟨0x440044, 1, 4, 0x0, .always, [⟨26, 0, .rw, .any, 0⟩]⟩,  -- CRN_MAINT_ADDR
  ⟨0x440048, 1, 4, 0x0, .always, [⟨31, 31, .ro, .any, 0⟩, ⟨30, 30, .ro, .any, 0⟩, ⟨16, 0, .ro, .any, 0⟩]⟩,  -- CRN_MAINT_TAG
  ⟨0x44004C, 1, 4, 0x0, .always, [⟨15, 1, .ro, .any, 0⟩]⟩,  -- CRN_MAINT_PLRU
  ⟨0x440060, 1, 4, 0x0, .always, [⟨31, 0, .rc, .any, 0⟩]⟩,  -- CRN_HIT
  ⟨0x440064, 1, 4, 0x0, .always, [⟨31, 0, .rc, .any, 0⟩]⟩,  -- CRN_MISS
  ⟨0x440068, 1, 4, 0x0, .always, [⟨31, 16, .rc, .any, 0⟩, ⟨15, 0, .rc, .any, 0⟩]⟩,  -- CRN_NAP
  ⟨0x44006C, 1, 4, 0x0, .always, [⟨31, 16, .rc, .any, 0⟩, ⟨15, 0, .rc, .any, 0⟩]⟩,  -- CRN_BATT_CNT
  ⟨0x440070, 1, 4, 0x0, .always, [⟨31, 16, .rc, .any, 0⟩, ⟨15, 0, .rc, .any, 0⟩]⟩,  -- CRN_RACE
  ⟨0x440074, 1, 4, 0x0, .always, [⟨15, 0, .rc, .any, 0⟩]⟩,  -- CRN_ERR
  ⟨0x520000, 1, 4, 0x0, .always, [⟨31, 24, .ro, .any, 0⟩, ⟨23, 16, .ro, .any, 0⟩, ⟨15, 13, .ro, .any, 0⟩, ⟨12, 10, .ro, .any, 0⟩, ⟨9, 9, .ro, .any, 0⟩, ⟨8, 8, .ro, .any, 0⟩, ⟨7, 7, .ro, .any, 0⟩]⟩,  -- CPX_STATUS
  ⟨0x520004, 1, 4, 0x0, .always, [⟨0, 0, .rws, .any, 0⟩]⟩,  -- CPX_CFG
  ⟨0x520008, 1, 4, 0x0, .always, [⟨31, 29, .ro, .any, 0⟩, ⟨28, 28, .ro, .any, 0⟩, ⟨27, 27, .ro, .any, 0⟩, ⟨26, 26, .w1c, .any, 0⟩, ⟨22, 16, .ro, .any, 0⟩, ⟨15, 0, .ro, .any, 0⟩]⟩,  -- CPX_SEM
  ⟨0x52000C, 1, 4, 0x0, .always, [⟨31, 16, .rc, .any, 0⟩, ⟨15, 0, .rc, .any, 0⟩]⟩,  -- CPX_SEM_CNT
  ⟨0x520010, 1, 4, 0x0, .always, [⟨31, 24, .ro, .any, 0⟩, ⟨15, 0, .ro, .any, 0⟩]⟩]  -- CPX_MIRROR

def regRows9 : List RegRow := [
  ⟨0x520014, 1, 4, 0x0, .always, [⟨31, 31, .w1c, .any, 0⟩, ⟨30, 30, .ro, .any, 0⟩, ⟨29, 27, .ro, .any, 0⟩, ⟨24, 15, .ro, .any, 0⟩, ⟨14, 0, .ro, .any, 0⟩]⟩,  -- CPX_TAKE_LOG
  ⟨0x520018, 1, 4, 0x0, .always, [⟨31, 16, .rc, .any, 0⟩, ⟨15, 0, .rc, .any, 0⟩]⟩,  -- CPX_TAKE_CNT
  ⟨0x52001C, 1, 4, 0x0, .calOrSafe, [⟨2, 2, .wo, .any, 0⟩, ⟨1, 1, .wo, .any, 0⟩, ⟨0, 0, .wo, .any, 0⟩]⟩,  -- CPX_CTL
  ⟨0x40, 1, 4, 0x0, .always, [⟨31, 24, .ro, .any, 0⟩, ⟨21, 0, .ro, .any, 0⟩]⟩,  -- SYS_MPI_STATUS
  ⟨0x44, 1, 4, 0x0, .always, [⟨31, 16, .rc, .any, 0⟩, ⟨15, 8, .rc, .any, 0⟩, ⟨7, 0, .rc, .any, 0⟩]⟩,  -- SYS_MPI_CNT
  ⟨0x600000, 1, 4, 0x100, .always, [⟨23, 16, .ro, .any, 0⟩, ⟨11, 8, .ro, .any, 0⟩, ⟨2, 0, .ro, .any, 0⟩]⟩,  -- NVC_FL_STATUS
  ⟨0x600004, 1, 4, 0x100, .safeOnly, [⟨7, 0, .wo, .any, 0⟩]⟩,  -- NVC_FL_KEY
  ⟨0x600008, 1, 4, 0x100, .safeOnly, [⟨7, 0, .wo, .any, 0⟩]⟩,  -- NVC_FL_CMD
  ⟨0x60000C, 1, 4, 0x100, .safeOnly, [⟨24, 0, .rw, .any, 0⟩]⟩,  -- NVC_FL_ADDR
  ⟨0x600010, 8, 4, 0x100, .safeOnly, [⟨31, 0, .wo, .any, 0⟩]⟩,  -- NVC_FL_DATA
  ⟨0x600200, 1, 4, 0x0, .safeOnly, [⟨0, 0, .rw, .any, 0⟩]⟩,  -- NVC_FL_MODE
  ⟨0x600204, 1, 4, 0x0, .always, [⟨31, 16, .rc, .any, 0⟩, ⟨15, 0, .rc, .any, 0⟩]⟩,  -- NVC_FL_ECC
  ⟨0x600208, 1, 4, 0x0, .always, [⟨31, 31, .w1c, .any, 0⟩, ⟨24, 0, .ro, .any, 0⟩]⟩,  -- NVC_FL_FAULT
  ⟨0x600210, 1, 4, 0x0, .always, [⟨31, 31, .ro, .any, 0⟩, ⟨30, 30, .ro, .any, 0⟩]⟩,  -- NVC_OPT_STATUS
  ⟨0x600214, 1, 4, 0x0, .always, [⟨31, 0, .ro, .any, 0⟩]⟩,  -- NVC_OPT_SEQ
  ⟨0x600220, 1, 4, 0x0, .always, [⟨31, 31, .w1c, .any, 0⟩, ⟨27, 24, .ro, .any, 0⟩, ⟨19, 18, .ro, .any, 0⟩, ⟨16, 16, .ro, .any, 0⟩, ⟨2, 2, .ro, .any, 0⟩, ⟨1, 1, .ro, .any, 0⟩, ⟨0, 0, .ro, .any, 0⟩]⟩,  -- NVC_BOOT
  ⟨0x600230, 3, 4, 0x0, .always, [⟨31, 0, .ro, .any, 0⟩]⟩,  -- NVC_TICKET
  ⟨0x600240, 1, 4, 0x0, .always, [⟨31, 16, .rc, .any, 0⟩, ⟨15, 0, .rc, .any, 0⟩]⟩,  -- NVC_MRAM_ECC
  ⟨0x600244, 1, 4, 0x0, .always, [⟨31, 31, .w1c, .any, 0⟩, ⟨25, 0, .ro, .any, 0⟩]⟩,  -- NVC_MRAM_ELOG
  ⟨0x450000, 1, 4, 0x0, .always, [⟨25, 5, .rws, .any, 0⟩]⟩,  -- FUL_RING
  ⟨0x450004, 1, 4, 0x0, .always, [⟨3, 0, .rw, .any, 0⟩]⟩,  -- FUL_RING_TAIL
  ⟨0x450008, 1, 4, 0x0, .always, [⟨31, 31, .ro, .any, 0⟩, ⟨30, 30, .ro, .any, 0⟩, ⟨3, 0, .ro, .any, 0⟩]⟩,  -- FUL_STATUS
  ⟨0x45000C, 1, 4, 0x0, .always, [⟨0, 0, .wo, .any, 0⟩]⟩,  -- FUL_CTL
  ⟨0x450010, 1, 4, 0x0, .always, [⟨31, 16, .rc, .any, 0⟩, ⟨15, 8, .rc, .any, 0⟩, ⟨7, 0, .rc, .any, 0⟩]⟩,  -- FUL_CNT
  ⟨0x450014, 1, 4, 0x0, .always, [⟨31, 31, .w1c, .any, 0⟩, ⟨15, 8, .ro, .any, 0⟩, ⟨3, 0, .ro, .any, 0⟩]⟩]  -- FUL_ERR

def regRows10 : List RegRow := [
  ⟨0x460000, 1, 4, 0x0, .always, [⟨31, 31, .ro, .any, 0⟩, ⟨30, 30, .ro, .any, 0⟩, ⟨29, 29, .ro, .any, 0⟩, ⟨16, 0, .ro, .any, 0⟩]⟩,  -- HBR_STATUS
  ⟨0x460004, 1, 4, 0x0, .always, [⟨31, 0, .ro, .any, 0⟩]⟩,  -- HBR_SEQ
  ⟨0x460008, 1, 4, 0x0, .always, [⟨15, 0, .rc, .any, 0⟩]⟩,  -- HBR_LOST
  ⟨0x46000C, 1, 4, 0x0, .always, [⟨31, 31, .rw, .any, 0⟩, ⟨30, 30, .ro, .any, 0⟩, ⟨15, 0, .rw, .any, 0⟩]⟩,  -- HBR_CURSOR
  ⟨0x460010, 8, 4, 0x0, .always, [⟨31, 0, .ro, .any, 0⟩]⟩,  -- HBR_WIN
  ⟨0x460030, 1, 4, 0x0, .always, [⟨31, 5, .rws, .any, 0⟩]⟩,  -- HBR_ARCH
  ⟨0x610000, 1, 4, 0x0, .always, [⟨31, 31, .ro, .any, 0⟩, ⟨29, 27, .ro, .any, 0⟩, ⟨26, 24, .ro, .any, 0⟩]⟩,  -- PDM_STATUS
  ⟨0x610010, 3, 4, 0x0, .always, [⟨31, 0, .ro, .any, 0⟩]⟩,  -- PDM_ON
  ⟨0x610020, 3, 4, 0x0, .always, [⟨31, 0, .ro, .any, 0⟩]⟩,  -- PDM_LOW
  ⟨0x610030, 3, 4, 0x0, .always, [⟨31, 0, .ro, .any, 0⟩]⟩,  -- PDM_ABSENT
  ⟨0x610100, 3, 4, 0x0, .always, [⟨31, 0, .rws, .any, 9⟩]⟩,  -- PDM_PS_ON
  ⟨0x610110, 3, 4, 0x0, .always, [⟨31, 0, .rws, .any, 9⟩]⟩,  -- PDM_PS_ON
  ⟨0x610120, 3, 4, 0x0, .always, [⟨31, 0, .rws, .any, 9⟩]⟩,  -- PDM_PS_ON
  ⟨0x610130, 3, 4, 0x0, .always, [⟨31, 0, .rws, .any, 9⟩]⟩,  -- PDM_PS_ON
  ⟨0x610140, 3, 4, 0x0, .always, [⟨31, 0, .rws, .any, 9⟩]⟩,  -- PDM_PS_ON
  ⟨0x610180, 3, 4, 0x0, .always, [⟨31, 0, .rws, .any, 9⟩]⟩,  -- PDM_PS_LOW
  ⟨0x610190, 3, 4, 0x0, .always, [⟨31, 0, .rws, .any, 9⟩]⟩,  -- PDM_PS_LOW
  ⟨0x6101A0, 3, 4, 0x0, .always, [⟨31, 0, .rws, .any, 9⟩]⟩,  -- PDM_PS_LOW
  ⟨0x6101B0, 3, 4, 0x0, .always, [⟨31, 0, .rws, .any, 9⟩]⟩,  -- PDM_PS_LOW
  ⟨0x6101C0, 3, 4, 0x0, .always, [⟨31, 0, .rws, .any, 9⟩]⟩,  -- PDM_PS_LOW
  ⟨0x610200, 5, 4, 0x0, .always, [⟨15, 0, .rws, .any, 9⟩]⟩,  -- PDM_PS_MW
  ⟨0x610220, 5, 4, 0x0, .always, [⟨31, 0, .rws, .any, 9⟩]⟩,  -- PDM_PS_EXIT
  ⟨0x610280, 5, 4, 0x0, .always, [⟨31, 0, .rws, .any, 9⟩]⟩,  -- PDM_PS_DRIVE_MW
  ⟨0x6102A0, 5, 4, 0x0, .always, [⟨31, 0, .rws, .any, 9⟩]⟩,  -- PDM_PS_RAMP
  ⟨0x610240, 1, 4, 0x0, .always, [⟨20, 0, .rws, .range 180000 1200000, 9⟩]⟩]  -- PDM_PS3_SPEED

def regRows11 : List RegRow := [
  ⟨0x610260, 1, 4, 0x0, .always, [⟨31, 16, .rc, .any, 0⟩, ⟨15, 0, .rc, .any, 0⟩]⟩,  -- PDM_CNT
  ⟨0x610300, 5, 4, 0x0, .always, [⟨15, 0, .ro, .any, 0⟩]⟩,  -- PDM_TEMP
  ⟨0x610320, 1, 4, 0x0, .always, [⟨23, 16, .rws, .range 2 85, 9⟩, ⟨15, 8, .rws, .range 1 84, 9⟩, ⟨7, 0, .rws, .range 0 83, 9⟩]⟩,  -- PDM_THERM_CFG
  ⟨0x610324, 1, 4, 0x0, .always, [⟨31, 31, .ro, .any, 0⟩, ⟨12, 8, .ro, .any, 0⟩, ⟨1, 0, .ro, .any, 0⟩]⟩,  -- PDM_THERM_STATUS
  ⟨0x610328, 1, 4, 0x0, .always, [⟨31, 16, .rc, .any, 0⟩, ⟨15, 0, .rc, .any, 0⟩]⟩,  -- PDM_THERM_CNT
  ⟨0x620000, 1, 4, 0x0, .calOnlyStrict, [⟨31, 31, .ro, .any, 0⟩, ⟨27, 24, .ro, .any, 0⟩, ⟨23, 20, .rw, .any, 0⟩]⟩,  -- FMG_STATUS
  ⟨0x620004, 1, 4, 0x0, .always, [⟨31, 24, .rws, .range 1 255, 0⟩, ⟨23, 20, .rws, .range 2 15, 0⟩, ⟨19, 16, .rws, .range 1 15, 0⟩]⟩,  -- FMG_CFG
  ⟨0x620008, 1, 4, 0x0, .always, [⟨31, 24, .rws, .range 5 50, 0⟩, ⟨23, 16, .rws, .range 8 255, 0⟩, ⟨15, 8, .rws, .range 4 40, 0⟩]⟩,  -- FMG_WDT
  ⟨0x62000C, 1, 4, 0x0, .always, [⟨0, 0, .wo, .any, 0⟩]⟩,  -- FMG_KICK
  ⟨0x620010, 1, 4, 0x0, .always, [⟨31, 31, .w1c, .any, 0⟩, ⟨30, 28, .ro, .any, 0⟩, ⟨27, 22, .ro, .any, 0⟩, ⟨21, 20, .ro, .any, 0⟩, ⟨9, 0, .ro, .any, 0⟩]⟩,  -- FMG_ELOG
  ⟨0x620014, 1, 4, 0x0, .always, [⟨31, 16, .rc, .any, 0⟩, ⟨15, 0, .rc, .any, 0⟩]⟩,  -- FMG_CNT
  ⟨0x620018, 2, 4, 0x0, .always, [⟨31, 0, .ro, .any, 0⟩]⟩,  -- FMG_FAILED
  ⟨0x10, 1, 4, 0x0, .always, [⟨31, 28, .ro, .any, 0⟩, ⟨27, 25, .ro, .any, 0⟩, ⟨24, 24, .ro, .any, 0⟩, ⟨23, 22, .ro, .any, 0⟩, ⟨21, 21, .ro, .any, 0⟩, ⟨20, 20, .ro, .any, 0⟩]⟩,  -- SYS_BOOT
  ⟨0x14, 1, 4, 0x0, .always, [⟨15, 8, .ro, .any, 0⟩, ⟨7, 0, .ro, .any, 0⟩]⟩,  -- SYS_STRAP
  ⟨0x80, 11, 4, 0x0, .always, [⟨31, 0, .ro, .any, 0⟩]⟩]  -- SYS_BOOT_MS

/-- Every register row of the register space. -/
def regRows : List RegRow := regRows0 ++ regRows1 ++ regRows2 ++ regRows3 ++ regRows4 ++ regRows5 ++ regRows6 ++ regRows7 ++ regRows8 ++ regRows9 ++ regRows10 ++ regRows11

/-- The preamplifier registers (Table 08.7), reached over the control lane only. -/
def paRows : List RegRow := [
  ⟨0x0, 1, 4, 0x0, .always, [⟨15, 8, .ro, .any, 0⟩, ⟨7, 0, .ro, .any, 0⟩]⟩,  -- PA_ID
  ⟨0x1, 1, 4, 0x0, .always, [⟨15, 12, .ro, .any, 0⟩, ⟨11, 10, .ro, .any, 0⟩, ⟨7, 0, .ro, .any, 0⟩]⟩,  -- PA_CAPS
  ⟨0x2, 1, 4, 0x0, .always, [⟨15, 8, .ro, .any, 0⟩, ⟨7, 0, .ro, .any, 0⟩]⟩,  -- PA_TIMING
  ⟨0x3, 1, 4, 0x0, .always, [⟨10, 0, .w1c, .any, 0⟩]⟩,  -- PA_STATUS
  ⟨0x4, 1, 4, 0x0, .always, [⟨7, 7, .ro, .any, 0⟩, ⟨6, 4, .ro, .any, 0⟩, ⟨3, 0, .ro, .any, 0⟩]⟩,  -- PA_HEAD
  ⟨0x8, 1, 4, 0x0, .always, [⟨7, 0, .rw, .range 40 240, 0⟩]⟩,  -- PA_IW
  ⟨0x9, 1, 4, 0x0, .always, [⟨15, 8, .rw, .range 0 160, 0⟩, ⟨7, 0, .rw, .range 0 64, 0⟩]⟩,  -- PA_OS
  ⟨0xC, 1, 4, 0x0, .always, [⟨15, 8, .rw, .any, 0⟩, ⟨7, 0, .rw, .any, 0⟩]⟩,  -- PA_RAMP
  ⟨0xD, 1, 4, 0x0, .always, [⟨9, 0, .rw, .any, 0⟩]⟩,  -- PA_ILIM
  ⟨0x10, 1, 4, 0x0, .always, [⟨15, 15, .ro, .any, 0⟩, ⟨7, 0, .ro, .any, 0⟩]⟩,  -- PA_NFT
  ⟨0x11, 1, 4, 0x0, .always, [⟨9, 0, .ro, .any, 0⟩]⟩,  -- PA_ASMON
  ⟨0x14, 1, 4, 0x0, .always, [⟨15, 0, .rc, .any, 0⟩]⟩]  -- PA_LINKCNT

def resetRegs0 : List (Nat × Word) := [
  (0x0, 0x7250), (0x4, 0x10101010), (0x8, 0x18C00FF), (0x10, 0x10000000), (0x1000C, 0x258), (0x100020, 0x4),
  (0x100024, 0xFFFFFFFF), (0x110020, 0x4), (0x110024, 0xFFFFFFFF), (0x200008, 0x80F), (0x20000C, 0x8041010), (0x200020, 0x10135A9),
  (0x200040, 0x2280C), (0x200044, 0x1004), (0x200090, 0x3FFF), (0x210008, 0x80F), (0x21000C, 0x8041010), (0x210040, 0x2280C),
  (0x210044, 0x1004), (0x220008, 0x80000000), (0x220010, 0x1), (0x230008, 0x80000000), (0x230010, 0x1), (0x240004, 0x200302),
  (0x240008, 0xC08), (0x240018, 0x20001000), (0x240080, 0xFF), (0x240084, 0xFF), (0x240088, 0xFF), (0x24008C, 0xFF)]

def resetRegs1 : List (Nat × Word) := [
  (0x240090, 0xFF), (0x240094, 0xFF), (0x240098, 0xFF), (0x24009C, 0xFF), (0x2400A0, 0xFF), (0x2400A4, 0xFF),
  (0x2400A8, 0xFF), (0x2400AC, 0xFF), (0x2400C0, 0x8040), (0x24800C, 0x372819), (0x248040, 0x302), (0x248044, 0x302),
  (0x248048, 0x302), (0x24804C, 0x302), (0x248050, 0x302), (0x248054, 0x302), (0x248058, 0x302), (0x24805C, 0x302),
  (0x248060, 0x302), (0x248064, 0x302), (0x248068, 0x302), (0x24806C, 0x302), (0x248080, 0x4000F), (0x250004, 0x200302),
  (0x250008, 0xC08), (0x250018, 0x20001000), (0x250080, 0xFF), (0x250084, 0xFF), (0x250088, 0xFF), (0x25008C, 0xFF)]

def resetRegs2 : List (Nat × Word) := [
  (0x250090, 0xFF), (0x250094, 0xFF), (0x250098, 0xFF), (0x25009C, 0xFF), (0x2500A0, 0xFF), (0x2500A4, 0xFF),
  (0x2500A8, 0xFF), (0x2500AC, 0xFF), (0x2500C0, 0x8040), (0x25800C, 0x372819), (0x258040, 0x302), (0x258044, 0x302),
  (0x258048, 0x302), (0x25804C, 0x302), (0x258050, 0x302), (0x258054, 0x302), (0x258058, 0x302), (0x25805C, 0x302),
  (0x258060, 0x302), (0x258064, 0x302), (0x258068, 0x302), (0x25806C, 0x302), (0x258080, 0x4000F), (0x300008, 0x1000000),
  (0x30000C, 0x9C4), (0x300010, 0x1080E2D), (0x300014, 0x401004), (0x300040, 0x10000), (0x300064, 0x10101), (0x300100, 0x4000000)]

def resetRegs3 : List (Nat × Word) := [
  (0x300108, 0x1A0F2448), (0x300114, 0x7), (0x300124, 0x40141088), (0x300134, 0x27100E10), (0x310008, 0x1000000), (0x31000C, 0x9C4),
  (0x310010, 0x1080E2D), (0x310014, 0x401004), (0x310040, 0x10000), (0x310064, 0x10101), (0x310100, 0x4000000), (0x310108, 0x1A0F2448),
  (0x310114, 0x7), (0x310124, 0x40141088), (0x310134, 0x27100E10), (0x320004, 0xAFC80), (0x320018, 0xA08), (0x32001C, 0x2000010),
  (0x320020, 0xBB805DC), (0x320024, 0x1E000096), (0x320028, 0x8C640003), (0x330100, 0xCCDC1401), (0x330108, 0x5A0005DC), (0x330110, 0x1),
  (0x330200, 0x50641E00), (0x330204, 0x12C), (0x34000C, 0x3003), (0x35000C, 0x3003), (0x400000, 0x140040), (0x400004, 0x1000400)]

def resetRegs4 : List (Nat × Word) := [
  (0x40000C, 0x8000400), (0x400024, 0x4000000), (0x410000, 0x82140108), (0x41000C, 0x21), (0x410010, 0x5), (0x410014, 0x400080),
  (0x420004, 0x300000), (0x420020, 0x180000), (0x440000, 0x1), (0x440004, 0x4B00018), (0x520004, 0x1), (0x600200, 0x1),
  (0x610100, 0xFFFFFFFF), (0x610104, 0xFFFFFFFF), (0x610108, 0xFFFFFFFF), (0x610110, 0xFFFFFFFF), (0x610114, 0xFFFFFFFF), (0x610118, 0xFFFFFFFF),
  (0x610120, 0xFFFFFFFF), (0x610124, 0xFFFFFFFF), (0x610128, 0xFFFFFFFF), (0x610130, 0xFFFFFFFF), (0x610134, 0xFFFFFFFF), (0x610138, 0xFFFFFFFF),
  (0x610140, 0xFFFFFFFF), (0x610144, 0xFFFFFFFF), (0x610148, 0xFFFFFFFF), (0x610200, 0x2134), (0x610204, 0x2134), (0x610208, 0x2134)]

def resetRegs5 : List (Nat × Word) := [
  (0x61020C, 0x2134), (0x610210, 0x2134), (0x610240, 0x75300), (0x610320, 0x46413C), (0x620000, 0xF000000), (0x620004, 0x3C330000),
  (0x620008, 0xA200800)]

/-- The registers whose reset value is not zero (the reset columns of the register tables; SYS_REV under R580). -/
def resetRegs : List (Nat × Word) := resetRegs0 ++ resetRegs1 ++ resetRegs2 ++ resetRegs3 ++ resetRegs4 ++ resetRegs5

/-- The preamplifier registers whose reset value is not zero; the maker's values are the model's own (assumption 6). -/
def resetPreamp : List (Nat × Word) := [(0x0, 0x1), (0x1, 0xC420), (0x2, 0x3C30), (0x8, 0x28)]

end Sys2Proof.Machine
end

