-- ==== Sys2Proof/Machine/State.lean ====
section
/-! DEFINITION. The state of the device as plain data: the register file, and one structure for each unit's state
that no register shows. `State.reset` is the device right after reset. -/

namespace Sys2Proof.Machine

/-! ### Rotation clock (chapter 01) -/

/-- An armed launch stamp: bits [27:0] of the clock, with a revolution for a stamp under R583. -/
structure Stamp where
  owner : StampOwner
  rev : Option Nat
  pos : Nat
  /-- the clock value at which it fires, counted in phase units with as many ticks to a revolution as there are wedges -/
  due : Nat
deriving DecidableEq, Repr

/-- The rotation clock of R16 with the work it carries from tick to tick. Source, master head and missed count live in
TICK_STATUS. -/
structure Clock where
  rev : BitVec 20
  wedge : BitVec 10
  phase : BitVec 18
  /-- phase units still to be slewed (R22) -/
  slew : Int
  /-- armed launch stamps (R24) -/
  stamps : List Stamp
  /-- units of TICK_OVR that failed to report done in the running tick, as a mask (R26, R28) -/
  notDone : Nat
  /-- the overrun masks of the last seven ticks, newest first (R532) -/
  overruns : List Nat
  /-- one TICK_NOW_HI latch for each requester (R31) -/
  nowHi : List (Nat × BitVec 16)
  /-- the sum of the measured tick periods of the running revolution, ns -/
  periodSum : Nat
  /-- the number of ticks summed -/
  periodTicks : Nat
  /-- the last measured tick period, ns -/
  period : Nat
  /-- the time from the present power good, ns -/
  nowNs : Nat
  /-- the flywheel supplied the present tick -/
  flywheelTick : Bool
deriving DecidableEq, Repr

/-! ### Generations and inter-unit requests (R32 to R37) -/

structure Units where
  /-- generations by unit number, 0 never ready (R32) -/
  gens : List (Nat × Nat)
  /-- units between reset and ready notice -/
  resetting : List (Nat × Bool)
  /-- requests accepted and not yet answered, in issue order -/
  outstanding : List UnitReq
  /-- refused requests their requesters hold (R34), in issue order -/
  held : List UnitReq
  /-- tags of the responses acted on, newest first -/
  answered : List Nat
deriving DecidableEq, Repr

/-! ### Configuration (chapter 02) -/

/-- One staged set (R41): register bits as (mask, value), profile-table bytes and control-store words. -/
structure StagedSet where
  regs : List (Nat × (Word × Word))
  tables : List (Nat × Option Byte)
  cst : List (Nat × Option (BitVec 144))
deriving DecidableEq, Repr

def StagedSet.empty : StagedSet := { regs := [], tables := [], cst := [] }

/-- One trim record of Table 02.1. -/
structure TrimRec where
  addr : Nat
  space : Nat
  msb : Nat
  lsb : Nat
  reason : Nat
  group : Nat
  written : Nat
  applied : Nat
deriving DecidableEq, Repr

/-- An admitted set waiting for its tick edge; `skip` when it arrived after the cut-off of R30. -/
structure PendingSet where
  set : StagedSet
  skip : Bool
  /-- the commit holds the semaphore implicitly until it ends (Table 17.1) -/
  holds : Bool
deriving DecidableEq, Repr

/-- An adaptation set committed and waiting for its edge (R42, R45, R155): the words of one record of a table, as
(byte address, mask, value), where the record's RGEN stood when the set names one (R156), and the length of the record
whose last word is its CHECK. -/
structure AdaptSet where
  act : Act
  table : Nat
  base : Nat
  length : Nat
  rgen : Option Nat
  entries : List (Nat × Word × Word)
  skip : Bool
deriving DecidableEq, Repr

structure Conf where
  /-- the configuration set being filled -/
  staged : StagedSet
  /-- the admitted configuration set (R53 step 5); BUSY while present -/
  pending : Option PendingSet
  /-- adaptation sets that wait for their edge, oldest first -/
  adaptPending : List AdaptSet
  /-- RWT bits that the coming edge latches, as (mask, value) -/
  rwt : List (Nat × (Word × Word))
  /-- RWT bits that arrived after the cut-off, for the following edge -/
  rwtNext : List (Nat × (Word × Word))
  /-- the trim report (R49) -/
  trims : List TrimRec
  trimOverflow : Bool
  /-- the first write after a commit or discard clears the report -/
  trimStale : Bool
  /-- committed profile-table bytes, keyed by table and byte offset -/
  tables : List (Nat × Byte)
  /-- the committed control-store images (the reload copies of R122), keyed by Blocker and word -/
  images : List (Nat × BitVec 144)
  /-- actuators whose reload copy fails its CRC or carries poison (R124) -/
  reloadBad : Per Bool
  /-- the initial data memory image of the profile in force (R584), keyed by Blocker and byte -/
  dataImage : Per (List (Nat × Byte))
  /-- heads per actuator (R70) -/
  nh : Nat
  /-- readers of each head, keyed by 12 × actuator + head (R71) -/
  readers : List (Nat × Nat)
deriving DecidableEq, Repr

/-! ### Hatband event recorder (chapter 21) -/

/-- One Hatband record (Table 21.1). -/
structure HbRec where
  code : Nat
  block : Nat
  rep : Nat
  boot : Nat
  time : Nat
  src : Nat
  stamp : Nat
  arg0 : Nat
  arg1 : Nat
deriving DecidableEq, Repr

structure Hatband where
  /-- records held, in index order (R507) -/
  recs : List HbRec
  /-- the queue of R508, oldest first -/
  queue : List HbRec
  /-- the option area has loaded, so queued events are written (R508) -/
  ready : Bool
  full : Bool
  clearing : Bool
  seq : Word
  /-- frozen ranges: (holder, COUNT taken), holder 0 the archive job, 1 and 2 the controllers (R512) -/
  frozen : List (Nat × Nat)
  /-- the record latched into the window registers -/
  window : List Word
  /-- records that hold a poisoned MRAM unit -/
  poisoned : List (Nat × Bool)
  /-- records present at power good: the snapshot of R515 starts above them -/
  atPowerGood : Nat
  /-- the power-on count (R507) -/
  boot : Nat
deriving DecidableEq, Repr

/-! ### Media (chapter 03) -/

/-- A band record (Table 03.1). KIND is 0 zoned data, 1 parity log, 2 conventional, 3 system. -/
structure BandRec where
  surface : Nat
  kind : Nat
  dir : Bool
  start : Nat
  rzone : Nat
  pitch : Nat
  offset : Nat
  tracks : Nat
  skew : Nat
  spares : Nat
  slipBase : Nat
  slips : Nat
deriving DecidableEq, Repr

/-- A slip entry (R85). -/
structure Slip where
  grown : Bool
  pending : Bool
  pos : Nat
deriving DecidableEq, Repr

/-- What one position of a band holds (Tables 03.2 and 03.3): the clear fields of its record, and its blocks as the
numbers their 4,096 bytes spell. -/
structure MediaRec where
  place : Nat
  slot : Nat
  valid : Nat
  bad : Nat
  firstLba : Nat
  nsid : Nat
  zone : Nat
  wseq : Nat
  keygen : Nat
  data : List Nat
deriving DecidableEq, Repr

/-- A copy of a conventional sector that does not hold the last write (R91). -/
structure StaleMark where
  lba : Nat
  copy : Nat
deriving DecidableEq, Repr

/-- A reassigned sector of a conventional or system band (R87). -/
structure Reassigned where
  band : Nat
  sector : Nat
  spare : Nat
deriving DecidableEq, Repr

structure Media where
  /-- band records by index (R73) -/
  bands : List (Nat × Option BandRec)
  /-- the slip list of each band, in ascending position (R85) -/
  slips : List (Nat × List Slip)
  /-- the zone map (R88) -/
  zoneMap : List (Nat × Option Nat)
  /-- the conventional map: the two copies of each band (R90) -/
  convMap : List (Nat × Option (Nat × Nat))
  /-- the written bitmap (R93) -/
  written : List (Nat × Bool)
  stale : List StaleMark
  reassigned : List Reassigned
  /-- bands relocated to a spare band: (band, spare band) (R87) -/
  relocated : List (Nat × Nat)
  /-- what the positions of the bands hold, keyed by band and position -/
  recs : List (Nat × Option MediaRec)
  /-- the drive write sequence number (Table 03.2) -/
  wseq : Nat
  /-- sequence numbers of the two system area copies (R94) -/
  sysSeq : Two Nat
  /-- the surfaces that hold the copies (R94, R95) -/
  sysHome : Two Nat
  /-- a copy being rebuilt holds off updates (R95) -/
  sysRebuild : Option Nat
  /-- blocks per zone, 65,536 or 131,072 (R88) -/
  zoneBlocks : Nat
deriving DecidableEq, Repr

/-! ### Blockers (chapter 04) -/

/-- A Plank entry (Table 03.5). KIND is 0 SERVO, 1 DATA, 2 SKIP, 3 END. -/
structure PlankEntry where
  kind : Nat
  wedge : Nat
  start : Nat
  pre : Nat
  sync : Nat
  length : Nat
  slot : Nat
  frag : Nat
  first : Bool
  last : Bool
  smark2 : Bool
  sm2off : Nat
  cwOffset : Nat
deriving DecidableEq, Repr

/-- The Plank position's binding (R112): band, track index, table identifier, and the header values and entries that
the bind reads. -/
structure Binding where
  band : Nat
  track : Nat
  table : Nat
  bitrate : Nat
  crate : Nat
  format : Nat
  slots : Nat
  skew : Nat
  entries : List PlankEntry
deriving DecidableEq, Repr

/-- The Plank position: the binding and the current occurrence, an entry index with its revolution (R583). -/
structure PlankPos where
  bind : Option Binding
  cur : Option (Nat × Nat)
deriving DecidableEq, Repr

/-- What a Blocker waits for. -/
inductive BlkWait where
  /-- running -/
  | run
  /-- the armed stamp of the word at the program counter -/
  | stamp
  /-- a condition wait (R104) -/
  | cond
deriving DecidableEq, Repr

/-- A request descriptor (Table 04.6) as a queue holds it. -/
structure BlkReq where
  op : Nat
  head : Nat
  tag : Nat
  band : Nat
  track : Nat
  slot : Nat
  count : Nat
  desc : Nat
  rung : Nat
  felt : Nat
  requester : Word
deriving DecidableEq, Repr

/-- A fragment in progress in the data path: its direction, its entry and DARG, the band and position of its record, and
whether its gate opened with the synthesizer locked. -/
structure FragRun where
  write : Bool
  entry : PlankEntry
  darg : Nat
  band : Nat
  pos : Nat
  sampled : Bool
deriving DecidableEq, Repr

structure Blocker where
  /-- the control store: 16,384 words of 144 bits (R96) -/
  store : List (Nat × BitVec 144)
  /-- the data memory (R96) -/
  data : List (Nat × Byte)
  /-- data memory bytes that are poisoned (R125) -/
  dataPoison : List (Nat × Bool)
  pc : BitVec 14
  g : List (Nat × Word)
  k : List (Nat × BitVec 16)
  zero : Bool
  neg : Bool
  carry : Bool
  depth : Nat
  /-- the Plank position kept for each depth (R119) -/
  saved : List (Nat × PlankPos)
  plank : PlankPos
  wait : BlkWait
  /-- the word waited at is a SAFE word (R116) -/
  waitSafe : Bool
  /-- HALT was written and no SAFE word has been reached since -/
  haltReq : Bool
  halted : Bool
  /-- the reset of R122 or R123 is running; no admitted image since power good holds the Blocker too -/
  resetting : Bool
  reloading : Bool
  /-- LOAD_PENDING: an admitted image waits for the dispatch wait (R122) -/
  loadPending : Bool
  /-- an image has been written since power good (R122) -/
  loaded : Bool
  /-- pending events, bit v for vector v (Table 04.7) -/
  events : Nat
  /-- the full position of the last fired stamp (R101, R583) -/
  lastRev : Nat
  lastStamp : Nat
  /-- conditions of Table 04.3 -/
  stampLate : Bool
  fragLast : Bool
  syncFound : Bool
  decFail : Bool
  rawMismatch : Bool
  writeOk : Bool
  /-- gates (R106): read, write, servo forced; the assist gate's last code is the lane's -/
  rg : Bool
  wg : Bool
  sg : Bool
  /-- servo gate suppressed at the next SERVO entry -/
  sgSkip : Bool
  /-- the fragment in progress in the data path -/
  frag : Option FragRun
  /-- the record some of whose fragments have been read or written: band, position and slot -/
  recOpen : Option (Nat × Nat × Nat)
  /-- readers of the record in progress fewer than its head declares (Table 06.7) -/
  single : Bool
  /-- the record in progress was cut or was not placed (R582, R176) -/
  cut : Bool
  noback : Bool
  queue : List BlkReq
  /-- requests held until the ready notice (R34, R122) -/
  heldReqs : List BlkReq
  /-- the request accepted and not posted -/
  cur : Option BlkReq
  /-- records of the request whose outcome is fixed -/
  completed : Nat
  /-- records ready for the write path after LOAD_REC -/
  loadedRecs : Nat
  /-- the instant from which a LOAD_REC has its records ready, in phase units (R110) -/
  loadDue : Option Nat
  /-- bolts of the request that stand: zone and bolt (R355) -/
  stood : List (Nat × Nat)
  /-- the felt pair is attached to the request (R355) -/
  feltArmed : Bool
  /-- status codes of GOP 15 -/
  lastDecode : Word
  lastFault : Nat
  withdrawn : Bool
  /-- completions posted: (tag, status), newest first -/
  posted : List (Nat × Word)
  /-- records of the debug trace: (value, pc, stamp), newest first -/
  trace : List (Word × Nat × Nat)
deriving DecidableEq, Repr

/-! ### Channel front end and adaptation (chapter 05) -/

/-- A completed average (R151, R152): its record, the averaged words and the classes whose drift flag is set
(bit 0 gain, 1 offset, 2 taps, 3 targets). -/
structure Average where
  head : Nat
  rzone : Nat
  rgen : Nat
  words : List (Nat × Word)
  drift : Nat
deriving DecidableEq, Repr

structure Channel where
  /-- the frequency word of the bound rate-zone record (R132) -/
  fw : Nat
  /-- the channel's copy of the bound record, by word (R149) -/
  rz : List (Nat × Word)
  /-- the values latched at the FRAG 0 read gate of the record being read (R149) -/
  latched : List (Nat × Word)
  /-- the (head, rate zone) of the bind -/
  key : Option (Nat × Nat)
  /-- both copies of the rate-zone record failed (R149) -/
  rzBad : Bool
  /-- live lane words A and B by lane (R138) -/
  live : List (Nat × (Word × Word))
  /-- the revolution in which the predecessor fragment was read (R138) -/
  liveRev : Nat
  /-- the deviation of the predecessor fragment (R173) -/
  deviation : Int
  /-- the lanes the running record was read with (bit e for lane e) -/
  lanes : Nat
  e1only : Bool
  syncDistrust : Bool
  sync2Used : Bool
  /-- consecutive fragments that meet a condition of R157, by 3 × head + lane -/
  badRun : List (Nat × Nat)
  /-- the synthesizer has lost its power (R157) -/
  synthOff : Bool
  /-- the completed-average buffer, oldest first (R151) -/
  averages : List Average
deriving DecidableEq, Repr

/-! ### Detection and the retry ladder (chapter 06) -/

/-- The states of a replay buffer (R176). -/
inductive BufState where
  | free | capturing | pending | held
deriving DecidableEq, Repr

/-- A replay buffer: its state, the order in which it entered it, the record it holds, and whether HOLD_SAMPLES closed
it to capture (R176). -/
structure ReplayBuf where
  st : BufState
  since : Nat
  tag : Nat
  slot : Nat
  closed : Bool
deriving DecidableEq, Repr

/-- A record on its way through the channel: in decode, or in the ladder (R179). -/
structure LadderRec where
  tag : Nat
  band : Nat
  pos : Nat
  slot : Nat
  conv : Bool
  rung : Nat
  plan : Nat
  noback : Bool
  distrust : Bool
  /-- a failure of this attempt ends its rung (R183, R184, R186) -/
  ends : Bool
  /-- the readers it was read with were fewer than declared; it was placed from the secondary mark (Table 06.7) -/
  single : Bool
  sync2 : Bool
  /-- the fragments of a re-read, or the record's own read, were cut (R582) -/
  cut : Bool
deriving DecidableEq, Repr

structure Detect where
  bufs : List ReplayBuf
  /-- the partition's FORMAT (R175) -/
  format : Nat
  order : Nat
  /-- HOLD_SAMPLES is in force (R176) -/
  holdSamples : Bool
  /-- codewords whose LAST fragment has ended and that wait for a decoder, oldest first -/
  ready : List LadderRec
  /-- decodes started and not ended, oldest first (R171) -/
  decodes : List LadderRec
  /-- the record in the ladder (R188) -/
  active : Option LadderRec
  queue : List LadderRec
  /-- rung 3: shifts applied so far, and the shift in force in percent of pitch (R183) -/
  shiftIdx : Nat
  shift : Int
  /-- rung 4: reads summed in the accumulator (R184) -/
  llrReads : Nat
  /-- rung 6: sides kept in the neighbour store, bit 0 outer, bit 1 inner (R186) -/
  neighbours : Nat
  /-- an attempt's LAST fragment has ended since the last tick edge (R183) -/
  attempt : Bool
  /-- bolt records at rung 7 -/
  recon : List LadderRec
  /-- conventional records at rung 7, by the tag of the read of their other copy (R187) -/
  second : List (Nat × LadderRec)
  /-- decode status of each record whose outcome is fixed: (tag, slot, status), newest first (R191) -/
  outcomes : List (Nat × Nat × Word)
deriving DecidableEq, Repr

/-! ### Write path and energy assist (chapter 07) -/

/-- The terms behind a head's penalties (Table 07.5), newest first: RAW mismatches of its last 1,024 marked bolts; for its
last 1,024 write requests 1 for an assist fault of kind 1 or 2 plus 2 for a PREAMP fault; records delivered at rung 3 or
above among its last 65,536; the cumulative aging shift and SP_OP at qualification. -/
structure Health where
  marks : List Bool
  writes : List Nat
  reads : List Bool
  aging : Int
  qualified : Nat
  /-- the recalibration of R219 found no value (R222) -/
  noValue : Bool
deriving DecidableEq, Repr

def Health.fresh : Health :=
  { marks := [], writes := [], reads := [], aging := 0, qualified := 0, noValue := false }

structure WritePath where
  /-- the copy of the bound write record, by word (R194) -/
  wrec : List (Nat × Word)
  /-- both copies of the write record failed (R195) -/
  wrBad : Bool
  /-- active inhibits, bit c for cause c of Table 07.2 -/
  inhibits : Nat
  /-- wedges counted toward requalification (R199) -/
  requal : Nat
  /-- the head's own field of this wedge gave a valid position error (R200) -/
  ownPes : Bool
  /-- the last HEATER step issued, by head (R196) -/
  step : List (Nat × Nat)
  /-- the heater code last sent, by head -/
  code : List (Nat × Nat)
  /-- heater back-off in force, by head (R196) -/
  bo : List (Nat × Nat)
  /-- unwind steps still to come, by head (R215) -/
  unwind : List (Nat × Nat)
  /-- the next bolt completed on the head is marked (R217) -/
  markNext : List (Nat × Bool)
  /-- marked bolts awaiting their check: (head, band, position) (R218) -/
  marked : List (Nat × Nat × Nat)
  /-- consecutive mismatches, by head (R219) -/
  mismatch : List (Nat × Nat)
  /-- heads whose writes are suspended (R219) -/
  suspended : List (Nat × Bool)
  /-- consecutive write faults of the record being written (R203) -/
  faultRun : Nat
  /-- fragments of the record in progress written (R202) -/
  fragsWritten : Nat
  /-- assist faults of kind 1 or 2 (1) and PREAMP faults (2) of the request in progress -/
  reqFaults : Nat
  health : List (Nat × Health)
deriving DecidableEq, Repr

structure Assist where
  /-- the assist record latched at pre-bias, by word (R205) -/
  record : List (Nat × Word)
  /-- both copies of the record failed (R205) -/
  recBad : Bool
  /-- the temperature band now (R207) -/
  band : Nat
  integral : Int
  /-- ticks since the pre-bias began (R210) -/
  sincePre : Nat
  /-- ticks since the pre-bias or the last gate close (R210) -/
  idle : Nat
  /-- an armed pre-bias stamp whose back-off has begun (R215) -/
  backOffBegun : Bool
  /-- a write gate was open while operate-armed in the running tick (R212) -/
  operated : Bool
  /-- a temperature frame is awaited (R212) -/
  frameDue : Bool
  /-- the lane operated in the previous tick -/
  operatedBefore : Bool
  ilimRun : Nat
  lostRun : Nat
  prevNft : Nat
  prevLevel : Nat
  trimSum : Int
  trimTicks : Nat
  /-- the shift of an aging commit that waits for its edge (R220) -/
  ageShift : Int
deriving DecidableEq, Repr

/-! ### The Tenil link (chapter 08) -/

/-- A control-lane transaction (R232, R234): its priority, RW (true read), register and data, and whether it came
through TNLn_PA_ACC. -/
structure CtlReq where
  prio : Nat
  read : Bool
  addr : Nat
  data : Nat
  tries : Nat
deriving DecidableEq, Repr

structure Tenil where
  /-- events raised at the present instant, (TYPE, ARG), oldest first (R229) -/
  gather : List (Nat × Nat)
  /-- groups sent on the launch lane, newest first; each a list of event words (R227) -/
  groups : List (List Word)
  /-- control transactions waiting (R234) -/
  queue : List CtlReq
  /-- the transaction in flight -/
  flight : Option CtlReq
  /-- transactions failed in a row after their retries (R242) -/
  failRun : Nat
  /-- instants of the retrains of the last second, ns (R242) -/
  retrains : List Nat
  /-- the fault line is low -/
  lineLow : Bool
  /-- the instant of the last head select, ns (R231, R235) -/
  selectAt : Option Nat
  /-- a pre-bias that waits for the acknowledgement of its PA_RAMP write (R236) -/
  preHeld : Option Fetch
deriving DecidableEq, Repr

/-! ### Power domains and thermal management (chapter 22) -/

structure Power where
  /-- domains whose turn-off has passed step 2 of R524, with whether a request has asked for a rewake -/
  turningOff : List (Nat × Bool)
  /-- entry into a lower power state has begun, and a command has asked for its reversal (R433) -/
  entering : Bool
  reversing : Bool
  /-- ticks of 10 ms for which every sensor has been 5 degrees below the current level's limit (R527) -/
  coolTicks : Nat
  /-- ticks of 10 ms for which every sensor has been below its Warn limit (R527) -/
  warnTicks : Nat
  /-- SMART critical warning bit 1 is set (R526) -/
  tempWarning : Bool
deriving DecidableEq, Repr

/-! ### Faults and recovery (chapter 23) -/

structure FaultMgr where
  /-- faults reported and not yet taken, oldest first (R530): unit and CAUSE of FMG_ELOG -/
  queue : List (FUnit × Nat)
  /-- faults taken, newest first, with their time in ns (R531) -/
  history : List (FUnit × Nat)
  /-- units whose recovery runs -/
  recovering : List FUnit
  /-- units failed under R531 -/
  failed : List FUnit
  actFailed : Per Bool
  /-- the media is unavailable (R534) -/
  mediaOff : Bool
  /-- module restarts of the last hour, ns (R538) -/
  restarts : List Nat
  /-- the module watchdog was serviced since its last period -/
  kicked : Bool
  /-- persistent error events raised once per unit (R540) -/
  reported : List FUnit
deriving DecidableEq, Repr

/-! ### Host commands and completions (chapter 16) -/

/-- The NVMe status values the manual names. -/
inductive Nvme where
  | success
  | invalidField
  | invalidOpcode
  | lbaOutOfRange
  | abortedSqDeletion
  | commandSequenceError
  | namespaceNotReady
  | sanitizeInProgress
  | sanitizeFailed
  | formatInProgress
  | unrecoveredRead
  | writeFault
  | zoneBoundary
  | zoneFull
  | zoneReadOnly
  | zoneOffline
  | zoneInvalidWrite
  | tooManyActive
  | tooManyOpen
  | invalidTransition
  | namespaceAttached
  | invalidQueueId
  | invalidQueueSize
  | invalidQueueDeletion
  | completionQueueInvalid
  | asyncLimit
  | abortLimit
  | invalidLogPage
  | invalidFirmwareSlot
  | invalidFirmwareImage
  | overlappingRange
  | activationProhibited
  | guardCheck
  | appTagCheck
  | refTagCheck
  | invalidFormat
  | featureNotSaveable
  | featureNotChangeable
  | internalError
  | transientTransport
  | invalidNamespace
  | dataTransferError
  | capacityExceeded
  | activationNeedsReset
deriving DecidableEq, Repr

/-- A completion posted: status, DNR, CRD and Dword 0. -/
structure Completion where
  id : CmdId
  status : Nvme
  dnr : Bool
  crd : Nat
  dw0 : Nat
deriving DecidableEq, Repr

/-! ### Zones (chapter 12) -/

/-- A write that a zone holds (R334) or that waits for its data or for room (R333). -/
structure ZWrite where
  id : CmdId
  off : Nat
  len : Nat
  data : List Nat
deriving DecidableEq, Repr

structure Zone where
  /-- the state code of Table 12.1 -/
  state : Nat
  wp : Nat
  /-- the finish point (R341) -/
  finish : Option Nat
  zfc : Bool
  fzr : Bool
  /-- blocks held in the rescue region (R345): offset and contents -/
  rescue : List (Nat × Nat)
  /-- held writes, in order of arrival (R334) -/
  held : List ZWrite
  /-- in-order writes whose data or room is awaited (R333) -/
  waiting : List ZWrite
  /-- accepted blocks not yet on the media: offset and contents (R333) -/
  cache : List (Nat × Nat)
  /-- offsets of accepted blocks whose data a damaged vault section left poisoned (R552) -/
  poison : List Nat
  /-- the number of the last accepted write, for R331 -/
  lastAccept : Nat
  /-- bolts that have contributed to felt parity since the last reset (R354) -/
  contrib : Nat
  /-- bolts in parity debt (R361) -/
  debt : Nat
  /-- the zone is un-felting (R363), with the slip list as it stood before the reset -/
  unfelt : Bool
  oldSlips : List Slip
  /-- strides un-felted so far -/
  unfelted : List Nat
  /-- reads dispatched before a reset (R342) -/
  oldReads : List CmdId
deriving DecidableEq, Repr

/-- An empty zone with nothing held. -/
def Zone.empty : Zone :=
  { state := 0x1, wp := 0, finish := none, zfc := false, fzr := false, rescue := [], held := [], waiting := [],
    cache := [], poison := [], lastAccept := 0, contrib := 0, debt := 0, unfelt := false, oldSlips := [], unfelted := [], oldReads := [] }

/-- A journal record (Table 12.5); `good` is false when its CRC fails. -/
structure JrnlRec where
  type : Nat
  zone : Nat
  state : Nat
  attr : Nat
  wp : Nat
  seq : Nat
  good : Bool
deriving DecidableEq, Repr

structure Zones where
  /-- zones that are not empty (R328) -/
  zones : List (Nat × Zone)
  /-- zones of the namespace -/
  count : Nat
  accepts : Nat
  /-- the zone-state journal's ring, oldest first (R338) -/
  ring : List JrnlRec
  /-- the zone state image in the system area, with the SEQ it holds (R340) -/
  image : List (Nat × Zone)
  imageSeq : Nat
  /-- bytes accepted and not yet on the media, in blocks (R333, R346) -/
  cacheBlocks : Nat
  /-- zones removed from the reported capacity (R368) -/
  offline : Nat
  /-- requests released toward the Blockers and not yet on the media: zone, position (R333) -/
  released : List (Nat × Nat)
  /-- zones whose Zone Descriptor Changed event is raised, newest first -/
  changed : List Nat
deriving DecidableEq, Repr

/-! ### Felt parity (chapter 13) -/

/-- A stride of a group: its live part, its open slot and what they cover. -/
structure Stride where
  live : Bool
  /-- the live part's mask of member positions (R357) -/
  mask : Nat
  /-- the part's log locations (Table 13.4) -/
  ploc : Nat
  qloc : Nat
  /-- a scratch slot is held (R355) -/
  opened : Bool
  slot : Nat
  /-- bolts folded into the partial, by member position -/
  folded : List (Nat × Nat)
  /-- bolts that the checkpoint covers, by member position (R360) -/
  cover : List (Nat × Nat)
  /-- the half written most recently (R360) -/
  half : Nat
  /-- folds since the older half was written -/
  dirty : Bool
deriving DecidableEq, Repr

def Stride.none : Stride :=
  { live := false, mask := 0, ploc := 0, qloc := 0, opened := false, slot := 0, folded := [], cover := [],
    half := 0, dirty := false }

/-- A felt event record (Table 13.5). -/
structure FeltEvent where
  type : Nat
  surface : Nat
  head : Nat
  groups : Nat
  zones : Nat
  capacity : Nat
  zone : Nat
  time : Nat
deriving DecidableEq, Repr

/-- A log band in use: its number among the surface's KIND 1 bands, the parts written to it and those still live
(R359). -/
structure LogBand where
  no : Nat
  used : Nat
  live : Nat
deriving DecidableEq, Repr

structure Felt where
  /-- strides with a part or a slot, keyed by 128 × group + stride -/
  strides : List (Nat × Stride)
  /-- the parity-log index as the system area holds it (R358) -/
  image : List (Nat × Stride)
  /-- the log bands in use by surface, the open one first (R359) -/
  log : List (Nat × List LogBand)
  /-- accumulator pairs attached, keyed by 15 × actuator + pair (R355) -/
  pairs : List (Nat × Bool)
  /-- surfaces whose garbage is collected -/
  gc : List Nat
  /-- surfaces whose head has failed -/
  lost : List (Nat × Bool)
  /-- groups whose lost parity is still to be recomputed (R367) -/
  refelt : List Nat
  events : List FeltEvent
  /-- the depopulation record: head, surface, zones taken Offline (R368) -/
  depop : List (Nat × Nat × Nat)
  /-- the bytes solved by the last reconstruction -/
  solved : List Byte
  /-- the rewritten group entries' members marked LOST, keyed by 32 × group + position (R367) -/
  lostMembers : List (Nat × Bool)
  /-- the parity surfaces of groups that R367 moved: (P, Q) -/
  moved : List (Nat × Option (Nat × Nat))
deriving DecidableEq, Repr

/-! ### Host controllers and commands (chapters 16 and 17) -/

/-- What a host command asks for. -/
inductive HostKind where
  | read | convWrite | zonedWrite | append | flush
  /-- a Zone Management Send: its action, and Select All -/
  | zoneAct (action : Nat) (all : Bool)
  /-- a Zone Management Receive: descriptors wanted, and whether with extensions -/
  | report (count : Nat) (ext : Bool) (partialReport : Bool)
deriving DecidableEq, Repr

/-- A host command that is fetched and not completed. -/
structure HostCmd where
  id : CmdId
  kind : HostKind
  ns : Nat
  lba : Nat
  len : Nat
  data : List Nat
  /-- what the command waits for: a read's LBAs; a conventional write's copies, as 2 × LBA + copy -/
  need : List Nat
  /-- blocks read so far, with their contents -/
  got : List (Nat × Nat)
  /-- the first LBA that ended unrecovered or poisoned -/
  lost : Option Nat
  limited : Bool
  /-- marked ordered under R419 -/
  marked : Bool
  /-- not dispatched yet: it waits for its queue's order (R419) -/
  waiting : Bool
deriving DecidableEq, Repr

/-- What a request tag stands for: the host command it serves, if any, and the LBA of its record's first block. -/
structure TagInfo where
  owner : Option CmdId
  lba : Nat
  write : Bool
  /-- the copy of a conventional record (R90) -/
  copy : Nat
deriving DecidableEq, Repr

/-- What a command returns to its host: blocks of data, or the named fields of a structure or log page. -/
inductive HostOut where
  | blocks (bs : List Nat)
  | fields (fs : List (String × Nat))
  | words (ws : List Word)
deriving DecidableEq, Repr

/-- Asynchronous events that the manual names. -/
inductive AsyncEv where
  | vaultUnhealthy | spareLow | temperature | headHealth | zoneChanged | namespaceChanged | activationStarting
  | sanitizeDone | internalError
deriving DecidableEq, Repr

structure SubQueue where
  id : Nat
  size : Nat
  cq : Nat
  ordered : Bool
deriving DecidableEq, Repr

structure CompQueue where
  id : Nat
  size : Nat
deriving DecidableEq, Repr

/-- One NVMe controller. -/
structure Ctrl where
  /-- CC.EN and CSTS.RDY -/
  en : Bool
  rdy : Bool
  /-- CSTS.PP (R431), CSTS.CFS (R452) and CSTS.SHST: 0 normal, 1 in progress, 2 complete -/
  pp : Bool
  cfs : Bool
  shst : Nat
  /-- the controller has stopped fetching -/
  stopped : Bool
  /-- the port's link is up: PERST# is high and training has run (R545) -/
  link : Bool
  sqs : List SubQueue
  cqs : List CompQueue
  /-- controller-scope features by FID; default 0 -/
  feats : List (Nat × Nat)
  aers : List CmdId
  /-- asynchronous events raised and not yet reported, oldest first -/
  raised : List AsyncEv
  changedZones : List Nat
  changedNs : List Nat
  /-- the Persistent Event Log reporting context: the records frozen for it (R516) -/
  pel : Option (List HbRec)
  /-- the offset of R516 in force when the context was established, ms; none without a Timestamp -/
  pelOfs : Option Int
  /-- in-band NVMe-MI response waiting -/
  miReply : Option (List (String × Nat))
deriving DecidableEq, Repr

/-- A sanitize operation (R429, R430). -/
structure Sanitize where
  overwrite : Bool
  passes : Nat
  pattern : Nat
  invert : Bool
  ause : Bool
  /-- the current pass and the bands recorded as done -/
  pass : Nat
  bands : Nat
  /-- its media work will fail -/
  fails : Bool
  /-- it was resumed at start-up, and the management firmware holds the semaphore for it (R547) -/
  resumed : Bool
deriving DecidableEq, Repr

/-- A format that runs or waits to be resumed (R428, R430): its command, LBAF and SES, what it lays down on a fresh
drive, and its last recorded step of R428, 0 while it waits for dispatched I/O. -/
structure FormatRun where
  id : Option CmdId
  lbaf : Nat
  ses : Nat
  layout : FormatLayout
  step : Nat
deriving DecidableEq, Repr

/-- An entry of the Error Information log: the command, its status, and the first LBA of an Unrecovered Read Error. -/
structure ErrEntry where
  id : CmdId
  status : Nvme
  lba : Option Nat
deriving DecidableEq, Repr

structure HostIf where
  ctrl : Two Ctrl
  /-- PERST# of each port is high (R545) -/
  perst : Two Bool
  /-- step 7 of start-up has ended: controllers may be ready (R548) -/
  mayReady : Bool
  cmds : List HostCmd
  /-- what the request tags stand for -/
  tags : List (Nat × Option TagInfo)
  nextTag : Nat
  /-- subsystem features by key: FID, and for FID 0x04 and 0x05 a selector -/
  feats : List (Nat × Nat)
  /-- conventional blocks that the buffer holds and some copy does not (R91, R93) -/
  dirty : List (Nat × Nat)
  /-- buffered conventional blocks that a damaged vault section left poisoned (R552) -/
  poison : List Nat
  lbaf : Nat
  format : Option FormatRun
  sanitize : Option Sanitize
  /-- the subsystem is in sanitize failure mode, and the failure was unrestricted (R429, R430) -/
  sanFailed : Bool
  sanAuse : Bool
  /-- the Error Information log, newest first, at most 64 entries -/
  errors : List ErrEntry
  /-- the Timestamp feature: its value in ms, and when it was set in ns -/
  timestamp : Option (Nat × Nat)
  /-- Media and Data Integrity Errors and Unsafe Shutdowns (Table 23.3) -/
  mediaErrors : Nat
  unsafeStops : Nat
  /-- heads loaded, heads unloaded and spin-ups, all counted (Table 16.7) -/
  loads : Nat
  unloads : Nat
  spinUps : Nat
  /-- vital product data written at manufacture (Table 16.13) -/
  vpd : List Byte
  /-- pieces of the image being downloaded: offset and bytes (R431) -/
  pieces : List (Nat × List Byte)
  /-- data returned to the hosts, newest first -/
  out : List (CmdId × HostOut)
  /-- zones Offline counted in the reported capacity, conventional blocks -/
  convBlocks : Nat
  /-- an open episode of SMART bit 4 (R425) -/
  unhealthy : Bool
  /-- the drive's power state now, and the state being entered (R432, R433) -/
  ps : Nat
  psNext : Option Nat
  /-- NVMe-MI configurations set, by 2 × port + configuration (Table 16.13) -/
  miCfg : List (Nat × Option Nat)
  /-- NVMe-MI responses on the management buses with their port, newest first -/
  miOut : List (Port × List (String × Nat))
deriving DecidableEq, Repr

/-! ### Servo engines (chapters 09 and 10) -/

/-- A block-floating value M × 2^(E − 23) (R257). -/
structure Bf where
  m : Int
  e : Int
deriving DecidableEq, Repr

def Bf.zero : Bf := { m := 0, e := 0 }

/-- A stage's output and its states, which share one exponent (R257, R262). -/
structure StageSt where
  out : Bf
  e : Int
  xs : List Int
deriving DecidableEq, Repr

def StageSt.zero : StageSt := { out := Bf.zero, e := 0, xs := [] }

/-- A SERVO_REQ of DARG 0 or 1 with the target it was issued for (R283). -/
structure ServoReq where
  darg : Nat
  head : Nat
  band : Nat
  track : Nat
  write : Bool
deriving DecidableEq, Repr

/-- A running trajectory (R284): tick k of n, from REF0 to the target. -/
structure Traj where
  k : Nat
  n : Nat
  ref0 : Int
  goal : Int
deriving DecidableEq, Repr

/-- The test generator while an injection runs (R275). -/
structure Inject where
  phase : Nat
  inc : Nat
  lfsr : Nat
  held : Nat
deriving DecidableEq, Repr

/-- A capture (R278): recording, samples still to record once triggered, and the samples held, newest first, one value
for each memory. -/
structure Capture where
  on : Bool
  left : Option Nat
  samples : List (Word × Word × Word)
deriving DecidableEq, Repr

structure Servo where
  /-- the agreed states and outputs of the stages (R269), by stage -/
  stages : List (Nat × StageSt)
  /-- signal 1 -/
  pes : Bf
  /-- REF and its target, in 1/65,536 servo track -/
  ref : Int
  target : Int
  /-- the head's last two valid positions (R253) -/
  pos : Option Int
  prev : Option Int
  /-- the offset that start-up removes from the back-EMF measurement (R550) -/
  emf : Bf
  /-- the next position needs a track number with no weak symbol (R253) -/
  strong : Bool
  /-- 0 in lock, 1 hunting, 2 hunting with a candidate mark (R248) -/
  hunt : Nat
  /-- this wedge's mark was detected -/
  marked : Bool
  /-- the last wedge's good index, which differed from the expected one (R250) -/
  oddIdx : Option Nat
  /-- the last wedge's track number and its runout correction for the next wedge (R254) -/
  rro : Option (Nat × Int)
  /-- commands sent, in 1/32,768 of full scale: this tick's and the previous tick's -/
  vcm : Int
  ma : Int
  vcmPrev : Int
  maPrev : Int
  /-- the manual current as slewed (signal 9) -/
  manual : Int
  /-- ticks since the last lost wedge, 9 when long ago (R271) -/
  lostAgo : Nat
  /-- a manual-to-automatic transfer waits for a valid PES, for so many ticks (R272) -/
  transfer : Option Nat
  /-- the coming engine run back-calculates the PRESET stages (R265, R273) -/
  backCalc : Bool
  /-- condition HEAD_SETTLED, and the settle count (R282) -/
  settled : Bool
  count : Nat
  /-- the running wedge does not count toward settling -/
  skip : Bool
  /-- ticks in state 2, late settles of the request, and the second one seen (R287) -/
  settleTicks : Nat
  late : Nat
  gaveUp : Bool
  /-- the request in hand, and the one that waits for a trajectory (R288) -/
  req : Option ServoReq
  waitReq : Option ServoReq
  /-- the new head's first valid position is awaited (R283) -/
  deciding : Bool
  /-- a trajectory is due; true once the edge after the decision has come (R284) -/
  due : Option Bool
  /-- ticks left of the stagger of R303 -/
  stagger : Option Nat
  traj : Option Traj
  /-- |PES| of the last wedges, newest first, none where invalid -/
  recent : List (Option Nat)
  /-- ticks of a reacquisition (R293) -/
  reacq : Option Nat
  /-- a shock trigger fell in this tick; ticks in a row with and without one (R296) -/
  shockNow : Bool
  shockRun : Nat
  shockQuiet : Nat
  /-- a load: ticks since its start, and attempts failed (R297, R298) -/
  loading : Option Nat
  loadTries : Nat
  /-- an unload by DARG 3, whose end settles the request -/
  unloadReq : Bool
  /-- ticks of low velocity in an unload, and ticks of the latch hold (R299) -/
  slowTicks : Nat
  latch : Option Nat
  inj : Option Inject
  cap : Capture
deriving DecidableEq, Repr

/-! ### Spindle (chapter 11) -/

structure Spindle where
  /-- the regulated amplitude, mA, and the regulator's integral in 2^−8 mA per 1,000 -/
  amps : Nat
  integral : Int
  /-- AT_SPEED has been reached since the start (R308) -/
  reached : Bool
  /-- the commutation step in force, and the step edge k of the revolution -/
  step : Nat
  edge : Nat
  /-- measurements in a row within 0.2 % (R310) -/
  goodRun : Nat
  /-- crossings counted in the sense window, and confirmed in a row -/
  sensed : Nat
  confirmed : Nat
  /-- crossings in a row within 5 degrees of the clock's edges (R312) -/
  agreeing : Nat
  /-- the last step edges as revolution fractions, 2^−18, with their k, newest first -/
  edges : List (Nat × Nat)
  /-- the present forced step time, ns (R315) -/
  forcedNs : Nat
  /-- a catch on the fly runs (R314, R318); true when it follows a loss at speed -/
  catching : Option Bool
  /-- starts failed (R316) -/
  starts : Nat
  /-- the start was ordered and waits for its conditions (R320, R527) -/
  wanted : Bool
  /-- step edges left that the observer commutates after a clock step (R313) -/
  afterStep : Nat
  /-- a spindle short or a locked rotor waits for its retry -/
  waiting : Bool
deriving DecidableEq, Repr

/-! ### The power die (chapters 10, 11 and 25) -/

structure PowerDie where
  /-- the latched configuration registers (R305, R327) -/
  latches : List (Nat × Word)
  /-- a retract runs: 0 regulating, 1 latching (R301) -/
  retract : Option Nat
  /-- actuators that the retract moves -/
  moving : Per Bool
  /-- the digital die has still to act on the retract (R302) -/
  notice : Bool
  /-- the generator runs (R321), power fail is signalled and carried out (R322) -/
  generator : Bool
  failed : Bool
  /-- the vault save is in progress -/
  saving : Bool
  /-- the digital die holds itself in reset, or has lost its supply -/
  held : Bool
  /-- motor outputs turned off by a short (R572): 0 spindle, 1 and 2 voice coils, 3 and 4 microactuators -/
  outputsOff : Nat
deriving DecidableEq, Repr

/-! ### The subsystem semaphore (chapter 17) -/

/-- A host command whose serialized operation waits for the semaphore (R442, R443). -/
inductive SemOp where
  | claim (id : CmdId)
  | format (id : CmdId) (lbaf ses : Nat) (layout : FormatLayout)
  | sanitize (id : CmdId) (x : Sanitize)
  | sanitizeExit (id : CmdId)
  | fwCommit (id : CmdId) (ca slot : Nat) (sig : Bool) (e : StoreEnd)
  /-- a subsystem or namespace feature: its key and value -/
  | feature (id : CmdId) (key value : Nat)
  | timestamp (id : CmdId) (ms : Nat)
deriving DecidableEq, Repr

structure SemReq where
  holder : Nat
  op : SemOp
deriving DecidableEq, Repr

/-- The semaphore beside CPX_SEM: the queue of R442, oldest first, the operations that run under the present hold, and
whether the abandonment timer expired while one ran (R445). -/
structure Sem where
  queue : List SemReq
  ops : Nat
  expired : Bool
deriving DecidableEq, Repr

/-! ### The twin complexes (chapter 17) -/

/-- A firmware activation without reset (R454): its command, the slot and mirror version activated, the slot that was
active, the step of Table 17.5 reached, and whether it runs backward. -/
structure Activation where
  id : Option CmdId
  slot : Nat
  old : Nat
  ver : Nat
  step : Nat
  back : Bool
deriving DecidableEq, Repr

structure Complexes where
  /-- the time of each complex's last ready notice, ns (R452) -/
  readyAt : Two Nat
  /-- a complex reloaded after a takeover, whose port is handed back (R452) -/
  reloaded : Two Bool
  act : Option Activation
deriving DecidableEq, Repr

/-! ### The Management Packet Interface (chapter 18) -/

/-- A packet that its path has not answered yet: a poll of a register until its masked value matches or its time passes
(REG_POLL), or a preamplifier access until it is done (PREAMP_ACCESS); the packet's header words, what its reads meet,
whether it holds the semaphore until its reply, and the NVMe command that carried it. -/
structure MpiWait where
  head : Word
  flags : Nat
  crc : Word
  poll : Bool
  addr : Nat
  mask : Word
  value : Word
  due : Nat
  obs : FabricObs
  holds : Bool
  cmd : Option CmdId
deriving DecidableEq, Repr

/-- A packet that waits for the one before it on its path (R471). -/
structure MpiArrival where
  words : List Word
  obs : MpiObs
  cmd : Option CmdId
deriving DecidableEq, Repr

/-- What the device keeps for a path: the SEQ and CRC of the last packet and its reply (R463), whether the reply is still
unread on the NVMe transport, the packet that is not answered yet and those behind it (R471). -/
structure MpiPath where
  last : Option (Nat × Word)
  reply : List Word
  unread : Bool
  wait : Option MpiWait
  queue : List MpiArrival
deriving DecidableEq, Repr

def MpiPath.fresh : MpiPath := { last := none, reply := [], unread := false, wait := none, queue := [] }

/-- A job (R468): its number and opcode, what it acts on while it runs, its progress in percent, whether it has ended,
its final status and result words with the trim records attached (R469), and when it ended, ns. -/
structure MpiJob where
  no : Nat
  op : Nat
  arg : Nat
  progress : Nat
  done : Bool
  status : Nat
  result : List Word
  trims : List TrimRec
  endedAt : Nat
deriving DecidableEq, Repr

structure Mpi where
  paths : List (Nat × MpiPath)
  /-- replies sent, newest first, with their path -/
  sent : List (Nat × List Word)
  jobs : List MpiJob
  nextJob : Nat
  /-- pieces of the firmware and of the profile image being downloaded: offset and bytes -/
  fw : List (Nat × List Byte)
  prof : List (Nat × List Byte)
deriving DecidableEq, Repr

/-! ### Memories (chapter 14) -/

/-- A corrected unit whose write-back is due (R378): a buffer byte by its address, or a DRAM quarter as 4 × granule +
quarter, with the data and check bits that were read. -/
structure Correction where
  dram : Bool
  addr : Nat
  data : Nat
  chk : Nat
deriving DecidableEq, Repr

/-- A write to one granule, held above the fence (R383): offsets with their bytes. -/
structure GranuleWrite where
  granule : Nat
  cells : List (Nat × PByte)
deriving DecidableEq, Repr

structure Memories where
  /-- the buffer SRAM as stored: data bytes and their five check bits (R371, R375) -/
  buf : List (Nat × Byte)
  bufChk : List (Nat × BitVec 5)
  /-- the DRAM data region as stored, and the metadata of each granule (Table 14.5) -/
  dram : List (Nat × Byte)
  dramMeta : List (Nat × BitVec 64)
  /-- write-backs due, oldest first -/
  fixes : List Correction
  /-- writes held above the fence, oldest first -/
  held : List GranuleWrite
deriving DecidableEq, Repr

/-! ### The Crown cache (chapter 15) -/

/-- One way: its tag, its reservation as a victim and its 128 bytes. -/
structure CrownWay where
  valid : Bool
  tag : Nat
  reserved : Bool
  bytes : List PByte
deriving DecidableEq, Repr

def CrownWay.none : CrownWay := { valid := false, tag := 0, reserved := false, bytes := [] }

/-- A request to the cache that waits or has joined a fill: a read of `len` bytes, or a write of `cells`. For a reader
joined to a fill, `seen` is its bytes as they stood when it joined. -/
structure CrownReq where
  who : CrownUser
  write : Bool
  addr : Nat
  len : Nat
  seen : List PByte
deriving DecidableEq, Repr

/-- A miss register (R397, R398): the line, the way reserved for it, the line's bytes, the granule read first, the
granules arrived as a mask, the mode it started in, its readers, a prefetch, and the marks of R408. -/
structure CrownFill where
  line : Nat
  way : Option Nat
  bytes : List PByte
  critical : Nat
  arrived : Nat
  compat : Bool
  joined : List CrownReq
  nap : Bool
  noInstall : Bool
  maint : Bool
deriving DecidableEq, Repr

/-- A Batt entry: its line, and its masked bytes by offset (R401). -/
structure BattEntry where
  line : Nat
  cells : List (Nat × PByte)
deriving DecidableEq, Repr

/-- A fence that waits (R403): its requester, none for maintenance, and the entries before it. -/
structure CrownFence where
  who : Option CrownUser
  lines : List Nat
deriving DecidableEq, Repr

structure Crown where
  /-- ways by 16 × set + way, and the replacement words by set (R396) -/
  ways : List (Nat × CrownWay)
  plru : List (Nat × Nat)
  /-- fills outstanding, oldest first -/
  fills : List CrownFill
  /-- requests that wait, oldest first -/
  waits : List CrownReq
  /-- Batt entries, oldest first -/
  batt : List BattEntry
  /-- Nap lines with their bytes, oldest first -/
  nap : List (Nat × List PByte)
  fences : List CrownFence
  /-- a maintenance prefetch that waits for a miss register -/
  prefetch : Option Nat
  /-- reads served: requester, address and bytes, newest first -/
  served : List (CrownUser × Nat × List PByte)
  /-- fences completed, newest first -/
  fenced : List CrownUser
deriving DecidableEq, Repr

/-! ### The nonvolatile die (chapter 19) -/

/-- One flash bank beside its registers: the place in the sequence of R476 (0 none, 1 and 2 keys, 3 command, 4 + w
awaiting DATA_w), its command and data, the word or sector of the running operation, whether an erase has run the 1 ms
of R481 since its last RESUME, and a SUSPEND or RESUME that is held. -/
structure FlashBank where
  step : Nat
  cmd : Nat
  data : List Word
  target : Nat
  ran : Bool
  holdSuspend : Bool
  holdResume : Bool
deriving DecidableEq, Repr

/-- An erase ticket (Table 19.6); OP 0 is closed. -/
structure Ticket where
  op : Nat
  phase : Nat
  bank : Nat
  copy : Nat
  first : Nat
  count : Nat
  done : Nat
deriving DecidableEq, Repr

def Ticket.closed : Ticket := { op := 0, phase := 0, bank := 0, copy := 0, first := 0, count := 0, done := 0 }

/-- The boot record (R486): PENDING_FW is 0 none, 1 slot A, 2 slot B. -/
structure BootRec where
  active : Nat
  pending : Nat
  tries : Nat
  profSel : Nat
deriving DecidableEq, Repr

/-- A dirty region in the vault (Table 19.10): a zone's cached block, or a conventional block, with its contents; none
where its section was damaged. -/
structure VaultBlock where
  conv : Bool
  zone : Nat
  off : Nat
  value : Option Nat
deriving DecidableEq, Repr

/-- The vault (R492, R493): STATE (0 empty, 1 open, 2 consumed), SAVE_COUNT, the key generation, whether a seal matches,
and what its sections hold: the journal deltas (the parity-log index, R358), the dirty regions and the Hatband snapshot. -/
structure Vault where
  state : Nat
  count : Nat
  keygen : Nat
  sealed : Bool
  deltas : List (Nat × Stride)
  blocks : List VaultBlock
  snapshot : List HbRec
  /-- PWR_VAULT_STATUS as at the seal -/
  status : Word
  /-- sections that failed at restores (R552); the field of PWR_VAULT_STATUS that counts them is not given -/
  damaged : Nat
deriving DecidableEq, Repr

structure NvDie where
  /-- flash code words with their check bits, by byte address ÷ 32, those not listed erased (R474) -/
  flash : List (Nat × BitVec 266)
  /-- sectors whose content is undefined, as 256 × bank + sector (R477, R480) -/
  undef : List Nat
  bank : Two FlashBank
  /-- the two option copies, empty when erased (R482), and the words of the one in force -/
  copies : Two (List Word)
  option : List (Nat × Word)
  /-- erase tickets of bank 0, bank 1 and the option area (R488) -/
  tickets : List (Nat × Ticket)
  boot : BootRec
  vault : Vault
  /-- firmware slots whose stream failed to decompress in this start-up (R544) -/
  badSlots : List Nat
  /-- FORMATTED of the format record (R551) -/
  formatted : Bool
deriving DecidableEq, Repr

/-! ### Fuller (chapter 20) -/

structure Fuller where
  /-- input consumed at each flush of the running compress job (R503) -/
  flushes : List Nat
  /-- the running job ends at its next block boundary (R503) -/
  abort : Bool
deriving DecidableEq, Repr

-- DEV BEGIN
/-! ### The device -/

structure Dev where
  /-- the variant in hand (Table 00.2) -/
  variant : Variant
  /-- the register file: committed values, default 0 -/
  regs : List (Nat × Word)
  /-- the preamplifier registers of each link (Table 08.7) -/
  preamp : Per (List (Nat × Word))
  clock : Clock
  units : Units
  conf : Conf
  hb : Hatband
  media : Media
  blk : Per Blocker
  chn : Per Channel
  det : Per Detect
  wr : Per WritePath
  assist : Per Assist
  tnl : Per Tenil
  srv : Per Servo
  spn : Spindle
  pd : PowerDie
  pw : Power
  fmg : FaultMgr
  zq : Zones
  felt : Felt
  host : HostIf
  sem : Sem
  mem : Memories
  crn : Crown
  nv : NvDie
  ful : Fuller
  cpx : Complexes
  mpi : Mpi
  /-- completions posted to the hosts, newest first -/
  completions : List Completion
  /-- the value returned by each requester's last read -/
  reads : List (Nat × Word)
  /-- the debug enable of the option area (R40) -/
  debug : Bool
  /-- DUALPORT_EN_N sampled high at power good (R439) -/
  portBOff : Bool
  /-- the model's own counter of free values -/
  free : Nat
deriving DecidableEq, Repr

/-- The state: the commands that wait, first in first out, and the device. -/
structure State where
  pending : List Instr
  dev : Dev
deriving DecidableEq, Repr

/-- No command of this model ends in a fault: every effect the manual describes leads to a next state. -/
inductive Fault where
  /-- Raised by no command (safe): kept so that the outcome type has a fault. -/
  | none
deriving DecidableEq, Repr

inductive Refusal where
  /-- Answered by the arm of a command that has no meaning yet (safe: the run stops). -/
  | notModelled (mnemonic : String)
deriving DecidableEq, Repr

/-! ### Reset -/

def Clock.fresh : Clock :=
  { rev := 0, wedge := 0, phase := 0, slew := 0, stamps := [], notDone := 0, overruns := [], nowHi := [], periodSum := 0,
    periodTicks := 0, period := 0, nowNs := 0, flywheelTick := false }

def Units.fresh : Units := { gens := [], resetting := [], outstanding := [], held := [], answered := [] }

def Conf.fresh : Conf :=
  { staged := StagedSet.empty, pending := none, adaptPending := [], rwt := [], rwtNext := [], trims := [],
    trimOverflow := false, trimStale := false, tables := [], images := [], reloadBad := ⟨false, false⟩,
    dataImage := ⟨[], []⟩, nh := 12, readers := [] }

/-- The recorder of a new module. -/
def Hatband.fresh : Hatband :=
  { recs := [], queue := [], ready := false, full := false, clearing := false, seq := 0, frozen := [], window := [],
    poisoned := [], atPowerGood := 0, boot := 0 }

/-- The media of an unformatted drive (R555). -/
def Media.fresh : Media :=
  { bands := [], slips := [], zoneMap := [], convMap := [], written := [], stale := [], reassigned := [],
    relocated := [], recs := [], wseq := 0, sysSeq := ⟨0, 0⟩, sysHome := ⟨0, 0⟩, sysRebuild := none, zoneBlocks := 65536 }

/-- A Blocker that has held no admitted image since power good: it resets until one is written (R122). -/
def Blocker.fresh : Blocker :=
  { store := [], data := [], dataPoison := [], pc := 0, g := [], k := [], zero := false, neg := false, carry := false,
    depth := 0, saved := [], plank := ⟨none, none⟩, wait := .run, waitSafe := false, haltReq := false, halted := false,
    resetting := true, reloading := false, loadPending := false, loaded := false, events := 0, lastRev := 0,
    lastStamp := 0, stampLate := false, fragLast := false, syncFound := false, decFail := false, rawMismatch := false,
    writeOk := false, rg := false, wg := false, sg := false, sgSkip := false, frag := none, recOpen := none,
    single := false, cut := false, noback := false, queue := [], heldReqs := [], cur := none, completed := 0,
    loadedRecs := 0, loadDue := none, stood := [], feltArmed := false, lastDecode := 0, lastFault := 0,
    withdrawn := false, posted := [], trace := [] }

def Channel.fresh : Channel :=
  { fw := 0, rz := [], latched := [], key := none, rzBad := false, live := [], liveRev := 0, deviation := 0, lanes := 0,
    e1only := false, syncDistrust := false, sync2Used := false, badRun := [], synthOff := false, averages := [] }

def Detect.fresh : Detect :=
  { bufs := [], format := 0, order := 0, holdSamples := false, ready := [], decodes := [], active := none, queue := [],
    shiftIdx := 0, shift := 0, llrReads := 0, neighbours := 0, attempt := false, recon := [], second := [], outcomes := [] }

def WritePath.fresh : WritePath :=
  { wrec := [], wrBad := false, inhibits := 0, requal := 0, ownPes := false, step := [], code := [], bo := [],
    unwind := [], markNext := [], marked := [], mismatch := [], suspended := [], faultRun := 0, fragsWritten := 0,
    reqFaults := 0, health := [] }

def Assist.fresh : Assist :=
  { record := [], recBad := false, band := 0, integral := 0, sincePre := 0, idle := 0, backOffBegun := false,
    operated := false, frameDue := false, operatedBefore := false, ilimRun := 0, lostRun := 0, prevNft := 0,
    prevLevel := 0, trimSum := 0, trimTicks := 0, ageShift := 0 }

def Tenil.fresh : Tenil :=
  { gather := [], groups := [], queue := [], flight := none, failRun := 0, retrains := [], lineLow := false,
    selectAt := none, preHeld := none }

def Capture.fresh : Capture := { on := false, left := none, samples := [] }

def Servo.fresh : Servo :=
  { stages := [], pes := Bf.zero, ref := 0, target := 0, pos := none, prev := none, emf := Bf.zero, strong := true, hunt := 1,
    marked := false, oddIdx := none, rro := none, vcm := 0, ma := 0, vcmPrev := 0, maPrev := 0, manual := 0, lostAgo := 9,
    transfer := none, backCalc := false, settled := false, count := 0, skip := false, settleTicks := 0, late := 0,
    gaveUp := false, req := none, waitReq := none, deciding := false, due := none, stagger := none, traj := none,
    recent := [], reacq := none, shockNow := false, shockRun := 0, shockQuiet := 0, loading := none, loadTries := 0,
    unloadReq := false, slowTicks := 0, latch := none, inj := none, cap := Capture.fresh }

def Spindle.fresh : Spindle :=
  { amps := 0, integral := 0, reached := false, step := 0, edge := 0, goodRun := 0, sensed := 0, confirmed := 0,
    agreeing := 0, edges := [], forcedNs := 0, catching := none, starts := 0, wanted := false, afterStep := 0,
    waiting := false }

def PowerDie.fresh : PowerDie :=
  { latches := [], retract := none, moving := ⟨false, false⟩, notice := false, generator := false, failed := false,
    saving := false, held := false, outputsOff := 0 }

def Power.fresh : Power :=
  { turningOff := [], entering := false, reversing := false, coolTicks := 0, warnTicks := 0, tempWarning := false }

def FaultMgr.fresh : FaultMgr :=
  { queue := [], history := [], recovering := [], failed := [], actFailed := ⟨false, false⟩, mediaOff := false,
    restarts := [], kicked := false, reported := [] }

def Zones.fresh : Zones :=
  { zones := [], count := 0, accepts := 0, ring := [], image := [], imageSeq := 0, cacheBlocks := 0, offline := 0,
    released := [], changed := [] }

def Felt.fresh : Felt :=
  { strides := [], image := [], log := [], pairs := [], gc := [], lost := [], refelt := [], events := [], depop := [], solved := [],
    lostMembers := [], moved := [] }

/-- A controller after its reset, with its link as it is. -/
def Ctrl.fresh (link : Bool) : Ctrl :=
  { en := false, rdy := false, pp := false, cfs := false, shst := 0, stopped := false, link := link, sqs := [], cqs := [],
    feats := [], aers := [], raised := [], changedZones := [], changedNs := [], pel := none, pelOfs := none, miReply := none }

def HostIf.fresh : HostIf :=
  { ctrl := ⟨Ctrl.fresh false, Ctrl.fresh false⟩, perst := ⟨false, false⟩, mayReady := false, cmds := [], tags := [], nextTag := 0, feats := [],
    dirty := [], poison := [], lbaf := 0, format := none, sanitize := none, sanFailed := false, sanAuse := false, errors := [],
    timestamp := none, mediaErrors := 0, unsafeStops := 0, loads := 0, unloads := 0, spinUps := 0, vpd := [],
    pieces := [], out := [], convBlocks := 0, unhealthy := false, ps := 0, psNext := none, miCfg := [], miOut := [] }

def Sem.fresh : Sem := { queue := [], ops := 0, expired := false }

def Memories.fresh : Memories := { buf := [], bufChk := [], dram := [], dramMeta := [], fixes := [], held := [] }

def Crown.fresh : Crown :=
  { ways := [], plru := [], fills := [], waits := [], batt := [], nap := [], fences := [], prefetch := none, served := [],
    fenced := [] }

def FlashBank.fresh : FlashBank :=
  { step := 0, cmd := 0, data := [], target := 0, ran := false, holdSuspend := false, holdResume := false }

def BootRec.fresh : BootRec := { active := 0, pending := 0, tries := 0, profSel := 0 }

def Vault.fresh : Vault :=
  { state := 0, count := 0, keygen := 0, sealed := false, deltas := [], blocks := [], snapshot := [], status := 0, damaged := 0 }

/-- The nonvolatile die fresh from manufacture (R554): flash and option area erased, no format record. -/
def NvDie.fresh : NvDie :=
  { flash := [], undef := [], bank := ⟨FlashBank.fresh, FlashBank.fresh⟩, copies := ⟨[], []⟩, option := [], tickets := [],
    boot := BootRec.fresh, vault := Vault.fresh, badSlots := [], formatted := false }

def Complexes.fresh : Complexes := { readyAt := ⟨0, 0⟩, reloaded := ⟨false, false⟩, act := none }

def Mpi.fresh : Mpi := { paths := [], sent := [], jobs := [], nextJob := 1, fw := [], prof := [] }

/-- A new module of a variant at power good: every register at the value its table gives. -/
def Dev.fresh (v : Variant) : Dev :=
  { variant := v, regs := resetRegs, preamp := ⟨resetPreamp, resetPreamp⟩, clock := Clock.fresh, units := Units.fresh,
    conf := Conf.fresh, hb := Hatband.fresh, media := Media.fresh, blk := ⟨Blocker.fresh, Blocker.fresh⟩,
    chn := ⟨Channel.fresh, Channel.fresh⟩, det := ⟨Detect.fresh, Detect.fresh⟩, wr := ⟨WritePath.fresh, WritePath.fresh⟩,
    assist := ⟨Assist.fresh, Assist.fresh⟩, tnl := ⟨Tenil.fresh, Tenil.fresh⟩, srv := ⟨Servo.fresh, Servo.fresh⟩,
    spn := Spindle.fresh, pd := PowerDie.fresh, pw := Power.fresh, fmg := FaultMgr.fresh, zq := Zones.fresh,
    felt := Felt.fresh, host := HostIf.fresh, sem := Sem.fresh, mem := Memories.fresh, crn := Crown.fresh,
    nv := NvDie.fresh, ful := { flushes := [], abort := false }, cpx := Complexes.fresh, mpi := Mpi.fresh,
    completions := [], reads := [], debug := false, portBOff := false, free := 0 }

/-- The machine right after reset: a KH7250-D at power good, no command waiting. -/
def State.reset : State := { pending := [], dev := Dev.fresh .D }

-- DEV END
end Sys2Proof.Machine
end

