-- ==== Sys2Proof/Machine/Ops.lean ====
section
/-! DEFINITION. The named operations over the register file, the clock, the recorder and the units that many meanings
share. Each changes only the parts it names. -/

namespace Sys2Proof.Machine

/-! ### The register file -/

/-- The committed value of the register at an address. -/
def Dev.reg (d : Dev) (a : Nat) : Word := sget 0 d.regs a

/-- The register file with one register replaced. -/
def Dev.setReg (d : Dev) (a : Nat) (w : Word) : Dev := { d with regs := sset 0 d.regs a w }

/-- The value of a field. -/
def Dev.f (d : Dev) (x : Fld) : Nat := bits (d.reg x.addr) x.hi x.lo

/-- The device with one field replaced; the register's other bits keep their values. -/
def Dev.setF (d : Dev) (x : Fld) (v : Nat) : Dev := d.setReg x.addr (withBits (d.reg x.addr) x.hi x.lo v)

/-- A counter field raised by `n`; every counter saturates at its largest value. -/
def Dev.bumpF (d : Dev) (x : Fld) (n : Nat) : Dev := d.setF x (satAdd (2 ^ x.width - 1) (d.f x) n)

/-- A field whose bits are set one by one and never cleared by the device (TICK_OVR, TICK_EVENT). -/
def Dev.orF (d : Dev) (x : Fld) (v : Nat) : Dev := d.setF x (d.f x ||| v)

/-- The preamplifier register of link `a` (Table 08.6). -/
def Dev.pa (d : Dev) (a : Act) (addr : Nat) : Word := sget 0 (d.preamp.get a) addr

def Dev.setPa (d : Dev) (a : Act) (addr : Nat) (w : Word) : Dev :=
  { d with preamp := d.preamp.set a (sset 0 (d.preamp.get a) addr w) }

def Dev.paF (d : Dev) (a : Act) (x : Fld) : Nat := bits (d.pa a x.addr) x.hi x.lo

def Dev.setPaF (d : Dev) (a : Act) (x : Fld) (v : Nat) : Dev :=
  d.setPa a x.addr (withBits (d.pa a x.addr) x.hi x.lo v)

/-- A value for a requester's read. -/
def Dev.answer (d : Dev) (who : Requester) (w : Word) : Dev := { d with reads := sset 0 d.reads who.key w }

/-- The next free value's index; the state's counter moves past it. -/
def Dev.tookFree (d : Dev) : Dev := { d with free := d.free + 1 }

/-- A command's next state: the device after its effect, the queue as it is. -/
def State.next (s : State) (d : Dev) : Host.Outcome State Fault Refusal := .next { s with dev := d }

/-! ### Units of one actuator -/

def Dev.onBlk (d : Dev) (a : Act) (g : Blocker → Blocker) : Dev := { d with blk := d.blk.set a (g (d.blk.get a)) }
def Dev.onChn (d : Dev) (a : Act) (g : Channel → Channel) : Dev := { d with chn := d.chn.set a (g (d.chn.get a)) }
def Dev.onDet (d : Dev) (a : Act) (g : Detect → Detect) : Dev := { d with det := d.det.set a (g (d.det.get a)) }
def Dev.onWr (d : Dev) (a : Act) (g : WritePath → WritePath) : Dev := { d with wr := d.wr.set a (g (d.wr.get a)) }
def Dev.onAssist (d : Dev) (a : Act) (g : Assist → Assist) : Dev :=
  { d with assist := d.assist.set a (g (d.assist.get a)) }
def Dev.onTnl (d : Dev) (a : Act) (g : Tenil → Tenil) : Dev := { d with tnl := d.tnl.set a (g (d.tnl.get a)) }
def Dev.onSrv (d : Dev) (a : Act) (g : Servo → Servo) : Dev := { d with srv := d.srv.set a (g (d.srv.get a)) }

/-! ### What the variant holds (R1, Table 00.2) -/

def Dev.hasAct (d : Dev) : Act → Bool
  | .a0 => true
  | .a1 => decide (d.variant ≠ .S)

def Dev.hasAssist (d : Dev) (a : Act) : Bool := d.hasAct a && decide (d.variant ≠ .C)

def Dev.hasFelt (d : Dev) : Bool := decide (d.variant ≠ .L)

/-- Port B is present when the variant holds it and the strap enables it (R38, R439). -/
def Dev.hasPortB (d : Dev) : Bool := decide (d.variant ≠ .P) && !d.portBOff

def Dev.hasPort (d : Dev) : Port → Bool
  | .A => true
  | .B => d.hasPortB

/-- Felt parity is on: the engine is present and FLT_CFG.ON is 1. -/
def Dev.feltOn (d : Dev) : Bool := d.hasFelt && decide (d.f Reg.FLT_CFG_ON = 1)

/-- SYS_CAPS as the variant and the strap give it (R38, Table 01.9). -/
def Dev.capsWord (d : Dev) : Word :=
  BitVec.ofNat 32 (0x18 <<< 20 ||| 0xC <<< 16 ||| d.variant.code <<< 8 ||| 1 <<< 7 ||| flag d.hasFelt <<< 6 |||
    flag d.hasPortB <<< 5 ||| 1 <<< 4 ||| flag (d.hasAssist .a1) <<< 3 ||| flag (d.hasAssist .a0) <<< 2 |||
    flag (d.hasAct .a1) <<< 1 ||| 1)

/-- Safe mode (R67). -/
def Dev.safe (d : Dev) : Bool := decide (d.f Reg.SIZ_STATUS_SAFE = 1)

/-! ### Power domains (R518) -/

/-- Domain `i` is on. -/
def Dev.domOn (d : Dev) (i : Nat) : Bool := testBit (d.f (Reg.PDM_ON_ON.nth (i / 32))) (i % 32)

/-- Domain `i` is in low mode. -/
def Dev.domLow (d : Dev) (i : Nat) : Bool := testBit (d.f (Reg.PDM_LOW_LOW.nth (i / 32))) (i % 32)

/-- A bit of a mask set or cleared. -/
def putBit (v n : Nat) (b : Bool) : Nat := if testBit v n = b then v else if b then v + 2 ^ n else v - 2 ^ n

def Dev.setDomOn (d : Dev) (i : Nat) (b : Bool) : Dev :=
  let x := Reg.PDM_ON_ON.nth (i / 32)
  d.setF x (putBit (d.f x) (i % 32) b)

def Dev.setDomLow (d : Dev) (i : Nat) (b : Bool) : Dev :=
  let x := Reg.PDM_LOW_LOW.nth (i / 32)
  d.setF x (putBit (d.f x) (i % 32) b)

/-- The power domain of lane e (Table 22.1). -/
def laneDomain (a : Act) (e : Nat) : Nat := 15 * a.idx + e

/-! ### The rotation clock (R16) -/

def Dev.wedges (d : Dev) : Nat := d.f Reg.TICK_CFG_WEDGES

/-- Bits [27:0] of the clock. -/
def Clock.pos28 (c : Clock) : Nat := c.wedge.toNat * 2 ^ 18 + c.phase.toNat

/-- The 48-bit clock value. -/
def Clock.val (c : Clock) : Nat := c.rev.toNat * 2 ^ 28 + c.pos28

/-- The clock source of Table 01.5: 0 stopped, 1 coarse, 2 fine, 3 flywheel. -/
def Dev.src (d : Dev) : Nat := d.f Reg.TICK_STATUS_SRC

/-- Phase units in one revolution. -/
def Dev.revUnits (d : Dev) : Nat := d.wedges * 2 ^ 18

/-- The clock as one count of phase units in which a revolution has `wedges` ticks. -/
def Dev.nowUnits (d : Dev) : Nat := d.clock.rev.toNat * d.revUnits + d.clock.pos28

/-- The next clock value, from now on, whose bits [27:0] equal a position, in the same count. -/
def Dev.dueAt (d : Dev) (pos : Nat) : Nat :=
  let r := d.revUnits
  if r = 0 then d.nowUnits else d.nowUnits + (pos % r + r - d.clock.pos28 % r) % r

/-- How far a clock value lies ahead of now, negative behind it, over the wrap of the revolution number. -/
def Dev.ahead (d : Dev) (full : Int) : Int :=
  let m : Int := 2 ^ 20 * d.revUnits
  let x := if m = 0 then 0 else (full - d.nowUnits) % m
  if m < 2 * x then x - m else x

/-- Ticks since the clock read zero. -/
def Dev.tickCount (d : Dev) : Nat := d.clock.rev.toNat * d.wedges + d.clock.wedge.toNat

/-- The clock moved to a wedge and phase, into the next revolution when that lies below where it stands, so that it
never goes back (R17, R22). -/
def Clock.moveTo (c : Clock) (wedge phase : Nat) : Clock :=
  let below := decide (wedge * 2 ^ 18 + phase < c.pos28)
  { c with
    rev := if below then c.rev + 1 else c.rev
    wedge := BitVec.ofNat 10 wedge
    phase := BitVec.ofNat 18 phase }

/-- The clock moved forward within its tick to a phase; it keeps its value when it is stopped or already past it. -/
def Dev.atPhase (d : Dev) (p : Nat) : Dev :=
  if d.src ≠ 0 ∧ d.clock.phase.toNat < p ∧ p < 2 ^ 18 then
    { d with clock := { d.clock with phase := BitVec.ofNat 18 p } }
  else d

/-- A step of start-up ends (R542): its time after power good is recorded and the next step is in progress. -/
def Dev.endStep (d : Dev) (s : Nat) : Dev :=
  (d.setF (Reg.SYS_BOOT_MS_MS.nth (s - 1)) (d.clock.nowNs / 1000000)).setF Reg.SYS_BOOT_STEP (Nat.min 11 (s + 1))

/-- The present instant in ns: the time of the last tick edge and the part of the tick that has passed. -/
def Dev.instantNs (d : Dev) : Nat := d.clock.nowNs + d.clock.phase.toNat * d.clock.period / 2 ^ 18

/-- A head select on link `a` has not settled yet (R231). -/
def Dev.settling (d : Dev) (a : Act) : Bool :=
  match (d.tnl.get a).selectAt with
  | none => false
  | some t => decide (d.instantNs < t + 10 * d.paF a Reg.PA_TIMING_HS_SETTLE)

/-- Whether a write or commit that arrives now misses the coming edge (R30); a stopped clock's phase says nothing. -/
def Dev.pastCutoff (d : Dev) : Bool := decide (d.src ≠ 0 ∧ 258048 ≤ d.clock.phase.toNat)

/-! ### The Hatband event recorder (R507 to R510) -/

/-- Whether record `i` lies in the frozen range (R512). -/
def Hatband.frozenAt (h : Hatband) (i : Nat) : Bool := h.frozen.any fun p => decide (i < p.2)

/-- Two events that coalesce (R509). -/
def HbRec.same (r q : HbRec) : Bool :=
  decide (r.code = q.code) && decide (r.block = q.block) && decide (r.arg0 = q.arg0) && decide (r.arg1 = q.arg1)

/-- One event written to the recorder: coalesced, appended, or the FULL record (R509, R510). -/
def Hatband.write (h : Hatband) (r : HbRec) : Hatband :=
  let n := h.recs.length
  let bump (l : HbRec) : Hatband :=
    { h with recs := h.recs.dropLast ++ [{ l with rep := satAdd 0xFFFF l.rep 1 }], seq := h.seq + 1 }
  match h.recs.getLast? with
  | none => { h with recs := [r], seq := h.seq + 1 }
  | some l =>
    if h.full then bump l
    else if l.same r && decide (l.rep < 0xFFFF) && !h.frozenAt (n - 1) then bump l
    else if n = 65535 then
      { h with recs := h.recs ++ [{ r with code := 0x001, block := 25, rep := 0, arg0 := 0, arg1 := 0 }],
               full := true, seq := h.seq + 1 }
    else { h with recs := h.recs ++ [r], seq := h.seq + 1 }

/-- The record an event makes now. -/
def Dev.hbRec (d : Dev) (code : Nat) (b : Block) (arg0 arg1 : Nat) : HbRec :=
  { code := code, block := b.index, rep := 0, boot := d.hb.boot % 65536, time := d.clock.nowNs / 1000,
    src := d.src, stamp := d.clock.pos28, arg0 := arg0 % 2 ^ 32, arg1 := arg1 % 2 ^ 32 }

/-- One Hatband event (R508): written, held in the queue while the recorder clears or has not loaded, or lost to a full
queue. -/
def Dev.event (d : Dev) (code : Nat) (b : Block) (arg0 arg1 : Nat) : Dev :=
  let r := d.hbRec code b arg0 arg1
  if d.hb.ready && !d.hb.clearing then { d with hb := d.hb.write r }
  else if d.hb.queue.length < 64 then { d with hb := { d.hb with queue := d.hb.queue ++ [r] } }
  else d.bumpF Reg.HBR_LOST_COUNT 1

/-- The event codes of Table 21.2. -/
def Ev.cleared : Nat := 0x002
def Ev.powerOn : Nat := 0x003
def Ev.absentWrite : Nat := 0x101
def Ev.unmappedWrite : Nat := 0x102
def Ev.writeIgnored : Nat := 0x103
def Ev.adaptClamp : Nat := 0x104
def Ev.safeMode : Nat := 0x105
def Ev.clockStep : Nat := 0x201
def Ev.flywheelLimit : Nat := 0x202
def Ev.csReload : Nat := 0x203
def Ev.rzRecord : Nat := 0x301
def Ev.wbStale : Nat := 0x302
def Ev.laneFail : Nat := 0x303
def Ev.unrecovered : Nat := 0x304
def Ev.preampFault : Nat := 0x305
def Ev.headFailing : Nat := 0x306
def Ev.load : Nat := 0x401
def Ev.retract : Nat := 0x402
def Ev.spindle : Nat := 0x403
def Ev.fenceRead : Nat := 0x501
def Ev.scrubUe : Nat := 0x502
def Ev.pounceLate : Nat := 0x503
def Ev.staleKey : Nat := 0x504
def Ev.takeover : Nat := 0x601
def Ev.semAbandoned : Nat := 0x602
def Ev.fwCommit : Nat := 0x611
def Ev.formatStart : Nat := 0x612
def Ev.formatDone : Nat := 0x613
def Ev.sanitizeStart : Nat := 0x614
def Ev.sanitizeDone : Nat := 0x615
def Ev.optionDefault : Nat := 0x701
def Ev.bootFallback : Nat := 0x702
def Ev.vaultUnsealed : Nat := 0x703
def Ev.flashBusFault : Nat := 0x704
/-- Any other rule that leaves a Hatband event. -/
def Ev.other : Nat := 0x0FF

/-- [4] actuator, [3:0] head, as event arguments and HEAD parameters hold them. -/
def headArg (a : Act) (h : Nat) : Nat := 16 * a.idx + h

/-! ### Faults reported to the fault manager (R529, R530) -/

/-- A fault reaches the fault manager's queue; CAUSE as in FMG_ELOG. -/
def Dev.reportFault (d : Dev) (u : FUnit) (cause : Nat) : Dev :=
  { d with fmg := { d.fmg with queue := d.fmg.queue ++ [(u, cause)] } }

/-! ### Generations (R32) -/

def Dev.gen (d : Dev) (u : UnitId) : Nat := sget 0 d.units.gens u.key

/-- The generation after this one: 1 to 255, wrapping from 255 to 1 (R32). -/
def nextGen (g : Nat) : Nat := if 255 ≤ g then 1 else g + 1

def Dev.isResetting (d : Dev) (u : UnitId) : Bool := sget false d.units.resetting u.key

def Dev.setResetting (d : Dev) (u : UnitId) (b : Bool) : Dev :=
  { d with units := { d.units with resetting := sset false d.units.resetting u.key b } }

def Dev.incGen (d : Dev) (u : UnitId) : Dev :=
  { d with units := { d.units with gens := sset 0 d.units.gens u.key (nextGen (d.gen u)) } }

/-- A unit's reset: its generation increments and it is resetting until its ready notice (R32, R34). -/
def Dev.resetUnit (d : Dev) (u : UnitId) : Dev := (d.incGen u).setResetting u true

/-- A requester's outstanding requests to a ready unit, in their original issue order, now carrying the unit's new
generation (R36). -/
def Units.replay (us : Units) (u : UnitId) (g : Nat) : Units :=
  let again (r : UnitReq) : UnitReq := if r.target = u then { r with targetGen := g } else r
  { us with outstanding := (us.outstanding ++ us.held.filter fun r => decide (r.target = u)).map again
            held := us.held.filter fun r => decide (r.target ≠ u) }

/-- The ready notice (R36). -/
def Dev.readyUnit (d : Dev) (u : UnitId) : Dev :=
  let d1 := d.setResetting u false
  { d1 with units := d1.units.replay u (d1.gen u) }

/-! ### Launch-lane events (R227 to R230) -/

/-- One bit of the CRC-8 of R227: polynomial x^8 + x^2 + x + 1. -/
def crc8Bit (c : Nat) (b : Bool) : Nat :=
  let top := testBit c 7
  let c' := (c * 2) % 256
  if top != b then c' ^^^ 0x07 else c'

/-- The CRC-8 over bits [n−1:0] of a number, most significant bit first. -/
def crc8 : Nat → Nat → Nat → Nat
  | 0, _, c => c
  | n + 1, v, c => crc8 n v (crc8Bit c (testBit v n))

/-- An event word (Table 08.2). -/
def eventWord (ty arg offset : Nat) : Word :=
  let v := (ty % 16) * 2 ^ 20 + (arg % 4096) * 2 ^ 8 + offset % 256
  BitVec.ofNat 32 (v * 256 + crc8 24 v 0)

/-- What the preamplifier does with an event word (Table 08.3). -/
def Dev.applyEvent (d : Dev) (a : Act) (e : Nat × Nat) : Dev :=
  if e.1 = 0x1 then
    if e.2 % 16 = d.paF a Reg.PA_HEAD_HEAD then d
    else ((d.setPaF a Reg.PA_HEAD_HEAD (e.2 % 16)).setPaF a Reg.PA_HEAD_WG 0).setPaF a Reg.PA_ASMON_LEVEL 0
  else if e.1 = 0x2 then d.setPaF a Reg.PA_HEAD_WG (e.2 % 2)
  else if e.1 = 0x3 then d.setPaF a Reg.PA_ASMON_LEVEL (e.2 % 1024)
  else if e.1 = 0x5 then d.setPaF a Reg.PA_HEAD_READERS (e.2 % 8)
  else if e.1 = 0xE then d.setPaF a Reg.PA_LINKCNT_COUNT (satAdd 0xFFFF (d.paF a Reg.PA_LINKCNT_COUNT) 1)
  else d

/-- An event raised for link `a`: gathered for the present instant's group and applied by the preamplifier at it. -/
def Dev.launch (d : Dev) (a : Act) (ty arg : Nat) : Dev :=
  (d.onTnl a fun t => { t with gather := t.gather ++ [(ty, arg)] }).applyEvent a (ty, arg)

/-- Split gathered events into groups of at most seven words, the head select first (R229, R230). -/
def groupsOf : Nat → List (Nat × Nat) → List (List Word)
  | 0, _ => []
  | _, [] => []
  | n + 1, e :: es =>
    groupsOf n (es.drop 6) ++ [((e :: es).take 7).map fun p => eventWord p.1 p.2 0]

/-- The gathered events sent as groups (R229). -/
def Dev.sendGroups (d : Dev) (a : Act) : Dev :=
  d.onTnl a fun t =>
    let sel := t.gather.filter fun p => decide (p.1 = 1)
    let rest := t.gather.filter fun p => decide (p.1 ≠ 1)
    { t with gather := [], groups := groupsOf t.gather.length (sel ++ rest) ++ t.groups }

/-! ### CRC-32 (IEEE 802.3), used by records, packets and images -/

def crc32Bit : Nat → Nat → Nat
  | 0, c => c
  | n + 1, c => crc32Bit n (if c % 2 = 1 then (c / 2) ^^^ 0xEDB88320 else c / 2)

def crc32Step (c : Nat) (b : Byte) : Nat := crc32Bit 8 (c ^^^ b.toNat)

/-- The CRC-32 of a byte string. -/
def crc32 (bs : List Byte) : Nat := (bs.foldl crc32Step 0xFFFFFFFF) ^^^ 0xFFFFFFFF

/-- The CRC-32 over words, each least significant byte first. -/
def crc32Words (ws : List Word) : Nat := crc32 (ws.flatMap fun w => bytesOfNat 4 w.toNat)

end Sys2Proof.Machine
end

