-- ==== Sys2Proof/Machine/Media.lean ====
section
/-! DEFINITION. The media format: profile-table bytes, Plank tables (R78 to R84), code rates (Table 06.2), band
geometry and slips (R74, R85 to R87) and the map from an LBA to the media (R88, R90). -/

namespace Sys2Proof.Machine

/-! ### Profile-table bytes (Table 18.6) -/

/-- The key of a byte of a profile table: TABLE in the high part, the byte offset in the low part. -/
def tableKey (table addr : Nat) : Nat := table * 2 ^ 32 + addr

/-- A committed word of a profile table, least significant byte first. -/
def Dev.tword (d : Dev) (table addr : Nat) : Word :=
  BitVec.ofNat 32 (natOfBytes (sgetList 0 d.conf.tables (tableKey table addr) 4))

def Dev.twords (d : Dev) (table addr n : Nat) : List Word :=
  (List.range n).map fun i => d.tword table (addr + 4 * i)

/-- A committed word written to a profile table. -/
def Dev.setTword (d : Dev) (table addr : Nat) (w : Word) : Dev :=
  { d with conf := { d.conf with tables := ssetList 0 d.conf.tables (tableKey table addr) (bytesOfNat 4 w.toNat) } }

/-- TABLE values of actuator `a` (Table 18.6). -/
def Tbl.rz (a : Act) : Nat := 0x10 + a.idx
def Tbl.plank (a : Act) : Nat := 0x20 + a.idx
def Tbl.write (a : Act) : Nat := 0x30 + a.idx
def Tbl.assist (a : Act) : Nat := 0x40 + a.idx
def Tbl.alt (a : Act) : Nat := 0x50 + a.idx
def Tbl.runout (a : Act) : Nat := 0x60 + a.idx
def Tbl.felt : Nat := 0x70

/-- Word `i` of the rate-zone record of head `h` and rate zone `z` (R145). -/
def Dev.rzWord (d : Dev) (a : Act) (h z i : Nat) : Word := d.tword (Tbl.rz a) (256 * (64 * h + z) + 4 * i)

/-- The address in the Plank tables of the table of head `h` and rate zone `z` (Table 18.6). -/
def plankAddr (h z : Nat) : Nat := (64 * h + z) * 2 ^ 16

/-! ### Code rates (R167, Table 06.2) -/

/-- Rows of the base matrix by CRATE. -/
def codeRows (crate : Nat) : Nat := 57 - 12 * crate

/-- Circulant size: 512 for the long code (bolts), 64 for the short code. -/
def codeZ (format : Nat) : Nat := if format = 0 then 512 else 64

/-- Information columns. -/
def codeKb (format : Nat) : Nat := if format = 0 then 515 else 518

/-- Codeword length N of Table 06.2. -/
def codeN (format crate : Nat) : Nat := (codeKb format + codeRows crate) * codeZ format

/-- The base matrix entry at row `r` and column `c` of R168: a circulant's shift, or none for a zero block. -/
def baseEntry (format crate r c : Nat) : Option Nat :=
  let m := codeRows crate
  let kb := codeKb format
  let dd := m / 4
  if c < kb then
    if (List.range 4).any fun t => decide ((c + t * dd) % m = r) then
      some ((37 * (r + 1) * (c + 1) + 11 * r * r) % codeZ format)
    else none
  else if c = kb then
    if r = 0 then some 1 else if r = m / 2 then some 0 else if r = m - 1 then some 1 else none
  else if r + 1 = c - kb ∨ r = c - kb then some 0 else none

/-- Bit (i, j) of the parity-check matrix (R168): in a circulant with shift s, row i has its 1 in column (i + s) mod
Z. -/
def parityBit (format crate row col : Nat) : Bool :=
  let z := codeZ format
  match baseEntry format crate (row / z) (col / z) with
  | none => false
  | some s => decide ((row % z + s) % z = col % z)

/-- The record byte and bit that codeword bit `n` carries, for bits below K (R169): each byte most significant bit
first. -/
def codewordBit (record : List Byte) (n : Nat) : Bool :=
  testBit (record.getD (n / 8) 0).toNat (7 - n % 8)

/-- The largest time of a decode in fabric cycles (R171). -/
def decodeCycles (format crate g l : Nat) : Nat :=
  let dd := if format = 0 then 96 else 24
  g * ((codeN format crate + dd - 1) / dd + l * codeRows crate)

/-! ### Plank tables -/

/-- A Plank entry read from its four words (Table 03.5). -/
def PlankEntry.ofWords (w0 w1 w2 w3 : Word) : PlankEntry :=
  { kind := bits w0 31 30, wedge := bits w0 29 20, start := bits w0 17 0,
    pre := bits w1 31 28, sync := bits w1 27 26, length := bits w1 17 0,
    slot := bits w2 31 22, frag := bits w2 21 18, first := decide (bits w2 17 17 = 1),
    last := decide (bits w2 16 16 = 1), smark2 := decide (bits w2 15 15 = 1),
    sm2off := bits w3 31 20, cwOffset := bits w3 19 0 }

/-- Preamble length in channel bits (R78). -/
def PlankEntry.preBits (e : PlankEntry) : Nat := 64 * (e.pre + 1)

/-- The channel bit after the field's last. -/
def PlankEntry.endBit (e : PlankEntry) : Nat := e.start + e.length

/-- The payload of a DATA entry: LENGTH less the preamble and the marks. -/
def PlankEntry.payload (e : PlankEntry) (smLen sm2Len : Nat) : Nat :=
  e.length - e.preBits - smLen - (if e.smark2 then sm2Len else 0)

/-- A Plank table as read from the profile tables: the header fields of Table 03.4 and the entries. -/
structure PlankTable where
  version : Nat
  surface : Nat
  rzone : Nat
  wedges : Nat
  bitrate : Nat
  crate : Nat
  format : Nat
  slots : Nat
  cwlen : Nat
  smLen : Nat
  sm2Len : Nat
  gapPre : Nat
  gapPost : Nat
  check : Word
  words : List Word
  entries : List PlankEntry
deriving DecidableEq, Repr

/-- The Plank table whose header lies at a byte offset of the tables of actuator `a` (R80, R81). -/
def Dev.plankTable (d : Dev) (a : Act) (base : Nat) : PlankTable :=
  let w (i : Nat) : Word := d.tword (Tbl.plank a) (base + 4 * i)
  let n := bits (w 2) 31 16
  let entry (i : Nat) : PlankEntry :=
    PlankEntry.ofWords (w (8 + 4 * i)) (w (9 + 4 * i)) (w (10 + 4 * i)) (w (11 + 4 * i))
  { version := bits (w 0) 31 24, surface := bits (w 0) 23 19, rzone := bits (w 0) 18 13, wedges := bits (w 0) 9 0,
    bitrate := bits (w 1) 31 16, crate := bits (w 1) 15 14, format := bits (w 1) 13 12, slots := bits (w 2) 9 0,
    cwlen := bits (w 3) 19 0, smLen := bits (w 4) 31 24, sm2Len := bits (w 4) 23 16,
    gapPre := bits (w 5) 31 16, gapPost := bits (w 5) 15 0, check := w 7,
    words := (List.range 7).map w ++ (List.range (4 * n)).map fun i => w (8 + i),
    entries := (List.range n).map entry }

/-- Channel bits per tick at a bit rate in 0.1 Mb/s and a speed in 0.01 rpm, rounded down. -/
def bitsPerTick (bitrate speed wedges : Nat) : Nat :=
  if speed * wedges = 0 then 0 else bitrate * 600000000 / (speed * wedges)

/-- Entries in ascending order of WEDGE and, within a wedge, of START (R82). -/
def entriesAscend : List PlankEntry → Bool
  | [] => true
  | [_] => true
  | e :: f :: es =>
    (f.kind == 3 || decide (e.wedge < f.wedge) || (decide (e.wedge = f.wedge) && decide (e.start ≤ f.start))) &&
    entriesAscend (f :: es)

/-- The fields of a wedge do not overlap, and keep GAP_POST after the servo field (R82). -/
def fieldsApart (gapPost : Nat) : List PlankEntry → Bool
  | [] => true
  | [_] => true
  | e :: f :: es =>
    (if e.wedge = f.wedge ∧ f.kind ≠ 3 then
      decide (e.endBit + (if e.kind = 0 then gapPost else 0) ≤ f.start) else true) && fieldsApart gapPost (f :: es)

/-- Every wedge has exactly one SERVO entry, first in its wedge (R82): the SERVO entries carry wedges 0, 1, 2, …, and
each new wedge begins with one. -/
def servoFirst (next : Nat) : List PlankEntry → Option Nat
  | [] => some next
  | e :: es =>
    if e.kind = 3 then (if es.isEmpty then some next else none)
    else if e.kind = 0 then (if e.wedge = next ∧ e.start = 0 then servoFirst (next + 1) es else none)
    else if e.wedge + 1 = next then servoFirst next es
    else none

/-- The DATA entries grouped into runs of one slot. -/
def slotRuns : List PlankEntry → List (List PlankEntry)
  | [] => []
  | e :: es =>
    match slotRuns es with
    | (f :: fs) :: rs => if f.slot = e.slot then (e :: f :: fs) :: rs else [e] :: (f :: fs) :: rs
    | rs => [e] :: rs

/-- FRAG runs 0, 1, 2, … with CW_OFFSET following the payloads; answers the codeword bits carried (R82). -/
def fragChain (smLen sm2Len : Nat) : Nat → Nat → List PlankEntry → Option Nat
  | _, off, [] => some off
  | k, off, e :: es =>
    if e.frag = k ∧ e.cwOffset = off ∧ e.first = decide (k = 0) ∧ e.last = es.isEmpty ∧
        256 ≤ e.payload smLen sm2Len ∧ (if k = 0 then 256 else 128) ≤ e.preBits then
      fragChain smLen sm2Len (k + 1) (off + e.payload smLen sm2Len) es
    else none

/-- One slot's run meets R78, R79 and R82. -/
def slotRunOk (t : PlankTable) (run : List PlankEntry) : Bool :=
  let marks := run.filter fun e => e.smark2
  decide (run.length ≤ 16) &&
  decide (fragChain t.smLen t.sm2Len 0 0 run = some t.cwlen) &&
  (match marks with
    | [e] =>
      let off := e.sm2off * 64
      let pay := e.payload t.smLen t.sm2Len
      decide (off ≤ pay) &&
      (if run.length = 1 then decide (pay ≤ 4 * off) else decide (e.frag ≠ 0))
    | _ => false)

/-- The conditions a Plank table must meet (R82). -/
def plankValid (t : PlankTable) (speed : Nat) : Bool :=
  let data := t.entries.filter fun e => decide (e.kind = 1)
  let fields := t.entries.filter fun e => decide (e.kind = 1 ∨ e.kind = 2)
  let servo := t.entries.filter fun e => decide (e.kind = 0)
  let runs := slotRuns data
  let tick := bitsPerTick t.bitrate speed t.wedges
  let nextPre (w : Nat) : Nat :=
    match servo.find? (fun e => decide (e.wedge = (if w + 1 = t.wedges then 0 else w + 1))) with
    | some e => e.preBits
    | none => 0
  decide (t.version = 1) && entriesAscend t.entries &&
  (match t.entries.getLast? with | some e => decide (e.kind = 3) | none => false) &&
  decide (servoFirst 0 t.entries = some t.wedges) &&
  fieldsApart t.gapPost t.entries &&
  (fields.all fun e => decide (e.endBit + t.gapPre + nextPre e.wedge ≤ tick)) &&
  (runs.all fun r => slotRunOk t r) &&
  decide (runs.length = t.slots) &&
  decide ((runs.map fun r => r.map fun e => e.slot).flatten.dedup.length = t.slots) &&
  decide (t.cwlen = codeN t.format t.crate) &&
  decide (t.check = BitVec.ofNat 32 (crc32Words t.words))

/-- Physical wedge of logical wedge `w` on track index `t` of a band (R84). -/
def physWedge (w t skew wedges : Nat) : Nat := if wedges = 0 then 0 else (w + t * skew) % wedges

/-- The phase of a START in channel bits (R84), rounded down. -/
def startPhase (start tickBits : Nat) : Nat := if tickBits = 0 then 0 else start * 262144 / tickBits

/-! ### Bands and slips -/

/-- Table 03.1 read from its four words. -/
def BandRec.ofWords (w0 w1 w2 w3 : Word) : BandRec :=
  { surface := bits w0 31 27, kind := bits w0 26 25, dir := decide (bits w0 24 24 = 1), start := bits w0 21 0,
    rzone := bits w1 31 26, pitch := bits w1 25 24, offset := bits w1 23 16, tracks := bits w1 15 0,
    skew := bits w2 31 22, spares := bits w2 8 0, slipBase := bits w3 31 9, slips := bits w3 8 0 }

/-- The servo track of track index `t` of a band (R74). -/
def BandRec.track (b : BandRec) (t : Nat) : Nat :=
  if b.dir then b.start - t * (b.pitch + 1) else b.start + t * (b.pitch + 1)

/-- The data track pitch of a band in servo tracks (R199). -/
def BandRec.pitchTracks (b : BandRec) : Nat := if b.kind = 0 ∨ b.kind = 1 then 1 else b.pitch + 1

/-- The guard track is the last track of a KIND 0 or KIND 1 band (R74). -/
def BandRec.isGuard (b : BandRec) (t : Nat) : Bool :=
  decide (b.kind = 0 ∨ b.kind = 1) && decide (t + 1 = b.tracks)

def Dev.band (d : Dev) (i : Nat) : Option BandRec := sget none d.media.bands i

def Dev.slipsOf (d : Dev) (band : Nat) : List Slip := sget [] d.media.slips band

/-- The slip entries in force (R85). -/
def slipsInForce (l : List Slip) : List Slip := l.filter fun s => !s.pending

/-- The position that a bolt takes past the slips in force (R88). -/
def slipPos : List Slip → Nat → Nat
  | [], p => p
  | s :: ss, p => if s.pos ≤ p then slipPos ss (p + 1) else p

/-- A slip entry put into a list in ascending POSITION order (R85). -/
def slipInsert (n : Slip) : List Slip → List Slip
  | [] => [n]
  | s :: ss => if n.pos ≤ s.pos then n :: s :: ss else s :: slipInsert n ss

/-- The actuator that owns a surface (R70). -/
def Dev.actOf (d : Dev) (surface : Nat) : Act := if surface < d.conf.nh then .a0 else .a1

/-- The head of its actuator that reads a surface (R70). -/
def Dev.headOf (d : Dev) (surface : Nat) : Nat := if surface < d.conf.nh then surface else surface - d.conf.nh

/-- The slots per track of a band's Plank table. -/
def Dev.slotsOf (d : Dev) (b : BandRec) : Nat :=
  (d.plankTable (d.actOf b.surface) (plankAddr (d.headOf b.surface) b.rzone)).slots

/-- Where a block lies: band, position, block within its record, servo track, track index, slot. -/
structure Place where
  band : Nat
  pos : Nat
  blk : Nat
  track : Nat
  index : Nat
  slot : Nat
deriving DecidableEq, Repr

/-- The place of position `p` of a band. -/
def Dev.placeAt (d : Dev) (bi : Nat) (b : BandRec) (p blk : Nat) : Place :=
  let n := d.slotsOf b
  let t := if n = 0 then 0 else p / n
  { band := bi, pos := p, blk := blk, track := b.track t, index := t, slot := if n = 0 then 0 else p % n }

/-- The map of a zoned LBA (R88). -/
def Dev.mapZoned (d : Dev) (lba : Nat) : Option Place :=
  let zb := d.media.zoneBlocks
  if zb = 0 then none
  else
    match sget none d.media.zoneMap (lba / zb) with
    | none => none
    | some bi =>
      match d.band bi with
      | none => none
      | some b =>
        let o := lba % zb
        some (d.placeAt bi b (slipPos (slipsInForce (d.slipsOf bi)) (o / 8)) (o % 8))

/-- The map of a conventional LBA to copy `k` (R90), with reassigned sectors (R87). -/
def Dev.mapConv (d : Dev) (lba k : Nat) : Option Place :=
  match sget none d.media.convMap (lba / 256) with
  | none => none
  | some (b0, b1) =>
    let bi := if k = 0 then b0 else b1
    match d.band bi with
    | none => none
    | some b =>
      let p := match d.media.reassigned.find? (fun r => decide (r.band = bi ∧ r.sector = lba % 256)) with
        | some r => r.spare
        | none => lba % 256
      some (d.placeAt bi b p 0)

/-- The key of a position of a band. -/
def posKey (band pos : Nat) : Nat := band * 2 ^ 16 + pos

/-- A bolt record checked after a decode (R77): PLACE and SLOT as expected. -/
def MediaRec.placed (r : MediaRec) (surface track slot : Nat) : Bool :=
  decide (r.place = surface * 2 ^ 27 + track) && decide (r.slot = slot)

end Sys2Proof.Machine
end

