-- ==== Sys2Proof/Machine/Interrupt.lean ====
section
/-! DEFINITION. Interruption of a Blocker's microcode (R115 to R118): events made pending, taken at SAFE words, and the
resume record. -/

namespace Sys2Proof.Machine

/-- The current Plank entry (R112). -/
def Blocker.entry (b : Blocker) : Option PlankEntry :=
  match b.plank.bind, b.plank.cur with
  | some x, some c => x.entries[c.1]?
  | _, _ => none

/-- BLKn_PLANK.TABLE and the identifier in the resume record (R112). -/
def PlankPos.table (p : PlankPos) : Nat := match p.bind with | some x => x.table | none => 0xFFFF

/-- BLKn_PLANK.ENTRY. -/
def PlankPos.index (p : PlankPos) : Nat := match p.cur with | some c => c.1 | none => 0xFFFF

def Dev.setBo (d : Dev) (a : Act) (h bo : Nat) : Dev := d.onWr a fun w => { w with bo := sset 0 w.bo h bo }

/-- An unwind of a head with back-off in force starts (R215): BO is 0 and two tick edges follow. -/
def Dev.startUnwind (d : Dev) (a : Act) (h : Nat) : Dev :=
  if sget 0 (d.wr.get a).bo h = 0 then d
  else d.onWr a fun w => { w with bo := sset 0 w.bo h 0, unwind := sset 0 w.unwind h 2 }

/-- The Blocker's armed stamps dropped without firing, its launch stamp and a back-off start before it; a back-off
already applied unwinds (R119, R215). -/
def Dev.cancelStamps (d : Dev) (a : Act) : Dev :=
  let d1 := { d with clock := { d.clock with
    stamps := d.clock.stamps.filter fun t => decide (t.owner ≠ .blocker a ∧ t.owner ≠ .backOff a) } }
  if (d.assist.get a).backOffBegun then
    let d2 := d1.onAssist a fun l => { l with backOffBegun := false }
    if d2.f (Reg.WAS_AS_STATUS_STATE.on a) = 0 then d2.startUnwind a (d2.paF a Reg.PA_HEAD_HEAD) else d2
  else d1

/-- The vector to be taken (R116, R117): the highest-priority pending event that the depth admits. -/
def Blocker.takeable (b : Blocker) : Option Nat :=
  if 2 ≤ b.depth then none
  else [1, 2, 3, 4, 5, 6, 7].find? fun v => testBit b.events v && (decide (b.depth = 0) || decide (v = 1))

/-- The byte address of the resume record of a depth (R118). -/
def resumeAddr (depth : Nat) : Nat := 0x7F00 + 0x80 * (depth - 1)

/-- The words of the resume record (Table 04.8) for an event of vector `v` taken at depth `n`. -/
def Dev.resumeWords (d : Dev) (a : Act) (v n : Nat) : List Nat :=
  let b := d.blk.get a
  let k (i : Nat) : Nat := (sget 0 b.k i).toNat
  let gates := flag b.zero + 2 * flag b.neg + 4 * flag b.carry + 8 * flag b.rg + 16 * flag b.wg +
    32 * flag (decide (d.f (Reg.WAS_AS_STATUS_STATE.on a) ≠ 0)) + 64 * flag b.frag.isSome
  let slot := match b.entry with | some e => e.slot | none => 0
  [v * 2 ^ 24 + n * 2 ^ 16 + b.pc.toNat, b.lastStamp, b.plank.index * 2 ^ 16 + b.plank.table, k 1 * 2 ^ 16 + k 0,
   k 3 * 2 ^ 16 + k 2, gates, slot * 2 ^ 16 + b.completed % 1024, 0] ++
  ((List.range 16).map fun i => (sget 0 b.g i).toNat) ++ List.replicate 8 0

/-- An event taken (R116): its wait cancelled, its bit cleared, the depth raised, the resume record written, and the
vector's entry next. -/
def Dev.takeEvent (d : Dev) (a : Act) (v : Nat) : Dev :=
  let n := (d.blk.get a).depth + 1
  let bytes := (d.resumeWords a v n).flatMap fun w => bytesOfNat 4 w
  let entry := BitVec.ofNat 14 (d.f ((Reg.BLK_VEC_ENTRY.nth v).on a))
  let d1 := (d.cancelStamps a).onBlk a fun b => { b with
    events := b.events - 2 ^ v
    depth := n
    data := ssetList 0 b.data (resumeAddr n) bytes
    dataPoison := ssetList false b.dataPoison (resumeAddr n) (List.replicate 128 false)
    saved := (n, b.plank) :: b.saved.filter fun p => decide (p.1 ≠ n)
    pc := entry
    wait := .run }
  d1.orF (Reg.BLK_EVT_SEEN_EVT.on a) (2 ^ (v - 1))

/-- An event that a waiting SAFE word takes at once (R116). -/
def Dev.takeAtOnce (d : Dev) (a : Act) : Dev :=
  let b := d.blk.get a
  if b.wait ≠ .run ∧ b.waitSafe ∧ !b.resetting then
    match b.takeable with
    | some v => d.takeEvent a v
    | none => d
  else d

/-- An interruption event made pending (R115, Table 04.7). -/
def Dev.raiseEvt (d : Dev) (a : Act) (v : Nat) : Dev :=
  (d.onBlk a fun b => { b with events := b.events ||| 2 ^ v }).takeAtOnce a

end Sys2Proof.Machine
end

