-- ==== Sys2Proof/Machine/Registers.lean ====
section
/-! DEFINITION. Register writes: absent and unmapped windows (R3, R4, R39, R40), access types (R7), range checks and
trim records (R46 to R50), staging (R41, R44), the RWT latch (R29, R30), and reads that clear (R7, R31). -/

namespace Sys2Proof.Machine

/-- The block whose window holds an address (Table 01.10). -/
def blockOf (addr : Nat) : Option Block :=
  match addr / 0x10000 with
  | 0x00 => some .sys | 0x01 => some .tick | 0x02 => some .siz
  | 0x10 => some (.blk .a0) | 0x11 => some (.blk .a1)
  | 0x12 => some (.cst .a0) | 0x13 => some (.cst .a0) | 0x14 => some (.cst .a1) | 0x15 => some (.cst .a1)
  | 0x20 => some (.chn .a0) | 0x21 => some (.chn .a1) | 0x22 => some (.afe .a0) | 0x23 => some (.afe .a1)
  | 0x24 => some (.was .a0) | 0x25 => some (.was .a1) | 0x30 => some (.srv .a0) | 0x31 => some (.srv .a1)
  | 0x32 => some .spn | 0x33 => some .pwr | 0x34 => some (.tnl .a0) | 0x35 => some (.tnl .a1)
  | 0x40 => some .zqe | 0x41 => some .flt | 0x42 => some .buf | 0x43 => some .dmc | 0x44 => some .crn
  | 0x45 => some .ful | 0x46 => some .hbr | 0x50 => some .hpa | 0x51 => some .hpb | 0x52 => some .cpx
  | 0x60 => some .nvc | 0x61 => some .pdm | 0x62 => some .fmg | 0x63 => some .sec | 0x70 => some .dbg
  | _ => none

/-- Whether a block is absent (Table 00.2, R40, R439). -/
def Dev.blockAbsent (d : Dev) : Block → Bool
  | .blk a => !d.hasAct a
  | .cst a => !d.hasAct a
  | .chn a => !d.hasAct a
  | .afe a => !d.hasAct a
  | .was a => !d.hasAct a
  | .srv a => !d.hasAct a
  | .tnl a => !d.hasAct a
  | .flt => !d.hasFelt
  | .hpb => !d.hasPortB
  | .dbg => !d.debug
  | _ => false

/-- The actuator of an address in a per-actuator window. -/
def actAt (addr : Nat) : Act :=
  match blockOf addr with
  | some (.cst a) => a
  | _ => if (addr / 0x10000) % 2 = 1 then .a1 else .a0

/-- Whether an address belongs to an absent unit: an absent block's window, or the assist-lane registers of a write
window without its lane (Table 00.2, R224). -/
def Dev.absentAt (d : Dev) (addr : Nat) : Bool :=
  match blockOf addr with
  | none => false
  | some (.was a) => !d.hasAct a || (decide (0x8000 ≤ addr % 0x10000) && !d.hasAssist a)
  | some b => d.blockAbsent b

/-- The register row that occupies an address. -/
def rowAt (addr : Nat) : Option RegRow := regRows.find? fun r => r.covers addr

/-- The byte of a Blocker's data memory that an address of its CST window maps (R127). -/
def dataMemAt (addr : Nat) : Option (Act × Nat) :=
  if 0x130000 ≤ addr ∧ addr < 0x138000 then some (.a0, addr - 0x130000)
  else if 0x150000 ≤ addr ∧ addr < 0x158000 then some (.a1, addr - 0x150000)
  else none

/-- Domains that Table 22.1 gives a Low figure (R520). -/
def hasLow (dom : Nat) : Bool :=
  decide ((30 ≤ dom ∧ dom ≤ 52) ∨ dom = 56 ∨ (58 ≤ dom ∧ dom ≤ 61))

/-- Domains absent on a variant, those of a failed actuator (R534), and PD79 while debug is disabled (R519). -/
def Dev.domainAbsent (d : Dev) (dom : Nat) : Bool :=
  (decide (d.variant = .S) && decide ((15 ≤ dom ∧ dom ≤ 29) ∨ dom = 70 ∨ dom = 72)) ||
  (decide (d.variant = .C) && decide (dom = 11 ∨ dom = 26)) ||
  (!d.hasPortB && decide (dom = 32)) ||
  (decide (d.variant = .L) && decide (dom = 54 ∨ dom = 55)) ||
  (d.fmg.actFailed.a0 && decide (dom ≤ 14 ∨ dom = 69 ∨ dom = 71)) ||
  (d.fmg.actFailed.a1 && decide ((15 ≤ dom ∧ dom ≤ 29) ∨ dom = 70 ∨ dom = 72)) ||
  (!d.debug && decide (dom = 79)) || decide (79 < dom)

/-- The bits of 32 domains for which a test holds. -/
def domainMask (p : Nat → Bool) (w : Nat) : Word :=
  BitVec.ofNat 32 ((List.range 32).foldl (fun m i => m + flag (p (32 * w + i)) * 2 ^ i) 0)

/-- The bits a domain mask may set (R520): all ones for every other register. -/
def Dev.legalMask (d : Dev) (addr : Nat) : Word :=
  if 0x610100 ≤ addr ∧ addr < 0x610150 ∧ addr % 16 < 12 then
    domainMask (fun i => !d.domainAbsent i) (addr % 16 / 4)
  else if 0x610180 ≤ addr ∧ addr < 0x6101D0 ∧ addr % 16 < 12 then domainMask hasLow (addr % 16 / 4)
  else 0xFFFFFFFF#32

/-- A written value brought to the nearest legal one, with the trim reason (0 when it was legal) (R46). -/
def clampLegal (l : Legal) (v : Nat) : Nat × Nat :=
  match l with
  | .any => (v, 0)
  | .range lo hi => if v < lo then (lo, 0x01) else if hi < v then (hi, 0x02) else (v, 0)

/-- The field's range check with the domain masks of R520. -/
def Dev.checkField (d : Dev) (addr : Nat) (f : RegField) (v : Nat) : Nat × Nat :=
  let m := d.legalMask addr
  if m = 0xFFFFFFFF#32 then clampLegal f.legal v
  else
    let w := (BitVec.ofNat 32 v &&& m).toNat
    if w = v then (v, 0) else (w, 0x03)

/-- The first configuration write after a commit or discard clears the trim report (R49). -/
def Conf.trimTouch (c : Conf) : Conf :=
  if c.trimStale then { c with trims := [], trimOverflow := false, trimStale := false } else c

/-- One trim record added, or lost once 256 are held (R49). -/
def Conf.trim (c : Conf) (r : TrimRec) : Conf :=
  if c.trims.length < 256 then { c with trims := c.trims ++ [r] } else { c with trimOverflow := true }

def Dev.trimTouch (d : Dev) : Dev := { d with conf := d.conf.trimTouch }
def Dev.trim (d : Dev) (r : TrimRec) : Dev := { d with conf := d.conf.trim r }

/-- Register bits staged into a set of (mask, value) pairs: a later write replaces the earlier value (R44). -/
def stageBits (m : List (Nat × (Word × Word))) (addr : Nat) (mask val : Word) : List (Nat × (Word × Word)) :=
  let old := sget (0, 0) m addr
  sset (0, 0) m addr (old.1 ||| mask, (old.2 &&& ~~~mask) ||| (val &&& mask))

/-- The committed word overlaid with staged bits. -/
def overlayBits (w : Word) (mv : Word × Word) : Word := (w &&& ~~~mv.1) ||| (mv.2 &&& mv.1)

/-- Staged register bits put into the register file. -/
def Dev.applyBits (d : Dev) : List (Nat × (Word × Word)) → Dev
  | [] => d
  | (a, mv) :: m => (d.setReg a (overlayBits (d.reg a) mv)).applyBits m

/-- CSTn_DATA_0 to DATA_2 and CSTn_CHECK: a write is kept until CSTn_DATA_3 stages the word (R128). -/
def cstLatch (addr : Nat) : Bool :=
  decide (blockOf addr = some (.cst .a0) ∨ blockOf addr = some (.cst .a1)) && decide (addr % 0x20000 < 0x30)

/-- One field of a register write, by its access type (R7, R30, R41). -/
def Dev.writeField (d : Dev) (addr : Nat) (f : RegField) (w : Word) : Dev :=
  let v := bits w f.hi f.lo
  let c := d.checkField addr f v
  let mask := bitMask f.hi f.lo
  let val := withBits 0 f.hi f.lo c.1
  let trimmed (d : Dev) : Dev :=
    if c.2 = 0 then d
    else d.trim { addr := addr, space := 0, msb := f.hi, lsb := f.lo, reason := c.2, group := f.group,
                  written := v, applied := c.1 }
  match f.acc with
  | .ro => d
  | .rc => d
  | .wo => d
  | .w1c => d.setReg addr (d.reg addr &&& ~~~(w &&& mask))
  | .rw => (trimmed d).setReg addr (withBits (d.reg addr) f.hi f.lo c.1)
  | .rwt =>
    let d1 := trimmed d
    if d.pastCutoff then { d1 with conf := { d1.conf with rwtNext := stageBits d1.conf.rwtNext addr mask val } }
    else { d1 with conf := { d1.conf with rwt := stageBits d1.conf.rwt addr mask val } }
  | .rws =>
    let d1 := trimmed d
    if cstLatch addr then d1.setReg addr (withBits (d1.reg addr) f.hi f.lo v)
    else { d1 with conf := { d1.conf with
        staged := { d1.conf.staged with regs := stageBits d1.conf.staged.regs addr mask val } } }

/-- The reserved fields between a register's fields, given in descending order, from bit `top` − 1 down. -/
def reservedRanges : Nat → List RegField → List (Nat × Nat)
  | top, [] => if top = 0 then [] else [(top - 1, 0)]
  | top, f :: fs =>
    if f.hi + 1 < top then (top - 1, f.hi + 1) :: reservedRanges f.lo fs else reservedRanges f.lo fs

/-- A RESERVED_BITS trim record for each reserved field written non-zero (R47). -/
def Dev.trimReserved (d : Dev) (addr : Nat) (w : Word) : List (Nat × Nat) → Dev
  | [] => d
  | (hi, lo) :: rs =>
    let v := bits w hi lo
    let d1 := if v = 0 then d
      else d.trim { addr := addr, space := 0, msb := hi, lsb := lo, reason := 0x05, group := 0, written := v,
                    applied := 0 }
    d1.trimReserved addr w rs

/-- Fields that a command of their own writes: HALT, RUN, the cursor's INDEX, the failure bits and the staging of
CSTn_DATA_3. -/
def ownRow (addr : Nat) (f : RegField) : Bool :=
  (decide (addr = Reg.BLK_CTL ∨ addr = Reg.BLK_CTL + 0x10000)) ||
  (decide (addr = Reg.SPN_CTL)) ||
  (decide (addr = Reg.HBR_CURSOR) && decide (f.lo = 0)) ||
  (decide (blockOf addr = some (.afe .a0) ∨ blockOf addr = some (.afe .a1)) &&
    decide (addr % 0x10000 = 0xC ∨ 0x40 ≤ addr % 0x10000)) ||
  (decide (blockOf addr = some (.cst .a0) ∨ blockOf addr = some (.cst .a1)) && decide (addr % 0x20000 = 0x1C))

/-- The fields of a register written in the table's order; a field with no bit in MASK is not written (R466). -/
def Dev.writeFields (d : Dev) (addr : Nat) (mask w : Word) : List RegField → Dev
  | [] => d
  | f :: fs =>
    (if ownRow addr f ∨ mask &&& bitMask f.hi f.lo = 0 then d else d.writeField addr f w).writeFields addr mask w fs

/-- Whether the row's writes are honoured; `cal` is true for the calibration packets. -/
def Dev.guardOk (d : Dev) (cal : Bool) (a : Act) : Guard → Bool
  | .always => true
  | .calOrSafe => cal || d.safe
  | .calOnly => cal
  | .calOnlyStrict => cal
  | .safeOnly => d.safe
  | .safeOrDebug => d.safe || d.debug
  | .rawOnly => d.safe && decide (d.f (Reg.CST_CTL_RAW.at 0x20000 a) = 1)

/-- A write to an absent unit's register: ignored, with one event unless the recorder is full (R4). -/
def Dev.absentWrite (d : Dev) (addr : Nat) : Dev :=
  if d.hb.full then d else d.event Ev.absentWrite ((blockOf addr).getD .sys) addr 0

/-- A write to an address that no register occupies (R39). -/
def Dev.unmappedWrite (d : Dev) (addr : Nat) : Dev :=
  if d.hb.full then d else d.event Ev.unmappedWrite .sys addr 0

/-- A write that a rule does not honour now: ignored, with one event. -/
def Dev.ignoredWrite (d : Dev) (addr : Nat) : Dev := d.event Ev.writeIgnored ((blockOf addr).getD .sys) addr 0

/-- A word written to a Blocker's data memory, least significant byte first (R127). -/
def Dev.writeDataMem (d : Dev) (a : Act) (off : Nat) (w : Word) : Dev :=
  d.onBlk a fun b => { b with
    data := ssetList 0 b.data off (bytesOfNat 4 w.toNat)
    dataPoison := ssetList false b.dataPoison off [false, false, false, false] }

/-- The word that a write with MASK writes (R466): bits outside MASK as read, but 0 in W1C and WO fields. -/
def Dev.merged (d : Dev) (r : RegRow) (addr : Nat) (mask w : Word) : Word :=
  let zero := r.fields.foldl (fun m f => if f.acc = .w1c ∨ f.acc = .wo then m ||| bitMask f.hi f.lo else m) 0#32
  (w &&& mask) ||| (d.reg addr &&& ~~~mask &&& ~~~zero)

/-- A write of the bits in MASK through the fabric: what it does to the fields that have no command of their own
(R7, R466). -/
def Dev.writeMasked (d : Dev) (cal : Bool) (addr : Nat) (mask w : Word) : Dev :=
  if d.absentAt addr then d.absentWrite addr
  else
    match dataMemAt addr with
    | some (a, off) =>
      let at0 := off / 4 * 4
      let old := wordOfBytes (sget 0 (d.blk.get a).data at0) (sget 0 (d.blk.get a).data (at0 + 1))
        (sget 0 (d.blk.get a).data (at0 + 2)) (sget 0 (d.blk.get a).data (at0 + 3))
      if (d.blk.get a).halted || d.safe then d.writeDataMem a at0 ((w &&& mask) ||| (old &&& ~~~mask)) else d.ignoredWrite addr
    | none =>
      match rowAt addr with
      | none => d.unmappedWrite addr
      | some r =>
        if d.guardOk cal (actAt addr) r.guard then
          (d.trimTouch.trimReserved addr (w &&& mask) (reservedRanges 32 r.fields)).writeFields addr mask
            (d.merged r addr mask w) r.fields
        else d.ignoredWrite addr

/-- A write of a whole register. -/
def Dev.writeReg (d : Dev) (cal : Bool) (addr : Nat) (w : Word) : Dev := d.writeMasked cal addr 0xFFFFFFFF#32 w

/-- Whether a write through the fabric is honoured: it is not ignored as absent, unmapped or guarded. -/
def Dev.honours (d : Dev) (cal : Bool) (addr : Nat) : Bool :=
  !d.absentAt addr &&
    match dataMemAt addr, rowAt addr with
    | some (a, _), _ => (d.blk.get a).halted || d.safe
    | none, some r => d.guardOk cal (actAt addr) r.guard
    | none, none => false

/-- Whether a write of these bits would stage an RWS field (R467). -/
def writesRws (addr : Nat) (mask : Word) : Bool :=
  match rowAt addr with
  | none => false
  | some r => r.fields.any fun f => decide (f.acc = .rws) && decide (mask &&& bitMask f.hi f.lo ≠ 0)

/-- The mask of a register's RC fields. -/
def rcMask (addr : Nat) : Word :=
  match rowAt addr with
  | none => 0
  | some r => r.fields.foldl (fun m f => if f.acc = .rc then m ||| bitMask f.hi f.lo else m) 0

/-- The RC fields of a register cleared by a read (R7); a register of an absent unit is left alone (R3). -/
def Dev.clearRc (d : Dev) (addr : Nat) : Dev :=
  if d.absentAt addr then d else d.setReg addr (d.reg addr &&& ~~~rcMask addr)

end Sys2Proof.Machine
end

