-- ==== Sys2Proof/Machine/FeltOps.lean ====
section
/-! DEFINITION. Felt parity operations: the P and Q codes (R352, R353), the group table (R350, R351), strides, folds
and seals (R354 to R358). -/

namespace Sys2Proof.Machine

/-! ### GF(2^8) with polynomial 0x11D and α = 0x02 (R352) -/

/-- Multiplication by α. -/
def gfDouble (x : Nat) : Nat := if x % 256 < 128 then (2 * x) % 256 else ((2 * x) % 256) ^^^ 0x1D

/-- The product of two field elements, over the low `n` bits of the second. -/
def gfMulBits : Nat → Nat → Nat → Nat
  | 0, _, _ => 0
  | n + 1, x, y => (if y % 2 = 1 then x % 256 else 0) ^^^ gfMulBits n (gfDouble x) (y / 2)

def gfMul (x y : Nat) : Nat := gfMulBits 8 x y

/-- α to a power. -/
def gfPow : Nat → Nat
  | 0 => 1
  | n + 1 => gfDouble (gfPow n)

/-- The inverse of a non-zero element, x^254. -/
def gfInv (x : Nat) : Nat :=
  let x2 := gfMul x x
  let x4 := gfMul x2 x2
  let x8 := gfMul x4 x4
  let x16 := gfMul x8 x8
  let x32 := gfMul x16 x16
  let x64 := gfMul x32 x32
  let x128 := gfMul x64 x64
  gfMul x2 (gfMul x4 (gfMul x8 (gfMul x16 (gfMul x32 (gfMul x64 x128)))))

/-- P over (position, byte) pairs (R352). -/
def feltP : List (Nat × Nat) → Nat
  | [] => 0
  | m :: ms => m.2 ^^^ feltP ms

/-- Q over (position, byte) pairs (R352). -/
def feltQ : List (Nat × Nat) → Nat
  | [] => 0
  | m :: ms => gfMul (gfPow m.1) m.2 ^^^ feltQ ms

/-- One missing member from P (R353). -/
def solveP (p : Nat) (others : List (Nat × Nat)) : Nat := p ^^^ feltP others

/-- One missing member j from Q, when P is missing too (R353). -/
def solveQ (q j : Nat) (others : List (Nat × Nat)) : Nat := gfMul (gfInv (gfPow j)) (q ^^^ feltQ others)

/-- Two missing members j < k from P and Q (R353). -/
def solveTwo (p q j k : Nat) (others : List (Nat × Nat)) : Nat × Nat :=
  let pxy := p ^^^ feltP others
  let qxy := q ^^^ feltQ others
  let dj := gfMul (gfMul (gfPow k) pxy ^^^ qxy) (gfInv (gfPow j ^^^ gfPow k))
  (dj, pxy ^^^ dj)

/-! ### Groups -/

/-- A felt group read from its entry (Table 13.1): the parity surfaces and, for each data member, its surface, zone and
LOST. -/
structure FeltGroup where
  psurf : Nat
  qsurf : Nat
  members : List (Nat × Nat × Bool)
  check : Bool
deriving DecidableEq, Repr

/-- Entry `g` of the group table, with the changes the device made since (R350, R367). -/
def Dev.feltGroup (d : Dev) (g : Nat) : FeltGroup :=
  let ws := d.twords Tbl.felt (128 * g) 32
  let w0 := ws.getD 0 0
  let n := bits w0 21 17
  let mem (i : Nat) : Nat × Nat × Bool :=
    let w := ws.getD (1 + i) 0
    (bits w 22 18, bits w 17 0, decide (bits w 31 31 = 1) || sget false d.felt.lostMembers (32 * g + i))
  let ps := (sget none d.felt.moved g).getD (bits w0 31 27, bits w0 26 22)
  { psurf := ps.1, qsurf := ps.2, members := (List.range n).map mem,
    check := decide (ws.getD 31 0 = BitVec.ofNat 32 (crc32Words (ws.take 31))) }

def Dev.groupCount (d : Dev) : Nat := d.f Reg.FLT_GRP_CNT_COUNT

/-- The group and member position of a zone, searched from group 0 (R350). -/
def Dev.groupOf (d : Dev) (zone : Nat) : Option (Nat × Nat) :=
  ((List.range d.groupCount).filterMap fun g =>
    ((d.feltGroup g).members.findIdx? fun m => decide (m.2.1 = zone)).map fun i => (g, i)).head?

/-- Surfaces that the variant holds (R351). -/
def Dev.nSurf (d : Dev) : Nat := if d.hasAct .a1 then 2 * d.conf.nh else d.conf.nh

/-- The agreement of one group entry (R351); `fresh` at Format NVM. -/
def Dev.groupOk (d : Dev) (g : Nat) (fresh : Bool) : Bool :=
  let e := d.feltGroup g
  let ns := d.nSurf
  let surfs := e.members.map fun m => m.1
  let p := d.f Reg.FLT_CFG_ROT * g % ns
  decide (4 ≤ e.members.length ∧ e.members.length ≤ d.f Reg.FLT_CFG_WIDTH) &&
  decide (surfs.dedup.length = surfs.length) && (surfs.all fun s => decide (s ≠ e.psurf ∧ s ≠ e.qsurf)) &&
  (!fresh || (decide (e.psurf = p) &&
    (decide (d.f Reg.FLT_CFG_PAR = 1) || decide (e.qsurf = (p + (ns + 1) / 2) % ns)))) && e.check

/-- Agreement group 8 (R351): every entry agrees, every zone lies in exactly one group. -/
def Dev.feltAgrees (d : Dev) : Bool :=
  let zs := (List.range d.groupCount).flatMap fun g => (d.feltGroup g).members.map fun m => m.2.1
  decide (1 ≤ d.f Reg.FLT_CFG_ROT ∧ d.f Reg.FLT_CFG_ROT + 1 ≤ d.nSurf) &&
  ((List.range d.groupCount).all fun g => d.groupOk g true) &&
  decide (zs.dedup.length = zs.length) && decide (zs.length = d.zq.count)

/-! ### Strides -/

def strideKey (g k : Nat) : Nat := 128 * g + k

def Dev.stride (d : Dev) (g k : Nat) : Stride := sget Stride.none d.felt.strides (strideKey g k)

def Dev.setStride (d : Dev) (g k : Nat) (st : Stride) : Dev :=
  { d with felt := { d.felt with strides := sset Stride.none d.felt.strides (strideKey g k) st } }

/-- Scratch slots held (R355). -/
def Dev.slotsHeld (d : Dev) : Nat := (d.felt.strides.filter fun p => p.2.opened).length

/-- A scratch slot is free (R355, R360): there are MAX_ACTIVE of them. -/
def Dev.slotFree (d : Dev) : Bool := decide (d.slotsHeld < d.f Reg.ZQE_LIMITS_MAX_ACTIVE)

/-- The lowest slot number not in use. -/
def Dev.freshSlot (d : Dev) : Nat :=
  ((List.range (d.felt.strides.length + 1)).find? fun n =>
    !(d.felt.strides.any fun p => p.2.opened && decide (p.2.slot = n))).getD 0

/-- Records that stand folded into the stride's partial, which takes a slot at the first fold (R355); the bolts are in
debt from then (R361). -/
def Stride.fold (st : Stride) (slot pos n : Nat) : Stride :=
  { st with
    opened := true, slot := if st.opened then st.slot else slot
    folded := sset 0 st.folded pos (sget 0 st.folded pos + n)
    dirty := true }

/-- The member positions that a stride's partial holds, as a mask. -/
def foldedMask : List (Nat × Nat) → Nat
  | [] => 0
  | p :: ps => 2 ^ p.1 ||| foldedMask ps

/-- A seal (R356): the part is written, merged with any live part, and the slot is freed. -/
def Stride.seal (st : Stride) (ploc qloc : Nat) : Stride :=
  { st with
    live := true, mask := st.mask ||| foldedMask st.folded, ploc := ploc, qloc := qloc,
    opened := false, slot := 0, folded := [], cover := [], dirty := false }

/-! ### The parity log (R356, R358, R359) -/

/-- Parts that a log band holds: a part takes 128 positions of a band of one zone's size. -/
def Dev.partsPerBand (d : Dev) : Nat := d.media.zoneBlocks / 1024

/-- The KIND 1 bands of a surface. -/
def Dev.logBands (d : Dev) (surface : Nat) : Nat :=
  (d.media.bands.filter fun p => match p.2 with | some b => decide (b.kind = 1 ∧ b.surface = surface) | none => false).length

/-- Free log positions of a surface: log bands not in use. -/
def Dev.logFree (d : Dev) (surface : Nat) : Nat := d.logBands surface - (sget [] d.felt.log surface).length

/-- Log positions of a surface that hold live records. -/
def Dev.logLive (d : Dev) (surface : Nat) : Nat :=
  ((sget [] d.felt.log surface).filter fun b => decide (b.live ≠ 0)).length

/-- A log location (Table 13.4): surface, log band, first position. -/
def logLoc (surface band pos : Nat) : Nat := surface * 2 ^ 27 + band * 2 ^ 14 + pos

/-- A part at a location is garbage. -/
def Dev.garbage (d : Dev) (loc : Nat) : Dev :=
  let s := loc / 2 ^ 27
  let l := (sget [] d.felt.log s).map fun b =>
    if b.no = loc / 2 ^ 14 % 2 ^ 13 then { b with live := b.live - 1 } else b
  { d with felt := { d.felt with log := sset [] d.felt.log s l } }

/-- The lowest log band number of a surface not in use. -/
def freshBand (l : List LogBand) : Nat :=
  ((List.range (l.length + 1)).find? fun n => !(l.any fun b => decide (b.no = n))).getD 0

/-- A part appended to a surface's open log band, a free band being opened when it is full; none when no position is
free. -/
def Dev.logWrite (d : Dev) (surface : Nat) : Option (Nat × Dev) :=
  let l := sget [] d.felt.log surface
  let put (b : LogBand) (rest : List LogBand) : Option (Nat × Dev) :=
    some (logLoc surface b.no (128 * b.used),
      { d with felt := { d.felt with
          log := sset [] d.felt.log surface ({ b with used := b.used + 1, live := b.live + 1 } :: rest) } })
  match l with
  | [] => if d.logFree surface = 0 then none else put { no := 0, used := 0, live := 0 } []
  | b :: rest =>
    if b.used < d.partsPerBand then put b rest
    else if d.logFree surface = 0 then none
    else put { no := freshBand l, used := 0, live := 0 } l

/-- The halves of a part written to the two parity surfaces, P alone with one stream (FLT_CFG.PAR). -/
def Dev.logBoth (d : Dev) (e : FeltGroup) : Option (Nat × Nat × Dev) :=
  match d.logWrite e.psurf with
  | none => none
  | some p =>
    if d.f Reg.FLT_CFG_PAR = 1 then some (p.1, 0, p.2)
    else
      match p.2.logWrite e.qsurf with
      | none => none
      | some q => some (p.1, q.1, q.2)

/-- A live part's old halves become garbage. -/
def Dev.dropPart (d : Dev) (st : Stride) : Dev :=
  if !st.live then d
  else if d.f Reg.FLT_CFG_PAR = 1 then d.garbage st.ploc
  else (d.garbage st.ploc).garbage st.qloc

def Dev.zone (d : Dev) (z : Nat) : Zone := sget Zone.empty d.zq.zones z

def Dev.setZone (d : Dev) (z : Nat) (zn : Zone) : Dev :=
  { d with zq := { d.zq with zones := sset Zone.empty d.zq.zones z zn } }

/-- A member is inside a stride: it has contributed a bolt of it and has not passed it (R354). -/
def Zone.inside (zn : Zone) (k : Nat) : Bool :=
  decide (128 * k < zn.contrib ∧ zn.contrib < 128 * (k + 1)) &&
    !decide (zn.state = 0xE ∨ zn.state = 0xD ∨ zn.state = 0xF)

/-- The zone's debt lowered by bolts that are covered (R361). -/
def Dev.cover (d : Dev) (zone n : Nat) : Dev :=
  d.setZone zone { d.zone zone with debt := (d.zone zone).debt - n }

/-- Bolts of a stride newly covered, member by member. -/
def Dev.coverAll (d : Dev) (e : FeltGroup) (st : Stride) : List (Nat × Nat) → Dev
  | [] => d
  | (pos, n) :: ms =>
    match e.members[pos]? with
    | none => d.coverAll e st ms
    | some m => (d.cover m.2.1 (n - sget 0 st.cover pos)).coverAll e st ms

/-- A stride sealed when no member is inside it and some member has contributed (R356); a seal that finds no free
position waits. -/
def Dev.trySeal (d : Dev) (g k : Nat) : Dev :=
  let st := d.stride g k
  let e := d.feltGroup g
  if st.opened && !st.folded.isEmpty && !(e.members.any fun m => (d.zone m.2.1).inside k) then
    match d.logBoth e with
    | none => d
    | some (p, q, d1) => ((d1.dropPart st).coverAll e st st.folded).setStride g k (st.seal p q)
  else d

/-- A bolt of a zone folded into its stride (R354, R355): it is in debt from then (R361). -/
def Dev.foldBolt (d : Dev) (zone b : Nat) : Dev :=
  if !d.feltOn then d
  else
    match d.groupOf zone with
    | none => d
    | some (g, j) =>
      let zn := d.zone zone
      let d1 := d.setZone zone { zn with contrib := Nat.max zn.contrib (b + 1), debt := zn.debt + 1 }
      let k := b / 128
      (d1.setStride g k ((d1.stride g k).fold d1.freshSlot j 1)).trySeal g k

/-- The strides of a zone's group that its Full or lost state may have let close. -/
def Dev.sealZone (d : Dev) (zone : Nat) : Dev :=
  match d.groupOf zone with
  | none => d
  | some (g, _) =>
    ((d.felt.strides.filter fun p => decide (p.1 / 128 = g)).map fun p => p.1 % 128).foldl (fun d k => d.trySeal g k) d

/-- Acceptance need not wait on felt's account (R355): the zone's stride holds a slot, or one is free. -/
def Dev.feltRoom (d : Dev) (zone : Nat) : Bool :=
  if !d.feltOn then true
  else
    match d.groupOf zone with
    | none => true
    | some (g, _) => (d.stride g ((d.zone zone).wp / 1024)).opened || d.slotFree

end Sys2Proof.Machine
end

