-- ==== Sys2Proof/Machine/HostOps.lean ====
section
/-! DEFINITION. Host commands: completions, the readiness gate (R428, R429, R434), ordering of marked commands (R419),
request tags, delivery of blocks, asynchronous events and requests to the Blockers. -/

namespace Sys2Proof.Machine

def Dev.onHost (d : Dev) (g : HostIf → HostIf) : Dev := { d with host := g d.host }

def Dev.ctrl (d : Dev) (p : Port) : Ctrl := d.host.ctrl.get p.idx

def Dev.onCtrl (d : Dev) (p : Port) (g : Ctrl → Ctrl) : Dev :=
  { d with host := { d.host with ctrl := d.host.ctrl.set p.idx (g (d.host.ctrl.get p.idx)) } }

/-- The outstanding commands of one identifier changed. -/
def Dev.updCmd (d : Dev) (id : CmdId) (g : HostCmd → HostCmd) : Dev :=
  { d with host := { d.host with cmds := d.host.cmds.map fun (x : HostCmd) => if x.id = id then g x else x } }

/-! ### Completions -/

/-- A completion posted; the command is no longer outstanding, and one that failed enters the error log (Table 16.7). -/
def Dev.completeFull (d : Dev) (id : CmdId) (status : Nvme) (dnr : Bool) (crd dw0 : Nat) : Dev :=
  { d with
    completions := { id := id, status := status, dnr := dnr, crd := crd, dw0 := dw0 } :: d.completions
    host := { d.host with
      cmds := d.host.cmds.filter fun c => decide (c.id ≠ id)
      errors := if status = .success then d.host.errors
        else ({ id := id, status := status, lba := none } :: d.host.errors).take 64 } }

def Dev.complete (d : Dev) (id : CmdId) (status : Nvme) (dw0 : Nat) : Dev := d.completeFull id status false 0 dw0

/-- A completion with DNR and CRD given. -/
def Dev.completeWith (d : Dev) (id : CmdId) (status : Nvme) (dnr : Bool) (crd : Nat) : Dev :=
  d.completeFull id status dnr crd 0

/-- Data returned to a host. -/
def Dev.giveHost (d : Dev) (id : CmdId) (o : HostOut) : Dev :=
  { d with host := { d.host with out := (id, o) :: d.host.out } }

/-! ### Readiness -/

/-- The step of Table 24.1 that start-up has reached. -/
def Dev.bootStep (d : Dev) : Nat := d.f Reg.SYS_BOOT_STEP

/-- The status that turns an I/O command away, with DNR and CRD (R428, R429, R434, R527, R534, R555); none while I/O is
served. -/
def Dev.ioGate (d : Dev) : Option (Nvme × Bool × Nat) :=
  if d.safe ∨ d.fmg.mediaOff ∨ d.f Reg.SYS_BOOT_RESULT = 2 ∨ d.f Reg.FMG_STATUS_HOLD = 1 then
    some (.namespaceNotReady, true, 0)
  else if d.bootStep < 11 then some (.namespaceNotReady, false, 1)
  else if d.host.format.isSome then some (.formatInProgress, false, 0)
  else if d.host.sanitize.isSome then some (.sanitizeInProgress, false, 0)
  else if d.host.sanFailed then some (.sanitizeFailed, false, 0)
  else if d.f Reg.PDM_THERM_STATUS_HOLD = 1 then some (.namespaceNotReady, false, 2)
  else none

/-- A controller fetches: enabled, ready and not stopped. -/
def Dev.fetches (d : Dev) (p : Port) : Bool := d.hasPort p && (d.ctrl p).rdy && !(d.ctrl p).stopped

/-- Command contexts in use, of 8,192 (R417). -/
def Dev.contexts (d : Dev) : Nat :=
  d.host.cmds.length + (d.host.ctrl.x.aers.length + d.host.ctrl.y.aers.length) +
  (d.sem.queue.length + flag d.host.format.isSome)

/-- An admin command that the device fetches: its controller runs and a context is free (R417). -/
def Dev.admits (d : Dev) (id : CmdId) : Bool := d.fetches id.port && decide (d.contexts < 8192)


/-- The power state that a controller has set (R432). -/
def Dev.psSet (d : Dev) (p : Port) : Nat := sget 0 (d.ctrl p).feats 0x02

/-- The states that the present controllers have set. -/
def Dev.psSets (d : Dev) : List Nat := ([Port.A, Port.B].filter fun p => d.hasPort p).map fun p => d.psSet p

/-- The lowest-numbered state that either controller has set (R432). -/
def Dev.psWanted (d : Dev) : Nat := d.psSets.foldl Nat.min 4

/-- What an accepted I/O command does to the power state: it reverses an entry (R433), and in PS4 it moves the drive to
the lowest-numbered operational state that either controller has set (R432), PS0 where neither has set one. -/
def Dev.ioArrives (d : Dev) : Dev :=
  if d.pw.entering then { d with pw := { d.pw with reversing := true } }
  else if d.host.ps = 4 then
    let n := match d.psSets.filter fun s => decide (s < 4) with | [] => 0 | s :: l => l.foldl Nat.min s
    d.onHost fun h => { h with psNext := some n }
  else d

/-- The domains that carry a command leave low mode (R524): the port and its complexes. -/
def Dev.wakeHost (d : Dev) (p : Port) : Dev :=
  ((d.setDomLow (30 + 2 * p.idx) false).setDomLow 31 false).setDomLow 33 false

/-- An I/O command run when its controller fetches it and no readiness rule turns it away. -/
def Dev.ioDo (d : Dev) (id : CmdId) (g : Dev → Dev) : Dev :=
  if d.admits id then
    match d.ioGate with
    | some e => d.completeWith id e.1 e.2.1 e.2.2
    | none => g ((d.wakeHost id.port).ioArrives)
  else d

/-- An admin command run when its controller fetches it; nothing happens otherwise. -/
def Dev.adminDo (d : Dev) (id : CmdId) (g : Dev → Dev) : Dev :=
  if d.admits id then g (d.wakeHost id.port) else d

/-! ### Ordering (R419) -/

def Dev.sqOf (d : Dev) (id : CmdId) : Option SubQueue := (d.ctrl id.port).sqs.find? fun q => decide (q.id = id.sq)

def Dev.isOrdered (d : Dev) (id : CmdId) : Bool :=
  match d.sqOf id with
  | none => false
  | some q => q.ordered

/-- Whether a command of this queue must wait: it is marked and an earlier command of its queue is outstanding, or an
earlier marked command of its queue is. -/
def mustWait (earlier : List HostCmd) (id : CmdId) (marked : Bool) : Bool :=
  earlier.any fun c => decide (c.id.port = id.port ∧ c.id.sq = id.sq) && (marked || c.marked)

/-! ### Requests to the Blockers -/

/-- A fresh request tag. -/
def Dev.newTag (d : Dev) (info : TagInfo) : Nat × Dev :=
  let t := d.host.nextTag
  (t, { d with host := { d.host with
      nextTag := (t + 1) % 2 ^ 24, tags := sset none d.host.tags t (some info) } })

/-- A Blocker takes no new request: it is resetting, it reloads, or an admitted image waits (R34, R122). -/
def Dev.blkRefuses (d : Dev) (a : Act) : Bool :=
  let b := d.blk.get a
  b.resetting || b.reloading || b.loadPending || d.isResetting (.block (.blk a))

/-- A domain that is being turned off and that a request meets is turned on again afterwards (R524). -/
def Power.askRewake (p : Power) (dom : Nat) : Power :=
  { p with turningOff := p.turningOff.map fun x => if x.1 = dom then (x.1, true) else x }

/-- A request put at the end of a Blocker's queue, or held by its requester (R34). -/
def Dev.enqueue (d : Dev) (a : Act) (r : BlkReq) : Dev :=
  if d.blkRefuses a then
    { d.onBlk a fun b => { b with heldReqs := b.heldReqs ++ [r] } with pw := d.pw.askRewake (laneDomain a 13) }
  else d.onBlk a fun b => { b with queue := b.queue ++ [r] }

/-- A request of one record at a place, with its tag (Table 04.6). -/
def Dev.askRecord (d : Dev) (op : Nat) (p : Place) (top pair : Nat) (info : TagInfo) : Dev :=
  match d.band p.band with
  | none => d
  | some b =>
    let r := d.newTag info
    r.2.enqueue (d.actOf b.surface)
      { op := op, head := d.headOf b.surface, tag := r.1, band := p.band, track := p.index, slot := p.slot,
        count := 1, desc := 0, rung := top, felt := pair, requester := 0 }

/-! ### Delivery -/

/-- One block of a read command delivered or lost; the command's other state stays. -/
def HostCmd.block (c : HostCmd) (lba : Nat) (v : Option Nat) : HostCmd :=
  { c with
    need := c.need.filter fun n => decide (n ≠ lba)
    got := match v with | some x => (lba, x) :: c.got | none => c.got
    lost := match v with
      | some _ => c.lost
      | none => match c.lost with | some l => some (Nat.min l lba) | none => some lba }

/-- The blocks of a range in order, zeros where none was given. -/
def HostCmd.blocks (c : HostCmd) : List Nat := (List.range c.len).map fun i => sget 0 c.got (c.lba + i)

/-- A read whose blocks have all ended: Unrecovered Read Error when one was lost or poisoned (R420, R379), success with
its data otherwise. -/
def Dev.finishRead (d : Dev) (c : HostCmd) : Dev :=
  match c.lost with
  | some l => (d.complete c.id .unrecoveredRead 0).onHost fun h => { h with
      mediaErrors := h.mediaErrors + 1
      errors := match h.errors with | e :: es => { e with lba := some l } :: es | [] => [] }
  | none => (d.giveHost c.id (.blocks c.blocks)).complete c.id .success 0

/-- Every outstanding command that has nothing left to wait for is finished. -/
def Dev.finishDone (d : Dev) : Dev :=
  (d.host.cmds.filter fun c => c.need.isEmpty && !c.waiting &&
    decide (c.kind = .read ∨ c.kind = .convWrite)).foldl
    (fun d c => match c.kind with
      | .read => d.finishRead c
      | _ => d.complete c.id .success 0) d

/-- The blocks of a record (at most eight from its first LBA) given to the command that asked for them; `v` answers
block i's contents, none when it is lost or poisoned. -/
def Dev.deliver (d : Dev) (tag : Nat) (v : Nat → Option Nat) (n : Nat) : Dev :=
  match sget none d.host.tags tag with
  | none => d
  | some t =>
    match t.owner with
    | none => d
    | some id =>
      let upd (c : HostCmd) : HostCmd :=
        if c.id = id then
          (List.range n).foldl (fun c i => if t.lba + i ∈ c.need then c.block (t.lba + i) (v i) else c) c
        else c
      ({ d with host := { d.host with cmds := d.host.cmds.map upd, tags := sset none d.host.tags tag none } }).finishDone

/-! ### Asynchronous events -/

/-- Completion Dword 0 of an asynchronous event: type, information and log page (NVM Express Base and ZNS). -/
def AsyncEv.dw0 : AsyncEv → Nat
  | .vaultUnhealthy => 0x020001
  | .spareLow => 0x020201
  | .temperature => 0x020101
  | .headHealth => 0x020001
  | .internalError => 0x010300
  | .zoneChanged => 0xBFEF02
  | .namespaceChanged => 0x040002
  | .activationStarting => 0x030102
  | .sanitizeDone => 0x810106

/-- One event raised on a controller: it completes the oldest Asynchronous Event Request, or waits for one. -/
def Dev.raise (d : Dev) (p : Port) (e : AsyncEv) : Dev :=
  let c := d.ctrl p
  if d.hasPort p && c.rdy then
    match c.aers with
    | [] => if e ∈ c.raised then d else d.onCtrl p fun c => { c with raised := c.raised ++ [e] }
    | id :: rest => (d.onCtrl p fun c => { c with aers := rest }).complete id .success e.dw0
  else d

/-- An event raised on every controller. -/
def Dev.raiseAll (d : Dev) (e : AsyncEv) : Dev := (d.raise .A e).raise .B e

/-! ### Vault -/

/-- The vault is armed (R324). -/
def Dev.armed (d : Dev) : Bool := decide (d.f Reg.PWR_VAULT_STATUS_ARMED = 1)

end Sys2Proof.Machine
end

