-- ==== Sys2Proof/Machine/ZoneOps.lean ====
section
/-! DEFINITION. Zone operations: states and counts (R328 to R331), the journal (R338, R339), acceptance and holding
(R333 to R337), slips, rescue and retirement (R86, R344 to R346), reset (R342, R363). -/

namespace Sys2Proof.Machine

/-- Every write of a list completed with one status. -/
def Dev.completeAll (d : Dev) (status : Nvme) : List ZWrite → Dev
  | [] => d
  | w :: ws => (d.complete w.id status 0).completeAll status ws

/-- The zone capacity in blocks (R88). -/
def Dev.zoneCap (d : Dev) : Nat := d.media.zoneBlocks

def Zone.isOpen (z : Zone) : Bool := decide (z.state = 0x2 ∨ z.state = 0x3)
def Zone.isActive (z : Zone) : Bool := decide (z.state = 0x2 ∨ z.state = 0x3 ∨ z.state = 0x4)

def Dev.openCount (d : Dev) : Nat := (d.zq.zones.filter fun p => p.2.isOpen).length
def Dev.activeCount (d : Dev) : Nat := (d.zq.zones.filter fun p => p.2.isActive).length

/-- The open limit: a MAX_OPEN above MAX_ACTIVE acts as MAX_ACTIVE (R329). -/
def Dev.openLimit (d : Dev) : Nat := Nat.min (d.f Reg.ZQE_LIMITS_MAX_OPEN) (d.f Reg.ZQE_LIMITS_MAX_ACTIVE)

/-- The zone whose band is given. -/
def Dev.zoneOfBand (d : Dev) (band : Nat) : Option Nat :=
  (d.media.zoneMap.find? fun p => decide (p.2 = some band)).map fun p => p.1

def Dev.bandOfZone (d : Dev) (z : Nat) : Option Nat := sget none d.media.zoneMap z

/-! ### The journal -/

/-- ATTR of Table 12.5. -/
def Zone.attr (z : Zone) : Nat := flag z.zfc + 2 * flag z.fzr + 4 * flag !z.rescue.isEmpty

/-- A journal record of a zone's present state, written and read back before any dependent action (R339); three
quarters of the ring full starts a checkpoint (R340). -/
def Dev.journal (d : Dev) (type z : Nat) : Dev :=
  let zn := d.zone z
  let seq := (d.f Reg.ZQE_JRNL_SEQ_SEQ + 1) % 2 ^ 32
  let r : JrnlRec :=
    { type := type, zone := z, state := zn.state, attr := zn.attr,
      wp := if type = 4 then zn.finish.getD zn.wp else zn.wp, seq := seq, good := true }
  let d1 := (d.setF Reg.ZQE_JRNL_SEQ_SEQ seq)
  let d2 := { d1 with zq := { d1.zq with ring := d1.zq.ring ++ [r] } }
  if 196608 ≤ d2.zq.ring.length then d2.setF Reg.ZQE_JRNL_FILL_CKPT 1 else d2

/-- Zone Descriptor Changed raised for a zone, which enters the Changed Zone List of every controller. -/
def Dev.zoneChanged (d : Dev) (z : Nat) : Dev :=
  let add (c : Ctrl) : Ctrl := { c with changedZones := if z ∈ c.changedZones then c.changedZones else c.changedZones ++ [z] }
  let d1 := { d with zq := { d.zq with changed := z :: d.zq.changed } }
  ((d1.onCtrl .A add).onCtrl .B add).raiseAll .zoneChanged

/-! ### Opening -/

/-- The implicitly opened zone that R331 closes: the oldest last accepted write, among those that hold no writes. -/
def Dev.victimZone (d : Dev) (z : Nat) : Option Nat :=
  let cands := d.zq.zones.filter fun p => decide (p.2.state = 0x2 ∧ p.1 ≠ z) && p.2.held.isEmpty
  (cands.foldl (fun (best : Option (Nat × Zone)) p =>
    match best with
    | none => some p
    | some q => if p.2.lastAccept < q.2.lastAccept then some p else some q) none).map fun p => p.1

/-- The check of R330 and R331 for a zone that is to open: the status that refuses it, or the device with room made. -/
def Dev.makeRoom (d : Dev) (z : Nat) : Nvme × Dev :=
  let zn := d.zone z
  if zn.isOpen then (.success, d)
  else if !zn.isActive && decide (d.f Reg.ZQE_LIMITS_MAX_ACTIVE ≤ d.activeCount) then (.tooManyActive, d)
  else if d.openCount < d.openLimit then (.success, d)
  else if d.openLimit < d.openCount then (.tooManyOpen, d)
  else
    match d.victimZone z with
    | none => (.tooManyOpen, d)
    | some v => (.success, (d.setZone v { d.zone v with state := 0x4 }).journal 2 v)

/-- The zone opened implicitly, journalled, when it is Empty or Closed (Table 12.2). -/
def Dev.implicitOpen (d : Dev) (z : Nat) : Dev :=
  let zn := d.zone z
  if zn.state = 0x1 ∨ zn.state = 0x4 then (d.setZone z { zn with state := 0x2 }).journal 2 z else d

/-! ### Arrival -/

/-- The outcomes of Table 12.3. -/
inductive ZOutcome where
  | offline | readOnly | full | boundary | below | inOrder | outside | overlap | noSlot | hold
deriving DecidableEq, Repr

/-- WINDOW in blocks: 64 KiB is 16 blocks (R334). -/
def Dev.windowBlocks (d : Dev) : Nat := 16 * d.f Reg.ZQE_CFG_WINDOW

/-- Slots of the reorder pool (R335). -/
def Dev.poolSlots (d : Dev) : Nat :=
  if d.f Reg.ZQE_CFG_WINDOW = 0 then 0 else d.f Reg.ZQE_POOL_SIZE * 16 / d.f Reg.ZQE_CFG_WINDOW

def Dev.slotsInUse (d : Dev) : Nat := (d.zq.zones.filter fun p => !p.2.held.isEmpty).length

/-- Two block ranges overlap. -/
def overlaps (o1 l1 o2 l2 : Nat) : Bool := decide (o1 < o2 + l2 ∧ o2 < o1 + l1)

/-- The outcome of a zoned write at its arrival (Table 12.3, R334). -/
def Dev.zoneOutcome (d : Dev) (z off len : Nat) : ZOutcome :=
  let zn := d.zone z
  if zn.state = 0xF then .offline
  else if zn.state = 0xD then .readOnly
  else if zn.state = 0xE then .full
  else if d.zoneCap < off + len then .boundary
  else if off < zn.wp then .below
  else if off = zn.wp then .inOrder
  else if d.windowBlocks = 0 ∨ zn.wp + d.windowBlocks ≤ off + len - 1 then .outside
  else if zn.held.any fun w => overlaps off len w.off w.len then .overlap
  else if zn.held.isEmpty ∧ d.poolSlots ≤ d.slotsInUse then .noSlot
  else .hold

/-- The status that ends a write at once (Table 12.3). -/
def ZOutcome.status : ZOutcome → Nvme
  | .offline => .zoneOffline
  | .readOnly => .zoneReadOnly
  | .full => .zoneFull
  | .boundary => .zoneBoundary
  | _ => .zoneInvalidWrite

/-- The counter that a rejected write increments (Table 12.3). -/
def ZOutcome.count (o : ZOutcome) (d : Dev) : Dev :=
  match o with
  | .outside => d.bumpF Reg.ZQE_CNT_OUTSIDE 1
  | .overlap => d.bumpF Reg.ZQE_CNT_OVERLAP 1
  | .noSlot => d.bumpF Reg.ZQE_CNT_NO_SLOT 1
  | _ => d

/-- Blocks that the vault-protected cache may still take: the dirty limit and the rescue region's free space (R346). -/
def Dev.cacheRoom (d : Dev) : Nat :=
  Nat.min (256 * d.f Reg.BUF_DIRTY_MAX) (256 * d.f Reg.ZQE_RESCUE_FREE) - d.zq.cacheBlocks

/-- The blocks of a write paired with their offsets. -/
def offsetsFrom : Nat → List Nat → List (Nat × Nat)
  | _, [] => []
  | o, b :: bs => (o, b) :: offsetsFrom (o + 1) bs

/-- One accepted write (R333): WP moves on, the write is released and its data enters the vault-protected cache; a WP
at the zone capacity makes the zone Full. -/
def Zone.accept (zn : Zone) (cap n : Nat) (w : ZWrite) : Zone :=
  { zn with
    wp := zn.wp + w.len
    state := if zn.wp + w.len = cap then 0xE else if zn.state = 0x3 then 0x3 else 0x2
    cache := zn.cache ++ offsetsFrom w.off w.data
    lastAccept := n }

/-- Every held write that has become in order, accepted in ascending LBA order (R334). -/
def Zone.drain : Nat → Zone → Nat → Nat → List ZWrite → Zone × List ZWrite
  | 0, zn, _, _, done => (zn, done)
  | k + 1, zn, cap, n, done =>
    match zn.held.find? fun w => decide (w.off = zn.wp) with
    | none => (zn, done)
    | some w =>
      Zone.drain k { zn.accept cap n w with held := zn.held.filter fun v => decide (v.id ≠ w.id) } cap n (done ++ [w])

/-- Completions posted in order, with the LBA that an append returns in Dword 0. -/
def Dev.completeAccepted (d : Dev) : List ZWrite → Dev
  | [] => d
  | w :: ws => (d.complete w.id .success 0).completeAccepted ws

/-- The whole bolts of a zone from one bolt index to another: a partial bolt stays in the buffer (R89). -/
def boltsBetween (z b0 b1 : Nat) : List (Nat × Nat) := (List.range (b1 - b0)).map fun i => (z, b0 + i)

/-- Acceptance of an in-order write and of the held writes it makes in order: WP, then the journal record, then the
release, then the completions (R333, R334). `dw0` is the value an append returns. -/
def Dev.acceptWrite (d : Dev) (z : Nat) (w : ZWrite) (dw0 : Nat) : Dev :=
  let d0 := d.implicitOpen z
  let zn := d0.zone z
  let n := d0.zq.accepts + 1
  let zn1 := zn.accept d0.zoneCap n w
  let r := Zone.drain zn1.held.length { zn1 with waiting := zn1.waiting.filter fun v => decide (v.id ≠ w.id) }
    d0.zoneCap n []
  let d1 := (d0.setZone z r.1).journal 1 z
  let total := w.len + (r.2.map fun v => v.len).sum
  let d2 := { d1 with zq := { d1.zq with
      accepts := n, cacheBlocks := d1.zq.cacheBlocks + total,
      released := d1.zq.released ++ boltsBetween z (zn.wp / 8) (r.1.wp / 8) } }
  (d2.complete w.id .success dw0).completeAccepted r.2

/-! ### Slips, rescue and retirement -/

/-- The zone's rescue (R345): held writes end, the accepted data goes to the rescue region, a TYPE 5 record, Full with
ZFC, and Zone Descriptor Changed. -/
def Dev.rescueZone (d : Dev) (z : Nat) : Dev :=
  let zn := d.zone z
  let n := zn.cache.length
  let d1 := (d.completeAll .zoneInvalidWrite (zn.held ++ zn.waiting)).setZone z
    { zn with state := 0xE, zfc := true, held := [], waiting := [], cache := [], rescue := zn.rescue ++ zn.cache }
  let d2 := d1.journal 5 z
  let d3 := { d2 with zq := { d2.zq with cacheBlocks := d2.zq.cacheBlocks - n } }
  ((d3.setF Reg.ZQE_RESCUE_FREE (d3.f Reg.ZQE_RESCUE_FREE - (n + 255) / 256)).setF Reg.ZQE_RESCUE_ZONES
    (d3.f Reg.ZQE_RESCUE_ZONES + 1)).zoneChanged z

/-- A grown defect of a conventional or system band (R87): the next free spare, or a relocated band. -/
def Dev.reassign (d : Dev) (bi : Nat) (b : BandRec) (sector : Nat) : Dev :=
  let used := (d.media.reassigned.filter fun r => decide (r.band = bi)).length
  if used < b.spares then
    { d with media := { d.media with
        reassigned := { band := bi, sector := sector, spare := 256 + used } :: d.media.reassigned } }
  else { d with media := { d.media with relocated := (bi, bi) :: d.media.relocated } }

/-- A position condemned at the write frontier (R86): a grown slip in force. A slip beyond SPARES rescues the zone
(R345); unused spares falling to 8 set FZR (R344). -/
def Dev.condemn (d : Dev) (bi pos : Nat) : Dev :=
  match d.band bi with
  | none => d
  | some b =>
    if b.kind = 2 ∨ b.kind = 3 then d.reassign bi b pos
    else
      let n := (slipsInForce (d.slipsOf bi)).length
      if b.spares ≤ n then
        match d.zoneOfBand bi with
        | none => d
        | some z => d.rescueZone z
      else
        let d1 := { d with media := { d.media with
          slips := sset [] d.media.slips bi (slipInsert { grown := true, pending := false, pos := pos } (d.slipsOf bi))
          bands := sset none d.media.bands bi (some { b with slips := n + 1 }) } }
        if b.spares ≤ n + 1 + 8 then
          match d1.zoneOfBand bi with
          | none => d1
          | some z => if (d1.zone z).fzr then d1 else (d1.setZone z { d1.zone z with fzr := true }).zoneChanged z
        else d1

/-- A PENDING entry for a position found weak (R86). -/
def Dev.pendSlip (d : Dev) (bi pos : Nat) : Dev :=
  if (d.slipsOf bi).any fun s => decide (s.pos = pos) then d
  else { d with media := { d.media with
    slips := sset [] d.media.slips bi (slipInsert { grown := true, pending := true, pos := pos } (d.slipsOf bi)) } }

/-! ### Reset -/

/-- Other members of a zone's group that hold data (R362, R363). -/
def Dev.otherMembersHold (d : Dev) (g z : Nat) : Bool :=
  (d.feltGroup g).members.any fun m =>
    decide (m.2.1 ≠ z) && decide ((d.zone m.2.1).state ≠ 0x1 ∧ (d.zone m.2.1).state ≠ 0xF)

/-- A group's live parts and open slots discarded (R362). -/
def Dev.dropGroup (d : Dev) (g : Nat) : Dev :=
  let mine := d.felt.strides.filter fun p => decide (p.1 / 128 = g)
  let d1 := mine.foldl (fun d p => d.dropPart p.2) d
  { d1 with felt := { d1.felt with strides := d1.felt.strides.filter fun p => decide (p.1 / 128 ≠ g) } }

/-- The pending slips of a band put in force (R86); the band retires when they would exceed SPARES (R346). -/
def Dev.pendingIntoForce (d : Dev) (z : Nat) : Dev :=
  match d.bandOfZone z with
  | none => d
  | some bi =>
    match d.band bi with
    | none => d
    | some b =>
      let all := d.slipsOf bi
      if b.spares < all.length then
        let d1 := (d.setZone z { d.zone z with state := 0xF }).journal 2 z
        { d1 with zq := { d1.zq with offline := d1.zq.offline + 1 } }
      else
        { d with media := { d.media with
            slips := sset [] d.media.slips bi (all.map fun s => { s with pending := false })
            bands := sset none d.media.bands bi (some { b with slips := all.length }) } }

/-- The zone's requests named by a withdrawal (R585): the write requests of its band. -/
def Dev.withdrawBand (d : Dev) (a : Act) (bi : Nat) : Dev :=
  let named (r : BlkReq) : Bool := decide (r.band = bi) && decide (r.op = 1)
  let d1 := d.onBlk a fun b => { b with
    queue := b.queue.filter fun r => !named r, heldReqs := b.heldReqs.filter fun r => !named r }
  if (d.blk.get a).cur.any named then (d1.onBlk a fun b => { b with withdrawn := true }).raiseEvt a 5 else d1

/-- Reads of a zone that are dispatched and have not ended (R342). -/
def Dev.readsOf (d : Dev) (z : Nat) : List CmdId :=
  (d.host.cmds.filter fun c => decide (c.kind = .read ∧ c.ns = 1) && !c.waiting &&
    (c.need.any fun l => decide (d.media.zoneBlocks ≠ 0 ∧ l / d.media.zoneBlocks = z))).map fun c => c.id

/-- Reset Zone on a zone it applies to (R342, R362, R363, R368): held and waiting writes end, the cache is dropped and
the requests withdrawn, a TYPE 3 record, Empty with WP 0 (Offline from Read Only), pending slips in force, felt. -/
def Dev.resetZone (d : Dev) (z : Nat) : Dev :=
  let zn := d.zone z
  let ro := decide (zn.state = 0xD)
  let n := zn.cache.length
  let d1 := d.completeAll .zoneInvalidWrite (zn.held ++ zn.waiting)
  let d2 := match d1.bandOfZone z with
    | none => d1
    | some bi =>
      match d1.band bi with
      | none => d1
      | some b => d1.withdrawBand (d1.actOf b.surface) bi
  let grp := d2.groupOf z
  let unf := d2.feltOn && !ro && (match grp with | none => false | some g => d2.otherMembersHold g.1 z)
  let slips := match d2.bandOfZone z with | none => [] | some bi => d2.slipsOf bi
  let freed := (zn.rescue.length + 255) / 256
  let d3 := d2.setZone z
    { Zone.empty with
      state := if ro then 0xF else 0x1
      unfelt := unf
      oldSlips := if unf then slips else []
      oldReads := d2.readsOf z }
  let d4 := { d3 with zq := { d3.zq with
      cacheBlocks := d3.zq.cacheBlocks - n
      released := d3.zq.released.filter fun p => decide (p.1 ≠ z)
      offline := if ro then d3.zq.offline + 1 else d3.zq.offline } }
  let d5 := if zn.rescue.isEmpty then d4
    else (d4.setF Reg.ZQE_RESCUE_FREE (d4.f Reg.ZQE_RESCUE_FREE + freed)).setF Reg.ZQE_RESCUE_ZONES
      (d4.f Reg.ZQE_RESCUE_ZONES - 1)
  let d6 := d5.journal 3 z
  let d7 := if unf then d6 else match grp with | none => d6 | some g => d6.dropGroup g.1
  if ro then d7 else d7.pendingIntoForce z

end Sys2Proof.Machine
end

