-- ==== Sys2Proof/Machine/Ladder.lean ====
section
/-! DEFINITION. The retry ladder's arithmetic: rung costs (R189, R190), the recovery floor and limits (R61, R62), plans
and their encoding (R178, R179). -/

namespace Sys2Proof.Machine

/-- A quotient rounded up; 0 for a divisor of 0. -/
def ceilDiv (n m : Nat) : Nat := if m = 0 then 0 else (n + m - 1) / m

/-- The commanded speed in 0.01 rpm. -/
def Dev.speed (d : Dev) : Nat := d.f Reg.SPN_SPEED_CMD_SPEED

/-- The Plank tables that the profile holds, by actuator, head and rate zone (Table 18.6): those with a header. -/
def Dev.usedTables (d : Dev) : List PlankTable :=
  ([Act.a0, Act.a1].flatMap fun a =>
    (List.range d.conf.nh).flatMap fun h => (List.range 64).map fun z => d.plankTable a (plankAddr h z)).filter
      fun t => decide (t.version ≠ 0)

/-- The terms of R189 for one FORMAT: N, m_b, the largest fragment count and the largest SLOTS. -/
structure CostTerms where
  n : Nat
  mb : Nat
  frags : Nat
  slots : Nat
deriving DecidableEq, Repr

def costTerms (format : Nat) (ts : List PlankTable) : Option CostTerms :=
  let us := ts.filter fun t => decide (t.format = format)
  match us with
  | [] => none
  | _ =>
    let crate := us.foldl (fun m t => Nat.min m t.crate) 3
    some { n := codeN format crate, mb := codeRows crate,
           frags := us.foldl (fun m t => t.entries.foldl (fun m e => if e.kind = 1 then Nat.max m (e.frag + 1) else m) m) 0,
           slots := us.foldl (fun m t => Nat.max m t.slots) 0 }

/-- t(G, L) of R171. -/
def iterTime (n mb dd g l : Nat) : Nat := g * (ceilDiv n dd + l * mb)

/-- A time of `num` ÷ `den` fabric cycles in ticks, rounded up; a tick is 7.2 × 10^12 ÷ (speed × wedges) cycles. -/
def Dev.cyclesToTicks (d : Dev) (num den : Nat) : Nat := ceilDiv (num * (d.speed * d.wedges)) (den * 7200000000000)

/-- The costs c0, c1 and c2 of one format (R189). A read-back that cannot keep up with the stream has the largest cost
the register holds. -/
def Dev.formatCosts (d : Dev) (format : Nat) (t : CostTerms) : Nat × Nat × Nat :=
  let dd := if format = 0 then 96 else 24
  let par := if format = 0 then 1 else 4
  let q := if format = 0 then 2 else 4
  let t0 := iterTime t.n t.mb dd 6 24
  let t1 := iterTime t.n t.mb dd (d.f Reg.CHN_DEC_CFG_REP_GLOBAL) (d.f Reg.CHN_DEC_CFG_REP_LOCAL)
  let tr := ceilDiv t.n 32
  let ta := 17 * t.frags * ceilDiv 5120 dd
  let cnt := Nat.max (d.f Reg.CHN_ALT_CNT) (d.f (Reg.CHN_ALT_CNT.on .a1))
  let num := 7200000000000 * par
  let lost := t0 * d.speed * t.slots
  let top := 2 ^ 24 - 1
  let c0 := d.cyclesToTicks t0 1
  if num ≤ lost then (c0, top, top)
  else
    let den := num - lost
    (c0, Nat.min top (d.cyclesToTicks (q * t0 * den + (tr + t1) * num) den),
      Nat.min top (d.cyclesToTicks (q * t0 * den + 2 * (1 + cnt) * (tr + ta + t1) * num) den))

/-- c0, c1 and c2: the larger value over the formats in use (R189). -/
def Dev.replayCosts (d : Dev) : Nat × Nat × Nat :=
  let ts := d.usedTables
  let cost (f : Nat) : Nat × Nat × Nat := match costTerms f ts with | none => (0, 0, 0) | some t => d.formatCosts f t
  let a := cost 0
  let b := cost 1
  (Nat.max a.1 b.1, Nat.max a.2.1 b.2.1, Nat.max a.2.2 b.2.2)

/-- c7: REVS × wedges; 5 × wedges without felt hardware (R365). -/
def Dev.reconBound (d : Dev) : Nat := (if d.hasFelt then d.f Reg.FLT_RECON_REVS else 5) * d.wedges

/-- The cost register of rung r (Table 06.9). -/
def Reg.cost (r : Nat) : Fld := { addr := 0x2000A0 + 4 * r, hi := 23, lo := 0 }

/-- The computed costs put into their registers (R189, R190, R365). -/
def Dev.refreshCosts (d : Dev) : Dev :=
  let c := d.replayCosts
  (((d.setF (Reg.cost 0) c.1).setF (Reg.cost 1) c.2.1).setF (Reg.cost 2) c.2.2).setF (Reg.cost 7) d.reconBound

def Dev.cost (d : Dev) (r : Nat) : Nat := d.f (Reg.cost r)

/-- Rung r is enabled by CHN0_LADDER_CFG.EN. -/
def Dev.rungOn (d : Dev) (r : Nat) : Bool := testBit (d.f Reg.CHN_LADDER_CFG_EN) r

/-- The seek table: (distance in servo tracks, ticks), up to its end. -/
def Dev.seekTable (d : Dev) (a : Act) : List (Nat × Nat) :=
  (((List.range 32).map fun i =>
    (16 * d.f ((Reg.SRV_SEEK_TBL_DIST.nth i).on a), d.f ((Reg.SRV_SEEK_TBL_TICKS.nth i).on a))).takeWhile fun p => decide (p.1 ≠ 0))

/-- The worst full-stroke seek s of R61: the larger of both actuators' (R286). -/
def Dev.fullStroke (d : Dev) : Nat :=
  let one (a : Act) : Nat :=
    if d.hasAct a then
      (match (d.seekTable a).getLast? with | some p => p.2 | none => 0) + d.f (Reg.SRV_SETTLE_MAX.on a) +
        (if a = .a1 then d.f (Reg.SRV_SEEK_CFG_STAGGER.on .a1) else 0)
    else 0
  Nat.max (one .a0) (one .a1)

/-- The recovery floor in ticks (R61). -/
def Dev.floorTicks (d : Dev) : Nat := d.cost 0 + d.cost 1 + d.cost 2 + d.wedges + d.fullStroke

/-- A recovery limit of n × 100 ms in ticks, rounded down (R62). -/
def Dev.limitTicks (d : Dev) (tler : Nat) : Nat := tler * d.speed * d.wedges / 60000

/-- The rungs from 3 to 6 that a limit admits (the loop of R62), given what is used before and reserved after. -/
def Dev.admitRungs (d : Dev) (limit reserve : Nat) : List Nat → Nat → List Nat
  | [], _ => []
  | r :: rs, used =>
    if !d.rungOn r then d.admitRungs limit reserve rs used
    else if limit < used + d.cost r + reserve then []
    else r :: d.admitRungs limit reserve rs (used + d.cost r)

/-- Rung 7 can stand in a plan (R62, R187). -/
def Dev.rung7 (d : Dev) (conv : Bool) : Bool := d.rungOn 7 && (conv || d.feltOn)

/-- A plan encoded as Table 06.5 does: its highest rung below 7, and whether it holds rung 7. -/
def Dev.encodePlan (d : Dev) (rungs : List Nat) (seven : Bool) : Nat :=
  let top := rungs.getLast?.getD 2
  if !seven then (if rungs = [3, 4, 5, 6].filter d.rungOn then 6 else top)
  else if rungs = [3, 4, 5, 6].filter d.rungOn then 7
  else 6 + top

/-- The plan that the Sizer fixes for a limit of TLER × 100 ms; 0 is no limit (R61, R62, R420). -/
def Dev.planFor (d : Dev) (tler : Nat) (conv : Bool) : Nat :=
  if tler = 0 then (if d.rung7 conv then 7 else 6)
  else
    let used := d.floorTicks
    let l := d.limitTicks tler
    let seven := d.rung7 conv && decide (0 < d.cost 7) && decide (used + d.cost 7 ≤ l)
    d.encodePlan (d.admitRungs l (if seven then d.cost 7 else 0) [3, 4, 5, 6] used) seven

/-- Whether a plan holds a rung (Table 06.5). -/
def Dev.planHolds (d : Dev) (plan r : Nat) : Bool :=
  let top := if plan = 7 then 6 else if 2 ≤ plan ∧ plan ≤ 6 then plan else if 8 ≤ plan ∧ plan ≤ 11 then plan - 6 else 2
  if r ≤ 2 then true
  else if r = 7 then decide (plan = 7 ∨ (8 ≤ plan ∧ plan ≤ 11))
  else decide (r ≤ top) && d.rungOn r

/-- The next rung of a plan after one (R179); NOBACK passes rungs 1 and 2. -/
def Dev.nextRung (d : Dev) (plan r : Nat) (noback : Bool) : Option Nat :=
  [1, 2, 3, 4, 5, 6, 7].find? fun q => decide (r < q) && d.planHolds plan q && !(noback && decide (q ≤ 2))

end Sys2Proof.Machine
end

