-- ==== Sys2Proof/Machine/HostData.lean ====
section
/-! DEFINITION. Host data commands: the dispatch of reads (R91 to R93, R341, R342, R420), conventional writes (R91,
R93), zoned writes and appends (R330 to R337), zone actions (R332, R341 to R343), reports (R328, R348), and the release
of accepted data toward the Blockers (R333, R342, R355, R363). -/

namespace Sys2Proof.Machine

/-! ### Reads -/

/-- The contents of a zoned block that need no media access: zeros at or above the write pointer or the finish point
(R92, R341), buffered or rescued data (R89, R345); none when the media holds it. -/
def Dev.zonedHere (d : Dev) (lba : Nat) : Option Nat :=
  let zb := d.media.zoneBlocks
  let zn := d.zone (lba / zb)
  let o := lba % zb
  let top := match zn.finish with | some f => Nat.min f zn.wp | none => zn.wp
  if top ≤ o then some 0
  else match zn.cache.find? fun p => decide (p.1 = o) with
    | some p => some p.2
    | none => (zn.rescue.find? fun p => decide (p.1 = o)).map fun p => p.2

/-- A copy of a conventional block is stale (R91). -/
def Dev.isStale (d : Dev) (lba copy : Nat) : Bool := d.media.stale.any fun m => decide (m.lba = lba ∧ m.copy = copy)

/-- The contents of a conventional block that need no media access (R93), none when a copy holds it. -/
def Dev.convHere (d : Dev) (lba : Nat) : Option Nat :=
  match d.host.dirty.find? fun p => decide (p.1 = lba) with
  | some p => some p.2
  | none => if sget false d.media.written (lba / 256) then none else some 0

/-- A buffered or rescued block is poisoned (R552). -/
def Dev.poisonHere (d : Dev) (ns lba : Nat) : Bool :=
  if ns = 1 then
    let zn := d.zone (lba / d.media.zoneBlocks)
    zn.poison.contains (lba % d.media.zoneBlocks) && decide (lba % d.media.zoneBlocks < zn.wp)
  else d.host.poison.contains lba

/-- The head that holds a copy of a conventional block has failed, which takes no reads or writes (R222, R534). -/
def Dev.copyLost (d : Dev) (lba copy : Nat) : Bool :=
  match d.mapConv lba copy with
  | none => false
  | some p => match d.band p.band with | none => false | some b => sget false d.felt.lost b.surface

/-- The copy that a conventional read uses (R91, R534): one that is not stale, on a healthy head, else the one reached
first. -/
def Dev.readCopy (d : Dev) (lba first : Nat) : Nat :=
  if d.isStale lba 0 then 1 else if d.isStale lba 1 then 0
  else if d.copyLost lba 0 then 1 else if d.copyLost lba 1 then 0 else first % 2

/-- A record read asked for: from its Blocker, or at rung 7 at once when its head has failed (R366). -/
def Dev.askRead (d : Dev) (p : Place) (plan : Nat) (conv : Bool) (info : TagInfo) : Dev :=
  match d.band p.band with
  | none => d
  | some b =>
    if sget false d.felt.lost b.surface && !conv then
      let r := d.newTag info
      r.2.onDet (d.actOf b.surface) fun t => { t with recon :=
        { tag := r.1, band := p.band, pos := p.pos, slot := p.slot, conv := false, rung := 7, plan := plan,
          noback := true, distrust := false, ends := true, single := false, sync2 := false, cut := false } :: t.recon }
    else d.askRecord 0 p plan 0xF info

/-- The LBAs of a range with their first LBA in each zoned record: a record is asked for once. -/
def firstOfBolts (lbas : List Nat) : List Nat :=
  lbas.foldl (fun l x => if (l.any fun y => decide (y / 8 = x / 8)) then l else l ++ [x]) []

/-- The limit in force for a namespace, in 100 ms (R420). -/
def Dev.tler (d : Dev) (ns : Nat) : Nat := sget 0 d.host.feats (0x500 + ns)

/-- A read dispatched (R91, R92, R420): blocks that need no media access are given, the rest asked for. -/
def Dev.startRead (d : Dev) (c : HostCmd) (first : Nat) : Dev :=
  let lbas := (List.range c.len).map fun i => c.lba + i
  let plan := d.planFor (if c.limited then d.tler c.ns else 0) (decide (c.ns = 2))
  let here (l : Nat) : Option Nat := if c.ns = 1 then d.zonedHere l else d.convHere l
  let c1 := lbas.foldl (fun c l => match here l with | some v => c.block l (if d.poisonHere c.ns l then none else some v) | none => c)
    { c with need := lbas }
  let d1 := d.updCmd c.id fun _ => c1
  let d2 :=
    if c.ns = 1 then
      (firstOfBolts c1.need).foldl (fun d l =>
        match d.mapZoned (l / 8 * 8) with
        | none => d.updCmd c.id fun x => x.block l none
        | some p => d.askRead p plan false { owner := some c.id, lba := l / 8 * 8, write := false, copy := 0 }) d1
    else
      c1.need.foldl (fun d l =>
        let k := d.readCopy l first
        match (if d.copyLost l k then none else d.mapConv l k) with
        | none => d.updCmd c.id fun x => x.block l none
        | some p => d.askRead p plan true { owner := some c.id, lba := l, write := false, copy := k }) d1
  d2.finishDone

/-! ### Conventional writes -/

/-- A stale mark set for a sector and copy, journalled (R91). -/
def Dev.markStale (d : Dev) (lba copy : Nat) : Dev :=
  if d.isStale lba copy then d
  else { d with media := { d.media with stale := { lba := lba, copy := copy } :: d.media.stale } }

/-- A conventional record of one block as it lies on the media. -/
def Dev.convRec (d : Dev) (p : Place) (lba v : Nat) : MediaRec :=
  let surface := match d.band p.band with | none => 0 | some b => b.surface
  { place := surface * 2 ^ 27 + p.track, slot := p.slot, valid := 1, bad := flag (d.host.poison.contains lba), firstLba := lba, nsid := 2, zone := 0,
    wseq := d.media.wseq + 1, keygen := d.f Reg.SEC_KEYGEN_GEN, data := [v] }

/-- A record stored at a position. -/
def Dev.storeRec (d : Dev) (band pos : Nat) (r : MediaRec) : Dev :=
  { d with media := { d.media with recs := sset none d.media.recs (posKey band pos) (some r), wseq := d.media.wseq + 1 } }

/-- The write request of one copy of a conventional block; none on a failed head. -/
def Dev.askConvWrite (d : Dev) (owner : Option CmdId) (lba copy : Nat) : Dev :=
  match (if d.copyLost lba copy then none else d.mapConv lba copy) with
  | none => d
  | some p => d.askRecord 1 p 0 0xF { owner := owner, lba := lba, write := true, copy := copy }

/-- The first write to a conventional band (R93): copy 0 filled with zero records, the bit set, copy 1 stale. -/
def Dev.firstConvWrite (d : Dev) (c : Nat) : Dev :=
  if sget false d.media.written c then d
  else
    let sectors := (List.range 256).map fun i => 256 * c + i
    let d1 := sectors.foldl (fun d l =>
      match d.mapConv l 0 with
      | none => d
      | some p => ((d.storeRec p.band p.pos (d.convRec p l 0)).markStale l 1).askConvWrite none l 1) d
    { d1 with media := { d1.media with written := sset false d1.media.written c true } }

/-- Blocks of dirty data that the vault-protected cache holds: zoned and conventional. -/
def Dev.dirtyBlocks (d : Dev) : Nat := d.zq.cacheBlocks + d.host.dirty.length

/-- One block of a conventional write: into the buffer, both copies stale, a request for each; answers the copies that
a write-through completion waits for. -/
def Dev.convBlock (d : Dev) (id : CmdId) (lba v : Nat) : Dev × List Nat :=
  let wait := ([0, 1].filter fun k => !d.isStale lba k && !d.copyLost lba k).map fun k => 2 * lba + k
  let d1 := d.onHost fun h => { h with
    dirty := (lba, v) :: h.dirty.filter fun p => decide (p.1 ≠ lba), poison := h.poison.filter fun x => decide (x ≠ lba) }
  let d2 := (d1.markStale lba 0).markStale lba 1
  ((d2.askConvWrite (some id) lba 0).askConvWrite (some id) lba 1, wait)

/-- A conventional write dispatched (R91, R93, R424): completed when its data is in the vault-protected cache, or, while
the vault is not armed or has no room, once every non-stale copy holds it. -/
def Dev.startConv (d : Dev) (c : HostCmd) : Dev :=
  let room := d.armed && decide (d.dirtyBlocks + c.len ≤ 256 * d.f Reg.BUF_DIRTY_MAX)
  let bands := (List.range ((c.lba % 256 + c.len + 255) / 256)).map fun i => c.lba / 256 + i
  let d1 := bands.foldl (fun d b => d.firstConvWrite b) d
  let r := (offsetsFrom c.lba c.data).foldl (fun (r : Dev × List Nat) p =>
    let x := r.1.convBlock c.id p.1 p.2
    (x.1, r.2 ++ x.2)) (d1, [])
  if room then r.1.complete c.id .success 0
  else
    (r.1.updCmd c.id fun x => { x with need := r.2 }).finishDone

/-- A copy of a conventional block that has reached the media: its mark goes, and the buffer's block once no copy on a
healthy head is stale (R91). -/
def Dev.convWritten (d : Dev) (lba copy : Nat) : Dev :=
  let d1 := { d with media := { d.media with stale := d.media.stale.filter fun m => !decide (m.lba = lba ∧ m.copy = copy) } }
  let d2 := if (d1.isStale lba 0 && !d1.copyLost lba 0) || (d1.isStale lba 1 && !d1.copyLost lba 1) then d1
    else d1.onHost fun h => { h with
      dirty := h.dirty.filter fun p => decide (p.1 ≠ lba), poison := h.poison.filter fun x => decide (x ≠ lba) }
  (d2.onHost fun h => { h with cmds := h.cmds.map fun (x : HostCmd) =>
    if x.kind = .convWrite then { x with need := x.need.filter fun n => decide (n ≠ 2 * lba + copy) } else x }).finishDone

/-! ### Zoned writes and appends -/

/-- A zoned write at its arrival (Table 12.3, R333, R334). -/
def Dev.startZoned (d : Dev) (c : HostCmd) : Dev :=
  let zb := d.media.zoneBlocks
  let z := c.lba / zb
  let w : ZWrite := { id := c.id, off := c.lba % zb, len := c.len, data := c.data }
  let o := d.zoneOutcome z w.off w.len
  match o with
  | .inOrder =>
    let m := d.makeRoom z
    if m.1 = .success then m.2.setZone z { m.2.zone z with waiting := (m.2.zone z).waiting ++ [w] }
    else m.2.complete c.id m.1 0
  | .hold =>
    let m := d.makeRoom z
    if m.1 = .success then
      let d1 := m.2.implicitOpen z
      d1.setZone z { d1.zone z with held := (d1.zone z).held ++ [w] }
    else m.2.complete c.id m.1 0
  | o => (o.count d).complete c.id o.status 0

/-- The offset at which an append that arrives now is placed: past the in-order writes that arrived before it (R337). -/
def Dev.appendOff (d : Dev) (z : Nat) : Nat := (d.zone z).wp + ((d.zone z).waiting.map fun w => w.len).sum

/-- A Zone Append at its arrival (R337): never held; refused when it would reach the lowest held write or cross the
capacity. Its LBA names the zone. -/
def Dev.startAppend (d : Dev) (c : HostCmd) : Dev :=
  let zb := d.media.zoneBlocks
  let z := c.lba / zb
  let zn := d.zone z
  let off := d.appendOff z
  if c.lba % zb ≠ 0 then d.complete c.id .invalidField 0
  else if zn.state = 0xF then d.complete c.id .zoneOffline 0
  else if zn.state = 0xD then d.complete c.id .zoneReadOnly 0
  else if zn.state = 0xE then d.complete c.id .zoneFull 0
  else if zn.held.any fun w => decide (w.off < off + c.len) then d.complete c.id .zoneInvalidWrite 0
  else if d.zoneCap < off + c.len then d.complete c.id .zoneBoundary 0
  else
    let m := d.makeRoom z
    if m.1 = .success then
      m.2.setZone z { m.2.zone z with
        waiting := (m.2.zone z).waiting ++ [{ id := c.id, off := off, len := c.len, data := c.data }] }
    else m.2.complete c.id m.1 0

/-! ### Zone actions -/

/-- The poisoned blocks of a bolt of a zone, as a BAD mask. -/
def Zone.poisonMask (zn : Zone) (b : Nat) : Nat :=
  ((List.range 8).map fun i => if zn.poison.contains (8 * b + i) then 2 ^ i else 0).sum

/-- The record of a bolt of a zone as it lies on the media (Table 03.2). -/
def Dev.boltRec (d : Dev) (p : Place) (z b valid : Nat) (data : List Nat) : MediaRec :=
  let surface := match d.band p.band with | none => 0 | some x => x.surface
  { place := surface * 2 ^ 27 + p.track, slot := p.slot, valid := valid, bad := (d.zone z).poisonMask b,
    firstLba := z * d.media.zoneBlocks + 8 * b, nsid := 1, zone := z, wseq := d.media.wseq + 1,
    keygen := d.f Reg.SEC_KEYGEN_GEN, data := data }

/-- The contents of bolt b in a zone's cache, zeros past its end. -/
def Zone.boltData (zn : Zone) (b : Nat) : List Nat :=
  (List.range 8).map fun i => ((zn.cache.find? fun p => decide (p.1 = 8 * b + i)).map fun p => p.2).getD 0

/-- A bolt of a zone that has reached the media leaves the cache (R333, R89): a partial bolt stays until it is whole or
the zone is Full. -/
def Dev.boltWritten (d : Dev) (z b : Nat) : Dev :=
  let zn := d.zone z
  let left := zn.cache.filter fun p => decide (p.1 / 8 ≠ b)
  let d1 := d.setZone z { zn with cache := left, poison := zn.poison.filter fun o => decide (o / 8 ≠ b) }
  { d1 with zq := { d1.zq with
      cacheBlocks := d1.zq.cacheBlocks - (zn.cache.length - left.length)
      released := d1.zq.released.filter fun p => decide (p ≠ (z, b)) } }

/-- The zone's partial bolt written to the media before a finish completes (R341). -/
def Dev.writePartial (d : Dev) (z : Nat) : Dev :=
  let zn := d.zone z
  let b := zn.wp / 8
  if zn.wp % 8 = 0 then d
  else
    match d.mapZoned (z * d.media.zoneBlocks + 8 * b) with
    | none => d
    | some p => (d.storeRec p.band p.pos (d.boltRec p z b (zn.wp % 8) (zn.boltData b))).boltWritten z b

/-- Dirty blocks that are not those of a partial bolt at its zone's write pointer. -/
def Dev.dirtyLeft (d : Dev) : Nat :=
  d.host.dirty.length + (d.zq.zones.map fun p => (p.2.cache.filter fun q => decide (q.1 / 8 < p.2.wp / 8)).length).sum

/-- Every partial bolt made durable on the media, its blocks staying in the buffer (R89). -/
def Dev.flushPartials (d : Dev) : Dev :=
  d.zq.zones.foldl (fun (d : Dev) p =>
    let b := p.2.wp / 8
    if p.2.wp % 8 = 0 ∨ p.2.boltData b = [] ∨ !(p.2.cache.any fun q => decide (q.1 / 8 = b)) then d
    else
      match d.mapZoned (p.1 * d.media.zoneBlocks + 8 * b) with
      | none => d
      | some q => d.storeRec q.band q.pos (d.boltRec q p.1 b (p.2.wp % 8) (p.2.boltData b))) d

/-- Close Zone (R343): held writes keep their slot. -/
def Dev.closeZone (d : Dev) (z : Nat) : Nvme × Dev :=
  let zn := d.zone z
  if zn.state = 0x4 then (.success, d)
  else if zn.isOpen then
    let empty := decide (zn.wp = 0) && zn.held.isEmpty
    (.success, (d.setZone z { zn with state := if empty then 0x1 else 0x4 }).journal 2 z)
  else (.invalidTransition, d)

/-- Open Zone (Table 12.2). -/
def Dev.openZone (d : Dev) (z : Nat) : Nvme × Dev :=
  let zn := d.zone z
  if zn.state = 0x3 then (.success, d)
  else if zn.state = 0x1 ∨ zn.state = 0x2 ∨ zn.state = 0x4 then
    let m := d.makeRoom z
    if m.1 = .success then (.success, (m.2.setZone z { m.2.zone z with state := 0x3 }).journal 2 z) else m
  else (.invalidTransition, d)

/-- Finish Zone (R341): the finish point is WP, WP the capacity, the zone Full; held and waiting writes end. -/
def Dev.finishZone (d : Dev) (z : Nat) : Nvme × Dev :=
  let zn := d.zone z
  if zn.state = 0xE then (.success, d)
  else if zn.state = 0x1 ∨ zn.isActive then
    let d1 := d.completeAll .zoneInvalidWrite (zn.held ++ zn.waiting)
    let d2 := (d1.setZone z { zn with held := [], waiting := [] }).writePartial z
    let d3 := d2.setZone z { d2.zone z with state := 0xE, finish := some zn.wp, wp := d2.zoneCap }
    (.success, d3.journal 4 z)
  else (.invalidTransition, d)

/-- Reset Zone (R342): an Empty zone has nothing to reset. -/
def Dev.resetAct (d : Dev) (z : Nat) : Nvme × Dev :=
  let zn := d.zone z
  if zn.state = 0x1 then (.success, d)
  else if zn.state = 0xF then (.invalidTransition, d)
  else (.success, d.resetZone z)

/-- A Read Only zone gone Offline leaves the reported capacity, the namespace change raised after the zone's (R416). -/
def Dev.capacityFell (d : Dev) (z : Nat) : Dev :=
  let add (c : Ctrl) : Ctrl := { c with changedNs := if 1 ∈ c.changedNs then c.changedNs else c.changedNs ++ [1] }
  (((d.zoneChanged z).onCtrl .A add).onCtrl .B add).raiseAll .namespaceChanged

/-- Offline Zone (Table 16.5): a Read Only zone as a reset, any other zone refused. -/
def Dev.offlineAct (d : Dev) (z : Nat) : Nvme × Dev :=
  if (d.zone z).state = 0xD then (.success, (d.resetZone z).capacityFell z) else (.invalidTransition, d)

/-- One zone's action: 1 Close, 2 Finish, 3 Open, 4 Reset, 5 Offline; any other is not supported (R332, R412). -/
def Dev.zoneDo (d : Dev) (action z : Nat) : Nvme × Dev :=
  match action with
  | 1 => d.closeZone z
  | 2 => d.finishZone z
  | 3 => d.openZone z
  | 4 =>
    let r := d.resetAct z
    if (d.zone z).state = 0xD ∨ ((r.2.zone z).state = 0xF ∧ (d.zone z).state ≠ 0xF) then (r.1, r.2.capacityFell z) else r
  | 5 => d.offlineAct z
  | _ => (.invalidField, d)

/-- The states to which an action applies under Select All (R332; the Zoned Namespace Command Set's sets). -/
def appliesAll (action state : Nat) : Bool :=
  match action with
  | 1 => decide (state = 0x2 ∨ state = 0x3)
  | 2 => decide (state = 0x2 ∨ state = 0x3 ∨ state = 0x4)
  | 3 => decide (state = 0x4)
  | 4 => decide (state = 0x2 ∨ state = 0x3 ∨ state = 0x4 ∨ state = 0xE)
  | 5 => decide (state = 0xD)
  | _ => false

/-- The zones of a list treated in order; the first failure ends the command (R332). -/
def Dev.zoneEach (d : Dev) (action : Nat) : List Nat → Nvme × Dev
  | [] => (.success, d)
  | z :: zs =>
    if appliesAll action (d.zone z).state then
      let r := d.zoneDo action z
      if r.1 = .success then r.2.zoneEach action zs else r
    else d.zoneEach action zs

/-- A zone action on one zone, or on all (R332): zones that are not listed are Empty, and no action applies to them. -/
def Dev.zoneAct (d : Dev) (action z : Nat) (all : Bool) : Nvme × Dev :=
  if 5 < action ∨ action = 0 then (.invalidField, d)
  else if all then d.zoneEach action (d.zq.zones.map Prod.fst)
  else d.zoneDo action z

/-! ### Reports -/

/-- PROTECT of Table 12.6 (R361, R363, R367). -/
def Dev.protect (d : Dev) (z : Nat) : Nat :=
  let zn := d.zone z
  if !d.feltOn then 0
  else if zn.unfelt then 4
  else
    let lost := match d.bandOfZone z with
      | none => false
      | some bi => match d.band bi with | none => false | some b => sget false d.felt.lost b.surface
    if lost then 3 else if zn.debt = 0 then 1 else 2

/-- The descriptor of a zone, with its extension (Table 12.6) when asked. -/
def Dev.zoneDesc (d : Dev) (z : Nat) (ext : Bool) : List (String × Nat) :=
  let zn := d.zone z
  let zb := d.media.zoneBlocks
  let base := [("ZSLBA", z * zb), ("ZCAP", zb), ("ZT", 2), ("ZS", zn.state),
    ("WP", if zn.state = 0xD ∨ zn.state = 0xF then 2 ^ 64 - 1 else z * zb + zn.wp),
    ("ZFC", flag zn.zfc), ("FZR", flag zn.fzr), ("ZDEV", 1)]
  if ext then
    match d.bandOfZone z with
    | none => base
    | some bi =>
      match d.band bi with
      | none => base
      | some b =>
        let inForce := slipsInForce (d.slipsOf bi)
        base ++ [("ACTUATOR", (d.actOf b.surface).idx), ("SURFACE", b.surface), ("RZONE", b.rzone),
          ("PROTECT", d.protect z),
          ("GROUP", match d.groupOf z with | none => 0xFFFFFFFF | some g => g.1),
          ("DEBT", zn.debt), ("SPARES_FREE", b.spares - inForce.length),
          ("SLIPS_GROWN", (inForce.filter fun s => s.grown).length), ("BAND", bi),
          ("RESCUED", zn.rescue.length), ("FINISH", zn.finish.getD (2 ^ 64 - 1))]
  else base

/-- The descriptors of `n` zones from one on, as far as the namespace goes. -/
def Dev.zoneReport (d : Dev) (z n : Nat) (ext : Bool) : List (String × Nat) :=
  (List.range (Nat.min n (d.zq.count - z))).flatMap fun i => d.zoneDesc (z + i) ext

/-! ### Dispatch -/

/-- A command dispatched, its conventional reads preferring copy `first`. -/
def Dev.start (d : Dev) (first : Nat) (c : HostCmd) : Dev :=
  match c.kind with
  | .read => d.startRead c first
  | .convWrite => d.startConv c
  | .zonedWrite => d.startZoned c
  | .append => d.startAppend c
  | .flush => d.complete c.id .success 0
  | .zoneAct action all =>
    let r := d.zoneAct action (c.lba / d.media.zoneBlocks) all
    r.2.complete c.id r.1 0
  | .report n ext part =>
    let z := c.lba / d.media.zoneBlocks
    let left := d.zq.count - z
    (d.giveHost c.id (.fields (("NUMBER_OF_ZONES", if part then Nat.min n left else left) ::
      d.zoneReport z n ext))).complete c.id .success 0

/-- A fetched command takes a context; it is dispatched, or waits for its queue's order (R417 to R419). -/
def Dev.arrive (d : Dev) (first : Nat) (c : HostCmd) : Dev :=
  let marked := c.marked && d.isOrdered c.id
  let wait := d.isOrdered c.id && mustWait d.host.cmds c.id marked
  let c1 := { c with marked := marked, waiting := wait }
  let d1 := d.onHost fun h => { h with cmds := h.cmds ++ [c1] }
  if wait then d1 else d1.start first c1

/-- Commands that wait for their queue's order, dispatched as it allows, oldest first (R419). -/
def Dev.wake (d : Dev) : Nat → Dev
  | 0 => d
  | n + 1 =>
    match d.host.cmds.find? fun c => c.waiting && !(mustWait (d.host.cmds.takeWhile fun x => decide (x.id ≠ c.id)) c.id c.marked) with
    | none => d
    | some c =>
      let c1 := { c with waiting := false }
      ((d.updCmd c.id fun _ => c1).start 0 c1).wake n

/-- The lowest free accumulator pair of an actuator (R355). -/
def Dev.freePair (d : Dev) (a : Act) : Option Nat :=
  (List.range 15).find? fun n => !sget false d.felt.pairs (15 * a.idx + n)

/-- A stride of a zone un-felted before its first new bolt is released (R363): the member's bit leaves the part. -/
def Dev.unfeltStride (d : Dev) (z k : Nat) : Dev :=
  let zn := d.zone z
  if !zn.unfelt || k ∈ zn.unfelted then d
  else
    match d.groupOf z with
    | none => d
    | some (g, j) =>
      let st := d.stride g k
      let had := st.live && testBit st.mask j
      let mask := if had then st.mask - 2 ^ j else st.mask
      let st1 := { st with mask := mask, live := st.live && decide (mask ≠ 0)
                           folded := sset 0 st.folded j 0, cover := sset 0 st.cover j 0 }
      let d1 := (if had then d.dropPart st else d).setStride g k st1
      let d2 :=
        if had && decide (mask ≠ 0) then
          match d1.logBoth (d1.feltGroup g) with
          | none => d1
          | some (p, q, d') => d'.setStride g k { st1 with ploc := p, qloc := q }
        else d1
      let done := zn.unfelted ++ [k]
      let left := (List.range ((d.media.zoneBlocks + 1023) / 1024)).any fun i =>
        decide (i ∉ done) && (d2.stride g i).live && testBit (d2.stride g i).mask j
      d2.setZone z { zn with unfelted := done, unfelt := left, oldSlips := if left then zn.oldSlips else [] }

/-- One accepted bolt released to its Blocker: not before the reads of a reset zone have ended (R342), nor while a
marked bolt of the band awaits its check (R218) or no accumulator pair is free (R355). -/
def Dev.releaseBolt (d : Dev) (z b : Nat) : Dev :=
  let zn := d.zone z
  let hold (w : WritePath) : Bool := w.marked.any fun m => decide (d.bandOfZone z = some m.2.1)
  if (zn.oldReads.any fun id => d.host.cmds.any fun c => decide (c.id = id)) || hold d.wr.a0 || hold d.wr.a1 then d
  else
    match d.mapZoned (z * d.media.zoneBlocks + 8 * b) with
    | none => d
    | some p =>
      match d.band p.band with
      | none => d
      | some bd =>
        let a := d.actOf bd.surface
        let info : TagInfo := { owner := none, lba := z * d.media.zoneBlocks + 8 * b, write := true, copy := 0 }
        let drop (d : Dev) : Dev :=
          { d with zq := { d.zq with released := d.zq.released.filter fun q => decide (q ≠ (z, b)) } }
        if d.feltOn && (d.groupOf z).isSome then
          match d.freePair a with
          | none => d
          | some n =>
            let d1 := d.unfeltStride z (b / 128)
            let d2 := { d1 with felt := { d1.felt with pairs := sset false d1.felt.pairs (15 * a.idx + n) true } }
            drop (d2.askRecord 1 p 0 n info)
        else drop (d.askRecord 1 p 0 0xF info)

/-- Everything that waits only for another command's end: accepted bolts toward the Blockers, and marked commands. -/
def Dev.settle (d : Dev) : Dev :=
  let d1 := d.zq.released.foldl (fun d p => d.releaseBolt p.1 p.2) d
  d1.wake d1.host.cmds.length

end Sys2Proof.Machine
end

