-- ==== Sys2Proof/Machine/Zones.lean ====
section
/-! DEFINITION. Commands of the zoned namespace and of host data: Write, Zone Append, Read, Write Zeroes, Flush, the
zone actions and reports (R328 to R348, R91 to R93, R414 to R424), acceptance and hold expiry (R333, R336), and the
journal's checkpoint (R340). -/

namespace Sys2Proof.Machine

/-- The status of a transfer that its check turned away (R414, Table 14.6). -/
def transferFault : Transfer → Option Nvme
  | .ok => none
  | .guard => some .guardCheck
  | .appTag => some .appTagCheck
  | .refTag => some .refTagCheck
  | .poisoned => some .dataTransferError

/-- The range of a command that its namespace does not hold, or that MDTS does not allow (R413, R415, Table 16.3). -/
def Dev.rangeFault (d : Dev) (ns lba len : Nat) (mdts : Bool) : Option Nvme :=
  let size := if ns = 1 then d.zq.count * d.media.zoneBlocks else d.host.convBlocks
  if ns ≠ 1 ∧ ns ≠ 2 then some .invalidNamespace
  else if mdts && decide (512 < len) then some .invalidField
  else if size < lba + len then some .lbaOutOfRange
  else none

/-- A data command after its range and transfer checks. -/
def Dev.dataDo (d : Dev) (id : CmdId) (ns lba len : Nat) (mdts : Bool) (t : Transfer) (g : Dev → Dev) : Dev :=
  match d.rangeFault ns lba len mdts with
  | some e => d.complete id e 0
  | none => match transferFault t with | some e => d.complete id e 0 | none => g d

/-- A host command as it arrives. -/
def hostCmd (id : CmdId) (kind : HostKind) (ns lba len : Nat) (data : List Nat) (limited marked : Bool) : HostCmd :=
  { id := id, kind := kind, ns := ns, lba := lba, len := len, data := data, need := [], got := [], lost := none,
    limited := limited, marked := marked, waiting := false }

/-- WRITE (R91, R334, R419): a directive is not supported; the data goes to both copies or to the zone queue engine. -/
def execWrite (id : CmdId) (ns lba : Nat) (data : List Nat) (dtype : Nat) (marked : Bool) (t : Transfer) (s : State) :
    Host.Outcome State Fault Refusal :=
  s.next (s.dev.ioDo id fun d =>
    if dtype ≠ 0 then d.complete id .invalidField 0
    else d.dataDo id ns lba data.length true t fun d =>
      (d.arrive 0 (hostCmd id (if ns = 1 then .zonedWrite else .convWrite) ns lba data.length data false
        marked)).settle)

/-- WRITE_ZEROES (Table 16.5): a write of zeros; DEAC is ignored. -/
def execWriteZeroes (id : CmdId) (ns lba len : Nat) (marked : Bool) (s : State) : Host.Outcome State Fault Refusal :=
  s.next (s.dev.ioDo id fun d =>
    d.dataDo id ns lba len false .ok fun d =>
      (d.arrive 0 (hostCmd id (if ns = 1 then .zonedWrite else .convWrite) ns lba len (List.replicate len 0)
        false marked)).settle)

/-- READ (R91 to R93, R418 to R420). `first` is the conventional copy whose actuator can reach it first. -/
def execRead (id : CmdId) (ns lba len : Nat) (limited marked : Bool) (first : Nat) (s : State) :
    Host.Outcome State Fault Refusal :=
  s.next (s.dev.ioDo id fun d =>
    d.dataDo id ns lba len true .ok fun d =>
      if ns = 1 ∧ ((List.range len).any fun i => decide ((d.zone ((lba + i) / d.media.zoneBlocks)).state = 0xF)) then
        d.complete id .zoneOffline 0
      else (d.arrive first (hostCmd id .read ns lba len [] limited marked)).settle)

/-- FLUSH (R421): every completed write is already durable. -/
def execFlush (id : CmdId) (marked : Bool) (s : State) : Host.Outcome State Fault Refusal :=
  s.next (s.dev.ioDo id fun d => (d.arrive 0 (hostCmd id .flush 1 0 0 [] false marked)).settle)

/-- A command of the zoned namespace only (Table 16.5). -/
def Dev.zonedDo (d : Dev) (id : CmdId) (ns lba len : Nat) (g : Dev → Dev) : Dev :=
  if ns = 2 then d.complete id .invalidOpcode 0
  else
    match d.rangeFault ns lba len false with
    | some e => d.complete id e 0
    | none => g d

/-- ZONE_APPEND (R337). -/
def execZoneAppend (id : CmdId) (ns lba : Nat) (data : List Nat) (marked : Bool) (t : Transfer) (s : State) :
    Host.Outcome State Fault Refusal :=
  s.next (s.dev.ioDo id fun d =>
    d.zonedDo id ns lba 1 fun d =>
      if 512 < data.length then d.complete id .invalidField 0
      else
        match transferFault t with
        | some e => d.complete id e 0
        | none => (d.arrive 0 (hostCmd id .append 1 lba data.length data false marked)).settle)

/-- A Zone Management Send. -/
def Dev.zoneSend (d : Dev) (id : CmdId) (ns lba action : Nat) (all marked : Bool) : Dev :=
  d.ioDo id fun d =>
    d.zonedDo id ns (if all then 0 else lba) 1 fun d =>
      (d.arrive 0 (hostCmd id (.zoneAct action all) 1 lba 0 [] false marked)).settle

/-- OPEN_ZONE (R330, R331). -/
def execOpenZone (id : CmdId) (ns lba : Nat) (all marked : Bool) (s : State) : Host.Outcome State Fault Refusal :=
  s.next (s.dev.zoneSend id ns lba 3 all marked)

/-- CLOSE_ZONE (R343). -/
def execCloseZone (id : CmdId) (ns lba : Nat) (all marked : Bool) (s : State) : Host.Outcome State Fault Refusal :=
  s.next (s.dev.zoneSend id ns lba 1 all marked)

/-- FINISH_ZONE (R341). -/
def execFinishZone (id : CmdId) (ns lba : Nat) (all marked : Bool) (s : State) : Host.Outcome State Fault Refusal :=
  s.next (s.dev.zoneSend id ns lba 2 all marked)

/-- RESET_ZONE (R342, R346, R362, R363). -/
def execResetZone (id : CmdId) (ns lba : Nat) (all marked : Bool) (s : State) : Host.Outcome State Fault Refusal :=
  s.next (s.dev.zoneSend id ns lba 4 all marked)

/-- OFFLINE_ZONE (Table 16.5, R368). -/
def execOfflineZone (id : CmdId) (ns lba : Nat) (all marked : Bool) (s : State) : Host.Outcome State Fault Refusal :=
  s.next (s.dev.zoneSend id ns lba 5 all marked)

/-- SET_ZONE_DESCRIPTOR_EXTENSION (R332): Invalid Field in Command. -/
def execSetZoneDescriptorExtension (id : CmdId) (ns lba : Nat) (all marked : Bool) (s : State) :
    Host.Outcome State Fault Refusal :=
  s.next (s.dev.zoneSend id ns lba 0x10 all marked)

/-- A Zone Management Receive. -/
def Dev.zoneReceive (d : Dev) (id : CmdId) (ns lba count : Nat) (ext part marked : Bool) : Dev :=
  d.ioDo id fun d =>
    d.zonedDo id ns lba 1 fun d => (d.arrive 0 (hostCmd id (.report count ext part) 1 lba 0 [] false marked)).settle

/-- REPORT_ZONES (R328). -/
def execReportZones (id : CmdId) (ns lba count : Nat) (part marked : Bool) (s : State) :
    Host.Outcome State Fault Refusal :=
  s.next (s.dev.zoneReceive id ns lba count false part marked)

/-- EXTENDED_REPORT_ZONES (R348). -/
def execExtendedReportZones (id : CmdId) (ns lba count : Nat) (part marked : Bool) (s : State) :
    Host.Outcome State Fault Refusal :=
  s.next (s.dev.zoneReceive id ns lba count true part marked)

/-! ### Acceptance, expiry, checkpoint -/

/-- The whole bolts of a zone written to the media ahead of a write-through acceptance (R424), contributing to felt. -/
def Dev.throughBolts (d : Dev) (z : Nat) : List (Nat × Nat) → Dev
  | [] => d
  | (_, b) :: bs =>
    (match d.mapZoned (z * d.media.zoneBlocks + 8 * b) with
      | none => d
      | some p =>
        ((d.storeRec p.band p.pos (d.boltRec p z b 8 ((d.zone z).boltData b))).boltWritten z b).foldBolt z b).throughBolts z bs

/-- What an append returns: its LBA (R337). -/
def Dev.acceptDw0 (d : Dev) (z : Nat) (w : ZWrite) : Nat :=
  if d.host.cmds.any fun c => decide (c.id = w.id ∧ c.kind = .append) then z * d.media.zoneBlocks + w.off else 0

/-- The status that an in-order write meets when its turn comes, if its zone has changed since it arrived. -/
def Dev.acceptFault (d : Dev) (z : Nat) (w : ZWrite) : Option Nvme :=
  let zn := d.zone z
  if zn.state = 0xF then some .zoneOffline
  else if zn.state = 0xD then some .zoneReadOnly
  else if zn.state = 0xE then some .zoneFull
  else if w.off ≠ zn.wp then some .zoneInvalidWrite
  else none

/-- WRITE_ACCEPT (R333, R334, R346, R355, R424): the data of an in-order write is in the buffer, or, while the vault is
not armed, on the media. Without room, a free journal record or a scratch slot it goes on waiting. -/
def Dev.writeAccept (d : Dev) (z : Nat) (id : CmdId) (onMedia : Bool) : Dev :=
  let zn := d.zone z
  match zn.waiting.find? fun w => decide (w.id = id) with
  | none => d
  | some w =>
    let gone := d.setZone z { zn with waiting := zn.waiting.filter fun v => decide (v.id ≠ id) }
    match d.acceptFault z w with
    | some e => gone.complete id e 0
    | none =>
      let room := decide (w.len ≤ d.cacheRoom)
      if ((d.armed && room) || onMedia) && decide (d.zq.ring.length < 262144) && d.feltRoom z then
        let m := d.makeRoom z
        if m.1 = .success then
          let d1 := m.2.acceptWrite z w (d.acceptDw0 z w)
          if d.armed && room then d1 else d1.throughBolts z (boltsBetween z (w.off / 8) ((d1.zone z).wp / 8))
        else gone.complete id m.1 0
      else d

def execWriteAccept (z : Nat) (id : CmdId) (onMedia : Bool) (s : State) : Host.Outcome State Fault Refusal :=
  s.next ((s.dev.writeAccept z id onMedia).sealZone z).settle

/-- HOLD_EXPIRED (R336): a held write's wait has reached ZQE_CFG.HOLD. -/
def execHoldExpired (z : Nat) (id : CmdId) (s : State) : Host.Outcome State Fault Refusal :=
  let zn := s.dev.zone z
  s.next (if zn.held.any fun w => decide (w.id = id) then
    (((s.dev.setZone z { zn with held := zn.held.filter fun w => decide (w.id ≠ id) }).bumpF
      Reg.ZQE_CNT_EXPIRED 1).complete id .zoneInvalidWrite 0).settle
    else s.dev)

/-- JOURNAL_CHECKPOINT (R340): with a checkpoint due, a new zone state image under R94 and a TYPE 6 record that names
the last record the image holds; the ring before it is freed. -/
def Dev.checkpoint (d : Dev) : Dev :=
  let seq := d.f Reg.ZQE_JRNL_SEQ_SEQ
  let mark : JrnlRec := { type := 6, zone := 0, state := 0, attr := 0, wp := 0, seq := seq, good := true }
  let d1 := { d with
    zq := { d.zq with image := d.zq.zones, imageSeq := seq, ring := [mark] }
    felt := { d.felt with image := d.felt.strides }
    media := { d.media with sysSeq := { x := d.media.sysSeq.x + 1, y := d.media.sysSeq.x + 1 } } }
  d1.setF Reg.ZQE_JRNL_FILL_CKPT 0

def execJournalCheckpoint (s : State) : Host.Outcome State Fault Refusal :=
  s.next (if s.dev.f Reg.ZQE_JRNL_FILL_CKPT = 1 ∧ s.dev.media.sysRebuild = none then s.dev.checkpoint else s.dev)

end Sys2Proof.Machine
end

