-- ==== Sys2Proof/Machine/Felt.lean ====
section
/-! DEFINITION. Felt parity at work: checkpoints (R360, R361), garbage collection (R359), the loss of a head (R367,
R368, R95) and the location and solution of a missing bolt (R364). -/

namespace Sys2Proof.Machine

/-- A felt event record appended to the vendor log, at most 1,024 (Table 13.5). -/
def Dev.feltEvent (d : Dev) (type surface groups zones capacity zone : Nat) : Dev :=
  let e : FeltEvent :=
    { type := type, surface := surface, head := headArg (d.actOf surface) (d.headOf surface), groups := groups,
      zones := zones, capacity := capacity, zone := zone, time := d.clock.nowNs / 1000000 }
  let l := d.felt.events ++ [e]
  { d with felt := { d.felt with events := if 1024 < l.length then l.drop 1 else l } }

/-! ### Checkpoints -/

/-- One slot's checkpoint: its older half written with COVER, the covered bolts out of debt (R360, R361). -/
def Dev.checkpointStride (d : Dev) (g k : Nat) : Dev :=
  let st := d.stride g k
  if st.opened && st.dirty then
    (d.coverAll (d.feltGroup g) st st.folded).setStride g k
      { st with cover := st.folded, half := 1 - st.half, dirty := false }
  else d

/-- FELT_CHECKPOINT (R360). -/
def execFeltCheckpoint (s : State) : Host.Outcome State Fault Refusal :=
  s.next (if s.dev.feltOn then
    s.dev.felt.strides.foldl (fun d p => d.checkpointStride (p.1 / 128) (p.1 % 128)) s.dev
  else s.dev)

/-! ### Garbage collection -/

/-- A stride's halves that lie in one log band moved to the surface's open band (R359 step 2). -/
def Dev.moveStride (d : Dev) (surface band : Nat) (key : Nat) : Dev :=
  let st := sget Stride.none d.felt.strides key
  let here (loc : Nat) : Bool := decide (loc / 2 ^ 14 = surface * 2 ^ 13 + band)
  if !st.live then d
  else if here st.ploc then
    match d.logWrite surface with
    | none => d
    | some (l, d1) => { d1 with felt := { d1.felt with strides := sset Stride.none d1.felt.strides key { st with ploc := l } } }
  else if here st.qloc && decide (d.f Reg.FLT_CFG_PAR = 2) then
    match d.logWrite surface with
    | none => d
    | some (l, d1) => { d1 with felt := { d1.felt with strides := sset Stride.none d1.felt.strides key { st with qloc := l } } }
  else d

/-- The closed log band of a surface with the fewest live records. -/
def Dev.gcVictim (d : Dev) (surface : Nat) : Option LogBand :=
  ((sget [] d.felt.log surface).drop 1).foldl (fun (m : Option LogBand) b =>
    match m with | none => some b | some x => if b.live < x.live then some b else m) none

/-- A part in a log band is in use by a running reconstruction (R359). -/
def Dev.bandInUse (d : Dev) (surface band : Nat) : Bool :=
  (d.det.a0.recon ++ d.det.a1.recon).any fun r =>
    match d.zoneOfBand r.band with
    | none => false
    | some z =>
      match d.groupOf z with
      | none => false
      | some (g, _) => d.felt.strides.any fun p => decide (p.1 / 128 = g) && p.2.live &&
          decide (p.2.ploc / 2 ^ 14 = surface * 2 ^ 13 + band ∨ p.2.qloc / 2 ^ 14 = surface * 2 ^ 13 + band)

/-- One round of collection on a surface. -/
def Dev.gcRound (d : Dev) (surface : Nat) : Dev :=
  match d.gcVictim surface with
  | none => d
  | some b =>
    let used := d.bandInUse surface b.no
    let d1 := (d.felt.strides.map Prod.fst).foldl (fun d k => d.moveStride surface b.no k) d
    if used then d1
    else { d1 with felt := { d1.felt with
        log := sset [] d1.felt.log surface ((sget [] d1.felt.log surface).filter fun x => decide (x.no ≠ b.no)) } }

/-- Rounds until the free count reaches STOP (R359). -/
def Dev.gcRun (d : Dev) (surface : Nat) : Nat → Dev
  | 0 => d
  | n + 1 => if d.f Reg.FLT_GC_STOP ≤ d.logFree surface then d else (d.gcRound surface).gcRun surface n

/-- GARBAGE_COLLECTION (R359): a surface whose free log positions have fallen to START; above START ÷ 2 deferred from
throttle level 1 (R369 item 6, R527). -/
def execGarbageCollection (surface : Nat) (s : State) : Host.Outcome State Fault Refusal :=
  s.next (if s.dev.feltOn && decide (s.dev.logFree surface ≤ s.dev.f Reg.FLT_GC_START) &&
      decide (s.dev.f Reg.PDM_THERM_STATUS_LEVEL = 0 ∨ s.dev.logFree surface < s.dev.f Reg.FLT_GC_START / 2) then
    s.dev.gcRun surface (sget [] s.dev.felt.log surface).length else s.dev)

/-! ### Losing a head -/

/-- The zones of a surface, in order. -/
def Dev.zonesOn (d : Dev) (surface : Nat) : List Nat :=
  (d.media.zoneMap.filter fun p => match p.2 with
    | none => false
    | some bi => match d.band bi with | none => false | some b => decide (b.surface = surface)).map Prod.fst

/-- A zone goes Read Only with its member marked LOST, and Zone Descriptor Changed is raised (R367 step 1). Accepted
data that the head no longer takes is rescued (R222, R345). An un-felting zone's old data cannot be read, so it goes
Offline at once (R363). -/
def Dev.loseZone (d : Dev) (z : Nat) : Dev :=
  if (d.zone z).state = 0xF then d
  else
    let d0 := if (d.zone z).cache.isEmpty then d else d.rescueZone z
    let zn := d0.zone z
    let d1 := (d0.setZone z { zn with state := if zn.unfelt then 0xF else 0xD, unfelt := false }).journal 2 z
    let d2 := match d1.groupOf z with
      | none => d1
      | some (g, j) => { d1 with felt := { d1.felt with lostMembers := sset false d1.felt.lostMembers (32 * g + j) true } }
    if zn.unfelt then { d2.capacityFell z with zq := { d2.zq with offline := d2.zq.offline + 1 } } else d2.zoneChanged z

/-- The lowest healthy surface that holds no member of a group and not its other parity (R367 step 4). -/
def Dev.paritySpare (d : Dev) (e : FeltGroup) (other : Nat) : Option Nat :=
  (List.range d.nSurf).find? fun s =>
    !sget false d.felt.lost s && decide (s ≠ other) && !(e.members.any fun m => decide (m.1 = s))

/-- The lost parity of one group recomputed onto a healthy surface (R367 step 4). -/
def Dev.refeltGroup (d : Dev) (surface g : Nat) : Dev :=
  let e := d.feltGroup g
  let move (p q : Nat) (d : Dev) : Dev := { d with felt := { d.felt with moved := sset none d.felt.moved g (some (p, q)) } }
  let keys := (d.felt.strides.filter fun p => decide (p.1 / 128 = g) && p.2.live).map Prod.fst
  let write (isP : Bool) (dest : Nat) (d : Dev) : Dev :=
    keys.foldl (fun d k =>
      match d.logWrite dest with
      | none => d
      | some (l, d1) =>
        let st := sget Stride.none d1.felt.strides k
        let st1 := if isP then { st with ploc := l } else { st with qloc := l }
        { d1 with felt := { d1.felt with strides := sset Stride.none d1.felt.strides k st1 } }) d
  if e.psurf = surface then
    match d.paritySpare e e.qsurf with | none => d | some s => write true s (move s e.qsurf d)
  else if e.qsurf = surface ∧ d.f Reg.FLT_CFG_PAR = 2 then
    match d.paritySpare e e.psurf with | none => d | some s => write false s (move e.psurf s d)
  else d

/-- The copy of the system area on a failed surface rebuilt on the next-lowest healthy surface of its actuator (R95). -/
def Dev.rebuildSys (d : Dev) (surface : Nat) : Dev :=
  let a := d.actOf surface
  let low := a.idx * d.conf.nh
  let next := (List.range d.conf.nh).find? fun h => !sget false d.felt.lost (low + h)
  let fix (i : Nat) (d : Dev) : Dev :=
    if d.media.sysHome.get i = surface then
      match next with
      | none => d
      | some h => { d with media := { d.media with
          sysHome := d.media.sysHome.set i (low + h)
          sysSeq := d.media.sysSeq.set i (d.media.sysSeq.get (1 - i)) } }
    else d
  fix 1 (fix 0 d)

/-- A Read Only zone with WP 0 reset by the device, which takes it Offline (R368). -/
def Dev.autoOffline (d : Dev) (z : Nat) : Dev :=
  if (d.zone z).state = 0xD ∧ (d.zone z).wp = 0 then
    let surface := match d.bandOfZone z with
      | none => 0
      | some bi => match d.band bi with | none => 0 | some b => b.surface
    let n := ((d.felt.depop.find? fun p => decide (p.2.1 = surface)).map fun p => p.2.2).getD 0
    let d1 := ((d.resetZone z).capacityFell z).feltEvent 3 surface 0 1 (d.media.zoneBlocks * 4096) z
    { d1 with felt := { d1.felt with depop :=
        (d1.headOf surface, surface, n + 1) :: d1.felt.depop.filter fun p => decide (p.2.1 ≠ surface) } }
  else d

/-- A head becomes failing (R222, R367, Table 23.3): nothing happens a second time. -/
def Dev.headFailing (d : Dev) (a : Act) (h : Nat) : Dev :=
  let s := a.idx * d.conf.nh + h
  if sget false d.felt.lost s then d
  else
    let zs := d.zonesOn s
    let gs := (List.range d.groupCount).filter fun g => (d.feltGroup g).psurf = s ∨ (d.feltGroup g).qsurf = s ∨
      (d.feltGroup g).members.any fun m => decide (m.1 = s)
    let d0 := { d with felt := { d.felt with lost := sset false d.felt.lost s true } }
    let d1 := zs.foldl Dev.loseZone d0
    let d2 := d1.feltEvent 1 s gs.length zs.length 0 0
    let d3 := (List.range d2.groupCount).foldl (fun d g => d.refeltGroup s g) d2
    let d4 := (d3.event Ev.headFailing .flt (headArg a h) s).feltEvent 2 s gs.length zs.length 0 0
    let warned := decide (d.f ((Reg.WAS_HH_WARN.nth h).on a) = 1)
    let d5 := (if warned then d4 else d4.raiseAll .headHealth).setF ((Reg.WAS_HH_FAILED.nth h).on a) 1
    zs.foldl Dev.autoOffline (d5.rebuildSys s)

/-! ### Locating and solving a bolt -/

/-- The bolt index that a band position holds under the slips in force, and whether it holds one (R88 inverted). -/
def boltAt (slips : List Slip) (p : Nat) : Option Nat :=
  if slips.any fun s => decide (s.pos = p) then none
  else some (p - (slips.filter fun s => decide (s.pos < p)).length)

/-- What a reconstruction starts from (R364 step 1): group, member, stride, record and the other member positions. -/
structure ReconPlan where
  group : Nat
  member : Nat
  stride : Nat
  rec0 : Nat
  others : List Nat
deriving DecidableEq, Repr

/-- Locate the live part whose mask holds the member, or the open slot whose checkpoint covers the bolt (R364). -/
def Dev.locate (d : Dev) (z b : Nat) : Option ReconPlan :=
  match d.groupOf z with
  | none => none
  | some (g, j) =>
    let st := d.stride g (b / 128)
    let r := b % 128
    let all := List.range (d.feltGroup g).members.length
    if st.live && testBit st.mask j then
      some { group := g, member := j, stride := b / 128, rec0 := r,
             others := all.filter fun i => decide (i ≠ j) && testBit st.mask i }
    else if st.opened && decide (r < sget 0 st.cover j) then
      some { group := g, member := j, stride := b / 128, rec0 := r,
             others := all.filter fun i => decide (i ≠ j ∧ r < sget 0 st.cover i) }
    else none

/-- The members that count as missing besides the wanted one: LOST, or failed at rungs 0 to 2 (R364 steps 2 and 3). -/
def Dev.missingOf (d : Dev) (p : ReconPlan) (o : SourceReads) : List Nat :=
  let e := d.feltGroup p.group
  p.others.filter fun i => decide (i ∈ o.missing) || (match e.members[i]? with | none => true | some m => m.2.2)

/-- The solution of one byte column (R353), none when too many sources are missing. -/
def solveColumn (j : Nat) (missing : List Nat) (pOk qOk : Bool) (c : List (Nat × Nat) × Nat × Nat) : Option Nat :=
  let there := c.1.filter fun m => decide (m.1 ∉ missing ∧ m.1 ≠ j)
  match missing with
  | [] => if pOk then some (solveP c.2.1 there) else if qOk then some (solveQ c.2.2 j there) else none
  | [k] =>
    if pOk && qOk then
      if j < k then some (solveTwo c.2.1 c.2.2 j k there).1 else some (solveTwo c.2.1 c.2.2 k j there).2
    else none
  | _ => none

/-- The cause that fails a reconstruction (FLT_EVT.CAUSE), none when it is solved. -/
def Dev.reconCause (d : Dev) (p : Option ReconPlan) (o : SourceReads) : Option Nat :=
  match p with
  | none => some 1
  | some p =>
    let e := d.feltGroup p.group
    let pOk := !o.pBad && !sget false d.felt.lost e.psurf
    let qOk := decide (d.f Reg.FLT_CFG_PAR = 2) && !o.qBad && !sget false d.felt.lost e.qsurf
    if o.parityPoison then some 4
    else
      match d.missingOf p o with
      | [] => if pOk || qOk then none else some 2
      | [_] => if pOk && qOk then none else some 2
      | _ => some 2

/-- The bytes solved from the columns read. -/
def Dev.solveBytes (d : Dev) (p : ReconPlan) (o : SourceReads) : List Byte :=
  let e := d.feltGroup p.group
  let pOk := !o.pBad && !sget false d.felt.lost e.psurf
  let qOk := decide (d.f Reg.FLT_CFG_PAR = 2) && !o.qBad && !sget false d.felt.lost e.qsurf
  o.columns.map fun c => BitVec.ofNat 8 ((solveColumn p.member (d.missingOf p o) pOk qOk c).getD 0)

/-- A failed reconstruction counted and the first latched (R366). -/
def Dev.reconFailed (d : Dev) (z cause : Nat) : Dev :=
  let d1 := d.bumpF Reg.FLT_CNT_RECON_FAIL 1
  let d2 := if d1.f Reg.FLT_EVT_VALID = 1 then d1
    else ((d1.setF Reg.FLT_EVT_VALID 1).setF Reg.FLT_EVT_CAUSE cause).setF Reg.FLT_EVT_ZONE z
  let surface := match d2.bandOfZone z with
    | none => 0
    | some bi => match d2.band bi with | none => 0 | some b => b.surface
  d2.feltEvent 4 surface 0 0 0 z

end Sys2Proof.Machine
end

