-- ==== Sys2Proof/Machine/Write.lean ====
section
/-! DEFINITION. The write path and the energy assist lane (chapter 07): heater drive and unwinds, write gates and their
checks, inhibits and write faults, the assist lane and its loop, marked bolts, aging and head health. -/

namespace Sys2Proof.Machine

/-! ### The Blocker's place -/

/-- The band and position of the current DATA entry's record. -/
def Blocker.place (b : Blocker) : Option (Nat × Nat) :=
  match b.plank.bind, b.entry with
  | some x, some e => if e.kind = 1 then some (x.band, x.track * x.slots + e.slot) else none
  | _, _ => none

/-- The head selected on a link. -/
def Dev.head (d : Dev) (a : Act) : Nat := d.paF a Reg.PA_HEAD_HEAD

/-- The kind of the bound band: 0 and 1 shingled, 2 and 3 conventional. -/
def Dev.boundBand (d : Dev) (a : Act) : Option BandRec :=
  match (d.blk.get a).plank.bind with
  | none => none
  | some x => d.band x.band

/-! ### Heater drive -/

/-- STEP[s] of R196. -/
def Dev.heaterStepVal (d : Dev) (a : Act) (s : Nat) : Int :=
  if s = 0 then 0
  else if s = 1 then signed 8 (bits (sget 0 (d.wr.get a).wrec 3) 23 16)
  else signed 8 (d.f ((Reg.WAS_HTR_STEP_DELTA.nth (s - 2)).on a))

/-- The heater code of a head with a given back-off (R196). -/
def Dev.heaterCodeBo (d : Dev) (a : Act) (h bo : Nat) : Nat :=
  let w := d.wr.get a
  let c : Int := (bits (sget 0 w.wrec 3) 31 24 : Int) + d.heaterStepVal a (sget 0 w.step h) - bo
  if c < 0 then 0 else Nat.min 255 c.toNat

def Dev.heaterCode (d : Dev) (a : Act) (h : Nat) : Nat := d.heaterCodeBo a h (sget 0 (d.wr.get a).bo h)

/-- A heater code put on the launch lane when it differs from the last sent (R196). -/
def Dev.sendCode (d : Dev) (a : Act) (h c : Nat) : Dev :=
  if sget 0 (d.wr.get a).code h = c then d
  else (d.onWr a fun w => { w with code := sset 0 w.code h c }).launch a 0x4 (256 * h + c)

def Dev.sendHeater (d : Dev) (a : Act) (h : Nat) : Dev := d.sendCode a h (d.heaterCode a h)

/-- A head is unwinding (R215). -/
def Dev.unwinding (d : Dev) (a : Act) (h : Nat) : Bool := decide (sget 0 (d.wr.get a).unwind h ≠ 0)

/-- A heater step on the selected head (R196); during an unwind only the target changes (R216). -/
def Dev.heater (d : Dev) (a : Act) (st : Nat) : Dev :=
  let h := d.head a
  let d1 := d.onWr a fun w => { w with step := sset 0 w.step h st }
  if d1.unwinding a h then d1 else d1.sendHeater a h

/-- One edge of a head's unwind (R215): half of the difference, then the rest. -/
def Dev.unwindHead (d : Dev) (a : Act) (h : Nat) : Dev :=
  let n := sget 0 (d.wr.get a).unwind h
  let goal := d.heaterCodeBo a h 0
  let now := sget 0 (d.wr.get a).code h
  if n = 0 then d
  else
    let d1 := d.onWr a fun w => { w with unwind := sset 0 w.unwind h (n - 1) }
    if n = 2 then
      d1.sendCode a h (if now ≤ goal then now + (goal - now) / 2 else now - (now - goal) / 2)
    else d1.sendCode a h goal

/-! ### The assist lane -/

def Dev.asState (d : Dev) (a : Act) : Nat := d.f (Reg.WAS_AS_STATUS_STATE.on a)
def Dev.asHead (d : Dev) (a : Act) : Nat := d.f (Reg.WAS_AS_STATUS_HEAD.on a)

/-- The type of a head (R204): 0 without an assist lane. -/
def Dev.asType (d : Dev) (a : Act) (h : Nat) : Nat :=
  if d.hasAssist a then d.f ((Reg.WAS_AS_HEAD_TYPE.nth h).on a) else 0

def Dev.asIlim (d : Dev) (a : Act) (h : Nat) : Nat := d.f ((Reg.WAS_AS_HEAD_ILIM.nth h).on a)
def Dev.asPrelead (d : Dev) (a : Act) (h : Nat) : Nat := d.f ((Reg.WAS_AS_HEAD_PRELEAD.nth h).on a)
def Dev.asPbHold (d : Dev) (a : Act) (h : Nat) : Nat := d.f ((Reg.WAS_AS_HEAD_PB_HOLD.nth h).on a)

/-- The bound rate zone. -/
def Dev.boundZone (d : Dev) (a : Act) : Nat := match (d.chn.get a).key with | some k => k.2 | none => 0

/-- Word i of the assist record of a head, rate zone and temperature band (R205). -/
def Dev.asTable (d : Dev) (a : Act) (h z b i : Nat) : Word :=
  d.tword (Tbl.assist a) (32 * (256 * h + 4 * z + b) + 4 * i)

/-- A word of the latched record. -/
def Dev.asWord (d : Dev) (a : Act) (i : Nat) : Word := sget 0 (d.assist.get a).record i

def Dev.spBias (d : Dev) (a : Act) : Nat := bits (d.asWord a 1) 25 16
def Dev.spOp (d : Dev) (a : Act) : Nat := bits (d.asWord a 1) 9 0

def Dev.asTrim (d : Dev) (a : Act) : Int := signed 16 (d.f (Reg.WAS_AS_LOOP_TRIM.on a))

/-- The assist drive moved to a DAC code: `mode` 0 a step, 1 the off-to-bias ramp, 2 the bias-to-operate ramp. -/
def Dev.asLevel (d : Dev) (a : Act) (mode level : Nat) : Dev :=
  (d.setF (Reg.WAS_AS_STATUS_LEVEL.on a) level).launch a 0x3 (1024 * mode + level % 1024)

/-- The lane goes off (R208, R215): level 0, BO 0 with an unwind, no record kept. -/
def Dev.laneOff (d : Dev) (a : Act) : Dev :=
  if d.asState a = 0 then d
  else
    let d1 := ((d.setF (Reg.WAS_AS_STATUS_STATE.on a) 0).asLevel a 0 0).startUnwind a (d.asHead a)
    d1.onAssist a fun l => { l with record := [], backOffBegun := false, operated := false, frameDue := false }

/-- An assist fault latched, counted and penalised (R214). -/
def Dev.assistFault (d : Dev) (a : Act) (kind : Nat) : Dev :=
  let d1 := d.bumpF (Reg.WAS_AS_CNT_FAULTS.on a) 1
  let d2 := if d1.f (Reg.WAS_AS_FAULT_VALID.on a) = 1 then d1
    else ((d1.setF (Reg.WAS_AS_FAULT_VALID.on a) 1).setF (Reg.WAS_AS_FAULT_KIND.on a) kind).setF
      (Reg.WAS_AS_FAULT_HEAD.on a) (d1.head a)
  if kind = 1 ∨ kind = 2 then d2.onWr a fun w => { w with reqFaults := w.reqFaults ||| 1 } else d2

/-- The temperature band of a thermal diode reading with 2 °C of hysteresis (R207). -/
def Dev.tempBand (d : Dev) (a : Act) (t : Int) : Nat :=
  let now := (d.assist.get a).band
  let th : List Int := [d.f (Reg.WAS_AS_TBAND_T1.on a), d.f (Reg.WAS_AS_TBAND_T2.on a), d.f (Reg.WAS_AS_TBAND_T3.on a)]
  let raw := (th.filter fun x => decide (x ≤ t)).length
  let held := (th.filter fun x => decide (x - 2 < t)).length
  if raw < now then Nat.min now held else raw

/-- AG code 1 (R205, R208): the record of the current band is latched, the lane ramps to SP_BIAS and BO is BO_PRE. -/
def Dev.preBias (d : Dev) (a : Act) (f : Fetch) : Dev :=
  let h := d.head a
  if d.asType a h = 0 then d
  else
    let d0 := if f = .good then d else d.event Ev.rzRecord (.was a) (headArg a h) (d.boundZone a)
    if f = .bothBad then
      ((d0.onAssist a fun l => { l with recBad := true }).assistFault a 5).reportFault (.record a) 7
    else
      let b := (d.assist.get a).band
      let words := (List.range 8).map fun i => d.asTable a h (d.boundZone a) b i
      let d1 := d0.onAssist a fun l => { l with
        record := ssetList 0 [] 0 words, recBad := false, sincePre := 0, idle := 0, backOffBegun := false }
      let d2 := ((d1.setF (Reg.WAS_AS_STATUS_STATE.on a) 1).setF (Reg.WAS_AS_STATUS_HEAD.on a) h).setF
        (Reg.WAS_AS_STATUS_BAND.on a) b
      let d3 := d2.asLevel a 1 (bits (words.getD 1 0) 25 16)
      ((d3.onWr a fun w => { w with unwind := sset 0 w.unwind h 0 }).setBo a h (bits (words.getD 3 0) 31 24)).sendHeater a h

/-- The heater back-off that precedes an armed pre-bias stamp (R208). -/
def Dev.backOffStart (d : Dev) (a : Act) : Dev :=
  let h := d.head a
  if d.asType a h = 0 then d
  else
    let w := d.asTable a h (d.boundZone a) (d.assist.get a).band 3
    ((d.onAssist a fun l => { l with backOffBegun := true }).setBo a h (bits w 31 24)).sendHeater a h

/-- The level while a gate is open: SP_OP plus the trim (R209). -/
def Dev.operateLevel (d : Dev) (a : Act) : Nat := ((d.spOp a : Int) + d.asTrim a).toNat

/-- AG code 2 (R208): a lane in pre-bias becomes operate-armed with BO_OP. -/
def Dev.operate (d : Dev) (a : Act) : Dev :=
  let h := d.head a
  if d.asType a h = 0 ∨ d.asState a = 0 then d
  else ((d.setF (Reg.WAS_AS_STATUS_STATE.on a) 2).setBo a h (bits (d.asWord a 3) 23 16)).sendHeater a h

/-- The bias-to-operate ramp before a write gate (R209). -/
def Dev.operateRamp (d : Dev) (a : Act) : Dev :=
  if d.asType a (d.head a) ≠ 0 ∧ d.asState a = 2 then
    (d.asLevel a 2 (d.operateLevel a)).onAssist a fun l => { l with operated := true }
  else d

/-! ### Gates, inhibits and write faults -/

/-- The write gate closed; an operating lane returns to bias and its idle count restarts (R209, R210). -/
def Dev.closeWrite (d : Dev) (a : Act) : Dev :=
  if (d.blk.get a).wg then
    let d1 := (d.onBlk a fun b => { b with wg := false }).launch a 0x2 0
    if d1.asState a = 2 then (d1.asLevel a 0 (d1.spBias a)).onAssist a fun l => { l with idle := 0 } else d1
  else d

/-- The read gate closed before the end of its field cuts the record read (R582). -/
def Dev.cutRead (d : Dev) (a : Act) : Dev :=
  d.onBlk a fun b =>
    match b.frag with
    | some r => if r.write then { b with rg := false } else { b with rg := false, frag := none, cut := true }
    | none => { b with rg := false }

/-- A record cut with some fragment written is condemned at its position in a shingled band (R202). -/
def Dev.condemnCut (d : Dev) (a : Act) : Dev :=
  let n := (d.wr.get a).fragsWritten
  let d1 := d.onWr a fun w => { w with fragsWritten := 0 }
  match (d.blk.get a).recOpen with
  | none => d1
  | some p =>
    match d.band p.1 with
    | none => d1
    | some b => if n ≠ 0 ∧ (b.kind = 0 ∨ b.kind = 1) then d1.condemn p.1 p.2.1 else d1

/-- Causes that do not count toward the limit of R203. -/
def exemptCause (c : Nat) : Bool := decide (c = 0x2 ∨ c = 0xC ∨ c = 0xE ∨ c = 0xD)

/-- Four faults in a row on one record (R203): the zone is rescued (R345). -/
def Dev.recordLimit (d : Dev) (a : Act) : Dev :=
  if (d.wr.get a).faultRun < 4 then d
  else
    let d1 := d.onWr a fun w => { w with faultRun := 0 }
    match (d.blk.get a).plank.bind with
    | none => d1
    | some x => match d1.zoneOfBand x.band with | none => d1 | some z => d1.rescueZone z

/-- A write fault (R201, R202): the gate closed, the cause latched and counted, WRITE_FAULT pending, WRITE_OK false. -/
def Dev.writeFault (d : Dev) (a : Act) (cause : Nat) : Dev :=
  let d1 := d.closeWrite a
  let d2 := if d1.f (Reg.WAS_WF_LOG_VALID.on a) = 1 then d1
    else (((d1.setF (Reg.WAS_WF_LOG_VALID.on a) 1).setF (Reg.WAS_WF_LOG_HEAD.on a) (d1.head a)).setF
      (Reg.WAS_WF_LOG_WEDGE.on a) d1.clock.wedge.toNat).setF (Reg.WAS_WF_LOG_CAUSE.on a) cause
  let d3 := (d2.bumpF (Reg.WAS_WF_CNT_COUNT.on a) 1).raiseEvt a 3
  let d4 := d3.onBlk a fun b => { b with
    writeOk := false, lastFault := cause, frag := b.frag.filter fun r => !r.write }
  let d5 := d4.onWr a fun w => { w with
    faultRun := if exemptCause cause then w.faultRun else w.faultRun + 1
    reqFaults := if cause = 0x5 then w.reqFaults ||| 2 else w.reqFaults }
  (d5.condemnCut a).recordLimit a

/-- A write request stands between ACCEPT and POST. -/
def Blocker.writing (b : Blocker) : Bool := b.cur.any fun r => decide (r.op = 1)

def Dev.inhibited (d : Dev) (a : Act) (c : Nat) : Bool := testBit (d.wr.get a).inhibits c

/-- A write inhibit set (R198, R201): an open gate closes, and a write request in progress takes a write fault. -/
def Dev.inhibit (d : Dev) (a : Act) (c : Nat) : Dev :=
  if d.inhibited a c then d
  else
    let d1 := d.onWr a fun w => { w with inhibits := w.inhibits ||| 2 ^ c }
    if (d1.blk.get a).wg || (d1.blk.get a).writing then d1.writeFault a c
    else (d1.closeWrite a).onBlk a fun b => { b with writeOk := false }

def Dev.release (d : Dev) (a : Act) (c : Nat) : Dev :=
  if d.inhibited a c then d.onWr a fun w => { w with inhibits := w.inhibits - 2 ^ c } else d

/-- The lowest cause whose inhibit is active; 0 when none is. -/
def inhCause (m : Nat) : Nat := ((List.range 16).find? fun c => testBit m c).getD 0

/-- The inhibits that hold by condition rather than by event: FLYWHEEL until the source is fine (Table 07.2). -/
def Dev.flywheelLong (d : Dev) (a : Act) : Bool :=
  decide (d.src = 3) && decide (d.f (Reg.WAS_WR_CFG_FLY_MAX.on a) < d.f Reg.TICK_STATUS_MISSED)

/-- A gate that no rule of the link allows: the link is failed or training, or a head select has not settled (R231,
R242). -/
def Dev.linkBlocks (d : Dev) (a : Act) : Bool :=
  decide (d.f (Reg.TNL_STATUS_FAILED.on a) = 1) || decide (d.f (Reg.TNL_STATUS_TRAINING.on a) = 1) || d.settling a

/-- The data of the record to be written is ready (R110). -/
def Dev.recReady (d : Dev) (a : Act) : Bool :=
  let b := d.blk.get a
  decide (b.completed < b.loadedRecs) ||
  (match b.loadDue, b.cur with
    | some t, some r => decide (t ≤ d.nowUnits) && decide (b.completed < r.count)
    | _, _ => false)

/-- The cause that refuses a write gate at its stamp, in the order of R198 and R200. -/
def Dev.writeRefused (d : Dev) (a : Act) : Option Nat :=
  let h := d.head a
  let w := d.wr.get a
  let l := d.assist.get a
  if w.inhibits ≠ 0 then some (inhCause w.inhibits)
  else if w.wrBad || d.linkBlocks a then some 0x5
  else if !w.ownPes then some 0x7
  else if d.flywheelLong a then some 0x8
  else if !d.recReady a then some 0x3
  else if d.f (Reg.AFE_SYN_STATUS_LOCKED.on a) = 0 then some 0x4
  else if d.unwinding a h then some 0xA
  else if d.asType a h ≠ 0 ∧ (l.recBad ∨ d.asState a ≠ 2 ∨ l.sincePre < d.asPrelead a h) then some 0xA
  else none

/-- A write gate at its stamp (R197, R198, R209, R210): opened with the operate ramp, or refused as a write fault; an
assist refusal is an assist fault of kind 4. -/
def Dev.openWrite (d : Dev) (a : Act) : Dev :=
  match d.writeRefused a with
  | some c =>
    let d1 := if c = 0xA ∧ d.asType a (d.head a) ≠ 0 ∧ !(d.assist.get a).recBad ∧ !d.unwinding a (d.head a) then
      d.assistFault a 4 else d
    d1.writeFault a c
  | none => ((d.operateRamp a).onBlk a fun b => { b with wg := true }).launch a 0x2 1

/-- A read gate at its stamp (R135, R149, R216, R231, R242): suppressed while the head unwinds or the link is failed or
training; one that opens while unlocked, before a head select has settled or on a record with no good copy samples
nothing; an actuator with no heads over the media has no field to read. -/
def Dev.openRead (d : Dev) (a : Act) : Dev :=
  if d.unwinding a (d.head a) then d.setF (Reg.WAS_STATUS_UNWIND_GATE.on a) 1
  else if d.f (Reg.TNL_STATUS_FAILED.on a) = 1 ∨ d.f (Reg.TNL_STATUS_TRAINING.on a) = 1 ∨
      d.f (Reg.SRV_LOAD_STATUS_LOADED.on a) = 0 then d
  else if d.f (Reg.AFE_SYN_STATUS_LOCKED.on a) = 0 ∨ d.settling a ∨ (d.chn.get a).rzBad then
    d.setF (Reg.AFE_SYN_STATUS_UNLOCK_GATE.on a) 1
  else d.onBlk a fun b => { b with rg := true }

/-- The readers of a head in use: declared, and neither they nor their lanes failed (R157). -/
def Dev.readerMask (d : Dev) (a : Act) (h : Nat) : Nat :=
  let have1 := sget 0 d.conf.readers (12 * a.idx + h)
  let bad := d.f ((Reg.AFE_RDR_FAIL_FAIL.nth h).on a) ||| d.f (Reg.AFE_LANE_STATUS_FAIL.on a)
  (List.range 3).foldl (fun m e => m + flag (testBit have1 e && !testBit bad e) * 2 ^ e) 0

/-- A head select (R107, R211): a lane that is not off goes off on the old head, with that head's unwind. -/
def Dev.selectHead (d : Dev) (a : Act) (h : Nat) : Dev :=
  let d1 := if d.head a ≠ h then d.laneOff a else d
  ((d1.launch a 0x1 h).launch a 0x5 (d1.readerMask a h)).onTnl a fun t => { t with selectAt := some d1.instantNs }

/-- EMERGENCY_PARK's hardware action: every gate closed, the event pending (Table 04.7). -/
def Dev.emergencyPark (d : Dev) (a : Act) : Dev :=
  (((d.cutRead a).inhibit a 0xC).laneOff a).raiseEvt a 1

/-! ### Commands of the heater and the assist lane -/

/-- HEATER (R196, R216). -/
def execHeater (a : Act) (step : Nat) (s : State) : Host.Outcome State Fault Refusal :=
  s.next (if s.dev.hasAct a then s.dev.heater a (step % 16) else s.dev)

/-- BACK_OFF_START (R208): BO_ADV ticks before the pre-bias stamp. -/
def execBackOffStart (a : Act) (s : State) : Host.Outcome State Fault Refusal :=
  s.next (if s.dev.hasAssist a then
    let d := s.dev.backOffStart a
    { d with clock := { d.clock with stamps := d.clock.stamps.filter fun t => decide (t.owner ≠ .backOff a) } }
  else s.dev)

/-- OPERATE (R208, R209): `gate` when the same word opens a write gate. -/
def execOperate (a : Act) (gate : Bool) (s : State) : Host.Outcome State Fault Refusal :=
  s.next (if s.dev.hasAssist a then (if gate then (s.dev.operate a).operateRamp a else s.dev.operate a) else s.dev)

/-- ASSIST_OFF (R208, R215). -/
def execAssistOff (a : Act) (s : State) : Host.Outcome State Fault Refusal :=
  s.next (if s.dev.hasAssist a then s.dev.laneOff a else s.dev)

/-- UNWIND_STEP (R215). -/
def execUnwindStep (a : Act) (head : Nat) (s : State) : Host.Outcome State Fault Refusal :=
  s.next (s.dev.unwindHead a head)

/-- ASSIST_SELF_OFF (R210): a lane that has had no gate open for PRELEAD + PB_HOLD ticks. -/
def execAssistSelfOff (a : Act) (s : State) : Host.Outcome State Fault Refusal :=
  let d := s.dev
  let h := d.asHead a
  s.next (if d.asState a ≠ 0 ∧ d.asPrelead a h + d.asPbHold a h ≤ (d.assist.get a).idle then
    (d.laneOff a).assistFault a 3 else d)

/-- A lane fault of kind 1 or 2: the lane goes off, and a write request in progress takes a write fault (R214). -/
def Dev.laneFault (d : Dev) (a : Act) (kind : Nat) : Dev :=
  let d1 := (d.assistFault a kind).laneOff a
  if (d1.blk.get a).writing then d1.writeFault a 0xA else d1

/-- ASSIST_ILIM_LIMIT (R214): SP_OP + trim at ILIM in 8 operating ticks in a row. -/
def execAssistIlimLimit (a : Act) (s : State) : Host.Outcome State Fault Refusal :=
  s.next (if 8 ≤ (s.dev.assist.get a).ilimRun then
    (s.dev.laneFault a 1).onAssist a fun l => { l with ilimRun := 0 } else s.dev)

/-- The PI loop's new integral (in 2^−8 DAC code) and trim for a temperature (R212). -/
def Dev.loopUpdate (d : Dev) (a : Act) (nft : Nat) : Int × Int :=
  let w := d.asWord a 2
  let e : Int := (bits w 31 24 : Int) - nft
  let lim : Int := bits w 7 0
  let old := (d.assist.get a).integral
  let trim := d.asTrim a
  let frozen := (decide (trim = lim) && decide (0 < e)) || (decide (trim = -lim) && decide (e < 0))
  let i := if frozen then old else old + (bits w 15 8 : Int) * e
  let t := ((bits w 23 16 : Int) * e * 16 + i) / 256
  (i, if t < -lim then -lim else if lim < t then lim else t)

/-- TEMPERATURE_FRAME (R212, R217): the loop of a lane that operated in the previous tick, and the watch for hops. -/
def Dev.tempFrame (d : Dev) (a : Act) (nft : Nat) : Dev :=
  let l := d.assist.get a
  if !l.frameDue then d
  else
    let level := d.operateLevel a
    let diff := if nft < l.prevNft then l.prevNft - nft else nft - l.prevNft
    let hop := decide (bits (d.asWord a 4) 23 16 < diff) && decide (level = l.prevLevel)
    let d1 := (d.setF (Reg.WAS_AS_LOOP_NFT.on a) nft).onAssist a fun l => { l with
      frameDue := false, lostRun := 0, prevNft := nft, prevLevel := level }
    let d2 :=
      if l.operatedBefore then
        let u := d.loopUpdate a nft
        let atLim := decide ((d.asIlim a (d.asHead a) : Int) ≤ (d.spOp a : Int) + u.2)
        (d1.setF (Reg.WAS_AS_LOOP_TRIM.on a) (unsigned 16 u.2)).onAssist a fun l => { l with
          integral := u.1, ilimRun := if atLim then l.ilimRun + 1 else 0
          trimSum := l.trimSum + u.2, trimTicks := l.trimTicks + 1 }
      else d1
    if hop then
      (d2.bumpF (Reg.WAS_AS_CNT_HOPS.on a) 1).onWr a fun w => { w with markNext := sset false w.markNext (d.asHead a) true }
    else d2

def execTemperatureFrame (a : Act) (nft : Nat) (s : State) : Host.Outcome State Fault Refusal :=
  s.next (s.dev.tempFrame a (nft % 256))

/-- TEMPERATURE_FRAME_LOST (R213): the trim holds; the third in a row while operating is an assist fault. -/
def execTemperatureFrameLost (a : Act) (s : State) : Host.Outcome State Fault Refusal :=
  let d := s.dev
  let l := d.assist.get a
  s.next (if !l.frameDue then d
  else
    let n := if l.operatedBefore then l.lostRun + 1 else l.lostRun
    let d1 := (d.bumpF (Reg.TNL_TEMP_MISS_COUNT.on a) 1).onAssist a fun l => { l with frameDue := false, lostRun := n }
    if 3 ≤ n then (d1.laneFault a 2).onAssist a fun l => { l with lostRun := 0 } else d1)

/-! ### Aging (R220) -/

/-- The rule of group 4 for one assist record of a head (R206). -/
def Dev.assistRecOk (d : Dev) (a : Act) (h : Nat) (w1 w2 w3 w4 : Word) : Bool :=
  let tick := if d.speed * d.wedges = 0 then 0 else 6000000000000 / (d.speed * d.wedges)
  decide (bits w1 25 16 ≤ bits w1 9 0) && decide (bits w1 9 0 + bits w2 7 0 ≤ d.asIlim a h) &&
  decide (bits w3 15 12 < 8) && decide (bits w4 31 24 * 100 ≤ d.asPrelead a h * tick) &&
  decide (bits w3 31 24 ≤ bits w3 23 16)

/-- The assist records that a head has: (rate zone, band). -/
def Dev.assistRecs (d : Dev) (a : Act) (h : Nat) : List (Nat × Nat) :=
  ((List.range 64).flatMap fun z => (List.range 4).map fun b => (z, b)).filter fun p =>
    decide (bits (d.asTable a h p.1 p.2 0) 31 24 = 1)

/-- Word 1 of an assist record with SP_OP moved by a mean trim. -/
def agedWord (w : Word) (mean : Int) : Word := withBits w 9 0 ((bits w 9 0 : Int) + mean).toNat

/-- The word of an aging commit for one record. -/
def Dev.ageSet (d : Dev) (a : Act) (h : Nat) (mean : Int) (p : Nat × Nat) : AdaptSet :=
  let base := 32 * (256 * h + 4 * p.1 + p.2)
  { act := a, table := Tbl.assist a, base := base, length := 8, rgen := none,
    entries := [(base + 4, 0x3FF, agedWord (d.asTable a h p.1 p.2 1) mean)], skip := d.pastCutoff }

/-- AGING_COMPENSATION (R220, R206): one adaptation commit moves SP_OP and the integral together, or is refused whole. -/
def Dev.age (d : Dev) (a : Act) (h : Nat) : Dev :=
  let l := d.assist.get a
  let n : Nat := 2 ^ d.f (Reg.WAS_AGE_CFG_AGE_LOG2.on a)
  let mean : Int := Int.tdiv l.trimSum n
  if l.trimTicks < n then d
  else
    let d0 := d.onAssist a fun l => { l with trimSum := 0, trimTicks := 0 }
    if mean.natAbs < d.f (Reg.WAS_AGE_CFG_AGE_THR.on a) then d0
    else
      let rs := d.assistRecs a h
      let ok := rs.all fun p =>
        d.assistRecOk a h (agedWord (d.asTable a h p.1 p.2 1) mean) (d.asTable a h p.1 p.2 2) (d.asTable a h p.1 p.2 3)
          (d.asTable a h p.1 p.2 4)
      if !ok then
        (d0.bumpF (Reg.WAS_AS_CNT_FAULTS.on a) 1).event Ev.other (.was a) 0 0
      else
        let d1 := { d0 with conf := { d0.conf with
          adaptPending := d0.conf.adaptPending ++ rs.map fun p => d.ageSet a h mean p } }
        (d1.onAssist a fun l => { l with ageShift := mean * 256 }).onWr a fun w =>
          let hh := sget Health.fresh w.health h
          { w with health := sset Health.fresh w.health h { hh with aging := hh.aging + mean } }

def execAgingCompensation (a : Act) (head : Nat) (s : State) : Host.Outcome State Fault Refusal :=
  s.next (if s.dev.hasAssist a then s.dev.age a head else s.dev)

/-! ### Head health (R221, R222) -/

/-- The failed readers of a head (R157), a mask. -/
def Dev.readerFails (d : Dev) (a : Act) (h : Nat) : Nat := d.f ((Reg.AFE_RDR_FAIL_FAIL.nth h).on a)

def countTrue (l : List Bool) : Nat := (l.filter id).length

/-- The penalties of Table 07.5, in its order. -/
def Dev.penalties (d : Dev) (a : Act) (h : Nat) : List Nat :=
  let hh := sget Health.fresh (d.wr.get a).health h
  let rf := d.readerFails a h
  let trimMax := bits (d.asTable a h 0 0 2) 7 0
  let room := d.asIlim a h - trimMax - hh.qualified
  [40 * (flag (testBit rf 0) + flag (testBit rf 2)), 100 * flag (testBit rf 1),
   (if hh.aging ≤ 0 then 0 else if room = 0 then 100 else Nat.min 100 (100 * hh.aging.toNat / room)),
   Nat.min 80 (8 * countTrue hh.marks), Nat.min 80 (20 * (hh.writes.filter fun n => testBit n 0).length),
   Nat.min 80 (20 * (hh.writes.filter fun n => testBit n 1).length),
   Nat.min 60 (6 * (if hh.reads.length = 0 then 0 else countTrue hh.reads * 1000 / hh.reads.length))]

def Dev.score (d : Dev) (a : Act) (h : Nat) : Nat := 255 - (d.penalties a h).sum

/-- No reader that the head declares is usable (R222). -/
def Dev.noReader (d : Dev) (a : Act) (h : Nat) : Bool :=
  decide (sget 0 d.conf.readers (12 * a.idx + h) ≠ 0) && decide (d.readerMask a h = 0)

/-- HEAD_HEALTH_UPDATE (R221, R222, R540). -/
def Dev.healthUpdate (d : Dev) (a : Act) (h : Nat) : Dev :=
  let sc := d.score a h
  let hh := sget Health.fresh (d.wr.get a).health h
  let warn := decide (sc ≤ d.f (Reg.WAS_HH_THR_WARN.on a))
  let fail := decide (sc ≤ d.f (Reg.WAS_HH_THR_FAIL.on a)) || d.noReader a h || hh.noValue
  let wf := (Reg.WAS_HH_WARN.nth h).on a
  let newWarn := warn && decide (d.f wf = 0)
  let d1 := (d.setF ((Reg.WAS_HH_SCORE.nth h).on a) sc).setF wf (flag warn)
  let d2 := if newWarn then d1.raiseAll .headHealth else d1
  if fail then d2.headFailing a h else d2

def execHeadHealthUpdate (a : Act) (head : Nat) (s : State) : Host.Outcome State Fault Refusal :=
  s.next (if s.dev.hasAct a && decide (head < s.dev.conf.nh) then s.dev.healthUpdate a head else s.dev)

end Sys2Proof.Machine
end

