-- ==== Sys2Proof/Machine/Detect.lean ====
section
/-! DEFINITION. Detection, decoding and the retry ladder (chapter 06): replay buffers (R176), decodes (R171), the record
checks (R77, R389), the ladder (R178 to R188, R582), outcomes (R191, R192) and reconstruction (R364 to R366). -/

namespace Sys2Proof.Machine

/-! ### Replay buffers (R175, R176) -/

/-- The partition of the replay memory by FORMAT. -/
def bufCount (format : Nat) : Nat := if format = 0 then 2 else 16

def ReplayBuf.empty (since : Nat) : ReplayBuf := { st := .free, since := since, tag := 0, slot := 0, closed := false }

/-- The oldest buffer in a state, by index. -/
def oldestBuf (st : BufState) (open1 : Bool) (l : List ReplayBuf) : Option Nat :=
  let c := (l.zipIdx).filter fun p => decide (p.1.st = st) && !(open1 && p.1.closed)
  (c.foldl (fun (m : Option (ReplayBuf × Nat)) p =>
    match m with | none => some p | some q => if p.1.since < q.1.since then some p else some q) none).map Prod.snd

/-- The buffer that holds a record. -/
def Detect.bufOf (t : Detect) (tag slot : Nat) : Option Nat :=
  t.bufs.findIdx? fun b => decide (b.st ≠ .free ∧ b.tag = tag ∧ b.slot = slot)

def Detect.setBuf (t : Detect) (i : Nat) (st : BufState) (tag slot : Nat) : Detect :=
  { t with bufs := t.bufs.set i { st := st, since := t.order, tag := tag, slot := slot, closed := false }
           order := t.order + 1 }

def Detect.freeBuf (t : Detect) (tag slot : Nat) : Detect :=
  match t.bufOf tag slot with | none => t | some i => t.setBuf i .free 0 0

/-- A record loses its backing: NOBACK is set for it wherever it stands. -/
def Detect.loseBacking (t : Detect) (tag slot : Nat) : Detect :=
  let mark (r : LadderRec) : LadderRec := if r.tag = tag ∧ r.slot = slot then { r with noback := true } else r
  { t with ready := t.ready.map mark, decodes := t.decodes.map mark, queue := t.queue.map mark,
           active := t.active.map mark }

/-- Capture at a FRAG 0 read gate (R176): the buffer free longest, else the pending one whose decode started earliest,
else none; answers whether the record has no backing. A FIRST read after HOLD_SAMPLES takes a free buffer or none. -/
def Detect.capture (t : Detect) (tag slot format : Nat) : Bool × Detect :=
  if t.format ≠ format then (true, t)
  else
    match oldestBuf .free false t.bufs with
    | some i => (false, { t.setBuf i .capturing tag slot with holdSamples := false })
    | none =>
      if t.holdSamples then (true, { t with holdSamples := false, bufs := t.bufs.map fun b => { b with closed := false } })
      else
        match oldestBuf .pending true t.bufs with
        | none => (true, t)
        | some i =>
          let b := t.bufs.getD i (ReplayBuf.empty 0)
          (false, (t.loseBacking b.tag b.slot).setBuf i .capturing tag slot)

/-- A bind to the other FORMAT re-partitions the memory while no buffer is held (R176). -/
def Detect.partition (t : Detect) (format : Nat) : Detect :=
  if t.format = format ∨ (t.bufs.any fun b => decide (b.st = .held)) then t
  else { t with format := format, bufs := (List.range (bufCount format)).map ReplayBuf.empty, order := bufCount format }

/-- HOLD_SAMPLES (R176): every pending and held buffer is closed to capture. -/
def Detect.hold (t : Detect) : Detect :=
  { t with holdSamples := true
           bufs := t.bufs.map fun b => if b.st = .pending ∨ b.st = .held then { b with closed := true } else b }

def execHoldSamples (a : Act) (s : State) : Host.Outcome State Fault Refusal := s.next (s.dev.onDet a Detect.hold)

/-! ### Status -/

/-- The decode status of Table 06.7. -/
def statusWord (rung outcome pending bad globals locals : Nat) (r : LadderRec) (offset : Bool) : Word :=
  BitVec.ofNat 32 (rung * 2 ^ 28 + outcome * 2 ^ 25 + pending * 2 ^ 24 + bad * 2 ^ 16 + globals * 2 ^ 12 + locals * 2 ^ 6 +
    flag r.distrust * 2 ^ 5 + flag r.single * 2 ^ 4 + flag offset * 2 ^ 3 + flag r.noback * 2 ^ 2 + flag r.sync2 * 2)

/-- A record's last decode status, as GOP 15 reads it (R182, R191). -/
def Dev.setDecode (d : Dev) (a : Act) (w : Word) : Dev := d.onBlk a fun b => { b with lastDecode := w }

/-- A record's outcome fixed (R191); it counts as completed in the request in progress. -/
def Dev.outcome (d : Dev) (a : Act) (r : LadderRec) (w : Word) : Dev :=
  let d1 := (d.setDecode a w).onDet a fun t => { t.freeBuf r.tag r.slot with outcomes := (r.tag, r.slot, w) :: t.outcomes }
  d1.onBlk a fun b => if b.cur.any fun q => decide (q.tag = r.tag) then { b with completed := b.completed + 1 } else b

/-! ### Delivery (R77, R192, R389) -/

/-- The media record at a place. -/
def Dev.mediaAt (d : Dev) (band pos : Nat) : Option MediaRec := sget none d.media.recs (posKey band pos)

/-- The PLACE and SLOT that a position of a band must carry (R77). -/
def Dev.placedAt (d : Dev) (band pos : Nat) (m : MediaRec) : Bool :=
  match d.band band with
  | none => false
  | some b =>
    let p := d.placeAt band b pos 0
    m.placed b.surface p.track p.slot

/-- A record's blocks as its key lets them be read (R389): none of them under a stale key, those with a BAD bit not. -/
def Dev.readable (d : Dev) (m : MediaRec) (poison : Nat) (i : Nat) : Option Nat :=
  if (m.keygen ≠ 0 ∧ m.keygen ≠ d.f Reg.SEC_KEYGEN_GEN) ∨ testBit (m.bad ||| poison) i then none else m.data[i]?

/-- The stale-key event of a record (R389). -/
def Dev.keyEvent (d : Dev) (m : MediaRec) : Dev :=
  if m.keygen ≠ 0 ∧ m.keygen ≠ d.f Reg.SEC_KEYGEN_GEN then
    (d.bumpF Reg.SEC_CNT_STALE_KEY 1).event Ev.staleKey .sec m.keygen (d.f Reg.SEC_KEYGEN_GEN)
  else d

/-- Blocks per record. -/
def recBlocks (conv : Bool) : Nat := if conv then 1 else 8

/-- The head of a band. -/
def Dev.headOfBand (d : Dev) (band : Nat) : Nat := match d.band band with | none => 0 | some b => d.headOf b.surface

/-- One delivered record noted in its head's health record (Table 07.5). -/
def Dev.noteRead (d : Dev) (a : Act) (band : Nat) (deep : Bool) : Dev :=
  let h := d.headOfBand band
  d.onWr a fun w =>
    let hh := sget Health.fresh w.health h
    { w with health := sset Health.fresh w.health h { hh with reads := (deep :: hh.reads).take 65536 } }

/-- A record delivered at a rung (Table 06.8). -/
def Dev.deliverRec (d : Dev) (a : Act) (r : LadderRec) (rung oc poison : Nat) (e : DecodeEnd) : Dev :=
  match d.mediaAt r.band r.pos with
  | none => d
  | some m =>
    let bad := m.bad ||| poison
    let d1 := (d.keyEvent m).bumpF ((Reg.CHN_RUNG_OK_COUNT.nth rung).on a) 1
    let d2 := (d1.outcome a r (statusWord rung oc 0 (bad % 256) e.globals e.locals r e.offset)).noteRead a r.band (decide (3 ≤ rung))
    let d3 := if e.weak && !r.conv then d2.pendSlip r.band r.pos else d2
    d3.deliver r.tag (fun i => d.readable m poison i) (recBlocks r.conv)

/-- A record that ends UNRECOVERED (Table 06.8): every block poisoned. -/
def Dev.unrecovered (d : Dev) (a : Act) (r : LadderRec) : Dev :=
  let w := statusWord r.rung 3 0 0xFF 0 0 r false
  let d1 := (d.bumpF (Reg.CHN_UNREC_COUNT.on a) 1).event Ev.unrecovered (.chn a) r.tag w.toNat
  (d1.outcome a r w).deliver r.tag (fun _ => none) (recBlocks r.conv)

/-! ### The ladder -/

/-- The shifts of rung 3 in percent of pitch, those enabled (R183). -/
def Dev.shifts (d : Dev) : List Int :=
  ([4, -4, 8, -8, 12, -12].zipIdx.filter fun p => testBit (d.f Reg.CHN_LADDER_CFG_SHIFT_EN) p.2).map Prod.fst

/-- What a rung leaves behind when it ends: rung 3's shift is removed, rung 5's heater step restored (R183, R185), and
the buffer freed when rung 2 ends (R176). -/
def Dev.leaveRung (d : Dev) (a : Act) (r : LadderRec) : Dev :=
  match r.rung with
  | 2 => d.onDet a fun t => t.freeBuf r.tag r.slot
  | 3 => d.onDet a fun t => { t with shift := 0, shiftIdx := 0, attempt := false }
  | 4 => d.onDet a fun t => { t with llrReads := 0 }
  | 5 => if sget 0 (d.wr.get a).step (d.head a) = 0 then d else d.heater a 0
  | 6 => d.onDet a fun t => { t with neighbours := 0 }
  | _ => d

/-- Attempts of a record that no longer count are dropped from the decoders. -/
def Detect.dropAttempts (t : Detect) (r : LadderRec) : Detect :=
  let other (x : LadderRec) : Bool := !decide (x.tag = r.tag ∧ x.slot = r.slot)
  { t with ready := t.ready.filter other, decodes := t.decodes.filter other }

/-- A record enters a rung: rungs 1 and 2 replay its held buffer, 3 to 6 need the Blocker's handler, 7 hands it on. -/
def Dev.enterRung (d : Dev) (a : Act) (r : LadderRec) (rung : Nat) : Dev :=
  let fromReplay := decide (r.rung < 3)
  let r1 := { r with rung := rung, ends := decide (rung ≤ 2) }
  let d1 := d.setDecode a (statusWord rung 0 1 0 0 0 r1 false)
  if rung ≤ 2 then
    d1.onDet a fun t => { t with active := some r1, ready := t.ready ++ [r1] }
  else if rung ≤ 6 then
    let d2 := d1.onDet a fun t => { t with
      active := some r1
      shiftIdx := 0, shift := if rung = 3 then (d.shifts.head?).getD 0 else 0
      llrReads := 0, neighbours := 0, attempt := false }
    if fromReplay then d2.raiseEvt a 7 else d2
  else if r1.conv then
    match sget none d1.host.tags r1.tag with
    | none => (d1.onDet a fun t => { t with active := none }).unrecovered a r1
    | some info =>
      match (if d1.copyLost info.lba (1 - info.copy) then none else d1.mapConv info.lba (1 - info.copy)) with
      | none => (d1.onDet a fun t => { t with active := none }).unrecovered a r1
      | some p =>
        let t2 := d1.host.nextTag
        let d2 := d1.askRecord 0 p 2 0xF { info with copy := 1 - info.copy }
        d2.onDet a fun t => { t with active := none, second := (t2, r1) :: t.second }
  else d1.onDet a fun t => { t with active := none, recon := t.recon ++ [r1] }

/-- The next record of the ladder queue starts its ladder at rung 3, having no backing (R188). -/
def Dev.nextLadder (d : Dev) (a : Act) : Nat → Dev
  | 0 => d
  | n + 1 =>
    let t := d.det.get a
    if t.active.isSome then d
    else
      match t.queue with
      | [] => d
      | r :: rs =>
        let d1 := d.onDet a fun t => { t with queue := rs }
        let r1 := { r with noback := true }
        match d1.nextRung r1.plan 2 true with
        | none => (d1.unrecovered a r1).nextLadder a n
        | some k => (d1.enterRung a r1 k).nextLadder a n

/-- The ladder of an actuator has ended its record; the queue's head follows. -/
def Dev.ladderFree (d : Dev) (a : Act) : Dev :=
  let d1 := d.onDet a fun t => { t with active := none }
  d1.nextLadder a (d1.det.get a).queue.length

/-- The active record leaves its rung for the next of its plan, or ends UNRECOVERED (R179). -/
def Dev.ladderOn (d : Dev) (a : Act) (r : LadderRec) : Dev :=
  let d1 := (d.leaveRung a r).onDet a fun t => t.dropAttempts r
  match d1.nextRung r.plan r.rung r.noback with
  | none => (d1.unrecovered a r).ladderFree a
  | some k =>
    let d2 := d1.enterRung a r k
    if (d2.det.get a).active.isSome then d2 else d2.ladderFree a

/-- A record that has failed rung 0 (R176, R188): it holds its buffer when no other is held, joins the queue while a
ladder runs, and is unrecovered at once when the queue is full. -/
def Dev.failRung0 (d : Dev) (a : Act) (r : LadderRec) : Dev :=
  let t := d.det.get a
  let backed := !r.noback && (t.bufOf r.tag r.slot).isSome
  let holdIt := backed && !(t.bufs.any fun b => decide (b.st = .held)) && t.active.isNone
  let r1 := { r with noback := !holdIt }
  let d1 := d.onBlk a fun b => { b with decFail := true }
  let d2 := d1.onDet a fun t =>
    match t.bufOf r.tag r.slot with
    | none => t
    | some i => if holdIt then t.setBuf i .held r.tag r.slot else t.setBuf i .free 0 0
  let d3 := if backed then d2 else d2.bumpF (Reg.CHN_RPL_STATUS_NOBACK.on a) 1
  if t.active.isSome then
    if t.queue.length < 1024 then d3.onDet a fun t => { t with queue := t.queue ++ [r1] }
    else (d3.event Ev.other (.chn a) 0 0).unrecovered a r1
  else
    match d3.nextRung r1.plan (if r1.distrust then 1 else 0) r1.noback with
    | none => d3.unrecovered a r1
    | some k =>
      let d4 := d3.enterRung a r1 k
      if (d4.det.get a).active.isSome then d4 else d4.ladderFree a

/-! ### Decodes -/

/-- The decoders that a decode takes: a long codeword all four slices, a short one one (R166). -/
def Detect.slices (t : Detect) : Nat := (t.decodes.map fun r => if r.conv then 1 else 4).sum

/-- DECODE_START (R171): rung 0 decodes first; a replay decode gives its decoder up to a waiting rung 0 decode. -/
def Detect.startDecode (t : Detect) : Detect :=
  let pick := (t.ready.find? fun r => decide (r.rung = 0)).orElse fun _ => t.ready.head?
  match pick with
  | none => t
  | some r =>
    let need := if r.conv then 1 else 4
    let start (t : Detect) : Detect :=
      let t1 := { t with ready := t.ready.erase r, decodes := t.decodes ++ [r] }
      if r.rung = 0 then
        match t1.bufOf r.tag r.slot with | none => t1 | some i => t1.setBuf i .pending r.tag r.slot
      else t1
    if t.slices + need ≤ 4 then start t
    else if r.rung = 0 then
      match t.decodes.find? fun q => decide (q.rung ≠ 0) with
      | none => t
      | some q => start { t with decodes := t.decodes.erase q, ready := t.ready ++ [q] }
    else t

def execDecodeStart (a : Act) (s : State) : Host.Outcome State Fault Refusal := s.next (s.dev.onDet a Detect.startDecode)

/-- The conventional record whose rung 7 read of the other copy this is: it is delivered, and the recovered data goes
back to the failed copy (R91, R187). -/
def Dev.secondEnds (d : Dev) (a : Act) (r : LadderRec) (okay : Bool) (e : DecodeEnd) : Dev :=
  let b := a.other
  let from1 (t : Detect) : Option LadderRec := (t.second.find? fun p => decide (p.1 = r.tag)).map Prod.snd
  let go (b : Act) (q : LadderRec) : Dev :=
    let d1 := d.onDet b fun t => { t with second := t.second.filter fun p => decide (p.1 ≠ r.tag) }
    if okay then
      let d2 := (d1.bumpF ((Reg.CHN_RUNG_OK_COUNT.nth 7).on b) 1).outcome b q (statusWord 7 2 0 0 e.globals e.locals q false)
      match sget none d.host.tags r.tag with
      | none => d2
      | some i => (d2.markStale i.lba (1 - i.copy)).askConvWrite none i.lba (1 - i.copy)
    else
      let w := statusWord 7 3 0 0xFF 0 0 q false
      ((d1.bumpF (Reg.CHN_UNREC_COUNT.on b) 1).event Ev.unrecovered (.chn b) q.tag w.toNat).outcome b q w
  match from1 (d.det.get b) with
  | some q => go b q
  | none => match from1 (d.det.get a) with | some q => go a q | none => d

/-- The enabled classes of CHNn_ADAPT_CTL: bit 0 gain, 1 offset, 2 taps, 3 targets. -/
def Dev.adaptClasses (d : Dev) (a : Act) : Nat := bits (d.reg (Reg.CHN_ADAPT_CTL + 0x10000 * a.idx)) 3 0

/-- A record that decoded at rung 0 on every reader its head declares counts as one contribution. -/
def Dev.contribute (d : Dev) (a : Act) (r : LadderRec) : Dev :=
  let n := d.f (Reg.CHN_ADAPT_STATUS_ACCUM.on a)
  if r.rung = 0 ∧ !r.single ∧ d.adaptClasses a ≠ 0 ∧ (d.chn.get a).key.isSome ∧
      n < 2 ^ d.f (Reg.CHN_ADAPT_CTL_AVG_LOG2.on a) then
    d.setF (Reg.CHN_ADAPT_STATUS_ACCUM.on a) (n + 1)
  else d

/-- DECODE_DONE (R77, R170, R179): the record is checked and delivered, or goes down the ladder. -/
def Dev.decodeDone (d : Dev) (a : Act) (tag slot : Nat) (e : DecodeEnd) : Dev :=
  match (d.det.get a).decodes.find? fun r => decide (r.tag = tag ∧ r.slot = slot) with
  | none => d
  | some r =>
    let d0 := d.onDet a fun t => { t with decodes := t.decodes.erase r }
    let okay := e.zeroSyndrome && e.crcGood && !r.cut && (match d0.mediaAt r.band r.pos with
      | none => false
      | some m => d0.placedAt r.band r.pos m)
    if okay then
      let d1 := d0.secondEnds a r true e
      let d2 := d1.deliverRec a r r.rung (if r.rung = 0 then 0 else 1) 0 e
      if r.rung = 0 then d2.contribute a r
      else ((d2.leaveRung a r).onDet a fun t => t.dropAttempts r).ladderFree a
    else if r.rung = 0 then d0.failRung0 a r
    else
      match (d0.det.get a).active with
      | none => d0
      | some q => if q.tag = tag ∧ q.slot = slot ∧ r.ends then d0.ladderOn a q else d0

def execDecodeDone (a : Act) (tag slot : Nat) (e : DecodeEnd) (s : State) : Host.Outcome State Fault Refusal :=
  s.next (s.dev.decodeDone a tag slot e).settle

/-- RUNG_COST_ELAPSED (R179, R182): an attempt still in progress is not used. -/
def execRungCostElapsed (a : Act) (s : State) : Host.Outcome State Fault Refusal :=
  s.next (match (s.dev.det.get a).active with
    | none => s.dev
    | some r => (s.dev.ladderOn a r).settle)

/-! ### Reconstruction -/

/-- RECONSTRUCTION of a bolt record at rung 7 (R364, R366): delivered RECONSTRUCTED with its poison, or unrecovered. -/
def Dev.reconstruct (d : Dev) (a : Act) (r : LadderRec) (o : SourceReads) : Dev :=
  let d0 := d.onDet a fun t => { t with recon := t.recon.erase r }
  match d0.zoneOfBand r.band, boltAt (slipsInForce (d0.slipsOf r.band)) r.pos with
  | some z, some b =>
    let p := d0.locate z b
    match d0.reconCause p o, p with
    | none, some plan =>
      let d1 := (d0.bumpF Reg.FLT_CNT_RECON_OK 1)
      let d2 := { d1 with felt := { d1.felt with solved := d1.solveBytes plan o } }
      let healthy := match d2.band r.band with | none => false | some x => !sget false d2.felt.lost x.surface
      d2.deliverRec a r 7 2 o.poison
        { zeroSyndrome := true, crcGood := true, globals := 0, locals := 0, offset := false, weak := healthy }
    | some c, _ => (d0.reconFailed z c).unrecovered a r
    | none, none => d0.unrecovered a r
  | _, _ => d0.unrecovered a r

/-- RECONSTRUCTION (R364): the record at rung 7 that the tag names. -/
def execReconstruction (a : Act) (tag : Nat) (o : SourceReads) (s : State) : Host.Outcome State Fault Refusal :=
  s.next (match (s.dev.det.get a).recon.find? fun r => decide (r.tag = tag) with
    | none => s.dev
    | some r => (s.dev.reconstruct a r o).settle)

/-- RECONSTRUCTION_BOUND (R364 step 6, R365): not solved within c7 ticks. -/
def Dev.reconBoundEnds (d : Dev) (a : Act) (tag : Nat) : Dev :=
  match (d.det.get a).recon.find? fun r => decide (r.tag = tag) with
  | some r =>
    let d0 := d.onDet a fun t => { t with recon := t.recon.erase r }
    ((match d0.zoneOfBand r.band with | some z => d0.reconFailed z 3 | none => d0).unrecovered a r)
  | none =>
    match (d.det.get a).second.find? fun p => decide (p.2.tag = tag) with
    | none => d
    | some p =>
      let d0 := d.onDet a fun t => { t with second := t.second.filter fun q => decide (q.1 ≠ p.1) }
      (d0.deliver p.1 (fun _ => none) 1).unrecovered a p.2

def execReconstructionBound (a : Act) (tag : Nat) (s : State) : Host.Outcome State Fault Refusal :=
  s.next (s.dev.reconBoundEnds a tag).settle

/-- The records of a withdrawn request leave the ladder and its queue at once, WITHDRAWN (R188). -/
def Dev.withdrawLadder (d : Dev) (a : Act) (tag : Nat) : Dev :=
  let t := d.det.get a
  let mine := (t.queue ++ t.recon).filter fun r => decide (r.tag = tag)
  let d1 := d.onDet a fun t => { t with
    queue := t.queue.filter fun r => decide (r.tag ≠ tag), recon := t.recon.filter fun r => decide (r.tag ≠ tag)
    second := t.second.filter fun p => decide (p.1 ≠ tag ∧ p.2.tag ≠ tag) }
  let gone (d : Dev) (r : LadderRec) : Dev := d.outcome a r (statusWord r.rung 4 0 0 0 0 r false)
  let d2 := mine.foldl gone d1
  match t.active with
  | none => d2
  | some r =>
    if r.tag = tag then ((gone (d2.leaveRung a r) r).onDet a fun t => t.dropAttempts r).ladderFree a else d2

end Sys2Proof.Machine
end

