-- ==== Sys2Proof/Machine/Tenil.lean ====
section
/-! DEFINITION. The Tenil preamplifier link (chapter 08): the control lane and its priorities, the preamplifier's
registers, the fault line, training and retraining. -/

namespace Sys2Proof.Machine

/-! ### The preamplifier's side of a control transaction -/

/-- The causes that pull the fault line (Table 08.7). -/
def lineCauses : Nat := 0x5FB

/-- Causes that take the assist lane off (R240 step 3). -/
def laneCauses : Nat := 0x5F8

/-- The registers of Table 08.6. -/
def paKnown (addr : Nat) : Bool :=
  decide (addr ≤ 4) || decide (addr = 8 ∨ addr = 9 ∨ addr = 0xC ∨ addr = 0xD ∨ addr = 0x10 ∨ addr = 0x11 ∨ addr = 0x14)

/-- Causes set in PA_STATUS. -/
def Dev.paCauses (d : Dev) (a : Act) : Nat := d.paF a Reg.PA_STATUS_CAUSE

/-- The PREAMP inhibit ends when the line is high and PA_STATUS reads 0 (R240). -/
def Dev.faultEnds (d : Dev) (a : Act) : Dev :=
  if !(d.tnl.get a).lineLow && decide (d.paCauses a = 0) then d.release a 0x5 else d

/-- A register write that the preamplifier carries out: PA_STATUS clears the ones written, the write and assist
settings are stored, a maker's register keeps what is written and every other register is read-only. -/
def Dev.paWrite (d : Dev) (a : Act) (addr data : Nat) : Dev :=
  if addr = Reg.PA_STATUS then (d.setPaF a Reg.PA_STATUS_CAUSE (d.paCauses a &&& (0x7FF ^^^ data % 2048))).faultEnds a
  else if addr = Reg.PA_IW then d.setPa a addr (BitVec.ofNat 32 (data % 256))
  else if addr = Reg.PA_ILIM then d.setPa a addr (BitVec.ofNat 32 (data % 1024))
  else if addr = Reg.PA_OS ∨ addr = Reg.PA_RAMP then d.setPa a addr (BitVec.ofNat 32 (data % 65536))
  else if 0x40 ≤ addr then (d.setPa a addr (BitVec.ofNat 32 (Config.freeNat d.free % 65536))).tookFree
  else d

/-- A register read: PA_LINKCNT clears on it; a maker's register gives a free value. -/
def Dev.paRead (d : Dev) (a : Act) (addr : Nat) : Nat × Dev :=
  if 0x40 ≤ addr then (Config.freeNat d.free % 65536, d.tookFree)
  else ((d.pa a addr).toNat % 65536, if addr = Reg.PA_LINKCNT then d.setPa a addr 0 else d)

/-- The preamplifier's response to a good request: STATUS, DATA and the device after it (R232, R238). -/
def Dev.paAnswer (d : Dev) (a : Act) (r : CtlReq) : Nat × Nat × Dev :=
  if !(paKnown r.addr || decide (0x40 ≤ r.addr)) then (2, 0, d)
  else if r.read then let x := d.paRead a r.addr; (0, x.1, x.2)
  else if r.addr ≠ Reg.PA_STATUS ∧ d.paCauses a &&& lineCauses ≠ 0 then (3, r.data, d)
  else (0, r.data, d.paWrite a r.addr r.data)

/-! ### Training, retraining and link failure -/

/-- A failed link (R242): no gate opens on its actuator afterwards; the fault manager is told. -/
def Dev.failLink (d : Dev) (a : Act) : Dev :=
  ((((d.setF (Reg.TNL_STATUS_FAILED.on a) 1).setF (Reg.TNL_STATUS_TRAINING.on a) 0).setF
    (Reg.TNL_STATUS_CTL_UP.on a) 0).closeWrite a).reportFault (.tenil a) 7

/-- The longest run of ones from bit `i` up in a mask of 16 phases: (start, length), with the run in progress. -/
def phaseRun (m : Nat) : Nat → Nat × Nat → Nat × Nat → Nat × Nat
  | 0, _, best => best
  | n + 1, run, best =>
    let i := 15 - n
    let r := if testBit m i then (run.1, run.2 + 1) else (i + 1, 0)
    phaseRun m n r (if best.2 < r.2 then r else best)

/-- The best run of passing sampling phases (R241 step 2). -/
def bestPhases (m : Nat) : Nat × Nat := phaseRun m 16 (0, 0) (0, 0)

/-- The checks of R241 step 3. -/
def Dev.preampFits (d : Dev) (a : Act) : Bool :=
  decide (d.paF a Reg.PA_ID_TENIL_REV = 1) && decide (d.conf.nh ≤ d.paF a Reg.PA_CAPS_HEADS) &&
  (List.range d.conf.nh).all fun h =>
    decide (d.asType a h = 0 ∨ d.asType a h = 3) || decide (d.paF a Reg.PA_CAPS_ASSIST = d.asType a h)

/-- Step 5 of R241: readers off, write gate closed, every heater 0. -/
def Dev.quietPreamp (d : Dev) (a : Act) : Dev :=
  let d1 := ((d.closeWrite a).launch a 0x5 0).launch a 0x2 0
  let d2 := (List.range d.conf.nh).foldl (fun d h => d.launch a 0x4 (256 * h)) d1
  (d2.onWr a fun w => { w with code := [] }).sendGroups a

/-- A training run from step 2 of R241, as one whole: the phase taken, the checks, the link check and the quiet
state, or the link's failure. -/
def Dev.train (d : Dev) (a : Act) (o : Training) : Dev :=
  let r := bestPhases o.passing
  if 5 ≤ r.2 ∧ d.preampFits a ∧ o.linkWords = 64 then
    let d1 := ((d.setF (Reg.TNL_CTL_CFG_RX_PHASE.on a) (r.1 + r.2 / 2)).setF (Reg.TNL_PA_ID_CAPS.on a)
      ((d.pa a Reg.PA_CAPS).toNat % 65536)).setF (Reg.TNL_PA_ID_ID.on a) ((d.pa a Reg.PA_ID).toNat % 65536)
    let d2 := (d1.setF (Reg.TNL_STATUS_LAUNCH_UP.on a) 1).setF (Reg.TNL_STATUS_CTL_UP.on a) 1
    ((d2.setPa a Reg.PA_LINKCNT 0).onTnl a fun t => { t with failRun := 0 }).quietPreamp a
  else (d.setF (Reg.TNL_STATUS_LAUNCH_UP.on a) 1).failLink a

/-- A retrain (R242): counted; the third within 1 s fails the link. -/
def Dev.retrain (d : Dev) (a : Act) (o : Training) : Dev :=
  if d.f (Reg.TNL_STATUS_FAILED.on a) = 1 then d
  else
    let now := d.instantNs
    let recent := (d.tnl.get a).retrains.filter fun t => decide (now < t + 1000000000)
    let d1 := (d.bumpF (Reg.TNL_ERR_CNT_RETRAIN.on a) 1).onTnl a fun t => { t with retrains := now :: recent, failRun := 0 }
    if 2 ≤ recent.length then d1.failLink a else d1.train a o

/-! ### Faults -/

/-- PA_STATUS's causes read, latched and reported (R240 step 2). -/
def Dev.latchCauses (d : Dev) (a : Act) (c : Nat) : Dev :=
  let d1 := if d.f (Reg.TNL_PA_FAULT_VALID.on a) = 1 then d
    else ((d.setF (Reg.TNL_PA_FAULT_VALID.on a) 1).setF (Reg.TNL_PA_FAULT_HEAD.on a) (d.head a)).setF
      (Reg.TNL_PA_FAULT_CAUSE.on a) c
  let d2 := d1.event Ev.preampFault (.tnl a) c (headArg a (d.head a))
  if testBit c 8 then d2.bumpF (Reg.TNL_ERR_CNT_LAUNCH.on a) 1 else d2

/-- The group of R240 step 4: head, readers and the heater codes of every head. -/
def Dev.restoreHead (d : Dev) (a : Act) : Dev :=
  let d1 := (d.launch a 0x1 (d.head a)).launch a 0x5 (d.readerMask a (d.head a))
  ((List.range d.conf.nh).foldl (fun d h => d.launch a 0x4 (256 * h + sget 0 (d.wr.get a).code h)) d1).sendGroups a

/-- What the preamplifier does alone on causes of Table 08.7. -/
def Dev.preampActs (d : Dev) (a : Act) (c : Nat) : Dev :=
  let d1 := d.setPaF a Reg.PA_STATUS_CAUSE (d.paCauses a ||| c)
  let d2 := if c &&& lineCauses ≠ 0 then d1.setPaF a Reg.PA_HEAD_WG 0 else d1
  if c &&& 0x4F8 ≠ 0 then d2.setPaF a Reg.PA_ASMON_LEVEL 0 else d2

/-- A falling fault line (R240): inhibit, read and latch, the assist lane off, the settings restored, the causes
cleared; causes that persist stand again. Cause 10 starts a retrain (R242). -/
def Dev.faultLine (d : Dev) (a : Act) (causes persist : Nat) (o : Training) : Dev :=
  let d1 := ((d.preampActs a causes).onTnl a fun t => { t with lineLow := true }).setF (Reg.TNL_STATUS_FAULT_IN.on a) 1
  let d2 := (d1.inhibit a 0x5).latchCauses a causes
  let d3 := if causes &&& laneCauses ≠ 0 then d2.laneOff a else d2
  let d4 := ((d3.restoreHead a).paWrite a Reg.PA_STATUS causes).setPaF a Reg.PA_STATUS_CAUSE (persist &&& causes)
  if testBit causes 10 then d4.retrain a o else d4

/-- FAULT_LINE: the line falls with `causes`, of which `persist` stand again after the clear. -/
def execFaultLine (a : Act) (causes persist : Nat) (o : Training) (s : State) : Host.Outcome State Fault Refusal :=
  s.next (if s.dev.hasAct a ∧ causes % 2048 &&& lineCauses ≠ 0 then s.dev.faultLine a (causes % 2048) persist o else s.dev)

/-- FAULT_LINE_RELEASE (R240). -/
def execFaultLineRelease (a : Act) (s : State) : Host.Outcome State Fault Refusal :=
  let d := s.dev
  s.next (if (d.tnl.get a).lineLow ∧ d.paCauses a &&& lineCauses = 0 then
    ((d.onTnl a fun t => { t with lineLow := false }).setF (Reg.TNL_STATUS_FAULT_IN.on a) 0).faultEnds a else d)

/-- FAULT_LINE_STUCK (R240): low for 1 ms after a clear while PA_STATUS reads 0. -/
def execFaultLineStuck (a : Act) (s : State) : Host.Outcome State Fault Refusal :=
  let d := s.dev
  s.next (if (d.tnl.get a).lineLow ∧ d.paCauses a = 0 then d.failLink a else d)

/-! ### Control transactions (R234, R237) -/

def CtlReq.mk' (prio : Nat) (read : Bool) (addr data : Nat) : CtlReq :=
  { prio := prio, read := read, addr := addr, data := data, tries := 0 }

def Dev.askCtl (d : Dev) (a : Act) (r : CtlReq) : Dev := d.onTnl a fun t => { t with queue := t.queue ++ [r] }

/-- The PA_STATUS read that an FLT bit asks for, unless one is waiting already. -/
def Dev.askStatus (d : Dev) (a : Act) : Dev :=
  let t := d.tnl.get a
  if (t.queue ++ t.flight.toList).any fun r => decide (r.prio = 2) then d else d.askCtl a (CtlReq.mk' 2 true Reg.PA_STATUS 0)

/-- A bind that changes the head or the write record writes PA_IW and PA_OS (R236). -/
def Dev.sendWriteRecord (d : Dev) (a : Act) : Dev :=
  let w := sget 0 (d.wr.get a).wrec 1
  (d.askCtl a (CtlReq.mk' 3 false Reg.PA_IW (bits w 31 24))).askCtl a (CtlReq.mk' 3 false Reg.PA_OS (bits w 23 8))

/-- The arming of a pre-bias stamp writes PA_RAMP and PA_ILIM (R236). -/
def Dev.armPreBias (d : Dev) (a : Act) : Dev :=
  let h := d.head a
  if d.asType a h = 0 then d
  else
    let tb (i : Nat) : Word := d.asTable a h (d.boundZone a) (d.assist.get a).band i
    (d.askCtl a (CtlReq.mk' 3 false Reg.PA_RAMP (256 * bits (tb 4) 31 24 + bits (tb 3) 11 4))).askCtl a
      (CtlReq.mk' 3 false Reg.PA_ILIM (d.asIlim a h))

/-- A PA_RAMP write is not yet acknowledged. -/
def Tenil.rampDue (t : Tenil) : Bool :=
  (t.queue ++ t.flight.toList).any fun r => decide (r.addr = Reg.PA_RAMP) && !r.read && decide (r.prio = 3)

/-- A pre-bias at its instant, held while its PA_RAMP write is not acknowledged (R236). -/
def Dev.preBiasAt (d : Dev) (a : Act) (f : Fetch) : Dev :=
  if (d.tnl.get a).rampDue then d.onTnl a fun t => { t with preHeld := some f } else d.preBias a f

/-- The pre-bias that waited takes effect. -/
def Dev.preBiasFree (d : Dev) (a : Act) : Dev :=
  match (d.tnl.get a).preHeld with
  | none => d
  | some f => (d.onTnl a fun t => { t with preHeld := none }).preBias a f

/-- PRE_BIAS (R205, R207, R208, R236). -/
def execPreBias (a : Act) (f : Fetch) (s : State) : Host.Outcome State Fault Refusal :=
  s.next (if s.dev.hasAssist a then s.dev.preBiasAt a f else s.dev)

/-- Whether a transaction may start now: settings wait for an open write gate to close (R236). -/
def Dev.ctlReady (d : Dev) (a : Act) (r : CtlReq) : Bool :=
  r.read || !decide (8 ≤ r.addr ∧ r.addr ≤ 0xD) || !(d.blk.get a).wg

/-- Whether a transaction ends before the next phase 0, and the lane is not reserved for a temperature frame: 520 ns
from phase 0 (R234). -/
def Dev.ctlFits (d : Dev) (a : Act) : Bool :=
  let now := d.clock.phase.toNat * d.clock.period / 2 ^ 18
  decide (d.src = 0) ||
  (decide (now + (40 + d.paF a Reg.PA_TIMING_CTL_LAT + 48) * 5 / 2 ≤ d.clock.period) &&
   (!(d.assist.get a).frameDue || decide (520 ≤ now)))

/-- The waiting transaction of the highest priority that may start, the oldest of equals. -/
def bestCtl (ok : CtlReq → Bool) : List CtlReq → Option CtlReq
  | [] => none
  | r :: rs =>
    match bestCtl ok rs with
    | none => if ok r then some r else none
    | some b => if ok r && decide (r.prio ≤ b.prio) then some r else some b

/-- CONTROL_REQUEST (R234). -/
def Dev.startCtl (d : Dev) (a : Act) : Dev :=
  let t := d.tnl.get a
  if t.flight.isSome || !d.ctlFits a || decide (d.f (Reg.TNL_STATUS_CTL_UP.on a) = 0) then d
  else
    match bestCtl (d.ctlReady a) t.queue with
    | none => d
    | some r => d.onTnl a fun t => { t with flight := some r, queue := t.queue.erase r }

def execControlRequest (a : Act) (s : State) : Host.Outcome State Fault Refusal := s.next (s.dev.startCtl a)

/-- The result of a pass-through access shown in PA_RESULT. -/
def Dev.passResult (d : Dev) (a : Act) (r : CtlReq) (status data : Nat) : Dev :=
  if r.prio = 4 then
    d.setReg (Reg.TNL_PA_RESULT + 0x10000 * a.idx) (BitVec.ofNat 32 (2 ^ 31 + status % 4 * 65536 + data % 65536))
  else d

/-- A transaction that failed: tried again within RETRY, else counted toward the retrain of R242. -/
def Dev.ctlFailed (d : Dev) (a : Act) (r : CtlReq) (status : Nat) (o : Training) : Dev :=
  if r.tries < d.f (Reg.TNL_CTL_CFG_RETRY.on a) then
    d.onTnl a fun t => { t with flight := none, queue := { r with tries := r.tries + 1 } :: t.queue }
  else
    let d1 := (d.passResult a r status 0).onTnl a fun t => { t with flight := none, failRun := t.failRun + 1 }
    if 3 ≤ (d1.tnl.get a).failRun then d1.retrain a o else d1

/-- A good response delivered. -/
def Dev.ctlDone (d : Dev) (a : Act) (r : CtlReq) (o : Training) : Dev :=
  let x := d.paAnswer a r
  let d1 := (x.2.2.passResult a r x.1 x.2.1).onTnl a fun t => { t with flight := none, failRun := 0 }
  let d2 := if decide (d1.paCauses a ≠ 0) && decide (r.prio ≠ 2) then d1.askStatus a else d1
  if r.prio = 2 then
    let d3 := (d1.latchCauses a x.2.1).paWrite a Reg.PA_STATUS x.2.1
    if testBit x.2.1 10 then d3.retrain a o else d3
  else if x.1 = 3 ∧ !r.read then d2.inhibit a 0x5
  else if r.addr = Reg.PA_RAMP ∧ r.prio = 3 then d2.preBiasFree a
  else d2

/-- CONTROL_RESPONSE (R232, R237). -/
def Dev.ctlResponse (d : Dev) (a : Act) (w : Wire) (o : Training) : Dev :=
  match (d.tnl.get a).flight with
  | none => d
  | some r =>
    let bad := d.bumpF (Reg.TNL_ERR_CNT_CTL_CRC.on a) 1
    match w with
    | .good => d.ctlDone a r o
    | .requestBad => (bad.setPaF a Reg.PA_STATUS_CAUSE (bad.paCauses a ||| 0x200)).ctlFailed a r 1 o
    | .responseBad => ((bad.paAnswer a r).2.2).ctlFailed a r 3 o

def execControlResponse (a : Act) (w : Wire) (o : Training) (s : State) : Host.Outcome State Fault Refusal :=
  s.next (s.dev.ctlResponse a w o)

/-- RESPONSE_LOST (R233, R237, R242). -/
def execResponseLost (a : Act) (o : Training) (s : State) : Host.Outcome State Fault Refusal :=
  s.next (match (s.dev.tnl.get a).flight with
  | none => s.dev
  | some r => (s.dev.bumpF (Reg.TNL_ERR_CNT_CTL_LOST.on a) 1).ctlFailed a r 3 o)

/-- A write of TNLn_PA_ACC with GO set (R244). -/
def Dev.passAccess (d : Dev) (a : Act) (w : Word) : Dev :=
  let d1 := d.setReg (Reg.TNL_PA_ACC + 0x10000 * a.idx) (w &&& 0x7F80FFFF#32)
  let d2 := d1.setF (Reg.TNL_PA_RESULT_DONE.on a) 0
  d2.askCtl a (CtlReq.mk' 4 (decide (bits w 30 30 = 1)) (bits w 29 23) (bits w 15 0))

/-- PA_ACC_GO, written through the fabric (R244). -/
def execPaAccGo (a : Act) (w : Word) (s : State) : Host.Outcome State Fault Refusal :=
  let d := s.dev
  let addr := Reg.TNL_PA_ACC + 0x10000 * a.idx
  s.next (if !d.hasAct a then d.absentWrite addr else if d.safe then d.passAccess a w else d.ignoredWrite addr)

/-- TNL_RETRAIN_GO (R244). -/
def execTnlRetrainGo (a : Act) (o : Training) (s : State) : Host.Outcome State Fault Refusal :=
  let d := s.dev
  let addr := 0x340020 + 0x10000 * a.idx
  s.next (if !d.hasAct a then d.absentWrite addr else if d.safe then d.retrain a o else d.ignoredWrite addr)

end Sys2Proof.Machine
end

