-- ==== Sys2Proof/Machine/Channel.lean ====
section
/-! DEFINITION. The channel front end (chapter 05): the synthesizer's lock, fine adaptation and its write-back, and
lane and reader failure. -/

namespace Sys2Proof.Machine

/-! ### The synthesizer -/

/-- The trim of rotation tracking in ppm (R136). -/
def Dev.trackTrim (d : Dev) (a : Act) : Int := signed 16 (d.f (Reg.AFE_TRACK_TRIM.on a))

/-- The live word of a frequency word under the trim in force: the word itself while tracking is off (R136). -/
def Dev.liveWord (d : Dev) (a : Act) (fw : Nat) : Nat :=
  if d.f (Reg.AFE_TRACK_EN.on a) = 1 then ((fw : Int) * (1000000 + d.trackTrim a) + 500000).toNat / 1000000 else fw

/-- A Plank bind's effect on the synthesizer (R134): another frequency word starts a relock. -/
def Dev.tune (d : Dev) (a : Act) (fw : Nat) : Dev :=
  if (d.chn.get a).fw = fw then d
  else ((d.onChn a fun c => { c with fw := fw }).setF (Reg.AFE_SYN_STATUS_LOCKED.on a) 0).setF
    (Reg.AFE_SYN_FW_FW_LIVE.on a) (d.liveWord a fw)

/-- SYNTH_LOCKED (R134). -/
def execSynthLocked (a : Act) (s : State) : Host.Outcome State Fault Refusal :=
  let d := s.dev
  s.next (if (d.chn.get a).key.isSome ∧ !(d.chn.get a).synthOff ∧ d.hasAct a then
    d.setF (Reg.AFE_SYN_STATUS_LOCKED.on a) 1 else d)

/-! ### Fine adaptation (R150 to R156) -/

/-- The budget-neutral bits of a rate-zone record's word (R147). -/
def neutralMask (i : Nat) : Word :=
  if i = 6 ∨ i = 8 ∨ i = 10 then 0x001FFF3F#32
  else if i = 7 ∨ i = 9 ∨ i = 11 then 0x000000FF#32
  else if 22 ≤ i ∧ i ≤ 53 then 0xFFFFFFFF#32
  else 0#32

def wordClass (i : Nat) : Nat := if i < 22 then 0 else if i < 46 then 2 else 3

def absDiff (x y : Int) : Nat := (x - y).natAbs

/-- The largest difference of the two halves of a word, signed. -/
def halvesDiff (x y : Word) : Nat :=
  Nat.max (absDiff (signed 16 (bits x 15 0)) (signed 16 (bits y 15 0))) (absDiff (signed 16 (bits x 31 16)) (signed 16 (bits y 31 16)))

/-- The amplifier gain of a lane word A in 1/16 dB steps (Table 05.1). -/
def vgaGain (w : Word) : Nat := 48 * bits w 11 8 + bits w 5 0

/-- How far an averaged word has drifted in a class (0 gain, 1 offset, 2 taps, 3 targets), in the class's unit (R152). -/
def classDiff (cls i : Nat) (avg rec : Word) : Nat :=
  if cls = 0 ∧ (i = 6 ∨ i = 8 ∨ i = 10) then absDiff (vgaGain avg) (vgaGain rec)
  else if cls = 1 ∧ (i = 6 ∨ i = 8 ∨ i = 10) then absDiff (signed 9 (bits avg 20 12)) (signed 9 (bits rec 20 12))
  else if cls = 1 ∧ (i = 7 ∨ i = 9 ∨ i = 11) then absDiff (signed 8 (bits avg 7 0)) (signed 8 (bits rec 7 0)) / 4
  else if cls = 2 ∧ 22 ≤ i ∧ i ≤ 45 then halvesDiff avg rec
  else if cls = 3 ∧ 46 ≤ i ∧ i ≤ 51 then halvesDiff avg rec
  else if cls = 3 ∧ (i = 52 ∨ i = 53) then absDiff avg.toNat rec.toNat
  else 0

/-- The class thresholds of CHNn_ADAPT_THR. -/
def Dev.classThr (d : Dev) (a : Act) (cls : Nat) : Nat :=
  match cls with
  | 0 => d.f (Reg.CHN_ADAPT_THR_GAIN_THR.on a)
  | 1 => d.f (Reg.CHN_ADAPT_THR_OFF_THR.on a)
  | 2 => d.f (Reg.CHN_ADAPT_THR_TAP_THR.on a)
  | _ => d.f (Reg.CHN_ADAPT_THR_TGT_THR.on a)

/-- The drift flags of an average over the record (R152). -/
def Dev.driftFlags (d : Dev) (a : Act) (h z : Nat) (ws : List (Nat × Word)) : Nat :=
  (List.range 4).foldl (fun m c =>
    let worst := ws.foldl (fun x p => Nat.max x (classDiff c p.1 p.2 (d.rzWord a h z p.1))) 0
    m + flag (testBit (d.adaptClasses a) c && decide (d.classThr a c < worst)) * 2 ^ c) 0

/-- READY shows how many completed averages are held. -/
def Dev.showReady (d : Dev) (a : Act) : Dev := d.setF (Reg.CHN_ADAPT_STATUS_READY.on a) (d.chn.get a).averages.length

/-- AVERAGE_COMPLETE (R151, R152): the averaged words of the bound record move into the buffer, or are dropped. -/
def Dev.averageDone (d : Dev) (a : Act) (ws : List (Nat × Word)) : Dev :=
  match (d.chn.get a).key with
  | none => d
  | some k =>
    if d.f (Reg.CHN_ADAPT_STATUS_ACCUM.on a) < 2 ^ d.f (Reg.CHN_ADAPT_CTL_AVG_LOG2.on a) then d
    else
      let d1 := d.setF (Reg.CHN_ADAPT_STATUS_ACCUM.on a) 0
      if 2 ≤ (d.chn.get a).averages.length then d1.bumpF (Reg.CHN_ADAPT_STATUS_DROPPED.on a) 1
      else
        let v : Average := { head := k.1, rzone := k.2, rgen := bits (d.rzWord a k.1 k.2 0) 11 0, words := ws,
                             drift := d.driftFlags a k.1 k.2 ws }
        (d1.onChn a fun c => { c with averages := c.averages ++ [v] }).showReady a

def execAverageComplete (a : Act) (ws : List (Nat × Word)) (s : State) : Host.Outcome State Fault Refusal :=
  s.next (if s.dev.hasAct a then s.dev.averageDone a ws else s.dev)

/-- The bits of a word that a set of classes writes. -/
def classMask (drift i : Nat) : Word :=
  let pick (c : Nat) (m : Word) : Word := if testBit drift c then m else 0
  if i = 6 ∨ i = 8 ∨ i = 10 then pick 0 0x00000F3F#32 ||| pick 1 0x001FF000#32
  else if i = 7 ∨ i = 9 ∨ i = 11 then pick 1 0x000000FF#32
  else pick (wordClass i) (neutralMask i)

/-- The lane of a record word: lanes own words 6 to 11 and their taps; 3 for the shared words. -/
def laneOfWord (i : Nat) : Nat := if 6 ≤ i ∧ i ≤ 11 then (i - 6) / 2 else if 22 ≤ i ∧ i ≤ 45 then (i - 22) / 8 else 3

/-- A signed halfword brought into ±2,047. -/
def clampTap (v : Nat) : Nat :=
  let x := signed 16 v
  if x < -2047 then unsigned 16 (-2047) else if 2047 < x then 2047 else v

/-- The nearest legal value of a record word (R46, R145, R146): 0 for a lane whose reader the head does not have. -/
def Dev.legalRz (d : Dev) (a : Act) (h i : Nat) (w : Word) : Word :=
  let l := laneOfWord i
  if l < 3 ∧ !testBit (sget 0 d.conf.readers (12 * a.idx + h)) l then 0#32
  else if i = 6 ∨ i = 8 ∨ i = 10 then
    withBits (withBits (withBits w 7 6 0) 11 8 (Nat.min 11 (bits w 11 8))) 5 0 (Nat.min 47 (bits w 5 0))
  else if 22 ≤ i ∧ i ≤ 45 then BitVec.ofNat 32 (clampTap (bits w 31 16) * 65536 + clampTap (bits w 15 0))
  else if i = 52 then withBits w 31 16 0
  else if i = 53 then BitVec.ofNat 32 (Nat.max 1 (bits w 4 0))
  else w

/-- The entries of a batch: (index, mask, value) for every word its classes touch (R152, R153). -/
def Average.entries (v : Average) : List (Nat × Word × Word) :=
  (v.words.map fun p => (p.1, classMask v.drift p.1 &&& neutralMask p.1, p.2)).filter fun p => decide (p.2.1 ≠ 0)

/-- WRITE_BACK_BATCH (R152 to R155): the oldest completed average staged as one adaptation set, or refused. -/
def Dev.writeBack (d : Dev) (a : Act) : Dev :=
  match (d.chn.get a).averages with
  | [] => d
  | v :: vs =>
    let d1 := ((d.onChn a fun c => { c with averages := vs }).showReady a).atPhase (d.f Reg.CHN_WB_CFG_START)
    let es := v.entries
    if v.drift = 0 then d1
    else if es.length = 0 ∨ d.f Reg.CHN_WB_CFG_WORDS < es.length ∨ sget 0 d.conf.readers (12 * a.idx + v.head) = 0 then
      d1.bumpF (Reg.CHN_WB_STATUS_REFUSED.on a) 1
    else
      let base := 256 * (64 * v.head + v.rzone)
      let fixed := es.map fun p => (p.1, p.2.1, d.legalRz a v.head p.1 p.2.2)
      let clamped := es.filter fun p => decide (d.legalRz a v.head p.1 p.2.2 &&& p.2.1 ≠ p.2.2 &&& p.2.1)
      let d2 := clamped.foldl (fun d p => d.event Ev.adaptClamp (.chn a) (base + 4 * p.1)
        (d.legalRz a v.head p.1 p.2.2).toNat) d1
      let set : AdaptSet := { act := a, table := Tbl.rz a, base := base, length := 64, rgen := some v.rgen,
                              entries := fixed.map fun p => (base + 4 * p.1, p.2), skip := d1.pastCutoff }
      { d2 with conf := { d2.conf with adaptPending := d2.conf.adaptPending ++ [set] } }

def execWriteBackBatch (a : Act) (s : State) : Host.Outcome State Fault Refusal :=
  s.next (if s.dev.hasAct a then s.dev.writeBack a else s.dev)

/-! ### Lane and reader failure (R157, R158) -/

/-- A lane meets the failure count on a head. -/
def Dev.laneBad (d : Dev) (a : Act) (h e : Nat) : Bool := decide (16 ≤ sget 0 (d.chn.get a).badRun (3 * h + e))

/-- Another head on which the lane has met the count. -/
def Dev.metElsewhere (d : Dev) (a : Act) (h e : Nat) : Bool :=
  (List.range 12).any fun g => decide (g ≠ h) &&
    (d.laneBad a g e || testBit (d.f ((Reg.AFE_RDR_FAIL_FAIL.nth g).on a)) e)

/-- READER_FAIL (R157). -/
def Dev.readerFail (d : Dev) (a : Act) (h e : Nat) : Dev :=
  if d.laneBad a h e && !d.metElsewhere a h e then
    let x := (Reg.AFE_RDR_FAIL_FAIL.nth h).on a
    d.setF x (putBit (d.f x) e true)
  else d

def execReaderFail (a : Act) (head lane : Nat) (s : State) : Host.Outcome State Fault Refusal :=
  s.next (if lane < 3 ∧ head < 12 then s.dev.readerFail a head lane else s.dev)

/-- A lane fails: its bit, one event, and its domain off unless it is lane 1. -/
def Dev.failLane (d : Dev) (a : Act) (e : Nat) : Dev :=
  let x := Reg.AFE_LANE_STATUS_FAIL.on a
  if testBit (d.f x) e then d
  else
    let d1 := (d.setF x (putBit (d.f x) e true)).event Ev.laneFail (.afe a) (headArg a e) 0
    if e = 1 then d1 else d1.setDomOn (laneDomain a e) false

/-- LANE_FAIL (R157): the count met on a second head. -/
def execLaneFail (a : Act) (head lane : Nat) (s : State) : Host.Outcome State Fault Refusal :=
  s.next (if lane < 3 ∧ head < 12 ∧ s.dev.laneBad a head lane ∧ s.dev.metElsewhere a head lane then
    s.dev.failLane a lane else s.dev)

/-- LANE_POWER_FAULT (R157): lane 1's domain takes the synthesizer with it, and the fault manager is told. -/
def execLanePowerFault (a : Act) (lane : Nat) (s : State) : Host.Outcome State Fault Refusal :=
  let d := s.dev
  s.next (if d.hasAct a ∧ lane < 3 then
    let d1 := d.failLane a lane
    if lane = 1 then
      (((d1.setF (Reg.AFE_SYN_STATUS_LOCKED.on a) 0).onChn a fun c => { c with synthOff := true }).setDomOn
        (laneDomain a 1) false).reportFault (.channelLane a) 7
    else d1
  else d)

/-- The counts of the named lanes start again, on one head or on every head. -/
def Channel.requalify (c : Channel) (heads : List Nat) (m : Nat) : Channel :=
  { c with badRun := heads.foldl (fun r h => (List.range 3).foldl
      (fun r e => if testBit m e then sset 0 r (3 * h + e) 0 else r) r) c.badRun }

/-- FAIL bits cleared: those of lanes, or those of the readers of a head (R158). -/
def Dev.clearFail (d : Dev) (a : Act) (head : Option Nat) (m : Nat) : Dev :=
  match head with
  | some h =>
    let x := (Reg.AFE_RDR_FAIL_FAIL.nth h).on a
    (d.setF x (d.f x &&& (7 ^^^ m % 8))).onChn a fun c => c.requalify [h] m
  | none =>
    let x := Reg.AFE_LANE_STATUS_FAIL.on a
    let back := d.f x &&& m
    let d1 := (d.setF x (d.f x &&& (7 ^^^ m % 8))).onChn a fun c => c.requalify (List.range 12) m
    [0, 2].foldl (fun d e => if testBit back e && d.domOn (laneDomain a 1) then d.setDomOn (laneDomain a e) true else d) d1

/-- LANE_FAIL_CLEAR (R158), written through the fabric: a head's register, or AFEn_LANE_STATUS for none. -/
def execLaneFailClear (a : Act) (head : Option Nat) (mask : Nat) (s : State) : Host.Outcome State Fault Refusal :=
  let d := s.dev
  let addr := (match head with | some h => 0x220040 + 4 * (h % 12) | none => 0x22000C) + 0x10000 * a.idx
  s.next (if !d.hasAct a then d.absentWrite addr
    else if d.safe then d.clearFail a (head.map fun h => h % 12) mask
    else d.ignoredWrite addr)

end Sys2Proof.Machine
end

