-- ==== Sys2Proof/Machine/Engine.lean ====
section
/-! DEFINITION. The servo engine's arithmetic: block-floating values (R257, R258), coefficient sets (R260 to R264,
R267), the stages (R262, R263) and the back-calculation of PRESET stages (R265, R273). -/

namespace Sys2Proof.Machine

/-! ### Block-floating arithmetic -/

/-- A scalar as registers and capture data hold it: E in [31:24], M in [23:0]. -/
def Bf.ofWord (w : Word) : Bf := { m := signed 24 (bits w 23 0), e := signed 8 (bits w 31 24) }

def Bf.word (b : Bf) : Word := BitVec.ofNat 32 (unsigned 8 b.e * 2 ^ 24 + unsigned 24 b.m)

/-- An accumulator: value × 2^(e − 46). -/
structure Accum where
  v : Int
  e : Int
deriving DecidableEq, Repr

/-- An exact product. -/
def Bf.mul (a b : Bf) : Accum := { v := a.m * b.m, e := a.e + b.e }

/-- A value as an addend. -/
def Bf.acc (a : Bf) : Accum := { v := a.m * 2 ^ 23, e := a.e }

def Accum.neg (a : Accum) : Accum := { a with v := -a.v }

/-- The 56-bit accumulator saturates. -/
def sat56 (v : Int) : Int := if v < -(2 ^ 55) then -(2 ^ 55) else if 2 ^ 55 ≤ v then 2 ^ 55 - 1 else v

/-- A sum: the terms aligned to their largest exponent by arithmetic right shift, then accumulated. -/
def accSum (ts : List Accum) : Accum :=
  match ts with
  | [] => { v := 0, e := 0 }
  | t :: _ =>
    let top := ts.foldl (fun e x => max e x.e) t.e
    { v := ts.foldl (fun s x => sat56 (s + x.v / 2 ^ (top - x.e).toNat)) 0, e := top }

/-- A quotient rounded to nearest, halves away from zero. -/
def roundAway (n : Int) (d : Nat) : Int :=
  if d = 0 then 0 else if n < 0 then -(((2 * n.natAbs + d) / (2 * d) : Nat) : Int) else ((2 * n.natAbs + d) / (2 * d) : Nat)

/-- v × 2^k rounded to an integer. -/
def scaleRound (v k : Int) : Int := if 0 ≤ k then v * 2 ^ k.toNat else roundAway v (2 ^ (-k).toNat)

/-- The exponent that normalises an accumulator, none for 0. -/
def Accum.fit (a : Accum) : Option Int :=
  if a.v = 0 then none
  else
    let s : Int := (Nat.log2 a.v.natAbs : Int) - 22
    let m := scaleRound a.v (-s)
    let s' := if m.natAbs = 2 ^ 23 then s + 1 else s
    some (a.e - 23 + s')

/-- Accumulators normalised to one exponent, with the old exponent for all zeros and the count of an overflow (R258). -/
def normAll (old : Int) (l : List Accum) : Int × List Int × Nat :=
  let e0 := l.foldl (fun e a => match a.fit, e with
    | none, e => e
    | some x, none => some x
    | some x, some y => some (max x y)) (none : Option Int)
  match e0 with
  | none => (old, l.map fun _ => 0, 0)
  | some x =>
    let e := if 127 < x then 127 else if x < -128 then -128 else x
    let put (a : Accum) : Int :=
      let m := scaleRound a.v (a.e - 23 - e)
      if m < -(2 ^ 23) then -(2 ^ 23) else if 2 ^ 23 ≤ m then 2 ^ 23 - 1 else m
    (e, l.map put, if 127 < x then 1 else 0)

/-- One accumulator normalised to a signal. -/
def Accum.norm (old : Int) (a : Accum) : Bf × Nat :=
  let r := normAll old [a]
  ({ m := r.2.1.headD 0, e := r.1 }, r.2.2)

/-- A signal of an integer in units of 2^−k. -/
def bfOfInt (old n k : Int) : Bf := (Accum.norm old { v := n, e := 46 - k }).1

/-- a ≤ b, as values. -/
def Bf.le (a b : Bf) : Bool :=
  let e := min a.e b.e
  decide (a.m * 2 ^ (a.e - e).toNat ≤ b.m * 2 ^ (b.e - e).toNat)

/-- A value as a command code, in 1/32,768 of full scale, saturated to 16 bits (R274). -/
def Bf.code (b : Bf) : Int :=
  let c := scaleRound b.m (b.e - 8)
  if c < -32768 then -32768 else if 32767 < c then 32767 else c

/-- The value of a command code. -/
def bfOfCode (c : Int) : Bf := bfOfInt 0 c 15

/-! ### Coefficient sets -/

/-- A stage descriptor (Table 09.4). -/
structure Stage where
  type : Nat
  seg : Nat
  preset : Bool
  n : Nat
  m : Nat
  cexp : Int
  ins : List Nat
  coef : List Int
deriving DecidableEq, Repr

/-- A coefficient set (Table 09.3). -/
structure CoefSet where
  version : Nat
  count : Nat
  words : Nat
  vcm : Nat
  ma : Nat
  man : Nat
  pred : Nat
  stages : List Stage
  /-- the set's words as stored, for CHECK -/
  body : List Word
  check : Word
deriving DecidableEq, Repr

/-- The coefficient count of a stage type with n = N + 1 and m = M + 1 (Table 09.5). -/
def coefCount (type n m : Nat) : Nat :=
  match type with
  | 1 => 5
  | 2 => (n + 1) * (n + m)
  | 3 => m
  | 4 => 2
  | 5 => 2
  | _ => 0

/-- The stages that follow in a set's words, and the number of words they take. -/
def stagesAt (word : Nat → Word) : Nat → Nat → List Stage × Nat
  | 0, p => ([], p)
  | k + 1, p =>
    let w0 := word p
    let w1 := word (p + 1)
    let type := bits w0 31 28
    let n := bits w0 21 20 + 1
    let m := bits w0 19 18 + 1
    let c := coefCount type n m
    let s : Stage := { type := type, seg := bits w0 27 26, preset := decide (bits w0 25 25 = 1), n := n, m := m,
                       cexp := signed 8 (bits w0 7 0), ins := [bits w1 6 0, bits w1 14 8, bits w1 22 16, bits w1 30 24],
                       coef := (List.range c).map fun i => signed 24 (bits (word (p + 2 + i)) 23 0) }
    let r := stagesAt word k (p + 2 + c)
    (s :: r.1, r.2)

/-- The address of word w of coefficient set `sel` of an actuator (R260). -/
def setAddr (a : Act) (sel w : Nat) : Nat := 0x308000 + 0x10000 * a.idx + 0x4000 * sel + 4 * w

/-- A coefficient set read from its registers. -/
def Dev.coefSet (d : Dev) (a : Act) (sel : Nat) : CoefSet :=
  let word (i : Nat) : Word := d.reg (setAddr a sel i)
  let n := bits (word 0) 22 16
  let r := stagesAt word n 4
  { version := bits (word 0) 31 24, count := n, words := bits (word 0) 13 0, vcm := bits (word 1) 30 24,
    ma := bits (word 1) 22 16, man := bits (word 1) 14 8, pred := bits (word 1) 6 0, stages := r.1,
    body := (List.range 3).map word ++ (List.range (r.2 - 4)).map fun i => word (4 + i), check := word 3 }

/-- The inputs that a stage's type uses (R264). -/
def Stage.used (s : Stage) : List Nat := if s.type = 2 ∨ s.type = 3 then s.ins.take s.m else s.ins.take 1

/-- Words taken by the header and the stages. -/
def CoefSet.length (c : CoefSet) : Nat := 4 + (c.stages.map fun s => 2 + s.coef.length).sum

/-- The weight of a SUM input is exactly 1.0. -/
def weightOne (c e : Int) : Bool := decide (0 ≤ e ∧ e ≤ 23 ∧ c * 2 ^ e.toNat = 2 ^ 23) || decide (e < 0 ∧ c = 2 ^ 23 * 2 ^ (-e).toNat)

/-- The stages on a path back from a signal through SAT stages and SUM inputs of weight 1.0, PRESET stages included. -/
def pathFrom (c : CoefSet) : Nat → Nat → List Nat
  | 0, _ => []
  | f + 1, sig =>
    if sig < 16 then []
    else
      match c.stages[sig - 16]? with
      | none => []
      | some s =>
        let back := match s.type with
          | 4 => s.used
          | 3 => ((s.used.zip s.coef).filter fun (p : Nat × Int) => weightOne p.2 s.cexp).map Prod.fst
          | _ => []
        (sig - 16) :: back.flatMap (pathFrom c f)

/-- The agreement rule of group 2 (R264). -/
def CoefSet.agrees (c : CoefSet) (hasMa : Bool) : Bool :=
  let n := c.stages.length
  let sigOk (s : Nat) : Bool := decide (s < 12) || decide (16 ≤ s ∧ s < 16 + n)
  let outOf (s seg : Nat) : Bool := decide (16 ≤ s) && (match c.stages[s - 16]? with | none => false | some x => decide (x.seg = seg))
  let path := pathFrom c 97 c.vcm ++ pathFrom c 97 c.man
  decide (c.version = 1) && decide (c.check.toNat = crc32Words c.body) && decide (1 ≤ c.count ∧ c.count ≤ 96) &&
  decide (c.words = c.length ∧ c.words ≤ 4096) &&
  (c.stages.all fun s => decide (1 ≤ s.type ∧ s.type ≤ 5) && decide (s.seg ≠ 3) && s.used.all sigOk) &&
  outOf c.vcm 0 && (decide (c.ma = 0) || (outOf c.ma 0 && hasMa)) && (decide (c.man = 0) || outOf c.man 2) &&
  (decide (c.pred = 0) || decide (16 ≤ c.pred ∧ c.pred < 16 + n)) &&
  (List.range n).all fun k => match c.stages[k]? with
    | none => true
    | some s => !s.preset || (decide (s.type = 5) && path.contains k)

/-- The cycles of a segment (R267). -/
def CoefSet.cost (c : CoefSet) (seg : Nat) : Nat :=
  ((c.stages.filter fun s => decide (s.seg = seg)).map fun s => 12 + 4 * coefCount s.type s.n s.m).sum

/-- Law cycles and feed-forward cycles (R267). -/
def CoefSet.cycles (c : CoefSet) : Nat × Nat := (120 + Nat.max (c.cost 0) (c.cost 2), c.cost 1)

/-! ### Stages (R262) -/

/-- Coefficient i of a stage. -/
def Stage.c (s : Stage) (i : Nat) : Bf := { m := s.coef.getD i 0, e := s.cexp }

/-- State i of a stage. -/
def StageSt.x (t : StageSt) (i : Nat) : Bf := { m := t.xs.getD i 0, e := t.e }

/-- A dot product of coefficients from index i with values. -/
def Stage.dot (s : Stage) : Nat → List Bf → List Accum
  | _, [] => []
  | i, v :: vs => (s.c i).mul v :: s.dot (i + 1) vs

/-- One stage: its output from its old states and inputs, then its new states; with the overflows counted. -/
def Stage.run (s : Stage) (t : StageSt) (u : List Bf) : StageSt × Nat :=
  let u0 := u.headD Bf.zero
  let finish (y : Bf × Nat) (xs : List Accum) : StageSt × Nat :=
    let r := normAll t.e xs
    ({ out := y.1, e := r.1, xs := r.2.1 }, y.2 + r.2.2)
  match s.type with
  | 1 =>
    let y := (accSum [(s.c 0).mul u0, (t.x 0).acc]).norm t.out.e
    finish y [accSum [(s.c 1).mul u0, ((s.c 3).mul y.1).neg, (t.x 1).acc], accSum [(s.c 2).mul u0, ((s.c 4).mul y.1).neg]]
  | 2 =>
    let n := s.n
    let xs := (List.range n).map t.x
    let us := u.take s.m
    let y := (accSum (s.dot (n * n + n * s.m) xs ++ s.dot (n * n + n * s.m + n) us)).norm t.out.e
    finish y ((List.range n).map fun i => accSum (s.dot (n * i) xs ++ s.dot (n * n + s.m * i) us))
  | 3 => finish ((accSum (s.dot 0 (u.take s.m))).norm t.out.e) []
  | 4 =>
    let y := if !(s.c 0).le u0 then s.c 0 else if !u0.le (s.c 1) then s.c 1 else u0
    finish (y.acc.norm t.out.e) []
  | 5 =>
    let y := (accSum [(t.x 0).acc, (s.c 0).mul u0]).norm t.out.e
    finish y [accSum [(t.x 0).acc, (s.c 1).mul u0]]
  | _ => (t, 0)

/-- The stages of a running tick: their states, and overflows counted. -/
structure Run where
  sts : List (Nat × StageSt)
  ovf : Nat
deriving DecidableEq, Repr

/-- The value of a signal (Table 09.6): a stage's output as it stands, or a signal supplied to the engine. -/
def signalOf (base : Nat → Bf) (sts : List (Nat × StageSt)) (i : Nat) : Bf :=
  if 16 ≤ i then (sget StageSt.zero sts (i - 16)).out else base i

/-- The stages of a segment run in list order (R266). -/
def runSeg (base : Nat → Bf) (seg : Nat) : Nat → List Stage → Run → Run
  | _, [], r => r
  | k, s :: ss, r =>
    if s.seg = seg then
      let o := s.run (sget StageSt.zero r.sts k) (s.used.map (signalOf base r.sts))
      runSeg base seg (k + 1) ss { sts := sset StageSt.zero r.sts k o.1, ovf := r.ovf + o.2 }
    else runSeg base seg (k + 1) ss r

/-- The PRESET integrators moved by M − u0 and the path to the command computed again (R273 steps 3 and 4): `before`
holds the states at the start of the tick. -/
def rerun (base : Nat → Bf) (path : List Nat) (m u0 : Bf) (before : List (Nat × StageSt)) : Nat → List Stage → Run → Run
  | _, [], r => r
  | k, s :: ss, r =>
    if path.contains k then
      let old := sget StageSt.zero before k
      let start :=
        if s.type = 5 && s.preset then
          let z := normAll old.e [accSum [(old.x 0).acc, m.acc, u0.acc.neg]]
          { old with e := z.1, xs := z.2.1 }
        else old
      let o := s.run start (s.used.map (signalOf base r.sts))
      rerun base path m u0 before (k + 1) ss { sts := sset StageSt.zero r.sts k o.1, ovf := r.ovf + o.2 }
    else rerun base path m u0 before (k + 1) ss r

/-- A command segment, with the back-calculation when the tick asks for it. -/
def runCommand (c : CoefSet) (base : Nat → Bf) (seg sig : Nat) (back : Bool) (m : Bf) (sts : List (Nat × StageSt)) : Run :=
  let r := runSeg base seg 0 c.stages { sts := sts, ovf := 0 }
  if back then rerun base (pathFrom c 97 sig) m (signalOf base r.sts sig) sts 0 c.stages r else r

/-- The states of LAW stages in the first automatic tick (R273 step 1). -/
def presetStates (pes : Bf) : Nat → List Stage → List (Nat × StageSt) → List (Nat × StageSt)
  | _, [], m => m
  | k, s :: ss, m =>
    if s.seg = 0 then
      let t := sget StageSt.zero m k
      let t' : StageSt := if s.type = 2 && s.preset then { t with e := pes.e, xs := [pes.m] } else { t with e := 0, xs := [] }
      presetStates pes (k + 1) ss (sset StageSt.zero m k t')
    else presetStates pes (k + 1) ss m

/-- Stage states carried to another set: stages of the same TYPE, N and M keep theirs (R265). -/
def carryStates (old new : List Stage) (m : List (Nat × StageSt)) : List (Nat × StageSt) :=
  (List.range 96).foldl (fun r k => match old[k]?, new[k]? with
    | some x, some y =>
      if x.type = y.type ∧ x.n = y.n ∧ x.m = y.m then r
      else let t := sget StageSt.zero r k; sset StageSt.zero r k { t with e := 0, xs := [] }
    | _, _ => let t := sget StageSt.zero r k; sset StageSt.zero r k { t with e := 0, xs := [] }) m

/-- The CRC-32 of every state and stage output (R269). -/
def stagesCrc (sts : List (Nat × StageSt)) : Nat :=
  crc32Words (sts.flatMap fun p => p.2.out.word :: p.2.xs.map fun x => ({ m := x, e := p.2.e } : Bf).word)

/-! ### The test generator (R275) -/

/-- π × 2^100. -/
def piScaled : Nat := 3982441812995697363688351113952

/-- sin of an angle in [0, π/2] given × 2^100, × 2^100, by its series. -/
def sinSeries (x : Nat) : Nat → Nat → Nat → Int → Int
  | 0, _, _, s => s
  | f + 1, k, term, s =>
    let s' := if (k / 2) % 2 = 0 then s + term else s - term
    sinSeries x f (k + 2) (term * x / 2 ^ 100 * x / 2 ^ 100 / ((k + 1) * (k + 2))) s'

/-- round(2^23 × sin(2π × k ÷ 4,096)). -/
def sineCode (k : Nat) : Int :=
  let q := k % 4096
  let h := q % 2048
  let j := if h ≤ 1024 then h else 2048 - h
  let x := piScaled * j / 2048
  let v := roundAway (sinSeries x 24 1 x 0 * 2 ^ 23) (2 ^ 100)
  if q < 2048 then v else -v

/-- One shift of the linear feedback shift register of a PRBS length. -/
def prbsStep (sel v : Nat) : Nat :=
  let n := if sel = 0 then 10 else if sel = 1 then 15 else 20
  let t := if sel = 0 then 7 else if sel = 1 then 14 else 17
  let fb := flag (testBit v (n - 1) != testBit v (t - 1))
  (v * 2 + fb) % 2 ^ n

end Sys2Proof.Machine
end

