-- ==== Sys2Proof/Machine/Servo.lean ====
section
/-! DEFINITION. The servo engines: position (R249 to R256), the off-track and shock inhibits (R199, R294 to R296), a
tick of the engine (R266 to R275), capture (R277, R278), seeks and settling (R280 to R288), and mastership of the
rotation clock (R18). -/

namespace Sys2Proof.Machine

/-! ### Status -/

def Dev.srvMode (d : Dev) (a : Act) : Nat := d.f (Reg.SRV_STATUS_MODE_NOW.on a)
def Dev.srvMotion (d : Dev) (a : Act) : Nat := d.f (Reg.SRV_STATUS_MOTION.on a)
def Dev.loadState (d : Dev) (a : Act) : Nat := d.f (Reg.SRV_LOAD_STATUS_STATE.on a)

/-- LOAD_STATUS.STATE, and LOADED with it. -/
def Dev.setLoad (d : Dev) (a : Act) (st : Nat) : Dev :=
  let old := d.f (Reg.SRV_LOAD_STATUS_STATE.on a)
  let d := { d with host := { d.host with
    loads := d.host.loads + flag (decide (st = 2 ∧ old ≠ 2)), unloads := d.host.unloads + flag (decide (st = 0 ∧ old = 3)) } }
  (d.setF (Reg.SRV_LOAD_STATUS_STATE.on a) st).setF (Reg.SRV_LOAD_STATUS_LOADED.on a) (flag (decide (st = 2)))

/-- The event of a load or unload (Table 21.2). -/
def Dev.loadEvent (d : Dev) (a : Act) : Dev :=
  d.event Ev.load (.srv a) (16 * a.idx) (d.reg (Reg.SRV_LOAD_STATUS + 0x10000 * a.idx)).toNat

/-! ### Mastership (R18) -/

/-- An actuator is track-following: automatic, and neither seeking nor settling. -/
def Dev.following (d : Dev) (a : Act) : Bool :=
  d.hasAct a && decide (d.srvMode a = 2) && decide (d.srvMotion a = 3)

/-- The track-following actuator of the lower number. -/
def Dev.bestMaster (d : Dev) : Option Act := if d.following .a0 then some .a0 else if d.following .a1 then some .a1 else none

def Dev.masterAct (d : Dev) : Act := Act.ofBit (d.f Reg.TICK_STATUS_MASTER_ACT)

/-- Mastership given to an actuator's selected head. -/
def Dev.makeMaster (d : Dev) (a : Act) : Dev :=
  if d.masterAct = a ∧ d.f Reg.TICK_STATUS_MASTER_HEAD = d.head a then d
  else ((d.setF Reg.TICK_STATUS_MASTER_ACT a.idx).setF Reg.TICK_STATUS_MASTER_HEAD (d.head a)).setF Reg.TICK_EVENT_HANDOVER 1

/-- The master head as R18 has it; the previous one stays when no actuator follows. -/
def Dev.masterCheck (d : Dev) : Dev := match d.bestMaster with | none => d | some a => d.makeMaster a

/-! ### The reference (R280) -/

/-- The data track pitch of the bound band in 1/65,536 servo track. -/
def Dev.pitchUnits (d : Dev) (a : Act) : Nat := match d.boundBand a with | none => 65536 | some b => 65536 * b.pitchTracks

/-- C of R280 in 1/65,536 servo track. -/
def trackCentre (b : BandRec) (t : Nat) : Int :=
  256 * ((256 * b.track t : Nat) + signed 8 b.offset + (if b.kind = 2 ∨ b.kind = 3 then 128 * b.pitch else 0 : Nat))

/-- REF for a track of a band: jogged for a write, with the rung 3 shift. -/
def Dev.refFor (d : Dev) (a : Act) (h band track : Nat) (write : Bool) : Option Int :=
  match d.band band with
  | none => none
  | some b =>
    let jog : Int := if write then signed 16 (d.f ((Reg.SRV_JOG_JOG.nth h).on a)) else 0
    let shift := roundAway ((d.det.get a).shift * (65536 * b.pitchTracks : Nat)) 100
    some (trackCentre b track - 256 * jog + shift)

/-- The track of a band whose centre lies nearest a position (R283). -/
def nearestTrack (b : BandRec) (p : Int) : Nat :=
  let step : Int := trackCentre b 1 - trackCentre b 0
  let t := if step < 0 then roundAway (trackCentre b 0 - p) step.natAbs else roundAway (p - trackCentre b 0) step.natAbs
  if t < 0 then 0 else Nat.min t.toNat (b.tracks - 1)

/-- The settle window in 1/65,536 servo track and the count for a request (R282). -/
def Dev.settleRule (d : Dev) (a : Act) (write : Bool) : Nat × Nat :=
  if write then (d.f (Reg.SRV_SETTLE_WR_WIN.on a) * d.pitchUnits a / 256, d.f (Reg.SRV_SETTLE_WR_CNT.on a))
  else (d.f (Reg.SRV_SETTLE_RD_WIN.on a) * d.pitchUnits a / 256, d.f (Reg.SRV_SETTLE_RD_CNT.on a))

/-! ### Seeks (R283 to R288) -/

/-- State 2 is entered: the count starts again and this wedge does not count. -/
def Dev.enterSettle (d : Dev) (a : Act) : Dev :=
  ((d.setF (Reg.SRV_STATUS_MOTION.on a) 2).onSrv a fun v => { v with
    settled := false, count := 0, settleTicks := 0, skip := true }).masterCheck

/-- The decision of R283 with a valid position. -/
def Dev.decideSeek (d : Dev) (a : Act) : Dev :=
  let v := d.srv.get a
  match v.pos with
  | none => d
  | some p =>
    let v1 := d.onSrv a fun v => { v with deciding := false }
    if (v.target - p).natAbs ≤ 65536 * d.f (Reg.SRV_SEEK_CFG_SHORT.on a) then
      (v1.onSrv a fun v => { v with ref := v.target }).enterSettle a
    else
      ((v1.setF (Reg.SRV_STATUS_MOTION.on a) 1).onSrv a fun v => { v with due := some false, settled := false }).masterCheck

/-- The target of a request; DARG 1 takes the track nearest the position. -/
def Dev.aim (d : Dev) (a : Act) (r : ServoReq) : Dev :=
  let go (t : Nat) : Dev :=
    match d.refFor a r.head r.band t r.write, d.band r.band with
    | some x, some b => (d.setF (Reg.SRV_TARGET_TRACK.on a) (b.track t)).onSrv a fun v => { v with target := x }
    | _, _ => d
  if r.darg = 1 then
    match (d.srv.get a).pos, d.band r.band with
    | some p, some b => go (nearestTrack b p)
    | _, _ => d
  else go r.track

/-- A head selected by any word (R107, R248): another head starts a hunt and its first position is awaited. -/
def Dev.servoHead (d : Dev) (a : Act) (h : Nat) : Dev :=
  if d.head a = h then d.selectHead a h
  else
    let d1 := (d.selectHead a h).onSrv a fun v => { v with
      hunt := 1, strong := true, pos := none, prev := none, rro := none, recent := [], settled := false }
    if d1.srvMotion a = 3 then d1.enterSettle a else d1

/-- A request taken up (R283). -/
def Dev.startReq (d : Dev) (a : Act) (r : ServoReq) : Dev :=
  let other := decide (d.head a ≠ r.head)
  let d1 := (if other then d.servoHead a r.head else d).onSrv a fun v => { v with
    req := some r, late := 0, gaveUp := false, settled := false, waitReq := none }
  if other ∨ (d1.srv.get a).pos = none ∨ d1.f (Reg.SRV_STATUS_PES_VALID.on a) = 0 then
    (d1.aim a { r with darg := 0 }).onSrv a fun v => { v with deciding := true }
  else (d1.aim a r).decideSeek a

/-- The exception of R282: the head, REF and state stay, and the last wedges already meet the request. -/
def Dev.keepsSettled (d : Dev) (a : Act) (r : ServoReq) : Bool :=
  let v := d.srv.get a
  let w := d.settleRule a r.write
  let d1 := d.aim a r
  decide (d.head a = r.head) && decide (d.srvMotion a = 3) && v.settled &&
  decide ((d1.srv.get a).target = v.target) && decide (v.target = v.ref) && decide (w.2 ≤ v.recent.length) &&
  (v.recent.take w.2).all fun x => match x with | none => false | some p => decide (p ≤ w.1)

/-- SERVO_REQ of DARG 0 or 1 for the bound track (R282, R283, R288). -/
def Dev.servoReq (d : Dev) (a : Act) (darg h : Nat) : Dev :=
  match (d.blk.get a).plank.bind with
  | none => (d.servoHead a h).onSrv a fun v => { v with settled := false }
  | some x =>
    let r : ServoReq := { darg := darg, head := h, band := x.band, track := x.track, write := (d.blk.get a).writing }
    if d.keepsSettled a r then (d.aim a r).onSrv a fun v => { v with req := some r }
    else if (d.srv.get a).traj.isSome ∨ (d.srv.get a).due.isSome then
      d.onSrv a fun v => { v with waitReq := some r, settled := false }
    else d.startReq a r

def execServoReqSeek (a : Act) (head : Nat) (s : State) : Host.Outcome State Fault Refusal :=
  s.next (if s.dev.hasAct a then s.dev.servoReq a 0 (head % 16) else s.dev)

def execServoReqSelect (a : Act) (head : Nat) (s : State) : Host.Outcome State Fault Refusal :=
  s.next (if s.dev.hasAct a then s.dev.servoReq a 1 (head % 16) else s.dev)

/-- Ticks for a distance in 1/65,536 servo track between two entries onward (R285). -/
def seekFrom (dist : Nat) : Nat × Nat → List (Nat × Nat) → Nat
  | p, [] => p.2
  | p, q :: qs =>
    if dist ≤ 65536 * q.1 then
      let den := 65536 * (q.1 - p.1)
      p.2 + ((dist - 65536 * p.1) * (q.2 - p.2) + den - 1) / den
    else seekFrom dist q qs

/-- Tn of a distance (R285). -/
def Dev.seekTicks (d : Dev) (a : Act) (dist : Nat) : Nat :=
  match d.seekTable a with
  | [] => 0
  | p :: ps => if dist ≤ 65536 * p.1 then p.2 else seekFrom dist p ps

/-- REF of a trajectory at its tick k (R284). -/
def Traj.refAt (t : Traj) : Int :=
  if t.n ≤ t.k then t.goal
  else
    let k : Int := t.k
    let n : Int := t.n
    t.ref0 + roundAway ((t.goal - t.ref0) * (10 * k ^ 3 * n ^ 2 - 15 * k ^ 4 * n + 6 * k ^ 5)) (t.n ^ 5)

/-- Signal 2 at tick k (R284). -/
def Dev.trajFf (d : Dev) (a : Act) (t : Traj) : Bf :=
  if t.n = 0 then Bf.zero
  else
    let k : Int := t.k
    let n : Int := t.n
    let ka := Bf.ofWord (d.reg (Reg.SRV_SEEK_KA + 0x10000 * a.idx))
    let num := ka.m * (t.goal - t.ref0) * (60 * k * n ^ 2 - 180 * k ^ 2 * n + 120 * k ^ 3)
    (Accum.norm 0 { v := roundAway (num * 2 ^ 120) (65536 * t.n ^ 5), e := ka.e - 97 }).1

/-- A running test injection ends (R276). -/
def Dev.endInjection (d : Dev) (a : Act) : Dev :=
  if (d.srv.get a).inj.isSome then
    ((d.onSrv a fun v => { v with inj := none }).setF (Reg.SRV_INJ_CTL_DONE.on a) 1).setF (Reg.SRV_INJ_CTL_EN.on a) 0
  else d

/-- A trajectory runs from REF at this edge (R284). -/
def Dev.runTraj (d : Dev) (a : Act) : Dev :=
  let v := d.srv.get a
  (d.endInjection a).onSrv a fun w => { w with
    due := none, stagger := none
    traj := some { k := 0, n := d.seekTicks a (v.target - v.ref).natAbs, ref0 := v.ref, goal := v.target } }

/-- The other actuator's trajectory starts at this same edge. -/
def Dev.sharedStart (d : Dev) : Bool :=
  let v := d.srv.get .a0
  decide (v.due = some true) || (match v.traj with | none => false | some t => decide (t.k = 0))

/-- TRAJECTORY_START at the edge after the decision; actuator 1 waits STAGGER ticks when both would start (R284,
R303). -/
def Dev.trajStart (d : Dev) (a : Act) : Dev :=
  let v := d.srv.get a
  if v.due ≠ some true ∨ v.stagger.isSome then d
  else
    let n := d.f (Reg.SRV_SEEK_CFG_STAGGER.on .a1)
    if a = .a1 ∧ d.sharedStart ∧ n ≠ 0 then d.onSrv a fun v => { v with stagger := some n } else d.runTraj a

def execTrajectoryStart (a : Act) (s : State) : Host.Outcome State Fault Refusal := s.next (s.dev.trajStart a)

/-- STAGGER_EXPIRY (R303). -/
def execStaggerExpiry (s : State) : Host.Outcome State Fault Refusal :=
  s.next (if (s.dev.srv.get .a1).stagger = some 0 then s.dev.runTraj .a1 else s.dev)

/-- TRAJECTORY_END (R284, R288). -/
def Dev.trajEnd (d : Dev) (a : Act) : Dev :=
  match (d.srv.get a).traj with
  | none => d
  | some t =>
    if t.k < t.n then d
    else
      let d1 := (d.onSrv a fun v => { v with traj := none, ref := t.goal }).enterSettle a
      match (d1.srv.get a).waitReq with
      | none => d1
      | some r => d1.startReq a r

def execTrajectoryEnd (a : Act) (s : State) : Host.Outcome State Fault Refusal := s.next (s.dev.trajEnd a)

/-- A trajectory ended before its target, by a park, an unload or a retract (R288). -/
def Dev.stopTraj (d : Dev) (a : Act) : Dev :=
  d.onSrv a fun v => { v with traj := none, due := none, stagger := none, waitReq := none, deciding := false }

/-- SETTLE_LATE (R287). -/
def Dev.settleLate (d : Dev) (a : Act) : Dev :=
  let v := d.srv.get a
  if d.srvMotion a ≠ 2 ∨ v.deciding ∨ v.gaveUp ∨ v.settleTicks < d.f (Reg.SRV_SETTLE_MAX.on a) then d
  else if v.late = 0 then d.onSrv a fun v => { v with late := 1, count := 0, settleTicks := 0 }
  else (d.onSrv a fun v => { v with late := v.late + 1, gaveUp := true, settled := false }).reportFault (.servoEngine a) 7

def execSettleLate (a : Act) (s : State) : Host.Outcome State Fault Refusal := s.next (s.dev.settleLate a)

/-! ### Modes -/

/-- The mode in force changed, in the register the firmware sees and in force. -/
def Dev.setMode (d : Dev) (a : Act) (mode sub : Nat) : Dev :=
  ((d.setF (Reg.SRV_MODE_MODE.on a) mode).setF (Reg.SRV_MODE_MSUB.on a) sub).setF (Reg.SRV_STATUS_MODE_NOW.on a) mode

/-- Mode off (R266, R276): both commands 0, no injection, idle. -/
def Dev.modeOff (d : Dev) (a : Act) : Dev :=
  ((((d.setMode a 0 0).endInjection a).stopTraj a).setF (Reg.SRV_STATUS_MOTION.on a) 0).onSrv a fun v => { v with
    vcm := 0, ma := 0, settled := false, transfer := none, loading := none, latch := none }

/-- Manual mode entered (R272, R274): idle; ramp mode back-calculates its stages (R273). -/
def Dev.modeManual (d : Dev) (a : Act) (sub : Nat) : Dev :=
  (((d.setMode a 1 sub).stopTraj a).setF (Reg.SRV_STATUS_MOTION.on a) 0).onSrv a fun v => { v with
    settled := false, transfer := none, manual := v.vcm, backCalc := decide (sub = 1) }

/-! ### Position (R249 to R256) -/

/-- The binary track number of 22 Gray bits (R249). -/
def grayTrack (g : Nat) : Nat → Nat → Nat
  | 0, _ => 0
  | n + 1, b =>
    let b' := (b + flag (testBit g n)) % 2
    b' * 2 ^ n + grayTrack g n b'

/-- x16 of a burst pair (R252). -/
def fraction (n q : Int) : Int :=
  let s := n.natAbs + q.natAbs
  if q < 0 then roundAway (16384 * n) s
  else
    let x := 32768 - roundAway (16384 * n) s
    if 32768 ≤ x then x - 65536 else x

/-- The candidate among G − 1, G and G + 1 that puts P nearest the prediction, G on a tie (R253). -/
def nearestCand (g x p : Int) : Int :=
  let dist (c : Int) : Nat := (65536 * c + x - p).natAbs
  let best := if dist (g - 1) < dist g then g - 1 else g
  if dist (g + 1) < dist best then g + 1 else best

/-- The position of a wedge, none when it is not valid (R251 to R254). -/
def Dev.position (d : Dev) (a : Act) (o : ServoField) : Option Int :=
  let v := d.srv.get a
  let s := o.n.natAbs + o.q.natAbs
  if !v.marked ∨ v.hunt ≠ 0 ∨ s = 0 ∨ s < d.f (Reg.SRV_DEMOD_CFG_MIN_AMP.on a) then none
  else
    let g : Int := grayTrack o.gray 22 0
    let x := fraction o.n o.q
    let sure := decide (o.weak = 0 ∧ x.natAbs < 16384)
    let fix : Int := match v.rro with | some r => if r.1 = grayTrack o.gray 22 0 then 64 * r.2 else 0 | none => 0
    match v.pos with
    | none => if sure then some (65536 * g + x + fix) else none
    | some p1 =>
      let pred := match v.prev with | none => p1 | some p2 => 2 * p1 - p2
      if v.strong && !sure then none
      else if sure then some (65536 * g + x + fix)
      else if o.weak ≤ 1 then some (65536 * nearestCand g x pred + x + fix)
      else some (65536 * roundAway (pred - x) 65536 + x + fix)

/-- A 24-bit saturated value. -/
def sat24 (p : Int) : Int := if p < -8388608 then -8388608 else if 8388607 < p then 8388607 else p

/-- The demodulator's delivery: counters, position, PES and its flag (R249, R254, R255, R256). -/
def Dev.demod (d : Dev) (a : Act) (o : ServoField) : Dev :=
  let v := d.srv.get a
  let p := d.position a o
  let g := grayTrack o.gray 22 0
  let d1 := if v.marked ∧ 2 ≤ o.weak then d.bumpF (Reg.SRV_DEMOD_CNT_GRAY_BAD.on a) 1 else d
  let d2 := if v.marked ∧ o.runout = none then d1.bumpF (Reg.SRV_DEMOD_CNT_RRO_BAD.on a) 1 else d1
  let rro := if v.marked then (match o.runout with | some r => some (g, signed 8 r) | none => none) else none
  match p with
  | some x =>
    let e := v.ref - x
    let d3 := (d2.setF (Reg.SRV_STATUS_PES_VALID.on a) 1).setF (Reg.SRV_STATUS_PES_MISS.on a) 0
    let d4 := (d3.setF (Reg.SRV_POS_TRACK.on a) (unsigned 22 (roundAway x 65536))).setF (Reg.SRV_PES_PES.on a) (unsigned 24 (sat24 e))
    d4.onSrv a fun v => { v with
      pos := some x, prev := v.pos, strong := false, rro := rro, marked := false
      pes := bfOfInt v.pes.e e 16, recent := (some e.natAbs :: v.recent).take 16 }
  | none =>
    let c := d2.coefSet a (d2.f (Reg.SRV_STATUS_SET.on a))
    let held := if c.pred = 0 then v.pes else (sget StageSt.zero v.stages (c.pred - 16)).out
    let d3 := (d2.setF (Reg.SRV_STATUS_PES_VALID.on a) 0).bumpF (Reg.SRV_STATUS_PES_MISS.on a) 1
    d3.onSrv a fun v => { v with rro := rro, marked := false, pes := held, recent := (none :: v.recent).take 16 }

/-! ### Inhibits from the position error -/

/-- A shock trigger (R295): the inhibit, the event with its gates, the count and the source. -/
def Dev.shock (d : Dev) (a : Act) (source : Nat) : Dev :=
  let d1 := ((d.inhibit a 0x2).laneOff a).raiseEvt a 2
  let d2 := ((d1.bumpF (Reg.SRV_SHOCK_STATUS_COUNT.on a) 1).setF (Reg.SRV_SHOCK_STATUS_SOURCE.on a) source).setF
    (Reg.SRV_SHOCK_STATUS_ACTIVE.on a) 1
  d2.onSrv a fun v => { v with shockNow := true }

/-- The band's off-track threshold in percent (R199). -/
def Dev.offTrackPct (d : Dev) (a : Act) : Nat :=
  match d.boundBand a with
  | some b => if b.kind = 2 ∨ b.kind = 3 then d.f (Reg.WAS_INH_THR_CMR.on a) else d.f (Reg.WAS_INH_THR_SMR.on a)
  | none => d.f (Reg.WAS_INH_THR_SMR.on a)

/-- The off-track decision of a wedge and the shock trigger by position error (R199, R200, R294). -/
def Dev.offTrack (d : Dev) (a : Act) : Dev :=
  let valid := decide (d.f (Reg.SRV_STATUS_PES_VALID.on a) = 1)
  let e := (signed 24 (d.f (Reg.SRV_PES_PES.on a))).natAbs
  let pitch := d.pitchUnits a
  let thr := d.offTrackPct a
  let d1 := d.onWr a fun w => { w with
    ownPes := valid, requal := if valid && decide (200 * e ≤ thr * pitch) then w.requal + 1 else 0 }
  let d2 := if valid && decide (thr * pitch < 100 * e) then d1.inhibit a 0x1 else d1
  if valid && decide (d2.srvMode a = 2) && decide (d2.f (Reg.SRV_SHOCK_CFG_PES_THR.on a) * pitch ≤ 100 * e) then d2.shock a 3 else d2

/-- OFFTRACK_REQUALIFIED (R199). -/
def execOfftrackRequalified (a : Act) (s : State) : Host.Outcome State Fault Refusal :=
  let d := s.dev
  s.next (if d.f (Reg.WAS_WR_CFG_REQUAL.on a) ≤ (d.wr.get a).requal then d.release a 0x1 else d)

/-! ### A tick of the engine (R266) -/

/-- The generator's value g and the next state of the generator (R275). -/
def Inject.value (i : Inject) (type prbs hold df : Nat) : Bf × Inject :=
  if type = 2 then
    let g : Int := if testBit i.lfsr 0 then 1 else -1
    let turn := decide (hold ≤ i.held + 1)
    (bfOfInt 0 g 0, { i with lfsr := if turn then prbsStep prbs i.lfsr else i.lfsr, held := if turn then 0 else i.held + 1 })
  else
    let g := bfOfInt 0 (sineCode (i.phase / 2 ^ 20)) 23
    (g, { i with phase := (i.phase + i.inc) % 2 ^ 32, inc := if type = 1 then (i.inc + df) % 2 ^ 32 else i.inc })

/-- The injected value of a tick (R275). -/
def Dev.injected (d : Dev) (a : Act) : Option (Bf × Inject) :=
  match (d.srv.get a).inj with
  | none => none
  | some i =>
    let r := i.value (d.f (Reg.SRV_INJ_CTL_TYPE.on a)) (d.f (Reg.SRV_INJ_CTL_PRBS.on a)) (d.f (Reg.SRV_INJ_CTL_HOLD.on a))
      (d.f (Reg.SRV_INJ_DF_STEP.on a))
    some ((((Bf.ofWord (d.reg (Reg.SRV_INJ_AMP + 0x10000 * a.idx))).mul r.1).norm 0).1, r.2)

/-- The table offset of the bound band's runout table, and whether it can be used (R290). -/
def Dev.runout (d : Dev) (a : Act) : Option Nat × Bool :=
  match (d.blk.get a).plank.bind with
  | none => (none, true)
  | some x =>
    let base := d.f (Reg.SRV_RRO_DIR_ADDR.on a) * 32
    let p := bits (d.tword (Tbl.runout a) (4 * x.band)) 31 5 * 32
    if p = 0 ∨ p < base ∨ d.f (Reg.SRV_FF_CTL_RRO.on a) = 0 then (none, true)
    else
      let o := p - base
      let n := bits (d.tword (Tbl.runout a) o) 31 22
      let words := (4 + 2 * n + 3) / 4
      if n ≠ d.wedges then (none, true)
      else if crc32Words (d.twords (Tbl.runout a) o words) = (d.tword (Tbl.runout a) (o + 4 * words)).toNat then (some o, true)
      else (none, false)

/-- Signal 3 of a tick (R290). -/
def Dev.runoutSignal (d : Dev) (a : Act) : Bf :=
  match (d.runout a).1 with
  | none => Bf.zero
  | some o =>
    let i := if d.wedges = 0 then 0 else (d.clock.wedge.toNat + 1) % d.wedges
    let w := d.tword (Tbl.runout a) (o + 4 + 2 * i / 4 * 4)
    bfOfInt 0 (signed 16 (if i % 2 = 0 then bits w 15 0 else bits w 31 16)) 12

/-- Signal 7: the back-EMF measurement less the offset found at start-up (R550). -/
def Dev.backEmf (d : Dev) (a : Act) (o : ServoField) : Bf :=
  let v := Bf.ofWord o.velocity
  let z := (d.srv.get a).emf
  if z = Bf.zero then v else ((accSum [v.acc, z.acc.neg]).norm v.e).1

/-- The signals supplied to the engine (Table 09.6); `test` is signal 8, added to PES when the injection's point is
PES. -/
def Dev.signals (d : Dev) (a : Act) (o : ServoField) (test : Bf) (i : Nat) : Bf :=
  let v := d.srv.get a
  let w := d.srv.get a.other
  match i with
  | 1 => if d.f (Reg.SRV_INJ_CTL_POINT.on a) = 2 then ((accSum [v.pes.acc, test.acc]).norm v.pes.e).1 else v.pes
  | 2 => match v.traj with | none => Bf.zero | some t => d.trajFf a t
  | 3 => d.runoutSignal a
  | 4 => if d.f (Reg.SRV_FF_CTL_RVA.on a) = 0 then Bf.zero else Bf.ofWord o.sensorA
  | 5 => if d.f (Reg.SRV_FF_CTL_RVB.on a) = 0 then Bf.zero else Bf.ofWord o.sensorB
  | 6 => if !d.hasAct a.other ∨ d.srvMode a.other = 0 ∨ d.pd.retract.isSome ∨ d.isResetting (.block (.srv a.other)) then Bf.zero
    else bfOfCode w.vcmPrev
  | 7 => d.backEmf a o
  | 8 => test
  | 9 => bfOfCode v.manual
  | 10 => bfOfCode v.vcmPrev
  | 11 => bfOfCode v.maPrev
  | _ => Bf.zero

/-- A current moved toward a goal by at most `slew` (R274). -/
def slewTo (x goal : Int) (slew : Nat) : Int :=
  if x + slew < goal then x + slew else if goal < x - slew then x - slew else goal

/-- What a tick computes: commands, stage states and overflows. -/
structure EngineOut where
  vcm : Int
  ma : Int
  manual : Int
  run : Run
deriving DecidableEq, Repr

/-- The segments of a tick in the mode in force (R266, R273, R274, R275). -/
def Dev.compute (d : Dev) (a : Act) (o : ServoField) (test : Bf) (first : Bool) : EngineOut :=
  let v := d.srv.get a
  let c := d.coefSet a (d.f (Reg.SRV_STATUS_SET.on a))
  let mode := d.srvMode a
  let sub := d.f (Reg.SRV_MODE_MSUB.on a)
  let cur := signed 16 (d.f (Reg.SRV_MAN_CUR_CUR.on a))
  let slew := d.f (Reg.SRV_MAN_CUR_SLEW.on a)
  let point := d.f (Reg.SRV_INJ_CTL_POINT.on a)
  let manual := slewTo (if sub = 0 then v.vcm else v.manual) cur slew
  let base (i : Nat) : Bf := if i = 9 then bfOfCode manual else d.signals a o test i
  let inject (p : Nat) (b : Bf) : Int := (if point = p then ((accSum [b.acc, test.acc]).norm b.e).1 else b).code
  let ff (r : Run) : Run := if o.ffLost then r else runSeg base 1 0 c.stages r
  if mode = 2 then
    let sts := if first then presetStates v.pes 0 c.stages v.stages else v.stages
    let r := runCommand c base 0 c.vcm (first || v.backCalc) (bfOfCode v.vcm) sts
    let vcm := if v.deciding then v.vcm else inject 0 (signalOf base r.sts c.vcm)
    { vcm := vcm, ma := if c.ma = 0 then 0 else inject 1 (signalOf base r.sts c.ma), manual := v.manual, run := ff r }
  else if mode = 1 then
    if sub = 1 then
      let r := runCommand c base 2 c.man (v.backCalc && decide (c.man ≠ 0)) (bfOfCode v.vcm) v.stages
      { vcm := inject 0 (signalOf base r.sts c.man), ma := 0, manual := manual, run := ff r }
    else
      let x := if sub = 0 then manual else cur
      { vcm := inject 0 (bfOfCode x), ma := 0, manual := x, run := ff { sts := v.stages, ovf := 0 } }
  else { vcm := 0, ma := 0, manual := v.manual, run := { sts := v.stages, ovf := 0 } }

/-- A lane is trusted for the tick (R270). -/
def laneTrusted (l : LaneSeen) : Bool := !l.residue && !l.poison && !l.readBad

/-- A mismatch latched in SRVn_LANE_LOG (Table 09.10). -/
def Dev.laneLog (d : Dev) (a : Act) (m : LaneMiss) (lost : Bool) : Dev :=
  if d.f (Reg.SRV_LANE_LOG_VALID.on a) = 1 then d
  else
    let lane := flag (laneTrusted m.a && !laneTrusted m.b)
    d.setReg (Reg.SRV_LANE_LOG + 0x10000 * a.idx)
      (BitVec.ofNat 32 (2 ^ 31 + m.cause % 8 * 2 ^ 28 + lane * 2 ^ 27 + flag lost * 2 ^ 26 + d.clock.wedge.toNat * 2 ^ 16))

/-- What a mismatch does (Table 09.8): one trusted lane drives, or the wedge is lost. -/
def Dev.laneMiss (d : Dev) (a : Act) (m : LaneMiss) : Dev × Bool :=
  let lost := laneTrusted m.a == laneTrusted m.b
  let d1 := (d.bumpF (Reg.SRV_LANE_CNT_MISMATCH.on a) 1).laneLog a m lost
  if lost then
    let d2 := (d1.bumpF (Reg.SRV_LANE_CNT_RELOAD.on a) 2).bumpF (Reg.SRV_LANE_CNT_LOST.on a) 1
    let d3 := if (d.srv.get a).lostAgo ≤ 8 then d2.reportFault (.servoEngine a) 5 else d2
    (d3.onSrv a fun v => { v with lostAgo := 0 }, true)
  else ((d1.bumpF (Reg.SRV_LANE_CNT_RELOAD.on a) 1).setF (Reg.SRV_STATUS_DRIVE.on a) (flag (laneTrusted m.b)), false)

/-- The servo computation of a tick: both lanes, the comparison, the commands sent (R266 to R271). -/
def Dev.engine (d : Dev) (a : Act) (o : ServoField) (first : Bool) : Dev :=
  let test := d.injected a
  let out := d.compute a o (match test with | none => Bf.zero | some p => p.1) first
  let d1 := match test with
    | none => d
    | some p => d.onSrv a fun v => { v with inj := some p.2 }
  let x := match o.miss with | none => (d1, false) | some m => d1.laneMiss a m
  let d2 := if (d.runout a).2 then x.1 else x.1.event Ev.other (.srv a) (d.f (Reg.SRV_RRO_DIR_ADDR.on a) * 32) 0
  if x.2 then
    d2.onSrv a fun v => { v with vcm := v.vcmPrev, ma := v.maPrev }
  else
    let d3 := d2.onSrv a fun v => { v with
      vcm := out.vcm, ma := out.ma, manual := out.manual, stages := out.run.sts, backCalc := false
      lostAgo := Nat.min 9 (v.lostAgo + 1) }
    (d3.bumpF (Reg.SRV_LANE_CNT_OVF.on a) out.run.ovf).setF (Reg.SRV_AGREED_CRC.on a) (stagesCrc out.run.sts)

/-! ### Capture (R277, R278) -/

/-- The value of a capture source (Table 09.9). -/
def Dev.captured (d : Dev) (a : Act) (o : ServoField) (src : Nat) : Word :=
  let v := d.srv.get a
  match src with
  | 112 => (bfOfInt 0 o.n 0).word
  | 113 => (bfOfInt 0 o.q 0).word
  | 114 => ({ m := signed 24 (unsigned 24 (v.pos.getD 0)), e := 7 } : Bf).word
  | 115 => (bfOfInt 0 (signed 8 (o.runout.getD 0)) 10).word
  | 116 => (bfOfCode v.vcm).word
  | 117 => (bfOfCode v.ma).word
  | i => (signalOf (d.signals a o (match d.injected a with | none => Bf.zero | some p => p.1)) v.stages i).word

/-- A capture's trigger (R278): the samples that follow are counted. -/
def Dev.capTrigger (d : Dev) (a : Act) (kind : Nat) : Dev :=
  let c := (d.srv.get a).cap
  if c.on ∧ c.left = none ∧ d.f (Reg.SRV_CAP_CTL_TRIG.on a) = kind then
    let n := if d.f (Reg.SRV_CAP_CTL_MODE.on a) = 1 then 65536 - d.f (Reg.SRV_CAP_CTL_PRE.on a) else 65536
    (d.onSrv a fun v => { v with cap := { v.cap with left := some n } }).setF (Reg.SRV_CAP_STATUS_TRIGGERED.on a) 1
  else d

/-- The number of samples held shown in CAP_STATUS. -/
def Dev.capShow (d : Dev) (a : Act) : Dev := d.setF (Reg.SRV_CAP_STATUS_COUNT.on a) (d.srv.get a).cap.samples.length

/-- One sample of each memory recorded, and recording stopped at its end. -/
def Dev.capSample (d : Dev) (a : Act) (o : ServoField) : Dev :=
  let c := (d.srv.get a).cap
  let ring := decide (d.f (Reg.SRV_CAP_CTL_MODE.on a) = 1)
  if !c.on ∨ (c.left = none ∧ !ring) then d
  else
    let src (x : Fld) : Word := d.captured a o (d.f (x.on a))
    let smp := (src Reg.SRV_CAP_SEL_SIG0, src Reg.SRV_CAP_SEL_SIG1, src Reg.SRV_CAP_SEL_SIG2)
    let left := c.left.map fun n => n - 1
    let stop := decide (left = some 0)
    let d1 := d.onSrv a fun v => { v with cap :=
      { on := !stop, left := left, samples := (smp :: c.samples).take 65536 } }
    let d2 := if 65536 ≤ c.samples.length then d1.setF (Reg.SRV_CAP_STATUS_WRAPPED.on a) 1 else d1
    (if stop then d2.setF (Reg.SRV_CAP_STATUS_DONE.on a) 1 else d2).capShow a

/-- The triggers that a wedge gives: index, |PES|, a shock, a lost wedge. -/
def Dev.capTriggers (d : Dev) (a : Act) : Dev :=
  let v := d.srv.get a
  let x := d.f (Reg.SRV_CAP_TRIG_VALUE.on a)
  let d1 := if d.clock.wedge.toNat = x % 1024 then d.capTrigger a 2 else d
  let d2 := if d1.f (Reg.SRV_STATUS_PES_VALID.on a) = 1 ∧ x < (signed 24 (d1.f (Reg.SRV_PES_PES.on a))).natAbs then d1.capTrigger a 3 else d1
  let d3 := if v.shockNow then d2.capTrigger a 4 else d2
  if v.lostAgo = 0 then d3.capTrigger a 5 else d3

/-- Recording started (R278). -/
def Dev.capArm (d : Dev) (a : Act) (mode trig pre : Nat) : Dev :=
  let d1 := ((d.setF (Reg.SRV_CAP_CTL_MODE.on a) mode).setF (Reg.SRV_CAP_CTL_TRIG.on a) trig).setF (Reg.SRV_CAP_CTL_PRE.on a) pre
  let d2 := d1.setReg (Reg.SRV_CAP_STATUS + 0x10000 * a.idx) 0
  (d2.onSrv a fun v => { v with cap := { on := true, left := none, samples := [] } }).capTrigger a 0

/-- CAP_CTL_ARM written through the fabric (R278, R279). -/
def execCapCtlArm (a : Act) (mode trig pre : Nat) (s : State) : Host.Outcome State Fault Refusal :=
  let d := s.dev
  let addr := Reg.SRV_CAP_CTL + 0x10000 * a.idx
  s.next (if !d.hasAct a then d.absentWrite addr else if d.safe then d.capArm a mode trig pre else d.ignoredWrite addr)

def Dev.capAbort (d : Dev) (a : Act) : Dev :=
  if (d.srv.get a).cap.on then
    (d.onSrv a fun v => { v with cap := { v.cap with on := false } }).setF (Reg.SRV_CAP_STATUS_DONE.on a) 1
  else d

/-- CAP_CTL_ABORT (R278, R279). -/
def execCapCtlAbort (a : Act) (s : State) : Host.Outcome State Fault Refusal :=
  let d := s.dev
  let addr := Reg.SRV_CAP_CTL + 0x10000 * a.idx
  s.next (if !d.hasAct a then d.absentWrite addr else if d.safe then d.capAbort a else d.ignoredWrite addr)

/-- The sample that CAP_RD names, counted from the oldest; a free value where none is held. -/
def Dev.capValue (d : Dev) (a : Act) (poisoned : Bool) : Word :=
  let c := (d.srv.get a).cap
  let i := d.f (Reg.SRV_CAP_RD_INDEX.on a)
  if poisoned then 0x80000000#32
  else
    match c.samples.reverse[i]? with
    | none => BitVec.ofNat 32 (Config.freeNat d.free)
    | some p => match d.f (Reg.SRV_CAP_RD_MEM.on a) with | 0 => p.1 | 1 => p.2.1 | _ => p.2.2

/-- CAP_DATA_READ (R278). -/
def Dev.capRead (d : Dev) (a : Act) (who : Requester) (poisoned : Bool) : Dev :=
  let i := d.f (Reg.SRV_CAP_RD_INDEX.on a)
  ((d.answer who (d.capValue a poisoned)).setF (Reg.SRV_CAP_RD_INDEX.on a) (i + 1)).tookFree

def execCapDataRead (a : Act) (who : Requester) (poisoned : Bool) (s : State) : Host.Outcome State Fault Refusal :=
  s.next (if s.dev.hasAct a then s.dev.capRead a who poisoned else s.dev.answer who 0)

/-! ### Settling after the wedge (R282, R283) -/

/-- The settle count of a wedge. -/
def Dev.settleWedge (d : Dev) (a : Act) : Dev :=
  let v := d.srv.get a
  let valid := decide (d.f (Reg.SRV_STATUS_PES_VALID.on a) = 1)
  let e := (signed 24 (d.f (Reg.SRV_PES_PES.on a))).natAbs
  let w := d.settleRule a (match v.req with | none => false | some r => r.write)
  if d.srvMotion a = 3 then
    if valid then d else d.enterSettle a
  else if d.srvMotion a = 2 ∧ !v.skip ∧ !v.deciding ∧ !v.gaveUp then
    let n := if valid && decide (e ≤ w.1) then v.count + 1 else 0
    let d1 := d.onSrv a fun v => { v with count := n }
    if w.2 ≤ n ∧ n ≠ 0 then
      ((d1.onSrv a fun v => { v with settled := true }).setF (Reg.SRV_STATUS_MOTION.on a) 3).masterCheck
    else d1
  else d

/-- What a valid position lets the device do: decide a seek, end a reacquisition (R283, R293). -/
def Dev.onPosition (d : Dev) (a : Act) : Dev :=
  let v := d.srv.get a
  if d.f (Reg.SRV_STATUS_PES_VALID.on a) = 0 then d
  else
    let d1 := if v.reacq.isSome then (d.onSrv a fun v => { v with reacq := none }).enterSettle a else d
    if v.deciding ∧ d1.srvMode a = 2 then
      (match v.req with | none => d1 | some r => d1.aim a r).decideSeek a
    else d1

/-- A transfer to automatic with this wedge's valid PES (R272, R297 step 2): REF takes the position; a load goes on to
its track. -/
def Dev.transferNow (d : Dev) (a : Act) : Dev :=
  match (d.srv.get a).pos with
  | none => d
  | some p =>
    let d1 := (d.setMode a 2 0).onSrv a fun v => { v with transfer := none, ref := p, target := p, pes := bfOfInt v.pes.e 0 16 }
    let d2 := (d1.setF (Reg.SRV_PES_PES.on a) 0).enterSettle a
    if (d.srv.get a).loading.isSome then
      let t : Int := 65536 * (d2.f (Reg.SRV_LOAD_TRK_TRACK.on a) : Int)
      let d3 := (d2.setF (Reg.SRV_TARGET_TRACK.on a) (d2.f (Reg.SRV_LOAD_TRK_TRACK.on a))).onSrv a fun v => { v with
        target := t, loading := none, loadTries := 0, req := none }
      (d3.setLoad a 2).decideSeek a
    else d2

/-- SERVO_FIELD_END (R255 and what follows in the wedge). -/
def Dev.fieldEnd (d : Dev) (a : Act) (o : ServoField) : Dev :=
  let d1 := d.demod a o
  let valid := decide (d1.f (Reg.SRV_STATUS_PES_VALID.on a) = 1)
  let go := valid && (d1.srv.get a).transfer.isSome
  let d2 := if go then d1.transferNow a
    else d1.onSrv a fun v => { v with transfer := v.transfer.map fun n => n + 1 }
  let d3 := (d2.offTrack a).engine a o go
  let d4 := (((d3.settleWedge a).onPosition a).capTriggers a).capSample a o
  let slow := d.backEmf a o
  let lim := bfOfInt 0 (signed 16 (d.f (Reg.SRV_LOAD_VEL_UNLOAD.on a))).natAbs 21
  let low := !lim.le { slow with m := slow.m.natAbs }
  d4.onSrv a fun v => { v with slowTicks := if low && decide (d4.loadState a = 3) then v.slowTicks + 1 else 0 }

def execServoFieldEnd (a : Act) (o : ServoField) (s : State) : Host.Outcome State Fault Refusal :=
  s.next (if s.dev.hasAct a then s.dev.fieldEnd a o else s.dev)

/-- INJECTION_START (R276). -/
def execInjectionStart (a : Act) (s : State) : Host.Outcome State Fault Refusal :=
  let d := s.dev
  s.next (if d.hasAct a ∧ d.f (Reg.SRV_INJ_CTL_EN.on a) = 1 ∧ (d.srv.get a).inj = none ∧ d.srvMode a ≠ 0 ∧ !(d.blk.get a).writing then
    (d.onSrv a fun v => { v with inj := some { phase := 0, inc := d.f (Reg.SRV_INJ_F0_INC.on a), lfsr := 2 ^ 20 - 1, held := 0 } }).capTrigger a 1
  else d)

/-- TRANSFER_TIMEOUT (R272). -/
def execTransferTimeout (a : Act) (s : State) : Host.Outcome State Fault Refusal :=
  let d := s.dev
  s.next (match (d.srv.get a).transfer with
    | none => d
    | some n =>
      if (d.srv.get a).loading.isSome ∨ n < d.f (Reg.SRV_DEMOD_CFG_PES_MISS_MAX.on a) then d
      else ((d.onSrv a fun v => { v with transfer := none }).setF (Reg.SRV_STATUS_XFER_FAIL.on a) 1).setF (Reg.SRV_MODE_MODE.on a) (d.srvMode a))

end Sys2Proof.Machine
end

