-- ==== Sys2Proof/Machine/Motion.lean ====
section
/-! DEFINITION. Loss of position, shock, load and unload, and the retract by the power die (chapter 10). -/

namespace Sys2Proof.Machine

/-! ### Load and unload (R297 to R299) -/

/-- MAN_CUR.CUR written by the device. -/
def Dev.setCur (d : Dev) (a : Act) (v : Nat) : Dev := d.setF (Reg.SRV_MAN_CUR_CUR.on a) v

/-- An unload starts (R299 step 1): STATE 3, ramp mode toward the outer diameter. -/
def Dev.unload (d : Dev) (a : Act) : Dev :=
  let d1 := ((d.modeManual a 1).setCur a (d.f (Reg.SRV_LOAD_VEL_UNLOAD.on a))).setLoad a 3
  d1.onSrv a fun v => { v with slowTicks := 0, latch := none, loading := none, reacq := none, unloadReq := false }

/-- Heads may be loaded: both supplies good, the spindle within 1 % and the clock running (R297, R320). -/
def Dev.mayLoad (d : Dev) (a : Act) : Bool :=
  decide (d.loadState a = 0 ∨ d.loadState a = 4) && decide (d.f Reg.SPN_STATUS_AT_SPEED = 1) && decide (d.src ≠ 0) &&
  decide (d.f Reg.PWR_SMON_STATUS_GOOD5 = 1) && decide (d.f Reg.PWR_SMON_STATUS_GOOD12 = 1) &&
  !d.fmg.actFailed.get a && decide (d.f (Reg.TNL_STATUS_FAILED.on a) = 0)

/-- A load starts (R297 step 1): ramp mode, hunting. -/
def Dev.startLoad (d : Dev) (a : Act) : Dev :=
  let d1 := ((d.modeManual a 1).setCur a (d.f (Reg.SRV_LOAD_VEL_LOAD.on a))).setLoad a 1
  (d1.release a 0xC).onSrv a fun v => { v with
    loading := some 0, transfer := some 0, hunt := 1, strong := true, pos := none, prev := none, rro := none,
    reacq := none, shockRun := 0, unloadReq := false }

/-- SERVO_REQ DARG 2 (R297). -/
def Dev.servoLoad (d : Dev) (a : Act) (h : Nat) : Dev :=
  let d0 := d.onSrv a fun v => { v with settled := false, loadTries := 0 }
  if d0.mayLoad a then (d0.servoHead a h).startLoad a else d0.loadEvent a

def execServoReqLoad (a : Act) (head : Nat) (s : State) : Host.Outcome State Fault Refusal :=
  s.next (if s.dev.hasAct a then s.dev.servoLoad a (head % 16) else s.dev)

/-- SERVO_REQ DARG 3 (R299); an actuator already on the ramp has nothing to unload. -/
def Dev.servoUnload (d : Dev) (a : Act) : Dev :=
  if d.loadState a = 0 ∨ d.loadState a = 4 then d.onSrv a fun v => { v with settled := true }
  else (d.unload a).onSrv a fun v => { v with unloadReq := true }

def execServoReqUnload (a : Act) (s : State) : Host.Outcome State Fault Refusal :=
  s.next (if s.dev.hasAct a then s.dev.servoUnload a else s.dev)

/-- LOAD_TIMEOUT (R298): a failed load unloads; the third failure is a servo fault. -/
def Dev.loadTimeout (d : Dev) (a : Act) : Dev :=
  match (d.srv.get a).loading with
  | none => d
  | some n =>
    if n < d.f (Reg.SRV_LOAD_TIME_LOAD_MAX.on a) then d
    else
      let tries := (d.srv.get a).loadTries + 1
      let d1 := (d.bumpF (Reg.SRV_LOAD_STATUS_FAILS.on a) 1).unload a
      let d2 := (d1.onSrv a fun v => { v with loadTries := tries }).loadEvent a
      if 3 ≤ tries then (d2.reportFault (.servoEngine a) 7).emergencyPark a else d2

def execLoadTimeout (a : Act) (s : State) : Host.Outcome State Fault Refusal := s.next (s.dev.loadTimeout a)

/-- UNLOAD_VELOCITY_LOW (R299 step 2). -/
def execUnloadVelocityLow (a : Act) (s : State) : Host.Outcome State Fault Refusal :=
  let d := s.dev
  s.next (if d.loadState a = 3 ∧ (d.srv.get a).latch = none ∧ 4 ≤ (d.srv.get a).slowTicks then
    ((d.setMode a 1 0).onSrv a fun v => { v with latch := some 0 })
  else d)

/-- The end of a servo fault's recovery (Table 23.1): the unloaded engine reset under R32, and a load under R297. -/
def Dev.restartEngine (d : Dev) (a : Act) : Dev :=
  let d1 := (d.resetUnit (.block (.srv a))).readyUnit (.block (.srv a))
  let d2 := { d1 with fmg := { d1.fmg with recovering := d1.fmg.recovering.filter fun (u : FUnit) => decide (u ≠ FUnit.servoEngine a) } }
  let d3 := (d2.bumpF Reg.FMG_CNT_RESETS 1).onSrv a fun v => { v with loadTries := 0 }
  if d3.mayLoad a then d3.startLoad a else d3

/-- LATCH_END (R299 step 3): mode off and STATE 0; a load that failed fewer than three times starts again (R298). -/
def Dev.latchEnd (d : Dev) (a : Act) : Dev :=
  match (d.srv.get a).latch with
  | none => d
  | some n =>
    if n < d.f (Reg.SRV_LOAD_TIME_LATCH.on a) then d
    else
      let req := (d.srv.get a).unloadReq
      let tries := (d.srv.get a).loadTries
      let d1 := (d.modeOff a).setLoad a 0
      let d2 := d1.onSrv a fun v => { v with settled := req, unloadReq := false, slowTicks := 0 }
      if FUnit.servoEngine a ∈ d2.fmg.recovering then d2.restartEngine a
      else if 0 < tries ∧ tries < 3 ∧ d2.mayLoad a then d2.startLoad a else d2

def execLatchEnd (a : Act) (s : State) : Host.Outcome State Fault Refusal := s.next (s.dev.latchEnd a)

/-! ### Loss of position (R256, R293) -/

/-- PES_MISS_LIMIT: the servo fault, a hunt and a reacquisition on PRED_SIG. -/
def execPesMissLimit (a : Act) (s : State) : Host.Outcome State Fault Refusal :=
  let d := s.dev
  s.next (if d.srvMode a = 2 ∧ (d.srv.get a).reacq = none ∧
      d.f (Reg.SRV_DEMOD_CFG_PES_MISS_MAX.on a) ≤ d.f (Reg.SRV_STATUS_PES_MISS.on a) then
    (d.reportFault (.servoEngine a) 7).onSrv a fun v => { v with hunt := 1, strong := true, reacq := some 0 }
  else d)

/-- An unload that the device orders by itself (R293, R296): EMERGENCY_PARK for a lost position. -/
def execReacquisitionTimeout (a : Act) (s : State) : Host.Outcome State Fault Refusal :=
  let d := s.dev
  s.next (match (d.srv.get a).reacq with
    | none => d
    | some n => if n < d.f (Reg.SRV_SETTLE_MAX.on a) then d else ((d.emergencyPark a).unload a).loadEvent a)

/-! ### Shock (R294 to R296) -/

/-- SHOCK_SENSOR_TRIGGER: sensor A (1) or B (2). -/
def execShockSensorTrigger (a : Act) (sensorB : Bool) (s : State) : Host.Outcome State Fault Refusal :=
  s.next (if s.dev.hasAct a then
    let d1 := s.dev.shock a (if sensorB then 2 else 1)
    if d1.loadState a = 1 then d1.unload a else d1
  else s.dev)

/-- SHOCK_CLEAR (R296). -/
def execShockClear (a : Act) (s : State) : Host.Outcome State Fault Refusal :=
  let d := s.dev
  s.next (if d.f (Reg.SRV_SHOCK_CFG_HOLD.on a) ≤ (d.srv.get a).shockQuiet ∧ d.inhibited a 0x2 then
    (d.release a 0x2).setF (Reg.SRV_SHOCK_STATUS_ACTIVE.on a) 0
  else d)

/-- SHOCK_PARK (R296). -/
def execShockPark (a : Act) (s : State) : Host.Outcome State Fault Refusal :=
  let d := s.dev
  s.next (if d.f (Reg.SRV_SHOCK_CFG_PARK.on a) = 1 ∧ d.f (Reg.SRV_SHOCK_CFG_PARK_TICKS.on a) ≤ (d.srv.get a).shockRun ∧
      (d.loadState a = 1 ∨ d.loadState a = 2) then
    (((d.stopTraj a).unload a).inhibit a 0xC).setF (Reg.SRV_SHOCK_STATUS_PARKED.on a) 1
  else d)

/-! ### Retract by the power die (R300 to R302) -/

/-- The latched value of a power die register (R305). -/
def Dev.pdReg (d : Dev) (addr : Nat) : Word := sget 0 d.pd.latches addr

/-- An actuator not already on the ramp. -/
def Dev.offRamp (d : Dev) (a : Act) : Bool := d.hasAct a && decide (1 ≤ d.loadState a ∧ d.loadState a ≤ 3)

/-- A retract starts; one that runs ignores later causes (R301). -/
def Dev.retract (d : Dev) (cause : Nat) : Dev :=
  if d.pd.retract.isSome then d
  else
    let d1 := { d with pd := { d.pd with retract := some 0, notice := true, moving := ⟨d.offRamp .a0, d.offRamp .a1⟩ } }
    let d2 := (((d1.setF Reg.PWR_RET_STATUS_VALID 1).setF Reg.PWR_RET_STATUS_ACTIVE 1).setF Reg.PWR_RET_STATUS_CAUSE cause).setF
      Reg.PWR_RET_STATUS_DONE 0
    d2.bumpF Reg.PWR_RET_STATUS_COUNT 1

/-- PWR_RET_GO (R300): honoured at any time. -/
def execPwrRetGo (s : State) : Host.Outcome State Fault Refusal := s.next (s.dev.retract 2)

/-- COMMAND_FRAME_TIMEOUT (R300): 200 µs without a frame from a loaded actuator's engine. -/
def execCommandFrameTimeout (a : Act) (s : State) : Host.Outcome State Fault Refusal :=
  s.next (if s.dev.loadState a = 2 then s.dev.retract 4 else s.dev)

/-- RETRACT_REGULATION_END (R301 step 3). -/
def execRetractRegulationEnd (s : State) : Host.Outcome State Fault Refusal :=
  s.next (if s.dev.pd.retract = some 0 then { s.dev with pd := { s.dev.pd with retract := some 1 } } else s.dev)

/-- RETRACT_LATCH_END (R301 step 4): the drivers are off and the moved actuators latched. -/
def execRetractLatchEnd (s : State) : Host.Outcome State Fault Refusal :=
  let d := s.dev
  s.next (if d.pd.retract = some 1 then
    let d1 := { d with pd := { d.pd with retract := none } }
    (d1.setF Reg.PWR_RET_STATUS_ACTIVE 0).setF Reg.PWR_RET_STATUS_DONE (flag d.pd.moving.a0 + 2 * flag d.pd.moving.a1)
  else d)

/-- The digital die's action at the edge after a retract starts (R302). -/
def Dev.retractNotice (d : Dev) : Dev :=
  if d.pd.notice then
    let one (d : Dev) (a : Act) : Dev :=
      if d.hasAct a then
        ((d.emergencyPark a).modeOff a).setLoad a 4
      else d
    let d1 := one (one { d with pd := { d.pd with notice := false } } .a0) .a1
    d1.event Ev.retract .pwr (d1.reg Reg.PWR_RET_STATUS).toNat 0
  else d

end Sys2Proof.Machine
end

