-- ==== Sys2Proof/Machine/Spindle.lean ====
section
/-! DEFINITION. The spindle (chapter 11): speed and its regulator, commutation from the observer and from the clock,
the start sequence and the loss of the rotor. -/

namespace Sys2Proof.Machine

def Dev.onSpn (d : Dev) (g : Spindle → Spindle) : Dev := { d with spn := g d.spn }

def Dev.spnState (d : Dev) : Nat := d.f Reg.SPN_STATUS_STATE

def Dev.setSpn (d : Dev) (st src : Nat) : Dev := (d.setF Reg.SPN_STATUS_STATE st).setF Reg.SPN_STATUS_SRC src

/-- The target speed of R309, in 0.01 rpm. -/
def Dev.targetSpeed (d : Dev) : Nat :=
  if d.f Reg.SPN_CTL_RUN = 0 then 0
  else match d.f Reg.PDM_STATUS_STATE with
    | 3 => d.f Reg.PDM_PS3_SPEED_SPEED
    | 4 => 0
    | _ => d.f Reg.SPN_SPEED_CMD_SPEED

def Dev.showTarget (d : Dev) : Dev := d.setF Reg.SPN_TARGET_SPEED d.targetSpeed

/-- The current limit (R308): START until speed is reached, RUN afterwards. -/
def Dev.spnLimit (d : Dev) : Nat := if d.spn.reached then d.f Reg.SPN_ILIM_RUN else d.f Reg.SPN_ILIM_START

/-- The regulator's step (R308) for a speed error in ppm. -/
def Dev.regulate (d : Dev) (ppm : Int) : Dev :=
  let e := -ppm
  let lim : Int := d.spnLimit
  let held := (decide (lim ≤ d.spn.amps) && decide (0 < e)) || (decide (d.spn.amps = 0) && decide (e < 0))
  let i := if held then d.spn.integral else d.spn.integral + d.f Reg.SPN_REG_KI * e
  let out := (d.f Reg.SPN_REG_KP * e + i) / 256000
  d.onSpn fun s => { s with integral := i, amps := (if out < 0 then 0 else if lim < out then lim else out).toNat }

/-- The speed inhibit on both actuators (R310). -/
def Dev.speedInhibit (d : Dev) (on : Bool) : Dev :=
  let one (d : Dev) (a : Act) : Dev := if !d.hasAct a then d else if on then d.inhibit a 0x9 else d.release a 0x9
  (one (one d .a0) .a1).setF Reg.SPN_STATUS_INHIBIT (flag on)

/-- SPEED_MEASUREMENT (R310): the time of the last one-sixth revolution in ns. -/
def Dev.measure (d : Dev) (sixthNs : Nat) : Dev :=
  let v := if sixthNs = 0 then 0 else Nat.min (2 ^ 21 - 1) (1000000000000 / sixthNs)
  let t := d.targetSpeed
  let ppm : Int := if t = 0 then 0 else Int.tdiv (((v : Int) - t) * 1000000) t
  let d1 := ((d.showTarget.setF Reg.SPN_SPEED_SPEED v).setF Reg.SPN_ERR_PPM (unsigned 24 (sat24 ppm))).setF
    Reg.SPN_STATUS_AT_SPEED (flag (decide (t ≠ 0 ∧ ppm.natAbs ≤ 10000)))
  let good := if t ≠ 0 ∧ ppm.natAbs ≤ 2000 then d.spn.goodRun + 1 else 0
  let d2 := (d1.onSpn fun s => { s with goodRun := good }).regulate ppm
  if t ≠ 0 ∧ 10000 < ppm.natAbs then
    (if d2.f Reg.SPN_STATUS_INHIBIT = 0 then d2.bumpF Reg.SPN_CNT_INHIBIT 1 else d2).speedInhibit true
  else if 2 ≤ good ∧ d2.f Reg.SPN_STATUS_INHIBIT = 1 then d2.speedInhibit false
  else d2

/-- AT_SPEED ends a start (R314 step 4), and step 8 of start-up (R549). -/
def Dev.speedReached (d : Dev) : Dev :=
  if d.f Reg.SPN_STATUS_AT_SPEED = 1 ∧ d.spnState = 5 then
    let d1 := ({ d with host := { d.host with spinUps := d.host.spinUps + flag !d.spn.reached } }.setF Reg.SPN_STATUS_STATE 6).onSpn
      fun s => { s with reached := true, starts := 0, catching := none }
    if d1.f Reg.SYS_BOOT_STEP = 8 then d1.endStep 8 else d1
  else d

/-! ### Commutation from the clock (R311 to R313) -/

/-- The launch stamp of step edge k: bits [27:0] of the clock (R311). -/
def Dev.edgeStamp (d : Dev) (k : Nat) : Nat :=
  let whole := 2160 * 2 ^ 18
  let num := (d.f Reg.SPN_COMM_MAP_OFS * 2160 + 60 * k * 2 ^ 18 + whole - d.f Reg.SPN_COMM_CFG_ADVANCE * 2 ^ 18) % whole
  num * d.wedges / 2160

/-- The next edge armed as a launch stamp, with no head skew. -/
def Dev.armEdge (d : Dev) : Dev :=
  let others := d.clock.stamps.filter fun t => decide (t.owner ≠ .spindle)
  let s : Stamp := { owner := .spindle, rev := none, pos := d.edgeStamp d.spn.edge, due := d.dueAt (d.edgeStamp d.spn.edge) }
  let next := if d.f Reg.SPN_COMM_MAP_ALIGNED = 1 then others ++ [s] else others
  { d with clock := { d.clock with stamps := next } }

/-- The revolution fraction of the clock in 2^−18. -/
def Dev.revFraction (d : Dev) : Nat := if d.wedges = 0 then 0 else d.clock.pos28 / d.wedges

/-- OFS from the last six step edges: the mean of their offsets modulo 1/36 revolution (R312). -/
def offsetOf (adv : Nat) (edges : List (Nat × Nat)) : Nat :=
  let whole : Int := 60 * 2 ^ 18
  let off (p : Nat × Nat) : Int := ((p.1 : Int) * 2160 + adv * 2 ^ 18 - 60 * p.2 * 2 ^ 18) % whole
  match edges with
  | [] => 0
  | p :: ps =>
    let r := off p
    let near (x : Int) : Int := let y := (x - r) % whole; if whole / 2 < y then y - whole else y
    let sum := ps.foldl (fun s q => s + near (off q)) 0
    (((r + Int.tdiv sum (ps.length + 1)) % whole) / 2160).toNat

/-- Commutation returns to the observer (R313, and after a clock step). -/
def Dev.toObserver (d : Dev) : Dev :=
  let d1 := (d.setF Reg.SPN_COMM_MAP_ALIGNED 0).onSpn fun s => { s with agreeing := 0 }
  (if d1.f Reg.SPN_STATUS_SRC = 3 then d1.setF Reg.SPN_STATUS_SRC 2 else d1).armEdge

/-- The clock source becomes coarse when a stopped spindle turns (Table 01.5). -/
def Dev.turning (d : Dev) : Dev :=
  if d.src = 0 then (d.setF Reg.TICK_STATUS_SRC 1).setF Reg.TICK_EVENT_COARSE_ENTRY 1 else d

/-- COMMUTATION_STEP (R306, R307, R310, R311, R313): the step edge, the measurement and the next edge. -/
def Dev.commutate (d : Dev) (sixthNs : Nat) : Dev :=
  if d.f Reg.SPN_STATUS_SRC = 0 then d.measure sixthNs
  else
    let k := (d.spn.edge + 1) % 36
    let edges := if d.src = 2 ∨ d.src = 3 then ((d.revFraction, d.spn.edge) :: d.spn.edges).take 6 else []
    let d0 := if d.src = 0 ∨ d.src = 1 then (if d.f Reg.SPN_COMM_MAP_ALIGNED = 1 then d.toObserver else d) else d
    let d1 := d0.onSpn fun s => { s with
      step := (s.step + 1) % 6, edge := k, edges := edges, afterStep := s.afterStep - 1 }
    ((d1.turning.measure sixthNs).speedReached).armEdge

def execCommutationStep (sixthNs : Nat) (s : State) : Host.Outcome State Fault Refusal := s.next (s.dev.commutate sixthNs)

/-! ### Starting (R314 to R317) -/

/-- The event of a spindle fault or loss (Table 21.2). -/
def Dev.spnEvent (d : Dev) : Dev :=
  d.event Ev.spindle .spn (d.reg Reg.SPN_EVENT).toNat (d.reg Reg.SPN_SPEED).toNat

/-- Both supplies are good, the power die is cool enough for a start and no thermal hold is active (R320, R527, R549). -/
def Dev.mayStart (d : Dev) : Bool :=
  decide (d.f Reg.PWR_SMON_STATUS_GOOD5 = 1) && decide (d.f Reg.PWR_SMON_STATUS_GOOD12 = 1) &&
  decide (signed 16 (d.f (Reg.PDM_TEMP_TEMP.nth 3)) < 460) && decide (d.f Reg.PDM_THERM_STATUS_HOLD = 0) &&
  decide (d.f Reg.SPN_STATUS_FAULT = 0)

/-- The start begins with the sense window (R314). -/
def Dev.beginStart (d : Dev) : Dev :=
  (d.setSpn 1 0).onSpn fun s => { s with
    amps := 0, integral := 0, reached := false, sensed := 0, confirmed := 0, wanted := false, waiting := false,
    catching := none }

/-- A wanted start begins once its conditions hold. -/
def Dev.tryStart (d : Dev) : Dev :=
  let d1 := d.showTarget
  if d1.targetSpeed ≠ 0 ∧ d1.spnState = 0 ∧ !d1.spn.waiting then
    if d1.mayStart then d1.beginStart else d1.onSpn fun s => { s with wanted := true }
  else d1

/-- The drive turned off: a turning spindle coasts to rest. -/
def Dev.driveOff (d : Dev) (st : Nat) : Dev :=
  ((d.setSpn st 0).setF Reg.SPN_COMM_MAP_ALIGNED 0).onSpn fun s => { s with amps := 0, integral := 0 }

/-- RUN written (R309, R314): 1 starts or keeps the spindle running, 0 sets the target to 0. -/
def Dev.spinRun (d : Dev) (run : Bool) : Dev :=
  let d1 := d.setF Reg.SPN_CTL_RUN (flag run)
  if run then d1.tryStart
  else
    let d2 := d1.showTarget.onSpn fun s => { s with wanted := false, waiting := false }
    if d2.spnState = 0 then d2 else (d2.driveOff 8).armEdge

/-- SPN_CTL_RUN (R314, R326): `cal` when the write comes through the calibration packets. -/
def execSpnCtlRun (cal run : Bool) (s : State) : Host.Outcome State Fault Refusal :=
  s.next (if cal then s.dev.spinRun run else s.dev.ignoredWrite Reg.SPN_CTL)

/-- The drive catches on the fly (Table 11.2): it waits for three consecutive crossings. -/
def Dev.catchFly (d : Dev) (loss : Bool) : Dev :=
  (d.setSpn 5 0).onSpn fun s => { s with catching := some loss, confirmed := 0, amps := 0 }

/-- Align and go (R315). -/
def Dev.alignGo (d : Dev) : Dev :=
  (d.setSpn 3 1).onSpn fun s => { s with step := 0, edge := 0, confirmed := 0, amps := d.f Reg.SPN_ILIM_START }

/-- SENSE_END (R314, Table 11.2): with the direction and the speed in rpm that the crossings gave. -/
def Dev.senseEnd (d : Dev) (backward : Bool) (rpm : Nat) : Dev :=
  if d.spnState ≠ 1 then d
  else
    let d1 := d.setF Reg.SPN_STATUS_DIR (flag backward)
    if d.spn.sensed < 3 ∨ rpm < 60 then d1.alignGo
    else if backward then (d1.setSpn 2 0).setF Reg.SPN_EVENT_BRAKED 1
    else d1.catchFly false

def execSenseEnd (backward : Bool) (rpm : Nat) (s : State) : Host.Outcome State Fault Refusal :=
  s.next (s.dev.senseEnd backward rpm)

/-- BRAKE_END (Table 11.2): another sense window runs. -/
def execBrakeEnd (s : State) : Host.Outcome State Fault Refusal :=
  s.next (if s.dev.spnState = 2 then (s.dev.setSpn 1 0).onSpn fun x => { x with sensed := 0 } else s.dev)

/-- ALIGN_END (R315): the first forced step, of 40 ms. -/
def execAlignEnd (s : State) : Host.Outcome State Fault Refusal :=
  s.next (if s.dev.spnState = 3 then
    (s.dev.setSpn 4 1).onSpn fun x => { x with step := 1, edge := 1, forcedNs := 40000000 } else s.dev)

/-- The observer takes over (R314 step 3, R315). -/
def Dev.observerDrives (d : Dev) : Dev := (d.setSpn 5 2).onSpn fun s => { s with catching := none }

/-- FORCED_STEP (R315): the next step, 10 % shorter, until the forced speed reaches OBS_MIN. -/
def Dev.forcedStep (d : Dev) : Dev :=
  if d.spnState ≠ 4 then d
  else
    let t := d.spn.forcedNs * 9 / 10
    let d1 := d.turning.onSpn fun s => { s with step := (s.step + 1) % 6, edge := (s.edge + 1) % 36, forcedNs := t }
    if 60000000000 < d.f Reg.SPN_START_CFG_OBS_MIN * 36 * t then d1 else d1.observerDrives

def execForcedStep (s : State) : Host.Outcome State Fault Refusal := s.next s.dev.forcedStep

/-- A start under way: from the end of sensing until AT_SPEED. -/
def Dev.starting (d : Dev) : Bool := decide (2 ≤ d.spnState ∧ d.spnState ≤ 5)

/-- A spindle fault (R316, R317): stopped with FAULT set, and the fault manager told. -/
def Dev.spindleFault (d : Dev) : Dev :=
  (((d.driveOff 7).setF Reg.SPN_STATUS_FAULT 1).onSpn fun s => { s with waiting := false }).reportFault .spindle 7

/-- LOCKED_ROTOR (R316). -/
def Dev.lockedRotor (d : Dev) : Dev :=
  if !d.starting then d
  else
    let n := d.spn.starts + 1
    let d1 := ((d.driveOff 7).setF Reg.SPN_EVENT_LOCKED 1).bumpF Reg.SPN_CNT_LOCKED 1
    let d2 := (d1.onSpn fun s => { s with starts := n, waiting := true }).spnEvent
    if d.f Reg.SPN_LOCK_CFG_RETRIES ≤ n then d2.spindleFault else d2

def execLockedRotor (s : State) : Host.Outcome State Fault Refusal := s.next s.dev.lockedRotor

/-- LOCK_RETRY (R316): the start runs again from sensing. -/
def execLockRetry (s : State) : Host.Outcome State Fault Refusal :=
  let d := s.dev
  s.next (if d.spn.waiting ∧ d.targetSpeed ≠ 0 then
    (if d.mayStart then d.beginStart else d.onSpn fun x => { x with wanted := true, waiting := false }) else d)

/-- START_TIMEOUT (R317). -/
def execStartTimeout (s : State) : Host.Outcome State Fault Refusal :=
  let d := s.dev
  s.next (if d.starting ∨ d.spnState = 1 ∨ d.spn.waiting then
    (((d.setF Reg.SPN_EVENT_LOCKED 1).setF Reg.SPN_EVENT_TIMEOUT 1).spnEvent).spindleFault else d)

/-! ### The observer, and losing the rotor (R312, R318) -/

/-- A full restart from sensing (Table 11.3). -/
def Dev.restart (d : Dev) : Dev :=
  ((d.setF Reg.SPN_EVENT_RESTART 1).bumpF Reg.SPN_CNT_RESTART 1).beginStart

/-- ROTOR_LOST (R318). -/
def Dev.rotorLost (d : Dev) : Dev :=
  let d1 := (((d.setF Reg.SPN_EVENT_OBS_LOST 1).bumpF Reg.SPN_CNT_OBS_LOST 1).setF Reg.SPN_OBS_MISSED 0).spnEvent
  if d.f Reg.SPN_COMM_MAP_ALIGNED = 1 then d1.onSpn fun s => { s with confirmed := 0 }
  else (d1.setSpn 7 0).onSpn fun s => { s with amps := 0, catching := some true, confirmed := 0 }

/-- A crossing's phase error checked (R312, R318). -/
def Dev.checkCrossing (d : Dev) (err : Int) : Dev :=
  let d1 := (d.setF Reg.SPN_OBS_PHASE_ERR (unsigned 8 err)).setF Reg.SPN_OBS_MISSED 0
  if 30 < err.natAbs then d1.rotorLost
  else if d.f Reg.SPN_COMM_MAP_ALIGNED = 1 ∨ (d.src ≠ 2 ∧ d.src ≠ 3) ∨ d.spn.edges.length < 6 ∨ d.spn.afterStep ≠ 0 then d1
  else
    let n := if err.natAbs ≤ 5 then d.spn.agreeing + 1 else 0
    let d2 := if d.spn.agreeing = 0 then
        d1.setF Reg.SPN_COMM_MAP_OFS (offsetOf (d.f Reg.SPN_COMM_CFG_ADVANCE) d.spn.edges)
      else d1
    let d3 := d2.onSpn fun s => { s with agreeing := n }
    if 6 ≤ n then ((d3.setF Reg.SPN_COMM_MAP_ALIGNED 1).setF Reg.SPN_STATUS_SRC 3).armEdge else d3

/-- ZERO_CROSSING (R312, R314 to R316, R318): `err` the difference from the expected instant in electrical degrees;
`fits` when it agrees with the forced or observed steps. -/
def Dev.crossing (d : Dev) (err : Int) (fits : Bool) : Dev :=
  let n := if fits then d.spn.confirmed + 1 else 0
  let d1 := d.onSpn fun s => { s with confirmed := n }
  match d.spnState with
  | 1 => d.onSpn fun s => { s with sensed := s.sensed + 1 }
  | 4 => if 3 ≤ n then d1.observerDrives else d1
  | 5 =>
    match d.spn.catching with
    | none => d1.checkCrossing err
    | some _ => if 3 ≤ n then d1.observerDrives else d1
  | 6 => d1.checkCrossing err
  | _ => d1

def execZeroCrossing (err : Int) (fits : Bool) (s : State) : Host.Outcome State Fault Refusal :=
  s.next (s.dev.crossing err fits)

/-- MISSED_CROSSING (R318). -/
def execMissedCrossing (s : State) : Host.Outcome State Fault Refusal :=
  let d := s.dev
  s.next (if d.spnState = 6 then
    let d1 := d.bumpF Reg.SPN_OBS_MISSED 1
    if 3 ≤ d1.f Reg.SPN_OBS_MISSED then d1.rotorLost else d1
  else d)

/-- COAST_END (Table 11.3): after one electrical cycle the spindle catches on the fly. -/
def execCoastEnd (s : State) : Host.Outcome State Fault Refusal :=
  let d := s.dev
  s.next (if d.spnState = 7 ∧ d.spn.catching = some true then d.catchFly true else d)

/-- CATCH_TIMEOUT (Table 11.3): no catch within 50 ms of the loss. -/
def execCatchTimeout (s : State) : Host.Outcome State Fault Refusal :=
  let d := s.dev
  s.next (if d.spn.catching = some true ∧ (d.spnState = 5 ∨ d.spnState = 7) then d.restart else d)

/-- SPINDLE_STOPPED: a coasting or stopping spindle comes to rest; with no head loaded the clock stops (Table 01.5). -/
def Dev.spinStopped (d : Dev) : Dev :=
  if d.spnState ≠ 7 ∧ d.spnState ≠ 8 then d
  else
    let d1 := (((d.setSpn 0 0).setF Reg.SPN_SPEED_SPEED 0).setF Reg.SPN_STATUS_AT_SPEED 0).onSpn fun s => { s with
      catching := none, edges := [], agreeing := 0 }
    if d.loadState .a0 = 2 ∨ d.loadState .a1 = 2 then d1 else d1.setF Reg.TICK_STATUS_SRC 0

def execSpindleStopped (s : State) : Host.Outcome State Fault Refusal := s.next s.dev.spinStopped.tryStart

/-- SPIN_UP (R549): the start is ordered; it begins once supplies and temperature allow. -/
def execSpinUp (s : State) : Host.Outcome State Fault Refusal :=
  s.next (if s.dev.safe ∨ s.dev.f Reg.FMG_STATUS_HOLD = 1 then s.dev else s.dev.spinRun true)

end Sys2Proof.Machine
end

