-- ==== Sys2Proof/Machine/Fragment.lean ====
section
/-! DEFINITION. Fragments of a record in the data path (R109, R172 to R176, R197 to R202, R582): starting and finishing a
read or a write fragment, and what a LAST fragment leads to. -/

namespace Sys2Proof.Machine

/-- The tag of the request in G8 (Table 04.6). -/
def Blocker.tag (b : Blocker) : Nat := bits (sget 0 b.g 8) 23 0

/-- The plan in G13 (R178). -/
def Blocker.planCode (b : Blocker) : Nat := bits (sget 0 b.g 13) 31 28

/-- The format of the bound table. -/
def Blocker.format (b : Blocker) : Nat := match b.plank.bind with | some x => x.format | none => 0

/-! ### Reads -/

/-- The record in the ladder that a read of a place attempts again (R182). -/
def Dev.attempted (d : Dev) (a : Act) (band pos : Nat) : Option LadderRec :=
  match (d.det.get a).active with
  | some r => if r.band = band ∧ r.pos = pos ∧ 3 ≤ r.rung ∧ r.rung ≤ 6 then some r else none
  | none => none

/-- An attempt's buffer (R182): the record's held one, or the first that becomes free. -/
def Detect.ladderCapture (t : Detect) (r : LadderRec) : Detect :=
  match t.bufOf r.tag r.slot with
  | some _ => t
  | none =>
    match oldestBuf .free false t.bufs with
    | some i => t.setBuf i .held r.tag r.slot
    | none => t

/-- The lane words of a rate-zone record, lane by lane (Table 05.3). -/
def laneWords (rz : List (Nat × Word)) : List (Nat × (Word × Word)) :=
  (List.range 3).map fun e => (e, (sget 0 rz (6 + 2 * e), sget 0 rz (7 + 2 * e)))

/-- The read gate of a FRAG 0 fragment (R138, R149, R176): the record's values are latched, and a buffer is taken. -/
def Dev.openRecord (d : Dev) (a : Act) (e : PlankEntry) (darg band pos : Nat) (sampled : Bool) : Dev :=
  let b := d.blk.get a
  let h := d.head a
  let declared := sget 0 d.conf.readers (12 * a.idx + h)
  let one := testBit darg 0 || decide (d.readerMask a h ≠ declared)
  let d1 := d.onChn a fun c => { c with
    latched := c.rz, live := laneWords c.rz, deviation := 0, syncDistrust := false, sync2Used := false
    e1only := testBit darg 0, lanes := d.readerMask a h }
  let d2 := d1.onBlk a fun b => { b with cut := !sampled, noback := false, recOpen := some (band, pos, e.slot), single := one }
  match d.attempted a band pos with
  | some r => d2.onDet a fun t => t.ladderCapture r
  | none =>
    if testBit darg 1 || !sampled then d2
    else
      let c := (d2.det.get a).capture b.tag e.slot b.format
      (d2.onDet a fun _ => c.2).onBlk a fun b => { b with noback := c.1 }

/-- READ_FRAG issued with the current DATA entry (R109): the fragment runs until its field ends. -/
def Dev.beginRead (d : Dev) (a : Act) (darg : Nat) : Dev :=
  let b := d.blk.get a
  match b.entry, b.place with
  | some e, some p =>
    let run : FragRun := { write := false, entry := e, darg := darg, band := p.1, pos := p.2, sampled := b.rg }
    let d1 := if e.first then d.openRecord a e darg p.1 p.2 b.rg
      else d.onBlk a fun b => { b with cut := b.cut || !b.rg }
    d1.onBlk a fun b => { b with frag := some run, fragLast := e.last }
  | _, _ => d

/-- The placement of a read fragment by its marks (R172 to R174). -/
def Dev.placeFrag (d : Dev) (a : Act) (r : FragRun) (o : FragObs) : Dev :=
  let c := d.chn.get a
  let sameRev := decide (c.liveRev = d.clock.rev.toNat) && !r.entry.first
  let found := if r.sampled then o.primary else none
  let second := if r.sampled && r.entry.smark2 then o.secondary else none
  let dp : Int := match found with | some x => x | none => if sameRev then c.deviation else 0
  let win : Nat := d.f (Reg.CHN_SYNC_CFG_WIN1.on a)
  let far := match found, second with
    | some p, some s => decide (win < (s - p).natAbs)
    | _, _ => false
  let used := found.isNone && second.isSome
  let dev : Int := match found, second with | none, some s => s | _, _ => dp
  (d.onChn a fun c => { c with
    deviation := dev, liveRev := d.clock.rev.toNat
    syncDistrust := c.syncDistrust || far, sync2Used := c.sync2Used || used
    live := if r.sampled then o.live.zipIdx.map fun p => (p.2, p.1) else c.live }).onBlk a fun b =>
      { b with syncFound := found.isSome }

/-- The counts of R157 after a fragment read on the selected head. -/
def Dev.countLanes (d : Dev) (a : Act) (bad : Nat) : Dev :=
  let h := d.head a
  d.onChn a fun c => { c with badRun := (List.range 3).foldl (fun m e =>
    sset 0 m (3 * h + e) (if testBit bad e then sget 0 m (3 * h + e) + 1 else 0)) c.badRun }

/-- AFEn_SAT_CNT: the saturated samples of the lane it shows. -/
def Dev.countSaturated (d : Dev) (a : Act) (n : List Nat) : Dev :=
  d.bumpF (Reg.AFE_SAT_CNT_COUNT.on a) (n.getD (d.f (Reg.AFE_LIVE_SEL_LANE.on a)) 0)

/-- The record whose fragments have just been read, as it enters the decoder. -/
def Dev.readRec (d : Dev) (a : Act) (band pos slot : Nat) : LadderRec :=
  let b := d.blk.get a
  let c := d.chn.get a
  { tag := b.tag, band := band, pos := pos, slot := slot, conv := decide (b.format = 1), rung := 0, plan := b.planCode,
    noback := b.noback || b.cut, distrust := c.syncDistrust, ends := true, single := b.single, sync2 := c.sync2Used,
    cut := b.cut }

/-- A LAST fragment of an ordinary read (R109, R174, R582): a decode waits to start, or the record fails rung 0. -/
def Dev.lastRead (d : Dev) (a : Act) (r : LadderRec) : Dev :=
  if r.cut || r.distrust then d.failRung0 a r else d.onDet a fun t => { t with ready := t.ready ++ [r] }

/-- How an attempt at a rung from 3 to 6 is used (R183 to R186): whether it is decoded, and whether its failure ends the
rung. -/
def Dev.attemptUse (d : Dev) (a : Act) (rung darg : Nat) : Bool × Bool :=
  match rung with
  | 3 => (true, decide (d.shifts.length ≤ (d.det.get a).shiftIdx + 1))
  | 4 => (decide (darg / 4 % 4 ≠ 1), decide (darg / 4 % 4 = 3))
  | 5 => (true, false)
  | _ => (true, true)

/-- The LAST fragment of an attempt (R182): the read joins the soft combination of rung 4, and is decoded or fails. -/
def Dev.lastAttempt (d : Dev) (a : Act) (q : LadderRec) (darg : Nat) : Dev :=
  let b := d.blk.get a
  let use := d.attemptUse a q.rung darg
  let r : LadderRec := { q with ends := use.2, single := b.single, cut := b.cut, distrust := false,
                                sync2 := (d.chn.get a).sync2Used }
  let d1 := d.onDet a fun t => { t with
    attempt := true
    llrReads := if q.rung ≠ 4 then t.llrReads else if darg / 4 % 4 = 1 then 1 else t.llrReads + 1 }
  if r.cut then (if use.2 then d1.ladderOn a q else d1)
  else if use.1 then d1.onDet a fun t => { t with ready := t.ready ++ [r] }
  else d1

/-- A neighbour track read for rung 6 (R186): the side it lies on is kept. -/
def Dev.neighbourRead (d : Dev) (a : Act) : Dev :=
  match (d.det.get a).active, d.boundBand a, (d.blk.get a).plank.bind with
  | some r, some b, some x =>
    match d.band r.band with
    | none => d
    | some rb =>
      let track := rb.track (if x.slots = 0 then 0 else r.pos / x.slots)
      let side := if b.track x.track < track then 0 else 1
      if r.rung = 6 then d.onDet a fun t => { t with neighbours := t.neighbours ||| 2 ^ side } else d
  | _, _, _ => d

/-- A read fragment's field has ended (R106, R109): it is placed and counted, and a LAST one leads to a decode. -/
def Dev.endRead (d : Dev) (a : Act) (r : FragRun) (o : FragObs) : Dev :=
  let d1 := d.onBlk a fun b => { b with frag := none, rg := false, cut := b.cut || !r.sampled }
  let d2 := d1.placeFrag a r o
  let d3 := if r.sampled then (d2.countLanes a o.bad).countSaturated a o.saturated else d2
  if !r.entry.last then d3
  else
    let d4 := d3.onBlk a fun b => { b with recOpen := none }
    if testBit r.darg 1 then d4.neighbourRead a
    else
      match d4.attempted a r.band r.pos with
      | some q => d4.lastAttempt a q r.darg
      | none => d4.lastRead a (d4.readRec a r.band r.pos r.entry.slot)

/-- READ_FRAG: the fragment in progress ends; with none in progress the current DATA entry is read. -/
def Dev.readFrag (d : Dev) (a : Act) (darg : Nat) (o : FragObs) : Dev :=
  let d1 := match (d.blk.get a).frag with
    | some _ => d
    | none => (d.openRead a).beginRead a darg
  match (d1.blk.get a).frag with
  | some r => if r.write then d else d1.endRead a r o
  | none => d

def execReadFrag (a : Act) (darg : Nat) (o : FragObs) (s : State) : Host.Outcome State Fault Refusal :=
  s.next (if s.dev.hasAct a then (s.dev.readFrag a (darg % 16) o).settle else s.dev)

/-! ### Writes -/

/-- WRITE_FRAG issued with the current DATA entry (R197, R201): a fragment whose gate is not open is a write fault unless
the gate's refusal has been one already. -/
def Dev.beginWrite (d : Dev) (a : Act) (refused : Bool) : Dev :=
  let b := d.blk.get a
  match b.entry, b.place with
  | some e, some p =>
    let run : FragRun := { write := true, entry := e, darg := 0, band := p.1, pos := p.2, sampled := true }
    let d1 := d.onBlk a fun b => { b with fragLast := e.last }
    if b.wg then d1.onBlk a fun b => { b with frag := some run, recOpen := some (p.1, p.2, e.slot) }
    else if refused then d1
    else d1.writeFault a 0
  | _, _ => d

/-- A bolt is to be checked after its write (R217, R218): its head is due one, it lies at MARK_POS of a KIND 0 band, or
it replaces a bolt that failed its check. -/
def Dev.isMarked (d : Dev) (a : Act) (band pos : Nat) : Bool :=
  let w := d.wr.get a
  let kind0 := match d.band band with | some b => decide (b.kind = 0) | none => false
  sget false w.markNext (d.head a) || (kind0 && decide (pos = d.f (Reg.WAS_RAW_CFG_MARK_POS.on a))) ||
  w.marked.any fun m => decide (m = (d.head a, band, pos))

/-- A zoned bolt has been written (R202, R218, R333): it stands, and leaves the cache unless its check is due. -/
def Dev.boltStands (d : Dev) (a : Act) (info : TagInfo) (band pos : Nat) (p : Place) : Dev :=
  let zb := d.media.zoneBlocks
  let z := info.lba / zb
  let b := info.lba % zb / 8
  let zn := d.zone z
  let valid := Nat.min 8 (zn.wp - 8 * b)
  let d1 := (d.storeRec band pos (d.boltRec p z b valid (zn.boltData b))).onBlk a fun k =>
    { k with stood := k.stood ++ [(z, b)] }
  if d.isMarked a band pos then
    let m := (d.head a, band, pos)
    let d2 := d1.onWr a fun w => { w with
      marked := if m ∈ w.marked then w.marked else w.marked ++ [m]
      markNext := sset false w.markNext (d.head a) false }
    d2.askRecord 2 p 2 0xF { info with write := false }
  else d1.boltWritten z b

/-- A record whose LAST fragment ended without a fault stands (R202). -/
def Dev.recordStands (d : Dev) (a : Act) (band pos : Nat) : Dev :=
  let d1 := (d.onWr a fun w => { w with faultRun := 0, fragsWritten := 0 }).onBlk a fun b =>
    { b with completed := b.completed + 1, recOpen := none }
  match sget none d.host.tags (d.blk.get a).tag, d.band band with
  | some info, some b =>
    let p := d.placeAt band b pos 0
    if b.kind = 0 then d1.boltStands a info band pos p
    else if b.kind = 2 then
      match d.host.dirty.find? fun q => decide (q.1 = info.lba) with
      | some q => (d1.storeRec band pos (d1.convRec p info.lba q.2)).convWritten info.lba info.copy
      | none => d1.convWritten info.lba info.copy
    else d1
  | _, _ => d1

/-- A write fragment's field has ended without a fault (R106, R202). -/
def Dev.endWrite (d : Dev) (a : Act) (r : FragRun) : Dev :=
  let d1 := (d.closeWrite a).onBlk a fun b => { b with frag := none }
  let d2 := d1.onWr a fun w => { w with fragsWritten := w.fragsWritten + 1 }
  if r.entry.last then d2.recordStands a r.band r.pos else d2

/-- WRITE_FRAG: the fragment in progress ends; with none in progress the current DATA entry is written. -/
def Dev.writeFrag (d : Dev) (a : Act) : Dev :=
  let d1 := match (d.blk.get a).frag with
    | some _ => d
    | none => (d.openWrite a).beginWrite a true
  match (d1.blk.get a).frag with
  | some r => if r.write then d1.endWrite a r else d
  | none => d1

def execWriteFrag (a : Act) (s : State) : Host.Outcome State Fault Refusal :=
  s.next (if s.dev.hasAct a then (s.dev.writeFrag a).settle else s.dev)

end Sys2Proof.Machine
end

