-- ==== Sys2Proof/Machine/Micro.lean ====
section
/-! DEFINITION. The microword (R96 to R99): the control store's error code, the payload's fields, register operations and
conditions, and the image check of R121. -/

namespace Sys2Proof.Machine

/-! ### The control store's code (R97) -/

/-- The number of ones in the low `n` bits. -/
def ones (v : Nat) : Nat → Nat
  | 0 => 0
  | n + 1 => ones v n + flag (testBit v n)

/-- The columns of data bits 0 to 63: the weight-3 values in ascending order, then the eight lowest of weight 5. -/
def secColumns : List Nat :=
  (List.range 256).filter (fun v => decide (ones v 8 = 3)) ++ ((List.range 256).filter fun v => decide (ones v 8 = 5)).take 8

/-- The check byte of one half. -/
def halfCheck (data : Nat) : Nat :=
  (secColumns.zipIdx).foldl (fun c p => if testBit data p.2 then c ^^^ p.1 else c) 0

/-- A half as read: its corrected data, and whether it was corrected; none when it is uncorrectable. -/
def readHalf (data check : Nat) : Option (Nat × Bool) :=
  let s := halfCheck data ^^^ check
  if s = 0 then some (data, false)
  else
    match secColumns.findIdx? fun c => decide (c = s) with
    | some i => some (data ^^^ 2 ^ i, true)
    | none => if ones s 8 = 1 then some (data, true) else none

/-- The word of a payload with its check bits (R96, R97). -/
def sealWord (payload : BitVec 128) : BitVec 144 :=
  let p := payload.toNat
  BitVec.ofNat 144 (p + 2 ^ 128 * (halfCheck (p % 2 ^ 64) + 256 * halfCheck (p / 2 ^ 64)))

/-- A word as read (R98): its payload, and the halves corrected as a mask; none, with the failing halves, when it is
uncorrectable. -/
def readWord (w : BitVec 144) : Except Nat (BitVec 128 × Nat) :=
  let v := w.toNat
  let lo := readHalf (v % 2 ^ 64) (v / 2 ^ 128 % 256)
  let hi := readHalf (v / 2 ^ 64 % 2 ^ 64) (v / 2 ^ 136 % 256)
  match lo, hi with
  | some a, some b => .ok (BitVec.ofNat 128 (a.1 + 2 ^ 64 * b.1), flag a.2 + 2 * flag b.2)
  | _, _ => .error (flag lo.isNone + 2 * flag hi.isNone)

/-! ### The payload (Table 04.1) -/

structure Micro where
  next : Nat
  alt : Nat
  cond : Nat
  cinv : Bool
  safe : Bool
  smode : Nat
  stampW : Nat
  stampP : Nat
  rg : Nat
  wg : Nat
  sg : Nat
  ag : Nat
  hsw : Bool
  head : Nat
  dop : Nat
  darg : Nat
  plk : Nat
  ksel : Nat
  kop : Nat
  gd : Nat
  gs : Nat
  gop : Nat
  imm : Nat
deriving DecidableEq, Repr

/-- Bits [hi:lo] of a payload. -/
def pbits (p : BitVec 128) (hi lo : Nat) : Nat := p.toNat / 2 ^ lo % 2 ^ (hi + 1 - lo)

/-- Table 04.1. -/
def Micro.ofPayload (p : BitVec 128) : Micro :=
  { next := pbits p 127 114, alt := pbits p 113 100, cond := pbits p 99 94, cinv := decide (pbits p 93 93 = 1),
    safe := decide (pbits p 92 92 = 1), smode := pbits p 91 90, stampW := pbits p 89 80, stampP := pbits p 79 62,
    rg := pbits p 61 60, wg := pbits p 59 58, sg := pbits p 57 56, ag := pbits p 55 54,
    hsw := decide (pbits p 53 53 = 1), head := pbits p 52 49, dop := pbits p 48 44, darg := pbits p 43 40,
    plk := pbits p 39 38, ksel := pbits p 37 36, kop := pbits p 35 34, gd := pbits p 33 30, gs := pbits p 29 26,
    gop := pbits p 25 22, imm := pbits p 21 0 }

/-- A condition wait (R104). -/
def Micro.isWait (m : Micro) (pc : Nat) : Bool := decide (m.next = pc) && m.safe && decide (m.smode = 0)

/-- The word at an address of a store. -/
def storeWord (store : List (Nat × BitVec 144)) (pc : Nat) : BitVec 144 := sget 0 store pc

/-! ### Registers and counters (R99, R111) -/

def Blocker.gr (b : Blocker) (i : Nat) : Word := sget 0 b.g i

def Blocker.kr (b : Blocker) (i : Nat) : BitVec 16 := sget 0 b.k i

def Blocker.setG (b : Blocker) (i : Nat) (w : Word) : Blocker := { b with g := sset 0 b.g i w }

def Blocker.setK (b : Blocker) (i : Nat) (v : BitVec 16) : Blocker := { b with k := sset 0 b.k i v }

/-- A field of the current Plank entry (GOP 12). -/
def Blocker.plankField (b : Blocker) (i : Nat) : Word :=
  if 6 ≤ i then 0
  else
    match b.entry with
    | none => 0xFFFFFFFF#32
    | some e => BitVec.ofNat 32 ([e.wedge, e.start, e.slot, e.frag, e.cwOffset, b.plank.index].getD i 0)

/-- A status of GOP 15. -/
def Dev.blkStatus (d : Dev) (a : Act) (i : Nat) : Word :=
  let b := d.blk.get a
  match i with
  | 0 => BitVec.ofNat 32 d.clock.pos28
  | 1 => BitVec.ofNat 32 b.completed
  | 2 => b.lastDecode
  | 3 => BitVec.ofNat 32 b.lastFault
  | 4 => BitVec.ofNat 32 (flag b.withdrawn)
  | _ => 0

/-- The data memory word at an address AND 0x7FFC (GOP 13). -/
def Blocker.dataWord (b : Blocker) (at1 : Nat) : Word := BitVec.ofNat 32 (natOfBytes (sgetList 0 b.data at1 4))

/-- The address of GOP 13 and 14. -/
def dataAddr (gs : Word) (imm : Nat) : Nat := (gs.toNat + imm) % 2 ^ 15 / 4 * 4

/-- The result and CARRY of a register operation on the values that GD and GS had (Table 04.5, R99). -/
def aluResult (gop : Nat) (x y : Word) (imm : Nat) : Word × Bool :=
  let n := imm % 32
  let ext := BitVec.ofNat 32 (unsigned 32 (signed 22 imm))
  match gop with
  | 1 => (y, false)
  | 2 => (BitVec.ofNat 32 imm, false)
  | 3 => (x + y, decide (2 ^ 32 ≤ x.toNat + y.toNat))
  | 4 => (x + ext, decide (2 ^ 32 ≤ x.toNat + ext.toNat))
  | 5 => (x - y, decide (x.toNat < y.toNat))
  | 6 => (x &&& y, false)
  | 7 => (x ||| y, false)
  | 8 => (x ^^^ y, false)
  | 9 => (y <<< n, decide (n ≠ 0) && testBit y.toNat (32 - n))
  | 10 => (y >>> n, decide (n ≠ 0) && testBit y.toNat (n - 1))
  | 11 => (x - y, decide (x.toNat < y.toNat))
  | _ => (x, false)

/-- Step 5's register operation (R111): `x` and `y` are GD and GS as they stood before the word. -/
def Dev.gopStep (d : Dev) (a : Act) (m : Micro) (x y : Word) : Dev :=
  let r := aluResult m.gop x y m.imm
  let at1 := dataAddr y m.imm
  match m.gop with
  | 0 => d
  | 12 => d.onBlk a fun b => b.setG m.gd (b.plankField (m.imm % 8))
  | 13 => d.onBlk a fun b => b.setG m.gd (b.dataWord at1)
  | 15 => d.onBlk a fun b => b.setG m.gd (d.blkStatus a (m.imm % 8))
  | g => d.onBlk a fun b =>
    let b1 := if g = 11 then b
      else if g = 14 then { b with data := ssetList 0 b.data at1 (bytesOfNat 4 x.toNat)
                                   dataPoison := ssetList false b.dataPoison at1 [false, false, false, false] }
      else b.setG m.gd r.1
    { b1 with zero := decide (r.1 = 0), neg := testBit r.1.toNat 31, carry := r.2 }

/-- Step 5's counter operation; `y` is GS as it stood before the word. -/
def Blocker.kopStep (b : Blocker) (m : Micro) (y : Word) : Blocker :=
  match m.kop with
  | 1 => b.setK m.ksel (BitVec.ofNat 16 m.imm)
  | 2 => b.setK m.ksel (BitVec.ofNat 16 ((b.kr m.ksel).toNat - 1))
  | 3 => b.setK m.ksel (BitVec.ofNat 16 y.toNat)
  | _ => b

/-! ### Conditions (R108, Table 04.3) -/

/-- A request may be accepted now: while an image waits nothing is passed on (R122), a test injection holds write
requests (R276), and so does the suspension of their head (R219). -/
def Dev.mayAccept (d : Dev) (a : Act) (r : BlkReq) : Bool :=
  !(decide (r.op = 1) && ((d.srv.get a).inj.isSome || sget false (d.wr.get a).suspended r.head))

/-- The next request that ACCEPT would load. -/
def Dev.nextRequest (d : Dev) (a : Act) : Option BlkReq := (d.blk.get a).queue.find? fun r => d.mayAccept a r

/-- The pair named in G13[27:24] is held, or none is needed (FELT_READY). -/
def Dev.feltReady (d : Dev) (a : Act) : Bool :=
  let n := bits ((d.blk.get a).gr 13) 27 24
  decide (n = 0xF) || !d.feltOn || sget false d.felt.pairs (15 * a.idx + n)

/-- The decoder holds no record of the current request. -/
def Dev.decIdle (d : Dev) (a : Act) : Bool :=
  let t := d.det.get a
  !((t.ready ++ t.decodes).any fun r => decide (r.rung = 0 ∧ r.tag = (d.blk.get a).tag))

def Dev.condition (d : Dev) (a : Act) (c : Nat) : Bool :=
  let b := d.blk.get a
  match c with
  | 0x01 => true
  | 0x02 => decide (b.kr 0 = 0)
  | 0x03 => decide (b.kr 1 = 0)
  | 0x04 => decide (b.kr 2 = 0)
  | 0x05 => decide (b.kr 3 = 0)
  | 0x06 => b.zero
  | 0x07 => b.neg
  | 0x08 => b.carry
  | 0x09 => b.fragLast
  | 0x0A => b.entry.any fun e => decide (e.kind = 1)
  | 0x0B => b.syncFound
  | 0x0C => b.frag.isNone
  | 0x0D => d.decIdle a
  | 0x0E => b.decFail
  | 0x0F => (d.nextRequest a).isSome
  | 0x10 => (d.srv.get a).settled
  | 0x11 => b.writeOk
  | 0x12 => d.clock.flywheelTick
  | 0x13 => decide (d.src = 2 ∨ d.src = 3)
  | 0x14 => b.stampLate
  | 0x15 => d.feltReady a
  | 0x16 => decide (b.events ≠ 0)
  | 0x17 => b.rawMismatch
  | _ => false

/-! ### The image check (R121) -/

/-- The successors that execution can take from a word. -/
def Micro.succs (m : Micro) (pc : Nat) : List Nat :=
  let always := (decide (m.cond = 1) && !m.cinv) || (decide (m.cond = 0) && m.cinv)
  let never := (decide (m.cond = 0) && !m.cinv) || (decide (m.cond = 1) && m.cinv)
  if m.dop = 0xC ∨ m.dop = 0xD then []
  else if m.isWait pc then (if never then [] else [m.alt])
  else if always then [m.alt]
  else if never then [m.next]
  else [m.next, m.alt]

/-- An image: a word at each address. -/
def imageMicro (img : List (Nat × BitVec 144)) (pc : Nat) : Micro :=
  match readWord (storeWord img pc) with
  | .ok r => Micro.ofPayload r.1
  | .error _ => Micro.ofPayload (BitVec.ofNat 128 (storeWord img pc).toNat)

/-- The words reached from a list of addresses, in at most `n` rounds. -/
def reachFrom (img : List (Nat × BitVec 144)) : Nat → List Nat → List Nat → List Nat
  | 0, _, seen => seen
  | n + 1, todo, seen =>
    match todo with
    | [] => seen
    | _ =>
      let fresh := (todo.filter fun p => decide (p ∉ seen)).dedup
      reachFrom img n (fresh.flatMap fun p => (imageMicro img p).succs p) (seen ++ fresh)

/-- The reasons for which one word by itself fails (R121). -/
def wordReasons (img : List (Nat × BitVec 144)) (vecs : List Nat) (pc : Nat) : List Nat :=
  let m := imageMicro img pc
  let p := BitVec.ofNat 128 (storeWord img pc).toNat
  let bare := decide (pbits p 91 0 = 0)
  let check (b : Bool) (r : Nat) : List Nat := if b then [r] else []
  check (decide (0x18 ≤ m.cond)) 1 ++ check (decide (0x0E ≤ m.dop)) 2 ++
  check (decide (m.rg = 3 ∨ m.wg = 3 ∨ m.sg = 3)) 4 ++
  check (decide (pc ∈ vecs) && !m.safe) 7 ++ check (m.isWait pc && !bare) 8 ++
  check (match readWord (storeWord img pc) with | .ok _ => false | .error _ => true) 9 ++
  check (decide (12 ≤ m.head ∧ m.head ≤ 14)) 10 ++ check (decide (m.plk = 3 ∧ m.smode = 1)) 11

/-- The words that are not SAFE among a word's successors. -/
def unsafeSuccs (img : List (Nat × BitVec 144)) (pc : Nat) : List Nat :=
  ((imageMicro img pc).succs pc).filter fun q => !(imageMicro img q).safe

/-- The words without SAFE reached from a word along words without SAFE. -/
def unsafeReach (img : List (Nat × BitVec 144)) : Nat → List Nat → List Nat → List Nat
  | 0, _, seen => seen
  | n + 1, todo, seen =>
    match todo with
    | [] => seen
    | _ =>
      let fresh := (todo.filter fun p => decide (p ∉ seen)).dedup
      unsafeReach img n (fresh.flatMap fun p => unsafeSuccs img p) (seen ++ fresh)

/-- A word lies on a cycle that holds no SAFE word (reason 5). -/
def onUnsafeCycle (img : List (Nat × BitVec 144)) (pc : Nat) : Bool :=
  !(imageMicro img pc).safe && decide (pc ∈ unsafeReach img 16384 (unsafeSuccs img pc) [])

/-- One round of the longest paths: the words without SAFE that follow those of a level. -/
def pathLevels (img : List (Nat × BitVec 144)) : Nat → List Nat → Nat
  | 0, _ => 0
  | n + 1, level =>
    match level with
    | [] => 0
    | _ => 1 + pathLevels img n (level.flatMap fun p => unsafeSuccs img p).dedup

/-- The longest path from a SAFE word, counting it and stopping before the next SAFE word (reason 6); at most 255. -/
def pathFromSafe (img : List (Nat × BitVec 144)) (pc : Nat) : Nat := pathLevels img 255 [pc]

/-- What the check of R121 finds in an image with its vectors: the failing word of lowest address with its lowest reason,
and the longest path. -/
def checkImage (img : List (Nat × BitVec 144)) (vecs : List Nat) : Option (Nat × Nat) × Nat :=
  let words := reachFrom img 16384 vecs []
  let reasons (pc : Nat) : List Nat :=
    let m := imageMicro img pc
    let path := if m.safe then pathFromSafe img pc else 0
    wordReasons img vecs pc ++ (if onUnsafeCycle img pc then [5] else []) ++ (if 64 < path then [6] else [])
  let worst := words.foldl (fun n pc => Nat.max n (if (imageMicro img pc).safe then pathFromSafe img pc else 0)) 0
  let fails := words.flatMap fun pc => (reasons pc).map fun r => (pc, r)
  (fails.foldl (fun (best : Option (Nat × Nat)) f =>
    match best with
    | none => some f
    | some x => if f.1 < x.1 ∨ (f.1 = x.1 ∧ f.2 < x.2) then some f else some x) none, worst)

end Sys2Proof.Machine
end

