-- ==== Sys2Proof/Machine/Blocker.lean ====
section
/-! DEFINITION. The Blocker sequencer (chapter 04): Plank operations (R112, R583), requests (R113, R114, R585), launch
stamps (R101 to R103), the execution of a word (R100), interruption's return (R119), control-store errors and loading
(R122 to R125, R584), and the commands of the BLK and CST windows (R126 to R128). -/

namespace Sys2Proof.Machine

/-! ### Bind (R112, R134, R149, R195) -/

/-- A bind that fails binds nothing. -/
def Dev.bindNothing (d : Dev) (a : Act) : Dev :=
  (d.onBlk a fun b => { b with plank := { bind := none, cur := none } }).event Ev.other (.blk a) (sget 0 (d.blk.get a).g 9).toNat 0

/-- CHNn_RZ_ERR holds the first failure since it was cleared (R149). -/
def Dev.recordError (d : Dev) (a : Act) (h z : Nat) (f : Fetch) : Dev :=
  if f = .good then d
  else
    let d1 := d.event Ev.rzRecord (.chn a) (headArg a h) z
    let d2 := if d1.f (Reg.CHN_RZ_ERR_VALID.on a) = 1 then d1
      else (((d1.setF (Reg.CHN_RZ_ERR_VALID.on a) 1).setF (Reg.CHN_RZ_ERR_BOTH.on a) (flag (decide (f = .bothBad)))).setF
        (Reg.CHN_RZ_ERR_RZONE.on a) z).setF (Reg.CHN_RZ_ERR_HEAD.on a) h
    if f = .bothBad then d2.reportFault (.record a) 7 else d2

/-- A write record that failed a copy leaves one event; both copies go to the fault manager (R195). -/
def Dev.writeRecordError (d : Dev) (a : Act) (h z : Nat) (f : Fetch) : Dev :=
  if f = .good then d
  else
    let d1 := d.event Ev.rzRecord (.was a) (headArg a h) z
    if f = .bothBad then d1.reportFault (.record a) 7 else d1

/-- Word i of the write record of a head and rate zone (R194). -/
def Dev.wrWord (d : Dev) (a : Act) (h z i : Nat) : Word := d.tword (Tbl.write a) (32 * (64 * h + z) + 4 * i)

/-- The channel's and the write path's copies of the bound records (R149, R194), with CHNn_RZ_CUR. -/
def Dev.copyRecords (d : Dev) (a : Act) (h z : Nat) : Dev :=
  let rz := ssetList 0 [] 0 ((List.range 64).map fun i => d.rzWord a h z i)
  let wr := ssetList 0 [] 0 ((List.range 8).map fun i => d.wrWord a h z i)
  let d1 := (d.onChn a fun c => { c with rz := rz }).onWr a fun w => { w with wrec := wr }
  ((d1.setF (Reg.CHN_RZ_CUR_RGEN.on a) (bits (sget 0 rz 0) 11 0)).setF (Reg.CHN_RZ_CUR_RZONE.on a) z).setF
    (Reg.CHN_RZ_CUR_HEAD.on a) h

/-- The records of a bind: fetched, copied, the synthesizer tuned, a partial accumulator of another key discarded. -/
def Dev.bindRecords (d : Dev) (a : Act) (h z : Nat) (o : WordObs) : Dev :=
  let old := (d.chn.get a).key
  let oldW := (d.wr.get a).wrec
  let d1 := (d.recordError a h z o.rz).writeRecordError a h z o.wr
  let d2 := (d1.onChn a fun c => { c with key := some (h, z), rzBad := decide (o.rz = .bothBad) }).onWr a fun w =>
    { w with wrBad := decide (o.wr = .bothBad) }
  let d3 := d2.copyRecords a h z
  let d4 := if old = some (h, z) then d3 else d3.setF (Reg.CHN_ADAPT_STATUS_ACCUM.on a) 0
  let d5 := d4.tune a (sget 0 (d4.chn.get a).rz 2).toNat
  if old.map Prod.fst = some h ∧ (d5.wr.get a).wrec = oldW then d5 else d5.sendWriteRecord a

/-- Bind (R112): the band in G9 and the track index in G10. -/
def Dev.bindPlank (d : Dev) (a : Act) (o : WordObs) : Dev :=
  let b := d.blk.get a
  let bi := (b.gr 9).toNat
  match d.band bi with
  | none => d.bindNothing a
  | some r =>
    let h := d.headOf r.surface
    let t := d.plankTable a (plankAddr h r.rzone)
    if t.version ≠ 1 ∨ d.actOf r.surface ≠ a then d.bindNothing a
    else
      let x : Binding := { band := bi, track := bits (b.gr 10) 15 0, table := 64 * r.surface + r.rzone, bitrate := t.bitrate,
                           crate := t.crate, format := t.format, slots := t.slots, skew := r.skew, entries := t.entries }
      let d1 := d.onBlk a fun b => { b with plank := { bind := some x, cur := none } }
      (d1.onDet a fun q => q.partition t.format).bindRecords a h r.rzone o

/-! ### Find and advance (R112, R583) -/

/-- Bits [27:0] of an entry's stamp on the bound track (R84, R101). -/
def Dev.entryPos (d : Dev) (x : Binding) (e : PlankEntry) : Nat :=
  physWedge e.wedge x.track x.skew d.wedges * 2 ^ 18 + startPhase e.start (bitsPerTick x.bitrate d.speed d.wedges)

/-- The index of the FIRST entry of a slot. -/
def firstOf (es : List PlankEntry) (slot : Nat) : Option Nat :=
  es.findIdx? fun e => decide (e.kind = 1 ∧ e.slot = slot) && e.first

/-- The revolution after this one. -/
def nextRev (n : Nat) : Nat := (n + 1) % 2 ^ 20

/-- Find: the FIRST entry of a slot at its next occurrence at least PLK_LEAD ticks ahead; a slot that the table does not
hold leaves no entry current. -/
def Dev.findSlot (d : Dev) (a : Act) (slot : Nat) : Dev :=
  let b := d.blk.get a
  match b.plank.bind with
  | none => d
  | some x =>
    let cur := (firstOf x.entries slot).bind fun i => (x.entries[i]?).map fun e =>
      let rev := d.clock.rev.toNat
      (i, if d.entryPos x e < d.clock.pos28 + d.f (Reg.BLK_PLK_LEAD_LEAD.on a) * 2 ^ 18 then nextRev rev else rev)
    d.onBlk a fun b => { b with plank := { b.plank with cur := cur } }

/-- The DATA entry after index `i`: passing SERVO and SKIP, wrapping at END into the next revolution. -/
def nextData (es : List PlankEntry) : Nat → Nat → Nat → Option (Nat × Nat)
  | 0, _, _ => none
  | n + 1, i, rev =>
    match es[i]? with
    | none => match es with | [] => none | _ => nextData es n 0 (nextRev rev)
    | some e => if e.kind = 1 then some (i, rev) else if e.kind = 3 then nextData es n 0 (nextRev rev) else nextData es n (i + 1) rev

/-- Advance (R112). -/
def Blocker.advance (b : Blocker) : Blocker :=
  match b.plank.bind, b.plank.cur with
  | some x, some c => { b with plank := { b.plank with cur := nextData x.entries (2 * x.entries.length + 2) (c.1 + 1) c.2 } }
  | _, _ => b

/-! ### Requests (R113, R114, R202, R585) -/

/-- The request as it is sent again (R114): a record's place is computed afresh, as a condemned position moves it. -/
def Dev.placedAgain (d : Dev) (r : BlkReq) : BlkReq :=
  let move (p : Option Place) : BlkReq :=
    match p with
    | some p => { r with band := p.band, track := p.index, slot := p.slot }
    | none => r
  if r.op = 1 ∧ r.count = 1 then
    match sget none d.host.tags r.tag with
    | none => r
    | some info =>
      match d.band r.band with
      | none => r
      | some b => if b.kind = 0 then move (d.mapZoned info.lba) else if b.kind = 2 then move (d.mapConv info.lba info.copy) else r
  else r

/-- A request without its records that stand (R114). -/
def BlkReq.trim (r : BlkReq) (n : Nat) : BlkReq :=
  if r.op = 1 then { r with slot := r.slot + n, count := r.count - n, desc := r.desc + n } else r

/-- The accumulator pair of a request freed (R355). -/
def Dev.freeReqPair (d : Dev) (a : Act) (r : BlkReq) : Dev :=
  if r.op = 1 ∧ r.felt ≠ 0xF then
    { d with felt := { d.felt with pairs := sset false d.felt.pairs (15 * a.idx + r.felt) false } }
  else d

/-- The bolts that stand folded into their strides' partials (R355), when FELT_ARM attached a pair. -/
def Dev.foldStood (d : Dev) (a : Act) : Dev :=
  let b := d.blk.get a
  let d1 := if b.feltArmed then b.stood.foldl (fun d p => d.foldBolt p.1 p.2) d else d
  d1.onBlk a fun b => { b with stood := [] }

/-- What the requester does with the records that a posted write did not write (R202): it reissues them, unless they
have been withdrawn, their zone has been rescued or the record has met its limit (R203, R345). -/
def Dev.reissue (d : Dev) (a : Act) (r : BlkReq) : Dev :=
  let b := d.blk.get a
  if r.op ≠ 1 ∨ r.count ≤ b.completed ∨ b.withdrawn then d
  else
    match sget none d.host.tags r.tag with
    | none => d
    | some info =>
      let kind := match d.band r.band with | some x => x.kind | none => 3
      if kind = 0 then
        let z := info.lba / d.media.zoneBlocks
        let q := (z, info.lba % d.media.zoneBlocks / 8)
        if ((d.zone z).cache.any fun c => decide (c.1 / 8 = q.2)) && !decide (q ∈ d.zq.released) then
          { d with zq := { d.zq with released := q :: d.zq.released } }
        else d
      else if kind = 2 ∧ d.isStale info.lba info.copy then d.askConvWrite info.owner info.lba info.copy
      else d

/-- One write request noted in its head's health record (Table 07.5). -/
def Dev.noteWrite (d : Dev) (a : Act) (r : BlkReq) : Dev :=
  if r.op ≠ 1 then d
  else
    d.onWr a fun w =>
      let hh := sget Health.fresh w.health r.head
      { w with reqFaults := 0, health := sset Health.fresh w.health r.head { hh with writes := (w.reqFaults :: hh.writes).take 1024 } }

/-- A cut record whose LAST fragment was never read ends UNRECOVERED, or at rung 7 when its plan holds it (R582). -/
def Dev.postCut (d : Dev) (a : Act) : Dev :=
  let b := d.blk.get a
  match b.recOpen with
  | some p =>
    if b.cut ∧ !b.writing ∧ (d.attempted a p.1 p.2.1).isNone then
      let r := { d.readRec a p.1 p.2.1 p.2.2 with rung := 2 }
      if d.planHolds r.plan 7 then d.enterRung a r 7 else d.unrecovered a r
    else d
  | none => d

/-- POST (R109, R202, R355): the current request ends with a status. -/
def Dev.post (d : Dev) (a : Act) (status : Word) : Dev :=
  match (d.blk.get a).cur with
  | none => d
  | some r =>
    let d1 := (((d.postCut a).foldStood a).freeReqPair a r).noteWrite a r
    let d2 := d1.reissue a r
    d2.onBlk a fun b => { b with posted := (r.tag, status) :: b.posted, cur := none, recOpen := none, feltArmed := false }

/-- ACCEPT (R113): the next request's descriptor in G8 to G14. -/
def Dev.accept (d : Dev) (a : Act) : Dev :=
  match d.nextRequest a with
  | none => d
  | some r =>
    let ok := decide ((d.wr.get a).inhibits = 0)
    d.onBlk a fun b =>
      let g : List (Nat × Word) := ssetList 0 b.g 8
        [BitVec.ofNat 32 (r.op * 2 ^ 28 + r.head * 2 ^ 24 + r.tag), BitVec.ofNat 32 r.band, BitVec.ofNat 32 r.track,
         BitVec.ofNat 32 (r.slot * 2 ^ 16 + r.count), BitVec.ofNat 32 r.desc,
         BitVec.ofNat 32 (r.rung * 2 ^ 28 + r.felt * 2 ^ 24), r.requester]
      { b with g := g, queue := b.queue.erase r, cur := some r, completed := 0, loadedRecs := 0, loadDue := none,
               stood := [], feltArmed := false, decFail := false, writeOk := ok, withdrawn := false, recOpen := none }

/-- FELT_ARM (R355): the pair named in G13 taps the request's records. -/
def Dev.feltArm (d : Dev) (a : Act) : Dev :=
  if bits ((d.blk.get a).gr 13) 27 24 ≠ 0xF ∧ d.feltReady a ∧ d.feltOn then d.onBlk a fun b => { b with feltArmed := true } else d

/-- A withdrawal (R585): the requests of these tags leave the queue and the ladder; the current request's naming makes
QUEUE_RESET pending. -/
def Dev.withdrawTags (d : Dev) (a : Act) (tags : List Nat) : Dev :=
  let named (r : BlkReq) : Bool := decide (r.tag ∈ tags)
  let d1 := d.onBlk a fun b => { b with
    queue := b.queue.filter fun r => !named r, heldReqs := b.heldReqs.filter fun r => !named r }
  let d2 := tags.foldl (fun d t => d.withdrawLadder a t) d1
  if (d.blk.get a).cur.any named then (d2.onBlk a fun b => { b with withdrawn := true }).raiseEvt a 5 else d2

/-! ### RAW_CHECK (R218, R219) -/

/-- The outcome of a check counted for its head: three mismatches in a row suspend its writes (R219). -/
def Dev.noteCheck (d : Dev) (a : Act) (h : Nat) (bad : Bool) : Dev :=
  d.onWr a fun w =>
    let n := if bad then sget 0 w.mismatch h + 1 else 0
    let hh := sget Health.fresh w.health h
    { w with mismatch := sset 0 w.mismatch h n
             suspended := if 3 ≤ n then sset false w.suspended h true else w.suspended
             health := sset Health.fresh w.health h { hh with marks := (bad :: hh.marks).take 1024 } }

/-- The bolt of a mismatch written again at the next position, marked (R218). -/
def Dev.rewriteMarked (d : Dev) (a : Act) (h : Nat) (info : TagInfo) (band pos : Nat) : Dev :=
  let d1 := d.condemn band pos
  match d1.mapZoned info.lba with
  | none => d1
  | some p =>
    let d2 := d1.onWr a fun w => { w with marked := (w.marked.filter fun m => decide (m ≠ (h, band, pos))) ++ [(h, p.band, p.pos)] }
    d2.askRecord 1 p 0 0xF { info with write := true }

/-- RAW_CHECK (R218): the record just read against the record written. -/
def Dev.rawCheck (d : Dev) (a : Act) (same : Bool) : Dev :=
  let b := d.blk.get a
  let h := d.head a
  let w := b.lastDecode
  let pass := same && decide (bits w 31 28 = 0) && decide (bits w 27 25 = 0) &&
    decide (bits w 15 12 ≤ d.f (Reg.WAS_RAW_CFG_MAXG.on a))
  let d1 := ((d.onBlk a fun b => { b with rawMismatch := !pass }).bumpF (Reg.WAS_RAW_STATUS_CHECKS.on a) 1).noteCheck a h (!pass)
  let d2 := if pass then d1 else d1.bumpF (Reg.WAS_RAW_STATUS_MISMATCH.on a) 1
  match b.cur with
  | none => d2
  | some r =>
    match sget none d.host.tags r.tag, (d.wr.get a).marked.find? fun m => decide (m.2.1 = r.band) with
    | some info, some m =>
      if pass then
        let zb := d.media.zoneBlocks
        (d2.onWr a fun w => { w with marked := w.marked.filter fun x => decide (x ≠ m) }).boltWritten
          (info.lba / zb) (info.lba % zb / 8)
      else d2.rewriteMarked a m.1 info m.2.1 m.2.2
    | _, _ => d2

/-! ### Launch stamps (R101 to R103, R25 to R27, R583) -/

/-- The head that a word names: HEAD, or G8[27:24] for 0xF. -/
def Dev.wordHead (d : Dev) (a : Act) (m : Micro) : Nat := if m.head = 0xF then bits ((d.blk.get a).gr 8) 27 24 else m.head

/-- The skew of the head that a word acts on (R25). -/
def Dev.wordSkew (d : Dev) (a : Act) (m : Micro) : Int :=
  let h := if m.hsw then d.wordHead a m else d.head a
  signed 16 (d.f (Reg.TICK_SKEW_SKEW.nth (12 * a.idx + h)))

/-- A word's stamp in the master head's frame: bits [27:0] of mode 2, or the full position of modes 1 and 3. -/
inductive WordStamp where
  | short (pos : Nat)
  | full (at1 : Int)
deriving DecidableEq, Repr

/-- R101: none while mode 1 has no current entry. -/
def Dev.wordStamp (d : Dev) (a : Act) (m : Micro) : Option WordStamp :=
  let b := d.blk.get a
  let rev : Int := d.revUnits
  let off : Int := m.stampP + signed 10 m.stampW * 2 ^ 18
  match m.smode with
  | 2 => some (.short (m.stampW * 2 ^ 18 + m.stampP))
  | 3 => some (.full (b.lastRev * rev + b.lastStamp + off))
  | _ =>
    match b.plank.bind, b.plank.cur, b.entry with
    | some x, some c, some e => some (.full (c.2 * rev + d.entryPos x e + off))
    | _, _, _ => none

/-- A word's stamp as it is armed, with the head's skew (R25): how far ahead it lies, and the stamp. -/
def Dev.armed1 (d : Dev) (a : Act) (m : Micro) (s : WordStamp) : Int × Stamp :=
  let rev : Int := d.revUnits
  let skew := d.wordSkew a m
  match s with
  | .short p =>
    let pos := if rev = 0 then 0 else ((p : Int) + skew) % rev
    let due := d.dueAt pos.toNat
    (due - d.nowUnits, { owner := .blocker a, rev := none, pos := pos.toNat, due := due })
  | .full f =>
    let lead := d.ahead (f + skew)
    let pos := if rev = 0 then 0 else (f + skew) % rev
    (lead, { owner := .blocker a, rev := some ((if rev = 0 then 0 else (f + skew) / rev) % 2 ^ 20).toNat, pos := pos.toNat,
             due := (d.nowUnits + lead).toNat })

/-- A stamp is late at its arming (R26, R583). -/
def Dev.lateStamp (d : Dev) (s : WordStamp) (lead : Int) : Bool :=
  match s with
  | .short _ => decide (lead = 0 ∨ (d.revUnits : Int) - 2 ^ 18 ≤ lead)
  | .full _ => decide (lead ≤ 0)

/-- A word with read-gate, write-gate, assist-gate or head-switch actions, refused while the source is coarse or stopped
(R27). -/
def Micro.gated (m : Micro) : Bool :=
  decide (m.rg ≠ 0 ∨ m.wg ≠ 0 ∨ m.ag ≠ 0 ∨ m.dop = 1 ∨ m.dop = 2) || m.hsw

/-- A stamp that was late or refused counts as an overrun of its Blocker in this tick (R26). -/
def Dev.lateLaunch (d : Dev) (a : Act) : Dev :=
  let d1 := d.setF Reg.TICK_EVENT_LATE_LAUNCH 1
  { d1 with clock := { d1.clock with notDone := d1.clock.notDone ||| 2 ^ a.idx } }

/-- R103's start: STAMP_LATE true, the tick-overrun event pending; a write-gate word is a write fault of cause LATE. -/
def Dev.missStamp (d : Dev) (a : Act) (m : Micro) : Dev :=
  let d1 := (d.onBlk a fun b => { b with stampLate := true }).raiseEvt a 4
  if m.wg = 1 ∨ m.dop = 2 then d1.writeFault a 0xB else d1

/-- The heater back-off before an armed pre-bias stamp (R208): BO_ADV ticks earlier, or at the arming if that is
later; PA_RAMP and PA_ILIM are sent (R236). -/
def Dev.armBackOff (d : Dev) (a : Act) (m : Micro) (s : Stamp) : Dev :=
  let h := d.head a
  if m.ag ≠ 1 ∨ d.asType a h = 0 then d
  else
    let d1 := d.armPreBias a
    let adv := signed 4 (bits (d.asTable a h (d.boundZone a) (d.assist.get a).band 3) 15 12) * 2 ^ 18
    if adv ≤ 0 then d1
    else if (s.due : Int) - d1.nowUnits ≤ adv then d1.backOffStart a
    else
      let due := s.due - adv.toNat
      let t : Stamp := { owner := .backOff a, rev := s.rev, pos := if d1.revUnits = 0 then 0 else due % d1.revUnits, due := due }
      { d1 with clock := { d1.clock with stamps := d1.clock.stamps ++ [t] } }

/-- The word's stamp armed; the Blocker waits for it. -/
def Dev.armStamp (d : Dev) (a : Act) (m : Micro) (s : Stamp) : Dev :=
  let d1 := { d with clock := { d.clock with stamps := d.clock.stamps ++ [s] } }
  (d1.onBlk a fun b => { b with wait := .stamp, waitSafe := m.safe, stampLate := false }).armBackOff a m s

/-! ### The actions of a word (R100 step 3) -/

/-- The assist gate (AG). -/
def Dev.issueAg (d : Dev) (a : Act) (m : Micro) (o : WordObs) : Dev :=
  match m.ag with
  | 1 => d.preBiasAt a o.assist
  | 2 => d.operate a
  | 3 => d.laneOff a
  | _ => d

/-- The servo gate (SG, R106). -/
def Dev.issueSg (d : Dev) (a : Act) (m : Micro) : Dev :=
  match m.sg with
  | 1 => d.onBlk a fun b => { b with sg := true }
  | 2 => if d.srvMode a = 2 then d.onBlk a fun b => { b with sgSkip := true } else d.event Ev.writeIgnored (.blk a) (d.blk.get a).pc.toNat 0
  | _ => d

/-- The read and write gates: code 2 closes now, before the end of a field as a cut (R582). -/
def Dev.issueGates (d : Dev) (a : Act) (m : Micro) : Dev :=
  let d1 := match m.rg with | 1 => d.openRead a | 2 => d.cutRead a | _ => d
  match m.wg with
  | 1 => d1.openWrite a
  | 2 =>
    let d2 := d1.closeWrite a
    match (d2.blk.get a).frag with
    | some r => if r.write then d2.writeFault a 0 else d2
    | none => d2
  | _ => d1

/-- The trace of a register with the program counter and the last stamp. -/
def Blocker.traceReg (b : Blocker) (i : Nat) : Blocker := { b with trace := (b.gr i, b.pc.toNat, b.lastStamp) :: b.trace }

/-- LOAD_REC as a word issues it: the records are ready two ticks later (R110). -/
def Dev.loadRec (d : Dev) (a : Act) : Dev := d.onBlk a fun b => { b with loadDue := some (d.nowUnits + 2 ^ 19) }

/-- SERVO_REQ by its DARG (Table 04.4). -/
def Dev.servoDo (d : Dev) (a : Act) (darg h : Nat) : Dev :=
  match darg with
  | 0 => d.servoReq a 0 h
  | 1 => d.servoReq a 1 h
  | 2 => d.servoLoad a h
  | 3 => d.servoUnload a
  | _ => d

/-- The data-path operation, but RETURN and ABANDON (Table 04.4). -/
def Dev.issueDop (d : Dev) (a : Act) (m : Micro) (o : WordObs) : Dev :=
  match m.dop with
  | 0x1 => d.beginRead a m.darg
  | 0x2 => d.beginWrite a (decide (m.wg = 1))
  | 0x3 => d.loadRec a
  | 0x4 => d.feltArm a
  | 0x5 => d.heater a m.darg
  | 0x6 => d.servoDo a m.darg (d.wordHead a m)
  | 0x7 => d.post a ((d.blk.get a).gr m.darg)
  | 0x8 => d.accept a
  | 0x9 => d.onDet a Detect.hold
  | 0xA => d.rawCheck a o.same
  | 0xB => d.onBlk a fun b => b.traceReg m.darg
  | _ => d

/-- Step 3: HSW, the gates and DOP together; the assist gate comes before a write gate that it arms (R208). -/
def Dev.issue (d : Dev) (a : Act) (m : Micro) (o : WordObs) : Dev :=
  let d1 := if m.hsw then d.servoHead a (d.wordHead a m) else d
  (((d1.issueAg a m o).issueSg a m).issueGates a m).issueDop a m o

/-! ### RETURN and ABANDON (R119) -/

/-- ABANDON. -/
def Dev.abandon (d : Dev) (a : Act) : Dev :=
  let b := d.blk.get a
  let entry := BitVec.ofNat 14 (d.f (Reg.BLK_VEC_ENTRY.on a))
  let d1 := d.onBlk a fun b => { b with pc := entry, wait := .run }
  if b.depth = 0 then d1.event Ev.other (.blk a) b.pc.toNat 0
  else d1.onBlk a fun b => { b with
    data := sfill 0 b.data (resumeAddr b.depth) 0 128
    dataPoison := sfill false b.dataPoison (resumeAddr b.depth) false 128
    saved := b.saved.filter fun p => decide (p.1 ≠ b.depth)
    depth := b.depth - 1 }

/-- RETURN: G, K, the flags and the Plank position from the record of the current depth. -/
def Dev.returnTo (d : Dev) (a : Act) : Dev :=
  let b := d.blk.get a
  if b.depth = 0 then d.abandon a
  else
    let w (i : Nat) : Word := b.dataWord (resumeAddr b.depth + 4 * i)
    let plank := match b.saved.find? fun p => decide (p.1 = b.depth) with | some p => p.2 | none => b.plank
    d.onBlk a fun b => { b with
      g := ssetList 0 [] 0 ((List.range 16).map fun i => w (8 + i))
      k := ssetList 0 [] 0 [BitVec.ofNat 16 (bits (w 3) 15 0), BitVec.ofNat 16 (bits (w 3) 31 16),
        BitVec.ofNat 16 (bits (w 4) 15 0), BitVec.ofNat 16 (bits (w 4) 31 16)]
      zero := decide (bits (w 5) 0 0 = 1), neg := decide (bits (w 5) 1 1 = 1), carry := decide (bits (w 5) 2 2 = 1)
      plank := plank
      saved := b.saved.filter fun p => decide (p.1 ≠ b.depth)
      depth := b.depth - 1
      pc := BitVec.ofNat 14 (bits (w 0) 13 0)
      wait := .run }

/-! ### Resets, reloads and loading (R122 to R125, R584) -/

/-- The state of R584 with a given store: pending events, the queue and what has been posted stay. -/
def Dev.blockerFresh (d : Dev) (a : Act) (store : List (Nat × BitVec 144)) : Dev :=
  let entry := BitVec.ofNat 14 (d.f (Reg.BLK_VEC_ENTRY.on a))
  d.onBlk a fun b => { b with
    store := store, data := d.conf.dataImage.get a, dataPoison := [], pc := entry, g := [], k := [], zero := false,
    neg := false, carry := false, depth := 0, saved := [], plank := { bind := none, cur := none }, wait := .run,
    lastRev := 0, lastStamp := 0, frag := none, recOpen := none, resetting := false, reloading := false,
    loadPending := false, loaded := true, sg := false, sgSkip := false }

/-- The committed image of a Blocker. -/
def Dev.imageOf (d : Dev) (a : Act) : List (Nat × BitVec 144) :=
  (d.conf.images.filter fun p => decide (p.1 / 16384 = a.idx)).map fun p => (p.1 % 16384, p.2)

/-- The requests that the Blocker held are sent again in their original order (R36, R114): the one in progress without
its records that stand, then those that waited, then those refused meanwhile. -/
def Dev.replayBlocker (d : Dev) (a : Act) : Dev :=
  let b := d.blk.get a
  let first := match b.cur with
    | none => []
    | some r => let t := r.trim b.completed; if t.count = 0 then [] else [d.placedAgain t]
  let d1 := (d.foldStood a)
  let d2 := match b.cur with | some r => if first.isEmpty then d1.freeReqPair a r else d1 | none => d1
  d2.onBlk a fun b => { b with queue := first ++ b.queue ++ b.heldReqs, heldReqs := [], cur := none, completed := 0,
                               feltArmed := false }

/-- A control-store error logged (R98): the first since BLKn_CS_ELOG was cleared. -/
def Dev.logStore (d : Dev) (a : Act) (ue : Bool) (halves pc : Nat) : Dev :=
  let d1 := if ue then d.bumpF (Reg.BLK_CS_UE_COUNT.on a) 1 else d.bumpF (Reg.BLK_CS_CE_COUNT.on a) 1
  if d1.f (Reg.BLK_CS_ELOG_VALID.on a) = 1 then d1
  else (((d1.setF (Reg.BLK_CS_ELOG_VALID.on a) 1).setF (Reg.BLK_CS_ELOG_UE.on a) (flag ue)).setF
    (Reg.BLK_CS_ELOG_HALF.on a) halves).setF (Reg.BLK_CS_ELOG_ADDR.on a) pc

/-- Steps 1 to 5 of R123, as one whole: stop, gates closed with a cut write a fault of cause BLOCKER_RESET, the store
reloaded (R124 leaves an event when the reload copy cannot be used), the generation raised and the requests replayed. -/
def Dev.reloadBlocker (d : Dev) (a : Act) : Dev :=
  let b := d.blk.get a
  let d1 := d.cancelStamps a
  let d2 := if b.wg || b.frag.any (fun r => r.write) then d1.writeFault a 0xD else d1
  let d3 := (d2.cutRead a).laneOff a
  let d4 := if d.conf.reloadBad.get a then
    { d3 with conf := { d3.conf with reloadBad := d3.conf.reloadBad.set a false } }.event Ev.csReload (.blk a)
      a.idx (d3.reg (Reg.BLK_CS_ELOG + 0x10000 * a.idx)).toNat else d3
  (((d4.replayBlocker a).blockerFresh a (d4.imageOf a)).incGen (.block (.blk a))).readyUnit (.block (.blk a))

/-- An uncorrectable word met at an address (R98, R123). -/
def Dev.badWord (d : Dev) (a : Act) (halves pc : Nat) : Dev :=
  ((d.logStore a true halves pc).reportFault (.controlStore a) 4).reloadBlocker a

/-- A correctable word written back (R98). -/
def Dev.fixWord (d : Dev) (a : Act) (halves pc : Nat) (payload : BitVec 128) : Dev :=
  if halves = 0 then d
  else (d.logStore a false halves pc).onBlk a fun b => { b with store := sset 0 b.store pc (sealWord payload) }

/-- MICROCODE_IMAGE_WRITE (R122): at the dispatch wait, or at once for a Blocker that has held no image since power
good, the whole image is written, a microcode load cutting no gate there; the generation rises and held requests come. -/
def Dev.writeImage (d : Dev) (a : Act) : Dev :=
  let b := d.blk.get a
  let idle := decide (b.wait = .cond) && decide (b.pc.toNat = d.f (Reg.BLK_VEC_ENTRY.on a))
  if b.loadPending ∧ (!b.loaded ∨ idle) then
    (((d.replayBlocker a).blockerFresh a (d.imageOf a)).incGen (.block (.blk a))).readyUnit (.block (.blk a))
  else d

def execMicrocodeImageWrite (a : Act) (s : State) : Host.Outcome State Fault Refusal :=
  s.next (if s.dev.hasAct a then s.dev.writeImage a else s.dev)

/-! ### The execution of a word (R100) -/

/-- Steps 4 to 6, with GD and GS as they stood before the word; a GOP 13 that meets poison is an uncorrectable word
(R125). -/
def Dev.finishWord (d : Dev) (a : Act) (m : Micro) (x y : Word) : Dev :=
  let d1 := match m.plk with
    | 1 => d.onBlk a Blocker.advance
    | 2 => d.findSlot a (((d.blk.get a).gr m.gs).toNat % 1024)
    | _ => d
  let at1 := dataAddr y m.imm
  if m.gop = 13 ∧ (sgetList false (d1.blk.get a).dataPoison at1 4).any id then d1.badWord a 0 (d.blk.get a).pc.toNat
  else
    let d2 := (d1.gopStep a m x y).onBlk a fun b => b.kopStep m y
    let t := d2.condition a m.cond != m.cinv
    d2.onBlk a fun b => { b with pc := BitVec.ofNat 14 (if t then m.alt else m.next), wait := .run }

/-- Step 3 and what follows it. -/
def Dev.runWord (d : Dev) (a : Act) (m : Micro) (o : WordObs) : Dev :=
  let x := (d.blk.get a).gr m.gd
  let y := (d.blk.get a).gr m.gs
  let d1 := d.issue a m o
  (if m.dop = 0xC then d1.returnTo a
   else if m.dop = 0xD then d1.abandon a
   else d1.finishWord a m x y).sendGroups a

/-- A word whose stamp is not armed goes on at step 4 (R101 to R103). -/
def Dev.missWord (d : Dev) (a : Act) (m : Micro) : Dev :=
  let x := (d.blk.get a).gr m.gd
  let y := (d.blk.get a).gr m.gs
  (d.missStamp a m).finishWord a m x y

/-- Step 2: the stamp computed and armed, or missed. -/
def Dev.stampWord (d : Dev) (a : Act) (m : Micro) : Dev :=
  match d.wordStamp a m with
  | none => d.missWord a m
  | some s =>
    let r := d.armed1 a m s
    if (m.gated && decide (d.src = 0 ∨ d.src = 1)) || d.lateStamp s r.1 then (d.lateLaunch a).missWord a m
    else if !m.safe && decide ((2 : Int) ^ 21 < r.1) then (d.setF (Reg.BLK_STATUS_LONG_WAIT.on a) 1).missWord a m
    else d.armStamp a m r.2

/-- One word from step 1 (R100). -/
def Dev.word (d : Dev) (a : Act) (m : Micro) (o : WordObs) : Dev :=
  let b := d.blk.get a
  match (if m.safe then b.takeable else none) with
  | some v => d.takeEvent a v
  | none =>
    if m.isWait b.pc.toNat then
      if d.condition a m.cond != m.cinv then d.onBlk a fun b => { b with pc := BitVec.ofNat 14 m.alt }
      else d.onBlk a fun b => { b with wait := .cond, waitSafe := true }
    else
      let d1 := if m.plk = 3 then d.bindPlank a o else d
      if m.smode = 0 then d1.runWord a m o else d1.stampWord a m

/-- The word at the program counter, read and corrected (R98), then halted at (R126) or executed. -/
def Dev.fetchWord (d : Dev) (a : Act) (step : Bool) (o : WordObs) : Dev :=
  let b := d.blk.get a
  let pc := b.pc.toNat
  match readWord (storeWord b.store pc) with
  | .error h => d.badWord a h pc
  | .ok r =>
    let m := Micro.ofPayload r.1
    let d1 := d.fixWord a r.2 pc r.1
    if m.safe && b.haltReq && !step then d1.onBlk a fun b => { b with haltReq := false, halted := true }
    else d1.word a m o

/-- A Blocker that can execute a word: present, with an image, not resetting and not waiting. -/
def Dev.blkRuns (d : Dev) (a : Act) : Bool :=
  let b := d.blk.get a
  d.hasAct a && b.loaded && !b.resetting && decide (b.wait = .run)

/-- MICROWORD (R100). -/
def execMicroword (a : Act) (o : WordObs) (s : State) : Host.Outcome State Fault Refusal :=
  s.next (if s.dev.blkRuns a && !(s.dev.blk.get a).halted then (s.dev.fetchWord a false o).settle else s.dev)

/-- The word that the Blocker waits at. -/
def Dev.waitingWord (d : Dev) (a : Act) : Option Micro :=
  match readWord (storeWord (d.blk.get a).store (d.blk.get a).pc.toNat) with
  | .ok r => some (Micro.ofPayload r.1)
  | .error _ => none

/-- CONDITION_WAIT (R104): once the condition is true, ALT follows. -/
def execConditionWait (a : Act) (s : State) : Host.Outcome State Fault Refusal :=
  let d := s.dev
  s.next (match d.waitingWord a with
    | some m =>
      if (d.blk.get a).wait = .cond ∧ d.condition a m.cond ≠ m.cinv then
        d.onBlk a fun b => { b with pc := BitVec.ofNat 14 m.alt, wait := .run }
      else d
    | none => d)

/-- The Blocker's armed stamp fires (R24, R100): it is the last fired stamp, and the word's actions follow. -/
def Dev.blockerFires (d : Dev) (a : Act) (o : WordObs) : Dev :=
  match d.waitingWord a with
  | none => d
  | some m =>
    let rev : Int := d.revUnits
    let base : Int := match d.wordStamp a m with
      | some (.full f) => f
      | _ => (d.nowUnits : Int) - d.wordSkew a m
    let d1 := d.onBlk a fun b => { b with
      wait := .run
      lastRev := (if rev = 0 then 0 else base / rev % 2 ^ 20).toNat
      lastStamp := (if rev = 0 then 0 else base % rev).toNat }
    if (d.blk.get a).wait = .stamp then d1.runWord a m o else d

/-- A clock step cancelled the armed stamp of a waiting word, which is armed afresh (R103). -/
def Dev.rearm (d : Dev) (a : Act) : Dev :=
  match d.waitingWord a with
  | none => d
  | some m =>
    if (d.blk.get a).wait = .stamp then (d.onBlk a fun b => { b with wait := .run }).stampWord a m else d

/-! ### The operations as commands of their own -/

/-- PLANK_BIND (R112). -/
def execPlankBind (a : Act) (o : WordObs) (s : State) : Host.Outcome State Fault Refusal :=
  s.next (if s.dev.hasAct a then s.dev.bindPlank a o else s.dev)

/-- PLANK_FIND (R112, R583): of the slot in G[gs]. -/
def execPlankFind (a : Act) (gs : Nat) (s : State) : Host.Outcome State Fault Refusal :=
  s.next (s.dev.findSlot a (((s.dev.blk.get a).gr (gs % 16)).toNat % 1024))

/-- PLANK_ADVANCE (R112). -/
def execPlankAdvance (a : Act) (s : State) : Host.Outcome State Fault Refusal := s.next (s.dev.onBlk a Blocker.advance)

/-- LOAD_REC (R110): the records of the request are streamed and ready. -/
def execLoadRec (a : Act) (s : State) : Host.Outcome State Fault Refusal :=
  s.next (s.dev.onBlk a fun b => { b with loadedRecs := bits (b.gr 11) 9 0 })

def execFeltArm (a : Act) (s : State) : Host.Outcome State Fault Refusal := s.next (s.dev.feltArm a)

/-- POST with the status in G[darg] (R115). -/
def execPost (a : Act) (darg : Nat) (s : State) : Host.Outcome State Fault Refusal :=
  s.next (s.dev.post a ((s.dev.blk.get a).gr (darg % 16))).settle

def execAccept (a : Act) (s : State) : Host.Outcome State Fault Refusal := s.next (s.dev.accept a)

def execRawCheck (a : Act) (same : Bool) (s : State) : Host.Outcome State Fault Refusal :=
  s.next (s.dev.rawCheck a same).settle

def execTrace (a : Act) (darg : Nat) (s : State) : Host.Outcome State Fault Refusal :=
  s.next (s.dev.onBlk a fun b => b.traceReg (darg % 16))

def execReturn (a : Act) (s : State) : Host.Outcome State Fault Refusal :=
  s.next (if s.dev.hasAct a then s.dev.returnTo a else s.dev)

def execAbandon (a : Act) (s : State) : Host.Outcome State Fault Refusal :=
  s.next (if s.dev.hasAct a then s.dev.abandon a else s.dev)

/-- QUEUE_RESET (R585): a withdrawal names requests by their tags. -/
def execQueueReset (a : Act) (tags : List Nat) (s : State) : Host.Outcome State Fault Refusal :=
  s.next (if s.dev.hasAct a then (s.dev.withdrawTags a tags).settle else s.dev)

/-! ### The BLK and CST windows -/

def blkCtlAddr (a : Act) : Nat := Reg.BLK_CTL + 0x10000 * a.idx

/-- BLK_HALT (R126): HALT written as 1 halts at the next SAFE word, as 0 takes the order back. -/
def Dev.writeHalt (d : Dev) (a : Act) (v : Bool) : Dev :=
  if !d.hasAct a then d.absentWrite (blkCtlAddr a)
  else if d.safe || d.debug then
    (d.setF (Reg.BLK_CTL_HALT.on a) (flag v)).onBlk a fun b => { b with haltReq := v && !b.halted }
  else if v then d.ignoredWrite (blkCtlAddr a) else d

def execBlkHalt (a : Act) (v : Bool) (s : State) : Host.Outcome State Fault Refusal := s.next (s.dev.writeHalt a v)

/-- BLK_RESUME (R126). -/
def Dev.writeResume (d : Dev) (a : Act) : Dev :=
  if !d.hasAct a then d.absentWrite (blkCtlAddr a)
  else if (d.blk.get a).halted then
    (d.setF (Reg.BLK_CTL_HALT.on a) 0).onBlk a fun b => { b with halted := false, haltReq := false }
  else d

def execBlkResume (a : Act) (s : State) : Host.Outcome State Fault Refusal := s.next (s.dev.writeResume a)

/-- BLK_STEP (R126): one word while halted. -/
def Dev.writeStep (d : Dev) (a : Act) (o : WordObs) : Dev :=
  if !d.hasAct a then d.absentWrite (blkCtlAddr a)
  else if (d.blk.get a).halted && d.blkRuns a then (d.fetchWord a true o).settle
  else d

def execBlkStep (a : Act) (o : WordObs) (s : State) : Host.Outcome State Fault Refusal := s.next (s.dev.writeStep a o)

def cstAddr (a : Act) (off : Nat) : Nat := Reg.CST_ADDR + 0x20000 * a.idx + off

/-- AUTOINC after an access to CSTn_DATA_3 (R128). -/
def Dev.cstNext (d : Dev) (a : Act) : Dev :=
  let w := Reg.CST_ADDR_WORD.at 0x20000 a
  if d.f (Reg.CST_ADDR_AUTOINC.at 0x20000 a) = 1 then d.setF w ((d.f w + 1) % 16384) else d

/-- A control-store word put into the configuration set. -/
def Dev.stageCst (d : Dev) (a : Act) (word : Nat) (w : BitVec 144) : Dev :=
  { d with conf := { d.conf.trimTouch with
      staged := { d.conf.staged with cst := sset none d.conf.staged.cst (16384 * a.idx + word % 16384) (some w) } } }

/-- CST_DATA_3_WRITE (R128): the 128 bits last written staged as word WORD. -/
def Dev.cstWrite (d : Dev) (a : Act) (v : Word) : Dev :=
  if !d.hasAct a then d.absentWrite (cstAddr a 0x1C)
  else
    let d1 := d.setReg (cstAddr a 0x1C) v
    let p (i : Nat) : Nat := (d1.reg (cstAddr a (0x10 + 4 * i))).toNat * 2 ^ (32 * i)
    let payload := BitVec.ofNat 128 (p 0 + p 1 + p 2 + p 3)
    let raw := d.safe && decide (d.f (Reg.CST_CTL_RAW.at 0x20000 a) = 1)
    let w := if raw then BitVec.ofNat 144 (payload.toNat + 2 ^ 128 * d.f (Reg.CST_CHECK_CHECK.at 0x20000 a)) else sealWord payload
    (d1.stageCst a (d.f (Reg.CST_ADDR_WORD.at 0x20000 a)) w).cstNext a

def execCstData3Write (a : Act) (v : Word) (s : State) : Host.Outcome State Fault Refusal := s.next (s.dev.cstWrite a v)

/-- A committed word's bits [32i+31:32i] (Table 04.10). -/
def Dev.cstPayload (d : Dev) (a : Act) (i : Nat) : Word :=
  let w := sget 0 d.conf.images (16384 * a.idx + d.f (Reg.CST_ADDR_WORD.at 0x20000 a))
  BitVec.ofNat 32 (w.toNat / 2 ^ (32 * i))

/-- CST_DATA_3_READ (R128). -/
def execCstData3Read (a : Act) (who : Requester) (s : State) : Host.Outcome State Fault Refusal :=
  let d := s.dev
  s.next (if d.hasAct a then (d.answer who (d.cstPayload a 3)).cstNext a else d.answer who 0)

end Sys2Proof.Machine
end

