-- ==== Sys2Proof/Machine/Semaphore.lean ====
section
/-! DEFINITION. The subsystem semaphore (R440 to R445): claims, implicit holds, releases and the abandonment timer. A
freed semaphore is granted to the next queued request by the command that freed it. -/

namespace Sys2Proof.Machine

/-- The holder a path acts for (Table 17.2, Table 18.4); 0 on the twin link, which is never serialized. -/
def holderOf : Path → Nat
  | .nvme p => 1 + p.idx
  | .miInBand p => 1 + p.idx
  | .miBus p => 3 + p.idx
  | .uart => 5
  | .twin => 0

def Dev.semHolder (d : Dev) : Nat := d.f Reg.CPX_SEM_HOLDER

/-- QUEUE shown. -/
def Dev.semShow (d : Dev) : Dev := d.setF Reg.CPX_SEM_QUEUE d.sem.queue.length

def Dev.setQueue (d : Dev) (q : List SemReq) : Dev := { d with sem := { d.sem with queue := q } }.semShow

/-- A grant (R442, R443): the holder set and the grant counted; one within the holder's own hold counts none (Table
17.3). -/
def Dev.semGrant (d : Dev) (holder : Nat) : Dev :=
  if d.semHolder = holder then d
  else (d.setF Reg.CPX_SEM_HOLDER holder).setF Reg.CPX_SEM_GRANTS (d.f Reg.CPX_SEM_GRANTS + 1)

/-- The semaphore can be granted to a holder at once: it is theirs, or it is free with nothing queued. -/
def Dev.semOpen (d : Dev) (holder : Nat) : Bool :=
  decide (d.semHolder = holder) || (decide (d.semHolder = 0) && d.sem.queue.isEmpty)

/-- An operation starts under the hold. -/
def Dev.semBegin (d : Dev) : Dev := { d with sem := { d.sem with ops := d.sem.ops + 1 } }

/-- The semaphore freed. -/
def Dev.semClear (d : Dev) : Dev :=
  let d1 := (d.setF Reg.CPX_SEM_HOLDER 0).setF Reg.CPX_SEM_EXPLICIT 0
  { d1.setF Reg.CPX_SEM_TIMER 0 with sem := { d.sem with ops := 0, expired := false } }

/-- The release at the expiry of the abandonment timer (R445). -/
def Dev.semAbandon (d : Dev) : Dev :=
  let h := d.semHolder
  ((((d.semClear).setF Reg.CPX_SEM_ABANDONED 1).bumpF Reg.CPX_SEM_CNT_EXPIRED 1)).event Ev.semAbandoned .cpx h 0

/-- The oldest waiting request is the present holder's own. -/
def Dev.semOwnNext (d : Dev) : Bool :=
  match d.sem.queue with
  | [] => false
  | r :: _ => decide (r.holder = d.semHolder)

/-- An operation under the hold ends: an implicit hold is released, unless the holder's own request is next in the queue
(Table 17.3), and an expired timer is checked again. -/
def Dev.semEnd (d : Dev) : Dev :=
  let d1 := { d with sem := { d.sem with ops := d.sem.ops - 1 } }
  if d1.sem.ops ≠ 0 then d1
  else if d1.sem.expired then d1.semAbandon
  else if d1.f Reg.CPX_SEM_EXPLICIT = 1 ∨ d1.semOwnNext then d1
  else d1.semClear

/-- A refusal counted (Table 17.6). -/
def Dev.semRefused (d : Dev) : Dev := d.bumpF Reg.CPX_SEM_CNT_REFUSED 1

/-- A claim by a holder to whom the semaphore is open: held explicitly, a running timer of that holder stopped. -/
def Dev.semClaim (d : Dev) (holder : Nat) : Dev :=
  ((d.semGrant holder).setF Reg.CPX_SEM_EXPLICIT 1).setF Reg.CPX_SEM_TIMER 0

/-- A release (R444): the status, 0x05 from anyone but the holder while it is held. -/
def Dev.semRelease (d : Dev) (holder : Nat) : Nat × Dev :=
  if d.semHolder = 0 then (0, d)
  else if d.semHolder ≠ holder then (5, d)
  else if d.sem.ops ≠ 0 then (0, d.setF Reg.CPX_SEM_EXPLICIT 0)
  else (0, d.semClear)

/-- The abandonment timer starts for a path (R445): its queued requests are withdrawn. -/
def Dev.semTimer (d : Dev) (holder : Nat) : Dev :=
  let d1 := d.setQueue (d.sem.queue.filter fun r => decide (r.holder ≠ holder))
  if d.semHolder = holder ∧ holder ≠ 0 then d1.setF Reg.CPX_SEM_TIMER 1 else d1

end Sys2Proof.Machine
end

