-- ==== Sys2Proof/Machine/Sizer.lean ====
section
/-! DEFINITION. The Sizer: agreement groups and when their commit is allowed (R51, Table 02.2), the admission arithmetic
(R58 to R66, R286, R537), and the commit up to its applying edge (R53 to R56). -/

namespace Sys2Proof.Machine

/-! ### The candidate image -/

/-- The profile tables overlaid with staged bytes. -/
def Dev.applyTables (d : Dev) (ts : List (Nat × Option Byte)) : Dev :=
  { d with conf := { d.conf with
      tables := ts.foldl (fun m p => match p.2 with | some b => sset 0 m p.1 b | none => m) d.conf.tables } }

/-- The control-store images overlaid with staged words. -/
def Dev.applyCst (d : Dev) (ws : List (Nat × Option (BitVec 144))) : Dev :=
  { d with conf := { d.conf with
      images := ws.foldl (fun m p => match p.2 with | some w => sset 0 m p.1 w | none => m) d.conf.images } }

/-- The committed image overlaid with a set, with the costs that follow from it (R189). -/
def Dev.candidate (d : Dev) (s : StagedSet) : Dev := (((d.applyBits s.regs).applyTables s.tables).applyCst s.cst).refreshCosts

/-! ### Rate-zone records -/

/-- A rate-zone record's words 0 to 2 (Table 05.3). -/
def Dev.rzValid (d : Dev) (a : Act) (h z : Nat) : Bool := decide (bits (d.rzWord a h z 0) 31 24 = 1)

/-- The record places of an actuator that hold a record. -/
def Dev.rzPlaces (d : Dev) (a : Act) : List (Nat × Nat) :=
  if d.hasAct a then
    ((List.range 12).flatMap fun h => (List.range 64).map fun z => (h, z)).filter fun p => d.rzValid a p.1 p.2
  else []

def Dev.surfaceOf (d : Dev) (a : Act) (h : Nat) : Nat := a.idx * d.conf.nh + h

/-- Agreement group 1 for one record (R82, R133). -/
def Dev.rzAgrees (d : Dev) (a : Act) (h z : Nat) : Bool :=
  let w0 := d.rzWord a h z 0
  let bitrate := bits (d.rzWord a h z 1) 31 16
  let t := d.plankTable a (plankAddr h z)
  decide (((d.rzWord a h z 2).toNat * 400 + 2 ^ 19) / 2 ^ 20 = bitrate) &&
  decide (t.bitrate = bitrate ∧ t.crate = bits w0 13 12) && decide (t.surface = d.surfaceOf a h) &&
  decide (t.rzone = bits w0 19 14) && plankValid t d.speed

/-! ### Which groups a set has members of (R51) -/

/-- The staged registers that hold bits of a group's fields. -/
def stagedRegs (s : StagedSet) (g : Nat) : List Nat :=
  (s.regs.filter fun p => match rowAt p.1 with
    | none => false
    | some r => r.fields.any fun f => decide (f.group = g) && decide (p.2.1 &&& bitMask f.hi f.lo ≠ 0)).map fun p => p.1

/-- The offsets of staged bytes of one table. -/
def stagedIn (s : StagedSet) (t : Nat) : List Nat :=
  (s.tables.filter fun p => p.2.isSome && decide (p.1 / 2 ^ 32 = t)).map fun p => p.1 % 2 ^ 32

/-- Staged members of group 1: (actuator, head, rate zone), from the member words of records (R147) and from Plank
tables. -/
def stagedZones (s : StagedSet) (a : Act) : List (Nat × Nat) :=
  let recs := ((stagedIn s (Tbl.rz a)).filter fun o =>
    decide (o % 256 = 1 ∨ (4 ≤ o % 256 ∧ o % 256 < 16))).map fun o => (o / 256 / 64, o / 256 % 64)
  let planks := (stagedIn s (Tbl.plank a)).map fun o => (o / 2 ^ 16 / 64, o / 2 ^ 16 % 64)
  (recs ++ planks).dedup

/-- A staged Plank table whose WEDGES differs from the committed count (R51); `c` is the candidate. -/
def Dev.plankMoves (d c : Dev) (s : StagedSet) (a : Act) : Bool :=
  ((stagedIn s (Tbl.plank a)).map fun o => o / 2 ^ 16).dedup.any fun i =>
    decide ((c.plankTable a (i * 2 ^ 16)).wedges ≠ d.wedges)

/-- Heads whose group 4 members are staged: limits, leads, set points and back-off fields (R206). -/
def stagedHeads (s : StagedSet) (a : Act) : List Nat :=
  let regs := ((stagedRegs s 4).filter fun x => decide (actAt x = a)).map fun x => (x - (0x248000 + 0x10000 * a.idx)) / 4 % 16
  let tab := ((stagedIn s (Tbl.assist a)).filter fun o =>
    decide (4 ≤ o % 32 ∧ o % 32 < 8) || decide (o % 32 = 13 ∨ o % 32 = 14 ∨ o % 32 = 15)).map fun o => o / 32 / 256
  (regs ++ tab).dedup

/-- The coefficient sets with staged words. -/
def stagedSets (s : StagedSet) : List (Act × Nat) :=
  [(Act.a0, 0), (Act.a0, 1), (Act.a1, 0), (Act.a1, 1)].filter fun q =>
    s.regs.any fun p => decide (setAddr q.1 q.2 0 ≤ p.1 ∧ p.1 < setAddr q.1 q.2 4096)

/-- Whether a group holds a staged member. -/
def Dev.groupStaged (d c : Dev) (s : StagedSet) (g : Nat) : Bool :=
  match g with
  | 1 => !(stagedZones s .a0).isEmpty || !(stagedZones s .a1).isEmpty
  | 2 => !(stagedSets s).isEmpty
  | 3 => !(stagedRegs s 3).isEmpty || d.plankMoves c s .a0 || d.plankMoves c s .a1
  | 4 => !(stagedHeads s .a0).isEmpty || !(stagedHeads s .a1).isEmpty
  | 8 => !(stagedRegs s 8).isEmpty || !(stagedIn s Tbl.felt).isEmpty
  | g => !(stagedRegs s g).isEmpty

/-! ### Power states (R519 to R522) -/

/-- Worst-case power, low-mode power and wake time of a domain (Table 22.1): mW, mW, µs. -/
def domainFigures (i : Nat) : Nat × Nat × Nat :=
  let j := if 15 ≤ i ∧ i ≤ 29 then i - 15 else i
  if j ≤ 2 then (180, 0, 20) else if j = 3 then (420, 0, 10) else if j ≤ 7 then (210, 0, 10)
  else if j = 8 then (90, 0, 10) else if j ≤ 10 then (60, 0, 10) else if j = 11 then (70, 0, 10)
  else if j = 12 then (110, 0, 2000) else if j = 13 then (60, 0, 300) else if j = 14 then (150, 0, 10)
  else if i = 30 ∨ i = 32 then (320, 40, 200) else if i = 31 ∨ i = 33 then (180, 40, 20000)
  else if i ≤ 49 then (40, 8, 250) else if i ≤ 51 then (250, 25, 2000) else if i = 52 then (60, 5, 50)
  else if i = 53 then (80, 0, 10) else if i ≤ 55 then (70, 0, 10) else if i = 56 then (60, 5, 50)
  else if i = 57 then (10, 0, 5) else if i ≤ 61 then (150, 30, 200) else if i ≤ 63 then (40, 0, 50)
  else if i ≤ 67 then (30, 0, 20) else if i = 68 then (120, 0, 5) else if i ≤ 70 then (50, 0, 5)
  else if i ≤ 72 then (30, 0, 500) else if i = 73 then (20, 0, 5) else if i = 74 then (15, 0, 0)
  else if i ≤ 77 then (15, 0, 100) else if i = 78 then (30, 0, 2000) else if i = 79 then (20, 0, 10) else (0, 0, 0)

/-- Bit i of a power state's ON and LOW masks, as committed. -/
def Dev.psOn (d : Dev) (s i : Nat) : Bool :=
  !d.domainAbsent i && testBit (d.reg (Reg.PDM_PS_ON + 16 * s + 4 * (i / 32))).toNat (i % 32)

def Dev.psLow (d : Dev) (s i : Nat) : Bool := testBit (d.reg (Reg.PDM_PS_LOW + 16 * s + 4 * (i / 32))).toNat (i % 32)

def Dev.psFull (d : Dev) (s i : Nat) : Bool := d.psOn s i && !d.psLow s i

def Dev.psDeclared (d : Dev) (x : Nat) (s : Nat) : Nat := (d.reg (x + 4 * s)).toNat

/-- The speed of a power state in 0.01 rpm (R309). -/
def Dev.psSpeed (d : Dev) (s : Nat) : Nat := if s ≤ 2 then d.speed else if s = 3 then d.f Reg.PDM_PS3_SPEED_SPEED else 0

/-- Agreement group 9 (R519, R520, R522, Table 22.5). -/
def Dev.powerAgrees (d : Dev) : Bool :=
  let doms := List.range 80
  let keep := [57, 67, 73, 74, 75, 76, 77]
  let vault := [34, 53, 64, 65, 66, 78]
  ((List.range 5).all fun s =>
    (keep.all fun i => d.psOn s i) && (decide (d.psSpeed s = 0) || vault.all fun i => d.psFull s i) &&
    decide (bits (d.reg (Reg.PDM_PS_MW + 4 * s)) 15 0 ≤ d.psDeclared Reg.PDM_PS_DRIVE_MW s)) &&
  ((List.range 4).all fun s =>
    (doms.all fun i => (!d.psOn (s + 1) i || d.psOn s i) && (!d.psFull (s + 1) i || d.psFull s i)) &&
    decide (d.psDeclared Reg.PDM_PS_DRIVE_MW (s + 1) ≤ d.psDeclared Reg.PDM_PS_DRIVE_MW s)) &&
  decide (d.f Reg.PDM_PS3_SPEED_SPEED ≤ d.speed) &&
  decide (d.f Reg.PDM_THERM_CFG_WARN < d.f Reg.PDM_THERM_CFG_CRIT ∧ d.f Reg.PDM_THERM_CFG_CRIT < d.f Reg.PDM_THERM_CFG_SHUT ∧
    d.f Reg.PDM_THERM_CFG_SHUT ≤ 85)

/-- A state's worst-case power is within its declared power, and its wake term within its exit time (R65, R521). -/
def Dev.powerFits (d : Dev) (s : Nat) : Bool :=
  let doms := List.range 80
  let mw := (doms.map fun i =>
    if d.psFull s i then (domainFigures i).1 else if d.psOn s i then (domainFigures i).2.1 else 0).sum
  let wake := (doms.map fun i =>
    if d.psOn 0 i && !d.psOn s i then (domainFigures i).2.2
    else if d.psFull 0 i && d.psOn s i && d.psLow s i then 20 else 0).sum
  decide (mw ≤ bits (d.reg (Reg.PDM_PS_MW + 4 * s)) 15 0) &&
  decide (wake + d.psDeclared Reg.PDM_PS_RAMP s ≤ d.psDeclared Reg.PDM_PS_EXIT s)

/-! ### Agreement (Table 02.2), over the candidate -/

/-- The assist records of a head agree (R206). -/
def Dev.headAgrees (d : Dev) (a : Act) (h : Nat) : Bool :=
  (d.assistRecs a h).all fun p =>
    d.assistRecOk a h (d.asTable a h p.1 p.2 1) (d.asTable a h p.1 p.2 2) (d.asTable a h p.1 p.2 3) (d.asTable a h p.1 p.2 4)

/-- The set that will be active. -/
def Dev.activeSet (d : Dev) (a : Act) : CoefSet := d.coefSet a (d.f (Reg.SRV_SET_SEL_SEL.on a))

/-- FF stages from a stage's inputs back to signal 6 (R292). -/
def ffReaches (c : CoefSet) : Nat → Nat → Bool
  | 0, _ => false
  | n + 1, k =>
    match c.stages[k]? with
    | none => false
    | some s => decide (s.seg = 1) && s.used.any fun i => decide (i = 6) || (decide (16 ≤ i) && ffReaches c n (i - 16))

/-- The coupling filter of an actuator: its stage leads from signal 6 through FF stages (R292). -/
def Dev.couplingOk (d : Dev) (a : Act) : Bool :=
  decide (d.f (Reg.SRV_XA_CFG_EN.on a) = 0) || ffReaches (d.activeSet a) 97 (d.f (Reg.SRV_XA_CFG_STAGE.on a))

def Dev.crossoverOk (d : Dev) (a : Act) : Bool :=
  !d.hasAct a || (decide (d.f (Reg.SRV_XOVER_VCM_FC.on a) = d.f (Reg.SRV_XOVER_MA_FC.on a)) &&
    (decide ((d.activeSet a).ma ≠ 0) || decide (d.f (Reg.SRV_XOVER_MA_FC.on a) = 0)))

def Dev.retryAgrees (d : Dev) : Bool :=
  let alt (a : Act) : Bool := !d.hasAct a || decide (d.f (Reg.CHN_ALT_SR_SET.on a) ≤ d.f (Reg.CHN_ALT_CNT.on a))
  decide (d.f Reg.CHN_LADDER_CFG_EN % 8 = 7) && alt .a0 && alt .a1

/-- The agreement rule of a group (Table 02.2) on the candidate. Group 3's tick period is proven under R59; the felt
table agrees with parity off. -/
def Dev.groupAgrees (c : Dev) (s : StagedSet) (g : Nat) : Bool :=
  match g with
  | 1 => (c.rzPlaces .a0).all (fun p => c.rzAgrees .a0 p.1 p.2) && (c.rzPlaces .a1).all fun p => c.rzAgrees .a1 p.1 p.2
  | 2 => (stagedSets s).all fun q => (c.coefSet q.1 q.2).agrees (c.hasAct q.1)
  | 3 => c.usedTables.all fun t => decide (t.wedges = c.wedges)
  | 4 => [Act.a0, Act.a1].all fun a => !c.hasAssist a || (List.range 12).all fun h => c.headAgrees a h
  | 5 =>
    if c.hasAct .a1 then
      decide (c.f Reg.SRV_XA_CFG_EN = c.f (Reg.SRV_XA_CFG_EN.on .a1)) && c.couplingOk .a0 && c.couplingOk .a1
    else decide (c.f Reg.SRV_XA_CFG_EN = 0)
  | 6 => c.crossoverOk .a0 && c.crossoverOk .a1
  | 7 => decide (c.f Reg.ZQE_CFG_WINDOW * c.f Reg.ZQE_POOL_DEPTH ≤ 16 * c.f Reg.ZQE_POOL_SIZE)
  | 8 => !c.feltOn || c.feltAgrees
  | 9 => c.powerAgrees
  | 10 => c.retryAgrees
  | _ => true

/-! ### Commit allowed when (Table 02.2) -/

/-- The head that an actuator has selected; on the ramp it has none. -/
def Dev.selected (d : Dev) (a : Act) : Option Nat :=
  if d.hasAct a ∧ 1 ≤ d.loadState a ∧ d.loadState a ≤ 3 then some (d.head a) else none

def Dev.isLoaded (d : Dev) (a : Act) : Bool := decide (d.loadState a = 2)

/-- Whether the commit of a group is allowed in the present state; `fmt` for the commit that Format NVM makes. -/
def Dev.groupAllowed (d : Dev) (s : StagedSet) (fmt : Bool) (g : Nat) : Bool :=
  match g with
  | 1 => [Act.a0, Act.a1].all fun a => (stagedZones s a).all fun p => decide (d.selected a ≠ some p.1)
  | 2 => (stagedSets s).all fun q => decide (d.f (Reg.SRV_SET_SEL_SEL.on q.1) ≠ q.2)
  | 3 => !d.isLoaded .a0 && !d.isLoaded .a1
  | 4 => [Act.a0, Act.a1].all fun a => (stagedHeads s a).all fun h => decide (d.selected a ≠ some h)
  | 6 => [Act.a0, Act.a1].all fun a =>
    !((stagedRegs s 6).any fun x => decide (actAt x = a)) || decide (d.srvMode a = 1) || !d.isLoaded a
  | 8 => fmt || (d.safe && d.host.format.isNone)
  | 9 => d.host.psNext.isNone && decide (d.f Reg.PDM_STATUS_BUSY = 0)
  | _ => true

/-! ### The proof (R58 to R66) -/

/-- Phase units of slack that a term of X ps leaves of the budget, with D = speed × wedges: (B − X) ÷ T × 2^18, rounded
down; T is 6 × 10^15 ÷ D ps. -/
def slackUnits (dd : Nat) (budget64 x : Nat) : Int :=
  ((budget64 : Int) * 6000000000000000 - 64 * x * dd) * 4096 / 6000000000000000

/-- The latest end of a DATA field in an actuator's Plank tables, ps; bit rates are in 0.1 Mb/s. -/
def Dev.latestEnd (d : Dev) (a : Act) : Nat :=
  (((List.range d.conf.nh).flatMap fun h => (List.range 64).map fun z => d.plankTable a (plankAddr h z)).filter fun t =>
    decide (t.version ≠ 0 ∧ t.bitrate ≠ 0)).foldl (fun m t =>
      t.entries.foldl (fun m e => if e.kind = 1 then Nat.max m (ceilDiv (e.endBit * 10000000) t.bitrate) else m) m) 0

/-- The per-tick terms (Table 02.4): CHECK and slack in phase units. -/
def Dev.terms (d : Dev) : List (Nat × Int) :=
  let dd := d.speed * d.wedges
  let one (a : Act) : List (Nat × Int) :=
    if !d.hasAct a then []
    else
      let cy := (d.activeSet a).cycles
      let law := cy.1 * 1250
      [(4, (3000000 - (law : Int)) * dd * 262144 / 6000000000000000),
       (5, slackUnits dd 63 (380 * d.f (Reg.SRV_SFMT_CELL_PS.on a) + law + cy.2 * 1250)),
       (6, slackUnits dd 63 (d.latestEnd a + 64 * 1667))] ++
      (if d.variant = .C then [] else [(7, slackUnits dd 63 (520000 + 320 * 1250))])
  let wb := 258048 - (d.f Reg.CHN_WB_CFG_START : Int) -
    (2 * d.f Reg.CHN_WB_CFG_WORDS * 20000 * dd * 262144 + 5999999999999999) / 6000000000000000
  one .a0 ++ one .a1 ++ [(8, wb)]

/-- SIZ_MARGIN: the smallest slack. -/
def Dev.margin (d : Dev) : Nat :=
  (d.terms.foldl (fun m p => min m p.2) (262143 : Int)).toNat

/-- The recovery floor in 100 ms units, rounded up. -/
def Dev.floor100 (d : Dev) : Nat := ceilDiv (d.floorTicks * 60000) (d.speed * d.wedges)

/-- The seek table of an actuator reaches its bands (R286). -/
def Dev.seekReaches (d : Dev) (a : Act) : Bool :=
  let es := d.seekTable a
  let top := d.media.bands.foldl (fun m p => match p.2 with
    | some b => if d.actOf b.surface = a then Nat.max m (Nat.max (b.track 0) (b.track (b.tracks - 1)) + b.pitch) else m
    | none => m) 0
  !d.hasAct a ||
    (match es.getLast? with
    | none => false
    | some l => decide (top ≤ l.1) && (es.zip es.tail).all fun p => decide (p.1.1 < p.2.1 ∧ p.1.2 ≤ p.2.2))

/-- The Blocker watchdog covers the full ladder (R537). -/
def Dev.watchdogCovers (d : Dev) : Bool :=
  let full := ((List.range 8).filter fun r => decide (r ≤ 2) || (decide (r = 7) && d.rung7 true) ||
    (decide (3 ≤ r ∧ r ≤ 6) && d.rungOn r)).map d.cost
  decide (full.sum + d.wedges + d.fullStroke ≤ d.f Reg.FMG_WDT_BLK * d.wedges)

/-- The Blockers whose images or vectors a set stages. -/
def stagedBlockers (s : StagedSet) (a : Act) : Bool :=
  (s.cst.any fun p => p.2.isSome && decide (p.1 / 16384 = a.idx)) ||
  (s.regs.any fun p => decide (Reg.BLK_VEC + 0x10000 * a.idx ≤ p.1 ∧ p.1 < Reg.BLK_VEC + 0x10000 * a.idx + 32))

/-- What the image check of R121 finds in an actuator's image. -/
def Dev.imageCheck (d : Dev) (a : Act) : Option (Nat × Nat) × Nat :=
  checkImage (d.imageOf a) ((List.range 8).map fun v => d.f ((Reg.BLK_VEC_ENTRY.nth v).on a))

def Dev.imageOk (c : Dev) (s : StagedSet) (a : Act) : Bool :=
  !(c.hasAct a && stagedBlockers s a) || (c.imageCheck a).1.isNone

/-- The first failing check of the proof, 0 when it holds; the checks run in the order of their codes. -/
def Dev.proof (c : Dev) (s : StagedSet) : Nat :=
  let dd := c.speed * c.wedges
  let bad (k : Nat) : Bool := c.terms.any fun p => decide (p.1 = k ∧ p.2 < 0)
  if dd = 0 ∨ 6000000000000 < 10000 * dd ∨ 40000 * dd < 6000000000000 then 0x03
  else if bad 4 then 0x04
  else if bad 5 then 0x05
  else if bad 6 || !c.imageOk s .a0 || !c.imageOk s .a1 then 0x06
  else if bad 7 then 0x07
  else if bad 8 then 0x08
  else if !c.seekReaches .a0 || !c.seekReaches .a1 || !c.watchdogCovers then 0x09
  else if 16 * c.f Reg.ZQE_POOL_SIZE < c.f Reg.ZQE_CFG_WINDOW * c.f Reg.ZQE_POOL_DEPTH ∨ 256 < c.f Reg.ZQE_CFG_WINDOW ∨
      100 < c.f Reg.ZQE_CFG_HOLD then 0x0A
  else if c.f Reg.DMC_CAP_MIB < c.f Reg.SIZ_DRAM_DECL_MIB + c.f Reg.ZQE_POOL_SIZE then 0x0B
  else if c.feltOn && (decide (c.f Reg.FLT_CFG_WIDTH < 4 ∨ 22 < c.f Reg.FLT_CFG_WIDTH ∨ 8 < c.f Reg.FLT_CFG_CKPT) ||
      decide (c.f Reg.FLT_SCR_SIZE * 2 ^ 30 < 2 * c.f Reg.ZQE_LIMITS_MAX_ACTIVE * (c.f Reg.FLT_CFG_PAR * 2 ^ 22 + 4096))) then 0x0C
  else if !((List.range 5).all fun p => c.powerFits p) then 0x0D
  else if ((List.range 4).any fun p => decide (c.f Reg.SIZ_KE_E * c.psSpeed p ^ 2 < 40 * c.speed ^ 2)) ||
      decide (230 * 400 < (c.f Reg.BUF_DIRTY_MAX + 6) * 1000) then 0x0E
  else 0

/-! ### The commit (R53 to R56) -/

/-- An outcome of the checks of R53: the CHECK, the GROUP and the MPI status. -/
structure Verdict where
  check : Nat
  group : Nat
  status : Nat
deriving DecidableEq, Repr

/-- Steps 2 to 4 of R53. -/
def Dev.judge (d : Dev) (s : StagedSet) (fmt : Bool) : Verdict :=
  let c := d.candidate s
  let groups := ((List.range 11).drop 1).filter fun g => d.groupStaged c s g
  match groups.find? fun g => !c.groupAgrees s g with
  | some g => { check := 1, group := g, status := 0x0E }
  | none =>
    match groups.find? fun g => !d.groupAllowed s fmt g with
    | some g => { check := 2, group := g, status := 0x0E }
    | none =>
      let k := c.proof s
      { check := k, group := 0, status := if k = 0 then 0 else 0x02 }

/-- BLKn_LOADERR after an image check (R121). -/
def Dev.showLoadErr (d c : Dev) (s : StagedSet) (a : Act) : Dev :=
  if c.hasAct a && stagedBlockers s a then
    let r := c.imageCheck a
    let x := r.1.getD (0, 0)
    ((d.setF (Reg.BLK_LOADERR_PATHLEN.on a) r.2).setF (Reg.BLK_LOADERR_REASON.on a) x.2).setF (Reg.BLK_LOADERR_ADDR.on a) x.1
  else d

def Dev.showVerdict (d : Dev) (v : Verdict) : Dev :=
  ((d.setF Reg.SIZ_RESULT_CHECK v.check).setF Reg.SIZ_RESULT_GROUP v.group).setF Reg.SIZ_STATUS_LAST_STATUS v.status

def StagedSet.isEmpty (s : StagedSet) : Bool := s.regs.isEmpty && s.tables.isEmpty && s.cst.isEmpty

/-- The set frozen: staging starts a new one (R53 step 1, R56). -/
def Dev.freeze (d : Dev) : Dev := { d with conf := { d.conf with staged := StagedSet.empty, trimStale := true } }

/-- A commit by whoever may make it: refused and discarded, or admitted and waiting for its edge (R53, R54); `holds` when
it holds the semaphore implicitly until then. -/
def Dev.commit (d : Dev) (holds : Bool) : Dev :=
  let s := d.conf.staged
  let v := d.judge s false
  let d1 := if v.check ≤ 2 ∧ v.check ≠ 0 then d else
    ((d.showLoadErr (d.candidate s) s .a0)).showLoadErr (d.candidate s) s .a1
  let d2 := d1.freeze.showVerdict v
  if v.status ≠ 0 then d2
  else
    let p : PendingSet := { set := s, skip := d.pastCutoff, holds := holds }
    let d3 := { d2 with conf := { d2.conf with pending := some p } }
    (if holds then d3.semBegin else d3).setF Reg.SIZ_STATUS_BUSY 1

/-- A commit request while one runs is dropped (R56). -/
def Dev.busy (d : Dev) : Bool := d.conf.pending.isSome

/-- The holder that a requester acts for: a management core acts as the management firmware (R55). -/
def requesterHolder : Requester → Nat
  | .path p => holderOf p
  | .core _ => 6
  | .debug => 0

/-- Whether a commit by a holder is admitted by R55: the holder itself, the management firmware at start-up, or one to
whom the semaphore is open. -/
def Dev.mayCommit (d : Dev) (holder : Nat) : Bool :=
  decide (holder ≠ 0) && (d.semOpen holder || (decide (holder = 6) && decide (d.bootStep = 6)))

/-- A commit for a holder (R55, R56, Table 17.1): implicit unless the holder already has the semaphore. -/
def Dev.commitFor (d : Dev) (holder : Nat) : Dev :=
  if d.busy then d.setF Reg.SIZ_STATUS_DROPPED 1
  else if !d.mayCommit holder then d.semRefused
  else if d.semHolder = holder then d.commit false
  else
    let d1 := (d.semGrant holder).commit true
    if d1.busy then d1 else d1.semClear

/-- COMMIT: SIZ_CTL.COMMIT written as 1. -/
def execCommit (who : Requester) (s : State) : Host.Outcome State Fault Refusal :=
  s.next (s.dev.commitFor (requesterHolder who))

/-- The configuration set emptied without a commit, unless a commit runs. -/
def Dev.discard (d : Dev) : Dev := if d.busy then d else d.freeze

/-- DISCARD: SIZ_CTL.DISCARD written as 1. -/
def execDiscard (s : State) : Host.Outcome State Fault Refusal := s.next s.dev.discard

end Sys2Proof.Machine
end

