-- ==== Sys2Proof/Machine/Apply.lean ====
section
/-! DEFINITION. What an applying tick edge changes: write-back batches and aging commits (R44, R45, R155, R156, R220),
admitted configuration sets (R53 steps 5 and 6, R17, R122, R148, R265, R267), and the RWT latch (R29). -/

namespace Sys2Proof.Machine

/-! ### Adaptation sets -/

/-- A table word under a mask. -/
def Dev.putWord (d : Dev) (t : Nat) (e : Nat × Word × Word) : Dev := d.setTword t e.1 (overlayBits (d.tword t e.1) e.2)

/-- The last word of a record recomputed: the CRC-32 of the words before it. -/
def Dev.sealRecord (d : Dev) (t base n : Nat) : Dev :=
  d.setTword t (base + 4 * (n - 1)) (BitVec.ofNat 32 (crc32Words (d.twords t base (n - 1))))

/-- An adaptation set at its edge: dropped when its record's RGEN has moved on (R156), else applied whole. -/
def Dev.applyAdapt (d : Dev) (x : AdaptSet) : Dev :=
  if x.rgen.any fun g => decide (g ≠ bits (d.tword x.table x.base) 11 0) then
    (d.bumpF (Reg.CHN_WB_STATUS_STALE.on x.act) 1).event Ev.wbStale (.chn x.act)
      (headArg x.act (x.base / 16384)) (x.base / 256 % 64)
  else
    let d1 := (x.entries.foldl (fun d e => d.putWord x.table e) d).sealRecord x.table x.base x.length
    if x.rgen.isSome then d1.bumpF (Reg.CHN_WB_STATUS_BATCHES.on x.act) 1
    else d1.onAssist x.act fun l => { l with integral := l.integral - l.ageShift, ageShift := 0 }

/-- The adaptation sets whose edge this is; the others wait for the next. -/
def Dev.applyAdapts (d : Dev) : Dev :=
  let now := d.conf.adaptPending.filter fun x => !x.skip
  let later := (d.conf.adaptPending.filter fun x => x.skip).map fun x => { x with skip := false }
  now.foldl Dev.applyAdapt { d with conf := { d.conf with adaptPending := later } }

/-! ### SUPERSEDED (R44) -/

/-- The maximal runs of ones of a mask from bit `lo` up, as (high, low) bits. -/
def maskRuns (m : Word) : List (Nat × Nat) :=
  ((List.range 32).filter fun i => testBit m.toNat i && !(decide (0 < i) && testBit m.toNat (i - 1))).map fun lo =>
    (lo + ((List.range (32 - lo)).takeWhile fun k => testBit m.toNat (lo + k)).length - 1, lo)

/-- The mask of the bytes of a table word that a set stages. -/
def stagedMask (s : StagedSet) (t addr : Nat) : Word :=
  (List.range 4).foldl (fun m i =>
    if (sget none s.tables (tableKey t (addr + i))).isSome then m ||| bitMask (8 * i + 7) (8 * i) else m) 0

/-- The trim records of adaptation values that a configuration set applied at the same edge replaces; `c` is the device
with that set applied. -/
def Dev.superseded (d c : Dev) (s : StagedSet) (xs : List AdaptSet) : Dev :=
  xs.foldl (fun d x => x.entries.foldl (fun d e =>
    (maskRuns (stagedMask s x.table e.1 &&& e.2.1)).foldl (fun (d : Dev) r =>
      d.trim { addr := e.1, space := 1, msb := r.1, lsb := r.2, reason := 0x06, group := 0,
               written := bits e.2.2 r.1 r.2, applied := bits (c.tword x.table e.1) r.1 r.2 }) d) d) d

/-! ### The configuration set -/

/-- The rate-zone records that a set touches, as byte offsets of their first words. -/
def touchedRz (s : StagedSet) (a : Act) : List Nat :=
  ((stagedIn s (Tbl.rz a)).map fun o => o / 256 * 256).dedup

/-- The rate-zone records whose Plank table a set replaces: their table pointer moves (R83). -/
def touchedPlank (s : StagedSet) (a : Act) : List Nat :=
  ((stagedIn s (Tbl.plank a)).map fun o => o / 2 ^ 16 * 256).dedup

/-- A rate-zone record after a configuration commit (R147, R148): RGEN keeps its value, moves on when a field changed,
and CHECK follows. -/
def Dev.settleRz (old : Dev) (planks : List Nat) (d : Dev) (a : Act) (base : Nat) : Dev :=
  let t := Tbl.rz a
  let g := bits (old.tword t base) 11 0
  let d1 := d.setTword t base (withBits (d.tword t base) 11 0 g)
  if !planks.contains base ∧ d1.twords t base 63 = old.twords t base 63 then d1.setTword t (base + 252) (old.tword t (base + 252))
  else (d1.setTword t base (withBits (d1.tword t base) 11 0 (g + 1))).sealRecord t base 64

def Dev.settleRzs (old d : Dev) (s : StagedSet) (a : Act) : Dev :=
  let planks := touchedPlank s a
  (touchedRz s a ++ planks).dedup.foldl (fun d o => Dev.settleRz old planks d a o) d

/-- A coefficient set made active (R265), and the cycles of the active set (R267). -/
def Dev.switchSet (old d : Dev) (a : Act) : Dev :=
  let sel := d.f (Reg.SRV_SET_SEL_SEL.on a)
  let was := old.f (Reg.SRV_SET_SEL_SEL.on a)
  let d1 := if sel = was then d
    else (d.onSrv a fun v => { v with
      stages := carryStates (old.coefSet a was).stages (d.coefSet a sel).stages v.stages, backCalc := true }).setF
      (Reg.SRV_STATUS_SET.on a) sel
  let cy := (d1.coefSet a sel).cycles
  (d1.setF (Reg.SRV_CYCLES_LAW.on a) cy.1).setF (Reg.SRV_CYCLES_FF.on a) cy.2

/-- A new image waits for its Blocker, or is written at once into one that has held none (R122). -/
def Dev.newImage (d : Dev) (s : StagedSet) (a : Act) : Dev :=
  if s.cst.any fun p => p.2.isSome && decide (p.1 / 16384 = a.idx) then
    let d1 := { d with conf := { d.conf with reloadBad := d.conf.reloadBad.set a false } }
    let d2 := d1.onBlk a fun b => { b with loadPending := true }
    if (d.blk.get a).loaded then d2 else d2.writeImage a
  else d

/-- A wedge count at or below the clock's wedge index moves the clock to the next revolution (R17). -/
def Dev.wedgeCut (d : Dev) : Dev :=
  if d.wedges ≤ d.clock.wedge.toNat then
    { d with clock := { d.clock with rev := d.clock.rev + 1, wedge := 0, phase := 0 } }
  else d

/-- The power die's registers latched from the applying edge (R305, R327). -/
def powerRegs : List Nat :=
  (regRows.filter fun r => decide (0x330000 ≤ r.addr ∧ r.addr < 0x340000) && r.fields.any fun f => decide (f.acc = .rws)).flatMap
    fun r => (List.range r.count).map fun i => r.addr + r.stride * i

def Dev.latchPower (d : Dev) : Dev :=
  { d with pd := { d.pd with latches := powerRegs.foldl (fun m x => sset 0 m x (d.reg x)) d.pd.latches } }

/-- The committed image's floor and margin (Table 02.5). -/
def Dev.showProof (d : Dev) : Dev :=
  ((d.setF Reg.SIZ_MARGIN_MIN_SLACK d.margin).setF Reg.SIZ_FLOOR_FLOOR_TICKS d.floorTicks).setF Reg.SIZ_FLOOR_FLOOR_100MS d.floor100

/-- An admitted commit in safe mode ends it, and the test mode of the control stores with it (R128); start-up goes on
with what is left of step 6 (R68, R547). -/
def Dev.leaveSafe (d : Dev) : Dev :=
  if d.safe then
    let d1 := ((d.setF Reg.SIZ_STATUS_SAFE 0).setF Reg.SYS_BOOT_RESULT 0).setF Reg.SYS_BOOT_STEP 6
    (d1.setF (Reg.CST_CTL_RAW.at 0x20000 .a0) 0).setF (Reg.CST_CTL_RAW.at 0x20000 .a1) 0
  else d

/-- A set put into the committed image, with all that follows from it. -/
def Dev.applySet (d : Dev) (s : StagedSet) : Dev :=
  let c := d.candidate s
  let d1 := Dev.settleRzs d (Dev.settleRzs d c s .a0) s .a1
  let d2 := Dev.switchSet d (Dev.switchSet d d1 .a0) .a1
  let d3 := ((d2.newImage s .a0).newImage s .a1).wedgeCut.latchPower
  d3.showProof.showTarget

/-- Step 2 of R29: adaptation sets first, then an admitted configuration set (R44); the commit ends. -/
def Dev.applyPending (d : Dev) : Dev :=
  let xs := d.conf.adaptPending.filter fun x => !x.skip
  let d1 := d.applyAdapts
  match d1.conf.pending with
  | none => d1
  | some p =>
    if p.skip then { d1 with conf := { d1.conf with pending := some { p with skip := false } } }
    else
      let d2 := Dev.superseded d1 (d1.applySet p.set) p.set xs
      let d3 := (d2.applySet p.set).leaveSafe
      let d4 := { d3 with conf := { d3.conf with pending := none } }.setF Reg.SIZ_STATUS_BUSY 0
      if p.holds then d4.semEnd else d4

/-- The channel's copies follow the records they were read from (R149, R194). -/
def Dev.refreshCopies (d : Dev) (a : Act) : Dev :=
  match (d.chn.get a).key with
  | none => d
  | some k => d.copyRecords a k.1 k.2

/-- Step 3 of R29: the RWT latch. -/
def Dev.latchRwt (d : Dev) : Dev :=
  let d1 := d.applyBits d.conf.rwt
  { d1 with conf := { d1.conf with rwt := d.conf.rwtNext, rwtNext := [] } }

end Sys2Proof.Machine
end

