-- ==== Sys2Proof/Machine/Clock.lean ====
section
/-! DEFINITION. The rotation clock: the tick edge (R26, R28 to R30, R532 and the per-tick work of the units), address
marks and mastership (R18 to R20, R247 to R250), slews and steps (R22, R23), and the firing of stamps (R24). -/

namespace Sys2Proof.Machine

def Dev.onClock (d : Dev) (g : Clock → Clock) : Dev := { d with clock := g d.clock }

/-! ### Done reports and overruns (R29 step 1, R105, R532) -/

/-- The clock value at which the running tick ends, in phase units. -/
def Dev.tickEnd (d : Dev) : Nat := d.nowUnits / 2 ^ 18 * 2 ^ 18 + 2 ^ 18

/-- A Blocker's armed stamp lies in the running tick. -/
def Dev.stampNow (d : Dev) (a : Act) : Bool :=
  d.clock.stamps.any fun t => decide (t.owner = .blocker a ∧ t.due < d.tickEnd)

/-- A Blocker that has not reported done (R105). -/
def Dev.blkNotDone (d : Dev) (a : Act) : Bool :=
  let b := d.blk.get a
  d.hasAct a && b.loaded && !b.resetting && !b.halted &&
  (decide (b.wait = .run) || (decide (b.wait = .stamp) && d.stampNow a))

/-- The unit of a TICK_OVR bit. -/
def ovrUnit (n : Nat) : FUnit :=
  let a := Act.ofBit (n % 2)
  match n / 2 with | 0 => .blocker a | 1 => .servoEngine a | 2 => .assist a | _ => .writeBack a

/-- A unit's own handling of its overrun and, for the third in eight ticks, its reset (R532). -/
def Dev.overran (d : Dev) (n : Nat) (reset : Bool) : Dev :=
  let a := Act.ofBit (n % 2)
  let d1 := ((d.orF Reg.TICK_OVR_UNITS (2 ^ n)).bumpF Reg.TICK_OVR_CNT_COUNT 1).reportFault (ovrUnit n) 1
  match n / 2 with
  | 0 => if reset then d1.reloadBlocker a else d1.raiseEvt a 4
  | 1 => if reset then (d1.resetUnit (.block (.srv a))).readyUnit (.block (.srv a)) else d1
  | 2 => if reset then ((d1.laneOff a).resetUnit (.block (.was a))).readyUnit (.block (.was a)) else d1
  | _ =>
    let lost := d1.conf.adaptPending.filter fun x => decide (x.act = a) && x.rgen.isSome
    let d2 := { d1 with conf := { d1.conf with
      adaptPending := d1.conf.adaptPending.filter fun x => !(decide (x.act = a) && x.rgen.isSome) } }
    let d3 := d2.bumpF (Reg.CHN_WB_STATUS_STALE.on a) lost.length
    if reset then (d3.resetUnit (.block (.chn a))).readyUnit (.block (.chn a)) else d3

/-- Times a unit has overrun in the ending tick and the seven before it. -/
def overrunCount (masks : List Nat) (n : Nat) : Nat := (masks.filter fun m => testBit m n).length

/-- Step 1 of R29; `late` names the units whose per-tick work the edge finds unfinished. They are taken in the order of
their BLOCK index (R530). -/
def Dev.doneCheck (d : Dev) (late : Nat) : Dev :=
  let mask := (d.clock.notDone ||| late % 256) ||| (flag (d.blkNotDone .a0) + 2 * flag (d.blkNotDone .a1))
  let hist := mask :: d.clock.overruns
  let units := [0, 1, 6, 7, 4, 5, 2, 3].filter fun n => testBit mask n && d.hasAct (Act.ofBit (n % 2))
  let reset := units.filter fun n => decide (3 ≤ overrunCount hist n)
  let gone := (reset.map fun n => 2 ^ n).sum
  let keep := (hist.map fun m => m - (m &&& gone)).take 7
  (units.foldl (fun d n => d.overran n (decide (n ∈ reset))) d).onClock fun c => { c with notDone := 0, overruns := keep }

/-! ### The new tick -/

/-- The clock moved to the next tick; stopped, it holds (R16, Table 01.5). A slew ends by at most 1,024 units (R22). -/
def Dev.nextTick (d : Dev) (periodNs : Nat) : Dev :=
  let c := d.clock
  let last := decide (d.wedges ≤ c.wedge.toNat + 1)
  let step : Int := max (-1024) (min 1024 c.slew)
  let go := decide (d.src ≠ 0)
  d.onClock fun c => { c with
    rev := if go && last then c.rev + 1 else c.rev
    wedge := if go then (if last then 0 else c.wedge + 1) else c.wedge
    phase := if go then 0 else c.phase
    slew := if go then c.slew - step else c.slew
    period := periodNs
    periodSum := if go then c.periodSum + periodNs else c.periodSum
    periodTicks := if go then c.periodTicks + 1 else c.periodTicks
    nowNs := c.nowNs + periodNs
    flywheelTick := decide (d.src = 3) }

/-- The running clock has just begun wedge 0. -/
def Dev.atIndex (d : Dev) : Bool := decide (d.src ≠ 0 ∧ d.clock.wedge = 0 ∧ d.clock.phase = 0)

/-- TICK_PERIOD: the average over the revolution that has ended. -/
def Dev.meanPeriod (d : Dev) : Dev :=
  if d.atIndex ∧ d.clock.periodTicks ≠ 0 then
    (d.setF Reg.TICK_PERIOD_PERIOD_NS (Nat.min 65535 ((d.clock.periodSum + d.clock.periodTicks / 2) / d.clock.periodTicks))).onClock
      fun c => { c with periodSum := 0, periodTicks := 0 }
  else d

/-- Rotation tracking at wedge 0 (R136). -/
def Dev.track (d : Dev) (a : Act) : Dev :=
  let meas := d.f Reg.TICK_PERIOD_PERIOD_NS
  if !(d.hasAct a) || !d.atIndex || decide (d.f (Reg.AFE_TRACK_EN.on a) = 0) || decide (d.src ≠ 2 ∧ d.src ≠ 3) || decide (meas = 0) then d
  else
    let den := d.speed * d.wedges * meas
    let goal := roundAway ((6000000000000 - (den : Int)) * 1000000) den
    let old := d.trackTrim a
    let near : Int := max (old - 200) (min (old + 200) goal)
    let trim : Int := max (-10000) (min 10000 near)
    let d1 := d.setF (Reg.AFE_TRACK_TRIM.on a) (unsigned 16 trim)
    let d2 := if trim.natAbs = 10000 then d1.setF (Reg.AFE_SYN_STATUS_TRACK_LIMIT.on a) 1 else d1
    let fw := (d.chn.get a).fw
    let live := if trim = goal then (roundAway (fw * 6000000000000) den).toNat else d2.liveWord a fw
    d2.setF (Reg.AFE_SYN_FW_FW_LIVE.on a) live

/-- The registers that show state as it stood at the edge (Tables 04.9 and 05.9). -/
def Dev.snapshot (d : Dev) (a : Act) : Dev :=
  if !d.hasAct a then d
  else
    let b := d.blk.get a
    let d1 := (List.range 16).foldl (fun d i => d.setReg (Reg.BLK_G + 0x10000 * a.idx + 4 * i) (b.gr i)) d
    let d2 := (List.range 4).foldl (fun d i => d.setReg (Reg.BLK_K + 0x10000 * a.idx + 4 * i) ((sget 0 b.k i).setWidth 32)) d1
    let l := sget (0, 0) (d.chn.get a).live (d.f (Reg.AFE_LIVE_SEL_LANE.on a))
    (d2.setReg (Reg.AFE_LIVE_A + 0x10000 * a.idx) l.1).setReg (Reg.AFE_LIVE_B + 0x10000 * a.idx) l.2

/-! ### Per-tick work of the units -/

/-- The assist lane at phase 0 (R210, R212): its counts, and the temperature frame requested. -/
def Dev.assistTick (d : Dev) (a : Act) : Dev :=
  d.onAssist a fun l => { l with
    sincePre := l.sincePre + 1
    idle := if (d.blk.get a).wg then 0 else l.idle + 1
    operatedBefore := l.operated
    operated := false
    frameDue := decide (d.asState a ≠ 0) && !d.settling a }

/-- Rung 3's next shift at the edge after an attempt (R183). -/
def Dev.shiftTick (d : Dev) (a : Act) : Dev :=
  let t := d.det.get a
  let d1 :=
    match t.active with
    | some r =>
      if t.attempt && decide (r.rung = 3) then
        d.onDet a fun t => { t with attempt := false, shiftIdx := t.shiftIdx + 1, shift := d.shifts.getD (t.shiftIdx + 1) t.shift }
      else d.onDet a fun t => { t with attempt := false }
    | none => d.onDet a fun t => { t with attempt := false }
  d1.setF (Reg.SRV_SHIFT_PCT.on a) (unsigned 8 (d1.det.get a).shift)

/-- A change of SRVn_MODE at the edge (R272); `oldSub` is MSUB before the latch. -/
def Dev.modeTick (d : Dev) (a : Act) (oldSub : Nat) : Dev :=
  let now := d.srvMode a
  let mode := d.f (Reg.SRV_MODE_MODE.on a)
  let sub := d.f (Reg.SRV_MODE_MSUB.on a)
  let fail := (d.setF (Reg.SRV_STATUS_XFER_FAIL.on a) 1).setF (Reg.SRV_MODE_MODE.on a) now
  match now, mode with
  | 0, 0 => d
  | 0, 1 => d.modeManual a sub
  | 0, _ => fail
  | 1, 1 =>
    if sub ≠ oldSub then d.modeManual a sub
    else if (d.srv.get a).loading.isSome then d
    else d.onSrv a fun v => { v with transfer := none }
  | 1, 2 => d.onSrv a fun v => { v with transfer := some (v.transfer.getD 0) }
  | 2, 1 => d.modeManual a sub
  | 2, 2 => d
  | _, 0 => d.modeOff a
  | _, _ => fail

/-- An injection that EN or a swept sine's end ends (R276). -/
def Dev.injectTick (d : Dev) (a : Act) : Dev :=
  match (d.srv.get a).inj with
  | none => d
  | some i =>
    let past := decide (d.f (Reg.SRV_INJ_CTL_TYPE.on a) = 1) && decide (d.f (Reg.SRV_INJ_F1_INC.on a) < i.inc)
    if d.f (Reg.SRV_INJ_CTL_EN.on a) = 0 ∨ past then d.endInjection a else d

/-- REF follows its target when the jog or the shift changes it (R183, R280, R282). -/
def Dev.retarget (d : Dev) (a : Act) : Dev :=
  let v := d.srv.get a
  match v.req with
  | none => d
  | some r =>
    if d.srvMode a ≠ 2 ∨ d.srvMotion a < 2 ∨ v.deciding ∨ v.due.isSome ∨ v.reacq.isSome ∨ r.darg = 1 then d
    else
      match d.refFor a r.head r.band r.track r.write with
      | none => d
      | some x =>
        if x = v.target then d
        else
          let far := decide ((d.settleRule a r.write).1 < (x - v.target).natAbs)
          let d1 := d.onSrv a fun v => { v with target := x, ref := x }
          if far ∧ d.srvMotion a = 3 then d1.enterSettle a else d1

/-- The servo engine's counts at an edge: the trajectory's next point, the stagger, the settle and load times, the shock
runs (R284, R287, R296 to R299). -/
def Dev.servoTick (d : Dev) (a : Act) : Dev :=
  let s := d.srv.get a
  let e := (signed 24 (d.f (Reg.SRV_PES_PES.on a))).natAbs
  let calm := !s.shockNow && decide (d.f (Reg.SRV_STATUS_PES_VALID.on a) = 1) && decide (200 * e ≤ d.offTrackPct a * d.pitchUnits a)
  let motion := d.srvMotion a
  let tr := s.traj.map fun t => { t with k := Nat.min t.n (t.k + 1) }
  (d.onSrv a fun v => { v with
    vcmPrev := v.vcm, maPrev := v.ma, skip := false
    traj := tr
    ref := match tr with | some t => t.refAt | none => v.ref
    due := v.due.map fun _ => true
    stagger := v.stagger.map fun n => n - 1
    settleTicks := if motion = 2 ∧ !v.deciding then v.settleTicks + 1 else v.settleTicks
    loading := v.loading.map fun n => n + 1
    reacq := v.reacq.map fun n => n + 1
    latch := v.latch.map fun n => n + 1
    shockRun := if v.shockNow then v.shockRun + 1 else 0
    shockQuiet := if calm then v.shockQuiet + 1 else 0
    shockNow := false }).onWr a fun w => { w with ownPes := false }

/-- All of one actuator's work at an edge. -/
def Dev.actTick (d : Dev) (a : Act) (oldSub : Nat) : Dev :=
  if d.hasAct a then
    ((((((((d.servoTick a).shiftTick a).modeTick a oldSub).injectTick a).retarget a).assistTick a).track a).refreshCopies a).snapshot a
  else d

/-- A tick edge (R29). -/
def Dev.tickEdge (d : Dev) (periodNs late : Nat) : Dev :=
  let d1 := ((d.doneCheck late).nextTick periodNs).meanPeriod
  let d2 := d1.applyPending.latchRwt.retractNotice
  let sub (a : Act) : Nat := d1.f (Reg.SRV_MODE_MSUB.on a)
  (((d2.actTick .a0 (sub .a0)).actTick .a1 (sub .a1)).sendGroups .a0).sendGroups .a1

/-! ### Steps and slews (R22, R23) -/

/-- Step 1 of R23 on one actuator: gates closed, a cut write a fault of cause CLOCK_STEP, and the CANCEL group (R230). -/
def Dev.closeGates (d : Dev) (a : Act) : Dev :=
  if !d.hasAct a then d
  else
    let b := d.blk.get a
    let d1 := if b.wg || b.frag.any (fun r => r.write) then d.writeFault a 0x6 else d
    let d2 := (d1.cutRead a).laneOff a
    let d3 := (d2.applyEvent a (2, 0)).applyEvent a (3, 0)
    (d3.onTnl a fun t => { t with gather := [(7, 0), (2, 0), (3, 0)] }).sendGroups a

/-- A clock step (R22, R23): owners of cancelled stamps arm afresh against the stepped clock (R103, R313). -/
def Dev.stepClock (d : Dev) (wedge : Nat) : Dev :=
  let spin := d.clock.stamps.any fun t => decide (t.owner = .spindle)
  let d1 := (d.closeGates .a0).closeGates .a1
  let d2 := ((d1.cancelStamps .a0).cancelStamps .a1).onClock fun c => { c with stamps := [] }
  let d3 := (d2.setF Reg.TICK_EVENT_STEP 1).event Ev.clockStep .tick d2.clock.pos28 (wedge * 2 ^ 18)
  let d4 := d3.onClock fun c => { c.moveTo wedge 0 with slew := 0 }
  let d5 := if spin then (d4.onSpn fun s => { s with afterStep := 6 }).toObserver else d4
  (d5.rearm .a0).rearm .a1

/-! ### Address marks (R18 to R20, R247 to R250) -/

/-- The index in the 12 index bits of a servo field, where it is good: index in [11:2], P1, P0 (R250). -/
def goodIndex (v : Nat) : Option Nat :=
  let b (i : Nat) : Bool := testBit v (2 + i)
  let p1 := b 1 != (b 3 != (b 5 != (b 7 != b 9)))
  let p0 := b 0 != (b 2 != (b 4 != (b 6 != b 8)))
  if testBit v 1 = p1 ∧ testBit v 0 = p0 then some (v / 4 % 1024) else none

/-- Whether an actuator's marks discipline the clock (R18): the track-following one of the lower number; with none, the
previous master while its heads are off the ramp, else this one. -/
def Dev.disciplines (d : Dev) (a : Act) : Bool :=
  match d.bestMaster with
  | some m => decide (m = a)
  | none => (d.selected a).isSome && (decide (d.masterAct = a) || (d.selected d.masterAct).isNone)

/-- The expected index of a mark detected at a phase of the running clock, and how far the clock is from it (R22, R250). -/
def Dev.expected (d : Dev) (phase : Nat) : Nat × Int :=
  let w := d.clock.wedge.toNat
  if phase < 2 ^ 17 then (w, -(phase : Int)) else ((if d.wedges ≤ w + 1 then 0 else w + 1), 2 ^ 18 - (phase : Int))

/-- A master mark compared with the running clock (R22, R250): slewed, or stepped. -/
def Dev.compareMark (d : Dev) (a : Act) (index : Option Nat) (phase : Nat) : Dev :=
  let x := d.expected phase
  let odd := (d.srv.get a).oddIdx
  let idx := index.getD x.1
  let first := decide (d.src = 0 ∨ d.src = 1)
  let agrees := decide (idx = x.1)
  let twice := odd.any fun k => decide (idx = (k + 1) % d.wedges)
  let d1 := d.onSrv a fun v => { v with oddIdx := if agrees then none else some idx }
  let d2 := (d1.setF Reg.TICK_STATUS_SRC 2).setF Reg.TICK_STATUS_MISSED 0
  if first then d2.stepClock idx
  else if !agrees then (if twice then d2.stepClock idx else d2)
  else if 16384 < x.2.natAbs then d2.stepClock idx
  else d2.onClock fun c => { c with slew := x.2 }

/-- A detected mark (R18, R19): the wedge has its mark, and the master's mark disciplines the clock. -/
def Dev.detected (d : Dev) (a : Act) (index : Option Nat) (phase : Nat) : Dev :=
  let d1 := d.onSrv a fun v => { v with marked := true, hunt := 0 }
  let d2 := if index = none then d1.bumpF (Reg.SRV_DEMOD_CNT_IDX_BAD.on a) 1 else d1
  if d.disciplines a then (d2.makeMaster a).compareMark a index phase else d2

/-- ADDRESS_MARK: `field` the index bits, `phase` the running clock's phase at the detection corrected by the head's
skew, `confirms` that the mark lies one measured tick after a hunt's candidate (R248). -/
def Dev.addressMark (d : Dev) (a : Act) (field phase : Nat) (confirms : Bool) : Dev :=
  let p := phase % 2 ^ 18
  match (d.srv.get a).hunt with
  | 0 => if d.src = 2 ∨ d.src = 3 then d.detected a (goodIndex field) p else d.onSrv a fun v => { v with hunt := 2 }
  | 2 => if confirms then d.detected a (goodIndex field) p else d
  | _ => d.onSrv a fun v => { v with hunt := 2 }

def execAddressMark (a : Act) (field phase : Nat) (confirms : Bool) (s : State) : Host.Outcome State Fault Refusal :=
  s.next (if s.dev.hasAct a then s.dev.addressMark a field phase confirms else s.dev)

/-- MISSED_MARK (R247): a hunting head's candidate is lost; the master's missed mark puts the clock on the flywheel. -/
def Dev.missedMark (d : Dev) (a : Act) : Dev :=
  let d1 := (d.bumpF (Reg.SRV_DEMOD_CNT_SAM_MISS.on a) 1).onSrv a fun v => { v with
    marked := false, oddIdx := none, hunt := if v.hunt = 0 then 0 else 1 }
  if d.masterAct = a ∧ (d.src = 2 ∨ d.src = 3) then
    ((d1.setF Reg.TICK_STATUS_SRC 3).setF Reg.TICK_STATUS_MISSED (satAdd 8 (d.f Reg.TICK_STATUS_MISSED) 1)).onClock fun c =>
      { c with flywheelTick := true }
  else d1

def execMissedMark (a : Act) (s : State) : Host.Outcome State Fault Refusal :=
  s.next (if s.dev.hasAct a then s.dev.missedMark a else s.dev)

/-- The source becomes coarse (R20, R313). -/
def Dev.toCoarse (d : Dev) : Dev :=
  let d1 := (((d.setF Reg.TICK_STATUS_SRC 1).setF Reg.TICK_STATUS_MISSED 0).setF Reg.TICK_EVENT_COARSE_ENTRY 1).setF
    Reg.TICK_EVENT_FLYWHEEL_LIMIT 1
  (d1.event Ev.flywheelLimit .tick (d1.reg Reg.TICK_STATUS).toNat 0).toObserver

/-- FLYWHEEL_LIMIT (R20). -/
def Dev.flywheelLimit (d : Dev) : Dev :=
  if d.src ≠ 3 ∨ d.f Reg.TICK_STATUS_MISSED < 8 then d
  else if d.following d.masterAct.other then (d.makeMaster d.masterAct.other).setF Reg.TICK_STATUS_MISSED 0
  else d.toCoarse

def execFlywheelLimit (s : State) : Host.Outcome State Fault Refusal := s.next s.dev.flywheelLimit

/-! ### Stamps (R24) -/

/-- What an owner's stamp launches; `sixthNs` is the commutation interval that a spindle stamp ends. -/
def Dev.launchStamp (d : Dev) (o : StampOwner) (w : WordObs) (sixthNs : Nat) : Dev :=
  match o with
  | .blocker a => (d.blockerFires a w).settle
  | .backOff a => d.backOffStart a
  | .ramp a => d.operateRamp a
  | .servoGate a => d.onBlk a fun b => { b with sg := true }
  | .spindle => d.commutate sixthNs
  | .power => d

/-- An owner's stamp fires when the clock equals or has passed it, or will in the running tick. -/
def Dev.fireStamp (d : Dev) (o : StampOwner) (w : WordObs) (sixthNs : Nat) : Dev :=
  match d.clock.stamps.find? fun t => decide (t.owner = o) with
  | none => d
  | some t =>
    if d.tickEnd ≤ t.due ∨ (d.src = 0 ∧ d.nowUnits < t.due) then d
    else
      let d1 := if d.nowUnits < t.due then d.atPhase (t.due % 2 ^ 18) else d
      let d2 := d1.onClock fun c => { c with stamps := c.stamps.filter fun x => decide (x ≠ t) }
      d2.launchStamp o w sixthNs

def execStampFire (owner : StampOwner) (o : WordObs) (sixthNs : Nat) (s : State) : Host.Outcome State Fault Refusal :=
  s.next (s.dev.fireStamp owner o sixthNs)

end Sys2Proof.Machine
end

