-- ==== Sys2Proof/Machine/Hatband.lean ====
section
/-! DEFINITION. The Hatband event recorder's own commands (R507 to R513): events from outside the model's units, the
window and cursor, frozen ranges and the clear. Recording itself is in Ops. -/

namespace Sys2Proof.Machine

def Dev.onHb (d : Dev) (g : Hatband → Hatband) : Dev := { d with hb := g d.hb }

/-- The eight words of a record (Table 21.1). -/
def HbRec.words (r : HbRec) : List Word :=
  let ws : List Word := [BitVec.ofNat 32 (r.code * 2 ^ 20 + r.block * 2 ^ 14), BitVec.ofNat 32 (r.rep * 2 ^ 16 + r.boot),
    BitVec.ofNat 32 r.time, BitVec.ofNat 32 (r.time / 2 ^ 32), BitVec.ofNat 32 (r.src * 2 ^ 30 + r.stamp),
    BitVec.ofNat 32 r.arg0, BitVec.ofNat 32 r.arg1]
  ws ++ [BitVec.ofNat 32 (crc32Words ws)]

/-- The words of a record by its index; zeros past the records held. -/
def Hatband.recWords (h : Hatband) (i : Nat) : List Word :=
  match h.recs[i]? with
  | some r => r.words
  | none => List.replicate 8 0

/-- HATBAND_EVENT (R508): an event reaches the recorder. -/
def execHatbandEvent (code : Nat) (block : Block) (arg0 arg1 : Nat) (s : State) : Host.Outcome State Fault Refusal :=
  s.next (if 0 < code ∧ code < 4096 then s.dev.event code block arg0 arg1 else s.dev)

/-- A record latched into the window registers (R511). -/
def Dev.latchRecord (d : Dev) (i : Nat) : Dev :=
  let d1 := d.onHb fun h => { h with window := h.recWords i }
  (d1.setF Reg.HBR_CURSOR_INDEX i).setF Reg.HBR_CURSOR_POISON (flag (sget false d.hb.poisoned i))

/-- HBR_CURSOR_WRITE (R511). -/
def Dev.cursorWrite (d : Dev) (w : Word) : Dev :=
  (d.setF Reg.HBR_CURSOR_AUTOINC (bits w 31 31)).latchRecord (bits w 15 0)

def execHbrCursorWrite (w : Word) (s : State) : Host.Outcome State Fault Refusal := s.next (s.dev.cursorWrite w)

/-- HBR_WIN_7_READ (R511): the latched word, then the next record with AUTOINC set. -/
def Dev.win7Read (d : Dev) (who : Requester) : Dev :=
  let d1 := d.answer who (d.hb.window.getD 7 0)
  if d.f Reg.HBR_CURSOR_AUTOINC = 1 then d1.latchRecord (Nat.min 65535 (d.f Reg.HBR_CURSOR_INDEX + 1)) else d1


def execHbrWin7Read (who : Requester) (s : State) : Host.Outcome State Fault Refusal := s.next (s.dev.win7Read who)

/-! ### Frozen ranges (R512) and the clear (R513) -/

/-- A holder freezes the records below COUNT. -/
def Dev.freezeRecs (d : Dev) (holder : Nat) : Dev :=
  d.onHb fun h => { h with frozen := (holder, h.recs.length) :: h.frozen.filter fun p => decide (p.1 ≠ holder) }

def Dev.thawRecs (d : Dev) (holder : Nat) : Dev :=
  d.onHb fun h => { h with frozen := h.frozen.filter fun p => decide (p.1 ≠ holder) }

/-- Events held in the queue are written (R508, R513). -/
def Dev.drainEvents (d : Dev) : Dev :=
  d.onHb fun h => { (h.queue.foldl Hatband.write h) with queue := [] }

/-- The four steps of R513. -/
def Dev.clearHatband (d : Dev) (holder : Nat) : Dev :=
  let n := d.hb.recs.length
  let first : HbRec := { d.hbRec Ev.cleared .hbr n holder with rep := 0 }
  let d1 := d.onHb fun h => { h with recs := [first], full := false, clearing := false, poisoned := [], atPowerGood := 0, seq := h.seq + 2 }
  d1.drainEvents

end Sys2Proof.Machine
end

