-- ==== Sys2Proof/Machine/Inflate.lean ====
section
/-! DEFINITION. The decoding of one RFC 1951 block, as a Fuller stream holds it (R497): BFINAL 1, BTYPE 01 or 10, with no
match before the block's first byte. -/

namespace Sys2Proof.Machine

/-- The bits of a byte string, the least significant of each byte first. -/
def bitsOf (bs : List Byte) : List Bool := bs.flatMap fun b => (List.range 8).map fun i => testBit b.toNat i

/-- `n` bits as a number, the first the least significant. -/
def takeBits : Nat → List Bool → Option (Nat × List Bool)
  | 0, bs => some (0, bs)
  | _ + 1, [] => none
  | n + 1, b :: bs => (takeBits n bs).map fun r => (flag b + 2 * r.1, r.2)

/-- A canonical Huffman code: the number of codes of each length from 1 to 15, and the symbols in code order. -/
structure Huffman where
  counts : List Nat
  symbols : List Nat
deriving DecidableEq, Repr

def huffman (lengths : List Nat) : Huffman :=
  let of (n : Nat) : List Nat := (lengths.zipIdx.filter fun p => decide (p.1 = n)).map Prod.snd
  let ls := (List.range 15).map fun i => of (i + 1)
  { counts := ls.map List.length, symbols := ls.flatten }

/-- The code is complete, or holds only codes of one bit (or none). -/
def Huffman.ok (h : Huffman) : Bool :=
  let sum := h.counts.zipIdx.foldl (fun s p => s + p.1 * 2 ^ (14 - p.2)) 0
  decide (sum = 2 ^ 15) || (decide (sum < 2 ^ 15) && (h.counts.drop 1).all fun c => decide (c = 0))

def huffmanIndex : List Nat → Nat → Nat → Nat → List Bool → Option (Nat × List Bool)
  | [], _, _, _, _ => none
  | _ :: _, _, _, _, [] => none
  | c :: cs, code, first, idx, b :: bs =>
    let k := code + flag b
    if k < first + c then some (idx + k - first, bs) else huffmanIndex cs (2 * k) (2 * (first + c)) (idx + c) bs

/-- The next symbol. -/
def Huffman.next (h : Huffman) (bs : List Bool) : Option (Nat × List Bool) :=
  match huffmanIndex h.counts 0 0 0 bs with
  | none => none
  | some r => (h.symbols[r.1]?).map fun s => (s, r.2)

/-- Length codes 257 to 285: base and extra bits. -/
def lengthCodes : List (Nat × Nat) :=
  [(3, 0), (4, 0), (5, 0), (6, 0), (7, 0), (8, 0), (9, 0), (10, 0), (11, 1), (13, 1), (15, 1), (17, 1), (19, 2), (23, 2),
   (27, 2), (31, 2), (35, 3), (43, 3), (51, 3), (59, 3), (67, 4), (83, 4), (99, 4), (115, 4), (131, 5), (163, 5),
   (195, 5), (227, 5), (258, 0)]

/-- Distance codes 0 to 29: base and extra bits. -/
def distanceCodes : List (Nat × Nat) :=
  (List.range 30).map fun i => if i < 4 then (i + 1, 0) else (2 ^ (i / 2 - 1) * (2 + i % 2) + 1, i / 2 - 1)

/-- `n` bytes copied from `dist` bytes back. -/
def copyBack (dist : Nat) : Nat → Array Byte → Array Byte
  | 0, out => out
  | n + 1, out => copyBack dist n (out.push (out.getD (out.size - dist) 0))

/-- One match after its length code. -/
def inflateMatch (d : Huffman) (sym : Nat) (bs : List Bool) (out : Array Byte) : Option (Array Byte × List Bool) := do
  let l ← lengthCodes[sym - 257]?
  let x ← takeBits l.2 bs
  let c ← d.next x.2
  let k ← distanceCodes[c.1]?
  let y ← takeBits k.2 c.2
  let dist := k.1 + y.1
  if out.size < dist ∨ 32768 < dist then none else some (copyBack dist (l.1 + x.1) out, y.2)

/-- Symbols up to the end of the block, of at most `lim` bytes. -/
def inflateCodes (l d : Huffman) (lim : Nat) : Nat → List Bool → Array Byte → Option (Array Byte × List Bool)
  | 0, _, _ => none
  | n + 1, bs, out =>
    if lim < out.size then none
    else match l.next bs with
      | none => none
      | some r =>
        if r.1 < 256 then inflateCodes l d lim n r.2 (out.push (BitVec.ofNat 8 r.1))
        else if r.1 = 256 then some (out, r.2)
        else match inflateMatch d r.1 r.2 out with
          | none => none
          | some m => inflateCodes l d lim n m.2 m.1

def fixedLengths : Huffman :=
  huffman (List.replicate 144 8 ++ List.replicate 112 9 ++ List.replicate 24 7 ++ List.replicate 8 8)
def fixedDistances : Huffman := huffman (List.replicate 30 5)

/-- The order of the code length code's lengths. -/
def lengthOrder : List Nat := [16, 17, 18, 0, 8, 7, 9, 6, 10, 5, 11, 4, 12, 3, 13, 2, 14, 1, 15]

def readLengths3 : Nat → List Bool → Option (List Nat × List Bool)
  | 0, bs => some ([], bs)
  | n + 1, bs =>
    match takeBits 3 bs with
    | none => none
    | some x => (readLengths3 n x.2).map fun r => (x.1 :: r.1, r.2)

/-- The code lengths of a dynamic block, `want` of them; `acc` holds those read, the last first. -/
def readLengths (h : Huffman) (want : Nat) : Nat → List Nat → List Bool → Option (List Nat × List Bool)
  | 0, _, _ => none
  | n + 1, acc, bs =>
    if want ≤ acc.length then (if acc.length = want then some (acc.reverse, bs) else none)
    else match h.next bs with
      | none => none
      | some r =>
        if r.1 < 16 then readLengths h want n (r.1 :: acc) r.2
        else
          let f := if r.1 = 16 then (2, 3) else if r.1 = 17 then (3, 3) else (7, 11)
          match takeBits f.1 r.2, if r.1 = 16 then acc.head? else some 0 with
          | some x, some v => readLengths h want n (List.replicate (f.2 + x.1) v ++ acc) x.2
          | _, _ => none

/-- The two codes of a dynamic block. -/
def dynamicCodes (bs : List Bool) : Option (Huffman × Huffman × List Bool) := do
  let a ← takeBits 5 bs
  let b ← takeBits 5 a.2
  let c ← takeBits 4 b.2
  let nl := a.1 + 257
  let nd := b.1 + 1
  if 286 < nl ∨ 30 < nd then none
  let ls ← readLengths3 (c.1 + 4) c.2
  let at3 (s : Nat) : Nat := match lengthOrder.findIdx? fun v => decide (v = s) with | some i => ls.1.getD i 0 | none => 0
  let hc := huffman ((List.range 19).map at3)
  if !hc.ok then none
  let r ← readLengths hc (nl + nd) (nl + nd + 1) [] ls.2
  let l := huffman (r.1.take nl)
  let d := huffman (r.1.drop nl)
  if l.ok && d.ok && decide (r.1.getD 256 0 ≠ 0) then some (l, d, r.2) else none

/-- The bytes of a payload that is exactly one final block with fixed or dynamic codes, at most `lim` of them. -/
def inflate (lim : Nat) (payload : List Byte) : Option (List Byte) := do
  let bs := bitsOf payload
  let f ← takeBits 1 bs
  let t ← takeBits 2 f.2
  if f.1 ≠ 1 then none
  let codes ← if t.1 = 1 then some (fixedLengths, fixedDistances, t.2) else if t.1 = 2 then dynamicCodes t.2 else none
  let r ← inflateCodes codes.1 codes.2.1 lim (bs.length + 1) codes.2.2 #[]
  if 8 ≤ r.2.length then none else some r.1.toList

end Sys2Proof.Machine
end

