-- ==== Sys2Proof/Machine/Memory.lean ====
section
/-! DEFINITION. Buffer SRAM and DRAM with their check codes (R373 to R383): reads that correct, poison, writes below and
above the fence, correction write-backs, and the check-bit test mode (R386). -/

namespace Sys2Proof.Machine

/-! ### The check codes (R373, R374) -/

/-- The number of ones among the low `n` bits. -/
def weight (n v : Nat) : Nat := ((List.range n).filter fun i => testBit v i).length

/-- The first `n` columns of a code of r syndrome bits: the r-bit values of weight 2 or more, ascending. -/
def eccColumns (r n : Nat) : List Nat := ((List.range (2 ^ r)).filter fun v => decide (2 ≤ weight r v)).take n

/-- The XOR of the columns of the set data bits. -/
def syndromeOf (cols : List Nat) (data : Nat) : Nat :=
  (cols.zipIdx.filter fun p => testBit data p.2).foldl (fun s p => s ^^^ p.1) 0

/-- The check bits of `n` data bits: r syndrome bits, and the bit that makes the parity of the whole word even. -/
def checkBits (r n data : Nat) : Nat :=
  let s := syndromeOf (eccColumns r n) data
  s + 2 ^ r * ((weight n data + weight r s) % 2)

/-- The rows of Table 14.3. -/
inductive EccOutcome where
  | clean
  /-- an error in a check bit; the data is good -/
  | check
  /-- that data bit is flipped back -/
  | flip (i : Nat)
  | bad
deriving DecidableEq, Repr

/-- Table 14.3 for a stored word. -/
def eccDecode (r n data chk : Nat) : EccOutcome :=
  let s := syndromeOf (eccColumns r n) data ^^^ chk % 2 ^ r
  let p := (weight n data + weight (r + 1) chk) % 2
  if p = 0 then (if s = 0 then .clean else .bad)
  else if s = 0 ∨ weight r s = 1 then .check
  else match (eccColumns r n).findIdx? fun c => decide (c = s) with
    | some i => .flip i
    | none => .bad

/-- The data after its outcome. -/
def EccOutcome.fix (o : EccOutcome) (data : Nat) : Nat :=
  match o with
  | .flip i => data ^^^ 2 ^ i
  | _ => data

def EccOutcome.corrected : EccOutcome → Bool
  | .check => true
  | .flip _ => true
  | _ => false

/-! ### Buffer SRAM -/

def bufSize : Nat := 2 ^ 26

/-- The memories of BUF_ELOG.MEM. -/
def MemNo.buffer : Nat := 0
def MemNo.crown : Nat := 1
def MemNo.blkData (a : Act) : Nat := 3 + a.idx

/-- An uncorrectable read of a per-byte memory counted, and logged when the log is empty (R379). -/
def Dev.bufUe (d : Dev) (no addr : Nat) (scrub : Bool) : Dev :=
  let d1 := d.bumpF Reg.BUF_ECC_CNT_UE 1
  if d1.f Reg.BUF_ELOG_VALID = 1 then d1
  else (((d1.setF Reg.BUF_ELOG_VALID 1).setF Reg.BUF_ELOG_MEM no).setF Reg.BUF_ELOG_SCRUB (flag scrub)).setF
    Reg.BUF_ELOG_ADDR addr

def Memories.bufRaw (m : Memories) (a : Nat) : Nat × Nat := ((sget 0 m.buf a).toNat, (sget 0 m.bufChk a).toNat)

def Memories.setBuf (m : Memories) (a data chk : Nat) : Memories :=
  { m with buf := sset 0 m.buf a (BitVec.ofNat 8 data), bufChk := sset 0 m.bufChk a (BitVec.ofNat 5 chk) }

def Dev.onMem (d : Dev) (g : Memories → Memories) : Dev := { d with mem := g d.mem }

/-- A buffer byte read (R374, R378, R379). -/
def Dev.readBuf (d : Dev) (a : Nat) : PByte × Dev :=
  let w := d.mem.bufRaw a
  let o := eccDecode 4 8 w.1 w.2
  match o with
  | .clean => ((BitVec.ofNat 8 w.1, false), d)
  | .bad => ((BitVec.ofNat 8 w.1, true), d.bufUe MemNo.buffer a false)
  | _ => ((BitVec.ofNat 8 (o.fix w.1), false), (d.bumpF Reg.BUF_ECC_CNT_CE 1).onMem fun m => { m with
      fixes := m.fixes ++ [{ dram := false, addr := a, data := w.1, chk := w.2 }] })

/-- A buffer byte written with fresh check bits, all of them inverted when it is poisoned (R375, R380). -/
def Memories.writeBuf (m : Memories) (a : Nat) (b : PByte) : Memories :=
  let c := checkBits 4 8 b.1.toNat
  m.setBuf a b.1.toNat (if b.2 then 31 - c else c)

/-- Consecutive buffer bytes read, the lowest first. -/
def Dev.readBufs (d : Dev) (a : Nat) : Nat → List PByte × Dev
  | 0 => ([], d)
  | n + 1 =>
    let x := d.readBuf a
    let y := x.2.readBufs (a + 1) n
    (x.1 :: y.1, y.2)

def Memories.writeBufs (m : Memories) (a : Nat) : List PByte → Memories
  | [] => m
  | b :: bs => (m.writeBuf a b).writeBufs (a + 1) bs

/-- The sweep of a bank of 4 MiB (R371, R382): zeros with valid check bits. -/
def Memories.sweepBank (m : Memories) (bank : Nat) : Memories :=
  { m with
    buf := m.buf.filter fun p => decide (p.1 / 2 ^ 22 ≠ bank)
    bufChk := m.bufChk.filter fun p => decide (p.1 / 2 ^ 22 ≠ bank) }

/-! ### DRAM granules (R376, R377) -/

/-- The check bits of quarter q in a granule's metadata. -/
def metaChk (m : BitVec 64) (q : Nat) : Nat := (m.toNat >>> (9 * q)) % 512

def metaPoison (m : BitVec 64) : Nat := (m.toNat >>> 36) % 8

/-- Metadata with one quarter's check bits replaced. -/
def metaWith (m : BitVec 64) (q chk : Nat) : BitVec 64 :=
  BitVec.ofNat 64 (m.toNat - metaChk m q * 2 ^ (9 * q) + chk % 512 * 2 ^ (9 * q))

def Memories.quarter (m : Memories) (g q : Nat) : Nat := natOfBytes (sgetList 0 m.dram (64 * g + 16 * q) 16)

/-- One quarter's stored data and check bits replaced. -/
def Memories.setQuarter (m : Memories) (g q data chk : Nat) : Memories :=
  { m with
    dram := ssetList 0 m.dram (64 * g + 16 * q) (bytesOfNat 16 data)
    dramMeta := sset 0 m.dramMeta g (metaWith (sget 0 m.dramMeta g) q chk) }

/-- A granule stored whole with fresh check bits; POISON is all its copies or none. -/
def Memories.storeGranule (m : Memories) (g : Nat) (bytes : List Byte) (poison : Bool) : Memories :=
  let chk (q : Nat) : Nat := checkBits 8 128 (natOfBytes ((bytes.drop (16 * q)).take 16)) * 2 ^ (9 * q)
  { m with
    dram := ssetList 0 m.dram (64 * g) bytes
    dramMeta := sset 0 m.dramMeta g (BitVec.ofNat 64 (chk 0 + chk 1 + chk 2 + chk 3 + if poison then 7 * 2 ^ 36 else 0)) }

/-- The fence as a granule number (R383): granules below it can be read and written. -/
def Dev.fenceGranule (d : Dev) : Nat := d.f Reg.DMC_FENCE_MIB * 2 ^ 14

/-- An uncorrectable or poisoned granule counted and logged. -/
def Dev.dramUe (d : Dev) (g : Nat) (scrub : Bool) : Dev :=
  let d1 := d.bumpF Reg.DMC_ECC_CNT_UE 1
  if d1.f Reg.DMC_ELOG_VALID = 1 then d1
  else ((d1.setF Reg.DMC_ELOG_VALID 1).setF Reg.DMC_ELOG_SCRUB (flag scrub)).setF Reg.DMC_ELOG_GRANULE g

/-- The outcome of one quarter. -/
def Memories.quarterOutcome (m : Memories) (g q : Nat) : EccOutcome :=
  eccDecode 8 128 (m.quarter g q) (metaChk (sget 0 m.dramMeta g) q)

/-- The poison bit of a granule: two of its three copies (Table 14.5). -/
def Memories.poisoned (m : Memories) (g : Nat) : Bool := decide (2 ≤ weight 3 (metaPoison (sget 0 m.dramMeta g)))

/-- A quarter's correction counted, with its write-back due. -/
def Dev.noteQuarter (d : Dev) (g q : Nat) : Dev :=
  if (d.mem.quarterOutcome g q).corrected then
    (d.bumpF Reg.DMC_ECC_CNT_CE 1).onMem fun m => { m with fixes := m.fixes ++
      [{ dram := true, addr := 4 * g + q, data := m.quarter g q, chk := metaChk (sget 0 m.dramMeta g) q }] }
  else d

/-- A granule's corrected bytes and whether all of them are poisoned (R377). -/
def Memories.granule (m : Memories) (g : Nat) : List Byte × Bool :=
  let o := [0, 1, 2, 3].map fun q => (m.quarterOutcome g q, m.quarter g q)
  (o.flatMap fun p => bytesOfNat 16 (p.1.fix p.2), m.poisoned g || o.any fun p => decide (p.1 = .bad))

/-- A granule read (R377, R378, R383): at or above the fence, zeros with every byte poisoned. -/
def Dev.readGranule (d : Dev) (g : Nat) : (List Byte × Bool) × Dev :=
  if d.fenceGranule ≤ g then
    ((List.replicate 64 0, true), (d.bumpF Reg.DMC_ECC_CNT_FENCE 1).event Ev.fenceRead .dmc g 0)
  else
    let r := d.mem.granule g
    let d1 := (((d.noteQuarter g 0).noteQuarter g 1).noteQuarter g 2).noteQuarter g 3
    (r, if r.2 then d1.dramUe g false else d1)

/-- Bytes replaced at their offsets. -/
def putCells (bytes : List Byte) (cells : List (Nat × PByte)) : List Byte :=
  cells.foldl (fun bs c => bs.set c.1 c.2.1) bytes

/-- A write to one granule below the fence: whole, or a read-modify-write (R377, R381). -/
def Dev.writeGranule (d : Dev) (w : GranuleWrite) : Dev :=
  let p := w.cells.any fun c => c.2.2
  if (List.range 64).all fun i => w.cells.any fun c => decide (c.1 = i) then
    d.onMem fun m => m.storeGranule w.granule (putCells (List.replicate 64 0) w.cells) p
  else
    let r := d.readGranule w.granule
    r.2.onMem fun m => m.storeGranule w.granule (putCells r.1.1 w.cells) (p || r.1.2)

/-- A write to one granule, held while the fence has not passed it (R383). -/
def Dev.offerGranule (d : Dev) (w : GranuleWrite) : Dev :=
  if d.fenceGranule ≤ w.granule then d.onMem fun m => { m with held := m.held ++ [w] } else d.writeGranule w

/-- The writes of an address range granule by granule. -/
def granuleWrites (a : Nat) (bs : List PByte) : List GranuleWrite :=
  let cells := bs.zipIdx.map fun p => (a + p.2, p.1)
  (List.range ((a + bs.length + 63) / 64 - a / 64)).map fun i =>
    { granule := a / 64 + i
      cells := (cells.filter fun c => decide (c.1 / 64 = a / 64 + i)).map fun c => (c.1 % 64, c.2) }

/-- Consecutive DRAM bytes written. -/
def Dev.writeDram (d : Dev) (a : Nat) (bs : List PByte) : Dev := (granuleWrites a bs).foldl Dev.offerGranule d

/-- Granules read in ascending order. -/
def Dev.readGranules (d : Dev) (g : Nat) : Nat → List PByte × Dev
  | 0 => ([], d)
  | n + 1 =>
    let x := d.readGranule g
    let y := x.2.readGranules (g + 1) n
    ((x.1.1.map fun b => (b, x.1.2)) ++ y.1, y.2)

/-- Consecutive DRAM bytes read. -/
def Dev.readDram (d : Dev) (a n : Nat) : List PByte × Dev :=
  let x := d.readGranules (a / 64) ((a + n + 63) / 64 - a / 64)
  ((x.1.drop (a % 64)).take n, x.2)

/-! ### Correction write-backs (R378) -/

/-- The write-back, dropped when the stored bits are no longer those that were read. -/
def Memories.writeBack (m : Memories) (c : Correction) : Memories :=
  if c.dram then
    let g := c.addr / 4
    let q := c.addr % 4
    if m.quarter g q = c.data ∧ metaChk (sget 0 m.dramMeta g) q = c.chk then
      let v := (eccDecode 8 128 c.data c.chk).fix c.data
      m.setQuarter g q v (checkBits 8 128 v)
    else m
  else if m.bufRaw c.addr = (c.data, c.chk) then
    let v := (eccDecode 4 8 c.data c.chk).fix c.data
    m.setBuf c.addr v (checkBits 4 8 v)
  else m

/-- CORRECTION_WRITE_BACK (R378): the oldest write-back due. -/
def Memories.correct (m : Memories) : Memories :=
  match m.fixes with
  | [] => m
  | c :: cs => { m with fixes := cs }.writeBack c

def execCorrectionWriteBack (s : State) : Host.Outcome State Fault Refusal := s.next (s.dev.onMem Memories.correct)

/-! ### The init fence (R383) -/

/-- Held writes below the fence proceed, in their order. -/
def Dev.releaseHeld (d : Dev) : Dev :=
  let go := d.mem.held.filter fun w => decide (w.granule < d.fenceGranule)
  let d1 := d.onMem fun m => { m with held := m.held.filter fun w => decide (d.fenceGranule ≤ w.granule) }
  go.foldl Dev.offerGranule d1

/-- FENCE_ADVANCE (R383): the fill has passed every address below `mib`. -/
def Dev.fenceAdvance (d : Dev) (mib : Nat) : Dev :=
  if d.f Reg.DMC_FENCE_DONE = 1 then d
  else (d.setF Reg.DMC_FENCE_MIB (Nat.max (d.f Reg.DMC_FENCE_MIB) (Nat.min mib (d.f Reg.DMC_CAP_MIB)))).releaseHeld

def execFenceAdvance (mib : Nat) (s : State) : Host.Outcome State Fault Refusal := s.next (s.dev.fenceAdvance mib)

/-- FENCE_DONE (R383): the fill has ended, and with it step 5 of start-up (R546). -/
def Dev.fenceDone (d : Dev) : Dev :=
  if d.f Reg.DMC_CAP_MIB = 0 ∨ d.f Reg.DMC_FENCE_DONE = 1 then d
  else
    let d1 := ((d.setF Reg.DMC_FENCE_MIB (d.f Reg.DMC_CAP_MIB)).setF Reg.DMC_FENCE_DONE 1).releaseHeld
    if d1.f Reg.SYS_BOOT_STEP = 5 then d1.endStep 5 else d1

def execFenceDone (s : State) : Host.Outcome State Fault Refusal := s.next s.dev.fenceDone

/-! ### Check-bit test mode (R386) -/

/-- The masks put into a buffer byte as stored. -/
def Dev.injectBuf (d : Dev) : Dev :=
  let a := d.f Reg.BUF_TEST_ADDR_ADDR
  let w := d.mem.bufRaw a
  d.onMem fun m => m.setBuf a (w.1 ^^^ d.f Reg.BUF_TEST_CTL_DMASK) (w.2 ^^^ d.f Reg.BUF_TEST_CTL_CMASK)

/-- The masks put into a granule's quarter and POISON copies as stored. -/
def Dev.injectDram (d : Dev) : Dev :=
  let g := d.f Reg.DMC_TEST_ADDR_GRANULE
  let q := d.f Reg.DMC_TEST_CTL_QUARTER
  let data := d.mem.quarter g q ^^^ (if d.f Reg.DMC_TEST_CTL_DEN = 1 then 2 ^ d.f Reg.DMC_TEST_CTL_DBIT else 0)
  let chk := metaChk (sget 0 d.mem.dramMeta g) q ^^^ d.f Reg.DMC_TEST_CTL_CMASK
  let d1 := d.onMem fun m => m.setQuarter g q data chk
  let w := sget 0 d1.mem.dramMeta g ^^^ BitVec.ofNat 64 (d.f Reg.DMC_TEST_CTL_PMASK * 2 ^ 36)
  d1.onMem fun m => { m with dramMeta := sset 0 m.dramMeta g w }

/-- BUF_TEST_GO (R386): BUF_TEST_CTL written with GO 1. -/
def Dev.bufTestGo (d : Dev) (cal : Bool) (w : Word) : Dev :=
  let d1 := d.writeReg cal Reg.BUF_TEST_CTL w
  if cal || d.safe then d1.injectBuf else d1

def execBufTestGo (cal : Bool) (w : Word) (s : State) : Host.Outcome State Fault Refusal :=
  s.next (if bits w 31 31 = 1 then s.dev.bufTestGo cal w else s.dev)

/-- DMC_TEST_GO (R386): DMC_TEST_CTL written with GO 1. -/
def Dev.dmcTestGo (d : Dev) (cal : Bool) (w : Word) : Dev :=
  let d1 := d.writeReg cal Reg.DMC_TEST_CTL w
  if cal || d.safe then d1.injectDram else d1

def execDmcTestGo (cal : Bool) (w : Word) (s : State) : Host.Outcome State Fault Refusal :=
  s.next (if bits w 31 31 = 1 then s.dev.dmcTestGo cal w else s.dev)

end Sys2Proof.Machine
end

