-- ==== Sys2Proof/Machine/Fuller.lean ====
section
/-! DEFINITION. The Fuller compression engine (R496 to R506): the stream, blocks, jobs of the descriptor ring and their
endings. RFC 1951 leaves the coding of a block open, so a compress job is given the codings that the engine produced and
uses those that are codings of its blocks. -/

namespace Sys2Proof.Machine

def le32 (v : Nat) : List Byte := bytesOfNat 4 v

/-- The word at a byte offset. -/
def wordAt (bs : List Byte) (off : Nat) : Nat := natOfBytes ((bs.drop off).take 4)

def padTo4 (bs : List Byte) : List Byte := bs ++ List.replicate ((4 - bs.length % 4) % 4) 0

/-! ### Compression (R497, R500) -/

/-- The input cut into blocks of at most `size` bytes that end at every boundary. -/
def cutBlocks (size : Nat) (bounds : List Nat) : Nat → Nat → List Byte → List (List Byte)
  | 0, _, _ => []
  | _, _, [] => []
  | fuel + 1, start, bs =>
    let stop := bounds.foldl (fun e b => if start < b then Nat.min e b else e) (start + size)
    bs.take (stop - start) :: cutBlocks size bounds fuel stop (bs.drop (stop - start))

/-- A block as the stream holds it: compressed where the coding decodes to it and is smaller, else stored (R497). -/
def streamBlock (block coding : List Byte) : List Byte :=
  let use := decide (coding.length < block.length) && decide (inflate block.length coding = some block)
  let t := if use then 0 else 1
  let p := if use then coding else block
  le32 (t * 2 ^ 30 + block.length) ++ le32 p.length ++ padTo4 p

/-- The blocks and the end record. -/
def streamBody (blocks codings : List (List Byte)) : List Byte :=
  (blocks.zipIdx.flatMap fun p => streamBlock p.1 (codings.getD p.2 [])) ++ le32 (2 * 2 ^ 30) ++ le32 (crc32 blocks.flatten)

def fullerMagic : Nat := 0x46550001

def streamHeader (ulen blocks : Nat) : List Byte := le32 fullerMagic ++ le32 ulen ++ le32 blocks ++ le32 0

/-- How a job ends: its status, its output from the byte after `skip` (a stream that is not complete has no header), the
valid length and the input consumed, none where the manual leaves that open. -/
structure JobEnd where
  status : Nat
  skip : Nat
  out : List Byte
  outLen : Nat
  inLen : Option Nat
deriving DecidableEq, Repr

/-- A compress job (R500, R501): `bounds` are the descriptor ends under FLUSH_EACH and the flushes. -/
def compressJob (input : List PByte) (size osize : Nat) (bounds : List Nat) (codings : List (List Byte)) : JobEnd :=
  let bytes := input.map fun b => if b.2 then 0 else b.1
  let blocks := cutBlocks size bounds (bytes.length + 1) 0 bytes
  let body := streamBody blocks codings
  let total := 16 + body.length
  let n := bytes.length
  if n ≤ total ∧ n ≤ osize + 1 then { status := 0x0B, skip := 16, out := body.take (n - 17), outLen := 0, inLen := none }
  else if osize < total then { status := 0x0C, skip := 16, out := body.take (osize - 16), outLen := 0, inLen := none }
  else
    let st := if input.any fun b => b.2 then 0x0D else 0
    { status := st, skip := 0, out := streamHeader n blocks.length ++ body, outLen := total, inLen := some n }

/-! ### Decompression (R498, R502) -/

/-- What the blocks decode to: the bytes decoded before a failure, whether the stream is accepted, the blocks read and
the bytes left. -/
structure Decoded where
  out : List Byte
  good : Bool
  blocks : Nat
  rest : List Byte
deriving DecidableEq, Repr

def decodeBlocks (ulen : Nat) : Nat → Nat → List Byte → List Byte → Decoded
  | 0, n, out, bs => { out := out, good := false, blocks := n, rest := bs }
  | fuel + 1, n, out, bs =>
    let bad : Decoded := { out := out, good := false, blocks := n, rest := bs }
    if bs.length < 8 then bad
    else
      let w0 := wordAt bs 0
      let w1 := wordAt bs 4
      let t := w0 / 2 ^ 30
      let u := w0 % 2 ^ 17
      let c := w1 % 2 ^ 17
      if w0 / 2 ^ 17 % 2 ^ 13 ≠ 0 then bad
      else if t = 2 then
        { out := out, good := decide (u = 0) && decide (w1 = crc32 out) && decide (out.length = ulen), blocks := n,
          rest := bs.drop 8 }
      else if t = 3 ∨ w1 / 2 ^ 17 ≠ 0 ∨ u = 0 ∨ 65536 < u then bad
      else
        let p := (bs.drop 8).take c
        let data := if t = 1 then (if c = u then some p else none) else inflate u p
        match data with
        | none => bad
        | some x =>
          if p.length ≠ c ∨ x.length ≠ u ∨ ulen < out.length + u then bad
          else decodeBlocks ulen fuel (n + 1) (out ++ x) (bs.drop (8 + (c + 3) / 4 * 4))

/-- A decompress job (R502, R503). -/
def decompressJob (input : List PByte) (osize : Nat) : JobEnd :=
  let bs := input.map Prod.fst
  let ulen := wordAt bs 4
  if (input.any fun b => b.2) ∨ bs.length < 16 ∨ wordAt bs 0 ≠ fullerMagic ∨ wordAt bs 12 ≠ 0 then
    { status := 0x0A, skip := 0, out := [], outLen := 0, inLen := none }
  else if osize < ulen then { status := 0x0C, skip := 0, out := [], outLen := 0, inLen := none }
  else
    let r := decodeBlocks ulen (bs.length + 1) 0 [] (bs.drop 16)
    if r.good && decide (r.blocks = wordAt bs 8) then
      { status := 0, skip := 0, out := r.out, outLen := r.out.length, inLen := some (bs.length - r.rest.length) }
    else { status := 0x0A, skip := 0, out := r.out, outLen := 0, inLen := none }

/-- The bytes of a stream that the decompressor accepts (R485, R505). -/
def fullerDecode (stream : List Byte) (ulen : Nat) : Option (List Byte) :=
  let r := decompressJob (stream.map fun b => (b, false)) ulen
  if r.status = 0 ∧ r.outLen = ulen then some r.out else none

/-! ### The descriptor ring (R499) -/

/-- The word of a job descriptor. -/
def Dev.jobWord (d : Dev) (job i : Nat) : Nat :=
  natOfBytes ((d.readBufs (d.f Reg.FUL_RING_BASE * 32 + 32 * job + 4 * i) 4).1.map Prod.fst)

/-- A buffer descriptor's words (Table 14.1). -/
def Dev.descWord (d : Dev) (idx i : Nat) : Nat :=
  natOfBytes ((d.readBufs (d.f Reg.BUF_DESC_BASE * 16 + 16 * idx + 4 * i) 4).1.map Prod.fst)

/-- The input chain from a descriptor: the bytes of each descriptor in turn, at most as many as the table holds. -/
def Dev.readChain (d : Dev) (idx : Nat) : Nat → List (List PByte) × Dev
  | 0 => ([], d)
  | n + 1 =>
    if 65536 ≤ idx then ([], d)
    else
      let w0 := d.descWord idx 0
      let len := d.descWord idx 2 % 65536
      let addr := w0 % 2 ^ 28 * 64
      let x := if w0 / 2 ^ 31 = 1 then d.readDram addr len else d.readBufs addr len
      let y := x.2.readChain (d.descWord idx 1) n
      (x.1 :: y.1, y.2)

/-- The ends of the segments of an input. -/
def segmentEnds : Nat → List (List PByte) → List Nat
  | _, [] => []
  | n, s :: ss => (n + s.length) :: segmentEnds (n + s.length) ss

/-- Output bytes written at an address of DRAM or buffer SRAM. -/
def Dev.writeSpace (d : Dev) (buffer : Bool) (addr : Nat) (bs : List PByte) : Dev :=
  if buffer then d.onMem fun m => m.writeBufs addr bs else d.writeDram addr bs

/-- The engine's words of a descriptor written. -/
def Dev.writeJob (d : Dev) (job status outLen inLen : Nat) : Dev :=
  let a := d.f Reg.FUL_RING_BASE * 32 + 32 * job + 16
  d.onMem fun m => m.writeBufs a ((le32 status ++ le32 outLen ++ le32 inLen).map fun b => (b, false))

/-- The counters and the log of a job's ending (Table 20.4). -/
def Dev.countJob (d : Dev) (job status : Nat) : Dev :=
  let d1 := d.bumpF Reg.FUL_CNT_JOBS 1
  let d2 := if status = 0x0B then d1.bumpF Reg.FUL_CNT_NOSHRINK 1 else if status = 0x0C then d1.bumpF Reg.FUL_CNT_FULL 1 else d1
  if (status = 0x0A ∨ status = 0x04) ∧ d2.f Reg.FUL_ERR_VALID = 0 then
    ((d2.setF Reg.FUL_ERR_VALID 1).setF Reg.FUL_ERR_STATUS status).setF Reg.FUL_ERR_JOB job
  else d2

/-- BUSY: a submitted job is running. -/
def Dev.fulShow (d : Dev) : Dev :=
  d.setF Reg.FUL_STATUS_BUSY (flag (decide (d.f Reg.FUL_STATUS_HEAD ≠ d.f Reg.FUL_RING_TAIL_TAIL)))

/-- A job's end: its descriptor written, and the next job. -/
def Dev.endJob (d : Dev) (e : JobEnd) : Dev :=
  let job := d.f Reg.FUL_STATUS_HEAD
  let d1 := match e.inLen with
    | some n => d.writeJob job e.status e.outLen n
    | none => d.tookFree.writeJob job e.status e.outLen (Config.freeNat d.free % 2 ^ 32)
  let d2 := { (d1.countJob job e.status) with ful := { flushes := [], abort := false } }
  (d2.setF Reg.FUL_STATUS_HEAD ((job + 1) % 16)).fulShow

/-- Whether a submitted job waits at HEAD. -/
def Dev.fulPending (d : Dev) : Bool :=
  decide (d.f Reg.FUL_STATUS_HEAD ≠ d.f Reg.FUL_RING_TAIL_TAIL) && decide (d.f Reg.FUL_STATUS_VAULT = 0)

/-- The job at HEAD run to its end. -/
def Dev.runJob (d : Dev) (codings : List (List Byte)) : Dev :=
  let job := d.f Reg.FUL_STATUS_HEAD
  let w0 := d.jobWord job 0
  let op := w0 / 2 ^ 28
  let size := w0 / 2 ^ 26 % 4
  let w2 := d.jobWord job 2
  let space := w2 / 2 ^ 30
  let addr := w2 % 2 ^ 30
  let osize := d.jobWord job 3
  let refuse : JobEnd := { status := 4, skip := 0, out := [], outLen := 0, inLen := some 0 }
  if 2 ≤ op ∨ (op = 0 ∧ size = 3) ∨ 2 ≤ space ∨ addr % 4 ≠ 0 then d.endJob refuse
  else
    let c := d.readChain (d.jobWord job 1) 65536
    let input := c.1.flatten
    let ends := if testBit w0 25 then segmentEnds 0 c.1 else []
    let r := if op = 1 then decompressJob input osize
      else compressJob input (2 ^ (14 + size)) osize (ends ++ d.ful.flushes) codings
    let e := if d.ful.abort then { status := 0x0E, skip := 16, out := r.out.drop (16 - r.skip), outLen := 0, inLen := none } else r
    (c.2.writeSpace (decide (space = 1)) (addr + e.skip) (e.out.map fun b => (b, false))).endJob e

/-- COMPRESS_JOB (R500) and DECOMPRESS_JOB (R502): the submitted job at HEAD, when it is of that kind; the compress row
also takes the jobs refused with BAD_PARAM. -/
def execCompressJob (codings : List (List Byte)) (s : State) : Host.Outcome State Fault Refusal :=
  let d := s.dev
  s.next (if d.fulPending && decide (d.jobWord (d.f Reg.FUL_STATUS_HEAD) 0 / 2 ^ 28 ≠ 1) then d.runJob codings else d)

def execDecompressJob (s : State) : Host.Outcome State Fault Refusal :=
  let d := s.dev
  s.next (if d.fulPending && decide (d.jobWord (d.f Reg.FUL_STATUS_HEAD) 0 / 2 ^ 28 = 1) then d.runJob [] else d)

/-- FUL_FLUSH (R503): `consumed` is the input that the running compress job has consumed. -/
def Dev.fulFlush (d : Dev) (consumed : Nat) : Dev :=
  if d.fulPending && decide (d.jobWord (d.f Reg.FUL_STATUS_HEAD) 0 / 2 ^ 28 = 0) then
    { d with ful := { d.ful with flushes := d.ful.flushes ++ [consumed] } }
  else d

def execFulFlush (consumed : Nat) (s : State) : Host.Outcome State Fault Refusal := s.next (s.dev.fulFlush consumed)

end Sys2Proof.Machine
end

