-- ==== Sys2Proof/Machine/Crown.lean ====
section
/-! DEFINITION. The Crown metadata cache (R393 to R411): replacement, fills, the Batt merging buffer, the Nap prefetch
buffer, coherence and maintenance. A fill's bytes are those the DRAM controller and the Batt buffer hold when it is
issued, and every later write to the line is put over them, so they are at all times the line as R408 has it. -/

namespace Sys2Proof.Machine

def Dev.onCrn (d : Dev) (g : Crown → Crown) : Dev := { d with crn := g d.crn }

def crownSet (line : Nat) : Nat := line % 1024
def crownTag (line : Nat) : Nat := line / 1024

/-- The place of a line's way in the way array. -/
def wayKey (line w : Nat) : Nat := 16 * crownSet line + w

def Crown.way (c : Crown) (k : Nat) : CrownWay := sget CrownWay.none c.ways k
def Crown.setWay (c : Crown) (k : Nat) (v : CrownWay) : Crown := { c with ways := sset CrownWay.none c.ways k v }

/-- The line lies in an enabled window (R394). -/
def Dev.cacheable (d : Dev) (line : Nat) : Bool :=
  (List.range 8).any fun n =>
    let base := d.f (Reg.CRN_WIN_BASE.nth n)
    decide (d.f (Reg.CRN_WIN_EN.nth n) = 1 ∧ base ≤ line / 8192 ∧ line / 8192 < base + d.f (Reg.CRN_WIN_SIZE.nth n))

/-- The cache serves requests: its domain is on and it is ready. -/
def Dev.crownUp (d : Dev) : Bool := d.domOn 52 && !d.isResetting (.block .crn)

def Dev.crownCompat (d : Dev) : Bool := decide (d.f Reg.CRN_CFG_COMPAT = 1)

/-! ### Replacement (R396) -/

/-- The replacement word after an access to way `w`. -/
def plruTouch (r w : Nat) : Nat :=
  [1, 2, 3, 4].foldl (fun r i => putBit r ((16 + w) >>> i) (decide ((16 + w) >>> (i - 1) % 2 = 0))) r

/-- The walk from a node over `k` levels to a leaf, away from subtrees without an eligible way. -/
def plruWalk (r : Nat) (eligible : Nat → Bool) : Nat → Nat → Nat
  | 0, n => n
  | k + 1, n =>
    let c := if testBit r n then 2 * n + 1 else 2 * n
    let has := (List.range (2 ^ k)).any fun i => eligible (c * 2 ^ k + i - 16)
    plruWalk r eligible k (if has then c else c ^^^ 1)

/-- The victim in a line's set: the lowest invalid way not reserved, else the walk's leaf; `barred` is not eligible. -/
def Crown.victim (c : Crown) (line : Nat) (barred : Option Nat) : Option Nat :=
  let way (w : Nat) : CrownWay := c.way (wayKey line w)
  match (List.range 16).find? fun w => !(way w).valid && !(way w).reserved with
  | some w => some w
  | none =>
    let ok (w : Nat) : Bool := (way w).valid && !(way w).reserved && decide (barred ≠ some w)
    if (List.range 16).any ok then some (plruWalk (sget 0 c.plru (crownSet line)) ok 4 1 - 16) else none

def Crown.reserve (c : Crown) (line w : Nat) (b : Bool) : Crown :=
  c.setWay (wayKey line w) { c.way (wayKey line w) with reserved := b }

/-- The way that holds a line. -/
def Crown.wayOf (c : Crown) (line : Nat) : Option Nat :=
  (List.range 16).find? fun w => (c.way (wayKey line w)).valid && decide ((c.way (wayKey line w)).tag = crownTag line)

/-- An access to a way; one that is reserved loses its reservation, and the fill selects another victim (R408). -/
def Dev.crownAccess (d : Dev) (line w : Nat) : Dev :=
  let s := crownSet line
  let d1 := d.onCrn fun c => { c with plru := sset 0 c.plru s (plruTouch (sget 0 c.plru s) w) }
  if !(d1.crn.way (wayKey line w)).reserved then d1
  else
    let c1 := d1.crn.reserve line w false
    let v := c1.victim line (some w)
    let c2 := match v with | some x => c1.reserve line x true | none => c1
    let again (f : CrownFill) : CrownFill := if crownSet f.line = s ∧ f.way = some w then { f with way := v } else f
    ({ d1 with crn := { c2 with fills := c2.fills.map again } }).bumpF Reg.CRN_RACE_VICTIM_HIT 1

/-! ### The Batt merging buffer (R400 to R402) -/

def mergeCells (old new : List (Nat × PByte)) : List (Nat × PByte) :=
  (old.filter fun c => !new.any fun n => decide (n.1 = c.1)) ++ new

/-- A line's bytes with cells put over them. -/
def overCells (bytes : List PByte) (cells : List (Nat × PByte)) : List PByte :=
  cells.foldl (fun bs c => bs.set c.1 c.2) bytes

/-- An entry's granules written to the DRAM (R402). -/
def Dev.drainEntry (d : Dev) (e : BattEntry) : Dev :=
  let half (h : Nat) : List (Nat × PByte) :=
    (e.cells.filter fun c => decide (c.1 / 64 = h)).map fun c => (c.1 % 64, c.2)
  let put (d : Dev) (h : Nat) : Dev :=
    if (half h).isEmpty then d else d.offerGranule { granule := 2 * e.line + h, cells := half h }
  put (put d 0) 1

/-- A line's entry drained and freed. -/
def Dev.drainLine (d : Dev) (line : Nat) : Dev :=
  let d1 := (d.crn.batt.filter fun e => decide (e.line = line)).foldl Dev.drainEntry d
  d1.onCrn fun c => { c with batt := c.batt.filter fun e => decide (e.line ≠ line) }

/-- Every entry drained, the oldest first. -/
def Dev.drainAll (d : Dev) : Dev :=
  let d1 := d.crn.batt.foldl Dev.drainEntry d
  d1.onCrn fun c => { c with batt := [] }

/-- Bytes merged into the line's entry or put into a new one (R401). -/
def Dev.battPut (d : Dev) (line : Nat) (cells : List (Nat × PByte)) : Dev :=
  if d.crn.batt.any fun e => decide (e.line = line) then
    (d.onCrn fun c => { c with batt := c.batt.map fun e =>
      if e.line = line then { e with cells := mergeCells e.cells cells } else e }).bumpF Reg.CRN_BATT_CNT_MERGE 1
  else d.onCrn fun c => { c with batt := c.batt ++ [{ line := line, cells := cells }] }

/-! ### Reads and fills (R397, R398) -/

def CrownReq.line (r : CrownReq) : Nat := r.addr / 128

/-- The slice of a line that a request names. -/
def CrownReq.slice (r : CrownReq) (bytes : List PByte) : List PByte := (bytes.drop (r.addr % 128)).take r.len

/-- The granules of the line that a request needs, as a mask. -/
def CrownReq.granules (r : CrownReq) : Nat :=
  (if r.addr % 128 < 64 then 1 else 0) + (if 64 < r.addr % 128 + r.len then 2 else 0)

def Dev.serve (d : Dev) (r : CrownReq) (bs : List PByte) : Dev :=
  d.onCrn fun c => { c with served := (r.who, r.addr, bs) :: c.served }

/-- One granule read for a fill; a prefetch that meets poison counts no error (R404). -/
def Dev.fillRead (d : Dev) (nap : Bool) (g : Nat) : List PByte × Dev :=
  let x := d.readGranule g
  (x.1.1.map fun b => (b, x.1.2), if nap && x.1.2 then d else x.2)

/-- A fill issued (R398), with the Batt bytes put over what the DRAM holds. -/
def Dev.startFill (d : Dev) (line : Nat) (way : Option Nat) (critical : Nat) (reader : List CrownReq) : Dev :=
  let nap := reader.isEmpty
  let x0 := d.fillRead nap (2 * line)
  let x1 := x0.2.fillRead nap (2 * line + 1)
  let laid := (d.crn.batt.filter fun e => decide (e.line = line)).flatMap fun e => e.cells
  let bytes := overCells (x0.1 ++ x1.1) laid
  let joined := reader.map fun (r : CrownReq) => { r with seen := r.slice bytes }
  let f : CrownFill :=
    { line := line, way := way, bytes := bytes, critical := critical, arrived := 0, compat := d.crownCompat,
      joined := joined, nap := nap, noInstall := false, maint := false }
  x1.2.onCrn fun c =>
    let c1 := match way with | some w => c.reserve line w true | none => c
    { c1 with fills := c1.fills ++ [f] }

/-- A fill of the line that later requests may join. -/
def Crown.fillOf (c : Crown) (line : Nat) : Option CrownFill :=
  c.fills.find? fun f => decide (f.line = line) && !f.noInstall

/-- Miss registers (R397, R399). -/
def Dev.missRoom (d : Dev) : Bool := decide (d.crn.fills.length < if d.crownCompat then 1 else 16)

/-- A prefetch into the Nap buffer (R404): nothing for a line that is not cacheable, or is held or in flight. -/
def Dev.napWants (d : Dev) (line : Nat) : Bool :=
  d.cacheable line && (d.crn.wayOf line).isNone && !(d.crn.nap.any fun p => decide (p.1 = line)) &&
    (d.crn.fillOf line).isNone

def Dev.napFetch (d : Dev) (line : Nat) : Dev :=
  if d.napWants line && d.missRoom then (d.startFill line none 0 []).bumpF Reg.CRN_NAP_PREFETCH 1 else d

/-- The sequential prefetches of a demand miss (R404, R399). -/
def Dev.napSeq (d : Dev) (line : Nat) : Dev :=
  if d.crownCompat then d
  else (List.range (d.f Reg.CRN_CFG_NAP_SEQ)).foldl (fun d i => d.napFetch (line + 1 + i)) d

/-- A line put into a way as one step (R398). -/
def Dev.install (d : Dev) (line w : Nat) (bytes : List PByte) : Dev :=
  (d.onCrn fun c => c.setWay (wayKey line w)
    { valid := true, tag := crownTag line, reserved := false, bytes := bytes }).crownAccess line w

/-- A line's way made invalid; a reservation stays. -/
def Crown.dropWay (c : Crown) (k : Nat) : Crown :=
  c.setWay k { CrownWay.none with reserved := (c.way k).reserved }

/-- Poisoned bytes among those read from a way are uncorrectable reads, after which the line is dropped (R409). -/
def Dev.crownPoison (d : Dev) (r : CrownReq) (w : Nat) (bs : List PByte) : Dev :=
  let base := 128 * wayKey r.line w + r.addr % 128
  let bad := bs.zipIdx.filter fun p => p.1.2
  if bad.isEmpty then d
  else (bad.foldl (fun d p => d.bufUe MemNo.crown (base + p.2) false) d).onCrn fun c => c.dropWay (wayKey r.line w)

/-- A read hit in way `w` (R395, R408, R409). -/
def Dev.readHit (d : Dev) (r : CrownReq) (w : Nat) : Dev :=
  let bs := r.slice (d.crn.way (wayKey r.line w)).bytes
  (((d.crownAccess r.line w).bumpF Reg.CRN_HIT_COUNT 1).serve r bs).crownPoison r w bs

/-- A read hit on a Nap line: served, and the line installed in the cache (R405). -/
def Dev.readNap (d : Dev) (r : CrownReq) (bytes : List PByte) : Dev :=
  let d1 := (d.bumpF Reg.CRN_HIT_COUNT 1).serve r (r.slice bytes)
  match d1.crn.victim r.line none with
  | none => d1
  | some w =>
    let d2 := d1.onCrn fun c => { c with nap := c.nap.filter fun p => decide (p.1 ≠ r.line) }
    (d2.install r.line w bytes).bumpF Reg.CRN_NAP_PROMOTED 1

/-- A read joins a fill in flight (R397, R405). -/
def Dev.joinFill (d : Dev) (r : CrownReq) (f : CrownFill) : Dev :=
  let d1 := d.bumpF Reg.CRN_MISS_COUNT 1
  let v := if f.nap then d1.crn.victim r.line none else f.way
  let d2 := match v with
    | some w => if f.nap then d1.onCrn fun c => c.reserve r.line w true else d1
    | none => d1
  let now := !f.compat && decide (r.granules &&& f.arrived = r.granules)
  let r1 := { r with seen := r.slice f.bytes }
  let join (x : CrownFill) : CrownFill :=
    if x = f then { x with way := v, nap := false, joined := if now then x.joined else x.joined ++ [r1] } else x
  let d3 := d2.onCrn fun c => { c with fills := c.fills.map join }
  if now then d3.serve r r1.seen else d3

/-- A read, unless it must wait (R394, R397, R399). -/
def Dev.tryRead (d : Dev) (r : CrownReq) : Option Dev :=
  if !d.cacheable r.line then
    let x := (d.drainLine r.line).readDram r.addr r.len
    some (x.2.serve r x.1)
  else
    match d.crn.wayOf r.line with
    | some w => some (d.readHit r w)
    | none =>
      match d.crn.nap.find? fun p => decide (p.1 = r.line) with
      | some p => some (d.readNap r p.2)
      | none =>
        match d.crn.fillOf r.line with
        | some f => some (d.joinFill r f)
        | none =>
          match d.crn.victim r.line none with
          | none => none
          | some w =>
            if d.missRoom then
              let crit := if d.crownCompat then 0 else r.addr % 128 / 64
              some (((d.startFill r.line (some w) crit [r]).bumpF Reg.CRN_MISS_COUNT 1).napSeq r.line)
            else none

/-- A write, unless it must wait for a Batt entry (R394, R400, R401, R408). -/
def Dev.tryWrite (d : Dev) (r : CrownReq) : Option Dev :=
  let line := r.line
  if !d.cacheable line then some ((d.drainLine line).writeDram r.addr r.seen)
  else if !(d.crn.batt.any fun e => decide (e.line = line)) && decide (32 ≤ d.crn.batt.length) then none
  else
    let cells := r.seen.zipIdx.map fun p => (r.addr % 128 + p.2, p.1)
    let d1 := match d.crn.wayOf line with
      | none => d
      | some w =>
        let k := wayKey line w
        (d.onCrn fun c => c.setWay k { c.way k with bytes := overCells (c.way k).bytes cells }).crownAccess line w
    let d2 := d1.onCrn fun c => { c with
      nap := c.nap.filter fun p => decide (p.1 ≠ line)
      fills := c.fills.map fun f => if f.line = line then { f with bytes := overCells f.bytes cells } else f }
    some (d2.battPut line cells)

def Dev.tryCrown (d : Dev) (r : CrownReq) : Option Dev :=
  if !d.crownUp then none else if r.write then d.tryWrite r else d.tryRead r

/-- An earlier request of the same requester to overlapping bytes waits (R395). -/
def CrownReq.behind (r : CrownReq) (earlier : List CrownReq) : Bool :=
  earlier.any fun q => decide (q.who = r.who ∧ q.addr < r.addr + r.len ∧ r.addr < q.addr + q.len)

/-- Waiting requests tried in their order. -/
def Dev.retryList (d : Dev) : List CrownReq → List CrownReq → Dev
  | [], kept => d.onCrn fun c => { c with waits := kept }
  | r :: rs, kept =>
    if r.behind kept then d.retryList rs (kept ++ [r])
    else match d.tryCrown r with
      | some d1 => d1.retryList rs kept
      | none => d.retryList rs (kept ++ [r])

/-! ### Fences and maintenance (R403, R407) -/

/-- Fences whose entries have all drained complete. -/
def Dev.endFences (d : Dev) : Dev :=
  let waits (f : CrownFence) : Bool := f.lines.any fun l => d.crn.batt.any fun e => decide (e.line = l)
  d.onCrn fun c => { c with
    fences := c.fences.filter waits
    fenced := ((c.fences.filter fun f => !waits f).filterMap fun f => f.who) ++ c.fenced }

/-- BUSY and CRN_STATUS as the cache stands. -/
def Dev.crownShow (d : Dev) : Dev :=
  let busy := (d.crn.fills.any fun f => f.maint) || (d.crn.fences.any fun f => f.who.isNone) || d.crn.prefetch.isSome
  ((((d.setF Reg.CRN_MAINT_BUSY (flag busy)).setF Reg.CRN_STATUS_MISSES d.crn.fills.length).setF Reg.CRN_STATUS_BATT
    d.crn.batt.length).setF Reg.CRN_STATUS_NAP d.crn.nap.length).setF Reg.CRN_STATUS_COMPAT_NOW (d.f Reg.CRN_CFG_COMPAT)

/-- A maintenance prefetch that waits for a miss register, issued once there is one. -/
def Dev.issuePrefetch (d : Dev) : Dev :=
  match d.crn.prefetch with
  | none => d
  | some l =>
    if !d.napWants l then d.onCrn fun c => { c with prefetch := none }
    else if d.missRoom then (d.napFetch l).onCrn fun c => { c with prefetch := none }
    else d

/-- What follows any change of the cache: requests that wait, a prefetch that waits, fences and the status shown. -/
def Dev.crownSettle (d : Dev) : Dev := ((d.retryList d.crn.waits []).issuePrefetch.endFences).crownShow

/-- The way array's uncorrectable state rewritten before a request is served (R409). -/
def Dev.tagErrors (d : Dev) (line : Nat) (e : TagErr) : Dev :=
  let s := crownSet line
  let bad (d : Dev) (w : Nat) : Dev :=
    (((d.bufUe MemNo.crown (128 * wayKey line w) false).bumpF Reg.CRN_ERR_TAG_UE 1)).onCrn fun c => c.dropWay (wayKey line w)
  let d1 := ((List.range 16).filter fun w => testBit e.ways w).foldl bad d
  if e.plru then
    ((d1.bufUe MemNo.crown (128 * wayKey line 0) false).bumpF Reg.CRN_ERR_TAG_UE 1).onCrn fun c => { c with plru := sset 0 c.plru s 0 }
  else d1

/-- A request as R394 has it. -/
def crownForm (addr len : Nat) : Bool :=
  ([4, 8, 16, 32, 64, 128].any fun n => decide (n = len)) && decide (addr % len = 0) && decide (addr < 2 ^ 34)

/-- A requester that the variant holds. -/
def Dev.hasCrownUser (d : Dev) : CrownUser → Bool
  | .blocker a => d.hasAct a
  | .felt => d.hasFelt
  | _ => true

/-- A request arrives (R394 to R401). -/
def Dev.crownRequest (d : Dev) (r : CrownReq) (e : TagErr) : Dev :=
  if !crownForm r.addr r.len || !d.hasCrownUser r.who then d
  else
    let d0 := if d.domOn 52 then d.setDomLow 52 false else d
    let d1 := if d0.crownUp then d0.tagErrors r.line e else d0
    let d2 :=
      if r.behind d1.crn.waits then d1.onCrn fun c => { c with waits := c.waits ++ [r] }
      else match d1.tryCrown r with
        | some x => x
        | none =>
          let w := d1.onCrn fun c => { c with waits := c.waits ++ [r] }
          if r.write && d1.crownUp then w.bumpF Reg.CRN_BATT_CNT_FULL_STALL 1 else w
    d2.crownSettle

/-- CROWN_READ (R397). -/
def execCrownRead (who : CrownUser) (addr len : Nat) (err : TagErr) (s : State) : Host.Outcome State Fault Refusal :=
  s.next (s.dev.crownRequest { who := who, write := false, addr := addr, len := len, seen := [] } err)

/-- CROWN_WRITE (R400). -/
def execCrownWrite (who : CrownUser) (addr : Nat) (data : List PByte) (err : TagErr) (s : State) :
    Host.Outcome State Fault Refusal :=
  s.next (s.dev.crownRequest { who := who, write := true, addr := addr, len := data.length, seen := data } err)

/-! ### Fill granules (R398) -/

/-- The end of a fill: installed, put into the Nap buffer, or neither (R398, R404, R408). -/
def Dev.endFill (d : Dev) (f : CrownFill) : Dev :=
  let d1 := f.joined.foldl (fun d r => d.serve r r.seen) d
  let free (d : Dev) : Dev := match f.way with | some w => d.onCrn fun c => c.reserve f.line w false | none => d
  if f.noInstall then (free d1).bumpF Reg.CRN_RACE_NO_INSTALL 1
  else if f.nap then
    if f.bytes.any fun b => b.2 then d1
    else d1.onCrn fun c => { c with nap := (if 16 ≤ c.nap.length then c.nap.drop 1 else c.nap) ++ [(f.line, f.bytes)] }
  else
    match f.way with
    | some w => (d1.onCrn fun c => c.reserve f.line w false).install f.line w f.bytes
    | none =>
      match d1.crn.victim f.line none with
      | some w => d1.install f.line w f.bytes
      | none => d1

/-- FILL_GRANULE (R398): the next granule of the oldest fill of a line. -/
def Dev.fillGranule (d : Dev) (line : Nat) : Dev :=
  match d.crn.fills.find? fun f => decide (f.line = line) with
  | none => d
  | some f =>
    let got := if f.arrived = 0 then 1 <<< f.critical else 3
    let f1 := { f with arrived := got }
    if got = 3 then
      let d1 := d.onCrn fun c => { c with fills := c.fills.erase f }
      (d1.endFill f1).crownSettle
    else
      let go (r : CrownReq) : Bool := !f.compat && decide (r.granules &&& got = r.granules)
      let d1 := (f.joined.filter go).foldl (fun d r => d.serve r r.seen) d
      let f2 := { f1 with joined := f.joined.filter fun r => !go r }
      (d1.onCrn fun c => { c with fills := c.fills.map fun x => if x = f then f2 else x }).crownSettle

def execFillGranule (line : Nat) (s : State) : Host.Outcome State Fault Refusal := s.next (s.dev.fillGranule line)

/-- BATT_DRAIN (R402): the entry of a line drains. -/
def execBattDrain (line : Nat) (s : State) : Host.Outcome State Fault Refusal := s.next (s.dev.drainLine line).crownSettle

/-! ### Fences -/

def Dev.fence (d : Dev) (who : Option CrownUser) : Dev :=
  (d.onCrn fun c => { c with fences := c.fences ++ [{ who := who, lines := c.batt.map fun e => e.line }] }).crownSettle

/-- CROWN_FENCE (R403). -/
def execCrownFence (who : CrownUser) (s : State) : Host.Outcome State Fault Refusal :=
  s.next (if s.dev.hasCrownUser who then s.dev.fence (some who) else s.dev)

/-! ### Invalidation (R406 to R408) -/

/-- An invalidate of a line: the cache and the Nap buffer at once, its fills marked. -/
def Dev.invalidate (d : Dev) (maint : Bool) (line : Nat) : Dev :=
  d.onCrn fun c =>
    let c1 := match c.wayOf line with | some w => c.dropWay (wayKey line w) | none => c
    { c1 with
      nap := c1.nap.filter fun p => decide (p.1 ≠ line)
      fills := c1.fills.map fun f =>
        if f.line = line then { f with noInstall := true, maint := f.maint || maint } else f }

/-- COHERENCE_REPORT (R406). -/
def execCoherenceReport (line : Nat) (s : State) : Host.Outcome State Fault Refusal :=
  s.next (if s.dev.cacheable line then (s.dev.invalidate false line).crownSettle else s.dev)

/-- Every line, Nap entry and outstanding fill (Table 15.1, operation 3). -/
def Dev.invalidateAll (d : Dev) (maint : Bool) : Dev :=
  d.onCrn fun c => { c with
    ways := (c.ways.filter fun p => p.2.reserved).map fun p => (p.1, { CrownWay.none with reserved := true })
    nap := []
    fills := c.fills.map fun f => { f with noInstall := true, maint := f.maint || maint } }

/-- The set and way of CRN_MAINT. -/
def Dev.maintKey (d : Dev) : Nat := 16 * d.f Reg.CRN_MAINT_SET + d.f Reg.CRN_MAINT_WAY

/-- The operations of Table 15.1. -/
def Dev.maintOp (d : Dev) (op : Nat) : Dev :=
  match op with
  | 1 => (d.invalidate true (d.f Reg.CRN_MAINT_ADDR_LINE)).crownSettle
  | 2 =>
    let w := d.crn.way d.maintKey
    if w.valid then (d.invalidate true (1024 * w.tag + d.f Reg.CRN_MAINT_SET)).crownSettle else d
  | 3 => (d.invalidateAll true).crownSettle
  | 4 => d.fence none
  | 5 => (d.onCrn fun c => { c with prefetch := some (d.f Reg.CRN_MAINT_ADDR_LINE) }).crownSettle
  | 6 =>
    let w := d.crn.way d.maintKey
    (((d.setF Reg.CRN_MAINT_TAG_VALID (flag w.valid)).setF Reg.CRN_MAINT_TAG_RESERVED (flag w.reserved)).setF
      Reg.CRN_MAINT_TAG_TAG w.tag).setF Reg.CRN_MAINT_PLRU_NODES (sget 0 d.crn.plru (d.f Reg.CRN_MAINT_SET) / 2)
  | _ => d

/-- A write of CRN_MAINT with GO 1 (R407): ignored with one event while an operation runs. -/
def Dev.maintGo (d : Dev) (op set way : Nat) : Dev :=
  if d.f Reg.CRN_MAINT_BUSY = 1 then d.event Ev.other .crn Reg.CRN_MAINT 0
  else (((d.setF Reg.CRN_MAINT_OP op).setF Reg.CRN_MAINT_SET set).setF Reg.CRN_MAINT_WAY way).maintOp op

def execMaintInvalidateLine (set way : Nat) (s : State) : Host.Outcome State Fault Refusal := s.next (s.dev.maintGo 1 set way)
def execMaintInvalidateWay (set way : Nat) (s : State) : Host.Outcome State Fault Refusal := s.next (s.dev.maintGo 2 set way)
def execMaintInvalidateAll (set way : Nat) (s : State) : Host.Outcome State Fault Refusal := s.next (s.dev.maintGo 3 set way)
def execMaintFence (set way : Nat) (s : State) : Host.Outcome State Fault Refusal := s.next (s.dev.maintGo 4 set way)
def execMaintPrefetch (set way : Nat) (s : State) : Host.Outcome State Fault Refusal := s.next (s.dev.maintGo 5 set way)
def execMaintReadTag (set way : Nat) (s : State) : Host.Outcome State Fault Refusal := s.next (s.dev.maintGo 6 set way)

/-! ### Reset and power (R410) -/

/-- Batt drained, every way and Nap line invalid, every fill ended without installing; readers of those fills ask
again once the cache is ready (R36). -/
def Dev.crownClear (d : Dev) : Dev :=
  let d1 := d.drainAll
  let n := d1.crn.fills.length
  let d2 := d1.onCrn fun c => { c with
    ways := [], nap := [], prefetch := none, fills := [], waits := (c.fills.flatMap fun f => f.joined) ++ c.waits }
  ((d2.bumpF Reg.CRN_RACE_NO_INSTALL n).endFences).crownShow

end Sys2Proof.Machine
end

