-- ==== Sys2Proof/Machine/Scrub.lean ====
section
/-! DEFINITION. The Pouncer scrubber's pass (R384, R385): every protected memory read once, corrections written back and
uncorrectable units rewritten poisoned. -/

namespace Sys2Proof.Machine

/-- An uncorrectable unit found in a per-byte memory. -/
def Dev.scrubUe (d : Dev) (no addr : Nat) : Dev := (d.bufUe no addr true).event Ev.scrubUe .buf no addr

/-- One buffer byte. -/
def Dev.scrubBuf (d : Dev) (a : Nat) : Dev :=
  if !d.domOn (34 + a / 2 ^ 22) then d
  else
    let w := d.mem.bufRaw a
    match eccDecode 4 8 w.1 w.2 with
    | .clean => d
    | .bad => (d.scrubUe MemNo.buffer a).onMem fun m => m.writeBuf a (BitVec.ofNat 8 w.1, true)
    | o => (d.bumpF Reg.BUF_ECC_CNT_CE 1).onMem fun m => m.writeBuf a (BitVec.ofNat 8 (o.fix w.1), false)

/-- One granule with its metadata, below the fence. -/
def Dev.scrubGranule (d : Dev) (g : Nat) : Dev :=
  if d.fenceGranule ≤ g then d
  else
    let n := ([0, 1, 2, 3].filter fun q => (d.mem.quarterOutcome g q).corrected).length
    let r := d.mem.granule g
    let d1 := d.bumpF Reg.DMC_ECC_CNT_CE n
    if r.2 then ((d1.dramUe g true).event Ev.scrubUe .buf 15 g).onMem fun m => m.storeGranule g r.1 true
    else if n = 0 then d1 else d1.onMem fun m => m.storeGranule g r.1 false

/-- One control-store word: corrected, or the store reloaded (R385, R123). -/
def Dev.scrubStore (d : Dev) (a : Act) (p : Nat × BitVec 144) : Dev :=
  match readWord (sget 0 (d.blk.get a).store p.1) with
  | .error h => d.badWord a h p.1
  | .ok r => d.fixWord a r.2 p.1 r.1

/-- The bytes of a Blocker's data memory, poisoned ones being uncorrectable. -/
def Dev.scrubData (d : Dev) (a : Act) : Dev :=
  (d.blk.get a).dataPoison.foldl (fun (d : Dev) (p : Nat × Bool) => d.scrubUe (MemNo.blkData a) p.1) d

/-- The Crown cache's data. -/
def Dev.scrubCrown (d : Dev) : Dev :=
  d.crn.ways.foldl (fun (d : Dev) (p : Nat × CrownWay) =>
    (p.2.bytes.zipIdx.filter fun b => b.1.2).foldl (fun (d : Dev) (b : PByte × Nat) => d.scrubUe MemNo.crown (128 * p.1 + b.2)) d) d

/-- Whether an MRAM unit lies in the vault or its spill (R491). -/
def vaultUnit (u : Nat) : Bool := decide (16 * u < 0x03000000 ∨ 0x03710000 ≤ 16 * u)

/-- An uncorrectable MRAM unit read (R491). -/
def Dev.mramUe (d : Dev) (u : Nat) : Dev :=
  let d1 := d.bumpF Reg.NVC_MRAM_ECC_UE 1
  let d2 := if d1.f Reg.NVC_MRAM_ELOG_VALID = 1 then d1
    else (d1.setF Reg.NVC_MRAM_ELOG_VALID 1).setF Reg.NVC_MRAM_ELOG_ADDR (16 * u)
  if vaultUnit u then d2.setF Reg.PWR_VAULT_REASON_MRAM 1 else d2

/-- A whole pass; `late` says that the next was due before it ended. -/
def Dev.scrubPass (d : Dev) (late : Bool) : Dev :=
  let cells := (d.mem.buf.map Prod.fst ++ d.mem.bufChk.map Prod.fst).eraseDups
  let grains := ((d.mem.dram.map fun (p : Nat × Byte) => p.1 / 64) ++ d.mem.dramMeta.map Prod.fst).eraseDups
  let d1 := cells.foldl Dev.scrubBuf d
  let d2 := ((d1.scrubCrown).scrubData .a0).scrubData .a1
  let d3 := (d2.blk.get .a0).store.foldl (fun (d : Dev) (p : Nat × BitVec 144) => d.scrubStore .a0 p) d2
  let d4 := (d3.blk.get .a1).store.foldl (fun (d : Dev) (p : Nat × BitVec 144) => d.scrubStore .a1 p) d3
  let d5 := grains.foldl Dev.scrubGranule d4
  if late then ((d5.setF Reg.BUF_POUNCE_LATE 1).setF Reg.BUF_POUNCE_DONE_PCT 0).event Ev.pounceLate .buf 0 0
  else d5.setF Reg.BUF_POUNCE_DONE_PCT 100

/-- The MRAM part of a pass (R491): `ce` units corrected, `ue` the units found uncorrectable; a pass that finds none of
them in the vault or its spill clears PWR_VAULT_REASON.MRAM. -/
def Dev.scrubMram (d : Dev) (ce : Nat) (ue : List Nat) : Dev :=
  let d1 := d.bumpF Reg.NVC_MRAM_ECC_CE ce
  let d2 := if ue.any vaultUnit then d1 else d1.setF Reg.PWR_VAULT_REASON_MRAM 0
  (ue.filter fun u => decide (u < 2 ^ 22)).foldl Dev.mramUe d2

/-- SCRUB_PASS (R384); deferred from throttle level 1 (R527). -/
def execScrubPass (late : Bool) (mramCe : Nat) (mramUe : List Nat) (s : State) : Host.Outcome State Fault Refusal :=
  s.next (if s.dev.f Reg.PDM_THERM_STATUS_LEVEL = 0 then (s.dev.scrubPass late).scrubMram mramCe mramUe else s.dev)

end Sys2Proof.Machine
end

