-- ==== Sys2Proof/Machine/Power.lean ====
section
/-! DEFINITION. Power domains and thermal management (chapter 22), and the entry into and exit from power states (R432,
R433). -/

namespace Sys2Proof.Machine

def Dev.onPw (d : Dev) (g : Power → Power) : Dev := { d with pw := g d.pw }

/-! ### Which domains are wanted (R519, R523, R524, R527, R432) -/

/-- The throttle level (R527). -/
def Dev.throttle (d : Dev) : Nat := d.f Reg.PDM_THERM_STATUS_LEVEL

/-- The actuator whose data path or drivers a domain belongs to. -/
def domainAct (i : Nat) : Option Act :=
  if i ≤ 14 ∨ i = 69 ∨ i = 71 then some .a0
  else if i ≤ 29 ∨ i = 70 ∨ i = 72 then some .a1
  else none

/-- A Blocker has work: requests that it queues, runs or has held off. -/
def Dev.blkWork (d : Dev) (a : Act) : Bool :=
  let b := d.blk.get a
  b.cur.isSome || b.frag.isSome || !b.queue.isEmpty || !b.heldReqs.isEmpty

/-- The Blocker reports idle (R115). -/
def Dev.blkIdle (d : Dev) (a : Act) : Bool :=
  let b := d.blk.get a
  b.cur.isNone && b.frag.isNone && b.queue.isEmpty

/-- The unit whose ready notice ends the wake of a domain. -/
def domainUnit (i : Nat) : Option UnitId :=
  match i with
  | 1 => some (.block (.afe .a0)) | 16 => some (.block (.afe .a1))
  | 3 => some (.block (.chn .a0)) | 18 => some (.block (.chn .a1))
  | 8 => some (.block (.srv .a0)) | 23 => some (.block (.srv .a1))
  | 12 => some (.block (.tnl .a0)) | 27 => some (.block (.tnl .a1))
  | 13 => some (.block (.blk .a0)) | 28 => some (.block (.blk .a1))
  | 14 => some (.block (.was .a0)) | 29 => some (.block (.was .a1))
  | 30 => some (.block .hpa) | 31 => some (.complex .X) | 32 => some (.block .hpb) | 33 => some (.complex .Y)
  | 50 => some (.block .dmc) | 52 => some (.block .crn) | 53 => some (.block .ful) | 54 => some (.block .flt)
  | 56 => some (.block .zqe) | 57 => some (.block .hbr)
  | 58 => some (.core 0) | 59 => some (.core 1) | 60 => some (.core 2) | 61 => some (.core 3)
  | 62 => some (.block .nvc) | 68 => some (.block .spn) | 73 => some (.block .pwr) | 78 => some (.block .sec)
  | 79 => some (.block .dbg)
  | _ => none

/-- A requester holds a request to the domain's unit. -/
def Dev.unitHeld (d : Dev) (i : Nat) : Bool :=
  match domainUnit i with
  | none => false
  | some u => d.units.held.any fun r => decide (r.target = u)

/-- Whether the PDM wants a domain on, in a power state: the state's mask, the data path of an actuator with work, and
every data path while I/O is outstanding with the heads unloaded; what a spindle start and a throttle level of 2 hold
off. -/
def Dev.wantIn (d : Dev) (s i : Nat) : Bool :=
  if d.domainAbsent i then false
  else if (i = 50 ∨ i = 51) ∧ !testBit (d.f Reg.SYS_BOOT_DRAM_CH) (i - 50) then false
  else if i = 57 ∨ i = 67 ∨ i = 73 ∨ i = 74 ∨ (75 ≤ i ∧ i ≤ 77) then true
  else if d.pd.failed then d.domOn i
  else
    match domainAct i with
    | none => d.psOn s i || d.unitHeld i
    | some a =>
      if d.starting then false
      else if 2 ≤ d.throttle ∧ !d.psOn 1 i then false
      else d.psOn s i || d.blkWork a || (decide (2 ≤ s) && !d.host.cmds.isEmpty) || d.unitHeld i

/-- The state that the domains follow: the one in force, or the one being entered once its entry has run. -/
def Dev.wantOn (d : Dev) (i : Nat) : Bool := d.wantIn d.host.ps i

/-- The domains that must be on before a domain turns on (R523). -/
def dependsOn (i : Nat) : List Nat :=
  let clocks := if 73 ≤ i then [] else [75, 76, 77]
  let j := if 15 ≤ i ∧ i ≤ 29 then i - 15 else i
  let base := if 15 ≤ i ∧ i ≤ 29 then 15 else 0
  let own :=
    if i ≤ 29 then
      (if j = 0 ∨ j = 2 then [base + 1, base + 12] else if j = 1 ∨ j = 8 then [base + 12] else [])
    else if 52 ≤ i ∧ i ≤ 56 then [50, 51]
    else []
  clocks ++ own

/-- A DRAM channel that never trained counts as a dependency that cannot be met and is not waited for (R546). -/
def Dev.depMet (d : Dev) (j : Nat) : Bool :=
  d.domOn j || d.domainAbsent j || (decide (j = 50 ∨ j = 51) && (d.domOn 50 || d.domOn 51) &&
    decide (testBit (d.f Reg.SYS_BOOT_DRAM_CH) (j - 50) = false))

def Dev.depsOn (d : Dev) (i : Nat) : Bool := (dependsOn i).all fun j => d.depMet j

/-- No domain that depends on this one is on (the reverse order of R523). -/
def Dev.dependentsOff (d : Dev) (i : Nat) : Bool :=
  (List.range 80).all fun j => !(d.domOn j && decide (i ∈ dependsOn j))

/-! ### Quiescing and turning off (R524) -/

/-- Buffer bank b holds an allocated page: dirty data fills the lowest-numbered powered banks (R371). -/
def Dev.bankHeld (d : Dev) (b : Nat) : Bool :=
  let below := ((List.range b).filter fun k => d.domOn (34 + k)).length
  d.domOn (34 + b) && decide (1024 * below < d.dirtyBlocks)

/-- The unit of a domain has nothing left that a turn-off waits for. -/
def Dev.domQuiet (d : Dev) (i : Nat) : Bool :=
  match domainAct i with
  | some a => d.blkIdle a
  | none =>
    if 34 ≤ i ∧ i ≤ 49 then !d.bankHeld (i - 34)
    else if i = 53 then !d.fulPending
    else true

/-- Steps 1 and 2: the unit quiesced and resetting. -/
def Dev.quiesce (d : Dev) (i : Nat) : Dev :=
  let d1 := if i = 52 then d.crownClear else d
  let d2 := match domainUnit i with | none => d1 | some u => d1.setResetting u true
  let d3 :=
    if i = 13 then d2.onBlk .a0 fun b => { b with resetting := true, wait := .run }
    else if i = 28 then d2.onBlk .a1 fun b => { b with resetting := true, wait := .run }
    else d2
  (d3.onPw fun p => { p with turningOff := p.turningOff ++ [(i, false)] }).setF Reg.PDM_STATUS_BUSY 1

/-- What is lost with the power of a domain. -/
def Dev.losePower (d : Dev) (i : Nat) : Dev :=
  let d1 := (d.setDomOn i false).setDomLow i false
  if (i = 50 ∨ i = 51) ∧ !d1.domOn 50 ∧ !d1.domOn 51 then (d1.setF Reg.DMC_FENCE_MIB 0).setF Reg.DMC_FENCE_DONE 0
  else if i = 12 then (d1.setF Reg.TNL_STATUS_LAUNCH_UP 0).setF Reg.TNL_STATUS_CTL_UP 0
  else if i = 27 then (d1.setF (Reg.TNL_STATUS_LAUNCH_UP.on .a1) 0).setF (Reg.TNL_STATUS_CTL_UP.on .a1) 0
  else d1

/-- Steps 3 and 4, and the count of a turn-off that a request met. -/
def Dev.powerOff (d : Dev) (i : Nat) : Dev :=
  match d.pw.turningOff.find? fun x => decide (x.1 = i) with
  | none => d
  | some x =>
    let d1 := (d.losePower i).onPw fun p => { p with turningOff := p.turningOff.filter fun y => decide (y.1 ≠ i) }
    let d2 := d1.setF Reg.PDM_STATUS_BUSY (flag (!d1.pw.turningOff.isEmpty))
    if x.2 then d2.bumpF Reg.PDM_CNT_REWAKE 1 else d2

/-- DOMAIN_OFF (R524): up to step 2, or, with `done`, through steps 3 and 4. A wanted domain that its state has in low
mode enters it. -/
def Dev.domainOff (d : Dev) (i : Nat) (done : Bool) : Dev :=
  if 80 ≤ i ∨ !d.domOn i then d
  else if d.pw.turningOff.any fun x => decide (x.1 = i) then (if done then d.powerOff i else d)
  else if d.wantOn i then
    (if d.psLow d.host.ps i ∧ hasLow i ∧ !d.unitHeld i then d.setDomLow i true else d)
  else if d.domQuiet i ∧ d.dependentsOff i then
    (if done then (d.quiesce i).powerOff i else d.quiesce i)
  else d

def execDomainOff (dom : Nat) (done : Bool) (s : State) : Host.Outcome State Fault Refusal :=
  s.next (s.dev.domainOff dom done)

/-! ### Turning on (R524) -/

/-- A Blocker that held an image comes up with it (R57, R584). -/
def Dev.wakeBlocker (d : Dev) (a : Act) : Dev :=
  if (d.blk.get a).loaded then (d.replayBlocker a).blockerFresh a (d.imageOf a)
  else d

/-- A Blocker that has held no image is held in reset until one is written (R122). -/
def Dev.heldBlank (d : Dev) (u : UnitId) : Bool :=
  match u with
  | .block (.blk a) => !(d.blk.get a).loaded
  | _ => false

/-- The sweep and the committed values of a domain's unit, and its ready notice. -/
def Dev.domainUp (d : Dev) (i : Nat) (o : Training) : Dev :=
  let d1 := ((d.setDomOn i true).setDomLow i false).bumpF Reg.PDM_CNT_WAKES 1
  let d2 :=
    if 34 ≤ i ∧ i ≤ 49 then d1.onMem fun m => m.sweepBank (i - 34)
    else match i with
      | 12 => d1.train .a0 o
      | 27 => d1.train .a1 o
      | 13 => d1.wakeBlocker .a0
      | 28 => d1.wakeBlocker .a1
      | 52 => d1.crownClear
      | _ => d1
  match domainUnit i with
  | none => d2
  | some u => if d2.heldBlank u then d2.setResetting u false else (d2.incGen u).readyUnit u

/-- DOMAIN_ON (R524): a wanted domain whose dependencies are on; `train` is what a link's training observes. -/
def Dev.domainOn (d : Dev) (i : Nat) (train : Training) : Dev :=
  if i < 80 ∧ !d.domOn i ∧ d.wantOn i ∧ d.depsOn i then d.domainUp i train else d

def execDomainOn (dom : Nat) (train : Training) (s : State) : Host.Outcome State Fault Refusal :=
  s.next (s.dev.domainOn dom train)

/-- Several wanted domains in order, at start-up. -/
def Dev.domainsUp (d : Dev) (train : Training) (l : List Nat) : Dev := l.foldl (fun d i => d.domainOn i train) d

/-! ### Power states (R432, R433) -/

/-- Heads that are neither on the ramp nor latched by a retract. -/
def Dev.headsOff (d : Dev) : Bool :=
  [Act.a0, Act.a1].all fun a => !d.hasAct a || decide (d.loadState a = 0 ∨ d.loadState a = 4)

/-- Loaded or loading heads unload. -/
def Dev.unloadAll (d : Dev) : Dev :=
  let one (d : Dev) (a : Act) : Dev := if d.hasAct a && decide (d.loadState a = 1 ∨ d.loadState a = 2) then d.unload a else d
  one (one d .a0) .a1

/-- Heads on the ramp load where they may. -/
def Dev.loadAll (d : Dev) : Dev :=
  let one (d : Dev) (a : Act) : Dev := if d.hasAct a && d.mayLoad a then d.startLoad a else d
  one (one d .a0) .a1

/-- The spindle follows the state's speed (R309). -/
def Dev.spindleFollows (d : Dev) : Dev :=
  let d1 := d.showTarget
  if d1.f Reg.SPN_CTL_RUN = 0 then d1
  else if d1.targetSpeed = 0 then
    (if d1.spnState = 0 ∨ d1.spnState = 8 then d1.onSpn fun s => { s with wanted := false } else (d1.driveOff 8).armEdge)
  else d1.tryStart

/-- State n in force. -/
def Dev.enterPs (d : Dev) (n : Nat) : Dev :=
  let d1 := (d.onHost fun h => { h with ps := n, psNext := none }).onPw fun p => { p with entering := false, reversing := false }
  let d2 := (d1.setF Reg.PDM_STATUS_STATE n).setF Reg.PDM_STATUS_TARGET n
  let d3 := (List.range 80).foldl (fun (d : Dev) i => if d.psLow n i then d else d.setDomLow i false) d2
  let d4 := if n = 4 then d3.flushPartials.spindleFollows else d3.spindleFollows
  if n ≤ 1 ∧ d4.bootStep = 11 then d4.loadAll else d4

/-- The entry into a lower state begins: the Blockers are told (R115), and the heads unload for PS2 to PS4. -/
def Dev.beginEntry (d : Dev) (n : Nat) : Dev :=
  let d1 := (d.onPw fun p => { p with entering := true, reversing := false }).setF Reg.PDM_STATUS_TARGET n
  let d2 := if d1.hasAct .a1 then (d1.raiseEvt .a0 6).raiseEvt .a1 6 else d1.raiseEvt .a0 6
  if 2 ≤ n then d2.unloadAll else d2

/-- Both Blockers report idle. -/
def Dev.allIdle (d : Dev) : Bool := d.blkIdle .a0 && d.blkIdle .a1

/-- The entry has reached its safe point (R433). -/
def Dev.safePoint (d : Dev) (n : Nat) : Bool :=
  match n with
  | 1 => d.allIdle
  | 2 => d.headsOff
  | _ => true

/-- The entry can take effect: idle, unloaded, and for PS4 with all dirty data on the media (R432). -/
def Dev.entryDone (d : Dev) (n : Nat) : Bool :=
  d.allIdle && (decide (n < 2) || d.headsOff) && (decide (n ≠ 4) || decide (d.dirtyLeft = 0))

/-- The heads follow the state in force: unloaded in PS2 to PS4 but for commands that need them. -/
def Dev.headsFollow (d : Dev) : Dev :=
  if d.bootStep ≠ 11 then d
  else if d.host.ps ≤ 1 ∨ (d.host.ps ≤ 3 ∧ !d.host.cmds.isEmpty) then d.loadAll
  else if d.allIdle then d.unloadAll
  else d

/-- POWER_STATE_TRANSITION: the next step of a state change (R433); `step` is a commutation step edge. -/
def Dev.powerTransition (d : Dev) : Dev :=
  match d.host.psNext with
  | none => d.headsFollow
  | some n =>
    if d.pw.entering then
      if d.pw.reversing then (if d.safePoint n then d.enterPs d.host.ps else d)
      else if d.entryDone n then d.enterPs n
      else d
    else if n ≤ d.host.ps then d.enterPs n
    else if d.host.cmds.isEmpty then d.beginEntry n
    else d

def execPowerStateTransition (s : State) : Host.Outcome State Fault Refusal := s.next s.dev.powerTransition

/-- A change of what the controllers have set asks for a state change; a thermal hold keeps PS4 (R432, R527). -/
def Dev.askState (d : Dev) : Dev :=
  if d.f Reg.PDM_THERM_STATUS_HOLD = 1 then d
  else if d.psWanted = d.host.ps then
    (if d.pw.entering then d.onPw fun p => { p with reversing := true } else d.onHost fun h => { h with psNext := none })
  else if d.pw.entering then
    (if d.host.psNext = some d.psWanted then d else d.onPw fun p => { p with reversing := true })
  else d.onHost fun h => { h with psNext := some d.psWanted }

/-! ### Thermal sensing (R525 to R527) -/

/-- Warn, throttle and shutdown limits of a sensor, in 0.25 °C (Table 22.3). -/
def Dev.tempLimit (d : Dev) (t level : Nat) : Int :=
  let c : Nat × Nat × Nat :=
    match t with
    | 0 => (95, 105, 115)
    | 1 => (95, 105, 115)
    | 2 => (85, 95, 105)
    | 3 => (115, 125, 140)
    | _ => (d.f Reg.PDM_THERM_CFG_WARN, d.f Reg.PDM_THERM_CFG_CRIT, d.f Reg.PDM_THERM_CFG_SHUT)
  4 * (match level with | 1 => (c.1 : Int) | 2 => c.2.1 | _ => c.2.2)

def Dev.temp (d : Dev) (t : Nat) : Int := signed 16 (d.f (Reg.PDM_TEMP_TEMP.nth t))

/-- A temperature in K, as NVMe reports it. -/
def kelvin (quarter : Int) : Int := quarter / 4 + 273

/-- The level that a sensor calls for. -/
def Dev.levelOf (d : Dev) (t : Nat) : Nat :=
  if d.tempLimit t 3 ≤ d.temp t then 3 else if d.tempLimit t 2 ≤ d.temp t then 2 else if d.tempLimit t 1 ≤ d.temp t then 1 else 0

/-- The sensor behind selector 0 (composite, TS4) to 5 of the Temperature Threshold feature. -/
def thresholdSensor (sel : Nat) : Nat := if sel = 0 then 4 else sel - 1

/-- The threshold in force, in K (R526). -/
def Dev.threshold (d : Dev) (sel : Nat) (under : Bool) : Int :=
  match sget 0 d.host.feats (0x400 + 2 * sel + flag under) with
  | 0 => if under then 0 else kelvin (d.tempLimit (thresholdSensor sel) 1)
  | v + 1 => v

/-- SMART critical warning bit 1 holds (R526). -/
def Dev.tempWarns (d : Dev) : Bool :=
  decide (2 ≤ d.throttle) || (List.range 6).any fun sel =>
    let k := kelvin (d.temp (thresholdSensor sel))
    decide (d.threshold sel false ≤ k) || decide (k ≤ d.threshold sel true)

/-- The warning shown, its first setting in an episode reported. -/
def Dev.showWarning (d : Dev) : Dev :=
  let w := d.tempWarns
  let d1 := d.onPw fun p => { p with tempWarning := w }
  if w && !d.pw.tempWarning then d1.raiseAll .temperature else d1

/-- A change of level (R527), with its event. -/
def Dev.setLevel (d : Dev) (n : Nat) : Dev :=
  ((d.setF Reg.PDM_THERM_STATUS_LEVEL n).event Ev.other .pdm 0 0).onPw fun p => { p with coolTicks := 0 }

/-- The thermal hold begins: the heads unload and the PS4 set is entered once the dirty data is on the media. -/
def Dev.beginHold (d : Dev) : Dev :=
  if d.f Reg.PDM_THERM_STATUS_HOLD = 1 then d
  else
    let d1 := (d.setF Reg.PDM_THERM_STATUS_HOLD 1).bumpF Reg.PDM_THERM_CNT_HOLDS 1
    (d1.onHost fun h => { h with psNext := some 4 }).beginEntry 4

/-- The level rises at once to the highest that a sensor calls for. -/
def Dev.raiseLevel (d : Dev) : Dev :=
  let n := (List.range 5).foldl (fun m t => Nat.max m (d.levelOf t)) 0
  if n ≤ d.throttle then d
  else
    let d1 := d.setLevel n
    if n = 3 then d1.beginHold else d1.bumpF Reg.PDM_THERM_CNT_THROTTLE 1

/-- THERMAL_SAMPLE (R525): the five temperatures in 0.25 °C. -/
def Dev.thermalSample (d : Dev) (temps : List Int) : Dev :=
  let d1 := (List.range 5).foldl (fun (d : Dev) t => d.setF (Reg.PDM_TEMP_TEMP.nth t) (unsigned 16 (temps.getD t 0))) d
  let hot := (List.range 5).foldl (fun m t => m + flag (decide (d1.tempLimit t 1 ≤ d1.temp t)) * 2 ^ t) 0
  let d2 := (d1.setF Reg.PDM_THERM_STATUS_HOT hot).raiseLevel
  let cool := (List.range 5).all fun t => decide (d2.temp t ≤ d2.tempLimit t d2.throttle - 20)
  let d3 := d2.onPw fun p => { p with
    coolTicks := if cool && decide (d2.throttle ≠ 0) then p.coolTicks + 1 else 0
    warnTicks := if hot = 0 then p.warnTicks + 1 else 0 }
  (if d3.src = 0 then { d3 with clock := { d3.clock with nowNs := d3.clock.nowNs + 10000000 } } else d3).showWarning

def execThermalSample (t0 t1 t2 t3 t4 : Int) (s : State) : Host.Outcome State Fault Refusal :=
  s.next ((s.dev.thermalSample [t0, t1, t2, t3, t4]).tryStart)

/-- THROTTLE_LEVEL_FALL (R527): after 10 s at least 5 °C below the limit of the current level. -/
def Dev.levelFall (d : Dev) : Dev :=
  if d.throttle ≠ 0 ∧ 1000 ≤ d.pw.coolTicks then (d.setLevel (d.throttle - 1)).showWarning else d

def execThrottleLevelFall (s : State) : Host.Outcome State Fault Refusal := s.next s.dev.levelFall

/-- THERMAL_HOLD_END (R527): after 60 s with every sensor below its Warn limit, the device leaves PS4. -/
def Dev.holdEnd (d : Dev) : Dev :=
  if d.f Reg.PDM_THERM_STATUS_HOLD = 1 ∧ 6000 ≤ d.pw.warnTicks then
    (((d.setF Reg.PDM_THERM_STATUS_HOLD 0).onPw fun p => { p with entering := false, reversing := false }).onHost fun h =>
      { h with psNext := some d.psWanted })
  else d

def execThermalHoldEnd (s : State) : Host.Outcome State Fault Refusal := s.next s.dev.holdEnd.powerTransition

end Sys2Proof.Machine
end

