-- ==== Sys2Proof/Machine/Flash.lean ====
section
/-! DEFINITION. The embedded flash (R473 to R481): code words, the command sequence, programs and erases with their
suspension, and reads, which a busy bank answers as a bus fault. -/

namespace Sys2Proof.Machine

def Dev.onNv (d : Dev) (g : NvDie → NvDie) : Dev := { d with nv := g d.nv }

/-- A field of bank b's registers. -/
def flF (x : Fld) (b : Nat) : Fld := { x with addr := x.addr + 0x100 * b }

def Dev.onBank (d : Dev) (b : Nat) (g : FlashBank → FlashBank) : Dev :=
  d.onNv fun n => { n with bank := n.bank.set b (g (n.bank.get b)) }

def Dev.flOp (d : Dev) (b : Nat) : Nat := d.f (flF Reg.NVC_FL_STATUS_OP b)
def Dev.setFlOp (d : Dev) (b v : Nat) : Dev := d.setF (flF Reg.NVC_FL_STATUS_OP b) v

/-- ERR holds the first error since the last CLEAR (R477). -/
def Dev.flErr (d : Dev) (b e : Nat) : Dev :=
  let x := flF Reg.NVC_FL_STATUS_ERR b
  if d.f x = 0 then d.setF x e else d

/-! ### Code words (R474) -/

def erasedWord : BitVec 266 := BitVec.allOnes 266

/-- 32 bytes with their check bits. -/
def flashWord (bytes : List Byte) : BitVec 266 :=
  let v := natOfBytes bytes % 2 ^ 256
  BitVec.ofNat 266 (v + 2 ^ 256 * checkBits 9 256 v)

/-- The sector of a code word, as 256 × bank + sector. -/
def sectorOf (idx : Nat) : Nat := idx / 2048

/-- A code word as stored; in a sector whose content is undefined, a free value. -/
def Dev.rawFlash (d : Dev) (idx : Nat) : BitVec 266 × Dev :=
  if d.nv.undef.any fun s => decide (s = sectorOf idx) then (BitVec.ofNat 266 (Config.freeNat d.free), d.tookFree)
  else (sget erasedWord d.nv.flash idx, d)

/-- A code word read (R474). -/
def Dev.readFlash (d : Dev) (idx : Nat) : List PByte × Dev :=
  let x := d.rawFlash idx
  let good (v : Nat) : List PByte := (bytesOfNat 32 v).map fun b => (b, false)
  if x.1 = erasedWord then (good (2 ^ 256 - 1), x.2)
  else
    let v := x.1.toNat % 2 ^ 256
    let o := eccDecode 9 256 v (x.1.toNat / 2 ^ 256)
    match o with
    | .clean => (good v, x.2)
    | .bad => ((bytesOfNat 32 v).map fun b => (b, true), x.2.bumpF Reg.NVC_FL_ECC_UE 1)
    | _ => (good (o.fix v), x.2.bumpF Reg.NVC_FL_ECC_CE 1)

def Dev.readFlashWords (d : Dev) (idx : Nat) : Nat → List PByte × Dev
  | 0 => ([], d)
  | n + 1 =>
    let x := d.readFlash idx
    let y := x.2.readFlashWords (idx + 1) n
    (x.1 ++ y.1, y.2)

/-- Consecutive flash bytes. -/
def Dev.readFlashBytes (d : Dev) (a n : Nat) : List PByte × Dev :=
  let x := d.readFlashWords (a / 32) ((a + n + 31) / 32 - a / 32)
  ((x.1.drop (a % 32)).take n, x.2)

/-- A read of this address is a bus fault (R478, R480). -/
def Dev.flashBusy (d : Dev) (a : Nat) : Bool :=
  let b := a / 2 ^ 24
  let op := d.flOp b
  decide (op = 1 ∨ op = 2 ∨ op = 4 ∨ (op = 3 ∧ d.f (flF Reg.NVC_FL_STATUS_SUSP_SECTOR b) = a / 2 ^ 16 % 256))

/-! ### Programs and erases (R477, R480, R481) -/

def Dev.nested (d : Dev) : Bool := decide (d.f Reg.NVC_FL_MODE_NESTED = 1)

/-- The end of a sequence: what it started, or nothing. -/
def Dev.endSeq (d : Dev) (b : Nat) : Dev := d.onBank b fun k => { k with step := 0, data := [] }

/-- An ERASE starts (R477, R480). -/
def Dev.startErase (d : Dev) (b : Nat) : Dev :=
  let sector := d.f (flF Reg.NVC_FL_ADDR_ADDR b) / 2 ^ 16 % 256
  if d.f (flF Reg.NVC_FL_STATUS_ERR b) ≠ 0 then d
  else if d.flOp b = 3 then d.flErr b 4
  else if d.flOp b ≠ 0 then d.flErr b 5
  else (d.setFlOp b 2).onBank b fun k => { k with target := sector, ran := true, holdSuspend := false, holdResume := false }

/-- A PROGRAM starts (R477, R480, R481). -/
def Dev.startProgram (d : Dev) (b : Nat) : Dev :=
  let a := d.f (flF Reg.NVC_FL_ADDR_ADDR b) % 2 ^ 24
  let idx := (2 ^ 24 * b + a) / 32
  let go (d : Dev) (op : Nat) : Dev :=
    let x := d.rawFlash idx
    if x.1 ≠ erasedWord then x.2.flErr b 2 else (x.2.setFlOp b op).onBank b fun k => { k with target := idx }
  if d.f (flF Reg.NVC_FL_STATUS_ERR b) ≠ 0 then d
  else if d.flOp b = 0 then go d 1
  else if d.flOp b = 3 then
    if d.nested && decide (d.f (flF Reg.NVC_FL_STATUS_SUSP_SECTOR b) ≠ a / 2 ^ 16) then go d 4 else d.flErr b 4
  else d.flErr b 5

/-- A suspension takes effect: the bank is readable outside the sector. -/
def Dev.suspend (d : Dev) (b : Nat) : Dev :=
  ((d.setFlOp b 3).setF (flF Reg.NVC_FL_STATUS_SUSP_SECTOR b) (d.nv.bank.get b).target).onBank b fun k =>
    { k with holdSuspend := false }

/-- An erase goes on from where it stopped; the sector is the bank's target again. -/
def Dev.resume (d : Dev) (b : Nat) : Dev :=
  let sector := d.f (flF Reg.NVC_FL_STATUS_SUSP_SECTOR b)
  ((d.setFlOp b 2).setF (flF Reg.NVC_FL_STATUS_SUSP_SECTOR b) 0).onBank b fun k =>
    { k with target := sector, ran := d.nested, holdResume := false }

/-- SUSPEND (R480, R481). -/
def Dev.flashSuspend (d : Dev) (b : Nat) : Dev :=
  if d.flOp b = 4 then d.flErr b 4
  else if d.flOp b ≠ 2 then d
  else if d.nested || (d.nv.bank.get b).ran then d.suspend b
  else d.onBank b fun k => { k with holdSuspend := true }

/-- RESUME (R480, R481). -/
def Dev.flashResume (d : Dev) (b : Nat) : Dev :=
  if d.flOp b = 3 then d.resume b
  else if d.flOp b = 4 then d.onBank b fun k => { k with holdResume := true }
  else d

/-- CLEAR. -/
def Dev.flashClear (d : Dev) (b : Nat) : Dev := d.setF (flF Reg.NVC_FL_STATUS_ERR b) 0

/-! ### The command sequence (R476) -/

/-- A write that is out of place within a sequence. -/
def Dev.seqError (d : Dev) (b : Nat) : Dev := (d.endSeq b).flErr b 1

def Dev.flashKey (d : Dev) (b : Nat) (w : Word) : Dev :=
  let st := (d.nv.bank.get b).step
  if st = 0 ∧ w = 0xA5#32 then d.onBank b fun k => { k with step := 1 }
  else if st = 1 ∧ w = 0x3C#32 then d.onBank b fun k => { k with step := 2 }
  else d.seqError b

def Dev.flashCmd (d : Dev) (b : Nat) (w : Word) : Dev :=
  let st := (d.nv.bank.get b).step
  let c := bits w 7 0
  if st = 2 ∧ (c = 0x10 ∨ c = 0x20) then d.onBank b fun k => { k with step := 3, cmd := c }
  else if st ≠ 0 then d.seqError b
  else if c = 0x30 then d.flashSuspend b
  else if c = 0x31 then d.flashResume b
  else if c = 0x40 then d.flashClear b
  else d

def Dev.flashAddr (d : Dev) (b : Nat) (w : Word) : Dev :=
  let st := (d.nv.bank.get b).step
  let d1 := d.setF (flF Reg.NVC_FL_ADDR_ADDR b) (bits w 24 0)
  if st = 0 then d1
  else if st = 3 then
    if (d.nv.bank.get b).cmd = 0x20 then (d1.endSeq b).startErase b else d1.onBank b fun k => { k with step := 4 }
  else d1.seqError b

def Dev.flashData (d : Dev) (b i : Nat) (w : Word) : Dev :=
  let st := (d.nv.bank.get b).step
  if st = 0 then d
  else if st = 4 + i then
    let d1 := d.onBank b fun k => { k with step := k.step + 1, data := k.data ++ [w] }
    if i = 7 then (d1.onBank b fun k => { k with step := 0 }).startProgram b else d1
  else d.seqError b

/-- A register-window write to a bank, honoured in safe mode alone (R479). -/
def Dev.flashWrite (d : Dev) (b off : Nat) (w : Word) : Dev :=
  if !d.safe then d.ignoredWrite (0x600000 + 0x100 * b + off)
  else if off = 0x04 then d.flashKey b w
  else if off = 0x08 then d.flashCmd b w
  else if off = 0x0C then d.flashAddr b w
  else if 0x10 ≤ off ∧ off < 0x30 then d.flashData b ((off - 0x10) / 4) w
  else d

/-- FLASH_KEY (R476). -/
def execFlashKey (bank : Nat) (w : Word) (s : State) : Host.Outcome State Fault Refusal :=
  s.next (if bank < 2 then s.dev.flashWrite bank 0x04 w else s.dev)

/-- FLASH_PROGRAM (R477): the write of DATA_7. -/
def execFlashProgram (bank : Nat) (w : Word) (s : State) : Host.Outcome State Fault Refusal :=
  s.next (if bank < 2 then s.dev.flashWrite bank 0x2C w else s.dev)

/-- FLASH_ERASE (R477): the write of ADDR. -/
def execFlashErase (bank : Nat) (w : Word) (s : State) : Host.Outcome State Fault Refusal :=
  s.next (if bank < 2 then s.dev.flashWrite bank 0x0C w else s.dev)

/-- FLASH_SUSPEND, FLASH_RESUME and FLASH_CLEAR (R476, R480): single writes of CMD. -/
def execFlashSuspend (bank : Nat) (s : State) : Host.Outcome State Fault Refusal :=
  s.next (if bank < 2 then s.dev.flashWrite bank 0x08 0x30 else s.dev)
def execFlashResume (bank : Nat) (s : State) : Host.Outcome State Fault Refusal :=
  s.next (if bank < 2 then s.dev.flashWrite bank 0x08 0x31 else s.dev)
def execFlashClear (bank : Nat) (s : State) : Host.Outcome State Fault Refusal :=
  s.next (if bank < 2 then s.dev.flashWrite bank 0x08 0x40 else s.dev)

/-! ### Ends of operations -/

def NvDie.setWord (n : NvDie) (idx : Nat) (w : BitVec 266) : NvDie := { n with flash := sset erasedWord n.flash idx w }

/-- Every word of a sector erased. -/
def NvDie.eraseSector (n : NvDie) (sector : Nat) : NvDie :=
  { n with flash := n.flash.filter (fun p => decide (sectorOf p.1 ≠ sector)), undef := n.undef.filter fun s => decide (s ≠ sector) }

/-- A sector whose content is undefined. -/
def NvDie.spoilSector (n : NvDie) (sector : Nat) : NvDie :=
  { n.eraseSector sector with undef := sector :: n.undef.filter fun s => decide (s ≠ sector) }

/-- PROGRAM_DONE (R477): the word is read back; a word that does not verify holds a free value. -/
def Dev.programDone (d : Dev) (b : Nat) (ok : Bool) : Dev :=
  let op := d.flOp b
  if op ≠ 1 ∧ op ≠ 4 then d
  else
    let k := d.nv.bank.get b
    let w := if ok then flashWord (k.data.flatMap fun x => bytesOfNat 4 x.toNat) else BitVec.ofNat 266 (Config.freeNat d.free)
    let d1 := (if ok then d else d.tookFree.flErr b 3).onNv fun n => n.setWord k.target w
    let d2 := (d1.setFlOp b (if op = 4 then 3 else 0)).onBank b fun k => { k with data := [] }
    if op = 4 ∧ k.holdResume then d2.resume b else d2

def execProgramDone (bank : Nat) (ok : Bool) (s : State) : Host.Outcome State Fault Refusal :=
  s.next (if bank < 2 then s.dev.programDone bank ok else s.dev)

/-- ERASE_DONE (R477): every word of the sector is verified. -/
def Dev.eraseDone (d : Dev) (b : Nat) (ok : Bool) : Dev :=
  if d.flOp b ≠ 2 then d
  else
    let sector := 256 * b + (d.nv.bank.get b).target
    let d1 := (d.setFlOp b 0).onBank b fun k => { k with holdSuspend := false, ran := true }
    if ok then d1.onNv fun n => n.eraseSector sector else (d1.flErr b 3).onNv fun n => n.spoilSector sector

def execEraseDone (bank : Nat) (ok : Bool) (s : State) : Host.Outcome State Fault Refusal :=
  s.next (if bank < 2 then s.dev.eraseDone bank ok else s.dev)

/-- SUSPEND_HOLD_RELEASE (R481): the erase has run 1 ms since its RESUME. -/
def Dev.suspendRelease (d : Dev) (b : Nat) : Dev :=
  if d.flOp b ≠ 2 then d
  else
    let d1 := d.onBank b fun k => { k with ran := true }
    if (d.nv.bank.get b).holdSuspend then d1.suspend b else d1

def execSuspendHoldRelease (bank : Nat) (s : State) : Host.Outcome State Fault Refusal :=
  s.next (if bank < 2 then s.dev.suspendRelease bank else s.dev)

/-- A bus fault of a flash read (R478). -/
def Dev.flashFault (d : Dev) (a : Nat) : Dev :=
  let d1 := if d.f Reg.NVC_FL_FAULT_VALID = 1 then d
    else (d.setF Reg.NVC_FL_FAULT_VALID 1).setF Reg.NVC_FL_FAULT_ADDR a
  d1.event Ev.flashBusFault .nvc a 0

/-- FLASH_BUS_FAULT (R478): a fabric read of flash by a management core, or by another reader. Outside a busy bank or
suspended sector it is served. -/
def Dev.fabricFlashRead (d : Dev) (core : Option (Fin 4)) (a : Nat) : Dev :=
  if d.flashBusy a then
    let d1 := d.flashFault a
    match core with
    | some n => d1.reportFault (.core n) 3
    | none => d1
  else (d.readFlash (a / 32)).2

def execFlashBusFault (core : Option (Fin 4)) (addr : Nat) (s : State) : Host.Outcome State Fault Refusal :=
  s.next (if addr < 2 ^ 25 then s.dev.fabricFlashRead core addr else s.dev)

end Sys2Proof.Machine
end

