-- ==== Sys2Proof/Machine/Slots.lean ====
section
/-! DEFINITION. Image slots, the boot record, erase tickets and the option area (R475, R482 to R489). -/

namespace Sys2Proof.Machine

/-! ### Erase tickets (R488) -/

/-- Word 0 of a ticket (Table 19.6). -/
def Ticket.word (t : Ticket) : Word :=
  BitVec.ofNat 32 (t.op * 2 ^ 28 + t.phase * 2 ^ 26 + t.bank * 2 ^ 25 + t.copy * 2 ^ 24 + t.first * 2 ^ 16 +
    t.count * 2 ^ 8 + t.done)

def Dev.ticket (d : Dev) (t : Nat) : Ticket := sget Ticket.closed d.nv.tickets t

/-- A ticket written, with its word shown. -/
def Dev.setTicket (d : Dev) (t : Nat) (k : Ticket) : Dev :=
  (d.onNv fun n => { n with tickets := sset Ticket.closed n.tickets t k }).setReg (Reg.NVC_TICKET + 4 * t) k.word

/-! ### Images in slots (R475, R484, R485) -/

/-- The first sector and the number of sectors of a slot (Table 19.1). -/
def slotFirst (fw : Bool) : Nat := if fw then 0 else 192
def slotSectors (fw : Bool) : Nat := if fw then 192 else 48

/-- The flash byte address of a slot: slot 0 in bank 0, slot 1 in bank 1. -/
def slotBase (fw : Bool) (slot : Nat) : Nat := slot * 2 ^ 24 + slotFirst fw * 2 ^ 16

/-- The image header (Table 19.4). -/
structure ImageHeader where
  magic : Nat
  version : Nat
  rollback : Nat
  key : Nat
  mirrorMin : Nat
  mirrorVer : Nat
  clen : Nat
  ulen : Nat
  hcrcGood : Bool
deriving DecidableEq, Repr

def byteAt (bs : List Byte) (i : Nat) : Nat := (bs.getD i 0).toNat

def ImageHeader.ofBytes (bs : List Byte) : ImageHeader :=
  { magic := wordAt bs 0, version := wordAt bs 4, rollback := wordAt bs 8, key := byteAt bs 12,
    mirrorMin := byteAt bs 13, mirrorVer := byteAt bs 14, clen := wordAt bs 16, ulen := wordAt bs 20,
    hcrcGood := decide (crc32 (bs.take 156) = wordAt bs 156) }

/-- A field of the option words in force (R482). -/
def Dev.opt (d : Dev) (w hi lo : Nat) : Nat := bits (sget 0 d.nv.option w) hi lo

/-- The check of R485 that fails, as an MPI status (R469): 0x0A for the header, 0x09 for the key, signature or rollback;
0 when all hold but the decompression. `sig` says whether SIG verifies. -/
def Dev.headerFault (d : Dev) (fw sig : Bool) (h : ImageHeader) : Nat :=
  if h.magic ≠ (if fw then 0x4B480001 else 0x4B480002) ∨ !h.hcrcGood then 0x0A
  else if 3 < h.key ∨ testBit (d.opt 5 7 4) h.key ∨ !sig then 0x09
  else if fw ∧ h.rollback < d.opt 6 31 0 then 0x09
  else 0

/-- An image's decompressed contents. -/
def imageBody (bs : List Byte) : Option (List Byte) :=
  let h := ImageHeader.ofBytes bs
  if bs.length < 256 + h.clen then none else fullerDecode ((bs.drop 256).take h.clen) h.ulen

/-- All the checks of R485 on an image held as bytes. -/
def Dev.imageFault (d : Dev) (fw sig : Bool) (bs : List Byte) : Nat :=
  let e := d.headerFault fw sig (ImageHeader.ofBytes bs)
  if bs.length < 256 then 0x0A
  else if e ≠ 0 then e
  else if (imageBody bs).isNone then 0x0A else 0

/-- The stream after a header, unless the header already says that nothing can be delivered. -/
def slotImageIf (bad : Bool) (addr n : Nat) (r : List PByte × Dev) : Option (List Byte) × Dev :=
  if bad then (none, r.2)
  else
    let x := r.2.readFlashBytes addr n
    (if x.1.any Prod.snd then none else some (r.1.map Prod.fst ++ x.1.map Prod.fst), x.2)

/-- Whether a header delivers no image: a byte of it is poisoned, or its stream does not fit its slot. -/
def slotBad (fw : Bool) (hd : List PByte) (n : Nat) : Bool :=
  hd.any Prod.snd || decide (slotSectors fw * 2 ^ 16 < 256 + n)

/-- The image whose header was read: header and stream; none when a byte is poisoned or the image does not fit. -/
def slotImageOf (fw : Bool) (slot : Nat) (r : List PByte × Dev) : Option (List Byte) × Dev :=
  let n := (ImageHeader.ofBytes (r.1.map Prod.fst)).clen
  slotImageIf (slotBad fw r.1 n) (slotBase fw slot + 256) n r

/-- The bytes of a slot's image as flash delivers them. -/
def Dev.slotImage (d : Dev) (fw : Bool) (slot : Nat) : Option (List Byte) × Dev :=
  slotImageOf fw slot (d.readFlashBytes (slotBase fw slot) 256)

/-- R485 on the bytes that a slot delivers. -/
def slotFaultOf (fw sig : Bool) (r : Option (List Byte) × Dev) : Nat × Dev :=
  match r.1 with
  | none => (0x0A, r.2)
  | some bs => (r.2.imageFault fw sig bs, r.2)

/-- Whether a slot's image passes R485. -/
def Dev.slotFault (d : Dev) (fw sig : Bool) (slot : Nat) : Nat × Dev := slotFaultOf fw sig (d.slotImage fw slot)

/-- The sectors of a slot from one on, erased. -/
def NvDie.eraseSectors (n : NvDie) (first : Nat) : Nat → NvDie
  | 0 => n
  | k + 1 => (n.eraseSector first).eraseSectors (first + 1) k

/-- Bytes programmed as code words from an aligned address, the last word filled up with 0xFF. -/
def NvDie.programBytes (n : NvDie) (addr : Nat) : Nat → List Byte → NvDie
  | 0, _ => n
  | _, [] => n
  | k + 1, bs =>
    let w := bs.take 32
    (n.setWord (addr / 32) (flashWord (w ++ List.replicate (32 - w.length) 0xFF))).programBytes (addr + 32) k (bs.drop 32)

/-- An image stored into its slot under a ticket (R484, R488): erased in ascending order, the stream, then the header. A
store that is cut leaves its ticket open, and the sector or word in hand undefined. -/
def Dev.storeImage (d : Dev) (fw : Bool) (slot : Nat) (bs : List Byte) (e : StoreEnd) : Dev :=
  let first := slotFirst fw
  let count := slotSectors fw
  let t : Ticket := { op := if fw then 2 else 3, phase := 0, bank := slot, copy := 0, first := first, count := count, done := 0 }
  let s0 := 256 * slot + first
  let stream := bs.drop 256
  let words := (stream.length + 31) / 32
  match e with
  | .done => (d.onNv fun n =>
      ((n.eraseSectors s0 count).programBytes (slotBase fw slot + 256) words stream).programBytes (slotBase fw slot) 8 bs).setTicket
      slot Ticket.closed
  | .erasing k =>
    let k := Nat.min k (count - 1)
    (d.onNv fun n => (n.eraseSectors s0 k).spoilSector (s0 + k)).setTicket slot { t with done := k }
  | .stream k => (d.onNv fun n => (n.eraseSectors s0 count).programBytes (slotBase fw slot + 256) (Nat.min k words) stream).setTicket
      slot { t with phase := 1, done := count }
  | .header k => (d.onNv fun n =>
      ((n.eraseSectors s0 count).programBytes (slotBase fw slot + 256) words stream).programBytes (slotBase fw slot) (Nat.min k 7) bs).setTicket
      slot { t with phase := 2, done := count }

/-! ### The boot record (R486) -/

/-- The boot record written, with NVC_BOOT's copies of it. -/
def Dev.setBoot (d : Dev) (b : BootRec) : Dev :=
  (((({ d with nv := { d.nv with boot := b } }.setF Reg.NVC_BOOT_TRIES b.tries).setF Reg.NVC_BOOT_PENDING b.pending).setF
    Reg.NVC_BOOT_ACTIVE b.active).setF Reg.NVC_BOOT_PROF_SEL b.profSel)

/-- A slot made pending for the next reset. -/
def Dev.setPendingFw (d : Dev) (slot : Nat) : Dev := d.setBoot { d.nv.boot with pending := slot + 1, tries := d.opt 4 11 8 }

/-- A pending image that reaches CSTS.RDY = 1 (Table 19.5). -/
def Dev.fwReady (d : Dev) : Dev :=
  if d.nv.boot.pending = d.f Reg.NVC_BOOT_FW_BOOTED + 1 then
    d.setBoot { d.nv.boot with active := d.nv.boot.pending - 1, pending := 0 }
  else d

/-- The slot that the boot ROM chooses before it checks validity (R486), with the record's change and whether it fell
back. -/
def bootChoice (force : Nat) (b : BootRec) : Nat × BootRec × Bool :=
  if force = 1 ∨ force = 2 then (force - 1, b, false)
  else if b.pending = 0 then (b.active, b, false)
  else if b.tries = 0 then (b.active, { b with pending := 0 }, true)
  else (b.pending - 1, { b with tries := b.tries - 1 }, false)

/-! ### The option area (R482, R483) -/

/-- The words of a default option area (Table 19.3). -/
def optionDefault : List (Nat × Word) := sset 0 (sset 0 [] 4 0x100#32) 7 1152#32

/-- MAGIC, VERSION and CRC of a copy. -/
def optionSound (ws : List Word) : Bool :=
  decide (ws.length = 512) && decide (bits (ws.getD 0 0) 31 16 = 0x4B4F) && decide (bits (ws.getD 0 0) 15 8 = 1) &&
  decide ((ws.getD 511 0).toNat = crc32Words (ws.take 511))

/-- One port's byte of word 3: a rate of 0 to 2 and [7:4] 0. -/
def portByteOk (v : Nat) : Bool := decide (bits (BitVec.ofNat 32 v) 2 1 ≤ 2) && decide (v / 16 = 0)

/-- Reserved bits and field ranges of a copy. -/
def optionRanges (ws : List Word) : Bool :=
  let w (i : Nat) : Word := ws.getD i 0
  decide (bits (w 0) 7 0 = 0) && decide (bits (w 2) 31 17 = 0) &&
  portByteOk (bits (w 3) 7 0) && portByteOk (bits (w 3) 15 8) && decide (bits (w 3) 31 18 = 0) &&
  decide (bits (w 4) 1 0 ≤ 2) && decide (1 ≤ bits (w 4) 11 8) && decide (bits (w 4) 31 12 = 0) && decide (bits (w 4) 7 2 = 0) &&
  decide (bits (w 5) 3 1 = 0) && decide (1152 ≤ bits (w 7) 21 0 ∧ bits (w 7) 21 0 ≤ 30000) && decide (bits (w 7) 31 22 = 0) &&
  (List.range 503).all fun i => decide (w (8 + i) = 0)

/-- The copy to load: sound, with the higher SEQ. -/
def NvDie.bestCopy (n : NvDie) : Option Nat :=
  match optionSound n.copies.x, optionSound n.copies.y with
  | true, true => if (n.copies.x.getD 1 0).toNat < (n.copies.y.getD 1 0).toNat then some 1 else some 0
  | true, false => some 0
  | false, true => some 1
  | false, false => none

/-- PDM_ABSENT as the variant, the strap and the debug bit give it (R519). -/
def Dev.showAbsent (d : Dev) : Dev :=
  (List.range 3).foldl (fun (d : Dev) w =>
    d.setReg (Reg.PDM_ABSENT + 4 * w) (domainMask (fun i => decide (i < 80) && d.domainAbsent i) w)) d

/-- The option area loaded at reset (R482). -/
def Dev.loadOption (d : Dev) : Dev :=
  let d1 :=
    match d.nv.bestCopy with
    | some c =>
      let ws := d.nv.copies.get c
      ((((d.onNv fun n => { n with option := ssetList 0 [] 0 ws }).setF Reg.NVC_OPT_STATUS_DEFAULT 0).setF
        Reg.NVC_OPT_STATUS_COPY c).setF Reg.NVC_OPT_SEQ_SEQ (ws.getD 1 0).toNat)
    | none =>
      ((((d.onNv fun n => { n with option := optionDefault }).setF Reg.NVC_OPT_STATUS_DEFAULT 1).setF
        Reg.NVC_OPT_STATUS_COPY 0).setF Reg.NVC_OPT_SEQ_SEQ 0).event Ev.optionDefault .nvc 0 0
  ({ d1 with debug := decide (d1.opt 5 0 0 = 1) }.setF Reg.SYS_MPI_STATUS_BAUD_100 (d1.opt 7 21 0)).showAbsent

/-- OPTION_WRITE (R483): the status, and the copy that is not loaded erased, programmed and read back under a ticket. -/
def Dev.optionWrite (d : Dev) (ws : List Word) (e : StoreEnd) : Nat × Dev :=
  if !optionSound ws ∨ !optionRanges ws then (0x04, d)
  else
    let loaded := d.f Reg.NVC_OPT_STATUS_COPY
    let c := if d.f Reg.NVC_OPT_STATUS_DEFAULT = 1 then 0 else 1 - loaded
    let body := ((ws.take 511).set 1 (BitVec.ofNat 32 (d.f Reg.NVC_OPT_SEQ_SEQ + 1)))
    let copy := body ++ [BitVec.ofNat 32 (crc32Words body)]
    let t : Ticket := { op := 4, phase := 0, bank := 0, copy := c, first := 0, count := 1, done := 0 }
    match e with
    | .done => (0, (d.onNv fun n => { n with copies := n.copies.set c copy }).setTicket 2 Ticket.closed)
    | _ => (0, (d.onNv fun n => { n with copies := n.copies.set c [] }).setTicket 2 t)

/-! ### Open tickets at a reset (R489) -/

/-- One bank's open ticket handled, and rewritten as OP 1 over the sectors not yet known to be erased. -/
def Dev.handleTicket (d : Dev) (b : Nat) : Dev :=
  let t := d.ticket b
  let rewrite (d : Dev) (first count : Nat) : Dev :=
    d.setTicket b (if count = 0 then Ticket.closed
      else { op := 1, phase := 0, bank := b, copy := 0, first := first, count := count, done := 0 })
  if t.op = 0 ∨ 3 < t.op then d
  else if t.op = 1 ∨ t.phase = 0 then
    rewrite (d.onNv fun n => n.eraseSector (256 * b + t.first + t.done)) (t.first + t.done + 1) (t.count - t.done - 1)
  else if t.phase = 1 then rewrite d t.first t.count
  else rewrite (d.onNv fun n => n.eraseSector (256 * b + t.first)) (t.first + 1) (t.count - 1)

def Dev.handleTickets (d : Dev) : Dev :=
  let d1 := (d.handleTicket 0).handleTicket 1
  let t := d1.ticket 2
  if t.op = 4 then (d1.onNv fun n => { n with copies := n.copies.set t.copy [] }).setTicket 2 Ticket.closed else d1

/-- One sector of a background erase (R489), and the ticket closed after the last. -/
def Dev.backgroundErase (d : Dev) (b : Nat) : Dev :=
  let t := d.ticket b
  if t.op ≠ 1 ∨ d.flOp b ≠ 0 then d
  else
    let d1 := d.onNv fun n => n.eraseSector (256 * b + t.first + t.done)
    d1.setTicket b (if t.count ≤ t.done + 1 then Ticket.closed else { t with done := t.done + 1 })

end Sys2Proof.Machine
end

