-- ==== Sys2Proof/Machine/Queues.lean ====
section
/-! DEFINITION. Queues and controllers (R412, R413, R417, R419, R422, R423, R426, R427, R548): queue creation and
deletion, Abort, Asynchronous Event Request, Namespace Attachment, controller reset and shutdown. -/

namespace Sys2Proof.Machine

/-! ### Controllers -/

/-- I/O queues allocated to a controller (R417): 128 until the feature sets fewer. -/
def Ctrl.queues (c : Ctrl) : Nat := match sget 0 c.feats 0x07 with | 0 => 128 | n + 1 => n % 65536 + 1

/-- CSTS.RDY follows CC.EN once step 7 has ended (R548); a pending image that gets there is the active one (R486). -/
def Dev.checkReady (d : Dev) (p : Port) : Dev :=
  if d.hasPort p ∧ d.host.mayReady ∧ (d.ctrl p).en ∧ (d.ctrl p).link ∧ !(d.ctrl p).rdy then
    (d.onCtrl p fun c => { c with rdy := true }).fwReady
  else d

/-- CC_EN_SET (R548). -/
def execCcEnSet (p : Port) (s : State) : Host.Outcome State Fault Refusal :=
  s.next (if s.dev.hasPort p then (s.dev.onCtrl p fun c => { c with en := true }).checkReady p else s.dev)

/-- Every opened zone becomes Closed (R347), Empty where nothing was written. -/
def Dev.closeOpened (d : Dev) : Dev :=
  d.zq.zones.foldl (fun (d : Dev) p => if (d.zone p.1).isOpen then (d.closeZone p.1).2 else d) d

/-- The zoned writes of some commands that were never accepted leave their zones (R337, R423, R426). -/
def Dev.dropWrites (d : Dev) (gone : CmdId → Bool) : Dev :=
  d.zq.zones.foldl (fun (d : Dev) p =>
    if p.2.held.any (fun w => gone w.id) || p.2.waiting.any (fun w => gone w.id) then
      d.setZone p.1 { p.2 with
        held := p.2.held.filter fun w => !gone w.id, waiting := p.2.waiting.filter fun w => !gone w.id }
    else d) d

/-- The reads of some commands leave the Blockers and the ladder (R188, R585). -/
def Dev.withdrawReads (d : Dev) (gone : CmdId → Bool) : Dev :=
  let tags := (d.host.tags.filter fun p => match p.2 with
    | some t => !t.write && t.owner.any gone
    | none => false).map fun p => p.1
  let one (d : Dev) (a : Act) : Dev := if d.hasAct a then d.withdrawTags a tags else d
  if tags.isEmpty then d else one (one d .a0) .a1

/-- A path without the packets that commands of a port carried. -/
def MpiPath.without (x : MpiPath) (mine : CmdId → Bool) : MpiPath :=
  { x with wait := x.wait.map fun (w : MpiWait) => { w with cmd := if w.cmd.any mine then none else w.cmd }
           queue := x.queue.filter fun a => !a.cmd.any mine }

/-- A controller reset (R426): the port's commands end without a completion, its requests for the semaphore are
withdrawn, and a hold starts the abandonment timer (R445). -/
def Dev.resetCtrl (d : Dev) (p : Port) (link : Bool) : Dev :=
  let mine (id : CmdId) : Bool := decide (id.port = p)
  let d1 := (d.dropWrites mine).withdrawReads mine
  let d2 := d1.onHost fun h => { h with
    cmds := h.cmds.filter fun c => !mine c.id
    format := h.format.map fun f => { f with id := if f.id.any mine then none else f.id } }
  let d3 := ((d2.onCtrl p fun _ => Ctrl.fresh link).thawRecs (1 + p.idx)).semTimer (1 + p.idx)
  let d4 := { d3 with cpx := { d3.cpx with
    act := d3.cpx.act.map fun (v : Activation) => { v with id := if v.id.any mine then none else v.id } } }
  let d5 := { d4 with mpi := { d4.mpi with paths := d4.mpi.paths.map fun (q : Nat × MpiPath) => (q.1, q.2.without mine) } }
  (d5.closeOpened).askState.settle

/-- CONTROLLER_RESET (R426): CC.EN cleared, or the link lost by PERST# or a link-down. -/
def execControllerReset (p : Port) (linkLost : Bool) (s : State) : Host.Outcome State Fault Refusal :=
  s.next (if s.dev.hasPort p then s.dev.resetCtrl p ((s.dev.ctrl p).link && !linkLost) else s.dev)

/-- The dirty data is on the media: partial bolts made durable and a zone state image written (R427, R340). -/
def Dev.finishShutdown (d : Dev) (p : Port) : Dev :=
  if (d.ctrl p).shst = 1 ∧ d.dirtyLeft = 0 then (d.flushPartials.checkpoint).onCtrl p fun c => { c with shst := 2 } else d

/-- NORMAL_SHUTDOWN (R427). -/
def execNormalShutdown (p : Port) (s : State) : Host.Outcome State Fault Refusal :=
  s.next (if s.dev.fetches p then
    (s.dev.onCtrl p fun c => { c with stopped := true, shst := 1 }).finishShutdown p else s.dev)

/-- ABRUPT_SHUTDOWN (R427). -/
def execAbruptShutdown (p : Port) (s : State) : Host.Outcome State Fault Refusal :=
  s.next (if s.dev.fetches p then s.dev.onCtrl p fun c => { c with stopped := true, shst := 2 } else s.dev)

/-! ### Queues -/

/-- CREATE_IO_COMPLETION_QUEUE (R417): `size` in entries. -/
def Dev.createCq (d : Dev) (id : CmdId) (qid size : Nat) : Dev :=
  let c := d.ctrl id.port
  if qid = 0 ∨ c.queues < qid ∨ (c.cqs.any fun q => decide (q.id = qid)) then d.complete id .invalidQueueId 0
  else if size < 2 ∨ 4096 < size then d.complete id .invalidQueueSize 0
  else (d.onCtrl id.port fun c => { c with cqs := c.cqs ++ [{ id := qid, size := size }] }).complete id .success 0

def execCreateIoCompletionQueue (id : CmdId) (qid size : Nat) (s : State) : Host.Outcome State Fault Refusal :=
  s.next (s.dev.adminDo id fun d => d.createCq id qid size)

/-- CREATE_IO_SUBMISSION_QUEUE (R417, R419): `ordered` is Dword 12 bit 15. -/
def Dev.createSq (d : Dev) (id : CmdId) (qid size cq : Nat) (ordered : Bool) : Dev :=
  let c := d.ctrl id.port
  if !(c.cqs.any fun q => decide (q.id = cq)) then d.complete id .completionQueueInvalid 0
  else if qid = 0 ∨ c.queues < qid ∨ (c.sqs.any fun q => decide (q.id = qid)) then d.complete id .invalidQueueId 0
  else if size < 2 ∨ 4096 < size then d.complete id .invalidQueueSize 0
  else (d.onCtrl id.port fun c => { c with
    sqs := c.sqs ++ [{ id := qid, size := size, cq := cq, ordered := ordered }] }).complete id .success 0

def execCreateIoSubmissionQueue (id : CmdId) (qid size cq : Nat) (ordered : Bool) (s : State) :
    Host.Outcome State Fault Refusal :=
  s.next (s.dev.adminDo id fun d => d.createSq id qid size cq ordered)

/-- DELETE_IO_COMPLETION_QUEUE (R423). -/
def Dev.deleteCq (d : Dev) (id : CmdId) (qid : Nat) : Dev :=
  let c := d.ctrl id.port
  if !(c.cqs.any fun q => decide (q.id = qid)) then d.complete id .invalidQueueId 0
  else if c.sqs.any fun q => decide (q.cq = qid) then d.complete id .invalidQueueDeletion 0
  else (d.onCtrl id.port fun c => { c with cqs := c.cqs.filter fun q => decide (q.id ≠ qid) }).complete id .success 0

def execDeleteIoCompletionQueue (id : CmdId) (qid : Nat) (s : State) : Host.Outcome State Fault Refusal :=
  s.next (s.dev.adminDo id fun d => d.deleteCq id qid)

/-- DELETE_IO_SUBMISSION_QUEUE (R423): every command of the queue ends first with Command Aborted due to SQ Deletion;
blocks already accepted stay. -/
def Dev.deleteSq (d : Dev) (id : CmdId) (qid : Nat) : Dev :=
  let mine (x : CmdId) : Bool := decide (x.port = id.port ∧ x.sq = qid)
  if !((d.ctrl id.port).sqs.any fun q => decide (q.id = qid)) then d.complete id .invalidQueueId 0
  else
    let d1 := (d.dropWrites mine).withdrawReads mine
    let d2 := (d1.host.cmds.filter fun c => mine c.id).foldl (fun (d : Dev) c => d.complete c.id .abortedSqDeletion 0) d1
    ((d2.onCtrl id.port fun c => { c with sqs := c.sqs.filter fun q => decide (q.id ≠ qid) }).complete id .success 0).settle

def execDeleteIoSubmissionQueue (id : CmdId) (qid : Nat) (s : State) : Host.Outcome State Fault Refusal :=
  s.next (s.dev.adminDo id fun d => d.deleteSq id qid)

/-! ### Abort, Asynchronous Event Request, Namespace Attachment -/

/-- ABORT (R422): never aborted. Each Abort ends within its own step, so a fifth is never outstanding. -/
def execAbort (id : CmdId) (s : State) : Host.Outcome State Fault Refusal :=
  s.next (s.dev.adminDo id fun d => d.complete id .success 1)

/-- ASYNCHRONOUS_EVENT_REQUEST (Table 16.4): completed at once by a waiting event; a ninth outstanding is refused. -/
def Dev.asyncRequest (d : Dev) (id : CmdId) : Dev :=
  match (d.ctrl id.port).raised with
  | e :: es => (d.onCtrl id.port fun c => { c with raised := es }).complete id .success e.dw0
  | [] =>
    if 8 ≤ (d.ctrl id.port).aers.length then d.complete id .asyncLimit 0
    else d.onCtrl id.port fun c => { c with aers := c.aers ++ [id] }

def execAsynchronousEventRequest (id : CmdId) (s : State) : Host.Outcome State Fault Refusal :=
  s.next (s.dev.adminDo id fun d => d.asyncRequest id)

/-- An admin command that the Base specification does not allow while a sanitize runs or has failed (R429). -/
def Dev.sanGated (d : Dev) (id : CmdId) (g : Dev → Dev) : Dev :=
  if d.host.sanitize.isSome then d.complete id .sanitizeInProgress 0
  else if d.host.sanFailed then d.complete id .sanitizeFailed 0
  else g d

/-- NAMESPACE_ATTACHMENT (R413). -/
def execNamespaceAttachment (id : CmdId) (attach : Bool) (s : State) : Host.Outcome State Fault Refusal :=
  s.next (s.dev.adminDo id fun d => d.sanGated id fun d =>
    d.complete id (if attach then .namespaceAttached else .invalidField) 0)

end Sys2Proof.Machine
end

