-- ==== Sys2Proof/Machine/Logs.lean ====
section
/-! DEFINITION. Identify, log pages and features that need no semaphore (R412 to R417, R420, R421, R425, R516, R526,
Tables 16.3, 16.7 and 16.8). Data returned to a host is a list of named fields with their values. -/

namespace Sys2Proof.Machine

/-- A command's data returned and its completion posted. -/
def Dev.reply (d : Dev) (id : CmdId) (fs : List (String × Nat)) : Dev := (d.giveHost id (.fields fs)).complete id .success 0

/-! ### SMART (R425, Table 16.6) -/

/-- The vault is unhealthy (R425). -/
def Dev.vaultBad (d : Dev) : Bool :=
  decide (d.f Reg.PWR_VAULT_REASON_MRAM = 1 ∨ d.f Reg.PWR_VAULT_REASON_HOLD = 1) || d.host.unhealthy

/-- The places of heads: every head of every present actuator. -/
def Dev.heads (d : Dev) : List (Act × Nat) :=
  ([Act.a0, Act.a1].filter fun a => d.hasAct a).flatMap fun a => (List.range d.conf.nh).map fun h => (a, h)

/-- The critical warning byte. -/
def Dev.smart (d : Dev) : Nat :=
  flag (decide (10 * d.f Reg.ZQE_RESCUE_FREE < 1024)) + 2 * flag d.tempWarns +
  4 * flag (d.heads.any fun p => decide (d.f ((Reg.WAS_HH_WARN.nth p.2).on p.1) = 1 ∨ d.f ((Reg.WAS_HH_FAILED.nth p.2).on p.1) = 1)) +
  16 * flag d.vaultBad

/-- Composite temperature in K (R525). -/
def Dev.composite (d : Dev) : Nat := (kelvin (d.temp 4)).toNat

/-- Available Spare: the free fraction of the rescue region, percent. -/
def Dev.spare (d : Dev) : Nat := d.f Reg.ZQE_RESCUE_FREE * 100 / 1024

def Dev.smartLog (d : Dev) : List (String × Nat) :=
  [("CRITICAL_WARNING", d.smart), ("COMPOSITE_TEMPERATURE", d.composite), ("AVAILABLE_SPARE", d.spare),
   ("AVAILABLE_SPARE_THRESHOLD", 10), ("MEDIA_ERRORS", d.host.mediaErrors), ("UNSAFE_SHUTDOWNS", d.host.unsafeStops)] ++ (List.range 5).map fun t => ("TEMPERATURE_SENSOR", (kelvin (d.temp t)).toNat)

/-! ### The other log pages -/

/-- A firmware slot's version as its image's header gives it, 0 without a valid image. -/
def Dev.fwVersion (d : Dev) (slot : Nat) : Nat :=
  match (d.slotImage true slot).1 with
  | none => 0
  | some bs => if d.imageFault true true bs = 0 then (ImageHeader.ofBytes bs).version else 0

def Dev.fwSlotLog (d : Dev) : List (String × Nat) :=
  [("ACTIVE_SLOT", d.nv.boot.active + 1), ("NEXT_SLOT", d.nv.boot.pending), ("FALLBACK", d.f Reg.NVC_BOOT_FALLBACK),
   ("FRS1", d.fwVersion 0), ("FRS2", d.fwVersion 1)]

/-- The opcodes of Tables 16.4 and 16.5. -/
def effectsLog : List (String × Nat) :=
  ([0x00, 0x01, 0x02, 0x04, 0x05, 0x06, 0x08, 0x09, 0x0A, 0x0C, 0x10, 0x11, 0x15, 0x1D, 0x1E, 0x80, 0x84, 0xC1, 0xC2,
    0xC4, 0xC8].map fun o => ("ADMIN", o)) ++ [0x00, 0x01, 0x02, 0x08, 0x79, 0x7A, 0x7D].map fun o => ("IO", o)

/-- One entry of the head health log (Table 16.7). -/
def Dev.headEntry (d : Dev) (a : Act) (h : Nat) : List (String × Nat) :=
  [("SURFACE", d.surfaceOf a h), ("HEAD", headArg a h), ("SCORE", d.f ((Reg.WAS_HH_SCORE.nth h).on a)),
   ("WARN", d.f ((Reg.WAS_HH_WARN.nth h).on a)), ("FAILED", d.f ((Reg.WAS_HH_FAILED.nth h).on a))] ++
  (d.penalties a h).map fun p => ("PENALTY", p)

def FeltEvent.fields (e : FeltEvent) : List (String × Nat) :=
  [("TYPE", e.type), ("SURFACE", e.surface), ("HEAD", e.head), ("GROUPS", e.groups), ("ZONES", e.zones),
   ("CAPACITY", e.capacity), ("ZONE", e.zone), ("TIME", e.time)]

/-- Log page 0xC2. -/
def Dev.vaultWords (d : Dev) : List Nat :=
  [(d.reg Reg.PWR_VAULT_STATUS).toNat, (d.reg Reg.PWR_VAULT_REASON).toNat, d.f Reg.PWR_SMON_STATUS_CAUSE]

def Dev.sanitizeLog (d : Dev) : List (String × Nat) :=
  match d.host.sanitize with
  | some s => [("STATUS", 2), ("PASS", s.pass), ("BANDS", s.bands)]
  | none => [("STATUS", if d.host.sanFailed then 3 else 0)]

/-- The persistent event type of an event code (Table 21.2). -/
def pelType (code : Nat) : Nat :=
  if code = 0x003 then 0x04
  else if code = 0x203 ∨ code = 0x303 ∨ code = 0x305 ∨ code = 0x306 ∨ code = 0x403 ∨ code = 0x502 ∨ code = 0x601 then 0x05
  else if code = 0x611 then 0x02
  else if code = 0x612 then 0x07 else if code = 0x613 then 0x08
  else if code = 0x614 then 0x09 else if code = 0x615 then 0x0A
  else 0xDE

/-- One event of the persistent event log (R516). -/
def pelEvent (ofs : Option Int) (r : HbRec) : List (String × Nat) :=
  let ms := r.time / 1000
  [("TYPE", pelType r.code),
   ("TIMESTAMP", match ofs with | some o => ((ms : Int) + o).toNat | none => ms),
   ("ORIGIN", flag ofs.isSome)] ++ r.words.map fun w => ("VENDOR", w.toNat)

/-- Log page 0x0D read under a context: the records of its frozen range in order. -/
def Dev.pelLog (c : Ctrl) (rs : List HbRec) : List (String × Nat) :=
  ("EVENTS", rs.length) :: rs.flatMap fun r => pelEvent c.pelOfs r

/-- The log page of an identifier (Table 16.7); none where it is not listed. -/
def Dev.logPage (d : Dev) (p : Port) (lid : Nat) : Option (List (String × Nat)) :=
  match lid with
  | 0x01 => some (d.host.errors.flatMap fun e => [("SQ", e.id.sq), ("CID", e.id.cid), ("LBA", e.lba.getD 0)])
  | 0x02 => some d.smartLog
  | 0x03 => some d.fwSlotLog
  | 0x04 => some ((d.ctrl p).changedNs.map fun n => ("NSID", n))
  | 0x05 => some effectsLog
  | 0x0D => match (d.ctrl p).pel with | none => none | some rs => some (Dev.pelLog (d.ctrl p) rs)
  | 0x16 => some [("ACTUATORS", if d.hasAct .a1 then 2 else 1), ("NOMINAL_SPEED", d.f Reg.SPN_SPEED_CMD_SPEED / 100),
      ("LOADS", d.host.loads), ("UNLOADS", d.host.unloads), ("SPIN_UPS", d.host.spinUps)]
  | 0x81 => some d.sanitizeLog
  | 0xBF => some ((d.ctrl p).changedZones.map fun z => ("ZSLBA", z * d.media.zoneBlocks))
  | 0xC0 => some (if d.hasFelt then d.felt.events.flatMap FeltEvent.fields else [])
  | 0xC1 => some (d.heads.flatMap fun q => d.headEntry q.1 q.2)
  | 0xC2 => some (d.vaultWords.map fun v => ("VAULT", v))
  | _ => none

/-- Reading a list of changes empties it unless the event is retained. -/
def Dev.clearChanges (d : Dev) (p : Port) (lid : Nat) (retain : Bool) : Dev :=
  if retain then d
  else if lid = 0x04 then d.onCtrl p fun c => { c with changedNs := [] }
  else if lid = 0xBF then d.onCtrl p fun c => { c with changedZones := [] }
  else d

/-- GET_LOG_PAGE (R412, Table 16.7); the persistent event log needs a context (R516). -/
def Dev.getLog (d : Dev) (id : CmdId) (lid : Nat) (retain : Bool) : Dev :=
  match d.logPage id.port lid with
  | some fs => (d.clearChanges id.port lid retain).reply id fs
  | none => d.complete id (if lid = 0x0D then .commandSequenceError else .invalidLogPage) 0

def execGetLogPage (id : CmdId) (lid : Nat) (retain : Bool) (s : State) : Host.Outcome State Fault Refusal :=
  s.next (s.dev.adminDo id fun d => d.getLog id lid retain)

/-- The Timestamp now, in ms. -/
def Dev.timestampNow (d : Dev) : Option Nat := d.host.timestamp.map fun t => t.1 + (d.clock.nowNs - t.2) / 1000000

/-- PEL_CONTEXT_ESTABLISH (R516). -/
def Dev.pelEstablish (d : Dev) (id : CmdId) : Dev :=
  let ofs := d.timestampNow.map fun t => (t : Int) - d.clock.nowNs / 1000000
  if (d.ctrl id.port).pel.isSome then d.complete id .commandSequenceError 0
  else ((d.freezeRecs (1 + id.port.idx)).onCtrl id.port fun c => { c with pel := some d.hb.recs, pelOfs := ofs }).complete id .success 0

def execPelContextEstablish (id : CmdId) (s : State) : Host.Outcome State Fault Refusal :=
  s.next (s.dev.adminDo id fun d => d.pelEstablish id)

/-- PEL_CONTEXT_RELEASE (R516). -/
def execPelContextRelease (id : CmdId) (s : State) : Host.Outcome State Fault Refusal :=
  s.next (s.dev.adminDo id fun d =>
    ((d.thawRecs (1 + id.port.idx)).onCtrl id.port fun c => { c with pel := none, pelOfs := none }).complete id .success 0)

/-! ### Identify (R413 to R417, Table 16.3) -/

/-- Capacities are reported: not in safe mode (R434), and not before the first format (R555). -/
def Dev.capacityShown (d : Dev) : Bool := !d.safe && decide (d.f Reg.SYS_BOOT_RESULT ≠ 2)

/-- Identify Namespace (R413 to R415). -/
def Dev.idNamespace (d : Dev) (ns : Nat) : List (String × Nat) :=
  let size := if ns = 1 then d.zq.count * d.media.zoneBlocks else d.host.convBlocks
  let cap := if d.capacityShown then (if ns = 1 then size - d.zq.offline * d.media.zoneBlocks else size) else 0
  [("NSZE", size), ("NCAP", cap), ("NUSE", cap), ("NMIC", 1), ("LBAF", d.host.lbaf), ("NLBAF", 3), ("DULBE", 0)]

/-- Identify Controller (Table 16.3) with the power state descriptors of R522. -/
def Dev.idController (d : Dev) (p : Port) : List (String × Nat) :=
  [("CNTLID", 1 + p.idx), ("MDTS", 9), ("CMIC", if d.hasPortB then 3 else 0), ("ACL", 3), ("AERL", 7), ("FRMW", 0x14),
   ("LPA", 0x16), ("ONCS", 0x48), ("FNA", 0x07), ("VWC", 0), ("SANICAP", 0x05), ("MTFA", 1), ("RTD3E", 10000000),
   ("RTD3R", 20000000), ("CRDT1", 10), ("CRDT2", 50), ("CRDT3", 200), ("NPSS", 4), ("SQES", 0x66), ("CQES", 0x44),
   ("AWUN", 0), ("AWUPF", 0), ("NN", 2)] ++
  (List.range 5).flatMap fun s => [("MP", d.psDeclared Reg.PDM_PS_DRIVE_MW s), ("EXLAT", d.psDeclared Reg.PDM_PS_EXIT s)]

/-- The controllers that the subsystem holds. -/
def Dev.controllers (d : Dev) : List (String × Nat) :=
  ([Port.A, Port.B].filter fun p => d.hasPort p).map fun p => ("CNTLID", 1 + p.idx)

/-- The data of a CNS value (Table 16.4); none where it is not listed. -/
def Dev.identify (d : Dev) (p : Port) (cns ns csi : Nat) : Option (List (String × Nat)) :=
  let known := decide (ns = 1 ∨ ns = 2)
  let csOf (n : Nat) : Nat := if n = 1 then 2 else 0
  match cns with
  | 0x00 => if known then some (d.idNamespace ns) else none
  | 0x01 => some (d.idController p)
  | 0x02 => some ((([1, 2].filter fun n => decide (ns < n)).map fun n => ("NSID", n)))
  | 0x03 => if known then some [("CSI", csOf ns)] else none
  | 0x05 =>
    if !known ∨ csi ≠ csOf ns then none
    else if ns = 2 then some [("PIC", 0)]
    else some [("ZOC", 0), ("OZCS", 1), ("MAR", d.f Reg.ZQE_LIMITS_MAX_ACTIVE - 1), ("MOR", d.f Reg.ZQE_LIMITS_MAX_OPEN - 1),
      ("RRL", 0), ("FRL", 0), ("ZSZE", d.media.zoneBlocks), ("ZDES", 1)]
  | 0x06 => if csi = 2 then some [("ZASL", 0)] else if csi = 0 then some [] else none
  | 0x07 => some ((([1, 2].filter fun n => decide (ns < n ∧ csOf n = csi)).map fun n => ("NSID", n)))
  | 0x08 => if known then some [("NMIC", 1)] else none
  | 0x12 => if known then some d.controllers else none
  | 0x13 => some d.controllers
  | 0x1C => some [("IOCSC", 0x5)]
  | _ => none

/-- IDENTIFY (R412, R413). -/
def execIdentify (id : CmdId) (cns ns csi : Nat) (s : State) : Host.Outcome State Fault Refusal :=
  s.next (s.dev.adminDo id fun d =>
    match d.identify id.port cns ns csi with
    | some fs => d.reply id fs
    | none => d.complete id .invalidField 0)

/-! ### Features without the semaphore (Table 16.8) -/

/-- A controller-scope feature set. -/
def Dev.setCtrlFeature (d : Dev) (id : CmdId) (fid v : Nat) : Dev :=
  (d.onCtrl id.port fun c => { c with feats := sset 0 c.feats fid v }).complete id .success 0

def execSetArbitration (id : CmdId) (v : Nat) (s : State) : Host.Outcome State Fault Refusal :=
  s.next (s.dev.adminDo id fun d => d.setCtrlFeature id 0x01 (v % 2 ^ 32))

/-- SET_POWER_MANAGEMENT (R432): the controller's state; a change the drive must make is asked for. -/
def execSetPowerManagement (id : CmdId) (ps : Nat) (s : State) : Host.Outcome State Fault Refusal :=
  s.next (s.dev.adminDo id fun d =>
    if 4 < ps then d.complete id .invalidField 0 else (d.setCtrlFeature id 0x02 ps).askState)

/-- SET_VOLATILE_WRITE_CACHE (R421). -/
def execSetVolatileWriteCache (id : CmdId) (s : State) : Host.Outcome State Fault Refusal :=
  s.next (s.dev.adminDo id fun d => d.complete id .invalidField 0)

/-- SET_NUMBER_OF_QUEUES (R417): both counts zero-based, at most 127; the fewer of the two is allocated as pairs. -/
def execSetNumberOfQueues (id : CmdId) (nsq ncq : Nat) (s : State) : Host.Outcome State Fault Refusal :=
  s.next (s.dev.adminDo id fun d =>
    if nsq = 65535 ∨ ncq = 65535 then d.complete id .invalidField 0
    else
      let n := Nat.min 127 (Nat.min nsq ncq)
      (d.onCtrl id.port fun c => { c with feats := sset 0 c.feats 0x07 (n + 1) }).complete id .success (n * 65536 + n))

def execSetInterruptCoalescing (id : CmdId) (v : Nat) (s : State) : Host.Outcome State Fault Refusal :=
  s.next (s.dev.adminDo id fun d => d.setCtrlFeature id 0x08 (v % 2 ^ 16))

/-- SET_INTERRUPT_VECTOR_CONFIGURATION: one value for each vector. -/
def execSetInterruptVectorConfiguration (id : CmdId) (vector : Nat) (cd : Bool) (s : State) :
    Host.Outcome State Fault Refusal :=
  s.next (s.dev.adminDo id fun d => d.setCtrlFeature id (0x90000 + vector % 65536) (flag cd))

/-- SET_WRITE_ATOMICITY_NORMAL: the value is kept and has no effect. -/
def execSetWriteAtomicityNormal (id : CmdId) (v : Nat) (s : State) : Host.Outcome State Fault Refusal :=
  s.next (s.dev.adminDo id fun d => d.setCtrlFeature id 0x0A (v % 2 ^ 32))

def execSetAsyncEventConfiguration (id : CmdId) (v : Nat) (s : State) : Host.Outcome State Fault Refusal :=
  s.next (s.dev.adminDo id fun d => d.setCtrlFeature id 0x0B (v % 2 ^ 32))

/-- The value of a standard feature; `sel` is the namespace, the vector, or [4:1] the sensor with [0] under. -/
def Dev.feature (d : Dev) (p : Port) (fid sel : Nat) : Option Nat :=
  let c (k : Nat) : Nat := sget 0 (d.ctrl p).feats k
  match fid with
  | 0x01 => some (c 0x01)
  | 0x02 => some (c 0x02)
  | 0x04 => if 11 < sel then none else some (d.threshold (sel / 2) (decide (sel % 2 = 1))).toNat
  | 0x05 => if sel = 1 ∨ sel = 2 then some (d.tler sel) else none
  | 0x07 => some (((d.ctrl p).queues - 1) * 65537)
  | 0x08 => some (c 0x08)
  | 0x09 => some (sel % 65536 + 65536 * c (0x90000 + sel % 65536))
  | 0x0A => some (c 0x0A)
  | 0x0B => some (c 0x0B)
  | 0x0E => some (d.timestampNow.getD 0)
  | _ => none

/-- GET_FEATURES: the Timestamp is returned as data, every other value in Dword 0. -/
def execGetFeatures (id : CmdId) (fid sel : Nat) (s : State) : Host.Outcome State Fault Refusal :=
  s.next (s.dev.adminDo id fun d =>
    match d.feature id.port fid sel with
    | none => d.complete id .invalidField 0
    | some v =>
      if fid = 0x0E then d.reply id [("TIMESTAMP", v), ("ORIGIN", flag d.host.timestamp.isSome)]
      else d.complete id .success v)

/-- GET_ZONE_REORDER (Table 16.8): WINDOW and HOLD, or with Dword 11 = 1 the guaranteed depth. -/
def execGetZoneReorder (id : CmdId) (depth : Bool) (s : State) : Host.Outcome State Fault Refusal :=
  s.next (s.dev.adminDo id fun d =>
    d.complete id .success (if depth then d.f Reg.ZQE_POOL_DEPTH
      else d.f Reg.ZQE_CFG_HOLD * 65536 + d.f Reg.ZQE_CFG_WINDOW))

/-- GET_ERROR_RECOVERY_VENDOR_DATA (R420). -/
def execGetErrorRecoveryVendorData (id : CmdId) (ns : Nat) (s : State) : Host.Outcome State Fault Refusal :=
  s.next (s.dev.adminDo id fun d =>
    if ns ≠ 1 ∧ ns ≠ 2 then d.complete id .invalidNamespace 0
    else d.complete id .success (d.planFor (d.tler ns) (decide (ns = 2)) * 2 ^ 28 + d.f Reg.SIZ_FLOOR_FLOOR_100MS * 2 ^ 20))

end Sys2Proof.Machine
end

