-- ==== Sys2Proof/Machine/Complex.lean ====
section
/-! DEFINITION. The twin complexes (R437, R446 to R454): mirroring, takeover, planned handover and the steps of an
activation without reset. -/

namespace Sys2Proof.Machine

/-! ### States -/

def Dev.onCpx (d : Dev) (g : Complexes → Complexes) : Dev := { d with cpx := g d.cpx }

def cpxStateFld : Cpx → Fld
  | .X => Reg.CPX_STATUS_STATE_X
  | .Y => Reg.CPX_STATUS_STATE_Y

def cpxGenFld : Cpx → Fld
  | .X => Reg.CPX_STATUS_GEN_X
  | .Y => Reg.CPX_STATUS_GEN_Y

def Dev.cpxState (d : Dev) (c : Cpx) : Nat := d.f (cpxStateFld c)
def Dev.setCpxState (d : Dev) (c : Cpx) (n : Nat) : Dev := d.setF (cpxStateFld c) n

def byFld : Port → Fld
  | .A => Reg.CPX_STATUS_PA_BY
  | .B => Reg.CPX_STATUS_PB_BY

/-- The complex that serves a port. -/
def Dev.servedBy (d : Dev) (p : Port) : Cpx := if d.f (byFld p) = 0 then .X else .Y

def Dev.setServed (d : Dev) (p : Port) (c : Cpx) : Dev := d.setF (byFld p) c.idx

/-- The present ports that a complex serves. -/
def Dev.portsOf (d : Dev) (c : Cpx) : List Port := [Port.A, Port.B].filter fun p => d.hasPort p && decide (d.servedBy p = c)

/-- The generation shown in CPX_STATUS. -/
def Dev.showCpxGen (d : Dev) (c : Cpx) : Dev := d.setF (cpxGenFld c) (d.gen (.complex c))

/-- Both complexes are in service and mirrored. -/
def Dev.inSync (d : Dev) : Bool := decide (d.f Reg.CPX_STATUS_SYNC = 1)

/-- A complex in service: in sync or serving. -/
def Dev.cpxUp (d : Dev) (c : Cpx) : Bool := decide (d.cpxState c = 2 ∨ d.cpxState c = 3)

/-! ### Mirroring (R446, R447) -/

/-- MIRROR_RECORD: one record more is sent and not acknowledged; out of sync nothing is mirrored (R448). -/
def execMirrorRecord (s : State) : Host.Outcome State Fault Refusal :=
  s.next (if s.dev.inSync then s.dev.bumpF Reg.CPX_MIRROR_LAG 1 else s.dev)

/-- MIRROR_ACK. -/
def execMirrorAck (s : State) : Host.Outcome State Fault Refusal :=
  s.next (s.dev.setF Reg.CPX_MIRROR_LAG (s.dev.f Reg.CPX_MIRROR_LAG - 1))

/-! ### Takeover and handover (R450 to R453) -/

/-- A complex held in reset with its next generation (R450 step 1). -/
def Dev.resetCpx (d : Dev) (c : Cpx) (st : Nat) : Dev :=
  ((((d.resetUnit (.complex c)).showCpxGen c).setCpxState c st).setF Reg.CPX_STATUS_SYNC 0).setF Reg.CPX_MIRROR_LAG 0

/-- Ports passed to a complex; what serves no port any more stays in sync. -/
def Dev.passPorts (d : Dev) (dst : Cpx) (ps : List Port) : Dev :=
  let d1 := ps.foldl (fun (d : Dev) p => d.setServed p dst) d
  let d2 := if (d1.portsOf dst).isEmpty then d1 else d1.setCpxState dst 3
  if (d2.portsOf dst.other).isEmpty ∧ d2.cpxState dst.other = 3 then d2.setCpxState dst.other 2 else d2

/-- The unit requests of a complex become the survivor's own, with its generation (R450 steps 3 and 5). -/
def Dev.adoptRequests (d : Dev) (c : Cpx) : Dev :=
  let g := d.gen (.complex c.other)
  let own (r : UnitReq) : UnitReq :=
    if r.requester = .complex c then { r with requester := .complex c.other, requesterGen := g } else r
  { d with units := { d.units with outstanding := d.units.outstanding.map own, held := d.units.held.map own } }

/-- The commands of a port, with its waiting Asynchronous Event Requests: the contexts that a takeover adopts. -/
def Dev.contextsOf (d : Dev) (p : Port) : Nat :=
  (d.host.cmds.filter fun c => decide (c.id.port = p)).length + (d.ctrl p).aers.length

/-- The first takeover logged, and its event (R451). -/
def Dev.logTake (d : Dev) (c : Cpx) (cause stall contexts : Nat) : Dev :=
  let d1 := if d.f Reg.CPX_TAKE_LOG_VALID = 1 then d
    else ((((d.setF Reg.CPX_TAKE_LOG_VALID 1).setF Reg.CPX_TAKE_LOG_FROM c.idx).setF Reg.CPX_TAKE_LOG_CAUSE cause).setF
      Reg.CPX_TAKE_LOG_STALL (Nat.min 1023 stall)).setF Reg.CPX_TAKE_LOG_CONTEXTS contexts
  (d1.bumpF Reg.CPX_TAKE_CNT_TAKEOVER 1).event Ev.takeover .cpx (d1.reg Reg.CPX_TAKE_LOG).toNat 0

/-- A complex that faults within 10 s of its ready notice is not reloaded (R452). -/
def Dev.tooSoon (d : Dev) (c : Cpx) : Bool :=
  let t := d.cpx.readyAt.get c.idx
  d.cpx.reloaded.get c.idx && decide (d.clock.nowNs < t + 10000000000)

/-- The takeover of R450, or, with the twin out of sync, CFS on the controllers that the complex served (R452). -/
def Dev.takeover (d : Dev) (c : Cpx) (cause stall : Nat) : Dev :=
  let ps := d.portsOf c
  let st := if d.tooSoon c then 6 else 4
  if d.inSync ∧ d.cpxUp c.other then
    let n := (ps.map fun p => d.contextsOf p).sum
    let d1 := ((d.resetCpx c st).passPorts c.other ps).adoptRequests c
    d1.logTake c cause stall n
  else ps.foldl (fun (d : Dev) p => d.onCtrl p fun x => { x with cfs := true }) (d.resetCpx c st)

/-- A planned handover of some ports (R453); only while the receiver reports SYNC 1. -/
def Dev.handover (d : Dev) (dst : Cpx) (ps : List Port) : Dev :=
  let move := ps.filter fun p => d.hasPort p && decide (d.servedBy p ≠ dst)
  if d.inSync ∧ d.cpxUp dst ∧ !move.isEmpty then (d.passPorts dst move).bumpF Reg.CPX_TAKE_CNT_HANDOVER 1 else d

/-- The port that a complex normally serves (R437). -/
def homePort : Cpx → Port
  | .X => .A
  | .Y => .B

/-- A complex restarted and ready: it copies its twin's state (R448). -/
def Dev.cpxReady (d : Dev) (c : Cpx) : Dev :=
  let d1 := ((d.readyUnit (.complex c)).showCpxGen c).onCpx fun x => { x with readyAt := x.readyAt.set c.idx d.clock.nowNs }
  if d.cpxState c = 6 then d else d1.setCpxState c (if (d1.portsOf c).isEmpty then 1 else 3)

/-- COMPLEX_SYNC (R448, R452): SYNC 1, and the port handed back after a takeover with AUTO_BACK. -/
def Dev.complexSync (d : Dev) (c : Cpx) : Dev :=
  if d.isResetting (.complex c) ∨ d.isResetting (.complex c.other) ∨ !(d.cpxState c = 1 ∨ d.cpxState c = 3) ∨ d.inSync then d
  else
    let d1 := (if d.cpxState c = 1 then d.setCpxState c 2 else d).setF Reg.CPX_STATUS_SYNC 1
    if d1.cpx.reloaded.get c.idx ∧ d1.f Reg.CPX_CFG_AUTO_BACK = 1 ∧ d1.cpx.act.isNone then d1.handover c [homePort c] else d1

def execComplexSync (c : Cpx) (s : State) : Host.Outcome State Fault Refusal := s.next (s.dev.complexSync c)

/-- A write of CPX_CTL's handover bits, honoured in safe mode or through the calibration packets (R455). -/
def Dev.handoverAll (d : Dev) (cal : Bool) (dst : Cpx) : Dev :=
  if cal || d.safe then d.handover dst [.A, .B] else d.ignoredWrite Reg.CPX_CTL

def execCpxToX (cal : Bool) (s : State) : Host.Outcome State Fault Refusal := s.next (s.dev.handoverAll cal .X)
def execCpxToY (cal : Bool) (s : State) : Host.Outcome State Fault Refusal := s.next (s.dev.handoverAll cal .Y)

/-! ### Activation without reset (R454) -/

/-- A complex restarts on an image. -/
def Dev.restartCpx (d : Dev) (c : Cpx) : Dev := d.resetCpx c 5

/-- One complex is failed, so only the other is activated. -/
def Dev.loneCpx (d : Dev) : Option Cpx :=
  if d.cpxState .X = 6 then some .Y else if d.cpxState .Y = 6 then some .X else none

/-- The activated image is the one that runs and boots from now on (Table 19.5, end of step 3). -/
def Dev.takeImage (d : Dev) (v : Activation) : Dev :=
  ((d.setBoot { d.nv.boot with active := v.slot }).setF Reg.NVC_BOOT_FW_BOOTED v.slot).setF Reg.CPX_MIRROR_VER v.ver

/-- The next step of Table 17.5 whose condition holds: `true` when the activation has ended. -/
def Dev.activate (d : Dev) (v : Activation) : Bool × Dev :=
  let put (d : Dev) (n : Nat) : Dev := d.onCpx fun x => { x with act := some { v with step := n } }
  match d.loneCpx with
  | some _ => (true, d.takeImage v)
  | none =>
    if !d.inSync then (false, d)
    else match v.step with
      | 0 => (false, put ((d.handover .X [.B]).restartCpx .Y) 2)
      | 2 => (false, put (((d.handover .Y [.A, .B]).takeImage v).restartCpx .X) 4)
      | _ => (true, d.handover .X [.A])

end Sys2Proof.Machine
end

