-- ==== Sys2Proof/Machine/Format.lean ====
section
/-! DEFINITION. Format NVM and Sanitize (R347, R388, R428 to R430, R555): what each step of a running operation does. The
steps are taken one at a time, at tick edges. -/

namespace Sys2Proof.Machine

/-! ### What both operations do -/

/-- A cryptographic erase (R388): a new key with the next generation, the old wrapped key overwritten. -/
def Dev.cryptoErase (d : Dev) : Dev :=
  (d.setF Reg.SEC_KEYGEN_GEN (d.f Reg.SEC_KEYGEN_GEN + 1)).bumpF Reg.SEC_CNT_ERASES 1

/-- A zone after R347: Empty, but a Read Only or Offline zone keeps its state and its write pointer. -/
def Zone.wiped (zn : Zone) : Zone :=
  if zn.state = 0xD ∨ zn.state = 0xF then { Zone.empty with state := zn.state, wp := zn.wp, finish := zn.finish } else Zone.empty

/-- The write requests of an actuator leave its Blocker (R585). -/
def Dev.dropRequests (d : Dev) (a : Act) : Dev :=
  let named (r : BlkReq) : Bool := decide (r.op = 1 ∨ r.op = 2)
  let d1 := d.onBlk a fun b => { b with
    queue := b.queue.filter fun r => !named r, heldReqs := b.heldReqs.filter fun r => !named r }
  if (d.blk.get a).cur.any named then (d1.onBlk a fun b => { b with withdrawn := true }).raiseEvt a 5 else d1

/-- Zones and pool reset (R347): a new journal after a new zone state image. -/
def Dev.wipeZones (d : Dev) : Dev :=
  let seq := d.f Reg.ZQE_JRNL_SEQ_SEQ
  let mark : JrnlRec := { type := 6, zone := 0, state := 0, attr := 0, wp := 0, seq := seq, good := true }
  let keep := (d.zq.zones.map fun p => (p.1, p.2.wiped)).filter fun p => decide (p.2 ≠ Zone.empty)
  let d1 := { d with
    zq := { d.zq with zones := keep, image := keep, imageSeq := seq, ring := [mark], cacheBlocks := 0, released := [] }
    media := { d.media with
      written := [], stale := [], sysSeq := { x := d.media.sysSeq.x + 1, y := d.media.sysSeq.x + 1 } } }
  ((d1.setF Reg.ZQE_JRNL_FILL_CKPT 0).setF Reg.ZQE_RESCUE_FREE 1024).setF Reg.ZQE_RESCUE_ZONES 0

/-- Everything that reformatting clears: zones, pool and rescue region, the written bitmap, the buffered data and the
felt state (R347, R93, R428 step 5). -/
def Dev.wipe (d : Dev) : Dev :=
  let d1 := ((d.dropRequests .a0).dropRequests .a1).wipeZones
  let d2 := d1.onHost fun h => { h with dirty := [], poison := [] }
  { d2 with felt := { d2.felt with strides := [], image := [], log := [], pairs := [], gc := [], refelt := [], solved := [] } }

/-! ### Format NVM (R428) -/

/-- The staged members of agreement group 8. -/
def StagedSet.group8 (s : StagedSet) : StagedSet :=
  let mask (addr : Nat) : Word :=
    match rowAt addr with
    | none => 0
    | some r => r.fields.foldl (fun m f => if f.group = 8 then m ||| bitMask f.hi f.lo else m) 0
  { regs := (s.regs.map fun p => (p.1, (p.2.1 &&& mask p.1, p.2.2 &&& mask p.1))).filter fun p => decide (p.2.1 ≠ 0)
    tables := s.tables.filter fun p => decide (p.1 / 2 ^ 32 = Tbl.felt)
    cst := [] }

/-- What is staged without those members. -/
def StagedSet.without8 (s : StagedSet) : StagedSet :=
  let g := s.group8
  let left (p : Nat × (Word × Word)) : Word := p.2.1 &&& ~~~(sget (0, 0) g.regs p.1).1
  { s with
    regs := (s.regs.map fun p => (p.1, (left p, p.2.2 &&& left p))).filter fun p => decide (p.2.1 ≠ 0)
    tables := s.tables.filter fun p => decide (p.1 / 2 ^ 32 ≠ Tbl.felt) }

/-- The lowest-numbered healthy surface of an actuator, or of the other where the variant lacks it (R94). -/
def Dev.homeSurface (d : Dev) (a : Act) : Nat :=
  let low := if d.hasAct a then a.idx * d.conf.nh else 0
  ((List.range d.conf.nh).find? fun h => !sget false d.felt.lost (low + h)).getD 0 + low

/-- The layout that the first format writes into both system area copies (R555). -/
def Dev.layDown (d : Dev) (l : FormatLayout) : Dev :=
  let rec4 (ws : List Word) : BandRec := BandRec.ofWords (ws.getD 0 0) (ws.getD 1 0) (ws.getD 2 0) (ws.getD 3 0)
  let d1 := { d with
    media := { d.media with
      bands := ssetList none [] 0 (l.bands.map fun ws => some (rec4 ws))
      slips := [], reassigned := [], relocated := []
      zoneMap := ssetList none [] 0 (l.zones.map some)
      convMap := ssetList none [] 0 (l.conv.map some)
      zoneBlocks := l.zoneBlocks
      sysHome := ⟨d.homeSurface .a0, d.homeSurface .a1⟩ }
    zq := { d.zq with zones := [], count := l.zones.length, offline := 0 } }
  d1.onHost fun h => { h with convBlocks := l.convBlocks }

/-- The end of the format record: formatted, with the LBAF named; a start-up that waited for it goes on to step 11
(R551, R555). -/
def Dev.formatted (d : Dev) (lbaf : Nat) : Dev :=
  let d1 := (d.onNv fun n => { n with formatted := true }).onHost fun h => { h with lbaf := lbaf }
  let r := d1.f Reg.SYS_BOOT_RESULT
  if r = 2 ∨ r = 4 then
    let d2 := if r = 4 then { d1 with fmg := { d1.fmg with mediaOff := false }, nv := { d1.nv with vault := { d1.nv.vault with state := 2 } } }
      else d1
    (((d2.setF Reg.SYS_BOOT_RESULT 0).setF Reg.PWR_VAULT_REASON_RESTORE 0).endStep 10).endStep 11
  else d1

/-- The format's completion, if its command still waits, and the end of its hold. -/
def Dev.formatEnds (d : Dev) (r : FormatRun) (status : Nvme) : Dev :=
  let d1 := d.onHost fun h => { h with format := none }
  (match r.id with | none => d1 | some id => d1.complete id status 0).semEnd

/-- The next step of a running format (R428): 0 it waits for dispatched I/O, 2 the start record is written, 3 the key is
erased, 4 the felt group is committed, 5 the zones are reset. -/
def Dev.formatStep (d : Dev) (r : FormatRun) : Dev :=
  let put (d : Dev) (n : Nat) : Dev := d.onHost fun h => { h with format := some { r with step := n } }
  let s8 := d.conf.staged.group8
  match r.step with
  | 0 =>
    if !d.host.cmds.isEmpty || d.busy then d
    else if !s8.isEmpty && decide ((d.judge s8 true).status ≠ 0) then d.formatEnds r .invalidFormat
    else put (d.event Ev.formatStart .hpa r.lbaf 0) 2
  | 2 => put (if r.ses = 0 then d else d.cryptoErase) 3
  | 3 =>
    if d.busy then d
    else if s8.isEmpty then put d 4
    else
      let p : PendingSet := { set := s8, skip := d.pastCutoff, holds := false }
      { d with conf := { d.conf with pending := some p, staged := d.conf.staged.without8 }
               felt := { d.felt with moved := [] } }.setF Reg.SIZ_STATUS_BUSY 1
  | 4 => put (if d.nv.formatted then d.wipe else (d.layDown r.layout).wipe) 5
  | _ => ((d.formatted r.lbaf).event Ev.formatDone .hpa r.lbaf 0).formatEnds r .success

/-! ### Sanitize (R429, R430) -/

/-- The pattern that a pass writes: inverted between passes when OIPBP is set. -/
def Sanitize.word (x : Sanitize) : Nat := if x.invert ∧ x.pass % 2 = 1 then 2 ^ 32 - 1 - x.pattern else x.pattern

/-- A block of a repeated 32-bit pattern, as the number its 4,096 bytes spell. -/
def patternBlock (w : Nat) : Nat := w * ((2 ^ 32768 - 1) / (2 ^ 32 - 1))

/-- One band's records overwritten, in clear, with KEYGEN 0xFFFF_FFFF. -/
def Dev.overwriteBand (d : Dev) (bi : Nat) (block : Nat) : Dev :=
  let over1 (r : MediaRec) : MediaRec := { r with keygen := 0xFFFFFFFF, data := r.data.map fun _ => block }
  { d with media := { d.media with recs := d.media.recs.map fun p =>
      if p.1 / 2 ^ 16 = bi then (p.1, p.2.map over1) else p } }

/-- The bands that an overwrite pass covers: KIND 0, 1 and 2. -/
def Dev.sanBands (d : Dev) : List Nat :=
  (d.media.bands.filter fun p => match p.2 with | none => false | some b => decide (b.kind ≤ 2)).map Prod.fst

/-- The sanitize has ended: its outcome, the event and the asynchronous event. -/
def Dev.sanitizeEnds (d : Dev) (x : Sanitize) : Dev :=
  let act := if x.overwrite then 3 else 4
  let d1 := d.onHost fun h => { h with sanitize := none, sanFailed := x.fails, sanAuse := x.fails && x.ause }
  let d2 := if x.fails then d1 else d1.cryptoErase.wipe
  let d3 := (d2.event Ev.sanitizeDone .hpa act (flag x.fails)).raiseAll .sanitizeDone
  if x.resumed then d3.semEnd else d3

/-- The next step of a running sanitize: a band, then the rescue region and the felt scratch area, then the next pass;
after the last pass the erase and the resets. -/
def Dev.sanitizeStep (d : Dev) (x : Sanitize) : Dev :=
  let put (x : Sanitize) (d : Dev) : Dev := d.onHost fun h => { h with sanitize := some x }
  if !d.host.cmds.isEmpty then d
  else if !x.overwrite ∨ x.passes ≤ x.pass then d.sanitizeEnds x
  else
    match d.sanBands[x.bands]? with
    | some bi => put { x with bands := x.bands + 1 } (d.overwriteBand bi (patternBlock x.word))
    | none => put { x with pass := x.pass + 1, bands := 0 } d

/-- The tick's step of whichever operation runs; one left over from before a reset waits for step 10 (R552). -/
def Dev.eraseTick (d : Dev) : Dev :=
  if d.f Reg.PWR_VAULT_REASON_RESTORE = 1 ∧ d.f Reg.SYS_BOOT_RESULT ≠ 2 ∧ d.f Reg.SYS_BOOT_RESULT ≠ 4 then d
  else
  match d.host.format with
  | some r => d.formatStep r
  | none =>
    match d.host.sanitize with
    | some x => d.sanitizeStep x
    | none => d

end Sys2Proof.Machine
end

