-- ==== Sys2Proof/Machine/SemRun.lean ====
section
/-! DEFINITION. What needs the semaphore (R440 to R445): its grants, the operations that wait for it, Format NVM,
Sanitize, Firmware Commit with its activation (R431, R454, R486), and the serialized features. -/

namespace Sys2Proof.Machine

/-! ### Serialized features (Table 16.8) -/

/-- A granted Set Features: the TLER of a namespace is checked against the floor (R61). -/
def Dev.runFeature (d : Dev) (id : CmdId) (key value : Nat) : Dev :=
  let put (d : Dev) : Dev := (d.onHost fun h => { h with feats := sset 0 h.feats key value }).complete id .success 0
  if 0x500 ≤ key ∧ key < 0x600 then
    if value ≠ 0 ∧ value * d.speed * d.wedges < d.floorTicks * 60000 then d.complete id .invalidField 0 else put d
  else (put d).showWarning

/-! ### Firmware (R431, R454) -/

/-- The downloaded pieces as one image; none when they do not follow one another from offset 0. -/
def imageOfPieces (ps : List (Nat × List Byte)) : Option (List Byte) :=
  (ps.mergeSort fun a b => decide (a.1 ≤ b.1)).foldl (fun (acc : Option (List Byte)) p =>
    match acc with
    | none => none
    | some bs => if p.1 = bs.length then some (bs ++ p.2) else none) (some [])

/-- Slot 0 or 1 of FS 0, 1 or 2 (R431). -/
def Dev.fwSlot (d : Dev) (fs : Nat) : Option Nat :=
  if fs = 0 then some (1 - d.nv.boot.active) else if fs ≤ 2 then some (fs - 1) else none

/-- A committed image's event and completion, with the end of its hold. -/
def Dev.fwDone (d : Dev) (id : Option CmdId) (slot ca : Nat) : Dev :=
  let d1 := d.event Ev.fwCommit .hpa (slot + 1) ca
  (match id with | none => d1 | some id => d1.complete id .success 0).semEnd

/-- The next step of the running activation, if it can be taken; at its end the commit completes. -/
def Dev.activationStep (d : Dev) : Dev :=
  match d.cpx.act with
  | none => d
  | some v =>
    let r := d.activate v
    if r.1 then ((r.2.onCpx fun x => { x with act := none })).fwDone v.id v.slot 3 else r.2

/-- An activation starts (R431): announced, then its first step. -/
def Dev.startActivation (d : Dev) (id : Option CmdId) (slot ver : Nat) : Dev :=
  let v : Activation := { id := id, slot := slot, old := d.nv.boot.active, ver := ver, step := 0, back := false }
  ((d.raiseAll .activationStarting).onCpx fun x => { x with act := some v }).activationStep

/-- The image of a commit: the downloaded one, or with nothing downloaded the slot's own. -/
def Dev.commitImage (d : Dev) (pieces : List (Nat × List Byte)) (slot : Nat) : Option (List Byte) :=
  if pieces.isEmpty then (d.slotImage true slot).1 else imageOfPieces pieces

/-- A granted Firmware Commit (R431, Table 19.5). A store that is cut posts no completion. -/
def Dev.runCommit (d : Dev) (id : CmdId) (ca fs : Nat) (sig : Bool) (e : StoreEnd) : Dev :=
  let refuse (s : Nvme) : Dev := (d.complete id s 0).semEnd
  match d.fwSlot fs with
  | none => refuse .invalidFirmwareSlot
  | some slot =>
    if ca = 2 then
      if (d.slotFault true sig slot).1 = 0 then ((d.slotFault true sig slot).2.setPendingFw slot).fwDone (some id) slot 2
      else refuse .invalidFirmwareImage
    else if slot = d.nv.boot.active ∧ ca ≤ 1 then refuse .invalidFirmwareSlot
    else
      match (if ca = 3 then d.commitImage d.host.pieces slot else imageOfPieces d.host.pieces) with
      | none => refuse .invalidFirmwareImage
      | some bs =>
        let h := ImageHeader.ofBytes bs
        if d.imageFault true sig bs ≠ 0 then refuse .invalidFirmwareImage
        else if ca = 3 ∧ d.f Reg.CPX_MIRROR_VER < h.mirrorMin then refuse .activationNeedsReset
        else
          let d1 := if d.host.pieces.isEmpty then d else d.storeImage true slot (bs.take (256 + h.clen)) e
          let d2 := d1.onHost fun x => { x with pieces := [] }
          if e ≠ .done ∧ !d.host.pieces.isEmpty then d2
          else if ca = 3 then d2.startActivation (some id) slot h.mirrorVer
          else (if ca = 1 then d2.setPendingFw slot else d2).fwDone (some id) slot ca

/-! ### Operations under the hold -/

/-- The operations that a running sanitize keeps out (R440). -/
def SemOp.barred : SemOp → Bool
  | .format _ _ _ _ => true
  | .sanitize _ _ => true
  | .sanitizeExit _ => true
  | .fwCommit _ _ _ _ _ => true
  | _ => false

/-- The command of a waiting operation. -/
def SemOp.id : SemOp → CmdId
  | .claim id => id
  | .format id _ _ _ => id
  | .sanitize id _ => id
  | .sanitizeExit id => id
  | .fwCommit id _ _ _ _ => id
  | .feature id _ _ => id
  | .timestamp id _ => id

/-- A granted operation: those that do not end at once keep their hold. -/
def Dev.runOp (d : Dev) (holder : Nat) (op : SemOp) : Dev :=
  match op with
  | .claim id =>
    let d1 := d.semClaim holder
    d1.complete id .success (d1.f Reg.CPX_SEM_GRANTS * 65536)
  | .feature id key value => (d.semBegin.runFeature id key value).semEnd
  | .timestamp id ms =>
    ((d.semBegin.onHost fun h => { h with timestamp := some (ms, d.clock.nowNs) }).complete id .success 0).semEnd
  | .format id lbaf ses layout =>
    d.semBegin.onHost fun h => { h with format := some { id := some id, lbaf := lbaf, ses := ses, layout := layout, step := 0 } }
  | .sanitize id x =>
    let d1 := (d.semBegin.onHost fun h => { h with sanitize := some x, sanFailed := false, sanAuse := false }).event
      Ev.sanitizeStart .hpa (if x.overwrite then 3 else 4) 0
    (d1.complete id .success 0).semEnd
  | .sanitizeExit id =>
    let d1 := d.semBegin
    (if d.host.sanFailed ∧ d.host.sanAuse then
      (d1.onHost fun h => { h with sanFailed := false, sanAuse := false }).complete id .success 0
    else d1.complete id (if d.host.sanFailed then .sanitizeFailed else .invalidField) 0).semEnd
  | .fwCommit id ca slot sig e => d.semBegin.runCommit id ca slot sig e

/-- A granted operation, kept out while a sanitize runs. -/
def Dev.runSem (d : Dev) (holder : Nat) (op : SemOp) : Dev :=
  if op.barred && d.host.sanitize.isSome then (d.semBegin.complete op.id .sanitizeInProgress 0).semEnd
  else d.runOp holder op

/-- Whether the oldest waiting request can be granted. -/
def Dev.semMayGrant (d : Dev) (r : SemReq) : Bool :=
  decide (d.semHolder = 0) || (decide (d.semHolder = r.holder) && decide (d.sem.ops = 0))

/-- Waiting requests granted in order, at most n (R442, R444). -/
def Dev.semGrants (d : Dev) : Nat → Dev
  | 0 => d
  | n + 1 =>
    match d.sem.queue with
    | [] => d
    | r :: rest =>
      if d.semMayGrant r then ((((d.setQueue rest).semGrant r.holder).runSem r.holder r.op)).semGrants n else d

/-- Every waiting request that can be granted now. -/
def Dev.semSettle (d : Dev) : Dev := d.semGrants d.sem.queue.length

/-- A host command's request for the semaphore (R442, R443): granted, queued, or refused when the queue is full. -/
def Dev.semRequest (d : Dev) (holder : Nat) (op : SemOp) : Dev :=
  if d.semOpen holder then ((d.semGrant holder).runSem holder op).semSettle
  else if 64 ≤ d.sem.queue.length then (d.semRefused).complete op.id .commandSequenceError 0
  else d.setQueue (d.sem.queue ++ [{ holder := holder, op := op }])

/-- The holder that a host command acts for. -/
def hostHolder (id : CmdId) : Nat := 1 + id.port.idx

def Dev.serialized (d : Dev) (op : SemOp) : Dev := d.adminDo op.id fun d => d.semRequest (hostHolder op.id) op

/-! ### Semaphore commands -/

/-- SEMAPHORE_CLAIM (R442, R443). -/
def execSemaphoreClaim (id : CmdId) (s : State) : Host.Outcome State Fault Refusal := s.next (s.dev.serialized (.claim id))

/-- SEMAPHORE_RELEASE (R444). -/
def execSemaphoreRelease (id : CmdId) (s : State) : Host.Outcome State Fault Refusal :=
  s.next (s.dev.adminDo id fun d =>
    let r := d.semRelease (hostHolder id)
    (r.2.complete id .success r.1).semSettle)

/-- SEMAPHORE_ABANDONED (R445): a running operation goes on, and the timer is checked again at its end. -/
def Dev.semExpires (d : Dev) : Dev :=
  if d.f Reg.CPX_SEM_TIMER = 0 then d
  else if d.sem.ops ≠ 0 then { d with sem := { d.sem with expired := true } }
  else d.semAbandon.semSettle

def execSemaphoreAbandoned (s : State) : Host.Outcome State Fault Refusal := s.next s.dev.semExpires

/-- HOLDER_BUS_IDLE (R445): `holder` is 3 to 5. -/
def execHolderBusIdle (holder : Nat) (s : State) : Host.Outcome State Fault Refusal :=
  s.next (if 3 ≤ holder ∧ holder ≤ 5 then s.dev.semTimer holder else s.dev)

/-- The semaphore released and its queue emptied (Table 17.6). -/
def Dev.semFree (d : Dev) : Dev :=
  let q := d.sem.queue
  q.foldl (fun (d : Dev) r => d.complete r.op.id .commandSequenceError 0) (d.setQueue []).semClear

/-- CPX_SEM_FREE: a write of CPX_CTL.SEM_FREE, honoured in safe mode or through the calibration packets (R455). -/
def execCpxSemFree (cal : Bool) (s : State) : Host.Outcome State Fault Refusal :=
  s.next (if cal || s.dev.safe then s.dev.semFree else s.dev.ignoredWrite Reg.CPX_CTL)

/-! ### Set Features -/

/-- SET_TEMPERATURE_THRESHOLD (R526): sensor 0 is the composite, 1 to 5 the sensors; the threshold in K. -/
def execSetTemperatureThreshold (id : CmdId) (sensor : Nat) (under : Bool) (kelvins : Nat) (s : State) :
    Host.Outcome State Fault Refusal :=
  s.next (if 5 < sensor then s.dev.adminDo id fun d => d.complete id .invalidField 0
    else s.dev.serialized (.feature id (0x400 + 2 * sensor + flag under) (kelvins % 65536 + 1)))

/-- SET_ERROR_RECOVERY (R61, R420): DULBE must be 0. -/
def execSetErrorRecovery (id : CmdId) (ns tler : Nat) (dulbe : Bool) (s : State) : Host.Outcome State Fault Refusal :=
  s.next (if dulbe then s.dev.adminDo id fun d => d.complete id .invalidField 0
    else if ns ≠ 1 ∧ ns ≠ 2 then s.dev.adminDo id fun d => d.complete id .invalidNamespace 0
    else s.dev.serialized (.feature id (0x500 + ns) (tler % 65536)))

/-- SET_TIMESTAMP (Table 16.8), in ms. -/
def execSetTimestamp (id : CmdId) (ms : Nat) (s : State) : Host.Outcome State Fault Refusal :=
  s.next (s.dev.serialized (.timestamp id (ms % 2 ^ 48)))

/-! ### Firmware -/

/-- Two pieces share a byte. -/
def piecesMeet (p q : Nat × List Byte) : Bool := decide (p.1 < q.1 + q.2.length ∧ q.1 < p.1 + p.2.length)

/-- FIRMWARE_IMAGE_DOWNLOAD (R431): a piece at an offset; a first piece at offset 0 after a commit begins a new image. -/
def Dev.fwPiece (d : Dev) (id : CmdId) (ofs : Nat) (bs : List Byte) : Dev :=
  if bs.isEmpty ∨ ofs % 4096 ≠ 0 ∨ bs.length % 4096 ≠ 0 ∨ 12 * 2 ^ 20 < ofs + bs.length then d.complete id .invalidField 0
  else if d.host.pieces.any fun p => piecesMeet p (ofs, bs) then d.complete id .overlappingRange 0
  else (d.onHost fun h => { h with pieces := h.pieces ++ [(ofs, bs)] }).complete id .success 0

def execFirmwareImageDownload (id : CmdId) (ofs : Nat) (bs : List Byte) (s : State) : Host.Outcome State Fault Refusal :=
  s.next (s.dev.adminDo id fun d => d.sanGated id fun d => d.fwPiece id ofs bs)

/-- A Firmware Commit on its arrival. -/
def Dev.fwCommit (d : Dev) (id : CmdId) (ca fs : Nat) (sig : Bool) (e : StoreEnd) : Dev :=
  d.adminDo id fun d => d.sanGated id fun d => d.semRequest (hostHolder id) (.fwCommit id ca fs sig e)

/-- FIRMWARE_COMMIT_CA_000: `fs` is FS, `sig` whether the image's signature verifies, `e` how the store ends. -/
def execFirmwareCommitCa000 (id : CmdId) (fs : Nat) (sig : Bool) (e : StoreEnd) (s : State) :
    Host.Outcome State Fault Refusal :=
  s.next (s.dev.fwCommit id 0 fs sig e)

def execFirmwareCommitCa001 (id : CmdId) (fs : Nat) (sig : Bool) (e : StoreEnd) (s : State) :
    Host.Outcome State Fault Refusal :=
  s.next (s.dev.fwCommit id 1 fs sig e)

def execFirmwareCommitCa010 (id : CmdId) (fs : Nat) (sig : Bool) (s : State) : Host.Outcome State Fault Refusal :=
  s.next (s.dev.fwCommit id 2 fs sig .done)

def execFirmwareCommitCa011 (id : CmdId) (fs : Nat) (sig : Bool) (e : StoreEnd) (s : State) :
    Host.Outcome State Fault Refusal :=
  s.next (s.dev.fwCommit id 3 fs sig e)

/-- ACTIVATION_STEP (R454): the next step of Table 17.5 once the restarted complex has resynced. -/
def execActivationStep (s : State) : Host.Outcome State Fault Refusal := s.next s.dev.activationStep.semSettle

/-! ### Format NVM and Sanitize -/

/-- FORMAT_NVM (R428): LBAF 0 to 2 and SES 0 to 2; `layout` is the profile's format, used on a fresh drive (R555). -/
def execFormatNvm (id : CmdId) (lbaf ses : Nat) (layout : FormatLayout) (s : State) : Host.Outcome State Fault Refusal :=
  s.next (s.dev.adminDo id fun d => d.sanGated id fun d =>
    if 2 < lbaf then d.complete id .invalidFormat 0
    else if 2 < ses then d.complete id .invalidField 0
    else d.semRequest (hostHolder id) (.format id lbaf ses layout))

/-- A sanitize may start: none runs. -/
def Dev.sanitizeDo (d : Dev) (id : CmdId) (op : SemOp) : Dev :=
  d.adminDo id fun d =>
    if d.host.sanitize.isSome then d.complete id .sanitizeInProgress 0 else d.semRequest (hostHolder id) op

/-- SANITIZE_EXIT_FAILURE_MODE (Table 16.9). -/
def execSanitizeExitFailureMode (id : CmdId) (s : State) : Host.Outcome State Fault Refusal :=
  s.next (s.dev.sanitizeDo id (.sanitizeExit id))

/-- SANITIZE_OVERWRITE (Table 16.9): OWPASS 0 stands for 16; `fails` says that the media work of the operation fails. -/
def execSanitizeOverwrite (id : CmdId) (owpass : Nat) (ovrpat : Word) (oipbp ause fails : Bool) (s : State) :
    Host.Outcome State Fault Refusal :=
  s.next (s.dev.sanitizeDo id (.sanitize id
    { overwrite := true, passes := if owpass % 16 = 0 then 16 else owpass % 16, pattern := ovrpat.toNat, invert := oipbp,
      ause := ause, pass := 0, bands := 0, fails := fails, resumed := false }))

/-- SANITIZE_CRYPTO_ERASE (Table 16.9). -/
def execSanitizeCryptoErase (id : CmdId) (ause fails : Bool) (s : State) : Host.Outcome State Fault Refusal :=
  s.next (s.dev.sanitizeDo id (.sanitize id
    { overwrite := false, passes := 0, pattern := 0, invert := false, ause := ause, pass := 0, bands := 0, fails := fails, resumed := false }))

end Sys2Proof.Machine
end

