-- ==== Sys2Proof/Machine/Supply.lean ====
section
/-! DEFINITION. The supplies and the vault (R319 to R325, R425, R492, R493, R572, R575 to R578), and the reset of the
digital die. -/

namespace Sys2Proof.Machine

def Dev.onPd (d : Dev) (g : PowerDie → PowerDie) : Dev := { d with pd := g d.pd }

/-! ### The reset of the digital die -/

/-- Registers whose value survives a reset of the digital die: they stand in the power die, in MRAM or in the system
area. -/
def keptRegs : List Nat :=
  [Reg.SEC_KEYGEN, Reg.NVC_BOOT, Reg.PWR_SMON_STATUS, Reg.PWR_RET_STATUS, Reg.PWR_VAULT_STATUS, Reg.ZQE_JRNL_SEQ,
   Reg.ZQE_RESCUE, Reg.HBR_SEQ] ++
  (List.range 3).map (fun t => Reg.NVC_TICKET + 4 * t) ++
  (List.range 12).flatMap fun h => [Reg.WAS_HH + 4 * h, Reg.WAS_HH + 0x10000 + 4 * h]

/-- The register file after a reset: the reset values, and what is kept. -/
def Dev.resetFile (d : Dev) : List (Nat × Word) :=
  let m := keptRegs.foldl (fun m x => sset 0 m x (d.reg x)) resetRegs
  let sec := withBits 0 15 0 (d.f Reg.SEC_CNT_ERASES)
  let fmg := withBits (sget 0 m Reg.FMG_STATUS) 23 20 (d.f Reg.FMG_STATUS_RESTARTS)
  sset 0 (sset 0 m Reg.SEC_CNT sec) Reg.FMG_STATUS fmg

/-- A flash operation that the reset cuts: the erased sector is undefined, and the programmed word is a free value. -/
def NvDie.cutOp (n : NvDie) (b op k : Nat) : NvDie :=
  if op = 2 ∨ op = 3 then n.spoilSector (n.bank.get b).target
  else if op = 1 ∨ op = 4 then n.setWord (n.bank.get b).target (BitVec.ofNat 266 (Config.freeNat k))
  else n

/-- What a stride keeps without power: its part, and the folds that a checkpoint covers (R360, R361). -/
def Stride.cold (st : Stride) : Stride := { st with folded := st.cover, dirty := false }

/-- What a zone keeps without power: its buffered blocks and the writes that it holds are lost (R347). -/
def Zone.cold (zn : Zone) : Zone := { zn with held := [], waiting := [], cache := [], poison := [], oldReads := [] }

/-- The host interface after a reset: what lies in MRAM or on the media is kept. A format that has written no start
record has not begun (R430). -/
def HostIf.cold (h : HostIf) : HostIf :=
  { HostIf.fresh with
    lbaf := h.lbaf
    format := match h.format with
      | none => none
      | some r => if r.step = 0 then none else some { r with id := none }
    sanitize := h.sanitize, sanFailed := h.sanFailed, sanAuse := h.sanAuse, mediaErrors := h.mediaErrors
    unsafeStops := h.unsafeStops, loads := h.loads, unloads := h.unloads, spinUps := h.spinUps, vpd := h.vpd
    convBlocks := h.convBlocks, out := h.out, perst := h.perst }

/-- The head health records, kept in the system area (R221). -/
def WritePath.cold (w : WritePath) : WritePath := { WritePath.fresh with health := w.health }

/-- The reset of the digital die: every unit of the fresh device, with the nonvolatile die, the media, the power die and
the outputs already sent as they are. -/
def Dev.dieReset (d : Dev) : Dev :=
  let f := Dev.fresh d.variant
  { f with
    regs := d.resetFile
    clock := { Clock.fresh with nowNs := d.clock.nowNs }
    hb := { Hatband.fresh with
      recs := d.hb.recs, full := d.hb.full, seq := d.hb.seq, poisoned := d.hb.poisoned, boot := d.hb.boot,
      atPowerGood := d.hb.atPowerGood, clearing := d.hb.clearing }
    media := { d.media with sysRebuild := none }
    wr := ⟨d.wr.a0.cold, d.wr.a1.cold⟩
    pd := { d.pd with saving := false, failed := false, notice := false }
    fmg := { FaultMgr.fresh with restarts := d.fmg.restarts }
    zq := { Zones.fresh with
      zones := (d.zq.zones.map fun p => (p.1, p.2.cold)).filter fun p => decide (p.2 ≠ Zone.empty)
      count := d.zq.count, ring := d.zq.ring, image := d.zq.image, imageSeq := d.zq.imageSeq, offline := d.zq.offline }
    felt := { d.felt with
      strides := d.felt.image.map (fun p => (p.1, p.2.cold)), pairs := [], gc := [], solved := [] }
    host := d.host.cold
    nv := { (d.nv.cutOp 0 (d.flOp 0) d.free).cutOp 1 (d.flOp 1) (d.free + 1) with bank := ⟨FlashBank.fresh, FlashBank.fresh⟩, option := [], badSlots := [] }
    mpi := { Mpi.fresh with sent := d.mpi.sent }
    completions := d.completions
    reads := d.reads
    portBOff := d.portBOff
    free := d.free + 2 }

/-- The digital die holds itself in reset, and the power die turns the outputs off (R322 step 6, R578). -/
def Dev.holdReset (d : Dev) : Dev := (d.dieReset.onPd fun p => { p with held := true }).setF Reg.PWR_SMON_STATUS_CORE_PG 0

/-! ### The vault's conditions (R324, R425) -/

/-- PWR_VAULT_REASON's bits but MRAM, which the memory errors set. -/
def Dev.showReason (d : Dev) : Dev :=
  let supply := decide (d.f Reg.PWR_SMON_STATUS_GOOD12 = 0 ∨ d.f Reg.PWR_SMON_STATUS_GOOD5 = 0)
  let slow := decide (d.psSpeed d.host.ps < 200 * d.f Reg.PWR_GEN_CFG_MIN_RPM)
  (((d.setF Reg.PWR_VAULT_REASON_SUPPLY (flag supply)).setF Reg.PWR_VAULT_REASON_HOLD
    (flag (decide (d.f Reg.PWR_SMON_STATUS_GOODHOLD = 0)))).setF Reg.PWR_VAULT_REASON_STATE (flag slow)).setF
    Reg.PWR_VAULT_REASON_SPEED (flag (decide (d.f Reg.SPN_STATUS_AT_SPEED = 0)))

/-- Every condition of R324 holds, and no vault waits to be restored (R493). -/
def Dev.mayArm (d : Dev) : Bool := decide (d.reg Reg.PWR_VAULT_REASON = 0) && decide (d.nv.vault.state ≠ 1)

/-- The vault is disarmed as soon as a condition fails, unless the power-loss sequence runs. -/
def Dev.vaultTick (d : Dev) : Dev :=
  if d.pd.generator ∨ d.pd.held then d
  else
    let d1 := d.showReason
    if d1.armed ∧ !d1.mayArm then d1.setF Reg.PWR_VAULT_STATUS_ARMED 0 else d1

/-- VAULT_ARM (R324); an episode of ill health ends (R425). -/
def Dev.vaultArm (d : Dev) : Dev :=
  let d1 := d.vaultTick
  if d1.pd.generator ∨ d1.pd.held ∨ !d1.mayArm then d1
  else (d1.setF Reg.PWR_VAULT_STATUS_ARMED 1).onHost fun h => { h with unhealthy := false }

def execVaultArm (s : State) : Host.Outcome State Fault Refusal := s.next s.dev.vaultArm

/-- VAULT_UNHEALTHY (R425): raised once in an episode. -/
def Dev.vaultSick (d : Dev) : Dev :=
  if d.host.unhealthy ∨ d.armed ∨ 4 ≤ d.host.ps ∨ d.f Reg.SPN_STATUS_AT_SPEED = 0 then d
  else (d.onHost fun h => { h with unhealthy := true }).raiseAll .vaultUnhealthy

def execVaultUnhealthy (s : State) : Host.Outcome State Fault Refusal := s.next s.dev.vaultSick

/-! ### Power loss (R319, R321, R577) -/

/-- The power die's own sequence (R321): the drive stops, the windings generate, the heads retract, power fail is
signalled. -/
def Dev.powerLoss (d : Dev) : Dev :=
  let d1 := if d.spnState = 0 then d else d.driveOff 7
  (d1.onPd fun p => { p with generator := true, failed := true }).retract 1

/-- A supply drop of some inputs (R319); before power good it only stops the power-up (R576). -/
def Dev.supplyDrop (d : Dev) (cause : Nat) (v12 v5 core : Bool) : Dev :=
  let good (d : Dev) : Dev :=
    let d1 := if v12 then d.setF Reg.PWR_SMON_STATUS_GOOD12 0 else d
    let d2 := if v5 then d1.setF Reg.PWR_SMON_STATUS_GOOD5 0 else d1
    if core then d2.setF Reg.PWR_SMON_STATUS_CORE_PG 0 else d2
  if d.pd.generator ∨ d.pd.held then good d
  else if d.f Reg.PWR_SMON_STATUS_CORE_PG = 0 then (good d).holdReset
  else (((good d).setF Reg.PWR_SMON_STATUS_TRIP 1).setF Reg.PWR_SMON_STATUS_CAUSE cause).powerLoss

/-- SUPPLY_DROP (R319): the inputs that stayed low for the filter time, or the core rail. -/
def execSupplyDrop (v12 v5 core : Bool) (s : State) : Host.Outcome State Fault Refusal :=
  s.next (if v12 || v5 || core then
    s.dev.supplyDrop (if v12 && v5 then 3 else if v12 then 1 else if v5 then 2 else 4) v12 v5 core
  else s.dev)

/-- PWRDIS (R577): as a supply drop of both inputs; one that meets a running sequence changes nothing. -/
def execPwrdis (s : State) : Host.Outcome State Fault Refusal :=
  s.next (if s.dev.pd.generator ∨ s.dev.pd.held then s.dev else s.dev.supplyDrop 3 false false false)

/-! ### The vault save (R322, R323, R493) -/

/-- Domains that stay on for the save: those that no state turns off, the vault path (R519), and the buffer banks and
DRAM that hold dirty data. -/
def Dev.vaultPath (d : Dev) (i : Nat) : Bool :=
  decide (i ∈ [57, 67, 73, 74, 75, 76, 77, 34, 53, 64, 65, 66, 78, 50, 51]) ||
  (decide (34 ≤ i ∧ i ≤ 49) && d.bankHeld (i - 34))

/-- What the vault takes: every dirty region (R322). -/
def Dev.vaultBlocks (d : Dev) : List VaultBlock :=
  (d.zq.zones.flatMap fun p => p.2.cache.map fun q =>
    { conv := false, zone := p.1, off := q.1, value := some q.2 }) ++
  d.host.dirty.map fun q => { conv := true, zone := 0, off := q.1, value := some q.2 }

/-- The header of a save and what its stream holds (R493 steps 1 and 2). -/
def Dev.openVault (d : Dev) : Dev :=
  { d with nv := { d.nv with vault := { d.nv.vault with
    state := 1, count := d.nv.vault.count + 1, sealed := false
    deltas := d.felt.strides
    blocks := d.vaultBlocks, snapshot := d.hb.recs.drop d.hb.atPowerGood } } }

/-- Steps 1, 3 and 4 of R322; step 2 is taken at the tick edge (R302). -/
def Dev.failSteps (d : Dev) : Dev :=
  let park (d : Dev) (a : Act) : Dev := if d.hasAct a then d.inhibit a 0xE else d
  let d1 := park (park d .a0) .a1
  let d2 := (d1.dropWrites fun _ => true).drainAll
  let d3 := { d2.onHost (fun h => { h with mayReady := false, cmds := [] }) with zq := { d2.zq with released := [] } }
  let d4 := (d3.onCtrl .A fun c => { c with stopped := true }).onCtrl .B fun c => { c with stopped := true }
  (List.range 80).foldl (fun (d : Dev) i => if d4.vaultPath i then d else d.setDomOn i false) d4

/-- POWER_FAIL (R322): steps 1 to 5. An unarmed vault is left untouched (R324), and the digital die goes to reset. -/
def Dev.powerFail (d : Dev) : Dev :=
  if !d.pd.failed ∨ d.pd.saving ∨ d.pd.held then d
  else
    let d1 := d.failSteps
    if d1.armed then (d1.openVault.setF Reg.FUL_STATUS_VAULT 1).onPd fun p => { p with saving := true }
    else (d1.setF Reg.PWR_VAULT_STATUS_LAST 2).holdReset

def execPowerFail (s : State) : Host.Outcome State Fault Refusal := s.next s.dev.powerFail

/-- The seal (R493 step 3), with PWR_VAULT_STATUS as at the seal. -/
def Dev.sealVault (d : Dev) (ms mj : Nat) : Dev :=
  let d1 := (((d.setF Reg.PWR_VAULT_STATUS_ARMED 0).setF Reg.PWR_VAULT_STATUS_LAST 1).setF Reg.PWR_VAULT_STATUS_TIME ms).setF
    Reg.PWR_VAULT_STATUS_ENERGY mj
  { d1 with
    nv := { d1.nv with vault := { d1.nv.vault with sealed := true, status := d1.reg Reg.PWR_VAULT_STATUS } }
    host := { d1.host with unsafeStops := d1.host.unsafeStops + 1 } }

/-- VAULT_SEAL (R322 step 6, R323): the save's time and energy are observed. -/
def execVaultSeal (ms mj : Nat) (s : State) : Host.Outcome State Fault Refusal :=
  s.next (if s.dev.pd.saving then (s.dev.sealVault ms mj).holdReset else s.dev)

/-- VHOLD_LOST (R323): a running save ends without a seal. -/
def Dev.vholdLost (d : Dev) : Dev :=
  let d1 := d.setF Reg.PWR_SMON_STATUS_GOODHOLD 0
  if d1.pd.saving then ((d1.setF Reg.PWR_VAULT_STATUS_ARMED 0).setF Reg.PWR_VAULT_STATUS_LAST 3).holdReset
  else if d1.pd.generator then d1.holdReset
  else d1

def execVholdLost (s : State) : Host.Outcome State Fault Refusal := s.next s.dev.vholdLost

/-! ### Power up (R320, R575, R576) -/

/-- SUPPLY_GOOD (R320): inputs above their thresholds plus HYST. With both good and the module not held off, the
converters start in order (R575), and VHOLD charges from 12 V; a start that waits for the supplies begins. -/
def Dev.supplyGood (d : Dev) (v12 v5 : Bool) : Dev :=
  let d1 := if v12 then d.setF Reg.PWR_SMON_STATUS_GOOD12 1 else d
  let d2 := if v5 then d1.setF Reg.PWR_SMON_STATUS_GOOD5 1 else d1
  if d2.pd.held ∨ d2.pd.generator ∨ d2.f Reg.PWR_SMON_STATUS_GOOD12 = 0 ∨ d2.f Reg.PWR_SMON_STATUS_GOOD5 = 0 then d2
  else
    let d3 := (d2.setF Reg.PWR_SMON_STATUS_CORE_PG 1).setF Reg.PWR_SMON_STATUS_GOODHOLD 1
    if d3.spn.wanted then d3.tryStart else d3

def execSupplyGood (v12 v5 : Bool) (s : State) : Host.Outcome State Fault Refusal := s.next (s.dev.supplyGood v12 v5)

/-- SUPPLIES_GOOD_100_MS (R576 to R578): the power die starts the module again from step 1. -/
def Dev.powerAgain (d : Dev) : Dev :=
  if !d.pd.held then d
  else
    let d1 := d.dieReset.onPd fun p => { PowerDie.fresh with retract := p.retract, moving := p.moving }
    let d2 := { d1 with clock := Clock.fresh, fmg := FaultMgr.fresh }
    let d3 := ((d2.setF Reg.FMG_STATUS_RESTARTS 0).setF Reg.PWR_SMON_STATUS_GOOD12 1).setF Reg.PWR_SMON_STATUS_GOOD5 1
    (d3.setF Reg.PWR_SMON_STATUS_CORE_PG 1).setF Reg.PWR_SMON_STATUS_GOODHOLD 1

def execSuppliesGood100Ms (s : State) : Host.Outcome State Fault Refusal := s.next s.dev.powerAgain

/-! ### Motor outputs (R572) -/

/-- MOTOR_OUTPUT_SHORT: output 0 is the spindle, 1 and 2 the voice coils, 3 and 4 the microactuators. -/
def Dev.outputShort (d : Dev) (n : Nat) : Dev :=
  let d1 := d.onPd fun p => { p with outputsOff := p.outputsOff ||| 2 ^ n }
  if n = 0 then (if d1.spnState = 0 then d1 else d1.driveOff 7).reportFault .spindle 7
  else
    let a := Act.ofBit ((n - 1) % 2)
    if d1.hasAct a then d1.reportFault (.servoEngine a) 7 else d1

def execMotorOutputShort (output : Nat) (s : State) : Host.Outcome State Fault Refusal :=
  s.next (if output < 5 then s.dev.outputShort output else s.dev)

end Sys2Proof.Machine
end

