-- ==== Sys2Proof/Machine/Faults.lean ====
section
/-! DEFINITION. Faults, watchdogs and module restarts (chapter 23), the faults of the complexes (R449, R452), and the
requests between units (R32 to R36). -/

namespace Sys2Proof.Machine

def Dev.onFmg (d : Dev) (g : FaultMgr → FaultMgr) : Dev := { d with fmg := g d.fmg }

/-! ### The log and the count (R530, R531) -/

/-- The block that a fault of a unit is logged under. -/
def faultBlock : FUnit → Block
  | .servoLane a => .srv a
  | .servoEngine a => .srv a
  | .controlStore a => .cst a
  | .blocker a => .blk a
  | .channelLane a => .chn a
  | .record a => .chn a
  | .tenil a => .tnl a
  | .spindle => .spn
  | .core _ => .sys
  | .complex _ => .cpx
  | .crown => .crn
  | .fuller => .ful
  | .hatband => .hbr
  | .felt => .flt
  | .buffer => .buf
  | .dram => .dmc
  | .zqe => .zqe
  | .security => .sec
  | .faultManager => .fmg
  | .assist a => .was a
  | .writeBack a => .chn a

/-- FMG_ELOG.CORE. -/
def faultCore : FUnit → Nat
  | .core n => n.val
  | _ => 0

/-- A fault counted, latched in FMG_ELOG if that is empty, and noted in the history, with its one Hatband event. -/
def Dev.countFault (d : Dev) (u : FUnit) (cause : Nat) : Dev :=
  let d1 := d.bumpF Reg.FMG_CNT_FAULTS 1
  let d2 := if d1.f Reg.FMG_ELOG_VALID = 1 then d1
    else ((((d1.setF Reg.FMG_ELOG_VALID 1).setF Reg.FMG_ELOG_CAUSE cause).setF Reg.FMG_ELOG_BLOCK (faultBlock u).index).setF
      Reg.FMG_ELOG_CORE (faultCore u)).setF Reg.FMG_ELOG_WEDGE d1.clock.wedge.toNat
  let d3 := d2.event Ev.other .fmg (faultBlock u).index cause
  d3.onFmg fun m => { m with history := (u, d.clock.nowNs) :: m.history }

/-- A unit's faults over the last WINDOW seconds. -/
def Dev.faultCount (d : Dev) (u : FUnit) : Nat :=
  (d.fmg.history.filter fun p => decide (p.1 = u ∧ d.clock.nowNs < p.2 + 1000000000 * d.f Reg.FMG_CFG_WINDOW)).length

def Dev.isFailed (d : Dev) (u : FUnit) : Bool := decide (u ∈ d.fmg.failed)

def Dev.isRecovering (d : Dev) (u : FUnit) : Bool := decide (u ∈ d.fmg.recovering)

def Dev.recover (d : Dev) (u : FUnit) : Dev := d.onFmg fun m => { m with recovering := u :: m.recovering }

/-- A unit fails (R531, R540): shown in FMG_FAILED, and reported once. -/
def Dev.markFailed (d : Dev) (u : FUnit) : Dev :=
  let i := (faultBlock u).index
  let x := Reg.FMG_FAILED_FAILED.nth (i / 32)
  let d1 := (d.setF x (putBit (d.f x) (i % 32) true)).onFmg fun m => { m with failed := u :: m.failed }
  if decide (u ∈ d1.fmg.reported) then d1
  else (d1.onFmg fun m => { m with reported := u :: m.reported }).raiseAll .internalError

/-! ### Losing an actuator, and the media (R534) -/

/-- Every host command that waits ends with Namespace Not Ready, DNR 1. -/
def Dev.endIo (d : Dev) : Dev :=
  let cs := d.host.cmds
  let d1 := (d.dropWrites fun _ => true).withdrawReads fun _ => true
  cs.foldl (fun (d : Dev) c => d.completeFull c.id .namespaceNotReady true 0 0) d1

/-- The media becomes unavailable: the heads stay on the ramps. -/
def Dev.loseMedia (d : Dev) : Dev :=
  let d1 := (d.onFmg fun m => { m with mediaOff := true }).unloadAll.endIo
  if d1.bootStep < 11 then d1.setF Reg.SYS_BOOT_RESULT 3 else d1

/-- A read of a failed actuator goes to rung 7, when its plan holds it (R366, R534). -/
def Dev.endsAt7 (d : Dev) (a : Act) (r : LadderRec) : Dev :=
  let d1 := d.onDet a fun t => t.dropAttempts r
  if d1.planHolds r.plan 7 then d1.enterRung a { r with rung := 2 } 7 else d1.unrecovered a r

/-- The record that a read request of one record asks for. -/
def Dev.requestRec (d : Dev) (r : BlkReq) : Option LadderRec :=
  if r.op ≠ 0 then none
  else
    match sget none d.host.tags r.tag, d.band r.band with
    | some info, some b =>
      let p := if b.kind = 2 then d.mapConv info.lba info.copy else d.mapZoned info.lba
      p.map fun p => { tag := r.tag, band := p.band, pos := p.pos, slot := p.slot, conv := decide (b.kind = 2), rung := 2,
                       plan := r.rung, noback := true, distrust := false, ends := true, single := false, sync2 := false,
                       cut := false }
    | _, _ => none

/-- The work of a failed actuator: its reads go to rung 7, its writes are dropped. -/
def Dev.dropActuator (d : Dev) (a : Act) : Dev :=
  let b := d.blk.get a
  let t := d.det.get a
  let recs := (match b.cur with | some r => [r] | none => []) ++ b.queue ++ b.heldReqs
  let reads := recs.filterMap d.requestRec
  let ladder := (match t.active with | some r => [r] | none => []) ++ t.queue ++ t.ready ++ t.decodes
  let d1 := d.onBlk a fun b => { b with queue := [], heldReqs := [], cur := none, frag := none, recOpen := none }
  let d2 := d1.onDet a fun t => { t with active := none, queue := [], ready := [], decodes := [] }
  let fresh := reads.filter fun r => !ladder.any fun q => decide (q.tag = r.tag)
  (ladder ++ fresh).foldl (fun (d : Dev) r => d.endsAt7 a r) d2

/-- An actuator fails: its heads are declared failing, its domains are wanted no more, and with no actuator left the
media is unavailable. -/
def Dev.failActuator (d : Dev) (a : Act) : Dev :=
  if d.fmg.actFailed.get a then d
  else
    let d1 := d.emergencyPark a
    let d2 := if d1.loadState a = 1 ∨ d1.loadState a = 2 then d1.unload a else d1
    let d3 := d2.onFmg fun m => { m with actFailed := m.actFailed.set a true }
    let d4 := (List.range d3.conf.nh).foldl (fun (d : Dev) h => d.headFailing a h) d3
    let d5 := (d4.dropActuator a).settle
    if [Act.a0, Act.a1].all fun x => !d5.hasAct x || d5.fmg.actFailed.get x then d5.loseMedia else d5

/-! ### Module restart (R538) -/

/-- Restarts within the last hour, none after FMG_STATUS.RESTARTS was cleared. -/
def Dev.recentRestarts (d : Dev) : List Nat :=
  if d.f Reg.FMG_STATUS_RESTARTS = 0 then []
  else d.fmg.restarts.filter fun t => decide (d.clock.nowNs < t + 3600000000000)

/-- The save of step 2; how long it takes and what it spends is open. -/
def Dev.restartSave (d : Dev) : Dev :=
  if d.armed then
    let d1 := d.failSteps.openVault
    (d1.sealVault (Config.freeNat d1.free) (Config.freeNat (d1.free + 1))).tookFree.tookFree
  else d

/-- A module restart: retract, save, reset, and start-up from the load of the option area. During a power loss or while
held in reset the power die's own sequence goes on. -/
def Dev.moduleRestart (d : Dev) (cause : Nat) : Dev :=
  if d.pd.generator ∨ d.pd.held then d
  else
    let times := d.clock.nowNs :: d.recentRestarts
    let pins := d.f Reg.SYS_STRAP_PINS
    let d1 := ((d.retract cause).restartSave).dieReset
    let d2 := (d1.onFmg fun m => { m with restarts := times }).setF Reg.FMG_STATUS_RESTARTS (Nat.min 15 times.length)
    (d2.setF Reg.SYS_STRAP_PINS pins).setF Reg.SYS_BOOT_STEP 2

/-! ### Actions of Table 23.1 -/

/-- A counted unit reset. -/
def Dev.countedReset (d : Dev) (b : Block) : Dev := (d.resetUnit (.block b)).bumpF Reg.FMG_CNT_RESETS 1

/-- EMERGENCY_PARK, unload, engine reset and a load; with the heads on the ramp the reset follows at once. -/
def Dev.servoFault (d : Dev) (a : Act) : Dev :=
  if (d.srv.get a).reacq.isSome then d
  else
    let d1 := (d.recover (.servoEngine a)).emergencyPark a
    if d1.loadState a = 0 ∨ d1.loadState a = 4 then d1.restartEngine a
    else if d1.loadState a = 3 then d1
    else d1.unload a

/-- Both copies of the records in use restored from the adapted tables in the system area (Table 23.1). -/
def Dev.restoreRecords (d : Dev) (a : Act) : Dev :=
  let d1 := ((d.onChn a fun c => { c with rzBad := false }).onWr a fun w => { w with wrBad := false }).onAssist a
    fun l => { l with recBad := false }
  match (d1.chn.get a).key with
  | none => d1
  | some k => d1.copyRecords a k.1 k.2

/-- A management core isolated and restarting (R535): its ready notice ends the restart. -/
def Dev.restartCore (d : Dev) (n : Fin 4) : Dev :=
  let d1 := ((d.recover (.core n)).resetUnit (.core n)).bumpF Reg.FMG_CNT_RESETS 1
  d1.setF Reg.FMG_STATUS_CORES (putBit (d1.f Reg.FMG_STATUS_CORES) n.val false)

/-- Management cores in service. -/
def Dev.coresUp (d : Dev) : Nat := ((List.range 4).filter fun n => testBit (d.f Reg.FMG_STATUS_CORES) n).length

/-- An activation that a fault of a complex meets: before the end of step 3 it runs backward, from then on forward
(R454). -/
def Dev.activationFault (d : Dev) : Dev :=
  match d.cpx.act with
  | none => d
  | some v =>
    if 4 ≤ v.step then d
    else
      let d1 := d.onCpx fun x => { x with act := none }
      (match v.id with | none => d1 | some id => d1.complete id .activationProhibited 0).semEnd.semSettle

/-- A faulty complex (R449 to R452): the takeover, its reload, and a module restart when neither is in service. -/
def Dev.complexFault (d : Dev) (c : Cpx) (cause stall : Nat) : Dev :=
  let d1 := ((d.takeover c cause stall).bumpF Reg.FMG_CNT_RESETS 1).onCpx fun x =>
    { x with reloaded := x.reloaded.set c.idx true }
  let d2 := d1.activationFault
  if d2.cpxState .X = 6 ∧ d2.cpxState .Y = 6 then d2.moduleRestart 2 else d2

/-- The action of a fault that fails no unit. `own` says that the unit itself has already acted on it. -/
def Dev.faultAction (d : Dev) (u : FUnit) (cause : Nat) (own : Bool) (stall : Nat) : Dev :=
  match u with
  | .servoEngine a =>
    if cause = 1 then d
    else if d.bootStep < 11 ∧ 3 ≤ (d.srv.get a).loadTries then d.failActuator a
    else d.servoFault a
  | .controlStore a => if own then d else (d.reloadBlocker a).bumpF Reg.FMG_CNT_RESETS 1
  | .blocker a => if cause = 1 then d else (d.reloadBlocker a).bumpF Reg.FMG_CNT_RESETS 1
  | .record a => d.restoreRecords a
  | .tenil a => (d.setF (Reg.TNL_STATUS_FAILED.on a) 1).failActuator a
  | .spindle =>
    let d1 := if own then d else (if d.spnState = 0 then d else d.driveOff 7).setF Reg.SPN_STATUS_FAULT 1
    if d1.bootStep < 11 then d1.loseMedia else d1
  | .core n => d.restartCore n
  | .complex c => d.complexFault c (if cause = 5 then 1 else if cause = 2 then 4 else 2) stall
  | .crown => (d.recover .crown).crownClear.countedReset .crn
  | .fuller => (d.recover .fuller).countedReset .ful
  | .hatband => (d.recover .hatband).countedReset .hbr
  | .felt => (d.recover .felt).countedReset .flt
  | .buffer => d.moduleRestart 2
  | .dram => d.moduleRestart 2
  | .zqe => d.moduleRestart 2
  | .security => d.moduleRestart 2
  | .faultManager => d.moduleRestart 3
  | .servoLane _ => d
  | .channelLane _ => d
  | .assist _ => d
  | .writeBack _ => d

/-- The "On failure" column. -/
def Dev.failureAction (d : Dev) (u : FUnit) (cause stall : Nat) : Dev :=
  match u with
  | .servoLane a => d.reportFault (.servoEngine a) 7
  | .servoEngine a => d.failActuator a
  | .controlStore a => d.failActuator a
  | .blocker a => d.failActuator a
  | .record a => match (d.chn.get a).key with | none => d | some k => d.headFailing a k.1
  | .tenil a => d.failActuator a
  | .spindle => ((if d.spnState = 0 then d else d.driveOff 7).setF Reg.SPN_STATUS_FAULT 1).loseMedia
  | .core n =>
    let d1 := d.setResetting (.core n) true
    let d2 := d1.setF Reg.FMG_STATUS_CORES (putBit (d1.f Reg.FMG_STATUS_CORES) n.val false)
    if d2.coresUp < 2 then d2.moduleRestart 2 else d2
  | .complex c => d.complexFault c (if cause = 5 then 1 else if cause = 2 then 4 else 2) stall
  | .crown => d.moduleRestart 2
  | .fuller => d.moduleRestart 2
  | .hatband => d.moduleRestart 2
  | .felt => d.moduleRestart 2
  | .buffer => d.moduleRestart 2
  | .dram => d.moduleRestart 2
  | .zqe => d.moduleRestart 2
  | .security => d.moduleRestart 2
  | .faultManager => d.moduleRestart 3
  | .channelLane _ => d
  | .assist _ => d
  | .writeBack _ => d

/-- Units that Table 23.1 gives an outcome on failure; the others handle each fault alike. -/
def canFail : FUnit → Bool
  | .complex _ => false
  | .channelLane _ => false
  | .assist _ => false
  | .writeBack _ => false
  | .buffer => false
  | .dram => false
  | .zqe => false
  | .security => false
  | .faultManager => false
  | _ => true

/-- A fault as the fault manager takes it (R530, R531). -/
def Dev.takeFault (d : Dev) (u : FUnit) (cause : Nat) (own : Bool) (stall : Nat) : Dev :=
  let d1 := d.countFault u cause
  if d1.isFailed u then d1
  else if canFail u ∧ d1.f Reg.FMG_CFG_LIMIT ≤ d1.faultCount u then (d1.markFailed u).failureAction u cause stall
  else if d1.isRecovering u then d1
  else d1.faultAction u cause own stall

/-- A unit instance that the variant holds. -/
def Dev.hasUnit (d : Dev) : FUnit → Bool
  | .felt => d.hasFelt
  | .servoLane a => d.hasAct a
  | .servoEngine a => d.hasAct a
  | .controlStore a => d.hasAct a
  | .blocker a => d.hasAct a
  | .channelLane a => d.hasAct a
  | .record a => d.hasAct a
  | .tenil a => d.hasAct a
  | .assist a => d.hasAssist a
  | .writeBack a => d.hasAct a
  | _ => true

/-- FAULT (R529 to R535): the oldest fault that a unit has reported, or one found outside the model with its CAUSE. -/
def Dev.fault (d : Dev) (ext : Option (FUnit × Nat)) (stall : Nat) : Dev :=
  match ext with
  | some (u, cause) => if d.hasUnit u then d.takeFault u cause false stall else d
  | none =>
    match d.fmg.queue with
    | [] => d
    | (u, cause) :: rest => (d.onFmg fun m => { m with queue := rest }).takeFault u cause true stall

def execFault (ext : Option (FUnit × Nat)) (stall : Nat) (s : State) : Host.Outcome State Fault Refusal :=
  s.next (s.dev.fault ext stall)

/-! ### Watchdogs (R536) -/

/-- CORE_WATCHDOG. -/
def execCoreWatchdog (n : Fin 4) (s : State) : Host.Outcome State Fault Refusal := s.next (s.dev.takeFault (.core n) 2 true 0)

/-- COMPLEX_WATCHDOG: `stall` is the stall of a takeover in µs. -/
def execComplexWatchdog (c : Cpx) (stall : Nat) (s : State) : Host.Outcome State Fault Refusal :=
  s.next (if s.dev.cpxUp c then s.dev.takeFault (.complex c) 2 true stall else s.dev)

/-- BLOCKER_WATCHDOG: it runs while a request is accepted. -/
def execBlockerWatchdog (a : Act) (s : State) : Host.Outcome State Fault Refusal :=
  s.next (if s.dev.hasAct a && (s.dev.blk.get a).cur.isSome then s.dev.takeFault (.blocker a) 2 true 0 else s.dev)

/-- MODULE_WATCHDOG (R538): one serviced within its period does not expire. -/
def execModuleWatchdog (s : State) : Host.Outcome State Fault Refusal :=
  s.next (if s.dev.fmg.kicked then s.dev.onFmg fun m => { m with kicked := false } else s.dev.moduleRestart 3)

/-- FMG_KICK. -/
def Dev.kick (d : Dev) : Dev := d.onFmg fun m => { m with kicked := true }

def execFmgKick (s : State) : Host.Outcome State Fault Refusal := s.next s.dev.kick

/-- The unit instance of Table 23.1 that a unit with a generation stands for. -/
def faultUnit : UnitId → Option FUnit
  | .core n => some (.core n)
  | .complex c => some (.complex c)
  | .block (.blk a) => some (.blocker a)
  | .block (.cst a) => some (.controlStore a)
  | .block (.srv a) => some (.servoEngine a)
  | .block (.chn a) => some (.channelLane a)
  | .block (.was a) => some (.assist a)
  | .block (.tnl a) => some (.tenil a)
  | .block .crn => some .crown
  | .block .ful => some .fuller
  | .block .hbr => some .hatband
  | .block .flt => some .felt
  | .block .buf => some .buffer
  | .block .dmc => some .dram
  | .block .zqe => some .zqe
  | .block .sec => some .security
  | .block .fmg => some .faultManager
  | .block .spn => some .spindle
  | _ => none

/-- READY_LIMIT_EXPIRED (R529): a unit that is still resetting at its limit; its running recovery starts anew. -/
def Dev.readyLimit (d : Dev) (u : UnitId) : Dev :=
  if !d.isResetting u then d
  else
    match faultUnit u with
    | none => d
    | some f =>
      if d.isFailed f then d
      else (d.onFmg fun m => { m with recovering := m.recovering.filter fun x => decide (x ≠ f) }).takeFault f 6 false 0

def execReadyLimitExpired (u : UnitId) (s : State) : Host.Outcome State Fault Refusal := s.next (s.dev.readyLimit u)

/-! ### Faults of a complex (R449) -/

/-- HEARTBEAT_TIMEOUT: CAUSE 3 of CPX_TAKE_LOG, a watchdog's CAUSE in FMG_ELOG. -/
def execHeartbeatTimeout (c : Cpx) (stall : Nat) (s : State) : Host.Outcome State Fault Refusal :=
  s.next (if s.dev.cpxUp c then (s.dev.countFault (.complex c) 2).complexFault c 3 stall else s.dev)

/-- LOCKSTEP_MISMATCH. -/
def execLockstepMismatch (c : Cpx) (stall : Nat) (s : State) : Host.Outcome State Fault Refusal :=
  s.next (if s.dev.cpxUp c then (s.dev.countFault (.complex c) 5).complexFault c 1 stall else s.dev)

/-! ### Requests between units (R32 to R36) -/

/-- The power domain that a unit stands in. -/
def unitDomain (u : UnitId) : Option Nat := (List.range 80).find? fun i => decide (domainUnit i = some u)

/-- The unit's domain is on and is not being turned off. -/
def Dev.unitPowered (d : Dev) (u : UnitId) : Bool :=
  match unitDomain u with
  | none => true
  | some i => d.domOn i && !d.pw.turningOff.any fun x => decide (x.1 = i)

/-- UNIT_REQUEST (R34, R524): refused and held by its requester, or accepted; a domain in low mode leaves it. -/
def Dev.unitRequest (d : Dev) (r : UnitReq) : Dev :=
  let hold := { d with
    units := { d.units with held := d.units.held ++ [r] }
    pw := match unitDomain r.target with | none => d.pw | some i => d.pw.askRewake i }
  if !d.unitPowered r.target then hold
  else
    let d1 := match unitDomain r.target with | none => d | some i => d.setDomLow i false
    if d.isResetting r.target ∨ d.gen r.target ≠ r.targetGen ∨ d.gen r.target = 0 then
      { d1 with units := { d1.units with held := d1.units.held ++ [r] } }
    else { d1 with units := { d1.units with outstanding := d1.units.outstanding ++ [r] } }

def execUnitRequest (r : UnitReq) (s : State) : Host.Outcome State Fault Refusal := s.next (s.dev.unitRequest r)

/-- UNIT_RESPONSE (R35): one that names a stale generation is discarded; otherwise its request is done. -/
def Dev.unitResponse (d : Dev) (r : UnitReq) : Dev :=
  let mine (q : UnitReq) : Bool := decide (q.tag = r.tag ∧ q.requester = r.requester ∧ q.target = r.target)
  if r.targetGen = d.gen r.target ∧ r.requesterGen = d.gen r.requester ∧ d.units.outstanding.any mine then
    { d with units := { d.units with
      outstanding := d.units.outstanding.filter fun q => !mine q, answered := r.tag :: d.units.answered } }
  else d

def execUnitResponse (r : UnitReq) (s : State) : Host.Outcome State Fault Refusal := s.next (s.dev.unitResponse r)

/-- What a unit's reset does beside its generation. -/
def Dev.resetEffect (d : Dev) (u : UnitId) : Dev :=
  match u with
  | .block .crn => d.crownClear
  | .block (.blk a) =>
    let b := d.blk.get a
    let d1 := d.cancelStamps a
    let d2 := if b.wg || b.frag.any (fun r => r.write) then d1.writeFault a 0xD else d1
    ((d2.cutRead a).laneOff a).onBlk a fun b => { b with resetting := true, wait := .run }
  | .block (.was a) => d.laneOff a
  | .core n => d.setF Reg.FMG_STATUS_CORES (putBit (d.f Reg.FMG_STATUS_CORES) n.val false)
  | _ => d

/-- UNIT_RESET (R32); a unit whose domain is off or being turned off resets with its power. -/
def Dev.unitReset (d : Dev) (u : UnitId) : Dev :=
  if !d.unitPowered u then d
  else
    match u with
    | .complex c => (d.resetCpx c 5).bumpF Reg.FMG_CNT_RESETS 1
    | _ => ((d.resetEffect u).resetUnit u).bumpF Reg.FMG_CNT_RESETS 1

def execUnitReset (u : UnitId) (s : State) : Host.Outcome State Fault Refusal := s.next (s.dev.unitReset u)

/-- READY_NOTICE (R36): only with no response of an earlier generation in flight. -/
def Dev.readyNotice (d : Dev) (u : UnitId) (oldInFlight : Bool) : Dev :=
  let stays : Bool := match faultUnit u with | none => false | some f => d.isFailed f
  if oldInFlight ∨ !d.isResetting u ∨ !d.unitPowered u ∨ stays then d
  else
    let d0 := d.onFmg fun m => { m with recovering := m.recovering.filter fun x => decide (some x ≠ faultUnit u) }
    match u with
    | .complex c => d0.cpxReady c
    | .core n => (d0.readyUnit u).setF Reg.FMG_STATUS_CORES (putBit (d0.f Reg.FMG_STATUS_CORES) n.val true)
    | .block (.blk a) =>
      if (d0.blk.get a).loaded then ((d0.replayBlocker a).blockerFresh a (d0.imageOf a)).readyUnit u else d0
    | .block .crn => (d0.readyUnit u).crownSettle
    | _ => d0.readyUnit u

def execReadyNotice (u : UnitId) (oldInFlight : Bool) (s : State) : Host.Outcome State Fault Refusal :=
  s.next (s.dev.readyNotice u oldInFlight)

end Sys2Proof.Machine
end

