-- ==== Sys2Proof/Machine/Live.lean ====
section
/-! DEFINITION. A register as a read shows it: its committed value, with the read-only fields that the units hold
elsewhere laid over it (the register tables of every chapter). -/

namespace Sys2Proof.Machine

/-- The four words of a trim record (Table 02.1). -/
def TrimRec.words (t : TrimRec) : List Nat :=
  [t.addr, t.space * 2 ^ 28 + t.msb * 2 ^ 22 + t.lsb * 2 ^ 16 + t.reason * 2 ^ 8 + t.group, t.written, t.applied]

/-- The mask of bits n − 1 to 0 for which a test holds. -/
def maskOf (n : Nat) (p : Nat → Bool) : Nat := (List.range n).foldl (fun m i => m + flag (p i) * 2 ^ i) 0

/-- The SIZ fields that the report holds (Table 02.5). -/
def Dev.liveSiz (d : Dev) : List (Fld × Nat) :=
  let w := ((d.conf.trims[d.f Reg.SIZ_TRIM_CUR_INDEX]?).map TrimRec.words).getD []
  [(Reg.SIZ_STATUS_PENDING, flag !d.conf.staged.isEmpty), (Reg.SIZ_TRIM_CNT_OVERFLOW, flag d.conf.trimOverflow),
   (Reg.SIZ_TRIM_CNT_COUNT, d.conf.trims.length)] ++
  (List.range 4).map fun i => (Reg.SIZ_TRIM_W_WORD.nth i, w.getD i 0)

/-- A Blocker's status registers (Table 04.9). -/
def Dev.liveBlk (d : Dev) (a : Act) : List (Fld × Nat) :=
  let b := d.blk.get a
  let entry := decide (b.wait = .cond) && decide (b.pc.toNat = d.f (Reg.BLK_VEC_ENTRY.on a))
  [(Reg.BLK_STATUS_GEN, d.gen (.block (.blk a))), (Reg.BLK_STATUS_RELOADING, flag b.reloading),
   (Reg.BLK_STATUS_LOAD_PENDING, flag b.loadPending), (Reg.BLK_STATUS_DEPTH, b.depth),
   (Reg.BLK_STATUS_HALTED, flag b.halted), (Reg.BLK_STATUS_WAITING, flag (decide (b.wait ≠ .run))),
   (Reg.BLK_STATUS_IDLE, flag entry), (Reg.BLK_STATUS_PC, b.pc.toNat), (Reg.BLK_EVT_PEND_EVT, b.events / 2),
   (Reg.BLK_PLANK_ENTRY, (b.plank.cur.map Prod.fst).getD 0xFFFF),
   (Reg.BLK_PLANK_TABLE, (b.plank.bind.map Binding.table).getD 0xFFFF),
   (Reg.BLK_LAST_STAMP_STAMP, b.lastStamp)].map fun p => (p.1.on a, p.2)

/-- The replay buffers and the ladder (R175, R188; Table 06.8). -/
def Dev.liveChn (d : Dev) (a : Act) : List (Fld × Nat) :=
  let t := d.det.get a
  let free := (t.bufs.filter fun b => decide (b.st = .free)).length
  [(Reg.CHN_RPL_STATUS_FREE, free), (Reg.CHN_LADDER_STATUS_RUNG, (t.active.map LadderRec.rung).getD 0),
   (Reg.CHN_LADDER_STATUS_ACTIVE, flag t.active.isSome),
   (Reg.CHN_LADDER_STATUS_TAG, (t.active.map LadderRec.tag).getD 0),
   (Reg.CHN_LADDER_QUEUE_DEPTH, t.queue.length)].map fun p => (p.1.on a, p.2)

/-- The lanes in use and powered (R130; Table 05.5). -/
def Dev.liveAfe (d : Dev) (a : Act) : List (Fld × Nat) :=
  let used (e : Nat) : Bool := (List.range d.conf.nh).any fun h => testBit (sget 0 d.conf.readers (12 * a.idx + h)) e
  [(Reg.AFE_LANE_STATUS_PWR.on a, maskOf 3 fun e => d.domOn (laneDomain a e)),
   (Reg.AFE_LANE_STATUS_USED.on a, maskOf 3 used)]

/-- The write path's status (Table 07.6). -/
def Dev.liveWas (d : Dev) (a : Act) : List (Fld × Nat) :=
  let w := d.wr.get a
  [(Reg.WAS_STATUS_UNWIND.on a, maskOf 12 fun h => d.unwinding a h),
   (Reg.WAS_STATUS_INH_CAUSE.on a, inhCause w.inhibits),
   (Reg.WAS_STATUS_INHIBIT.on a, flag (decide (w.inhibits ≠ 0))), (Reg.WAS_STATUS_WG.on a, flag (d.blk.get a).wg),
   (Reg.WAS_STATUS_WR_SUSP.on a, flag ((List.range 12).any fun h => sget false w.suspended h))]

/-- The zone engine's registers (Table 12.6). -/
def Dev.liveZqe (d : Dev) : List (Fld × Nat) :=
  let held := (d.zq.zones.map fun p => (p.2.held.map ZWrite.len).sum).sum
  let z := d.zone (d.f Reg.ZQE_ZSEL_ZONE)
  [(Reg.ZQE_STATUS_ACTIVE, d.activeCount), (Reg.ZQE_STATUS_OPEN, d.openCount), (Reg.ZQE_HELD_ZONES, d.slotsInUse),
   (Reg.ZQE_HELD_MIB, ceilDiv held 256), (Reg.ZQE_JRNL_FILL_RECORDS, d.zq.ring.length),
   (Reg.ZQE_ZINFO_STATE, z.state), (Reg.ZQE_ZINFO_HELD, flag !z.held.isEmpty), (Reg.ZQE_ZINFO_ZFC, flag z.zfc),
   (Reg.ZQE_ZINFO_FZR, flag z.fzr), (Reg.ZQE_ZINFO_RESCUED, flag !z.rescue.isEmpty), (Reg.ZQE_ZINFO_WP, z.wp)]

/-- The felt engine's registers (Table 13.6). -/
def Dev.liveFlt (d : Dev) : List (Fld × Nat) :=
  let s := d.f Reg.FLT_SURF_SEL_SURF
  let recon := (d.det.get .a0).recon.length + (d.det.get .a1).recon.length
  [(Reg.FLT_STATUS_GC, flag !d.felt.gc.isEmpty), (Reg.FLT_STATUS_REFELT, flag !d.felt.refelt.isEmpty),
   (Reg.FLT_STATUS_UNFELT, flag (d.zq.zones.any fun p => p.2.unfelt)), (Reg.FLT_STATUS_RECON, Nat.min 16 recon),
   (Reg.FLT_STATUS_SLOTS, d.slotsHeld), (Reg.FLT_DEBT_BOLTS, (d.zq.zones.map fun p => p.2.debt).sum),
   (Reg.FLT_SURF_INFO_LOST, flag (sget false d.felt.lost s)), (Reg.FLT_SURF_INFO_FREE, d.logFree s),
   (Reg.FLT_SURF_INFO_LIVE, d.logLive s)]

/-- The buffer's registers (Table 14.7). -/
def Dev.liveBuf (d : Dev) : List (Fld × Nat) :=
  [(Reg.BUF_BANK_ALLOC, maskOf 16 d.bankHeld), (Reg.BUF_BANK_PWR, maskOf 16 fun b => d.domOn (34 + b)),
   (Reg.BUF_DIRTY_NOW, ceilDiv d.dirtyBlocks 16)]

/-- The recorder's registers (Table 21.3). -/
def Dev.liveHbr (d : Dev) : List (Fld × Nat) :=
  [(Reg.HBR_STATUS_FULL, flag d.hb.full), (Reg.HBR_STATUS_CLEARING, flag d.hb.clearing),
   (Reg.HBR_STATUS_FROZEN, flag !d.hb.frozen.isEmpty), (Reg.HBR_STATUS_COUNT, d.hb.recs.length),
   (Reg.HBR_SEQ_SEQ, d.hb.seq.toNat)] ++
  (List.range 8).map fun i => (Reg.HBR_WIN_WORD.nth i, (d.hb.window.getD i 0).toNat)

/-- The words of the control store that CSTn_ADDR selects (Table 04.10). -/
def Dev.liveCst (d : Dev) (a : Act) : List (Fld × Nat) :=
  let w := sget 0 d.conf.images (16384 * a.idx + d.f (Reg.CST_ADDR_WORD.at 0x20000 a))
  ((List.range 4).map fun i => (⟨cstAddr a (0x10 + 4 * i), 31, 0⟩, (d.cstPayload a i).toNat)) ++
  [(Reg.CST_CHECK_CHECK.at 0x20000 a, w.toNat / 2 ^ 128)]

/-- The read-only fields of a block that live outside the register file. -/
def Dev.overlay (d : Dev) : Block → List (Fld × Nat)
  | .sys => [(⟨Reg.SYS_CAPS, 31, 0⟩, d.capsWord.toNat),
      (Reg.SYS_MPI_STATUS_JOBS, (d.mpi.jobs.filter fun j => !j.done).length)]
  | .siz => d.liveSiz
  | .blk a => d.liveBlk a
  | .cst a => d.liveCst a
  | .chn a => d.liveChn a
  | .afe a => d.liveAfe a
  | .was a => d.liveWas a
  | .srv a => [(Reg.SRV_STATUS_GEN.on a, d.gen (.block (.srv a)))]
  | .zqe => d.liveZqe
  | .flt => d.liveFlt
  | .buf => d.liveBuf
  | .hbr => d.liveHbr
  | .fmg => [(Reg.FMG_STATUS_RESTARTS, Nat.min (d.f Reg.FMG_STATUS_RESTARTS) d.recentRestarts.length)]
  | _ => []

/-- A register as read (R7); 0 for an absent unit (R3) and for an address that no register occupies (R39). -/
def Dev.live (d : Dev) (addr : Nat) : Word :=
  if d.absentAt addr then 0
  else
    match dataMemAt addr with
    | some (a, off) => (d.blk.get a).dataWord (off / 4 * 4)
    | none =>
      match rowAt addr, blockOf addr with
      | some _, some b =>
        ((d.overlay b).filter fun p => decide (p.1.addr = addr)).foldl (fun w p => withBits w p.1.hi p.1.lo p.2) (d.reg addr)
      | _, _ => 0

end Sys2Proof.Machine
end

