-- ==== Sys2Proof/Machine/Fabric.lean ====
section
/-! DEFINITION. Accesses of the register fabric by any requester: writes with their effects (R7, R39, R466), reads with
theirs (R7, R31), and the device's tick edge (R29), which latches and applies what the fabric wrote. -/

namespace Sys2Proof.Machine

/-! ### Writes -/

/-- A write to a Blocker's control register (R126): HALT, RESUME and STEP in the order of their bits. -/
def Dev.writeBlkCtl (d : Dev) (a : Act) (mask w : Word) (o : FabricObs) : Dev :=
  if !d.hasAct a then d.absentWrite (blkCtlAddr a)
  else
    let d1 := if testBit mask.toNat 0 then d.writeHalt a (testBit w.toNat 0) else d
    let d2 := if testBit w.toNat 1 then d1.writeResume a else d1
    if testBit w.toNat 2 then d2.writeStep a o.word else d2

/-- The effects of an honoured write in the windows of one actuator; `g` holds the register's other fields as the write
leaves them. -/
def Dev.actEffect (d : Dev) (a : Act) (off : Nat) (w g : Word) (o : FabricObs) (b : Block) : Dev :=
  match b with
  | .cst _ => if off = 0x1C then d.cstWrite a g else d
  | .afe _ =>
    if off = 0x0C then d.clearFail a none (bits w 10 8)
    else if 0x40 ≤ off ∧ off < 0x70 then d.clearFail a (some ((off - 0x40) / 4)) (bits w 2 0)
    else d
  | .tnl _ =>
    if off = 0x18 ∧ testBit w.toNat 31 then d.passAccess a g
    else if off = 0x20 ∧ testBit w.toNat 0 then d.retrain a o.train
    else d
  | .srv _ =>
    if off = 0x60 then
      let c (x : Fld) : Nat := d.f (x.on a)
      let d1 := if testBit w.toNat 31 then d.capArm a (c Reg.SRV_CAP_CTL_MODE) (c Reg.SRV_CAP_CTL_TRIG) (c Reg.SRV_CAP_CTL_PRE)
        else d
      if testBit w.toNat 30 then d1.capAbort a else d1
    else d
  | _ => d

/-- The effects of an honoured write in the other windows. -/
def Dev.unitEffect (d : Dev) (who : Requester) (cal : Bool) (addr : Nat) (mask w g : Word) (o : FabricObs) : Dev :=
  let go (n : Nat) : Bool := testBit w.toNat n
  if addr = Reg.SIZ_CTL then
    let d1 := if go 1 then d.discard else d
    if go 0 then d1.commitFor (requesterHolder who) else d1
  else if addr = Reg.SPN_CTL then (if testBit mask.toNat 0 then d.spinRun (go 0) else d)
  else if addr = Reg.PWR_RET_CTL then (if go 0 then d.retract 2 else d)
  else if addr = Reg.BUF_TEST_CTL then (if go 31 then d.injectBuf else d)
  else if addr = Reg.DMC_TEST_CTL then (if go 31 then d.injectDram else d)
  else if addr = Reg.FUL_CTL then (if go 0 then d.fulFlush o.consumed else d)
  else if addr = Reg.FUL_RING_TAIL then d.fulShow
  else if addr = Reg.HBR_CURSOR then d.cursorWrite g
  else if addr = Reg.CPX_CTL then
    let d1 := if go 2 then d.semFree else d
    let d2 := if go 1 then d1.handoverAll cal .Y else d1
    if go 0 then d2.handoverAll cal .X else d2
  else if addr = Reg.FMG_KICK then (if go 0 then d.kick else d)
  else d

/-- A write of the bits in MASK by a requester; `cal` for the calibration packets (R7, R39, R466). Registers whose write
is itself an operation take it whole. -/
def Dev.fabricWrite (d : Dev) (who : Requester) (cal : Bool) (addr : Nat) (mask w : Word) (o : FabricObs) : Dev :=
  let v := w &&& mask
  let g := match rowAt addr with | some r => d.merged r addr mask w | none => v
  if addr = blkCtlAddr .a0 then d.writeBlkCtl .a0 mask v o
  else if addr = blkCtlAddr .a1 then d.writeBlkCtl .a1 mask v o
  else if addr = Reg.CRN_MAINT ∧ testBit v.toNat 31 then d.maintGo (bits g 26 24) (bits g 23 14) (bits g 7 4)
  else if 0x600000 ≤ addr ∧ addr < 0x600200 ∧ 4 ≤ addr % 0x100 ∧ addr % 0x100 < 0x30 then
    d.flashWrite (addr / 0x100 % 2) (addr % 0x100) g
  else
    let d1 := d.writeMasked cal addr mask w
    if d.honours cal addr then
      match blockOf addr with
      | some (.cst a) => d1.actEffect a (addr % 0x20000) v g o (.cst a)
      | some (.afe a) => d1.actEffect a (addr % 0x10000) v g o (.afe a)
      | some (.tnl a) => d1.actEffect a (addr % 0x10000) v g o (.tnl a)
      | some (.srv a) => d1.actEffect a (addr % 0x10000) v g o (.srv a)
      | _ => d1.unitEffect who cal addr mask v g o
    else d1

/-- REGISTER_WRITE (R7): a whole register, written through the fabric. -/
def execRegisterWrite (who : Requester) (addr : Nat) (w : Word) (o : FabricObs) (s : State) :
    Host.Outcome State Fault Refusal := s.next (s.dev.fabricWrite who false addr 0xFFFFFFFF#32 w o)

/-! ### Reads -/

/-- A read of TICK_NOW_LO (R31): bits [31:0], with bits [47:32] latched for the requester. -/
def Dev.tickNowRead (d : Dev) (who : Requester) : Dev :=
  let v := d.clock.val
  let d1 := d.answer who (BitVec.ofNat 32 v)
  { d1 with clock := { d1.clock with nowHi := sset 0 d1.clock.nowHi who.key (BitVec.ofNat 16 (v / 2 ^ 32)) } }

/-- TICK_NOW_LO_READ (R31). -/
def execTickNowLoRead (who : Requester) (s : State) : Host.Outcome State Fault Refusal := s.next (s.dev.tickNowRead who)

/-- A read by a requester, with what the read changes (R7, R31, R128, R279, R511). -/
def Dev.fabricRead (d : Dev) (who : Requester) (addr : Nat) (o : FabricObs) : Dev :=
  if d.absentAt addr then d.answer who 0
  else if addr = Reg.TICK_NOW_LO then d.tickNowRead who
  else if addr = Reg.TICK_NOW_HI then d.answer who ((sget 0 d.clock.nowHi who.key).setWidth 32)
  else if addr = Reg.HBR_WIN_WORD.addr + 28 then d.win7Read who
  else
    match blockOf addr with
    | some (.cst a) =>
      if addr % 0x20000 = 0x1C then (d.answer who (d.cstPayload a 3)).cstNext a else d.answer who (d.live addr)
    | some (.srv a) =>
      if addr = Reg.SRV_CAP_DATA_EXP.addr + 0x10000 * a.idx then d.capRead a who o.poisoned
      else (d.answer who (d.live addr)).clearRc addr
    | _ => (d.answer who (d.live addr)).clearRc addr

/-- RC_READ (R7): a read of a register, which clears its RC fields. -/
def execRcRead (who : Requester) (addr : Nat) (o : FabricObs) (s : State) : Host.Outcome State Fault Refusal :=
  s.next (s.dev.fabricRead who addr o)

/-! ### The tick edge -/

/-- The tick edge (R29), with the background work that goes on in each tick: the vault's conditions (R323), ticketed erases
(R488), format and sanitize work (R428, R429), a shutdown's end (R431) and grants of the semaphore (R442). -/
def Dev.edge (d : Dev) (periodNs late : Nat) : Dev :=
  let d1 := (d.tickEdge periodNs late).vaultTick.eraseTick
  let d2 := (d1.backgroundErase 0).backgroundErase 1
  ((d2.finishShutdown .A).finishShutdown .B).semSettle

end Sys2Proof.Machine
end

