-- ==== Sys2Proof/Machine/Packet.lean ====
section
/-! DEFINITION. Packets of the Management Packet Interface: their layout (R456, R457), the checks before execution
(R460), replies (R458, R461), and the packets that a profile image is made of (R466, R467, R469, R470). -/

namespace Sys2Proof.Machine

/-! ### Layout -/

/-- A TLV (R457): TYPE, the value's length in bytes, and its words. -/
structure Tlv where
  ty : Nat
  len : Nat
  ws : List Word
deriving DecidableEq, Repr

/-- The TLV types of Table 18.2. -/
def Ty.addr : Nat := 0x0001
def Ty.data : Nat := 0x0002
def Ty.mask : Nat := 0x0003
def Ty.count : Nat := 0x0004
def Ty.time : Nat := 0x0005
def Ty.head : Nat := 0x0006
def Ty.track : Nat := 0x0007
def Ty.slots : Nat := 0x0008
def Ty.table : Nat := 0x0009
def Ty.space : Nat := 0x000A
def Ty.blob : Nat := 0x000B
def Ty.slot : Nat := 0x000C
def Ty.job : Nat := 0x000D
def Ty.lba : Nat := 0x000E
def Ty.value : Nat := 0x000F
def Ty.variant : Nat := 0x0010
def Ty.result : Nat := 0x0080
def Ty.dstatus : Nat := 0x0081
def Ty.poisonMap : Nat := 0x0082
def Ty.sizer : Nat := 0x0083
def Ty.trim : Nat := 0x00F0

/-- The value as a number, least significant byte first. -/
def Tlv.num (t : Tlv) : Nat := (t.ws.headD 0).toNat

/-- The value's bytes. -/
def Tlv.bytes (t : Tlv) : List Byte := (t.ws.flatMap fun w => bytesOfNat 4 w.toNat).take t.len

/-- The TLVs that words spell, and whether one runs past their end. -/
def readTlvs : Nat → List Word → List Tlv × Bool
  | 0, _ => ([], false)
  | _, [] => ([], false)
  | n + 1, w :: ws =>
    let k := ceilDiv (bits w 15 0) 4
    if ws.length < k then ([], true)
    else
      let r := readTlvs n (ws.drop k)
      ({ ty := bits w 31 16, len := bits w 15 0, ws := ws.take k } :: r.1, r.2)

structure Packet where
  op : Nat
  seq : Nat
  flags : Nat
  /-- VERSION, LENGTH and the reserved header bits are right -/
  headOk : Bool
  /-- the CRC word is right -/
  crcOk : Bool
  tlvs : List Tlv
  /-- a TLV runs past the CRC word -/
  cut : Bool
deriving DecidableEq, Repr

/-- A packet's words read by Table 18.1. -/
def Packet.ofWords (ws : List Word) : Packet :=
  let w (i : Nat) : Word := ws.getD i 0
  let n := ws.length
  let t := readTlvs n ((ws.take (n - 1)).drop 3)
  { op := bits (w 0) 31 16, seq := bits (w 0) 15 0, flags := bits (w 1) 23 16,
    headOk := decide (4 ≤ n ∧ n ≤ 16384 ∧ bits (w 1) 31 24 = 1 ∧ bits (w 1) 15 0 = n ∧ bits (w 1) 23 18 = 0 ∧ w 2 = 0),
    crcOk := decide (2 ≤ n ∧ crc32Words (ws.take (n - 1)) = (w (n - 1)).toNat), tlvs := t.1, cut := t.2 }

def Packet.get (p : Packet) (ty : Nat) : Option Tlv := p.tlvs.find? fun t => decide (t.ty = ty)

def Packet.num (p : Packet) (ty dflt : Nat) : Nat := ((p.get ty).map Tlv.num).getD dflt

def Packet.has (p : Packet) (ty : Nat) : Bool := (p.get ty).isSome

/-- The index of the first TLV of a type, counted from 1; 0 when there is none (R458). -/
def Packet.index (p : Packet) (ty : Nat) : Nat :=
  match p.tlvs.findIdx? fun t => decide (t.ty = ty) with | some i => i + 1 | none => 0

/-- The actuator and head that HEAD names. -/
def Packet.act (p : Packet) : Act := Act.ofBit (p.num Ty.head 0 / 16 % 2)
def Packet.headNo (p : Packet) : Nat := p.num Ty.head 0 % 16

/-! ### The opcode table (Table 18.5) -/

/-- A row: required and optional TLVs, those that may repeat, whether the packet is serialized (2 when it stages only),
allowed in safe mode (2 only there), and starts a job. -/
structure OpRow where
  op : Nat
  req : List Nat
  opt : List Nat
  rep : List Nat
  ser : Nat
  safe : Nat
  job : Bool
deriving DecidableEq, Repr

def row (op : Nat) (req opt : List Nat) (ser safe : Nat) (job : Bool) : OpRow :=
  { op := op, req := req, opt := opt, rep := [], ser := ser, safe := safe, job := job }

def sessionRows : List OpRow :=
  [row 0x0001 [] [] 0 1 false, row 0x0002 [] [] 0 1 false, row 0x0003 [] [] 0 1 false, row 0x0004 [] [] 0 1 false,
   row 0x0005 [] [] 0 1 false, row 0x0006 [Ty.job] [] 0 1 false, row 0x0007 [Ty.job] [] 0 1 false,
   row 0x0101 [Ty.addr] [Ty.count] 0 1 false, row 0x0102 [Ty.addr, Ty.data] [Ty.mask] 2 1 false,
   { row 0x0103 [Ty.addr, Ty.data] [Ty.mask] 2 1 false with rep := [Ty.addr, Ty.data, Ty.mask] },
   row 0x0104 [Ty.addr, Ty.mask, Ty.value, Ty.time] [] 0 1 false, row 0x0105 [Ty.space, Ty.addr, Ty.count] [] 0 1 false,
   row 0x0106 [Ty.space, Ty.addr, Ty.data] [] 1 2 false]

def profileRows : List OpRow :=
  [row 0x0201 [] [] 1 1 false, row 0x0202 [] [] 1 1 false, row 0x0203 [] [] 0 1 false, row 0x0204 [] [] 1 1 false,
   row 0x0205 [Ty.table, Ty.addr, Ty.blob] [] 1 1 false, row 0x0206 [Ty.table, Ty.addr, Ty.count] [] 0 1 false,
   row 0x0207 [Ty.head, Ty.addr, Ty.data] [] 1 1 false, row 0x0208 [] [Ty.slot, Ty.blob] 1 1 true,
   row 0x0209 [Ty.variant] [] 0 1 false, row 0x020A [Ty.addr, Ty.blob] [] 0 1 false, row 0x020B [Ty.slot] [] 1 1 true,
   row 0x020C [Ty.slot] [] 1 1 false]

def calRows : List OpRow :=
  [row 0x0301 [Ty.addr, Ty.data] [Ty.mask] 1 1 false, row 0x0302 [Ty.value] [] 1 0 true,
   row 0x0303 [Ty.head, Ty.value] [] 1 0 true, row 0x0304 [Ty.head, Ty.track] [] 1 0 false,
   row 0x0305 [Ty.head, Ty.data] [] 1 0 false, row 0x0306 [Ty.head, Ty.data] [] 1 1 false,
   row 0x0307 [Ty.head, Ty.value, Ty.addr, Ty.count] [] 0 1 false, row 0x0308 [Ty.head, Ty.data] [] 1 1 false,
   row 0x0309 [Ty.head] [] 1 1 false, row 0x030A [Ty.head, Ty.mask] [] 1 1 false, row 0x030B [Ty.head] [] 1 0 true,
   row 0x030C [Ty.space, Ty.addr, Ty.data] [] 1 1 false, row 0x030D [Ty.value] [] 1 1 false]

def mediaRows : List OpRow :=
  [row 0x0401 [Ty.head, Ty.track, Ty.slots] [] 0 0 false, row 0x0402 [Ty.head, Ty.track, Ty.count] [] 1 0 true,
   row 0x0403 [Ty.head, Ty.value, Ty.addr, Ty.count] [] 0 0 false, row 0x0404 [Ty.lba] [] 0 1 false,
   row 0x0405 [Ty.value] [] 0 1 false, row 0x0406 [Ty.value, Ty.addr] [] 1 0 false, row 0x0407 [Ty.head] [] 1 0 true,
   row 0x0408 [Ty.lba] [] 0 0 false]

def logRows : List OpRow :=
  [row 0x0501 [Ty.addr, Ty.count] [] 0 1 false, row 0x0502 [] [] 1 1 false, row 0x0503 [] [] 1 1 true,
   row 0x0504 [Ty.value] [] 0 1 false, row 0x0505 [Ty.head] [] 0 1 false, row 0x0506 [Ty.addr, Ty.count] [] 0 1 false,
   row 0x0507 [] [] 0 1 false]

def imageRows : List OpRow :=
  [row 0x0601 [Ty.space, Ty.addr, Ty.count] [] 0 1 false, row 0x0602 [Ty.blob] [] 1 1 false, row 0x0603 [] [] 0 1 false,
   row 0x0604 [Ty.addr, Ty.blob] [] 0 1 false, row 0x0605 [Ty.slot, Ty.value] [] 1 1 true,
   row 0x0606 [Ty.value, Ty.space, Ty.addr, Ty.count, Ty.data] [] 0 1 true, row 0x0801 [] [] 0 1 false,
   row 0x0802 [Ty.value] [] 0 1 false, row 0x0803 [Ty.value] [] 0 1 false, row 0x0804 [] [] 0 1 false]

def opRow (op : Nat) : Option OpRow :=
  (sessionRows ++ profileRows ++ calRows ++ mediaRows ++ logRows ++ imageRows).find? fun r => decide (r.op = op)

/-- Opcode groups that a transport carries (Table 18.4). -/
def carries (p : Path) (group : Nat) : Bool :=
  match p with
  | .nvme _ => decide (group ≠ 8)
  | .uart => decide (group ≠ 8)
  | .miInBand _ => decide (group ≠ 6 ∧ group ≠ 8)
  | .miBus _ => decide (group ≠ 6 ∧ group ≠ 8)
  | .twin => decide (group = 8)

/-! ### The checks of R460 -/

/-- The value lengths of Table 18.2. -/
def Tlv.lengthOk (t : Tlv) : Bool :=
  if t.ty = Ty.data then decide (0 < t.len ∧ t.len % 4 = 0)
  else if t.ty = Ty.blob then true
  else if t.ty = Ty.lba then decide (t.len = 12)
  else decide (t.len = 4)

/-- The first malformed TLV (R457), counted from 1. -/
def tlvFault (r : OpRow) : Nat → List Nat → List Tlv → Option Nat
  | _, _, [] => none
  | k, seen, t :: ts =>
    if !((r.req ++ r.opt).contains t.ty) ∨ (seen.contains t.ty ∧ !r.rep.contains t.ty) ∨ !t.lengthOk then some k
    else tlvFault r (k + 1) (t.ty :: seen) ts

/-- Check 6: DETAIL of a malformed packet. ECHO takes any TLV. -/
def Packet.malformed (p : Packet) (r : OpRow) : Option Nat :=
  if p.cut then some (p.tlvs.length + 1)
  else if p.op = 0x0001 then none
  else
    match tlvFault r 1 [] p.tlvs with
    | some k => some k
    | none => if r.req.all p.has then none else some 0

/-- The block of an index of Table 01.10. -/
def blockAt (i : Nat) : Option Block :=
  ([.sys, .tick, .siz, .blk .a0, .blk .a1, .cst .a0, .cst .a1, .chn .a0, .chn .a1, .afe .a0, .afe .a1, .was .a0, .was .a1,
    .srv .a0, .srv .a1, .spn, .pwr, .tnl .a0, .tnl .a1, .zqe, .flt, .buf, .dmc, .crn, .ful, .hbr, .hpa, .hpb, .cpx, .nvc,
    .pdm, .fmg, .sec, .dbg] : List Block)[i]?

/-- Opcodes whose HEAD names an actuator's unit by function. -/
def namesHead (op : Nat) : Bool := decide (op / 256 = 3 ∨ op / 256 = 4 ∨ op = 0x0207 ∨ op = 0x0505)

/-- Check 5 (R2, R470): the packet names an absent unit by function, or, in a profile load, writes into an absent unit's
window. -/
def Dev.namesAbsent (d : Dev) (p : Packet) (load : Bool) : Bool :=
  let tab := p.num Ty.table 0
  let dead (b : Option Block) : Bool := match b with | some x => d.blockAbsent x | none => false
  (namesHead p.op && p.has Ty.head && !d.hasAct p.act) ||
  (decide (p.op = 0x0205 ∨ p.op = 0x0206) && p.has Ty.table &&
    ((decide (tab / 16 % 16 = 7) && !d.hasFelt) || (decide (tab / 16 % 16 ≠ 7) && !d.hasAct (Act.ofBit (tab % 2))) ||
      (decide (tab / 16 % 16 = 4) && !d.hasAssist (Act.ofBit (tab % 2))))) ||
  (decide (p.op = 0x0504) && dead (blockAt (p.num Ty.value 0))) ||
  (decide (p.op = 0x030B) && p.has Ty.head && !d.hasAssist p.act) ||
  (decide (p.op = 0x0408 ∨ p.op = 0x0506) && !d.hasFelt) ||
  (load && decide (p.op = 0x0102 ∨ p.op = 0x0103) && p.tlvs.any fun t => decide (t.ty = Ty.addr) && d.absentAt t.num)

/-- The groups of ADDR, DATA and MASK of a register packet: (index of ADDR, address, data words, mask). -/
def writeItems : Nat → List Tlv → List (Nat × Nat × Option Word × Option Word)
  | _, [] => []
  | k, t :: ts =>
    let mine := ts.takeWhile fun t => decide (t.ty ≠ Ty.addr)
    let rest := writeItems (k + 1) ts
    if t.ty = Ty.addr then
      (k, t.num, (mine.find? fun t => decide (t.ty = Ty.data)).map fun t => BitVec.ofNat 32 t.num,
        (mine.find? fun t => decide (t.ty = Ty.mask)).map fun t => BitVec.ofNat 32 t.num) :: rest
    else rest

/-- Whether a register packet writes an RWS field, stages a control-store word or commits (R55, R467). -/
def Dev.packetStages (d : Dev) (p : Packet) : Bool :=
  (writeItems 1 p.tlvs).any fun x =>
    !d.absentAt x.2.1 && (writesRws x.2.1 (x.2.2.2.getD 0xFFFFFFFF#32) || cstLatch x.2.1 || decide (x.2.1 = Reg.SIZ_CTL))

/-- A unit is between its reset and its ready notice; a Blocker that has held no image yet is not. -/
def Dev.between (d : Dev) (b : Block) : Bool :=
  d.isResetting (.block b) ||
    match b with
    | .blk a => (d.blk.get a).reloading || ((d.blk.get a).resetting && (d.blk.get a).loaded)
    | .cst a => (d.blk.get a).reloading || ((d.blk.get a).resetting && (d.blk.get a).loaded) || d.isResetting (.block (.blk a))
    | _ => false

/-- The units a packet addresses (check 9). -/
def Packet.units (p : Packet) : List Block :=
  let a := p.act
  if p.op / 256 = 1 ∨ p.op = 0x0301 then
    (p.tlvs.filter fun t => decide (t.ty = Ty.addr ∧ !p.has Ty.space)).filterMap fun t => blockOf t.num
  else if p.op = 0x0504 then (blockAt (p.num Ty.value 0)).toList
  else if p.op = 0x0207 then [.cst a]
  else if p.op = 0x0302 then [.spn]
  else if 0x0303 ≤ p.op ∧ p.op ≤ 0x0307 then [.srv a]
  else if p.op = 0x0308 ∨ p.op = 0x0309 then [.tnl a]
  else if p.op = 0x030A then [.afe a]
  else if p.op = 0x030B then [.was a]
  else if p.op = 0x0401 ∨ p.op = 0x0402 then [.blk a]
  else if p.op = 0x0403 then [.chn a]
  else []

/-- Jobs that run (R468). -/
def Dev.jobsRunning (d : Dev) : Nat := (d.mpi.jobs.filter fun j => !j.done).length

/-- Recovery (R486): start-up ended with RESULT 6. -/
def Dev.inRecovery (d : Dev) : Bool := decide (d.f Reg.SYS_BOOT_RESULT = 6)

/-- What recovery serves, on the UART (R486). -/
def servedInRecovery (p : Path) (op : Nat) : Bool :=
  decide (p = .uart) && decide (op = 0x0002 ∨ op = 0x0601 ∨ op = 0x0603 ∨ op = 0x0604 ∨ op = 0x0605)

/-- Check 7: the state checks of R471 and the limit of R468. Media packets and motion calibration are the opcodes that
safe mode refuses. -/
def Dev.stateConflict (d : Dev) (r : OpRow) (p : Packet) (path : Path) : Bool :=
  (d.safe && decide (r.safe = 0)) || (!d.safe && decide (r.safe = 2)) ||
  (d.inRecovery && !servedInRecovery path p.op) ||
  (decide (r.safe = 0) && (decide (d.host.ps = 4) || d.host.sanitize.isSome || d.host.format.isSome ||
    (decide (1 ≤ d.host.ps) && p.has Ty.head && !d.domOn (laneDomain p.act 1)))) ||
  (r.job && decide (8 ≤ d.jobsRunning))

/-- Checks 2 to 9 of R460 (check 1 has passed): the status and DETAIL of the first that fails. -/
def Dev.packetFault (d : Dev) (path : Path) (holder : Nat) (load : Bool) (p : Packet) : Option (Nat × Nat) :=
  let group := p.op / 256
  let closed := match path with
    | .uart => d.opt 5 15 8 | .nvme _ => d.opt 5 31 24 | .miInBand _ => d.opt 5 23 16 | .miBus _ => d.opt 5 23 16
    | .twin => 0
  if !p.headOk then some (0x04, 0)
  else
    match opRow p.op with
    | none => some (0x03, 0)
    | some r =>
      if (!load && !carries path group) ∨ (load && !([0x0102, 0x0103, 0x0205, 0x0207, 0x0209].contains p.op)) then some (0x03, 0)
      else if !load ∧ group ≠ 0 ∧ testBit closed group then some (0x09, 0)
      else if d.namesAbsent p load then some (0x06, 0)
      else
        match p.malformed r with
        | some k => some (0x04, k)
        | none =>
          if !load ∧ d.stateConflict r p path then some (0x0E, 0)
          else if !load ∧ (r.ser = 1 ∨ (r.ser = 2 ∧ d.packetStages p)) ∧ !d.semOpen holder then some (0x05, 0)
          else if p.units.any d.between then some (0x07, 0)
          else none

/-! ### Replies (R458, R461) -/

structure Rep where
  status : Nat
  detail : Nat
  tlvs : List Tlv
  /-- trim records attached beside those that the packet's own writes left (R469) -/
  extra : List TrimRec
  /-- the reply comes later -/
  wait : Option MpiWait
deriving DecidableEq, Repr

def Rep.code (status detail : Nat) : Rep := { status := status, detail := detail, tlvs := [], extra := [], wait := none }

def Rep.ok : Rep := Rep.code 0 0

/-- BAD_PARAM for a value of the packet out of range. -/
def Packet.bad (p : Packet) (ty : Nat) : Rep := Rep.code 0x04 (p.index ty)

def Tlv.ofWords (ty : Nat) (ws : List Word) : Tlv := { ty := ty, len := 4 * ws.length, ws := ws }

def wordsOfBytes : Nat → List Byte → List Word
  | 0, _ => []
  | _, [] => []
  | n + 1, bs => BitVec.ofNat 32 (natOfBytes (bs.take 4)) :: wordsOfBytes n (bs.drop 4)

def Tlv.ofBytes (ty : Nat) (bs : List Byte) : Tlv := { ty := ty, len := bs.length, ws := wordsOfBytes bs.length bs }

def Rep.result (ws : List Word) : Rep := { Rep.ok with tlvs := [Tlv.ofWords Ty.result ws] }

/-- POISONMAP: one bit per RESULT byte. -/
def poisonMap : Nat → List Bool → List Byte
  | 0, _ => []
  | _, [] => []
  | n + 1, bs => BitVec.ofNat 8 (maskOf 8 fun i => bs.getD i false) :: poisonMap n (bs.drop 8)

/-- Bytes read, with their poison (Table 18.3). -/
def Rep.bytes (bs : List PByte) : Rep :=
  let t := Tlv.ofBytes Ty.result (bs.map Prod.fst)
  if bs.any Prod.snd then
    { Rep.code 0x0D 0 with tlvs := [t, Tlv.ofBytes Ty.poisonMap (poisonMap bs.length (bs.map Prod.snd))] }
  else { Rep.ok with tlvs := [t] }

def Tlv.words (t : Tlv) : List Word := BitVec.ofNat 32 (t.ty * 2 ^ 16 + t.len) :: t.ws

/-- The reply's words (R458), CLAMPED when a value the packet wrote was clamped (R48). -/
def Rep.words (r : Rep) (head : Word) (trims : List TrimRec) (shown : List TrimRec) (ovf : Bool) : List Word :=
  let status := if r.status = 0 ∧ trims.any (fun t => decide (1 ≤ t.reason ∧ t.reason ≤ 4)) then 1 else r.status
  let tr := if shown.isEmpty then []
    else [Tlv.ofWords Ty.trim (shown.flatMap fun t => t.words.map fun n => BitVec.ofNat 32 n)]
  let body := (r.tlvs ++ tr).flatMap Tlv.words
  let w1 := BitVec.ofNat 32 (2 ^ 24 + status * 2 ^ 16 + (body.length + 4))
  let w2 := BitVec.ofNat 32 (r.detail * 2 ^ 24 + flag ovf * 2 ^ 16 + shown.length % 512)
  let ws := head :: w1 :: w2 :: body
  ws ++ [BitVec.ofNat 32 (crc32Words ws)]

/-! ### Holding the semaphore for a packet (Table 17.1) -/

/-- The implicit hold of a packet ends at its reply; that of a commit it made ends with the commit. -/
def Dev.endPacketHold (d : Dev) (holder : Nat) : Dev :=
  if d.semHolder ≠ holder ∨ d.f Reg.CPX_SEM_EXPLICIT = 1 ∨ d.sem.ops ≠ 0 then d
  else
    match d.conf.pending with
    | some p => { d with conf := { d.conf with pending := some { p with holds := true } } }.semBegin
    | none => if d.semOwnNext then d else d.semClear

/-- An operation of a holder under the semaphore, taken for it when the holder does not have it yet. -/
def Dev.underSem {α : Type} (d : Dev) (holder : Nat) (f : Dev → α × Dev) : α × Dev :=
  if d.semHolder = holder then f d
  else
    let r := f (d.semGrant holder)
    (r.1, r.2.endPacketHold holder)

/-! ### Register writes (R465 to R467) -/

/-- One item written; true when it was ignored (R466). -/
def Dev.writeItem (d : Dev) (who : Requester) (cal : Bool) (addr : Nat) (w mask : Word) (o : FabricObs) : Bool × Dev :=
  (!d.honours cal addr, d.fabricWrite who cal addr mask w o)

/-- REG_WRITE and CAL_REG_WRITE (R465, R467). -/
def Dev.regWrite (d : Dev) (who : Requester) (cal : Bool) (p : Packet) (o : FabricObs) : Rep × Dev :=
  let addr := p.num Ty.addr 0
  let data := (p.get Ty.data).map Tlv.ws
  if addr % 4 ≠ 0 then (p.bad Ty.addr, d)
  else
    match data with
    | some [w] => (Rep.ok, (d.writeItem who cal addr w (BitVec.ofNat 32 (p.num Ty.mask 0xFFFFFFFF)) o).2)
    | _ => (p.bad Ty.data, d)

/-- The items of a batch in order: the counts written and ignored (R466). -/
def Dev.writeBatch (d : Dev) (who : Requester) (stop : Bool) (o : FabricObs) :
    List (Nat × Nat × Option Word × Option Word) → Nat → Nat → (Nat × Nat) × Dev
  | [], n, k => ((n, k), d)
  | x :: xs, n, k =>
    let r := d.writeItem who false x.2.1 (x.2.2.1.getD 0) (x.2.2.2.getD 0xFFFFFFFF#32) o
    if r.1 ∧ stop then ((n, k + 1), r.2)
    else if r.1 then r.2.writeBatch who stop o xs n (k + 1)
    else r.2.writeBatch who stop o xs (n + 1) k

/-- Items with a DATA of one word and at most one MASK each, the first TLV an ADDR. -/
def batchFault : Nat → Nat → Nat → List Tlv → Option Nat
  | _, _, _, [] => none
  | k, nd, nm, t :: ts =>
    if t.ty = Ty.addr then
      if t.num % 4 ≠ 0 ∨ (ts.takeWhile fun t => decide (t.ty ≠ Ty.addr)).all (fun t => decide (t.ty ≠ Ty.data)) then some k
      else batchFault (k + 1) 1 1 ts
    else if t.ty = Ty.data then (if nd = 0 ∨ t.len ≠ 4 then some k else batchFault (k + 1) 0 nm ts)
    else if nm = 0 then some k else batchFault (k + 1) nd 0 ts

/-- REG_WRITE_BATCH (R466): items written, items ignored. -/
def Dev.regBatch (d : Dev) (who : Requester) (p : Packet) (o : FabricObs) : Rep × Dev :=
  let items := writeItems 1 p.tlvs
  match batchFault 1 0 0 p.tlvs with
  | some k => (Rep.code 0x04 k, d)
  | none =>
    match items[1024]? with
    | some x => (Rep.code 0x04 x.1, d)
    | none =>
      let r := d.writeBatch who (testBit p.flags 1) o items 0 0
      (Rep.result [BitVec.ofNat 32 r.1.1, BitVec.ofNat 32 r.1.2], r.2)

end Sys2Proof.Machine
end

