-- ==== Sys2Proof/Machine/Profile.lean ====
section
/-! DEFINITION. Profile tables (Table 18.6), control-store words (R128) and the load of a profile image (R469, R470). -/

namespace Sys2Proof.Machine

/-! ### Profile-table writes (R46, R47, R470) -/

/-- A field of a table record: its word and bits, its legal range (signed or not), the trim reason below and above it, and
its agreement group. -/
structure TableField where
  word : Nat
  hi : Nat
  lo : Nat
  sg : Bool
  low : Int
  high : Int
  below : Nat
  above : Nat
  group : Nat
deriving DecidableEq, Repr

/-- A field with a range of numbers. -/
def limit (word hi lo : Nat) (sg : Bool) (low high : Int) (group : Nat) : TableField :=
  { word := word, hi := hi, lo := lo, sg := sg, low := low, high := high, below := 1, above := 2, group := group }

/-- A reserved field (R47). -/
def reserved (word hi lo : Nat) : TableField :=
  { word := word, hi := hi, lo := lo, sg := false, low := 0, high := 0, below := 5, above := 5, group := 0 }

/-- A field whose legal set is 0 alone (R140, R146). -/
def zeroOnly (word hi lo : Nat) : TableField :=
  { word := word, hi := hi, lo := lo, sg := false, low := 0, high := 0, below := 3, above := 3, group := 0 }

/-- The tap and target words, from a first word (Tables 05.3 and 06.1). -/
def tapFields (first : Nat) : List TableField :=
  ((List.range 24).flatMap fun i => [limit (first + i) 31 16 true (-2047) 2047 0, limit (first + i) 15 0 true (-2047) 2047 0]) ++
  [reserved (first + 30) 31 16, reserved (first + 31) 31 5, limit (first + 31) 4 0 false 1 31 0]

/-- The fields of a lane whose reader the head has, and of one it lacks (Tables 05.3 and 05.4, R140, R146). -/
def laneFields (readers e : Nat) : List TableField :=
  if testBit readers e then
    [limit (6 + 2 * e) 11 8 false 0 11 0, reserved (6 + 2 * e) 7 6, limit (6 + 2 * e) 5 0 false 0 47 0,
     reserved (7 + 2 * e) 12 8] ++ (if e = 1 then [zeroOnly (7 + 2 * e) 31 21] else [])
  else
    [zeroOnly (6 + 2 * e) 31 0, zeroOnly (7 + 2 * e) 31 0] ++ (List.range 8).map fun k => zeroOnly (22 + 8 * e + k) 31 0

/-- The fields of a rate-zone record (Table 05.3). -/
def rzFields (readers : Nat) : List TableField :=
  [limit 0 23 20 false 0 11 0, reserved 1 15 0, limit 2 31 0 false 26214400 136314880 1, reserved 3 4 0,
   limit 5 31 24 false 16 56 0] ++ ((List.range 3).flatMap fun e => laneFields readers e) ++
  ((List.range 5).map fun j => reserved (13 + 2 * j) 31 24) ++ tapFields 22 ++
  ((List.range 9).map fun i => reserved (54 + i) 31 0)

/-- The fields of a record of a table kind: write, assist, alternative and group records (Tables 07.1, 07.4 and 13.1). -/
def recordFields (kind readers : Nat) : List TableField :=
  match kind with
  | 1 => rzFields readers
  | 3 => [limit 0 23 20 false 0 11 0, reserved 0 13 0, limit 1 31 24 false 40 240 0, limit 1 23 16 false 0 160 0,
      limit 1 15 8 false 0 64 0, reserved 1 7 0, reserved 2 31 29, reserved 2 23 21, reserved 2 15 13, reserved 2 7 0,
      reserved 3 15 0, reserved 4 31 0, reserved 5 31 0, reserved 6 31 0]
  | 4 => [limit 0 23 20 false 0 11 0, reserved 0 11 0, reserved 1 31 26, reserved 1 15 10, reserved 3 3 0, reserved 4 15 0,
      reserved 5 31 0, reserved 6 31 0]
  | 5 => tapFields 0
  | 7 => reserved 0 16 0 :: ((List.range 22).map fun i => reserved (1 + i) 30 23) ++
      (List.range 8).map fun i => reserved (23 + i) 31 0
  | _ => []

/-- Record length in bytes and the word of its check, by table kind (0 for tables without fixed records). -/
def recordLength (kind : Nat) : Nat :=
  match kind with | 1 => 256 | 3 => 32 | 4 => 32 | 5 => 128 | 7 => 128 | _ => 0

def checkWord (kind : Nat) : Option Nat :=
  match kind with | 1 => some 63 | 3 => some 7 | 4 => some 7 | 7 => some 31 | _ => none

/-- Bytes of a profile table put into the configuration set. -/
def stageBytes (s : StagedSet) (table addr : Nat) (bs : List Byte) : StagedSet :=
  { s with tables := ssetList none s.tables (tableKey table addr) (bs.map some) }

def Dev.stageTable (d : Dev) (table addr : Nat) (bs : List Byte) : Dev :=
  { d with conf := { d.conf.trimTouch with staged := stageBytes d.conf.staged table addr bs } }

/-- A byte of a profile table as committed, overlaid with the configuration set. -/
def Dev.overByte (d : Dev) (table addr : Nat) : Byte :=
  (sget none d.conf.staged.tables (tableKey table addr)).getD (sget 0 d.conf.tables (tableKey table addr))

def Dev.overWord (d : Dev) (table addr : Nat) : Word :=
  wordOfBytes (d.overByte table addr) (d.overByte table (addr + 1)) (d.overByte table (addr + 2)) (d.overByte table (addr + 3))

def Dev.overWords (d : Dev) (table addr n : Nat) : List Word :=
  (List.range n).map fun i => d.overWord table (addr + 4 * i)

/-- One field of a staged record brought into its legal range, when bytes lo to hi − 1 of the record were written. -/
def Dev.clampField (d : Dev) (table base lo hi : Nat) (f : TableField) : Dev :=
  if 4 * f.word + f.hi / 8 < lo ∨ hi ≤ 4 * f.word + f.lo / 8 then d
  else
    let w := d.overWord table (base + 4 * f.word)
    let n := f.hi + 1 - f.lo
    let v := bits w f.hi f.lo
    let x : Int := if f.sg then signed n v else (v : Int)
    let fix (y : Int) (reason : Nat) : Dev :=
      (d.stageTable table (base + 4 * f.word) (bytesOfNat 4 (withBits w f.hi f.lo (unsigned n y)).toNat)).trim
        { addr := base + 4 * f.word, space := 1, msb := f.hi, lsb := f.lo, reason := reason, group := f.group, written := v,
          applied := unsigned n y }
    if x < f.low then fix f.low f.below else if f.high < x then fix f.high f.above else d

/-- A check word staged as the CRC of the words before it; `seen` when the write covered it (Table 18.6). -/
def Dev.recompute (d : Dev) (table addr : Nat) (crc group shown : Nat) (seen : Bool) : Dev :=
  let old := d.overWord table addr
  if old.toNat = crc then d
  else
    let d1 := d.stageTable table addr (bytesOfNat 4 crc)
    if seen then d1.trim { addr := shown, space := 1, msb := 31, lsb := 0, reason := 7, group := group, written := old.toNat,
                           applied := crc }
    else d1

/-- One record of a fixed length after bytes lo to hi − 1 of it were staged. RGEN is the device's, and a rate-zone record's
check follows its other words (R145, R148). -/
def Dev.settleRecord (d : Dev) (table base lo hi : Nat) : Dev :=
  let kind := table / 16
  let readers := sget 0 d.conf.readers (12 * (table % 2) + base / 256 / 64)
  let d1 := (recordFields kind readers).foldl (fun (d : Dev) f => d.clampField table base lo hi f) d
  let d2 := if kind = 1 then
      d1.stageTable table base (bytesOfNat 4 (withBits (d1.overWord table base) 11 0 (bits (d1.tword table base) 11 0)).toNat)
    else d1
  match checkWord kind with
  | none => d2
  | some c =>
    let seen := decide (lo < 4 * c + 4 ∧ 4 * c < hi)
    if seen ∨ kind = 1 then
      d2.recompute table (base + 4 * c) (crc32Words (d2.overWords table base c)) (if kind = 7 then 8 else 0) (base + 4 * c) seen
    else d2

/-- Every record that a write of `n` bytes touched. -/
def Dev.settleRecords (d : Dev) (table addr n : Nat) : Dev :=
  let size := recordLength (table / 16)
  if size = 0 ∨ n = 0 then d
  else
    (List.range ((addr + n - 1) / size - addr / size + 1)).foldl (fun (d : Dev) k =>
      let base := (addr / size + k) * size
      d.settleRecord table base (addr - base) (Nat.min size (addr + n - base))) d

/-- The header check of a Plank table (R80), when the write covered it. -/
def Dev.settlePlank (d : Dev) (table addr n : Nat) : Dev :=
  let base := addr / 2 ^ 16 * 2 ^ 16
  if addr % 2 ^ 16 < 32 ∧ 28 < addr % 2 ^ 16 + n then
    let entries := bits (d.overWord table (base + 8)) 31 16
    d.recompute table (base + 28) (crc32Words (d.overWords table base 7 ++ d.overWords table (base + 32) (4 * entries))) 1
      (base + 28) true
  else d

/-- Word offsets below a limit that a sparse table lists. -/
def listedWords (m : List Nat) (lim : Nat) : List Nat := ((m.map fun k => k / 4).dedup.filter fun i => decide (4 * i < lim)).mergeSort

/-- The runout tables that the directory names (R290): the directory ends where the lowest of them begins. -/
def Dev.runoutTables (d : Dev) (table : Nat) : List Nat :=
  let base := d.f ((Reg.SRV_RRO_DIR_ADDR).on (Act.ofBit (table % 2))) * 32
  let keys := (d.conf.tables.map Prod.fst ++ d.conf.staged.tables.map Prod.fst).filterMap fun k =>
    if k / 2 ^ 32 = table then some (k % 2 ^ 32) else none
  let r := (listedWords keys (2 ^ 18)).foldl (fun (x : Nat × List Nat) i =>
    let p := bits (d.overWord table (4 * i)) 31 5 * 32
    if 4 * i < x.1 ∧ base < p then (Nat.min x.1 (p - base), (p - base) :: x.2) else x) (2 ^ 18, [])
  r.2.dedup

/-- The runout tables that a write touched get their CRC (Table 18.6): header and entries in whole words. -/
def Dev.settleRunout (d : Dev) (table addr n : Nat) : Dev :=
  (d.runoutTables table).foldl (fun (d : Dev) t =>
    let words := (4 + 2 * bits (d.overWord table t) 31 22 + 3) / 4
    if addr < t + 4 * words + 4 ∧ t < addr + n then
      d.recompute table (t + 4 * words) (crc32Words (d.overWords table t words)) 0 (t + 4 * words)
        (decide (t + 4 * words < addr + n))
    else d) d

/-- The address of a table access checked (Table 18.6): BAD_PARAM and STATE_CONFLICT for a Plank table. -/
def Dev.tableFault (d : Dev) (p : Packet) (n : Nat) : Option Rep :=
  let table := p.num Ty.table 0
  let addr := p.num Ty.addr 0
  let kind := table / 16 % 16
  if 256 ≤ table ∨ kind = 0 ∨ 7 < kind ∨ 1 < table % 16 then some (p.bad Ty.table)
  else if kind ≠ 2 then none
  else
    let i := addr / 2 ^ 16
    let w := d.overWords (table - 16) (256 * i) 64
    if 64 * d.conf.nh ≤ i ∨ 2 ^ 16 < addr % 2 ^ 16 + n then some (p.bad Ty.addr)
    else if bits (w.getD 0 0) 31 24 ≠ 1 ∨ crc32Words (w.take 63) ≠ (w.getD 63 0).toNat ∨ bits (w.getD 3 0) 31 5 = 0 then
      some (Rep.code 0x0E 0)
    else none

/-- The table number a packet means: the felt group table is one for both actuators. -/
def tableNo (table : Nat) : Nat := if table / 16 = 7 then 0x70 else table

/-- TABLE_WRITE (R470). -/
def Dev.tableWrite (d : Dev) (p : Packet) : Rep × Dev :=
  let bs := ((p.get Ty.blob).map Tlv.bytes).getD []
  let addr := p.num Ty.addr 0
  match d.tableFault p bs.length with
  | some r => (r, d)
  | none =>
    let table := tableNo (p.num Ty.table 0)
    let d1 := d.stageTable table addr bs
    (Rep.ok,
      if bs.isEmpty then d
      else if table / 16 = 2 then d1.settlePlank table addr bs.length
      else if table / 16 = 6 then d1.settleRunout table addr bs.length
      else d1.settleRecords table addr bs.length)

/-- TABLE_READ (R43): committed bytes. -/
def Dev.tableRead (d : Dev) (p : Packet) : Rep × Dev :=
  let n := p.num Ty.count 0
  if 16000 < n then (p.bad Ty.count, d)
  else
    match d.tableFault p n with
    | some r => (r, d)
    | none =>
      let t := tableNo (p.num Ty.table 0)
      (Rep.bytes ((sgetList 0 d.conf.tables (tableKey t (p.num Ty.addr 0)) n).map fun b => (b, false)), d)

/-! ### Control-store words (R128) -/

/-- The microwords that words spell, four words each. -/
def stageMicro (d : Dev) (a : Act) : Nat → Nat → List Word → Dev
  | 0, _, _ => d
  | _, _, [] => d
  | n + 1, word, ws =>
    let v := ((ws.take 4).foldr (fun (w : Word) acc => w.toNat + 2 ^ 32 * acc) 0)
    stageMicro (d.stageCst a word (sealWord (BitVec.ofNat 128 v))) a n (word + 1) (ws.drop 4)

/-- CST_WRITE: four words to a microword, with the check bits of R97. -/
def Dev.cstPacket (d : Dev) (p : Packet) : Rep × Dev :=
  let ws := ((p.get Ty.data).map Tlv.ws).getD []
  let word := p.num Ty.addr 0
  if ws.length % 4 ≠ 0 then (p.bad Ty.data, d)
  else if 16384 < word + ws.length / 4 then (p.bad Ty.addr, d)
  else (Rep.ok, stageMicro d p.act (ws.length / 4) word ws)

/-! ### The load of a profile image (R469, R470) -/

/-- Split the contents of an image into packets by their LENGTH fields. -/
def splitPackets : Nat → List Word → List (List Word)
  | 0, _ => []
  | _, [] => []
  | n + 1, ws =>
    let k := Nat.max 4 (bits (ws.getD 1 0) 15 0)
    ws.take k :: splitPackets n (ws.drop k)

/-- A packet of a load, executed as holder 6 or as the load's holder. -/
def Dev.loadPacket (d : Dev) (who : Requester) (p : Packet) (o : FabricObs) : Rep × Dev :=
  match p.op with
  | 0x0102 => d.regWrite who false p o
  | 0x0103 => d.regBatch who p o
  | 0x0205 => d.tableWrite p
  | 0x0207 => d.cstPacket p
  | _ => (Rep.ok, d)

/-- The packets of an image in order (R469, R470), `mask` the variants of the section: the first failure and the device,
with every packet before it executed. -/
def Dev.loadPackets (d : Dev) (who : Requester) (holder : Nat) (o : FabricObs) : Nat → List (List Word) → Rep × Dev
  | _, [] => (Rep.ok, d)
  | mask, ws :: rest =>
    let p := Packet.ofWords ws
    if !p.crcOk then (Rep.code 0x0A 0, d)
    else if !p.headOk then (Rep.code 0x04 0, d)
    else if p.op = 0x0209 then
      match d.packetFault .twin holder true p with
      | some e => (Rep.code e.1 e.2, d)
      | none => d.loadPackets who holder o (p.num Ty.variant 0x1F) rest
    else if !testBit mask d.variant.code then d.loadPackets who holder o mask rest
    else
      match d.packetFault .twin holder true p with
      | some e => (Rep.code e.1 e.2, d)
      | none =>
        let r := d.loadPacket who p o
        if r.1.status = 0 then r.2.loadPackets who holder o mask rest else r

/-- What a profile declares outside its packets, in force for the load's checks (R70, R71, R584). -/
def Dev.declare (d : Dev) (x : ProfileDecl) : Dev :=
  let cells (bs : List Byte) : List (Nat × Byte) := ssetList 0 [] 0 bs
  { d with conf := { d.conf with nh := x.nh, readers := x.readers, dataImage := ⟨cells x.data0, cells x.data1⟩ } }

/-- A load that fails leaves nothing staged and the declarations as they were. -/
def Dev.failLoad (d old : Dev) (status : Nat) : Dev :=
  let d1 := d.discard
  let d2 := { d1 with conf := { d1.conf with nh := old.conf.nh, readers := old.conf.readers, dataImage := old.conf.dataImage } }
  if status = 0x06 then (d2.setF Reg.SIZ_RESULT_CHECK 0x0F).setF Reg.SIZ_RESULT_GROUP 0 else d2

/-- SIZER: SIZ_RESULT, SIZ_MARGIN and SIZ_FLOOR. -/
def Dev.sizerTlv (d : Dev) : Tlv := Tlv.ofWords Ty.sizer [d.live Reg.SIZ_RESULT, d.live Reg.SIZ_MARGIN, d.live Reg.SIZ_FLOOR]

/-- The reply of a commit that has just been made: its status and DETAIL (R458). -/
def Dev.commitRep (d : Dev) : Rep :=
  let st := d.f Reg.SIZ_STATUS_LAST_STATUS
  { Rep.code st (if st = 0x02 ∨ st = 0x0E then d.f Reg.SIZ_RESULT_CHECK else 0) with tlvs := [d.sizerTlv] }

/-- The trim records that writes have added, or that a report has held since they cleared it (R48, R49). -/
def newTrims (old new : Conf) : List TrimRec :=
  if old.trimStale then (if new.trimStale && decide (new.trims = old.trims) then [] else new.trims)
  else new.trims.drop old.trims.length

/-- The reply to a commit that meets a running one (R56). -/
def Dev.droppedRep (d : Dev) : Rep := { Rep.code 0x0E (d.f Reg.SIZ_RESULT_CHECK) with tlvs := [d.sizerTlv] }

/-- A verified image's packets executed and committed under the load's hold of the semaphore (R469). -/
def Dev.loadProfile (d : Dev) (who : Requester) (holder : Nat) (body : List Byte) (x : ProfileDecl) (o : FabricObs) :
    Rep × Dev :=
  let r := (d.declare x).loadPackets who holder o 0x1F (splitPackets body.length (wordsOfBytes body.length body))
  if r.1.status ≠ 0 then
    let d1 := r.2.failLoad d r.1.status
    ({ r.1 with tlvs := [d1.sizerTlv] }, d1)
  else if r.2.busy then (r.2.droppedRep, (r.2.failLoad d 0x0E).setF Reg.SIZ_STATUS_DROPPED 1)
  else
    let d1 := r.2.commit false
    let e := { d1.commitRep with extra := newTrims d.conf r.2.conf }
    (e, if e.status = 0 then d1 else d1.failLoad d e.status)

end Sys2Proof.Machine
end

