-- ==== Sys2Proof/Machine/MpiOps.lean ====
section
/-! DEFINITION. What the session, register-window, configuration, profile and calibration packets do once every check of
R460 has passed (Table 18.5): each operation answers its reply and the device after it. -/

namespace Sys2Proof.Machine

/-- A packet being executed: its path and what it meets outside the model. -/
structure Call where
  path : Path
  p : Packet
  o : MpiObs
deriving DecidableEq, Repr

def Call.who (c : Call) : Requester := .path c.path
def Call.holder (c : Call) : Nat := holderOf c.path

/-- A numeric TLV of the packet, 0 when it is absent. -/
def Call.num (c : Call) (ty : Nat) : Nat := c.p.num ty 0

def Call.data (c : Call) : List Word := ((c.p.get Ty.data).map Tlv.ws).getD []
def Call.blob (c : Call) : List Byte := ((c.p.get Ty.blob).map Tlv.bytes).getD []

def w32 (n : Nat) : Word := BitVec.ofNat 32 n

def Rep.nats (ns : List Nat) : Rep := Rep.result (ns.map w32)

/-! ### Jobs (R468) -/

def Dev.onMpi (d : Dev) (g : Mpi → Mpi) : Dev := { d with mpi := g d.mpi }

/-- A job started: its number. -/
def Dev.startJob (d : Dev) (op arg : Nat) : Nat × Dev :=
  let n := d.mpi.nextJob
  (n, d.onMpi fun m => { m with
    nextJob := n + 1
    jobs := m.jobs ++ [{ no := n, op := op, arg := arg, progress := 0, done := false, status := 0, result := [], trims := [],
                         endedAt := 0 }] })

/-- A job ends with its final status and result. -/
def Dev.endJobNo (d : Dev) (n status : Nat) (result : List Word) (trims : List TrimRec) : Dev :=
  let now := d.clock.nowNs
  d.onMpi fun m => { m with jobs := m.jobs.map fun (j : MpiJob) =>
    if j.no = n ∧ !j.done then
      { j with done := true, progress := 100, status := status, result := result, trims := trims, endedAt := now }
    else j }

/-- The reply that carries a job's number. -/
def Rep.job (n : Nat) : Rep := { Rep.ok with tlvs := [Tlv.ofWords Ty.job [w32 n]] }

/-- A job that runs to its end within the step that starts it: `f` answers its final reply. -/
def Dev.shortJob (d : Dev) (c : Call) (f : Dev → Rep × Dev) : Rep × Dev :=
  let s := d.startJob c.p.op 0
  let r := f s.2
  let words := r.1.tlvs.flatMap Tlv.ws
  let st := if r.1.status = 0 ∧ r.1.extra.any (fun t => decide (1 ≤ t.reason ∧ t.reason ≤ 4)) then 1 else r.1.status
  (Rep.job s.1, r.2.endJobNo s.1 st words r.1.extra)

/-! ### Session -/

/-- ECHO: the packet's TLVs. -/
def Dev.mpiEcho (d : Dev) (c : Call) : Rep × Dev := ({ Rep.ok with tlvs := c.p.tlvs }, d)

/-- The header of the image that a slot holds, when the checks of R485 that need no signature pass. -/
def Dev.slotHeader (d : Dev) (fw : Bool) (slot : Nat) : Option ImageHeader :=
  match (d.slotImage fw slot).1 with
  | none => none
  | some bs => if d.imageFault fw true bs = 0 then some (ImageHeader.ofBytes bs) else none

def Dev.slotVersion (d : Dev) (fw : Bool) (slot : Nat) : Nat := ((d.slotHeader fw slot).map ImageHeader.version).getD 0

/-- GET_INFO. -/
def Dev.mpiGetInfo (d : Dev) (_ : Call) : Rep × Dev :=
  (Rep.result [d.live Reg.SYS_ID, d.live Reg.SYS_REV, d.live Reg.SYS_CAPS, w32 (d.slotVersion true (d.f Reg.NVC_BOOT_FW_BOOTED)),
    w32 (d.slotVersion false (d.f Reg.NVC_BOOT_PROF_LOADED)), d.live Reg.SIZ_STATUS], d)

/-- SEM_CLAIM (R443). -/
def Dev.mpiSemClaim (d : Dev) (c : Call) : Rep × Dev :=
  if d.semOpen c.holder then
    let d1 := d.semClaim c.holder
    (Rep.nats [d1.f Reg.CPX_SEM_GRANTS], d1)
  else (Rep.code 0x05 0, d.semRefused)

/-- SEM_RELEASE (R444). -/
def Dev.mpiSemRelease (d : Dev) (c : Call) : Rep × Dev :=
  let r := d.semRelease c.holder
  (Rep.code r.1 0, r.2)

/-- SEM_STATUS. -/
def Dev.mpiSemStatus (d : Dev) (_ : Call) : Rep × Dev := (Rep.result [d.live Reg.CPX_SEM], d)

/-- JOB_STATUS: state (0 running, 1 ended), progress, final status and result; an ended job is then forgotten. -/
def Dev.mpiJobStatus (d : Dev) (c : Call) : Rep × Dev :=
  match d.mpi.jobs.find? fun j => decide (j.no = c.num Ty.job) with
  | none => (c.p.bad Ty.job, d)
  | some j =>
    ({ Rep.result ([w32 (flag j.done), w32 j.progress, w32 j.status] ++ j.result) with extra := j.trims },
      if j.done then d.onMpi fun m => { m with jobs := m.jobs.filter fun (x : MpiJob) => decide (x.no ≠ j.no) } else d)

/-- JOB_ABORT: a running job ends with STATE_CONFLICT. -/
def Dev.mpiJobAbort (d : Dev) (c : Call) : Rep × Dev :=
  match d.mpi.jobs.find? fun j => decide (j.no = c.num Ty.job) with
  | none => (c.p.bad Ty.job, d)
  | some j => (Rep.ok, (if j.op = 0x0503 ∧ !j.done then d.thawRecs 0 else d).endJobNo j.no 0x0E [] [])

/-! ### Register window (R465, R466) -/

/-- Consecutive registers read. -/
def Dev.readRun (d : Dev) (who : Requester) (o : FabricObs) (addr : Nat) : Nat → List Word × Dev
  | 0 => ([], d)
  | n + 1 =>
    let d1 := d.fabricRead who (addr % 2 ^ 32) o
    let r := d1.readRun who o (addr + 4) n
    (sget 0 d1.reads who.key :: r.1, r.2)

/-- REG_READ. -/
def Dev.mpiRegRead (d : Dev) (c : Call) : Rep × Dev :=
  let n := c.p.num Ty.count 1
  if c.num Ty.addr % 4 ≠ 0 then (c.p.bad Ty.addr, d)
  else if n = 0 ∨ 1024 < n then (c.p.bad Ty.count, d)
  else
    let r := d.readRun c.who c.o.fabric (c.num Ty.addr) n
    (Rep.result r.1, r.2)

/-- REG_WRITE and REG_WRITE_BATCH. -/
def Dev.mpiRegWrite (d : Dev) (c : Call) : Rep × Dev := d.regWrite c.who false c.p c.o.fabric
def Dev.mpiRegBatch (d : Dev) (c : Call) : Rep × Dev := d.regBatch c.who c.p c.o.fabric

/-- One read of a poll: the reply once the value matches or the time has passed. -/
def Dev.pollOnce (d : Dev) (who : Requester) (w : MpiWait) : Option Rep × Dev :=
  let d1 := d.fabricRead who w.addr w.obs
  let v := sget 0 d1.reads who.key
  (if v &&& w.mask = w.value &&& w.mask ∨ w.due ≤ d1.clock.nowNs then some (Rep.result [v]) else none, d1)

/-- REG_POLL: read at once, then at every tick edge. -/
def Dev.mpiRegPoll (d : Dev) (c : Call) : Rep × Dev :=
  if c.num Ty.addr % 4 ≠ 0 then (c.p.bad Ty.addr, d)
  else if 10000 < c.num Ty.time then (c.p.bad Ty.time, d)
  else
    let w : MpiWait := { head := 0, flags := 0, crc := 0, poll := true, addr := c.num Ty.addr, mask := w32 (c.num Ty.mask),
                         value := w32 (c.num Ty.value), due := d.clock.nowNs + c.num Ty.time * 1000000, obs := c.o.fabric,
                         holds := false, cmd := none }
    let r := d.pollOnce c.who w
    match r.1 with
    | some x => (x, r.2)
    | none => ({ Rep.ok with wait := some w }, r.2)

/-! ### Memory spaces (MEM_READ, MEM_WRITE, NV_READ) -/

/-- Fresh free bytes, none of them poisoned. -/
def Dev.freeBytes (d : Dev) (n : Nat) : List PByte × Dev :=
  ((List.range n).map fun i => (BitVec.ofNat 8 (Config.freeNat (d.free + i)), false), { d with free := d.free + n })

/-- A byte of the vault header (Table 19.10), once a save has written one. -/
def Vault.headerByte (v : Vault) (i : Nat) : Byte :=
  let body := le32 0x4B560001 ++ [BitVec.ofNat 8 v.state, 0, 0, 0] ++ le32 v.count ++ le32 v.keygen ++ List.replicate 4076 0
  (body ++ le32 (crc32 body)).getD i 0

/-- A byte of MRAM whose layout the manual gives (Tables 19.8 to 19.10, R507): the vault header, Hatband records, parity
debt; none elsewhere. -/
def Dev.mramByte (d : Dev) (a : Nat) : Option Byte :=
  if a < 4096 then (if d.nv.vault.count = 0 then none else some (d.nv.vault.headerByte a))
  else if 0x03400000 ≤ a ∧ a < 0x03600000 then
    let w := (d.hb.recWords ((a - 0x03400000) / 32)).getD (a / 4 % 8) 0
    some (BitVec.ofNat 8 (w.toNat / 2 ^ (8 * (a % 4))))
  else if 0x03680000 ≤ a ∧ a < 0x03700000 then
    some (BitVec.ofNat 8 ((d.zone ((a - 0x03680000) / 2)).debt / 2 ^ (8 * (a % 2))))
  else none

/-- MRAM bytes; `bad` are the units that read uncorrectable. -/
def Dev.readMram (d : Dev) (a n : Nat) (bad : List Nat) : List PByte × Dev :=
  let f := d.freeBytes n
  let bs := (f.1.zipIdx.map fun p => ((d.mramByte (a + p.2)).getD p.1.1, bad.contains ((a + p.2) / 16)))
  (bs, (bad.filter fun u => decide (a / 16 ≤ u ∧ u ≤ (a + n - 1) / 16)).foldl Dev.mramUe f.2)

/-- Bytes of the option area's two copies (R482), erased bytes reading as ones. -/
def Dev.optionByte (d : Dev) (a : Nat) : Byte :=
  match (d.nv.copies.get (a / 2048))[a % 2048 / 4]? with
  | some w => BitVec.ofNat 8 (w.toNat / 2 ^ (8 * (a % 4)))
  | none => 0xFF

/-- The size of a space in bytes (Table 18.2). -/
def Dev.spaceSize (d : Dev) (space : Nat) : Nat :=
  match space with
  | 0 => d.f Reg.DMC_CAP_MIB * 2 ^ 20
  | 1 => bufSize
  | 2 => 2 ^ 26
  | 3 => 2 ^ 25
  | _ => 4096

/-- Bytes of a space, with a read of a busy flash bank refused (R478). -/
def Dev.readSpace (d : Dev) (c : Call) (least : Nat) : Rep × Dev :=
  let space := c.num Ty.space
  let a := c.num Ty.addr
  let n := c.num Ty.count
  if space < least ∨ 4 < space then (c.p.bad Ty.space, d)
  else if 16000 < n then (c.p.bad Ty.count, d)
  else if d.spaceSize space < a + n then (c.p.bad Ty.addr, d)
  else if n = 0 then (Rep.bytes [], d)
  else
    match space with
    | 0 => let r := d.readDram a n; (Rep.bytes r.1, r.2)
    | 1 => let r := d.readBufs a n; (Rep.bytes r.1, r.2)
    | 2 => let r := d.readMram a n c.o.mram; (Rep.bytes r.1, r.2)
    | 3 =>
      if (List.range (n / 32 + 2)).any fun i => d.flashBusy (Nat.min (a + 32 * i) (a + n - 1)) then (Rep.code 0x0E 0, d)
      else let r := d.readFlashBytes a n; (Rep.bytes r.1, r.2)
    | _ => (Rep.bytes ((List.range n).map fun i => (d.optionByte (a + i), false)), d)

/-- MEM_READ. -/
def Dev.mpiMemRead (d : Dev) (c : Call) : Rep × Dev := d.readSpace c 0

/-- NV_READ. -/
def Dev.mpiNvRead (d : Dev) (c : Call) : Rep × Dev := d.readSpace c 2

/-- MEM_WRITE. -/
def Dev.mpiMemWrite (d : Dev) (c : Call) : Rep × Dev :=
  let bs := ((c.p.get Ty.data).map Tlv.bytes).getD []
  let a := c.num Ty.addr
  if 1 < c.num Ty.space then (c.p.bad Ty.space, d)
  else if d.spaceSize (c.num Ty.space) < a + bs.length then (c.p.bad Ty.addr, d)
  else (Rep.ok, d.writeSpace (decide (c.num Ty.space = 1)) a (bs.map fun b => (b, false)))

/-! ### Configuration (R53, R57, R58) -/

/-- CFG_COMMIT: the reply follows the checks; the packet's hold lasts until the applying edge. -/
def Dev.mpiCfgCommit (d : Dev) (_ : Call) : Rep × Dev :=
  if d.busy then (d.droppedRep, d.setF Reg.SIZ_STATUS_DROPPED 1)
  else
    let d1 := d.commit false
    (d1.commitRep, d1)

/-- CFG_DISCARD. -/
def Dev.mpiCfgDiscard (d : Dev) (_ : Call) : Rep × Dev := (Rep.ok, d.discard)

/-- CFG_STATUS. -/
def Dev.mpiCfgStatus (d : Dev) (_ : Call) : Rep × Dev :=
  ({ Rep.ok with tlvs := [Tlv.ofWords Ty.result [d.live Reg.SIZ_STATUS], d.sizerTlv] }, d)

/-- SIZER_CHECK: the proof over the committed image overlaid with the set; nothing changes. -/
def Dev.mpiSizerCheck (d : Dev) (_ : Call) : Rep × Dev :=
  let x := d.candidate d.conf.staged
  let k := x.proof d.conf.staged
  ({ Rep.code (if k = 0 then 0 else 0x02) k with
      tlvs := [Tlv.ofWords Ty.sizer [w32 k, w32 (Nat.min (2 ^ 18 - 1) x.margin),
        w32 (Nat.min 255 x.floor100 * 2 ^ 24 + Nat.min (2 ^ 24 - 1) x.floorTicks)]] }, d)

/-- TABLE_WRITE, TABLE_READ and CST_WRITE. -/
def Dev.mpiTableWrite (d : Dev) (c : Call) : Rep × Dev := d.tableWrite c.p
def Dev.mpiTableRead (d : Dev) (c : Call) : Rep × Dev := d.tableRead c.p
def Dev.mpiCstWrite (d : Dev) (c : Call) : Rep × Dev := d.cstPacket c.p

/-! ### Profiles (R469, R486, R487) -/

/-- The slot whose profile is in force. -/
def Dev.profInForce (d : Dev) (slot : Nat) : Bool := !d.safe && decide (slot = d.f Reg.NVC_BOOT_PROF_LOADED)

/-- A whole image verified and loaded; `slot` where it came from. -/
def Dev.loadImage (d : Dev) (c : Call) (img : Option (List Byte)) (slot : Option Nat) : Rep × Dev :=
  match img with
  | none => (Rep.code 0x0A 0, d)
  | some bs =>
    let e := d.imageFault false c.o.sig bs
    if e ≠ 0 then (Rep.code e 0, d)
    else
      let r := d.loadProfile c.who c.holder ((imageBody bs).getD []) c.o.decl c.o.fabric
      match slot with
      | some s => (r.1, if r.1.status = 0 then r.2.setF Reg.NVC_BOOT_PROF_LOADED s else r.2)
      | none => r

/-- PROFILE_LOAD, of a slot or of a whole image in the packet. -/
def Dev.mpiProfileLoad (d : Dev) (c : Call) : Rep × Dev :=
  let slot := c.num Ty.slot
  if c.p.has Ty.slot == c.p.has Ty.blob then (c.p.bad Ty.blob, d)
  else if 1 < slot then (c.p.bad Ty.slot, d)
  else d.shortJob c fun d =>
    if c.p.has Ty.slot then
      let r := d.slotImage false slot
      r.2.loadImage c r.1 (some slot)
    else d.loadImage c (some c.blob) none

/-- PROFILE_SECTION outside a load. -/
def Dev.mpiProfileSection (d : Dev) (_ : Call) : Rep × Dev := (Rep.ok, d)

/-- A downloaded piece put among the others: one at the same offset is replaced, one that overlaps is refused. -/
def putPiece (ps : List (Nat × List Byte)) (p : Nat × List Byte) : Option (List (Nat × List Byte)) :=
  let rest := ps.filter fun q => decide (q.1 ≠ p.1)
  if p.2.isEmpty ∨ rest.any (fun q => piecesMeet q p) then none else some (rest ++ [p])

/-- PROFILE_DOWNLOAD. -/
def Dev.mpiProfileDownload (d : Dev) (c : Call) : Rep × Dev :=
  let p := (c.num Ty.addr, c.blob)
  if slotSectors false * 2 ^ 16 < p.1 + p.2.length then (c.p.bad Ty.addr, d)
  else
    match putPiece d.mpi.prof p with
    | none => (c.p.bad Ty.addr, d)
    | some ps => (Rep.ok, d.onMpi fun m => { m with prof := ps })

/-- PROFILE_STORE (R487): refused for the loaded slot and for PROF_SEL. -/
def Dev.mpiProfileStore (d : Dev) (c : Call) : Rep × Dev :=
  let slot := c.num Ty.slot
  if 1 < slot then (c.p.bad Ty.slot, d)
  else if d.profInForce slot ∨ slot = d.nv.boot.profSel ∨ d.mpi.prof.isEmpty then (Rep.code 0x0E 0, d)
  else
    match imageOfPieces d.mpi.prof with
    | none => (Rep.code 0x0A 0, d)
    | some bs =>
      let s := d.startJob c.p.op slot
      let e := s.2.imageFault false c.o.sig bs
      if e ≠ 0 then (Rep.job s.1, s.2.endJobNo s.1 e [] [])
      else
        let d1 := (s.2.storeImage false slot (bs.take (256 + (ImageHeader.ofBytes bs).clen)) c.o.store).onMpi fun m =>
          { m with prof := [] }
        (Rep.job s.1, if c.o.store = .done then d1.endJobNo s.1 0 [] [] else d1)

/-- PROFILE_SELECT. -/
def Dev.mpiProfileSelect (d : Dev) (c : Call) : Rep × Dev :=
  if 1 < c.num Ty.slot then (c.p.bad Ty.slot, d)
  else (Rep.ok, d.setBoot { d.nv.boot with profSel := c.num Ty.slot })

/-! ### Calibration -/

/-- CAL_REG_WRITE (R467). -/
def Dev.mpiCalRegWrite (d : Dev) (c : Call) : Rep × Dev := d.regWrite c.who true c.p c.o.fabric

/-- SPINDLE_RUN, a job that ends when the spindle is at speed or at rest. -/
def Dev.mpiSpindleRun (d : Dev) (c : Call) : Rep × Dev :=
  let v := c.num Ty.value
  if 1 < v then (c.p.bad Ty.value, d)
  else
    let s := (d.spinRun (decide (v = 1))).startJob c.p.op v
    (Rep.job s.1, s.2)

/-- Whether HEAD names a head of its actuator. -/
def Dev.headNamed (d : Dev) (c : Call) : Bool := decide (c.num Ty.head < 32 ∧ c.p.headNo < d.conf.nh)

/-- HEAD_LOAD, a job that ends when the actuator is loaded or on its ramp. -/
def Dev.mpiHeadLoad (d : Dev) (c : Call) : Rep × Dev :=
  let v := c.num Ty.value
  let a := c.p.act
  if !d.headNamed c then (c.p.bad Ty.head, d)
  else if 1 < v then (c.p.bad Ty.value, d)
  else
    let s := (if v = 1 then d.servoLoad a c.p.headNo else d.servoUnload a).startJob c.p.op (2 * a.idx + v)
    (Rep.job s.1, s.2)

/-- SEEK (R283): a servo track as the target; a running trajectory or unloaded heads refuse it. -/
def Dev.mpiSeek (d : Dev) (c : Call) : Rep × Dev :=
  let a := c.p.act
  let h := c.p.headNo
  let t := c.num Ty.track
  let v := d.srv.get a
  if !d.headNamed c then (c.p.bad Ty.head, d)
  else if 2 ^ 22 ≤ t then (c.p.bad Ty.track, d)
  else if d.loadState a ≠ 2 ∨ v.traj.isSome ∨ v.due.isSome then (Rep.code 0x0E 0, d)
  else
    let other := decide (d.head a ≠ h)
    let d1 := ((d.servoHead a h).setF (Reg.SRV_TARGET_TRACK.on a) t).onSrv a fun v => { v with
      target := 65536 * (t : Int), req := none, waitReq := none, late := 0, gaveUp := false, settled := false }
    let d2 := if other ∨ (d1.srv.get a).pos = none ∨ d1.f (Reg.SRV_STATUS_PES_VALID.on a) = 0 then
        d1.onSrv a fun v => { v with deciding := true }
      else d1.decideSeek a
    (Rep.result [d2.live (Reg.SRV_STATUS + 0x10000 * a.idx)], d2)

/-- Consecutive words written to registers as the calibration packets write them. -/
def Dev.calWrites (d : Dev) (c : Call) : List (Nat × Word) → Dev
  | [] => d
  | x :: xs => (d.fabricWrite c.who true x.1 0xFFFFFFFF#32 x.2 c.o.fabric).calWrites c xs

/-- INJECT: SRVn_INJ_CTL to SRVn_INJ_DF. -/
def Dev.mpiInject (d : Dev) (c : Call) : Rep × Dev :=
  if c.data.length ≠ 5 then (c.p.bad Ty.data, d)
  else (Rep.ok, d.calWrites c (c.data.zipIdx.map fun p => (Reg.SRV_INJ_CTL + 0x10000 * c.p.act.idx + 4 * p.2, p.1)))

/-- CAPTURE_ARM: SRVn_CAP_CTL, SEL and TRIG, with CTL written last. -/
def Dev.mpiCaptureArm (d : Dev) (c : Call) : Rep × Dev :=
  let b := 0x10000 * c.p.act.idx
  match c.data with
  | [ctl, sel, trig] =>
    (Rep.ok, d.calWrites c [(Reg.SRV_CAP_SEL + b, sel), (Reg.SRV_CAP_TRIG + b, trig), (Reg.SRV_CAP_CTL + b, ctl)])
  | _ => (c.p.bad Ty.data, d)

/-- A sample of a memory, counted from the oldest held; a free value where none is held. -/
def Dev.captureWord (d : Dev) (a : Act) (mem i : Nat) : Word :=
  match (d.srv.get a).cap.samples.reverse[i]? with
  | some p => match mem with | 0 => p.1 | 1 => p.2.1 | _ => p.2.2
  | none => w32 (Config.freeNat (d.free + i))

/-- CAPTURE_READ (R278). -/
def Dev.mpiCaptureRead (d : Dev) (c : Call) : Rep × Dev :=
  let n := c.num Ty.count
  if 2 < c.num Ty.value then (c.p.bad Ty.value, d)
  else if 4000 < n then (c.p.bad Ty.count, d)
  else if 65536 < c.num Ty.addr + n then (c.p.bad Ty.addr, d)
  else
    (Rep.result ((List.range n).map fun i => d.captureWord c.p.act (c.num Ty.value) (c.num Ty.addr + i)),
      { d with free := d.free + 65536 })

/-- The wait for the end of a pass-through access. -/
def preampWait (a : Act) (o : FabricObs) : MpiWait :=
  { head := 0, flags := 0, crc := 0, poll := false, addr := Reg.TNL_PA_RESULT + 0x10000 * a.idx, mask := 0, value := 0,
    due := 0, obs := o, holds := false, cmd := none }

/-- PREAMP_ACCESS (R244): one transaction; the reply follows its end. -/
def Dev.mpiPreampAccess (d : Dev) (c : Call) : Rep × Dev :=
  match c.data with
  | [w] =>
    ({ Rep.ok with wait := some (preampWait c.p.act c.o.fabric) },
      d.calWrites c [(Reg.TNL_PA_ACC + 0x10000 * c.p.act.idx, w ||| 0x80000000#32)])
  | _ => (c.p.bad Ty.data, d)

/-- LINK_RETRAIN (R242). -/
def Dev.mpiLinkRetrain (d : Dev) (c : Call) : Rep × Dev :=
  let d1 := d.retrain c.p.act c.o.fabric.train
  (Rep.result [d1.live (Reg.TNL_STATUS + 0x10000 * c.p.act.idx)], d1)

/-- READER_CLEAR (R158): MASK [2:0] the readers of the head, [10:8] the lanes, as their registers hold them. -/
def Dev.mpiReaderClear (d : Dev) (c : Call) : Rep × Dev :=
  let m := c.num Ty.mask
  if !d.headNamed c then (c.p.bad Ty.head, d)
  else
    let d1 := if m % 8 = 0 then d else d.clearFail c.p.act (some c.p.headNo) (m % 8)
    (Rep.ok, if m / 256 % 8 = 0 then d1 else d1.clearFail c.p.act none (m / 256 % 8))

/-- An assist record's SP_OP staged (R219 step 2). -/
def Dev.stageSpOp (d : Dev) (a : Act) (h sp : Nat) (p : Nat × Nat) : Dev :=
  let base := 32 * (256 * h + 4 * p.1 + p.2)
  let t := Tbl.assist a
  let d1 := d.stageTable t (base + 4) (bytesOfNat 4 (withBits (d.overWord t (base + 4)) 9 0 sp).toNat)
  let d2 := d1.settleRecord t base 4 8
  d2.recompute t (base + 28) (crc32Words (d2.overWords t base 7)) 0 (base + 28) false

/-- ASSIST_RECAL (R219): the lowest passing SP_OP, with 5 % of ILIM more, committed while the head is not selected; the
head fails when none passes. -/
def Dev.mpiAssistRecal (d : Dev) (c : Call) : Rep × Dev :=
  let a := c.p.act
  let h := c.p.headNo
  if !d.headNamed c then (c.p.bad Ty.head, d)
  else d.shortJob c fun d =>
    match c.o.spOp with
    | none =>
      let d1 := d.onWr a fun w =>
        let hh := sget Health.fresh w.health h
        { w with health := sset Health.fresh w.health h { hh with noValue := true } }
      (Rep.code 0x0E 0, d1.healthUpdate a h)
    | some v =>
      if d.busy then (Rep.code 0x0E 0, d.setF Reg.SIZ_STATUS_DROPPED 1)
      else
        let sp := Nat.min 1023 (v + d.asIlim a h / 20)
        let d1 := if d.head a = h ∧ 1 < d.conf.nh then d.servoHead a ((h + 1) % d.conf.nh) else d
        let d2 := ((d1.assistRecs a h).foldl (fun (d : Dev) p => d.stageSpOp a h sp p) d1).commit false
        let st := d2.f Reg.SIZ_STATUS_LAST_STATUS
        if st ≠ 0 then (Rep.code st 0, d2)
        else
          (Rep.nats [sp], d2.onWr a fun w =>
            { w with suspended := sset false w.suspended h false, mismatch := sset 0 w.mismatch h 0 })

/-- ECC_INJECT (R386): the unit's address and the TEST_CTL word, with GO set. -/
def Dev.mpiEccInject (d : Dev) (c : Call) : Rep × Dev :=
  let a := c.num Ty.addr
  match c.num Ty.space, c.data with
  | 0, [w] => (Rep.ok, d.calWrites c [(Reg.DMC_TEST_ADDR, w32 (a / 64)), (Reg.DMC_TEST_CTL, w ||| 0x80000000#32)])
  | 1, [w] => (Rep.ok, d.calWrites c [(Reg.BUF_TEST_ADDR, w32 a), (Reg.BUF_TEST_CTL, w ||| 0x80000000#32)])
  | s, _ => (c.p.bad (if 1 < s then Ty.space else Ty.data), d)

/-- The end of a fault hold (R538), once FMG_STATUS.RESTARTS has been cleared: start-up goes on with spin-up. -/
def Dev.endFaultHold (d : Dev) : Dev :=
  if d.f Reg.FMG_STATUS_HOLD = 1 ∧ d.f Reg.FMG_STATUS_RESTARTS = 0 ∧ d.f Reg.SYS_BOOT_DRAM_CH ≠ 0 then
    ((d.setF Reg.FMG_STATUS_HOLD 0).setF Reg.SYS_BOOT_RESULT 0).setF Reg.SYS_BOOT_STEP 8
  else d

/-- HANDOVER (R453, R538). -/
def Dev.mpiHandover (d : Dev) (c : Call) : Rep × Dev :=
  match c.num Ty.value with
  | 0 => (Rep.ok, d.handoverAll true .X)
  | 1 => (Rep.ok, d.handoverAll true .Y)
  | 2 => (Rep.ok, d.semFree.endFaultHold)
  | _ => (c.p.bad Ty.value, d)

end Sys2Proof.Machine
end

