-- ==== Sys2Proof/Machine/MpiMedia.lean ====
section
/-! DEFINITION. What the media, log, nonvolatile and twin packets do once every check of R460 has passed (Table 18.5). -/

namespace Sys2Proof.Machine

/-! ### Media diagnostics -/

/-- The track index of a band whose centre lies on a servo track (R74). -/
def BandRec.indexOf (b : BandRec) (track : Nat) : Option Nat :=
  let x := if b.dir then b.start - track else track - b.start
  if (if b.dir then b.start < track else track < b.start) ∨ x % (b.pitch + 1) ≠ 0 ∨ b.tracks ≤ x / (b.pitch + 1) then none
  else some (x / (b.pitch + 1))

/-- The band of a head that a servo track belongs to, with its track index. -/
def Dev.bandAt (d : Dev) (a : Act) (h track : Nat) : Option (Nat × BandRec × Nat) :=
  d.media.bands.findSome? fun p =>
    match p.2 with
    | none => none
    | some b => if b.surface = d.surfaceOf a h then (b.indexOf track).map fun t => (p.1, b, t) else none

/-- A record as the ladder holds it, for a read that no request made. -/
def diagRec (band pos slot rung : Nat) (conv : Bool) : LadderRec :=
  { tag := 0, band := band, pos := pos, slot := slot, conv := conv, rung := rung, plan := 0, noback := false,
    distrust := false, ends := false, single := false, sync2 := false, cut := false }

/-- The bytes of a block as delivered: poisoned zeros where the record gives none. -/
def blockBytes (v : Option Nat) : List PByte :=
  match v with
  | some x => (bytesOfNat 4096 x).map fun b => (b, false)
  | none => List.replicate 4096 (0, true)

/-- A record read for a diagnostic packet (R191, R192): its decode status, its bytes, and what its outcome counts. -/
def Dev.diagRead (d : Dev) (a : Act) (band pos slot : Nat) (conv : Bool) (e : ReadEnd) : (Word × List PByte) × Dev :=
  let r := diagRec band pos slot e.rung conv
  let lost : (Word × List PByte) × Dev :=
    let w := statusWord e.rung 3 0 0xFF 0 0 r false
    ((w, (List.range (recBlocks conv)).flatMap fun _ => blockBytes none),
      (d.bumpF (Reg.CHN_UNREC_COUNT.on a) 1).event Ev.unrecovered (.chn a) 0 w.toNat)
  match d.mediaAt band pos with
  | none => lost
  | some m =>
    if e.good && d.placedAt band pos m then
      ((statusWord e.rung (if e.rung = 0 then 0 else 1) 0 (m.bad % 256) e.decode.globals e.decode.locals r e.decode.offset,
        (List.range (recBlocks conv)).flatMap fun i => blockBytes (d.readable m 0 i)),
        (d.keyEvent m).bumpF ((Reg.CHN_RUNG_OK_COUNT.nth (e.rung % 8)).on a) 1)
    else lost

/-- The outcome of the read that the packet's observations give for its i-th record; a failure at the last rung where they
give none. -/
def Call.read (c : Call) (i : Nat) : ReadEnd :=
  (c.o.reads[i]?).getD { rung := 7, good := false, decode :=
    { zeroSyndrome := false, crcGood := false, globals := 0, locals := 0, offset := false, weak := false } }

/-- TRACK_READ: at most one record. -/
def Dev.mpiTrackRead (d : Dev) (c : Call) : Rep × Dev :=
  let a := c.p.act
  let n := c.num Ty.slots % 1024
  let slot := c.num Ty.slots / 65536 % 1024
  if !d.headNamed c then (c.p.bad Ty.head, d)
  else if 1 < n then (c.p.bad Ty.slots, d)
  else
    match d.bandAt a c.p.headNo (c.num Ty.track) with
    | none => (c.p.bad Ty.track, d)
    | some (bi, b, t) =>
      let slots := d.slotsOf b
      if slots < slot + n then (c.p.bad Ty.slots, d)
      else if n = 0 then (Rep.result [], d)
      else
        let r := d.diagRead a bi (t * slots + slot) slot (decide (2 ≤ b.kind)) (c.read 0)
        let x := Rep.bytes r.1.2
        ({ x with tlvs := x.tlvs ++ [Tlv.ofWords Ty.dstatus [r.1.1]] }, r.2)

/-- The slots of one track read in order: the greatest decode status. -/
def Dev.scanSlots (d : Dev) (c : Call) (bi : Nat) (b : BandRec) (t i : Nat) : Nat → Nat → Nat × Dev
  | 0, worst => (worst, d)
  | n + 1, worst =>
    let slot := d.slotsOf b - (n + 1)
    let r := d.diagRead c.p.act bi (t * d.slotsOf b + slot) slot (decide (2 ≤ b.kind)) (c.read i)
    r.2.scanSlots c bi b t (i + 1) n (Nat.max worst r.1.1.toNat)

/-- Consecutive servo tracks scanned; a track that no band of the head has answers 0. -/
def Dev.scanTracks (d : Dev) (c : Call) (track i : Nat) : Nat → List Nat × Dev
  | 0 => ([], d)
  | n + 1 =>
    match d.bandAt c.p.act c.p.headNo track with
    | none =>
      let x := d.scanTracks c (track + 1) i n
      (0 :: x.1, x.2)
    | some (bi, b, t) =>
      let r := d.scanSlots c bi b t i (d.slotsOf b) 0
      let x := r.2.scanTracks c (track + 1) (i + d.slotsOf b) n
      (r.1 :: x.1, x.2)

/-- TRACK_SCAN: one word for each track. -/
def Dev.mpiTrackScan (d : Dev) (c : Call) : Rep × Dev :=
  if !d.headNamed c then (c.p.bad Ty.head, d)
  else if 4000 < c.num Ty.count then (c.p.bad Ty.count, d)
  else d.shortJob c fun d =>
    let r := d.scanTracks c (c.num Ty.track) 0 (c.num Ty.count)
    (Rep.nats r.1, r.2)

/-- REPLAY_READ (R175): raw samples as the packet's observations give them. -/
def Dev.mpiReplayRead (d : Dev) (c : Call) : Rep × Dev :=
  let fmt := (d.det.get c.p.act).format
  let n := c.num Ty.count
  if bufCount fmt ≤ c.num Ty.value then (c.p.bad Ty.value, d)
  else if 4000 < n then (c.p.bad Ty.count, d)
  else if (if fmt = 0 then 299593 else 37449) < c.num Ty.addr + n then (c.p.bad Ty.addr, d)
  else
    (Rep.result ((List.range n).map fun i => (c.o.samples[i]?).getD (w32 (Config.freeNat (d.free + i) % 2 ^ 21))),
      { d with free := d.free + n })

/-- The NSID and LBA of the packet. -/
def Call.nsid (c : Call) : Nat := c.num Ty.lba
def Call.lba (c : Call) : Nat :=
  match (c.p.get Ty.lba).map Tlv.ws with
  | some [_, lo, hi] => lo.toNat + 2 ^ 32 * hi.toNat
  | _ => 0

/-- The physical wedge at which a place's record begins (R84). -/
def Dev.wedgeOf (d : Dev) (b : BandRec) (p : Place) : Nat :=
  let t := d.plankTable (d.actOf b.surface) (plankAddr (d.headOf b.surface) b.rzone)
  match t.entries.find? fun e => decide (e.kind = 1 ∧ e.slot = p.slot) && e.first with
  | none => 0
  | some e => physWedge e.wedge p.index b.skew d.wedges

/-- Band, surface, servo track, slot and wedge of a place. -/
def Dev.placeWords (d : Dev) (p : Place) : List Nat :=
  match d.band p.band with
  | none => []
  | some b => [p.band, b.surface, p.track, p.slot, d.wedgeOf b p]

/-- LBA_TO_PHYS (R88, R90): both copies of a conventional block. -/
def Dev.mpiLbaToPhys (d : Dev) (c : Call) : Rep × Dev :=
  let ps := if c.nsid = 1 then (d.mapZoned c.lba).toList
    else if c.nsid = 2 then (d.mapConv c.lba 0).toList ++ (d.mapConv c.lba 1).toList else []
  if ps.isEmpty then (c.p.bad Ty.lba, d) else (Rep.nats (ps.flatMap d.placeWords), d)

/-- A slip entry's word (R85). -/
def Slip.word (s : Slip) : Nat := flag s.grown * 2 ^ 31 + flag s.pending * 2 ^ 30 + s.pos % 65536

/-- DEFECT_READ: slip entries, or reassignments as sector [31:16] and spare [15:0]. -/
def Dev.mpiDefectRead (d : Dev) (c : Call) : Rep × Dev :=
  let bi := c.num Ty.value
  match d.band bi with
  | none => (c.p.bad Ty.value, d)
  | some b =>
    (Rep.nats (if b.kind ≤ 1 then (d.slipsOf bi).map Slip.word
      else (d.media.reassigned.filter fun r => decide (r.band = bi)).map fun r => r.sector * 65536 + r.spare), d)

/-- DEFECT_PEND (R86): bands that slip. -/
def Dev.mpiDefectPend (d : Dev) (c : Call) : Rep × Dev :=
  let bi := c.num Ty.value
  match d.band bi with
  | none => (c.p.bad Ty.value, d)
  | some b =>
    if 2 ≤ b.kind then (c.p.bad Ty.value, d)
    else if 65536 ≤ c.num Ty.addr then (c.p.bad Ty.addr, d)
    else (Rep.ok, d.pendSlip bi (c.num Ty.addr))

/-- HEAD_FAIL (R367). -/
def Dev.mpiHeadFail (d : Dev) (c : Call) : Rep × Dev :=
  if !d.headNamed c then (c.p.bad Ty.head, d)
  else d.shortJob c fun d => (Rep.ok, d.headFailing c.p.act c.p.headNo)

/-- The bytes rebuilt from the sources read, blocks that carry poison marked. -/
def Dev.rebuilt (d : Dev) (plan : ReconPlan) (o : SourceReads) : List PByte :=
  (d.solveBytes plan o).zipIdx.map fun b => (b.1, testBit o.poison (b.2 / 4096))

/-- RECON_READ (R364): the bolt of a zoned LBA rebuilt at rung 7. -/
def Dev.mpiReconRead (d : Dev) (c : Call) : Rep × Dev :=
  if c.nsid ≠ 1 then (c.p.bad Ty.lba, d)
  else
    match d.mapZoned c.lba with
    | none => (c.p.bad Ty.lba, d)
    | some pl =>
      let z := c.lba / d.media.zoneBlocks
      let plan := d.locate z (c.lba % d.media.zoneBlocks / 8)
      let r := diagRec pl.band pl.pos pl.slot 7 false
      match d.reconCause plan c.o.source, plan with
      | none, some p =>
        let bs := d.rebuilt p c.o.source
        let x := Rep.bytes bs
        let w := statusWord 7 2 0 (c.o.source.poison % 256) 0 0 r false
        let d1 := d.bumpF Reg.FLT_CNT_RECON_OK 1
        ({ x with tlvs := x.tlvs ++ [Tlv.ofWords Ty.dstatus [w]] },
          { d1 with felt := { d1.felt with solved := bs.map Prod.fst } })
      | cause, _ =>
        ({ Rep.ok with tlvs := [Tlv.ofWords Ty.dstatus [statusWord 7 3 0 0xFF 0 0 r false]] }, d.reconFailed z (cause.getD 1))

/-! ### Logs and records -/

/-- HATBAND_READ (R511): HBR_SEQ before and after, and the records. -/
def Dev.mpiHatbandRead (d : Dev) (c : Call) : Rep × Dev :=
  let at0 := c.num Ty.addr
  let n := c.num Ty.count
  if 500 < n then (c.p.bad Ty.count, d)
  else if 65536 < at0 + n then (c.p.bad Ty.addr, d)
  else
    let idx := (List.range n).map fun i => at0 + i
    let bytes := (idx.flatMap fun i => (d.hb.recWords i).flatMap fun w =>
      (bytesOfNat 4 w.toNat).map fun b => (b, sget false d.hb.poisoned i))
    (Rep.bytes (((bytesOfNat 4 d.hb.seq.toNat ++ bytesOfNat 4 d.hb.seq.toNat).map fun b => (b, false)) ++ bytes), d)

/-- HATBAND_CLEAR (R513). -/
def Dev.mpiHatbandClear (d : Dev) (c : Call) : Rep × Dev :=
  if d.hb.frozen.isEmpty then (Rep.ok, d.clearHatband c.holder) else (Rep.code 0x0E 0, d)

/-- The archive's contents (R514): a header of 32 bytes and the frozen records. -/
def Dev.archiveBytes (d : Dev) : List Byte :=
  let ms := d.clock.nowNs / 1000
  let n := d.hb.recs.length
  le32 n ++ le32 d.hb.seq.toNat ++ le32 d.hb.boot ++ le32 ms ++ le32 (ms / 2 ^ 32) ++ List.replicate 12 0 ++
    (List.range n).flatMap fun i => (d.hb.recWords i).flatMap fun w => bytesOfNat 4 w.toNat

/-- The archive of the frozen range compressed into DRAM: the job's final reply. -/
def Dev.archive (d : Dev) (o : MpiObs) : Rep × Dev :=
  let d1 := d.freezeRecs 0
  let bs := d1.archiveBytes
  let e := compressJob (bs.map fun b => (b, false)) 65536 bs.length [] o.codings
  ({ Rep.code e.status 0 with tlvs := [Tlv.ofWords Ty.result [w32 e.outLen]] },
    (d1.writeSpace false (d.f Reg.HBR_ARCH_ADDR * 32 + e.skip) (e.out.map fun b => (b, false))).countJob
      (d.f Reg.FUL_STATUS_HEAD) e.status)

/-- A job's final status and result fixed while it still runs. -/
def Dev.foreseeJob (d : Dev) (n status : Nat) (result : List Word) : Dev :=
  d.onMpi fun m => { m with jobs := m.jobs.map fun (j : MpiJob) => if j.no = n then { j with status := status, result := result } else j }

/-- HATBAND_ARCHIVE (R514): its end waits for throttle level 0 (R527), with its records frozen. -/
def Dev.mpiHatbandArchive (d : Dev) (c : Call) : Rep × Dev :=
  let s := d.startJob c.p.op 0
  let r := s.2.archive c.o
  (Rep.job s.1, r.2.foreseeJob s.1 r.1.status (r.1.tlvs.flatMap Tlv.ws))

/-- The addresses that a row of the register tables occupies. -/
def RegRow.addrs (r : RegRow) : List Nat :=
  let one := (List.range r.count).map fun i => r.addr + r.stride * i
  if r.perAct = 0 then one else one ++ one.map fun x => x + r.perAct

/-- The registers of a block that hold counters: those with RC fields, in ascending address order. -/
def counterRegs (b : Block) : List Nat :=
  ((regRows.filter fun r => r.fields.any fun f => decide (f.acc = .rc)).flatMap fun r =>
    r.addrs.filter fun a => decide (blockOf a = some b)).dedup.mergeSort

/-- Registers read one after another. -/
def Dev.readList (d : Dev) (who : Requester) (o : FabricObs) : List Nat → List Word × Dev
  | [] => ([], d)
  | x :: xs =>
    let d1 := d.fabricRead who x o
    let r := d1.readList who o xs
    (sget 0 d1.reads who.key :: r.1, r.2)

/-- COUNTERS (R465): every counter of the block, in ascending address order. -/
def Dev.mpiCounters (d : Dev) (c : Call) : Rep × Dev :=
  match blockAt (c.num Ty.value) with
  | none => (c.p.bad Ty.value, d)
  | some b =>
    let r := d.readList c.who c.o.fabric (counterRegs b)
    (Rep.result r.1, r.2)

/-- HEAD_HEALTH (R221): the values of the head's log page entry. -/
def Dev.mpiHeadHealth (d : Dev) (c : Call) : Rep × Dev :=
  if !d.headNamed c then (c.p.bad Ty.head, d)
  else (Rep.nats ((d.headEntry c.p.act c.p.headNo).map Prod.snd), d)

/-- The 32 bytes of a felt event record (Table 13.5). -/
def FeltEvent.bytes (e : FeltEvent) : List Byte :=
  [BitVec.ofNat 8 e.type, BitVec.ofNat 8 e.surface, BitVec.ofNat 8 e.head, 0] ++ le32 e.groups ++ le32 e.zones ++
    bytesOfNat 8 e.capacity ++ le32 e.zone ++ bytesOfNat 8 e.time

/-- FELT_LOG: records from the one numbered ADDR. -/
def Dev.mpiFeltLog (d : Dev) (c : Call) : Rep × Dev :=
  if 500 < c.num Ty.count then (c.p.bad Ty.count, d)
  else
    let rs := (d.felt.events.drop (c.num Ty.addr)).take (c.num Ty.count)
    (Rep.bytes ((rs.flatMap FeltEvent.bytes).map fun b => (b, false)), d)

/-- VAULT_INFO: log page 0xC2. -/
def Dev.mpiVaultInfo (d : Dev) (_ : Call) : Rep × Dev := (Rep.nats d.vaultWords, d)

/-! ### Nonvolatile memory and images -/

/-- OPTION_WRITE (R483). -/
def Dev.mpiOptionWrite (d : Dev) (c : Call) : Rep × Dev :=
  let bs := c.blob
  if bs.length ≠ 2048 then (c.p.bad Ty.blob, d)
  else
    let r := d.optionWrite (wordsOfBytes bs.length bs) c.o.store
    (if r.1 = 0 then Rep.ok else c.p.bad Ty.blob, r.2)

/-- State, version and check value of one slot: state bit 0 valid, 1 running or loaded, 2 selected for the next start. -/
def Dev.slotWords (d : Dev) (fw sig : Bool) (slot : Nat) : List Nat :=
  let img := (d.slotImage fw slot).1
  let hd := (img.map ImageHeader.ofBytes).map ImageHeader.version
  let valid := match img with | none => false | some bs => decide (d.imageFault fw sig bs = 0)
  let now := if fw then decide (d.f Reg.NVC_BOOT_FW_BOOTED = slot) else d.profInForce slot
  let next := if fw then decide (d.nv.boot.pending = slot + 1 ∨ (d.nv.boot.pending = 0 ∧ d.nv.boot.active = slot))
    else decide (d.nv.boot.profSel = slot)
  [flag valid + 2 * flag now + 4 * flag next, hd.getD 0, (img.map fun bs => wordAt bs 156).getD 0]

/-- SLOT_INFO (R486): firmware slots A and B, then profile slots A and B. -/
def Dev.mpiSlotInfo (d : Dev) (c : Call) : Rep × Dev :=
  (Rep.nats (d.slotWords true c.o.sig 0 ++ d.slotWords true c.o.sig 1 ++ d.slotWords false c.o.sig 0 ++
    d.slotWords false c.o.sig 1), d)

/-- FW_DOWNLOAD. -/
def Dev.mpiFwDownload (d : Dev) (c : Call) : Rep × Dev :=
  let p := (c.num Ty.addr, c.blob)
  if slotSectors true * 2 ^ 16 < p.1 + p.2.length then (c.p.bad Ty.addr, d)
  else
    match putPiece d.mpi.fw p with
    | none => (c.p.bad Ty.addr, d)
    | some ps => (Rep.ok, d.onMpi fun m => { m with fw := ps })

/-- A commit that has stored its image or named its slot (Table 19.5): the slot made pending, or activated; the job of an
activation carries 16 + its slot. -/
def Dev.fwCommitted (d : Dev) (job slot ca : Nat) (h : ImageHeader) : Dev :=
  if ca = 3 then
    (d.onMpi fun m => { m with jobs := m.jobs.map fun (j : MpiJob) => if j.no = job then { j with arg := 16 + slot } else j }).semBegin.startActivation
      none slot h.mirrorVer
  else (((if ca = 1 ∨ ca = 2 then d.setPendingFw slot else d).semBegin).fwDone none slot ca).endJobNo job 0 [] []

/-- FW_COMMIT (R431, R486): a job that ends with the store, or with the activation of commit action 3. -/
def Dev.mpiFwCommit (d : Dev) (c : Call) : Rep × Dev :=
  let slot := c.num Ty.slot
  let ca := c.num Ty.value
  if 1 < slot then (c.p.bad Ty.slot, d)
  else if 3 < ca then (c.p.bad Ty.value, d)
  else if d.host.sanitize.isSome ∨ (ca ≤ 1 ∧ slot = d.nv.boot.active) then (Rep.code 0x0E 0, d)
  else
    let s := d.startJob c.p.op slot
    let ends (d : Dev) (status : Nat) : Rep × Dev := (Rep.job s.1, d.endJobNo s.1 status [] [])
    if ca = 2 then
      let r := s.2.slotFault true c.o.sig slot
      if r.1 = 0 then (Rep.job s.1, r.2.fwCommitted s.1 slot ca (ImageHeader.ofBytes [])) else ends r.2 r.1
    else
      match (if ca = 3 then s.2.commitImage s.2.mpi.fw slot else imageOfPieces s.2.mpi.fw) with
      | none => ends s.2 0x0A
      | some bs =>
        let h := ImageHeader.ofBytes bs
        let e := s.2.imageFault true c.o.sig bs
        if e ≠ 0 then ends s.2 e
        else if ca = 3 ∧ d.f Reg.CPX_MIRROR_VER < h.mirrorMin then ends s.2 0x0E
        else if s.2.mpi.fw.isEmpty then (Rep.job s.1, s.2.fwCommitted s.1 slot ca h)
        else
          let d1 := (s.2.storeImage true slot (bs.take (256 + h.clen)) c.o.store).onMpi fun m => { m with fw := [] }
          (Rep.job s.1, if c.o.store = .done then d1.fwCommitted s.1 slot ca h else d1)

/-- FULLER_JOB (R505): DATA holds the output address, and may hold the output size in a second word. -/
def Dev.mpiFullerJob (d : Dev) (c : Call) : Rep × Dev :=
  let op := c.num Ty.value
  let a := c.num Ty.addr
  let n := c.num Ty.count
  let out := (c.data.getD 0 0).toNat
  if 1 < op then (c.p.bad Ty.value, d)
  else if c.num Ty.space ≠ 0 then (c.p.bad Ty.space, d)
  else if d.spaceSize 0 < a + n then (c.p.bad Ty.addr, d)
  else if out % 4 ≠ 0 ∨ d.spaceSize 0 ≤ out ∨ 2 < c.data.length then (c.p.bad Ty.data, d)
  else d.shortJob c fun d =>
    let r := d.readDram a n
    let room := d.spaceSize 0 - out
    let osize := match c.data[1]? with
      | some w => Nat.min room w.toNat
      | none => if op = 0 then Nat.min room n else room
    let e := if op = 0 then compressJob r.1 65536 osize [] c.o.codings else decompressJob r.1 osize
    ({ Rep.code e.status 0 with tlvs := [Tlv.ofWords Ty.result [w32 e.outLen]] },
      (r.2.writeSpace false (out + e.skip) (e.out.map fun b => (b, false))).countJob (d.f Reg.FUL_STATUS_HEAD) e.status)

/-! ### The twin link (R464) -/

/-- MIRROR_VERSION: the mirror version that runs, and the oldest that its image reads. -/
def Dev.mpiMirrorVersion (d : Dev) (_ : Call) : Rep × Dev :=
  let v := d.f Reg.CPX_MIRROR_VER
  let least := ((d.slotHeader true (d.f Reg.NVC_BOOT_FW_BOOTED)).map ImageHeader.mirrorMin).getD v
  (Rep.nats [v, least], d)

/-- The ports of a mask. -/
def portsIn (m : Nat) : List Port := [Port.A, Port.B].filter fun p => testBit m p.idx

/-- HANDOVER_REQ: each port of the mask passes to the complex that does not serve it (R453). -/
def Dev.mpiHandoverReq (d : Dev) (c : Call) : Rep × Dev :=
  (Rep.ok, (portsIn (c.num Ty.value)).foldl (fun (d : Dev) p => d.handover (d.servedBy p).other [p]) d)

/-- HANDOVER_DONE reports only. -/
def Dev.mpiHandoverDone (d : Dev) (_ : Call) : Rep × Dev := (Rep.ok, d)

/-- HEARTBEAT: the beats that complexes X and Y have written since they became ready, one every 10 µs (R449). -/
def Dev.mpiHeartbeat (d : Dev) (_ : Call) : Rep × Dev :=
  (Rep.nats ([Cpx.X, Cpx.Y].map fun x => (d.clock.nowNs - d.cpx.readyAt.get x.idx) / 10000), d)

end Sys2Proof.Machine
end

