-- ==== Sys2Proof/Machine/Mpi.lean ====
section
/-! DEFINITION. Packets from their arrival to their reply (R460 to R463, R471), the NVMe commands that carry them (R435),
the jobs that run on after a reply (R468), and the device's tick edge. -/

namespace Sys2Proof.Machine

/-! ### Opcodes -/

/-- What each opcode does (Table 18.5). -/
def handlers : List (Nat × (Dev → Call → Rep × Dev)) :=
  [(0x0001, Dev.mpiEcho), (0x0002, Dev.mpiGetInfo), (0x0003, Dev.mpiSemClaim), (0x0004, Dev.mpiSemRelease),
   (0x0005, Dev.mpiSemStatus), (0x0006, Dev.mpiJobStatus), (0x0007, Dev.mpiJobAbort), (0x0101, Dev.mpiRegRead),
   (0x0102, Dev.mpiRegWrite), (0x0103, Dev.mpiRegBatch), (0x0104, Dev.mpiRegPoll), (0x0105, Dev.mpiMemRead),
   (0x0106, Dev.mpiMemWrite), (0x0201, Dev.mpiCfgCommit), (0x0202, Dev.mpiCfgDiscard), (0x0203, Dev.mpiCfgStatus),
   (0x0204, Dev.mpiSizerCheck), (0x0205, Dev.mpiTableWrite), (0x0206, Dev.mpiTableRead), (0x0207, Dev.mpiCstWrite),
   (0x0208, Dev.mpiProfileLoad), (0x0209, Dev.mpiProfileSection), (0x020A, Dev.mpiProfileDownload),
   (0x020B, Dev.mpiProfileStore), (0x020C, Dev.mpiProfileSelect), (0x0301, Dev.mpiCalRegWrite),
   (0x0302, Dev.mpiSpindleRun), (0x0303, Dev.mpiHeadLoad), (0x0304, Dev.mpiSeek), (0x0305, Dev.mpiInject),
   (0x0306, Dev.mpiCaptureArm), (0x0307, Dev.mpiCaptureRead), (0x0308, Dev.mpiPreampAccess),
   (0x0309, Dev.mpiLinkRetrain), (0x030A, Dev.mpiReaderClear), (0x030B, Dev.mpiAssistRecal),
   (0x030C, Dev.mpiEccInject), (0x030D, Dev.mpiHandover), (0x0401, Dev.mpiTrackRead), (0x0402, Dev.mpiTrackScan),
   (0x0403, Dev.mpiReplayRead), (0x0404, Dev.mpiLbaToPhys), (0x0405, Dev.mpiDefectRead), (0x0406, Dev.mpiDefectPend),
   (0x0407, Dev.mpiHeadFail), (0x0408, Dev.mpiReconRead), (0x0501, Dev.mpiHatbandRead), (0x0502, Dev.mpiHatbandClear),
   (0x0503, Dev.mpiHatbandArchive), (0x0504, Dev.mpiCounters), (0x0505, Dev.mpiHeadHealth), (0x0506, Dev.mpiFeltLog),
   (0x0507, Dev.mpiVaultInfo), (0x0601, Dev.mpiNvRead), (0x0602, Dev.mpiOptionWrite), (0x0603, Dev.mpiSlotInfo),
   (0x0604, Dev.mpiFwDownload), (0x0605, Dev.mpiFwCommit), (0x0606, Dev.mpiFullerJob), (0x0801, Dev.mpiMirrorVersion),
   (0x0802, Dev.mpiHandoverReq), (0x0803, Dev.mpiHandoverDone), (0x0804, Dev.mpiHeartbeat)]

def Dev.handle (d : Dev) (c : Call) : Rep × Dev :=
  match handlers.find? fun h => decide (h.1 = c.p.op) with
  | none => (Rep.code 0x03 0, d)
  | some h => h.2 d c

/-- A checked packet executed, under the semaphore where Table 18.5 serializes it. A reply that comes later keeps the
implicit hold until then (R467). -/
def Dev.perform (d : Dev) (c : Call) : Rep × Dev :=
  let ser := match opRow c.p.op with
    | none => false
    | some r => decide (r.ser = 1) || (decide (r.ser = 2) && d.packetStages c.p)
  if !ser ∨ d.semHolder = c.holder then d.handle c
  else
    let r := (d.semGrant c.holder).handle c
    match r.1.wait with
    | none => (r.1, r.2.endPacketHold c.holder)
    | some w => ({ r.1 with wait := some { w with holds := true } }, r.2.semBegin)

/-! ### Paths -/

def pathKey (p : Path) : Nat := Requester.key (.path p)

def Dev.mpiPath (d : Dev) (p : Path) : MpiPath := sget MpiPath.fresh d.mpi.paths (pathKey p)

def Dev.setPath (d : Dev) (p : Path) (x : MpiPath) : Dev := d.onMpi fun m => { m with paths := sset MpiPath.fresh m.paths (pathKey p) x }

def pathIsNvme : Path → Bool
  | .nvme _ => true
  | _ => false

/-- Paths whose reply waits to be fetched by a command: MPI Receive or NVMe-MI Receive. -/
def pathHolds : Path → Bool
  | .nvme _ => true
  | .miInBand _ => true
  | _ => false

/-- Paths whose last reply is kept for a retransmission (R463). -/
def pathKeeps : Path → Bool
  | .uart => true
  | .miInBand _ => true
  | .miBus _ => true
  | _ => false

/-- Packets are served on a path: from step 5 of start-up (R544), in recovery on the UART (R486), over a port that is
present and, for its controller's queues, ready. -/
def Dev.serves (d : Dev) (p : Path) : Bool :=
  !d.pd.held &&
  (match p with
   | .uart => decide (5 ≤ d.bootStep) || d.inRecovery
   | .nvme q => decide (5 ≤ d.bootStep) && !d.inRecovery && d.fetches q
   | .miInBand q => decide (5 ≤ d.bootStep) && !d.inRecovery && d.fetches q
   | .miBus q => decide (5 ≤ d.bootStep) && !d.inRecovery && d.hasPort q
   | .twin => decide (5 ≤ d.bootStep) && !d.inRecovery)

/-- A reply sent: kept for the path, and completed with the NVMe command that carried the packet (R435). `mine` are the
trim records of the packet's own writes. -/
def Dev.answerPacket (d : Dev) (path : Path) (head : Word) (flags : Nat) (crc : Word) (cmd : Option CmdId)
    (mine : List TrimRec) (r : Rep) : Dev :=
  let ws := r.words head mine (if testBit flags 0 then d.conf.trims else mine ++ r.extra) d.conf.trimOverflow
  let x := d.mpiPath path
  let d1 := (d.setPath path { x with last := some (bits head 15 0, crc), reply := ws, unread := pathHolds path, wait := none }).onMpi
    fun m => { m with sent := (pathKey path, ws) :: m.sent }
  match cmd with
  | none => d1
  | some id => d1.complete id .success (bits (ws.getD 1 0) 23 16 + 65536 * ws.length)

/-- A frame discarded without a reply (R462). -/
def Dev.badFrame (d : Dev) (path : Path) (cmd : Option CmdId) : Dev :=
  match cmd with
  | some id => d.complete id .success 0x0A
  | none => if pathIsNvme path then d else d.bumpF Reg.SYS_MPI_CNT_BAD_FRAME 1

/-- A packet that has passed its CRC: the checks of R460 from the second on, and its execution. -/
def Dev.runPacket (d : Dev) (path : Path) (x : MpiArrival) (p : Packet) : Dev :=
  let head := x.words.getD 0 0
  let crc := x.words.getD (x.words.length - 1) 0
  match d.packetFault path (holderOf path) false p with
  | some e =>
    (if e.1 = 0x05 then d.semRefused else d).answerPacket path head p.flags crc x.cmd [] (Rep.code e.1 e.2)
  | none =>
    let r := (d.bumpF Reg.SYS_MPI_CNT_PACKETS 1).perform { path := path, p := p, o := x.obs }
    match r.1.wait with
    | some w => r.2.setPath path { (r.2.mpiPath path) with wait := some { w with head := head, flags := p.flags, crc := crc, cmd := x.cmd } }
    | none => r.2.answerPacket path head p.flags crc x.cmd (newTrims d.conf r.2.conf) r.1

/-- A packet taken up on a path whose earlier packets have been answered (R462, R463). -/
def Dev.takePacket (d : Dev) (path : Path) (x : MpiArrival) : Dev :=
  let q := d.mpiPath path
  let d1 := if pathIsNvme path ∧ q.unread then
      (d.bumpF Reg.SYS_MPI_CNT_LOST_REPLY 1).setPath path { q with unread := false, reply := [] }
    else d
  let p := Packet.ofWords x.words
  if !d1.serves path then d1
  else if !p.crcOk ∨ 16384 < x.words.length then d1.badFrame path x.cmd
  else if pathKeeps path ∧ q.last = some (p.seq, x.words.getD (x.words.length - 1) 0) then
    d1.onMpi fun m => { m with sent := (pathKey path, q.reply) :: m.sent }
  else d1.runPacket path x p

/-! ### Jobs and waits (R468, R471) -/

/-- How a running job stands: its final status and result once what it started has ended. -/
def Dev.jobOutcome (d : Dev) (j : MpiJob) : Option (Nat × List Word) :=
  if j.op = 0x0302 then
    let w := [d.live Reg.SPN_STATUS]
    if d.spnState = (if j.arg = 1 then 6 else 0) then some (0, w)
    else if j.arg = 1 ∧ d.f Reg.SPN_STATUS_FAULT = 1 then some (0x0E, w) else none
  else if j.op = 0x0303 then
    let a := Act.ofBit (j.arg / 2)
    let w := [d.live (Reg.SRV_LOAD_STATUS + 0x10000 * a.idx)]
    let st := d.loadState a
    if j.arg % 2 = 1 then (if st = 2 then some (0, w) else if st = 0 ∨ st = 4 then some (0x0E, w) else none)
    else if st = 0 ∨ st = 4 then some (0, w) else none
  else if j.op = 0x0503 then (if d.throttle = 0 then some (j.status, j.result) else none)
  else if j.op = 0x0605 ∧ 16 ≤ j.arg then
    (if d.cpx.act.isSome then none else some (if d.nv.boot.active + 16 = j.arg then 0 else 0x0E, []))
  else none

/-- Every running job whose work has ended is ended. -/
def Dev.settleJobs (d : Dev) : Dev :=
  d.mpi.jobs.foldl (fun (d : Dev) j =>
    if j.done then d
    else
      match d.jobOutcome j with
      | none => d
      | some r => (if j.op = 0x0503 then d.thawRecs 0 else d).endJobNo j.no r.1 r.2 []) d

/-- The packets that wait on a path taken up in order, until one is not answered at once. -/
def Dev.drainPath (d : Dev) (path : Path) : Nat → Dev
  | 0 => d
  | n + 1 =>
    let q := d.mpiPath path
    match q.wait, q.queue with
    | none, x :: xs => ((d.setPath path { q with queue := xs }).takePacket path x).drainPath path n
    | _, _ => d

/-- The unanswered packet of a path looked at again. -/
def Dev.tryWait (d : Dev) (path : Path) : Dev :=
  let q := d.mpiPath path
  match q.wait with
  | none => d
  | some w =>
    let r : Option Rep × Dev :=
      if w.poll then d.pollOnce (.path path) w
      else
        let v := d.live w.addr
        (if testBit v.toNat 31 then some (Rep.result [v]) else none, d)
    match r.1 with
    | none => r.2
    | some x =>
      let d1 := r.2.answerPacket path w.head w.flags w.crc w.cmd [] x
      (if w.holds then d1.semEnd else d1).drainPath path q.queue.length

/-- The paths (R471). -/
def allPaths : List Path := [.nvme .A, .nvme .B, .miInBand .A, .miInBand .B, .miBus .A, .miBus .B, .uart, .twin]

/-- Jobs and unanswered packets at a tick edge. -/
def Dev.mpiTick (d : Dev) : Dev := (allPaths.foldl (fun (d : Dev) p => d.tryWait p) d.settleJobs).semSettle

/-- TICK_EDGE (R29). -/
def execTickEdge (periodNs late : Nat) (s : State) : Host.Outcome State Fault Refusal :=
  s.next (s.dev.edge periodNs late).mpiTick

/-! ### Arrival -/

/-- A packet arrives on a path, behind those that are not answered yet. -/
def Dev.arrivePacket (d : Dev) (path : Path) (x : MpiArrival) : Dev :=
  let q := d.mpiPath path
  if q.wait.isSome then d.setPath path { q with queue := q.queue ++ [x] }
  else (d.takePacket path x).settleJobs.semSettle

/-- A packet of a given opcode; words of another opcode are not that packet. -/
def Dev.packet (d : Dev) (op : Nat) (path : Path) (ws : List Word) (o : MpiObs) : Dev :=
  if bits (ws.getD 0 0) 31 16 = op then d.arrivePacket path { words := ws, obs := o, cmd := none } else d

/-- JOB_STATUS_EXPIRED (R468): an unread status is discarded 60 s after its job ended. -/
def execJobStatusExpired (no : Nat) (s : State) : Host.Outcome State Fault Refusal :=
  let now := s.dev.clock.nowNs
  s.next (s.dev.onMpi fun m => { m with
    jobs := m.jobs.filter fun (j : MpiJob) => !(decide (j.no = no) && j.done && decide (j.endedAt + 60000000000 ≤ now)) })

/-- UART_GAP_TIMEOUT (R462). -/
def execUartGapTimeout (s : State) : Host.Outcome State Fault Refusal :=
  s.next (if s.dev.serves .uart then s.dev.bumpF Reg.SYS_MPI_CNT_BAD_FRAME 1 else s.dev)

/-! ### The NVMe transport (R435) -/

/-- MPI_SEND: one packet of 4 to 65,536 bytes. -/
def execMpiSend (id : CmdId) (ws : List Word) (o : MpiObs) (s : State) : Host.Outcome State Fault Refusal :=
  s.next (s.dev.adminDo id fun d =>
    if ws.isEmpty ∨ 16384 < ws.length then d.complete id .invalidField 0
    else d.arrivePacket (.nvme id.port) { words := ws, obs := o, cmd := some id })

/-- MPI_RECEIVE: the unread reply, into a buffer of `len` bytes. -/
def Dev.mpiReceive (d : Dev) (id : CmdId) (len : Nat) : Dev :=
  let q := d.mpiPath (.nvme id.port)
  if !q.unread then d.complete id .success 0
  else if len < 4 * q.reply.length then d.complete id .invalidField 0
  else
    ((d.setPath (.nvme id.port) { q with unread := false }).giveHost id (.words q.reply)).complete id .success
      (bits (q.reply.getD 1 0) 23 16 + 65536 * q.reply.length)

def execMpiReceive (id : CmdId) (len : Nat) (s : State) : Host.Outcome State Fault Refusal :=
  s.next (s.dev.adminDo id fun d => d.mpiReceive id len)

/-! ### The packets by opcode (Table 18.5) -/

/-- ECHO: a packet of opcode 0x0001, by its words. -/
def execEcho (path : Path) (ws : List Word) (o : MpiObs) (s : State) : Host.Outcome State Fault Refusal :=
  s.next (s.dev.packet 0x0001 path ws o)

/-- GET_INFO: a packet of opcode 0x0002, by its words. -/
def execGetInfo (path : Path) (ws : List Word) (o : MpiObs) (s : State) : Host.Outcome State Fault Refusal :=
  s.next (s.dev.packet 0x0002 path ws o)

/-- SEM_CLAIM (R442, R443): a packet of opcode 0x0003, by its words. -/
def execSemClaim (path : Path) (ws : List Word) (o : MpiObs) (s : State) : Host.Outcome State Fault Refusal :=
  s.next (s.dev.packet 0x0003 path ws o)

/-- SEM_RELEASE (R444): a packet of opcode 0x0004, by its words. -/
def execSemRelease (path : Path) (ws : List Word) (o : MpiObs) (s : State) : Host.Outcome State Fault Refusal :=
  s.next (s.dev.packet 0x0004 path ws o)

/-- SEM_STATUS (R441): a packet of opcode 0x0005, by its words. -/
def execSemStatus (path : Path) (ws : List Word) (o : MpiObs) (s : State) : Host.Outcome State Fault Refusal :=
  s.next (s.dev.packet 0x0005 path ws o)

/-- JOB_STATUS (R468): a packet of opcode 0x0006, by its words. -/
def execJobStatus (path : Path) (ws : List Word) (o : MpiObs) (s : State) : Host.Outcome State Fault Refusal :=
  s.next (s.dev.packet 0x0006 path ws o)

/-- JOB_ABORT (R468): a packet of opcode 0x0007, by its words. -/
def execJobAbort (path : Path) (ws : List Word) (o : MpiObs) (s : State) : Host.Outcome State Fault Refusal :=
  s.next (s.dev.packet 0x0007 path ws o)

/-- REG_READ (R465): a packet of opcode 0x0101, by its words. -/
def execRegRead (path : Path) (ws : List Word) (o : MpiObs) (s : State) : Host.Outcome State Fault Refusal :=
  s.next (s.dev.packet 0x0101 path ws o)

/-- REG_WRITE (R466): a packet of opcode 0x0102, by its words. -/
def execRegWrite (path : Path) (ws : List Word) (o : MpiObs) (s : State) : Host.Outcome State Fault Refusal :=
  s.next (s.dev.packet 0x0102 path ws o)

/-- REG_WRITE_BATCH (R466): a packet of opcode 0x0103, by its words. -/
def execRegWriteBatch (path : Path) (ws : List Word) (o : MpiObs) (s : State) : Host.Outcome State Fault Refusal :=
  s.next (s.dev.packet 0x0103 path ws o)

/-- REG_POLL: a packet of opcode 0x0104, by its words. -/
def execRegPoll (path : Path) (ws : List Word) (o : MpiObs) (s : State) : Host.Outcome State Fault Refusal :=
  s.next (s.dev.packet 0x0104 path ws o)

/-- MEM_READ: a packet of opcode 0x0105, by its words. -/
def execMemRead (path : Path) (ws : List Word) (o : MpiObs) (s : State) : Host.Outcome State Fault Refusal :=
  s.next (s.dev.packet 0x0105 path ws o)

/-- MEM_WRITE (R471): a packet of opcode 0x0106, by its words. -/
def execMemWrite (path : Path) (ws : List Word) (o : MpiObs) (s : State) : Host.Outcome State Fault Refusal :=
  s.next (s.dev.packet 0x0106 path ws o)

/-- CFG_COMMIT (R53): a packet of opcode 0x0201, by its words. -/
def execCfgCommit (path : Path) (ws : List Word) (o : MpiObs) (s : State) : Host.Outcome State Fault Refusal :=
  s.next (s.dev.packet 0x0201 path ws o)

/-- CFG_DISCARD (R57): a packet of opcode 0x0202, by its words. -/
def execCfgDiscard (path : Path) (ws : List Word) (o : MpiObs) (s : State) : Host.Outcome State Fault Refusal :=
  s.next (s.dev.packet 0x0202 path ws o)

/-- CFG_STATUS: a packet of opcode 0x0203, by its words. -/
def execCfgStatus (path : Path) (ws : List Word) (o : MpiObs) (s : State) : Host.Outcome State Fault Refusal :=
  s.next (s.dev.packet 0x0203 path ws o)

/-- SIZER_CHECK (R58): a packet of opcode 0x0204, by its words. -/
def execSizerCheck (path : Path) (ws : List Word) (o : MpiObs) (s : State) : Host.Outcome State Fault Refusal :=
  s.next (s.dev.packet 0x0204 path ws o)

/-- TABLE_WRITE (R470): a packet of opcode 0x0205, by its words. -/
def execTableWrite (path : Path) (ws : List Word) (o : MpiObs) (s : State) : Host.Outcome State Fault Refusal :=
  s.next (s.dev.packet 0x0205 path ws o)

/-- TABLE_READ (R43): a packet of opcode 0x0206, by its words. -/
def execTableRead (path : Path) (ws : List Word) (o : MpiObs) (s : State) : Host.Outcome State Fault Refusal :=
  s.next (s.dev.packet 0x0206 path ws o)

/-- CST_WRITE (R128): a packet of opcode 0x0207, by its words. -/
def execCstWrite (path : Path) (ws : List Word) (o : MpiObs) (s : State) : Host.Outcome State Fault Refusal :=
  s.next (s.dev.packet 0x0207 path ws o)

/-- PROFILE_LOAD (R469): a packet of opcode 0x0208, by its words. -/
def execProfileLoad (path : Path) (ws : List Word) (o : MpiObs) (s : State) : Host.Outcome State Fault Refusal :=
  s.next (s.dev.packet 0x0208 path ws o)

/-- PROFILE_SECTION (R470): a packet of opcode 0x0209, by its words. -/
def execProfileSection (path : Path) (ws : List Word) (o : MpiObs) (s : State) : Host.Outcome State Fault Refusal :=
  s.next (s.dev.packet 0x0209 path ws o)

/-- PROFILE_DOWNLOAD: a packet of opcode 0x020A, by its words. -/
def execProfileDownload (path : Path) (ws : List Word) (o : MpiObs) (s : State) : Host.Outcome State Fault Refusal :=
  s.next (s.dev.packet 0x020A path ws o)

/-- PROFILE_STORE (R487): a packet of opcode 0x020B, by its words. -/
def execProfileStore (path : Path) (ws : List Word) (o : MpiObs) (s : State) : Host.Outcome State Fault Refusal :=
  s.next (s.dev.packet 0x020B path ws o)

/-- PROFILE_SELECT (R486): a packet of opcode 0x020C, by its words. -/
def execProfileSelect (path : Path) (ws : List Word) (o : MpiObs) (s : State) : Host.Outcome State Fault Refusal :=
  s.next (s.dev.packet 0x020C path ws o)

/-- CAL_REG_WRITE (R467): a packet of opcode 0x0301, by its words. -/
def execCalRegWrite (path : Path) (ws : List Word) (o : MpiObs) (s : State) : Host.Outcome State Fault Refusal :=
  s.next (s.dev.packet 0x0301 path ws o)

/-- SPINDLE_RUN (R314): a packet of opcode 0x0302, by its words. -/
def execSpindleRun (path : Path) (ws : List Word) (o : MpiObs) (s : State) : Host.Outcome State Fault Refusal :=
  s.next (s.dev.packet 0x0302 path ws o)

/-- HEAD_LOAD (R297): a packet of opcode 0x0303, by its words. -/
def execHeadLoad (path : Path) (ws : List Word) (o : MpiObs) (s : State) : Host.Outcome State Fault Refusal :=
  s.next (s.dev.packet 0x0303 path ws o)

/-- SEEK (R283): a packet of opcode 0x0304, by its words. -/
def execSeek (path : Path) (ws : List Word) (o : MpiObs) (s : State) : Host.Outcome State Fault Refusal :=
  s.next (s.dev.packet 0x0304 path ws o)

/-- INJECT (R275): a packet of opcode 0x0305, by its words. -/
def execInject (path : Path) (ws : List Word) (o : MpiObs) (s : State) : Host.Outcome State Fault Refusal :=
  s.next (s.dev.packet 0x0305 path ws o)

/-- CAPTURE_ARM (R278): a packet of opcode 0x0306, by its words. -/
def execCaptureArm (path : Path) (ws : List Word) (o : MpiObs) (s : State) : Host.Outcome State Fault Refusal :=
  s.next (s.dev.packet 0x0306 path ws o)

/-- CAPTURE_READ (R278): a packet of opcode 0x0307, by its words. -/
def execCaptureRead (path : Path) (ws : List Word) (o : MpiObs) (s : State) : Host.Outcome State Fault Refusal :=
  s.next (s.dev.packet 0x0307 path ws o)

/-- PREAMP_ACCESS (R244): a packet of opcode 0x0308, by its words. -/
def execPreampAccess (path : Path) (ws : List Word) (o : MpiObs) (s : State) : Host.Outcome State Fault Refusal :=
  s.next (s.dev.packet 0x0308 path ws o)

/-- LINK_RETRAIN (R242): a packet of opcode 0x0309, by its words. -/
def execLinkRetrain (path : Path) (ws : List Word) (o : MpiObs) (s : State) : Host.Outcome State Fault Refusal :=
  s.next (s.dev.packet 0x0309 path ws o)

/-- READER_CLEAR (R158): a packet of opcode 0x030A, by its words. -/
def execReaderClear (path : Path) (ws : List Word) (o : MpiObs) (s : State) : Host.Outcome State Fault Refusal :=
  s.next (s.dev.packet 0x030A path ws o)

/-- ASSIST_RECAL (R219): a packet of opcode 0x030B, by its words. -/
def execAssistRecal (path : Path) (ws : List Word) (o : MpiObs) (s : State) : Host.Outcome State Fault Refusal :=
  s.next (s.dev.packet 0x030B path ws o)

/-- ECC_INJECT (R386): a packet of opcode 0x030C, by its words. -/
def execEccInject (path : Path) (ws : List Word) (o : MpiObs) (s : State) : Host.Outcome State Fault Refusal :=
  s.next (s.dev.packet 0x030C path ws o)

/-- HANDOVER (R453): a packet of opcode 0x030D, by its words. -/
def execHandover (path : Path) (ws : List Word) (o : MpiObs) (s : State) : Host.Outcome State Fault Refusal :=
  s.next (s.dev.packet 0x030D path ws o)

/-- TRACK_READ (R471): a packet of opcode 0x0401, by its words. -/
def execTrackRead (path : Path) (ws : List Word) (o : MpiObs) (s : State) : Host.Outcome State Fault Refusal :=
  s.next (s.dev.packet 0x0401 path ws o)

/-- TRACK_SCAN (R471): a packet of opcode 0x0402, by its words. -/
def execTrackScan (path : Path) (ws : List Word) (o : MpiObs) (s : State) : Host.Outcome State Fault Refusal :=
  s.next (s.dev.packet 0x0402 path ws o)

/-- REPLAY_READ (R175): a packet of opcode 0x0403, by its words. -/
def execReplayRead (path : Path) (ws : List Word) (o : MpiObs) (s : State) : Host.Outcome State Fault Refusal :=
  s.next (s.dev.packet 0x0403 path ws o)

/-- LBA_TO_PHYS (R88, R90): a packet of opcode 0x0404, by its words. -/
def execLbaToPhys (path : Path) (ws : List Word) (o : MpiObs) (s : State) : Host.Outcome State Fault Refusal :=
  s.next (s.dev.packet 0x0404 path ws o)

/-- DEFECT_READ (R85): a packet of opcode 0x0405, by its words. -/
def execDefectRead (path : Path) (ws : List Word) (o : MpiObs) (s : State) : Host.Outcome State Fault Refusal :=
  s.next (s.dev.packet 0x0405 path ws o)

/-- DEFECT_PEND (R86): a packet of opcode 0x0406, by its words. -/
def execDefectPend (path : Path) (ws : List Word) (o : MpiObs) (s : State) : Host.Outcome State Fault Refusal :=
  s.next (s.dev.packet 0x0406 path ws o)

/-- HEAD_FAIL (R367): a packet of opcode 0x0407, by its words. -/
def execHeadFail (path : Path) (ws : List Word) (o : MpiObs) (s : State) : Host.Outcome State Fault Refusal :=
  s.next (s.dev.packet 0x0407 path ws o)

/-- RECON_READ (R364): a packet of opcode 0x0408, by its words. -/
def execReconRead (path : Path) (ws : List Word) (o : MpiObs) (s : State) : Host.Outcome State Fault Refusal :=
  s.next (s.dev.packet 0x0408 path ws o)

/-- HATBAND_READ (R511): a packet of opcode 0x0501, by its words. -/
def execHatbandRead (path : Path) (ws : List Word) (o : MpiObs) (s : State) : Host.Outcome State Fault Refusal :=
  s.next (s.dev.packet 0x0501 path ws o)

/-- HATBAND_CLEAR (R513): a packet of opcode 0x0502, by its words. -/
def execHatbandClear (path : Path) (ws : List Word) (o : MpiObs) (s : State) : Host.Outcome State Fault Refusal :=
  s.next (s.dev.packet 0x0502 path ws o)

/-- HATBAND_ARCHIVE (R514): a packet of opcode 0x0503, by its words. -/
def execHatbandArchive (path : Path) (ws : List Word) (o : MpiObs) (s : State) : Host.Outcome State Fault Refusal :=
  s.next (s.dev.packet 0x0503 path ws o)

/-- COUNTERS (R465): a packet of opcode 0x0504, by its words. -/
def execCounters (path : Path) (ws : List Word) (o : MpiObs) (s : State) : Host.Outcome State Fault Refusal :=
  s.next (s.dev.packet 0x0504 path ws o)

/-- HEAD_HEALTH (R221): a packet of opcode 0x0505, by its words. -/
def execHeadHealth (path : Path) (ws : List Word) (o : MpiObs) (s : State) : Host.Outcome State Fault Refusal :=
  s.next (s.dev.packet 0x0505 path ws o)

/-- FELT_LOG (R367): a packet of opcode 0x0506, by its words. -/
def execFeltLog (path : Path) (ws : List Word) (o : MpiObs) (s : State) : Host.Outcome State Fault Refusal :=
  s.next (s.dev.packet 0x0506 path ws o)

/-- VAULT_INFO (R493): a packet of opcode 0x0507, by its words. -/
def execVaultInfo (path : Path) (ws : List Word) (o : MpiObs) (s : State) : Host.Outcome State Fault Refusal :=
  s.next (s.dev.packet 0x0507 path ws o)

/-- NV_READ (R478): a packet of opcode 0x0601, by its words. -/
def execNvRead (path : Path) (ws : List Word) (o : MpiObs) (s : State) : Host.Outcome State Fault Refusal :=
  s.next (s.dev.packet 0x0601 path ws o)

/-- OPTION_WRITE (R483): a packet of opcode 0x0602, by its words. -/
def execOptionWrite (path : Path) (ws : List Word) (o : MpiObs) (s : State) : Host.Outcome State Fault Refusal :=
  s.next (s.dev.packet 0x0602 path ws o)

/-- SLOT_INFO (R486): a packet of opcode 0x0603, by its words. -/
def execSlotInfo (path : Path) (ws : List Word) (o : MpiObs) (s : State) : Host.Outcome State Fault Refusal :=
  s.next (s.dev.packet 0x0603 path ws o)

/-- FW_DOWNLOAD (R431): a packet of opcode 0x0604, by its words. -/
def execFwDownload (path : Path) (ws : List Word) (o : MpiObs) (s : State) : Host.Outcome State Fault Refusal :=
  s.next (s.dev.packet 0x0604 path ws o)

/-- FW_COMMIT (R486): a packet of opcode 0x0605, by its words. -/
def execFwCommit (path : Path) (ws : List Word) (o : MpiObs) (s : State) : Host.Outcome State Fault Refusal :=
  s.next (s.dev.packet 0x0605 path ws o)

/-- FULLER_JOB (R505): a packet of opcode 0x0606, by its words. -/
def execFullerJob (path : Path) (ws : List Word) (o : MpiObs) (s : State) : Host.Outcome State Fault Refusal :=
  s.next (s.dev.packet 0x0606 path ws o)

/-- MIRROR_VERSION (R464): a packet of opcode 0x0801, by its words. -/
def execMirrorVersion (path : Path) (ws : List Word) (o : MpiObs) (s : State) : Host.Outcome State Fault Refusal :=
  s.next (s.dev.packet 0x0801 path ws o)

/-- HANDOVER_REQ (R464): a packet of opcode 0x0802, by its words. -/
def execHandoverReq (path : Path) (ws : List Word) (o : MpiObs) (s : State) : Host.Outcome State Fault Refusal :=
  s.next (s.dev.packet 0x0802 path ws o)

/-- HANDOVER_DONE (R464): a packet of opcode 0x0803, by its words. -/
def execHandoverDone (path : Path) (ws : List Word) (o : MpiObs) (s : State) : Host.Outcome State Fault Refusal :=
  s.next (s.dev.packet 0x0803 path ws o)

/-- HEARTBEAT (R464): a packet of opcode 0x0804, by its words. -/
def execHeartbeat (path : Path) (ws : List Word) (o : MpiObs) (s : State) : Host.Outcome State Fault Refusal :=
  s.next (s.dev.packet 0x0804 path ws o)

end Sys2Proof.Machine
end

