-- ==== Sys2Proof/Machine/Mi.lean ====
section
/-! DEFINITION. NVMe-MI (R436, Table 16.13): in-band through NVMe-MI Send and Receive, out-of-band over the management
bus of each port. A response is a list of named fields with their values; the first is its status. -/

namespace Sys2Proof.Machine

/-- A response's status: 0 success, 3 invalid opcode, 4 invalid parameter (PRESUMED, log 21). -/
def miStatus (s : Nat) (fs : List (String × Nat)) : List (String × Nat) := ("STATUS", s) :: fs

def miFail (s : Nat) : List (String × Nat) := miStatus s []

/-! ### What each command returns -/

/-- Basic Management Command: status flags, SMART warnings and composite temperature. -/
def Dev.miBasic (d : Dev) : List (String × Nat) :=
  [("NOT_READY", flag (decide (d.bootStep < 11))), ("FUNCTIONAL", flag (!d.fmg.mediaOff)),
   ("LINK_A", flag (d.ctrl .A).link), ("LINK_B", flag (d.ctrl .B).link), ("SMART_WARNINGS", d.smart),
   ("COMPOSITE_TEMPERATURE", d.composite)]

/-- The bus configuration of a port: its default until one is set (PRESUMED, log 21): 100 kHz, 64 bytes. -/
def Dev.miCfg (d : Dev) (p : Port) (c : MiConfig) : Nat :=
  match c with
  | .smbusFrequency => (sget none d.host.miCfg (2 * p.idx)).getD 1
  | .unitSize => (sget none d.host.miCfg (2 * p.idx + 1)).getD 64

def Dev.setMiCfg (d : Dev) (p : Port) (c : MiConfig) (v : Nat) : Dev :=
  let k := match c with | .smbusFrequency => 2 * p.idx | .unitSize => 2 * p.idx + 1
  d.onHost fun h => { h with miCfg := sset none h.miCfg k (some v) }

/-- Read NVMe-MI Data Structure; a port or controller that is absent is an invalid parameter. -/
def Dev.miData (d : Dev) (x : MiData) : List (String × Nat) :=
  match x with
  | .subsystem => miStatus 0 [("PORTS", if d.hasPortB then 2 else 1), ("MAJOR", 1), ("MINOR", 2)]
  | .port p =>
    if d.hasPort p then miStatus 0 [("PORT", p.idx), ("UNIT_SIZE", d.miCfg p .unitSize),
      ("SMBUS_FREQUENCY", d.miCfg p .smbusFrequency)] else miFail 4
  | .controllers => miStatus 0 d.controllers
  | .controller p => if d.hasPort p then miStatus 0 [("PORT", p.idx), ("CNTLID", 1 + p.idx)] else miFail 4

/-- NVM Subsystem Health Status Poll: fields of the SMART data. -/
def Dev.miSubsystem (d : Dev) : List (String × Nat) := miStatus 0 (d.miBasic ++ [("AVAILABLE_SPARE", d.spare)])

/-- Controller Health Status Poll: fields of the SMART data for each controller, with its CSTS. -/
def Dev.miControllers (d : Dev) : List (String × Nat) :=
  miStatus 0 (([Port.A, Port.B].filter fun p => d.hasPort p).flatMap fun p =>
    [("CNTLID", 1 + p.idx), ("RDY", flag (d.ctrl p).rdy), ("CFS", flag (d.ctrl p).cfs), ("SHST", (d.ctrl p).shst),
     ("COMPOSITE_TEMPERATURE", d.composite), ("AVAILABLE_SPARE", d.spare), ("CRITICAL_WARNING", d.smart)])

/-- VPD Read: bytes written at manufacture, those past their end left out. -/
def Dev.miVpd (d : Dev) (off len : Nat) : List (String × Nat) :=
  miStatus 0 (((d.host.vpd.drop off).take len).map fun b => ("BYTE", b.toNat))

/-- A tunnelled admin command for a port's controller: Identify, Get Log Page and Get Features only. -/
def Dev.miTunnel (d : Dev) (p : Port) (x : MiAdmin) : List (String × Nat) × Dev :=
  let ok (r : Option (List (String × Nat))) : List (String × Nat) :=
    match r with | some fs => miStatus 0 fs | none => miFail 4
  match x with
  | .identify cns ns csi => (ok (d.identify p cns ns csi), d)
  | .getLogPage lid retain => (ok (d.logPage p lid), d.clearChanges p lid retain)
  | .getFeatures fid sel => (ok ((d.feature p fid sel).map fun v => [("VALUE", v)]), d)
  | .other _ => (miFail 3, d)

/-- A request but the vendor-specific message, on an endpoint of a port: its response. -/
def Dev.miServe (d : Dev) (p : Port) (r : MiRequest) : List (String × Nat) × Dev :=
  match r with
  | .data x => (d.miData x, d)
  | .subsystemHealth => (d.miSubsystem, d)
  | .controllerHealth => (d.miControllers, d)
  | .configGet c => (miStatus 0 [("VALUE", d.miCfg p c)], d)
  | .configSet c v => (miStatus 0 [], d.setMiCfg p c v)
  | .vpdRead off len => (d.miVpd off len, d)
  | .tunnelled x => d.miTunnel p x
  | .vendor _ _ => (miFail 3, d)
  | .other _ => (miFail 3, d)

/-! ### In-band -/

/-- NVME_MI_SEND: a new request replaces a response that was not fetched. -/
def Dev.miSend (d : Dev) (id : CmdId) (r : MiRequest) : Dev :=
  let path := Path.miInBand id.port
  let d1 := (d.onCtrl id.port fun c => { c with miReply := none }).setPath path { (d.mpiPath path) with unread := false }
  match r with
  | .vendor ws o => (d1.arrivePacket path { words := ws, obs := o, cmd := none }).complete id .success 0
  | r =>
    let x := d1.miServe id.port r
    (x.2.onCtrl id.port fun c => { c with miReply := some x.1 }).complete id .success 0

def execNvmeMiSend (id : CmdId) (r : MiRequest) (s : State) : Host.Outcome State Fault Refusal :=
  s.next (s.dev.adminDo id fun d => d.miSend id r)

/-- NVME_MI_RECEIVE: the response that waits, or the reply of the packet a vendor-specific message carried. -/
def Dev.miReceive (d : Dev) (id : CmdId) : Dev :=
  let path := Path.miInBand id.port
  let q := d.mpiPath path
  match (d.ctrl id.port).miReply with
  | some fs => (d.onCtrl id.port fun c => { c with miReply := none }).reply id fs
  | none =>
    if q.unread then ((d.setPath path { q with unread := false }).giveHost id (.words q.reply)).complete id .success 0
    else d.complete id .success 0

def execNvmeMiReceive (id : CmdId) (s : State) : Host.Outcome State Fault Refusal :=
  s.next (s.dev.adminDo id fun d => d.miReceive id)

/-! ### Out-of-band -/

/-- A request on the management bus of a port, from step 5 of start-up. -/
def Dev.miBus (d : Dev) (p : Port) (r : MiRequest) : Dev :=
  if d.serves (.miBus p) then
    let x := d.miServe p r
    x.2.onHost fun h => { h with miOut := (p, x.1) :: h.miOut }
  else d

/-- BASIC_MANAGEMENT_COMMAND (R436), at SMBus address 0x6A. -/
def execBasicManagementCommand (p : Port) (s : State) : Host.Outcome State Fault Refusal :=
  s.next (if s.dev.serves (.miBus p) then s.dev.onHost fun h => { h with miOut := (p, s.dev.miBasic) :: h.miOut } else s.dev)

/-- READ_NVME_MI_DATA_STRUCTURE (R436). -/
def execReadNvmeMiDataStructure (p : Port) (x : MiData) (s : State) : Host.Outcome State Fault Refusal :=
  s.next (s.dev.miBus p (.data x))

/-- NVM_SUBSYSTEM_HEALTH_STATUS_POLL (R436). -/
def execNvmSubsystemHealthStatusPoll (p : Port) (s : State) : Host.Outcome State Fault Refusal :=
  s.next (s.dev.miBus p .subsystemHealth)

/-- CONTROLLER_HEALTH_STATUS_POLL (R436). -/
def execControllerHealthStatusPoll (p : Port) (s : State) : Host.Outcome State Fault Refusal :=
  s.next (s.dev.miBus p .controllerHealth)

/-- CONFIGURATION_GET (R436). -/
def execConfigurationGet (p : Port) (c : MiConfig) (s : State) : Host.Outcome State Fault Refusal :=
  s.next (s.dev.miBus p (.configGet c))

/-- CONFIGURATION_SET (R436). -/
def execConfigurationSet (p : Port) (c : MiConfig) (v : Nat) (s : State) : Host.Outcome State Fault Refusal :=
  s.next (s.dev.miBus p (.configSet c v))

/-- VPD_READ (R436). -/
def execVpdRead (p : Port) (off len : Nat) (s : State) : Host.Outcome State Fault Refusal :=
  s.next (s.dev.miBus p (.vpdRead off len))

/-- TUNNELLED_ADMIN_COMMAND (R436), on the bus of port `p` for the controller of port `c`. -/
def Dev.miTunnelled (d : Dev) (p c : Port) (x : MiAdmin) : Dev :=
  if d.serves (.miBus p) then
    let r := if d.hasPort c then d.miTunnel c x else (miFail 4, d)
    r.2.onHost fun h => { h with miOut := (p, r.1) :: h.miOut }
  else d

def execTunnelledAdminCommand (p c : Port) (x : MiAdmin) (s : State) : Host.Outcome State Fault Refusal :=
  s.next (s.dev.miTunnelled p c x)

/-- VENDOR_SPECIFIC_MESSAGE (R436, Table 18.4): one MPI packet over the management bus of a port. -/
def execVendorSpecificMessage (p : Port) (ws : List Word) (o : MpiObs) (s : State) : Host.Outcome State Fault Refusal :=
  s.next (s.dev.arrivePacket (.miBus p) { words := ws, obs := o, cmd := none })

end Sys2Proof.Machine
end

