-- ==== Sys2Proof/Machine/Boot.lean ====
section
/-! DEFINITION. Start-up (chapter 24): the steps of Table 24.1, each by the command that ends or advances it. -/

namespace Sys2Proof.Machine

/-! ### Step 1: power good -/

/-- Domains of the first step: those that nothing turns off, the nonvolatile die, the converters' monitors and the security
engine. -/
def domainsOne : List Nat := [73, 74, 75, 76, 77, 78, 57, 62, 63, 64, 65, 66, 67]

/-- A training that observes nothing, for domains that hold no link. -/
def Training.blank : Training := { passing := 0, linkWords := 0 }

/-- The security engine's self-test and the keys it derives at reset (R388); the media key exists from the first
generation. -/
def Dev.deriveKeys (d : Dev) : Dev :=
  (((d.setF Reg.SEC_STATUS_SELFTEST 1).setF Reg.SEC_STATUS_VAULT_KEY 1).setF Reg.SEC_STATUS_SYS_KEY 1).setF
    Reg.SEC_STATUS_MEDIA_KEY (flag (decide (d.f Reg.SEC_KEYGEN_GEN ≠ 0)))

/-- POWER_GOOD (R542, R543, R439, R507): converters in regulation; the straps `pins` [3:0] and DUALPORT_EN_N sampled once. -/
def Dev.powerGood (d : Dev) (pins : Nat) (portOff : Bool) : Dev :=
  if d.pd.held ∨ d.pd.generator ∨ d.bootStep ≠ 1 ∨ d.f Reg.PWR_SMON_STATUS_GOOD12 = 0 ∨ d.f Reg.PWR_SMON_STATUS_GOOD5 = 0 then d
  else
    let d1 := (d.setF Reg.PWR_SMON_STATUS_CORE_PG 1).setF Reg.SYS_STRAP_PINS (pins % 16)
    let d2 := { d1 with portBOff := portOff, hb := { d1.hb with boot := d1.hb.boot + 1, atPowerGood := d1.hb.recs.length } }
    ((d2.domainsUp Training.blank domainsOne).deriveKeys).endStep 1

def execPowerGood (pins : Nat) (portOff : Bool) (s : State) : Host.Outcome State Fault Refusal :=
  s.next (s.dev.powerGood pins portOff)

/-! ### Step 2: option area, straps, clock -/

/-- The straps in force (R543, R568); strap 3 has no override. -/
def Dev.strapsNow (d : Dev) : Nat :=
  let en := d.opt 2 15 8
  let value := d.opt 2 7 0
  ((List.range 8).map fun s =>
    let b := if testBit en s && decide (s ≠ 3) then testBit value s else testBit (d.f Reg.SYS_STRAP_PINS) s
    2 ^ s * flag b).sum

/-- The links of the ports whose PERST# is high train (R545). -/
def Dev.trainPorts (d : Dev) : Dev :=
  let one (d : Dev) (p : Port) : Dev :=
    if d.hasPort p ∧ d.host.perst.get p.idx then d.onCtrl p fun c => { c with link := true } else d
  one (one d .A) .B

/-- The PLLs lock: step 2 ends. `alt` says that the other clock source is in use. -/
def Dev.clockLocked (d : Dev) (alt : Bool) : Dev :=
  let d1 := d.setF Reg.SYS_STRAP_EFFECTIVE d.strapsNow
  let d2 := if alt then (d1.setF Reg.SYS_BOOT_CLK_ALT 1).event Ev.other .sys Reg.SYS_BOOT 0 else d1
  (d2.endStep 2).trainPorts

/-- OPTION_AREA_LOAD (R482, R489, R508, R543): queued events and POWER_ON are written, open tickets are handled, and with
edges from the source that REF selects the step ends. -/
def Dev.optionLoad (d : Dev) (edges : Bool) : Dev :=
  if d.bootStep ≠ 2 ∨ d.hb.ready then d
  else
    let d1 := ((d.domainsUp Training.blank domainsOne).deriveKeys).loadOption
    let d2 := (d1.onHb fun h => { h with ready := true }).drainEvents
    let d3 := (d2.event Ev.powerOn .nvc (d2.reg Reg.NVC_BOOT).toNat (d2.reg Reg.PWR_VAULT_STATUS).toNat).handleTickets
    let d4 := d3.onNv fun n => { n with badSlots := [] }
    if edges then d4.clockLocked false else d4

def execOptionAreaLoad (edges : Bool) (s : State) : Host.Outcome State Fault Refusal := s.next (s.dev.optionLoad edges)

/-- Step 2 waits for edges of a clock source: the option area has loaded. -/
def Dev.awaitsClock (d : Dev) : Bool := decide (d.bootStep = 2) && d.hb.ready

/-- CLOCK_SOURCE_TIMEOUT (R543): the chosen source gave no edges for 1 ms; `other` says that the other one does. -/
def execClockSourceTimeout (other : Bool) (s : State) : Host.Outcome State Fault Refusal :=
  s.next (if s.dev.awaitsClock && other then s.dev.clockLocked true else s.dev)

/-- CLOCK_SOURCE_RETRY (R543): both sources tried again. -/
def execClockSourceRetry (chosen other : Bool) (s : State) : Host.Outcome State Fault Refusal :=
  s.next (if s.dev.awaitsClock && (chosen || other) then s.dev.clockLocked (!chosen) else s.dev)

/-- PERST_DEASSERT (R545): the port trains once step 2 has ended, but not in recovery (R486). -/
def Dev.perstHigh (d : Dev) (p : Port) : Dev :=
  let d1 := d.onHost fun h => { h with perst := h.perst.set p.idx true }
  if d1.hasPort p ∧ 2 < d1.bootStep ∧ !d1.inRecovery then (d1.onCtrl p fun c => { c with link := true }).checkReady p else d1

def execPerstDeassert (p : Port) (s : State) : Host.Outcome State Fault Refusal := s.next (s.dev.perstHigh p)

/-! ### Steps 3 and 4: firmware (R486, R544) -/

/-- Recovery: no slot is valid, and the ports do not train. -/
def Dev.enterRecovery (d : Dev) : Dev :=
  let down (d : Dev) (p : Port) : Dev := d.onCtrl p fun c => { c with link := false, rdy := false }
  (down (down d .A) .B).setF Reg.SYS_BOOT_RESULT 6

/-- The header check of R486 on the bytes that a slot delivers. -/
def slotSoundOf (sig : Bool) (r : Option (List Byte) × Dev) : Bool × Dev :=
  match r.1 with
  | none => (false, r.2)
  | some bs => (decide (r.2.headerFault true sig (ImageHeader.ofBytes bs) = 0), r.2)

/-- What the boot ROM checks in step 3: everything of R485 but the decompression. -/
def Dev.slotSound (d : Dev) (sigs : Two Bool) (slot : Nat) : Bool × Dev :=
  slotSoundOf (sigs.get slot) (d.slotImage true slot)

/-- The first of some slots that is sound is the one to boot. -/
def Dev.bootFrom (d : Dev) (sigs : Two Bool) : List Nat → Dev
  | [] => d.enterRecovery
  | slot :: rest =>
    let r := d.slotSound sigs slot
    if r.1 then (r.2.setF Reg.NVC_BOOT_FW_BOOTED slot).endStep 3 else r.2.bootFrom sigs rest

/-- FIRMWARE_VERIFY (R486, R544): the record is written before the image starts. After a failed decompression the other
slot is taken and the record stands. -/
def Dev.verifyFirmware (d : Dev) (sigs : Two Bool) : Dev :=
  if d.bootStep ≠ 3 ∨ d.inRecovery then d
  else
    match d.nv.badSlots with
    | [] =>
      let c := bootChoice (d.opt 4 1 0) d.nv.boot
      let d1 := d.setBoot c.2.1
      let d2 := if c.2.2 then (d1.setF Reg.NVC_BOOT_FALLBACK 1).event Ev.bootFallback .nvc
          ((d1.setF Reg.NVC_BOOT_FALLBACK 1).reg Reg.NVC_BOOT).toNat 0
        else d1
      d2.bootFrom sigs [c.1, 1 - c.1]
    | s :: _ => d.bootFrom sigs [1 - s]

def execFirmwareVerify (sigA sigB : Bool) (s : State) : Host.Outcome State Fault Refusal :=
  s.next (s.dev.verifyFirmware ⟨sigA, sigB⟩)

/-- Domains of the fourth step: the buffer banks, the management cores, the complexes with their ports, and Fuller. -/
def domainsFour : List Nat := (List.range 16).map (34 + ·) ++ [53, 58, 59, 60, 61, 31, 33, 30, 32]

/-- The firmware that a slot delivers decompressed, and the fourth step's units brought up; or step 3 again with the other
slot (R544). -/
def decompressOf (slot : Nat) (r : Option (List Byte) × Dev) : Dev :=
  match r.1.bind fun bs => (imageBody bs).map fun _ => ImageHeader.ofBytes bs with
  | none =>
    let d2 := (r.2.onNv fun n => { n with badSlots := slot :: n.badSlots }).setF Reg.SYS_BOOT_STEP 3
    if d2.nv.badSlots.contains (1 - slot) then d2.enterRecovery else d2
  | some h =>
    let d2 := (r.2.domainsUp Training.blank domainsFour).setF Reg.CPX_MIRROR_VER h.mirrorVer
    let d3 := (d2.setServed .A .X).setServed .B .Y
    ((((d3.cpxReady .X).cpxReady .Y).setF Reg.CPX_STATUS_SYNC 0).setF Reg.FMG_STATUS_CORES 0xF).endStep 4

/-- FIRMWARE_DECOMPRESS (R382, R544): the swept SRAM takes the image, and the complexes start; an image that does not
decompress sends the boot ROM back to step 3 with the other slot, or into recovery. -/
def Dev.decompressFirmware (d : Dev) : Dev :=
  if d.bootStep ≠ 4 ∨ d.inRecovery then d
  else decompressOf (d.f Reg.NVC_BOOT_FW_BOOTED) (d.slotImage true (d.f Reg.NVC_BOOT_FW_BOOTED))

def execFirmwareDecompress (s : State) : Host.Outcome State Fault Refusal := s.next s.dev.decompressFirmware

/-! ### Step 5: DRAM (R546) -/

/-- DRAM_TRAINING: the channels that trained, in one of two attempts each; the zero fill starts behind the fence. With no
channel start-up ends in fault hold. -/
def Dev.trainDram (d : Dev) (c0 c1 : Bool) : Dev :=
  if d.bootStep ≠ 5 ∨ d.f Reg.SYS_BOOT_DRAM_CH ≠ 0 ∨ d.f Reg.FMG_STATUS_HOLD = 1 then d
  else if !c0 && !c1 then (d.setF Reg.FMG_STATUS_HOLD 1).setF Reg.SYS_BOOT_RESULT 5
  else
    let d1 := (d.setF Reg.SYS_BOOT_DRAM_CH (flag c0 + 2 * flag c1)).setF Reg.DMC_CAP_MIB (3584 * (flag c0 + flag c1))
    ((d1.setF Reg.DMC_FENCE_MIB 0).setF Reg.DMC_FENCE_DONE 0).domainsUp Training.blank [50, 51, 52, 54, 55, 56]

def execDramTraining (c0 c1 : Bool) (s : State) : Host.Outcome State Fault Refusal := s.next (s.dev.trainDram c0 c1)

/-! ### Step 6: the profile (R487, R547, R241) -/

/-- Safe mode (R67): the refusing check is recorded, and the management firmware releases the semaphore. -/
def Dev.enterSafe (d : Dev) : Dev :=
  let d1 := (d.setF Reg.SIZ_STATUS_SAFE 1).setF Reg.SYS_BOOT_RESULT 1
  (((d1.event Ev.safeMode .siz (d1.reg Reg.SIZ_RESULT).toNat 0).semEnd).endStep 6).semSettle

/-- A slot's image loaded and committed by the management firmware, `x` its declarations. -/
def Dev.admitProfile (d : Dev) (slot : Nat) (x : ProfileDecl) (o : FabricObs) : Dev :=
  let r := d.slotImage false slot
  let e := r.2.loadProfile (.core 0) 6 ((r.1.bind imageBody).getD []) x o
  if e.1.status = 0 then e.2.setF Reg.NVC_BOOT_PROF_LOADED slot else e.2.enterSafe

/-- The profile slot PROF_SEL, or the other where that one is not valid; safe mode where neither is. -/
def Dev.chooseProfile (d : Dev) (sigs : Two Bool) (decls : Two ProfileDecl) (o : FabricObs) : Dev :=
  let p := d.nv.boot.profSel
  let r := d.slotFault false (sigs.get p) p
  if r.1 = 0 then r.2.admitProfile p (decls.get p) o
  else
    let q := r.2.slotFault false (sigs.get (1 - p)) (1 - p)
    if q.1 = 0 then q.2.admitProfile (1 - p) (decls.get (1 - p)) o else q.2.enterSafe

/-- The end of step 6: the links train, and every other domain that is wanted turns on. -/
def Dev.linksUp (d : Dev) (t0 t1 : Training) : Dev :=
  let link (d : Dev) (a : Act) (t : Training) : Dev :=
    if !d.hasAct a then d else if d.domOn (12 + 15 * a.idx) then d.train a t else d.domainOn (12 + 15 * a.idx) t
  ((link (link d .a0 t0) .a1 t1).domainsUp Training.blank ([1, 16] ++ List.range 80)).endStep 6

/-- PROFILE_ADMISSION (R547): behind a finished fill the management firmware takes the semaphore and the profile is loaded
and admitted; from the edge that applies it, or after safe mode has ended, the links train. -/
def Dev.profileAdmission (d : Dev) (sigs : Two Bool) (decls : Two ProfileDecl) (o : FabricObs) (t0 t1 : Training) : Dev :=
  if d.bootStep ≠ 6 ∨ d.f Reg.DMC_FENCE_DONE = 0 ∨ d.busy then d
  else if d.semHolder = 6 ∨ d.host.mayReady then d.linksUp t0 t1
  else if !d.semOpen 6 then d
  else ((d.semGrant 6).semBegin.domainsUp Training.blank [13, 28]).chooseProfile sigs decls o

def execProfileAdmission (sig0 sig1 : Bool) (decl0 decl1 : ProfileDecl) (o : FabricObs) (train0 train1 : Training) (s : State) :
    Host.Outcome State Fault Refusal :=
  s.next (s.dev.profileAdmission ⟨sig0, sig1⟩ ⟨decl0, decl1⟩ o train0 train1)

/-! ### Step 7: controllers (R548) -/

/-- CONTROLLERS_READY (R548, R538): NESTED becomes 0 and RDY may follow CC.EN. Safe mode and too many module restarts
within the hour stop start-up here. -/
def Dev.controllersReady (d : Dev) : Dev :=
  if d.bootStep ≠ 7 ∨ d.f Reg.FMG_STATUS_HOLD = 1 then d
  else
    let d1 := (d.setF Reg.NVC_FL_MODE_NESTED 0).onHost fun h => { h with mayReady := true }
    let d2 := (d1.checkReady .A).checkReady .B
    if d2.safe then d2
    else if d2.f Reg.FMG_CFG_RESTARTS ≤ d2.recentRestarts.length then
      (d2.setF Reg.FMG_STATUS_HOLD 1).setF Reg.SYS_BOOT_RESULT 5
    else d2.endStep 7

def execControllersReady (s : State) : Host.Outcome State Fault Refusal := s.next s.dev.controllersReady

/-! ### Step 9: load and calibration (R550) -/

/-- Actuators that start-up loads. -/
def Dev.bootActs (d : Dev) : List Act := [Act.a0, Act.a1].filter fun a => d.hasAct a && !d.fmg.actFailed.get a

/-- An actuator on the ramp: its back-EMF offset is measured, and its load starts. -/
def Dev.bootLoad (d : Dev) (a : Act) (emf : Word) : Dev :=
  if (d.srv.get a).loadTries = 0 ∧ d.mayLoad a then
    (d.onSrv a fun v => { v with emf := Bf.ofWord emf }).servoLoad a (d.head a)
  else d

/-- A loaded actuator: heads that give no valid position fail, and runout tables with a bad CRC leave an event each. -/
def Dev.bootCheck (d : Dev) (a : Act) (bad : List Nat) : Dev :=
  let t := Tbl.runout a
  let d1 := (List.range d.conf.nh).foldl (fun (d : Dev) h => d.servoHead a h) d
  let d2 := (bad.filter fun h => decide (h < d.conf.nh)).foldl (fun (d : Dev) h => d.headFailing a h) d1
  (d2.runoutTables t).foldl (fun (d : Dev) o =>
    let words := (4 + 2 * bits (d.tword t o) 31 22 + 3) / 4
    if crc32Words (d.twords t o words) = (d.tword t (o + 4 * words)).toNat then d
    else d.event Ev.other (.srv a) (d.f (Reg.SRV_RRO_DIR_ADDR.on a) * 32 + o) 0) d2

/-- HEAD_LOAD_CALIBRATION (R550): it starts the loads, and ends the step once every actuator that has not failed is
loaded. -/
def Dev.headCalibration (d : Dev) (emf : Per Word) (bad : Per (List Nat)) : Dev :=
  if d.bootStep ≠ 9 ∨ d.fmg.mediaOff then d
  else if d.bootActs.all fun a => decide (d.loadState a = 2) then
    (d.bootActs.foldl (fun (d : Dev) a => d.bootCheck a (bad.get a)) d).endStep 9
  else d.bootActs.foldl (fun (d : Dev) a => d.bootLoad a (emf.get a)) d

def execHeadLoadCalibration (emf0 emf1 : Word) (bad0 bad1 : List Nat) (s : State) : Host.Outcome State Fault Refusal :=
  s.next (s.dev.headCalibration ⟨emf0, emf1⟩ ⟨bad0, bad1⟩)

/-! ### Step 10: restoring state (R551, R552) -/

/-- A system area copy can be read: written, valid, and not on a failed surface. -/
def Dev.copySound (d : Dev) (o : RestoreObs) (i : Nat) : Bool :=
  (if i = 0 then o.copy0 else o.copy1) && decide (d.media.sysSeq.get i ≠ 0) && !sget false d.felt.lost (d.media.sysHome.get i)

/-- One journal record applied to a zone: its state, write pointer, finish point and attributes. -/
def Zone.replay (zn : Zone) (cap : Nat) (r : JrnlRec) : Zone :=
  let z1 := { zn with state := r.state, zfc := testBit r.attr 0, fzr := testBit r.attr 1, wp := r.wp }
  match r.type with
  | 3 => { z1 with finish := none }
  | 4 => { z1 with wp := cap, finish := some r.wp }
  | _ => z1

/-- A zone as replay leaves it, with what MRAM and the system area keep of it besides. -/
def Zone.restored (kept zn : Zone) : Zone :=
  { kept with state := zn.state, wp := zn.wp, finish := zn.finish, zfc := zn.zfc, fzr := zn.fzr }

/-- The journal's records that replay takes: above the image's SEQ, in the ring's order, without checkpoint marks. -/
def Zones.replayed (q : Zones) : List JrnlRec := q.ring.filter fun r => decide (q.imageSeq < r.seq ∧ r.type ≠ 6)

/-- The zone state image and the journal (R340, R552 steps 1 and 2); every opened zone becomes Closed (R347). A record
whose CRC fails is skipped and leaves one event. -/
def Dev.replayJournal (d : Dev) (bad : List Nat) : Dev :=
  let isBad (r : JrnlRec) : Bool := !r.good || bad.contains r.seq
  let d1 := (d.zq.replayed.filter isBad).foldl (fun (d : Dev) r => d.event Ev.other .zqe r.seq 0) d
  let img := (d.zq.replayed.filter fun r => !isBad r).foldl (fun (m : List (Nat × Zone)) r =>
    sset Zone.empty m r.zone ((sget Zone.empty m r.zone).replay d.zoneCap r)) (d.zq.image.map fun p => (p.1, p.2.cold))
  let keys := (d.zq.zones.map Prod.fst ++ img.map Prod.fst).dedup
  let zs := keys.foldl (fun (m : List (Nat × Zone)) z =>
    sset Zone.empty m z ((d.zone z).restored (sget Zone.empty img z))) []
  { d1 with zq := { d1.zq with zones := zs, cacheBlocks := 0, released := [] } }.closeOpened

/-- One dirty region put back into the vault-protected cache; one whose section failed is poisoned whole. -/
def Dev.restoreBlock (d : Dev) (b : VaultBlock) (sound : Bool) : Dev :=
  let v := if sound then b.value.getD 0 else 0
  let good := sound && b.value.isSome
  if b.conv then
    d.onHost fun h => { h with
      dirty := h.dirty ++ [(b.off, v)], poison := if good then h.poison else b.off :: h.poison }
  else
    let zn := d.zone b.zone
    let d1 := d.setZone b.zone { zn with
      cache := zn.cache ++ [(b.off, v)], poison := if good then zn.poison else b.off :: zn.poison }
    { d1 with zq := { d1.zq with cacheBlocks := d1.zq.cacheBlocks + 1 } }

/-- A stride as a restored delta gives it: the members' bolts are read back beyond the checkpoint's COVER, and a new
checkpoint is due where they went further (R361). -/
def Stride.rebuilt (st : Stride) : Stride := { st with dirty := st.opened && decide (st.folded ≠ st.cover) }

/-- A sealed vault restored section by section (R493, R515, R552 step 4). -/
def Dev.restoreVault (d : Dev) (o : RestoreObs) : Dev :=
  let v := d.nv.vault
  if v.state ≠ 1 then d
  else if !v.sealed then
    (d.onNv fun n => { n with vault := { n.vault with state := 2 } }).event Ev.vaultUnsealed .pwr v.count 0
  else
    let d1 := if o.deltas then
        { d with felt := { d.felt with strides := v.deltas.map fun p => (p.1, p.2.rebuilt) } }
      else d
    let d2 := (v.blocks.zipIdx).foldl (fun (d : Dev) (p : VaultBlock × Nat) => d.restoreBlock p.1 (!o.regions.contains p.2)) d1
    let failed := (List.range v.blocks.length).filter fun i => o.regions.contains i
    let lost := o.records.filter fun i => match d.hb.recs[i]? with | none => false | some r => !v.snapshot.contains r
    let kept := d2.hb.poisoned.filter fun p => match d2.hb.recs[p.1]? with | none => false | some r => !v.snapshot.contains r
    let marks := lost.foldl (fun m i => sset false m i true) kept
    let d3 := d2.onHb fun h => { h with poisoned := marks }
    let d4 := d3.onNv fun n => { n with vault := { n.vault with
      state := 2, damaged := n.vault.damaged + failed.length + flag !o.deltas } }
    (d4.setReg Reg.PWR_VAULT_STATUS v.status).setF Reg.SYS_BOOT_VAULT_RESTORED 1

/-- A format or sanitize left unfinished goes on as the management firmware's (R430, R547); otherwise its hold ends. -/
def Dev.resumeErase (d : Dev) : Dev :=
  if d.host.format.isSome then d.setF Reg.SYS_BOOT_RESUMED 1
  else if d.host.sanitize.isSome then
    (d.onHost fun h => { h with
      sanitize := h.sanitize.map fun (x : Sanitize) => { x with resumed := true } }).setF
      Reg.SYS_BOOT_RESUMED 1
  else if d.semHolder = 6 ∧ d.sem.ops ≠ 0 then d.semEnd
  else d

/-- The management firmware releases the semaphore where start-up stops in step 10, so that a format may claim it. -/
def Dev.stopAt (d : Dev) (result : Nat) : Dev :=
  let d1 := d.setF Reg.SYS_BOOT_RESULT result
  (if d1.host.format.isNone ∧ d1.semHolder = 6 ∧ d1.sem.ops ≠ 0 then d1.semEnd else d1).semSettle

/-- STATE_RESTORE (R551, R552). -/
def Dev.stateRestore (d : Dev) (o : RestoreObs) : Dev :=
  if d.bootStep ≠ 10 ∨ d.fmg.mediaOff ∨ d.f Reg.PWR_VAULT_REASON_RESTORE = 0 ∨ d.f Reg.SYS_BOOT_RESULT ≠ 0 then d
  else
    match d.copySound o 0, d.copySound o 1 with
    | false, false =>
      if d.nv.formatted then
        let d1 := (d.loseMedia).event Ev.other .sys Reg.SYS_BOOT 0
        d1.stopAt 4
      else d.stopAt 2
    | c0, c1 =>
      let d1 := { d with media := { d.media with sysRebuild := if !c0 then some 0 else if !c1 then some 1 else none } }
      let d2 := ((d1.replayJournal o.journal).restoreVault o).setF Reg.PWR_VAULT_REASON_RESTORE 0
      (d2.resumeErase.setF (Reg.SYS_BOOT_MS_MS.nth 9) (d.clock.nowNs / 1000000)).semSettle

def execStateRestore (o : RestoreObs) (s : State) : Host.Outcome State Fault Refusal := s.next (s.dev.stateRestore o)

/-! ### Step 11: namespaces (R553) -/

/-- The restored dirty data is sent toward the media: whole bolts, and every stale copy of a conventional block. -/
def Dev.sendRestored (d : Dev) : Dev :=
  let bolts := d.zq.zones.flatMap fun p =>
    ((p.2.cache.map fun q => q.1 / 8).dedup.filter fun b => decide (8 * b + 8 ≤ p.2.wp)).map fun b => (p.1, b)
  let d1 := { d with zq := { d.zq with released := d.zq.released ++ bolts } }
  let marks := d1.media.stale
  (marks.foldl (fun (d : Dev) m => d.askConvWrite none m.lba m.copy) d1).settle

/-- A system area copy rebuilt from the other (R95). -/
def Dev.rebuildCopy (d : Dev) : Dev :=
  match d.media.sysRebuild with
  | none => d
  | some i =>
    let m := d.media
    { d with media := { m with sysRebuild := none, sysSeq := (m.sysSeq.set i (m.sysSeq.get (1 - i))) } }

/-- NAMESPACES_READY (R553): I/O is served; what step 10 left for the background goes on. -/
def Dev.namespacesReady (d : Dev) : Dev :=
  if d.bootStep ≠ 10 ∨ d.f Reg.PWR_VAULT_REASON_RESTORE = 1 ∨ d.f Reg.SYS_BOOT_RESULT ≠ 0 ∨ d.fmg.mediaOff then d
  else (d.endStep 11).rebuildCopy.sendRestored

def execNamespacesReady (s : State) : Host.Outcome State Fault Refusal := s.next s.dev.namespacesReady

end Sys2Proof.Machine
end

