-- ==== Sys2Proof/Machine/Dispatch.lean ====
section
/-! DEFINITION. The dispatch: each command of the table to its meaning. -/

namespace Sys2Proof.Machine

def exec (i : Instr) (s : State) : Host.Outcome State Fault Refusal :=
  match i with
  | .registerWrite who addr w o => Sys2Proof.Machine.execRegisterWrite who addr w o s
  | .rcRead who addr o => Sys2Proof.Machine.execRcRead who addr o s
  | .tickNowLoRead who => Sys2Proof.Machine.execTickNowLoRead who s
  | .tickEdge periodNs late => Sys2Proof.Machine.execTickEdge periodNs late s
  | .addressMark a field phase confirms => Sys2Proof.Machine.execAddressMark a field phase confirms s
  | .missedMark a => Sys2Proof.Machine.execMissedMark a s
  | .flywheelLimit => Sys2Proof.Machine.execFlywheelLimit s
  | .stampFire owner o sixthNs => Sys2Proof.Machine.execStampFire owner o sixthNs s
  | .unitRequest r => Sys2Proof.Machine.execUnitRequest r s
  | .unitResponse r => Sys2Proof.Machine.execUnitResponse r s
  | .unitReset u => Sys2Proof.Machine.execUnitReset u s
  | .readyNotice u oldInFlight => Sys2Proof.Machine.execReadyNotice u oldInFlight s
  | .commit who => Sys2Proof.Machine.execCommit who s
  | .discard => Sys2Proof.Machine.execDiscard s
  | .microword a o => Sys2Proof.Machine.execMicroword a o s
  | .conditionWait a => Sys2Proof.Machine.execConditionWait a s
  | .readFrag a darg o => Sys2Proof.Machine.execReadFrag a darg o s
  | .writeFrag a => Sys2Proof.Machine.execWriteFrag a s
  | .loadRec a => Sys2Proof.Machine.execLoadRec a s
  | .feltArm a => Sys2Proof.Machine.execFeltArm a s
  | .heater a step => Sys2Proof.Machine.execHeater a step s
  | .servoReqSeek a head => Sys2Proof.Machine.execServoReqSeek a head s
  | .servoReqSelect a head => Sys2Proof.Machine.execServoReqSelect a head s
  | .servoReqLoad a head => Sys2Proof.Machine.execServoReqLoad a head s
  | .servoReqUnload a => Sys2Proof.Machine.execServoReqUnload a s
  | .post a darg => Sys2Proof.Machine.execPost a darg s
  | .accept a => Sys2Proof.Machine.execAccept a s
  | .holdSamples a => Sys2Proof.Machine.execHoldSamples a s
  | .rawCheck a same => Sys2Proof.Machine.execRawCheck a same s
  | .trace a darg => Sys2Proof.Machine.execTrace a darg s
  | .return a => Sys2Proof.Machine.execReturn a s
  | .abandon a => Sys2Proof.Machine.execAbandon a s
  | .plankBind a o => Sys2Proof.Machine.execPlankBind a o s
  | .plankFind a gs => Sys2Proof.Machine.execPlankFind a gs s
  | .plankAdvance a => Sys2Proof.Machine.execPlankAdvance a s
  | .preBias a f => Sys2Proof.Machine.execPreBias a f s
  | .backOffStart a => Sys2Proof.Machine.execBackOffStart a s
  | .operate a gate => Sys2Proof.Machine.execOperate a gate s
  | .assistOff a => Sys2Proof.Machine.execAssistOff a s
  | .unwindStep a head => Sys2Proof.Machine.execUnwindStep a head s
  | .assistSelfOff a => Sys2Proof.Machine.execAssistSelfOff a s
  | .queueReset a tags => Sys2Proof.Machine.execQueueReset a tags s
  | .blkHalt a v => Sys2Proof.Machine.execBlkHalt a v s
  | .blkResume a => Sys2Proof.Machine.execBlkResume a s
  | .blkStep a o => Sys2Proof.Machine.execBlkStep a o s
  | .cstData3Write a v => Sys2Proof.Machine.execCstData3Write a v s
  | .cstData3Read a who => Sys2Proof.Machine.execCstData3Read a who s
  | .microcodeImageWrite a => Sys2Proof.Machine.execMicrocodeImageWrite a s
  | .synthLocked a => Sys2Proof.Machine.execSynthLocked a s
  | .averageComplete a ws => Sys2Proof.Machine.execAverageComplete a ws s
  | .writeBackBatch a => Sys2Proof.Machine.execWriteBackBatch a s
  | .readerFail a head lane => Sys2Proof.Machine.execReaderFail a head lane s
  | .laneFail a head lane => Sys2Proof.Machine.execLaneFail a head lane s
  | .lanePowerFault a lane => Sys2Proof.Machine.execLanePowerFault a lane s
  | .laneFailClear a head mask => Sys2Proof.Machine.execLaneFailClear a head mask s
  | .decodeStart a => Sys2Proof.Machine.execDecodeStart a s
  | .decodeDone a tag slot e => Sys2Proof.Machine.execDecodeDone a tag slot e s
  | .rungCostElapsed a => Sys2Proof.Machine.execRungCostElapsed a s
  | .reconstruction a tag o => Sys2Proof.Machine.execReconstruction a tag o s
  | .reconstructionBound a tag => Sys2Proof.Machine.execReconstructionBound a tag s
  | .servoFieldEnd a o => Sys2Proof.Machine.execServoFieldEnd a o s
  | .offtrackRequalified a => Sys2Proof.Machine.execOfftrackRequalified a s
  | .pesMissLimit a => Sys2Proof.Machine.execPesMissLimit a s
  | .reacquisitionTimeout a => Sys2Proof.Machine.execReacquisitionTimeout a s
  | .transferTimeout a => Sys2Proof.Machine.execTransferTimeout a s
  | .injectionStart a => Sys2Proof.Machine.execInjectionStart a s
  | .capCtlArm a mode trig pre => Sys2Proof.Machine.execCapCtlArm a mode trig pre s
  | .capCtlAbort a => Sys2Proof.Machine.execCapCtlAbort a s
  | .capDataRead a who poisoned => Sys2Proof.Machine.execCapDataRead a who poisoned s
  | .trajectoryStart a => Sys2Proof.Machine.execTrajectoryStart a s
  | .trajectoryEnd a => Sys2Proof.Machine.execTrajectoryEnd a s
  | .settleLate a => Sys2Proof.Machine.execSettleLate a s
  | .staggerExpiry => Sys2Proof.Machine.execStaggerExpiry s
  | .shockSensorTrigger a sensorB => Sys2Proof.Machine.execShockSensorTrigger a sensorB s
  | .shockClear a => Sys2Proof.Machine.execShockClear a s
  | .shockPark a => Sys2Proof.Machine.execShockPark a s
  | .loadTimeout a => Sys2Proof.Machine.execLoadTimeout a s
  | .unloadVelocityLow a => Sys2Proof.Machine.execUnloadVelocityLow a s
  | .latchEnd a => Sys2Proof.Machine.execLatchEnd a s
  | .pwrRetGo => Sys2Proof.Machine.execPwrRetGo s
  | .commandFrameTimeout a => Sys2Proof.Machine.execCommandFrameTimeout a s
  | .retractRegulationEnd => Sys2Proof.Machine.execRetractRegulationEnd s
  | .retractLatchEnd => Sys2Proof.Machine.execRetractLatchEnd s
  | .commutationStep sixthNs => Sys2Proof.Machine.execCommutationStep sixthNs s
  | .zeroCrossing err fits => Sys2Proof.Machine.execZeroCrossing err fits s
  | .missedCrossing => Sys2Proof.Machine.execMissedCrossing s
  | .spnCtlRun cal run => Sys2Proof.Machine.execSpnCtlRun cal run s
  | .senseEnd backward rpm => Sys2Proof.Machine.execSenseEnd backward rpm s
  | .brakeEnd => Sys2Proof.Machine.execBrakeEnd s
  | .alignEnd => Sys2Proof.Machine.execAlignEnd s
  | .forcedStep => Sys2Proof.Machine.execForcedStep s
  | .lockedRotor => Sys2Proof.Machine.execLockedRotor s
  | .lockRetry => Sys2Proof.Machine.execLockRetry s
  | .startTimeout => Sys2Proof.Machine.execStartTimeout s
  | .coastEnd => Sys2Proof.Machine.execCoastEnd s
  | .catchTimeout => Sys2Proof.Machine.execCatchTimeout s
  | .supplyDrop v12 v5 core => Sys2Proof.Machine.execSupplyDrop v12 v5 core s
  | .powerFail => Sys2Proof.Machine.execPowerFail s
  | .vaultSeal ms mj => Sys2Proof.Machine.execVaultSeal ms mj s
  | .vholdLost => Sys2Proof.Machine.execVholdLost s
  | .supplyGood v12 v5 => Sys2Proof.Machine.execSupplyGood v12 v5 s
  | .vaultArm => Sys2Proof.Machine.execVaultArm s
  | .vaultUnhealthy => Sys2Proof.Machine.execVaultUnhealthy s
  | .write id ns lba data dtype marked t => Sys2Proof.Machine.execWrite id ns lba data dtype marked t s
  | .writeAccept z id onMedia => Sys2Proof.Machine.execWriteAccept z id onMedia s
  | .holdExpired z id => Sys2Proof.Machine.execHoldExpired z id s
  | .journalCheckpoint => Sys2Proof.Machine.execJournalCheckpoint s
  | .zoneAppend id ns lba data marked t => Sys2Proof.Machine.execZoneAppend id ns lba data marked t s
  | .openZone id ns lba all marked => Sys2Proof.Machine.execOpenZone id ns lba all marked s
  | .closeZone id ns lba all marked => Sys2Proof.Machine.execCloseZone id ns lba all marked s
  | .finishZone id ns lba all marked => Sys2Proof.Machine.execFinishZone id ns lba all marked s
  | .resetZone id ns lba all marked => Sys2Proof.Machine.execResetZone id ns lba all marked s
  | .offlineZone id ns lba all marked => Sys2Proof.Machine.execOfflineZone id ns lba all marked s
  | .setZoneDescriptorExtension id ns lba all marked => Sys2Proof.Machine.execSetZoneDescriptorExtension id ns lba all marked s
  | .reportZones id ns lba count part marked => Sys2Proof.Machine.execReportZones id ns lba count part marked s
  | .extendedReportZones id ns lba count part marked => Sys2Proof.Machine.execExtendedReportZones id ns lba count part marked s
  | .feltCheckpoint => Sys2Proof.Machine.execFeltCheckpoint s
  | .garbageCollection surface => Sys2Proof.Machine.execGarbageCollection surface s
  | .headHealthUpdate a head => Sys2Proof.Machine.execHeadHealthUpdate a head s
  | .agingCompensation a head => Sys2Proof.Machine.execAgingCompensation a head s
  | .temperatureFrame a nft => Sys2Proof.Machine.execTemperatureFrame a nft s
  | .temperatureFrameLost a => Sys2Proof.Machine.execTemperatureFrameLost a s
  | .assistIlimLimit a => Sys2Proof.Machine.execAssistIlimLimit a s
  | .controlRequest a => Sys2Proof.Machine.execControlRequest a s
  | .controlResponse a w o => Sys2Proof.Machine.execControlResponse a w o s
  | .responseLost a o => Sys2Proof.Machine.execResponseLost a o s
  | .faultLine a causes persist o => Sys2Proof.Machine.execFaultLine a causes persist o s
  | .faultLineStuck a => Sys2Proof.Machine.execFaultLineStuck a s
  | .tnlRetrainGo a o => Sys2Proof.Machine.execTnlRetrainGo a o s
  | .paAccGo a w => Sys2Proof.Machine.execPaAccGo a w s
  | .correctionWriteBack => Sys2Proof.Machine.execCorrectionWriteBack s
  | .fenceAdvance mib => Sys2Proof.Machine.execFenceAdvance mib s
  | .fenceDone => Sys2Proof.Machine.execFenceDone s
  | .scrubPass late mramCe mramUe => Sys2Proof.Machine.execScrubPass late mramCe mramUe s
  | .bufTestGo cal w => Sys2Proof.Machine.execBufTestGo cal w s
  | .dmcTestGo cal w => Sys2Proof.Machine.execDmcTestGo cal w s
  | .crownRead who addr len err => Sys2Proof.Machine.execCrownRead who addr len err s
  | .crownWrite who addr data err => Sys2Proof.Machine.execCrownWrite who addr data err s
  | .fillGranule line => Sys2Proof.Machine.execFillGranule line s
  | .battDrain line => Sys2Proof.Machine.execBattDrain line s
  | .crownFence who => Sys2Proof.Machine.execCrownFence who s
  | .coherenceReport line => Sys2Proof.Machine.execCoherenceReport line s
  | .maintInvalidateLine set way => Sys2Proof.Machine.execMaintInvalidateLine set way s
  | .maintInvalidateWay set way => Sys2Proof.Machine.execMaintInvalidateWay set way s
  | .maintInvalidateAll set way => Sys2Proof.Machine.execMaintInvalidateAll set way s
  | .maintFence set way => Sys2Proof.Machine.execMaintFence set way s
  | .maintPrefetch set way => Sys2Proof.Machine.execMaintPrefetch set way s
  | .maintReadTag set way => Sys2Proof.Machine.execMaintReadTag set way s
  | .read id ns lba len limited marked first => Sys2Proof.Machine.execRead id ns lba len limited marked first s
  | .writeZeroes id ns lba len marked => Sys2Proof.Machine.execWriteZeroes id ns lba len marked s
  | .flush id marked => Sys2Proof.Machine.execFlush id marked s
  | .abort id => Sys2Proof.Machine.execAbort id s
  | .deleteIoSubmissionQueue id qid => Sys2Proof.Machine.execDeleteIoSubmissionQueue id qid s
  | .deleteIoCompletionQueue id qid => Sys2Proof.Machine.execDeleteIoCompletionQueue id qid s
  | .createIoSubmissionQueue id qid size cq ordered => Sys2Proof.Machine.execCreateIoSubmissionQueue id qid size cq ordered s
  | .createIoCompletionQueue id qid size => Sys2Proof.Machine.execCreateIoCompletionQueue id qid size s
  | .getLogPage id lid retain => Sys2Proof.Machine.execGetLogPage id lid retain s
  | .pelContextEstablish id => Sys2Proof.Machine.execPelContextEstablish id s
  | .pelContextRelease id => Sys2Proof.Machine.execPelContextRelease id s
  | .identify id cns ns csi => Sys2Proof.Machine.execIdentify id cns ns csi s
  | .asynchronousEventRequest id => Sys2Proof.Machine.execAsynchronousEventRequest id s
  | .setArbitration id v => Sys2Proof.Machine.execSetArbitration id v s
  | .setPowerManagement id ps => Sys2Proof.Machine.execSetPowerManagement id ps s
  | .setTemperatureThreshold id sensor under kelvins => Sys2Proof.Machine.execSetTemperatureThreshold id sensor under kelvins s
  | .setErrorRecovery id ns tler dulbe => Sys2Proof.Machine.execSetErrorRecovery id ns tler dulbe s
  | .setVolatileWriteCache id => Sys2Proof.Machine.execSetVolatileWriteCache id s
  | .setNumberOfQueues id nsq ncq => Sys2Proof.Machine.execSetNumberOfQueues id nsq ncq s
  | .setInterruptCoalescing id v => Sys2Proof.Machine.execSetInterruptCoalescing id v s
  | .setInterruptVectorConfiguration id vector cd => Sys2Proof.Machine.execSetInterruptVectorConfiguration id vector cd s
  | .setWriteAtomicityNormal id v => Sys2Proof.Machine.execSetWriteAtomicityNormal id v s
  | .setAsyncEventConfiguration id v => Sys2Proof.Machine.execSetAsyncEventConfiguration id v s
  | .setTimestamp id ms => Sys2Proof.Machine.execSetTimestamp id ms s
  | .getFeatures id fid sel => Sys2Proof.Machine.execGetFeatures id fid sel s
  | .getZoneReorder id depth => Sys2Proof.Machine.execGetZoneReorder id depth s
  | .getErrorRecoveryVendorData id ns => Sys2Proof.Machine.execGetErrorRecoveryVendorData id ns s
  | .firmwareImageDownload id ofs bs => Sys2Proof.Machine.execFirmwareImageDownload id ofs bs s
  | .firmwareCommitCa000 id fs sig e => Sys2Proof.Machine.execFirmwareCommitCa000 id fs sig e s
  | .firmwareCommitCa001 id fs sig e => Sys2Proof.Machine.execFirmwareCommitCa001 id fs sig e s
  | .firmwareCommitCa010 id fs sig => Sys2Proof.Machine.execFirmwareCommitCa010 id fs sig s
  | .firmwareCommitCa011 id fs sig e => Sys2Proof.Machine.execFirmwareCommitCa011 id fs sig e s
  | .activationStep => Sys2Proof.Machine.execActivationStep s
  | .namespaceAttachment id attach => Sys2Proof.Machine.execNamespaceAttachment id attach s
  | .formatNvm id lbaf ses layout => Sys2Proof.Machine.execFormatNvm id lbaf ses layout s
  | .sanitizeExitFailureMode id => Sys2Proof.Machine.execSanitizeExitFailureMode id s
  | .sanitizeOverwrite id owpass ovrpat oipbp ause fails => Sys2Proof.Machine.execSanitizeOverwrite id owpass ovrpat oipbp ause fails s
  | .sanitizeCryptoErase id ause fails => Sys2Proof.Machine.execSanitizeCryptoErase id ause fails s
  | .nvmeMiSend id r => Sys2Proof.Machine.execNvmeMiSend id r s
  | .nvmeMiReceive id => Sys2Proof.Machine.execNvmeMiReceive id s
  | .mpiSend id ws o => Sys2Proof.Machine.execMpiSend id ws o s
  | .mpiReceive id len => Sys2Proof.Machine.execMpiReceive id len s
  | .semaphoreClaim id => Sys2Proof.Machine.execSemaphoreClaim id s
  | .semaphoreRelease id => Sys2Proof.Machine.execSemaphoreRelease id s
  | .semaphoreAbandoned => Sys2Proof.Machine.execSemaphoreAbandoned s
  | .controllerReset p linkLost => Sys2Proof.Machine.execControllerReset p linkLost s
  | .ccEnSet p => Sys2Proof.Machine.execCcEnSet p s
  | .normalShutdown p => Sys2Proof.Machine.execNormalShutdown p s
  | .abruptShutdown p => Sys2Proof.Machine.execAbruptShutdown p s
  | .powerStateTransition => Sys2Proof.Machine.execPowerStateTransition s
  | .basicManagementCommand p => Sys2Proof.Machine.execBasicManagementCommand p s
  | .readNvmeMiDataStructure p x => Sys2Proof.Machine.execReadNvmeMiDataStructure p x s
  | .nvmSubsystemHealthStatusPoll p => Sys2Proof.Machine.execNvmSubsystemHealthStatusPoll p s
  | .controllerHealthStatusPoll p => Sys2Proof.Machine.execControllerHealthStatusPoll p s
  | .configurationGet p c => Sys2Proof.Machine.execConfigurationGet p c s
  | .configurationSet p c v => Sys2Proof.Machine.execConfigurationSet p c v s
  | .vpdRead p off len => Sys2Proof.Machine.execVpdRead p off len s
  | .tunnelledAdminCommand p c x => Sys2Proof.Machine.execTunnelledAdminCommand p c x s
  | .vendorSpecificMessage p ws o => Sys2Proof.Machine.execVendorSpecificMessage p ws o s
  | .mirrorRecord => Sys2Proof.Machine.execMirrorRecord s
  | .mirrorAck => Sys2Proof.Machine.execMirrorAck s
  | .complexSync c => Sys2Proof.Machine.execComplexSync c s
  | .heartbeatTimeout c stall => Sys2Proof.Machine.execHeartbeatTimeout c stall s
  | .lockstepMismatch c stall => Sys2Proof.Machine.execLockstepMismatch c stall s
  | .cpxToX cal => Sys2Proof.Machine.execCpxToX cal s
  | .cpxToY cal => Sys2Proof.Machine.execCpxToY cal s
  | .cpxSemFree cal => Sys2Proof.Machine.execCpxSemFree cal s
  | .echo path ws o => Sys2Proof.Machine.execEcho path ws o s
  | .getInfo path ws o => Sys2Proof.Machine.execGetInfo path ws o s
  | .semClaim path ws o => Sys2Proof.Machine.execSemClaim path ws o s
  | .semRelease path ws o => Sys2Proof.Machine.execSemRelease path ws o s
  | .semStatus path ws o => Sys2Proof.Machine.execSemStatus path ws o s
  | .jobStatus path ws o => Sys2Proof.Machine.execJobStatus path ws o s
  | .jobAbort path ws o => Sys2Proof.Machine.execJobAbort path ws o s
  | .jobStatusExpired no => Sys2Proof.Machine.execJobStatusExpired no s
  | .regRead path ws o => Sys2Proof.Machine.execRegRead path ws o s
  | .regWrite path ws o => Sys2Proof.Machine.execRegWrite path ws o s
  | .regWriteBatch path ws o => Sys2Proof.Machine.execRegWriteBatch path ws o s
  | .regPoll path ws o => Sys2Proof.Machine.execRegPoll path ws o s
  | .memRead path ws o => Sys2Proof.Machine.execMemRead path ws o s
  | .memWrite path ws o => Sys2Proof.Machine.execMemWrite path ws o s
  | .cfgCommit path ws o => Sys2Proof.Machine.execCfgCommit path ws o s
  | .cfgDiscard path ws o => Sys2Proof.Machine.execCfgDiscard path ws o s
  | .cfgStatus path ws o => Sys2Proof.Machine.execCfgStatus path ws o s
  | .sizerCheck path ws o => Sys2Proof.Machine.execSizerCheck path ws o s
  | .tableWrite path ws o => Sys2Proof.Machine.execTableWrite path ws o s
  | .tableRead path ws o => Sys2Proof.Machine.execTableRead path ws o s
  | .cstWrite path ws o => Sys2Proof.Machine.execCstWrite path ws o s
  | .profileLoad path ws o => Sys2Proof.Machine.execProfileLoad path ws o s
  | .profileSection path ws o => Sys2Proof.Machine.execProfileSection path ws o s
  | .profileDownload path ws o => Sys2Proof.Machine.execProfileDownload path ws o s
  | .profileStore path ws o => Sys2Proof.Machine.execProfileStore path ws o s
  | .profileSelect path ws o => Sys2Proof.Machine.execProfileSelect path ws o s
  | .calRegWrite path ws o => Sys2Proof.Machine.execCalRegWrite path ws o s
  | .spindleRun path ws o => Sys2Proof.Machine.execSpindleRun path ws o s
  | .headLoad path ws o => Sys2Proof.Machine.execHeadLoad path ws o s
  | .seek path ws o => Sys2Proof.Machine.execSeek path ws o s
  | .inject path ws o => Sys2Proof.Machine.execInject path ws o s
  | .captureArm path ws o => Sys2Proof.Machine.execCaptureArm path ws o s
  | .captureRead path ws o => Sys2Proof.Machine.execCaptureRead path ws o s
  | .preampAccess path ws o => Sys2Proof.Machine.execPreampAccess path ws o s
  | .linkRetrain path ws o => Sys2Proof.Machine.execLinkRetrain path ws o s
  | .readerClear path ws o => Sys2Proof.Machine.execReaderClear path ws o s
  | .assistRecal path ws o => Sys2Proof.Machine.execAssistRecal path ws o s
  | .eccInject path ws o => Sys2Proof.Machine.execEccInject path ws o s
  | .handover path ws o => Sys2Proof.Machine.execHandover path ws o s
  | .trackRead path ws o => Sys2Proof.Machine.execTrackRead path ws o s
  | .trackScan path ws o => Sys2Proof.Machine.execTrackScan path ws o s
  | .replayRead path ws o => Sys2Proof.Machine.execReplayRead path ws o s
  | .lbaToPhys path ws o => Sys2Proof.Machine.execLbaToPhys path ws o s
  | .defectRead path ws o => Sys2Proof.Machine.execDefectRead path ws o s
  | .defectPend path ws o => Sys2Proof.Machine.execDefectPend path ws o s
  | .headFail path ws o => Sys2Proof.Machine.execHeadFail path ws o s
  | .reconRead path ws o => Sys2Proof.Machine.execReconRead path ws o s
  | .hatbandRead path ws o => Sys2Proof.Machine.execHatbandRead path ws o s
  | .hatbandClear path ws o => Sys2Proof.Machine.execHatbandClear path ws o s
  | .hatbandArchive path ws o => Sys2Proof.Machine.execHatbandArchive path ws o s
  | .counters path ws o => Sys2Proof.Machine.execCounters path ws o s
  | .headHealth path ws o => Sys2Proof.Machine.execHeadHealth path ws o s
  | .feltLog path ws o => Sys2Proof.Machine.execFeltLog path ws o s
  | .vaultInfo path ws o => Sys2Proof.Machine.execVaultInfo path ws o s
  | .nvRead path ws o => Sys2Proof.Machine.execNvRead path ws o s
  | .optionWrite path ws o => Sys2Proof.Machine.execOptionWrite path ws o s
  | .slotInfo path ws o => Sys2Proof.Machine.execSlotInfo path ws o s
  | .fwDownload path ws o => Sys2Proof.Machine.execFwDownload path ws o s
  | .fwCommit path ws o => Sys2Proof.Machine.execFwCommit path ws o s
  | .fullerJob path ws o => Sys2Proof.Machine.execFullerJob path ws o s
  | .mirrorVersion path ws o => Sys2Proof.Machine.execMirrorVersion path ws o s
  | .handoverReq path ws o => Sys2Proof.Machine.execHandoverReq path ws o s
  | .handoverDone path ws o => Sys2Proof.Machine.execHandoverDone path ws o s
  | .heartbeat path ws o => Sys2Proof.Machine.execHeartbeat path ws o s
  | .uartGapTimeout => Sys2Proof.Machine.execUartGapTimeout s
  | .flashKey bank w => Sys2Proof.Machine.execFlashKey bank w s
  | .flashProgram bank w => Sys2Proof.Machine.execFlashProgram bank w s
  | .flashErase bank w => Sys2Proof.Machine.execFlashErase bank w s
  | .flashSuspend bank => Sys2Proof.Machine.execFlashSuspend bank s
  | .flashResume bank => Sys2Proof.Machine.execFlashResume bank s
  | .flashClear bank => Sys2Proof.Machine.execFlashClear bank s
  | .programDone bank ok => Sys2Proof.Machine.execProgramDone bank ok s
  | .eraseDone bank ok => Sys2Proof.Machine.execEraseDone bank ok s
  | .suspendHoldRelease bank => Sys2Proof.Machine.execSuspendHoldRelease bank s
  | .flashBusFault core addr => Sys2Proof.Machine.execFlashBusFault core addr s
  | .compressJob codings => Sys2Proof.Machine.execCompressJob codings s
  | .decompressJob => Sys2Proof.Machine.execDecompressJob s
  | .fulFlush consumed => Sys2Proof.Machine.execFulFlush consumed s
  | .hatbandEvent code block arg0 arg1 => Sys2Proof.Machine.execHatbandEvent code block arg0 arg1 s
  | .hbrCursorWrite w => Sys2Proof.Machine.execHbrCursorWrite w s
  | .hbrWin7Read who => Sys2Proof.Machine.execHbrWin7Read who s
  | .domainOn dom train => Sys2Proof.Machine.execDomainOn dom train s
  | .domainOff dom done => Sys2Proof.Machine.execDomainOff dom done s
  | .thermalSample t0 t1 t2 t3 t4 => Sys2Proof.Machine.execThermalSample t0 t1 t2 t3 t4 s
  | .throttleLevelFall => Sys2Proof.Machine.execThrottleLevelFall s
  | .thermalHoldEnd => Sys2Proof.Machine.execThermalHoldEnd s
  | .fault ext stall => Sys2Proof.Machine.execFault ext stall s
  | .coreWatchdog n => Sys2Proof.Machine.execCoreWatchdog n s
  | .complexWatchdog c stall => Sys2Proof.Machine.execComplexWatchdog c stall s
  | .blockerWatchdog a => Sys2Proof.Machine.execBlockerWatchdog a s
  | .moduleWatchdog => Sys2Proof.Machine.execModuleWatchdog s
  | .fmgKick => Sys2Proof.Machine.execFmgKick s
  | .powerGood pins portOff => Sys2Proof.Machine.execPowerGood pins portOff s
  | .optionAreaLoad edges => Sys2Proof.Machine.execOptionAreaLoad edges s
  | .clockSourceTimeout other => Sys2Proof.Machine.execClockSourceTimeout other s
  | .firmwareVerify sigA sigB => Sys2Proof.Machine.execFirmwareVerify sigA sigB s
  | .firmwareDecompress => Sys2Proof.Machine.execFirmwareDecompress s
  | .dramTraining c0 c1 => Sys2Proof.Machine.execDramTraining c0 c1 s
  | .profileAdmission sig0 sig1 decl0 decl1 o train0 train1 => Sys2Proof.Machine.execProfileAdmission sig0 sig1 decl0 decl1 o train0 train1 s
  | .controllersReady => Sys2Proof.Machine.execControllersReady s
  | .spinUp => Sys2Proof.Machine.execSpinUp s
  | .headLoadCalibration emf0 emf1 bad0 bad1 => Sys2Proof.Machine.execHeadLoadCalibration emf0 emf1 bad0 bad1 s
  | .stateRestore o => Sys2Proof.Machine.execStateRestore o s
  | .namespacesReady => Sys2Proof.Machine.execNamespacesReady s
  | .perstDeassert p => Sys2Proof.Machine.execPerstDeassert p s
  | .pwrdis => Sys2Proof.Machine.execPwrdis s
  | .faultLineRelease a => Sys2Proof.Machine.execFaultLineRelease a s
  | .suppliesGood100Ms => Sys2Proof.Machine.execSuppliesGood100Ms s
  | .holderBusIdle holder => Sys2Proof.Machine.execHolderBusIdle holder s
  | .readyLimitExpired u => Sys2Proof.Machine.execReadyLimitExpired u s
  | .clockSourceRetry chosen other => Sys2Proof.Machine.execClockSourceRetry chosen other s
  | .spindleStopped => Sys2Proof.Machine.execSpindleStopped s
  | .motorOutputShort output => Sys2Proof.Machine.execMotorOutputShort output s

end Sys2Proof.Machine
end

