-- ==== Sys2Proof/WellFormed.lean ====
section
/-! DEFINITION. Well-formed commands: the operands that the manual bounds lie within their fields, and the words of a
packet command carry its opcode. The machine's meanings are total; this says which commands the outside can send. -/

namespace Sys2Proof

/-- A head of one actuator: at most 12 (Table 00.2). -/
def headOk (h : Nat) : Bool := decide (h < 12)

/-- A register address: a word of the 16 MiB register space (Table 01.10). -/
def regAddrOk (a : Nat) : Bool := decide (a % 4 = 0 ∧ a < 2 ^ 24)

/-- A namespace identifier is a 32-bit number. -/
def nsOk (n : Nat) : Bool := decide (n < 2 ^ 32)

/-- A command's queue and identifier are 16-bit numbers. -/
def cmdOk (i : CmdId) : Bool := decide (i.sq < 65536 ∧ i.cid < 65536)

/-- A block of 4,096 bytes, as the number they spell. -/
def blockOk (b : Nat) : Bool := decide (Nat.log2 b < 32768)

/-- The words of a packet: at least a header and a CRC, at most 64 KiB (R456). -/
def wordsOk (ws : List Word) : Bool := decide (4 ≤ ws.length ∧ ws.length ≤ 16384)

/-- The words of a packet with the given opcode in bits [31:16] of its first word (Table 18.1). -/
def packetOk (op : Nat) (ws : List Word) : Bool := wordsOk ws && decide ((ws.headD 0).toNat / 65536 = op)

/-- The words of an averaged rate-zone record, 64 at most (Table 05.3). -/
def recordOk (ws : List (Nat × Word)) : Bool := ws.all fun p => decide (p.1 < 64)

/-- A sensor's temperature in 0.25 degree steps, as the signed 16 bits of PDM_TEMP hold it. -/
def tempOk (t : Int) : Bool := decide (-32768 ≤ t ∧ t < 32768)

def Instr.wellFormed : Instr → Bool
  | .registerWrite _ addr _ _ => regAddrOk addr
  | .rcRead _ addr _ => regAddrOk addr
  | .tickNowLoRead _ => true
  | .tickEdge _ _ => true
  | .addressMark _ field phase _ => decide (field < 1024) && decide (phase < 2 ^ 18)
  | .missedMark _ => true
  | .flywheelLimit => true
  | .stampFire _ _ _ => true
  | .unitRequest _ => true
  | .unitResponse _ => true
  | .unitReset _ => true
  | .readyNotice _ _ => true
  | .commit _ => true
  | .discard => true
  | .microword _ _ => true
  | .conditionWait _ => true
  | .readFrag _ darg _ => decide (darg < 16)
  | .writeFrag _ => true
  | .loadRec _ => true
  | .feltArm _ => true
  | .heater _ step => decide (step < 16)
  | .servoReqSeek _ head => headOk head
  | .servoReqSelect _ head => headOk head
  | .servoReqLoad _ head => headOk head
  | .servoReqUnload _ => true
  | .post _ darg => decide (darg < 16)
  | .accept _ => true
  | .holdSamples _ => true
  | .rawCheck _ _ => true
  | .trace _ darg => decide (darg < 16)
  | .return _ => true
  | .abandon _ => true
  | .plankBind _ _ => true
  | .plankFind _ gs => decide (gs < 16)
  | .plankAdvance _ => true
  | .preBias _ _ => true
  | .backOffStart _ => true
  | .operate _ _ => true
  | .assistOff _ => true
  | .unwindStep _ head => headOk head
  | .assistSelfOff _ => true
  | .queueReset _ _ => true
  | .blkHalt _ _ => true
  | .blkResume _ => true
  | .blkStep _ _ => true
  | .cstData3Write _ _ => true
  | .cstData3Read _ _ => true
  | .microcodeImageWrite _ => true
  | .synthLocked _ => true
  | .averageComplete _ ws => recordOk ws
  | .writeBackBatch _ => true
  | .readerFail _ head lane => headOk head && decide (lane < 3)
  | .laneFail _ head lane => headOk head && decide (lane < 3)
  | .lanePowerFault _ lane => decide (lane < 3)
  | .laneFailClear _ head _ => head.all headOk
  | .decodeStart _ => true
  | .decodeDone _ _ _ _ => true
  | .rungCostElapsed _ => true
  | .reconstruction _ _ _ => true
  | .reconstructionBound _ _ => true
  | .servoFieldEnd _ _ => true
  | .offtrackRequalified _ => true
  | .pesMissLimit _ => true
  | .reacquisitionTimeout _ => true
  | .transferTimeout _ => true
  | .injectionStart _ => true
  | .capCtlArm _ _ _ _ => true
  | .capCtlAbort _ => true
  | .capDataRead _ _ _ => true
  | .trajectoryStart _ => true
  | .trajectoryEnd _ => true
  | .settleLate _ => true
  | .staggerExpiry => true
  | .shockSensorTrigger _ _ => true
  | .shockClear _ => true
  | .shockPark _ => true
  | .loadTimeout _ => true
  | .unloadVelocityLow _ => true
  | .latchEnd _ => true
  | .pwrRetGo => true
  | .commandFrameTimeout _ => true
  | .retractRegulationEnd => true
  | .retractLatchEnd => true
  | .commutationStep _ => true
  | .zeroCrossing _ _ => true
  | .missedCrossing => true
  | .spnCtlRun _ _ => true
  | .senseEnd _ _ => true
  | .brakeEnd => true
  | .alignEnd => true
  | .forcedStep => true
  | .lockedRotor => true
  | .lockRetry => true
  | .startTimeout => true
  | .coastEnd => true
  | .catchTimeout => true
  | .supplyDrop _ _ _ => true
  | .powerFail => true
  | .vaultSeal _ _ => true
  | .vholdLost => true
  | .supplyGood _ _ => true
  | .vaultArm => true
  | .vaultUnhealthy => true
  | .write id ns lba data _ _ _ => cmdOk id && nsOk ns && decide (lba < 2 ^ 64) && data.all blockOk
  | .writeAccept _ id _ => cmdOk id
  | .holdExpired _ id => cmdOk id
  | .journalCheckpoint => true
  | .zoneAppend id ns lba data _ _ => cmdOk id && nsOk ns && decide (lba < 2 ^ 64) && data.all blockOk
  | .openZone id ns lba _ _ => cmdOk id && nsOk ns && decide (lba < 2 ^ 64)
  | .closeZone id ns lba _ _ => cmdOk id && nsOk ns && decide (lba < 2 ^ 64)
  | .finishZone id ns lba _ _ => cmdOk id && nsOk ns && decide (lba < 2 ^ 64)
  | .resetZone id ns lba _ _ => cmdOk id && nsOk ns && decide (lba < 2 ^ 64)
  | .offlineZone id ns lba _ _ => cmdOk id && nsOk ns && decide (lba < 2 ^ 64)
  | .setZoneDescriptorExtension id ns lba _ _ => cmdOk id && nsOk ns && decide (lba < 2 ^ 64)
  | .reportZones id ns lba _ _ _ => cmdOk id && nsOk ns && decide (lba < 2 ^ 64)
  | .extendedReportZones id ns lba _ _ _ => cmdOk id && nsOk ns && decide (lba < 2 ^ 64)
  | .feltCheckpoint => true
  | .garbageCollection surface => decide (surface < 24)
  | .headHealthUpdate _ head => headOk head
  | .agingCompensation _ head => headOk head
  | .temperatureFrame _ _ => true
  | .temperatureFrameLost _ => true
  | .assistIlimLimit _ => true
  | .controlRequest _ => true
  | .controlResponse _ _ _ => true
  | .responseLost _ _ => true
  | .faultLine _ _ _ _ => true
  | .faultLineStuck _ => true
  | .tnlRetrainGo _ _ => true
  | .paAccGo _ _ => true
  | .correctionWriteBack => true
  | .fenceAdvance _ => true
  | .fenceDone => true
  | .scrubPass _ _ mramUe => mramUe.all fun u => decide (u < 2 ^ 22)
  | .bufTestGo _ _ => true
  | .dmcTestGo _ _ => true
  | .crownRead _ addr len _ => decide (addr < 2 ^ 34) && decide (1 ≤ len ∧ addr % 128 + len ≤ 128)
  | .crownWrite _ addr data _ => decide (addr < 2 ^ 34) && decide (1 ≤ data.length ∧ addr % 128 + data.length ≤ 128)
  | .fillGranule line => decide (line < 2 ^ 27)
  | .battDrain line => decide (line < 2 ^ 27)
  | .crownFence _ => true
  | .coherenceReport line => decide (line < 2 ^ 27)
  | .maintInvalidateLine set way => decide (set < 1024) && decide (way < 16)
  | .maintInvalidateWay set way => decide (set < 1024) && decide (way < 16)
  | .maintInvalidateAll set way => decide (set < 1024) && decide (way < 16)
  | .maintFence set way => decide (set < 1024) && decide (way < 16)
  | .maintPrefetch set way => decide (set < 1024) && decide (way < 16)
  | .maintReadTag set way => decide (set < 1024) && decide (way < 16)
  | .read id ns lba _ _ _ _ => cmdOk id && nsOk ns && decide (lba < 2 ^ 64)
  | .writeZeroes id ns lba _ _ => cmdOk id && nsOk ns && decide (lba < 2 ^ 64)
  | .flush id _ => cmdOk id
  | .abort id => cmdOk id
  | .deleteIoSubmissionQueue id qid => cmdOk id && decide (qid < 65536)
  | .deleteIoCompletionQueue id qid => cmdOk id && decide (qid < 65536)
  | .createIoSubmissionQueue id qid _ _ _ => cmdOk id && decide (qid < 65536)
  | .createIoCompletionQueue id qid _ => cmdOk id && decide (qid < 65536)
  | .getLogPage id _ _ => cmdOk id
  | .pelContextEstablish id => cmdOk id
  | .pelContextRelease id => cmdOk id
  | .identify id _ ns _ => cmdOk id && nsOk ns
  | .asynchronousEventRequest id => cmdOk id
  | .setArbitration id _ => cmdOk id
  | .setPowerManagement id _ => cmdOk id
  | .setTemperatureThreshold id _ _ _ => cmdOk id
  | .setErrorRecovery id ns _ _ => cmdOk id && nsOk ns
  | .setVolatileWriteCache id => cmdOk id
  | .setNumberOfQueues id _ _ => cmdOk id
  | .setInterruptCoalescing id _ => cmdOk id
  | .setInterruptVectorConfiguration id _ _ => cmdOk id
  | .setWriteAtomicityNormal id _ => cmdOk id
  | .setAsyncEventConfiguration id _ => cmdOk id
  | .setTimestamp id _ => cmdOk id
  | .getFeatures id _ _ => cmdOk id
  | .getZoneReorder id _ => cmdOk id
  | .getErrorRecoveryVendorData id ns => cmdOk id && nsOk ns
  | .firmwareImageDownload id _ _ => cmdOk id
  | .firmwareCommitCa000 id _ _ _ => cmdOk id
  | .firmwareCommitCa001 id _ _ _ => cmdOk id
  | .firmwareCommitCa010 id _ _ => cmdOk id
  | .firmwareCommitCa011 id _ _ _ => cmdOk id
  | .activationStep => true
  | .namespaceAttachment id _ => cmdOk id
  | .formatNvm id _ _ _ => cmdOk id
  | .sanitizeExitFailureMode id => cmdOk id
  | .sanitizeOverwrite id _ _ _ _ _ => cmdOk id
  | .sanitizeCryptoErase id _ _ => cmdOk id
  | .nvmeMiSend id _ => cmdOk id
  | .nvmeMiReceive id => cmdOk id
  | .mpiSend id ws _ => cmdOk id && wordsOk ws
  | .mpiReceive id _ => cmdOk id
  | .semaphoreClaim id => cmdOk id
  | .semaphoreRelease id => cmdOk id
  | .semaphoreAbandoned => true
  | .controllerReset _ _ => true
  | .ccEnSet _ => true
  | .normalShutdown _ => true
  | .abruptShutdown _ => true
  | .powerStateTransition => true
  | .basicManagementCommand _ => true
  | .readNvmeMiDataStructure _ _ => true
  | .nvmSubsystemHealthStatusPoll _ => true
  | .controllerHealthStatusPoll _ => true
  | .configurationGet _ _ => true
  | .configurationSet _ _ _ => true
  | .vpdRead _ _ _ => true
  | .tunnelledAdminCommand _ _ _ => true
  | .vendorSpecificMessage _ ws _ => wordsOk ws
  | .mirrorRecord => true
  | .mirrorAck => true
  | .complexSync _ => true
  | .heartbeatTimeout _ _ => true
  | .lockstepMismatch _ _ => true
  | .cpxToX _ => true
  | .cpxToY _ => true
  | .cpxSemFree _ => true
  | .echo _ ws _ => packetOk 0x0001 ws
  | .getInfo _ ws _ => packetOk 0x0002 ws
  | .semClaim _ ws _ => packetOk 0x0003 ws
  | .semRelease _ ws _ => packetOk 0x0004 ws
  | .semStatus _ ws _ => packetOk 0x0005 ws
  | .jobStatus _ ws _ => packetOk 0x0006 ws
  | .jobAbort _ ws _ => packetOk 0x0007 ws
  | .jobStatusExpired _ => true
  | .regRead _ ws _ => packetOk 0x0101 ws
  | .regWrite _ ws _ => packetOk 0x0102 ws
  | .regWriteBatch _ ws _ => packetOk 0x0103 ws
  | .regPoll _ ws _ => packetOk 0x0104 ws
  | .memRead _ ws _ => packetOk 0x0105 ws
  | .memWrite _ ws _ => packetOk 0x0106 ws
  | .cfgCommit _ ws _ => packetOk 0x0201 ws
  | .cfgDiscard _ ws _ => packetOk 0x0202 ws
  | .cfgStatus _ ws _ => packetOk 0x0203 ws
  | .sizerCheck _ ws _ => packetOk 0x0204 ws
  | .tableWrite _ ws _ => packetOk 0x0205 ws
  | .tableRead _ ws _ => packetOk 0x0206 ws
  | .cstWrite _ ws _ => packetOk 0x0207 ws
  | .profileLoad _ ws _ => packetOk 0x0208 ws
  | .profileSection _ ws _ => packetOk 0x0209 ws
  | .profileDownload _ ws _ => packetOk 0x020A ws
  | .profileStore _ ws _ => packetOk 0x020B ws
  | .profileSelect _ ws _ => packetOk 0x020C ws
  | .calRegWrite _ ws _ => packetOk 0x0301 ws
  | .spindleRun _ ws _ => packetOk 0x0302 ws
  | .headLoad _ ws _ => packetOk 0x0303 ws
  | .seek _ ws _ => packetOk 0x0304 ws
  | .inject _ ws _ => packetOk 0x0305 ws
  | .captureArm _ ws _ => packetOk 0x0306 ws
  | .captureRead _ ws _ => packetOk 0x0307 ws
  | .preampAccess _ ws _ => packetOk 0x0308 ws
  | .linkRetrain _ ws _ => packetOk 0x0309 ws
  | .readerClear _ ws _ => packetOk 0x030A ws
  | .assistRecal _ ws _ => packetOk 0x030B ws
  | .eccInject _ ws _ => packetOk 0x030C ws
  | .handover _ ws _ => packetOk 0x030D ws
  | .trackRead _ ws _ => packetOk 0x0401 ws
  | .trackScan _ ws _ => packetOk 0x0402 ws
  | .replayRead _ ws _ => packetOk 0x0403 ws
  | .lbaToPhys _ ws _ => packetOk 0x0404 ws
  | .defectRead _ ws _ => packetOk 0x0405 ws
  | .defectPend _ ws _ => packetOk 0x0406 ws
  | .headFail _ ws _ => packetOk 0x0407 ws
  | .reconRead _ ws _ => packetOk 0x0408 ws
  | .hatbandRead _ ws _ => packetOk 0x0501 ws
  | .hatbandClear _ ws _ => packetOk 0x0502 ws
  | .hatbandArchive _ ws _ => packetOk 0x0503 ws
  | .counters _ ws _ => packetOk 0x0504 ws
  | .headHealth _ ws _ => packetOk 0x0505 ws
  | .feltLog _ ws _ => packetOk 0x0506 ws
  | .vaultInfo _ ws _ => packetOk 0x0507 ws
  | .nvRead _ ws _ => packetOk 0x0601 ws
  | .optionWrite _ ws _ => packetOk 0x0602 ws
  | .slotInfo _ ws _ => packetOk 0x0603 ws
  | .fwDownload _ ws _ => packetOk 0x0604 ws
  | .fwCommit _ ws _ => packetOk 0x0605 ws
  | .fullerJob _ ws _ => packetOk 0x0606 ws
  | .mirrorVersion _ ws _ => packetOk 0x0801 ws
  | .handoverReq _ ws _ => packetOk 0x0802 ws
  | .handoverDone _ ws _ => packetOk 0x0803 ws
  | .heartbeat _ ws _ => packetOk 0x0804 ws
  | .uartGapTimeout => true
  | .flashKey bank _ => decide (bank < 2)
  | .flashProgram bank _ => decide (bank < 2)
  | .flashErase bank _ => decide (bank < 2)
  | .flashSuspend bank => decide (bank < 2)
  | .flashResume bank => decide (bank < 2)
  | .flashClear bank => decide (bank < 2)
  | .programDone bank _ => decide (bank < 2)
  | .eraseDone bank _ => decide (bank < 2)
  | .suspendHoldRelease bank => decide (bank < 2)
  | .flashBusFault _ addr => decide (addr < 2 ^ 25)
  | .compressJob _ => true
  | .decompressJob => true
  | .fulFlush _ => true
  | .hatbandEvent _ _ _ _ => true
  | .hbrCursorWrite _ => true
  | .hbrWin7Read _ => true
  | .domainOn dom _ => decide (dom < 80)
  | .domainOff dom _ => decide (dom < 80)
  | .thermalSample t0 t1 t2 t3 t4 => tempOk t0 && tempOk t1 && tempOk t2 && tempOk t3 && tempOk t4
  | .throttleLevelFall => true
  | .thermalHoldEnd => true
  | .fault _ _ => true
  | .coreWatchdog _ => true
  | .complexWatchdog _ _ => true
  | .blockerWatchdog _ => true
  | .moduleWatchdog => true
  | .fmgKick => true
  | .powerGood pins _ => decide (pins < 16)
  | .optionAreaLoad _ => true
  | .clockSourceTimeout _ => true
  | .firmwareVerify _ _ => true
  | .firmwareDecompress => true
  | .dramTraining _ _ => true
  | .profileAdmission _ _ _ _ _ _ _ => true
  | .controllersReady => true
  | .spinUp => true
  | .headLoadCalibration _ _ _ _ => true
  | .stateRestore _ => true
  | .namespacesReady => true
  | .perstDeassert _ => true
  | .pwrdis => true
  | .faultLineRelease _ => true
  | .suppliesGood100Ms => true
  | .holderBusIdle holder => decide (3 ≤ holder ∧ holder ≤ 5)
  | .readyLimitExpired _ => true
  | .clockSourceRetry _ _ => true
  | .spindleStopped => true
  | .motorOutputShort output => decide (output < 5)

end Sys2Proof
end

