-- ==== Sys2Proof/Safety.lean ====
section
/-! DEFINITION. What a sound state is, in the terms the claims use: every sparse map in its canonical form, so that equal
contents are equal data, and every bounded store within its bounds. -/

namespace Sys2Proof.Machine

/-- The canonical form of the buffer SRAM and the DRAM: addresses rise strictly, and no entry equals what an unlisted
address reads as. -/
def Memory.wf (m : Memories) : Bool := swf 0 m.buf && swf 0 m.bufChk && swf 0 m.dram && swf 0 m.dramMeta

/-- The recorder's bounds: 65,536 records, the last of them only once it is full (R507, R510), and a queue of 64
(R508). -/
def Hatband.bounded (h : Hatband) : Bool :=
  decide (h.recs.length ≤ 65536) && (h.full || decide (h.recs.length ≤ 65535)) && decide (h.queue.length ≤ 64)

/-- Generations are canonical 8-bit numbers (R32). -/
def Units.bounded (u : Units) : Bool := swf 0 u.gens && u.gens.all fun p => decide (p.2 ≤ 255)

/-- A sound device: the register file, the preamplifier registers, the memories, the flash and the media in canonical
form, and the recorder and the generations within their bounds. -/
structure Dev.Sound (d : Dev) : Prop where
  regs : swf 0 d.regs = true
  pa0 : swf 0 d.preamp.a0 = true
  pa1 : swf 0 d.preamp.a1 = true
  mem : Memory.wf d.mem = true
  flash : swf erasedWord d.nv.flash = true
  recs : swf none d.media.recs = true
  hb : d.hb.bounded = true
  units : d.units.bounded = true

/-- The state a step may start from: a sound device, whose waiting commands are well formed. -/
structure State.Sound (s : State) : Prop where
  dev : s.dev.Sound
  queue : s.pending.all Instr.wellFormed = true

end Sys2Proof.Machine

namespace Sys2Proof

/-! ### What a command can reach -/

/-- Commands that may change bytes of the buffer SRAM or the DRAM. -/
def Instr.reachesMemory : Instr → Bool
  | .registerWrite .. | .tickEdge .. | .unitReset .. | .readyNotice .. | .supplyDrop .. | .powerFail ..
  | .vaultSeal .. | .vholdLost .. | .correctionWriteBack .. | .fenceAdvance .. | .fenceDone .. | .scrubPass ..
  | .bufTestGo .. | .dmcTestGo .. | .crownRead .. | .crownWrite .. | .fillGranule .. | .battDrain .. | .crownFence ..
  | .coherenceReport .. | .maintInvalidateLine .. | .maintInvalidateWay .. | .maintInvalidateAll .. | .maintFence ..
  | .maintPrefetch .. | .maintReadTag .. | .nvmeMiSend .. | .mpiSend .. | .vendorSpecificMessage ..
  | .heartbeatTimeout .. | .lockstepMismatch .. | .echo .. | .getInfo .. | .semClaim .. | .semRelease ..
  | .semStatus .. | .jobStatus .. | .jobAbort .. | .regRead .. | .regWrite .. | .regWriteBatch .. | .regPoll ..
  | .memRead .. | .memWrite .. | .cfgCommit .. | .cfgDiscard .. | .cfgStatus .. | .sizerCheck .. | .tableWrite ..
  | .tableRead .. | .cstWrite .. | .profileLoad .. | .profileSection .. | .profileDownload .. | .profileStore ..
  | .profileSelect .. | .calRegWrite .. | .spindleRun .. | .headLoad .. | .seek .. | .inject .. | .captureArm ..
  | .captureRead .. | .preampAccess .. | .linkRetrain .. | .readerClear .. | .assistRecal .. | .eccInject ..
  | .handover .. | .trackRead .. | .trackScan .. | .replayRead .. | .lbaToPhys .. | .defectRead .. | .defectPend ..
  | .headFail .. | .reconRead .. | .hatbandRead .. | .hatbandClear .. | .hatbandArchive .. | .counters ..
  | .headHealth .. | .feltLog .. | .vaultInfo .. | .nvRead .. | .optionWrite .. | .slotInfo .. | .fwDownload ..
  | .fwCommit .. | .fullerJob .. | .mirrorVersion .. | .handoverReq .. | .handoverDone .. | .heartbeat ..
  | .compressJob .. | .decompressJob .. | .domainOn .. | .domainOff .. | .fault .. | .coreWatchdog ..
  | .complexWatchdog .. | .blockerWatchdog .. | .moduleWatchdog .. | .powerGood .. | .optionAreaLoad ..
  | .firmwareDecompress .. | .dramTraining .. | .profileAdmission .. | .pwrdis .. | .suppliesGood100Ms ..
  | .readyLimitExpired .. => true
  | _ => false

/-- Commands that may change the flash: those that program or erase, and those whose work may let such a command go on. -/
def Instr.reachesFlash : Instr → Bool
  | .tickEdge .. | .supplyDrop .. | .powerFail .. | .vaultSeal .. | .vholdLost .. | .setTemperatureThreshold ..
  | .setErrorRecovery .. | .setTimestamp .. | .firmwareCommitCa000 .. | .firmwareCommitCa001 ..
  | .firmwareCommitCa010 .. | .firmwareCommitCa011 .. | .activationStep .. | .formatNvm ..
  | .sanitizeExitFailureMode .. | .sanitizeOverwrite .. | .sanitizeCryptoErase .. | .nvmeMiSend .. | .mpiSend ..
  | .semaphoreClaim .. | .semaphoreRelease .. | .semaphoreAbandoned .. | .vendorSpecificMessage ..
  | .heartbeatTimeout .. | .lockstepMismatch .. | .echo .. | .getInfo .. | .semClaim .. | .semRelease ..
  | .semStatus .. | .jobStatus .. | .jobAbort .. | .regRead .. | .regWrite .. | .regWriteBatch .. | .regPoll ..
  | .memRead .. | .memWrite .. | .cfgCommit .. | .cfgDiscard .. | .cfgStatus .. | .sizerCheck .. | .tableWrite ..
  | .tableRead .. | .cstWrite .. | .profileLoad .. | .profileSection .. | .profileDownload .. | .profileStore ..
  | .profileSelect .. | .calRegWrite .. | .spindleRun .. | .headLoad .. | .seek .. | .inject .. | .captureArm ..
  | .captureRead .. | .preampAccess .. | .linkRetrain .. | .readerClear .. | .assistRecal .. | .eccInject ..
  | .handover .. | .trackRead .. | .trackScan .. | .replayRead .. | .lbaToPhys .. | .defectRead .. | .defectPend ..
  | .headFail .. | .reconRead .. | .hatbandRead .. | .hatbandClear .. | .hatbandArchive .. | .counters ..
  | .headHealth .. | .feltLog .. | .vaultInfo .. | .nvRead .. | .optionWrite .. | .slotInfo .. | .fwDownload ..
  | .fwCommit .. | .fullerJob .. | .mirrorVersion .. | .handoverReq .. | .handoverDone .. | .heartbeat ..
  | .programDone .. | .eraseDone .. | .fault .. | .coreWatchdog .. | .complexWatchdog .. | .blockerWatchdog ..
  | .moduleWatchdog .. | .optionAreaLoad .. | .profileAdmission .. | .stateRestore .. | .pwrdis ..
  | .suppliesGood100Ms .. | .readyLimitExpired .. => true
  | _ => false

/-- Commands that may change the records on the media. -/
def Instr.reachesMedia : Instr → Bool
  | .registerWrite .. | .tickEdge .. | .stampFire .. | .microword .. | .readFrag .. | .writeFrag .. | .post ..
  | .rawCheck .. | .queueReset .. | .blkStep .. | .decodeDone .. | .rungCostElapsed .. | .reconstruction ..
  | .reconstructionBound .. | .write .. | .writeAccept .. | .holdExpired .. | .zoneAppend .. | .openZone ..
  | .closeZone .. | .finishZone .. | .resetZone .. | .offlineZone .. | .setZoneDescriptorExtension ..
  | .reportZones .. | .extendedReportZones .. | .read .. | .writeZeroes .. | .flush .. | .deleteIoSubmissionQueue ..
  | .nvmeMiSend .. | .mpiSend .. | .controllerReset .. | .normalShutdown .. | .powerStateTransition ..
  | .vendorSpecificMessage .. | .echo .. | .getInfo .. | .semClaim .. | .semRelease .. | .semStatus ..
  | .jobStatus .. | .jobAbort .. | .regRead .. | .regWrite .. | .regWriteBatch .. | .regPoll .. | .memRead ..
  | .memWrite .. | .cfgCommit .. | .cfgDiscard .. | .cfgStatus .. | .sizerCheck .. | .tableWrite .. | .tableRead ..
  | .cstWrite .. | .profileLoad .. | .profileSection .. | .profileDownload .. | .profileStore .. | .profileSelect ..
  | .calRegWrite .. | .spindleRun .. | .headLoad .. | .seek .. | .inject .. | .captureArm .. | .captureRead ..
  | .preampAccess .. | .linkRetrain .. | .readerClear .. | .assistRecal .. | .eccInject .. | .handover ..
  | .trackRead .. | .trackScan .. | .replayRead .. | .lbaToPhys .. | .defectRead .. | .defectPend .. | .headFail ..
  | .reconRead .. | .hatbandRead .. | .hatbandClear .. | .hatbandArchive .. | .counters .. | .headHealth ..
  | .feltLog .. | .vaultInfo .. | .nvRead .. | .optionWrite .. | .slotInfo .. | .fwDownload .. | .fwCommit ..
  | .fullerJob .. | .mirrorVersion .. | .handoverReq .. | .handoverDone .. | .heartbeat .. | .thermalHoldEnd ..
  | .fault .. | .coreWatchdog .. | .complexWatchdog .. | .blockerWatchdog .. | .profileAdmission ..
  | .namespacesReady .. | .readyLimitExpired .. => true
  | _ => false

end Sys2Proof
end

