-- ==== Sys2Proof/Certificates/Slice0/Obligations.lean ====
section
/-! DEFINITION. The statements for the provers, one `def Obligations.<Name> : Prop` each, with the few helpers they share.
A statement about a command says what it answers, `exec … = s.next …`, for every state and operand that meets hypotheses
on the state and the operands alone; comments name the clauses. -/

open Sys2Proof Sys2Proof.Machine

/-- The register fields whose reset value the register tables give as other than 0, one or more of every unit; the fields
of a unit that exists per actuator for both. -/
def Sys2Proof.tableResets : List (Fld × Nat) :=
  let per (x : Fld) (v : Nat) : List (Fld × Nat) := [(x.on .a0, v), (x.on .a1, v)]
  [(Reg.TICK_CFG_WEDGES, 0x258), (Reg.SYS_ID_PART, 0x7250), (Reg.SYS_BOOT_STEP, 1), (Reg.PWR_VAULT_REASON_RESTORE, 1),
   (Reg.SPN_SPEED_CMD_SPEED, 0xAFC80), (Reg.SPN_ILIM_START, 0x0BB8), (Reg.SPN_ILIM_RUN, 0x05DC), (Reg.SPN_LOCK_CFG_RETRIES, 3),
   (Reg.PWR_SMON_CFG_UV12, 0xCC), (Reg.PWR_SMON_CFG_UV5, 0xDC), (Reg.PWR_GEN_CFG_VHOLD, 0x5A), (Reg.PWR_RET_VEL_VEL, 0x012C)] ++
  [(Reg.ZQE_CFG_HOLD, 0x14), (Reg.ZQE_CFG_WINDOW, 0x40), (Reg.ZQE_LIMITS_MAX_ACTIVE, 0x0800), (Reg.ZQE_LIMITS_MAX_OPEN, 0x0400),
   (Reg.FLT_CFG_ON, 1), (Reg.FLT_CFG_PAR, 2), (Reg.FLT_CFG_WIDTH, 0x14), (Reg.FLT_SCR_SIZE, 0x021), (Reg.BUF_DIRTY_MAX, 0x30),
   (Reg.CRN_CFG_NAP_SEQ, 1), (Reg.CRN_BATT_CFG_AGE, 0x04B0), (Reg.CPX_CFG_AUTO_BACK, 1), (Reg.NVC_FL_MODE_NESTED, 1)] ++
  [(Reg.PDM_PS3_SPEED_SPEED, 0x75300), (Reg.PDM_THERM_CFG_SHUT, 0x46), (Reg.PDM_THERM_CFG_CRIT, 0x41),
   (Reg.PDM_THERM_CFG_WARN, 0x3C), (Reg.FMG_CFG_WINDOW, 0x3C), (Reg.FMG_CFG_LIMIT, 3), (Reg.FMG_WDT_MOD, 0x0A), (Reg.FMG_WDT_BLK, 0x20)] ++
  per Reg.BLK_PLK_LEAD_LEAD 4 ++ per Reg.CHN_ADAPT_CTL_AVG_LOG2 8 ++ per Reg.CHN_DEC_CFG_REP_LOCAL 0x28 ++
  per Reg.CHN_DEC_CFG_REP_GLOBAL 0xC ++ per Reg.CHN_SYNC_CFG_WIN2 0x10 ++ per Reg.AFE_TRACK_EN 1 ++ per Reg.WAS_WR_CFG_WR_LAT 0x20 ++
  per Reg.WAS_INH_THR_CMR 0x0C ++ per Reg.WAS_HH_THR_FAIL 0x40 ++ per Reg.WAS_AGE_CFG_AGE_LOG2 0xF ++ per Reg.TNL_CTL_CFG_RETRY 3 ++
  per Reg.SRV_SAM_PATTERN 0xE2D ++ per Reg.SRV_SETTLE_WR_WIN 0x0F ++ per Reg.SRV_SHOCK_CFG_THR 0x40 ++ per Reg.SRV_LOAD_TIME_LATCH 0x0E10

/-- A step takes the command at the front of the queue and leaves the rest waiting; an empty queue idles (log 8). Every
command in every state is answered by a next state, with the queue as it was. -/
def Obligations.StepRunsFrontCommand : Prop :=
  (∀ (c : Instr) (rest : List Instr) (d : Dev),
    step { pending := c :: rest, dev := d } = exec c { pending := rest, dev := d }) ∧
  (∀ d : Dev, step { pending := [], dev := d } = .next { pending := [], dev := d }) ∧
  (∀ (c : Instr) (s : State), ∃ d : Dev, exec c s = .next { pending := s.pending, dev := d })

/-- The machine right after reset: the reset values of the register tables, no generation yet (R32), nothing stored, nothing
answered, no command waiting. That it is a KH7250-D is the model's choice (log 2). -/
def Obligations.ResetValues : Prop :=
  (∀ p ∈ tableResets, State.reset.dev.f p.1 = p.2) ∧
  (∀ b, State.reset.dev.gen b = 0) ∧
  State.reset.dev.mem.buf = [] ∧ State.reset.dev.mem.dram = [] ∧ State.reset.dev.nv.flash = [] ∧ State.reset.dev.media.recs = [] ∧
  State.reset.dev.semHolder = 0 ∧ State.reset.dev.sem.queue = [] ∧
  State.reset.dev.completions = [] ∧ State.reset.dev.mpi.sent = [] ∧ State.reset.pending = [] ∧ State.reset.dev.variant = .D

/-- The machine right after reset is sound. -/
def Obligations.ResetIsSound : Prop := State.reset.Sound

/-- Every step keeps a sound state sound: the canonical form of registers, memories, flash and media, the bounds of the
recorder and of the generations, and the well-formedness of what waits. -/
def Obligations.EveryStepKeepsSoundness : Prop := ∀ s t : State, s.Sound → step s = .next t → t.Sound

/-- Over every step from a sound state: the variant stays, the drive write sequence number never falls, and completions
and replies already given are never taken back. -/
def Obligations.StepsOnlyAddToOutput : Prop :=
  ∀ s t : State, s.Sound → step s = .next t →
    t.dev.variant = s.dev.variant ∧ s.dev.media.wseq ≤ t.dev.media.wseq ∧
    s.dev.completions <:+ t.dev.completions ∧ s.dev.mpi.sent <:+ t.dev.mpi.sent

/-- Stored contents change only by the commands that can reach them: the buffer SRAM and DRAM, the flash, and the records
on the media are what they were after every other command. -/
def Obligations.ContentsFrame : Prop :=
  ∀ (c : Instr) (s t : State), s.dev.Sound → exec c s = .next t →
    (c.reachesMemory = false → t.dev.mem.buf = s.dev.mem.buf ∧ t.dev.mem.bufChk = s.dev.mem.bufChk ∧
      t.dev.mem.dram = s.dev.mem.dram ∧ t.dev.mem.dramMeta = s.dev.mem.dramMeta) ∧
    (c.reachesFlash = false → t.dev.nv.flash = s.dev.nv.flash) ∧
    (c.reachesMedia = false → t.dev.media.recs = s.dev.media.recs)

/-- What writing a register field does: the field takes the value, cut to its width; fields of other registers, and fields
of the same register that share no bit with it, keep theirs; nothing but the registers changes. A counter saturates. -/
def Obligations.FieldsAndCounters : Prop :=
  ∀ (d : Dev) (x : Fld), swf 0 d.regs = true → x.hi < 32 → x.lo ≤ x.hi →
    (∀ v, (d.setF x v).f x = v % 2 ^ x.width) ∧
    (∀ (y : Fld) v, y.addr ≠ x.addr → (d.setF x v).f y = d.f y) ∧
    (∀ (y : Fld) v, y.addr = x.addr → (y.hi < x.lo ∨ x.hi < y.lo) → (d.setF x v).f y = d.f y) ∧
    (∀ v, d.setF x v = { d with regs := (d.setF x v).regs }) ∧
    (∀ n, (d.bumpF x n).f x = Nat.min (2 ^ x.width - 1) (d.f x + n)) ∧
    (∀ (y : Fld) n, y.addr ≠ x.addr → (d.bumpF x n).f y = d.f y)

/-- A read of a register of an absent unit (R3). -/
def Obligations.AbsentUnitReads : Prop :=
  ∀ (s : State) (who : Requester) addr o, s.dev.absentAt addr = true →
    -- zero is answered, and nothing else changes, whatever the register's access type
    exec (.rcRead who addr o) s = s.next { s.dev with reads := sset 0 s.dev.reads who.key 0#32 } ∧
    (∀ d : Dev, d.absentAt addr = true → d.fabricRead who addr o = { d with reads := sset 0 d.reads who.key 0#32 })

/-- The release of the semaphore (R444). -/
def Obligations.SemaphoreRelease : Prop :=
  (∀ (s : State) (id : CmdId), s.dev.admits id = true →
    let d := s.dev.wakeHost id.port
    let h := 1 + id.port.idx
    -- from the holder: free at once, and the next queued request is granted in the same step
    (s.dev.semHolder = h → s.dev.sem.ops = 0 →
      exec (.semaphoreRelease id) s = s.next (d.semClear.complete id .success 0).semSettle) ∧
    -- while an operation of the holder runs, the claim ends and the operation keeps the hold
    (s.dev.semHolder = h → s.dev.sem.ops ≠ 0 →
      exec (.semaphoreRelease id) s = s.next ((d.setF Reg.CPX_SEM_EXPLICIT 0).complete id .success 0).semSettle) ∧
    -- from anyone else: Dword 0 is 0x05, and nothing else changes; with nothing held Dword 0 is 0
    (s.dev.semHolder ≠ 0 → s.dev.semHolder ≠ h → (∀ r ∈ s.dev.sem.queue, r.holder ≠ s.dev.semHolder) →
      exec (.semaphoreRelease id) s = s.next (d.complete id .success 5)) ∧
    (s.dev.semHolder = 0 → s.dev.sem.queue = [] → exec (.semaphoreRelease id) s = s.next (d.complete id .success 0))) ∧
  (∀ d : Dev, swf 0 d.regs = true →
    d.semClear.semHolder = 0 ∧
    (∀ r rest, d.semHolder = 0 → d.sem.queue = r :: rest →
      d.semSettle = (((d.setQueue rest).semGrant r.holder).runSem r.holder r.op).semGrants rest.length) ∧
    -- the end of the last operation under a hold that is no claim frees the semaphore
    (d.sem.ops = 1 → d.sem.expired = false → d.f Reg.CPX_SEM_EXPLICIT = 0 → d.semOwnNext = false → d.semEnd.semHolder = 0))

/-- The event recorder at its last record (R510). -/
def Obligations.RecorderFull : Prop :=
  (∀ (s : State) code b a0 a1 l, 0 < code → code < 4096 → s.dev.hb.ready = true → s.dev.hb.clearing = false →
    s.dev.hb.recs.getLast? = some l →
    let h := s.dev.hb
    let r := s.dev.hbRec code b a0 a1
    let raised : Hatband := { h with recs := h.recs.dropLast ++ [{ l with rep := satAdd 0xFFFF l.rep 1 }], seq := h.seq + 1 }
    let last : HbRec := { r with code := 0x001, block := 25, rep := 0, arg0 := 0, arg1 := 0 }
    -- with 65,535 records held, an event that coalesces with the last of them raises its repeat count
    (h.recs.length = 65535 → h.full = false → (l.same r && decide (l.rep < 0xFFFF) && !h.frozenAt 65534) = true →
      exec (.hatbandEvent code b a0 a1) s = s.next { s.dev with hb := raised }) ∧
    -- any other writes FULL as the last record, and recording stops
    (h.recs.length = 65535 → h.full = false → (l.same r && decide (l.rep < 0xFFFF) && !h.frozenAt 65534) = false →
      exec (.hatbandEvent code b a0 a1) s = s.next { s.dev with hb := { h with recs := h.recs ++ [last], full := true, seq := h.seq + 1 } }) ∧
    -- from then on each event raises that record's repeat count, and no other record changes
    (h.full = true → exec (.hatbandEvent code b a0 a1) s = s.next { s.dev with hb := raised })) ∧
  (∀ d : Dev, bits (d.live Reg.HBR_STATUS) Reg.HBR_STATUS_FULL.hi Reg.HBR_STATUS_FULL.lo = flag d.hb.full)

/-- The controller's own state at the start of a sense window (R314). -/
def Sys2Proof.sensing (x : Spindle) : Spindle :=
  { x with amps := 0, integral := 0, reached := false, sensed := 0, confirmed := 0, wanted := false, waiting := false, catching := none }

/-- Starting the spindle (R314 to R317, R549, Table 11.2): the order to run, the sense window, braking, align and go, and
what ends a start. -/
def Obligations.SpindleStartSequence : Prop :=
  ∀ s : State,
    -- RUN through the calibration packets, or SPIN_UP in service: the sense window begins when the start's conditions hold
    (∀ i ∈ [Instr.spnCtlRun true true, Instr.spinUp], s.dev.safe = false → s.dev.f Reg.FMG_STATUS_HOLD = 0 →
      let d1 := s.dev.setF Reg.SPN_CTL_RUN 1
      let d2 := d1.setF Reg.SPN_TARGET_SPEED d1.targetSpeed
      d2.targetSpeed ≠ 0 → d2.spnState = 0 → s.dev.spn.waiting = false → d2.mayStart = true →
      exec i s = s.next (((d2.setF Reg.SPN_STATUS_STATE 1).setF Reg.SPN_STATUS_SRC 0).onSpn fun x =>
        sensing x)) ∧
    -- RUN 0: target 0, a turning spindle stops; a spindle at rest stays there
    (let d2 := (s.dev.setF Reg.SPN_CTL_RUN 0).showTarget.onSpn fun x => { x with wanted := false, waiting := false }
     exec (.spnCtlRun true false) s = s.next (if d2.spnState = 0 then d2 else (d2.driveOff 8).armEdge)) ∧
    -- a write of SPN_CTL outside the calibration packets is ignored and leaves one event
    (∀ run, exec (.spnCtlRun false run) s = s.next (s.dev.ignoredWrite Reg.SPN_CTL)) ∧
    -- below 60 rpm: align and go at the START limit
    (∀ back rpm, s.dev.spnState = 1 → s.dev.spn.sensed < 3 ∨ rpm < 60 →
      exec (.senseEnd back rpm) s = s.next
        ((((s.dev.setF Reg.SPN_STATUS_DIR (flag back)).setF Reg.SPN_STATUS_STATE 3).setF Reg.SPN_STATUS_SRC 1).onSpn fun x =>
          { x with step := 0, edge := 0, confirmed := 0, amps := (s.dev.setF Reg.SPN_STATUS_DIR (flag back)).f Reg.SPN_ILIM_START })) ∧
    -- forward at 60 rpm or more: catch on the fly from 0 mA
    (∀ rpm, s.dev.spnState = 1 → 3 ≤ s.dev.spn.sensed → 60 ≤ rpm →
      exec (.senseEnd false rpm) s = s.next
        ((((s.dev.setF Reg.SPN_STATUS_DIR 0).setF Reg.SPN_STATUS_STATE 5).setF Reg.SPN_STATUS_SRC 0).onSpn fun x =>
          { x with catching := some false, confirmed := 0, amps := 0 })) ∧
    -- backward at 60 rpm or more: brake, then sense again
    (∀ rpm, s.dev.spnState = 1 → 3 ≤ s.dev.spn.sensed → 60 ≤ rpm →
      exec (.senseEnd true rpm) s = s.next ((((s.dev.setF Reg.SPN_STATUS_DIR 1).setF Reg.SPN_STATUS_STATE 2).setF
        Reg.SPN_STATUS_SRC 0).setF Reg.SPN_EVENT_BRAKED 1)) ∧
    (s.dev.spnState = 2 →
      exec .brakeEnd s = s.next (((s.dev.setF Reg.SPN_STATUS_STATE 1).setF Reg.SPN_STATUS_SRC 0).onSpn fun x =>
        { x with sensed := 0 })) ∧
    -- the first forced step lasts 40 ms
    (s.dev.spnState = 3 →
      exec .alignEnd s = s.next (((s.dev.setF Reg.SPN_STATUS_STATE 4).setF Reg.SPN_STATUS_SRC 1).onSpn fun x =>
        { x with step := 1, edge := 1, forcedNs := 40000000 })) ∧
    -- every further forced step is 10 % shorter, until the forced speed reaches OBS_MIN and the observer takes over
    (s.dev.spnState = 4 →
      let t := s.dev.spn.forcedNs * 9 / 10
      let d1 := s.dev.turning.onSpn fun x => { x with step := (x.step + 1) % 6, edge := (x.edge + 1) % 36, forcedNs := t }
      exec .forcedStep s = s.next
        (if 60000000000 < s.dev.f Reg.SPN_START_CFG_OBS_MIN * 36 * t then d1
         else ((d1.setF Reg.SPN_STATUS_STATE 5).setF Reg.SPN_STATUS_SRC 2).onSpn fun x => { x with catching := none })) ∧
    -- no AT_SPEED within SPIN_MAX: the drive is off, FAULT set, one event left, and the fault manager told
    (2 ≤ s.dev.spnState → s.dev.spnState ≤ 5 →
      let d1 := (s.dev.setF Reg.SPN_EVENT_LOCKED 1).setF Reg.SPN_EVENT_TIMEOUT 1
      let d2 := d1.event Ev.spindle .spn (d1.reg Reg.SPN_EVENT).toNat (d1.reg Reg.SPN_SPEED).toNat
      exec .startTimeout s = s.next ((((d2.driveOff 7).setF Reg.SPN_STATUS_FAULT 1).onSpn fun x =>
        { x with waiting := false }).reportFault .spindle 7)) ∧
    -- a locked rotor: drive off, LOCKED, counted, one event, then a wait; after RETRIES failed starts FAULT as above
    (2 ≤ s.dev.spnState → s.dev.spnState ≤ 5 →
      let n := s.dev.spn.starts + 1
      let d1 := (((s.dev.driveOff 7).setF Reg.SPN_EVENT_LOCKED 1).bumpF Reg.SPN_CNT_LOCKED 1).onSpn fun x =>
        { x with starts := n, waiting := true }
      let d2 := d1.event Ev.spindle .spn (d1.reg Reg.SPN_EVENT).toNat (d1.reg Reg.SPN_SPEED).toNat
      exec .lockedRotor s = s.next
        (if s.dev.f Reg.SPN_LOCK_CFG_RETRIES ≤ n then
          (((d2.driveOff 7).setF Reg.SPN_STATUS_FAULT 1).onSpn fun x => { x with waiting := false }).reportFault .spindle 7
         else d2)) ∧
    -- after the wait the start runs again from sensing
    (s.dev.spn.waiting = true → s.dev.targetSpeed ≠ 0 → s.dev.mayStart = true →
      exec .lockRetry s = s.next (((s.dev.setF Reg.SPN_STATUS_STATE 1).setF Reg.SPN_STATUS_SRC 0).onSpn fun x =>
        sensing x))

/-- The turning spindle (R310 to R313, R318, Table 11.3): crossings, step edges, the lost rotor and the spindle at rest. -/
def Obligations.SpindleTurning : Prop :=
  ∀ s : State,
    -- the sense window counts crossings
    (∀ err fits, s.dev.spnState = 1 →
      exec (.zeroCrossing err fits) s = s.next (s.dev.onSpn fun x => { x with sensed := x.sensed + 1 })) ∧
    -- the third consecutive crossing that fits the forced steps hands the drive to the observer
    (∀ err, s.dev.spnState = 4 → 2 ≤ s.dev.spn.confirmed →
      exec (.zeroCrossing err true) s = s.next ((((s.dev.onSpn fun x => { x with confirmed := s.dev.spn.confirmed + 1 }).setF
        Reg.SPN_STATUS_STATE 5).setF Reg.SPN_STATUS_SRC 2).onSpn fun x => { x with catching := none })) ∧
    -- at speed on the clock a crossing within 30 degrees is recorded
    (∀ err fits, s.dev.spnState = 6 → s.dev.f Reg.SPN_COMM_MAP_ALIGNED = 1 → err.natAbs ≤ 30 → s.dev.Sound →
      exec (.zeroCrossing err fits) s = s.next (((s.dev.onSpn fun x =>
          { x with confirmed := if fits then s.dev.spn.confirmed + 1 else 0 }).setF Reg.SPN_OBS_PHASE_ERR
        (unsigned 8 err)).setF Reg.SPN_OBS_MISSED 0)) ∧
    -- a missed crossing is counted; the third in a row loses the rotor
    (s.dev.spnState = 6 → s.dev.f Reg.SPN_OBS_MISSED < 2 → s.dev.Sound →
      exec .missedCrossing s = s.next (s.dev.bumpF Reg.SPN_OBS_MISSED 1)) ∧
    (s.dev.spnState = 6 → s.dev.f Reg.SPN_OBS_MISSED = 2 → s.dev.f Reg.SPN_COMM_MAP_ALIGNED = 0 → s.dev.Sound →
      let d1 := (((s.dev.bumpF Reg.SPN_OBS_MISSED 1).setF Reg.SPN_EVENT_OBS_LOST 1).bumpF Reg.SPN_CNT_OBS_LOST 1).setF
        Reg.SPN_OBS_MISSED 0
      let d2 := d1.event Ev.spindle .spn (d1.reg Reg.SPN_EVENT).toNat (d1.reg Reg.SPN_SPEED).toNat
      exec .missedCrossing s = s.next (((d2.setF Reg.SPN_STATUS_STATE 7).setF Reg.SPN_STATUS_SRC 0).onSpn fun x =>
        { x with amps := 0, catching := some true, confirmed := 0 })) ∧
    -- after the coast the drive catches on the fly; without a catch in 50 ms it restarts from sensing
    (s.dev.spnState = 7 → s.dev.spn.catching = some true →
      exec .coastEnd s = s.next (((s.dev.setF Reg.SPN_STATUS_STATE 5).setF Reg.SPN_STATUS_SRC 0).onSpn fun x =>
        { x with catching := some true, confirmed := 0, amps := 0 })) ∧
    (s.dev.spnState = 5 ∨ s.dev.spnState = 7 → s.dev.spn.catching = some true →
      exec .catchTimeout s = s.next (((((s.dev.setF Reg.SPN_EVENT_RESTART 1).bumpF Reg.SPN_CNT_RESTART 1).setF
          Reg.SPN_STATUS_STATE 1).setF Reg.SPN_STATUS_SRC 0).onSpn fun x =>
        sensing x)) ∧
    -- a step edge on the observer at speed: the next step, the measured speed and its error, no inhibit within 1 %
    (∀ sixthNs, s.dev.Sound → s.dev.spnState = 6 → s.dev.f Reg.SPN_STATUS_SRC = 2 → s.dev.src = 1 →
      s.dev.f Reg.SPN_COMM_MAP_ALIGNED = 0 → s.dev.f Reg.SPN_STATUS_INHIBIT = 0 → 476838 ≤ sixthNs → s.dev.targetSpeed ≠ 0 →
      let v : Nat := 1000000000000 / sixthNs
      let t : Nat := s.dev.targetSpeed
      let ppm : Int := Int.tdiv (((v : Int) - t) * 1000000) t
      ppm.natAbs ≤ 10000 →
      let d1 := s.dev.onSpn fun x => { x with step := (x.step + 1) % 6, edge := (x.edge + 1) % 36, edges := [], afterStep := x.afterStep - 1 }
      let d2 := (((d1.setF Reg.SPN_TARGET_SPEED t).setF Reg.SPN_SPEED_SPEED v).setF Reg.SPN_ERR_PPM (unsigned 24 ppm)).setF
        Reg.SPN_STATUS_AT_SPEED 1
      let d3 := d2.onSpn fun x => { x with goodRun := if ppm.natAbs ≤ 2000 then x.goodRun + 1 else 0 }
      exec (.commutationStep sixthNs) s = s.next (d3.regulate ppm).armEdge) ∧
    -- at rest: no commutation, the speed reads 0, and with no head loaded the clock stops; RUN 0 shows target 0
    (s.dev.spnState = 7 ∨ s.dev.spnState = 8 → s.dev.f Reg.SPN_CTL_RUN = 0 →
      let d1 := ((((s.dev.setF Reg.SPN_STATUS_STATE 0).setF Reg.SPN_STATUS_SRC 0).setF Reg.SPN_SPEED_SPEED 0).setF
        Reg.SPN_STATUS_AT_SPEED 0).onSpn fun x => { x with catching := none, edges := [], agreeing := 0 }
      let d2 := if s.dev.loadState .a0 = 2 ∨ s.dev.loadState .a1 = 2 then d1 else d1.setF Reg.TICK_STATUS_SRC 0
      exec .spindleStopped s = s.next (d2.setF Reg.SPN_TARGET_SPEED 0))

/-- Seeks (R282 to R288, R303): a request taken up or kept waiting, the decision, the trajectory and its end. -/
def Obligations.ServoSeeks : Prop :=
  ∀ (s : State) (a : Act), s.dev.hasAct a = true →
    -- a request that arrives while a trajectory runs or is due waits for its end (R288)
    (∀ p ∈ [(Instr.servoReqSeek, 0), (Instr.servoReqSelect, 1)], ∀ h x, h < 16 → (s.dev.blk.get a).plank.bind = some x →
      let r : ServoReq := { darg := p.2, head := h, band := x.band, track := x.track, write := (s.dev.blk.get a).writing }
      s.dev.keepsSettled a r = false → (s.dev.srv.get a).traj.isSome ∨ (s.dev.srv.get a).due.isSome →
      exec (p.1 a h) s = s.next (s.dev.onSrv a fun v => { v with waitReq := some r, settled := false })) ∧
    -- a request that the last wedges already meet keeps its settled state (R282)
    (∀ p ∈ [(Instr.servoReqSeek, 0), (Instr.servoReqSelect, 1)], ∀ h x, h < 16 → (s.dev.blk.get a).plank.bind = some x →
      let r : ServoReq := { darg := p.2, head := h, band := x.band, track := x.track, write := (s.dev.blk.get a).writing }
      s.dev.keepsSettled a r = true →
      exec (p.1 a h) s = s.next ((s.dev.aim a r).onSrv a fun v => { v with req := some r })) ∧
    -- with a valid position and the head kept, the distance decides at once: settle within SHORT, else a trajectory (R283)
    (∀ p ∈ [(Instr.servoReqSeek, 0), (Instr.servoReqSelect, 1)], ∀ h x pos, h < 16 → (s.dev.blk.get a).plank.bind = some x →
      let r : ServoReq := { darg := p.2, head := h, band := x.band, track := x.track, write := (s.dev.blk.get a).writing }
      let d1 := s.dev.onSrv a fun v => { v with req := some r, late := 0, gaveUp := false, settled := false, waitReq := none }
      let d2 := d1.aim a r
      s.dev.keepsSettled a r = false → (s.dev.srv.get a).traj = none → (s.dev.srv.get a).due = none → s.dev.head a = h →
      s.dev.f (Reg.SRV_STATUS_PES_VALID.on a) = 1 → (s.dev.srv.get a).pos = some pos → (d2.srv.get a).pos = some pos →
      exec (p.1 a h) s = s.next
        (if ((d2.srv.get a).target - pos).natAbs ≤ 65536 * d2.f (Reg.SRV_SEEK_CFG_SHORT.on a) then
          ((d2.onSrv a fun v => { v with deciding := false }).onSrv a fun v => { v with ref := v.target }).enterSettle a
         else (((d2.onSrv a fun v => { v with deciding := false }).setF (Reg.SRV_STATUS_MOTION.on a) 1).onSrv a fun v =>
          { v with due := some false, settled := false }).masterCheck)) ∧
    -- a due trajectory runs from REF at the edge; actuator 1 waits STAGGER ticks when both would start at one edge
    ((s.dev.srv.get a).due = some true → (s.dev.srv.get a).stagger = none →
      let n := s.dev.f (Reg.SRV_SEEK_CFG_STAGGER.on .a1)
      exec (.trajectoryStart a) s = s.next
        (if a = .a1 ∧ s.dev.sharedStart ∧ n ≠ 0 then s.dev.onSrv a fun v => { v with stagger := some n }
         else (s.dev.endInjection a).onSrv a fun w =>
          { w with due := none, stagger := none, traj := some { k := 0, n := s.dev.seekTicks a ((s.dev.srv.get a).target - (s.dev.srv.get a).ref).natAbs, ref0 := (s.dev.srv.get a).ref, goal := (s.dev.srv.get a).target } })) ∧
    ((s.dev.srv.get .a1).stagger = some 0 → exec .staggerExpiry s = s.next (s.dev.runTraj .a1)) ∧
    -- a trajectory at its last tick ends in settling on its target
    (∀ t, (s.dev.srv.get a).traj = some t → t.n ≤ t.k → (s.dev.srv.get a).waitReq = none →
      exec (.trajectoryEnd a) s = s.next (((s.dev.onSrv a fun v => { v with traj := none, ref := t.goal }).setF
        (Reg.SRV_STATUS_MOTION.on a) 2).onSrv a fun v => { v with settled := false, count := 0, settleTicks := 0, skip := true }).masterCheck) ∧
    -- a settle that takes SETTLE.MAX ticks starts again once; the second time the engine's fault is reported (R287)
    (s.dev.srvMotion a = 2 → (s.dev.srv.get a).deciding = false → (s.dev.srv.get a).gaveUp = false →
      s.dev.f (Reg.SRV_SETTLE_MAX.on a) ≤ (s.dev.srv.get a).settleTicks →
      exec (.settleLate a) s = s.next
        (if (s.dev.srv.get a).late = 0 then s.dev.onSrv a fun v => { v with late := 1, count := 0, settleTicks := 0 }
         else (s.dev.onSrv a fun v => { v with late := v.late + 1, gaveUp := true, settled := false }).reportFault (.servoEngine a) 7)) ∧
    -- the off-track inhibit ends after REQUAL good wedges (R199)
    (s.dev.f (Reg.WAS_WR_CFG_REQUAL.on a) ≤ (s.dev.wr.get a).requal →
      exec (.offtrackRequalified a) s = s.next (s.dev.release a 0x1))

/-- The servo engine's wedge and its test functions (R249 to R256, R266, R272, R275 to R279): a servo field, an injection, a
transfer and the capture memories. -/
def Obligations.ServoWedgeAndCapture : Prop :=
  ∀ (s : State) (a : Act), s.dev.hasAct a = true →
    -- a wedge without a valid position, outside automatic mode: PES is not valid, the miss counted, then the off-track decision,
    -- the engine, the settle count, the position's decisions, and capture, in this order
    (∀ o, let d1 := s.dev.demod a o
      let d2 := d1.onSrv a fun v => { v with transfer := v.transfer.map fun n => n + 1 }
      let d3 := (((((d2.offTrack a).engine a o false).settleWedge a).onPosition a).capTriggers a).capSample a o
      let slow := s.dev.backEmf a o
      let low := !(bfOfInt 0 (signed 16 (s.dev.f (Reg.SRV_LOAD_VEL_UNLOAD.on a))).natAbs 21).le { slow with m := slow.m.natAbs }
      d1.f (Reg.SRV_STATUS_PES_VALID.on a) = 0 →
      exec (.servoFieldEnd a o) s = s.next (d3.onSrv a fun v =>
        { v with slowTicks := if low && decide (d3.loadState a = 3) then v.slowTicks + 1 else 0 })) ∧
    -- a valid position ends a waiting transfer to automatic with the engine's first tick
    (∀ o, let d1 := s.dev.demod a o
      let d3 := ((((((d1.transferNow a).offTrack a).engine a o true).settleWedge a).onPosition a).capTriggers a).capSample a o
      let slow := s.dev.backEmf a o
      let low := !(bfOfInt 0 (signed 16 (s.dev.f (Reg.SRV_LOAD_VEL_UNLOAD.on a))).natAbs 21).le { slow with m := slow.m.natAbs }
      d1.f (Reg.SRV_STATUS_PES_VALID.on a) = 1 → (d1.srv.get a).transfer.isSome = true →
      exec (.servoFieldEnd a o) s = s.next (d3.onSrv a fun v =>
        { v with slowTicks := if low && decide (d3.loadState a = 3) then v.slowTicks + 1 else 0 })) ∧
    -- an injection starts with a fresh generator and triggers a capture of kind 1
    (s.dev.f (Reg.SRV_INJ_CTL_EN.on a) = 1 → (s.dev.srv.get a).inj = none → s.dev.srvMode a ≠ 0 → (s.dev.blk.get a).writing = false →
      exec (.injectionStart a) s = s.next ((s.dev.onSrv a fun v =>
        { v with inj := some { phase := 0, inc := s.dev.f (Reg.SRV_INJ_F0_INC.on a), lfsr := 0xFFFFF, held := 0 } }).capTrigger a 1)) ∧
    -- a transfer without a valid position in PES_MISS_MAX ticks fails and leaves the mode in force
    (∀ n, (s.dev.srv.get a).transfer = some n → (s.dev.srv.get a).loading = none → s.dev.f (Reg.SRV_DEMOD_CFG_PES_MISS_MAX.on a) ≤ n →
      exec (.transferTimeout a) s = s.next (((s.dev.onSrv a fun v => { v with transfer := none }).setF
        (Reg.SRV_STATUS_XFER_FAIL.on a) 1).setF (Reg.SRV_MODE_MODE.on a) (s.dev.srvMode a))) ∧
    -- in safe mode a capture is armed from an empty memory; outside it the write is ignored
    (∀ mode trig pre,
      let d1 := (((s.dev.setF (Reg.SRV_CAP_CTL_MODE.on a) mode).setF (Reg.SRV_CAP_CTL_TRIG.on a) trig).setF (Reg.SRV_CAP_CTL_PRE.on a) pre).setReg
        (Reg.SRV_CAP_STATUS + 0x10000 * a.idx) 0
      exec (.capCtlArm a mode trig pre) s = s.next
        (if s.dev.safe then (d1.onSrv a fun v => { v with cap := { on := true, left := none, samples := [] } }).capTrigger a 0
         else s.dev.ignoredWrite (Reg.SRV_CAP_CTL + 0x10000 * a.idx))) ∧
    -- in safe mode a running capture stops, done, with what it holds
    (s.dev.safe = true → (s.dev.srv.get a).cap.on = true →
      exec (.capCtlAbort a) s = s.next ((s.dev.onSrv a fun v => { v with cap := { v.cap with on := false } }).setF
        (Reg.SRV_CAP_STATUS_DONE.on a) 1)) ∧
    -- a read answers the sample the index names, oldest first, and moves the index on
    (∀ who p, (s.dev.srv.get a).cap.samples.reverse[s.dev.f (Reg.SRV_CAP_RD_INDEX.on a)]? = some p →
      exec (.capDataRead a who false) s = s.next (((s.dev.answer who (match s.dev.f (Reg.SRV_CAP_RD_MEM.on a) with
          | 0 => p.1 | 1 => p.2.1 | _ => p.2.2)).setF (Reg.SRV_CAP_RD_INDEX.on a) (s.dev.f (Reg.SRV_CAP_RD_INDEX.on a) + 1)).tookFree))

/-- Loading, unloading and losing position (R293, R297 to R299, Table 23.1). -/
def Obligations.HeadLoadAndUnload : Prop :=
  ∀ (s : State) (a : Act), s.dev.hasAct a = true →
    -- a load request with its conditions met selects the head and starts the load: ramp mode at the load velocity, STATE 1
    (∀ h, h < 16 →
      let d0 := s.dev.onSrv a fun v => { v with settled := false, loadTries := 0 }
      let d1 := d0.servoHead a h
      let d2 := (((d1.modeManual a 1).setF (Reg.SRV_MAN_CUR_CUR.on a) (d1.f (Reg.SRV_LOAD_VEL_LOAD.on a))).setLoad a 1).release a 0xC
      s.dev.mayLoad a = true →
      exec (.servoReqLoad a h) s = s.next (d2.onSrv a fun v => { v with loading := some 0, transfer := some 0, hunt := 1, strong := true, pos := none, prev := none, rro := none, reacq := none, shockRun := 0, unloadReq := false })) ∧
    -- a load that its conditions forbid leaves one event
    (∀ h, h < 16 → s.dev.mayLoad a = false →
      exec (.servoReqLoad a h) s = s.next ((s.dev.onSrv a fun v => { v with settled := false, loadTries := 0 }).loadEvent a)) ∧
    -- an unload request: ramp mode at the unload velocity, STATE 3; an actuator on the ramp is settled at once
    (s.dev.loadState a ≠ 0 → s.dev.loadState a ≠ 4 →
      let d1 := ((s.dev.modeManual a 1).setF (Reg.SRV_MAN_CUR_CUR.on a) (s.dev.f (Reg.SRV_LOAD_VEL_UNLOAD.on a))).setLoad a 3
      exec (.servoReqUnload a) s = s.next ((d1.onSrv a fun v =>
          { v with slowTicks := 0, latch := none, loading := none, reacq := none, unloadReq := false }).onSrv a fun v => { v with unloadReq := true })) ∧
    (s.dev.loadState a = 0 ∨ s.dev.loadState a = 4 →
      exec (.servoReqUnload a) s = s.next (s.dev.onSrv a fun v => { v with settled := true })) ∧
    -- a load that takes LOAD_MAX fails: counted, unloaded, one event; the third failure is a servo fault
    (∀ n, (s.dev.srv.get a).loading = some n → s.dev.f (Reg.SRV_LOAD_TIME_LOAD_MAX.on a) ≤ n →
      let tries := (s.dev.srv.get a).loadTries + 1
      let d1 := (((s.dev.bumpF (Reg.SRV_LOAD_STATUS_FAILS.on a) 1).unload a).onSrv a fun v => { v with loadTries := tries }).loadEvent a
      exec (.loadTimeout a) s = s.next
        (if 3 ≤ tries then (d1.reportFault (.servoEngine a) 7).emergencyPark a else d1)) ∧
    -- an unload at rest latches: manual current 0 for LATCH ticks, then mode off and STATE 0
    (s.dev.loadState a = 3 → (s.dev.srv.get a).latch = none → 4 ≤ (s.dev.srv.get a).slowTicks →
      exec (.unloadVelocityLow a) s = s.next ((((s.dev.setF (Reg.SRV_MODE_MODE.on a) 1).setF (Reg.SRV_MODE_MSUB.on a) 0).setF
        (Reg.SRV_STATUS_MODE_NOW.on a) 1).onSrv a fun v => { v with latch := some 0 })) ∧
    (∀ n, (s.dev.srv.get a).latch = some n → s.dev.f (Reg.SRV_LOAD_TIME_LATCH.on a) ≤ n → (s.dev.srv.get a).loadTries = 0 →
      FUnit.servoEngine a ∉ s.dev.fmg.recovering →
      let d1 := ((s.dev.modeOff a).setLoad a 0).onSrv a fun v => { v with settled := (s.dev.srv.get a).unloadReq, unloadReq := false, slowTicks := 0 }
      exec (.latchEnd a) s = s.next d1) ∧
    -- PES_MISS_MAX lost wedges in automatic mode: the servo fault, and a hunt that reacquires
    (s.dev.srvMode a = 2 → (s.dev.srv.get a).reacq = none →
      s.dev.f (Reg.SRV_DEMOD_CFG_PES_MISS_MAX.on a) ≤ s.dev.f (Reg.SRV_STATUS_PES_MISS.on a) →
      exec (.pesMissLimit a) s = s.next ((s.dev.reportFault (.servoEngine a) 7).onSrv a fun v =>
        { v with hunt := 1, strong := true, reacq := some 0 })) ∧
    -- a reacquisition that fails parks and unloads
    (∀ n, (s.dev.srv.get a).reacq = some n → s.dev.f (Reg.SRV_SETTLE_MAX.on a) ≤ n →
      exec (.reacquisitionTimeout a) s = s.next (((s.dev.emergencyPark a).unload a).loadEvent a))

/-- Shock and the power die's retract (R294 to R296, R300 to R302). -/
def Obligations.ShockAndRetract : Prop :=
  ∀ (s : State) (a : Act), s.dev.hasAct a = true →
    -- a sensor trigger: the inhibit, the lane off, the interruption event, the count and the source
    (∀ b,
      let d1 := ((s.dev.inhibit a 0x2).laneOff a).raiseEvt a 2
      let d2 := ((d1.bumpF (Reg.SRV_SHOCK_STATUS_COUNT.on a) 1).setF (Reg.SRV_SHOCK_STATUS_SOURCE.on a) (if b then 2 else 1)).setF
        (Reg.SRV_SHOCK_STATUS_ACTIVE.on a) 1
      let d3 := d2.onSrv a fun v => { v with shockNow := true }
      exec (.shockSensorTrigger a b) s = s.next (if d3.loadState a = 1 then d3.unload a else d3)) ∧
    -- after HOLD quiet ticks the inhibit ends
    (s.dev.f (Reg.SRV_SHOCK_CFG_HOLD.on a) ≤ (s.dev.srv.get a).shockQuiet → s.dev.inhibited a 0x2 = true →
      exec (.shockClear a) s = s.next ((s.dev.release a 0x2).setF (Reg.SRV_SHOCK_STATUS_ACTIVE.on a) 0)) ∧
    -- shocks for PARK_TICKS park the heads
    (s.dev.f (Reg.SRV_SHOCK_CFG_PARK.on a) = 1 → s.dev.f (Reg.SRV_SHOCK_CFG_PARK_TICKS.on a) ≤ (s.dev.srv.get a).shockRun →
      s.dev.loadState a = 1 ∨ s.dev.loadState a = 2 →
      exec (.shockPark a) s = s.next ((((s.dev.stopTraj a).unload a).inhibit a 0xC).setF (Reg.SRV_SHOCK_STATUS_PARKED.on a) 1)) ∧
    -- a retract by GO (cause 2) or by missing command frames (cause 4) starts when none runs; a running one ignores it
    (∀ p ∈ [(Instr.pwrRetGo, 2), (Instr.commandFrameTimeout a, 4)], s.dev.loadState a = 2 → s.dev.pd.retract = none →
      let d1 := { s.dev with pd := { s.dev.pd with retract := some 0, notice := true, moving := ⟨s.dev.offRamp .a0, s.dev.offRamp .a1⟩ } }
      exec p.1 s = s.next (((((d1.setF Reg.PWR_RET_STATUS_VALID 1).setF Reg.PWR_RET_STATUS_ACTIVE 1).setF
        Reg.PWR_RET_STATUS_CAUSE p.2).setF Reg.PWR_RET_STATUS_DONE 0).bumpF Reg.PWR_RET_STATUS_COUNT 1)) ∧
    (∀ i ∈ [Instr.pwrRetGo, Instr.commandFrameTimeout a], s.dev.pd.retract.isSome = true → exec i s = s.next s.dev) ∧
    -- its velocity phase ends, then its latch phase: the moved actuators are shown done
    (s.dev.pd.retract = some 0 →
      exec .retractRegulationEnd s = s.next { s.dev with pd := { s.dev.pd with retract := some 1 } }) ∧
    (s.dev.pd.retract = some 1 →
      exec .retractLatchEnd s = s.next (({ s.dev with pd := { s.dev.pd with retract := none } }.setF
        Reg.PWR_RET_STATUS_ACTIVE 0).setF Reg.PWR_RET_STATUS_DONE (flag s.dev.pd.moving.a0 + 2 * flag s.dev.pd.moving.a1)))

/-- The heater and the assist lane (R196, R205 to R217): steps, pre-bias, operate, off and the unwind that follows. -/
def Obligations.HeaterAndAssistLane : Prop :=
  ∀ (s : State) (a : Act), s.dev.hasAct a = true →
    -- a heater step on the selected head sends its code when it differs; during an unwind only the target changes
    (∀ st, st < 16 →
      let h := s.dev.head a
      let d1 := s.dev.onWr a fun w => { w with step := sset 0 w.step h st }
      let c := d1.heaterCode a h
      exec (.heater a st) s = s.next
        (if s.dev.unwinding a h ∨ sget 0 (s.dev.wr.get a).code h = c then d1
         else (d1.onWr a fun w => { w with code := sset 0 w.code h c }).launch a 0x4 (256 * h + c))) ∧
    -- the back-off before an armed pre-bias: BO_PRE in force, and its stamp is used up
    (s.dev.hasAssist a = true → s.dev.asType a (s.dev.head a) ≠ 0 →
      let h := s.dev.head a
      let w := s.dev.asTable a h (s.dev.boundZone a) (s.dev.assist.get a).band 3
      let d1 := ((s.dev.onAssist a fun l => { l with backOffBegun := true }).setBo a h (bits w 31 24)).sendHeater a h
      exec (.backOffStart a) s = s.next
        { d1 with clock := { d1.clock with stamps := d1.clock.stamps.filter fun t => decide (t.owner ≠ .backOff a) } }) ∧
    -- pre-bias from a good record: the record of the temperature band is latched, the lane ramps to SP_BIAS with BO_PRE
    (s.dev.hasAssist a = true → s.dev.asType a (s.dev.head a) ≠ 0 → (s.dev.tnl.get a).rampDue = false →
      let h := s.dev.head a
      let b := (s.dev.assist.get a).band
      let words := (List.range 8).map fun i => s.dev.asTable a h (s.dev.boundZone a) b i
      let d1 := s.dev.onAssist a fun l => { l with record := ssetList 0 [] 0 words, recBad := false, sincePre := 0, idle := 0, backOffBegun := false }
      let d2 := ((d1.setF (Reg.WAS_AS_STATUS_STATE.on a) 1).setF (Reg.WAS_AS_STATUS_HEAD.on a) h).setF (Reg.WAS_AS_STATUS_BAND.on a) b
      let v := bits (words.getD 1 0) 25 16
      let d3 := (d2.setF (Reg.WAS_AS_STATUS_LEVEL.on a) v).launch a 0x3 (1024 * 1 + v % 1024)
      exec (.preBias a .good) s = s.next
        (((d3.onWr a fun w => { w with unwind := sset 0 w.unwind h 0 }).setBo a h (bits (words.getD 3 0) 31 24)).sendHeater a h)) ∧
    -- a pre-bias whose PA_RAMP write is not yet acknowledged waits for it
    (∀ f, s.dev.hasAssist a = true → (s.dev.tnl.get a).rampDue = true →
      exec (.preBias a f) s = s.next (s.dev.onTnl a fun t => { t with preHeld := some f })) ∧
    -- operate: a lane in pre-bias is operate-armed with BO_OP
    (s.dev.hasAssist a = true → s.dev.asType a (s.dev.head a) ≠ 0 → s.dev.asState a ≠ 0 →
      exec (.operate a false) s = s.next (((s.dev.setF (Reg.WAS_AS_STATUS_STATE.on a) 2).setBo a (s.dev.head a)
        (bits (s.dev.asWord a 3) 23 16)).sendHeater a (s.dev.head a))) ∧
    -- off, by a word or by itself after PRELEAD + PB_HOLD idle ticks: level 0, and a head with back-off unwinds
    (s.dev.hasAssist a = true → s.dev.asState a ≠ 0 →
      let d1 := (((s.dev.setF (Reg.WAS_AS_STATUS_STATE.on a) 0).setF (Reg.WAS_AS_STATUS_LEVEL.on a) 0).launch a 0x3 0).startUnwind a
        (s.dev.asHead a)
      let d2 := d1.onAssist a fun l => { l with record := [], backOffBegun := false, operated := false, frameDue := false }
      exec (.assistOff a) s = s.next d2 ∧
        (s.dev.asPrelead a (s.dev.asHead a) + s.dev.asPbHold a (s.dev.asHead a) ≤ (s.dev.assist.get a).idle →
          exec (.assistSelfOff a) s = s.next (d2.assistFault a 3))) ∧
    -- an unwind takes two tick edges: half of the way, then the rest
    (∀ h, sget 0 (s.dev.wr.get a).unwind h = 2 →
      let goal := s.dev.heaterCodeBo a h 0
      let now := sget 0 (s.dev.wr.get a).code h
      exec (.unwindStep a h) s = s.next ((s.dev.onWr a fun w => { w with unwind := sset 0 w.unwind h 1 }).sendCode a h
        (if now ≤ goal then now + (goal - now) / 2 else now - (now - goal) / 2))) ∧
    (∀ h, sget 0 (s.dev.wr.get a).unwind h = 1 →
      exec (.unwindStep a h) s = s.next ((s.dev.onWr a fun w => { w with unwind := sset 0 w.unwind h 0 }).sendCode a h
        (s.dev.heaterCodeBo a h 0)))

/-- The assist loop's watches, aging and head health (R212 to R214, R217, R220 to R222). -/
def Obligations.AssistLoopAndHeadHealth : Prop :=
  ∀ (s : State) (a : Act), s.dev.hasAct a = true →
    -- eight ticks in a row at ILIM: an assist fault of kind 1 and the lane off; a write in progress takes a write fault
    (8 ≤ (s.dev.assist.get a).ilimRun →
      let d1 := (s.dev.assistFault a 1).laneOff a
      exec (.assistIlimLimit a) s = s.next ((if (d1.blk.get a).writing then d1.writeFault a 0xA else d1).onAssist a fun l =>
        { l with ilimRun := 0 })) ∧
    -- a frame after a tick that operated moves the trim by the loop; the integral and the aging sums follow
    (∀ nft, nft < 256 → (s.dev.assist.get a).frameDue = true → (s.dev.assist.get a).operatedBefore = true →
      let l0 := s.dev.assist.get a
      let level := s.dev.operateLevel a
      let diff := if nft < l0.prevNft then l0.prevNft - nft else nft - l0.prevNft
      diff ≤ bits (s.dev.asWord a 4) 23 16 →
      let d1 := (s.dev.setF (Reg.WAS_AS_LOOP_NFT.on a) nft).onAssist a fun l => { l with frameDue := false, lostRun := 0, prevNft := nft, prevLevel := level }
      let u := s.dev.loopUpdate a nft
      let atLim := decide ((s.dev.asIlim a (s.dev.asHead a) : Int) ≤ (s.dev.spOp a : Int) + u.2)
      exec (.temperatureFrame a nft) s = s.next ((d1.setF (Reg.WAS_AS_LOOP_TRIM.on a) (unsigned 16 u.2)).onAssist a fun l =>
        { l with integral := u.1, ilimRun := if atLim then l.ilimRun + 1 else 0, trimSum := l.trimSum + u.2, trimTicks := l.trimTicks + 1 })) ∧
    -- a lost frame is counted and the trim holds; the third in a row while operating is an assist fault of kind 2
    ((s.dev.assist.get a).frameDue = true → (s.dev.assist.get a).lostRun < 2 →
      let n := if (s.dev.assist.get a).operatedBefore then (s.dev.assist.get a).lostRun + 1 else (s.dev.assist.get a).lostRun
      exec (.temperatureFrameLost a) s = s.next ((s.dev.bumpF (Reg.TNL_TEMP_MISS_COUNT.on a) 1).onAssist a fun l =>
        { l with frameDue := false, lostRun := n })) ∧
    -- aging: below the threshold the sums only start again; from it on, one adaptation commit moves SP_OP and the integral together
    (∀ h, let n := 2 ^ s.dev.f (Reg.WAS_AGE_CFG_AGE_LOG2.on a)
      let mean := Int.tdiv (s.dev.assist.get a).trimSum (n : Nat)
      let d0 := s.dev.onAssist a fun l => { l with trimSum := 0, trimTicks := 0 }
      s.dev.hasAssist a = true → n ≤ (s.dev.assist.get a).trimTicks →
      (mean.natAbs < s.dev.f (Reg.WAS_AGE_CFG_AGE_THR.on a) → exec (.agingCompensation a h) s = s.next d0) ∧
      (s.dev.f (Reg.WAS_AGE_CFG_AGE_THR.on a) ≤ mean.natAbs →
        ((s.dev.assistRecs a h).all fun p => s.dev.assistRecOk a h (agedWord (s.dev.asTable a h p.1 p.2 1) mean)
          (s.dev.asTable a h p.1 p.2 2) (s.dev.asTable a h p.1 p.2 3) (s.dev.asTable a h p.1 p.2 4)) = true →
        let d1 := { d0 with conf := { d0.conf with adaptPending := d0.conf.adaptPending ++ (s.dev.assistRecs a h).map fun p => s.dev.ageSet a h mean p } }
        exec (.agingCompensation a h) s = s.next ((d1.onAssist a fun l => { l with ageShift := mean * 256 }).onWr a fun w =>
          { w with health := sset Health.fresh w.health h { sget Health.fresh w.health h with aging := (sget Health.fresh w.health h).aging + mean } }))) ∧
    -- a head's score is shown with its warning; a score at or below FAIL fails the head
    (∀ h, h < s.dev.conf.nh →
      let sc := 255 - (s.dev.penalties a h).sum
      let warn := decide (sc ≤ s.dev.f (Reg.WAS_HH_THR_WARN.on a))
      let d1 := (s.dev.setF ((Reg.WAS_HH_SCORE.nth h).on a) sc).setF ((Reg.WAS_HH_WARN.nth h).on a) (flag warn)
      let d2 := if warn && decide (s.dev.f ((Reg.WAS_HH_WARN.nth h).on a) = 0) then d1.raiseAll .headHealth else d1
      exec (.headHealthUpdate a h) s = s.next
        (if decide (sc ≤ s.dev.f (Reg.WAS_HH_THR_FAIL.on a)) || s.dev.noReader a h || (sget Health.fresh (s.dev.wr.get a).health h).noValue
         then d2.headFailing a h else d2))

/-- The Tenil link (R232 to R244): the fault line, control transactions and retraining. -/
def Obligations.TenilLink : Prop :=
  ∀ (s : State) (a : Act), s.dev.hasAct a = true →
    -- the fault line falls: inhibit PREAMP, the causes latched and reported, the lane off, the settings restored, the causes cleared
    (∀ causes persist o, causes < 2048 → causes &&& 0x5FB ≠ 0 → testBit causes 10 = false →
      let d1 := ((s.dev.preampActs a causes).onTnl a fun t => { t with lineLow := true }).setF (Reg.TNL_STATUS_FAULT_IN.on a) 1
      let d2 := (d1.inhibit a 0x5).latchCauses a causes
      let d3 := if causes &&& 0x5F8 ≠ 0 then d2.laneOff a else d2
      exec (.faultLine a causes persist o) s = s.next
        (((d3.restoreHead a).paWrite a Reg.PA_STATUS causes).setPaF a Reg.PA_STATUS_CAUSE (persist &&& causes))) ∧
    -- the line rises again: the inhibit ends once PA_STATUS reads 0
    ((s.dev.tnl.get a).lineLow = true → s.dev.paCauses a = 0 →
      exec (.faultLineRelease a) s = s.next (((s.dev.onTnl a fun t => { t with lineLow := false }).setF
        (Reg.TNL_STATUS_FAULT_IN.on a) 0).release a 0x5)) ∧
    -- a line that stays low without a cause fails the link: no gate opens afterwards, and the fault manager is told
    ((s.dev.tnl.get a).lineLow = true → s.dev.paCauses a = 0 →
      exec (.faultLineStuck a) s = s.next (((((s.dev.setF (Reg.TNL_STATUS_FAILED.on a) 1).setF (Reg.TNL_STATUS_TRAINING.on a) 0).setF
        (Reg.TNL_STATUS_CTL_UP.on a) 0).closeWrite a).reportFault (.tenil a) 7)) ∧
    -- the waiting transaction of the highest priority starts
    (∀ r, (s.dev.tnl.get a).flight = none → s.dev.ctlFits a = true → s.dev.f (Reg.TNL_STATUS_CTL_UP.on a) = 1 →
      bestCtl (s.dev.ctlReady a) (s.dev.tnl.get a).queue = some r →
      exec (.controlRequest a) s = s.next (s.dev.onTnl a fun t => { t with flight := some r, queue := t.queue.erase r })) ∧
    -- a good response to a pass-through read of a known register: the result is shown, and the lane is free
    (∀ r o, (s.dev.tnl.get a).flight = some r → r.prio = 4 → r.read = true → r.addr ≤ 4 → s.dev.paCauses a = 0 →
      exec (.controlResponse a .good o) s = s.next ((s.dev.setReg (Reg.TNL_PA_RESULT + 0x10000 * a.idx)
        (BitVec.ofNat 32 (2 ^ 31 + (s.dev.pa a r.addr).toNat % 65536))).onTnl a fun t => { t with flight := none, failRun := 0 })) ∧
    -- a lost response: counted, and tried again within RETRY
    (∀ r o, (s.dev.tnl.get a).flight = some r → r.tries < s.dev.f (Reg.TNL_CTL_CFG_RETRY.on a) →
      exec (.responseLost a o) s = s.next ((s.dev.bumpF (Reg.TNL_ERR_CNT_CTL_LOST.on a) 1).onTnl a fun t =>
        { t with flight := none, queue := { r with tries := r.tries + 1 } :: t.queue })) ∧
    -- in safe mode PA_ACC.GO queues a pass-through access; outside it the write is ignored with one event
    (∀ w, exec (.paAccGo a w) s = s.next
      (if s.dev.safe then
        ((s.dev.setReg (Reg.TNL_PA_ACC + 0x10000 * a.idx) (w &&& 0x7F80FFFF#32)).setF (Reg.TNL_PA_RESULT_DONE.on a) 0).onTnl a fun t =>
          { t with queue := t.queue ++ [{ prio := 4, read := decide (bits w 30 30 = 1), addr := bits w 29 23, data := bits w 15 0, tries := 0 }] }
       else s.dev.ignoredWrite (Reg.TNL_PA_ACC + 0x10000 * a.idx))) ∧
    -- a retrain ordered in safe mode is counted and trains the link; the third within one second fails it
    (∀ o, s.dev.safe = true → s.dev.f (Reg.TNL_STATUS_FAILED.on a) = 0 →
      let recent := (s.dev.tnl.get a).retrains.filter fun t => decide (s.dev.instantNs < t + 1000000000)
      let d1 := (s.dev.bumpF (Reg.TNL_ERR_CNT_RETRAIN.on a) 1).onTnl a fun t => { t with retrains := s.dev.instantNs :: recent, failRun := 0 }
      exec (.tnlRetrainGo a o) s = s.next (if 2 ≤ recent.length then d1.failLink a else d1.train a o))

/-- Detection and the retry ladder (R170, R171, R176, R179, R188, R191, R364, R365): decodes, rung ends and reconstruction. What
waits for the outcome goes on at once (`settle`). -/
def Obligations.DetectionAndLadder : Prop :=
  ∀ (s : State) (a : Act),
    -- HOLD_SAMPLES closes every pending and held buffer to capture
    exec (.holdSamples a) s = s.next (s.dev.onDet a fun t => { t with
      holdSamples := true, bufs := t.bufs.map fun b => if b.st = .pending ∨ b.st = .held then { b with closed := true } else b }) ∧
    -- a waiting rung 0 decode starts before any replay when its decoders are free: all four for a long codeword, one for a short one
    (∀ r, ((s.dev.det.get a).ready.find? fun r => decide (r.rung = 0)) = some r →
      (s.dev.det.get a).slices + (if r.conv then 1 else 4) ≤ 4 → r.rung = 0 →
      exec (.decodeStart a) s = s.next (s.dev.onDet a fun t =>
        let t1 := { t with ready := t.ready.erase r, decodes := t.decodes ++ [r] }
        match t1.bufOf r.tag r.slot with
        | none => t1
        | some i => t1.setBuf i .pending r.tag r.slot)) ∧
    -- a rung 0 decode that passes every check of the record is delivered and counted; one that fails goes to the ladder
    (∀ tag slot e r m, ((s.dev.det.get a).decodes.find? fun r => decide (r.tag = tag ∧ r.slot = slot)) = some r → r.rung = 0 →
      s.dev.mediaAt r.band r.pos = some m →
      let d0 := s.dev.onDet a fun t => { t with decodes := t.decodes.erase r }
      let good := e.zeroSyndrome && e.crcGood && !r.cut && s.dev.placedAt r.band r.pos m
      exec (.decodeDone a tag slot e) s = s.next
        (if good then ((d0.secondEnds a r true e).deliverRec a r 0 0 0 e).contribute a r else d0.failRung0 a r).settle) ∧
    -- a rung whose cost has elapsed ends; past the last rung the record is unrecovered and the next record's ladder starts
    (∀ r, (s.dev.det.get a).active = some r →
      let d1 := (s.dev.leaveRung a r).onDet a fun t => t.dropAttempts r
      d1.nextRung r.plan r.rung r.noback = none →
      exec (.rungCostElapsed a) s = s.next ((d1.unrecovered a r).ladderFree a).settle) ∧
    (∀ r k, (s.dev.det.get a).active = some r →
      let d1 := (s.dev.leaveRung a r).onDet a fun t => t.dropAttempts r
      d1.nextRung r.plan r.rung r.noback = some k →
      exec (.rungCostElapsed a) s = s.next
        (if ((d1.enterRung a r k).det.get a).active.isSome then d1.enterRung a r k else (d1.enterRung a r k).ladderFree a).settle) ∧
    -- a reconstruction whose sources were all read delivers the record with its poison at rung 7
    (∀ tag o r z b plan, ((s.dev.det.get a).recon.find? fun r => decide (r.tag = tag)) = some r →
      let d0 := s.dev.onDet a fun t => { t with recon := t.recon.erase r }
      d0.zoneOfBand r.band = some z → boltAt (slipsInForce (d0.slipsOf r.band)) r.pos = some b →
      d0.locate z b = some plan → d0.reconCause (some plan) o = none →
      let d1 := d0.bumpF Reg.FLT_CNT_RECON_OK 1
      let d2 := { d1 with felt := { d1.felt with solved := d1.solveBytes plan o } }
      let healthy := match d2.band r.band with | none => false | some x => !sget false d2.felt.lost x.surface
      exec (.reconstruction a tag o) s = s.next (d2.deliverRec a r 7 2 o.poison
        { zeroSyndrome := true, crcGood := true, globals := 0, locals := 0, offset := false, weak := healthy }).settle) ∧
    -- a reconstruction not solved within its bound fails, and the record is unrecovered
    (∀ tag r z, ((s.dev.det.get a).recon.find? fun r => decide (r.tag = tag)) = some r →
      let d0 := s.dev.onDet a fun t => { t with recon := t.recon.erase r }
      d0.zoneOfBand r.band = some z →
      exec (.reconstructionBound a tag) s = s.next ((d0.reconFailed z 3).unrecovered a r).settle)

/-- The channel front end (R134, R151 to R158): the synthesizer, adaptation averages, and failed readers and lanes. -/
def Obligations.ChannelFrontEnd : Prop :=
  ∀ (s : State) (a : Act), s.dev.hasAct a = true →
    ((s.dev.chn.get a).key.isSome = true → (s.dev.chn.get a).synthOff = false →
      exec (.synthLocked a) s = s.next (s.dev.setF (Reg.AFE_SYN_STATUS_LOCKED.on a) 1)) ∧
    -- a completed average moves into the buffer of two with its drift flags; a third is dropped and counted
    (∀ ws k, (s.dev.chn.get a).key = some k →
      2 ^ s.dev.f (Reg.CHN_ADAPT_CTL_AVG_LOG2.on a) ≤ s.dev.f (Reg.CHN_ADAPT_STATUS_ACCUM.on a) →
      let d1 := s.dev.setF (Reg.CHN_ADAPT_STATUS_ACCUM.on a) 0
      let v : Average := { head := k.1, rzone := k.2, rgen := bits (s.dev.rzWord a k.1 k.2 0) 11 0, words := ws, drift := s.dev.driftFlags a k.1 k.2 ws }
      exec (.averageComplete a ws) s = s.next
        (if 2 ≤ (s.dev.chn.get a).averages.length then d1.bumpF (Reg.CHN_ADAPT_STATUS_DROPPED.on a) 1
         else (d1.onChn a fun c => { c with averages := c.averages ++ [v] }).showReady a)) ∧
    -- the oldest average leaves the buffer at a batch: without drift nothing is written; too many words are refused
    (∀ v vs, (s.dev.chn.get a).averages = v :: vs →
      let d1 := ((s.dev.onChn a fun c => { c with averages := vs }).showReady a).atPhase (s.dev.f Reg.CHN_WB_CFG_START)
      (v.drift = 0 → exec (.writeBackBatch a) s = s.next d1) ∧
      (v.drift ≠ 0 → s.dev.f Reg.CHN_WB_CFG_WORDS < v.entries.length →
        exec (.writeBackBatch a) s = s.next (d1.bumpF (Reg.CHN_WB_STATUS_REFUSED.on a) 1)) ∧
      -- otherwise its legal words are staged as one adaptation set
      (v.drift ≠ 0 → v.entries.length ≤ s.dev.f Reg.CHN_WB_CFG_WORDS → v.entries.length ≠ 0 →
        sget 0 s.dev.conf.readers (12 * a.idx + v.head) ≠ 0 →
        (∀ p ∈ v.entries, s.dev.legalRz a v.head p.1 p.2.2 &&& p.2.1 = p.2.2 &&& p.2.1) →
        exec (.writeBackBatch a) s = s.next { d1 with conf := { d1.conf with adaptPending := d1.conf.adaptPending ++
          [{ act := a, table := Tbl.rz a, base := 256 * (64 * v.head + v.rzone), length := 64, rgen := some v.rgen, entries := v.entries.map fun p => (256 * (64 * v.head + v.rzone) + 4 * p.1, p.2.1, s.dev.legalRz a v.head p.1 p.2.2), skip := d1.pastCutoff }] } })) ∧
    -- 16 bad fragments in a row on one head fail its reader; on a second head they fail the lane
    (∀ h e, h < 12 → e < 3 → s.dev.laneBad a h e = true → s.dev.metElsewhere a h e = false →
      let x := (Reg.AFE_RDR_FAIL_FAIL.nth h).on a
      exec (.readerFail a h e) s = s.next (s.dev.setF x (putBit (s.dev.f x) e true))) ∧
    (∀ h e, h < 12 → e < 3 → s.dev.laneBad a h e = true → s.dev.metElsewhere a h e = true →
      testBit (s.dev.f (Reg.AFE_LANE_STATUS_FAIL.on a)) e = false →
      let x := Reg.AFE_LANE_STATUS_FAIL.on a
      let d1 := (s.dev.setF x (putBit (s.dev.f x) e true)).event Ev.laneFail (.afe a) (headArg a e) 0
      exec (.laneFail a h e) s = s.next (if e = 1 then d1 else d1.setDomOn (laneDomain a e) false)) ∧
    -- a power fault of lane 1's domain stops the synthesizer and is reported; of another lane it fails the lane
    (∀ e, e = 0 ∨ e = 2 → exec (.lanePowerFault a e) s = s.next (s.dev.failLane a e)) ∧
    exec (.lanePowerFault a 1) s = s.next (((((s.dev.failLane a 1).setF (Reg.AFE_SYN_STATUS_LOCKED.on a) 0).onChn a fun c =>
      { c with synthOff := true }).setDomOn (laneDomain a 1) false).reportFault (.channelLane a) 7) ∧
    -- in safe mode a reader's FAIL bits clear where written 1, and their counts start again; outside it the write is ignored
    (∀ h m, h < 12 →
      let x := (Reg.AFE_RDR_FAIL_FAIL.nth h).on a
      exec (.laneFailClear a (some h) m) s = s.next
        (if s.dev.safe then (s.dev.setF x (s.dev.f x &&& (7 ^^^ m % 8))).onChn a fun c => c.requalify [h] m
         else s.dev.ignoredWrite (0x220040 + 4 * h + 0x10000 * a.idx)))

/-- Fragments (R109, R197, R201, R202, R582): a read or a write fragment ends, and a LAST one decides its record. -/
def Obligations.Fragments : Prop :=
  ∀ (s : State) (a : Act), s.dev.hasAct a = true →
    -- a read fragment in progress ends: placed by its marks and counted; more fragments of the record follow
    (∀ darg o r, (s.dev.blk.get a).frag = some r → r.write = false → r.entry.last = false →
      let d1 := (s.dev.onBlk a fun b => { b with frag := none, rg := false, cut := b.cut || !r.sampled }).placeFrag a r o
      exec (.readFrag a darg o) s = s.next
        (if r.sampled then (d1.countLanes a o.bad).countSaturated a o.saturated else d1).settle) ∧
    -- the LAST fragment of an ordinary read sends the record to a decoder, or down the ladder when it was cut or distrusted
    (∀ darg o r, (s.dev.blk.get a).frag = some r → r.write = false → r.entry.last = true → testBit r.darg 1 = false →
      let d1 := (s.dev.onBlk a fun b => { b with frag := none, rg := false, cut := b.cut || !r.sampled }).placeFrag a r o
      let d2 := (if r.sampled then (d1.countLanes a o.bad).countSaturated a o.saturated else d1).onBlk a fun b => { b with recOpen := none }
      let q := d2.readRec a r.band r.pos r.entry.slot
      d2.attempted a r.band r.pos = none →
      exec (.readFrag a darg o) s = s.next
        (if q.cut || q.distrust then d2.failRung0 a q else d2.onDet a fun t => { t with ready := t.ready ++ [q] }).settle) ∧
    -- a write fragment in progress ends with its gate closed; the LAST one makes the record stand
    (∀ r, (s.dev.blk.get a).frag = some r → r.write = true →
      let d1 := ((s.dev.closeWrite a).onBlk a fun b => { b with frag := none }).onWr a fun w => { w with fragsWritten := w.fragsWritten + 1 }
      exec (.writeFrag a) s = s.next (if r.entry.last then d1.recordStands a r.band r.pos else d1).settle) ∧
    -- a write gate that an active inhibit refuses is a write fault of the lowest active cause, and no fragment runs
    (∀ e p, let c := inhCause (s.dev.wr.get a).inhibits
      let d1 := s.dev.writeFault a c
      (s.dev.blk.get a).frag = none → (s.dev.wr.get a).inhibits ≠ 0 → c ≠ 0xA → (d1.blk.get a).entry = some e →
      (d1.blk.get a).place = some p → (d1.blk.get a).wg = false → (d1.blk.get a).frag = none →
      exec (.writeFrag a) s = s.next (d1.onBlk a fun b => { b with fragLast := e.last }).settle)

/-- Requests at a Blocker (R109, R110, R113, R218, R355, R585): taken, loaded, armed, checked, posted and withdrawn. -/
def Obligations.BlockerRequests : Prop :=
  ∀ (s : State) (a : Act),
    -- ACCEPT puts the next request's descriptor into G8 to G14 and starts with nothing completed
    (∀ r, s.dev.nextRequest a = some r →
      exec (.accept a) s = s.next (s.dev.onBlk a fun b =>
        let g : List (Nat × Word) := ssetList 0 b.g 8
          [BitVec.ofNat 32 (r.op * 2 ^ 28 + r.head * 2 ^ 24 + r.tag), BitVec.ofNat 32 r.band, BitVec.ofNat 32 r.track,
           BitVec.ofNat 32 (r.slot * 2 ^ 16 + r.count), BitVec.ofNat 32 r.desc,
           BitVec.ofNat 32 (r.rung * 2 ^ 28 + r.felt * 2 ^ 24), r.requester]
        { b with g := g, queue := b.queue.erase r, cur := some r, completed := 0, loadedRecs := 0, loadDue := none, stood := [], feltArmed := false, decFail := false, writeOk := decide ((s.dev.wr.get a).inhibits = 0), withdrawn := false, recOpen := none })) ∧
    -- LOAD_REC: the records of G11's count are ready
    exec (.loadRec a) s = s.next (s.dev.onBlk a fun b => { b with loadedRecs := bits (b.gr 11) 9 0 }) ∧
    -- FELT_ARM: the pair named in G13 taps the request's records
    (bits ((s.dev.blk.get a).gr 13) 27 24 ≠ 0xF → s.dev.feltReady a = true → s.dev.feltOn = true →
      exec (.feltArm a) s = s.next (s.dev.onBlk a fun b => { b with feltArmed := true })) ∧
    -- TRACE keeps a register with the program counter and the last stamp
    (∀ r, r < 16 → exec (.trace a r) s = s.next (s.dev.onBlk a fun b => { b with trace := (b.gr r, b.pc.toNat, b.lastStamp) :: b.trace })) ∧
    -- RAW_CHECK with no request in progress: the outcome counted, a mismatch counted again and shown to the microcode
    (∀ same, (s.dev.blk.get a).cur = none →
      let w := (s.dev.blk.get a).lastDecode
      let pass := same && decide (bits w 31 28 = 0) && decide (bits w 27 25 = 0) && decide (bits w 15 12 ≤ s.dev.f (Reg.WAS_RAW_CFG_MAXG.on a))
      let d1 := ((s.dev.onBlk a fun b => { b with rawMismatch := !pass }).bumpF (Reg.WAS_RAW_STATUS_CHECKS.on a) 1).noteCheck a (s.dev.head a) (!pass)
      exec (.rawCheck a same) s = s.next (if pass then d1 else d1.bumpF (Reg.WAS_RAW_STATUS_MISMATCH.on a) 1).settle) ∧
    -- POST ends the request in progress with the status in G[darg]; what a write did not write goes back to its requester
    (∀ r cur, r < 16 → (s.dev.blk.get a).cur = some cur →
      let d1 := ((((s.dev.postCut a).foldStood a).freeReqPair a cur).noteWrite a cur).reissue a cur
      exec (.post a r) s = s.next (d1.onBlk a fun b =>
        { b with posted := (cur.tag, (s.dev.blk.get a).gr r) :: b.posted, cur := none, recOpen := none, feltArmed := false }).settle) ∧
    -- a withdrawal takes its tags' requests from the queues and the ladder; the current request's naming makes the event pending
    (∀ tags, s.dev.hasAct a = true →
      let d1 := tags.foldl (fun d t => d.withdrawLadder a t) (s.dev.onBlk a fun b => { b with
        queue := b.queue.filter fun r => !decide (r.tag ∈ tags), heldReqs := b.heldReqs.filter fun r => !decide (r.tag ∈ tags) })
      exec (.queueReset a tags) s = s.next
        (if (s.dev.blk.get a).cur.any fun r => decide (r.tag ∈ tags) then (d1.onBlk a fun b => { b with withdrawn := true }).raiseEvt a 5
         else d1).settle)

/-- The Plank position (R112, R583): bind, find and advance. -/
def Obligations.PlankOperations : Prop :=
  ∀ (s : State) (a : Act), s.dev.hasAct a = true →
    let b := s.dev.blk.get a
    -- a bind of a band of this actuator with a valid table: the binding, no current entry, and its records fetched
    (∀ o r, s.dev.band (b.gr 9).toNat = some r →
      let t := s.dev.plankTable a (plankAddr (s.dev.headOf r.surface) r.rzone)
      t.version = 1 → s.dev.actOf r.surface = a →
      let x : Binding := { band := (b.gr 9).toNat, track := bits (b.gr 10) 15 0, table := 64 * r.surface + r.rzone, bitrate := t.bitrate, crate := t.crate, format := t.format, slots := t.slots, skew := r.skew, entries := t.entries }
      exec (.plankBind a o) s = s.next (((s.dev.onBlk a fun b => { b with plank := { bind := some x, cur := none } }).onDet a fun q =>
        q.partition t.format).bindRecords a (s.dev.headOf r.surface) r.rzone o)) ∧
    -- a bind of a band that does not exist binds nothing and leaves one event
    (∀ o, s.dev.band (b.gr 9).toNat = none →
      exec (.plankBind a o) s = s.next ((s.dev.onBlk a fun b => { b with plank := { bind := none, cur := none } }).event Ev.other (.blk a)
        (b.gr 9).toNat 0)) ∧
    -- find: the FIRST entry of a slot in this revolution, or in the next when it lies less than PLK_LEAD ticks ahead
    (∀ r x i e, r < 16 → b.plank.bind = some x → firstOf x.entries ((b.gr r).toNat % 1024) = some i → x.entries[i]? = some e →
      let rev := s.dev.clock.rev.toNat
      let at1 := if s.dev.entryPos x e < s.dev.clock.pos28 + s.dev.f (Reg.BLK_PLK_LEAD_LEAD.on a) * 2 ^ 18 then (rev + 1) % 2 ^ 20 else rev
      exec (.plankFind a r) s = s.next (s.dev.onBlk a fun b => { b with plank := { b.plank with cur := some (i, at1) } })) ∧
    -- advance: the next DATA entry, past SERVO and SKIP, wrapping at END into the next revolution
    (∀ x c e, b.plank.bind = some x → b.plank.cur = some c → x.entries[c.1 + 1]? = some e →
      (e.kind = 1 → exec (.plankAdvance a) s = s.next (s.dev.onBlk a fun b => { b with plank := { b.plank with cur := some (c.1 + 1, c.2) } })) ∧
      (∀ e0, e.kind = 3 → x.entries[0]? = some e0 → e0.kind = 1 →
        exec (.plankAdvance a) s = s.next (s.dev.onBlk a fun b => { b with plank := { b.plank with cur := some (0, (c.2 + 1) % 2 ^ 20) } })))

/-- Microwords (R100, R104, R119, R122): a word of mode 0, a wait, the returns and a new image. -/
def Obligations.MicrocodeWords : Prop :=
  ∀ (s : State) (a : Act), s.dev.hasAct a = true →
    let b := s.dev.blk.get a
    -- a word without a stamp, read without an error: its actions, GOP, KOP, then ALT when its condition holds, else NEXT
    (∀ o p, s.dev.blkRuns a = true → b.halted = false → readWord (storeWord b.store b.pc.toNat) = .ok (p, 0) →
      let m := Micro.ofPayload p
      m.safe = false → m.plk = 0 → m.smode = 0 → m.dop ≠ 0xC → m.dop ≠ 0xD → m.gop ≠ 13 →
      let d1 := ((s.dev.issue a m o).gopStep a m (b.gr m.gd) (b.gr m.gs)).onBlk a fun k => k.kopStep m (b.gr m.gs)
      let d2 := d1.onBlk a fun k => { k with pc := BitVec.ofNat 14 (if d1.condition a m.cond != m.cinv then m.alt else m.next), wait := .run }
      exec (.microword a o) s = s.next (d2.sendGroups a).settle) ∧
    -- a wait ends with ALT once its condition is true
    (∀ m, s.dev.waitingWord a = some m → b.wait = .cond → s.dev.condition a m.cond ≠ m.cinv →
      exec (.conditionWait a) s = s.next (s.dev.onBlk a fun b => { b with pc := BitVec.ofNat 14 m.alt, wait := .run })) ∧
    -- ABANDON: the dispatch word next, one record of the current depth dropped; at depth 0 it leaves one event
    (0 < b.depth →
      exec (.abandon a) s = s.next ((s.dev.onBlk a fun b => { b with pc := BitVec.ofNat 14 (s.dev.f (Reg.BLK_VEC_ENTRY.on a)), wait := .run }).onBlk a fun k =>
        { k with data := sfill 0 k.data (resumeAddr k.depth) 0 128, dataPoison := sfill false k.dataPoison (resumeAddr k.depth) false 128, saved := k.saved.filter fun p => decide (p.1 ≠ k.depth), depth := k.depth - 1 })) ∧
    (b.depth = 0 → ∀ i ∈ [Instr.abandon a, Instr.return a],
      exec i s = s.next ((s.dev.onBlk a fun b => { b with pc := BitVec.ofNat 14 (s.dev.f (Reg.BLK_VEC_ENTRY.on a)), wait := .run }).event
        Ev.other (.blk a) b.pc.toNat 0)) ∧
    -- RETURN: G, K, the flags, the Plank position and the program counter from the resume record of the depth
    (0 < b.depth →
      let w (i : Nat) : Word := b.dataWord (resumeAddr b.depth + 4 * i)
      exec (.return a) s = s.next (s.dev.onBlk a fun k => { k with
        g := ssetList 0 [] 0 ((List.range 16).map fun i => w (8 + i))
        k := ssetList 0 [] 0 [BitVec.ofNat 16 (bits (w 3) 15 0), BitVec.ofNat 16 (bits (w 3) 31 16), BitVec.ofNat 16 (bits (w 4) 15 0), BitVec.ofNat 16 (bits (w 4) 31 16)]
        zero := decide (bits (w 5) 0 0 = 1), neg := decide (bits (w 5) 1 1 = 1), carry := decide (bits (w 5) 2 2 = 1)
        plank := match b.saved.find? fun p => decide (p.1 = b.depth) with | some p => p.2 | none => b.plank
        saved := k.saved.filter fun p => decide (p.1 ≠ b.depth)
        depth := b.depth - 1, pc := BitVec.ofNat 14 (bits (w 0) 13 0), wait := .run })) ∧
    -- an image waiting for its Blocker is written at the dispatch wait: fresh state, the generation up, held requests sent
    (b.loadPending = true → b.loaded = false ∨ b.wait = .cond ∧ b.pc.toNat = s.dev.f (Reg.BLK_VEC_ENTRY.on a) →
      exec (.microcodeImageWrite a) s = s.next ((((s.dev.replayBlocker a).blockerFresh a (s.dev.imageOf a)).incGen
        (.block (.blk a))).readyUnit (.block (.blk a))))

/-- The Blocker's control register and the control-store window (R126, R128). Commits and discards of the staged
configuration set (R53 to R56, Table 17.1). -/
def Obligations.ControlWindowAndCommit : Prop :=
  (
  ∀ (s : State) (a : Act), s.dev.hasAct a = true →
    -- HALT is honoured in safe mode or with debug enabled; setting it at any other time is ignored with one event
    (∀ v, exec (.blkHalt a v) s = s.next
      (if s.dev.safe || s.dev.debug then (s.dev.setF (Reg.BLK_CTL_HALT.on a) (flag v)).onBlk a fun b => { b with haltReq := v && !b.halted }
       else if v then s.dev.ignoredWrite (Reg.BLK_CTL + 0x10000 * a.idx) else s.dev)) ∧
    ((s.dev.blk.get a).halted = true →
      exec (.blkResume a) s = s.next ((s.dev.setF (Reg.BLK_CTL_HALT.on a) 0).onBlk a fun b => { b with halted := false, haltReq := false })) ∧
    -- STEP executes one word while halted
    (∀ o, (s.dev.blk.get a).halted = true → s.dev.blkRuns a = true → exec (.blkStep a o) s = s.next (s.dev.fetchWord a true o).settle) ∧
    -- a write of DATA_3 outside test mode stages the 128 bits as word WORD with its own check bits; AUTOINC moves WORD on
    (∀ v, s.dev.safe = false →
      let d1 := s.dev.setReg (Reg.CST_ADDR + 0x20000 * a.idx + 0x1C) v
      let p (i : Nat) : Nat := (d1.reg (Reg.CST_ADDR + 0x20000 * a.idx + (0x10 + 4 * i))).toNat * 2 ^ (32 * i)
      let word := s.dev.f (Reg.CST_ADDR_WORD.at 0x20000 a)
      let d2 := { d1 with conf := { d1.conf.trimTouch with staged := { d1.conf.staged with cst := sset none d1.conf.staged.cst (16384 * a.idx + word % 16384) (some (sealWord (BitVec.ofNat 128 (p 0 + p 1 + p 2 + p 3)))) } } }
      exec (.cstData3Write a v) s = s.next
        (if d2.f (Reg.CST_ADDR_AUTOINC.at 0x20000 a) = 1 then
          d2.setF (Reg.CST_ADDR_WORD.at 0x20000 a) ((d2.f (Reg.CST_ADDR_WORD.at 0x20000 a) + 1) % 16384) else d2)) ∧
    -- a read of DATA_3 answers bits [127:96] of the committed word WORD; AUTOINC moves WORD on
    (∀ who, s.dev.f (Reg.CST_ADDR_AUTOINC.at 0x20000 a) = 0 →
      exec (.cstData3Read a who) s = s.next (s.dev.answer who (BitVec.ofNat 32 ((sget 0 s.dev.conf.images
        (16384 * a.idx + s.dev.f (Reg.CST_ADDR_WORD.at 0x20000 a))).toNat / 2 ^ (32 * 3)))))
  ) ∧
  (
  ∀ s : State,
    -- a commit while one runs is dropped; by anyone but the holder of a held semaphore it is refused and counted
    (∀ who, s.dev.busy = true → exec (.commit who) s = s.next (s.dev.setF Reg.SIZ_STATUS_DROPPED 1)) ∧
    (∀ who, s.dev.busy = false → s.dev.mayCommit (requesterHolder who) = false →
      exec (.commit who) s = s.next (s.dev.bumpF Reg.CPX_SEM_CNT_REFUSED 1)) ∧
    -- the holder's own commit: the staged set is frozen, the outcome shown; an admitted set waits for its applying edge
    (∀ who, s.dev.busy = false → s.dev.mayCommit (requesterHolder who) = true → s.dev.semHolder = requesterHolder who →
      let v := s.dev.judge s.dev.conf.staged false
      let d1 := if v.check ≤ 2 ∧ v.check ≠ 0 then s.dev else
        ((s.dev.showLoadErr (s.dev.candidate s.dev.conf.staged) s.dev.conf.staged .a0)).showLoadErr (s.dev.candidate s.dev.conf.staged) s.dev.conf.staged .a1
      let d2 := { d1 with conf := { d1.conf with staged := StagedSet.empty, trimStale := true } }
      let d3 := ((d2.setF Reg.SIZ_RESULT_CHECK v.check).setF Reg.SIZ_RESULT_GROUP v.group).setF Reg.SIZ_STATUS_LAST_STATUS v.status
      exec (.commit who) s = s.next
        (if v.status ≠ 0 then d3
         else { d3 with conf := { d3.conf with pending := some { set := s.dev.conf.staged, skip := s.dev.pastCutoff, holds := false } } }.setF
          Reg.SIZ_STATUS_BUSY 1)) ∧
    -- a commit by one to whom the semaphore is open holds it implicitly while it runs
    (∀ who, s.dev.busy = false → s.dev.mayCommit (requesterHolder who) = true → s.dev.semHolder ≠ requesterHolder who →
      let d1 := (s.dev.semGrant (requesterHolder who)).commit true
      exec (.commit who) s = s.next (if d1.busy then d1 else d1.semClear)) ∧
    -- a discard empties the staged set, and does nothing to a commit that runs
    (exec .discard s = s.next (if s.dev.busy then s.dev
      else { s.dev with conf := { s.dev.conf with staged := StagedSet.empty, trimStale := true } }))
  )

/-- The rotation clock (R16 to R24, R29): the tick edge, address marks, the flywheel and the stamps that fire. -/
def Obligations.RotationClock : Prop :=
  ∀ s : State,
    -- a tick edge: done reports, the clock's next tick, applied commits and the RWT latch, then both actuators' work
    (∀ periodNs late, let d1 := ((s.dev.doneCheck late).nextTick periodNs).meanPeriod
      let d2 := d1.applyPending.latchRwt.retractNotice
      let d3 := (((d2.actTick .a0 (d1.f (Reg.SRV_MODE_MSUB.on .a0))).actTick .a1 (d1.f (Reg.SRV_MODE_MSUB.on .a1))).sendGroups .a0).sendGroups .a1
      let d4 := (d3.vaultTick.eraseTick.backgroundErase 0).backgroundErase 1
      exec (.tickEdge periodNs late) s = s.next ((d4.finishShutdown .A).finishShutdown .B).semSettle.mpiTick) ∧
    -- the clock of the next tick: wedge and revolution move on while it runs, and time by the measured period always
    (∀ d periodNs, (Dev.nextTick d periodNs).clock.nowNs = d.clock.nowNs + periodNs ∧
      (d.src ≠ 0 → d.clock.wedge.toNat + 1 < d.wedges → d.wedges ≤ 1023 →
        (Dev.nextTick d periodNs).clock.val = d.clock.rev.toNat * 2 ^ 28 + (d.clock.wedge.toNat + 1) * 2 ^ 18) ∧
      (d.src = 0 → (Dev.nextTick d periodNs).clock.val = d.clock.val)) ∧
    -- a hunting head's first mark is a candidate
    (∀ a field phase b, s.dev.hasAct a = true → (s.dev.srv.get a).hunt = 1 →
      exec (.addressMark a field phase b) s = s.next (s.dev.onSrv a fun v => { v with hunt := 2 })) ∧
    -- a mark of an actuator that does not discipline the clock only marks its own wedge
    (∀ a field phase b i, s.dev.hasAct a = true → (s.dev.srv.get a).hunt = 0 → s.dev.src = 2 ∨ s.dev.src = 3 → goodIndex field = some i →
      s.dev.disciplines a = false →
      exec (.addressMark a field phase b) s = s.next (s.dev.onSrv a fun v => { v with marked := true, hunt := 0 })) ∧
    -- a missed mark is counted; the master's puts the clock on the flywheel
    (∀ a, s.dev.hasAct a = true →
      let d1 := (s.dev.bumpF (Reg.SRV_DEMOD_CNT_SAM_MISS.on a) 1).onSrv a fun v => { v with marked := false, oddIdx := none, hunt := if v.hunt = 0 then 0 else 1 }
      exec (.missedMark a) s = s.next
        (if s.dev.masterAct = a ∧ (s.dev.src = 2 ∨ s.dev.src = 3) then
          ((d1.setF Reg.TICK_STATUS_SRC 3).setF Reg.TICK_STATUS_MISSED (satAdd 8 (s.dev.f Reg.TICK_STATUS_MISSED) 1)).onClock fun c => { c with flywheelTick := true }
         else d1)) ∧
    -- eight missed marks: the other actuator takes mastership if it follows, else the clock goes coarse with one event
    (s.dev.src = 3 → s.dev.f Reg.TICK_STATUS_MISSED = 8 →
      let o := s.dev.masterAct.other
      exec .flywheelLimit s = s.next
        (if s.dev.following o then (s.dev.makeMaster o).setF Reg.TICK_STATUS_MISSED 0
         else
          let d1 := (((s.dev.setF Reg.TICK_STATUS_SRC 1).setF Reg.TICK_STATUS_MISSED 0).setF Reg.TICK_EVENT_COARSE_ENTRY 1).setF
            Reg.TICK_EVENT_FLYWHEEL_LIMIT 1
          (d1.event Ev.flywheelLimit .tick (d1.reg Reg.TICK_STATUS).toNat 0).toObserver)) ∧
    -- a stamp whose instant has come leaves the armed stamps and launches; the servo gate's and the power die's here
    (∀ t w n, s.dev.clock.stamps.find? (fun x => decide (x.owner = t.owner)) = some t → t.due ≤ s.dev.nowUnits →
      exec (.stampFire t.owner w n) s = s.next ((s.dev.onClock fun c => { c with stamps := c.stamps.filter fun x => decide (x ≠ t) }).launchStamp
        t.owner w n))

/-- A host command is fetched, finds I/O served, and comes from a queue without marked commands (R417, R419, R428). -/
def Sys2Proof.served (s : State) (id : CmdId) : Prop := s.dev.admits id = true ∧ s.dev.ioGate = none ∧ s.dev.isOrdered id = false

/-- The device once a served command `c` has its context: its port's domains awake, the command outstanding. -/
def Sys2Proof.withCmd (s : State) (c : HostCmd) : Dev :=
  ((s.dev.wakeHost c.id.port).ioArrives).onHost fun h => { h with cmds := h.cmds ++ [c] }

/-- Zoned writes (R333 to R338, Table 12.3): a Write or a Write Zeroes of the zoned namespace ends with its status, waits
its turn or is held by the outcome of its arrival; a Zone Append takes the offset after those that wait; acceptance and
the hold's expiry. -/
def Obligations.ZonedWrites : Prop :=
  ∀ (s : State) (id : CmdId) (lba : Nat) (data : List Nat) (marked : Bool), served s id →
    let z := lba / s.dev.media.zoneBlocks
    let off := lba % s.dev.media.zoneBlocks
    let w : ZWrite := { id := id, off := off, len := data.length, data := data }
    (∀ i, (i = Instr.write id 1 lba data 0 marked .ok ∧ data.length ≤ 512) ∨
        (∃ n, data = List.replicate n 0 ∧ i = Instr.writeZeroes id 1 lba n marked) →
      s.dev.rangeFault 1 lba data.length false = none →
      let d := withCmd s (hostCmd id .zonedWrite 1 lba data.length data false false)
      (∀ d1, d.zoneOutcome z off data.length = .inOrder → d.makeRoom z = (.success, d1) →
        exec i s = s.next (d1.setZone z { d1.zone z with waiting := (d1.zone z).waiting ++ [w] }).settle) ∧
      (∀ d1, d.zoneOutcome z off data.length = .hold → d.makeRoom z = (.success, d1) →
        exec i s = s.next ((d1.implicitOpen z).setZone z { (d1.implicitOpen z).zone z with held := ((d1.implicitOpen z).zone z).held ++ [w] }).settle) ∧
      -- the zone limits turn away a write that would open one more zone
      (∀ e d1, d.zoneOutcome z off data.length = .inOrder ∨ d.zoneOutcome z off data.length = .hold →
        d.makeRoom z = (e, d1) → e ≠ .success → exec i s = s.next (d1.complete id e 0).settle) ∧
      (∀ o, d.zoneOutcome z off data.length = o → o ≠ .inOrder → o ≠ .hold →
        exec i s = s.next (((o.count d).complete id o.status 0).settle))) ∧
    -- Zone Append: at the write pointer past the waiting in-order writes
    (s.dev.rangeFault 1 lba 1 false = none → data.length ≤ 512 → off = 0 →
      let d := withCmd s (hostCmd id .append 1 lba data.length data false false)
      (∀ d1, (d.zone z).state ≠ 0xD → (d.zone z).state ≠ 0xE → (d.zone z).state ≠ 0xF →
        (∀ v ∈ (d.zone z).held, d.appendOff z + data.length ≤ v.off) → d.appendOff z + data.length ≤ d.zoneCap →
        d.makeRoom z = (.success, d1) →
        exec (.zoneAppend id 1 lba data marked .ok) s = s.next (d1.setZone z { d1.zone z with
          waiting := (d1.zone z).waiting ++ [{ w with off := d.appendOff z }] }).settle) ∧
      ((d.zone z).state = 0xE → exec (.zoneAppend id 1 lba data marked .ok) s = s.next (d.complete id .zoneFull 0).settle))

/-- Acceptance, expiry of a held write, and the journal's checkpoint (R333, R334, R336, R340). -/
def Obligations.ZoneAcceptance : Prop :=
  ∀ (s : State) (z : Nat) (id : CmdId),
    -- an accepted write: WP, the journal record, the release, then the completion; with the vault armed its data stays buffered
    (∀ w d1, ((s.dev.zone z).waiting.find? fun w => decide (w.id = id)) = some w → s.dev.acceptFault z w = none →
      s.dev.armed = true → w.len ≤ s.dev.cacheRoom → s.dev.zq.ring.length < 262144 → s.dev.feltRoom z = true →
      s.dev.makeRoom z = (.success, d1) →
      exec (.writeAccept z id false) s = s.next (((d1.acceptWrite z w (s.dev.acceptDw0 z w)).sealZone z).settle)) ∧
    -- a write whose place the zone no longer has ends with its status
    (∀ w e, ((s.dev.zone z).waiting.find? fun w => decide (w.id = id)) = some w → s.dev.acceptFault z w = some e →
      exec (.writeAccept z id false) s = s.next ((((s.dev.setZone z { s.dev.zone z with
        waiting := (s.dev.zone z).waiting.filter fun v => decide (v.id ≠ id) }).complete id e 0).sealZone z).settle)) ∧
    -- a held write that waited too long ends with Zone Invalid Write and is counted
    (∀ w ∈ (s.dev.zone z).held, w.id = id →
      exec (.holdExpired z id) s = s.next ((((s.dev.setZone z { s.dev.zone z with
        held := (s.dev.zone z).held.filter fun w => decide (w.id ≠ id) }).bumpF Reg.ZQE_CNT_EXPIRED 1).complete id .zoneInvalidWrite 0).settle)) ∧
    -- a due checkpoint: the image of every zone, a TYPE 6 record naming the last record it holds, the ring before it freed
    (s.dev.f Reg.ZQE_JRNL_FILL_CKPT = 1 → s.dev.media.sysRebuild = none →
      let seq := s.dev.f Reg.ZQE_JRNL_SEQ_SEQ
      let x := s.dev.media.sysSeq.x + 1
      exec .journalCheckpoint s = s.next ({ s.dev with
        zq := { s.dev.zq with image := s.dev.zq.zones, imageSeq := seq, ring := [{ type := 6, zone := 0, state := 0, attr := 0, wp := 0, seq := seq, good := true }] }
        felt := { s.dev.felt with image := s.dev.felt.strides }
        media := { s.dev.media with sysSeq := { x := x, y := x } } }.setF Reg.ZQE_JRNL_FILL_CKPT 0))

/-- Reads, conventional writes and flushes (R91 to R93, R420, R421, R424, R429). -/
def Obligations.ReadsAndConventionalWrites : Prop :=
  ∀ (s : State) (id : CmdId) (lba : Nat) (marked : Bool),
    (served s id →
      -- Flush: every completed write is durable already
      (exec (.flush id marked) s = s.next ((withCmd s (hostCmd id .flush 1 0 0 [] false false)).complete id .success 0).settle) ∧
      -- a read of one block at or above the write pointer answers zeros (no other command outstanding)
      (∀ limited first, s.dev.rangeFault 1 lba 1 true = none →
        let zn := s.dev.zone (lba / s.dev.media.zoneBlocks)
        zn.state ≠ 0xF → zn.wp ≤ lba % s.dev.media.zoneBlocks → zn.finish = none → s.dev.host.cmds = [] →
        exec (.read id 1 lba 1 limited marked first) s = s.next
          ((((s.dev.wakeHost id.port).ioArrives).giveHost id (.blocks [0])).complete id .success 0).settle) ∧
      -- a read that meets an Offline zone
      (∀ limited first, s.dev.rangeFault 1 lba 1 true = none → (s.dev.zone (lba / s.dev.media.zoneBlocks)).state = 0xF →
        exec (.read id 1 lba 1 limited marked first) s = s.next
          (((s.dev.wakeHost id.port).ioArrives).complete id .zoneOffline 0)) ∧
      -- a conventional write of one block with room in the protected cache: bands first written, both copies asked for
      (∀ v, s.dev.rangeFault 2 lba 1 true = none → s.dev.armed = true → s.dev.dirtyBlocks + 1 ≤ 256 * s.dev.f Reg.BUF_DIRTY_MAX →
        let d1 := (withCmd s (hostCmd id .convWrite 2 lba 1 [v] false false)).firstConvWrite (lba / 256)
        exec (.write id 2 lba [v] 0 marked .ok) s = s.next (((d1.convBlock id lba v).1.complete id .success 0).settle))) ∧
    -- while I/O is not served every I/O command ends with the same status, and nothing else
    (∀ e : Nvme × Bool × Nat, s.dev.admits id = true → s.dev.ioGate = some e →
      (∀ ns l data dt t, exec (.write id ns l data dt marked t) s = s.next (s.dev.completeWith id e.1 e.2.1 e.2.2)) ∧
      (∀ ns l n lim first, exec (.read id ns l n lim marked first) s = s.next (s.dev.completeWith id e.1 e.2.1 e.2.2)) ∧
      (∀ ns l n, exec (.writeZeroes id ns l n marked) s = s.next (s.dev.completeWith id e.1 e.2.1 e.2.2)) ∧
      (∀ ns l data t, exec (.zoneAppend id ns l data marked t) s = s.next (s.dev.completeWith id e.1 e.2.1 e.2.2)) ∧
      exec (.flush id marked) s = s.next (s.dev.completeWith id e.1 e.2.1 e.2.2) ∧
      (∀ ns l all, exec (.resetZone id ns l all marked) s = s.next (s.dev.completeWith id e.1 e.2.1 e.2.2)))

/-- Zone Management Send and Receive (R328, R330 to R332, R341 to R343, R348, R412, Table 16.5). -/
def Obligations.ZoneManagement : Prop :=
  ∀ (s : State) (id : CmdId) (lba : Nat) (marked : Bool), served s id → s.dev.rangeFault 1 lba 1 false = none →
    let z := lba / s.dev.media.zoneBlocks
    let act (n : Nat) : Dev := withCmd s (hostCmd id (.zoneAct n false) 1 lba 0 [] false false)
    -- Close: an open zone with no data and no held write becomes Empty, any other open zone Closed
    (((act 1).zone z).isOpen = true →
      exec (.closeZone id 1 lba false marked) s = s.next (((((act 1).setZone z { (act 1).zone z with
        state := if (decide (((act 1).zone z).wp = 0) && ((act 1).zone z).held.isEmpty) = true then 0x1 else 0x4 }).journal 2 z).complete id .success 0).settle)) ∧
    -- Finish: WP goes to the capacity, the old WP is the finish point, held and waiting writes end
    (((act 2).zone z).state = 0x1 ∨ ((act 2).zone z).isActive = true →
      let zn := (act 2).zone z
      let d1 := ((((act 2).completeAll .zoneInvalidWrite (zn.held ++ zn.waiting)).setZone z { zn with held := [], waiting := [] }).writePartial z)
      exec (.finishZone id 1 lba false marked) s = s.next (((((d1.setZone z { d1.zone z with
        state := 0xE, finish := some zn.wp, wp := d1.zoneCap }).journal 4 z).complete id .success 0).settle))) ∧
    -- Open: an Empty or Closed zone becomes Explicitly Opened when the limits leave room
    (∀ d1, ((act 3).zone z).state = 0x1 ∨ ((act 3).zone z).state = 0x4 → (act 3).makeRoom z = (.success, d1) →
      exec (.openZone id 1 lba false marked) s = s.next ((((d1.setZone z { d1.zone z with state := 0x3 }).journal 2 z).complete id .success 0).settle)) ∧
    -- Reset of a Full zone
    (((act 4).zone z).state = 0xE → (((act 4).resetZone z).zone z).state = 0x1 →
      exec (.resetZone id 1 lba false marked) s = s.next ((((act 4).resetZone z).complete id .success 0).settle)) ∧
    -- Offline: only a Read Only zone goes Offline
    (((act 5).zone z).state = 0xD →
      exec (.offlineZone id 1 lba false marked) s = s.next (((((act 5).resetZone z).capacityFell z).complete id .success 0).settle)) ∧
    (((act 5).zone z).state ≠ 0xD →
      exec (.offlineZone id 1 lba false marked) s = s.next ((((act 5).complete id .invalidTransition 0).settle))) ∧
    -- Set Zone Descriptor Extension is not supported
    exec (.setZoneDescriptorExtension id 1 lba false marked) s = s.next ((((act 0x10).complete id .invalidField 0).settle)) ∧
    -- the reports: the number of zones, then a descriptor of each from the named zone on
    (∀ n ext part i, (ext = false ∧ i = Instr.reportZones id 1 lba n part marked) ∨ (ext = true ∧ i = Instr.extendedReportZones id 1 lba n part marked) →
      let d := withCmd s (hostCmd id (.report n ext part) 1 lba 0 [] false false)
      exec i s = s.next ((((d.giveHost id (.fields (("NUMBER_OF_ZONES", if part then Nat.min n (s.dev.zq.count - z) else s.dev.zq.count - z) ::
        d.zoneReport z n ext))).complete id .success 0).settle))) ∧
    -- the conventional namespace has no zone command
    (∀ all l, exec (.closeZone id 2 l all marked) s = s.next (((s.dev.wakeHost id.port).ioArrives).complete id .invalidOpcode 0))

/-- Felt upkeep (R359 to R361): checkpoints of the open strides, and collection of a surface's log bands. -/
def Obligations.FeltUpkeep : Prop :=
  ∀ s : State, s.dev.feltOn = true →
    -- every open stride folded since its last checkpoint gets its new COVER written into its other half
    (exec .feltCheckpoint s = s.next (s.dev.felt.strides.foldl (fun d p => d.checkpointStride (p.1 / 128) (p.1 % 128)) s.dev)) ∧
    (∀ (d : Dev) g k, (d.stride g k).opened = true → (d.stride g k).dirty = true →
      let st := d.stride g k
      d.checkpointStride g k = (d.coverAll (d.feltGroup g) st st.folded).setStride g k { st with cover := st.folded, half := 1 - st.half, dirty := false }) ∧
    (∀ (d : Dev) g k, (d.stride g k).opened = false ∨ (d.stride g k).dirty = false → d.checkpointStride g k = d) ∧
    -- collection below START runs until STOP; above half of START a throttle level defers it
    (∀ x, s.dev.logFree x ≤ s.dev.f Reg.FLT_GC_START → s.dev.f Reg.PDM_THERM_STATUS_LEVEL = 0 ∨ s.dev.logFree x < s.dev.f Reg.FLT_GC_START / 2 →
      exec (.garbageCollection x) s = s.next (s.dev.gcRun x (sget [] s.dev.felt.log x).length)) ∧
    (∀ x, s.dev.f Reg.PDM_THERM_STATUS_LEVEL ≠ 0 → s.dev.f Reg.FLT_GC_START / 2 ≤ s.dev.logFree x →
      exec (.garbageCollection x) s = s.next s.dev)

/-- The protected memories (R376 to R386, R491): write-backs of corrections, the DRAM fill fence, test-mode injection and
the scrubber's pass. -/
def Obligations.MemoryProtection : Prop :=
  ∀ s : State,
    -- a write-back due for a buffer byte whose stored bits are still those that were read: corrected data, fresh check bits
    (∀ c cs, s.dev.mem.fixes = c :: cs → c.dram = false → s.dev.mem.bufRaw c.addr = (c.data, c.chk) →
      let v := (eccDecode 4 8 c.data c.chk).fix c.data
      exec .correctionWriteBack s = s.next { s.dev with mem := { s.dev.mem with fixes := cs }.setBuf c.addr v (checkBits 4 8 v) }) ∧
    -- a DRAM quarter likewise
    (∀ c cs, s.dev.mem.fixes = c :: cs → c.dram = true → s.dev.mem.quarter (c.addr / 4) (c.addr % 4) = c.data →
      metaChk (sget 0 s.dev.mem.dramMeta (c.addr / 4)) (c.addr % 4) = c.chk →
      let v := (eccDecode 8 128 c.data c.chk).fix c.data
      exec .correctionWriteBack s = s.next { s.dev with
        mem := { s.dev.mem with fixes := cs }.setQuarter (c.addr / 4) (c.addr % 4) v (checkBits 8 128 v) }) ∧
    -- overwritten since: the write-back is dropped
    (∀ c cs, s.dev.mem.fixes = c :: cs → c.dram = false → s.dev.mem.bufRaw c.addr ≠ (c.data, c.chk) →
      exec .correctionWriteBack s = s.next { s.dev with mem := { s.dev.mem with fixes := cs } }) ∧
    -- the fill's fence moves up, never past the capacity nor down, and lets held writes below it go
    (∀ mib, s.dev.f Reg.DMC_FENCE_DONE ≠ 1 →
      exec (.fenceAdvance mib) s = s.next ((s.dev.setF Reg.DMC_FENCE_MIB (Nat.max (s.dev.f Reg.DMC_FENCE_MIB) (Nat.min mib (s.dev.f Reg.DMC_CAP_MIB)))).releaseHeld)) ∧
    (s.dev.f Reg.DMC_CAP_MIB ≠ 0 → s.dev.f Reg.DMC_FENCE_DONE ≠ 1 →
      let d1 := ((s.dev.setF Reg.DMC_FENCE_MIB (s.dev.f Reg.DMC_CAP_MIB)).setF Reg.DMC_FENCE_DONE 1).releaseHeld
      exec .fenceDone s = s.next (if d1.f Reg.SYS_BOOT_STEP = 5 then d1.endStep 5 else d1)) ∧
    -- injection is effective during calibration and in safe mode
    (∀ cal w, bits w 31 31 = 1 → (cal || s.dev.safe) = true →
      exec (.bufTestGo cal w) s = s.next (s.dev.writeReg cal Reg.BUF_TEST_CTL w).injectBuf ∧
      exec (.dmcTestGo cal w) s = s.next (s.dev.writeReg cal Reg.DMC_TEST_CTL w).injectDram) ∧
    -- a scrub pass reads every protected memory, then the MRAM; a throttle level defers it
    (∀ late ce ue, s.dev.f Reg.PDM_THERM_STATUS_LEVEL = 0 →
      exec (.scrubPass late ce ue) s = s.next ((s.dev.scrubPass late).scrubMram ce ue)) ∧
    (∀ late ce ue, s.dev.f Reg.PDM_THERM_STATUS_LEVEL ≠ 0 → exec (.scrubPass late ce ue) s = s.next s.dev) ∧
    -- what a pass does with a buffer byte of a powered bank that cannot be corrected
    (∀ (d : Dev) a, d.domOn (34 + a / 2 ^ 22) = true → eccDecode 4 8 (d.mem.bufRaw a).1 (d.mem.bufRaw a).2 = .bad →
      d.scrubBuf a = (((d.bufUe MemNo.buffer a true).event Ev.scrubUe .buf MemNo.buffer a).onMem fun m => m.writeBuf a (BitVec.ofNat 8 (d.mem.bufRaw a).1, true)))

/-- Requests of the Crown cache (R394 to R406): hits, misses, writes into the Batt buffer, fills, drains, fences and
coherence reports. -/
def Obligations.CrownRequests : Prop :=
  ∀ (s : State) (who : CrownUser) (addr : Nat),
    let d := s.dev.setDomLow 52 false
    let line := addr / 128
    s.dev.hasCrownUser who = true → s.dev.domOn 52 = true → d.crownUp = true → d.crn.waits = [] →
    (∀ len, crownForm addr len = true → d.cacheable line = true →
      let r : CrownReq := { who := who, write := false, addr := addr, len := len, seen := [] }
      -- a read hit
      (∀ w, d.crn.wayOf line = some w → exec (.crownRead who addr len { ways := 0, plru := false }) s = s.next (d.readHit r w).crownSettle) ∧
      -- a read miss starts a fill of the victim way, its critical granule first
      (∀ w, d.crn.wayOf line = none → (d.crn.nap.find? fun p => decide (p.1 = line)) = none → d.crn.fillOf line = none →
        d.crn.victim line none = some w → d.missRoom = true →
        exec (.crownRead who addr len { ways := 0, plru := false }) s = s.next
          ((((d.startFill line (some w) (if d.crownCompat then 0 else addr % 128 / 64) [r]).bumpF Reg.CRN_MISS_COUNT 1).napSeq line).crownSettle))) ∧
    -- a write of a line that no buffer holds goes into the Batt buffer and never into a new way
    (∀ bs, crownForm addr bs.length = true → d.cacheable line = true → d.crn.wayOf line = none → d.crn.batt.length < 32 →
      let cells := bs.zipIdx.map fun p => (addr % 128 + p.2, p.1)
      let d1 := d.onCrn fun c => { c with
        nap := c.nap.filter fun p => decide (p.1 ≠ line)
        fills := c.fills.map fun f => if f.line = line then { f with bytes := overCells f.bytes cells } else f }
      exec (.crownWrite who addr bs { ways := 0, plru := false }) s = s.next (d1.battPut line cells).crownSettle) ∧
    -- outside the windows a request goes to the DRAM, its line drained first
    (∀ bs, crownForm addr bs.length = true → d.cacheable line = false →
      exec (.crownWrite who addr bs { ways := 0, plru := false }) s = s.next (((d.drainLine line).writeDram addr bs).crownSettle)) ∧
    -- the second granule of a fill ends it; the first goes to the readers it satisfies
    (∀ f, (s.dev.crn.fills.find? fun f => decide (f.line = line)) = some f → f.arrived ≠ 0 →
      exec (.fillGranule line) s = s.next (((s.dev.onCrn fun c => { c with fills := c.fills.erase f }).endFill { f with arrived := 3 }).crownSettle)) ∧
    exec (.battDrain line) s = s.next (s.dev.drainLine line).crownSettle ∧
    -- a fence waits for the entries of now
    exec (.crownFence who) s = s.next (s.dev.onCrn fun c => { c with fences := c.fences ++ [{ who := some who, lines := c.batt.map fun e => e.line }] }).crownSettle ∧
    (s.dev.cacheable line = true → exec (.coherenceReport line) s = s.next (s.dev.invalidate false line).crownSettle)

/-- The maintenance operations of the Crown cache (R407, Table 15.1), and one refused while another runs. -/
def Obligations.CrownMaintenance : Prop :=
  ∀ (s : State) (set way : Nat),
    let start (op : Nat) : Dev := ((s.dev.setF Reg.CRN_MAINT_OP op).setF Reg.CRN_MAINT_SET set).setF Reg.CRN_MAINT_WAY way
    (s.dev.f Reg.CRN_MAINT_BUSY ≠ 1 →
      exec (.maintInvalidateLine set way) s = s.next ((start 1).invalidate true ((start 1).f Reg.CRN_MAINT_ADDR_LINE)).crownSettle ∧
      (((start 2).crn.way (start 2).maintKey).valid = true →
        exec (.maintInvalidateWay set way) s = s.next ((start 2).invalidate true (1024 * ((start 2).crn.way (start 2).maintKey).tag + (start 2).f Reg.CRN_MAINT_SET)).crownSettle) ∧
      exec (.maintInvalidateAll set way) s = s.next ((start 3).invalidateAll true).crownSettle ∧
      exec (.maintFence set way) s = s.next ((start 4).onCrn fun c => { c with fences := c.fences ++ [{ who := none, lines := c.batt.map fun e => e.line }] }).crownSettle ∧
      exec (.maintPrefetch set way) s = s.next ((start 5).onCrn fun c => { c with prefetch := some ((start 5).f Reg.CRN_MAINT_ADDR_LINE) }).crownSettle ∧
      (let w := (start 6).crn.way (start 6).maintKey
       exec (.maintReadTag set way) s = s.next (((((start 6).setF Reg.CRN_MAINT_TAG_VALID (flag w.valid)).setF Reg.CRN_MAINT_TAG_RESERVED (flag w.reserved)).setF
        Reg.CRN_MAINT_TAG_TAG w.tag).setF Reg.CRN_MAINT_PLRU_NODES (sget 0 (start 6).crn.plru ((start 6).f Reg.CRN_MAINT_SET) / 2)))) ∧
    (s.dev.f Reg.CRN_MAINT_BUSY = 1 →
      ∀ i ∈ [Instr.maintInvalidateLine set way, .maintInvalidateWay set way, .maintInvalidateAll set way, .maintFence set way, .maintPrefetch set way, .maintReadTag set way],
        exec i s = s.next (s.dev.event Ev.other .crn Reg.CRN_MAINT 0))

/-- Flash commands of safe mode (R476 to R481): the key sequence, programs, erases, their suspension, and the register
window ignored outside safe mode. The ends of flash operations (R477, R478, R481): a program or an erase verified or
failed, a held suspension, and a read that meets a busy bank. -/
def Obligations.FlashOperations : Prop :=
  (
  ∀ (s : State) (b : Nat), b < 2 →
    let st := (s.dev.nv.bank.get b).step
    (s.dev.safe = false → ∀ w,
      exec (.flashKey b w) s = s.next (s.dev.ignoredWrite (0x600000 + 0x100 * b + 0x04)) ∧
      exec (.flashErase b w) s = s.next (s.dev.ignoredWrite (0x600000 + 0x100 * b + 0x0C)) ∧
      exec (.flashProgram b w) s = s.next (s.dev.ignoredWrite (0x600000 + 0x100 * b + 0x2C))) ∧
    (s.dev.safe = true →
      -- the two key writes in order; any other word restarts the sequence with error 1
      (st = 0 → exec (.flashKey b 0xA5#32) s = s.next (s.dev.onBank b fun k => { k with step := 1 })) ∧
      (st = 1 → exec (.flashKey b 0x3C#32) s = s.next (s.dev.onBank b fun k => { k with step := 2 })) ∧
      (∀ w, st = 2 → exec (.flashKey b w) s = s.next ((s.dev.onBank b fun k => { k with step := 0, data := [] }).flErr b 1)) ∧
      -- the ADDR write of an erase sequence starts the erase of its sector
      (∀ w, st = 3 → (s.dev.nv.bank.get b).cmd = 0x20 →
        let d1 := (s.dev.setF (flF Reg.NVC_FL_ADDR_ADDR b) (bits w 24 0)).onBank b fun k => { k with step := 0, data := [] }
        d1.f (flF Reg.NVC_FL_STATUS_ERR b) = 0 → d1.flOp b = 0 →
        exec (.flashErase b w) s = s.next ((d1.setFlOp b 2).onBank b fun k => { k with target := d1.f (flF Reg.NVC_FL_ADDR_ADDR b) / 2 ^ 16 % 256, ran := true, holdSuspend := false, holdResume := false })) ∧
      -- the last DATA write of a program sequence starts the program of an erased word
      (∀ w, st = 11 →
        let d1 := (s.dev.onBank b fun k => { k with step := k.step + 1, data := k.data ++ [w] }).onBank b fun k => { k with step := 0 }
        let idx := (2 ^ 24 * b + d1.f (flF Reg.NVC_FL_ADDR_ADDR b) % 2 ^ 24) / 32
        d1.f (flF Reg.NVC_FL_STATUS_ERR b) = 0 → d1.flOp b = 0 → (d1.rawFlash idx).1 = erasedWord →
        exec (.flashProgram b w) s = s.next ((((d1.rawFlash idx).2.setFlOp b 1).onBank b fun k => { k with target := idx }))) ∧
      -- an erase that has run is suspended at once; the bank is then readable outside the sector
      (st = 0 → s.dev.flOp b = 2 → (s.dev.nv.bank.get b).ran = true →
        exec (.flashSuspend b) s = s.next (((s.dev.setFlOp b 3).setF (flF Reg.NVC_FL_STATUS_SUSP_SECTOR b) (s.dev.nv.bank.get b).target).onBank b fun k =>
          { k with holdSuspend := false })) ∧
      (st = 0 → s.dev.flOp b = 3 →
        exec (.flashResume b) s = s.next (((s.dev.setFlOp b 2).setF (flF Reg.NVC_FL_STATUS_SUSP_SECTOR b) 0).onBank b fun k =>
          { k with target := s.dev.f (flF Reg.NVC_FL_STATUS_SUSP_SECTOR b), ran := s.dev.nested, holdResume := false })) ∧
      (st = 0 → exec (.flashClear b) s = s.next (s.dev.setF (flF Reg.NVC_FL_STATUS_ERR b) 0)))
  ) ∧
  (
  ∀ (s : State) (b : Nat), b < 2 →
    let k := s.dev.nv.bank.get b
    (s.dev.flOp b = 1 →
      exec (.programDone b true) s = s.next (((s.dev.onNv fun n => n.setWord k.target (flashWord (k.data.flatMap fun x => bytesOfNat 4 x.toNat))).setFlOp b 0).onBank b fun k =>
        { k with data := [] }) ∧
      -- a word that does not verify holds a value nobody knows, with error 3
      exec (.programDone b false) s = s.next (((((s.dev.tookFree.flErr b 3).onNv fun n => n.setWord k.target (BitVec.ofNat 266 (Config.freeNat s.dev.free))).setFlOp b 0).onBank b fun k =>
        { k with data := [] }))) ∧
    (s.dev.flOp b = 2 →
      let d1 := (s.dev.setFlOp b 0).onBank b fun k => { k with holdSuspend := false, ran := true }
      exec (.eraseDone b true) s = s.next (d1.onNv fun n => n.eraseSector (256 * b + k.target)) ∧
      exec (.eraseDone b false) s = s.next ((d1.flErr b 3).onNv fun n => n.spoilSector (256 * b + k.target)) ∧
      (k.holdSuspend = true → exec (.suspendHoldRelease b) s = s.next ((s.dev.onBank b fun k => { k with ran := true }).suspend b))) ∧
    -- a read of a busy bank: the first fault latched, one event, and for a management core its fault reported
    (∀ a, a < 2 ^ 25 → s.dev.flashBusy a = true →
      let d1 := (if s.dev.f Reg.NVC_FL_FAULT_VALID = 1 then s.dev else (s.dev.setF Reg.NVC_FL_FAULT_VALID 1).setF Reg.NVC_FL_FAULT_ADDR a).event Ev.flashBusFault .nvc a 0
      exec (.flashBusFault none a) s = s.next d1 ∧ ∀ n, exec (.flashBusFault (some n) a) s = s.next (d1.reportFault (.core n) 3)) ∧
    (∀ c a, a < 2 ^ 25 → s.dev.flashBusy a = false → exec (.flashBusFault c a) s = s.next (s.dev.readFlash (a / 32)).2)
  )

/-- The Hatband recorder (R508 to R511): an event recorded, coalesced, held or lost, and reads through the window. -/
def Obligations.HatbandRecorder : Prop :=
  ∀ s : State,
    (∀ code b x y, 0 < code → code < 4096 →
      let r := s.dev.hbRec code b x y
      -- a new record goes to the end
      (s.dev.hb.ready = true → s.dev.hb.clearing = false → s.dev.hb.full = false → s.dev.hb.recs.length < 65535 →
        (∀ l ∈ s.dev.hb.recs.getLast?, l.same r = false) →
        exec (.hatbandEvent code b x y) s = s.next { s.dev with hb := { s.dev.hb with recs := s.dev.hb.recs ++ [r], seq := s.dev.hb.seq + 1 } }) ∧
      -- the same event again raises the last record's repeat count
      (∀ l, s.dev.hb.ready = true → s.dev.hb.clearing = false → s.dev.hb.full = false → s.dev.hb.recs.getLast? = some l → l.same r = true →
        l.rep < 0xFFFF → s.dev.hb.frozenAt (s.dev.hb.recs.length - 1) = false →
        exec (.hatbandEvent code b x y) s = s.next { s.dev with hb := { s.dev.hb with recs := s.dev.hb.recs.dropLast ++ [{ l with rep := l.rep + 1 }], seq := s.dev.hb.seq + 1 } }) ∧
      -- while the recorder clears, events wait in a queue of 64; past it they are lost and counted
      (s.dev.hb.clearing = true → s.dev.hb.queue.length < 64 →
        exec (.hatbandEvent code b x y) s = s.next { s.dev with hb := { s.dev.hb with queue := s.dev.hb.queue ++ [r] } }) ∧
      (s.dev.hb.clearing = true → 64 ≤ s.dev.hb.queue.length →
        exec (.hatbandEvent code b x y) s = s.next (s.dev.bumpF Reg.HBR_LOST_COUNT 1))) ∧
    -- a cursor write latches the record INDEX into the window
    (∀ w, exec (.hbrCursorWrite w) s = s.next
      ((((s.dev.setF Reg.HBR_CURSOR_AUTOINC (bits w 31 31)).onHb fun h => { h with window := h.recWords (bits w 15 0) }).setF Reg.HBR_CURSOR_INDEX (bits w 15 0)).setF
        Reg.HBR_CURSOR_POISON (flag (sget false s.dev.hb.poisoned (bits w 15 0))))) ∧
    -- the read of window word 7, which moves on with AUTOINC
    (∀ who, s.dev.f Reg.HBR_CURSOR_AUTOINC ≠ 1 → exec (.hbrWin7Read who) s = s.next (s.dev.answer who (s.dev.hb.window.getD 7 0))) ∧
    (∀ who, s.dev.f Reg.HBR_CURSOR_AUTOINC = 1 →
      exec (.hbrWin7Read who) s = s.next ((s.dev.answer who (s.dev.hb.window.getD 7 0)).latchRecord (Nat.min 65535 (s.dev.f Reg.HBR_CURSOR_INDEX + 1))))

/-- Jobs of the Fuller engine (R497 to R503): compression, decompression, a refused descriptor and a flush. -/
def Obligations.CompressionJobs : Prop :=
  ∀ s : State, s.dev.fulPending = true →
    let job := s.dev.f Reg.FUL_STATUS_HEAD
    let w0 := s.dev.jobWord job 0
    let w2 := s.dev.jobWord job 2
    let c := s.dev.readChain (s.dev.jobWord job 1) 65536
    let ends := if testBit w0 25 then segmentEnds 0 c.1 else []
    (w0 / 2 ^ 28 = 0 → w0 / 2 ^ 26 % 4 ≠ 3 → w2 / 2 ^ 30 < 2 → w2 % 2 ^ 30 % 4 = 0 → s.dev.ful.abort = false → ∀ codings,
      let e := compressJob c.1.flatten (2 ^ (14 + w0 / 2 ^ 26 % 4)) (s.dev.jobWord job 3) (ends ++ s.dev.ful.flushes) codings
      exec (.compressJob codings) s = s.next ((c.2.writeSpace (decide (w2 / 2 ^ 30 = 1)) (w2 % 2 ^ 30 + e.skip) (e.out.map fun b => (b, false))).endJob e)) ∧
    (w0 / 2 ^ 28 = 1 → w2 / 2 ^ 30 < 2 → w2 % 2 ^ 30 % 4 = 0 → s.dev.ful.abort = false →
      let e := decompressJob c.1.flatten (s.dev.jobWord job 3)
      exec .decompressJob s = s.next ((c.2.writeSpace (decide (w2 / 2 ^ 30 = 1)) (w2 % 2 ^ 30 + e.skip) (e.out.map fun b => (b, false))).endJob e)) ∧
    -- an unknown operation or space, or an unaligned output: BAD_PARAM with no output
    (∀ codings, w0 / 2 ^ 28 ≠ 1 → 2 ≤ w0 / 2 ^ 28 ∨ 2 ≤ w2 / 2 ^ 30 ∨ w2 % 2 ^ 30 % 4 ≠ 0 →
      exec (.compressJob codings) s = s.next (s.dev.endJob { status := 4, skip := 0, out := [], outLen := 0, inLen := some 0 })) ∧
    (∀ n, w0 / 2 ^ 28 = 0 → exec (.fulFlush n) s = s.next { s.dev with ful := { s.dev.ful with flushes := s.dev.ful.flushes ++ [n] } })

/-- Power domains (R523, R524): a quiet unwanted domain is quiesced and turned off, a wanted one comes up. Power states
and thermal management (R432, R433, R525 to R527). -/
def Obligations.PowerDomainsAndStates : Prop :=
  (
  ∀ (s : State) (i : Nat), i < 80 →
    -- up to its quiescing, and with `done` through the loss of its power
    (s.dev.domOn i = true → (∀ x ∈ s.dev.pw.turningOff, x.1 ≠ i) → s.dev.wantOn i = false → s.dev.domQuiet i = true → s.dev.dependentsOff i = true →
      exec (.domainOff i false) s = s.next (s.dev.quiesce i) ∧ exec (.domainOff i true) s = s.next ((s.dev.quiesce i).powerOff i)) ∧
    -- a wanted domain that its power state has in low mode enters low mode
    (s.dev.domOn i = true → (∀ x ∈ s.dev.pw.turningOff, x.1 ≠ i) → s.dev.wantOn i = true → s.dev.psLow s.dev.host.ps i = true → hasLow i = true → s.dev.unitHeld i = false →
      ∀ done, exec (.domainOff i done) s = s.next (s.dev.setDomLow i true)) ∧
    -- a quiesced domain loses its power; a request met meanwhile counts as a rewake
    (∀ met, s.dev.domOn i = true → (s.dev.pw.turningOff.find? fun x => decide (x.1 = i)) = some (i, met) →
      let d1 := (s.dev.losePower i).onPw fun p => { p with turningOff := p.turningOff.filter fun y => decide (y.1 ≠ i) }
      let d2 := d1.setF Reg.PDM_STATUS_BUSY (flag (!d1.pw.turningOff.isEmpty))
      exec (.domainOff i true) s = s.next (if met then d2.bumpF Reg.PDM_CNT_REWAKE 1 else d2)) ∧
    -- a wanted domain whose dependencies are on comes up, its sweep and training run, its unit ready with the next generation
    (∀ o, s.dev.domOn i = false → s.dev.wantOn i = true → s.dev.depsOn i = true → exec (.domainOn i o) s = s.next (s.dev.domainUp i o)) ∧
    (∀ o, s.dev.depsOn i = false → exec (.domainOn i o) s = s.next s.dev)
  ) ∧
  (
  ∀ s : State,
    -- an entry into a lower state begins with no command outstanding, and takes effect once the device is idle, unloaded and, for PS4, clean
    (∀ n, s.dev.host.psNext = some n → s.dev.pw.entering = false → s.dev.host.ps < n → s.dev.host.cmds = [] →
      exec .powerStateTransition s = s.next (s.dev.beginEntry n)) ∧
    (∀ n, s.dev.host.psNext = some n → s.dev.pw.entering = true → s.dev.pw.reversing = false → s.dev.entryDone n = true →
      exec .powerStateTransition s = s.next (s.dev.enterPs n)) ∧
    -- a reversed entry goes back at its safe point
    (∀ n, s.dev.host.psNext = some n → s.dev.pw.entering = true → s.dev.pw.reversing = true → s.dev.safePoint n = true →
      exec .powerStateTransition s = s.next (s.dev.enterPs s.dev.host.ps)) ∧
    (∀ n, s.dev.host.psNext = some n → s.dev.pw.entering = false → n ≤ s.dev.host.ps →
      exec .powerStateTransition s = s.next (s.dev.enterPs n)) ∧
    -- a sample: the five readings, HOT, the level, the cooling times and the warning
    (∀ t0 t1 t2 t3 t4, exec (.thermalSample t0 t1 t2 t3 t4) s = s.next ((s.dev.thermalSample [t0, t1, t2, t3, t4]).tryStart)) ∧
    -- the level falls by one after 1,000 cool samples
    (s.dev.throttle ≠ 0 → 1000 ≤ s.dev.pw.coolTicks →
      exec .throttleLevelFall s = s.next ((s.dev.setLevel (s.dev.throttle - 1)).showWarning)) ∧
    (s.dev.throttle = 0 ∨ s.dev.pw.coolTicks < 1000 → exec .throttleLevelFall s = s.next s.dev) ∧
    -- a thermal hold ends after 6,000 samples without a warning, and the state the controllers have set is asked for
    (s.dev.f Reg.PDM_THERM_STATUS_HOLD = 1 → 6000 ≤ s.dev.pw.warnTicks →
      exec .thermalHoldEnd s = s.next ((((s.dev.setF Reg.PDM_THERM_STATUS_HOLD 0).onPw fun p => { p with entering := false, reversing := false }).onHost fun h =>
        { h with psNext := some s.dev.psWanted }).powerTransition))
  )

/-- Queues, Abort, events and attachment (R413, R417, R419, R422, R423, Table 16.4): each a fetched admin command. -/
def Obligations.QueuesAndEvents : Prop :=
  ∀ (s : State) (id : CmdId), s.dev.admits id = true →
    let d := s.dev.wakeHost id.port
    let c := s.dev.ctrl id.port
    (∀ qid size, 0 < qid → qid ≤ c.queues → (∀ q ∈ c.cqs, q.id ≠ qid) → 2 ≤ size → size ≤ 4096 →
      exec (.createIoCompletionQueue id qid size) s = s.next ((d.onCtrl id.port fun c => { c with cqs := c.cqs ++ [{ id := qid, size := size }] }).complete id .success 0)) ∧
    (∀ qid size, 0 < qid → qid ≤ c.queues → (∀ q ∈ c.cqs, q.id ≠ qid) → size < 2 ∨ 4096 < size →
      exec (.createIoCompletionQueue id qid size) s = s.next (d.complete id .invalidQueueSize 0)) ∧
    (∀ qid size cq o, (∃ q ∈ c.cqs, q.id = cq) → 0 < qid → qid ≤ c.queues → (∀ q ∈ c.sqs, q.id ≠ qid) → 2 ≤ size → size ≤ 4096 →
      exec (.createIoSubmissionQueue id qid size cq o) s = s.next ((d.onCtrl id.port fun c =>
        { c with sqs := c.sqs ++ [{ id := qid, size := size, cq := cq, ordered := o }] }).complete id .success 0)) ∧
    -- a completion queue that a submission queue still uses cannot go
    (∀ qid, (∃ q ∈ c.cqs, q.id = qid) → (∃ q ∈ c.sqs, q.cq = qid) →
      exec (.deleteIoCompletionQueue id qid) s = s.next (d.complete id .invalidQueueDeletion 0)) ∧
    (∀ qid, (∃ q ∈ c.cqs, q.id = qid) → (∀ q ∈ c.sqs, q.cq ≠ qid) →
      exec (.deleteIoCompletionQueue id qid) s = s.next ((d.onCtrl id.port fun c => { c with cqs := c.cqs.filter fun q => decide (q.id ≠ qid) }).complete id .success 0)) ∧
    -- every command of a deleted submission queue ends first
    (∀ qid, (∃ q ∈ c.sqs, q.id = qid) →
      let mine (x : CmdId) : Bool := decide (x.port = id.port ∧ x.sq = qid)
      let d1 := (d.dropWrites mine).withdrawReads mine
      let d2 := (d1.host.cmds.filter fun c => mine c.id).foldl (fun (d : Dev) c => d.complete c.id .abortedSqDeletion 0) d1
      exec (.deleteIoSubmissionQueue id qid) s = s.next
        (((d2.onCtrl id.port fun c => { c with sqs := c.sqs.filter fun q => decide (q.id ≠ qid) }).complete id .success 0).settle)) ∧
    -- an Abort never aborts
    exec (.abort id) s = s.next (d.complete id .success 1) ∧
    -- an event request waits, is completed by an event that waits, or is the ninth
    (c.raised = [] → c.aers.length < 8 → exec (.asynchronousEventRequest id) s = s.next (d.onCtrl id.port fun c => { c with aers := c.aers ++ [id] })) ∧
    (∀ e es, c.raised = e :: es → exec (.asynchronousEventRequest id) s = s.next ((d.onCtrl id.port fun c => { c with raised := es }).complete id .success e.dw0)) ∧
    (c.raised = [] → 8 ≤ c.aers.length → exec (.asynchronousEventRequest id) s = s.next (d.complete id .asyncLimit 0)) ∧
    (∀ att, s.dev.host.sanitize = none → s.dev.host.sanFailed = false →
      exec (.namespaceAttachment id att) s = s.next (d.complete id (if att then .namespaceAttached else .invalidField) 0))

/-- Controllers (R426, R427, R548): enabling, reset and the two shutdowns. The twin complexes (R446 to R448, R452, R453,
R455): mirroring, coming into sync, and planned handover. -/
def Obligations.ControllersAndComplexes : Prop :=
  (
  ∀ (s : State) (p : Port), s.dev.hasPort p = true →
    (exec (.ccEnSet p) s = s.next ((s.dev.onCtrl p fun c => { c with en := true }).checkReady p)) ∧
    -- RDY follows EN once the link is up and step 7 has ended
    (∀ d : Dev, d.hasPort p = true → d.host.mayReady = true → (d.ctrl p).en = true → (d.ctrl p).link = true → (d.ctrl p).rdy = false →
      d.checkReady p = (d.onCtrl p fun c => { c with rdy := true }).fwReady) ∧
    (∀ lost, exec (.controllerReset p lost) s = s.next (s.dev.resetCtrl p ((s.dev.ctrl p).link && !lost))) ∧
    -- a normal shutdown ends at once when no dirty data is left, else it waits
    (s.dev.fetches p = true →
      let d1 := s.dev.onCtrl p fun c => { c with stopped := true, shst := 1 }
      (d1.dirtyLeft = 0 → exec (.normalShutdown p) s = s.next (d1.flushPartials.checkpoint.onCtrl p fun c => { c with shst := 2 })) ∧
      (d1.dirtyLeft ≠ 0 → exec (.normalShutdown p) s = s.next d1) ∧
      exec (.abruptShutdown p) s = s.next (s.dev.onCtrl p fun c => { c with stopped := true, shst := 2 }))
  ) ∧
  (
  ∀ s : State,
    (s.dev.inSync = true → exec .mirrorRecord s = s.next (s.dev.bumpF Reg.CPX_MIRROR_LAG 1)) ∧
    (s.dev.inSync = false → exec .mirrorRecord s = s.next s.dev) ∧
    exec .mirrorAck s = s.next (s.dev.setF Reg.CPX_MIRROR_LAG (s.dev.f Reg.CPX_MIRROR_LAG - 1)) ∧
    -- a complex that was copying is in sync, serving no port
    (∀ c, s.dev.isResetting (.complex c) = false → s.dev.isResetting (.complex c.other) = false → s.dev.cpxState c = 1 → s.dev.inSync = false →
      s.dev.cpx.reloaded.get c.idx = false →
      exec (.complexSync c) s = s.next ((s.dev.setCpxState c 2).setF Reg.CPX_STATUS_SYNC 1)) ∧
    -- a planned handover of both ports moves those the receiver does not serve; honoured in safe mode or from calibration
    (∀ i dst, (i, dst) ∈ [(fun cal => Instr.cpxToX cal, Cpx.X), (fun cal => Instr.cpxToY cal, Cpx.Y)] →
      let move := [Port.A, Port.B].filter fun p => s.dev.hasPort p && decide (s.dev.servedBy p ≠ dst)
      (∀ cal, (cal || s.dev.safe) = true → s.dev.inSync = true → s.dev.cpxUp dst = true → move ≠ [] →
        exec (i cal) s = s.next ((s.dev.passPorts dst move).bumpF Reg.CPX_TAKE_CNT_HANDOVER 1)) ∧
      (∀ cal, (cal || s.dev.safe) = false → exec (i cal) s = s.next (s.dev.ignoredWrite Reg.CPX_CTL)))
  )

/-- The subsystem semaphore (R440 to R445, R455, Table 17.2): claims, releases, the abandonment timer and the clear. -/
def Obligations.SemaphoreCommands : Prop :=
  ∀ s : State,
    (∀ id, s.dev.admits id = true →
      let d := s.dev.wakeHost id.port
      let h := 1 + id.port.idx
      -- a claim of the free semaphore: granted, explicit, its status carrying the grant count
      (s.dev.semHolder = 0 → s.dev.sem.queue = [] →
        let d1 := (d.semGrant h).semClaim h
        exec (.semaphoreClaim id) s = s.next (d1.complete id .success (d1.f Reg.CPX_SEM_GRANTS * 65536))) ∧
      -- a claim while another holds it waits; behind 64 others it is refused and counted
      (s.dev.semHolder ≠ 0 → s.dev.semHolder ≠ h → s.dev.sem.queue.length < 64 →
        exec (.semaphoreClaim id) s = s.next (d.setQueue (s.dev.sem.queue ++ [{ holder := h, op := .claim id }]))) ∧
      (s.dev.semHolder ≠ 0 → s.dev.semHolder ≠ h → 64 ≤ s.dev.sem.queue.length →
        exec (.semaphoreClaim id) s = s.next (d.semRefused.complete id .commandSequenceError 0)) ∧
      -- a release by the holder frees it for the next in the queue; by another it changes nothing but the status
      (s.dev.semHolder = h → s.dev.sem.ops = 0 → exec (.semaphoreRelease id) s = s.next (d.semClear.complete id .success 0).semSettle) ∧
      (s.dev.semHolder ≠ 0 → s.dev.semHolder ≠ h → exec (.semaphoreRelease id) s = s.next (d.complete id .success 5).semSettle)) ∧
    -- the abandonment timer: released and logged, unless an operation still runs under the hold
    (s.dev.f Reg.CPX_SEM_TIMER ≠ 0 → s.dev.sem.ops = 0 → exec .semaphoreAbandoned s = s.next s.dev.semAbandon.semSettle) ∧
    (s.dev.f Reg.CPX_SEM_TIMER ≠ 0 → s.dev.sem.ops ≠ 0 →
      exec .semaphoreAbandoned s = s.next { s.dev with sem := { s.dev.sem with expired := true } }) ∧
    (∀ h, 3 ≤ h → h ≤ 5 →
      let d1 := s.dev.setQueue (s.dev.sem.queue.filter fun r => decide (r.holder ≠ h))
      exec (.holderBusIdle h) s = s.next (if s.dev.semHolder = h then d1.setF Reg.CPX_SEM_TIMER 1 else d1)) ∧
    (∀ cal, (cal || s.dev.safe) = true →
      exec (.cpxSemFree cal) s = s.next (s.dev.sem.queue.foldl (fun (d : Dev) r => d.complete r.op.id .commandSequenceError 0) (s.dev.setQueue []).semClear)) ∧
    (∀ cal, (cal || s.dev.safe) = false → exec (.cpxSemFree cal) s = s.next (s.dev.ignoredWrite Reg.CPX_CTL))

/-- The serialized features (R61, R420, R526, Table 16.8): each runs under an implicit hold of the open semaphore. -/
def Obligations.SerializedFeatures : Prop :=
  ∀ (s : State) (id : CmdId), s.dev.admits id = true →
    let d := s.dev.wakeHost id.port
    let h := 1 + id.port.idx
    s.dev.semOpen h = true → s.dev.sem.queue = [] →
    (∀ t u k, t ≤ 5 → exec (.setTemperatureThreshold id t u k) s = s.next
      ((((d.semGrant h).semBegin.runFeature id (0x400 + 2 * t + flag u) (k % 65536 + 1)).semEnd).semSettle)) ∧
    (∀ t u k, 5 < t → exec (.setTemperatureThreshold id t u k) s = s.next (d.complete id .invalidField 0)) ∧
    -- DULBE is not supported; a limit below the floor of the geometry is refused, any other takes effect for its namespace
    (∀ ns t, exec (.setErrorRecovery id ns t true) s = s.next (d.complete id .invalidField 0)) ∧
    (∀ ns t, ns = 1 ∨ ns = 2 → exec (.setErrorRecovery id ns t false) s = s.next
      ((((d.semGrant h).semBegin.runFeature id (0x500 + ns) (t % 65536)).semEnd).semSettle)) ∧
    (∀ (x : Dev) key v, 0x500 ≤ key → key < 0x600 → v ≠ 0 → v * x.speed * x.wedges < x.floorTicks * 60000 →
      x.runFeature id key v = x.complete id .invalidField 0) ∧
    (∀ (x : Dev) key v, 0x500 ≤ key → key < 0x600 → x.floorTicks * 60000 ≤ v * x.speed * x.wedges →
      x.runFeature id key v = (x.onHost fun h => { h with feats := sset 0 h.feats key v }).complete id .success 0) ∧
    (∀ ms, exec (.setTimestamp id ms) s = s.next
      (((((d.semGrant h).semBegin.onHost fun x => { x with timestamp := some (ms % 2 ^ 48, s.dev.clock.nowNs) }).complete id .success 0).semEnd).semSettle))

/-- Firmware download, commit and activation (R431, R454, R486, Table 19.5). -/
def Obligations.FirmwareCommands : Prop :=
  ∀ (s : State) (id : CmdId), s.dev.admits id = true → s.dev.host.sanitize = none → s.dev.host.sanFailed = false →
    let d := s.dev.wakeHost id.port
    let h := 1 + id.port.idx
    -- a piece on a 4 KiB boundary within 12 MiB that meets no earlier piece is kept; a piece that meets one is refused
    (∀ ofs bs, bs ≠ [] → ofs % 4096 = 0 → bs.length % 4096 = 0 → ofs + bs.length ≤ 12 * 2 ^ 20 →
      (∀ p ∈ s.dev.host.pieces, piecesMeet p (ofs, bs) = false) →
      exec (.firmwareImageDownload id ofs bs) s = s.next ((d.onHost fun h => { h with pieces := h.pieces ++ [(ofs, bs)] }).complete id .success 0)) ∧
    (∀ ofs bs, bs ≠ [] → ofs % 4096 = 0 → bs.length % 4096 = 0 → ofs + bs.length ≤ 12 * 2 ^ 20 →
      (∃ p ∈ s.dev.host.pieces, piecesMeet p (ofs, bs) = true) →
      exec (.firmwareImageDownload id ofs bs) s = s.next (d.complete id .overlappingRange 0)) ∧
    -- each commit runs under an implicit hold
    (s.dev.semOpen h = true → ∀ fs sig e,
      exec (.firmwareCommitCa000 id fs sig e) s = s.next ((d.semGrant h).semBegin.runCommit id 0 fs sig e).semSettle ∧
      exec (.firmwareCommitCa001 id fs sig e) s = s.next ((d.semGrant h).semBegin.runCommit id 1 fs sig e).semSettle ∧
      exec (.firmwareCommitCa010 id fs sig) s = s.next ((d.semGrant h).semBegin.runCommit id 2 fs sig .done).semSettle ∧
      exec (.firmwareCommitCa011 id fs sig e) s = s.next ((d.semGrant h).semBegin.runCommit id 3 fs sig e).semSettle) ∧
    -- CA 000 stores the downloaded image into the slot that is not active; CA 001 also makes it pending
    (∀ (x : Dev) bs ca, imageOfPieces x.host.pieces = some bs → x.host.pieces ≠ [] → x.imageFault true true bs = 0 → ca ≤ 1 → x.nv.boot.active = 0 →
      let y := (x.storeImage true 1 (bs.take (256 + (ImageHeader.ofBytes bs).clen)) .done).onHost fun h => { h with pieces := [] }
      x.runCommit id ca 0 true .done = (if ca = 1 then y.setPendingFw 1 else y).fwDone (some id) 1 ca) ∧
    -- the running activation's next step: the commit completes with its last one
    (∀ v d1, s.dev.cpx.act = some v → s.dev.activate v = (false, d1) → exec .activationStep s = s.next d1.semSettle) ∧
    (∀ v d1, s.dev.cpx.act = some v → s.dev.activate v = (true, d1) →
      exec .activationStep s = s.next (((d1.onCpx fun x => { x with act := none }).fwDone v.id v.slot 3).semSettle))

/-- Format NVM and Sanitize (R428 to R430, R440, Table 16.9): accepted under the semaphore, or turned away. -/
def Obligations.FormatAndSanitize : Prop :=
  ∀ (s : State) (id : CmdId), s.dev.admits id = true → s.dev.host.sanitize = none →
    let d := s.dev.wakeHost id.port
    let h := 1 + id.port.idx
    (∀ lbaf ses l, s.dev.host.sanFailed = false → lbaf ≤ 2 → ses ≤ 2 → s.dev.semOpen h = true → s.dev.sem.queue = [] →
      exec (.formatNvm id lbaf ses l) s = s.next ((d.semGrant h).semBegin.onHost fun x =>
        { x with format := some { id := some id, lbaf := lbaf, ses := ses, layout := l, step := 0 } })) ∧
    (∀ lbaf ses l, s.dev.host.sanFailed = false → 2 < lbaf → exec (.formatNvm id lbaf ses l) s = s.next (d.complete id .invalidFormat 0)) ∧
    (∀ lbaf ses l, s.dev.host.sanFailed = true → exec (.formatNvm id lbaf ses l) s = s.next (d.complete id .sanitizeFailed 0)) ∧
    (s.dev.semOpen h = true →
      -- a sanitize completes as it starts; its work goes on behind
      let go (z : Sanitize) (n : Nat) : Dev := ((((((d.semGrant h).semBegin.onHost fun x => { x with sanitize := some z, sanFailed := false, sanAuse := false }).event
        Ev.sanitizeStart .hpa n 0).complete id .success 0).semEnd).semSettle)
      (∀ n p inv ause fails, exec (.sanitizeOverwrite id n p inv ause fails) s = s.next (go { overwrite := true, passes := if n % 16 = 0 then 16 else n % 16, pattern := p.toNat, invert := inv, ause := ause, pass := 0, bands := 0, fails := fails, resumed := false } 3)) ∧
      (∀ ause fails, exec (.sanitizeCryptoErase id ause fails) s = s.next (go { overwrite := false, passes := 0, pattern := 0, invert := false, ause := ause, pass := 0, bands := 0, fails := fails, resumed := false } 4)) ∧
      -- failure mode is left after a failed sanitize that allowed it
      (s.dev.host.sanFailed = true → s.dev.host.sanAuse = true →
        exec (.sanitizeExitFailureMode id) s = s.next (((((d.semGrant h).semBegin.onHost fun x => { x with sanFailed := false, sanAuse := false }).complete id .success 0).semEnd).semSettle)))

/-- The vault's readiness and the power-loss sequence (R319 to R324, R425, R492, R493, R577). -/
def Obligations.PowerLossAndVault : Prop :=
  ∀ s : State,
    -- arming: every condition of R324 met, no sequence running; an episode of ill health ends
    (let d1 := s.dev.vaultTick
     d1.pd.generator = false → d1.pd.held = false → d1.mayArm = true →
      exec .vaultArm s = s.next ((d1.setF Reg.PWR_VAULT_STATUS_ARMED 1).onHost fun h => { h with unhealthy := false })) ∧
    -- a vault that stays unarmed at speed raises its event once
    (s.dev.host.unhealthy = false → s.dev.armed = false → s.dev.host.ps < 4 → s.dev.f Reg.SPN_STATUS_AT_SPEED ≠ 0 →
      exec .vaultUnhealthy s = s.next ((s.dev.onHost fun h => { h with unhealthy := true }).raiseAll .vaultUnhealthy)) ∧
    -- a supply drop latches its cause and starts the power die's own sequence, whose retract has cause 1
    (s.dev.pd.generator = false → s.dev.pd.held = false → s.dev.f Reg.PWR_SMON_STATUS_CORE_PG ≠ 0 →
      (let d1 := ((s.dev.setF Reg.PWR_SMON_STATUS_GOOD12 0).setF Reg.PWR_SMON_STATUS_TRIP 1).setF Reg.PWR_SMON_STATUS_CAUSE 1
       exec (.supplyDrop true false false) s = s.next d1.powerLoss) ∧
      (let d1 := ((s.dev.setF Reg.PWR_SMON_STATUS_GOOD5 0).setF Reg.PWR_SMON_STATUS_TRIP 1).setF Reg.PWR_SMON_STATUS_CAUSE 2
       exec (.supplyDrop false true false) s = s.next d1.powerLoss) ∧
      exec .pwrdis s = s.next ((s.dev.setF Reg.PWR_SMON_STATUS_TRIP 1).setF Reg.PWR_SMON_STATUS_CAUSE 3).powerLoss) ∧
    (∀ d : Dev, d.powerLoss = ((if d.spnState = 0 then d else d.driveOff 7).onPd fun p => { p with generator := true, failed := true }).retract 1) ∧
    -- the digital die's steps: with the vault armed the save begins, else it is left untouched and the die resets
    (s.dev.pd.failed = true → s.dev.pd.saving = false → s.dev.pd.held = false →
      let d1 := s.dev.failSteps
      (d1.armed = true → exec .powerFail s = s.next ((d1.openVault.setF Reg.FUL_STATUS_VAULT 1).onPd fun p => { p with saving := true })) ∧
      (d1.armed = false → exec .powerFail s = s.next ((d1.setF Reg.PWR_VAULT_STATUS_LAST 2).holdReset))) ∧
    -- the seal; VHOLD lost before it ends the save without one
    (∀ ms mj, s.dev.pd.saving = true → exec (.vaultSeal ms mj) s = s.next ((s.dev.sealVault ms mj).holdReset)) ∧
    (s.dev.pd.saving = true →
      exec .vholdLost s = s.next ((((s.dev.setF Reg.PWR_SMON_STATUS_GOODHOLD 0).setF Reg.PWR_VAULT_STATUS_ARMED 0).setF Reg.PWR_VAULT_STATUS_LAST 3).holdReset)) ∧
    (∀ ms mj, s.dev.pd.saving = false → exec (.vaultSeal ms mj) s = s.next s.dev)

/-- Power up and the motor outputs (R320, R572, R575, R576, R578). -/
def Obligations.PowerUpAndOutputs : Prop :=
  ∀ s : State,
    -- both supplies good: the converters, then VHOLD; a spindle start that waited begins
    (s.dev.pd.held = false → s.dev.pd.generator = false →
      let d1 := (s.dev.setF Reg.PWR_SMON_STATUS_GOOD12 1).setF Reg.PWR_SMON_STATUS_GOOD5 1
      let d2 := (d1.setF Reg.PWR_SMON_STATUS_CORE_PG 1).setF Reg.PWR_SMON_STATUS_GOODHOLD 1
      d1.f Reg.PWR_SMON_STATUS_GOOD12 ≠ 0 → d1.f Reg.PWR_SMON_STATUS_GOOD5 ≠ 0 →
      exec (.supplyGood true true) s = s.next (if d2.spn.wanted then d2.tryStart else d2)) ∧
    -- after a hold in reset, 100 ms of good supplies start the module again; nothing happens otherwise
    (s.dev.pd.held = true →
      let d1 := s.dev.dieReset.onPd fun p => { PowerDie.fresh with retract := p.retract, moving := p.moving }
      let d2 := (({ d1 with clock := Clock.fresh, fmg := FaultMgr.fresh }.setF Reg.FMG_STATUS_RESTARTS 0).setF Reg.PWR_SMON_STATUS_GOOD12 1).setF Reg.PWR_SMON_STATUS_GOOD5 1
      exec .suppliesGood100Ms s = s.next ((d2.setF Reg.PWR_SMON_STATUS_CORE_PG 1).setF Reg.PWR_SMON_STATUS_GOODHOLD 1)) ∧
    (s.dev.pd.held = false → exec .suppliesGood100Ms s = s.next s.dev) ∧
    -- a shorted output goes off: the spindle's stops the drive, a voice coil's is a fault of that actuator's servo
    (let d1 := s.dev.onPd fun p => { p with outputsOff := p.outputsOff ||| 1 }
     exec (.motorOutputShort 0) s = s.next ((if d1.spnState = 0 then d1 else d1.driveOff 7).reportFault .spindle 7)) ∧
    (∀ n, 1 ≤ n → n ≤ 4 → s.dev.hasAct (Act.ofBit ((n - 1) % 2)) = true →
      exec (.motorOutputShort n) s = s.next ((s.dev.onPd fun p => { p with outputsOff := p.outputsOff ||| 2 ^ n }).reportFault (.servoEngine (Act.ofBit ((n - 1) % 2))) 7))

/-- The fault manager (R449, R529 to R538): faults, watchdogs, limits and restarts. -/
def Obligations.FaultsAndWatchdogs : Prop :=
  ∀ s : State,
    -- the oldest reported fault is taken; one found from outside comes with its cause
    (∀ u c rest stall, s.dev.fmg.queue = (u, c) :: rest →
      exec (.fault none stall) s = s.next ((s.dev.onFmg fun m => { m with queue := rest }).takeFault u c true stall)) ∧
    (∀ u c stall, s.dev.hasUnit u = true → exec (.fault (some (u, c)) stall) s = s.next (s.dev.takeFault u c false stall)) ∧
    -- a fault is counted, then fails the unit at LIMIT, is only counted during a recovery, and is acted on otherwise
    (∀ (d : Dev) u c own stall,
      let d1 := d.countFault u c
      (d1.isFailed u = true → d.takeFault u c own stall = d1) ∧
      (d1.isFailed u = false → canFail u = true → d1.f Reg.FMG_CFG_LIMIT ≤ d1.faultCount u → d.takeFault u c own stall = (d1.markFailed u).failureAction u c stall) ∧
      (d1.isFailed u = false → canFail u = false ∨ d1.faultCount u < d1.f Reg.FMG_CFG_LIMIT → d1.isRecovering u = true → d.takeFault u c own stall = d1) ∧
      (d1.isFailed u = false → canFail u = false ∨ d1.faultCount u < d1.f Reg.FMG_CFG_LIMIT → d1.isRecovering u = false →
        d.takeFault u c own stall = d1.faultAction u c own stall)) ∧
    -- the watchdogs
    (∀ n, exec (.coreWatchdog n) s = s.next (s.dev.takeFault (.core n) 2 true 0)) ∧
    (∀ c stall, s.dev.cpxUp c = true → exec (.complexWatchdog c stall) s = s.next (s.dev.takeFault (.complex c) 2 true stall)) ∧
    (∀ a, s.dev.hasAct a = true → (s.dev.blk.get a).cur.isSome = true → exec (.blockerWatchdog a) s = s.next (s.dev.takeFault (.blocker a) 2 true 0)) ∧
    exec .fmgKick s = s.next (s.dev.onFmg fun m => { m with kicked := true }) ∧
    (s.dev.fmg.kicked = true → exec .moduleWatchdog s = s.next (s.dev.onFmg fun m => { m with kicked := false })) ∧
    (s.dev.fmg.kicked = false → exec .moduleWatchdog s = s.next (s.dev.moduleRestart 3)) ∧
    -- a unit still resetting at its limit has a fault of cause 6
    (∀ u f, s.dev.isResetting u = true → faultUnit u = some f → s.dev.isFailed f = false →
      exec (.readyLimitExpired u) s = s.next ((s.dev.onFmg fun m => { m with recovering := m.recovering.filter fun x => decide (x ≠ f) }).takeFault f 6 false 0)) ∧
    -- a complex without a heartbeat, or out of lockstep, is taken over
    (∀ c stall, s.dev.cpxUp c = true →
      exec (.heartbeatTimeout c stall) s = s.next ((s.dev.countFault (.complex c) 2).complexFault c 3 stall) ∧
      exec (.lockstepMismatch c stall) s = s.next ((s.dev.countFault (.complex c) 5).complexFault c 1 stall))

/-- Requests between units (R32 to R36): accepted, held, answered, discarded; resets and ready notices. -/
def Obligations.UnitRequestsAndResets : Prop :=
  ∀ s : State,
    (∀ r i, unitDomain r.target = some i → s.dev.unitPowered r.target = true →
      let d1 := s.dev.setDomLow i false
      -- accepted with the target's present generation, not zero
      (s.dev.isResetting r.target = false → s.dev.gen r.target = r.targetGen → s.dev.gen r.target ≠ 0 →
        exec (.unitRequest r) s = s.next { d1 with units := { d1.units with outstanding := d1.units.outstanding ++ [r] } }) ∧
      -- held by its requester while the target resets or with any other generation
      (s.dev.isResetting r.target = true ∨ s.dev.gen r.target ≠ r.targetGen →
        exec (.unitRequest r) s = s.next { d1 with units := { d1.units with held := d1.units.held ++ [r] } })) ∧
    (∀ r, let mine (q : UnitReq) : Bool := decide (q.tag = r.tag ∧ q.requester = r.requester ∧ q.target = r.target)
      (r.targetGen = s.dev.gen r.target → r.requesterGen = s.dev.gen r.requester → s.dev.units.outstanding.any mine = true →
        exec (.unitResponse r) s = s.next { s.dev with units := { s.dev.units with outstanding := s.dev.units.outstanding.filter fun q => !mine q, answered := r.tag :: s.dev.units.answered } }) ∧
      -- a response that names a stale generation is discarded
      (r.targetGen ≠ s.dev.gen r.target ∨ r.requesterGen ≠ s.dev.gen r.requester → exec (.unitResponse r) s = s.next s.dev)) ∧
    -- a reset of a powered unit: its effect, the next generation, counted
    (∀ u, s.dev.unitPowered u = true → (∀ c, u ≠ .complex c) →
      exec (.unitReset u) s = s.next (((s.dev.resetEffect u).resetUnit u).bumpF Reg.FMG_CNT_RESETS 1)) ∧
    (∀ c, s.dev.unitPowered (.complex c) = true → exec (.unitReset (.complex c)) s = s.next ((s.dev.resetCpx c 5).bumpF Reg.FMG_CNT_RESETS 1)) ∧
    -- a ready notice waits for the responses of earlier generations
    (∀ u, exec (.readyNotice u true) s = s.next s.dev) ∧
    (∀ n, s.dev.isResetting (.core n) = true → s.dev.unitPowered (.core n) = true → s.dev.isFailed (.core n) = false →
      let d0 := s.dev.onFmg fun m => { m with recovering := m.recovering.filter fun x => decide (some x ≠ faultUnit (.core n)) }
      exec (.readyNotice (.core n) false) s = s.next ((d0.readyUnit (.core n)).setF Reg.FMG_STATUS_CORES (putBit (d0.f Reg.FMG_STATUS_CORES) n.val true))) ∧
    (∀ c, s.dev.isResetting (.complex c) = true → s.dev.unitPowered (.complex c) = true → s.dev.isFailed (.complex c) = false →
      exec (.readyNotice (.complex c) false) s = s.next ((s.dev.onFmg fun m => { m with recovering := m.recovering.filter fun x => decide (some x ≠ faultUnit (.complex c)) }).cpxReady c))

/-- Identify, log pages and the persistent event log's contexts (R412, R413, R516, Tables 16.3, 16.4 and 16.7). The
features that need no semaphore (R417, R420, R421, R432, Table 16.8). -/
def Obligations.IdentifyLogsAndFeatures : Prop :=
  (
  ∀ (s : State) (id : CmdId), s.dev.admits id = true →
    let d := s.dev.wakeHost id.port
    (∀ cns ns csi fs, d.identify id.port cns ns csi = some fs →
      exec (.identify id cns ns csi) s = s.next ((d.giveHost id (.fields fs)).complete id .success 0)) ∧
    (∀ cns ns csi, d.identify id.port cns ns csi = none → exec (.identify id cns ns csi) s = s.next (d.complete id .invalidField 0)) ∧
    -- a log page of Table 16.7: reading the two change lists empties them unless the event is retained
    (∀ lid retain fs, d.logPage id.port lid = some fs →
      exec (.getLogPage id lid retain) s = s.next (((d.clearChanges id.port lid retain).giveHost id (.fields fs)).complete id .success 0)) ∧
    (∀ lid retain, d.logPage id.port lid = none → lid ≠ 0x0D →
      exec (.getLogPage id lid retain) s = s.next (d.complete id .invalidLogPage 0)) ∧
    (∀ (x : Dev) p, (∀ retain, retain = true → x.clearChanges p 0xBF retain = x) ∧
      x.clearChanges p 0xBF false = x.onCtrl p fun c => { c with changedZones := [] }) ∧
    -- a context freezes the records held now, with the Timestamp's offset; its release thaws them
    ((s.dev.ctrl id.port).pel = none →
      exec (.pelContextEstablish id) s = s.next (((d.freezeRecs (1 + id.port.idx)).onCtrl id.port fun c =>
        { c with pel := some s.dev.hb.recs, pelOfs := d.timestampNow.map fun t => (t : Int) - s.dev.clock.nowNs / 1000000 }).complete id .success 0)) ∧
    exec (.pelContextRelease id) s = s.next (((d.thawRecs (1 + id.port.idx)).onCtrl id.port fun c => { c with pel := none, pelOfs := none }).complete id .success 0)
  ) ∧
  (
  ∀ (s : State) (id : CmdId), s.dev.admits id = true →
    let d := s.dev.wakeHost id.port
    let set (fid v : Nat) : Dev := (d.onCtrl id.port fun c => { c with feats := sset 0 c.feats fid v }).complete id .success 0
    (∀ v, exec (.setArbitration id v) s = s.next (set 0x01 (v % 2 ^ 32)) ∧
      exec (.setInterruptCoalescing id v) s = s.next (set 0x08 (v % 2 ^ 16)) ∧
      exec (.setWriteAtomicityNormal id v) s = s.next (set 0x0A (v % 2 ^ 32)) ∧
      exec (.setAsyncEventConfiguration id v) s = s.next (set 0x0B (v % 2 ^ 32))) ∧
    (∀ v cd, exec (.setInterruptVectorConfiguration id v cd) s = s.next (set (0x90000 + v % 65536) (flag cd))) ∧
    -- a power state the drive has: kept, and the drive asked to follow
    (∀ ps, ps ≤ 4 → exec (.setPowerManagement id ps) s = s.next (set 0x02 ps).askState) ∧
    (∀ ps, 4 < ps → exec (.setPowerManagement id ps) s = s.next (d.complete id .invalidField 0)) ∧
    exec (.setVolatileWriteCache id) s = s.next (d.complete id .invalidField 0) ∧
    -- as many queue pairs as the fewer of the two counts, at most 128
    (∀ a b, a ≠ 65535 → b ≠ 65535 →
      let n := Nat.min 127 (Nat.min a b)
      exec (.setNumberOfQueues id a b) s = s.next ((d.onCtrl id.port fun c => { c with feats := sset 0 c.feats 0x07 (n + 1) }).complete id .success (n * 65536 + n))) ∧
    (∀ fid sel v, d.feature id.port fid sel = some v → fid ≠ 0x0E → exec (.getFeatures id fid sel) s = s.next (d.complete id .success v)) ∧
    (∀ fid sel, d.feature id.port fid sel = none → exec (.getFeatures id fid sel) s = s.next (d.complete id .invalidField 0)) ∧
    exec (.getZoneReorder id true) s = s.next (d.complete id .success (d.f Reg.ZQE_POOL_DEPTH)) ∧
    exec (.getZoneReorder id false) s = s.next (d.complete id .success (d.f Reg.ZQE_CFG_HOLD * 65536 + d.f Reg.ZQE_CFG_WINDOW)) ∧
    (∀ ns, ns = 1 ∨ ns = 2 → exec (.getErrorRecoveryVendorData id ns) s = s.next
      (d.complete id .success (d.planFor (d.tler ns) (decide (ns = 2)) * 2 ^ 28 + d.f Reg.SIZ_FLOOR_FLOOR_100MS * 2 ^ 20)))
  )

/-- NVMe-MI (R436, Table 16.13): in-band requests and responses, and the management bus of each port. -/
def Obligations.ManagementInterface : Prop :=
  ∀ s : State,
    -- an in-band request that is served at once leaves its response waiting; the fetch returns it and empties it
    (∀ id r, s.dev.admits id = true → (∀ ws o, r ≠ .vendor ws o) →
      let d1 := ((s.dev.wakeHost id.port).onCtrl id.port fun c => { c with miReply := none }).setPath (.miInBand id.port)
        { (s.dev.wakeHost id.port).mpiPath (.miInBand id.port) with unread := false }
      exec (.nvmeMiSend id r) s = s.next ((((d1.miServe id.port r).2.onCtrl id.port fun c => { c with miReply := some (d1.miServe id.port r).1 }).complete id .success 0))) ∧
    (∀ id fs, s.dev.admits id = true → (s.dev.ctrl id.port).miReply = some fs →
      exec (.nvmeMiReceive id) s = s.next ((((s.dev.wakeHost id.port).onCtrl id.port fun c => { c with miReply := none }).giveHost id (.fields fs)).complete id .success 0)) ∧
    -- the bus answers from step 5 of start-up on: each read of health, structures and configuration changes nothing else
    (∀ p, s.dev.serves (.miBus p) = true →
      let out (fs : List (String × Nat)) : Dev := s.dev.onHost fun h => { h with miOut := (p, fs) :: h.miOut }
      exec (.basicManagementCommand p) s = s.next (out s.dev.miBasic) ∧
      (∀ x, exec (.readNvmeMiDataStructure p x) s = s.next (out (s.dev.miData x))) ∧
      exec (.nvmSubsystemHealthStatusPoll p) s = s.next (out s.dev.miSubsystem) ∧
      exec (.controllerHealthStatusPoll p) s = s.next (out s.dev.miControllers) ∧
      (∀ c, exec (.configurationGet p c) s = s.next (out (miStatus 0 [("VALUE", s.dev.miCfg p c)]))) ∧
      (∀ c v, exec (.configurationSet p c v) s = s.next ((s.dev.setMiCfg p c v).onHost fun h => { h with miOut := (p, miStatus 0 []) :: h.miOut })) ∧
      (∀ off len, exec (.vpdRead p off len) s = s.next (out (s.dev.miVpd off len))) ∧
      (∀ c x, s.dev.hasPort c = true →
        exec (.tunnelledAdminCommand p c x) s = s.next ((s.dev.miTunnel c x).2.onHost fun h => { h with miOut := (p, (s.dev.miTunnel c x).1) :: h.miOut })) ∧
      -- a vendor message carries one packet; a bad one waits for nothing and changes nothing but its path
      (∀ ws o, exec (.vendorSpecificMessage p ws o) s = s.next (s.dev.arrivePacket (.miBus p) { words := ws, obs := o, cmd := none }))) ∧
    (∀ p, s.dev.serves (.miBus p) = false →
      exec (.basicManagementCommand p) s = s.next s.dev ∧ exec (.nvmSubsystemHealthStatusPoll p) s = s.next s.dev)

/-- The register fabric (R4, R5, R7, R31, R39): whole-register writes, reads that clear, and the time of now. -/
def Obligations.RegisterFabric : Prop :=
  ∀ (s : State) (who : Requester),
    -- the low half of the time answers and latches the high half for its reader
    exec (.tickNowLoRead who) s = s.next (let v := s.dev.clock.val
      let d1 := s.dev.answer who (BitVec.ofNat 32 v)
      { d1 with clock := { d1.clock with nowHi := sset 0 d1.clock.nowHi who.key (BitVec.ofNat 16 (v / 2 ^ 32)) } }) ∧
    -- a read in an absent block answers zero; any other read outside the special registers answers the live value and clears RC fields
    (∀ addr o, s.dev.absentAt addr = true → exec (.rcRead who addr o) s = s.next (s.dev.answer who 0)) ∧
    (∀ addr o b, s.dev.absentAt addr = false → addr ≠ Reg.TICK_NOW_LO → addr ≠ Reg.TICK_NOW_HI → addr ≠ Reg.HBR_WIN_WORD.addr + 28 →
      blockOf addr = some b → (∀ a, b ≠ .cst a ∧ b ≠ .srv a) →
      exec (.rcRead who addr o) s = s.next ((s.dev.answer who (s.dev.live addr)).clearRc addr)) ∧
    -- a write in a block without a special effect is a write of its fields; absent registers drop it with one event
    (∀ addr w o b, addr < 0x600000 ∨ 0x600200 ≤ addr → addr ≠ Reg.CRN_MAINT → blockOf addr = some b → s.dev.honours false addr = true →
      addr ≠ blkCtlAddr .a0 → addr ≠ blkCtlAddr .a1 → (∀ a, b ≠ .cst a ∧ b ≠ .afe a ∧ b ≠ .tnl a ∧ b ≠ .srv a) →
      addr ∉ [Reg.SIZ_CTL, Reg.SPN_CTL, Reg.PWR_RET_CTL, Reg.BUF_TEST_CTL, Reg.DMC_TEST_CTL, Reg.FUL_CTL, Reg.FUL_RING_TAIL, Reg.HBR_CURSOR, Reg.CPX_CTL, Reg.FMG_KICK] →
      exec (.registerWrite who addr w o) s = s.next (s.dev.writeMasked false addr 0xFFFFFFFF#32 w)) ∧
    (∀ (d : Dev) cal addr m w, d.absentAt addr = true → d.writeMasked cal addr m w = d.absentWrite addr) ∧
    -- a write of 1 to FMG_KICK services the module watchdog
    (∀ w o, testBit w.toNat 0 = true → s.dev.honours false Reg.FMG_KICK = true →
      exec (.registerWrite who Reg.FMG_KICK w o) s = s.next ((s.dev.writeMasked false Reg.FMG_KICK 0xFFFFFFFF#32 w).onFmg fun m => { m with kicked := true }))

/-- Start-up's steps 1 to 5, each in the step it ends (R439, R486, R542, R543, R544, R545, R546). -/
def Obligations.StartUpFirmware : Prop :=
  ∀ s : State,
    -- step 1: both supplies good; the straps are sampled, the security engine derives its keys
    (∀ pins off, s.dev.pd.held = false → s.dev.pd.generator = false → s.dev.bootStep = 1 →
      s.dev.f Reg.PWR_SMON_STATUS_GOOD12 ≠ 0 → s.dev.f Reg.PWR_SMON_STATUS_GOOD5 ≠ 0 →
      let d1 := (s.dev.setF Reg.PWR_SMON_STATUS_CORE_PG 1).setF Reg.SYS_STRAP_PINS (pins % 16)
      let d2 : Dev := { d1 with portBOff := off, hb := { d1.hb with boot := d1.hb.boot + 1, atPowerGood := d1.hb.recs.length } }
      exec (.powerGood pins off) s = s.next (((d2.domainsUp Training.blank domainsOne).deriveKeys).endStep 1)) ∧
    -- step 2: the option area is loaded, queued events and POWER_ON are written; edges of the chosen source end the step
    (∀ edges, s.dev.bootStep = 2 → s.dev.hb.ready = false →
      let d1 := ((s.dev.domainsUp Training.blank domainsOne).deriveKeys).loadOption
      let d2 := (d1.onHb fun h => { h with ready := true }).drainEvents
      let d3 := (d2.event Ev.powerOn .nvc (d2.reg Reg.NVC_BOOT).toNat (d2.reg Reg.PWR_VAULT_STATUS).toNat).handleTickets
      let d4 := d3.onNv fun n => { n with badSlots := [] }
      exec (.optionAreaLoad edges) s = s.next (if edges then
        (((d4.setF Reg.SYS_STRAP_EFFECTIVE d4.strapsNow).endStep 2).trainPorts) else d4)) ∧
    -- a source without edges: the other one is taken, and the event says so; with none, both are tried again
    (s.dev.bootStep = 2 → s.dev.hb.ready = true →
      let alt := (((((s.dev.setF Reg.SYS_STRAP_EFFECTIVE s.dev.strapsNow).setF Reg.SYS_BOOT_CLK_ALT 1).event Ev.other .sys Reg.SYS_BOOT 0).endStep 2).trainPorts)
      exec (.clockSourceTimeout true) s = s.next alt ∧
      exec (.clockSourceTimeout false) s = s.next s.dev ∧
      exec (.clockSourceRetry false true) s = s.next alt ∧
      exec (.clockSourceRetry false false) s = s.next s.dev ∧
      ∀ other, exec (.clockSourceRetry true other) s = s.next ((s.dev.setF Reg.SYS_STRAP_EFFECTIVE s.dev.strapsNow).endStep 2).trainPorts) ∧
    -- a port's PERST# rises: its link trains once step 2 has ended, never in recovery
    (∀ p, let d1 := s.dev.onHost fun h => { h with perst := h.perst.set p.idx true }
      exec (.perstDeassert p) s = s.next (if d1.hasPort p ∧ 2 < d1.bootStep ∧ !d1.inRecovery then
        (d1.onCtrl p fun c => { c with link := true }).checkReady p else d1)) ∧
    -- step 3: the boot record names the slot to try first, and is written before the image starts
    (∀ a b, s.dev.bootStep = 3 → s.dev.inRecovery = false → s.dev.nv.badSlots = [] →
      let c := bootChoice (s.dev.opt 4 1 0) s.dev.nv.boot
      let d1 := s.dev.setBoot c.2.1
      let d2 := if c.2.2 then (d1.setF Reg.NVC_BOOT_FALLBACK 1).event Ev.bootFallback .nvc
        ((d1.setF Reg.NVC_BOOT_FALLBACK 1).reg Reg.NVC_BOOT).toNat 0 else d1
      let first := d2.slotSound ⟨a, b⟩ c.1
      (first.1 = true → exec (.firmwareVerify a b) s = s.next ((first.2.setF Reg.NVC_BOOT_FW_BOOTED c.1).endStep 3)) ∧
      (first.1 = false → (first.2.slotSound ⟨a, b⟩ (1 - c.1)).1 = true → exec (.firmwareVerify a b) s = s.next
        (((first.2.slotSound ⟨a, b⟩ (1 - c.1)).2.setF Reg.NVC_BOOT_FW_BOOTED (1 - c.1)).endStep 3))) ∧
    -- step 4: the booted slot's image starts the complexes; one that does not decompress sends the ROM to the other slot
    (∀ slot r, s.dev.bootStep = 4 → s.dev.inRecovery = false → s.dev.f Reg.NVC_BOOT_FW_BOOTED = slot → s.dev.slotImage true slot = r →
      (∀ bs body, r.1 = some bs → imageBody bs = some body →
        let d3 := (((r.2.domainsUp Training.blank domainsFour).setF Reg.CPX_MIRROR_VER (ImageHeader.ofBytes bs).mirrorVer).setServed .A .X).setServed .B .Y
        exec .firmwareDecompress s = s.next ((((d3.cpxReady .X).cpxReady .Y).setF Reg.CPX_STATUS_SYNC 0).setF Reg.FMG_STATUS_CORES 0xF |>.endStep 4)) ∧
      (∀ bs, r.1 = some bs → imageBody bs = none → r.2.nv.badSlots = [] → slot < 2 →
        exec .firmwareDecompress s = s.next ((r.2.onNv fun n => { n with badSlots := slot :: n.badSlots }).setF Reg.SYS_BOOT_STEP 3))) ∧
    -- step 5: the channels that trained give the capacity, and the fill starts; with none start-up ends in fault hold
    (s.dev.bootStep = 5 → s.dev.f Reg.SYS_BOOT_DRAM_CH = 0 → s.dev.f Reg.FMG_STATUS_HOLD ≠ 1 →
      (∀ c0 c1, (c0 || c1) = true → exec (.dramTraining c0 c1) s = s.next
        (((((s.dev.setF Reg.SYS_BOOT_DRAM_CH (flag c0 + 2 * flag c1)).setF Reg.DMC_CAP_MIB (3584 * (flag c0 + flag c1))).setF
          Reg.DMC_FENCE_MIB 0).setF Reg.DMC_FENCE_DONE 0).domainsUp Training.blank [50, 51, 52, 54, 55, 56])) ∧
      exec (.dramTraining false false) s = s.next ((s.dev.setF Reg.FMG_STATUS_HOLD 1).setF Reg.SYS_BOOT_RESULT 5))

/-- Start-up's steps 6 to 11 (R67, R487, R538, R547, R548, R550, R551, R552, R553). -/
def Obligations.StartUpService : Prop :=
  ∀ s : State,
    -- step 6: the management firmware takes the semaphore and loads the selected profile, or the other where that one is
    -- not valid, or enters safe mode; once the profile applies, the links train
    (∀ a b x y o t0 t1, s.dev.bootStep = 6 → s.dev.f Reg.DMC_FENCE_DONE ≠ 0 → s.dev.busy = false →
      (s.dev.semHolder = 6 → exec (.profileAdmission a b x y o t0 t1) s = s.next (s.dev.linksUp t0 t1)) ∧
      (s.dev.semHolder ≠ 6 → s.dev.host.mayReady = false → s.dev.semOpen 6 = true →
        let d := ((s.dev.semGrant 6).semBegin.domainsUp Training.blank [13, 28])
        let p := d.nv.boot.profSel
        let r := d.slotFault false ((Two.mk a b).get p) p
        let q := r.2.slotFault false ((Two.mk a b).get (1 - p)) (1 - p)
        (r.1 = 0 → exec (.profileAdmission a b x y o t0 t1) s = s.next (r.2.admitProfile p ((Two.mk x y).get p) o)) ∧
        (r.1 ≠ 0 → q.1 = 0 → exec (.profileAdmission a b x y o t0 t1) s = s.next (q.2.admitProfile (1 - p) ((Two.mk x y).get (1 - p)) o)) ∧
        (r.1 ≠ 0 → q.1 ≠ 0 → exec (.profileAdmission a b x y o t0 t1) s = s.next q.2.enterSafe))) ∧
    -- step 7: the controllers may become ready; safe mode, and too many restarts within the hour, stop start-up here
    (s.dev.bootStep = 7 → s.dev.f Reg.FMG_STATUS_HOLD ≠ 1 →
      let d2 := (((s.dev.setF Reg.NVC_FL_MODE_NESTED 0).onHost fun h => { h with mayReady := true }).checkReady .A).checkReady .B
      (d2.safe = true → exec .controllersReady s = s.next d2) ∧
      (d2.safe = false → d2.f Reg.FMG_CFG_RESTARTS ≤ d2.recentRestarts.length →
        exec .controllersReady s = s.next ((d2.setF Reg.FMG_STATUS_HOLD 1).setF Reg.SYS_BOOT_RESULT 5)) ∧
      (d2.safe = false → d2.recentRestarts.length < d2.f Reg.FMG_CFG_RESTARTS → exec .controllersReady s = s.next (d2.endStep 7))) ∧
    -- step 9: the loads start; with every actuator loaded, heads and runout tables are checked and the step ends
    (∀ e0 e1 b0 b1, s.dev.bootStep = 9 → s.dev.fmg.mediaOff = false →
      ((s.dev.bootActs.all fun a => decide (s.dev.loadState a = 2)) = true → exec (.headLoadCalibration e0 e1 b0 b1) s = s.next
        ((s.dev.bootActs.foldl (fun (d : Dev) a => d.bootCheck a ((Per.mk b0 b1).get a)) s.dev).endStep 9)) ∧
      ((s.dev.bootActs.all fun a => decide (s.dev.loadState a = 2)) = false → exec (.headLoadCalibration e0 e1 b0 b1) s = s.next
        (s.dev.bootActs.foldl (fun (d : Dev) a => d.bootLoad a ((Per.mk e0 e1).get a)) s.dev))) ∧
    -- step 10: journal and vault are restored, an unfinished erase goes on; an unreadable system area stops start-up
    (∀ o, s.dev.bootStep = 10 → s.dev.fmg.mediaOff = false → s.dev.f Reg.PWR_VAULT_REASON_RESTORE ≠ 0 → s.dev.f Reg.SYS_BOOT_RESULT = 0 →
      ((s.dev.copySound o 0 || s.dev.copySound o 1) = true →
        let d1 : Dev := { s.dev with media := { s.dev.media with sysRebuild := if !s.dev.copySound o 0 then some 0 else if !s.dev.copySound o 1 then some 1 else none } }
        let d2 := ((d1.replayJournal o.journal).restoreVault o).setF Reg.PWR_VAULT_REASON_RESTORE 0
        exec (.stateRestore o) s = s.next ((d2.resumeErase.setF (Reg.SYS_BOOT_MS_MS.nth 9) (s.dev.clock.nowNs / 1000000)).semSettle)) ∧
      ((s.dev.copySound o 0 || s.dev.copySound o 1) = false → s.dev.nv.formatted = true →
        exec (.stateRestore o) s = s.next (((s.dev.loseMedia).event Ev.other .sys Reg.SYS_BOOT 0).stopAt 4)) ∧
      ((s.dev.copySound o 0 || s.dev.copySound o 1) = false → s.dev.nv.formatted = false →
        exec (.stateRestore o) s = s.next (s.dev.stopAt 2))) ∧
    -- step 11: I/O is served, and what the restore left for the background goes on
    (s.dev.bootStep = 10 → s.dev.f Reg.PWR_VAULT_REASON_RESTORE ≠ 1 → s.dev.f Reg.SYS_BOOT_RESULT = 0 → s.dev.fmg.mediaOff = false →
      exec .namespacesReady s = s.next (s.dev.endStep 11).rebuildCopy.sendRestored)

/-- A packet that its path takes up at once and every check of R460 passes: of that opcode, with nothing unanswered and no
unread reply before it, its CRC right, and no retransmission of the last packet. -/
def Sys2Proof.takesUp (d : Dev) (path : Path) (ws : List Word) (op : Nat) : Prop :=
  let q := d.mpiPath path
  let p := Packet.ofWords ws
  p.op = op ∧ d.serves path = true ∧ q.wait = none ∧ (pathIsNvme path = true → q.unread = false) ∧ p.crcOk = true ∧
    ws.length ≤ 16384 ∧ (pathKeeps path = true → q.last ≠ some (p.seq, ws.getD (ws.length - 1) 0)) ∧
    d.packetFault path (holderOf path) false p = none

/-- An operation of a packet, under its path's hold of the semaphore where `held` says that it needs one (R442, R467). -/
def Sys2Proof.underHold (d : Dev) (holder : Nat) (held : Bool) (f : Dev → Rep × Dev) : Rep × Dev :=
  if held = false ∨ d.semHolder = holder then f d
  else
    let r := f (d.semGrant holder)
    match r.1.wait with
    | none => (r.1, r.2.endPacketHold holder)
    | some w => ({ r.1 with wait := some { w with holds := true } }, r.2.semBegin)

/-- The device once a packet has been counted, executed by `f` and answered; a reply that comes later is left waiting on
the path. -/
def Sys2Proof.packetServed (d : Dev) (path : Path) (ws : List Word) (o : MpiObs) (held : Bool) (f : Dev → Call → Rep × Dev) : Dev :=
  let p := Packet.ofWords ws
  let r := underHold (d.bumpF Reg.SYS_MPI_CNT_PACKETS 1) (holderOf path) held fun d => f d { path := path, p := p, o := o }
  let head := ws.getD 0 0
  let crc := ws.getD (ws.length - 1) 0
  let e := match r.1.wait with
    | none => r.2.answerPacket path head p.flags crc none (newTrims d.conf r.2.conf) r.1
    | some w => r.2.setPath path { (r.2.mpiPath path) with wait := some { w with head := head, flags := p.flags, crc := crc, cmd := none } }
  e.settleJobs.semSettle

/-- Session and register-window packets (R441 to R444, R465, R466, R468, Table 18.5). -/
def Obligations.SessionAndRegisterPackets : Prop :=
  (∀ (s : State) path ws o,
    (takesUp s.dev path ws 0x0001 → exec (.echo path ws o) s = s.next (packetServed s.dev path ws o false Dev.mpiEcho)) ∧
    (takesUp s.dev path ws 0x0002 → exec (.getInfo path ws o) s = s.next (packetServed s.dev path ws o false Dev.mpiGetInfo)) ∧
    (takesUp s.dev path ws 0x0003 → exec (.semClaim path ws o) s = s.next (packetServed s.dev path ws o false Dev.mpiSemClaim)) ∧
    (takesUp s.dev path ws 0x0004 → exec (.semRelease path ws o) s = s.next (packetServed s.dev path ws o false Dev.mpiSemRelease)) ∧
    (takesUp s.dev path ws 0x0005 → exec (.semStatus path ws o) s = s.next (packetServed s.dev path ws o false Dev.mpiSemStatus)) ∧
    (takesUp s.dev path ws 0x0006 → exec (.jobStatus path ws o) s = s.next (packetServed s.dev path ws o false Dev.mpiJobStatus)) ∧
    (takesUp s.dev path ws 0x0007 → exec (.jobAbort path ws o) s = s.next (packetServed s.dev path ws o false Dev.mpiJobAbort)) ∧
    (takesUp s.dev path ws 0x0101 → exec (.regRead path ws o) s = s.next (packetServed s.dev path ws o false Dev.mpiRegRead)) ∧
    -- a register write is serialized where it stages or commits
    (takesUp s.dev path ws 0x0102 →
      exec (.regWrite path ws o) s = s.next (packetServed s.dev path ws o (s.dev.packetStages (Packet.ofWords ws)) Dev.mpiRegWrite)) ∧
    (takesUp s.dev path ws 0x0103 →
      exec (.regWriteBatch path ws o) s = s.next (packetServed s.dev path ws o (s.dev.packetStages (Packet.ofWords ws)) Dev.mpiRegBatch)) ∧
    (takesUp s.dev path ws 0x0104 → exec (.regPoll path ws o) s = s.next (packetServed s.dev path ws o false Dev.mpiRegPoll)) ∧
    (takesUp s.dev path ws 0x0105 → exec (.memRead path ws o) s = s.next (packetServed s.dev path ws o false Dev.mpiMemRead)) ∧
    (takesUp s.dev path ws 0x0106 → exec (.memWrite path ws o) s = s.next (packetServed s.dev path ws o true Dev.mpiMemWrite))) ∧
  ∀ (d : Dev) (c : Call),
    d.mpiEcho c = ({ Rep.ok with tlvs := c.p.tlvs }, d) ∧
    -- a claim is granted to its holder at once, or refused with BUSY and counted; a release that is not the holder's is BUSY
    (d.semOpen c.holder = true → d.mpiSemClaim c =
      (Rep.nats [(d.semClaim c.holder).f Reg.CPX_SEM_GRANTS], d.semClaim c.holder)) ∧
    (d.semOpen c.holder = false → d.mpiSemClaim c = (Rep.code 0x05 0, d.semRefused)) ∧
    (d.semHolder = c.holder → c.holder ≠ 0 → d.sem.ops = 0 → d.mpiSemRelease c = (Rep.ok, d.semClear)) ∧
    (d.semHolder ≠ 0 → d.semHolder ≠ c.holder → d.mpiSemRelease c = (Rep.code 0x05 0, d)) ∧
    d.mpiSemStatus c = (Rep.result [d.live Reg.CPX_SEM], d) ∧
    -- reading the status of a job that has ended forgets it; an unknown job is a bad parameter; an abort ends a running one
    (∀ j, (d.mpi.jobs.find? fun j => decide (j.no = c.num Ty.job)) = some j → j.done = true →
      (d.mpiJobStatus c).2 = d.onMpi fun m => { m with jobs := m.jobs.filter fun (x : MpiJob) => decide (x.no ≠ j.no) }) ∧
    (∀ j, (d.mpi.jobs.find? fun j => decide (j.no = c.num Ty.job)) = some j → j.done = false → (d.mpiJobStatus c).2 = d) ∧
    ((d.mpi.jobs.find? fun j => decide (j.no = c.num Ty.job)) = none →
      d.mpiJobStatus c = (c.p.bad Ty.job, d) ∧ d.mpiJobAbort c = (c.p.bad Ty.job, d)) ∧
    (∀ j, (d.mpi.jobs.find? fun j => decide (j.no = c.num Ty.job)) = some j → j.op ≠ 0x0503 →
      d.mpiJobAbort c = (Rep.ok, d.endJobNo j.no 0x0E [] [])) ∧
    -- up to 1,024 registers are read in address order; addresses and counts out of range change nothing
    (c.num Ty.addr % 4 = 0 → 0 < c.p.num Ty.count 1 → c.p.num Ty.count 1 ≤ 1024 →
      let r := d.readRun c.who c.o.fabric (c.num Ty.addr) (c.p.num Ty.count 1)
      d.mpiRegRead c = (Rep.result r.1, r.2)) ∧
    (c.num Ty.addr % 4 ≠ 0 → d.mpiRegRead c = (c.p.bad Ty.addr, d) ∧ d.mpiRegWrite c = (c.p.bad Ty.addr, d)) ∧
    (∀ w, c.num Ty.addr % 4 = 0 → c.data = [w] →
      d.mpiRegWrite c = (Rep.ok, d.fabricWrite c.who false (c.num Ty.addr) (w32 (c.p.num Ty.mask 0xFFFFFFFF)) w c.o.fabric)) ∧
    -- DRAM and buffer bytes are written where they lie within their space
    (c.num Ty.space ≤ 1 → c.num Ty.addr + (((c.p.get Ty.data).map Tlv.bytes).getD []).length ≤ d.spaceSize (c.num Ty.space) →
      d.mpiMemWrite c = (Rep.ok, d.writeSpace (decide (c.num Ty.space = 1)) (c.num Ty.addr)
        ((((c.p.get Ty.data).map Tlv.bytes).getD []).map fun b => (b, false)))) ∧
    (1 < c.num Ty.space → d.mpiMemWrite c = (c.p.bad Ty.space, d))

/-- Configuration and profile packets (R53, R56 to R58, R469, R486, R487, Table 18.5). -/
def Obligations.ConfigurationPackets : Prop :=
  (∀ (s : State) path ws o,
    (takesUp s.dev path ws 0x0201 → exec (.cfgCommit path ws o) s = s.next (packetServed s.dev path ws o true Dev.mpiCfgCommit)) ∧
    (takesUp s.dev path ws 0x0202 → exec (.cfgDiscard path ws o) s = s.next (packetServed s.dev path ws o true Dev.mpiCfgDiscard)) ∧
    (takesUp s.dev path ws 0x0203 → exec (.cfgStatus path ws o) s = s.next (packetServed s.dev path ws o false Dev.mpiCfgStatus)) ∧
    (takesUp s.dev path ws 0x0204 → exec (.sizerCheck path ws o) s = s.next (packetServed s.dev path ws o true Dev.mpiSizerCheck)) ∧
    (takesUp s.dev path ws 0x0205 → exec (.tableWrite path ws o) s = s.next (packetServed s.dev path ws o true Dev.mpiTableWrite)) ∧
    (takesUp s.dev path ws 0x0206 → exec (.tableRead path ws o) s = s.next (packetServed s.dev path ws o false Dev.mpiTableRead)) ∧
    (takesUp s.dev path ws 0x0207 → exec (.cstWrite path ws o) s = s.next (packetServed s.dev path ws o true Dev.mpiCstWrite)) ∧
    (takesUp s.dev path ws 0x0208 → exec (.profileLoad path ws o) s = s.next (packetServed s.dev path ws o true Dev.mpiProfileLoad)) ∧
    (takesUp s.dev path ws 0x0209 → exec (.profileSection path ws o) s = s.next (packetServed s.dev path ws o false Dev.mpiProfileSection)) ∧
    (takesUp s.dev path ws 0x020A → exec (.profileDownload path ws o) s = s.next (packetServed s.dev path ws o false Dev.mpiProfileDownload)) ∧
    (takesUp s.dev path ws 0x020B → exec (.profileStore path ws o) s = s.next (packetServed s.dev path ws o true Dev.mpiProfileStore)) ∧
    (takesUp s.dev path ws 0x020C → exec (.profileSelect path ws o) s = s.next (packetServed s.dev path ws o true Dev.mpiProfileSelect))) ∧
  ∀ (d : Dev) (c : Call),
    -- a commit runs unless another is running, which only marks it dropped; the reply carries the checks' outcome
    (d.busy = false → d.mpiCfgCommit c = ((d.commit false).commitRep, d.commit false)) ∧
    (d.busy = true → d.mpiCfgCommit c = (d.droppedRep, d.setF Reg.SIZ_STATUS_DROPPED 1)) ∧
    d.mpiCfgDiscard c = (Rep.ok, d.discard) ∧
    -- the status, the proof alone and a table read leave the device as it was
    (d.mpiCfgStatus c).2 = d ∧ (d.mpiSizerCheck c).2 = d ∧ (d.mpiTableRead c).2 = d ∧ d.mpiProfileSection c = (Rep.ok, d) ∧
    (let k := (d.candidate d.conf.staged).proof d.conf.staged
     (d.mpiSizerCheck c).1.status = if k = 0 then 0 else 0x02) ∧
    -- whole microwords are staged, sealed, from the word that ADDR names
    (c.data.length % 4 = 0 → c.num Ty.addr + c.data.length / 4 ≤ 16384 →
      d.mpiCstWrite c = (Rep.ok, stageMicro d c.p.act (c.data.length / 4) (c.num Ty.addr) c.data)) ∧
    -- a downloaded piece is kept; one past the slot's end or over another piece changes nothing
    (∀ ps, c.num Ty.addr + c.blob.length ≤ slotSectors false * 2 ^ 16 → putPiece d.mpi.prof (c.num Ty.addr, c.blob) = some ps →
      d.mpiProfileDownload c = (Rep.ok, d.onMpi fun m => { m with prof := ps })) ∧
    (slotSectors false * 2 ^ 16 < c.num Ty.addr + c.blob.length → d.mpiProfileDownload c = (c.p.bad Ty.addr, d)) ∧
    -- the loaded slot, the slot selected for the next start, and an empty download refuse a store
    (c.num Ty.slot ≤ 1 → (d.profInForce (c.num Ty.slot) || decide (c.num Ty.slot = d.nv.boot.profSel) || d.mpi.prof.isEmpty) = true →
      d.mpiProfileStore c = (Rep.code 0x0E 0, d)) ∧
    (c.num Ty.slot ≤ 1 → d.mpiProfileSelect c = (Rep.ok, d.setBoot { d.nv.boot with profSel := c.num Ty.slot })) ∧
    (1 < c.num Ty.slot → d.mpiProfileSelect c = (c.p.bad Ty.slot, d) ∧ d.mpiProfileStore c = (c.p.bad Ty.slot, d))

/-- Calibration packets (R158, R219, R242, R244, R278, R283, R386, R453, R467, R538, Table 18.5). -/
def Obligations.CalibrationPackets : Prop :=
  (∀ (s : State) path ws o,
    (takesUp s.dev path ws 0x0301 → exec (.calRegWrite path ws o) s = s.next (packetServed s.dev path ws o true Dev.mpiCalRegWrite)) ∧
    (takesUp s.dev path ws 0x0302 → exec (.spindleRun path ws o) s = s.next (packetServed s.dev path ws o true Dev.mpiSpindleRun)) ∧
    (takesUp s.dev path ws 0x0303 → exec (.headLoad path ws o) s = s.next (packetServed s.dev path ws o true Dev.mpiHeadLoad)) ∧
    (takesUp s.dev path ws 0x0304 → exec (.seek path ws o) s = s.next (packetServed s.dev path ws o true Dev.mpiSeek)) ∧
    (takesUp s.dev path ws 0x0305 → exec (.inject path ws o) s = s.next (packetServed s.dev path ws o true Dev.mpiInject)) ∧
    (takesUp s.dev path ws 0x0306 → exec (.captureArm path ws o) s = s.next (packetServed s.dev path ws o true Dev.mpiCaptureArm)) ∧
    (takesUp s.dev path ws 0x0307 → exec (.captureRead path ws o) s = s.next (packetServed s.dev path ws o false Dev.mpiCaptureRead)) ∧
    (takesUp s.dev path ws 0x0308 → exec (.preampAccess path ws o) s = s.next (packetServed s.dev path ws o true Dev.mpiPreampAccess)) ∧
    (takesUp s.dev path ws 0x0309 → exec (.linkRetrain path ws o) s = s.next (packetServed s.dev path ws o true Dev.mpiLinkRetrain)) ∧
    (takesUp s.dev path ws 0x030A → exec (.readerClear path ws o) s = s.next (packetServed s.dev path ws o true Dev.mpiReaderClear)) ∧
    (takesUp s.dev path ws 0x030B → exec (.assistRecal path ws o) s = s.next (packetServed s.dev path ws o true Dev.mpiAssistRecal)) ∧
    (takesUp s.dev path ws 0x030C → exec (.eccInject path ws o) s = s.next (packetServed s.dev path ws o true Dev.mpiEccInject)) ∧
    (takesUp s.dev path ws 0x030D → exec (.handover path ws o) s = s.next (packetServed s.dev path ws o true Dev.mpiHandover))) ∧
  ∀ (d : Dev) (c : Call),
    let a := c.p.act
    let h := c.p.headNo
    (∀ w, c.num Ty.addr % 4 = 0 → c.data = [w] →
      d.mpiCalRegWrite c = (Rep.ok, d.fabricWrite c.who true (c.num Ty.addr) (w32 (c.p.num Ty.mask 0xFFFFFFFF)) w c.o.fabric)) ∧
    -- the spindle is told to run or stop, the heads to load or unload; the job of each runs on
    (c.num Ty.value ≤ 1 →
      let x := (d.spinRun (decide (c.num Ty.value = 1))).startJob c.p.op (c.num Ty.value)
      d.mpiSpindleRun c = (Rep.job x.1, x.2)) ∧
    (d.headNamed c = true → c.num Ty.value ≤ 1 →
      let x := (if c.num Ty.value = 1 then d.servoLoad a h else d.servoUnload a).startJob c.p.op (2 * a.idx + c.num Ty.value)
      d.mpiHeadLoad c = (Rep.job x.1, x.2)) ∧
    -- a seek with a valid position on its head, the heads loaded and no trajectory running; else it is refused
    (d.headNamed c = true → c.num Ty.track < 2 ^ 22 → (d.loadState a ≠ 2 ∨ (d.srv.get a).traj.isSome ∨ (d.srv.get a).due.isSome) →
      d.mpiSeek c = (Rep.code 0x0E 0, d)) ∧
    (d.headNamed c = true → c.num Ty.track < 2 ^ 22 → d.loadState a = 2 → (d.srv.get a).traj = none → (d.srv.get a).due = none →
      let d1 := ((d.servoHead a h).setF (Reg.SRV_TARGET_TRACK.on a) (c.num Ty.track)).onSrv a fun v => { v with target := 65536 * (c.num Ty.track : Int), req := none, waitReq := none, late := 0, gaveUp := false, settled := false }
      let d2 := if d.head a ≠ h ∨ (d1.srv.get a).pos = none ∨ d1.f (Reg.SRV_STATUS_PES_VALID.on a) = 0 then
        d1.onSrv a fun v => { v with deciding := true } else d1.decideSeek a
      d.mpiSeek c = (Rep.result [d2.live (Reg.SRV_STATUS + 0x10000 * a.idx)], d2)) ∧
    -- five words to the injection registers; three to the capture's, its control last
    (∀ w0 w1 w2 w3 w4, c.data = [w0, w1, w2, w3, w4] →
      let at0 := Reg.SRV_INJ_CTL + 0x10000 * a.idx
      d.mpiInject c = (Rep.ok, d.calWrites c [(at0, w0), (at0 + 4, w1), (at0 + 8, w2), (at0 + 12, w3), (at0 + 16, w4)])) ∧
    (∀ ctl sel trig, c.data = [ctl, sel, trig] → d.mpiCaptureArm c = (Rep.ok, d.calWrites c
      [(Reg.SRV_CAP_SEL + 0x10000 * a.idx, sel), (Reg.SRV_CAP_TRIG + 0x10000 * a.idx, trig), (Reg.SRV_CAP_CTL + 0x10000 * a.idx, ctl)])) ∧
    -- a pass-through access starts with GO set; its reply waits for the access to end
    (∀ w, c.data = [w] → d.mpiPreampAccess c = ({ Rep.ok with wait := some (preampWait a c.o.fabric) },
      d.calWrites c [(Reg.TNL_PA_ACC + 0x10000 * a.idx, w ||| 0x80000000#32)])) ∧
    (let d1 := d.retrain a c.o.fabric.train
     d.mpiLinkRetrain c = (Rep.result [d1.live (Reg.TNL_STATUS + 0x10000 * a.idx)], d1)) ∧
    (d.headNamed c = true → c.num Ty.mask % 8 ≠ 0 → c.num Ty.mask / 256 % 8 = 0 →
      d.mpiReaderClear c = (Rep.ok, d.clearFail a (some h) (c.num Ty.mask % 8))) ∧
    (∀ w, c.num Ty.space = 0 → c.data = [w] → d.mpiEccInject c =
      (Rep.ok, d.calWrites c [(Reg.DMC_TEST_ADDR, w32 (c.num Ty.addr / 64)), (Reg.DMC_TEST_CTL, w ||| 0x80000000#32)])) ∧
    (c.num Ty.value = 0 → d.mpiHandover c = (Rep.ok, d.handoverAll true .X)) ∧
    (c.num Ty.value = 1 → d.mpiHandover c = (Rep.ok, d.handoverAll true .Y)) ∧
    (c.num Ty.value = 2 → d.mpiHandover c = (Rep.ok, d.semFree.endFaultHold)) ∧
    -- a head that the actuator does not have is a bad parameter and changes nothing
    (d.headNamed c = false → let bad := (c.p.bad Ty.head, d)
      d.mpiHeadLoad c = bad ∧ d.mpiSeek c = bad ∧ d.mpiReaderClear c = bad ∧ d.mpiAssistRecal c = bad)

/-- Media and log packets (R84 to R90, R175, R191, R221, R364, R367, R465, R511, R513, Table 18.5). -/
def Obligations.MediaAndLogPackets : Prop :=
  (∀ (s : State) path ws o,
    (takesUp s.dev path ws 0x0401 → exec (.trackRead path ws o) s = s.next (packetServed s.dev path ws o false Dev.mpiTrackRead)) ∧
    (takesUp s.dev path ws 0x0402 → exec (.trackScan path ws o) s = s.next (packetServed s.dev path ws o true Dev.mpiTrackScan)) ∧
    (takesUp s.dev path ws 0x0403 → exec (.replayRead path ws o) s = s.next (packetServed s.dev path ws o false Dev.mpiReplayRead)) ∧
    (takesUp s.dev path ws 0x0404 → exec (.lbaToPhys path ws o) s = s.next (packetServed s.dev path ws o false Dev.mpiLbaToPhys)) ∧
    (takesUp s.dev path ws 0x0405 → exec (.defectRead path ws o) s = s.next (packetServed s.dev path ws o false Dev.mpiDefectRead)) ∧
    (takesUp s.dev path ws 0x0406 → exec (.defectPend path ws o) s = s.next (packetServed s.dev path ws o true Dev.mpiDefectPend)) ∧
    (takesUp s.dev path ws 0x0407 → exec (.headFail path ws o) s = s.next (packetServed s.dev path ws o true Dev.mpiHeadFail)) ∧
    (takesUp s.dev path ws 0x0408 → exec (.reconRead path ws o) s = s.next (packetServed s.dev path ws o false Dev.mpiReconRead)) ∧
    (takesUp s.dev path ws 0x0501 → exec (.hatbandRead path ws o) s = s.next (packetServed s.dev path ws o false Dev.mpiHatbandRead)) ∧
    (takesUp s.dev path ws 0x0502 → exec (.hatbandClear path ws o) s = s.next (packetServed s.dev path ws o true Dev.mpiHatbandClear)) ∧
    (takesUp s.dev path ws 0x0503 → exec (.hatbandArchive path ws o) s = s.next (packetServed s.dev path ws o true Dev.mpiHatbandArchive)) ∧
    (takesUp s.dev path ws 0x0504 → exec (.counters path ws o) s = s.next (packetServed s.dev path ws o false Dev.mpiCounters)) ∧
    (takesUp s.dev path ws 0x0505 → exec (.headHealth path ws o) s = s.next (packetServed s.dev path ws o false Dev.mpiHeadHealth)) ∧
    (takesUp s.dev path ws 0x0506 → exec (.feltLog path ws o) s = s.next (packetServed s.dev path ws o false Dev.mpiFeltLog)) ∧
    (takesUp s.dev path ws 0x0507 → exec (.vaultInfo path ws o) s = s.next (packetServed s.dev path ws o false Dev.mpiVaultInfo))) ∧
  ∀ (d : Dev) (c : Call),
    -- one record of a track read, its decode status behind its bytes
    (∀ bi b t, d.headNamed c = true → c.num Ty.slots % 1024 = 1 → d.bandAt c.p.act c.p.headNo (c.num Ty.track) = some (bi, b, t) →
      c.num Ty.slots / 65536 % 1024 < d.slotsOf b →
      let slot := c.num Ty.slots / 65536 % 1024
      let r := d.diagRead c.p.act bi (t * d.slotsOf b + slot) slot (decide (2 ≤ b.kind)) (c.read 0)
      let x := Rep.bytes r.1.2
      d.mpiTrackRead c = ({ x with tlvs := x.tlvs ++ [Tlv.ofWords Ty.dstatus [r.1.1]] }, r.2)) ∧
    (d.headNamed c = true → c.num Ty.slots % 1024 ≤ 1 → d.bandAt c.p.act c.p.headNo (c.num Ty.track) = none →
      d.mpiTrackRead c = (c.p.bad Ty.track, d)) ∧
    -- where a logical block lies: one place of a zoned block, both copies of a conventional one
    (∀ pl, c.nsid = 1 → d.mapZoned c.lba = some pl → d.mpiLbaToPhys c = (Rep.nats (d.placeWords pl), d)) ∧
    (∀ p0 p1, c.nsid = 2 → d.mapConv c.lba 0 = some p0 → d.mapConv c.lba 1 = some p1 →
      d.mpiLbaToPhys c = (Rep.nats (d.placeWords p0 ++ d.placeWords p1), d)) ∧
    -- a band's slips or reassignments are listed; a position of a band that slips is marked pending
    (∀ b, d.band (c.num Ty.value) = some b → b.kind ≤ 1 →
      d.mpiDefectRead c = (Rep.nats ((d.slipsOf (c.num Ty.value)).map Slip.word), d) ∧
      (c.num Ty.addr < 65536 → d.mpiDefectPend c = (Rep.ok, d.pendSlip (c.num Ty.value) (c.num Ty.addr)))) ∧
    (∀ b, d.band (c.num Ty.value) = some b → 2 ≤ b.kind → d.mpiDefectPend c = (c.p.bad Ty.value, d)) ∧
    (d.headNamed c = true →
      let x := d.startJob c.p.op 0
      d.mpiHeadFail c = (Rep.job x.1, (x.2.headFailing c.p.act c.p.headNo).endJobNo x.1 0 [] [])) ∧
    -- a bolt rebuilt from its sources is returned, marked where poison remains, and counted; a failure is a decode status
    (∀ pl p, c.nsid = 1 → d.mapZoned c.lba = some pl →
      d.locate (c.lba / d.media.zoneBlocks) (c.lba % d.media.zoneBlocks / 8) = some p → d.reconCause (some p) c.o.source = none →
      let d1 := d.bumpF Reg.FLT_CNT_RECON_OK 1
      (d.mpiReconRead c).2 = { d1 with felt := { d1.felt with solved := (d.rebuilt p c.o.source).map Prod.fst } }) ∧
    (∀ pl k, c.nsid = 1 → d.mapZoned c.lba = some pl →
      let z := c.lba / d.media.zoneBlocks
      d.reconCause (d.locate z (c.lba % d.media.zoneBlocks / 8)) c.o.source = some k →
      (d.mpiReconRead c).2 = d.reconFailed z k ∧ (d.mpiReconRead c).1.status = 0) ∧
    -- the recorder is read and cleared, a frozen one is not cleared; its archive leaves the job running
    (d.hb.frozen = [] → d.mpiHatbandClear c = (Rep.ok, d.clearHatband c.holder)) ∧
    (d.hb.frozen ≠ [] → d.mpiHatbandClear c = (Rep.code 0x0E 0, d)) ∧
    (let x := d.startJob c.p.op 0
     let r := x.2.archive c.o
     d.mpiHatbandArchive c = (Rep.job x.1, r.2.foreseeJob x.1 r.1.status (r.1.tlvs.flatMap Tlv.ws))) ∧
    -- a block's counters are read, and cleared by the read, in ascending address order
    (∀ b, blockAt (c.num Ty.value) = some b →
      let r := d.readList c.who c.o.fabric (counterRegs b)
      d.mpiCounters c = (Rep.result r.1, r.2)) ∧
    -- what only reports changes nothing
    (d.mpiHatbandRead c).2 = d ∧ (d.mpiHeadHealth c).2 = d ∧ (d.mpiFeltLog c).2 = d ∧ d.mpiVaultInfo c = (Rep.nats d.vaultWords, d)

/-- Nonvolatile-memory, image and twin-link packets (R431, R449, R453, R464, R483, R486, R505, Table 18.5). -/
def Obligations.ImageAndTwinPackets : Prop :=
  (∀ (s : State) path ws o,
    (takesUp s.dev path ws 0x0601 → exec (.nvRead path ws o) s = s.next (packetServed s.dev path ws o false Dev.mpiNvRead)) ∧
    (takesUp s.dev path ws 0x0602 → exec (.optionWrite path ws o) s = s.next (packetServed s.dev path ws o true Dev.mpiOptionWrite)) ∧
    (takesUp s.dev path ws 0x0603 → exec (.slotInfo path ws o) s = s.next (packetServed s.dev path ws o false Dev.mpiSlotInfo)) ∧
    (takesUp s.dev path ws 0x0604 → exec (.fwDownload path ws o) s = s.next (packetServed s.dev path ws o false Dev.mpiFwDownload)) ∧
    (takesUp s.dev path ws 0x0605 → exec (.fwCommit path ws o) s = s.next (packetServed s.dev path ws o true Dev.mpiFwCommit)) ∧
    (takesUp s.dev path ws 0x0606 → exec (.fullerJob path ws o) s = s.next (packetServed s.dev path ws o false Dev.mpiFullerJob)) ∧
    (takesUp s.dev path ws 0x0801 → exec (.mirrorVersion path ws o) s = s.next (packetServed s.dev path ws o false Dev.mpiMirrorVersion)) ∧
    (takesUp s.dev path ws 0x0802 → exec (.handoverReq path ws o) s = s.next (packetServed s.dev path ws o false Dev.mpiHandoverReq)) ∧
    (takesUp s.dev path ws 0x0803 → exec (.handoverDone path ws o) s = s.next (packetServed s.dev path ws o false Dev.mpiHandoverDone)) ∧
    (takesUp s.dev path ws 0x0804 → exec (.heartbeat path ws o) s = s.next (packetServed s.dev path ws o false Dev.mpiHeartbeat))) ∧
  ∀ (d : Dev) (c : Call),
    -- option-area bytes read as its copies hold them; a flash bank that is programming or erasing refuses a read
    (c.num Ty.space = 4 → c.num Ty.count ≤ 16000 → c.num Ty.addr + c.num Ty.count ≤ 4096 → 0 < c.num Ty.count →
      d.mpiNvRead c = (Rep.bytes ((List.range (c.num Ty.count)).map fun i => (d.optionByte (c.num Ty.addr + i), false)), d)) ∧
    (c.num Ty.space < 2 → d.mpiNvRead c = (c.p.bad Ty.space, d)) ∧
    -- the option area is written whole, as 2,048 bytes
    (c.blob.length ≠ 2048 → d.mpiOptionWrite c = (c.p.bad Ty.blob, d)) ∧
    (c.blob.length = 2048 →
      let r := d.optionWrite (wordsOfBytes 2048 c.blob) c.o.store
      d.mpiOptionWrite c = (if r.1 = 0 then Rep.ok else c.p.bad Ty.blob, r.2)) ∧
    d.mpiSlotInfo c = (Rep.nats (d.slotWords true c.o.sig 0 ++ d.slotWords true c.o.sig 1 ++ d.slotWords false c.o.sig 0 ++
      d.slotWords false c.o.sig 1), d) ∧
    (∀ ps, c.num Ty.addr + c.blob.length ≤ slotSectors true * 2 ^ 16 → putPiece d.mpi.fw (c.num Ty.addr, c.blob) = some ps →
      d.mpiFwDownload c = (Rep.ok, d.onMpi fun m => { m with fw := ps })) ∧
    -- the running slot is not overwritten, and no image is committed during a sanitize
    (c.num Ty.slot ≤ 1 → c.num Ty.value ≤ 1 → c.num Ty.slot = d.nv.boot.active → d.mpiFwCommit c = (Rep.code 0x0E 0, d)) ∧
    (c.num Ty.slot ≤ 1 → c.num Ty.value ≤ 3 → d.host.sanitize.isSome = true → d.mpiFwCommit c = (Rep.code 0x0E 0, d)) ∧
    -- commit action 2 makes the slot's own image pending
    (∀ x r, c.num Ty.slot ≤ 1 → c.num Ty.value = 2 → d.host.sanitize = none → d.startJob c.p.op (c.num Ty.slot) = x →
      x.2.slotFault true c.o.sig (c.num Ty.slot) = r →
      (r.1 = 0 → d.mpiFwCommit c = (Rep.job x.1,
        ((r.2.setPendingFw (c.num Ty.slot)).semBegin.fwDone none (c.num Ty.slot) 2).endJobNo x.1 0 [] [])) ∧
      (r.1 ≠ 0 → d.mpiFwCommit c = (Rep.job x.1, r.2.endJobNo x.1 r.1 [] []))) ∧
    (1 < c.num Ty.value → d.mpiFullerJob c = (c.p.bad Ty.value, d)) ∧
    (c.num Ty.value ≤ 1 → c.num Ty.space ≠ 0 → d.mpiFullerJob c = (c.p.bad Ty.space, d)) ∧
    -- the twin link: the versions, the ports of a mask each to the other complex, and the beats of both
    (d.mpiMirrorVersion c).2 = d ∧
    (c.num Ty.value = 1 → d.mpiHandoverReq c = (Rep.ok, d.handover (d.servedBy .A).other [.A])) ∧
    (c.num Ty.value = 2 → d.mpiHandoverReq c = (Rep.ok, d.handover (d.servedBy .B).other [.B])) ∧
    (let d1 := d.handover (d.servedBy .A).other [.A]
     c.num Ty.value = 3 → d.mpiHandoverReq c = (Rep.ok, d1.handover (d1.servedBy .B).other [.B])) ∧
    d.mpiHandoverDone c = (Rep.ok, d) ∧
    d.mpiHeartbeat c = (Rep.nats [(d.clock.nowNs - d.cpx.readyAt.get 0) / 10000, (d.clock.nowNs - d.cpx.readyAt.get 1) / 10000], d)

/-- How packets arrive and leave (R435, R460 to R463, R468): refusals, discarded frames, retransmissions, packets behind an
unanswered one, and the NVMe commands that carry them. -/
def Obligations.PacketTransport : Prop :=
  ∀ s : State,
    -- a packet that fails a check is answered with that check's status and changes nothing else; BUSY is counted
    (∀ path ws o st detail, let q := s.dev.mpiPath path
      let p := Packet.ofWords ws
      p.op = 0x0001 → s.dev.serves path = true → q.wait = none → (pathIsNvme path = true → q.unread = false) → p.crcOk = true →
      ws.length ≤ 16384 → (pathKeeps path = true → q.last ≠ some (p.seq, ws.getD (ws.length - 1) 0)) →
      s.dev.packetFault path (holderOf path) false p = some (st, detail) → st ≠ 0x05 →
      exec (.echo path ws o) s = s.next
        (s.dev.answerPacket path (ws.getD 0 0) p.flags (ws.getD (ws.length - 1) 0) none [] (Rep.code st detail)).settleJobs.semSettle) ∧
    -- a wrong CRC discards the frame without a reply
    (∀ ws o, let p := Packet.ofWords ws
      p.op = 0x0001 → s.dev.serves .uart = true → (s.dev.mpiPath .uart).wait = none → p.crcOk = false →
      exec (.echo .uart ws o) s = s.next (s.dev.bumpF Reg.SYS_MPI_CNT_BAD_FRAME 1).settleJobs.semSettle) ∧
    -- a retransmission is answered again with the reply that was kept, and is not executed
    (∀ path ws o, let q := s.dev.mpiPath path
      let p := Packet.ofWords ws
      p.op = 0x0001 → pathKeeps path = true → s.dev.serves path = true → q.wait = none → p.crcOk = true → ws.length ≤ 16384 →
      q.last = some (p.seq, ws.getD (ws.length - 1) 0) →
      exec (.echo path ws o) s = s.next (s.dev.onMpi fun m => { m with sent := (pathKey path, q.reply) :: m.sent }).settleJobs.semSettle) ∧
    -- behind an unanswered packet of the same path it waits; words of another opcode are not this packet
    (∀ path ws o, (Packet.ofWords ws).op = 0x0001 → (s.dev.mpiPath path).wait.isSome = true →
      let q := s.dev.mpiPath path
      exec (.echo path ws o) s = s.next (s.dev.setPath path { q with queue := q.queue ++ [{ words := ws, obs := o, cmd := none }] })) ∧
    (∀ path ws o, (Packet.ofWords ws).op ≠ 0x0001 → exec (.echo path ws o) s = s.next s.dev) ∧
    -- MPI Send carries one packet of 4 to 65,536 bytes; MPI Receive fetches the unread reply into a buffer that holds it
    (∀ id ws o, s.dev.admits id = true →
      ((ws.length = 0 ∨ 16384 < ws.length) → exec (.mpiSend id ws o) s = s.next ((s.dev.wakeHost id.port).complete id .invalidField 0)) ∧
      (0 < ws.length → ws.length ≤ 16384 →
        exec (.mpiSend id ws o) s = s.next ((s.dev.wakeHost id.port).arrivePacket (.nvme id.port) { words := ws, obs := o, cmd := some id }))) ∧
    (∀ id len, s.dev.admits id = true →
      let d := s.dev.wakeHost id.port
      let q := d.mpiPath (.nvme id.port)
      (q.unread = false → exec (.mpiReceive id len) s = s.next (d.complete id .success 0)) ∧
      (q.unread = true → len < 4 * q.reply.length → exec (.mpiReceive id len) s = s.next (d.complete id .invalidField 0)) ∧
      (q.unread = true → 4 * q.reply.length ≤ len → exec (.mpiReceive id len) s = s.next
        (((d.setPath (.nvme id.port) { q with unread := false }).giveHost id (.words q.reply)).complete id .success
          (bits (q.reply.getD 1 0) 23 16 + 65536 * q.reply.length)))) ∧
    -- a job's unread status is kept for 60 s after its end; a gap on the UART discards the frame begun
    (∀ no, exec (.jobStatusExpired no) s = s.next (s.dev.onMpi fun m => { m with
      jobs := m.jobs.filter fun (j : MpiJob) => !(decide (j.no = no) && j.done && decide (j.endedAt + 60000000000 ≤ s.dev.clock.nowNs)) })) ∧
    (s.dev.serves .uart = true → exec .uartGapTimeout s = s.next (s.dev.bumpF Reg.SYS_MPI_CNT_BAD_FRAME 1)) ∧
    (s.dev.serves .uart = false → exec .uartGapTimeout s = s.next s.dev)
end

