-- ==== Sys2Proof/Laws/Sparse.lean ====
section
/-! SUPPORT. Laws of the sparse maps: what a read gives after a write, and that every operation keeps the canonical
form. -/

namespace Sys2Proof.Machine

variable {α : Type} [DecidableEq α] {z : α}

theorem sget_sset_same (m : List (Nat × α)) (a : Nat) (v : α) (h : swf z m = true) : sget z (sset z m a v) a = v := by
  suffices H : ∀ (m : List (Nat × α)) (b : Nat), swfFrom z b m = true → sget z (sset z m a v) a = v from H m 0 h
  intro m
  induction m with
  | nil => intro b _; by_cases hv : v = z <;> simp [sset, sget, hv]
  | cons p m ih =>
    intro b hb
    obtain ⟨k, w⟩ := p
    simp only [swfFrom, Bool.and_eq_true, decide_eq_true_eq] at hb
    obtain ⟨⟨hk, hw⟩, hm⟩ := hb
    have above : ∀ (m : List (Nat × α)) (b : Nat), swfFrom z b m = true → a < b → sget z m a = z := by
      intro m
      induction m with
      | nil => intros; rfl
      | cons q m ih2 =>
        intro b hb hab
        obtain ⟨k2, w2⟩ := q
        simp only [swfFrom, Bool.and_eq_true, decide_eq_true_eq] at hb
        have : a ≠ k2 := by omega
        simp only [sget, if_neg this]
        exact ih2 (k2 + 1) hb.2 (by omega)
    simp only [sset]
    split
    · by_cases hv : v = z
      · subst hv
        have : a ≠ k := by omega
        simp only [if_true, sget, if_neg this]
        exact above m (k + 1) hm (by omega)
      · simp [hv, sget]
    · split
      · rename_i h1 h2
        subst h2
        by_cases hv : v = z
        · subst hv
          simp only [if_true]
          exact above m (a + 1) hm (by omega)
        · simp [hv, sget]
      · rename_i h1 h2
        simp only [sget, if_neg h2]
        exact ih (k + 1) hm

theorem sget_sset_ne (m : List (Nat × α)) {a b : Nat} (v : α) (h : b ≠ a) : sget z (sset z m a v) b = sget z m b := by
  induction m with
  | nil => by_cases hv : v = z <;> simp [sset, sget, hv, h]
  | cons p m ih =>
    obtain ⟨k, w⟩ := p
    simp only [sset]
    split
    · by_cases hv : v = z <;> simp [hv, sget, h]
    · split
      · rename_i h1 h2
        subst h2
        by_cases hv : v = z <;> simp [hv, sget, h]
      · simp only [sget]
        split
        · rfl
        · exact ih

theorem swfFrom_sset (m : List (Nat × α)) (a : Nat) (v : α) :
    ∀ b, b ≤ a → swfFrom z b m = true → swfFrom z b (sset z m a v) = true := by
  induction m with
  | nil =>
    intro b hb _
    by_cases hv : v = z <;> simp [sset, swfFrom, hv, hb]
  | cons p m ih =>
    intro b hb h
    obtain ⟨k, w⟩ := p
    have h0 := h
    simp only [swfFrom, Bool.and_eq_true, decide_eq_true_eq] at h
    obtain ⟨⟨hk, hw⟩, hm⟩ := h
    simp only [sset]
    split
    · by_cases hv : v = z
      · simp only [hv, if_true]; exact h0
      · simp only [hv, if_false, swfFrom, Bool.and_eq_true, decide_eq_true_eq]
        exact ⟨⟨hb, by simpa using hv⟩, ⟨⟨by omega, hw⟩, hm⟩⟩
    · split
      · rename_i h1 h2
        subst h2
        by_cases hv : v = z
        · simp only [hv, if_true]
          have weaken : ∀ (m : List (Nat × α)) (x y : Nat), y ≤ x → swfFrom z x m = true → swfFrom z y m = true := by
            intro m x y hxy h
            cases m with
            | nil => rfl
            | cons q m =>
              obtain ⟨k2, w2⟩ := q
              simp only [swfFrom, Bool.and_eq_true, decide_eq_true_eq] at h ⊢
              exact ⟨⟨by omega, h.1.2⟩, h.2⟩
          exact weaken m (a + 1) b (by omega) hm
        · simp only [hv, if_false, swfFrom, Bool.and_eq_true, decide_eq_true_eq]
          exact ⟨⟨hb, by simpa using hv⟩, hm⟩
      · simp only [swfFrom, Bool.and_eq_true, decide_eq_true_eq]
        exact ⟨⟨hk, hw⟩, ih (k + 1) (by omega) hm⟩

theorem swf_sset {m : List (Nat × α)} (h : swf z m = true) (a : Nat) (v : α) : swf z (sset z m a v) = true :=
  swfFrom_sset m a v 0 (Nat.zero_le a) h

theorem swf_ssetList (vs : List α) : ∀ {m : List (Nat × α)} (a : Nat), swf z m = true → swf z (ssetList z m a vs) = true := by
  induction vs with
  | nil => intro m a h; exact h
  | cons v vs ih => intro m a h; exact ih (a + 1) (swf_sset h a v)

theorem swf_sfill (v : α) (n : Nat) : ∀ {m : List (Nat × α)} (a : Nat), swf z m = true → swf z (sfill z m a v n) = true := by
  induction n with
  | zero => intro m a h; exact h
  | succ n ih => intro m a h; exact ih (a + 1) (swf_sset h a v)

theorem swfFrom_mono {m : List (Nat × α)} {x y : Nat} (hxy : y ≤ x) (h : swfFrom z x m = true) : swfFrom z y m = true := by
  cases m with
  | nil => rfl
  | cons q m =>
    obtain ⟨k, w⟩ := q
    simp only [swfFrom, Bool.and_eq_true, decide_eq_true_eq] at h ⊢
    exact ⟨⟨by omega, h.1.2⟩, h.2⟩

theorem swf_filter {m : List (Nat × α)} (h : swf z m = true) (p : Nat × α → Bool) : swf z (m.filter p) = true := by
  suffices H : ∀ (m : List (Nat × α)) (b : Nat), swfFrom z b m = true → swfFrom z b (m.filter p) = true from H m 0 h
  intro m
  induction m with
  | nil => intros; rfl
  | cons q m ih =>
    intro b hb
    obtain ⟨k, w⟩ := q
    simp only [swfFrom, Bool.and_eq_true, decide_eq_true_eq] at hb
    obtain ⟨⟨hk, hw⟩, hm⟩ := hb
    by_cases hp : p (k, w)
    · simp only [List.filter_cons, hp, if_true, swfFrom, Bool.and_eq_true, decide_eq_true_eq]
      exact ⟨⟨hk, hw⟩, ih (k + 1) hm⟩
    · simp only [List.filter_cons, hp]
      exact swfFrom_mono (by omega) (ih (k + 1) hm)

/-- Changing values without making one the default keeps the form. -/
theorem swf_map {m : List (Nat × α)} (h : swf z m = true) (f : Nat × α → Nat × α) (hk : ∀ p, (f p).1 = p.1)
    (hv : ∀ p, p.2 ≠ z → (f p).2 ≠ z) : swf z (m.map f) = true := by
  suffices H : ∀ (m : List (Nat × α)) (b : Nat), swfFrom z b m = true → swfFrom z b (m.map f) = true from H m 0 h
  intro m
  induction m with
  | nil => intros; rfl
  | cons q m ih =>
    intro b hb
    obtain ⟨k, w⟩ := q
    simp only [swfFrom, Bool.and_eq_true, decide_eq_true_eq] at hb
    obtain ⟨⟨hk2, hw⟩, hm⟩ := hb
    have e := hk (k, w)
    have n := hv (k, w) hw
    rw [List.map_cons]
    cases hf : f (k, w) with
    | mk k2 w2 =>
      rw [hf] at e n
      simp only at e n
      subst e
      simp only [swfFrom, Bool.and_eq_true, decide_eq_true_eq]
      exact ⟨⟨hk2, n⟩, ih (k2 + 1) hm⟩

end Sys2Proof.Machine
end

