-- ==== Sys2Proof/Laws/State.lean ====
section
/-! SUPPORT. The frame of every named update of the device: each part that an update does not name reads as before. -/

namespace Sys2Proof.Machine

variable (d : Dev)

@[simp] theorem Dev.setReg_variant (x : Nat) (w : Word) : (d.setReg x w).variant = d.variant := rfl
@[simp] theorem Dev.setReg_preamp (x : Nat) (w : Word) : (d.setReg x w).preamp = d.preamp := rfl
@[simp] theorem Dev.setReg_clock (x : Nat) (w : Word) : (d.setReg x w).clock = d.clock := rfl
@[simp] theorem Dev.setReg_units (x : Nat) (w : Word) : (d.setReg x w).units = d.units := rfl
@[simp] theorem Dev.setReg_conf (x : Nat) (w : Word) : (d.setReg x w).conf = d.conf := rfl
@[simp] theorem Dev.setReg_hb (x : Nat) (w : Word) : (d.setReg x w).hb = d.hb := rfl
@[simp] theorem Dev.setReg_media (x : Nat) (w : Word) : (d.setReg x w).media = d.media := rfl
@[simp] theorem Dev.setReg_blk (x : Nat) (w : Word) : (d.setReg x w).blk = d.blk := rfl
@[simp] theorem Dev.setReg_chn (x : Nat) (w : Word) : (d.setReg x w).chn = d.chn := rfl
@[simp] theorem Dev.setReg_det (x : Nat) (w : Word) : (d.setReg x w).det = d.det := rfl
@[simp] theorem Dev.setReg_wr (x : Nat) (w : Word) : (d.setReg x w).wr = d.wr := rfl
@[simp] theorem Dev.setReg_assist (x : Nat) (w : Word) : (d.setReg x w).assist = d.assist := rfl
@[simp] theorem Dev.setReg_tnl (x : Nat) (w : Word) : (d.setReg x w).tnl = d.tnl := rfl
@[simp] theorem Dev.setReg_srv (x : Nat) (w : Word) : (d.setReg x w).srv = d.srv := rfl
@[simp] theorem Dev.setReg_spn (x : Nat) (w : Word) : (d.setReg x w).spn = d.spn := rfl
@[simp] theorem Dev.setReg_pd (x : Nat) (w : Word) : (d.setReg x w).pd = d.pd := rfl
@[simp] theorem Dev.setReg_pw (x : Nat) (w : Word) : (d.setReg x w).pw = d.pw := rfl
@[simp] theorem Dev.setReg_fmg (x : Nat) (w : Word) : (d.setReg x w).fmg = d.fmg := rfl
@[simp] theorem Dev.setReg_zq (x : Nat) (w : Word) : (d.setReg x w).zq = d.zq := rfl
@[simp] theorem Dev.setReg_felt (x : Nat) (w : Word) : (d.setReg x w).felt = d.felt := rfl
@[simp] theorem Dev.setReg_host (x : Nat) (w : Word) : (d.setReg x w).host = d.host := rfl
@[simp] theorem Dev.setReg_sem (x : Nat) (w : Word) : (d.setReg x w).sem = d.sem := rfl
@[simp] theorem Dev.setReg_mem (x : Nat) (w : Word) : (d.setReg x w).mem = d.mem := rfl
@[simp] theorem Dev.setReg_crn (x : Nat) (w : Word) : (d.setReg x w).crn = d.crn := rfl
@[simp] theorem Dev.setReg_nv (x : Nat) (w : Word) : (d.setReg x w).nv = d.nv := rfl
@[simp] theorem Dev.setReg_ful (x : Nat) (w : Word) : (d.setReg x w).ful = d.ful := rfl
@[simp] theorem Dev.setReg_cpx (x : Nat) (w : Word) : (d.setReg x w).cpx = d.cpx := rfl
@[simp] theorem Dev.setReg_mpi (x : Nat) (w : Word) : (d.setReg x w).mpi = d.mpi := rfl
@[simp] theorem Dev.setReg_completions (x : Nat) (w : Word) : (d.setReg x w).completions = d.completions := rfl
@[simp] theorem Dev.setReg_reads (x : Nat) (w : Word) : (d.setReg x w).reads = d.reads := rfl
@[simp] theorem Dev.setReg_debug (x : Nat) (w : Word) : (d.setReg x w).debug = d.debug := rfl
@[simp] theorem Dev.setReg_portBOff (x : Nat) (w : Word) : (d.setReg x w).portBOff = d.portBOff := rfl
@[simp] theorem Dev.setReg_free (x : Nat) (w : Word) : (d.setReg x w).free = d.free := rfl

@[simp] theorem Dev.setF_variant (x : Fld) (v : Nat) : (d.setF x v).variant = d.variant := rfl
@[simp] theorem Dev.setF_preamp (x : Fld) (v : Nat) : (d.setF x v).preamp = d.preamp := rfl
@[simp] theorem Dev.setF_clock (x : Fld) (v : Nat) : (d.setF x v).clock = d.clock := rfl
@[simp] theorem Dev.setF_units (x : Fld) (v : Nat) : (d.setF x v).units = d.units := rfl
@[simp] theorem Dev.setF_conf (x : Fld) (v : Nat) : (d.setF x v).conf = d.conf := rfl
@[simp] theorem Dev.setF_hb (x : Fld) (v : Nat) : (d.setF x v).hb = d.hb := rfl
@[simp] theorem Dev.setF_media (x : Fld) (v : Nat) : (d.setF x v).media = d.media := rfl
@[simp] theorem Dev.setF_blk (x : Fld) (v : Nat) : (d.setF x v).blk = d.blk := rfl
@[simp] theorem Dev.setF_chn (x : Fld) (v : Nat) : (d.setF x v).chn = d.chn := rfl
@[simp] theorem Dev.setF_det (x : Fld) (v : Nat) : (d.setF x v).det = d.det := rfl
@[simp] theorem Dev.setF_wr (x : Fld) (v : Nat) : (d.setF x v).wr = d.wr := rfl
@[simp] theorem Dev.setF_assist (x : Fld) (v : Nat) : (d.setF x v).assist = d.assist := rfl
@[simp] theorem Dev.setF_tnl (x : Fld) (v : Nat) : (d.setF x v).tnl = d.tnl := rfl
@[simp] theorem Dev.setF_srv (x : Fld) (v : Nat) : (d.setF x v).srv = d.srv := rfl
@[simp] theorem Dev.setF_spn (x : Fld) (v : Nat) : (d.setF x v).spn = d.spn := rfl
@[simp] theorem Dev.setF_pd (x : Fld) (v : Nat) : (d.setF x v).pd = d.pd := rfl
@[simp] theorem Dev.setF_pw (x : Fld) (v : Nat) : (d.setF x v).pw = d.pw := rfl
@[simp] theorem Dev.setF_fmg (x : Fld) (v : Nat) : (d.setF x v).fmg = d.fmg := rfl
@[simp] theorem Dev.setF_zq (x : Fld) (v : Nat) : (d.setF x v).zq = d.zq := rfl
@[simp] theorem Dev.setF_felt (x : Fld) (v : Nat) : (d.setF x v).felt = d.felt := rfl
@[simp] theorem Dev.setF_host (x : Fld) (v : Nat) : (d.setF x v).host = d.host := rfl
@[simp] theorem Dev.setF_sem (x : Fld) (v : Nat) : (d.setF x v).sem = d.sem := rfl
@[simp] theorem Dev.setF_mem (x : Fld) (v : Nat) : (d.setF x v).mem = d.mem := rfl
@[simp] theorem Dev.setF_crn (x : Fld) (v : Nat) : (d.setF x v).crn = d.crn := rfl
@[simp] theorem Dev.setF_nv (x : Fld) (v : Nat) : (d.setF x v).nv = d.nv := rfl
@[simp] theorem Dev.setF_ful (x : Fld) (v : Nat) : (d.setF x v).ful = d.ful := rfl
@[simp] theorem Dev.setF_cpx (x : Fld) (v : Nat) : (d.setF x v).cpx = d.cpx := rfl
@[simp] theorem Dev.setF_mpi (x : Fld) (v : Nat) : (d.setF x v).mpi = d.mpi := rfl
@[simp] theorem Dev.setF_completions (x : Fld) (v : Nat) : (d.setF x v).completions = d.completions := rfl
@[simp] theorem Dev.setF_reads (x : Fld) (v : Nat) : (d.setF x v).reads = d.reads := rfl
@[simp] theorem Dev.setF_debug (x : Fld) (v : Nat) : (d.setF x v).debug = d.debug := rfl
@[simp] theorem Dev.setF_portBOff (x : Fld) (v : Nat) : (d.setF x v).portBOff = d.portBOff := rfl
@[simp] theorem Dev.setF_free (x : Fld) (v : Nat) : (d.setF x v).free = d.free := rfl

@[simp] theorem Dev.bumpF_variant (x : Fld) (n : Nat) : (d.bumpF x n).variant = d.variant := rfl
@[simp] theorem Dev.bumpF_preamp (x : Fld) (n : Nat) : (d.bumpF x n).preamp = d.preamp := rfl
@[simp] theorem Dev.bumpF_clock (x : Fld) (n : Nat) : (d.bumpF x n).clock = d.clock := rfl
@[simp] theorem Dev.bumpF_units (x : Fld) (n : Nat) : (d.bumpF x n).units = d.units := rfl
@[simp] theorem Dev.bumpF_conf (x : Fld) (n : Nat) : (d.bumpF x n).conf = d.conf := rfl
@[simp] theorem Dev.bumpF_hb (x : Fld) (n : Nat) : (d.bumpF x n).hb = d.hb := rfl
@[simp] theorem Dev.bumpF_media (x : Fld) (n : Nat) : (d.bumpF x n).media = d.media := rfl
@[simp] theorem Dev.bumpF_blk (x : Fld) (n : Nat) : (d.bumpF x n).blk = d.blk := rfl
@[simp] theorem Dev.bumpF_chn (x : Fld) (n : Nat) : (d.bumpF x n).chn = d.chn := rfl
@[simp] theorem Dev.bumpF_det (x : Fld) (n : Nat) : (d.bumpF x n).det = d.det := rfl
@[simp] theorem Dev.bumpF_wr (x : Fld) (n : Nat) : (d.bumpF x n).wr = d.wr := rfl
@[simp] theorem Dev.bumpF_assist (x : Fld) (n : Nat) : (d.bumpF x n).assist = d.assist := rfl
@[simp] theorem Dev.bumpF_tnl (x : Fld) (n : Nat) : (d.bumpF x n).tnl = d.tnl := rfl
@[simp] theorem Dev.bumpF_srv (x : Fld) (n : Nat) : (d.bumpF x n).srv = d.srv := rfl
@[simp] theorem Dev.bumpF_spn (x : Fld) (n : Nat) : (d.bumpF x n).spn = d.spn := rfl
@[simp] theorem Dev.bumpF_pd (x : Fld) (n : Nat) : (d.bumpF x n).pd = d.pd := rfl
@[simp] theorem Dev.bumpF_pw (x : Fld) (n : Nat) : (d.bumpF x n).pw = d.pw := rfl
@[simp] theorem Dev.bumpF_fmg (x : Fld) (n : Nat) : (d.bumpF x n).fmg = d.fmg := rfl
@[simp] theorem Dev.bumpF_zq (x : Fld) (n : Nat) : (d.bumpF x n).zq = d.zq := rfl
@[simp] theorem Dev.bumpF_felt (x : Fld) (n : Nat) : (d.bumpF x n).felt = d.felt := rfl
@[simp] theorem Dev.bumpF_host (x : Fld) (n : Nat) : (d.bumpF x n).host = d.host := rfl
@[simp] theorem Dev.bumpF_sem (x : Fld) (n : Nat) : (d.bumpF x n).sem = d.sem := rfl
@[simp] theorem Dev.bumpF_mem (x : Fld) (n : Nat) : (d.bumpF x n).mem = d.mem := rfl
@[simp] theorem Dev.bumpF_crn (x : Fld) (n : Nat) : (d.bumpF x n).crn = d.crn := rfl
@[simp] theorem Dev.bumpF_nv (x : Fld) (n : Nat) : (d.bumpF x n).nv = d.nv := rfl
@[simp] theorem Dev.bumpF_ful (x : Fld) (n : Nat) : (d.bumpF x n).ful = d.ful := rfl
@[simp] theorem Dev.bumpF_cpx (x : Fld) (n : Nat) : (d.bumpF x n).cpx = d.cpx := rfl
@[simp] theorem Dev.bumpF_mpi (x : Fld) (n : Nat) : (d.bumpF x n).mpi = d.mpi := rfl
@[simp] theorem Dev.bumpF_completions (x : Fld) (n : Nat) : (d.bumpF x n).completions = d.completions := rfl
@[simp] theorem Dev.bumpF_reads (x : Fld) (n : Nat) : (d.bumpF x n).reads = d.reads := rfl
@[simp] theorem Dev.bumpF_debug (x : Fld) (n : Nat) : (d.bumpF x n).debug = d.debug := rfl
@[simp] theorem Dev.bumpF_portBOff (x : Fld) (n : Nat) : (d.bumpF x n).portBOff = d.portBOff := rfl
@[simp] theorem Dev.bumpF_free (x : Fld) (n : Nat) : (d.bumpF x n).free = d.free := rfl

@[simp] theorem Dev.orF_variant (x : Fld) (v : Nat) : (d.orF x v).variant = d.variant := rfl
@[simp] theorem Dev.orF_preamp (x : Fld) (v : Nat) : (d.orF x v).preamp = d.preamp := rfl
@[simp] theorem Dev.orF_clock (x : Fld) (v : Nat) : (d.orF x v).clock = d.clock := rfl
@[simp] theorem Dev.orF_units (x : Fld) (v : Nat) : (d.orF x v).units = d.units := rfl
@[simp] theorem Dev.orF_conf (x : Fld) (v : Nat) : (d.orF x v).conf = d.conf := rfl
@[simp] theorem Dev.orF_hb (x : Fld) (v : Nat) : (d.orF x v).hb = d.hb := rfl
@[simp] theorem Dev.orF_media (x : Fld) (v : Nat) : (d.orF x v).media = d.media := rfl
@[simp] theorem Dev.orF_blk (x : Fld) (v : Nat) : (d.orF x v).blk = d.blk := rfl
@[simp] theorem Dev.orF_chn (x : Fld) (v : Nat) : (d.orF x v).chn = d.chn := rfl
@[simp] theorem Dev.orF_det (x : Fld) (v : Nat) : (d.orF x v).det = d.det := rfl
@[simp] theorem Dev.orF_wr (x : Fld) (v : Nat) : (d.orF x v).wr = d.wr := rfl
@[simp] theorem Dev.orF_assist (x : Fld) (v : Nat) : (d.orF x v).assist = d.assist := rfl
@[simp] theorem Dev.orF_tnl (x : Fld) (v : Nat) : (d.orF x v).tnl = d.tnl := rfl
@[simp] theorem Dev.orF_srv (x : Fld) (v : Nat) : (d.orF x v).srv = d.srv := rfl
@[simp] theorem Dev.orF_spn (x : Fld) (v : Nat) : (d.orF x v).spn = d.spn := rfl
@[simp] theorem Dev.orF_pd (x : Fld) (v : Nat) : (d.orF x v).pd = d.pd := rfl
@[simp] theorem Dev.orF_pw (x : Fld) (v : Nat) : (d.orF x v).pw = d.pw := rfl
@[simp] theorem Dev.orF_fmg (x : Fld) (v : Nat) : (d.orF x v).fmg = d.fmg := rfl
@[simp] theorem Dev.orF_zq (x : Fld) (v : Nat) : (d.orF x v).zq = d.zq := rfl
@[simp] theorem Dev.orF_felt (x : Fld) (v : Nat) : (d.orF x v).felt = d.felt := rfl
@[simp] theorem Dev.orF_host (x : Fld) (v : Nat) : (d.orF x v).host = d.host := rfl
@[simp] theorem Dev.orF_sem (x : Fld) (v : Nat) : (d.orF x v).sem = d.sem := rfl
@[simp] theorem Dev.orF_mem (x : Fld) (v : Nat) : (d.orF x v).mem = d.mem := rfl
@[simp] theorem Dev.orF_crn (x : Fld) (v : Nat) : (d.orF x v).crn = d.crn := rfl
@[simp] theorem Dev.orF_nv (x : Fld) (v : Nat) : (d.orF x v).nv = d.nv := rfl
@[simp] theorem Dev.orF_ful (x : Fld) (v : Nat) : (d.orF x v).ful = d.ful := rfl
@[simp] theorem Dev.orF_cpx (x : Fld) (v : Nat) : (d.orF x v).cpx = d.cpx := rfl
@[simp] theorem Dev.orF_mpi (x : Fld) (v : Nat) : (d.orF x v).mpi = d.mpi := rfl
@[simp] theorem Dev.orF_completions (x : Fld) (v : Nat) : (d.orF x v).completions = d.completions := rfl
@[simp] theorem Dev.orF_reads (x : Fld) (v : Nat) : (d.orF x v).reads = d.reads := rfl
@[simp] theorem Dev.orF_debug (x : Fld) (v : Nat) : (d.orF x v).debug = d.debug := rfl
@[simp] theorem Dev.orF_portBOff (x : Fld) (v : Nat) : (d.orF x v).portBOff = d.portBOff := rfl
@[simp] theorem Dev.orF_free (x : Fld) (v : Nat) : (d.orF x v).free = d.free := rfl

@[simp] theorem Dev.setPa_variant (a : Act) (r : Nat) (w : Word) : (d.setPa a r w).variant = d.variant := rfl
@[simp] theorem Dev.setPa_regs (a : Act) (r : Nat) (w : Word) : (d.setPa a r w).regs = d.regs := rfl
@[simp] theorem Dev.setPa_clock (a : Act) (r : Nat) (w : Word) : (d.setPa a r w).clock = d.clock := rfl
@[simp] theorem Dev.setPa_units (a : Act) (r : Nat) (w : Word) : (d.setPa a r w).units = d.units := rfl
@[simp] theorem Dev.setPa_conf (a : Act) (r : Nat) (w : Word) : (d.setPa a r w).conf = d.conf := rfl
@[simp] theorem Dev.setPa_hb (a : Act) (r : Nat) (w : Word) : (d.setPa a r w).hb = d.hb := rfl
@[simp] theorem Dev.setPa_media (a : Act) (r : Nat) (w : Word) : (d.setPa a r w).media = d.media := rfl
@[simp] theorem Dev.setPa_blk (a : Act) (r : Nat) (w : Word) : (d.setPa a r w).blk = d.blk := rfl
@[simp] theorem Dev.setPa_chn (a : Act) (r : Nat) (w : Word) : (d.setPa a r w).chn = d.chn := rfl
@[simp] theorem Dev.setPa_det (a : Act) (r : Nat) (w : Word) : (d.setPa a r w).det = d.det := rfl
@[simp] theorem Dev.setPa_wr (a : Act) (r : Nat) (w : Word) : (d.setPa a r w).wr = d.wr := rfl
@[simp] theorem Dev.setPa_assist (a : Act) (r : Nat) (w : Word) : (d.setPa a r w).assist = d.assist := rfl
@[simp] theorem Dev.setPa_tnl (a : Act) (r : Nat) (w : Word) : (d.setPa a r w).tnl = d.tnl := rfl
@[simp] theorem Dev.setPa_srv (a : Act) (r : Nat) (w : Word) : (d.setPa a r w).srv = d.srv := rfl
@[simp] theorem Dev.setPa_spn (a : Act) (r : Nat) (w : Word) : (d.setPa a r w).spn = d.spn := rfl
@[simp] theorem Dev.setPa_pd (a : Act) (r : Nat) (w : Word) : (d.setPa a r w).pd = d.pd := rfl
@[simp] theorem Dev.setPa_pw (a : Act) (r : Nat) (w : Word) : (d.setPa a r w).pw = d.pw := rfl
@[simp] theorem Dev.setPa_fmg (a : Act) (r : Nat) (w : Word) : (d.setPa a r w).fmg = d.fmg := rfl
@[simp] theorem Dev.setPa_zq (a : Act) (r : Nat) (w : Word) : (d.setPa a r w).zq = d.zq := rfl
@[simp] theorem Dev.setPa_felt (a : Act) (r : Nat) (w : Word) : (d.setPa a r w).felt = d.felt := rfl
@[simp] theorem Dev.setPa_host (a : Act) (r : Nat) (w : Word) : (d.setPa a r w).host = d.host := rfl
@[simp] theorem Dev.setPa_sem (a : Act) (r : Nat) (w : Word) : (d.setPa a r w).sem = d.sem := rfl
@[simp] theorem Dev.setPa_mem (a : Act) (r : Nat) (w : Word) : (d.setPa a r w).mem = d.mem := rfl
@[simp] theorem Dev.setPa_crn (a : Act) (r : Nat) (w : Word) : (d.setPa a r w).crn = d.crn := rfl
@[simp] theorem Dev.setPa_nv (a : Act) (r : Nat) (w : Word) : (d.setPa a r w).nv = d.nv := rfl
@[simp] theorem Dev.setPa_ful (a : Act) (r : Nat) (w : Word) : (d.setPa a r w).ful = d.ful := rfl
@[simp] theorem Dev.setPa_cpx (a : Act) (r : Nat) (w : Word) : (d.setPa a r w).cpx = d.cpx := rfl
@[simp] theorem Dev.setPa_mpi (a : Act) (r : Nat) (w : Word) : (d.setPa a r w).mpi = d.mpi := rfl
@[simp] theorem Dev.setPa_completions (a : Act) (r : Nat) (w : Word) : (d.setPa a r w).completions = d.completions := rfl
@[simp] theorem Dev.setPa_reads (a : Act) (r : Nat) (w : Word) : (d.setPa a r w).reads = d.reads := rfl
@[simp] theorem Dev.setPa_debug (a : Act) (r : Nat) (w : Word) : (d.setPa a r w).debug = d.debug := rfl
@[simp] theorem Dev.setPa_portBOff (a : Act) (r : Nat) (w : Word) : (d.setPa a r w).portBOff = d.portBOff := rfl
@[simp] theorem Dev.setPa_free (a : Act) (r : Nat) (w : Word) : (d.setPa a r w).free = d.free := rfl

@[simp] theorem Dev.setPaF_variant (a : Act) (x : Fld) (v : Nat) : (d.setPaF a x v).variant = d.variant := rfl
@[simp] theorem Dev.setPaF_regs (a : Act) (x : Fld) (v : Nat) : (d.setPaF a x v).regs = d.regs := rfl
@[simp] theorem Dev.setPaF_clock (a : Act) (x : Fld) (v : Nat) : (d.setPaF a x v).clock = d.clock := rfl
@[simp] theorem Dev.setPaF_units (a : Act) (x : Fld) (v : Nat) : (d.setPaF a x v).units = d.units := rfl
@[simp] theorem Dev.setPaF_conf (a : Act) (x : Fld) (v : Nat) : (d.setPaF a x v).conf = d.conf := rfl
@[simp] theorem Dev.setPaF_hb (a : Act) (x : Fld) (v : Nat) : (d.setPaF a x v).hb = d.hb := rfl
@[simp] theorem Dev.setPaF_media (a : Act) (x : Fld) (v : Nat) : (d.setPaF a x v).media = d.media := rfl
@[simp] theorem Dev.setPaF_blk (a : Act) (x : Fld) (v : Nat) : (d.setPaF a x v).blk = d.blk := rfl
@[simp] theorem Dev.setPaF_chn (a : Act) (x : Fld) (v : Nat) : (d.setPaF a x v).chn = d.chn := rfl
@[simp] theorem Dev.setPaF_det (a : Act) (x : Fld) (v : Nat) : (d.setPaF a x v).det = d.det := rfl
@[simp] theorem Dev.setPaF_wr (a : Act) (x : Fld) (v : Nat) : (d.setPaF a x v).wr = d.wr := rfl
@[simp] theorem Dev.setPaF_assist (a : Act) (x : Fld) (v : Nat) : (d.setPaF a x v).assist = d.assist := rfl
@[simp] theorem Dev.setPaF_tnl (a : Act) (x : Fld) (v : Nat) : (d.setPaF a x v).tnl = d.tnl := rfl
@[simp] theorem Dev.setPaF_srv (a : Act) (x : Fld) (v : Nat) : (d.setPaF a x v).srv = d.srv := rfl
@[simp] theorem Dev.setPaF_spn (a : Act) (x : Fld) (v : Nat) : (d.setPaF a x v).spn = d.spn := rfl
@[simp] theorem Dev.setPaF_pd (a : Act) (x : Fld) (v : Nat) : (d.setPaF a x v).pd = d.pd := rfl
@[simp] theorem Dev.setPaF_pw (a : Act) (x : Fld) (v : Nat) : (d.setPaF a x v).pw = d.pw := rfl
@[simp] theorem Dev.setPaF_fmg (a : Act) (x : Fld) (v : Nat) : (d.setPaF a x v).fmg = d.fmg := rfl
@[simp] theorem Dev.setPaF_zq (a : Act) (x : Fld) (v : Nat) : (d.setPaF a x v).zq = d.zq := rfl
@[simp] theorem Dev.setPaF_felt (a : Act) (x : Fld) (v : Nat) : (d.setPaF a x v).felt = d.felt := rfl
@[simp] theorem Dev.setPaF_host (a : Act) (x : Fld) (v : Nat) : (d.setPaF a x v).host = d.host := rfl
@[simp] theorem Dev.setPaF_sem (a : Act) (x : Fld) (v : Nat) : (d.setPaF a x v).sem = d.sem := rfl
@[simp] theorem Dev.setPaF_mem (a : Act) (x : Fld) (v : Nat) : (d.setPaF a x v).mem = d.mem := rfl
@[simp] theorem Dev.setPaF_crn (a : Act) (x : Fld) (v : Nat) : (d.setPaF a x v).crn = d.crn := rfl
@[simp] theorem Dev.setPaF_nv (a : Act) (x : Fld) (v : Nat) : (d.setPaF a x v).nv = d.nv := rfl
@[simp] theorem Dev.setPaF_ful (a : Act) (x : Fld) (v : Nat) : (d.setPaF a x v).ful = d.ful := rfl
@[simp] theorem Dev.setPaF_cpx (a : Act) (x : Fld) (v : Nat) : (d.setPaF a x v).cpx = d.cpx := rfl
@[simp] theorem Dev.setPaF_mpi (a : Act) (x : Fld) (v : Nat) : (d.setPaF a x v).mpi = d.mpi := rfl
@[simp] theorem Dev.setPaF_completions (a : Act) (x : Fld) (v : Nat) : (d.setPaF a x v).completions = d.completions := rfl
@[simp] theorem Dev.setPaF_reads (a : Act) (x : Fld) (v : Nat) : (d.setPaF a x v).reads = d.reads := rfl
@[simp] theorem Dev.setPaF_debug (a : Act) (x : Fld) (v : Nat) : (d.setPaF a x v).debug = d.debug := rfl
@[simp] theorem Dev.setPaF_portBOff (a : Act) (x : Fld) (v : Nat) : (d.setPaF a x v).portBOff = d.portBOff := rfl
@[simp] theorem Dev.setPaF_free (a : Act) (x : Fld) (v : Nat) : (d.setPaF a x v).free = d.free := rfl

@[simp] theorem Dev.answer_variant (q : Requester) (w : Word) : (d.answer q w).variant = d.variant := rfl
@[simp] theorem Dev.answer_regs (q : Requester) (w : Word) : (d.answer q w).regs = d.regs := rfl
@[simp] theorem Dev.answer_preamp (q : Requester) (w : Word) : (d.answer q w).preamp = d.preamp := rfl
@[simp] theorem Dev.answer_clock (q : Requester) (w : Word) : (d.answer q w).clock = d.clock := rfl
@[simp] theorem Dev.answer_units (q : Requester) (w : Word) : (d.answer q w).units = d.units := rfl
@[simp] theorem Dev.answer_conf (q : Requester) (w : Word) : (d.answer q w).conf = d.conf := rfl
@[simp] theorem Dev.answer_hb (q : Requester) (w : Word) : (d.answer q w).hb = d.hb := rfl
@[simp] theorem Dev.answer_media (q : Requester) (w : Word) : (d.answer q w).media = d.media := rfl
@[simp] theorem Dev.answer_blk (q : Requester) (w : Word) : (d.answer q w).blk = d.blk := rfl
@[simp] theorem Dev.answer_chn (q : Requester) (w : Word) : (d.answer q w).chn = d.chn := rfl
@[simp] theorem Dev.answer_det (q : Requester) (w : Word) : (d.answer q w).det = d.det := rfl
@[simp] theorem Dev.answer_wr (q : Requester) (w : Word) : (d.answer q w).wr = d.wr := rfl
@[simp] theorem Dev.answer_assist (q : Requester) (w : Word) : (d.answer q w).assist = d.assist := rfl
@[simp] theorem Dev.answer_tnl (q : Requester) (w : Word) : (d.answer q w).tnl = d.tnl := rfl
@[simp] theorem Dev.answer_srv (q : Requester) (w : Word) : (d.answer q w).srv = d.srv := rfl
@[simp] theorem Dev.answer_spn (q : Requester) (w : Word) : (d.answer q w).spn = d.spn := rfl
@[simp] theorem Dev.answer_pd (q : Requester) (w : Word) : (d.answer q w).pd = d.pd := rfl
@[simp] theorem Dev.answer_pw (q : Requester) (w : Word) : (d.answer q w).pw = d.pw := rfl
@[simp] theorem Dev.answer_fmg (q : Requester) (w : Word) : (d.answer q w).fmg = d.fmg := rfl
@[simp] theorem Dev.answer_zq (q : Requester) (w : Word) : (d.answer q w).zq = d.zq := rfl
@[simp] theorem Dev.answer_felt (q : Requester) (w : Word) : (d.answer q w).felt = d.felt := rfl
@[simp] theorem Dev.answer_host (q : Requester) (w : Word) : (d.answer q w).host = d.host := rfl
@[simp] theorem Dev.answer_sem (q : Requester) (w : Word) : (d.answer q w).sem = d.sem := rfl
@[simp] theorem Dev.answer_mem (q : Requester) (w : Word) : (d.answer q w).mem = d.mem := rfl
@[simp] theorem Dev.answer_crn (q : Requester) (w : Word) : (d.answer q w).crn = d.crn := rfl
@[simp] theorem Dev.answer_nv (q : Requester) (w : Word) : (d.answer q w).nv = d.nv := rfl
@[simp] theorem Dev.answer_ful (q : Requester) (w : Word) : (d.answer q w).ful = d.ful := rfl
@[simp] theorem Dev.answer_cpx (q : Requester) (w : Word) : (d.answer q w).cpx = d.cpx := rfl
@[simp] theorem Dev.answer_mpi (q : Requester) (w : Word) : (d.answer q w).mpi = d.mpi := rfl
@[simp] theorem Dev.answer_completions (q : Requester) (w : Word) : (d.answer q w).completions = d.completions := rfl
@[simp] theorem Dev.answer_debug (q : Requester) (w : Word) : (d.answer q w).debug = d.debug := rfl
@[simp] theorem Dev.answer_portBOff (q : Requester) (w : Word) : (d.answer q w).portBOff = d.portBOff := rfl
@[simp] theorem Dev.answer_free (q : Requester) (w : Word) : (d.answer q w).free = d.free := rfl

@[simp] theorem Dev.tookFree_variant : (d.tookFree ).variant = d.variant := rfl
@[simp] theorem Dev.tookFree_regs : (d.tookFree ).regs = d.regs := rfl
@[simp] theorem Dev.tookFree_preamp : (d.tookFree ).preamp = d.preamp := rfl
@[simp] theorem Dev.tookFree_clock : (d.tookFree ).clock = d.clock := rfl
@[simp] theorem Dev.tookFree_units : (d.tookFree ).units = d.units := rfl
@[simp] theorem Dev.tookFree_conf : (d.tookFree ).conf = d.conf := rfl
@[simp] theorem Dev.tookFree_hb : (d.tookFree ).hb = d.hb := rfl
@[simp] theorem Dev.tookFree_media : (d.tookFree ).media = d.media := rfl
@[simp] theorem Dev.tookFree_blk : (d.tookFree ).blk = d.blk := rfl
@[simp] theorem Dev.tookFree_chn : (d.tookFree ).chn = d.chn := rfl
@[simp] theorem Dev.tookFree_det : (d.tookFree ).det = d.det := rfl
@[simp] theorem Dev.tookFree_wr : (d.tookFree ).wr = d.wr := rfl
@[simp] theorem Dev.tookFree_assist : (d.tookFree ).assist = d.assist := rfl
@[simp] theorem Dev.tookFree_tnl : (d.tookFree ).tnl = d.tnl := rfl
@[simp] theorem Dev.tookFree_srv : (d.tookFree ).srv = d.srv := rfl
@[simp] theorem Dev.tookFree_spn : (d.tookFree ).spn = d.spn := rfl
@[simp] theorem Dev.tookFree_pd : (d.tookFree ).pd = d.pd := rfl
@[simp] theorem Dev.tookFree_pw : (d.tookFree ).pw = d.pw := rfl
@[simp] theorem Dev.tookFree_fmg : (d.tookFree ).fmg = d.fmg := rfl
@[simp] theorem Dev.tookFree_zq : (d.tookFree ).zq = d.zq := rfl
@[simp] theorem Dev.tookFree_felt : (d.tookFree ).felt = d.felt := rfl
@[simp] theorem Dev.tookFree_host : (d.tookFree ).host = d.host := rfl
@[simp] theorem Dev.tookFree_sem : (d.tookFree ).sem = d.sem := rfl
@[simp] theorem Dev.tookFree_mem : (d.tookFree ).mem = d.mem := rfl
@[simp] theorem Dev.tookFree_crn : (d.tookFree ).crn = d.crn := rfl
@[simp] theorem Dev.tookFree_nv : (d.tookFree ).nv = d.nv := rfl
@[simp] theorem Dev.tookFree_ful : (d.tookFree ).ful = d.ful := rfl
@[simp] theorem Dev.tookFree_cpx : (d.tookFree ).cpx = d.cpx := rfl
@[simp] theorem Dev.tookFree_mpi : (d.tookFree ).mpi = d.mpi := rfl
@[simp] theorem Dev.tookFree_completions : (d.tookFree ).completions = d.completions := rfl
@[simp] theorem Dev.tookFree_reads : (d.tookFree ).reads = d.reads := rfl
@[simp] theorem Dev.tookFree_debug : (d.tookFree ).debug = d.debug := rfl
@[simp] theorem Dev.tookFree_portBOff : (d.tookFree ).portBOff = d.portBOff := rfl

@[simp] theorem Dev.setDomOn_variant (i : Nat) (b : Bool) : (d.setDomOn i b).variant = d.variant := rfl
@[simp] theorem Dev.setDomOn_preamp (i : Nat) (b : Bool) : (d.setDomOn i b).preamp = d.preamp := rfl
@[simp] theorem Dev.setDomOn_clock (i : Nat) (b : Bool) : (d.setDomOn i b).clock = d.clock := rfl
@[simp] theorem Dev.setDomOn_units (i : Nat) (b : Bool) : (d.setDomOn i b).units = d.units := rfl
@[simp] theorem Dev.setDomOn_conf (i : Nat) (b : Bool) : (d.setDomOn i b).conf = d.conf := rfl
@[simp] theorem Dev.setDomOn_hb (i : Nat) (b : Bool) : (d.setDomOn i b).hb = d.hb := rfl
@[simp] theorem Dev.setDomOn_media (i : Nat) (b : Bool) : (d.setDomOn i b).media = d.media := rfl
@[simp] theorem Dev.setDomOn_blk (i : Nat) (b : Bool) : (d.setDomOn i b).blk = d.blk := rfl
@[simp] theorem Dev.setDomOn_chn (i : Nat) (b : Bool) : (d.setDomOn i b).chn = d.chn := rfl
@[simp] theorem Dev.setDomOn_det (i : Nat) (b : Bool) : (d.setDomOn i b).det = d.det := rfl
@[simp] theorem Dev.setDomOn_wr (i : Nat) (b : Bool) : (d.setDomOn i b).wr = d.wr := rfl
@[simp] theorem Dev.setDomOn_assist (i : Nat) (b : Bool) : (d.setDomOn i b).assist = d.assist := rfl
@[simp] theorem Dev.setDomOn_tnl (i : Nat) (b : Bool) : (d.setDomOn i b).tnl = d.tnl := rfl
@[simp] theorem Dev.setDomOn_srv (i : Nat) (b : Bool) : (d.setDomOn i b).srv = d.srv := rfl
@[simp] theorem Dev.setDomOn_spn (i : Nat) (b : Bool) : (d.setDomOn i b).spn = d.spn := rfl
@[simp] theorem Dev.setDomOn_pd (i : Nat) (b : Bool) : (d.setDomOn i b).pd = d.pd := rfl
@[simp] theorem Dev.setDomOn_pw (i : Nat) (b : Bool) : (d.setDomOn i b).pw = d.pw := rfl
@[simp] theorem Dev.setDomOn_fmg (i : Nat) (b : Bool) : (d.setDomOn i b).fmg = d.fmg := rfl
@[simp] theorem Dev.setDomOn_zq (i : Nat) (b : Bool) : (d.setDomOn i b).zq = d.zq := rfl
@[simp] theorem Dev.setDomOn_felt (i : Nat) (b : Bool) : (d.setDomOn i b).felt = d.felt := rfl
@[simp] theorem Dev.setDomOn_host (i : Nat) (b : Bool) : (d.setDomOn i b).host = d.host := rfl
@[simp] theorem Dev.setDomOn_sem (i : Nat) (b : Bool) : (d.setDomOn i b).sem = d.sem := rfl
@[simp] theorem Dev.setDomOn_mem (i : Nat) (b : Bool) : (d.setDomOn i b).mem = d.mem := rfl
@[simp] theorem Dev.setDomOn_crn (i : Nat) (b : Bool) : (d.setDomOn i b).crn = d.crn := rfl
@[simp] theorem Dev.setDomOn_nv (i : Nat) (b : Bool) : (d.setDomOn i b).nv = d.nv := rfl
@[simp] theorem Dev.setDomOn_ful (i : Nat) (b : Bool) : (d.setDomOn i b).ful = d.ful := rfl
@[simp] theorem Dev.setDomOn_cpx (i : Nat) (b : Bool) : (d.setDomOn i b).cpx = d.cpx := rfl
@[simp] theorem Dev.setDomOn_mpi (i : Nat) (b : Bool) : (d.setDomOn i b).mpi = d.mpi := rfl
@[simp] theorem Dev.setDomOn_completions (i : Nat) (b : Bool) : (d.setDomOn i b).completions = d.completions := rfl
@[simp] theorem Dev.setDomOn_reads (i : Nat) (b : Bool) : (d.setDomOn i b).reads = d.reads := rfl
@[simp] theorem Dev.setDomOn_debug (i : Nat) (b : Bool) : (d.setDomOn i b).debug = d.debug := rfl
@[simp] theorem Dev.setDomOn_portBOff (i : Nat) (b : Bool) : (d.setDomOn i b).portBOff = d.portBOff := rfl
@[simp] theorem Dev.setDomOn_free (i : Nat) (b : Bool) : (d.setDomOn i b).free = d.free := rfl

@[simp] theorem Dev.setDomLow_variant (i : Nat) (b : Bool) : (d.setDomLow i b).variant = d.variant := rfl
@[simp] theorem Dev.setDomLow_preamp (i : Nat) (b : Bool) : (d.setDomLow i b).preamp = d.preamp := rfl
@[simp] theorem Dev.setDomLow_clock (i : Nat) (b : Bool) : (d.setDomLow i b).clock = d.clock := rfl
@[simp] theorem Dev.setDomLow_units (i : Nat) (b : Bool) : (d.setDomLow i b).units = d.units := rfl
@[simp] theorem Dev.setDomLow_conf (i : Nat) (b : Bool) : (d.setDomLow i b).conf = d.conf := rfl
@[simp] theorem Dev.setDomLow_hb (i : Nat) (b : Bool) : (d.setDomLow i b).hb = d.hb := rfl
@[simp] theorem Dev.setDomLow_media (i : Nat) (b : Bool) : (d.setDomLow i b).media = d.media := rfl
@[simp] theorem Dev.setDomLow_blk (i : Nat) (b : Bool) : (d.setDomLow i b).blk = d.blk := rfl
@[simp] theorem Dev.setDomLow_chn (i : Nat) (b : Bool) : (d.setDomLow i b).chn = d.chn := rfl
@[simp] theorem Dev.setDomLow_det (i : Nat) (b : Bool) : (d.setDomLow i b).det = d.det := rfl
@[simp] theorem Dev.setDomLow_wr (i : Nat) (b : Bool) : (d.setDomLow i b).wr = d.wr := rfl
@[simp] theorem Dev.setDomLow_assist (i : Nat) (b : Bool) : (d.setDomLow i b).assist = d.assist := rfl
@[simp] theorem Dev.setDomLow_tnl (i : Nat) (b : Bool) : (d.setDomLow i b).tnl = d.tnl := rfl
@[simp] theorem Dev.setDomLow_srv (i : Nat) (b : Bool) : (d.setDomLow i b).srv = d.srv := rfl
@[simp] theorem Dev.setDomLow_spn (i : Nat) (b : Bool) : (d.setDomLow i b).spn = d.spn := rfl
@[simp] theorem Dev.setDomLow_pd (i : Nat) (b : Bool) : (d.setDomLow i b).pd = d.pd := rfl
@[simp] theorem Dev.setDomLow_pw (i : Nat) (b : Bool) : (d.setDomLow i b).pw = d.pw := rfl
@[simp] theorem Dev.setDomLow_fmg (i : Nat) (b : Bool) : (d.setDomLow i b).fmg = d.fmg := rfl
@[simp] theorem Dev.setDomLow_zq (i : Nat) (b : Bool) : (d.setDomLow i b).zq = d.zq := rfl
@[simp] theorem Dev.setDomLow_felt (i : Nat) (b : Bool) : (d.setDomLow i b).felt = d.felt := rfl
@[simp] theorem Dev.setDomLow_host (i : Nat) (b : Bool) : (d.setDomLow i b).host = d.host := rfl
@[simp] theorem Dev.setDomLow_sem (i : Nat) (b : Bool) : (d.setDomLow i b).sem = d.sem := rfl
@[simp] theorem Dev.setDomLow_mem (i : Nat) (b : Bool) : (d.setDomLow i b).mem = d.mem := rfl
@[simp] theorem Dev.setDomLow_crn (i : Nat) (b : Bool) : (d.setDomLow i b).crn = d.crn := rfl
@[simp] theorem Dev.setDomLow_nv (i : Nat) (b : Bool) : (d.setDomLow i b).nv = d.nv := rfl
@[simp] theorem Dev.setDomLow_ful (i : Nat) (b : Bool) : (d.setDomLow i b).ful = d.ful := rfl
@[simp] theorem Dev.setDomLow_cpx (i : Nat) (b : Bool) : (d.setDomLow i b).cpx = d.cpx := rfl
@[simp] theorem Dev.setDomLow_mpi (i : Nat) (b : Bool) : (d.setDomLow i b).mpi = d.mpi := rfl
@[simp] theorem Dev.setDomLow_completions (i : Nat) (b : Bool) : (d.setDomLow i b).completions = d.completions := rfl
@[simp] theorem Dev.setDomLow_reads (i : Nat) (b : Bool) : (d.setDomLow i b).reads = d.reads := rfl
@[simp] theorem Dev.setDomLow_debug (i : Nat) (b : Bool) : (d.setDomLow i b).debug = d.debug := rfl
@[simp] theorem Dev.setDomLow_portBOff (i : Nat) (b : Bool) : (d.setDomLow i b).portBOff = d.portBOff := rfl
@[simp] theorem Dev.setDomLow_free (i : Nat) (b : Bool) : (d.setDomLow i b).free = d.free := rfl

@[simp] theorem Dev.reportFault_variant (u : FUnit) (n : Nat) : (d.reportFault u n).variant = d.variant := rfl
@[simp] theorem Dev.reportFault_regs (u : FUnit) (n : Nat) : (d.reportFault u n).regs = d.regs := rfl
@[simp] theorem Dev.reportFault_preamp (u : FUnit) (n : Nat) : (d.reportFault u n).preamp = d.preamp := rfl
@[simp] theorem Dev.reportFault_clock (u : FUnit) (n : Nat) : (d.reportFault u n).clock = d.clock := rfl
@[simp] theorem Dev.reportFault_units (u : FUnit) (n : Nat) : (d.reportFault u n).units = d.units := rfl
@[simp] theorem Dev.reportFault_conf (u : FUnit) (n : Nat) : (d.reportFault u n).conf = d.conf := rfl
@[simp] theorem Dev.reportFault_hb (u : FUnit) (n : Nat) : (d.reportFault u n).hb = d.hb := rfl
@[simp] theorem Dev.reportFault_media (u : FUnit) (n : Nat) : (d.reportFault u n).media = d.media := rfl
@[simp] theorem Dev.reportFault_blk (u : FUnit) (n : Nat) : (d.reportFault u n).blk = d.blk := rfl
@[simp] theorem Dev.reportFault_chn (u : FUnit) (n : Nat) : (d.reportFault u n).chn = d.chn := rfl
@[simp] theorem Dev.reportFault_det (u : FUnit) (n : Nat) : (d.reportFault u n).det = d.det := rfl
@[simp] theorem Dev.reportFault_wr (u : FUnit) (n : Nat) : (d.reportFault u n).wr = d.wr := rfl
@[simp] theorem Dev.reportFault_assist (u : FUnit) (n : Nat) : (d.reportFault u n).assist = d.assist := rfl
@[simp] theorem Dev.reportFault_tnl (u : FUnit) (n : Nat) : (d.reportFault u n).tnl = d.tnl := rfl
@[simp] theorem Dev.reportFault_srv (u : FUnit) (n : Nat) : (d.reportFault u n).srv = d.srv := rfl
@[simp] theorem Dev.reportFault_spn (u : FUnit) (n : Nat) : (d.reportFault u n).spn = d.spn := rfl
@[simp] theorem Dev.reportFault_pd (u : FUnit) (n : Nat) : (d.reportFault u n).pd = d.pd := rfl
@[simp] theorem Dev.reportFault_pw (u : FUnit) (n : Nat) : (d.reportFault u n).pw = d.pw := rfl
@[simp] theorem Dev.reportFault_zq (u : FUnit) (n : Nat) : (d.reportFault u n).zq = d.zq := rfl
@[simp] theorem Dev.reportFault_felt (u : FUnit) (n : Nat) : (d.reportFault u n).felt = d.felt := rfl
@[simp] theorem Dev.reportFault_host (u : FUnit) (n : Nat) : (d.reportFault u n).host = d.host := rfl
@[simp] theorem Dev.reportFault_sem (u : FUnit) (n : Nat) : (d.reportFault u n).sem = d.sem := rfl
@[simp] theorem Dev.reportFault_mem (u : FUnit) (n : Nat) : (d.reportFault u n).mem = d.mem := rfl
@[simp] theorem Dev.reportFault_crn (u : FUnit) (n : Nat) : (d.reportFault u n).crn = d.crn := rfl
@[simp] theorem Dev.reportFault_nv (u : FUnit) (n : Nat) : (d.reportFault u n).nv = d.nv := rfl
@[simp] theorem Dev.reportFault_ful (u : FUnit) (n : Nat) : (d.reportFault u n).ful = d.ful := rfl
@[simp] theorem Dev.reportFault_cpx (u : FUnit) (n : Nat) : (d.reportFault u n).cpx = d.cpx := rfl
@[simp] theorem Dev.reportFault_mpi (u : FUnit) (n : Nat) : (d.reportFault u n).mpi = d.mpi := rfl
@[simp] theorem Dev.reportFault_completions (u : FUnit) (n : Nat) : (d.reportFault u n).completions = d.completions := rfl
@[simp] theorem Dev.reportFault_reads (u : FUnit) (n : Nat) : (d.reportFault u n).reads = d.reads := rfl
@[simp] theorem Dev.reportFault_debug (u : FUnit) (n : Nat) : (d.reportFault u n).debug = d.debug := rfl
@[simp] theorem Dev.reportFault_portBOff (u : FUnit) (n : Nat) : (d.reportFault u n).portBOff = d.portBOff := rfl
@[simp] theorem Dev.reportFault_free (u : FUnit) (n : Nat) : (d.reportFault u n).free = d.free := rfl

@[simp] theorem Dev.setResetting_variant (u : UnitId) (b : Bool) : (d.setResetting u b).variant = d.variant := rfl
@[simp] theorem Dev.setResetting_regs (u : UnitId) (b : Bool) : (d.setResetting u b).regs = d.regs := rfl
@[simp] theorem Dev.setResetting_preamp (u : UnitId) (b : Bool) : (d.setResetting u b).preamp = d.preamp := rfl
@[simp] theorem Dev.setResetting_clock (u : UnitId) (b : Bool) : (d.setResetting u b).clock = d.clock := rfl
@[simp] theorem Dev.setResetting_conf (u : UnitId) (b : Bool) : (d.setResetting u b).conf = d.conf := rfl
@[simp] theorem Dev.setResetting_hb (u : UnitId) (b : Bool) : (d.setResetting u b).hb = d.hb := rfl
@[simp] theorem Dev.setResetting_media (u : UnitId) (b : Bool) : (d.setResetting u b).media = d.media := rfl
@[simp] theorem Dev.setResetting_blk (u : UnitId) (b : Bool) : (d.setResetting u b).blk = d.blk := rfl
@[simp] theorem Dev.setResetting_chn (u : UnitId) (b : Bool) : (d.setResetting u b).chn = d.chn := rfl
@[simp] theorem Dev.setResetting_det (u : UnitId) (b : Bool) : (d.setResetting u b).det = d.det := rfl
@[simp] theorem Dev.setResetting_wr (u : UnitId) (b : Bool) : (d.setResetting u b).wr = d.wr := rfl
@[simp] theorem Dev.setResetting_assist (u : UnitId) (b : Bool) : (d.setResetting u b).assist = d.assist := rfl
@[simp] theorem Dev.setResetting_tnl (u : UnitId) (b : Bool) : (d.setResetting u b).tnl = d.tnl := rfl
@[simp] theorem Dev.setResetting_srv (u : UnitId) (b : Bool) : (d.setResetting u b).srv = d.srv := rfl
@[simp] theorem Dev.setResetting_spn (u : UnitId) (b : Bool) : (d.setResetting u b).spn = d.spn := rfl
@[simp] theorem Dev.setResetting_pd (u : UnitId) (b : Bool) : (d.setResetting u b).pd = d.pd := rfl
@[simp] theorem Dev.setResetting_pw (u : UnitId) (b : Bool) : (d.setResetting u b).pw = d.pw := rfl
@[simp] theorem Dev.setResetting_fmg (u : UnitId) (b : Bool) : (d.setResetting u b).fmg = d.fmg := rfl
@[simp] theorem Dev.setResetting_zq (u : UnitId) (b : Bool) : (d.setResetting u b).zq = d.zq := rfl
@[simp] theorem Dev.setResetting_felt (u : UnitId) (b : Bool) : (d.setResetting u b).felt = d.felt := rfl
@[simp] theorem Dev.setResetting_host (u : UnitId) (b : Bool) : (d.setResetting u b).host = d.host := rfl
@[simp] theorem Dev.setResetting_sem (u : UnitId) (b : Bool) : (d.setResetting u b).sem = d.sem := rfl
@[simp] theorem Dev.setResetting_mem (u : UnitId) (b : Bool) : (d.setResetting u b).mem = d.mem := rfl
@[simp] theorem Dev.setResetting_crn (u : UnitId) (b : Bool) : (d.setResetting u b).crn = d.crn := rfl
@[simp] theorem Dev.setResetting_nv (u : UnitId) (b : Bool) : (d.setResetting u b).nv = d.nv := rfl
@[simp] theorem Dev.setResetting_ful (u : UnitId) (b : Bool) : (d.setResetting u b).ful = d.ful := rfl
@[simp] theorem Dev.setResetting_cpx (u : UnitId) (b : Bool) : (d.setResetting u b).cpx = d.cpx := rfl
@[simp] theorem Dev.setResetting_mpi (u : UnitId) (b : Bool) : (d.setResetting u b).mpi = d.mpi := rfl
@[simp] theorem Dev.setResetting_completions (u : UnitId) (b : Bool) : (d.setResetting u b).completions = d.completions := rfl
@[simp] theorem Dev.setResetting_reads (u : UnitId) (b : Bool) : (d.setResetting u b).reads = d.reads := rfl
@[simp] theorem Dev.setResetting_debug (u : UnitId) (b : Bool) : (d.setResetting u b).debug = d.debug := rfl
@[simp] theorem Dev.setResetting_portBOff (u : UnitId) (b : Bool) : (d.setResetting u b).portBOff = d.portBOff := rfl
@[simp] theorem Dev.setResetting_free (u : UnitId) (b : Bool) : (d.setResetting u b).free = d.free := rfl

@[simp] theorem Dev.incGen_variant (u : UnitId) : (d.incGen u).variant = d.variant := rfl
@[simp] theorem Dev.incGen_regs (u : UnitId) : (d.incGen u).regs = d.regs := rfl
@[simp] theorem Dev.incGen_preamp (u : UnitId) : (d.incGen u).preamp = d.preamp := rfl
@[simp] theorem Dev.incGen_clock (u : UnitId) : (d.incGen u).clock = d.clock := rfl
@[simp] theorem Dev.incGen_conf (u : UnitId) : (d.incGen u).conf = d.conf := rfl
@[simp] theorem Dev.incGen_hb (u : UnitId) : (d.incGen u).hb = d.hb := rfl
@[simp] theorem Dev.incGen_media (u : UnitId) : (d.incGen u).media = d.media := rfl
@[simp] theorem Dev.incGen_blk (u : UnitId) : (d.incGen u).blk = d.blk := rfl
@[simp] theorem Dev.incGen_chn (u : UnitId) : (d.incGen u).chn = d.chn := rfl
@[simp] theorem Dev.incGen_det (u : UnitId) : (d.incGen u).det = d.det := rfl
@[simp] theorem Dev.incGen_wr (u : UnitId) : (d.incGen u).wr = d.wr := rfl
@[simp] theorem Dev.incGen_assist (u : UnitId) : (d.incGen u).assist = d.assist := rfl
@[simp] theorem Dev.incGen_tnl (u : UnitId) : (d.incGen u).tnl = d.tnl := rfl
@[simp] theorem Dev.incGen_srv (u : UnitId) : (d.incGen u).srv = d.srv := rfl
@[simp] theorem Dev.incGen_spn (u : UnitId) : (d.incGen u).spn = d.spn := rfl
@[simp] theorem Dev.incGen_pd (u : UnitId) : (d.incGen u).pd = d.pd := rfl
@[simp] theorem Dev.incGen_pw (u : UnitId) : (d.incGen u).pw = d.pw := rfl
@[simp] theorem Dev.incGen_fmg (u : UnitId) : (d.incGen u).fmg = d.fmg := rfl
@[simp] theorem Dev.incGen_zq (u : UnitId) : (d.incGen u).zq = d.zq := rfl
@[simp] theorem Dev.incGen_felt (u : UnitId) : (d.incGen u).felt = d.felt := rfl
@[simp] theorem Dev.incGen_host (u : UnitId) : (d.incGen u).host = d.host := rfl
@[simp] theorem Dev.incGen_sem (u : UnitId) : (d.incGen u).sem = d.sem := rfl
@[simp] theorem Dev.incGen_mem (u : UnitId) : (d.incGen u).mem = d.mem := rfl
@[simp] theorem Dev.incGen_crn (u : UnitId) : (d.incGen u).crn = d.crn := rfl
@[simp] theorem Dev.incGen_nv (u : UnitId) : (d.incGen u).nv = d.nv := rfl
@[simp] theorem Dev.incGen_ful (u : UnitId) : (d.incGen u).ful = d.ful := rfl
@[simp] theorem Dev.incGen_cpx (u : UnitId) : (d.incGen u).cpx = d.cpx := rfl
@[simp] theorem Dev.incGen_mpi (u : UnitId) : (d.incGen u).mpi = d.mpi := rfl
@[simp] theorem Dev.incGen_completions (u : UnitId) : (d.incGen u).completions = d.completions := rfl
@[simp] theorem Dev.incGen_reads (u : UnitId) : (d.incGen u).reads = d.reads := rfl
@[simp] theorem Dev.incGen_debug (u : UnitId) : (d.incGen u).debug = d.debug := rfl
@[simp] theorem Dev.incGen_portBOff (u : UnitId) : (d.incGen u).portBOff = d.portBOff := rfl
@[simp] theorem Dev.incGen_free (u : UnitId) : (d.incGen u).free = d.free := rfl

@[simp] theorem Dev.onBlk_variant (a : Act) (g : Blocker → Blocker) : (d.onBlk a g).variant = d.variant := rfl
@[simp] theorem Dev.onBlk_regs (a : Act) (g : Blocker → Blocker) : (d.onBlk a g).regs = d.regs := rfl
@[simp] theorem Dev.onBlk_preamp (a : Act) (g : Blocker → Blocker) : (d.onBlk a g).preamp = d.preamp := rfl
@[simp] theorem Dev.onBlk_clock (a : Act) (g : Blocker → Blocker) : (d.onBlk a g).clock = d.clock := rfl
@[simp] theorem Dev.onBlk_units (a : Act) (g : Blocker → Blocker) : (d.onBlk a g).units = d.units := rfl
@[simp] theorem Dev.onBlk_conf (a : Act) (g : Blocker → Blocker) : (d.onBlk a g).conf = d.conf := rfl
@[simp] theorem Dev.onBlk_hb (a : Act) (g : Blocker → Blocker) : (d.onBlk a g).hb = d.hb := rfl
@[simp] theorem Dev.onBlk_media (a : Act) (g : Blocker → Blocker) : (d.onBlk a g).media = d.media := rfl
@[simp] theorem Dev.onBlk_chn (a : Act) (g : Blocker → Blocker) : (d.onBlk a g).chn = d.chn := rfl
@[simp] theorem Dev.onBlk_det (a : Act) (g : Blocker → Blocker) : (d.onBlk a g).det = d.det := rfl
@[simp] theorem Dev.onBlk_wr (a : Act) (g : Blocker → Blocker) : (d.onBlk a g).wr = d.wr := rfl
@[simp] theorem Dev.onBlk_assist (a : Act) (g : Blocker → Blocker) : (d.onBlk a g).assist = d.assist := rfl
@[simp] theorem Dev.onBlk_tnl (a : Act) (g : Blocker → Blocker) : (d.onBlk a g).tnl = d.tnl := rfl
@[simp] theorem Dev.onBlk_srv (a : Act) (g : Blocker → Blocker) : (d.onBlk a g).srv = d.srv := rfl
@[simp] theorem Dev.onBlk_spn (a : Act) (g : Blocker → Blocker) : (d.onBlk a g).spn = d.spn := rfl
@[simp] theorem Dev.onBlk_pd (a : Act) (g : Blocker → Blocker) : (d.onBlk a g).pd = d.pd := rfl
@[simp] theorem Dev.onBlk_pw (a : Act) (g : Blocker → Blocker) : (d.onBlk a g).pw = d.pw := rfl
@[simp] theorem Dev.onBlk_fmg (a : Act) (g : Blocker → Blocker) : (d.onBlk a g).fmg = d.fmg := rfl
@[simp] theorem Dev.onBlk_zq (a : Act) (g : Blocker → Blocker) : (d.onBlk a g).zq = d.zq := rfl
@[simp] theorem Dev.onBlk_felt (a : Act) (g : Blocker → Blocker) : (d.onBlk a g).felt = d.felt := rfl
@[simp] theorem Dev.onBlk_host (a : Act) (g : Blocker → Blocker) : (d.onBlk a g).host = d.host := rfl
@[simp] theorem Dev.onBlk_sem (a : Act) (g : Blocker → Blocker) : (d.onBlk a g).sem = d.sem := rfl
@[simp] theorem Dev.onBlk_mem (a : Act) (g : Blocker → Blocker) : (d.onBlk a g).mem = d.mem := rfl
@[simp] theorem Dev.onBlk_crn (a : Act) (g : Blocker → Blocker) : (d.onBlk a g).crn = d.crn := rfl
@[simp] theorem Dev.onBlk_nv (a : Act) (g : Blocker → Blocker) : (d.onBlk a g).nv = d.nv := rfl
@[simp] theorem Dev.onBlk_ful (a : Act) (g : Blocker → Blocker) : (d.onBlk a g).ful = d.ful := rfl
@[simp] theorem Dev.onBlk_cpx (a : Act) (g : Blocker → Blocker) : (d.onBlk a g).cpx = d.cpx := rfl
@[simp] theorem Dev.onBlk_mpi (a : Act) (g : Blocker → Blocker) : (d.onBlk a g).mpi = d.mpi := rfl
@[simp] theorem Dev.onBlk_completions (a : Act) (g : Blocker → Blocker) : (d.onBlk a g).completions = d.completions := rfl
@[simp] theorem Dev.onBlk_reads (a : Act) (g : Blocker → Blocker) : (d.onBlk a g).reads = d.reads := rfl
@[simp] theorem Dev.onBlk_debug (a : Act) (g : Blocker → Blocker) : (d.onBlk a g).debug = d.debug := rfl
@[simp] theorem Dev.onBlk_portBOff (a : Act) (g : Blocker → Blocker) : (d.onBlk a g).portBOff = d.portBOff := rfl
@[simp] theorem Dev.onBlk_free (a : Act) (g : Blocker → Blocker) : (d.onBlk a g).free = d.free := rfl

@[simp] theorem Dev.onChn_variant (a : Act) (g : Channel → Channel) : (d.onChn a g).variant = d.variant := rfl
@[simp] theorem Dev.onChn_regs (a : Act) (g : Channel → Channel) : (d.onChn a g).regs = d.regs := rfl
@[simp] theorem Dev.onChn_preamp (a : Act) (g : Channel → Channel) : (d.onChn a g).preamp = d.preamp := rfl
@[simp] theorem Dev.onChn_clock (a : Act) (g : Channel → Channel) : (d.onChn a g).clock = d.clock := rfl
@[simp] theorem Dev.onChn_units (a : Act) (g : Channel → Channel) : (d.onChn a g).units = d.units := rfl
@[simp] theorem Dev.onChn_conf (a : Act) (g : Channel → Channel) : (d.onChn a g).conf = d.conf := rfl
@[simp] theorem Dev.onChn_hb (a : Act) (g : Channel → Channel) : (d.onChn a g).hb = d.hb := rfl
@[simp] theorem Dev.onChn_media (a : Act) (g : Channel → Channel) : (d.onChn a g).media = d.media := rfl
@[simp] theorem Dev.onChn_blk (a : Act) (g : Channel → Channel) : (d.onChn a g).blk = d.blk := rfl
@[simp] theorem Dev.onChn_det (a : Act) (g : Channel → Channel) : (d.onChn a g).det = d.det := rfl
@[simp] theorem Dev.onChn_wr (a : Act) (g : Channel → Channel) : (d.onChn a g).wr = d.wr := rfl
@[simp] theorem Dev.onChn_assist (a : Act) (g : Channel → Channel) : (d.onChn a g).assist = d.assist := rfl
@[simp] theorem Dev.onChn_tnl (a : Act) (g : Channel → Channel) : (d.onChn a g).tnl = d.tnl := rfl
@[simp] theorem Dev.onChn_srv (a : Act) (g : Channel → Channel) : (d.onChn a g).srv = d.srv := rfl
@[simp] theorem Dev.onChn_spn (a : Act) (g : Channel → Channel) : (d.onChn a g).spn = d.spn := rfl
@[simp] theorem Dev.onChn_pd (a : Act) (g : Channel → Channel) : (d.onChn a g).pd = d.pd := rfl
@[simp] theorem Dev.onChn_pw (a : Act) (g : Channel → Channel) : (d.onChn a g).pw = d.pw := rfl
@[simp] theorem Dev.onChn_fmg (a : Act) (g : Channel → Channel) : (d.onChn a g).fmg = d.fmg := rfl
@[simp] theorem Dev.onChn_zq (a : Act) (g : Channel → Channel) : (d.onChn a g).zq = d.zq := rfl
@[simp] theorem Dev.onChn_felt (a : Act) (g : Channel → Channel) : (d.onChn a g).felt = d.felt := rfl
@[simp] theorem Dev.onChn_host (a : Act) (g : Channel → Channel) : (d.onChn a g).host = d.host := rfl
@[simp] theorem Dev.onChn_sem (a : Act) (g : Channel → Channel) : (d.onChn a g).sem = d.sem := rfl
@[simp] theorem Dev.onChn_mem (a : Act) (g : Channel → Channel) : (d.onChn a g).mem = d.mem := rfl
@[simp] theorem Dev.onChn_crn (a : Act) (g : Channel → Channel) : (d.onChn a g).crn = d.crn := rfl
@[simp] theorem Dev.onChn_nv (a : Act) (g : Channel → Channel) : (d.onChn a g).nv = d.nv := rfl
@[simp] theorem Dev.onChn_ful (a : Act) (g : Channel → Channel) : (d.onChn a g).ful = d.ful := rfl
@[simp] theorem Dev.onChn_cpx (a : Act) (g : Channel → Channel) : (d.onChn a g).cpx = d.cpx := rfl
@[simp] theorem Dev.onChn_mpi (a : Act) (g : Channel → Channel) : (d.onChn a g).mpi = d.mpi := rfl
@[simp] theorem Dev.onChn_completions (a : Act) (g : Channel → Channel) : (d.onChn a g).completions = d.completions := rfl
@[simp] theorem Dev.onChn_reads (a : Act) (g : Channel → Channel) : (d.onChn a g).reads = d.reads := rfl
@[simp] theorem Dev.onChn_debug (a : Act) (g : Channel → Channel) : (d.onChn a g).debug = d.debug := rfl
@[simp] theorem Dev.onChn_portBOff (a : Act) (g : Channel → Channel) : (d.onChn a g).portBOff = d.portBOff := rfl
@[simp] theorem Dev.onChn_free (a : Act) (g : Channel → Channel) : (d.onChn a g).free = d.free := rfl

@[simp] theorem Dev.onDet_variant (a : Act) (g : Detect → Detect) : (d.onDet a g).variant = d.variant := rfl
@[simp] theorem Dev.onDet_regs (a : Act) (g : Detect → Detect) : (d.onDet a g).regs = d.regs := rfl
@[simp] theorem Dev.onDet_preamp (a : Act) (g : Detect → Detect) : (d.onDet a g).preamp = d.preamp := rfl
@[simp] theorem Dev.onDet_clock (a : Act) (g : Detect → Detect) : (d.onDet a g).clock = d.clock := rfl
@[simp] theorem Dev.onDet_units (a : Act) (g : Detect → Detect) : (d.onDet a g).units = d.units := rfl
@[simp] theorem Dev.onDet_conf (a : Act) (g : Detect → Detect) : (d.onDet a g).conf = d.conf := rfl
@[simp] theorem Dev.onDet_hb (a : Act) (g : Detect → Detect) : (d.onDet a g).hb = d.hb := rfl
@[simp] theorem Dev.onDet_media (a : Act) (g : Detect → Detect) : (d.onDet a g).media = d.media := rfl
@[simp] theorem Dev.onDet_blk (a : Act) (g : Detect → Detect) : (d.onDet a g).blk = d.blk := rfl
@[simp] theorem Dev.onDet_chn (a : Act) (g : Detect → Detect) : (d.onDet a g).chn = d.chn := rfl
@[simp] theorem Dev.onDet_wr (a : Act) (g : Detect → Detect) : (d.onDet a g).wr = d.wr := rfl
@[simp] theorem Dev.onDet_assist (a : Act) (g : Detect → Detect) : (d.onDet a g).assist = d.assist := rfl
@[simp] theorem Dev.onDet_tnl (a : Act) (g : Detect → Detect) : (d.onDet a g).tnl = d.tnl := rfl
@[simp] theorem Dev.onDet_srv (a : Act) (g : Detect → Detect) : (d.onDet a g).srv = d.srv := rfl
@[simp] theorem Dev.onDet_spn (a : Act) (g : Detect → Detect) : (d.onDet a g).spn = d.spn := rfl
@[simp] theorem Dev.onDet_pd (a : Act) (g : Detect → Detect) : (d.onDet a g).pd = d.pd := rfl
@[simp] theorem Dev.onDet_pw (a : Act) (g : Detect → Detect) : (d.onDet a g).pw = d.pw := rfl
@[simp] theorem Dev.onDet_fmg (a : Act) (g : Detect → Detect) : (d.onDet a g).fmg = d.fmg := rfl
@[simp] theorem Dev.onDet_zq (a : Act) (g : Detect → Detect) : (d.onDet a g).zq = d.zq := rfl
@[simp] theorem Dev.onDet_felt (a : Act) (g : Detect → Detect) : (d.onDet a g).felt = d.felt := rfl
@[simp] theorem Dev.onDet_host (a : Act) (g : Detect → Detect) : (d.onDet a g).host = d.host := rfl
@[simp] theorem Dev.onDet_sem (a : Act) (g : Detect → Detect) : (d.onDet a g).sem = d.sem := rfl
@[simp] theorem Dev.onDet_mem (a : Act) (g : Detect → Detect) : (d.onDet a g).mem = d.mem := rfl
@[simp] theorem Dev.onDet_crn (a : Act) (g : Detect → Detect) : (d.onDet a g).crn = d.crn := rfl
@[simp] theorem Dev.onDet_nv (a : Act) (g : Detect → Detect) : (d.onDet a g).nv = d.nv := rfl
@[simp] theorem Dev.onDet_ful (a : Act) (g : Detect → Detect) : (d.onDet a g).ful = d.ful := rfl
@[simp] theorem Dev.onDet_cpx (a : Act) (g : Detect → Detect) : (d.onDet a g).cpx = d.cpx := rfl
@[simp] theorem Dev.onDet_mpi (a : Act) (g : Detect → Detect) : (d.onDet a g).mpi = d.mpi := rfl
@[simp] theorem Dev.onDet_completions (a : Act) (g : Detect → Detect) : (d.onDet a g).completions = d.completions := rfl
@[simp] theorem Dev.onDet_reads (a : Act) (g : Detect → Detect) : (d.onDet a g).reads = d.reads := rfl
@[simp] theorem Dev.onDet_debug (a : Act) (g : Detect → Detect) : (d.onDet a g).debug = d.debug := rfl
@[simp] theorem Dev.onDet_portBOff (a : Act) (g : Detect → Detect) : (d.onDet a g).portBOff = d.portBOff := rfl
@[simp] theorem Dev.onDet_free (a : Act) (g : Detect → Detect) : (d.onDet a g).free = d.free := rfl

@[simp] theorem Dev.onWr_variant (a : Act) (g : WritePath → WritePath) : (d.onWr a g).variant = d.variant := rfl
@[simp] theorem Dev.onWr_regs (a : Act) (g : WritePath → WritePath) : (d.onWr a g).regs = d.regs := rfl
@[simp] theorem Dev.onWr_preamp (a : Act) (g : WritePath → WritePath) : (d.onWr a g).preamp = d.preamp := rfl
@[simp] theorem Dev.onWr_clock (a : Act) (g : WritePath → WritePath) : (d.onWr a g).clock = d.clock := rfl
@[simp] theorem Dev.onWr_units (a : Act) (g : WritePath → WritePath) : (d.onWr a g).units = d.units := rfl
@[simp] theorem Dev.onWr_conf (a : Act) (g : WritePath → WritePath) : (d.onWr a g).conf = d.conf := rfl
@[simp] theorem Dev.onWr_hb (a : Act) (g : WritePath → WritePath) : (d.onWr a g).hb = d.hb := rfl
@[simp] theorem Dev.onWr_media (a : Act) (g : WritePath → WritePath) : (d.onWr a g).media = d.media := rfl
@[simp] theorem Dev.onWr_blk (a : Act) (g : WritePath → WritePath) : (d.onWr a g).blk = d.blk := rfl
@[simp] theorem Dev.onWr_chn (a : Act) (g : WritePath → WritePath) : (d.onWr a g).chn = d.chn := rfl
@[simp] theorem Dev.onWr_det (a : Act) (g : WritePath → WritePath) : (d.onWr a g).det = d.det := rfl
@[simp] theorem Dev.onWr_assist (a : Act) (g : WritePath → WritePath) : (d.onWr a g).assist = d.assist := rfl
@[simp] theorem Dev.onWr_tnl (a : Act) (g : WritePath → WritePath) : (d.onWr a g).tnl = d.tnl := rfl
@[simp] theorem Dev.onWr_srv (a : Act) (g : WritePath → WritePath) : (d.onWr a g).srv = d.srv := rfl
@[simp] theorem Dev.onWr_spn (a : Act) (g : WritePath → WritePath) : (d.onWr a g).spn = d.spn := rfl
@[simp] theorem Dev.onWr_pd (a : Act) (g : WritePath → WritePath) : (d.onWr a g).pd = d.pd := rfl
@[simp] theorem Dev.onWr_pw (a : Act) (g : WritePath → WritePath) : (d.onWr a g).pw = d.pw := rfl
@[simp] theorem Dev.onWr_fmg (a : Act) (g : WritePath → WritePath) : (d.onWr a g).fmg = d.fmg := rfl
@[simp] theorem Dev.onWr_zq (a : Act) (g : WritePath → WritePath) : (d.onWr a g).zq = d.zq := rfl
@[simp] theorem Dev.onWr_felt (a : Act) (g : WritePath → WritePath) : (d.onWr a g).felt = d.felt := rfl
@[simp] theorem Dev.onWr_host (a : Act) (g : WritePath → WritePath) : (d.onWr a g).host = d.host := rfl
@[simp] theorem Dev.onWr_sem (a : Act) (g : WritePath → WritePath) : (d.onWr a g).sem = d.sem := rfl
@[simp] theorem Dev.onWr_mem (a : Act) (g : WritePath → WritePath) : (d.onWr a g).mem = d.mem := rfl
@[simp] theorem Dev.onWr_crn (a : Act) (g : WritePath → WritePath) : (d.onWr a g).crn = d.crn := rfl
@[simp] theorem Dev.onWr_nv (a : Act) (g : WritePath → WritePath) : (d.onWr a g).nv = d.nv := rfl
@[simp] theorem Dev.onWr_ful (a : Act) (g : WritePath → WritePath) : (d.onWr a g).ful = d.ful := rfl
@[simp] theorem Dev.onWr_cpx (a : Act) (g : WritePath → WritePath) : (d.onWr a g).cpx = d.cpx := rfl
@[simp] theorem Dev.onWr_mpi (a : Act) (g : WritePath → WritePath) : (d.onWr a g).mpi = d.mpi := rfl
@[simp] theorem Dev.onWr_completions (a : Act) (g : WritePath → WritePath) : (d.onWr a g).completions = d.completions := rfl
@[simp] theorem Dev.onWr_reads (a : Act) (g : WritePath → WritePath) : (d.onWr a g).reads = d.reads := rfl
@[simp] theorem Dev.onWr_debug (a : Act) (g : WritePath → WritePath) : (d.onWr a g).debug = d.debug := rfl
@[simp] theorem Dev.onWr_portBOff (a : Act) (g : WritePath → WritePath) : (d.onWr a g).portBOff = d.portBOff := rfl
@[simp] theorem Dev.onWr_free (a : Act) (g : WritePath → WritePath) : (d.onWr a g).free = d.free := rfl

@[simp] theorem Dev.onAssist_variant (a : Act) (g : Assist → Assist) : (d.onAssist a g).variant = d.variant := rfl
@[simp] theorem Dev.onAssist_regs (a : Act) (g : Assist → Assist) : (d.onAssist a g).regs = d.regs := rfl
@[simp] theorem Dev.onAssist_preamp (a : Act) (g : Assist → Assist) : (d.onAssist a g).preamp = d.preamp := rfl
@[simp] theorem Dev.onAssist_clock (a : Act) (g : Assist → Assist) : (d.onAssist a g).clock = d.clock := rfl
@[simp] theorem Dev.onAssist_units (a : Act) (g : Assist → Assist) : (d.onAssist a g).units = d.units := rfl
@[simp] theorem Dev.onAssist_conf (a : Act) (g : Assist → Assist) : (d.onAssist a g).conf = d.conf := rfl
@[simp] theorem Dev.onAssist_hb (a : Act) (g : Assist → Assist) : (d.onAssist a g).hb = d.hb := rfl
@[simp] theorem Dev.onAssist_media (a : Act) (g : Assist → Assist) : (d.onAssist a g).media = d.media := rfl
@[simp] theorem Dev.onAssist_blk (a : Act) (g : Assist → Assist) : (d.onAssist a g).blk = d.blk := rfl
@[simp] theorem Dev.onAssist_chn (a : Act) (g : Assist → Assist) : (d.onAssist a g).chn = d.chn := rfl
@[simp] theorem Dev.onAssist_det (a : Act) (g : Assist → Assist) : (d.onAssist a g).det = d.det := rfl
@[simp] theorem Dev.onAssist_wr (a : Act) (g : Assist → Assist) : (d.onAssist a g).wr = d.wr := rfl
@[simp] theorem Dev.onAssist_tnl (a : Act) (g : Assist → Assist) : (d.onAssist a g).tnl = d.tnl := rfl
@[simp] theorem Dev.onAssist_srv (a : Act) (g : Assist → Assist) : (d.onAssist a g).srv = d.srv := rfl
@[simp] theorem Dev.onAssist_spn (a : Act) (g : Assist → Assist) : (d.onAssist a g).spn = d.spn := rfl
@[simp] theorem Dev.onAssist_pd (a : Act) (g : Assist → Assist) : (d.onAssist a g).pd = d.pd := rfl
@[simp] theorem Dev.onAssist_pw (a : Act) (g : Assist → Assist) : (d.onAssist a g).pw = d.pw := rfl
@[simp] theorem Dev.onAssist_fmg (a : Act) (g : Assist → Assist) : (d.onAssist a g).fmg = d.fmg := rfl
@[simp] theorem Dev.onAssist_zq (a : Act) (g : Assist → Assist) : (d.onAssist a g).zq = d.zq := rfl
@[simp] theorem Dev.onAssist_felt (a : Act) (g : Assist → Assist) : (d.onAssist a g).felt = d.felt := rfl
@[simp] theorem Dev.onAssist_host (a : Act) (g : Assist → Assist) : (d.onAssist a g).host = d.host := rfl
@[simp] theorem Dev.onAssist_sem (a : Act) (g : Assist → Assist) : (d.onAssist a g).sem = d.sem := rfl
@[simp] theorem Dev.onAssist_mem (a : Act) (g : Assist → Assist) : (d.onAssist a g).mem = d.mem := rfl
@[simp] theorem Dev.onAssist_crn (a : Act) (g : Assist → Assist) : (d.onAssist a g).crn = d.crn := rfl
@[simp] theorem Dev.onAssist_nv (a : Act) (g : Assist → Assist) : (d.onAssist a g).nv = d.nv := rfl
@[simp] theorem Dev.onAssist_ful (a : Act) (g : Assist → Assist) : (d.onAssist a g).ful = d.ful := rfl
@[simp] theorem Dev.onAssist_cpx (a : Act) (g : Assist → Assist) : (d.onAssist a g).cpx = d.cpx := rfl
@[simp] theorem Dev.onAssist_mpi (a : Act) (g : Assist → Assist) : (d.onAssist a g).mpi = d.mpi := rfl
@[simp] theorem Dev.onAssist_completions (a : Act) (g : Assist → Assist) : (d.onAssist a g).completions = d.completions := rfl
@[simp] theorem Dev.onAssist_reads (a : Act) (g : Assist → Assist) : (d.onAssist a g).reads = d.reads := rfl
@[simp] theorem Dev.onAssist_debug (a : Act) (g : Assist → Assist) : (d.onAssist a g).debug = d.debug := rfl
@[simp] theorem Dev.onAssist_portBOff (a : Act) (g : Assist → Assist) : (d.onAssist a g).portBOff = d.portBOff := rfl
@[simp] theorem Dev.onAssist_free (a : Act) (g : Assist → Assist) : (d.onAssist a g).free = d.free := rfl

@[simp] theorem Dev.onTnl_variant (a : Act) (g : Tenil → Tenil) : (d.onTnl a g).variant = d.variant := rfl
@[simp] theorem Dev.onTnl_regs (a : Act) (g : Tenil → Tenil) : (d.onTnl a g).regs = d.regs := rfl
@[simp] theorem Dev.onTnl_preamp (a : Act) (g : Tenil → Tenil) : (d.onTnl a g).preamp = d.preamp := rfl
@[simp] theorem Dev.onTnl_clock (a : Act) (g : Tenil → Tenil) : (d.onTnl a g).clock = d.clock := rfl
@[simp] theorem Dev.onTnl_units (a : Act) (g : Tenil → Tenil) : (d.onTnl a g).units = d.units := rfl
@[simp] theorem Dev.onTnl_conf (a : Act) (g : Tenil → Tenil) : (d.onTnl a g).conf = d.conf := rfl
@[simp] theorem Dev.onTnl_hb (a : Act) (g : Tenil → Tenil) : (d.onTnl a g).hb = d.hb := rfl
@[simp] theorem Dev.onTnl_media (a : Act) (g : Tenil → Tenil) : (d.onTnl a g).media = d.media := rfl
@[simp] theorem Dev.onTnl_blk (a : Act) (g : Tenil → Tenil) : (d.onTnl a g).blk = d.blk := rfl
@[simp] theorem Dev.onTnl_chn (a : Act) (g : Tenil → Tenil) : (d.onTnl a g).chn = d.chn := rfl
@[simp] theorem Dev.onTnl_det (a : Act) (g : Tenil → Tenil) : (d.onTnl a g).det = d.det := rfl
@[simp] theorem Dev.onTnl_wr (a : Act) (g : Tenil → Tenil) : (d.onTnl a g).wr = d.wr := rfl
@[simp] theorem Dev.onTnl_assist (a : Act) (g : Tenil → Tenil) : (d.onTnl a g).assist = d.assist := rfl
@[simp] theorem Dev.onTnl_srv (a : Act) (g : Tenil → Tenil) : (d.onTnl a g).srv = d.srv := rfl
@[simp] theorem Dev.onTnl_spn (a : Act) (g : Tenil → Tenil) : (d.onTnl a g).spn = d.spn := rfl
@[simp] theorem Dev.onTnl_pd (a : Act) (g : Tenil → Tenil) : (d.onTnl a g).pd = d.pd := rfl
@[simp] theorem Dev.onTnl_pw (a : Act) (g : Tenil → Tenil) : (d.onTnl a g).pw = d.pw := rfl
@[simp] theorem Dev.onTnl_fmg (a : Act) (g : Tenil → Tenil) : (d.onTnl a g).fmg = d.fmg := rfl
@[simp] theorem Dev.onTnl_zq (a : Act) (g : Tenil → Tenil) : (d.onTnl a g).zq = d.zq := rfl
@[simp] theorem Dev.onTnl_felt (a : Act) (g : Tenil → Tenil) : (d.onTnl a g).felt = d.felt := rfl
@[simp] theorem Dev.onTnl_host (a : Act) (g : Tenil → Tenil) : (d.onTnl a g).host = d.host := rfl
@[simp] theorem Dev.onTnl_sem (a : Act) (g : Tenil → Tenil) : (d.onTnl a g).sem = d.sem := rfl
@[simp] theorem Dev.onTnl_mem (a : Act) (g : Tenil → Tenil) : (d.onTnl a g).mem = d.mem := rfl
@[simp] theorem Dev.onTnl_crn (a : Act) (g : Tenil → Tenil) : (d.onTnl a g).crn = d.crn := rfl
@[simp] theorem Dev.onTnl_nv (a : Act) (g : Tenil → Tenil) : (d.onTnl a g).nv = d.nv := rfl
@[simp] theorem Dev.onTnl_ful (a : Act) (g : Tenil → Tenil) : (d.onTnl a g).ful = d.ful := rfl
@[simp] theorem Dev.onTnl_cpx (a : Act) (g : Tenil → Tenil) : (d.onTnl a g).cpx = d.cpx := rfl
@[simp] theorem Dev.onTnl_mpi (a : Act) (g : Tenil → Tenil) : (d.onTnl a g).mpi = d.mpi := rfl
@[simp] theorem Dev.onTnl_completions (a : Act) (g : Tenil → Tenil) : (d.onTnl a g).completions = d.completions := rfl
@[simp] theorem Dev.onTnl_reads (a : Act) (g : Tenil → Tenil) : (d.onTnl a g).reads = d.reads := rfl
@[simp] theorem Dev.onTnl_debug (a : Act) (g : Tenil → Tenil) : (d.onTnl a g).debug = d.debug := rfl
@[simp] theorem Dev.onTnl_portBOff (a : Act) (g : Tenil → Tenil) : (d.onTnl a g).portBOff = d.portBOff := rfl
@[simp] theorem Dev.onTnl_free (a : Act) (g : Tenil → Tenil) : (d.onTnl a g).free = d.free := rfl

@[simp] theorem Dev.onSrv_variant (a : Act) (g : Servo → Servo) : (d.onSrv a g).variant = d.variant := rfl
@[simp] theorem Dev.onSrv_regs (a : Act) (g : Servo → Servo) : (d.onSrv a g).regs = d.regs := rfl
@[simp] theorem Dev.onSrv_preamp (a : Act) (g : Servo → Servo) : (d.onSrv a g).preamp = d.preamp := rfl
@[simp] theorem Dev.onSrv_clock (a : Act) (g : Servo → Servo) : (d.onSrv a g).clock = d.clock := rfl
@[simp] theorem Dev.onSrv_units (a : Act) (g : Servo → Servo) : (d.onSrv a g).units = d.units := rfl
@[simp] theorem Dev.onSrv_conf (a : Act) (g : Servo → Servo) : (d.onSrv a g).conf = d.conf := rfl
@[simp] theorem Dev.onSrv_hb (a : Act) (g : Servo → Servo) : (d.onSrv a g).hb = d.hb := rfl
@[simp] theorem Dev.onSrv_media (a : Act) (g : Servo → Servo) : (d.onSrv a g).media = d.media := rfl
@[simp] theorem Dev.onSrv_blk (a : Act) (g : Servo → Servo) : (d.onSrv a g).blk = d.blk := rfl
@[simp] theorem Dev.onSrv_chn (a : Act) (g : Servo → Servo) : (d.onSrv a g).chn = d.chn := rfl
@[simp] theorem Dev.onSrv_det (a : Act) (g : Servo → Servo) : (d.onSrv a g).det = d.det := rfl
@[simp] theorem Dev.onSrv_wr (a : Act) (g : Servo → Servo) : (d.onSrv a g).wr = d.wr := rfl
@[simp] theorem Dev.onSrv_assist (a : Act) (g : Servo → Servo) : (d.onSrv a g).assist = d.assist := rfl
@[simp] theorem Dev.onSrv_tnl (a : Act) (g : Servo → Servo) : (d.onSrv a g).tnl = d.tnl := rfl
@[simp] theorem Dev.onSrv_spn (a : Act) (g : Servo → Servo) : (d.onSrv a g).spn = d.spn := rfl
@[simp] theorem Dev.onSrv_pd (a : Act) (g : Servo → Servo) : (d.onSrv a g).pd = d.pd := rfl
@[simp] theorem Dev.onSrv_pw (a : Act) (g : Servo → Servo) : (d.onSrv a g).pw = d.pw := rfl
@[simp] theorem Dev.onSrv_fmg (a : Act) (g : Servo → Servo) : (d.onSrv a g).fmg = d.fmg := rfl
@[simp] theorem Dev.onSrv_zq (a : Act) (g : Servo → Servo) : (d.onSrv a g).zq = d.zq := rfl
@[simp] theorem Dev.onSrv_felt (a : Act) (g : Servo → Servo) : (d.onSrv a g).felt = d.felt := rfl
@[simp] theorem Dev.onSrv_host (a : Act) (g : Servo → Servo) : (d.onSrv a g).host = d.host := rfl
@[simp] theorem Dev.onSrv_sem (a : Act) (g : Servo → Servo) : (d.onSrv a g).sem = d.sem := rfl
@[simp] theorem Dev.onSrv_mem (a : Act) (g : Servo → Servo) : (d.onSrv a g).mem = d.mem := rfl
@[simp] theorem Dev.onSrv_crn (a : Act) (g : Servo → Servo) : (d.onSrv a g).crn = d.crn := rfl
@[simp] theorem Dev.onSrv_nv (a : Act) (g : Servo → Servo) : (d.onSrv a g).nv = d.nv := rfl
@[simp] theorem Dev.onSrv_ful (a : Act) (g : Servo → Servo) : (d.onSrv a g).ful = d.ful := rfl
@[simp] theorem Dev.onSrv_cpx (a : Act) (g : Servo → Servo) : (d.onSrv a g).cpx = d.cpx := rfl
@[simp] theorem Dev.onSrv_mpi (a : Act) (g : Servo → Servo) : (d.onSrv a g).mpi = d.mpi := rfl
@[simp] theorem Dev.onSrv_completions (a : Act) (g : Servo → Servo) : (d.onSrv a g).completions = d.completions := rfl
@[simp] theorem Dev.onSrv_reads (a : Act) (g : Servo → Servo) : (d.onSrv a g).reads = d.reads := rfl
@[simp] theorem Dev.onSrv_debug (a : Act) (g : Servo → Servo) : (d.onSrv a g).debug = d.debug := rfl
@[simp] theorem Dev.onSrv_portBOff (a : Act) (g : Servo → Servo) : (d.onSrv a g).portBOff = d.portBOff := rfl
@[simp] theorem Dev.onSrv_free (a : Act) (g : Servo → Servo) : (d.onSrv a g).free = d.free := rfl

@[simp] theorem Dev.onClock_variant (g : Clock → Clock) : (d.onClock g).variant = d.variant := rfl
@[simp] theorem Dev.onClock_regs (g : Clock → Clock) : (d.onClock g).regs = d.regs := rfl
@[simp] theorem Dev.onClock_preamp (g : Clock → Clock) : (d.onClock g).preamp = d.preamp := rfl
@[simp] theorem Dev.onClock_units (g : Clock → Clock) : (d.onClock g).units = d.units := rfl
@[simp] theorem Dev.onClock_conf (g : Clock → Clock) : (d.onClock g).conf = d.conf := rfl
@[simp] theorem Dev.onClock_hb (g : Clock → Clock) : (d.onClock g).hb = d.hb := rfl
@[simp] theorem Dev.onClock_media (g : Clock → Clock) : (d.onClock g).media = d.media := rfl
@[simp] theorem Dev.onClock_blk (g : Clock → Clock) : (d.onClock g).blk = d.blk := rfl
@[simp] theorem Dev.onClock_chn (g : Clock → Clock) : (d.onClock g).chn = d.chn := rfl
@[simp] theorem Dev.onClock_det (g : Clock → Clock) : (d.onClock g).det = d.det := rfl
@[simp] theorem Dev.onClock_wr (g : Clock → Clock) : (d.onClock g).wr = d.wr := rfl
@[simp] theorem Dev.onClock_assist (g : Clock → Clock) : (d.onClock g).assist = d.assist := rfl
@[simp] theorem Dev.onClock_tnl (g : Clock → Clock) : (d.onClock g).tnl = d.tnl := rfl
@[simp] theorem Dev.onClock_srv (g : Clock → Clock) : (d.onClock g).srv = d.srv := rfl
@[simp] theorem Dev.onClock_spn (g : Clock → Clock) : (d.onClock g).spn = d.spn := rfl
@[simp] theorem Dev.onClock_pd (g : Clock → Clock) : (d.onClock g).pd = d.pd := rfl
@[simp] theorem Dev.onClock_pw (g : Clock → Clock) : (d.onClock g).pw = d.pw := rfl
@[simp] theorem Dev.onClock_fmg (g : Clock → Clock) : (d.onClock g).fmg = d.fmg := rfl
@[simp] theorem Dev.onClock_zq (g : Clock → Clock) : (d.onClock g).zq = d.zq := rfl
@[simp] theorem Dev.onClock_felt (g : Clock → Clock) : (d.onClock g).felt = d.felt := rfl
@[simp] theorem Dev.onClock_host (g : Clock → Clock) : (d.onClock g).host = d.host := rfl
@[simp] theorem Dev.onClock_sem (g : Clock → Clock) : (d.onClock g).sem = d.sem := rfl
@[simp] theorem Dev.onClock_mem (g : Clock → Clock) : (d.onClock g).mem = d.mem := rfl
@[simp] theorem Dev.onClock_crn (g : Clock → Clock) : (d.onClock g).crn = d.crn := rfl
@[simp] theorem Dev.onClock_nv (g : Clock → Clock) : (d.onClock g).nv = d.nv := rfl
@[simp] theorem Dev.onClock_ful (g : Clock → Clock) : (d.onClock g).ful = d.ful := rfl
@[simp] theorem Dev.onClock_cpx (g : Clock → Clock) : (d.onClock g).cpx = d.cpx := rfl
@[simp] theorem Dev.onClock_mpi (g : Clock → Clock) : (d.onClock g).mpi = d.mpi := rfl
@[simp] theorem Dev.onClock_completions (g : Clock → Clock) : (d.onClock g).completions = d.completions := rfl
@[simp] theorem Dev.onClock_reads (g : Clock → Clock) : (d.onClock g).reads = d.reads := rfl
@[simp] theorem Dev.onClock_debug (g : Clock → Clock) : (d.onClock g).debug = d.debug := rfl
@[simp] theorem Dev.onClock_portBOff (g : Clock → Clock) : (d.onClock g).portBOff = d.portBOff := rfl
@[simp] theorem Dev.onClock_free (g : Clock → Clock) : (d.onClock g).free = d.free := rfl

@[simp] theorem Dev.onCpx_variant (g : Complexes → Complexes) : (d.onCpx g).variant = d.variant := rfl
@[simp] theorem Dev.onCpx_regs (g : Complexes → Complexes) : (d.onCpx g).regs = d.regs := rfl
@[simp] theorem Dev.onCpx_preamp (g : Complexes → Complexes) : (d.onCpx g).preamp = d.preamp := rfl
@[simp] theorem Dev.onCpx_clock (g : Complexes → Complexes) : (d.onCpx g).clock = d.clock := rfl
@[simp] theorem Dev.onCpx_units (g : Complexes → Complexes) : (d.onCpx g).units = d.units := rfl
@[simp] theorem Dev.onCpx_conf (g : Complexes → Complexes) : (d.onCpx g).conf = d.conf := rfl
@[simp] theorem Dev.onCpx_hb (g : Complexes → Complexes) : (d.onCpx g).hb = d.hb := rfl
@[simp] theorem Dev.onCpx_media (g : Complexes → Complexes) : (d.onCpx g).media = d.media := rfl
@[simp] theorem Dev.onCpx_blk (g : Complexes → Complexes) : (d.onCpx g).blk = d.blk := rfl
@[simp] theorem Dev.onCpx_chn (g : Complexes → Complexes) : (d.onCpx g).chn = d.chn := rfl
@[simp] theorem Dev.onCpx_det (g : Complexes → Complexes) : (d.onCpx g).det = d.det := rfl
@[simp] theorem Dev.onCpx_wr (g : Complexes → Complexes) : (d.onCpx g).wr = d.wr := rfl
@[simp] theorem Dev.onCpx_assist (g : Complexes → Complexes) : (d.onCpx g).assist = d.assist := rfl
@[simp] theorem Dev.onCpx_tnl (g : Complexes → Complexes) : (d.onCpx g).tnl = d.tnl := rfl
@[simp] theorem Dev.onCpx_srv (g : Complexes → Complexes) : (d.onCpx g).srv = d.srv := rfl
@[simp] theorem Dev.onCpx_spn (g : Complexes → Complexes) : (d.onCpx g).spn = d.spn := rfl
@[simp] theorem Dev.onCpx_pd (g : Complexes → Complexes) : (d.onCpx g).pd = d.pd := rfl
@[simp] theorem Dev.onCpx_pw (g : Complexes → Complexes) : (d.onCpx g).pw = d.pw := rfl
@[simp] theorem Dev.onCpx_fmg (g : Complexes → Complexes) : (d.onCpx g).fmg = d.fmg := rfl
@[simp] theorem Dev.onCpx_zq (g : Complexes → Complexes) : (d.onCpx g).zq = d.zq := rfl
@[simp] theorem Dev.onCpx_felt (g : Complexes → Complexes) : (d.onCpx g).felt = d.felt := rfl
@[simp] theorem Dev.onCpx_host (g : Complexes → Complexes) : (d.onCpx g).host = d.host := rfl
@[simp] theorem Dev.onCpx_sem (g : Complexes → Complexes) : (d.onCpx g).sem = d.sem := rfl
@[simp] theorem Dev.onCpx_mem (g : Complexes → Complexes) : (d.onCpx g).mem = d.mem := rfl
@[simp] theorem Dev.onCpx_crn (g : Complexes → Complexes) : (d.onCpx g).crn = d.crn := rfl
@[simp] theorem Dev.onCpx_nv (g : Complexes → Complexes) : (d.onCpx g).nv = d.nv := rfl
@[simp] theorem Dev.onCpx_ful (g : Complexes → Complexes) : (d.onCpx g).ful = d.ful := rfl
@[simp] theorem Dev.onCpx_mpi (g : Complexes → Complexes) : (d.onCpx g).mpi = d.mpi := rfl
@[simp] theorem Dev.onCpx_completions (g : Complexes → Complexes) : (d.onCpx g).completions = d.completions := rfl
@[simp] theorem Dev.onCpx_reads (g : Complexes → Complexes) : (d.onCpx g).reads = d.reads := rfl
@[simp] theorem Dev.onCpx_debug (g : Complexes → Complexes) : (d.onCpx g).debug = d.debug := rfl
@[simp] theorem Dev.onCpx_portBOff (g : Complexes → Complexes) : (d.onCpx g).portBOff = d.portBOff := rfl
@[simp] theorem Dev.onCpx_free (g : Complexes → Complexes) : (d.onCpx g).free = d.free := rfl

@[simp] theorem Dev.onCrn_variant (g : Crown → Crown) : (d.onCrn g).variant = d.variant := rfl
@[simp] theorem Dev.onCrn_regs (g : Crown → Crown) : (d.onCrn g).regs = d.regs := rfl
@[simp] theorem Dev.onCrn_preamp (g : Crown → Crown) : (d.onCrn g).preamp = d.preamp := rfl
@[simp] theorem Dev.onCrn_clock (g : Crown → Crown) : (d.onCrn g).clock = d.clock := rfl
@[simp] theorem Dev.onCrn_units (g : Crown → Crown) : (d.onCrn g).units = d.units := rfl
@[simp] theorem Dev.onCrn_conf (g : Crown → Crown) : (d.onCrn g).conf = d.conf := rfl
@[simp] theorem Dev.onCrn_hb (g : Crown → Crown) : (d.onCrn g).hb = d.hb := rfl
@[simp] theorem Dev.onCrn_media (g : Crown → Crown) : (d.onCrn g).media = d.media := rfl
@[simp] theorem Dev.onCrn_blk (g : Crown → Crown) : (d.onCrn g).blk = d.blk := rfl
@[simp] theorem Dev.onCrn_chn (g : Crown → Crown) : (d.onCrn g).chn = d.chn := rfl
@[simp] theorem Dev.onCrn_det (g : Crown → Crown) : (d.onCrn g).det = d.det := rfl
@[simp] theorem Dev.onCrn_wr (g : Crown → Crown) : (d.onCrn g).wr = d.wr := rfl
@[simp] theorem Dev.onCrn_assist (g : Crown → Crown) : (d.onCrn g).assist = d.assist := rfl
@[simp] theorem Dev.onCrn_tnl (g : Crown → Crown) : (d.onCrn g).tnl = d.tnl := rfl
@[simp] theorem Dev.onCrn_srv (g : Crown → Crown) : (d.onCrn g).srv = d.srv := rfl
@[simp] theorem Dev.onCrn_spn (g : Crown → Crown) : (d.onCrn g).spn = d.spn := rfl
@[simp] theorem Dev.onCrn_pd (g : Crown → Crown) : (d.onCrn g).pd = d.pd := rfl
@[simp] theorem Dev.onCrn_pw (g : Crown → Crown) : (d.onCrn g).pw = d.pw := rfl
@[simp] theorem Dev.onCrn_fmg (g : Crown → Crown) : (d.onCrn g).fmg = d.fmg := rfl
@[simp] theorem Dev.onCrn_zq (g : Crown → Crown) : (d.onCrn g).zq = d.zq := rfl
@[simp] theorem Dev.onCrn_felt (g : Crown → Crown) : (d.onCrn g).felt = d.felt := rfl
@[simp] theorem Dev.onCrn_host (g : Crown → Crown) : (d.onCrn g).host = d.host := rfl
@[simp] theorem Dev.onCrn_sem (g : Crown → Crown) : (d.onCrn g).sem = d.sem := rfl
@[simp] theorem Dev.onCrn_mem (g : Crown → Crown) : (d.onCrn g).mem = d.mem := rfl
@[simp] theorem Dev.onCrn_nv (g : Crown → Crown) : (d.onCrn g).nv = d.nv := rfl
@[simp] theorem Dev.onCrn_ful (g : Crown → Crown) : (d.onCrn g).ful = d.ful := rfl
@[simp] theorem Dev.onCrn_cpx (g : Crown → Crown) : (d.onCrn g).cpx = d.cpx := rfl
@[simp] theorem Dev.onCrn_mpi (g : Crown → Crown) : (d.onCrn g).mpi = d.mpi := rfl
@[simp] theorem Dev.onCrn_completions (g : Crown → Crown) : (d.onCrn g).completions = d.completions := rfl
@[simp] theorem Dev.onCrn_reads (g : Crown → Crown) : (d.onCrn g).reads = d.reads := rfl
@[simp] theorem Dev.onCrn_debug (g : Crown → Crown) : (d.onCrn g).debug = d.debug := rfl
@[simp] theorem Dev.onCrn_portBOff (g : Crown → Crown) : (d.onCrn g).portBOff = d.portBOff := rfl
@[simp] theorem Dev.onCrn_free (g : Crown → Crown) : (d.onCrn g).free = d.free := rfl

@[simp] theorem Dev.onFmg_variant (g : FaultMgr → FaultMgr) : (d.onFmg g).variant = d.variant := rfl
@[simp] theorem Dev.onFmg_regs (g : FaultMgr → FaultMgr) : (d.onFmg g).regs = d.regs := rfl
@[simp] theorem Dev.onFmg_preamp (g : FaultMgr → FaultMgr) : (d.onFmg g).preamp = d.preamp := rfl
@[simp] theorem Dev.onFmg_clock (g : FaultMgr → FaultMgr) : (d.onFmg g).clock = d.clock := rfl
@[simp] theorem Dev.onFmg_units (g : FaultMgr → FaultMgr) : (d.onFmg g).units = d.units := rfl
@[simp] theorem Dev.onFmg_conf (g : FaultMgr → FaultMgr) : (d.onFmg g).conf = d.conf := rfl
@[simp] theorem Dev.onFmg_hb (g : FaultMgr → FaultMgr) : (d.onFmg g).hb = d.hb := rfl
@[simp] theorem Dev.onFmg_media (g : FaultMgr → FaultMgr) : (d.onFmg g).media = d.media := rfl
@[simp] theorem Dev.onFmg_blk (g : FaultMgr → FaultMgr) : (d.onFmg g).blk = d.blk := rfl
@[simp] theorem Dev.onFmg_chn (g : FaultMgr → FaultMgr) : (d.onFmg g).chn = d.chn := rfl
@[simp] theorem Dev.onFmg_det (g : FaultMgr → FaultMgr) : (d.onFmg g).det = d.det := rfl
@[simp] theorem Dev.onFmg_wr (g : FaultMgr → FaultMgr) : (d.onFmg g).wr = d.wr := rfl
@[simp] theorem Dev.onFmg_assist (g : FaultMgr → FaultMgr) : (d.onFmg g).assist = d.assist := rfl
@[simp] theorem Dev.onFmg_tnl (g : FaultMgr → FaultMgr) : (d.onFmg g).tnl = d.tnl := rfl
@[simp] theorem Dev.onFmg_srv (g : FaultMgr → FaultMgr) : (d.onFmg g).srv = d.srv := rfl
@[simp] theorem Dev.onFmg_spn (g : FaultMgr → FaultMgr) : (d.onFmg g).spn = d.spn := rfl
@[simp] theorem Dev.onFmg_pd (g : FaultMgr → FaultMgr) : (d.onFmg g).pd = d.pd := rfl
@[simp] theorem Dev.onFmg_pw (g : FaultMgr → FaultMgr) : (d.onFmg g).pw = d.pw := rfl
@[simp] theorem Dev.onFmg_zq (g : FaultMgr → FaultMgr) : (d.onFmg g).zq = d.zq := rfl
@[simp] theorem Dev.onFmg_felt (g : FaultMgr → FaultMgr) : (d.onFmg g).felt = d.felt := rfl
@[simp] theorem Dev.onFmg_host (g : FaultMgr → FaultMgr) : (d.onFmg g).host = d.host := rfl
@[simp] theorem Dev.onFmg_sem (g : FaultMgr → FaultMgr) : (d.onFmg g).sem = d.sem := rfl
@[simp] theorem Dev.onFmg_mem (g : FaultMgr → FaultMgr) : (d.onFmg g).mem = d.mem := rfl
@[simp] theorem Dev.onFmg_crn (g : FaultMgr → FaultMgr) : (d.onFmg g).crn = d.crn := rfl
@[simp] theorem Dev.onFmg_nv (g : FaultMgr → FaultMgr) : (d.onFmg g).nv = d.nv := rfl
@[simp] theorem Dev.onFmg_ful (g : FaultMgr → FaultMgr) : (d.onFmg g).ful = d.ful := rfl
@[simp] theorem Dev.onFmg_cpx (g : FaultMgr → FaultMgr) : (d.onFmg g).cpx = d.cpx := rfl
@[simp] theorem Dev.onFmg_mpi (g : FaultMgr → FaultMgr) : (d.onFmg g).mpi = d.mpi := rfl
@[simp] theorem Dev.onFmg_completions (g : FaultMgr → FaultMgr) : (d.onFmg g).completions = d.completions := rfl
@[simp] theorem Dev.onFmg_reads (g : FaultMgr → FaultMgr) : (d.onFmg g).reads = d.reads := rfl
@[simp] theorem Dev.onFmg_debug (g : FaultMgr → FaultMgr) : (d.onFmg g).debug = d.debug := rfl
@[simp] theorem Dev.onFmg_portBOff (g : FaultMgr → FaultMgr) : (d.onFmg g).portBOff = d.portBOff := rfl
@[simp] theorem Dev.onFmg_free (g : FaultMgr → FaultMgr) : (d.onFmg g).free = d.free := rfl

@[simp] theorem Dev.onNv_variant (g : NvDie → NvDie) : (d.onNv g).variant = d.variant := rfl
@[simp] theorem Dev.onNv_regs (g : NvDie → NvDie) : (d.onNv g).regs = d.regs := rfl
@[simp] theorem Dev.onNv_preamp (g : NvDie → NvDie) : (d.onNv g).preamp = d.preamp := rfl
@[simp] theorem Dev.onNv_clock (g : NvDie → NvDie) : (d.onNv g).clock = d.clock := rfl
@[simp] theorem Dev.onNv_units (g : NvDie → NvDie) : (d.onNv g).units = d.units := rfl
@[simp] theorem Dev.onNv_conf (g : NvDie → NvDie) : (d.onNv g).conf = d.conf := rfl
@[simp] theorem Dev.onNv_hb (g : NvDie → NvDie) : (d.onNv g).hb = d.hb := rfl
@[simp] theorem Dev.onNv_media (g : NvDie → NvDie) : (d.onNv g).media = d.media := rfl
@[simp] theorem Dev.onNv_blk (g : NvDie → NvDie) : (d.onNv g).blk = d.blk := rfl
@[simp] theorem Dev.onNv_chn (g : NvDie → NvDie) : (d.onNv g).chn = d.chn := rfl
@[simp] theorem Dev.onNv_det (g : NvDie → NvDie) : (d.onNv g).det = d.det := rfl
@[simp] theorem Dev.onNv_wr (g : NvDie → NvDie) : (d.onNv g).wr = d.wr := rfl
@[simp] theorem Dev.onNv_assist (g : NvDie → NvDie) : (d.onNv g).assist = d.assist := rfl
@[simp] theorem Dev.onNv_tnl (g : NvDie → NvDie) : (d.onNv g).tnl = d.tnl := rfl
@[simp] theorem Dev.onNv_srv (g : NvDie → NvDie) : (d.onNv g).srv = d.srv := rfl
@[simp] theorem Dev.onNv_spn (g : NvDie → NvDie) : (d.onNv g).spn = d.spn := rfl
@[simp] theorem Dev.onNv_pd (g : NvDie → NvDie) : (d.onNv g).pd = d.pd := rfl
@[simp] theorem Dev.onNv_pw (g : NvDie → NvDie) : (d.onNv g).pw = d.pw := rfl
@[simp] theorem Dev.onNv_fmg (g : NvDie → NvDie) : (d.onNv g).fmg = d.fmg := rfl
@[simp] theorem Dev.onNv_zq (g : NvDie → NvDie) : (d.onNv g).zq = d.zq := rfl
@[simp] theorem Dev.onNv_felt (g : NvDie → NvDie) : (d.onNv g).felt = d.felt := rfl
@[simp] theorem Dev.onNv_host (g : NvDie → NvDie) : (d.onNv g).host = d.host := rfl
@[simp] theorem Dev.onNv_sem (g : NvDie → NvDie) : (d.onNv g).sem = d.sem := rfl
@[simp] theorem Dev.onNv_mem (g : NvDie → NvDie) : (d.onNv g).mem = d.mem := rfl
@[simp] theorem Dev.onNv_crn (g : NvDie → NvDie) : (d.onNv g).crn = d.crn := rfl
@[simp] theorem Dev.onNv_ful (g : NvDie → NvDie) : (d.onNv g).ful = d.ful := rfl
@[simp] theorem Dev.onNv_cpx (g : NvDie → NvDie) : (d.onNv g).cpx = d.cpx := rfl
@[simp] theorem Dev.onNv_mpi (g : NvDie → NvDie) : (d.onNv g).mpi = d.mpi := rfl
@[simp] theorem Dev.onNv_completions (g : NvDie → NvDie) : (d.onNv g).completions = d.completions := rfl
@[simp] theorem Dev.onNv_reads (g : NvDie → NvDie) : (d.onNv g).reads = d.reads := rfl
@[simp] theorem Dev.onNv_debug (g : NvDie → NvDie) : (d.onNv g).debug = d.debug := rfl
@[simp] theorem Dev.onNv_portBOff (g : NvDie → NvDie) : (d.onNv g).portBOff = d.portBOff := rfl
@[simp] theorem Dev.onNv_free (g : NvDie → NvDie) : (d.onNv g).free = d.free := rfl

@[simp] theorem Dev.onHb_variant (g : Hatband → Hatband) : (d.onHb g).variant = d.variant := rfl
@[simp] theorem Dev.onHb_regs (g : Hatband → Hatband) : (d.onHb g).regs = d.regs := rfl
@[simp] theorem Dev.onHb_preamp (g : Hatband → Hatband) : (d.onHb g).preamp = d.preamp := rfl
@[simp] theorem Dev.onHb_clock (g : Hatband → Hatband) : (d.onHb g).clock = d.clock := rfl
@[simp] theorem Dev.onHb_units (g : Hatband → Hatband) : (d.onHb g).units = d.units := rfl
@[simp] theorem Dev.onHb_conf (g : Hatband → Hatband) : (d.onHb g).conf = d.conf := rfl
@[simp] theorem Dev.onHb_media (g : Hatband → Hatband) : (d.onHb g).media = d.media := rfl
@[simp] theorem Dev.onHb_blk (g : Hatband → Hatband) : (d.onHb g).blk = d.blk := rfl
@[simp] theorem Dev.onHb_chn (g : Hatband → Hatband) : (d.onHb g).chn = d.chn := rfl
@[simp] theorem Dev.onHb_det (g : Hatband → Hatband) : (d.onHb g).det = d.det := rfl
@[simp] theorem Dev.onHb_wr (g : Hatband → Hatband) : (d.onHb g).wr = d.wr := rfl
@[simp] theorem Dev.onHb_assist (g : Hatband → Hatband) : (d.onHb g).assist = d.assist := rfl
@[simp] theorem Dev.onHb_tnl (g : Hatband → Hatband) : (d.onHb g).tnl = d.tnl := rfl
@[simp] theorem Dev.onHb_srv (g : Hatband → Hatband) : (d.onHb g).srv = d.srv := rfl
@[simp] theorem Dev.onHb_spn (g : Hatband → Hatband) : (d.onHb g).spn = d.spn := rfl
@[simp] theorem Dev.onHb_pd (g : Hatband → Hatband) : (d.onHb g).pd = d.pd := rfl
@[simp] theorem Dev.onHb_pw (g : Hatband → Hatband) : (d.onHb g).pw = d.pw := rfl
@[simp] theorem Dev.onHb_fmg (g : Hatband → Hatband) : (d.onHb g).fmg = d.fmg := rfl
@[simp] theorem Dev.onHb_zq (g : Hatband → Hatband) : (d.onHb g).zq = d.zq := rfl
@[simp] theorem Dev.onHb_felt (g : Hatband → Hatband) : (d.onHb g).felt = d.felt := rfl
@[simp] theorem Dev.onHb_host (g : Hatband → Hatband) : (d.onHb g).host = d.host := rfl
@[simp] theorem Dev.onHb_sem (g : Hatband → Hatband) : (d.onHb g).sem = d.sem := rfl
@[simp] theorem Dev.onHb_mem (g : Hatband → Hatband) : (d.onHb g).mem = d.mem := rfl
@[simp] theorem Dev.onHb_crn (g : Hatband → Hatband) : (d.onHb g).crn = d.crn := rfl
@[simp] theorem Dev.onHb_nv (g : Hatband → Hatband) : (d.onHb g).nv = d.nv := rfl
@[simp] theorem Dev.onHb_ful (g : Hatband → Hatband) : (d.onHb g).ful = d.ful := rfl
@[simp] theorem Dev.onHb_cpx (g : Hatband → Hatband) : (d.onHb g).cpx = d.cpx := rfl
@[simp] theorem Dev.onHb_mpi (g : Hatband → Hatband) : (d.onHb g).mpi = d.mpi := rfl
@[simp] theorem Dev.onHb_completions (g : Hatband → Hatband) : (d.onHb g).completions = d.completions := rfl
@[simp] theorem Dev.onHb_reads (g : Hatband → Hatband) : (d.onHb g).reads = d.reads := rfl
@[simp] theorem Dev.onHb_debug (g : Hatband → Hatband) : (d.onHb g).debug = d.debug := rfl
@[simp] theorem Dev.onHb_portBOff (g : Hatband → Hatband) : (d.onHb g).portBOff = d.portBOff := rfl
@[simp] theorem Dev.onHb_free (g : Hatband → Hatband) : (d.onHb g).free = d.free := rfl

@[simp] theorem Dev.onHost_variant (g : HostIf → HostIf) : (d.onHost g).variant = d.variant := rfl
@[simp] theorem Dev.onHost_regs (g : HostIf → HostIf) : (d.onHost g).regs = d.regs := rfl
@[simp] theorem Dev.onHost_preamp (g : HostIf → HostIf) : (d.onHost g).preamp = d.preamp := rfl
@[simp] theorem Dev.onHost_clock (g : HostIf → HostIf) : (d.onHost g).clock = d.clock := rfl
@[simp] theorem Dev.onHost_units (g : HostIf → HostIf) : (d.onHost g).units = d.units := rfl
@[simp] theorem Dev.onHost_conf (g : HostIf → HostIf) : (d.onHost g).conf = d.conf := rfl
@[simp] theorem Dev.onHost_hb (g : HostIf → HostIf) : (d.onHost g).hb = d.hb := rfl
@[simp] theorem Dev.onHost_media (g : HostIf → HostIf) : (d.onHost g).media = d.media := rfl
@[simp] theorem Dev.onHost_blk (g : HostIf → HostIf) : (d.onHost g).blk = d.blk := rfl
@[simp] theorem Dev.onHost_chn (g : HostIf → HostIf) : (d.onHost g).chn = d.chn := rfl
@[simp] theorem Dev.onHost_det (g : HostIf → HostIf) : (d.onHost g).det = d.det := rfl
@[simp] theorem Dev.onHost_wr (g : HostIf → HostIf) : (d.onHost g).wr = d.wr := rfl
@[simp] theorem Dev.onHost_assist (g : HostIf → HostIf) : (d.onHost g).assist = d.assist := rfl
@[simp] theorem Dev.onHost_tnl (g : HostIf → HostIf) : (d.onHost g).tnl = d.tnl := rfl
@[simp] theorem Dev.onHost_srv (g : HostIf → HostIf) : (d.onHost g).srv = d.srv := rfl
@[simp] theorem Dev.onHost_spn (g : HostIf → HostIf) : (d.onHost g).spn = d.spn := rfl
@[simp] theorem Dev.onHost_pd (g : HostIf → HostIf) : (d.onHost g).pd = d.pd := rfl
@[simp] theorem Dev.onHost_pw (g : HostIf → HostIf) : (d.onHost g).pw = d.pw := rfl
@[simp] theorem Dev.onHost_fmg (g : HostIf → HostIf) : (d.onHost g).fmg = d.fmg := rfl
@[simp] theorem Dev.onHost_zq (g : HostIf → HostIf) : (d.onHost g).zq = d.zq := rfl
@[simp] theorem Dev.onHost_felt (g : HostIf → HostIf) : (d.onHost g).felt = d.felt := rfl
@[simp] theorem Dev.onHost_sem (g : HostIf → HostIf) : (d.onHost g).sem = d.sem := rfl
@[simp] theorem Dev.onHost_mem (g : HostIf → HostIf) : (d.onHost g).mem = d.mem := rfl
@[simp] theorem Dev.onHost_crn (g : HostIf → HostIf) : (d.onHost g).crn = d.crn := rfl
@[simp] theorem Dev.onHost_nv (g : HostIf → HostIf) : (d.onHost g).nv = d.nv := rfl
@[simp] theorem Dev.onHost_ful (g : HostIf → HostIf) : (d.onHost g).ful = d.ful := rfl
@[simp] theorem Dev.onHost_cpx (g : HostIf → HostIf) : (d.onHost g).cpx = d.cpx := rfl
@[simp] theorem Dev.onHost_mpi (g : HostIf → HostIf) : (d.onHost g).mpi = d.mpi := rfl
@[simp] theorem Dev.onHost_completions (g : HostIf → HostIf) : (d.onHost g).completions = d.completions := rfl
@[simp] theorem Dev.onHost_reads (g : HostIf → HostIf) : (d.onHost g).reads = d.reads := rfl
@[simp] theorem Dev.onHost_debug (g : HostIf → HostIf) : (d.onHost g).debug = d.debug := rfl
@[simp] theorem Dev.onHost_portBOff (g : HostIf → HostIf) : (d.onHost g).portBOff = d.portBOff := rfl
@[simp] theorem Dev.onHost_free (g : HostIf → HostIf) : (d.onHost g).free = d.free := rfl

@[simp] theorem Dev.onMem_variant (g : Memories → Memories) : (d.onMem g).variant = d.variant := rfl
@[simp] theorem Dev.onMem_regs (g : Memories → Memories) : (d.onMem g).regs = d.regs := rfl
@[simp] theorem Dev.onMem_preamp (g : Memories → Memories) : (d.onMem g).preamp = d.preamp := rfl
@[simp] theorem Dev.onMem_clock (g : Memories → Memories) : (d.onMem g).clock = d.clock := rfl
@[simp] theorem Dev.onMem_units (g : Memories → Memories) : (d.onMem g).units = d.units := rfl
@[simp] theorem Dev.onMem_conf (g : Memories → Memories) : (d.onMem g).conf = d.conf := rfl
@[simp] theorem Dev.onMem_hb (g : Memories → Memories) : (d.onMem g).hb = d.hb := rfl
@[simp] theorem Dev.onMem_media (g : Memories → Memories) : (d.onMem g).media = d.media := rfl
@[simp] theorem Dev.onMem_blk (g : Memories → Memories) : (d.onMem g).blk = d.blk := rfl
@[simp] theorem Dev.onMem_chn (g : Memories → Memories) : (d.onMem g).chn = d.chn := rfl
@[simp] theorem Dev.onMem_det (g : Memories → Memories) : (d.onMem g).det = d.det := rfl
@[simp] theorem Dev.onMem_wr (g : Memories → Memories) : (d.onMem g).wr = d.wr := rfl
@[simp] theorem Dev.onMem_assist (g : Memories → Memories) : (d.onMem g).assist = d.assist := rfl
@[simp] theorem Dev.onMem_tnl (g : Memories → Memories) : (d.onMem g).tnl = d.tnl := rfl
@[simp] theorem Dev.onMem_srv (g : Memories → Memories) : (d.onMem g).srv = d.srv := rfl
@[simp] theorem Dev.onMem_spn (g : Memories → Memories) : (d.onMem g).spn = d.spn := rfl
@[simp] theorem Dev.onMem_pd (g : Memories → Memories) : (d.onMem g).pd = d.pd := rfl
@[simp] theorem Dev.onMem_pw (g : Memories → Memories) : (d.onMem g).pw = d.pw := rfl
@[simp] theorem Dev.onMem_fmg (g : Memories → Memories) : (d.onMem g).fmg = d.fmg := rfl
@[simp] theorem Dev.onMem_zq (g : Memories → Memories) : (d.onMem g).zq = d.zq := rfl
@[simp] theorem Dev.onMem_felt (g : Memories → Memories) : (d.onMem g).felt = d.felt := rfl
@[simp] theorem Dev.onMem_host (g : Memories → Memories) : (d.onMem g).host = d.host := rfl
@[simp] theorem Dev.onMem_sem (g : Memories → Memories) : (d.onMem g).sem = d.sem := rfl
@[simp] theorem Dev.onMem_crn (g : Memories → Memories) : (d.onMem g).crn = d.crn := rfl
@[simp] theorem Dev.onMem_nv (g : Memories → Memories) : (d.onMem g).nv = d.nv := rfl
@[simp] theorem Dev.onMem_ful (g : Memories → Memories) : (d.onMem g).ful = d.ful := rfl
@[simp] theorem Dev.onMem_cpx (g : Memories → Memories) : (d.onMem g).cpx = d.cpx := rfl
@[simp] theorem Dev.onMem_mpi (g : Memories → Memories) : (d.onMem g).mpi = d.mpi := rfl
@[simp] theorem Dev.onMem_completions (g : Memories → Memories) : (d.onMem g).completions = d.completions := rfl
@[simp] theorem Dev.onMem_reads (g : Memories → Memories) : (d.onMem g).reads = d.reads := rfl
@[simp] theorem Dev.onMem_debug (g : Memories → Memories) : (d.onMem g).debug = d.debug := rfl
@[simp] theorem Dev.onMem_portBOff (g : Memories → Memories) : (d.onMem g).portBOff = d.portBOff := rfl
@[simp] theorem Dev.onMem_free (g : Memories → Memories) : (d.onMem g).free = d.free := rfl

@[simp] theorem Dev.onMpi_variant (g : Mpi → Mpi) : (d.onMpi g).variant = d.variant := rfl
@[simp] theorem Dev.onMpi_regs (g : Mpi → Mpi) : (d.onMpi g).regs = d.regs := rfl
@[simp] theorem Dev.onMpi_preamp (g : Mpi → Mpi) : (d.onMpi g).preamp = d.preamp := rfl
@[simp] theorem Dev.onMpi_clock (g : Mpi → Mpi) : (d.onMpi g).clock = d.clock := rfl
@[simp] theorem Dev.onMpi_units (g : Mpi → Mpi) : (d.onMpi g).units = d.units := rfl
@[simp] theorem Dev.onMpi_conf (g : Mpi → Mpi) : (d.onMpi g).conf = d.conf := rfl
@[simp] theorem Dev.onMpi_hb (g : Mpi → Mpi) : (d.onMpi g).hb = d.hb := rfl
@[simp] theorem Dev.onMpi_media (g : Mpi → Mpi) : (d.onMpi g).media = d.media := rfl
@[simp] theorem Dev.onMpi_blk (g : Mpi → Mpi) : (d.onMpi g).blk = d.blk := rfl
@[simp] theorem Dev.onMpi_chn (g : Mpi → Mpi) : (d.onMpi g).chn = d.chn := rfl
@[simp] theorem Dev.onMpi_det (g : Mpi → Mpi) : (d.onMpi g).det = d.det := rfl
@[simp] theorem Dev.onMpi_wr (g : Mpi → Mpi) : (d.onMpi g).wr = d.wr := rfl
@[simp] theorem Dev.onMpi_assist (g : Mpi → Mpi) : (d.onMpi g).assist = d.assist := rfl
@[simp] theorem Dev.onMpi_tnl (g : Mpi → Mpi) : (d.onMpi g).tnl = d.tnl := rfl
@[simp] theorem Dev.onMpi_srv (g : Mpi → Mpi) : (d.onMpi g).srv = d.srv := rfl
@[simp] theorem Dev.onMpi_spn (g : Mpi → Mpi) : (d.onMpi g).spn = d.spn := rfl
@[simp] theorem Dev.onMpi_pd (g : Mpi → Mpi) : (d.onMpi g).pd = d.pd := rfl
@[simp] theorem Dev.onMpi_pw (g : Mpi → Mpi) : (d.onMpi g).pw = d.pw := rfl
@[simp] theorem Dev.onMpi_fmg (g : Mpi → Mpi) : (d.onMpi g).fmg = d.fmg := rfl
@[simp] theorem Dev.onMpi_zq (g : Mpi → Mpi) : (d.onMpi g).zq = d.zq := rfl
@[simp] theorem Dev.onMpi_felt (g : Mpi → Mpi) : (d.onMpi g).felt = d.felt := rfl
@[simp] theorem Dev.onMpi_host (g : Mpi → Mpi) : (d.onMpi g).host = d.host := rfl
@[simp] theorem Dev.onMpi_sem (g : Mpi → Mpi) : (d.onMpi g).sem = d.sem := rfl
@[simp] theorem Dev.onMpi_mem (g : Mpi → Mpi) : (d.onMpi g).mem = d.mem := rfl
@[simp] theorem Dev.onMpi_crn (g : Mpi → Mpi) : (d.onMpi g).crn = d.crn := rfl
@[simp] theorem Dev.onMpi_nv (g : Mpi → Mpi) : (d.onMpi g).nv = d.nv := rfl
@[simp] theorem Dev.onMpi_ful (g : Mpi → Mpi) : (d.onMpi g).ful = d.ful := rfl
@[simp] theorem Dev.onMpi_cpx (g : Mpi → Mpi) : (d.onMpi g).cpx = d.cpx := rfl
@[simp] theorem Dev.onMpi_completions (g : Mpi → Mpi) : (d.onMpi g).completions = d.completions := rfl
@[simp] theorem Dev.onMpi_reads (g : Mpi → Mpi) : (d.onMpi g).reads = d.reads := rfl
@[simp] theorem Dev.onMpi_debug (g : Mpi → Mpi) : (d.onMpi g).debug = d.debug := rfl
@[simp] theorem Dev.onMpi_portBOff (g : Mpi → Mpi) : (d.onMpi g).portBOff = d.portBOff := rfl
@[simp] theorem Dev.onMpi_free (g : Mpi → Mpi) : (d.onMpi g).free = d.free := rfl

@[simp] theorem Dev.onPw_variant (g : Power → Power) : (d.onPw g).variant = d.variant := rfl
@[simp] theorem Dev.onPw_regs (g : Power → Power) : (d.onPw g).regs = d.regs := rfl
@[simp] theorem Dev.onPw_preamp (g : Power → Power) : (d.onPw g).preamp = d.preamp := rfl
@[simp] theorem Dev.onPw_clock (g : Power → Power) : (d.onPw g).clock = d.clock := rfl
@[simp] theorem Dev.onPw_units (g : Power → Power) : (d.onPw g).units = d.units := rfl
@[simp] theorem Dev.onPw_conf (g : Power → Power) : (d.onPw g).conf = d.conf := rfl
@[simp] theorem Dev.onPw_hb (g : Power → Power) : (d.onPw g).hb = d.hb := rfl
@[simp] theorem Dev.onPw_media (g : Power → Power) : (d.onPw g).media = d.media := rfl
@[simp] theorem Dev.onPw_blk (g : Power → Power) : (d.onPw g).blk = d.blk := rfl
@[simp] theorem Dev.onPw_chn (g : Power → Power) : (d.onPw g).chn = d.chn := rfl
@[simp] theorem Dev.onPw_det (g : Power → Power) : (d.onPw g).det = d.det := rfl
@[simp] theorem Dev.onPw_wr (g : Power → Power) : (d.onPw g).wr = d.wr := rfl
@[simp] theorem Dev.onPw_assist (g : Power → Power) : (d.onPw g).assist = d.assist := rfl
@[simp] theorem Dev.onPw_tnl (g : Power → Power) : (d.onPw g).tnl = d.tnl := rfl
@[simp] theorem Dev.onPw_srv (g : Power → Power) : (d.onPw g).srv = d.srv := rfl
@[simp] theorem Dev.onPw_spn (g : Power → Power) : (d.onPw g).spn = d.spn := rfl
@[simp] theorem Dev.onPw_pd (g : Power → Power) : (d.onPw g).pd = d.pd := rfl
@[simp] theorem Dev.onPw_fmg (g : Power → Power) : (d.onPw g).fmg = d.fmg := rfl
@[simp] theorem Dev.onPw_zq (g : Power → Power) : (d.onPw g).zq = d.zq := rfl
@[simp] theorem Dev.onPw_felt (g : Power → Power) : (d.onPw g).felt = d.felt := rfl
@[simp] theorem Dev.onPw_host (g : Power → Power) : (d.onPw g).host = d.host := rfl
@[simp] theorem Dev.onPw_sem (g : Power → Power) : (d.onPw g).sem = d.sem := rfl
@[simp] theorem Dev.onPw_mem (g : Power → Power) : (d.onPw g).mem = d.mem := rfl
@[simp] theorem Dev.onPw_crn (g : Power → Power) : (d.onPw g).crn = d.crn := rfl
@[simp] theorem Dev.onPw_nv (g : Power → Power) : (d.onPw g).nv = d.nv := rfl
@[simp] theorem Dev.onPw_ful (g : Power → Power) : (d.onPw g).ful = d.ful := rfl
@[simp] theorem Dev.onPw_cpx (g : Power → Power) : (d.onPw g).cpx = d.cpx := rfl
@[simp] theorem Dev.onPw_mpi (g : Power → Power) : (d.onPw g).mpi = d.mpi := rfl
@[simp] theorem Dev.onPw_completions (g : Power → Power) : (d.onPw g).completions = d.completions := rfl
@[simp] theorem Dev.onPw_reads (g : Power → Power) : (d.onPw g).reads = d.reads := rfl
@[simp] theorem Dev.onPw_debug (g : Power → Power) : (d.onPw g).debug = d.debug := rfl
@[simp] theorem Dev.onPw_portBOff (g : Power → Power) : (d.onPw g).portBOff = d.portBOff := rfl
@[simp] theorem Dev.onPw_free (g : Power → Power) : (d.onPw g).free = d.free := rfl

@[simp] theorem Dev.onSpn_variant (g : Spindle → Spindle) : (d.onSpn g).variant = d.variant := rfl
@[simp] theorem Dev.onSpn_regs (g : Spindle → Spindle) : (d.onSpn g).regs = d.regs := rfl
@[simp] theorem Dev.onSpn_preamp (g : Spindle → Spindle) : (d.onSpn g).preamp = d.preamp := rfl
@[simp] theorem Dev.onSpn_clock (g : Spindle → Spindle) : (d.onSpn g).clock = d.clock := rfl
@[simp] theorem Dev.onSpn_units (g : Spindle → Spindle) : (d.onSpn g).units = d.units := rfl
@[simp] theorem Dev.onSpn_conf (g : Spindle → Spindle) : (d.onSpn g).conf = d.conf := rfl
@[simp] theorem Dev.onSpn_hb (g : Spindle → Spindle) : (d.onSpn g).hb = d.hb := rfl
@[simp] theorem Dev.onSpn_media (g : Spindle → Spindle) : (d.onSpn g).media = d.media := rfl
@[simp] theorem Dev.onSpn_blk (g : Spindle → Spindle) : (d.onSpn g).blk = d.blk := rfl
@[simp] theorem Dev.onSpn_chn (g : Spindle → Spindle) : (d.onSpn g).chn = d.chn := rfl
@[simp] theorem Dev.onSpn_det (g : Spindle → Spindle) : (d.onSpn g).det = d.det := rfl
@[simp] theorem Dev.onSpn_wr (g : Spindle → Spindle) : (d.onSpn g).wr = d.wr := rfl
@[simp] theorem Dev.onSpn_assist (g : Spindle → Spindle) : (d.onSpn g).assist = d.assist := rfl
@[simp] theorem Dev.onSpn_tnl (g : Spindle → Spindle) : (d.onSpn g).tnl = d.tnl := rfl
@[simp] theorem Dev.onSpn_srv (g : Spindle → Spindle) : (d.onSpn g).srv = d.srv := rfl
@[simp] theorem Dev.onSpn_pd (g : Spindle → Spindle) : (d.onSpn g).pd = d.pd := rfl
@[simp] theorem Dev.onSpn_pw (g : Spindle → Spindle) : (d.onSpn g).pw = d.pw := rfl
@[simp] theorem Dev.onSpn_fmg (g : Spindle → Spindle) : (d.onSpn g).fmg = d.fmg := rfl
@[simp] theorem Dev.onSpn_zq (g : Spindle → Spindle) : (d.onSpn g).zq = d.zq := rfl
@[simp] theorem Dev.onSpn_felt (g : Spindle → Spindle) : (d.onSpn g).felt = d.felt := rfl
@[simp] theorem Dev.onSpn_host (g : Spindle → Spindle) : (d.onSpn g).host = d.host := rfl
@[simp] theorem Dev.onSpn_sem (g : Spindle → Spindle) : (d.onSpn g).sem = d.sem := rfl
@[simp] theorem Dev.onSpn_mem (g : Spindle → Spindle) : (d.onSpn g).mem = d.mem := rfl
@[simp] theorem Dev.onSpn_crn (g : Spindle → Spindle) : (d.onSpn g).crn = d.crn := rfl
@[simp] theorem Dev.onSpn_nv (g : Spindle → Spindle) : (d.onSpn g).nv = d.nv := rfl
@[simp] theorem Dev.onSpn_ful (g : Spindle → Spindle) : (d.onSpn g).ful = d.ful := rfl
@[simp] theorem Dev.onSpn_cpx (g : Spindle → Spindle) : (d.onSpn g).cpx = d.cpx := rfl
@[simp] theorem Dev.onSpn_mpi (g : Spindle → Spindle) : (d.onSpn g).mpi = d.mpi := rfl
@[simp] theorem Dev.onSpn_completions (g : Spindle → Spindle) : (d.onSpn g).completions = d.completions := rfl
@[simp] theorem Dev.onSpn_reads (g : Spindle → Spindle) : (d.onSpn g).reads = d.reads := rfl
@[simp] theorem Dev.onSpn_debug (g : Spindle → Spindle) : (d.onSpn g).debug = d.debug := rfl
@[simp] theorem Dev.onSpn_portBOff (g : Spindle → Spindle) : (d.onSpn g).portBOff = d.portBOff := rfl
@[simp] theorem Dev.onSpn_free (g : Spindle → Spindle) : (d.onSpn g).free = d.free := rfl

@[simp] theorem Dev.onPd_variant (g : PowerDie → PowerDie) : (d.onPd g).variant = d.variant := rfl
@[simp] theorem Dev.onPd_regs (g : PowerDie → PowerDie) : (d.onPd g).regs = d.regs := rfl
@[simp] theorem Dev.onPd_preamp (g : PowerDie → PowerDie) : (d.onPd g).preamp = d.preamp := rfl
@[simp] theorem Dev.onPd_clock (g : PowerDie → PowerDie) : (d.onPd g).clock = d.clock := rfl
@[simp] theorem Dev.onPd_units (g : PowerDie → PowerDie) : (d.onPd g).units = d.units := rfl
@[simp] theorem Dev.onPd_conf (g : PowerDie → PowerDie) : (d.onPd g).conf = d.conf := rfl
@[simp] theorem Dev.onPd_hb (g : PowerDie → PowerDie) : (d.onPd g).hb = d.hb := rfl
@[simp] theorem Dev.onPd_media (g : PowerDie → PowerDie) : (d.onPd g).media = d.media := rfl
@[simp] theorem Dev.onPd_blk (g : PowerDie → PowerDie) : (d.onPd g).blk = d.blk := rfl
@[simp] theorem Dev.onPd_chn (g : PowerDie → PowerDie) : (d.onPd g).chn = d.chn := rfl
@[simp] theorem Dev.onPd_det (g : PowerDie → PowerDie) : (d.onPd g).det = d.det := rfl
@[simp] theorem Dev.onPd_wr (g : PowerDie → PowerDie) : (d.onPd g).wr = d.wr := rfl
@[simp] theorem Dev.onPd_assist (g : PowerDie → PowerDie) : (d.onPd g).assist = d.assist := rfl
@[simp] theorem Dev.onPd_tnl (g : PowerDie → PowerDie) : (d.onPd g).tnl = d.tnl := rfl
@[simp] theorem Dev.onPd_srv (g : PowerDie → PowerDie) : (d.onPd g).srv = d.srv := rfl
@[simp] theorem Dev.onPd_spn (g : PowerDie → PowerDie) : (d.onPd g).spn = d.spn := rfl
@[simp] theorem Dev.onPd_pw (g : PowerDie → PowerDie) : (d.onPd g).pw = d.pw := rfl
@[simp] theorem Dev.onPd_fmg (g : PowerDie → PowerDie) : (d.onPd g).fmg = d.fmg := rfl
@[simp] theorem Dev.onPd_zq (g : PowerDie → PowerDie) : (d.onPd g).zq = d.zq := rfl
@[simp] theorem Dev.onPd_felt (g : PowerDie → PowerDie) : (d.onPd g).felt = d.felt := rfl
@[simp] theorem Dev.onPd_host (g : PowerDie → PowerDie) : (d.onPd g).host = d.host := rfl
@[simp] theorem Dev.onPd_sem (g : PowerDie → PowerDie) : (d.onPd g).sem = d.sem := rfl
@[simp] theorem Dev.onPd_mem (g : PowerDie → PowerDie) : (d.onPd g).mem = d.mem := rfl
@[simp] theorem Dev.onPd_crn (g : PowerDie → PowerDie) : (d.onPd g).crn = d.crn := rfl
@[simp] theorem Dev.onPd_nv (g : PowerDie → PowerDie) : (d.onPd g).nv = d.nv := rfl
@[simp] theorem Dev.onPd_ful (g : PowerDie → PowerDie) : (d.onPd g).ful = d.ful := rfl
@[simp] theorem Dev.onPd_cpx (g : PowerDie → PowerDie) : (d.onPd g).cpx = d.cpx := rfl
@[simp] theorem Dev.onPd_mpi (g : PowerDie → PowerDie) : (d.onPd g).mpi = d.mpi := rfl
@[simp] theorem Dev.onPd_completions (g : PowerDie → PowerDie) : (d.onPd g).completions = d.completions := rfl
@[simp] theorem Dev.onPd_reads (g : PowerDie → PowerDie) : (d.onPd g).reads = d.reads := rfl
@[simp] theorem Dev.onPd_debug (g : PowerDie → PowerDie) : (d.onPd g).debug = d.debug := rfl
@[simp] theorem Dev.onPd_portBOff (g : PowerDie → PowerDie) : (d.onPd g).portBOff = d.portBOff := rfl
@[simp] theorem Dev.onPd_free (g : PowerDie → PowerDie) : (d.onPd g).free = d.free := rfl

@[simp] theorem Dev.onCtrl_variant (p : Port) (g : Ctrl → Ctrl) : (d.onCtrl p g).variant = d.variant := rfl
@[simp] theorem Dev.onCtrl_regs (p : Port) (g : Ctrl → Ctrl) : (d.onCtrl p g).regs = d.regs := rfl
@[simp] theorem Dev.onCtrl_preamp (p : Port) (g : Ctrl → Ctrl) : (d.onCtrl p g).preamp = d.preamp := rfl
@[simp] theorem Dev.onCtrl_clock (p : Port) (g : Ctrl → Ctrl) : (d.onCtrl p g).clock = d.clock := rfl
@[simp] theorem Dev.onCtrl_units (p : Port) (g : Ctrl → Ctrl) : (d.onCtrl p g).units = d.units := rfl
@[simp] theorem Dev.onCtrl_conf (p : Port) (g : Ctrl → Ctrl) : (d.onCtrl p g).conf = d.conf := rfl
@[simp] theorem Dev.onCtrl_hb (p : Port) (g : Ctrl → Ctrl) : (d.onCtrl p g).hb = d.hb := rfl
@[simp] theorem Dev.onCtrl_media (p : Port) (g : Ctrl → Ctrl) : (d.onCtrl p g).media = d.media := rfl
@[simp] theorem Dev.onCtrl_blk (p : Port) (g : Ctrl → Ctrl) : (d.onCtrl p g).blk = d.blk := rfl
@[simp] theorem Dev.onCtrl_chn (p : Port) (g : Ctrl → Ctrl) : (d.onCtrl p g).chn = d.chn := rfl
@[simp] theorem Dev.onCtrl_det (p : Port) (g : Ctrl → Ctrl) : (d.onCtrl p g).det = d.det := rfl
@[simp] theorem Dev.onCtrl_wr (p : Port) (g : Ctrl → Ctrl) : (d.onCtrl p g).wr = d.wr := rfl
@[simp] theorem Dev.onCtrl_assist (p : Port) (g : Ctrl → Ctrl) : (d.onCtrl p g).assist = d.assist := rfl
@[simp] theorem Dev.onCtrl_tnl (p : Port) (g : Ctrl → Ctrl) : (d.onCtrl p g).tnl = d.tnl := rfl
@[simp] theorem Dev.onCtrl_srv (p : Port) (g : Ctrl → Ctrl) : (d.onCtrl p g).srv = d.srv := rfl
@[simp] theorem Dev.onCtrl_spn (p : Port) (g : Ctrl → Ctrl) : (d.onCtrl p g).spn = d.spn := rfl
@[simp] theorem Dev.onCtrl_pd (p : Port) (g : Ctrl → Ctrl) : (d.onCtrl p g).pd = d.pd := rfl
@[simp] theorem Dev.onCtrl_pw (p : Port) (g : Ctrl → Ctrl) : (d.onCtrl p g).pw = d.pw := rfl
@[simp] theorem Dev.onCtrl_fmg (p : Port) (g : Ctrl → Ctrl) : (d.onCtrl p g).fmg = d.fmg := rfl
@[simp] theorem Dev.onCtrl_zq (p : Port) (g : Ctrl → Ctrl) : (d.onCtrl p g).zq = d.zq := rfl
@[simp] theorem Dev.onCtrl_felt (p : Port) (g : Ctrl → Ctrl) : (d.onCtrl p g).felt = d.felt := rfl
@[simp] theorem Dev.onCtrl_sem (p : Port) (g : Ctrl → Ctrl) : (d.onCtrl p g).sem = d.sem := rfl
@[simp] theorem Dev.onCtrl_mem (p : Port) (g : Ctrl → Ctrl) : (d.onCtrl p g).mem = d.mem := rfl
@[simp] theorem Dev.onCtrl_crn (p : Port) (g : Ctrl → Ctrl) : (d.onCtrl p g).crn = d.crn := rfl
@[simp] theorem Dev.onCtrl_nv (p : Port) (g : Ctrl → Ctrl) : (d.onCtrl p g).nv = d.nv := rfl
@[simp] theorem Dev.onCtrl_ful (p : Port) (g : Ctrl → Ctrl) : (d.onCtrl p g).ful = d.ful := rfl
@[simp] theorem Dev.onCtrl_cpx (p : Port) (g : Ctrl → Ctrl) : (d.onCtrl p g).cpx = d.cpx := rfl
@[simp] theorem Dev.onCtrl_mpi (p : Port) (g : Ctrl → Ctrl) : (d.onCtrl p g).mpi = d.mpi := rfl
@[simp] theorem Dev.onCtrl_completions (p : Port) (g : Ctrl → Ctrl) : (d.onCtrl p g).completions = d.completions := rfl
@[simp] theorem Dev.onCtrl_reads (p : Port) (g : Ctrl → Ctrl) : (d.onCtrl p g).reads = d.reads := rfl
@[simp] theorem Dev.onCtrl_debug (p : Port) (g : Ctrl → Ctrl) : (d.onCtrl p g).debug = d.debug := rfl
@[simp] theorem Dev.onCtrl_portBOff (p : Port) (g : Ctrl → Ctrl) : (d.onCtrl p g).portBOff = d.portBOff := rfl
@[simp] theorem Dev.onCtrl_free (p : Port) (g : Ctrl → Ctrl) : (d.onCtrl p g).free = d.free := rfl

/-! ### What an update writes -/

@[simp] theorem Dev.setReg_regs (x : Nat) (w : Word) : (d.setReg x w).regs = sset 0 d.regs x w := rfl
@[simp] theorem Per.get_set_same {α : Type} (p : Per α) (a : Act) (v : α) : (p.set a v).get a = v := by cases a <;> rfl

theorem Per.get_set_ne {α : Type} (p : Per α) {a b : Act} (v : α) (h : b ≠ a) : (p.set a v).get b = p.get b := by
  cases a <;> cases b <;> first | rfl | exact absurd rfl h

@[simp] theorem State.next_inj (s : State) (d e : Dev) : (s.next d = s.next e) = (d = e) := by
  simp [State.next]

@[simp] theorem State.next_eq (s t : State) (d : Dev) : (s.next d = .next t) = ({ s with dev := d } = t) := by
  simp [State.next]

end Sys2Proof.Machine
end

