-- ==== Sys2Proof/Laws/Fields.lean ====
section
/-! SUPPORT. Reading a register or a field after one was written. -/

namespace Sys2Proof.Machine

theorem bits_lt (w : Word) (hi lo : Nat) : bits w hi lo < 2 ^ (hi + 1 - lo) := Nat.mod_lt _ (Nat.two_pow_pos _)

theorem bits_testBit (w : Word) (hi lo i : Nat) :
    (bits w hi lo).testBit i = (decide (i < hi + 1 - lo) && w.toNat.testBit (lo + i)) := by
  rw [bits, Nat.testBit_mod_two_pow, Nat.testBit_shiftRight]

/-- The bits of a word after one field was replaced. -/
theorem withBits_testBit (w : Word) (hi lo v i : Nat) (h : hi < 32) :
    (withBits w hi lo v).toNat.testBit i =
      if lo ≤ i ∧ i ≤ hi then v.testBit (i - lo) else w.toNat.testBit i := by
  by_cases hi32 : i < 32
  · rw [withBits, bitMask, BitVec.testBit_toNat, BitVec.testBit_toNat]
    simp only [BitVec.getLsbD_or, BitVec.getLsbD_and, BitVec.getLsbD_not, BitVec.getLsbD_ofNat,
      Nat.testBit_shiftLeft, Nat.testBit_two_pow_sub_one, Nat.testBit_mod_two_pow, hi32, decide_true, Bool.true_and]
    by_cases h1 : lo ≤ i
    · by_cases h2 : i ≤ hi
      · have : i - lo < hi + 1 - lo := by omega
        simp [h1, h2, this]
      · have : ¬ i - lo < hi + 1 - lo := by omega
        simp [h1, h2, this]
    · simp [h1]
  · have hx : ∀ x : Word, x.toNat.testBit i = false := fun x =>
      Nat.testBit_lt_two_pow (Nat.lt_of_lt_of_le x.isLt (Nat.pow_le_pow_right (by omega) (by omega)))
    rw [hx, hx, if_neg (by omega)]

theorem bits_withBits_same (w : Word) (hi lo v : Nat) (h : hi < 32) (hl : lo ≤ hi) :
    bits (withBits w hi lo v) hi lo = v % 2 ^ (hi + 1 - lo) := by
  refine Nat.eq_of_testBit_eq fun i => ?_
  rw [bits_testBit, withBits_testBit _ _ _ _ _ h, Nat.testBit_mod_two_pow]
  by_cases hi' : i < hi + 1 - lo
  · rw [if_pos (by omega)]; simp
  · simp [hi']

/-- Fields that share no bit. -/
theorem bits_withBits_apart (w : Word) (hi lo v hi' lo' : Nat) (h : hi < 32) (hd : hi' < lo ∨ hi < lo') :
    bits (withBits w hi lo v) hi' lo' = bits w hi' lo' := by
  refine Nat.eq_of_testBit_eq fun i => ?_
  rw [bits_testBit, bits_testBit, withBits_testBit _ _ _ _ _ h]
  by_cases hi2 : i < hi' + 1 - lo'
  · rw [if_neg (by omega)]
  · simp [hi2]

theorem Dev.reg_setReg_same (d : Dev) (h : swf 0 d.regs = true) (x : Nat) (w : Word) : (d.setReg x w).reg x = w :=
  sget_sset_same _ x w h

theorem Dev.reg_setReg_ne (d : Dev) {x y : Nat} (w : Word) (h : y ≠ x) : (d.setReg x w).reg y = d.reg y :=
  sget_sset_ne _ w h

theorem Dev.setReg_wf (d : Dev) (h : swf 0 d.regs = true) (x : Nat) (w : Word) : swf 0 (d.setReg x w).regs = true :=
  swf_sset h x w

theorem Dev.setF_wf (d : Dev) (h : swf 0 d.regs = true) (x : Fld) (v : Nat) : swf 0 (d.setF x v).regs = true :=
  swf_sset h _ _

theorem Dev.bumpF_wf (d : Dev) (h : swf 0 d.regs = true) (x : Fld) (v : Nat) : swf 0 (d.bumpF x v).regs = true :=
  swf_sset h _ _

theorem Dev.reg_setF_ne (d : Dev) (x : Fld) (v : Nat) {y : Nat} (h : y ≠ x.addr) : (d.setF x v).reg y = d.reg y :=
  sget_sset_ne _ _ h

/-- A field reads what was written to it. -/
theorem Dev.f_setF_same (d : Dev) (h : swf 0 d.regs = true) (x : Fld) (v : Nat) (hh : x.hi < 32) (hl : x.lo ≤ x.hi) :
    (d.setF x v).f x = v % 2 ^ x.width := by
  unfold Dev.f Dev.setF
  rw [Dev.reg_setReg_same _ h, bits_withBits_same _ _ _ _ hh hl]; rfl

/-- A field of another register reads as before. -/
theorem Dev.f_setF_other (d : Dev) (x y : Fld) (v : Nat) (h : y.addr ≠ x.addr) : (d.setF x v).f y = d.f y := by
  unfold Dev.f; rw [Dev.reg_setF_ne _ _ _ h]

/-- A field of the same register that shares no bit reads as before. -/
theorem Dev.f_setF_apart (d : Dev) (h : swf 0 d.regs = true) (x y : Fld) (v : Nat) (ha : y.addr = x.addr) (hh : x.hi < 32)
    (hd : y.hi < x.lo ∨ x.hi < y.lo) : (d.setF x v).f y = d.f y := by
  unfold Dev.f Dev.setF
  rw [ha, Dev.reg_setReg_same _ h, bits_withBits_apart _ _ _ _ _ _ hh hd]

theorem Dev.f_setReg_other (d : Dev) {x : Nat} (y : Fld) (w : Word) (h : y.addr ≠ x) : (d.setReg x w).f y = d.f y := by
  unfold Dev.f; rw [Dev.reg_setReg_ne _ _ h]

/-- A counter counts up and stops at its largest value. -/
theorem Dev.f_bumpF_same (d : Dev) (h : swf 0 d.regs = true) (x : Fld) (n : Nat) (hh : x.hi < 32) (hl : x.lo ≤ x.hi) :
    (d.bumpF x n).f x = Nat.min (2 ^ x.width - 1) (d.f x + n) := by
  unfold Dev.bumpF
  rw [Dev.f_setF_same _ h _ _ hh hl]
  refine Nat.mod_eq_of_lt ?_
  have h1 : satAdd (2 ^ x.width - 1) (d.f x) n ≤ 2 ^ x.width - 1 := Nat.min_le_left _ _
  have h2 : 0 < 2 ^ x.width := Nat.two_pow_pos _
  omega

theorem Dev.f_bumpF_other (d : Dev) (x y : Fld) (n : Nat) (h : y.addr ≠ x.addr) : (d.bumpF x n).f y = d.f y :=
  Dev.f_setF_other d x y _ h

theorem Dev.f_lt (d : Dev) (x : Fld) : d.f x < 2 ^ x.width := bits_lt _ _ _

end Sys2Proof.Machine
end

