-- ==== Sys2Proof/Laws/Keep.lean ====
section
/-! SUPPORT. What a command may keep: one predicate that every operation of the machine carries from the device before
it to the device after it. The lemmas under Laws/Holds say for each operation that it carries it. -/

namespace Sys2Proof.Machine

/-- The stored bytes and check bits of the buffer SRAM and the DRAM. -/
structure Cells where
  buf : List (Nat × Byte)
  bufChk : List (Nat × BitVec 5)
  dram : List (Nat × Byte)
  dramMeta : List (Nat × BitVec 64)

@[reducible] def Memories.cells (m : Memories) : Cells := ⟨m.buf, m.bufChk, m.dram, m.dramMeta⟩

/-- What stays: the variant, the contents named (none where they may change), the least drive write sequence number, and
what has been sent to the hosts and on the packet paths. -/
structure Keep where
  variant : Variant
  cells : Option Cells
  flash : Option (List (Nat × BitVec 266))
  recs : Option (List (Nat × Option MediaRec))
  wseq : Nat
  done : List Completion
  sent : List (Nat × List Word)

/-- A sound device that keeps what `k` names. -/
structure Dev.Holds (k : Keep) (d : Dev) : Prop where
  sound : d.Sound
  variant : d.variant = k.variant
  cells : ∀ x, k.cells = some x → d.mem.cells = x
  flash : ∀ x, k.flash = some x → d.nv.flash = x
  recs : ∀ x, k.recs = some x → d.media.recs = x
  wseq : k.wseq ≤ d.media.wseq
  done : k.done <:+ d.completions
  sent : k.sent <:+ d.mpi.sent

theorem holds_ite {k : Keep} {c : Prop} [Decidable c] {a b : Dev} (ha : a.Holds k) (hb : b.Holds k) :
    (if c then a else b).Holds k := by split <;> assumption

theorem holds_foldl {k : Keep} {β : Type} {g : Dev → β → Dev} (hg : ∀ (d : Dev) (x : β), d.Holds k → (g d x).Holds k)
    (l : List β) : ∀ {d : Dev}, d.Holds k → (l.foldl g d).Holds k := by
  induction l with
  | nil => intro d h; exact h
  | cons x l ih => intro d h; exact ih (hg d x h)

theorem holds_foldl_fst {k : Keep} {β γ : Type} {g : Dev × γ → β → Dev × γ}
    (hg : ∀ (r : Dev × γ) (x : β), r.1.Holds k → (g r x).1.Holds k) (l : List β) :
    ∀ {r : Dev × γ}, r.1.Holds k → (l.foldl g r).1.Holds k := by
  induction l with
  | nil => intro d h; exact h
  | cons x l ih => intro d h; exact ih (hg d x h)

theorem holds_foldl_snd {k : Keep} {β γ : Type} {g : γ × Dev → β → γ × Dev}
    (hg : ∀ (r : γ × Dev) (x : β), r.2.Holds k → (g r x).2.Holds k) (l : List β) :
    ∀ {r : γ × Dev}, r.2.Holds k → (l.foldl g r).2.Holds k := by
  induction l with
  | nil => intro d h; exact h
  | cons x l ih => intro d h; exact ih (hg d x h)

/-- A record update that leaves what `Holds` speaks of. -/
theorem holds_upd {k : Keep} {d : Dev} (h : d.Holds k) {hb : Hatband} {preamp : Per (List (Nat × Word))} {units : Units}
    {media : Media} {mem : Memories} {nv : NvDie} {mpi : Mpi} {clock conf blk chn det wr assist tnl srv spn pd pw fmg zq felt host sem crn
    ful cpx reads debug portBOff free}
    (e1 : preamp = d.preamp) (e2 : units.gens = d.units.gens) (e3 : hb.recs = d.hb.recs) (e4 : hb.full = d.hb.full)
    (e5 : hb.queue = d.hb.queue) (e6 : media.recs = d.media.recs) (e7 : media.wseq = d.media.wseq)
    (e8 : mem.cells = d.mem.cells) (e9 : nv.flash = d.nv.flash) (e10 : mpi.sent = d.mpi.sent) :
    (Dev.mk d.variant d.regs preamp clock units conf hb media blk chn det wr assist tnl srv spn pd pw fmg zq felt host sem
      mem crn nv ful cpx mpi d.completions reads debug portBOff free).Holds k := by
  obtain ⟨⟨s1, s2, s3, s4, s5, s6, s7, s8⟩, h2, h3, h4, h5, h6, h7, h8⟩ := h
  simp only [Memories.cells, Cells.mk.injEq] at e8
  obtain ⟨m1, m2, m3, m4⟩ := e8
  refine ⟨⟨s1, by simpa [e1] using s2, by simpa [e1] using s3, ?_, by simpa [e9] using s5, by simpa [e6] using s6, ?_, ?_⟩, h2, ?_, ?_, ?_, ?_, h7, ?_⟩
  · simpa only [Memory.wf, m1, m2, m3, m4] using s4
  · simpa only [Hatband.bounded, e3, e4, e5] using s7
  · simpa only [Units.bounded, e2] using s8
  · intro x hx; have := h3 x hx; simp only [Memories.cells, m1, m2, m3, m4] at this ⊢; exact this
  · intro x hx; simpa [e9] using h4 x hx
  · intro x hx; simpa [e6] using h5 x hx
  · simpa [e7] using h6
  · simpa [e10] using h8

end Sys2Proof.Machine
end

