-- ==== Sys2Proof/Laws/Holds/Ops.lean ====
section
/-! SUPPORT. The operations of Machine/Ops.lean carry `Dev.Holds`. -/

namespace Sys2Proof.Machine

set_option linter.unusedTactic false
set_option linter.unreachableTactic false

theorem Dev.setReg_holds {kp : Keep} {d : Dev} (h : d.Holds kp) (a : Nat) (w : Word) : (d.setReg a w).Holds kp := by
  obtain ⟨⟨s1, s2, s3, s4, s5, s6, s7, s8⟩, h2, h3, h4, h5, h6, h7, h8⟩ := h
  exact ⟨⟨swf_sset s1 a w, s2, s3, s4, s5, s6, s7, s8⟩, h2, h3, h4, h5, h6, h7, h8⟩

theorem Dev.setF_holds {kp : Keep} {d : Dev} (hk : d.Holds kp) (x : Fld) (v : Nat) : (d.setF x v).Holds kp := by
  unfold Dev.setF; repeat' (with_reducible first | assumption | apply Dev.setReg_holds)

theorem Dev.bumpF_holds {kp : Keep} {d : Dev} (hk : d.Holds kp) (x : Fld) (n : Nat) : (d.bumpF x n).Holds kp := by
  unfold Dev.bumpF; repeat' (with_reducible first | assumption | apply Dev.setF_holds)

theorem Dev.orF_holds {kp : Keep} {d : Dev} (hk : d.Holds kp) (x : Fld) (v : Nat) : (d.orF x v).Holds kp := by
  unfold Dev.orF; repeat' (with_reducible first | assumption | apply Dev.setF_holds)

theorem Dev.setPa_holds {kp : Keep} {d : Dev} (h : d.Holds kp) (a : Act) (addr : Nat) (w : Word) :
    (d.setPa a addr w).Holds kp := by
  obtain ⟨⟨s1, s2, s3, s4, s5, s6, s7, s8⟩, h2, h3, h4, h5, h6, h7, h8⟩ := h
  cases a
  · exact ⟨⟨s1, swf_sset s2 addr w, s3, s4, s5, s6, s7, s8⟩, h2, h3, h4, h5, h6, h7, h8⟩
  · exact ⟨⟨s1, s2, swf_sset s3 addr w, s4, s5, s6, s7, s8⟩, h2, h3, h4, h5, h6, h7, h8⟩

theorem Dev.setPaF_holds {kp : Keep} {d : Dev} (hk : d.Holds kp) (a : Act) (x : Fld) (v : Nat) : (d.setPaF a x v).Holds kp := by
  unfold Dev.setPaF; repeat' (with_reducible first | assumption | apply Dev.setPa_holds)

theorem Dev.answer_holds {kp : Keep} {d : Dev} (hk : d.Holds kp) (who : Requester) (w : Word) : (d.answer who w).Holds kp := by
  unfold Dev.answer; repeat' (with_reducible first | assumption | lift_lets -underBinder | fail_if_no_progress (apply holds_upd <;> try rfl) | rfl | intro _)

theorem Dev.tookFree_holds {kp : Keep} {d : Dev} (hk : d.Holds kp) : (d.tookFree).Holds kp := by
  unfold Dev.tookFree; repeat' (with_reducible first | assumption | lift_lets -underBinder | fail_if_no_progress (apply holds_upd <;> try rfl) | rfl | intro _)

theorem Dev.onBlk_holds {kp : Keep} {d : Dev} (hk : d.Holds kp) (a : Act) (g : Blocker → Blocker) : (d.onBlk a g).Holds kp := by
  unfold Dev.onBlk; repeat' (with_reducible first | assumption | lift_lets -underBinder | fail_if_no_progress (apply holds_upd <;> try rfl) | rfl | intro _)

theorem Dev.onChn_holds {kp : Keep} {d : Dev} (hk : d.Holds kp) (a : Act) (g : Channel → Channel) : (d.onChn a g).Holds kp := by
  unfold Dev.onChn; repeat' (with_reducible first | assumption | lift_lets -underBinder | fail_if_no_progress (apply holds_upd <;> try rfl) | rfl | intro _)

theorem Dev.onDet_holds {kp : Keep} {d : Dev} (hk : d.Holds kp) (a : Act) (g : Detect → Detect) : (d.onDet a g).Holds kp := by
  unfold Dev.onDet; repeat' (with_reducible first | assumption | lift_lets -underBinder | fail_if_no_progress (apply holds_upd <;> try rfl) | rfl | intro _)

theorem Dev.onWr_holds {kp : Keep} {d : Dev} (hk : d.Holds kp) (a : Act) (g : WritePath → WritePath) : (d.onWr a g).Holds kp := by
  unfold Dev.onWr; repeat' (with_reducible first | assumption | lift_lets -underBinder | fail_if_no_progress (apply holds_upd <;> try rfl) | rfl | intro _)

theorem Dev.onAssist_holds {kp : Keep} {d : Dev} (hk : d.Holds kp) (a : Act) (g : Assist → Assist) : (d.onAssist a g).Holds kp := by
  unfold Dev.onAssist; repeat' (with_reducible first | assumption | lift_lets -underBinder | fail_if_no_progress (apply holds_upd <;> try rfl) | rfl | intro _)

theorem Dev.onTnl_holds {kp : Keep} {d : Dev} (hk : d.Holds kp) (a : Act) (g : Tenil → Tenil) : (d.onTnl a g).Holds kp := by
  unfold Dev.onTnl; repeat' (with_reducible first | assumption | lift_lets -underBinder | fail_if_no_progress (apply holds_upd <;> try rfl) | rfl | intro _)

theorem Dev.onSrv_holds {kp : Keep} {d : Dev} (hk : d.Holds kp) (a : Act) (g : Servo → Servo) : (d.onSrv a g).Holds kp := by
  unfold Dev.onSrv; repeat' (with_reducible first | assumption | lift_lets -underBinder | fail_if_no_progress (apply holds_upd <;> try rfl) | rfl | intro _)

theorem Dev.setDomOn_holds {kp : Keep} {d : Dev} (hk : d.Holds kp) (i : Nat) (b : Bool) : (d.setDomOn i b).Holds kp := by
  unfold Dev.setDomOn; repeat' (with_reducible first | assumption | lift_lets -underBinder | (intro x; refine (fun (hx : Dev.Holds kp x) => ?_) ?_; on_goal 2 => unfold x) | apply Dev.setF_holds | intro _ | dsimp +zetaDelta only)

theorem Dev.setDomLow_holds {kp : Keep} {d : Dev} (hk : d.Holds kp) (i : Nat) (b : Bool) : (d.setDomLow i b).Holds kp := by
  unfold Dev.setDomLow; repeat' (with_reducible first | assumption | lift_lets -underBinder | (intro x; refine (fun (hx : Dev.Holds kp x) => ?_) ?_; on_goal 2 => unfold x) | apply Dev.setF_holds | intro _ | dsimp +zetaDelta only)

theorem Dev.atPhase_holds {kp : Keep} {d : Dev} (hk : d.Holds kp) (p : Nat) : (d.atPhase p).Holds kp := by
  unfold Dev.atPhase; repeat' (with_reducible first | assumption | lift_lets -underBinder | apply holds_ite | fail_if_no_progress (apply holds_upd <;> try rfl) | rfl | intro _ | split)

theorem Dev.endStep_holds {kp : Keep} {d : Dev} (hk : d.Holds kp) (s : Nat) : (d.endStep s).Holds kp := by
  unfold Dev.endStep; repeat' (with_reducible first | assumption | apply Dev.setF_holds)

theorem Hatband.write_bounded {h : Hatband} (hb : h.bounded = true) (r : HbRec) : (h.write r).bounded = true := by
  simp only [Hatband.bounded, Bool.and_eq_true, Bool.or_eq_true, decide_eq_true_eq] at hb ⊢
  obtain ⟨⟨h1, h2⟩, h3⟩ := hb
  unfold Hatband.write
  dsimp only
  split
  · exact ⟨⟨by simp, .inr (by simp)⟩, h3⟩
  · rename_i l hl
    have hne : h.recs ≠ [] := by intro e; simp [e] at hl
    have hpos := List.length_pos_iff.mpr hne
    have hd : (h.recs.dropLast ++ [{ l with rep := satAdd 0xFFFF l.rep 1 }]).length = h.recs.length := by
      simp only [List.length_append, List.length_dropLast, List.length_singleton]; omega
    split
    · exact ⟨⟨by rw [hd]; exact h1, by rw [hd]; exact h2⟩, h3⟩
    · split
      · exact ⟨⟨by rw [hd]; exact h1, by rw [hd]; exact h2⟩, h3⟩
      · rename_i hf _
        split
        · rename_i hn
          exact ⟨⟨by simp [hn], .inl rfl⟩, h3⟩
        · rename_i hn
          have h4 : h.recs.length ≤ 65535 := by
            rcases h2 with h2 | h2
            · exact absurd h2 hf
            · exact h2
          refine ⟨⟨?_, .inr ?_⟩, h3⟩ <;> simp only [List.length_append, List.length_singleton] <;> omega

theorem holds_hb {kp : Keep} {d : Dev} (h : d.Holds kp) {hb : Hatband} (e : hb.bounded = true) :
    ({ d with hb := hb } : Dev).Holds kp := by
  obtain ⟨⟨s1, s2, s3, s4, s5, s6, s7, s8⟩, h2, h3, h4, h5, h6, h7, h8⟩ := h
  exact ⟨⟨s1, s2, s3, s4, s5, s6, e, s8⟩, h2, h3, h4, h5, h6, h7, h8⟩

theorem Dev.event_holds {kp : Keep} {d : Dev} (h : d.Holds kp) (code : Nat) (b : Block) (arg0 arg1 : Nat) :
    (d.event code b arg0 arg1).Holds kp := by
  unfold Dev.event
  dsimp only
  split
  · exact holds_hb h (Hatband.write_bounded h.sound.hb _)
  · split
    · rename_i hq
      refine holds_hb h ?_
      have hb := h.sound.hb
      simp only [Hatband.bounded, Bool.and_eq_true, decide_eq_true_eq] at hb ⊢
      exact ⟨hb.1, by simp only [List.length_append, List.length_singleton]; omega⟩
    · exact Dev.bumpF_holds h _ _

theorem Dev.reportFault_holds {kp : Keep} {d : Dev} (hk : d.Holds kp) (u : FUnit) (cause : Nat) : (d.reportFault u cause).Holds kp := by
  unfold Dev.reportFault; repeat' (with_reducible first | assumption | lift_lets -underBinder | fail_if_no_progress (apply holds_upd <;> try rfl) | rfl | intro _)

theorem Dev.setResetting_holds {kp : Keep} {d : Dev} (hk : d.Holds kp) (u : UnitId) (b : Bool) : (d.setResetting u b).Holds kp := by
  unfold Dev.setResetting; repeat' (with_reducible first | assumption | lift_lets -underBinder | fail_if_no_progress (apply holds_upd <;> try rfl) | rfl | intro _)

theorem swf_all_sset {p : Nat → Bool} {m : List (Nat × Nat)} (h : m.all (fun q => p q.2) = true) (a : Nat) {v : Nat}
    (hv : p v = true) : (sset 0 m a v).all (fun q => p q.2) = true := by
  induction m with
  | nil => by_cases e : v = 0 <;> simp [sset, e, hv]
  | cons q m ih =>
    obtain ⟨x, w⟩ := q
    simp only [List.all_cons, Bool.and_eq_true] at h
    simp only [sset]
    split
    · by_cases e : v = 0
      · simp only [e, if_true, List.all_cons, Bool.and_eq_true]; exact h
      · simp only [e, if_false, List.all_cons, Bool.and_eq_true]; exact ⟨hv, h⟩
    · split
      · by_cases e : v = 0
        · simp only [e, if_true]; exact h.2
        · simp only [e, if_false, List.all_cons, Bool.and_eq_true]; exact ⟨hv, h.2⟩
      · simp only [List.all_cons, Bool.and_eq_true]; exact ⟨h.1, ih h.2⟩

theorem Dev.incGen_holds {kp : Keep} {d : Dev} (h : d.Holds kp) (u : UnitId) : (d.incGen u).Holds kp := by
  obtain ⟨⟨s1, s2, s3, s4, s5, s6, s7, s8⟩, h2, h3, h4, h5, h6, h7, h8⟩ := h
  refine ⟨⟨s1, s2, s3, s4, s5, s6, s7, ?_⟩, h2, h3, h4, h5, h6, h7, h8⟩
  simp only [Units.bounded, Bool.and_eq_true] at s8 ⊢
  refine ⟨swf_sset s8.1 _ _, swf_all_sset (p := fun v => decide (v ≤ 255)) s8.2 _ ?_⟩
  show decide (nextGen (d.gen u) ≤ 255) = true
  rw [decide_eq_true_eq, nextGen]
  split <;> omega

theorem Dev.resetUnit_holds {kp : Keep} {d : Dev} (hk : d.Holds kp) (u : UnitId) : (d.resetUnit u).Holds kp := by
  unfold Dev.resetUnit; repeat' (with_reducible first | assumption | apply Dev.setResetting_holds | apply Dev.incGen_holds)

theorem Dev.readyUnit_holds {kp : Keep} {d : Dev} (h : d.Holds kp) (u : UnitId) : (d.readyUnit u).Holds kp :=
  holds_upd (Dev.setResetting_holds h u false) rfl rfl rfl rfl rfl rfl rfl rfl rfl rfl

theorem Dev.applyEvent_holds {kp : Keep} {d : Dev} (hk : d.Holds kp) (a : Act) (e : Nat × Nat) : (d.applyEvent a e).Holds kp := by
  unfold Dev.applyEvent; repeat' (with_reducible first | assumption | apply Dev.setPaF_holds | apply holds_ite | intro _ | split)

theorem Dev.launch_holds {kp : Keep} {d : Dev} (hk : d.Holds kp) (a : Act) (ty arg : Nat) : (d.launch a ty arg).Holds kp := by
  unfold Dev.launch; repeat' (with_reducible first | assumption | lift_lets -underBinder | apply Dev.applyEvent_holds | apply Dev.onTnl_holds | fail_if_no_progress (apply holds_upd <;> try rfl) | rfl | intro _)

theorem Dev.sendGroups_holds {kp : Keep} {d : Dev} (hk : d.Holds kp) (a : Act) : (d.sendGroups a).Holds kp := by
  unfold Dev.sendGroups; repeat' (with_reducible first | assumption | lift_lets -underBinder | (intro x; refine (fun (hx : Dev.Holds kp x) => ?_) ?_; on_goal 2 => unfold x) | apply Dev.onTnl_holds | fail_if_no_progress (apply holds_upd <;> try rfl) | rfl | intro _ | dsimp +zetaDelta only)

end Sys2Proof.Machine
end

