-- ==== Sys2Proof/Laws/Holds/Media.lean ====
section
/-! SUPPORT. The operations of Machine/Media.lean carry `Dev.Holds`. -/

namespace Sys2Proof.Machine

set_option linter.unusedTactic false
set_option linter.unreachableTactic false

theorem Dev.setTword_holds {kp : Keep} {d : Dev} (hk : d.Holds kp) (table addr : Nat) (w : Word) : (d.setTword table addr w).Holds kp := by
  unfold Dev.setTword; repeat' (with_reducible first | assumption | lift_lets -underBinder | fail_if_no_progress (apply holds_upd <;> try rfl) | rfl | intro _)

end Sys2Proof.Machine
end

