-- ==== Sys2Proof/Laws/Holds/Interrupt.lean ====
section
/-! SUPPORT. The operations of Machine/Interrupt.lean carry `Dev.Holds`. -/

namespace Sys2Proof.Machine

set_option linter.unusedTactic false
set_option linter.unreachableTactic false

theorem Dev.setBo_holds {kp : Keep} {d : Dev} (hk : d.Holds kp) (a : Act) (h bo : Nat) : (d.setBo a h bo).Holds kp := by
  unfold Dev.setBo; repeat' (with_reducible first | assumption | lift_lets -underBinder | apply Dev.onWr_holds | fail_if_no_progress (apply holds_upd <;> try rfl) | rfl | intro _)

theorem Dev.startUnwind_holds {kp : Keep} {d : Dev} (hk : d.Holds kp) (a : Act) (h : Nat) : (d.startUnwind a h).Holds kp := by
  unfold Dev.startUnwind; repeat' (with_reducible first | assumption | lift_lets -underBinder | apply Dev.onWr_holds | apply holds_ite | fail_if_no_progress (apply holds_upd <;> try rfl) | rfl | intro _ | split)

theorem Dev.cancelStamps_holds {kp : Keep} {d : Dev} (hk : d.Holds kp) (a : Act) : (d.cancelStamps a).Holds kp := by
  unfold Dev.cancelStamps; repeat' (with_reducible first | assumption | lift_lets -underBinder | (intro x; refine (fun (hx : Dev.Holds kp x) => ?_) ?_; on_goal 2 => unfold x) | apply Dev.onAssist_holds | apply Dev.startUnwind_holds | apply holds_ite | fail_if_no_progress (apply holds_upd <;> try rfl) | rfl | intro _ | split | dsimp +zetaDelta only)

theorem Dev.takeEvent_holds {kp : Keep} {d : Dev} (hk : d.Holds kp) (a : Act) (v : Nat) : (d.takeEvent a v).Holds kp := by
  unfold Dev.takeEvent; repeat' (with_reducible first | assumption | lift_lets -underBinder | (intro x; refine (fun (hx : Dev.Holds kp x) => ?_) ?_; on_goal 2 => unfold x) | apply Dev.onBlk_holds | apply Dev.cancelStamps_holds | apply Dev.orF_holds | fail_if_no_progress (apply holds_upd <;> try rfl) | rfl | intro _ | dsimp +zetaDelta only)

theorem Dev.takeAtOnce_holds {kp : Keep} {d : Dev} (hk : d.Holds kp) (a : Act) : (d.takeAtOnce a).Holds kp := by
  unfold Dev.takeAtOnce; repeat' (with_reducible first | assumption | lift_lets -underBinder | (intro x; refine (fun (hx : Dev.Holds kp x) => ?_) ?_; on_goal 2 => unfold x) | apply Dev.takeEvent_holds | apply holds_ite | fail_if_no_progress (apply holds_upd <;> try rfl) | rfl | intro _ | split | dsimp +zetaDelta only)

theorem Dev.raiseEvt_holds {kp : Keep} {d : Dev} (hk : d.Holds kp) (a : Act) (v : Nat) : (d.raiseEvt a v).Holds kp := by
  unfold Dev.raiseEvt; repeat' (with_reducible first | assumption | lift_lets -underBinder | apply Dev.takeAtOnce_holds | apply Dev.onBlk_holds | fail_if_no_progress (apply holds_upd <;> try rfl) | rfl | intro _)

end Sys2Proof.Machine
end

