-- ==== Sys2Proof/Laws/Holds/Registers.lean ====
section
/-! SUPPORT. The operations of Machine/Registers.lean carry `Dev.Holds`. -/

namespace Sys2Proof.Machine

set_option linter.unusedTactic false
set_option linter.unreachableTactic false

theorem Dev.trimTouch_holds {kp : Keep} {d : Dev} (hk : d.Holds kp) : (d.trimTouch).Holds kp := by
  unfold Dev.trimTouch; repeat' (with_reducible first | assumption | lift_lets -underBinder | fail_if_no_progress (apply holds_upd <;> try rfl) | rfl | intro _)

theorem Dev.trim_holds {kp : Keep} {d : Dev} (hk : d.Holds kp) (r : TrimRec) : (d.trim r).Holds kp := by
  unfold Dev.trim; repeat' (with_reducible first | assumption | lift_lets -underBinder | fail_if_no_progress (apply holds_upd <;> try rfl) | rfl | intro _)

theorem Dev.applyBits_holds {kp : Keep}  (x0 : List (Nat × (Word × Word))) : ∀ {d : Dev} (hk : d.Holds kp), (d.applyBits x0).Holds kp := by
  induction x0 with
  | nil =>
    intro d hk; unfold Dev.applyBits; repeat' (with_reducible first | assumption | apply ih | apply Dev.setReg_holds | intro _ | split)
  | cons y ys ih =>
    intro d hk; unfold Dev.applyBits; repeat' (with_reducible first | assumption | apply ih | apply Dev.setReg_holds | intro _ | split)

theorem Dev.writeField_holds {kp : Keep} {d : Dev} (hk : d.Holds kp) (addr : Nat) (f : RegField) (w : Word) : (d.writeField addr f w).Holds kp := by
  unfold Dev.writeField; repeat' (with_reducible first | assumption | lift_lets -underBinder | (intro x; refine (fun (hx : Dev.Holds kp x) => ?_) ?_; on_goal 2 => unfold x) | apply Dev.trim_holds | apply Dev.setReg_holds | apply holds_ite | fail_if_no_progress (apply holds_upd <;> try rfl) | rfl | intro _ | split | dsimp +zetaDelta only)

theorem Dev.trimReserved_holds {kp : Keep}  (x0 : List (Nat × Nat)) : ∀ {d : Dev} (hk : d.Holds kp) (addr : Nat) (w : Word), (d.trimReserved addr w x0).Holds kp := by
  induction x0 with
  | nil =>
    intro d hk addr w; unfold Dev.trimReserved; repeat' (with_reducible first | assumption | lift_lets -underBinder | (intro x; refine (fun (hx : Dev.Holds kp x) => ?_) ?_; on_goal 2 => unfold x) | apply ih | apply Dev.trim_holds | apply holds_ite | intro _ | split | dsimp +zetaDelta only)
  | cons y ys ih =>
    intro d hk addr w; unfold Dev.trimReserved; repeat' (with_reducible first | assumption | lift_lets -underBinder | (intro x; refine (fun (hx : Dev.Holds kp x) => ?_) ?_; on_goal 2 => unfold x) | apply ih | apply Dev.trim_holds | apply holds_ite | intro _ | split | dsimp +zetaDelta only)

theorem Dev.writeFields_holds {kp : Keep}  (x0 : List RegField) : ∀ {d : Dev} (hk : d.Holds kp) (addr : Nat) (mask w : Word), (d.writeFields addr mask w x0).Holds kp := by
  induction x0 with
  | nil =>
    intro d hk addr mask w; unfold Dev.writeFields; repeat' (with_reducible first | assumption | apply ih | apply Dev.writeField_holds | apply holds_ite | intro _ | split)
  | cons y ys ih =>
    intro d hk addr mask w; unfold Dev.writeFields; repeat' (with_reducible first | assumption | apply ih | apply Dev.writeField_holds | apply holds_ite | intro _ | split)

theorem Dev.absentWrite_holds {kp : Keep} {d : Dev} (hk : d.Holds kp) (addr : Nat) : (d.absentWrite addr).Holds kp := by
  unfold Dev.absentWrite; repeat' (with_reducible first | assumption | apply Dev.event_holds | apply holds_ite | intro _ | split)

theorem Dev.unmappedWrite_holds {kp : Keep} {d : Dev} (hk : d.Holds kp) (addr : Nat) : (d.unmappedWrite addr).Holds kp := by
  unfold Dev.unmappedWrite; repeat' (with_reducible first | assumption | apply Dev.event_holds | apply holds_ite | intro _ | split)

theorem Dev.ignoredWrite_holds {kp : Keep} {d : Dev} (hk : d.Holds kp) (addr : Nat) : (d.ignoredWrite addr).Holds kp := by
  unfold Dev.ignoredWrite; repeat' (with_reducible first | assumption | apply Dev.event_holds)

theorem Dev.writeDataMem_holds {kp : Keep} {d : Dev} (hk : d.Holds kp) (a : Act) (off : Nat) (w : Word) : (d.writeDataMem a off w).Holds kp := by
  unfold Dev.writeDataMem; repeat' (with_reducible first | assumption | lift_lets -underBinder | apply Dev.onBlk_holds | fail_if_no_progress (apply holds_upd <;> try rfl) | rfl | intro _)

theorem Dev.writeMasked_holds {kp : Keep} {d : Dev} (hk : d.Holds kp) (cal : Bool) (addr : Nat) (mask w : Word) : (d.writeMasked cal addr mask w).Holds kp := by
  unfold Dev.writeMasked; repeat' (with_reducible first | assumption | lift_lets -underBinder | (intro x; refine (fun (hx : Dev.Holds kp x) => ?_) ?_; on_goal 2 => unfold x) | apply Dev.absentWrite_holds | apply Dev.writeDataMem_holds | apply Dev.ignoredWrite_holds | apply Dev.unmappedWrite_holds | apply Dev.writeFields_holds | apply Dev.trimReserved_holds | apply Dev.trimTouch_holds | apply holds_ite | fail_if_no_progress (apply holds_upd <;> try rfl) | rfl | intro _ | split | dsimp +zetaDelta only)

theorem Dev.writeReg_holds {kp : Keep} {d : Dev} (hk : d.Holds kp) (cal : Bool) (addr : Nat) (w : Word) : (d.writeReg cal addr w).Holds kp := by
  unfold Dev.writeReg; repeat' (with_reducible first | assumption | apply Dev.writeMasked_holds)

theorem Dev.clearRc_holds {kp : Keep} {d : Dev} (hk : d.Holds kp) (addr : Nat) : (d.clearRc addr).Holds kp := by
  unfold Dev.clearRc; repeat' (with_reducible first | assumption | apply Dev.setReg_holds | apply holds_ite | intro _ | split)

end Sys2Proof.Machine
end

