-- ==== Sys2Proof/Laws/Holds/FeltOps.lean ====
section
/-! SUPPORT. The operations of Machine/FeltOps.lean carry `Dev.Holds`. -/

namespace Sys2Proof.Machine

set_option linter.unusedTactic false
set_option linter.unreachableTactic false

theorem Dev.setStride_holds {kp : Keep} {d : Dev} (hk : d.Holds kp) (g k : Nat) (st : Stride) : (d.setStride g k st).Holds kp := by
  unfold Dev.setStride; repeat' (with_reducible first | assumption | lift_lets -underBinder | fail_if_no_progress (apply holds_upd <;> try rfl) | rfl | intro _)

theorem Dev.garbage_holds {kp : Keep} {d : Dev} (hk : d.Holds kp) (loc : Nat) : (d.garbage loc).Holds kp := by
  unfold Dev.garbage; repeat' (with_reducible first | assumption | lift_lets -underBinder | (intro x; refine (fun (hx : Dev.Holds kp x) => ?_) ?_; on_goal 2 => unfold x) | apply holds_ite | fail_if_no_progress (apply holds_upd <;> try rfl) | rfl | intro _ | split | dsimp +zetaDelta only)

theorem Dev.logWrite_holds {kp : Keep} {d d1 : Dev} {surface n : Nat} (e : d.logWrite surface = some (n, d1))
    (hk : d.Holds kp) : d1.Holds kp := by
  unfold Dev.logWrite at e
  dsimp only at e
  split at e
  · split at e
    · exact absurd e (by simp)
    · cases e; exact holds_upd hk rfl rfl rfl rfl rfl rfl rfl rfl rfl rfl
  · split at e
    · cases e; exact holds_upd hk rfl rfl rfl rfl rfl rfl rfl rfl rfl rfl
    · split at e
      · exact absurd e (by simp)
      · cases e; exact holds_upd hk rfl rfl rfl rfl rfl rfl rfl rfl rfl rfl

theorem Dev.logBoth_holds {kp : Keep} {d d1 : Dev} {x : FeltGroup} {p q : Nat} (e : d.logBoth x = some (p, q, d1))
    (hk : d.Holds kp) : d1.Holds kp := by
  unfold Dev.logBoth at e
  split at e
  · exact absurd e (by simp)
  · rename_i y hy
    split at e
    · cases e; exact Dev.logWrite_holds hy hk
    · split at e
      · exact absurd e (by simp)
      · rename_i z hz
        cases e; exact Dev.logWrite_holds hz (Dev.logWrite_holds hy hk)

theorem Dev.dropPart_holds {kp : Keep} {d : Dev} (hk : d.Holds kp) (st : Stride) : (d.dropPart st).Holds kp := by
  unfold Dev.dropPart; repeat' (with_reducible first | assumption | apply Dev.garbage_holds | apply holds_ite | intro _ | split)

theorem Dev.setZone_holds {kp : Keep} {d : Dev} (hk : d.Holds kp) (z : Nat) (zn : Zone) : (d.setZone z zn).Holds kp := by
  unfold Dev.setZone; repeat' (with_reducible first | assumption | lift_lets -underBinder | fail_if_no_progress (apply holds_upd <;> try rfl) | rfl | intro _)

theorem Dev.cover_holds {kp : Keep} {d : Dev} (hk : d.Holds kp) (zone n : Nat) : (d.cover zone n).Holds kp := by
  unfold Dev.cover; repeat' (with_reducible first | assumption | lift_lets -underBinder | apply Dev.setZone_holds | fail_if_no_progress (apply holds_upd <;> try rfl) | rfl | intro _)

theorem Dev.coverAll_holds {kp : Keep}  (x0 : List (Nat × Nat)) : ∀ {d : Dev} (hk : d.Holds kp) (e : FeltGroup) (st : Stride), (d.coverAll e st x0).Holds kp := by
  induction x0 with
  | nil =>
    intro d hk e st; unfold Dev.coverAll; repeat' (with_reducible first | assumption | lift_lets -underBinder | apply ih | apply Dev.cover_holds | fail_if_no_progress (apply holds_upd <;> try rfl) | rfl | intro _ | split)
  | cons y ys ih =>
    intro d hk e st; unfold Dev.coverAll; repeat' (with_reducible first | assumption | lift_lets -underBinder | apply ih | apply Dev.cover_holds | fail_if_no_progress (apply holds_upd <;> try rfl) | rfl | intro _ | split)

theorem Dev.trySeal_holds {kp : Keep} {d : Dev} (hk : d.Holds kp) (g k : Nat) : (d.trySeal g k).Holds kp := by
  unfold Dev.trySeal; repeat' (with_reducible first | assumption | lift_lets -underBinder | (intro x; refine (fun (hx : Dev.Holds kp x) => ?_) ?_; on_goal 2 => unfold x) | refine Dev.logBoth_holds (by assumption) ?_ | apply Dev.setStride_holds | apply Dev.coverAll_holds | apply Dev.dropPart_holds | apply holds_ite | fail_if_no_progress (apply holds_upd <;> try rfl) | rfl | intro _ | split | dsimp +zetaDelta only)

theorem Dev.foldBolt_holds {kp : Keep} {d : Dev} (hk : d.Holds kp) (zone b : Nat) : (d.foldBolt zone b).Holds kp := by
  unfold Dev.foldBolt; repeat' (with_reducible first | assumption | lift_lets -underBinder | (intro x; refine (fun (hx : Dev.Holds kp x) => ?_) ?_; on_goal 2 => unfold x) | apply Dev.setZone_holds | apply Dev.trySeal_holds | apply Dev.setStride_holds | apply holds_ite | fail_if_no_progress (apply holds_upd <;> try rfl) | rfl | intro _ | split | dsimp +zetaDelta only)

theorem Dev.sealZone_holds {kp : Keep} {d : Dev} (hk : d.Holds kp) (zone : Nat) : (d.sealZone zone).Holds kp := by
  unfold Dev.sealZone; repeat' (with_reducible first | assumption | refine holds_foldl (fun _ _ _ => ?_) _ ?_ | refine holds_foldl_fst (fun _ _ _ => ?_) _ ?_ | refine holds_foldl_snd (fun _ _ _ => ?_) _ ?_ | lift_lets -underBinder | apply Dev.trySeal_holds | fail_if_no_progress (apply holds_upd <;> try rfl) | rfl | intro _ | split)

end Sys2Proof.Machine
end

