-- ==== Sys2Proof/Laws/Holds/HostOps.lean ====
section
/-! SUPPORT. The operations of Machine/HostOps.lean carry `Dev.Holds`. -/

namespace Sys2Proof.Machine

set_option linter.unusedTactic false
set_option linter.unreachableTactic false

theorem Dev.onHost_holds {kp : Keep} {d : Dev} (hk : d.Holds kp) (g : HostIf → HostIf) : (d.onHost g).Holds kp := by
  unfold Dev.onHost; repeat' (with_reducible first | assumption | lift_lets -underBinder | fail_if_no_progress (apply holds_upd <;> try rfl) | rfl | intro _)

theorem Dev.onCtrl_holds {kp : Keep} {d : Dev} (hk : d.Holds kp) (p : Port) (g : Ctrl → Ctrl) : (d.onCtrl p g).Holds kp := by
  unfold Dev.onCtrl; repeat' (with_reducible first | assumption | lift_lets -underBinder | fail_if_no_progress (apply holds_upd <;> try rfl) | rfl | intro _)

theorem Dev.updCmd_holds {kp : Keep} {d : Dev} (hk : d.Holds kp) (id : CmdId) (g : HostCmd → HostCmd) : (d.updCmd id g).Holds kp := by
  unfold Dev.updCmd; repeat' (with_reducible first | assumption | lift_lets -underBinder | apply holds_ite | fail_if_no_progress (apply holds_upd <;> try rfl) | rfl | intro _ | split)

theorem Dev.completeFull_holds {kp : Keep} {d : Dev} (hk : d.Holds kp) (id : CmdId) (status : Nvme) (dnr : Bool) (crd dw0 : Nat) :
    (d.completeFull id status dnr crd dw0).Holds kp := by
  obtain ⟨⟨s1, s2, s3, s4, s5, s6, s7, s8⟩, h2, h3, h4, h5, h6, h7, h8⟩ := hk
  exact ⟨⟨s1, s2, s3, s4, s5, s6, s7, s8⟩, h2, h3, h4, h5, h6, h7.trans (List.suffix_cons _ _), h8⟩

theorem Dev.complete_holds {kp : Keep} {d : Dev} (hk : d.Holds kp) (id : CmdId) (status : Nvme) (dw0 : Nat) : (d.complete id status dw0).Holds kp := by
  unfold Dev.complete; repeat' (with_reducible first | assumption | apply Dev.completeFull_holds)

theorem Dev.completeWith_holds {kp : Keep} {d : Dev} (hk : d.Holds kp) (id : CmdId) (status : Nvme) (dnr : Bool) (crd : Nat) : (d.completeWith id status dnr crd).Holds kp := by
  unfold Dev.completeWith; repeat' (with_reducible first | assumption | apply Dev.completeFull_holds)

theorem Dev.giveHost_holds {kp : Keep} {d : Dev} (hk : d.Holds kp) (id : CmdId) (o : HostOut) : (d.giveHost id o).Holds kp := by
  unfold Dev.giveHost; repeat' (with_reducible first | assumption | lift_lets -underBinder | fail_if_no_progress (apply holds_upd <;> try rfl) | rfl | intro _)

theorem Dev.ioArrives_holds {kp : Keep} {d : Dev} (hk : d.Holds kp) : (d.ioArrives).Holds kp := by
  unfold Dev.ioArrives; repeat' (with_reducible first | assumption | refine holds_foldl (fun _ _ _ => ?_) _ ?_ | refine holds_foldl_snd (fun _ _ _ => ?_) _ ?_ | lift_lets -underBinder | (intro x; refine (fun (hx : Dev.Holds kp x) => ?_) ?_; on_goal 2 => unfold x) | apply Dev.onHost_holds | apply holds_ite | fail_if_no_progress (apply holds_upd <;> try rfl) | rfl | intro _ | split | dsimp +zetaDelta only)

theorem Dev.wakeHost_holds {kp : Keep} {d : Dev} (hk : d.Holds kp) (p : Port) : (d.wakeHost p).Holds kp := by
  unfold Dev.wakeHost; repeat' (with_reducible first | assumption | apply Dev.setDomLow_holds)

theorem Dev.ioDo_holds {kp : Keep} {d : Dev} (hk : d.Holds kp) (id : CmdId) (g : Dev → Dev) (hg : ∀ x : Dev, x.Holds kp → (g x).Holds kp) : (d.ioDo id g).Holds kp := by
  unfold Dev.ioDo; repeat' (with_reducible first | assumption | lift_lets -underBinder | apply Dev.completeWith_holds | apply Dev.ioArrives_holds | apply Dev.wakeHost_holds | apply hg | apply holds_ite | fail_if_no_progress (apply holds_upd <;> try rfl) | rfl | intro _ | split)

theorem Dev.adminDo_holds {kp : Keep} {d : Dev} (hk : d.Holds kp) (id : CmdId) (g : Dev → Dev) (hg : ∀ x : Dev, x.Holds kp → (g x).Holds kp) : (d.adminDo id g).Holds kp := by
  unfold Dev.adminDo; repeat' (with_reducible first | assumption | apply Dev.wakeHost_holds | apply hg | apply holds_ite | intro _ | split)

theorem Dev.newTag_holds {kp : Keep} {d : Dev} (hk : d.Holds kp) (info : TagInfo) : (d.newTag info).2.Holds kp := by
  unfold Dev.newTag; repeat' (with_reducible first | assumption | lift_lets -underBinder | (intro x; refine (fun (hx : Dev.Holds kp x) => ?_) ?_; on_goal 2 => unfold x) | fail_if_no_progress (apply holds_upd <;> try rfl) | rfl | intro _ | dsimp +zetaDelta only)

theorem Dev.enqueue_holds {kp : Keep} {d : Dev} (hk : d.Holds kp) (a : Act) (r : BlkReq) : (d.enqueue a r).Holds kp := by
  unfold Dev.enqueue; repeat' (with_reducible first | assumption | lift_lets -underBinder | apply Dev.onBlk_holds | apply holds_ite | fail_if_no_progress (apply holds_upd <;> try rfl) | rfl | intro _ | split)

theorem Dev.askRecord_holds {kp : Keep} {d : Dev} (hk : d.Holds kp) (op : Nat) (p : Place) (top pair : Nat) (info : TagInfo) : (d.askRecord op p top pair info).Holds kp := by
  unfold Dev.askRecord; repeat' (with_reducible first | assumption | lift_lets -underBinder | (intro x; refine (fun (hx : Dev.Holds kp x) => ?_) ?_; on_goal 2 => unfold x) | apply Dev.newTag_holds | apply Dev.enqueue_holds | fail_if_no_progress (apply holds_upd <;> try rfl) | rfl | intro _ | split | dsimp +zetaDelta only)

theorem Dev.finishRead_holds {kp : Keep} {d : Dev} (hk : d.Holds kp) (c : HostCmd) : (d.finishRead c).Holds kp := by
  unfold Dev.finishRead; repeat' (with_reducible first | assumption | lift_lets -underBinder | apply Dev.onHost_holds | apply Dev.complete_holds | apply Dev.giveHost_holds | fail_if_no_progress (apply holds_upd <;> try rfl) | rfl | intro _ | split)

theorem Dev.finishDone_holds {kp : Keep} {d : Dev} (hk : d.Holds kp) : (d.finishDone).Holds kp := by
  unfold Dev.finishDone; repeat' (with_reducible first | assumption | refine holds_foldl (fun _ _ _ => ?_) _ ?_ | refine holds_foldl_snd (fun _ _ _ => ?_) _ ?_ | lift_lets -underBinder | apply Dev.finishRead_holds | apply Dev.complete_holds | fail_if_no_progress (apply holds_upd <;> try rfl) | rfl | intro _ | split)

theorem Dev.deliver_holds {kp : Keep} {d : Dev} (hk : d.Holds kp) (tag : Nat) (v : Nat → Option Nat) (n : Nat) : (d.deliver tag v n).Holds kp := by
  unfold Dev.deliver; repeat' (with_reducible first | assumption | refine holds_foldl (fun _ _ _ => ?_) _ ?_ | refine holds_foldl_snd (fun _ _ _ => ?_) _ ?_ | lift_lets -underBinder | (intro x; refine (fun (hx : Dev.Holds kp x) => ?_) ?_; on_goal 2 => unfold x) | apply Dev.finishDone_holds | apply holds_ite | fail_if_no_progress (apply holds_upd <;> try rfl) | rfl | intro _ | split | dsimp +zetaDelta only)

theorem Dev.raise_holds {kp : Keep} {d : Dev} (hk : d.Holds kp) (p : Port) (e : AsyncEv) : (d.raise p e).Holds kp := by
  unfold Dev.raise; repeat' (with_reducible first | assumption | lift_lets -underBinder | (intro x; refine (fun (hx : Dev.Holds kp x) => ?_) ?_; on_goal 2 => unfold x) | apply Dev.onCtrl_holds | apply Dev.complete_holds | apply holds_ite | fail_if_no_progress (apply holds_upd <;> try rfl) | rfl | intro _ | split | dsimp +zetaDelta only)

theorem Dev.raiseAll_holds {kp : Keep} {d : Dev} (hk : d.Holds kp) (e : AsyncEv) : (d.raiseAll e).Holds kp := by
  unfold Dev.raiseAll; repeat' (with_reducible first | assumption | apply Dev.raise_holds)

end Sys2Proof.Machine
end

