-- ==== Sys2Proof/Laws/Holds/ZoneOps.lean ====
section
/-! SUPPORT. The operations of Machine/ZoneOps.lean carry `Dev.Holds`. -/

namespace Sys2Proof.Machine

set_option linter.unusedTactic false
set_option linter.unreachableTactic false

theorem Dev.completeAll_holds {kp : Keep}  (x0 : List ZWrite) : ∀ {d : Dev} (hk : d.Holds kp) (status : Nvme), (d.completeAll status x0).Holds kp := by
  induction x0 with
  | nil =>
    intro d hk status; unfold Dev.completeAll; repeat' (with_reducible first | assumption | apply ih | apply Dev.complete_holds | intro _ | split)
  | cons y ys ih =>
    intro d hk status; unfold Dev.completeAll; repeat' (with_reducible first | assumption | apply ih | apply Dev.complete_holds | intro _ | split)

theorem Dev.journal_holds {kp : Keep} {d : Dev} (hk : d.Holds kp) (type z : Nat) : (d.journal type z).Holds kp := by
  unfold Dev.journal; repeat' (with_reducible first | assumption | lift_lets -underBinder | (intro x; refine (fun (hx : Dev.Holds kp x) => ?_) ?_; on_goal 2 => unfold x) | apply Dev.setF_holds | apply holds_ite | fail_if_no_progress (apply holds_upd <;> try rfl) | rfl | intro _ | split | dsimp +zetaDelta only)

theorem Dev.zoneChanged_holds {kp : Keep} {d : Dev} (hk : d.Holds kp) (z : Nat) : (d.zoneChanged z).Holds kp := by
  unfold Dev.zoneChanged; repeat' (with_reducible first | assumption | lift_lets -underBinder | (intro x; refine (fun (hx : Dev.Holds kp x) => ?_) ?_; on_goal 2 => unfold x) | apply Dev.raiseAll_holds | apply Dev.onCtrl_holds | apply holds_ite | fail_if_no_progress (apply holds_upd <;> try rfl) | rfl | intro _ | split | dsimp +zetaDelta only)

theorem Dev.makeRoom_holds {kp : Keep} {d : Dev} (hk : d.Holds kp) (z : Nat) : (d.makeRoom z).2.Holds kp := by
  unfold Dev.makeRoom; repeat' (with_reducible first | assumption | lift_lets -underBinder | (intro x; refine (fun (hx : Dev.Holds kp x) => ?_) ?_; on_goal 2 => unfold x) | apply Dev.journal_holds | apply Dev.setZone_holds | apply holds_ite | fail_if_no_progress (apply holds_upd <;> try rfl) | rfl | intro _ | split | dsimp +zetaDelta only)

theorem Dev.implicitOpen_holds {kp : Keep} {d : Dev} (hk : d.Holds kp) (z : Nat) : (d.implicitOpen z).Holds kp := by
  unfold Dev.implicitOpen; repeat' (with_reducible first | assumption | lift_lets -underBinder | (intro x; refine (fun (hx : Dev.Holds kp x) => ?_) ?_; on_goal 2 => unfold x) | apply Dev.journal_holds | apply Dev.setZone_holds | apply holds_ite | fail_if_no_progress (apply holds_upd <;> try rfl) | rfl | intro _ | split | dsimp +zetaDelta only)

theorem ZOutcome.count_holds {kp : Keep} {d : Dev} (hk : d.Holds kp) (o : ZOutcome) : (ZOutcome.count o d).Holds kp := by
  unfold ZOutcome.count; repeat' (with_reducible first | assumption | lift_lets -underBinder | apply Dev.bumpF_holds | fail_if_no_progress (apply holds_upd <;> try rfl) | rfl | intro _ | split)

theorem Dev.completeAccepted_holds {kp : Keep}  (x0 : List ZWrite) : ∀ {d : Dev} (hk : d.Holds kp), (d.completeAccepted x0).Holds kp := by
  induction x0 with
  | nil =>
    intro d hk; unfold Dev.completeAccepted; repeat' (with_reducible first | assumption | apply ih | apply Dev.complete_holds | intro _ | split)
  | cons y ys ih =>
    intro d hk; unfold Dev.completeAccepted; repeat' (with_reducible first | assumption | apply ih | apply Dev.complete_holds | intro _ | split)

theorem Dev.acceptWrite_holds {kp : Keep} {d : Dev} (hk : d.Holds kp) (z : Nat) (w : ZWrite) (dw0 : Nat) : (d.acceptWrite z w dw0).Holds kp := by
  unfold Dev.acceptWrite; repeat' (with_reducible first | assumption | lift_lets -underBinder | (intro x; refine (fun (hx : Dev.Holds kp x) => ?_) ?_; on_goal 2 => unfold x) | apply Dev.implicitOpen_holds | apply Dev.journal_holds | apply Dev.setZone_holds | apply Dev.completeAccepted_holds | apply Dev.complete_holds | fail_if_no_progress (apply holds_upd <;> try rfl) | rfl | intro _ | dsimp +zetaDelta only)

theorem Dev.rescueZone_holds {kp : Keep} {d : Dev} (hk : d.Holds kp) (z : Nat) : (d.rescueZone z).Holds kp := by
  unfold Dev.rescueZone; repeat' (with_reducible first | assumption | lift_lets -underBinder | (intro x; refine (fun (hx : Dev.Holds kp x) => ?_) ?_; on_goal 2 => unfold x) | apply Dev.setZone_holds | apply Dev.completeAll_holds | apply Dev.journal_holds | apply Dev.zoneChanged_holds | apply Dev.setF_holds | fail_if_no_progress (apply holds_upd <;> try rfl) | rfl | intro _ | dsimp +zetaDelta only)

theorem Dev.reassign_holds {kp : Keep} {d : Dev} (hk : d.Holds kp) (bi : Nat) (b : BandRec) (sector : Nat) : (d.reassign bi b sector).Holds kp := by
  unfold Dev.reassign; repeat' (with_reducible first | assumption | lift_lets -underBinder | (intro x; refine (fun (hx : Dev.Holds kp x) => ?_) ?_; on_goal 2 => unfold x) | apply holds_ite | fail_if_no_progress (apply holds_upd <;> try rfl) | rfl | intro _ | split | dsimp +zetaDelta only)

theorem Dev.condemn_holds {kp : Keep} {d : Dev} (hk : d.Holds kp) (bi pos : Nat) : (d.condemn bi pos).Holds kp := by
  unfold Dev.condemn; repeat' (with_reducible first | assumption | lift_lets -underBinder | (intro x; refine (fun (hx : Dev.Holds kp x) => ?_) ?_; on_goal 2 => unfold x) | apply Dev.reassign_holds | apply Dev.rescueZone_holds | apply Dev.zoneChanged_holds | apply Dev.setZone_holds | apply holds_ite | fail_if_no_progress (apply holds_upd <;> try rfl) | rfl | intro _ | split | dsimp +zetaDelta only)

theorem Dev.pendSlip_holds {kp : Keep} {d : Dev} (hk : d.Holds kp) (bi pos : Nat) : (d.pendSlip bi pos).Holds kp := by
  unfold Dev.pendSlip; repeat' (with_reducible first | assumption | lift_lets -underBinder | apply holds_ite | fail_if_no_progress (apply holds_upd <;> try rfl) | rfl | intro _ | split)

theorem Dev.dropGroup_holds {kp : Keep} {d : Dev} (hk : d.Holds kp) (g : Nat) : (d.dropGroup g).Holds kp := by
  unfold Dev.dropGroup; repeat' (with_reducible first | assumption | refine holds_foldl (fun _ _ _ => ?_) _ ?_ | refine holds_foldl_fst (fun _ _ _ => ?_) _ ?_ | refine holds_foldl_snd (fun _ _ _ => ?_) _ ?_ | lift_lets -underBinder | (intro x; refine (fun (hx : Dev.Holds kp x) => ?_) ?_; on_goal 2 => unfold x) | apply Dev.dropPart_holds | fail_if_no_progress (apply holds_upd <;> try rfl) | rfl | intro _ | dsimp +zetaDelta only)

theorem Dev.pendingIntoForce_holds {kp : Keep} {d : Dev} (hk : d.Holds kp) (z : Nat) : (d.pendingIntoForce z).Holds kp := by
  unfold Dev.pendingIntoForce; repeat' (with_reducible first | assumption | lift_lets -underBinder | (intro x; refine (fun (hx : Dev.Holds kp x) => ?_) ?_; on_goal 2 => unfold x) | apply Dev.journal_holds | apply Dev.setZone_holds | apply holds_ite | fail_if_no_progress (apply holds_upd <;> try rfl) | rfl | intro _ | split | dsimp +zetaDelta only)

theorem Dev.withdrawBand_holds {kp : Keep} {d : Dev} (hk : d.Holds kp) (a : Act) (bi : Nat) : (d.withdrawBand a bi).Holds kp := by
  unfold Dev.withdrawBand; repeat' (with_reducible first | assumption | lift_lets -underBinder | (intro x; refine (fun (hx : Dev.Holds kp x) => ?_) ?_; on_goal 2 => unfold x) | apply Dev.onBlk_holds | apply Dev.raiseEvt_holds | apply holds_ite | fail_if_no_progress (apply holds_upd <;> try rfl) | rfl | intro _ | split | dsimp +zetaDelta only)

theorem Dev.resetZone_holds {kp : Keep} {d : Dev} (hk : d.Holds kp) (z : Nat) : (d.resetZone z).Holds kp := by
  unfold Dev.resetZone; repeat' (with_reducible first | assumption | lift_lets -underBinder | (intro x; refine (fun (hx : Dev.Holds kp x) => ?_) ?_; on_goal 2 => unfold x) | apply Dev.completeAll_holds | apply Dev.withdrawBand_holds | apply Dev.setZone_holds | apply Dev.setF_holds | apply Dev.journal_holds | apply Dev.dropGroup_holds | apply Dev.pendingIntoForce_holds | apply holds_ite | fail_if_no_progress (apply holds_upd <;> try rfl) | rfl | intro _ | split | dsimp +zetaDelta only)

end Sys2Proof.Machine
end

