-- ==== Sys2Proof/Laws/Holds/Ladder.lean ====
section
/-! SUPPORT. The operations of Machine/Ladder.lean carry `Dev.Holds`. -/

namespace Sys2Proof.Machine

set_option linter.unusedTactic false
set_option linter.unreachableTactic false

theorem Dev.refreshCosts_holds {kp : Keep} {d : Dev} (hk : d.Holds kp) : (d.refreshCosts).Holds kp := by
  unfold Dev.refreshCosts; repeat' (with_reducible first | assumption | lift_lets -underBinder | (intro x; refine (fun (hx : Dev.Holds kp x) => ?_) ?_; on_goal 2 => unfold x) | apply Dev.setF_holds | intro _ | dsimp +zetaDelta only)

end Sys2Proof.Machine
end

