-- ==== Sys2Proof/Laws/Holds/HostData.lean ====
section
/-! SUPPORT. The operations of Machine/HostData.lean carry `Dev.Holds`. -/

namespace Sys2Proof.Machine

set_option linter.unusedTactic false
set_option linter.unreachableTactic false

theorem Dev.askRead_holds {kp : Keep} {d : Dev} (hk : d.Holds kp) (p : Place) (plan : Nat) (conv : Bool) (info : TagInfo) : (d.askRead p plan conv info).Holds kp := by
  unfold Dev.askRead; repeat' (with_reducible first | assumption | lift_lets -underBinder | (intro x; refine (fun (hx : Dev.Holds kp x) => ?_) ?_; on_goal 2 => unfold x) | apply Dev.newTag_holds | apply Dev.onDet_holds | apply Dev.askRecord_holds | apply holds_ite | fail_if_no_progress (apply holds_upd <;> try rfl) | rfl | intro _ | split | dsimp +zetaDelta only)

theorem Dev.startRead_holds {kp : Keep} {d : Dev} (hk : d.Holds kp) (c : HostCmd) (first : Nat) : (d.startRead c first).Holds kp := by
  unfold Dev.startRead; repeat' (with_reducible first | assumption | refine holds_foldl (fun _ _ _ => ?_) _ ?_ | refine holds_foldl_snd (fun _ _ _ => ?_) _ ?_ | lift_lets -underBinder | (intro x; refine (fun (hx : Dev.Holds kp x) => ?_) ?_; on_goal 2 => unfold x) | apply Dev.updCmd_holds | apply Dev.askRead_holds | apply Dev.finishDone_holds | apply holds_ite | fail_if_no_progress (apply holds_upd <;> try rfl) | rfl | intro _ | split | dsimp +zetaDelta only)

theorem Dev.markStale_holds {kp : Keep} {d : Dev} (hk : d.Holds kp) (lba copy : Nat) : (d.markStale lba copy).Holds kp := by
  unfold Dev.markStale; repeat' (with_reducible first | assumption | lift_lets -underBinder | apply holds_ite | fail_if_no_progress (apply holds_upd <;> try rfl) | rfl | intro _ | split)

theorem Dev.storeRec_holds {kp : Keep} {d : Dev} (hk : d.Holds kp) (hr : kp.recs = none) (band pos : Nat) (r : MediaRec) :
    (d.storeRec band pos r).Holds kp := by
  obtain ⟨⟨s1, s2, s3, s4, s5, s6, s7, s8⟩, h2, h3, h4, h5, h6, h7, h8⟩ := hk
  exact ⟨⟨s1, s2, s3, s4, s5, swf_sset s6 _ _, s7, s8⟩, h2, h3, h4, fun x hx => absurd (hr.symm.trans hx) (by simp),
    Nat.le_succ_of_le h6, h7, h8⟩

theorem Dev.askConvWrite_holds {kp : Keep} {d : Dev} (hk : d.Holds kp) (owner : Option CmdId) (lba copy : Nat) : (d.askConvWrite owner lba copy).Holds kp := by
  unfold Dev.askConvWrite; repeat' (with_reducible first | assumption | lift_lets -underBinder | apply Dev.askRecord_holds | apply holds_ite | fail_if_no_progress (apply holds_upd <;> try rfl) | rfl | intro _ | split)

theorem Dev.firstConvWrite_holds {kp : Keep} {d : Dev} (hk : d.Holds kp) (hr : kp.recs = none) (c : Nat) : (d.firstConvWrite c).Holds kp := by
  unfold Dev.firstConvWrite; repeat' (with_reducible first | assumption | refine holds_foldl (fun _ _ _ => ?_) _ ?_ | refine holds_foldl_snd (fun _ _ _ => ?_) _ ?_ | lift_lets -underBinder | (intro x; refine (fun (hx : Dev.Holds kp x) => ?_) ?_; on_goal 2 => unfold x) | apply Dev.askConvWrite_holds | apply Dev.markStale_holds | apply Dev.storeRec_holds | apply holds_ite | fail_if_no_progress (apply holds_upd <;> try rfl) | rfl | intro _ | split | dsimp +zetaDelta only)

theorem Dev.convBlock_holds {kp : Keep} {d : Dev} (hk : d.Holds kp) (id : CmdId) (lba v : Nat) : (d.convBlock id lba v).1.Holds kp := by
  unfold Dev.convBlock; repeat' (with_reducible first | assumption | lift_lets -underBinder | (intro x; refine (fun (hx : Dev.Holds kp x) => ?_) ?_; on_goal 2 => unfold x) | apply Dev.onHost_holds | apply Dev.markStale_holds | apply Dev.askConvWrite_holds | fail_if_no_progress (apply holds_upd <;> try rfl) | rfl | intro _ | dsimp +zetaDelta only)

theorem Dev.startConv_holds {kp : Keep} {d : Dev} (hk : d.Holds kp) (hr : kp.recs = none) (c : HostCmd) : (d.startConv c).Holds kp := by
  unfold Dev.startConv; repeat' (with_reducible first | assumption | refine holds_foldl (fun _ _ _ => ?_) _ ?_ | refine holds_foldl_fst (fun _ _ _ => ?_) _ ?_ | refine holds_foldl_snd (fun _ _ _ => ?_) _ ?_ | lift_lets -underBinder | (intro x; refine (fun (hx : Dev.Holds kp x) => ?_) ?_; on_goal 2 => unfold x) | apply Dev.firstConvWrite_holds | apply Dev.convBlock_holds | apply Dev.complete_holds | apply Dev.finishDone_holds | apply Dev.updCmd_holds | apply holds_ite | fail_if_no_progress (apply holds_upd <;> try rfl) | rfl | intro _ | split | dsimp +zetaDelta only)

theorem Dev.convWritten_holds {kp : Keep} {d : Dev} (hk : d.Holds kp) (lba copy : Nat) : (d.convWritten lba copy).Holds kp := by
  unfold Dev.convWritten; repeat' (with_reducible first | assumption | lift_lets -underBinder | (intro x; refine (fun (hx : Dev.Holds kp x) => ?_) ?_; on_goal 2 => unfold x) | apply Dev.onHost_holds | apply Dev.finishDone_holds | apply holds_ite | fail_if_no_progress (apply holds_upd <;> try rfl) | rfl | intro _ | split | dsimp +zetaDelta only)

theorem Dev.startZoned_holds {kp : Keep} {d : Dev} (hk : d.Holds kp) (c : HostCmd) : (d.startZoned c).Holds kp := by
  unfold Dev.startZoned; repeat' (with_reducible first | assumption | lift_lets -underBinder | (intro x; refine (fun (hx : Dev.Holds kp x) => ?_) ?_; on_goal 2 => unfold x) | apply Dev.makeRoom_holds | apply Dev.setZone_holds | apply Dev.complete_holds | apply Dev.implicitOpen_holds | apply ZOutcome.count_holds | apply holds_ite | fail_if_no_progress (apply holds_upd <;> try rfl) | rfl | intro _ | split | dsimp +zetaDelta only)

theorem Dev.startAppend_holds {kp : Keep} {d : Dev} (hk : d.Holds kp) (c : HostCmd) : (d.startAppend c).Holds kp := by
  unfold Dev.startAppend; repeat' (with_reducible first | assumption | lift_lets -underBinder | (intro x; refine (fun (hx : Dev.Holds kp x) => ?_) ?_; on_goal 2 => unfold x) | apply Dev.complete_holds | apply Dev.makeRoom_holds | apply Dev.setZone_holds | apply holds_ite | fail_if_no_progress (apply holds_upd <;> try rfl) | rfl | intro _ | split | dsimp +zetaDelta only)

theorem Dev.boltWritten_holds {kp : Keep} {d : Dev} (hk : d.Holds kp) (z b : Nat) : (d.boltWritten z b).Holds kp := by
  unfold Dev.boltWritten; repeat' (with_reducible first | assumption | lift_lets -underBinder | (intro x; refine (fun (hx : Dev.Holds kp x) => ?_) ?_; on_goal 2 => unfold x) | apply Dev.setZone_holds | fail_if_no_progress (apply holds_upd <;> try rfl) | rfl | intro _ | dsimp +zetaDelta only)

theorem Dev.writePartial_holds {kp : Keep} {d : Dev} (hk : d.Holds kp) (hr : kp.recs = none) (z : Nat) : (d.writePartial z).Holds kp := by
  unfold Dev.writePartial; repeat' (with_reducible first | assumption | lift_lets -underBinder | (intro x; refine (fun (hx : Dev.Holds kp x) => ?_) ?_; on_goal 2 => unfold x) | apply Dev.boltWritten_holds | apply Dev.storeRec_holds | apply holds_ite | fail_if_no_progress (apply holds_upd <;> try rfl) | rfl | intro _ | split | dsimp +zetaDelta only)

theorem Dev.flushPartials_holds {kp : Keep} {d : Dev} (hk : d.Holds kp) (hr : kp.recs = none) : (d.flushPartials).Holds kp := by
  unfold Dev.flushPartials; repeat' (with_reducible first | assumption | refine holds_foldl (fun _ _ _ => ?_) _ ?_ | refine holds_foldl_fst (fun _ _ _ => ?_) _ ?_ | refine holds_foldl_snd (fun _ _ _ => ?_) _ ?_ | lift_lets -underBinder | (intro x; refine (fun (hx : Dev.Holds kp x) => ?_) ?_; on_goal 2 => unfold x) | apply Dev.storeRec_holds | apply holds_ite | fail_if_no_progress (apply holds_upd <;> try rfl) | rfl | intro _ | split | dsimp +zetaDelta only)

theorem Dev.closeZone_holds {kp : Keep} {d : Dev} (hk : d.Holds kp) (z : Nat) : (d.closeZone z).2.Holds kp := by
  unfold Dev.closeZone; repeat' (with_reducible first | assumption | lift_lets -underBinder | (intro x; refine (fun (hx : Dev.Holds kp x) => ?_) ?_; on_goal 2 => unfold x) | apply Dev.journal_holds | apply Dev.setZone_holds | apply holds_ite | fail_if_no_progress (apply holds_upd <;> try rfl) | rfl | intro _ | split | dsimp +zetaDelta only)

theorem Dev.openZone_holds {kp : Keep} {d : Dev} (hk : d.Holds kp) (z : Nat) : (d.openZone z).2.Holds kp := by
  unfold Dev.openZone; repeat' (with_reducible first | assumption | lift_lets -underBinder | (intro x; refine (fun (hx : Dev.Holds kp x) => ?_) ?_; on_goal 2 => unfold x) | apply Dev.makeRoom_holds | apply Dev.journal_holds | apply Dev.setZone_holds | apply holds_ite | fail_if_no_progress (apply holds_upd <;> try rfl) | rfl | intro _ | split | dsimp +zetaDelta only)

theorem Dev.finishZone_holds {kp : Keep} {d : Dev} (hk : d.Holds kp) (hr : kp.recs = none) (z : Nat) : (d.finishZone z).2.Holds kp := by
  unfold Dev.finishZone; repeat' (with_reducible first | assumption | lift_lets -underBinder | (intro x; refine (fun (hx : Dev.Holds kp x) => ?_) ?_; on_goal 2 => unfold x) | apply Dev.completeAll_holds | apply Dev.writePartial_holds | apply Dev.setZone_holds | apply Dev.journal_holds | apply holds_ite | fail_if_no_progress (apply holds_upd <;> try rfl) | rfl | intro _ | split | dsimp +zetaDelta only)

theorem Dev.resetAct_holds {kp : Keep} {d : Dev} (hk : d.Holds kp) (z : Nat) : (d.resetAct z).2.Holds kp := by
  unfold Dev.resetAct; repeat' (with_reducible first | assumption | lift_lets -underBinder | (intro x; refine (fun (hx : Dev.Holds kp x) => ?_) ?_; on_goal 2 => unfold x) | apply Dev.resetZone_holds | apply holds_ite | intro _ | split | dsimp +zetaDelta only)

theorem Dev.capacityFell_holds {kp : Keep} {d : Dev} (hk : d.Holds kp) (z : Nat) : (d.capacityFell z).Holds kp := by
  unfold Dev.capacityFell; repeat' (with_reducible first | assumption | lift_lets -underBinder | (intro x; refine (fun (hx : Dev.Holds kp x) => ?_) ?_; on_goal 2 => unfold x) | apply Dev.raiseAll_holds | apply Dev.onCtrl_holds | apply Dev.zoneChanged_holds | apply holds_ite | fail_if_no_progress (apply holds_upd <;> try rfl) | rfl | intro _ | split | dsimp +zetaDelta only)

theorem Dev.offlineAct_holds {kp : Keep} {d : Dev} (hk : d.Holds kp) (z : Nat) : (d.offlineAct z).2.Holds kp := by
  unfold Dev.offlineAct; repeat' (with_reducible first | assumption | apply Dev.capacityFell_holds | apply Dev.resetZone_holds | apply holds_ite | intro _ | split)

theorem Dev.zoneDo_holds {kp : Keep} {d : Dev} (hk : d.Holds kp) (hr : kp.recs = none) (action z : Nat) : (d.zoneDo action z).2.Holds kp := by
  unfold Dev.zoneDo; repeat' (with_reducible first | assumption | lift_lets -underBinder | (intro x; refine (fun (hx : Dev.Holds kp x) => ?_) ?_; on_goal 2 => unfold x) | apply Dev.closeZone_holds | apply Dev.finishZone_holds | apply Dev.openZone_holds | apply Dev.resetAct_holds | apply Dev.capacityFell_holds | apply Dev.offlineAct_holds | apply holds_ite | fail_if_no_progress (apply holds_upd <;> try rfl) | rfl | intro _ | split | dsimp +zetaDelta only)

theorem Dev.zoneEach_holds {kp : Keep} (hr : kp.recs = none) (x0 : List Nat) : ∀ {d : Dev} (hk : d.Holds kp) (action : Nat), (d.zoneEach action x0).2.Holds kp := by
  induction x0 with
  | nil =>
    intro d hk action; unfold Dev.zoneEach; repeat' (with_reducible first | assumption | lift_lets -underBinder | (intro x; refine (fun (hx : Dev.Holds kp x) => ?_) ?_; on_goal 2 => unfold x) | apply ih | apply Dev.zoneDo_holds | apply holds_ite | intro _ | split | dsimp +zetaDelta only)
  | cons y ys ih =>
    intro d hk action; unfold Dev.zoneEach; repeat' (with_reducible first | assumption | lift_lets -underBinder | (intro x; refine (fun (hx : Dev.Holds kp x) => ?_) ?_; on_goal 2 => unfold x) | apply ih | apply Dev.zoneDo_holds | apply holds_ite | intro _ | split | dsimp +zetaDelta only)

theorem Dev.zoneAct_holds {kp : Keep} {d : Dev} (hk : d.Holds kp) (hr : kp.recs = none) (action z : Nat) (all : Bool) : (d.zoneAct action z all).2.Holds kp := by
  unfold Dev.zoneAct; repeat' (with_reducible first | assumption | apply Dev.zoneEach_holds | apply Dev.zoneDo_holds | apply holds_ite | intro _ | split)

theorem Dev.start_holds {kp : Keep} {d : Dev} (hk : d.Holds kp) (hr : kp.recs = none) (first : Nat) (c : HostCmd) : (d.start first c).Holds kp := by
  unfold Dev.start; repeat' (with_reducible first | assumption | lift_lets -underBinder | (intro x; refine (fun (hx : Dev.Holds kp x) => ?_) ?_; on_goal 2 => unfold x) | apply Dev.startRead_holds | apply Dev.startConv_holds | apply Dev.startZoned_holds | apply Dev.startAppend_holds | apply Dev.complete_holds | apply Dev.zoneAct_holds | apply Dev.giveHost_holds | apply holds_ite | fail_if_no_progress (apply holds_upd <;> try rfl) | rfl | intro _ | split | dsimp +zetaDelta only)

theorem Dev.arrive_holds {kp : Keep} {d : Dev} (hk : d.Holds kp) (hr : kp.recs = none) (first : Nat) (c : HostCmd) : (d.arrive first c).Holds kp := by
  unfold Dev.arrive; repeat' (with_reducible first | assumption | lift_lets -underBinder | (intro x; refine (fun (hx : Dev.Holds kp x) => ?_) ?_; on_goal 2 => unfold x) | apply Dev.onHost_holds | apply Dev.start_holds | apply holds_ite | fail_if_no_progress (apply holds_upd <;> try rfl) | rfl | intro _ | split | dsimp +zetaDelta only)

theorem Dev.wake_holds {kp : Keep} (hr : kp.recs = none) (x0 : Nat) : ∀ {d : Dev} (hk : d.Holds kp), (d.wake x0).Holds kp := by
  induction x0 with
  | zero =>
    intro d hk; unfold Dev.wake; repeat' (with_reducible first | assumption | lift_lets -underBinder | (intro x; refine (fun (hx : Dev.Holds kp x) => ?_) ?_; on_goal 2 => unfold x) | apply ih | apply Dev.start_holds | apply Dev.updCmd_holds | fail_if_no_progress (apply holds_upd <;> try rfl) | rfl | intro _ | split | dsimp +zetaDelta only)
  | succ n ih =>
    intro d hk; unfold Dev.wake; repeat' (with_reducible first | assumption | lift_lets -underBinder | (intro x; refine (fun (hx : Dev.Holds kp x) => ?_) ?_; on_goal 2 => unfold x) | apply ih | apply Dev.start_holds | apply Dev.updCmd_holds | fail_if_no_progress (apply holds_upd <;> try rfl) | rfl | intro _ | split | dsimp +zetaDelta only)

theorem Dev.unfeltStride_holds {kp : Keep} {d : Dev} (hk : d.Holds kp) (z k : Nat) : (d.unfeltStride z k).Holds kp := by
  unfold Dev.unfeltStride; repeat' (with_reducible first | assumption | lift_lets -underBinder | (intro x; refine (fun (hx : Dev.Holds kp x) => ?_) ?_; on_goal 2 => unfold x) | apply Dev.setStride_holds | apply Dev.dropPart_holds | refine Dev.logBoth_holds (by assumption) ?_ | apply Dev.setZone_holds | apply holds_ite | fail_if_no_progress (apply holds_upd <;> try rfl) | rfl | intro _ | split | dsimp +zetaDelta only)

theorem Dev.releaseBolt_holds {kp : Keep} {d : Dev} (hk : d.Holds kp) (z b : Nat) : (d.releaseBolt z b).Holds kp := by
  unfold Dev.releaseBolt; repeat' (with_reducible first | assumption | lift_lets -underBinder | (intro x; refine (fun (hx : Dev.Holds kp x) => ?_) ?_; on_goal 2 => unfold x) | apply Dev.unfeltStride_holds | apply Dev.askRecord_holds | apply holds_ite | fail_if_no_progress (apply holds_upd <;> try rfl) | rfl | intro _ | split | dsimp +zetaDelta only)

theorem Dev.settle_holds {kp : Keep} {d : Dev} (hk : d.Holds kp) (hr : kp.recs = none) : (d.settle).Holds kp := by
  unfold Dev.settle; repeat' (with_reducible first | assumption | refine holds_foldl (fun _ _ _ => ?_) _ ?_ | refine holds_foldl_fst (fun _ _ _ => ?_) _ ?_ | refine holds_foldl_snd (fun _ _ _ => ?_) _ ?_ | lift_lets -underBinder | (intro x; refine (fun (hx : Dev.Holds kp x) => ?_) ?_; on_goal 2 => unfold x) | apply Dev.releaseBolt_holds | apply Dev.wake_holds | intro _ | dsimp +zetaDelta only)

end Sys2Proof.Machine
end

