-- ==== Sys2Proof/Laws/Holds/Zones.lean ====
section
/-! SUPPORT. The operations of Machine/Zones.lean carry `Dev.Holds`. -/

namespace Sys2Proof.Machine

set_option linter.unusedTactic false
set_option linter.unreachableTactic false

theorem Dev.dataDo_holds {kp : Keep} {d : Dev} (hk : d.Holds kp) (id : CmdId) (ns lba len : Nat) (mdts : Bool) (t : Transfer) (g : Dev → Dev) (hg : ∀ x : Dev, x.Holds kp → (g x).Holds kp) : (d.dataDo id ns lba len mdts t g).Holds kp := by
  unfold Dev.dataDo; repeat' (with_reducible first | assumption | lift_lets -underBinder | apply Dev.complete_holds | apply hg | fail_if_no_progress (apply holds_upd <;> try rfl) | rfl | intro _ | split)

theorem execWrite_holds {kp : Keep} {s : State} (hk : s.dev.Holds kp) (hr : kp.recs = none) (id : CmdId) (ns lba : Nat) (data : List Nat) (dtype : Nat) (marked : Bool) (t : Transfer) :
    ∃ d, execWrite id ns lba data dtype marked t s = s.next d ∧ d.Holds kp := by
  refine ⟨_, rfl, ?_⟩; repeat' (with_reducible first | assumption | apply Dev.ioDo_holds | apply State.dev_holds | apply Dev.complete_holds | apply Dev.dataDo_holds | apply Dev.settle_holds | apply Dev.arrive_holds | apply holds_ite | intro _ | split)

theorem execWriteZeroes_holds {kp : Keep} {s : State} (hk : s.dev.Holds kp) (hr : kp.recs = none) (id : CmdId) (ns lba len : Nat) (marked : Bool) :
    ∃ d, execWriteZeroes id ns lba len marked s = s.next d ∧ d.Holds kp := by
  refine ⟨_, rfl, ?_⟩; repeat' (with_reducible first | assumption | apply Dev.ioDo_holds | apply State.dev_holds | apply Dev.dataDo_holds | apply Dev.settle_holds | apply Dev.arrive_holds | apply holds_ite | intro _ | split)

theorem execRead_holds {kp : Keep} {s : State} (hk : s.dev.Holds kp) (hr : kp.recs = none) (id : CmdId) (ns lba len : Nat) (limited marked : Bool) (first : Nat) :
    ∃ d, execRead id ns lba len limited marked first s = s.next d ∧ d.Holds kp := by
  refine ⟨_, rfl, ?_⟩; repeat' (with_reducible first | assumption | apply Dev.ioDo_holds | apply State.dev_holds | apply Dev.dataDo_holds | apply Dev.complete_holds | apply Dev.settle_holds | apply Dev.arrive_holds | apply holds_ite | intro _ | split)

theorem execFlush_holds {kp : Keep} {s : State} (hk : s.dev.Holds kp) (hr : kp.recs = none) (id : CmdId) (marked : Bool) :
    ∃ d, execFlush id marked s = s.next d ∧ d.Holds kp := by
  refine ⟨_, rfl, ?_⟩; repeat' (with_reducible first | assumption | apply Dev.ioDo_holds | apply State.dev_holds | apply Dev.settle_holds | apply Dev.arrive_holds | intro _)

theorem Dev.zonedDo_holds {kp : Keep} {d : Dev} (hk : d.Holds kp) (id : CmdId) (ns lba len : Nat) (g : Dev → Dev) (hg : ∀ x : Dev, x.Holds kp → (g x).Holds kp) : (d.zonedDo id ns lba len g).Holds kp := by
  unfold Dev.zonedDo; repeat' (with_reducible first | assumption | lift_lets -underBinder | apply Dev.complete_holds | apply hg | apply holds_ite | fail_if_no_progress (apply holds_upd <;> try rfl) | rfl | intro _ | split)

theorem execZoneAppend_holds {kp : Keep} {s : State} (hk : s.dev.Holds kp) (hr : kp.recs = none) (id : CmdId) (ns lba : Nat) (data : List Nat) (marked : Bool) (t : Transfer) :
    ∃ d, execZoneAppend id ns lba data marked t s = s.next d ∧ d.Holds kp := by
  refine ⟨_, rfl, ?_⟩; repeat' (with_reducible first | assumption | lift_lets -underBinder | apply Dev.ioDo_holds | apply State.dev_holds | apply Dev.zonedDo_holds | apply Dev.complete_holds | apply Dev.settle_holds | apply Dev.arrive_holds | apply holds_ite | fail_if_no_progress (apply holds_upd <;> try rfl) | rfl | intro _ | split)

theorem Dev.zoneSend_holds {kp : Keep} {d : Dev} (hk : d.Holds kp) (hr : kp.recs = none) (id : CmdId) (ns lba action : Nat) (all marked : Bool) : (d.zoneSend id ns lba action all marked).Holds kp := by
  unfold Dev.zoneSend; repeat' (with_reducible first | assumption | apply Dev.ioDo_holds | apply Dev.zonedDo_holds | apply Dev.settle_holds | apply Dev.arrive_holds | apply holds_ite | intro _ | split)

theorem execOpenZone_holds {kp : Keep} {s : State} (hk : s.dev.Holds kp) (hr : kp.recs = none) (id : CmdId) (ns lba : Nat) (all marked : Bool) :
    ∃ d, execOpenZone id ns lba all marked s = s.next d ∧ d.Holds kp := by
  refine ⟨_, rfl, ?_⟩; repeat' (with_reducible first | assumption | apply Dev.zoneSend_holds | apply State.dev_holds)

theorem execCloseZone_holds {kp : Keep} {s : State} (hk : s.dev.Holds kp) (hr : kp.recs = none) (id : CmdId) (ns lba : Nat) (all marked : Bool) :
    ∃ d, execCloseZone id ns lba all marked s = s.next d ∧ d.Holds kp := by
  refine ⟨_, rfl, ?_⟩; repeat' (with_reducible first | assumption | apply Dev.zoneSend_holds | apply State.dev_holds)

theorem execFinishZone_holds {kp : Keep} {s : State} (hk : s.dev.Holds kp) (hr : kp.recs = none) (id : CmdId) (ns lba : Nat) (all marked : Bool) :
    ∃ d, execFinishZone id ns lba all marked s = s.next d ∧ d.Holds kp := by
  refine ⟨_, rfl, ?_⟩; repeat' (with_reducible first | assumption | apply Dev.zoneSend_holds | apply State.dev_holds)

theorem execResetZone_holds {kp : Keep} {s : State} (hk : s.dev.Holds kp) (hr : kp.recs = none) (id : CmdId) (ns lba : Nat) (all marked : Bool) :
    ∃ d, execResetZone id ns lba all marked s = s.next d ∧ d.Holds kp := by
  refine ⟨_, rfl, ?_⟩; repeat' (with_reducible first | assumption | apply Dev.zoneSend_holds | apply State.dev_holds)

theorem execOfflineZone_holds {kp : Keep} {s : State} (hk : s.dev.Holds kp) (hr : kp.recs = none) (id : CmdId) (ns lba : Nat) (all marked : Bool) :
    ∃ d, execOfflineZone id ns lba all marked s = s.next d ∧ d.Holds kp := by
  refine ⟨_, rfl, ?_⟩; repeat' (with_reducible first | assumption | apply Dev.zoneSend_holds | apply State.dev_holds)

theorem execSetZoneDescriptorExtension_holds {kp : Keep} {s : State} (hk : s.dev.Holds kp) (hr : kp.recs = none) (id : CmdId) (ns lba : Nat) (all marked : Bool) :
    ∃ d, execSetZoneDescriptorExtension id ns lba all marked s = s.next d ∧ d.Holds kp := by
  refine ⟨_, rfl, ?_⟩; repeat' (with_reducible first | assumption | apply Dev.zoneSend_holds | apply State.dev_holds)

theorem Dev.zoneReceive_holds {kp : Keep} {d : Dev} (hk : d.Holds kp) (hr : kp.recs = none) (id : CmdId) (ns lba count : Nat) (ext part marked : Bool) : (d.zoneReceive id ns lba count ext part marked).Holds kp := by
  unfold Dev.zoneReceive; repeat' (with_reducible first | assumption | apply Dev.ioDo_holds | apply Dev.zonedDo_holds | apply Dev.settle_holds | apply Dev.arrive_holds | intro _)

theorem execReportZones_holds {kp : Keep} {s : State} (hk : s.dev.Holds kp) (hr : kp.recs = none) (id : CmdId) (ns lba count : Nat) (part marked : Bool) :
    ∃ d, execReportZones id ns lba count part marked s = s.next d ∧ d.Holds kp := by
  refine ⟨_, rfl, ?_⟩; repeat' (with_reducible first | assumption | apply Dev.zoneReceive_holds | apply State.dev_holds)

theorem execExtendedReportZones_holds {kp : Keep} {s : State} (hk : s.dev.Holds kp) (hr : kp.recs = none) (id : CmdId) (ns lba count : Nat) (part marked : Bool) :
    ∃ d, execExtendedReportZones id ns lba count part marked s = s.next d ∧ d.Holds kp := by
  refine ⟨_, rfl, ?_⟩; repeat' (with_reducible first | assumption | apply Dev.zoneReceive_holds | apply State.dev_holds)

theorem Dev.throughBolts_holds {kp : Keep} (hr : kp.recs = none) (x0 : List (Nat × Nat)) : ∀ {d : Dev} (hk : d.Holds kp) (z : Nat), (d.throughBolts z x0).Holds kp := by
  induction x0 with
  | nil =>
    intro d hk z; unfold Dev.throughBolts; repeat' (with_reducible first | assumption | lift_lets -underBinder | apply ih | apply Dev.foldBolt_holds | apply Dev.boltWritten_holds | apply Dev.storeRec_holds | fail_if_no_progress (apply holds_upd <;> try rfl) | rfl | intro _ | split)
  | cons y ys ih =>
    intro d hk z; unfold Dev.throughBolts; repeat' (with_reducible first | assumption | lift_lets -underBinder | apply ih | apply Dev.foldBolt_holds | apply Dev.boltWritten_holds | apply Dev.storeRec_holds | fail_if_no_progress (apply holds_upd <;> try rfl) | rfl | intro _ | split)

theorem Dev.writeAccept_holds {kp : Keep} {d : Dev} (hk : d.Holds kp) (hr : kp.recs = none) (z : Nat) (id : CmdId) (onMedia : Bool) : (d.writeAccept z id onMedia).Holds kp := by
  unfold Dev.writeAccept; repeat' (with_reducible first | assumption | lift_lets -underBinder | (intro x; refine (fun (hx : Dev.Holds kp x) => ?_) ?_; on_goal 2 => unfold x) | apply Dev.setZone_holds | apply Dev.complete_holds | apply Dev.makeRoom_holds | apply Dev.acceptWrite_holds | apply Dev.throughBolts_holds | apply holds_ite | fail_if_no_progress (apply holds_upd <;> try rfl) | rfl | intro _ | split | dsimp +zetaDelta only)

theorem execWriteAccept_holds {kp : Keep} {s : State} (hk : s.dev.Holds kp) (hr : kp.recs = none) (z : Nat) (id : CmdId) (onMedia : Bool) :
    ∃ d, execWriteAccept z id onMedia s = s.next d ∧ d.Holds kp := by
  refine ⟨_, rfl, ?_⟩; repeat' (with_reducible first | assumption | apply Dev.settle_holds | apply Dev.sealZone_holds | apply Dev.writeAccept_holds | apply State.dev_holds)

theorem execHoldExpired_holds {kp : Keep} {s : State} (hk : s.dev.Holds kp) (hr : kp.recs = none) (z : Nat) (id : CmdId) :
    ∃ d, execHoldExpired z id s = s.next d ∧ d.Holds kp := by
  refine ⟨_, rfl, ?_⟩; repeat' (with_reducible first | assumption | lift_lets -underBinder | (intro x; refine (fun (hx : Dev.Holds kp x) => ?_) ?_; on_goal 2 => unfold x) | apply State.dev_holds | apply Dev.settle_holds | apply Dev.complete_holds | apply Dev.bumpF_holds | apply Dev.setZone_holds | apply holds_ite | fail_if_no_progress (apply holds_upd <;> try rfl) | rfl | intro _ | split | dsimp +zetaDelta only)

theorem Dev.checkpoint_holds {kp : Keep} {d : Dev} (hk : d.Holds kp) : (d.checkpoint).Holds kp := by
  unfold Dev.checkpoint; repeat' (with_reducible first | assumption | lift_lets -underBinder | (intro x; refine (fun (hx : Dev.Holds kp x) => ?_) ?_; on_goal 2 => unfold x) | apply Dev.setF_holds | fail_if_no_progress (apply holds_upd <;> try rfl) | rfl | intro _ | dsimp +zetaDelta only)

theorem execJournalCheckpoint_holds {kp : Keep} {s : State} (hk : s.dev.Holds kp) :
    ∃ d, execJournalCheckpoint s = s.next d ∧ d.Holds kp := by
  refine ⟨_, rfl, ?_⟩; repeat' (with_reducible first | assumption | apply State.dev_holds | apply Dev.checkpoint_holds | apply holds_ite | intro _ | split)

end Sys2Proof.Machine
end

