-- ==== Sys2Proof/Laws/Holds/Felt.lean ====
section
/-! SUPPORT. The operations of Machine/Felt.lean carry `Dev.Holds`. -/

namespace Sys2Proof.Machine

set_option linter.unusedTactic false
set_option linter.unreachableTactic false

theorem Dev.feltEvent_holds {kp : Keep} {d : Dev} (hk : d.Holds kp) (type surface groups zones capacity zone : Nat) : (d.feltEvent type surface groups zones capacity zone).Holds kp := by
  unfold Dev.feltEvent; repeat' (with_reducible first | assumption | lift_lets -underBinder | (intro x; refine (fun (hx : Dev.Holds kp x) => ?_) ?_; on_goal 2 => unfold x) | apply holds_ite | fail_if_no_progress (apply holds_upd <;> try rfl) | rfl | intro _ | split | dsimp +zetaDelta only)

theorem Dev.checkpointStride_holds {kp : Keep} {d : Dev} (hk : d.Holds kp) (g k : Nat) : (d.checkpointStride g k).Holds kp := by
  unfold Dev.checkpointStride; repeat' (with_reducible first | assumption | lift_lets -underBinder | (intro x; refine (fun (hx : Dev.Holds kp x) => ?_) ?_; on_goal 2 => unfold x) | apply Dev.setStride_holds | apply Dev.coverAll_holds | apply holds_ite | fail_if_no_progress (apply holds_upd <;> try rfl) | rfl | intro _ | split | dsimp +zetaDelta only)

theorem execFeltCheckpoint_holds {kp : Keep} {s : State} (hk : s.dev.Holds kp) :
    ∃ d, execFeltCheckpoint s = s.next d ∧ d.Holds kp := by
  refine ⟨_, rfl, ?_⟩; repeat' (with_reducible first | assumption | refine holds_foldl (fun _ _ _ => ?_) _ ?_ | refine holds_foldl_fst (fun _ _ _ => ?_) _ ?_ | refine holds_foldl_snd (fun _ _ _ => ?_) _ ?_ | apply State.dev_holds | apply Dev.checkpointStride_holds | apply holds_ite | intro _ | split)

theorem Dev.moveStride_holds {kp : Keep} {d : Dev} (hk : d.Holds kp) (surface band : Nat) (key : Nat) : (d.moveStride surface band key).Holds kp := by
  unfold Dev.moveStride; repeat' (with_reducible first | assumption | lift_lets -underBinder | (intro x; refine (fun (hx : Dev.Holds kp x) => ?_) ?_; on_goal 2 => unfold x) | refine Dev.logWrite_holds (by assumption) ?_ | apply holds_ite | fail_if_no_progress (apply holds_upd <;> try rfl) | rfl | intro _ | split | dsimp +zetaDelta only)

theorem Dev.gcRound_holds {kp : Keep} {d : Dev} (hk : d.Holds kp) (surface : Nat) : (d.gcRound surface).Holds kp := by
  unfold Dev.gcRound; repeat' (with_reducible first | assumption | refine holds_foldl (fun _ _ _ => ?_) _ ?_ | refine holds_foldl_snd (fun _ _ _ => ?_) _ ?_ | lift_lets -underBinder | (intro x; refine (fun (hx : Dev.Holds kp x) => ?_) ?_; on_goal 2 => unfold x) | apply Dev.moveStride_holds | apply holds_ite | fail_if_no_progress (apply holds_upd <;> try rfl) | rfl | intro _ | split | dsimp +zetaDelta only)

theorem Dev.gcRun_holds {kp : Keep}  (x0 : Nat) : ∀ {d : Dev} (hk : d.Holds kp) (surface : Nat), (d.gcRun surface x0).Holds kp := by
  induction x0 with
  | zero =>
    intro d hk surface; unfold Dev.gcRun; repeat' (with_reducible first | assumption | apply ih | apply Dev.gcRound_holds | apply holds_ite | intro _ | split)
  | succ n ih =>
    intro d hk surface; unfold Dev.gcRun; repeat' (with_reducible first | assumption | apply ih | apply Dev.gcRound_holds | apply holds_ite | intro _ | split)

theorem execGarbageCollection_holds {kp : Keep} {s : State} (hk : s.dev.Holds kp) (surface : Nat) :
    ∃ d, execGarbageCollection surface s = s.next d ∧ d.Holds kp := by
  refine ⟨_, rfl, ?_⟩; repeat' (with_reducible first | assumption | apply State.dev_holds | apply Dev.gcRun_holds | apply holds_ite | intro _ | split)

theorem Dev.loseZone_holds {kp : Keep} {d : Dev} (hk : d.Holds kp) (z : Nat) : (d.loseZone z).Holds kp := by
  unfold Dev.loseZone; repeat' (with_reducible first | assumption | lift_lets -underBinder | (intro x; refine (fun (hx : Dev.Holds kp x) => ?_) ?_; on_goal 2 => unfold x) | apply Dev.rescueZone_holds | apply Dev.journal_holds | apply Dev.setZone_holds | apply Dev.capacityFell_holds | apply Dev.zoneChanged_holds | apply holds_ite | fail_if_no_progress (apply holds_upd <;> try rfl) | rfl | intro _ | split | dsimp +zetaDelta only)

theorem Dev.refeltGroup_holds {kp : Keep} {d : Dev} (hk : d.Holds kp) (surface g : Nat) : (d.refeltGroup surface g).Holds kp := by
  unfold Dev.refeltGroup; repeat' (with_reducible first | assumption | refine holds_foldl (fun _ _ _ => ?_) _ ?_ | refine holds_foldl_fst (fun _ _ _ => ?_) _ ?_ | refine holds_foldl_snd (fun _ _ _ => ?_) _ ?_ | lift_lets -underBinder | (intro x; refine (fun (hx : Dev.Holds kp x) => ?_) ?_; on_goal 2 => unfold x) | refine Dev.logWrite_holds (by assumption) ?_ | apply holds_ite | fail_if_no_progress (apply holds_upd <;> try rfl) | rfl | intro _ | split | dsimp +zetaDelta only)

theorem Dev.rebuildSys_holds {kp : Keep} {d : Dev} (hk : d.Holds kp) (surface : Nat) : (d.rebuildSys surface).Holds kp := by
  unfold Dev.rebuildSys; repeat' (with_reducible first | assumption | lift_lets -underBinder | (intro x; refine (fun (hx : Dev.Holds kp x) => ?_) ?_; on_goal 2 => unfold x) | apply holds_ite | fail_if_no_progress (apply holds_upd <;> try rfl) | rfl | intro _ | split | dsimp +zetaDelta only)

theorem Dev.autoOffline_holds {kp : Keep} {d : Dev} (hk : d.Holds kp) (z : Nat) : (d.autoOffline z).Holds kp := by
  unfold Dev.autoOffline; repeat' (with_reducible first | assumption | lift_lets -underBinder | (intro x; refine (fun (hx : Dev.Holds kp x) => ?_) ?_; on_goal 2 => unfold x) | apply Dev.feltEvent_holds | apply Dev.capacityFell_holds | apply Dev.resetZone_holds | apply holds_ite | fail_if_no_progress (apply holds_upd <;> try rfl) | rfl | intro _ | split | dsimp +zetaDelta only)

theorem Dev.headFailing_holds {kp : Keep} {d : Dev} (hk : d.Holds kp) (a : Act) (h : Nat) : (d.headFailing a h).Holds kp := by
  unfold Dev.headFailing; repeat' (with_reducible first | assumption | refine holds_foldl (fun _ _ _ => ?_) _ ?_ | refine holds_foldl_fst (fun _ _ _ => ?_) _ ?_ | refine holds_foldl_snd (fun _ _ _ => ?_) _ ?_ | lift_lets -underBinder | (intro x; refine (fun (hx : Dev.Holds kp x) => ?_) ?_; on_goal 2 => unfold x) | apply Dev.loseZone_holds | apply Dev.feltEvent_holds | apply Dev.refeltGroup_holds | apply Dev.event_holds | apply Dev.setF_holds | apply Dev.raiseAll_holds | apply Dev.autoOffline_holds | apply Dev.rebuildSys_holds | apply holds_ite | fail_if_no_progress (apply holds_upd <;> try rfl) | rfl | intro _ | split | dsimp +zetaDelta only)

theorem Dev.reconFailed_holds {kp : Keep} {d : Dev} (hk : d.Holds kp) (z cause : Nat) : (d.reconFailed z cause).Holds kp := by
  unfold Dev.reconFailed; repeat' (with_reducible first | assumption | lift_lets -underBinder | (intro x; refine (fun (hx : Dev.Holds kp x) => ?_) ?_; on_goal 2 => unfold x) | apply Dev.bumpF_holds | apply Dev.setF_holds | apply Dev.feltEvent_holds | apply holds_ite | fail_if_no_progress (apply holds_upd <;> try rfl) | rfl | intro _ | split | dsimp +zetaDelta only)

end Sys2Proof.Machine
end

