-- ==== Sys2Proof/Laws/Holds/Write.lean ====
section
/-! SUPPORT. The operations of Machine/Write.lean carry `Dev.Holds`. -/

namespace Sys2Proof.Machine

set_option linter.unusedTactic false
set_option linter.unreachableTactic false

theorem Dev.sendCode_holds {kp : Keep} {d : Dev} (hk : d.Holds kp) (a : Act) (h c : Nat) : (d.sendCode a h c).Holds kp := by
  unfold Dev.sendCode; repeat' (with_reducible first | assumption | lift_lets -underBinder | apply Dev.launch_holds | apply Dev.onWr_holds | apply holds_ite | fail_if_no_progress (apply holds_upd <;> try rfl) | rfl | intro _ | split)

theorem Dev.sendHeater_holds {kp : Keep} {d : Dev} (hk : d.Holds kp) (a : Act) (h : Nat) : (d.sendHeater a h).Holds kp := by
  unfold Dev.sendHeater; repeat' (with_reducible first | assumption | apply Dev.sendCode_holds)

theorem Dev.heater_holds {kp : Keep} {d : Dev} (hk : d.Holds kp) (a : Act) (st : Nat) : (d.heater a st).Holds kp := by
  unfold Dev.heater; repeat' (with_reducible first | assumption | lift_lets -underBinder | (intro x; refine (fun (hx : Dev.Holds kp x) => ?_) ?_; on_goal 2 => unfold x) | apply Dev.onWr_holds | apply Dev.sendHeater_holds | apply holds_ite | fail_if_no_progress (apply holds_upd <;> try rfl) | rfl | intro _ | split | dsimp +zetaDelta only)

theorem Dev.unwindHead_holds {kp : Keep} {d : Dev} (hk : d.Holds kp) (a : Act) (h : Nat) : (d.unwindHead a h).Holds kp := by
  unfold Dev.unwindHead; repeat' (with_reducible first | assumption | lift_lets -underBinder | (intro x; refine (fun (hx : Dev.Holds kp x) => ?_) ?_; on_goal 2 => unfold x) | apply Dev.onWr_holds | apply Dev.sendCode_holds | apply holds_ite | fail_if_no_progress (apply holds_upd <;> try rfl) | rfl | intro _ | split | dsimp +zetaDelta only)

theorem Dev.asLevel_holds {kp : Keep} {d : Dev} (hk : d.Holds kp) (a : Act) (mode level : Nat) : (d.asLevel a mode level).Holds kp := by
  unfold Dev.asLevel; repeat' (with_reducible first | assumption | apply Dev.launch_holds | apply Dev.setF_holds)

theorem Dev.laneOff_holds {kp : Keep} {d : Dev} (hk : d.Holds kp) (a : Act) : (d.laneOff a).Holds kp := by
  unfold Dev.laneOff; repeat' (with_reducible first | assumption | lift_lets -underBinder | (intro x; refine (fun (hx : Dev.Holds kp x) => ?_) ?_; on_goal 2 => unfold x) | apply Dev.startUnwind_holds | apply Dev.asLevel_holds | apply Dev.setF_holds | apply Dev.onAssist_holds | apply holds_ite | fail_if_no_progress (apply holds_upd <;> try rfl) | rfl | intro _ | split | dsimp +zetaDelta only)

theorem Dev.assistFault_holds {kp : Keep} {d : Dev} (hk : d.Holds kp) (a : Act) (kind : Nat) : (d.assistFault a kind).Holds kp := by
  unfold Dev.assistFault; repeat' (with_reducible first | assumption | lift_lets -underBinder | (intro x; refine (fun (hx : Dev.Holds kp x) => ?_) ?_; on_goal 2 => unfold x) | apply Dev.bumpF_holds | apply Dev.setF_holds | apply Dev.onWr_holds | apply holds_ite | fail_if_no_progress (apply holds_upd <;> try rfl) | rfl | intro _ | split | dsimp +zetaDelta only)

theorem Dev.preBias_holds {kp : Keep} {d : Dev} (hk : d.Holds kp) (a : Act) (f : Fetch) : (d.preBias a f).Holds kp := by
  unfold Dev.preBias; repeat' (with_reducible first | assumption | lift_lets -underBinder | (intro x; refine (fun (hx : Dev.Holds kp x) => ?_) ?_; on_goal 2 => unfold x) | apply Dev.event_holds | apply Dev.reportFault_holds | apply Dev.assistFault_holds | apply Dev.onAssist_holds | apply Dev.setF_holds | apply Dev.asLevel_holds | apply Dev.sendHeater_holds | apply Dev.setBo_holds | apply Dev.onWr_holds | apply holds_ite | fail_if_no_progress (apply holds_upd <;> try rfl) | rfl | intro _ | split | dsimp +zetaDelta only)

theorem Dev.backOffStart_holds {kp : Keep} {d : Dev} (hk : d.Holds kp) (a : Act) : (d.backOffStart a).Holds kp := by
  unfold Dev.backOffStart; repeat' (with_reducible first | assumption | lift_lets -underBinder | (intro x; refine (fun (hx : Dev.Holds kp x) => ?_) ?_; on_goal 2 => unfold x) | apply Dev.sendHeater_holds | apply Dev.setBo_holds | apply Dev.onAssist_holds | apply holds_ite | fail_if_no_progress (apply holds_upd <;> try rfl) | rfl | intro _ | split | dsimp +zetaDelta only)

theorem Dev.operate_holds {kp : Keep} {d : Dev} (hk : d.Holds kp) (a : Act) : (d.operate a).Holds kp := by
  unfold Dev.operate; repeat' (with_reducible first | assumption | lift_lets -underBinder | (intro x; refine (fun (hx : Dev.Holds kp x) => ?_) ?_; on_goal 2 => unfold x) | apply Dev.sendHeater_holds | apply Dev.setBo_holds | apply Dev.setF_holds | apply holds_ite | intro _ | split | dsimp +zetaDelta only)

theorem Dev.operateRamp_holds {kp : Keep} {d : Dev} (hk : d.Holds kp) (a : Act) : (d.operateRamp a).Holds kp := by
  unfold Dev.operateRamp; repeat' (with_reducible first | assumption | lift_lets -underBinder | apply Dev.onAssist_holds | apply Dev.asLevel_holds | apply holds_ite | fail_if_no_progress (apply holds_upd <;> try rfl) | rfl | intro _ | split)

theorem Dev.closeWrite_holds {kp : Keep} {d : Dev} (hk : d.Holds kp) (a : Act) : (d.closeWrite a).Holds kp := by
  unfold Dev.closeWrite; repeat' (with_reducible first | assumption | lift_lets -underBinder | (intro x; refine (fun (hx : Dev.Holds kp x) => ?_) ?_; on_goal 2 => unfold x) | apply Dev.launch_holds | apply Dev.onBlk_holds | apply Dev.onAssist_holds | apply Dev.asLevel_holds | apply holds_ite | fail_if_no_progress (apply holds_upd <;> try rfl) | rfl | intro _ | split | dsimp +zetaDelta only)

theorem Dev.cutRead_holds {kp : Keep} {d : Dev} (hk : d.Holds kp) (a : Act) : (d.cutRead a).Holds kp := by
  unfold Dev.cutRead; repeat' (with_reducible first | assumption | lift_lets -underBinder | apply Dev.onBlk_holds | apply holds_ite | fail_if_no_progress (apply holds_upd <;> try rfl) | rfl | intro _ | split)

theorem Dev.condemnCut_holds {kp : Keep} {d : Dev} (hk : d.Holds kp) (a : Act) : (d.condemnCut a).Holds kp := by
  unfold Dev.condemnCut; repeat' (with_reducible first | assumption | lift_lets -underBinder | (intro x; refine (fun (hx : Dev.Holds kp x) => ?_) ?_; on_goal 2 => unfold x) | apply Dev.onWr_holds | apply Dev.condemn_holds | apply holds_ite | fail_if_no_progress (apply holds_upd <;> try rfl) | rfl | intro _ | split | dsimp +zetaDelta only)

theorem Dev.recordLimit_holds {kp : Keep} {d : Dev} (hk : d.Holds kp) (a : Act) : (d.recordLimit a).Holds kp := by
  unfold Dev.recordLimit; repeat' (with_reducible first | assumption | lift_lets -underBinder | (intro x; refine (fun (hx : Dev.Holds kp x) => ?_) ?_; on_goal 2 => unfold x) | apply Dev.onWr_holds | apply Dev.rescueZone_holds | apply holds_ite | fail_if_no_progress (apply holds_upd <;> try rfl) | rfl | intro _ | split | dsimp +zetaDelta only)

theorem Dev.writeFault_holds {kp : Keep} {d : Dev} (hk : d.Holds kp) (a : Act) (cause : Nat) : (d.writeFault a cause).Holds kp := by
  unfold Dev.writeFault; repeat' (with_reducible first | assumption | lift_lets -underBinder | (intro x; refine (fun (hx : Dev.Holds kp x) => ?_) ?_; on_goal 2 => unfold x) | apply Dev.closeWrite_holds | apply Dev.setF_holds | apply Dev.raiseEvt_holds | apply Dev.bumpF_holds | apply Dev.onBlk_holds | apply Dev.onWr_holds | apply Dev.recordLimit_holds | apply Dev.condemnCut_holds | apply holds_ite | fail_if_no_progress (apply holds_upd <;> try rfl) | rfl | intro _ | split | dsimp +zetaDelta only)

theorem Dev.inhibit_holds {kp : Keep} {d : Dev} (hk : d.Holds kp) (a : Act) (c : Nat) : (d.inhibit a c).Holds kp := by
  unfold Dev.inhibit; repeat' (with_reducible first | assumption | lift_lets -underBinder | (intro x; refine (fun (hx : Dev.Holds kp x) => ?_) ?_; on_goal 2 => unfold x) | apply Dev.onWr_holds | apply Dev.writeFault_holds | apply Dev.onBlk_holds | apply Dev.closeWrite_holds | apply holds_ite | fail_if_no_progress (apply holds_upd <;> try rfl) | rfl | intro _ | split | dsimp +zetaDelta only)

theorem Dev.release_holds {kp : Keep} {d : Dev} (hk : d.Holds kp) (a : Act) (c : Nat) : (d.release a c).Holds kp := by
  unfold Dev.release; repeat' (with_reducible first | assumption | lift_lets -underBinder | apply Dev.onWr_holds | apply holds_ite | fail_if_no_progress (apply holds_upd <;> try rfl) | rfl | intro _ | split)

theorem Dev.openWrite_holds {kp : Keep} {d : Dev} (hk : d.Holds kp) (a : Act) : (d.openWrite a).Holds kp := by
  unfold Dev.openWrite; repeat' (with_reducible first | assumption | lift_lets -underBinder | (intro x; refine (fun (hx : Dev.Holds kp x) => ?_) ?_; on_goal 2 => unfold x) | apply Dev.assistFault_holds | apply Dev.writeFault_holds | apply Dev.launch_holds | apply Dev.onBlk_holds | apply Dev.operateRamp_holds | apply holds_ite | fail_if_no_progress (apply holds_upd <;> try rfl) | rfl | intro _ | split | dsimp +zetaDelta only)

theorem Dev.openRead_holds {kp : Keep} {d : Dev} (hk : d.Holds kp) (a : Act) : (d.openRead a).Holds kp := by
  unfold Dev.openRead; repeat' (with_reducible first | assumption | lift_lets -underBinder | apply Dev.setF_holds | apply Dev.onBlk_holds | apply holds_ite | fail_if_no_progress (apply holds_upd <;> try rfl) | rfl | intro _ | split)

theorem Dev.selectHead_holds {kp : Keep} {d : Dev} (hk : d.Holds kp) (a : Act) (h : Nat) : (d.selectHead a h).Holds kp := by
  unfold Dev.selectHead; repeat' (with_reducible first | assumption | lift_lets -underBinder | (intro x; refine (fun (hx : Dev.Holds kp x) => ?_) ?_; on_goal 2 => unfold x) | apply Dev.laneOff_holds | apply Dev.onTnl_holds | apply Dev.launch_holds | apply holds_ite | fail_if_no_progress (apply holds_upd <;> try rfl) | rfl | intro _ | split | dsimp +zetaDelta only)

theorem Dev.emergencyPark_holds {kp : Keep} {d : Dev} (hk : d.Holds kp) (a : Act) : (d.emergencyPark a).Holds kp := by
  unfold Dev.emergencyPark; repeat' (with_reducible first | assumption | apply Dev.raiseEvt_holds | apply Dev.laneOff_holds | apply Dev.inhibit_holds | apply Dev.cutRead_holds)

theorem execHeater_holds {kp : Keep} {s : State} (hk : s.dev.Holds kp) (a : Act) (step : Nat) :
    ∃ d, execHeater a step s = s.next d ∧ d.Holds kp := by
  refine ⟨_, rfl, ?_⟩; repeat' (with_reducible first | assumption | apply State.dev_holds | apply Dev.heater_holds | apply holds_ite | intro _ | split)

theorem execBackOffStart_holds {kp : Keep} {s : State} (hk : s.dev.Holds kp) (a : Act) :
    ∃ d, execBackOffStart a s = s.next d ∧ d.Holds kp := by
  refine ⟨_, rfl, ?_⟩; repeat' (with_reducible first | assumption | lift_lets -underBinder | (intro x; refine (fun (hx : Dev.Holds kp x) => ?_) ?_; on_goal 2 => unfold x) | apply State.dev_holds | apply Dev.backOffStart_holds | apply holds_ite | fail_if_no_progress (apply holds_upd <;> try rfl) | rfl | intro _ | split | dsimp +zetaDelta only)

theorem execOperate_holds {kp : Keep} {s : State} (hk : s.dev.Holds kp) (a : Act) (gate : Bool) :
    ∃ d, execOperate a gate s = s.next d ∧ d.Holds kp := by
  refine ⟨_, rfl, ?_⟩; repeat' (with_reducible first | assumption | apply State.dev_holds | apply Dev.operateRamp_holds | apply Dev.operate_holds | apply holds_ite | intro _ | split)

theorem execAssistOff_holds {kp : Keep} {s : State} (hk : s.dev.Holds kp) (a : Act) :
    ∃ d, execAssistOff a s = s.next d ∧ d.Holds kp := by
  refine ⟨_, rfl, ?_⟩; repeat' (with_reducible first | assumption | apply State.dev_holds | apply Dev.laneOff_holds | apply holds_ite | intro _ | split)

theorem execUnwindStep_holds {kp : Keep} {s : State} (hk : s.dev.Holds kp) (a : Act) (head : Nat) :
    ∃ d, execUnwindStep a head s = s.next d ∧ d.Holds kp := by
  refine ⟨_, rfl, ?_⟩; repeat' (with_reducible first | assumption | apply Dev.unwindHead_holds | apply State.dev_holds)

theorem execAssistSelfOff_holds {kp : Keep} {s : State} (hk : s.dev.Holds kp) (a : Act) :
    ∃ d, execAssistSelfOff a s = s.next d ∧ d.Holds kp := by
  refine ⟨_, rfl, ?_⟩; repeat' (with_reducible first | assumption | lift_lets -underBinder | (intro x; refine (fun (hx : Dev.Holds kp x) => ?_) ?_; on_goal 2 => unfold x) | apply State.dev_holds | apply Dev.assistFault_holds | apply Dev.laneOff_holds | apply holds_ite | intro _ | split | dsimp +zetaDelta only)

theorem Dev.laneFault_holds {kp : Keep} {d : Dev} (hk : d.Holds kp) (a : Act) (kind : Nat) : (d.laneFault a kind).Holds kp := by
  unfold Dev.laneFault; repeat' (with_reducible first | assumption | lift_lets -underBinder | (intro x; refine (fun (hx : Dev.Holds kp x) => ?_) ?_; on_goal 2 => unfold x) | apply Dev.laneOff_holds | apply Dev.assistFault_holds | apply Dev.writeFault_holds | apply holds_ite | intro _ | split | dsimp +zetaDelta only)

theorem execAssistIlimLimit_holds {kp : Keep} {s : State} (hk : s.dev.Holds kp) (a : Act) :
    ∃ d, execAssistIlimLimit a s = s.next d ∧ d.Holds kp := by
  refine ⟨_, rfl, ?_⟩; repeat' (with_reducible first | assumption | lift_lets -underBinder | apply State.dev_holds | apply Dev.onAssist_holds | apply Dev.laneFault_holds | apply holds_ite | fail_if_no_progress (apply holds_upd <;> try rfl) | rfl | intro _ | split)

theorem Dev.tempFrame_holds {kp : Keep} {d : Dev} (hk : d.Holds kp) (a : Act) (nft : Nat) : (d.tempFrame a nft).Holds kp := by
  unfold Dev.tempFrame; repeat' (with_reducible first | assumption | lift_lets -underBinder | (intro x; refine (fun (hx : Dev.Holds kp x) => ?_) ?_; on_goal 2 => unfold x) | apply Dev.onAssist_holds | apply Dev.setF_holds | apply Dev.onWr_holds | apply Dev.bumpF_holds | apply holds_ite | fail_if_no_progress (apply holds_upd <;> try rfl) | rfl | intro _ | split | dsimp +zetaDelta only)

theorem execTemperatureFrame_holds {kp : Keep} {s : State} (hk : s.dev.Holds kp) (a : Act) (nft : Nat) :
    ∃ d, execTemperatureFrame a nft s = s.next d ∧ d.Holds kp := by
  refine ⟨_, rfl, ?_⟩; repeat' (with_reducible first | assumption | apply Dev.tempFrame_holds | apply State.dev_holds)

theorem execTemperatureFrameLost_holds {kp : Keep} {s : State} (hk : s.dev.Holds kp) (a : Act) :
    ∃ d, execTemperatureFrameLost a s = s.next d ∧ d.Holds kp := by
  refine ⟨_, rfl, ?_⟩; repeat' (with_reducible first | assumption | lift_lets -underBinder | (intro x; refine (fun (hx : Dev.Holds kp x) => ?_) ?_; on_goal 2 => unfold x) | apply State.dev_holds | apply Dev.onAssist_holds | apply Dev.bumpF_holds | apply Dev.laneFault_holds | apply holds_ite | fail_if_no_progress (apply holds_upd <;> try rfl) | rfl | intro _ | split | dsimp +zetaDelta only)

theorem Dev.age_holds {kp : Keep} {d : Dev} (hk : d.Holds kp) (a : Act) (h : Nat) : (d.age a h).Holds kp := by
  unfold Dev.age; repeat' (with_reducible first | assumption | lift_lets -underBinder | (intro x; refine (fun (hx : Dev.Holds kp x) => ?_) ?_; on_goal 2 => unfold x) | apply Dev.onAssist_holds | apply Dev.event_holds | apply Dev.bumpF_holds | apply Dev.onWr_holds | apply holds_ite | fail_if_no_progress (apply holds_upd <;> try rfl) | rfl | intro _ | split | dsimp +zetaDelta only)

theorem execAgingCompensation_holds {kp : Keep} {s : State} (hk : s.dev.Holds kp) (a : Act) (head : Nat) :
    ∃ d, execAgingCompensation a head s = s.next d ∧ d.Holds kp := by
  refine ⟨_, rfl, ?_⟩; repeat' (with_reducible first | assumption | apply State.dev_holds | apply Dev.age_holds | apply holds_ite | intro _ | split)

theorem Dev.healthUpdate_holds {kp : Keep} {d : Dev} (hk : d.Holds kp) (a : Act) (h : Nat) : (d.healthUpdate a h).Holds kp := by
  unfold Dev.healthUpdate; repeat' (with_reducible first | assumption | lift_lets -underBinder | (intro x; refine (fun (hx : Dev.Holds kp x) => ?_) ?_; on_goal 2 => unfold x) | apply Dev.setF_holds | apply Dev.raiseAll_holds | apply Dev.headFailing_holds | apply holds_ite | intro _ | split | dsimp +zetaDelta only)

theorem execHeadHealthUpdate_holds {kp : Keep} {s : State} (hk : s.dev.Holds kp) (a : Act) (head : Nat) :
    ∃ d, execHeadHealthUpdate a head s = s.next d ∧ d.Holds kp := by
  refine ⟨_, rfl, ?_⟩; repeat' (with_reducible first | assumption | apply State.dev_holds | apply Dev.healthUpdate_holds | apply holds_ite | intro _ | split)

end Sys2Proof.Machine
end

