-- ==== Sys2Proof/Laws/Holds/Detect.lean ====
section
/-! SUPPORT. The operations of Machine/Detect.lean carry `Dev.Holds`. -/

namespace Sys2Proof.Machine

set_option linter.unusedTactic false
set_option linter.unreachableTactic false

theorem execHoldSamples_holds {kp : Keep} {s : State} (hk : s.dev.Holds kp) (a : Act) :
    ∃ d, execHoldSamples a s = s.next d ∧ d.Holds kp := by
  refine ⟨_, rfl, ?_⟩; repeat' (with_reducible first | assumption | apply Dev.onDet_holds | apply State.dev_holds)

theorem Dev.setDecode_holds {kp : Keep} {d : Dev} (hk : d.Holds kp) (a : Act) (w : Word) : (d.setDecode a w).Holds kp := by
  unfold Dev.setDecode; repeat' (with_reducible first | assumption | lift_lets -underBinder | apply Dev.onBlk_holds | fail_if_no_progress (apply holds_upd <;> try rfl) | rfl | intro _)

theorem Dev.outcome_holds {kp : Keep} {d : Dev} (hk : d.Holds kp) (a : Act) (r : LadderRec) (w : Word) : (d.outcome a r w).Holds kp := by
  unfold Dev.outcome; repeat' (with_reducible first | assumption | lift_lets -underBinder | (intro x; refine (fun (hx : Dev.Holds kp x) => ?_) ?_; on_goal 2 => unfold x) | apply Dev.onDet_holds | apply Dev.setDecode_holds | apply Dev.onBlk_holds | apply holds_ite | fail_if_no_progress (apply holds_upd <;> try rfl) | rfl | intro _ | split | dsimp +zetaDelta only)

theorem Dev.keyEvent_holds {kp : Keep} {d : Dev} (hk : d.Holds kp) (m : MediaRec) : (d.keyEvent m).Holds kp := by
  unfold Dev.keyEvent; repeat' (with_reducible first | assumption | apply Dev.event_holds | apply Dev.bumpF_holds | apply holds_ite | intro _ | split)

theorem Dev.noteRead_holds {kp : Keep} {d : Dev} (hk : d.Holds kp) (a : Act) (band : Nat) (deep : Bool) : (d.noteRead a band deep).Holds kp := by
  unfold Dev.noteRead; repeat' (with_reducible first | assumption | lift_lets -underBinder | (intro x; refine (fun (hx : Dev.Holds kp x) => ?_) ?_; on_goal 2 => unfold x) | apply Dev.onWr_holds | fail_if_no_progress (apply holds_upd <;> try rfl) | rfl | intro _ | dsimp +zetaDelta only)

theorem Dev.deliverRec_holds {kp : Keep} {d : Dev} (hk : d.Holds kp) (a : Act) (r : LadderRec) (rung oc poison : Nat) (e : DecodeEnd) : (d.deliverRec a r rung oc poison e).Holds kp := by
  unfold Dev.deliverRec; repeat' (with_reducible first | assumption | lift_lets -underBinder | (intro x; refine (fun (hx : Dev.Holds kp x) => ?_) ?_; on_goal 2 => unfold x) | apply Dev.bumpF_holds | apply Dev.keyEvent_holds | apply Dev.noteRead_holds | apply Dev.outcome_holds | apply Dev.pendSlip_holds | apply Dev.deliver_holds | apply holds_ite | fail_if_no_progress (apply holds_upd <;> try rfl) | rfl | intro _ | split | dsimp +zetaDelta only)

theorem Dev.unrecovered_holds {kp : Keep} {d : Dev} (hk : d.Holds kp) (a : Act) (r : LadderRec) : (d.unrecovered a r).Holds kp := by
  unfold Dev.unrecovered; repeat' (with_reducible first | assumption | lift_lets -underBinder | (intro x; refine (fun (hx : Dev.Holds kp x) => ?_) ?_; on_goal 2 => unfold x) | apply Dev.event_holds | apply Dev.bumpF_holds | apply Dev.deliver_holds | apply Dev.outcome_holds | intro _ | dsimp +zetaDelta only)

theorem Dev.leaveRung_holds {kp : Keep} {d : Dev} (hk : d.Holds kp) (a : Act) (r : LadderRec) : (d.leaveRung a r).Holds kp := by
  unfold Dev.leaveRung; repeat' (with_reducible first | assumption | lift_lets -underBinder | apply Dev.onDet_holds | apply Dev.heater_holds | apply holds_ite | fail_if_no_progress (apply holds_upd <;> try rfl) | rfl | intro _ | split)

theorem Dev.enterRung_holds {kp : Keep} {d : Dev} (hk : d.Holds kp) (a : Act) (r : LadderRec) (rung : Nat) : (d.enterRung a r rung).Holds kp := by
  unfold Dev.enterRung; repeat' (with_reducible first | assumption | lift_lets -underBinder | (intro x; refine (fun (hx : Dev.Holds kp x) => ?_) ?_; on_goal 2 => unfold x) | apply Dev.setDecode_holds | apply Dev.onDet_holds | apply Dev.raiseEvt_holds | apply Dev.unrecovered_holds | apply Dev.askRecord_holds | apply holds_ite | fail_if_no_progress (apply holds_upd <;> try rfl) | rfl | intro _ | split | dsimp +zetaDelta only)

theorem Dev.nextLadder_holds {kp : Keep}  (x0 : Nat) : ∀ {d : Dev} (hk : d.Holds kp) (a : Act), (d.nextLadder a x0).Holds kp := by
  induction x0 with
  | zero =>
    intro d hk a; unfold Dev.nextLadder; repeat' (with_reducible first | assumption | lift_lets -underBinder | (intro x; refine (fun (hx : Dev.Holds kp x) => ?_) ?_; on_goal 2 => unfold x) | apply ih | apply Dev.onDet_holds | apply Dev.unrecovered_holds | apply Dev.enterRung_holds | apply holds_ite | fail_if_no_progress (apply holds_upd <;> try rfl) | rfl | intro _ | split | dsimp +zetaDelta only)
  | succ n ih =>
    intro d hk a; unfold Dev.nextLadder; repeat' (with_reducible first | assumption | lift_lets -underBinder | (intro x; refine (fun (hx : Dev.Holds kp x) => ?_) ?_; on_goal 2 => unfold x) | apply ih | apply Dev.onDet_holds | apply Dev.unrecovered_holds | apply Dev.enterRung_holds | apply holds_ite | fail_if_no_progress (apply holds_upd <;> try rfl) | rfl | intro _ | split | dsimp +zetaDelta only)

theorem Dev.ladderFree_holds {kp : Keep} {d : Dev} (hk : d.Holds kp) (a : Act) : (d.ladderFree a).Holds kp := by
  unfold Dev.ladderFree; repeat' (with_reducible first | assumption | lift_lets -underBinder | (intro x; refine (fun (hx : Dev.Holds kp x) => ?_) ?_; on_goal 2 => unfold x) | apply Dev.onDet_holds | apply Dev.nextLadder_holds | fail_if_no_progress (apply holds_upd <;> try rfl) | rfl | intro _ | dsimp +zetaDelta only)

theorem Dev.ladderOn_holds {kp : Keep} {d : Dev} (hk : d.Holds kp) (a : Act) (r : LadderRec) : (d.ladderOn a r).Holds kp := by
  unfold Dev.ladderOn; repeat' (with_reducible first | assumption | lift_lets -underBinder | (intro x; refine (fun (hx : Dev.Holds kp x) => ?_) ?_; on_goal 2 => unfold x) | apply Dev.onDet_holds | apply Dev.leaveRung_holds | apply Dev.ladderFree_holds | apply Dev.unrecovered_holds | apply Dev.enterRung_holds | apply holds_ite | fail_if_no_progress (apply holds_upd <;> try rfl) | rfl | intro _ | split | dsimp +zetaDelta only)

theorem Dev.failRung0_holds {kp : Keep} {d : Dev} (hk : d.Holds kp) (a : Act) (r : LadderRec) : (d.failRung0 a r).Holds kp := by
  unfold Dev.failRung0; repeat' (with_reducible first | assumption | lift_lets -underBinder | (intro x; refine (fun (hx : Dev.Holds kp x) => ?_) ?_; on_goal 2 => unfold x) | apply Dev.onBlk_holds | apply Dev.onDet_holds | apply Dev.bumpF_holds | apply Dev.unrecovered_holds | apply Dev.event_holds | apply Dev.enterRung_holds | apply Dev.ladderFree_holds | apply holds_ite | fail_if_no_progress (apply holds_upd <;> try rfl) | rfl | intro _ | split | dsimp +zetaDelta only)

theorem execDecodeStart_holds {kp : Keep} {s : State} (hk : s.dev.Holds kp) (a : Act) :
    ∃ d, execDecodeStart a s = s.next d ∧ d.Holds kp := by
  refine ⟨_, rfl, ?_⟩; repeat' (with_reducible first | assumption | apply Dev.onDet_holds | apply State.dev_holds)

theorem Dev.secondEnds_holds {kp : Keep} {d : Dev} (hk : d.Holds kp) (a : Act) (r : LadderRec) (okay : Bool) (e : DecodeEnd) : (d.secondEnds a r okay e).Holds kp := by
  unfold Dev.secondEnds; repeat' (with_reducible first | assumption | lift_lets -underBinder | (intro x; refine (fun (hx : Dev.Holds kp x) => ?_) ?_; on_goal 2 => unfold x) | apply Dev.onDet_holds | apply Dev.outcome_holds | apply Dev.bumpF_holds | apply Dev.askConvWrite_holds | apply Dev.markStale_holds | apply Dev.event_holds | apply holds_ite | fail_if_no_progress (apply holds_upd <;> try rfl) | rfl | intro _ | split | dsimp +zetaDelta only)

theorem Dev.contribute_holds {kp : Keep} {d : Dev} (hk : d.Holds kp) (a : Act) (r : LadderRec) : (d.contribute a r).Holds kp := by
  unfold Dev.contribute; repeat' (with_reducible first | assumption | lift_lets -underBinder | (intro x; refine (fun (hx : Dev.Holds kp x) => ?_) ?_; on_goal 2 => unfold x) | apply Dev.setF_holds | apply holds_ite | intro _ | split | dsimp +zetaDelta only)

theorem Dev.decodeDone_holds {kp : Keep} {d : Dev} (hk : d.Holds kp) (a : Act) (tag slot : Nat) (e : DecodeEnd) : (d.decodeDone a tag slot e).Holds kp := by
  unfold Dev.decodeDone; repeat' (with_reducible first | assumption | lift_lets -underBinder | (intro x; refine (fun (hx : Dev.Holds kp x) => ?_) ?_; on_goal 2 => unfold x) | apply Dev.onDet_holds | apply Dev.secondEnds_holds | apply Dev.deliverRec_holds | apply Dev.contribute_holds | apply Dev.ladderFree_holds | apply Dev.leaveRung_holds | apply Dev.failRung0_holds | apply Dev.ladderOn_holds | apply holds_ite | fail_if_no_progress (apply holds_upd <;> try rfl) | rfl | intro _ | split | dsimp +zetaDelta only)

theorem execDecodeDone_holds {kp : Keep} {s : State} (hk : s.dev.Holds kp) (hr : kp.recs = none) (a : Act) (tag slot : Nat) (e : DecodeEnd) :
    ∃ d, execDecodeDone a tag slot e s = s.next d ∧ d.Holds kp := by
  refine ⟨_, rfl, ?_⟩; repeat' (with_reducible first | assumption | apply Dev.settle_holds | apply Dev.decodeDone_holds | apply State.dev_holds)

theorem execRungCostElapsed_holds {kp : Keep} {s : State} (hk : s.dev.Holds kp) (hr : kp.recs = none) (a : Act) :
    ∃ d, execRungCostElapsed a s = s.next d ∧ d.Holds kp := by
  refine ⟨_, rfl, ?_⟩; repeat' (with_reducible first | assumption | lift_lets -underBinder | apply State.dev_holds | apply Dev.settle_holds | apply Dev.ladderOn_holds | fail_if_no_progress (apply holds_upd <;> try rfl) | rfl | intro _ | split)

theorem Dev.reconstruct_holds {kp : Keep} {d : Dev} (hk : d.Holds kp) (a : Act) (r : LadderRec) (o : SourceReads) : (d.reconstruct a r o).Holds kp := by
  unfold Dev.reconstruct; repeat' (with_reducible first | assumption | lift_lets -underBinder | (intro x; refine (fun (hx : Dev.Holds kp x) => ?_) ?_; on_goal 2 => unfold x) | apply Dev.onDet_holds | apply Dev.bumpF_holds | apply Dev.deliverRec_holds | apply Dev.unrecovered_holds | apply Dev.reconFailed_holds | fail_if_no_progress (apply holds_upd <;> try rfl) | rfl | intro _ | split | dsimp +zetaDelta only)

theorem execReconstruction_holds {kp : Keep} {s : State} (hk : s.dev.Holds kp) (hr : kp.recs = none) (a : Act) (tag : Nat) (o : SourceReads) :
    ∃ d, execReconstruction a tag o s = s.next d ∧ d.Holds kp := by
  refine ⟨_, rfl, ?_⟩; repeat' (with_reducible first | assumption | lift_lets -underBinder | apply State.dev_holds | apply Dev.settle_holds | apply Dev.reconstruct_holds | fail_if_no_progress (apply holds_upd <;> try rfl) | rfl | intro _ | split)

theorem Dev.reconBoundEnds_holds {kp : Keep} {d : Dev} (hk : d.Holds kp) (a : Act) (tag : Nat) : (d.reconBoundEnds a tag).Holds kp := by
  unfold Dev.reconBoundEnds; repeat' (with_reducible first | assumption | lift_lets -underBinder | (intro x; refine (fun (hx : Dev.Holds kp x) => ?_) ?_; on_goal 2 => unfold x) | apply Dev.onDet_holds | apply Dev.unrecovered_holds | apply Dev.reconFailed_holds | apply Dev.deliver_holds | fail_if_no_progress (apply holds_upd <;> try rfl) | rfl | intro _ | split | dsimp +zetaDelta only)

theorem execReconstructionBound_holds {kp : Keep} {s : State} (hk : s.dev.Holds kp) (hr : kp.recs = none) (a : Act) (tag : Nat) :
    ∃ d, execReconstructionBound a tag s = s.next d ∧ d.Holds kp := by
  refine ⟨_, rfl, ?_⟩; repeat' (with_reducible first | assumption | apply Dev.settle_holds | apply Dev.reconBoundEnds_holds | apply State.dev_holds)

theorem Dev.withdrawLadder_holds {kp : Keep} {d : Dev} (hk : d.Holds kp) (a : Act) (tag : Nat) : (d.withdrawLadder a tag).Holds kp := by
  unfold Dev.withdrawLadder; repeat' (with_reducible first | assumption | refine holds_foldl (fun _ _ _ => ?_) _ ?_ | refine holds_foldl_fst (fun _ _ _ => ?_) _ ?_ | refine holds_foldl_snd (fun _ _ _ => ?_) _ ?_ | lift_lets -underBinder | (intro x; refine (fun (hx : Dev.Holds kp x) => ?_) ?_; on_goal 2 => unfold x) | apply Dev.onDet_holds | apply Dev.outcome_holds | apply Dev.ladderFree_holds | apply Dev.leaveRung_holds | apply holds_ite | fail_if_no_progress (apply holds_upd <;> try rfl) | rfl | intro _ | split | dsimp +zetaDelta only)

end Sys2Proof.Machine
end

