-- ==== Sys2Proof/Laws/Holds/Tenil.lean ====
section
/-! SUPPORT. The operations of Machine/Tenil.lean carry `Dev.Holds`. -/

namespace Sys2Proof.Machine

set_option linter.unusedTactic false
set_option linter.unreachableTactic false

theorem Dev.faultEnds_holds {kp : Keep} {d : Dev} (hk : d.Holds kp) (a : Act) : (d.faultEnds a).Holds kp := by
  unfold Dev.faultEnds; repeat' (with_reducible first | assumption | apply Dev.release_holds | apply holds_ite | intro _ | split)

theorem Dev.paWrite_holds {kp : Keep} {d : Dev} (hk : d.Holds kp) (a : Act) (addr data : Nat) : (d.paWrite a addr data).Holds kp := by
  unfold Dev.paWrite; repeat' (with_reducible first | assumption | apply Dev.faultEnds_holds | apply Dev.setPaF_holds | apply Dev.setPa_holds | apply Dev.tookFree_holds | apply holds_ite | intro _ | split)

theorem Dev.paRead_holds {kp : Keep} {d : Dev} (hk : d.Holds kp) (a : Act) (addr : Nat) : (d.paRead a addr).2.Holds kp := by
  unfold Dev.paRead; repeat' (with_reducible first | assumption | apply Dev.tookFree_holds | apply Dev.setPa_holds | apply holds_ite | intro _ | split)

theorem Dev.paAnswer_holds {kp : Keep} {d : Dev} (hk : d.Holds kp) (a : Act) (r : CtlReq) : (d.paAnswer a r).2.2.Holds kp := by
  unfold Dev.paAnswer; repeat' (with_reducible first | assumption | lift_lets -underBinder | (intro x; refine (fun (hx : Dev.Holds kp x) => ?_) ?_; on_goal 2 => unfold x) | apply Dev.paRead_holds | apply Dev.paWrite_holds | apply holds_ite | intro _ | split | dsimp +zetaDelta only)

theorem Dev.failLink_holds {kp : Keep} {d : Dev} (hk : d.Holds kp) (a : Act) : (d.failLink a).Holds kp := by
  unfold Dev.failLink; repeat' (with_reducible first | assumption | apply Dev.reportFault_holds | apply Dev.closeWrite_holds | apply Dev.setF_holds)

theorem Dev.quietPreamp_holds {kp : Keep} {d : Dev} (hk : d.Holds kp) (a : Act) : (d.quietPreamp a).Holds kp := by
  unfold Dev.quietPreamp; repeat' (with_reducible first | assumption | refine holds_foldl (fun _ _ _ => ?_) _ ?_ | refine holds_foldl_snd (fun _ _ _ => ?_) _ ?_ | lift_lets -underBinder | (intro x; refine (fun (hx : Dev.Holds kp x) => ?_) ?_; on_goal 2 => unfold x) | apply Dev.launch_holds | apply Dev.closeWrite_holds | apply Dev.sendGroups_holds | apply Dev.onWr_holds | fail_if_no_progress (apply holds_upd <;> try rfl) | rfl | intro _ | dsimp +zetaDelta only)

theorem Dev.train_holds {kp : Keep} {d : Dev} (hk : d.Holds kp) (a : Act) (o : Training) : (d.train a o).Holds kp := by
  unfold Dev.train; repeat' (with_reducible first | assumption | lift_lets -underBinder | (intro x; refine (fun (hx : Dev.Holds kp x) => ?_) ?_; on_goal 2 => unfold x) | apply Dev.setF_holds | apply Dev.quietPreamp_holds | apply Dev.onTnl_holds | apply Dev.setPa_holds | apply Dev.failLink_holds | apply holds_ite | fail_if_no_progress (apply holds_upd <;> try rfl) | rfl | intro _ | split | dsimp +zetaDelta only)

theorem Dev.retrain_holds {kp : Keep} {d : Dev} (hk : d.Holds kp) (a : Act) (o : Training) : (d.retrain a o).Holds kp := by
  unfold Dev.retrain; repeat' (with_reducible first | assumption | lift_lets -underBinder | (intro x; refine (fun (hx : Dev.Holds kp x) => ?_) ?_; on_goal 2 => unfold x) | apply Dev.onTnl_holds | apply Dev.bumpF_holds | apply Dev.failLink_holds | apply Dev.train_holds | apply holds_ite | fail_if_no_progress (apply holds_upd <;> try rfl) | rfl | intro _ | split | dsimp +zetaDelta only)

theorem Dev.latchCauses_holds {kp : Keep} {d : Dev} (hk : d.Holds kp) (a : Act) (c : Nat) : (d.latchCauses a c).Holds kp := by
  unfold Dev.latchCauses; repeat' (with_reducible first | assumption | lift_lets -underBinder | (intro x; refine (fun (hx : Dev.Holds kp x) => ?_) ?_; on_goal 2 => unfold x) | apply Dev.setF_holds | apply Dev.event_holds | apply Dev.bumpF_holds | apply holds_ite | intro _ | split | dsimp +zetaDelta only)

theorem Dev.restoreHead_holds {kp : Keep} {d : Dev} (hk : d.Holds kp) (a : Act) : (d.restoreHead a).Holds kp := by
  unfold Dev.restoreHead; repeat' (with_reducible first | assumption | refine holds_foldl (fun _ _ _ => ?_) _ ?_ | refine holds_foldl_snd (fun _ _ _ => ?_) _ ?_ | lift_lets -underBinder | (intro x; refine (fun (hx : Dev.Holds kp x) => ?_) ?_; on_goal 2 => unfold x) | apply Dev.launch_holds | apply Dev.sendGroups_holds | intro _ | dsimp +zetaDelta only)

theorem Dev.preampActs_holds {kp : Keep} {d : Dev} (hk : d.Holds kp) (a : Act) (c : Nat) : (d.preampActs a c).Holds kp := by
  unfold Dev.preampActs; repeat' (with_reducible first | assumption | lift_lets -underBinder | (intro x; refine (fun (hx : Dev.Holds kp x) => ?_) ?_; on_goal 2 => unfold x) | apply Dev.setPaF_holds | apply holds_ite | intro _ | split | dsimp +zetaDelta only)

theorem Dev.faultLine_holds {kp : Keep} {d : Dev} (hk : d.Holds kp) (a : Act) (causes persist : Nat) (o : Training) : (d.faultLine a causes persist o).Holds kp := by
  unfold Dev.faultLine; repeat' (with_reducible first | assumption | lift_lets -underBinder | (intro x; refine (fun (hx : Dev.Holds kp x) => ?_) ?_; on_goal 2 => unfold x) | apply Dev.setF_holds | apply Dev.onTnl_holds | apply Dev.preampActs_holds | apply Dev.latchCauses_holds | apply Dev.inhibit_holds | apply Dev.laneOff_holds | apply Dev.setPaF_holds | apply Dev.paWrite_holds | apply Dev.restoreHead_holds | apply Dev.retrain_holds | apply holds_ite | fail_if_no_progress (apply holds_upd <;> try rfl) | rfl | intro _ | split | dsimp +zetaDelta only)

theorem execFaultLine_holds {kp : Keep} {s : State} (hk : s.dev.Holds kp) (a : Act) (causes persist : Nat) (o : Training) :
    ∃ d, execFaultLine a causes persist o s = s.next d ∧ d.Holds kp := by
  refine ⟨_, rfl, ?_⟩; repeat' (with_reducible first | assumption | apply State.dev_holds | apply Dev.faultLine_holds | apply holds_ite | intro _ | split)

theorem execFaultLineRelease_holds {kp : Keep} {s : State} (hk : s.dev.Holds kp) (a : Act) :
    ∃ d, execFaultLineRelease a s = s.next d ∧ d.Holds kp := by
  refine ⟨_, rfl, ?_⟩; repeat' (with_reducible first | assumption | lift_lets -underBinder | (intro x; refine (fun (hx : Dev.Holds kp x) => ?_) ?_; on_goal 2 => unfold x) | apply State.dev_holds | apply Dev.faultEnds_holds | apply Dev.setF_holds | apply Dev.onTnl_holds | apply holds_ite | fail_if_no_progress (apply holds_upd <;> try rfl) | rfl | intro _ | split | dsimp +zetaDelta only)

theorem execFaultLineStuck_holds {kp : Keep} {s : State} (hk : s.dev.Holds kp) (a : Act) :
    ∃ d, execFaultLineStuck a s = s.next d ∧ d.Holds kp := by
  refine ⟨_, rfl, ?_⟩; repeat' (with_reducible first | assumption | lift_lets -underBinder | (intro x; refine (fun (hx : Dev.Holds kp x) => ?_) ?_; on_goal 2 => unfold x) | apply State.dev_holds | apply Dev.failLink_holds | apply holds_ite | intro _ | split | dsimp +zetaDelta only)

theorem Dev.askCtl_holds {kp : Keep} {d : Dev} (hk : d.Holds kp) (a : Act) (r : CtlReq) : (d.askCtl a r).Holds kp := by
  unfold Dev.askCtl; repeat' (with_reducible first | assumption | lift_lets -underBinder | apply Dev.onTnl_holds | fail_if_no_progress (apply holds_upd <;> try rfl) | rfl | intro _)

theorem Dev.askStatus_holds {kp : Keep} {d : Dev} (hk : d.Holds kp) (a : Act) : (d.askStatus a).Holds kp := by
  unfold Dev.askStatus; repeat' (with_reducible first | assumption | lift_lets -underBinder | (intro x; refine (fun (hx : Dev.Holds kp x) => ?_) ?_; on_goal 2 => unfold x) | apply Dev.askCtl_holds | apply holds_ite | intro _ | split | dsimp +zetaDelta only)

theorem Dev.sendWriteRecord_holds {kp : Keep} {d : Dev} (hk : d.Holds kp) (a : Act) : (d.sendWriteRecord a).Holds kp := by
  unfold Dev.sendWriteRecord; repeat' (with_reducible first | assumption | lift_lets -underBinder | (intro x; refine (fun (hx : Dev.Holds kp x) => ?_) ?_; on_goal 2 => unfold x) | apply Dev.askCtl_holds | intro _ | dsimp +zetaDelta only)

theorem Dev.armPreBias_holds {kp : Keep} {d : Dev} (hk : d.Holds kp) (a : Act) : (d.armPreBias a).Holds kp := by
  unfold Dev.armPreBias; repeat' (with_reducible first | assumption | lift_lets -underBinder | (intro x; refine (fun (hx : Dev.Holds kp x) => ?_) ?_; on_goal 2 => unfold x) | apply Dev.askCtl_holds | apply holds_ite | intro _ | split | dsimp +zetaDelta only)

theorem Dev.preBiasAt_holds {kp : Keep} {d : Dev} (hk : d.Holds kp) (a : Act) (f : Fetch) : (d.preBiasAt a f).Holds kp := by
  unfold Dev.preBiasAt; repeat' (with_reducible first | assumption | lift_lets -underBinder | apply Dev.onTnl_holds | apply Dev.preBias_holds | apply holds_ite | fail_if_no_progress (apply holds_upd <;> try rfl) | rfl | intro _ | split)

theorem Dev.preBiasFree_holds {kp : Keep} {d : Dev} (hk : d.Holds kp) (a : Act) : (d.preBiasFree a).Holds kp := by
  unfold Dev.preBiasFree; repeat' (with_reducible first | assumption | lift_lets -underBinder | apply Dev.preBias_holds | apply Dev.onTnl_holds | fail_if_no_progress (apply holds_upd <;> try rfl) | rfl | intro _ | split)

theorem execPreBias_holds {kp : Keep} {s : State} (hk : s.dev.Holds kp) (a : Act) (f : Fetch) :
    ∃ d, execPreBias a f s = s.next d ∧ d.Holds kp := by
  refine ⟨_, rfl, ?_⟩; repeat' (with_reducible first | assumption | apply State.dev_holds | apply Dev.preBiasAt_holds | apply holds_ite | intro _ | split)

theorem Dev.startCtl_holds {kp : Keep} {d : Dev} (hk : d.Holds kp) (a : Act) : (d.startCtl a).Holds kp := by
  unfold Dev.startCtl; repeat' (with_reducible first | assumption | lift_lets -underBinder | (intro x; refine (fun (hx : Dev.Holds kp x) => ?_) ?_; on_goal 2 => unfold x) | apply Dev.onTnl_holds | apply holds_ite | fail_if_no_progress (apply holds_upd <;> try rfl) | rfl | intro _ | split | dsimp +zetaDelta only)

theorem execControlRequest_holds {kp : Keep} {s : State} (hk : s.dev.Holds kp) (a : Act) :
    ∃ d, execControlRequest a s = s.next d ∧ d.Holds kp := by
  refine ⟨_, rfl, ?_⟩; repeat' (with_reducible first | assumption | apply Dev.startCtl_holds | apply State.dev_holds)

theorem Dev.passResult_holds {kp : Keep} {d : Dev} (hk : d.Holds kp) (a : Act) (r : CtlReq) (status data : Nat) : (d.passResult a r status data).Holds kp := by
  unfold Dev.passResult; repeat' (with_reducible first | assumption | apply Dev.setReg_holds | apply holds_ite | intro _ | split)

theorem Dev.ctlFailed_holds {kp : Keep} {d : Dev} (hk : d.Holds kp) (a : Act) (r : CtlReq) (status : Nat) (o : Training) : (d.ctlFailed a r status o).Holds kp := by
  unfold Dev.ctlFailed; repeat' (with_reducible first | assumption | lift_lets -underBinder | (intro x; refine (fun (hx : Dev.Holds kp x) => ?_) ?_; on_goal 2 => unfold x) | apply Dev.onTnl_holds | apply Dev.passResult_holds | apply Dev.retrain_holds | apply holds_ite | fail_if_no_progress (apply holds_upd <;> try rfl) | rfl | intro _ | split | dsimp +zetaDelta only)

theorem Dev.ctlDone_holds {kp : Keep} {d : Dev} (hk : d.Holds kp) (a : Act) (r : CtlReq) (o : Training) : (d.ctlDone a r o).Holds kp := by
  unfold Dev.ctlDone; repeat' (with_reducible first | assumption | lift_lets -underBinder | (intro x; refine (fun (hx : Dev.Holds kp x) => ?_) ?_; on_goal 2 => unfold x) | apply Dev.paAnswer_holds | apply Dev.onTnl_holds | apply Dev.passResult_holds | apply Dev.askStatus_holds | apply Dev.paWrite_holds | apply Dev.latchCauses_holds | apply Dev.retrain_holds | apply Dev.inhibit_holds | apply Dev.preBiasFree_holds | apply holds_ite | fail_if_no_progress (apply holds_upd <;> try rfl) | rfl | intro _ | split | dsimp +zetaDelta only)

theorem Dev.ctlResponse_holds {kp : Keep} {d : Dev} (hk : d.Holds kp) (a : Act) (w : Wire) (o : Training) : (d.ctlResponse a w o).Holds kp := by
  unfold Dev.ctlResponse; repeat' (with_reducible first | assumption | lift_lets -underBinder | (intro x; refine (fun (hx : Dev.Holds kp x) => ?_) ?_; on_goal 2 => unfold x) | apply Dev.bumpF_holds | apply Dev.ctlDone_holds | apply Dev.ctlFailed_holds | apply Dev.setPaF_holds | apply Dev.paAnswer_holds | fail_if_no_progress (apply holds_upd <;> try rfl) | rfl | intro _ | split | dsimp +zetaDelta only)

theorem execControlResponse_holds {kp : Keep} {s : State} (hk : s.dev.Holds kp) (a : Act) (w : Wire) (o : Training) :
    ∃ d, execControlResponse a w o s = s.next d ∧ d.Holds kp := by
  refine ⟨_, rfl, ?_⟩; repeat' (with_reducible first | assumption | apply Dev.ctlResponse_holds | apply State.dev_holds)

theorem execResponseLost_holds {kp : Keep} {s : State} (hk : s.dev.Holds kp) (a : Act) (o : Training) :
    ∃ d, execResponseLost a o s = s.next d ∧ d.Holds kp := by
  refine ⟨_, rfl, ?_⟩; repeat' (with_reducible first | assumption | lift_lets -underBinder | apply State.dev_holds | apply Dev.ctlFailed_holds | apply Dev.bumpF_holds | fail_if_no_progress (apply holds_upd <;> try rfl) | rfl | intro _ | split)

theorem Dev.passAccess_holds {kp : Keep} {d : Dev} (hk : d.Holds kp) (a : Act) (w : Word) : (d.passAccess a w).Holds kp := by
  unfold Dev.passAccess; repeat' (with_reducible first | assumption | lift_lets -underBinder | (intro x; refine (fun (hx : Dev.Holds kp x) => ?_) ?_; on_goal 2 => unfold x) | apply Dev.setReg_holds | apply Dev.setF_holds | apply Dev.askCtl_holds | intro _ | dsimp +zetaDelta only)

theorem execPaAccGo_holds {kp : Keep} {s : State} (hk : s.dev.Holds kp) (a : Act) (w : Word) :
    ∃ d, execPaAccGo a w s = s.next d ∧ d.Holds kp := by
  refine ⟨_, rfl, ?_⟩; repeat' (with_reducible first | assumption | lift_lets -underBinder | (intro x; refine (fun (hx : Dev.Holds kp x) => ?_) ?_; on_goal 2 => unfold x) | apply State.dev_holds | apply Dev.absentWrite_holds | apply Dev.passAccess_holds | apply Dev.ignoredWrite_holds | apply holds_ite | intro _ | split | dsimp +zetaDelta only)

theorem execTnlRetrainGo_holds {kp : Keep} {s : State} (hk : s.dev.Holds kp) (a : Act) (o : Training) :
    ∃ d, execTnlRetrainGo a o s = s.next d ∧ d.Holds kp := by
  refine ⟨_, rfl, ?_⟩; repeat' (with_reducible first | assumption | lift_lets -underBinder | (intro x; refine (fun (hx : Dev.Holds kp x) => ?_) ?_; on_goal 2 => unfold x) | apply State.dev_holds | apply Dev.absentWrite_holds | apply Dev.retrain_holds | apply Dev.ignoredWrite_holds | apply holds_ite | intro _ | split | dsimp +zetaDelta only)

end Sys2Proof.Machine
end

