-- ==== Sys2Proof/Laws/Holds/Channel.lean ====
section
/-! SUPPORT. The operations of Machine/Channel.lean carry `Dev.Holds`. -/

namespace Sys2Proof.Machine

set_option linter.unusedTactic false
set_option linter.unreachableTactic false

theorem Dev.tune_holds {kp : Keep} {d : Dev} (hk : d.Holds kp) (a : Act) (fw : Nat) : (d.tune a fw).Holds kp := by
  unfold Dev.tune; repeat' (with_reducible first | assumption | lift_lets -underBinder | apply Dev.setF_holds | apply Dev.onChn_holds | apply holds_ite | fail_if_no_progress (apply holds_upd <;> try rfl) | rfl | intro _ | split)

theorem execSynthLocked_holds {kp : Keep} {s : State} (hk : s.dev.Holds kp) (a : Act) :
    ∃ d, execSynthLocked a s = s.next d ∧ d.Holds kp := by
  refine ⟨_, rfl, ?_⟩; repeat' (with_reducible first | assumption | lift_lets -underBinder | (intro x; refine (fun (hx : Dev.Holds kp x) => ?_) ?_; on_goal 2 => unfold x) | apply State.dev_holds | apply Dev.setF_holds | apply holds_ite | intro _ | split | dsimp +zetaDelta only)

theorem Dev.showReady_holds {kp : Keep} {d : Dev} (hk : d.Holds kp) (a : Act) : (d.showReady a).Holds kp := by
  unfold Dev.showReady; repeat' (with_reducible first | assumption | apply Dev.setF_holds)

theorem Dev.averageDone_holds {kp : Keep} {d : Dev} (hk : d.Holds kp) (a : Act) (ws : List (Nat × Word)) : (d.averageDone a ws).Holds kp := by
  unfold Dev.averageDone; repeat' (with_reducible first | assumption | lift_lets -underBinder | (intro x; refine (fun (hx : Dev.Holds kp x) => ?_) ?_; on_goal 2 => unfold x) | apply Dev.setF_holds | apply Dev.bumpF_holds | apply Dev.showReady_holds | apply Dev.onChn_holds | apply holds_ite | fail_if_no_progress (apply holds_upd <;> try rfl) | rfl | intro _ | split | dsimp +zetaDelta only)

theorem execAverageComplete_holds {kp : Keep} {s : State} (hk : s.dev.Holds kp) (a : Act) (ws : List (Nat × Word)) :
    ∃ d, execAverageComplete a ws s = s.next d ∧ d.Holds kp := by
  refine ⟨_, rfl, ?_⟩; repeat' (with_reducible first | assumption | apply State.dev_holds | apply Dev.averageDone_holds | apply holds_ite | intro _ | split)

theorem Dev.writeBack_holds {kp : Keep} {d : Dev} (hk : d.Holds kp) (a : Act) : (d.writeBack a).Holds kp := by
  unfold Dev.writeBack; repeat' (with_reducible first | assumption | refine holds_foldl (fun _ _ _ => ?_) _ ?_ | refine holds_foldl_fst (fun _ _ _ => ?_) _ ?_ | refine holds_foldl_snd (fun _ _ _ => ?_) _ ?_ | lift_lets -underBinder | (intro x; refine (fun (hx : Dev.Holds kp x) => ?_) ?_; on_goal 2 => unfold x) | apply Dev.atPhase_holds | apply Dev.showReady_holds | apply Dev.onChn_holds | apply Dev.bumpF_holds | apply Dev.event_holds | apply holds_ite | fail_if_no_progress (apply holds_upd <;> try rfl) | rfl | intro _ | split | dsimp +zetaDelta only)

theorem execWriteBackBatch_holds {kp : Keep} {s : State} (hk : s.dev.Holds kp) (a : Act) :
    ∃ d, execWriteBackBatch a s = s.next d ∧ d.Holds kp := by
  refine ⟨_, rfl, ?_⟩; repeat' (with_reducible first | assumption | apply State.dev_holds | apply Dev.writeBack_holds | apply holds_ite | intro _ | split)

theorem Dev.readerFail_holds {kp : Keep} {d : Dev} (hk : d.Holds kp) (a : Act) (h e : Nat) : (d.readerFail a h e).Holds kp := by
  unfold Dev.readerFail; repeat' (with_reducible first | assumption | lift_lets -underBinder | (intro x; refine (fun (hx : Dev.Holds kp x) => ?_) ?_; on_goal 2 => unfold x) | apply Dev.setF_holds | apply holds_ite | intro _ | split | dsimp +zetaDelta only)

theorem execReaderFail_holds {kp : Keep} {s : State} (hk : s.dev.Holds kp) (a : Act) (head lane : Nat) :
    ∃ d, execReaderFail a head lane s = s.next d ∧ d.Holds kp := by
  refine ⟨_, rfl, ?_⟩; repeat' (with_reducible first | assumption | apply Dev.readerFail_holds | apply State.dev_holds | apply holds_ite | intro _ | split)

theorem Dev.failLane_holds {kp : Keep} {d : Dev} (hk : d.Holds kp) (a : Act) (e : Nat) : (d.failLane a e).Holds kp := by
  unfold Dev.failLane; repeat' (with_reducible first | assumption | lift_lets -underBinder | (intro x; refine (fun (hx : Dev.Holds kp x) => ?_) ?_; on_goal 2 => unfold x) | apply Dev.event_holds | apply Dev.setF_holds | apply Dev.setDomOn_holds | apply holds_ite | intro _ | split | dsimp +zetaDelta only)

theorem execLaneFail_holds {kp : Keep} {s : State} (hk : s.dev.Holds kp) (a : Act) (head lane : Nat) :
    ∃ d, execLaneFail a head lane s = s.next d ∧ d.Holds kp := by
  refine ⟨_, rfl, ?_⟩; repeat' (with_reducible first | assumption | apply State.dev_holds | apply Dev.failLane_holds | apply holds_ite | intro _ | split)

theorem execLanePowerFault_holds {kp : Keep} {s : State} (hk : s.dev.Holds kp) (a : Act) (lane : Nat) :
    ∃ d, execLanePowerFault a lane s = s.next d ∧ d.Holds kp := by
  refine ⟨_, rfl, ?_⟩; repeat' (with_reducible first | assumption | lift_lets -underBinder | (intro x; refine (fun (hx : Dev.Holds kp x) => ?_) ?_; on_goal 2 => unfold x) | apply State.dev_holds | apply Dev.failLane_holds | apply Dev.reportFault_holds | apply Dev.setDomOn_holds | apply Dev.onChn_holds | apply Dev.setF_holds | apply holds_ite | fail_if_no_progress (apply holds_upd <;> try rfl) | rfl | intro _ | split | dsimp +zetaDelta only)

theorem Dev.clearFail_holds {kp : Keep} {d : Dev} (hk : d.Holds kp) (a : Act) (head : Option Nat) (m : Nat) : (d.clearFail a head m).Holds kp := by
  unfold Dev.clearFail; repeat' (with_reducible first | assumption | refine holds_foldl (fun _ _ _ => ?_) _ ?_ | refine holds_foldl_snd (fun _ _ _ => ?_) _ ?_ | lift_lets -underBinder | (intro x; refine (fun (hx : Dev.Holds kp x) => ?_) ?_; on_goal 2 => unfold x) | apply Dev.onChn_holds | apply Dev.setF_holds | apply Dev.setDomOn_holds | apply holds_ite | fail_if_no_progress (apply holds_upd <;> try rfl) | rfl | intro _ | split | dsimp +zetaDelta only)

theorem execLaneFailClear_holds {kp : Keep} {s : State} (hk : s.dev.Holds kp) (a : Act) (head : Option Nat) (mask : Nat) :
    ∃ d, execLaneFailClear a head mask s = s.next d ∧ d.Holds kp := by
  refine ⟨_, rfl, ?_⟩; repeat' (with_reducible first | assumption | lift_lets -underBinder | (intro x; refine (fun (hx : Dev.Holds kp x) => ?_) ?_; on_goal 2 => unfold x) | apply State.dev_holds | apply Dev.absentWrite_holds | apply Dev.clearFail_holds | apply Dev.ignoredWrite_holds | apply holds_ite | fail_if_no_progress (apply holds_upd <;> try rfl) | rfl | intro _ | split | dsimp +zetaDelta only)

end Sys2Proof.Machine
end

