-- ==== Sys2Proof/Laws/Holds/Servo.lean ====
section
/-! SUPPORT. The operations of Machine/Servo.lean carry `Dev.Holds`. -/

namespace Sys2Proof.Machine

set_option linter.unusedTactic false
set_option linter.unreachableTactic false

theorem Dev.setLoad_holds {kp : Keep} {d : Dev} (hk : d.Holds kp) (a : Act) (st : Nat) : (d.setLoad a st).Holds kp := by
  unfold Dev.setLoad; repeat' (with_reducible first | assumption | lift_lets -underBinder | (intro x; refine (fun (hx : Dev.Holds kp x) => ?_) ?_; on_goal 2 => unfold x) | apply Dev.setF_holds | fail_if_no_progress (apply holds_upd <;> try rfl) | rfl | intro _ | dsimp +zetaDelta only)

theorem Dev.loadEvent_holds {kp : Keep} {d : Dev} (hk : d.Holds kp) (a : Act) : (d.loadEvent a).Holds kp := by
  unfold Dev.loadEvent; repeat' (with_reducible first | assumption | apply Dev.event_holds)

theorem Dev.makeMaster_holds {kp : Keep} {d : Dev} (hk : d.Holds kp) (a : Act) : (d.makeMaster a).Holds kp := by
  unfold Dev.makeMaster; repeat' (with_reducible first | assumption | apply Dev.setF_holds | apply holds_ite | intro _ | split)

theorem Dev.masterCheck_holds {kp : Keep} {d : Dev} (hk : d.Holds kp) : (d.masterCheck).Holds kp := by
  unfold Dev.masterCheck; repeat' (with_reducible first | assumption | lift_lets -underBinder | apply Dev.makeMaster_holds | fail_if_no_progress (apply holds_upd <;> try rfl) | rfl | intro _ | split)

theorem Dev.enterSettle_holds {kp : Keep} {d : Dev} (hk : d.Holds kp) (a : Act) : (d.enterSettle a).Holds kp := by
  unfold Dev.enterSettle; repeat' (with_reducible first | assumption | lift_lets -underBinder | apply Dev.masterCheck_holds | apply Dev.onSrv_holds | apply Dev.setF_holds | fail_if_no_progress (apply holds_upd <;> try rfl) | rfl | intro _)

theorem Dev.decideSeek_holds {kp : Keep} {d : Dev} (hk : d.Holds kp) (a : Act) : (d.decideSeek a).Holds kp := by
  unfold Dev.decideSeek; repeat' (with_reducible first | assumption | lift_lets -underBinder | (intro x; refine (fun (hx : Dev.Holds kp x) => ?_) ?_; on_goal 2 => unfold x) | apply Dev.onSrv_holds | apply Dev.enterSettle_holds | apply Dev.masterCheck_holds | apply Dev.setF_holds | apply holds_ite | fail_if_no_progress (apply holds_upd <;> try rfl) | rfl | intro _ | split | dsimp +zetaDelta only)

theorem Dev.aim_holds {kp : Keep} {d : Dev} (hk : d.Holds kp) (a : Act) (r : ServoReq) : (d.aim a r).Holds kp := by
  unfold Dev.aim; repeat' (with_reducible first | assumption | lift_lets -underBinder | (intro x; refine (fun (hx : Dev.Holds kp x) => ?_) ?_; on_goal 2 => unfold x) | apply Dev.onSrv_holds | apply Dev.setF_holds | apply holds_ite | fail_if_no_progress (apply holds_upd <;> try rfl) | rfl | intro _ | split | dsimp +zetaDelta only)

theorem Dev.servoHead_holds {kp : Keep} {d : Dev} (hk : d.Holds kp) (a : Act) (h : Nat) : (d.servoHead a h).Holds kp := by
  unfold Dev.servoHead; repeat' (with_reducible first | assumption | lift_lets -underBinder | (intro x; refine (fun (hx : Dev.Holds kp x) => ?_) ?_; on_goal 2 => unfold x) | apply Dev.selectHead_holds | apply Dev.onSrv_holds | apply Dev.enterSettle_holds | apply holds_ite | fail_if_no_progress (apply holds_upd <;> try rfl) | rfl | intro _ | split | dsimp +zetaDelta only)

theorem Dev.startReq_holds {kp : Keep} {d : Dev} (hk : d.Holds kp) (a : Act) (r : ServoReq) : (d.startReq a r).Holds kp := by
  unfold Dev.startReq; repeat' (with_reducible first | assumption | lift_lets -underBinder | (intro x; refine (fun (hx : Dev.Holds kp x) => ?_) ?_; on_goal 2 => unfold x) | apply Dev.onSrv_holds | apply Dev.servoHead_holds | apply Dev.aim_holds | apply Dev.decideSeek_holds | apply holds_ite | fail_if_no_progress (apply holds_upd <;> try rfl) | rfl | intro _ | split | dsimp +zetaDelta only)

theorem Dev.servoReq_holds {kp : Keep} {d : Dev} (hk : d.Holds kp) (a : Act) (darg h : Nat) : (d.servoReq a darg h).Holds kp := by
  unfold Dev.servoReq; repeat' (with_reducible first | assumption | lift_lets -underBinder | (intro x; refine (fun (hx : Dev.Holds kp x) => ?_) ?_; on_goal 2 => unfold x) | apply Dev.onSrv_holds | apply Dev.servoHead_holds | apply Dev.aim_holds | apply Dev.startReq_holds | apply holds_ite | fail_if_no_progress (apply holds_upd <;> try rfl) | rfl | intro _ | split | dsimp +zetaDelta only)

theorem execServoReqSeek_holds {kp : Keep} {s : State} (hk : s.dev.Holds kp) (a : Act) (head : Nat) :
    ∃ d, execServoReqSeek a head s = s.next d ∧ d.Holds kp := by
  refine ⟨_, rfl, ?_⟩; repeat' (with_reducible first | assumption | apply State.dev_holds | apply Dev.servoReq_holds | apply holds_ite | intro _ | split)

theorem execServoReqSelect_holds {kp : Keep} {s : State} (hk : s.dev.Holds kp) (a : Act) (head : Nat) :
    ∃ d, execServoReqSelect a head s = s.next d ∧ d.Holds kp := by
  refine ⟨_, rfl, ?_⟩; repeat' (with_reducible first | assumption | apply State.dev_holds | apply Dev.servoReq_holds | apply holds_ite | intro _ | split)

theorem Dev.endInjection_holds {kp : Keep} {d : Dev} (hk : d.Holds kp) (a : Act) : (d.endInjection a).Holds kp := by
  unfold Dev.endInjection; repeat' (with_reducible first | assumption | lift_lets -underBinder | apply Dev.setF_holds | apply Dev.onSrv_holds | apply holds_ite | fail_if_no_progress (apply holds_upd <;> try rfl) | rfl | intro _ | split)

theorem Dev.runTraj_holds {kp : Keep} {d : Dev} (hk : d.Holds kp) (a : Act) : (d.runTraj a).Holds kp := by
  unfold Dev.runTraj; repeat' (with_reducible first | assumption | lift_lets -underBinder | (intro x; refine (fun (hx : Dev.Holds kp x) => ?_) ?_; on_goal 2 => unfold x) | apply Dev.onSrv_holds | apply Dev.endInjection_holds | fail_if_no_progress (apply holds_upd <;> try rfl) | rfl | intro _ | dsimp +zetaDelta only)

theorem Dev.trajStart_holds {kp : Keep} {d : Dev} (hk : d.Holds kp) (a : Act) : (d.trajStart a).Holds kp := by
  unfold Dev.trajStart; repeat' (with_reducible first | assumption | lift_lets -underBinder | (intro x; refine (fun (hx : Dev.Holds kp x) => ?_) ?_; on_goal 2 => unfold x) | apply Dev.onSrv_holds | apply Dev.runTraj_holds | apply holds_ite | fail_if_no_progress (apply holds_upd <;> try rfl) | rfl | intro _ | split | dsimp +zetaDelta only)

theorem execTrajectoryStart_holds {kp : Keep} {s : State} (hk : s.dev.Holds kp) (a : Act) :
    ∃ d, execTrajectoryStart a s = s.next d ∧ d.Holds kp := by
  refine ⟨_, rfl, ?_⟩; repeat' (with_reducible first | assumption | apply Dev.trajStart_holds | apply State.dev_holds)

theorem execStaggerExpiry_holds {kp : Keep} {s : State} (hk : s.dev.Holds kp) :
    ∃ d, execStaggerExpiry s = s.next d ∧ d.Holds kp := by
  refine ⟨_, rfl, ?_⟩; repeat' (with_reducible first | assumption | apply State.dev_holds | apply Dev.runTraj_holds | apply holds_ite | intro _ | split)

theorem Dev.trajEnd_holds {kp : Keep} {d : Dev} (hk : d.Holds kp) (a : Act) : (d.trajEnd a).Holds kp := by
  unfold Dev.trajEnd; repeat' (with_reducible first | assumption | lift_lets -underBinder | (intro x; refine (fun (hx : Dev.Holds kp x) => ?_) ?_; on_goal 2 => unfold x) | apply Dev.enterSettle_holds | apply Dev.onSrv_holds | apply Dev.startReq_holds | apply holds_ite | fail_if_no_progress (apply holds_upd <;> try rfl) | rfl | intro _ | split | dsimp +zetaDelta only)

theorem execTrajectoryEnd_holds {kp : Keep} {s : State} (hk : s.dev.Holds kp) (a : Act) :
    ∃ d, execTrajectoryEnd a s = s.next d ∧ d.Holds kp := by
  refine ⟨_, rfl, ?_⟩; repeat' (with_reducible first | assumption | apply Dev.trajEnd_holds | apply State.dev_holds)

theorem Dev.stopTraj_holds {kp : Keep} {d : Dev} (hk : d.Holds kp) (a : Act) : (d.stopTraj a).Holds kp := by
  unfold Dev.stopTraj; repeat' (with_reducible first | assumption | lift_lets -underBinder | apply Dev.onSrv_holds | fail_if_no_progress (apply holds_upd <;> try rfl) | rfl | intro _)

theorem Dev.settleLate_holds {kp : Keep} {d : Dev} (hk : d.Holds kp) (a : Act) : (d.settleLate a).Holds kp := by
  unfold Dev.settleLate; repeat' (with_reducible first | assumption | lift_lets -underBinder | (intro x; refine (fun (hx : Dev.Holds kp x) => ?_) ?_; on_goal 2 => unfold x) | apply Dev.onSrv_holds | apply Dev.reportFault_holds | apply holds_ite | fail_if_no_progress (apply holds_upd <;> try rfl) | rfl | intro _ | split | dsimp +zetaDelta only)

theorem execSettleLate_holds {kp : Keep} {s : State} (hk : s.dev.Holds kp) (a : Act) :
    ∃ d, execSettleLate a s = s.next d ∧ d.Holds kp := by
  refine ⟨_, rfl, ?_⟩; repeat' (with_reducible first | assumption | apply Dev.settleLate_holds | apply State.dev_holds)

theorem Dev.setMode_holds {kp : Keep} {d : Dev} (hk : d.Holds kp) (a : Act) (mode sub : Nat) : (d.setMode a mode sub).Holds kp := by
  unfold Dev.setMode; repeat' (with_reducible first | assumption | apply Dev.setF_holds)

theorem Dev.modeOff_holds {kp : Keep} {d : Dev} (hk : d.Holds kp) (a : Act) : (d.modeOff a).Holds kp := by
  unfold Dev.modeOff; repeat' (with_reducible first | assumption | lift_lets -underBinder | apply Dev.onSrv_holds | apply Dev.setF_holds | apply Dev.stopTraj_holds | apply Dev.endInjection_holds | apply Dev.setMode_holds | fail_if_no_progress (apply holds_upd <;> try rfl) | rfl | intro _)

theorem Dev.modeManual_holds {kp : Keep} {d : Dev} (hk : d.Holds kp) (a : Act) (sub : Nat) : (d.modeManual a sub).Holds kp := by
  unfold Dev.modeManual; repeat' (with_reducible first | assumption | lift_lets -underBinder | apply Dev.onSrv_holds | apply Dev.setF_holds | apply Dev.stopTraj_holds | apply Dev.setMode_holds | fail_if_no_progress (apply holds_upd <;> try rfl) | rfl | intro _)

theorem Dev.demod_holds {kp : Keep} {d : Dev} (hk : d.Holds kp) (a : Act) (o : ServoField) : (d.demod a o).Holds kp := by
  unfold Dev.demod; repeat' (with_reducible first | assumption | lift_lets -underBinder | (intro x; refine (fun (hx : Dev.Holds kp x) => ?_) ?_; on_goal 2 => unfold x) | apply Dev.bumpF_holds | apply Dev.setF_holds | apply Dev.onSrv_holds | apply holds_ite | fail_if_no_progress (apply holds_upd <;> try rfl) | rfl | intro _ | split | dsimp +zetaDelta only)

theorem Dev.shock_holds {kp : Keep} {d : Dev} (hk : d.Holds kp) (a : Act) (source : Nat) : (d.shock a source).Holds kp := by
  unfold Dev.shock; repeat' (with_reducible first | assumption | lift_lets -underBinder | (intro x; refine (fun (hx : Dev.Holds kp x) => ?_) ?_; on_goal 2 => unfold x) | apply Dev.raiseEvt_holds | apply Dev.laneOff_holds | apply Dev.inhibit_holds | apply Dev.setF_holds | apply Dev.bumpF_holds | apply Dev.onSrv_holds | fail_if_no_progress (apply holds_upd <;> try rfl) | rfl | intro _ | dsimp +zetaDelta only)

theorem Dev.offTrack_holds {kp : Keep} {d : Dev} (hk : d.Holds kp) (a : Act) : (d.offTrack a).Holds kp := by
  unfold Dev.offTrack; repeat' (with_reducible first | assumption | lift_lets -underBinder | (intro x; refine (fun (hx : Dev.Holds kp x) => ?_) ?_; on_goal 2 => unfold x) | apply Dev.onWr_holds | apply Dev.inhibit_holds | apply Dev.shock_holds | apply holds_ite | fail_if_no_progress (apply holds_upd <;> try rfl) | rfl | intro _ | split | dsimp +zetaDelta only)

theorem execOfftrackRequalified_holds {kp : Keep} {s : State} (hk : s.dev.Holds kp) (a : Act) :
    ∃ d, execOfftrackRequalified a s = s.next d ∧ d.Holds kp := by
  refine ⟨_, rfl, ?_⟩; repeat' (with_reducible first | assumption | lift_lets -underBinder | (intro x; refine (fun (hx : Dev.Holds kp x) => ?_) ?_; on_goal 2 => unfold x) | apply State.dev_holds | apply Dev.release_holds | apply holds_ite | intro _ | split | dsimp +zetaDelta only)

theorem Dev.laneLog_holds {kp : Keep} {d : Dev} (hk : d.Holds kp) (a : Act) (m : LaneMiss) (lost : Bool) : (d.laneLog a m lost).Holds kp := by
  unfold Dev.laneLog; repeat' (with_reducible first | assumption | lift_lets -underBinder | (intro x; refine (fun (hx : Dev.Holds kp x) => ?_) ?_; on_goal 2 => unfold x) | apply Dev.setReg_holds | apply holds_ite | intro _ | split | dsimp +zetaDelta only)

theorem Dev.laneMiss_holds {kp : Keep} {d : Dev} (hk : d.Holds kp) (a : Act) (m : LaneMiss) : (d.laneMiss a m).1.Holds kp := by
  unfold Dev.laneMiss; repeat' (with_reducible first | assumption | lift_lets -underBinder | (intro x; refine (fun (hx : Dev.Holds kp x) => ?_) ?_; on_goal 2 => unfold x) | apply Dev.laneLog_holds | apply Dev.bumpF_holds | apply Dev.reportFault_holds | apply Dev.onSrv_holds | apply Dev.setF_holds | apply holds_ite | fail_if_no_progress (apply holds_upd <;> try rfl) | rfl | intro _ | split | dsimp +zetaDelta only)

theorem Dev.engine_holds {kp : Keep} {d : Dev} (hk : d.Holds kp) (a : Act) (o : ServoField) (first : Bool) : (d.engine a o first).Holds kp := by
  unfold Dev.engine; repeat' (with_reducible first | assumption | lift_lets -underBinder | (intro x; refine (fun (hx : Dev.Holds kp x) => ?_) ?_; on_goal 2 => unfold x) | apply Dev.onSrv_holds | apply Dev.laneMiss_holds | apply Dev.event_holds | apply Dev.setF_holds | apply Dev.bumpF_holds | apply holds_ite | fail_if_no_progress (apply holds_upd <;> try rfl) | rfl | intro _ | split | dsimp +zetaDelta only)

theorem Dev.capTrigger_holds {kp : Keep} {d : Dev} (hk : d.Holds kp) (a : Act) (kind : Nat) : (d.capTrigger a kind).Holds kp := by
  unfold Dev.capTrigger; repeat' (with_reducible first | assumption | lift_lets -underBinder | (intro x; refine (fun (hx : Dev.Holds kp x) => ?_) ?_; on_goal 2 => unfold x) | apply Dev.setF_holds | apply Dev.onSrv_holds | apply holds_ite | fail_if_no_progress (apply holds_upd <;> try rfl) | rfl | intro _ | split | dsimp +zetaDelta only)

theorem Dev.capShow_holds {kp : Keep} {d : Dev} (hk : d.Holds kp) (a : Act) : (d.capShow a).Holds kp := by
  unfold Dev.capShow; repeat' (with_reducible first | assumption | apply Dev.setF_holds)

theorem Dev.capSample_holds {kp : Keep} {d : Dev} (hk : d.Holds kp) (a : Act) (o : ServoField) : (d.capSample a o).Holds kp := by
  unfold Dev.capSample; repeat' (with_reducible first | assumption | lift_lets -underBinder | (intro x; refine (fun (hx : Dev.Holds kp x) => ?_) ?_; on_goal 2 => unfold x) | apply Dev.onSrv_holds | apply Dev.setF_holds | apply Dev.capShow_holds | apply holds_ite | fail_if_no_progress (apply holds_upd <;> try rfl) | rfl | intro _ | split | dsimp +zetaDelta only)

theorem Dev.capTriggers_holds {kp : Keep} {d : Dev} (hk : d.Holds kp) (a : Act) : (d.capTriggers a).Holds kp := by
  unfold Dev.capTriggers; repeat' (with_reducible first | assumption | lift_lets -underBinder | (intro x; refine (fun (hx : Dev.Holds kp x) => ?_) ?_; on_goal 2 => unfold x) | apply Dev.capTrigger_holds | apply holds_ite | intro _ | split | dsimp +zetaDelta only)

theorem Dev.capArm_holds {kp : Keep} {d : Dev} (hk : d.Holds kp) (a : Act) (mode trig pre : Nat) : (d.capArm a mode trig pre).Holds kp := by
  unfold Dev.capArm; repeat' (with_reducible first | assumption | lift_lets -underBinder | (intro x; refine (fun (hx : Dev.Holds kp x) => ?_) ?_; on_goal 2 => unfold x) | apply Dev.setF_holds | apply Dev.setReg_holds | apply Dev.capTrigger_holds | apply Dev.onSrv_holds | fail_if_no_progress (apply holds_upd <;> try rfl) | rfl | intro _ | dsimp +zetaDelta only)

theorem execCapCtlArm_holds {kp : Keep} {s : State} (hk : s.dev.Holds kp) (a : Act) (mode trig pre : Nat) :
    ∃ d, execCapCtlArm a mode trig pre s = s.next d ∧ d.Holds kp := by
  refine ⟨_, rfl, ?_⟩; repeat' (with_reducible first | assumption | lift_lets -underBinder | (intro x; refine (fun (hx : Dev.Holds kp x) => ?_) ?_; on_goal 2 => unfold x) | apply State.dev_holds | apply Dev.absentWrite_holds | apply Dev.capArm_holds | apply Dev.ignoredWrite_holds | apply holds_ite | intro _ | split | dsimp +zetaDelta only)

theorem Dev.capAbort_holds {kp : Keep} {d : Dev} (hk : d.Holds kp) (a : Act) : (d.capAbort a).Holds kp := by
  unfold Dev.capAbort; repeat' (with_reducible first | assumption | lift_lets -underBinder | apply Dev.setF_holds | apply Dev.onSrv_holds | apply holds_ite | fail_if_no_progress (apply holds_upd <;> try rfl) | rfl | intro _ | split)

theorem execCapCtlAbort_holds {kp : Keep} {s : State} (hk : s.dev.Holds kp) (a : Act) :
    ∃ d, execCapCtlAbort a s = s.next d ∧ d.Holds kp := by
  refine ⟨_, rfl, ?_⟩; repeat' (with_reducible first | assumption | lift_lets -underBinder | (intro x; refine (fun (hx : Dev.Holds kp x) => ?_) ?_; on_goal 2 => unfold x) | apply State.dev_holds | apply Dev.absentWrite_holds | apply Dev.capAbort_holds | apply Dev.ignoredWrite_holds | apply holds_ite | intro _ | split | dsimp +zetaDelta only)

theorem Dev.capRead_holds {kp : Keep} {d : Dev} (hk : d.Holds kp) (a : Act) (who : Requester) (poisoned : Bool) : (d.capRead a who poisoned).Holds kp := by
  unfold Dev.capRead; repeat' (with_reducible first | assumption | lift_lets -underBinder | (intro x; refine (fun (hx : Dev.Holds kp x) => ?_) ?_; on_goal 2 => unfold x) | apply Dev.tookFree_holds | apply Dev.setF_holds | apply Dev.answer_holds | intro _ | dsimp +zetaDelta only)

theorem execCapDataRead_holds {kp : Keep} {s : State} (hk : s.dev.Holds kp) (a : Act) (who : Requester) (poisoned : Bool) :
    ∃ d, execCapDataRead a who poisoned s = s.next d ∧ d.Holds kp := by
  refine ⟨_, rfl, ?_⟩; repeat' (with_reducible first | assumption | apply State.dev_holds | apply Dev.capRead_holds | apply Dev.answer_holds | apply holds_ite | intro _ | split)

theorem Dev.settleWedge_holds {kp : Keep} {d : Dev} (hk : d.Holds kp) (a : Act) : (d.settleWedge a).Holds kp := by
  unfold Dev.settleWedge; repeat' (with_reducible first | assumption | lift_lets -underBinder | (intro x; refine (fun (hx : Dev.Holds kp x) => ?_) ?_; on_goal 2 => unfold x) | apply Dev.enterSettle_holds | apply Dev.onSrv_holds | apply Dev.masterCheck_holds | apply Dev.setF_holds | apply holds_ite | fail_if_no_progress (apply holds_upd <;> try rfl) | rfl | intro _ | split | dsimp +zetaDelta only)

theorem Dev.onPosition_holds {kp : Keep} {d : Dev} (hk : d.Holds kp) (a : Act) : (d.onPosition a).Holds kp := by
  unfold Dev.onPosition; repeat' (with_reducible first | assumption | lift_lets -underBinder | (intro x; refine (fun (hx : Dev.Holds kp x) => ?_) ?_; on_goal 2 => unfold x) | apply Dev.enterSettle_holds | apply Dev.onSrv_holds | apply Dev.decideSeek_holds | apply Dev.aim_holds | apply holds_ite | fail_if_no_progress (apply holds_upd <;> try rfl) | rfl | intro _ | split | dsimp +zetaDelta only)

theorem Dev.transferNow_holds {kp : Keep} {d : Dev} (hk : d.Holds kp) (a : Act) : (d.transferNow a).Holds kp := by
  unfold Dev.transferNow; repeat' (with_reducible first | assumption | lift_lets -underBinder | (intro x; refine (fun (hx : Dev.Holds kp x) => ?_) ?_; on_goal 2 => unfold x) | apply Dev.onSrv_holds | apply Dev.setMode_holds | apply Dev.enterSettle_holds | apply Dev.setF_holds | apply Dev.decideSeek_holds | apply Dev.setLoad_holds | apply holds_ite | fail_if_no_progress (apply holds_upd <;> try rfl) | rfl | intro _ | split | dsimp +zetaDelta only)

theorem Dev.fieldEnd_holds {kp : Keep} {d : Dev} (hk : d.Holds kp) (a : Act) (o : ServoField) : (d.fieldEnd a o).Holds kp := by
  unfold Dev.fieldEnd; repeat' (with_reducible first | assumption | lift_lets -underBinder | (intro x; refine (fun (hx : Dev.Holds kp x) => ?_) ?_; on_goal 2 => unfold x) | apply Dev.demod_holds | apply Dev.transferNow_holds | apply Dev.onSrv_holds | apply Dev.engine_holds | apply Dev.offTrack_holds | apply Dev.capSample_holds | apply Dev.capTriggers_holds | apply Dev.onPosition_holds | apply Dev.settleWedge_holds | apply holds_ite | fail_if_no_progress (apply holds_upd <;> try rfl) | rfl | intro _ | split | dsimp +zetaDelta only)

theorem execServoFieldEnd_holds {kp : Keep} {s : State} (hk : s.dev.Holds kp) (a : Act) (o : ServoField) :
    ∃ d, execServoFieldEnd a o s = s.next d ∧ d.Holds kp := by
  refine ⟨_, rfl, ?_⟩; repeat' (with_reducible first | assumption | apply State.dev_holds | apply Dev.fieldEnd_holds | apply holds_ite | intro _ | split)

theorem execInjectionStart_holds {kp : Keep} {s : State} (hk : s.dev.Holds kp) (a : Act) :
    ∃ d, execInjectionStart a s = s.next d ∧ d.Holds kp := by
  refine ⟨_, rfl, ?_⟩; repeat' (with_reducible first | assumption | lift_lets -underBinder | (intro x; refine (fun (hx : Dev.Holds kp x) => ?_) ?_; on_goal 2 => unfold x) | apply State.dev_holds | apply Dev.capTrigger_holds | apply Dev.onSrv_holds | apply holds_ite | fail_if_no_progress (apply holds_upd <;> try rfl) | rfl | intro _ | split | dsimp +zetaDelta only)

theorem execTransferTimeout_holds {kp : Keep} {s : State} (hk : s.dev.Holds kp) (a : Act) :
    ∃ d, execTransferTimeout a s = s.next d ∧ d.Holds kp := by
  refine ⟨_, rfl, ?_⟩; repeat' (with_reducible first | assumption | lift_lets -underBinder | (intro x; refine (fun (hx : Dev.Holds kp x) => ?_) ?_; on_goal 2 => unfold x) | apply State.dev_holds | apply Dev.setF_holds | apply Dev.onSrv_holds | apply holds_ite | fail_if_no_progress (apply holds_upd <;> try rfl) | rfl | intro _ | split | dsimp +zetaDelta only)

end Sys2Proof.Machine
end

