-- ==== Sys2Proof/Laws/Holds/Motion.lean ====
section
/-! SUPPORT. The operations of Machine/Motion.lean carry `Dev.Holds`. -/

namespace Sys2Proof.Machine

set_option linter.unusedTactic false
set_option linter.unreachableTactic false

theorem Dev.setCur_holds {kp : Keep} {d : Dev} (hk : d.Holds kp) (a : Act) (v : Nat) : (d.setCur a v).Holds kp := by
  unfold Dev.setCur; repeat' (with_reducible first | assumption | apply Dev.setF_holds)

theorem Dev.unload_holds {kp : Keep} {d : Dev} (hk : d.Holds kp) (a : Act) : (d.unload a).Holds kp := by
  unfold Dev.unload; repeat' (with_reducible first | assumption | lift_lets -underBinder | (intro x; refine (fun (hx : Dev.Holds kp x) => ?_) ?_; on_goal 2 => unfold x) | apply Dev.setLoad_holds | apply Dev.setCur_holds | apply Dev.modeManual_holds | apply Dev.onSrv_holds | fail_if_no_progress (apply holds_upd <;> try rfl) | rfl | intro _ | dsimp +zetaDelta only)

theorem Dev.startLoad_holds {kp : Keep} {d : Dev} (hk : d.Holds kp) (a : Act) : (d.startLoad a).Holds kp := by
  unfold Dev.startLoad; repeat' (with_reducible first | assumption | lift_lets -underBinder | (intro x; refine (fun (hx : Dev.Holds kp x) => ?_) ?_; on_goal 2 => unfold x) | apply Dev.setLoad_holds | apply Dev.setCur_holds | apply Dev.modeManual_holds | apply Dev.onSrv_holds | apply Dev.release_holds | fail_if_no_progress (apply holds_upd <;> try rfl) | rfl | intro _ | dsimp +zetaDelta only)

theorem Dev.servoLoad_holds {kp : Keep} {d : Dev} (hk : d.Holds kp) (a : Act) (h : Nat) : (d.servoLoad a h).Holds kp := by
  unfold Dev.servoLoad; repeat' (with_reducible first | assumption | lift_lets -underBinder | (intro x; refine (fun (hx : Dev.Holds kp x) => ?_) ?_; on_goal 2 => unfold x) | apply Dev.onSrv_holds | apply Dev.startLoad_holds | apply Dev.servoHead_holds | apply Dev.loadEvent_holds | apply holds_ite | fail_if_no_progress (apply holds_upd <;> try rfl) | rfl | intro _ | split | dsimp +zetaDelta only)

theorem execServoReqLoad_holds {kp : Keep} {s : State} (hk : s.dev.Holds kp) (a : Act) (head : Nat) :
    ∃ d, execServoReqLoad a head s = s.next d ∧ d.Holds kp := by
  refine ⟨_, rfl, ?_⟩; repeat' (with_reducible first | assumption | apply State.dev_holds | apply Dev.servoLoad_holds | apply holds_ite | intro _ | split)

theorem Dev.servoUnload_holds {kp : Keep} {d : Dev} (hk : d.Holds kp) (a : Act) : (d.servoUnload a).Holds kp := by
  unfold Dev.servoUnload; repeat' (with_reducible first | assumption | lift_lets -underBinder | apply Dev.onSrv_holds | apply Dev.unload_holds | apply holds_ite | fail_if_no_progress (apply holds_upd <;> try rfl) | rfl | intro _ | split)

theorem execServoReqUnload_holds {kp : Keep} {s : State} (hk : s.dev.Holds kp) (a : Act) :
    ∃ d, execServoReqUnload a s = s.next d ∧ d.Holds kp := by
  refine ⟨_, rfl, ?_⟩; repeat' (with_reducible first | assumption | apply State.dev_holds | apply Dev.servoUnload_holds | apply holds_ite | intro _ | split)

theorem Dev.loadTimeout_holds {kp : Keep} {d : Dev} (hk : d.Holds kp) (a : Act) : (d.loadTimeout a).Holds kp := by
  unfold Dev.loadTimeout; repeat' (with_reducible first | assumption | lift_lets -underBinder | (intro x; refine (fun (hx : Dev.Holds kp x) => ?_) ?_; on_goal 2 => unfold x) | apply Dev.unload_holds | apply Dev.bumpF_holds | apply Dev.loadEvent_holds | apply Dev.onSrv_holds | apply Dev.emergencyPark_holds | apply Dev.reportFault_holds | apply holds_ite | fail_if_no_progress (apply holds_upd <;> try rfl) | rfl | intro _ | split | dsimp +zetaDelta only)

theorem execLoadTimeout_holds {kp : Keep} {s : State} (hk : s.dev.Holds kp) (a : Act) :
    ∃ d, execLoadTimeout a s = s.next d ∧ d.Holds kp := by
  refine ⟨_, rfl, ?_⟩; repeat' (with_reducible first | assumption | apply Dev.loadTimeout_holds | apply State.dev_holds)

theorem execUnloadVelocityLow_holds {kp : Keep} {s : State} (hk : s.dev.Holds kp) (a : Act) :
    ∃ d, execUnloadVelocityLow a s = s.next d ∧ d.Holds kp := by
  refine ⟨_, rfl, ?_⟩; repeat' (with_reducible first | assumption | lift_lets -underBinder | (intro x; refine (fun (hx : Dev.Holds kp x) => ?_) ?_; on_goal 2 => unfold x) | apply State.dev_holds | apply Dev.onSrv_holds | apply Dev.setMode_holds | apply holds_ite | fail_if_no_progress (apply holds_upd <;> try rfl) | rfl | intro _ | split | dsimp +zetaDelta only)

theorem Dev.restartEngine_holds {kp : Keep} {d : Dev} (hk : d.Holds kp) (a : Act) : (d.restartEngine a).Holds kp := by
  unfold Dev.restartEngine; repeat' (with_reducible first | assumption | lift_lets -underBinder | (intro x; refine (fun (hx : Dev.Holds kp x) => ?_) ?_; on_goal 2 => unfold x) | apply Dev.readyUnit_holds | apply Dev.resetUnit_holds | apply Dev.onSrv_holds | apply Dev.bumpF_holds | apply Dev.startLoad_holds | apply holds_ite | fail_if_no_progress (apply holds_upd <;> try rfl) | rfl | intro _ | split | dsimp +zetaDelta only)

theorem Dev.latchEnd_holds {kp : Keep} {d : Dev} (hk : d.Holds kp) (a : Act) : (d.latchEnd a).Holds kp := by
  unfold Dev.latchEnd; repeat' (with_reducible first | assumption | lift_lets -underBinder | (intro x; refine (fun (hx : Dev.Holds kp x) => ?_) ?_; on_goal 2 => unfold x) | apply Dev.setLoad_holds | apply Dev.modeOff_holds | apply Dev.onSrv_holds | apply Dev.restartEngine_holds | apply Dev.startLoad_holds | apply holds_ite | fail_if_no_progress (apply holds_upd <;> try rfl) | rfl | intro _ | split | dsimp +zetaDelta only)

theorem execLatchEnd_holds {kp : Keep} {s : State} (hk : s.dev.Holds kp) (a : Act) :
    ∃ d, execLatchEnd a s = s.next d ∧ d.Holds kp := by
  refine ⟨_, rfl, ?_⟩; repeat' (with_reducible first | assumption | apply Dev.latchEnd_holds | apply State.dev_holds)

theorem execPesMissLimit_holds {kp : Keep} {s : State} (hk : s.dev.Holds kp) (a : Act) :
    ∃ d, execPesMissLimit a s = s.next d ∧ d.Holds kp := by
  refine ⟨_, rfl, ?_⟩; repeat' (with_reducible first | assumption | lift_lets -underBinder | (intro x; refine (fun (hx : Dev.Holds kp x) => ?_) ?_; on_goal 2 => unfold x) | apply State.dev_holds | apply Dev.onSrv_holds | apply Dev.reportFault_holds | apply holds_ite | fail_if_no_progress (apply holds_upd <;> try rfl) | rfl | intro _ | split | dsimp +zetaDelta only)

theorem execReacquisitionTimeout_holds {kp : Keep} {s : State} (hk : s.dev.Holds kp) (a : Act) :
    ∃ d, execReacquisitionTimeout a s = s.next d ∧ d.Holds kp := by
  refine ⟨_, rfl, ?_⟩; repeat' (with_reducible first | assumption | lift_lets -underBinder | (intro x; refine (fun (hx : Dev.Holds kp x) => ?_) ?_; on_goal 2 => unfold x) | apply State.dev_holds | apply Dev.loadEvent_holds | apply Dev.unload_holds | apply Dev.emergencyPark_holds | apply holds_ite | fail_if_no_progress (apply holds_upd <;> try rfl) | rfl | intro _ | split | dsimp +zetaDelta only)

theorem execShockSensorTrigger_holds {kp : Keep} {s : State} (hk : s.dev.Holds kp) (a : Act) (sensorB : Bool) :
    ∃ d, execShockSensorTrigger a sensorB s = s.next d ∧ d.Holds kp := by
  refine ⟨_, rfl, ?_⟩; repeat' (with_reducible first | assumption | lift_lets -underBinder | (intro x; refine (fun (hx : Dev.Holds kp x) => ?_) ?_; on_goal 2 => unfold x) | apply State.dev_holds | apply Dev.shock_holds | apply Dev.unload_holds | apply holds_ite | intro _ | split | dsimp +zetaDelta only)

theorem execShockClear_holds {kp : Keep} {s : State} (hk : s.dev.Holds kp) (a : Act) :
    ∃ d, execShockClear a s = s.next d ∧ d.Holds kp := by
  refine ⟨_, rfl, ?_⟩; repeat' (with_reducible first | assumption | lift_lets -underBinder | (intro x; refine (fun (hx : Dev.Holds kp x) => ?_) ?_; on_goal 2 => unfold x) | apply State.dev_holds | apply Dev.setF_holds | apply Dev.release_holds | apply holds_ite | intro _ | split | dsimp +zetaDelta only)

theorem execShockPark_holds {kp : Keep} {s : State} (hk : s.dev.Holds kp) (a : Act) :
    ∃ d, execShockPark a s = s.next d ∧ d.Holds kp := by
  refine ⟨_, rfl, ?_⟩; repeat' (with_reducible first | assumption | lift_lets -underBinder | (intro x; refine (fun (hx : Dev.Holds kp x) => ?_) ?_; on_goal 2 => unfold x) | apply State.dev_holds | apply Dev.setF_holds | apply Dev.inhibit_holds | apply Dev.unload_holds | apply Dev.stopTraj_holds | apply holds_ite | intro _ | split | dsimp +zetaDelta only)

theorem Dev.retract_holds {kp : Keep} {d : Dev} (hk : d.Holds kp) (cause : Nat) : (d.retract cause).Holds kp := by
  unfold Dev.retract; repeat' (with_reducible first | assumption | lift_lets -underBinder | (intro x; refine (fun (hx : Dev.Holds kp x) => ?_) ?_; on_goal 2 => unfold x) | apply Dev.setF_holds | apply Dev.bumpF_holds | apply holds_ite | fail_if_no_progress (apply holds_upd <;> try rfl) | rfl | intro _ | split | dsimp +zetaDelta only)

theorem execPwrRetGo_holds {kp : Keep} {s : State} (hk : s.dev.Holds kp) :
    ∃ d, execPwrRetGo s = s.next d ∧ d.Holds kp := by
  refine ⟨_, rfl, ?_⟩; repeat' (with_reducible first | assumption | apply Dev.retract_holds | apply State.dev_holds)

theorem execCommandFrameTimeout_holds {kp : Keep} {s : State} (hk : s.dev.Holds kp) (a : Act) :
    ∃ d, execCommandFrameTimeout a s = s.next d ∧ d.Holds kp := by
  refine ⟨_, rfl, ?_⟩; repeat' (with_reducible first | assumption | apply State.dev_holds | apply Dev.retract_holds | apply holds_ite | intro _ | split)

theorem execRetractRegulationEnd_holds {kp : Keep} {s : State} (hk : s.dev.Holds kp) :
    ∃ d, execRetractRegulationEnd s = s.next d ∧ d.Holds kp := by
  refine ⟨_, rfl, ?_⟩; repeat' (with_reducible first | assumption | lift_lets -underBinder | apply State.dev_holds | apply holds_ite | fail_if_no_progress (apply holds_upd <;> try rfl) | rfl | intro _ | split)

theorem execRetractLatchEnd_holds {kp : Keep} {s : State} (hk : s.dev.Holds kp) :
    ∃ d, execRetractLatchEnd s = s.next d ∧ d.Holds kp := by
  refine ⟨_, rfl, ?_⟩; repeat' (with_reducible first | assumption | lift_lets -underBinder | (intro x; refine (fun (hx : Dev.Holds kp x) => ?_) ?_; on_goal 2 => unfold x) | apply State.dev_holds | apply Dev.setF_holds | apply holds_ite | fail_if_no_progress (apply holds_upd <;> try rfl) | rfl | intro _ | split | dsimp +zetaDelta only)

theorem Dev.retractNotice_holds {kp : Keep} {d : Dev} (hk : d.Holds kp) : (d.retractNotice).Holds kp := by
  unfold Dev.retractNotice; repeat' (with_reducible first | assumption | lift_lets -underBinder | (intro x; refine (fun (hx : Dev.Holds kp x) => ?_) ?_; on_goal 2 => unfold x) | apply Dev.setLoad_holds | apply Dev.modeOff_holds | apply Dev.emergencyPark_holds | apply Dev.event_holds | apply holds_ite | fail_if_no_progress (apply holds_upd <;> try rfl) | rfl | intro _ | split | dsimp +zetaDelta only)

end Sys2Proof.Machine
end

