-- ==== Sys2Proof/Laws/Holds/Spindle.lean ====
section
/-! SUPPORT. The operations of Machine/Spindle.lean carry `Dev.Holds`. -/

namespace Sys2Proof.Machine

set_option linter.unusedTactic false
set_option linter.unreachableTactic false

theorem Dev.onSpn_holds {kp : Keep} {d : Dev} (hk : d.Holds kp) (g : Spindle → Spindle) : (d.onSpn g).Holds kp := by
  unfold Dev.onSpn; repeat' (with_reducible first | assumption | lift_lets -underBinder | fail_if_no_progress (apply holds_upd <;> try rfl) | rfl | intro _)

theorem Dev.setSpn_holds {kp : Keep} {d : Dev} (hk : d.Holds kp) (st src : Nat) : (d.setSpn st src).Holds kp := by
  unfold Dev.setSpn; repeat' (with_reducible first | assumption | apply Dev.setF_holds)

theorem Dev.showTarget_holds {kp : Keep} {d : Dev} (hk : d.Holds kp) : (d.showTarget).Holds kp := by
  unfold Dev.showTarget; repeat' (with_reducible first | assumption | apply Dev.setF_holds)

theorem Dev.regulate_holds {kp : Keep} {d : Dev} (hk : d.Holds kp) (ppm : Int) : (d.regulate ppm).Holds kp := by
  unfold Dev.regulate; repeat' (with_reducible first | assumption | lift_lets -underBinder | (intro x; refine (fun (hx : Dev.Holds kp x) => ?_) ?_; on_goal 2 => unfold x) | apply Dev.onSpn_holds | apply holds_ite | fail_if_no_progress (apply holds_upd <;> try rfl) | rfl | intro _ | split | dsimp +zetaDelta only)

theorem Dev.speedInhibit_holds {kp : Keep} {d : Dev} (hk : d.Holds kp) (on : Bool) : (d.speedInhibit on).Holds kp := by
  unfold Dev.speedInhibit; repeat' (with_reducible first | assumption | lift_lets -underBinder | (intro x; refine (fun (hx : Dev.Holds kp x) => ?_) ?_; on_goal 2 => unfold x) | apply Dev.inhibit_holds | apply Dev.release_holds | apply Dev.setF_holds | apply holds_ite | intro _ | split | dsimp +zetaDelta only)

theorem Dev.measure_holds {kp : Keep} {d : Dev} (hk : d.Holds kp) (sixthNs : Nat) : (d.measure sixthNs).Holds kp := by
  unfold Dev.measure; repeat' (with_reducible first | assumption | lift_lets -underBinder | (intro x; refine (fun (hx : Dev.Holds kp x) => ?_) ?_; on_goal 2 => unfold x) | apply Dev.setF_holds | apply Dev.showTarget_holds | apply Dev.regulate_holds | apply Dev.onSpn_holds | apply Dev.speedInhibit_holds | apply Dev.bumpF_holds | apply holds_ite | fail_if_no_progress (apply holds_upd <;> try rfl) | rfl | intro _ | split | dsimp +zetaDelta only)

theorem Dev.speedReached_holds {kp : Keep} {d : Dev} (hk : d.Holds kp) : (d.speedReached).Holds kp := by
  unfold Dev.speedReached; repeat' (with_reducible first | assumption | lift_lets -underBinder | (intro x; refine (fun (hx : Dev.Holds kp x) => ?_) ?_; on_goal 2 => unfold x) | apply Dev.onSpn_holds | apply Dev.setF_holds | apply Dev.endStep_holds | apply holds_ite | fail_if_no_progress (apply holds_upd <;> try rfl) | rfl | intro _ | split | dsimp +zetaDelta only)

theorem Dev.armEdge_holds {kp : Keep} {d : Dev} (hk : d.Holds kp) : (d.armEdge).Holds kp := by
  unfold Dev.armEdge; repeat' (with_reducible first | assumption | lift_lets -underBinder | (intro x; refine (fun (hx : Dev.Holds kp x) => ?_) ?_; on_goal 2 => unfold x) | apply holds_ite | fail_if_no_progress (apply holds_upd <;> try rfl) | rfl | intro _ | split | dsimp +zetaDelta only)

theorem Dev.toObserver_holds {kp : Keep} {d : Dev} (hk : d.Holds kp) : (d.toObserver).Holds kp := by
  unfold Dev.toObserver; repeat' (with_reducible first | assumption | lift_lets -underBinder | (intro x; refine (fun (hx : Dev.Holds kp x) => ?_) ?_; on_goal 2 => unfold x) | apply Dev.onSpn_holds | apply Dev.setF_holds | apply Dev.armEdge_holds | apply holds_ite | fail_if_no_progress (apply holds_upd <;> try rfl) | rfl | intro _ | split | dsimp +zetaDelta only)

theorem Dev.turning_holds {kp : Keep} {d : Dev} (hk : d.Holds kp) : (d.turning).Holds kp := by
  unfold Dev.turning; repeat' (with_reducible first | assumption | apply Dev.setF_holds | apply holds_ite | intro _ | split)

theorem Dev.commutate_holds {kp : Keep} {d : Dev} (hk : d.Holds kp) (sixthNs : Nat) : (d.commutate sixthNs).Holds kp := by
  unfold Dev.commutate; repeat' (with_reducible first | assumption | lift_lets -underBinder | (intro x; refine (fun (hx : Dev.Holds kp x) => ?_) ?_; on_goal 2 => unfold x) | apply Dev.measure_holds | apply Dev.toObserver_holds | apply Dev.onSpn_holds | apply Dev.armEdge_holds | apply Dev.speedReached_holds | apply Dev.turning_holds | apply holds_ite | fail_if_no_progress (apply holds_upd <;> try rfl) | rfl | intro _ | split | dsimp +zetaDelta only)

theorem execCommutationStep_holds {kp : Keep} {s : State} (hk : s.dev.Holds kp) (sixthNs : Nat) :
    ∃ d, execCommutationStep sixthNs s = s.next d ∧ d.Holds kp := by
  refine ⟨_, rfl, ?_⟩; repeat' (with_reducible first | assumption | apply Dev.commutate_holds | apply State.dev_holds)

theorem Dev.spnEvent_holds {kp : Keep} {d : Dev} (hk : d.Holds kp) : (d.spnEvent).Holds kp := by
  unfold Dev.spnEvent; repeat' (with_reducible first | assumption | apply Dev.event_holds)

theorem Dev.beginStart_holds {kp : Keep} {d : Dev} (hk : d.Holds kp) : (d.beginStart).Holds kp := by
  unfold Dev.beginStart; repeat' (with_reducible first | assumption | lift_lets -underBinder | apply Dev.onSpn_holds | apply Dev.setSpn_holds | fail_if_no_progress (apply holds_upd <;> try rfl) | rfl | intro _)

theorem Dev.tryStart_holds {kp : Keep} {d : Dev} (hk : d.Holds kp) : (d.tryStart).Holds kp := by
  unfold Dev.tryStart; repeat' (with_reducible first | assumption | lift_lets -underBinder | (intro x; refine (fun (hx : Dev.Holds kp x) => ?_) ?_; on_goal 2 => unfold x) | apply Dev.showTarget_holds | apply Dev.beginStart_holds | apply Dev.onSpn_holds | apply holds_ite | fail_if_no_progress (apply holds_upd <;> try rfl) | rfl | intro _ | split | dsimp +zetaDelta only)

theorem Dev.driveOff_holds {kp : Keep} {d : Dev} (hk : d.Holds kp) (st : Nat) : (d.driveOff st).Holds kp := by
  unfold Dev.driveOff; repeat' (with_reducible first | assumption | lift_lets -underBinder | apply Dev.onSpn_holds | apply Dev.setF_holds | apply Dev.setSpn_holds | fail_if_no_progress (apply holds_upd <;> try rfl) | rfl | intro _)

theorem Dev.spinRun_holds {kp : Keep} {d : Dev} (hk : d.Holds kp) (run : Bool) : (d.spinRun run).Holds kp := by
  unfold Dev.spinRun; repeat' (with_reducible first | assumption | lift_lets -underBinder | (intro x; refine (fun (hx : Dev.Holds kp x) => ?_) ?_; on_goal 2 => unfold x) | apply Dev.setF_holds | apply Dev.tryStart_holds | apply Dev.onSpn_holds | apply Dev.showTarget_holds | apply Dev.armEdge_holds | apply Dev.driveOff_holds | apply holds_ite | fail_if_no_progress (apply holds_upd <;> try rfl) | rfl | intro _ | split | dsimp +zetaDelta only)

theorem execSpnCtlRun_holds {kp : Keep} {s : State} (hk : s.dev.Holds kp) (cal run : Bool) :
    ∃ d, execSpnCtlRun cal run s = s.next d ∧ d.Holds kp := by
  refine ⟨_, rfl, ?_⟩; repeat' (with_reducible first | assumption | apply Dev.spinRun_holds | apply State.dev_holds | apply Dev.ignoredWrite_holds | apply holds_ite | intro _ | split)

theorem Dev.catchFly_holds {kp : Keep} {d : Dev} (hk : d.Holds kp) (loss : Bool) : (d.catchFly loss).Holds kp := by
  unfold Dev.catchFly; repeat' (with_reducible first | assumption | lift_lets -underBinder | apply Dev.onSpn_holds | apply Dev.setSpn_holds | fail_if_no_progress (apply holds_upd <;> try rfl) | rfl | intro _)

theorem Dev.alignGo_holds {kp : Keep} {d : Dev} (hk : d.Holds kp) : (d.alignGo).Holds kp := by
  unfold Dev.alignGo; repeat' (with_reducible first | assumption | lift_lets -underBinder | apply Dev.onSpn_holds | apply Dev.setSpn_holds | fail_if_no_progress (apply holds_upd <;> try rfl) | rfl | intro _)

theorem Dev.senseEnd_holds {kp : Keep} {d : Dev} (hk : d.Holds kp) (backward : Bool) (rpm : Nat) : (d.senseEnd backward rpm).Holds kp := by
  unfold Dev.senseEnd; repeat' (with_reducible first | assumption | lift_lets -underBinder | (intro x; refine (fun (hx : Dev.Holds kp x) => ?_) ?_; on_goal 2 => unfold x) | apply Dev.setF_holds | apply Dev.alignGo_holds | apply Dev.setSpn_holds | apply Dev.catchFly_holds | apply holds_ite | intro _ | split | dsimp +zetaDelta only)

theorem execSenseEnd_holds {kp : Keep} {s : State} (hk : s.dev.Holds kp) (backward : Bool) (rpm : Nat) :
    ∃ d, execSenseEnd backward rpm s = s.next d ∧ d.Holds kp := by
  refine ⟨_, rfl, ?_⟩; repeat' (with_reducible first | assumption | apply Dev.senseEnd_holds | apply State.dev_holds)

theorem execBrakeEnd_holds {kp : Keep} {s : State} (hk : s.dev.Holds kp) :
    ∃ d, execBrakeEnd s = s.next d ∧ d.Holds kp := by
  refine ⟨_, rfl, ?_⟩; repeat' (with_reducible first | assumption | lift_lets -underBinder | apply State.dev_holds | apply Dev.onSpn_holds | apply Dev.setSpn_holds | apply holds_ite | fail_if_no_progress (apply holds_upd <;> try rfl) | rfl | intro _ | split)

theorem execAlignEnd_holds {kp : Keep} {s : State} (hk : s.dev.Holds kp) :
    ∃ d, execAlignEnd s = s.next d ∧ d.Holds kp := by
  refine ⟨_, rfl, ?_⟩; repeat' (with_reducible first | assumption | lift_lets -underBinder | apply State.dev_holds | apply Dev.onSpn_holds | apply Dev.setSpn_holds | apply holds_ite | fail_if_no_progress (apply holds_upd <;> try rfl) | rfl | intro _ | split)

theorem Dev.observerDrives_holds {kp : Keep} {d : Dev} (hk : d.Holds kp) : (d.observerDrives).Holds kp := by
  unfold Dev.observerDrives; repeat' (with_reducible first | assumption | lift_lets -underBinder | apply Dev.onSpn_holds | apply Dev.setSpn_holds | fail_if_no_progress (apply holds_upd <;> try rfl) | rfl | intro _)

theorem Dev.forcedStep_holds {kp : Keep} {d : Dev} (hk : d.Holds kp) : (d.forcedStep).Holds kp := by
  unfold Dev.forcedStep; repeat' (with_reducible first | assumption | lift_lets -underBinder | (intro x; refine (fun (hx : Dev.Holds kp x) => ?_) ?_; on_goal 2 => unfold x) | apply Dev.onSpn_holds | apply Dev.turning_holds | apply Dev.observerDrives_holds | apply holds_ite | fail_if_no_progress (apply holds_upd <;> try rfl) | rfl | intro _ | split | dsimp +zetaDelta only)

theorem execForcedStep_holds {kp : Keep} {s : State} (hk : s.dev.Holds kp) :
    ∃ d, execForcedStep s = s.next d ∧ d.Holds kp := by
  refine ⟨_, rfl, ?_⟩; repeat' (with_reducible first | assumption | apply Dev.forcedStep_holds | apply State.dev_holds)

theorem Dev.spindleFault_holds {kp : Keep} {d : Dev} (hk : d.Holds kp) : (d.spindleFault).Holds kp := by
  unfold Dev.spindleFault; repeat' (with_reducible first | assumption | lift_lets -underBinder | apply Dev.reportFault_holds | apply Dev.onSpn_holds | apply Dev.setF_holds | apply Dev.driveOff_holds | fail_if_no_progress (apply holds_upd <;> try rfl) | rfl | intro _)

theorem Dev.lockedRotor_holds {kp : Keep} {d : Dev} (hk : d.Holds kp) : (d.lockedRotor).Holds kp := by
  unfold Dev.lockedRotor; repeat' (with_reducible first | assumption | lift_lets -underBinder | (intro x; refine (fun (hx : Dev.Holds kp x) => ?_) ?_; on_goal 2 => unfold x) | apply Dev.bumpF_holds | apply Dev.setF_holds | apply Dev.driveOff_holds | apply Dev.spnEvent_holds | apply Dev.onSpn_holds | apply Dev.spindleFault_holds | apply holds_ite | fail_if_no_progress (apply holds_upd <;> try rfl) | rfl | intro _ | split | dsimp +zetaDelta only)

theorem execLockedRotor_holds {kp : Keep} {s : State} (hk : s.dev.Holds kp) :
    ∃ d, execLockedRotor s = s.next d ∧ d.Holds kp := by
  refine ⟨_, rfl, ?_⟩; repeat' (with_reducible first | assumption | apply Dev.lockedRotor_holds | apply State.dev_holds)

theorem execLockRetry_holds {kp : Keep} {s : State} (hk : s.dev.Holds kp) :
    ∃ d, execLockRetry s = s.next d ∧ d.Holds kp := by
  refine ⟨_, rfl, ?_⟩; repeat' (with_reducible first | assumption | lift_lets -underBinder | (intro x; refine (fun (hx : Dev.Holds kp x) => ?_) ?_; on_goal 2 => unfold x) | apply State.dev_holds | apply Dev.beginStart_holds | apply Dev.onSpn_holds | apply holds_ite | fail_if_no_progress (apply holds_upd <;> try rfl) | rfl | intro _ | split | dsimp +zetaDelta only)

theorem execStartTimeout_holds {kp : Keep} {s : State} (hk : s.dev.Holds kp) :
    ∃ d, execStartTimeout s = s.next d ∧ d.Holds kp := by
  refine ⟨_, rfl, ?_⟩; repeat' (with_reducible first | assumption | lift_lets -underBinder | (intro x; refine (fun (hx : Dev.Holds kp x) => ?_) ?_; on_goal 2 => unfold x) | apply State.dev_holds | apply Dev.spindleFault_holds | apply Dev.spnEvent_holds | apply Dev.setF_holds | apply holds_ite | intro _ | split | dsimp +zetaDelta only)

theorem Dev.restart_holds {kp : Keep} {d : Dev} (hk : d.Holds kp) : (d.restart).Holds kp := by
  unfold Dev.restart; repeat' (with_reducible first | assumption | apply Dev.beginStart_holds | apply Dev.bumpF_holds | apply Dev.setF_holds)

theorem Dev.rotorLost_holds {kp : Keep} {d : Dev} (hk : d.Holds kp) : (d.rotorLost).Holds kp := by
  unfold Dev.rotorLost; repeat' (with_reducible first | assumption | lift_lets -underBinder | (intro x; refine (fun (hx : Dev.Holds kp x) => ?_) ?_; on_goal 2 => unfold x) | apply Dev.spnEvent_holds | apply Dev.setF_holds | apply Dev.bumpF_holds | apply Dev.onSpn_holds | apply Dev.setSpn_holds | apply holds_ite | fail_if_no_progress (apply holds_upd <;> try rfl) | rfl | intro _ | split | dsimp +zetaDelta only)

theorem Dev.checkCrossing_holds {kp : Keep} {d : Dev} (hk : d.Holds kp) (err : Int) : (d.checkCrossing err).Holds kp := by
  unfold Dev.checkCrossing; repeat' (with_reducible first | assumption | lift_lets -underBinder | (intro x; refine (fun (hx : Dev.Holds kp x) => ?_) ?_; on_goal 2 => unfold x) | apply Dev.setF_holds | apply Dev.rotorLost_holds | apply Dev.onSpn_holds | apply Dev.armEdge_holds | apply holds_ite | fail_if_no_progress (apply holds_upd <;> try rfl) | rfl | intro _ | split | dsimp +zetaDelta only)

theorem Dev.crossing_holds {kp : Keep} {d : Dev} (hk : d.Holds kp) (err : Int) (fits : Bool) : (d.crossing err fits).Holds kp := by
  unfold Dev.crossing; repeat' (with_reducible first | assumption | lift_lets -underBinder | (intro x; refine (fun (hx : Dev.Holds kp x) => ?_) ?_; on_goal 2 => unfold x) | apply Dev.onSpn_holds | apply Dev.observerDrives_holds | apply Dev.checkCrossing_holds | apply holds_ite | fail_if_no_progress (apply holds_upd <;> try rfl) | rfl | intro _ | split | dsimp +zetaDelta only)

theorem execZeroCrossing_holds {kp : Keep} {s : State} (hk : s.dev.Holds kp) (err : Int) (fits : Bool) :
    ∃ d, execZeroCrossing err fits s = s.next d ∧ d.Holds kp := by
  refine ⟨_, rfl, ?_⟩; repeat' (with_reducible first | assumption | apply Dev.crossing_holds | apply State.dev_holds)

theorem execMissedCrossing_holds {kp : Keep} {s : State} (hk : s.dev.Holds kp) :
    ∃ d, execMissedCrossing s = s.next d ∧ d.Holds kp := by
  refine ⟨_, rfl, ?_⟩; repeat' (with_reducible first | assumption | lift_lets -underBinder | (intro x; refine (fun (hx : Dev.Holds kp x) => ?_) ?_; on_goal 2 => unfold x) | apply State.dev_holds | apply Dev.bumpF_holds | apply Dev.rotorLost_holds | apply holds_ite | intro _ | split | dsimp +zetaDelta only)

theorem execCoastEnd_holds {kp : Keep} {s : State} (hk : s.dev.Holds kp) :
    ∃ d, execCoastEnd s = s.next d ∧ d.Holds kp := by
  refine ⟨_, rfl, ?_⟩; repeat' (with_reducible first | assumption | lift_lets -underBinder | (intro x; refine (fun (hx : Dev.Holds kp x) => ?_) ?_; on_goal 2 => unfold x) | apply State.dev_holds | apply Dev.catchFly_holds | apply holds_ite | intro _ | split | dsimp +zetaDelta only)

theorem execCatchTimeout_holds {kp : Keep} {s : State} (hk : s.dev.Holds kp) :
    ∃ d, execCatchTimeout s = s.next d ∧ d.Holds kp := by
  refine ⟨_, rfl, ?_⟩; repeat' (with_reducible first | assumption | lift_lets -underBinder | (intro x; refine (fun (hx : Dev.Holds kp x) => ?_) ?_; on_goal 2 => unfold x) | apply State.dev_holds | apply Dev.restart_holds | apply holds_ite | intro _ | split | dsimp +zetaDelta only)

theorem Dev.spinStopped_holds {kp : Keep} {d : Dev} (hk : d.Holds kp) : (d.spinStopped).Holds kp := by
  unfold Dev.spinStopped; repeat' (with_reducible first | assumption | lift_lets -underBinder | (intro x; refine (fun (hx : Dev.Holds kp x) => ?_) ?_; on_goal 2 => unfold x) | apply Dev.onSpn_holds | apply Dev.setF_holds | apply Dev.setSpn_holds | apply holds_ite | fail_if_no_progress (apply holds_upd <;> try rfl) | rfl | intro _ | split | dsimp +zetaDelta only)

theorem execSpindleStopped_holds {kp : Keep} {s : State} (hk : s.dev.Holds kp) :
    ∃ d, execSpindleStopped s = s.next d ∧ d.Holds kp := by
  refine ⟨_, rfl, ?_⟩; repeat' (with_reducible first | assumption | apply Dev.tryStart_holds | apply Dev.spinStopped_holds | apply State.dev_holds)

theorem execSpinUp_holds {kp : Keep} {s : State} (hk : s.dev.Holds kp) :
    ∃ d, execSpinUp s = s.next d ∧ d.Holds kp := by
  refine ⟨_, rfl, ?_⟩; repeat' (with_reducible first | assumption | apply State.dev_holds | apply Dev.spinRun_holds | apply holds_ite | intro _ | split)

end Sys2Proof.Machine
end

