-- ==== Sys2Proof/Laws/Holds/Fragment.lean ====
section
/-! SUPPORT. The operations of Machine/Fragment.lean carry `Dev.Holds`. -/

namespace Sys2Proof.Machine

set_option linter.unusedTactic false
set_option linter.unreachableTactic false

theorem Dev.openRecord_holds {kp : Keep} {d : Dev} (hk : d.Holds kp) (a : Act) (e : PlankEntry) (darg band pos : Nat) (sampled : Bool) : (d.openRecord a e darg band pos sampled).Holds kp := by
  unfold Dev.openRecord; repeat' (with_reducible first | assumption | lift_lets -underBinder | (intro x; refine (fun (hx : Dev.Holds kp x) => ?_) ?_; on_goal 2 => unfold x) | apply Dev.onChn_holds | apply Dev.onBlk_holds | apply Dev.onDet_holds | apply holds_ite | fail_if_no_progress (apply holds_upd <;> try rfl) | rfl | intro _ | split | dsimp +zetaDelta only)

theorem Dev.beginRead_holds {kp : Keep} {d : Dev} (hk : d.Holds kp) (a : Act) (darg : Nat) : (d.beginRead a darg).Holds kp := by
  unfold Dev.beginRead; repeat' (with_reducible first | assumption | lift_lets -underBinder | (intro x; refine (fun (hx : Dev.Holds kp x) => ?_) ?_; on_goal 2 => unfold x) | apply Dev.openRecord_holds | apply Dev.onBlk_holds | apply holds_ite | fail_if_no_progress (apply holds_upd <;> try rfl) | rfl | intro _ | split | dsimp +zetaDelta only)

theorem Dev.placeFrag_holds {kp : Keep} {d : Dev} (hk : d.Holds kp) (a : Act) (r : FragRun) (o : FragObs) : (d.placeFrag a r o).Holds kp := by
  unfold Dev.placeFrag; repeat' (with_reducible first | assumption | lift_lets -underBinder | (intro x; refine (fun (hx : Dev.Holds kp x) => ?_) ?_; on_goal 2 => unfold x) | apply Dev.onBlk_holds | apply Dev.onChn_holds | apply holds_ite | fail_if_no_progress (apply holds_upd <;> try rfl) | rfl | intro _ | split | dsimp +zetaDelta only)

theorem Dev.countLanes_holds {kp : Keep} {d : Dev} (hk : d.Holds kp) (a : Act) (bad : Nat) : (d.countLanes a bad).Holds kp := by
  unfold Dev.countLanes; repeat' (with_reducible first | assumption | refine holds_foldl (fun _ _ _ => ?_) _ ?_ | refine holds_foldl_snd (fun _ _ _ => ?_) _ ?_ | lift_lets -underBinder | (intro x; refine (fun (hx : Dev.Holds kp x) => ?_) ?_; on_goal 2 => unfold x) | apply Dev.onChn_holds | apply holds_ite | fail_if_no_progress (apply holds_upd <;> try rfl) | rfl | intro _ | split | dsimp +zetaDelta only)

theorem Dev.countSaturated_holds {kp : Keep} {d : Dev} (hk : d.Holds kp) (a : Act) (n : List Nat) : (d.countSaturated a n).Holds kp := by
  unfold Dev.countSaturated; repeat' (with_reducible first | assumption | apply Dev.bumpF_holds)

theorem Dev.lastRead_holds {kp : Keep} {d : Dev} (hk : d.Holds kp) (a : Act) (r : LadderRec) : (d.lastRead a r).Holds kp := by
  unfold Dev.lastRead; repeat' (with_reducible first | assumption | lift_lets -underBinder | apply Dev.failRung0_holds | apply Dev.onDet_holds | apply holds_ite | fail_if_no_progress (apply holds_upd <;> try rfl) | rfl | intro _ | split)

theorem Dev.lastAttempt_holds {kp : Keep} {d : Dev} (hk : d.Holds kp) (a : Act) (q : LadderRec) (darg : Nat) : (d.lastAttempt a q darg).Holds kp := by
  unfold Dev.lastAttempt; repeat' (with_reducible first | assumption | lift_lets -underBinder | (intro x; refine (fun (hx : Dev.Holds kp x) => ?_) ?_; on_goal 2 => unfold x) | apply Dev.onDet_holds | apply Dev.ladderOn_holds | apply holds_ite | fail_if_no_progress (apply holds_upd <;> try rfl) | rfl | intro _ | split | dsimp +zetaDelta only)

theorem Dev.neighbourRead_holds {kp : Keep} {d : Dev} (hk : d.Holds kp) (a : Act) : (d.neighbourRead a).Holds kp := by
  unfold Dev.neighbourRead; repeat' (with_reducible first | assumption | lift_lets -underBinder | (intro x; refine (fun (hx : Dev.Holds kp x) => ?_) ?_; on_goal 2 => unfold x) | apply Dev.onDet_holds | apply holds_ite | fail_if_no_progress (apply holds_upd <;> try rfl) | rfl | intro _ | split | dsimp +zetaDelta only)

theorem Dev.endRead_holds {kp : Keep} {d : Dev} (hk : d.Holds kp) (a : Act) (r : FragRun) (o : FragObs) : (d.endRead a r o).Holds kp := by
  unfold Dev.endRead; repeat' (with_reducible first | assumption | lift_lets -underBinder | (intro x; refine (fun (hx : Dev.Holds kp x) => ?_) ?_; on_goal 2 => unfold x) | apply Dev.onBlk_holds | apply Dev.placeFrag_holds | apply Dev.countSaturated_holds | apply Dev.countLanes_holds | apply Dev.neighbourRead_holds | apply Dev.lastAttempt_holds | apply Dev.lastRead_holds | apply holds_ite | fail_if_no_progress (apply holds_upd <;> try rfl) | rfl | intro _ | split | dsimp +zetaDelta only)

theorem Dev.readFrag_holds {kp : Keep} {d : Dev} (hk : d.Holds kp) (a : Act) (darg : Nat) (o : FragObs) : (d.readFrag a darg o).Holds kp := by
  unfold Dev.readFrag; repeat' (with_reducible first | assumption | lift_lets -underBinder | (intro x; refine (fun (hx : Dev.Holds kp x) => ?_) ?_; on_goal 2 => unfold x) | apply Dev.beginRead_holds | apply Dev.openRead_holds | apply Dev.endRead_holds | apply holds_ite | fail_if_no_progress (apply holds_upd <;> try rfl) | rfl | intro _ | split | dsimp +zetaDelta only)

theorem execReadFrag_holds {kp : Keep} {s : State} (hk : s.dev.Holds kp) (hr : kp.recs = none) (a : Act) (darg : Nat) (o : FragObs) :
    ∃ d, execReadFrag a darg o s = s.next d ∧ d.Holds kp := by
  refine ⟨_, rfl, ?_⟩; repeat' (with_reducible first | assumption | apply State.dev_holds | apply Dev.settle_holds | apply Dev.readFrag_holds | apply holds_ite | intro _ | split)

theorem Dev.beginWrite_holds {kp : Keep} {d : Dev} (hk : d.Holds kp) (a : Act) (refused : Bool) : (d.beginWrite a refused).Holds kp := by
  unfold Dev.beginWrite; repeat' (with_reducible first | assumption | lift_lets -underBinder | (intro x; refine (fun (hx : Dev.Holds kp x) => ?_) ?_; on_goal 2 => unfold x) | apply Dev.onBlk_holds | apply Dev.writeFault_holds | apply holds_ite | fail_if_no_progress (apply holds_upd <;> try rfl) | rfl | intro _ | split | dsimp +zetaDelta only)

theorem Dev.boltStands_holds {kp : Keep} {d : Dev} (hk : d.Holds kp) (hr : kp.recs = none) (a : Act) (info : TagInfo) (band pos : Nat) (p : Place) : (d.boltStands a info band pos p).Holds kp := by
  unfold Dev.boltStands; repeat' (with_reducible first | assumption | lift_lets -underBinder | (intro x; refine (fun (hx : Dev.Holds kp x) => ?_) ?_; on_goal 2 => unfold x) | apply Dev.onBlk_holds | apply Dev.storeRec_holds | apply Dev.onWr_holds | apply Dev.askRecord_holds | apply Dev.boltWritten_holds | apply holds_ite | fail_if_no_progress (apply holds_upd <;> try rfl) | rfl | intro _ | split | dsimp +zetaDelta only)

theorem Dev.recordStands_holds {kp : Keep} {d : Dev} (hk : d.Holds kp) (hr : kp.recs = none) (a : Act) (band pos : Nat) : (d.recordStands a band pos).Holds kp := by
  unfold Dev.recordStands; repeat' (with_reducible first | assumption | lift_lets -underBinder | (intro x; refine (fun (hx : Dev.Holds kp x) => ?_) ?_; on_goal 2 => unfold x) | apply Dev.onBlk_holds | apply Dev.onWr_holds | apply Dev.boltStands_holds | apply Dev.convWritten_holds | apply Dev.storeRec_holds | apply holds_ite | fail_if_no_progress (apply holds_upd <;> try rfl) | rfl | intro _ | split | dsimp +zetaDelta only)

theorem Dev.endWrite_holds {kp : Keep} {d : Dev} (hk : d.Holds kp) (hr : kp.recs = none) (a : Act) (r : FragRun) : (d.endWrite a r).Holds kp := by
  unfold Dev.endWrite; repeat' (with_reducible first | assumption | lift_lets -underBinder | (intro x; refine (fun (hx : Dev.Holds kp x) => ?_) ?_; on_goal 2 => unfold x) | apply Dev.onBlk_holds | apply Dev.closeWrite_holds | apply Dev.onWr_holds | apply Dev.recordStands_holds | apply holds_ite | fail_if_no_progress (apply holds_upd <;> try rfl) | rfl | intro _ | split | dsimp +zetaDelta only)

theorem Dev.writeFrag_holds {kp : Keep} {d : Dev} (hk : d.Holds kp) (hr : kp.recs = none) (a : Act) : (d.writeFrag a).Holds kp := by
  unfold Dev.writeFrag; repeat' (with_reducible first | assumption | lift_lets -underBinder | (intro x; refine (fun (hx : Dev.Holds kp x) => ?_) ?_; on_goal 2 => unfold x) | apply Dev.beginWrite_holds | apply Dev.openWrite_holds | apply Dev.endWrite_holds | apply holds_ite | fail_if_no_progress (apply holds_upd <;> try rfl) | rfl | intro _ | split | dsimp +zetaDelta only)

theorem execWriteFrag_holds {kp : Keep} {s : State} (hk : s.dev.Holds kp) (hr : kp.recs = none) (a : Act) :
    ∃ d, execWriteFrag a s = s.next d ∧ d.Holds kp := by
  refine ⟨_, rfl, ?_⟩; repeat' (with_reducible first | assumption | apply State.dev_holds | apply Dev.settle_holds | apply Dev.writeFrag_holds | apply holds_ite | intro _ | split)

end Sys2Proof.Machine
end

