-- ==== Sys2Proof/Laws/Holds/Micro.lean ====
section
/-! SUPPORT. The operations of Machine/Micro.lean carry `Dev.Holds`. -/

namespace Sys2Proof.Machine

set_option linter.unusedTactic false
set_option linter.unreachableTactic false

theorem Dev.gopStep_holds {kp : Keep} {d : Dev} (hk : d.Holds kp) (a : Act) (m : Micro) (x y : Word) : (d.gopStep a m x y).Holds kp := by
  unfold Dev.gopStep; repeat' (with_reducible first | assumption | lift_lets -underBinder | (intro x; refine (fun (hx : Dev.Holds kp x) => ?_) ?_; on_goal 2 => unfold x) | apply Dev.onBlk_holds | apply holds_ite | fail_if_no_progress (apply holds_upd <;> try rfl) | rfl | intro _ | split | dsimp +zetaDelta only)

end Sys2Proof.Machine
end

