-- ==== Sys2Proof/Laws/Holds/Blocker.lean ====
section
/-! SUPPORT. The operations of Machine/Blocker.lean carry `Dev.Holds`. -/

namespace Sys2Proof.Machine

set_option linter.unusedTactic false
set_option linter.unreachableTactic false

theorem Dev.bindNothing_holds {kp : Keep} {d : Dev} (hk : d.Holds kp) (a : Act) : (d.bindNothing a).Holds kp := by
  unfold Dev.bindNothing; repeat' (with_reducible first | assumption | lift_lets -underBinder | apply Dev.event_holds | apply Dev.onBlk_holds | fail_if_no_progress (apply holds_upd <;> try rfl) | rfl | intro _)

theorem Dev.recordError_holds {kp : Keep} {d : Dev} (hk : d.Holds kp) (a : Act) (h z : Nat) (f : Fetch) : (d.recordError a h z f).Holds kp := by
  unfold Dev.recordError; repeat' (with_reducible first | assumption | lift_lets -underBinder | (intro x; refine (fun (hx : Dev.Holds kp x) => ?_) ?_; on_goal 2 => unfold x) | apply Dev.event_holds | apply Dev.setF_holds | apply Dev.reportFault_holds | apply holds_ite | intro _ | split | dsimp +zetaDelta only)

theorem Dev.writeRecordError_holds {kp : Keep} {d : Dev} (hk : d.Holds kp) (a : Act) (h z : Nat) (f : Fetch) : (d.writeRecordError a h z f).Holds kp := by
  unfold Dev.writeRecordError; repeat' (with_reducible first | assumption | lift_lets -underBinder | (intro x; refine (fun (hx : Dev.Holds kp x) => ?_) ?_; on_goal 2 => unfold x) | apply Dev.event_holds | apply Dev.reportFault_holds | apply holds_ite | intro _ | split | dsimp +zetaDelta only)

theorem Dev.copyRecords_holds {kp : Keep} {d : Dev} (hk : d.Holds kp) (a : Act) (h z : Nat) : (d.copyRecords a h z).Holds kp := by
  unfold Dev.copyRecords; repeat' (with_reducible first | assumption | lift_lets -underBinder | (intro x; refine (fun (hx : Dev.Holds kp x) => ?_) ?_; on_goal 2 => unfold x) | apply Dev.onWr_holds | apply Dev.onChn_holds | apply Dev.setF_holds | fail_if_no_progress (apply holds_upd <;> try rfl) | rfl | intro _ | dsimp +zetaDelta only)

theorem Dev.bindRecords_holds {kp : Keep} {d : Dev} (hk : d.Holds kp) (a : Act) (h z : Nat) (o : WordObs) : (d.bindRecords a h z o).Holds kp := by
  unfold Dev.bindRecords; repeat' (with_reducible first | assumption | lift_lets -underBinder | (intro x; refine (fun (hx : Dev.Holds kp x) => ?_) ?_; on_goal 2 => unfold x) | apply Dev.writeRecordError_holds | apply Dev.recordError_holds | apply Dev.onWr_holds | apply Dev.onChn_holds | apply Dev.copyRecords_holds | apply Dev.setF_holds | apply Dev.tune_holds | apply Dev.sendWriteRecord_holds | apply holds_ite | fail_if_no_progress (apply holds_upd <;> try rfl) | rfl | intro _ | split | dsimp +zetaDelta only)

theorem Dev.bindPlank_holds {kp : Keep} {d : Dev} (hk : d.Holds kp) (a : Act) (o : WordObs) : (d.bindPlank a o).Holds kp := by
  unfold Dev.bindPlank; repeat' (with_reducible first | assumption | lift_lets -underBinder | (intro x; refine (fun (hx : Dev.Holds kp x) => ?_) ?_; on_goal 2 => unfold x) | apply Dev.bindNothing_holds | apply Dev.onBlk_holds | apply Dev.bindRecords_holds | apply Dev.onDet_holds | apply holds_ite | fail_if_no_progress (apply holds_upd <;> try rfl) | rfl | intro _ | split | dsimp +zetaDelta only)

theorem Dev.findSlot_holds {kp : Keep} {d : Dev} (hk : d.Holds kp) (a : Act) (slot : Nat) : (d.findSlot a slot).Holds kp := by
  unfold Dev.findSlot; repeat' (with_reducible first | assumption | lift_lets -underBinder | (intro x; refine (fun (hx : Dev.Holds kp x) => ?_) ?_; on_goal 2 => unfold x) | apply Dev.onBlk_holds | apply holds_ite | fail_if_no_progress (apply holds_upd <;> try rfl) | rfl | intro _ | split | dsimp +zetaDelta only)

theorem Dev.freeReqPair_holds {kp : Keep} {d : Dev} (hk : d.Holds kp) (a : Act) (r : BlkReq) : (d.freeReqPair a r).Holds kp := by
  unfold Dev.freeReqPair; repeat' (with_reducible first | assumption | lift_lets -underBinder | apply holds_ite | fail_if_no_progress (apply holds_upd <;> try rfl) | rfl | intro _ | split)

theorem Dev.foldStood_holds {kp : Keep} {d : Dev} (hk : d.Holds kp) (a : Act) : (d.foldStood a).Holds kp := by
  unfold Dev.foldStood; repeat' (with_reducible first | assumption | refine holds_foldl (fun _ _ _ => ?_) _ ?_ | refine holds_foldl_fst (fun _ _ _ => ?_) _ ?_ | refine holds_foldl_snd (fun _ _ _ => ?_) _ ?_ | lift_lets -underBinder | (intro x; refine (fun (hx : Dev.Holds kp x) => ?_) ?_; on_goal 2 => unfold x) | apply Dev.foldBolt_holds | apply Dev.onBlk_holds | apply holds_ite | fail_if_no_progress (apply holds_upd <;> try rfl) | rfl | intro _ | split | dsimp +zetaDelta only)

theorem Dev.reissue_holds {kp : Keep} {d : Dev} (hk : d.Holds kp) (a : Act) (r : BlkReq) : (d.reissue a r).Holds kp := by
  unfold Dev.reissue; repeat' (with_reducible first | assumption | lift_lets -underBinder | (intro x; refine (fun (hx : Dev.Holds kp x) => ?_) ?_; on_goal 2 => unfold x) | apply Dev.askConvWrite_holds | apply holds_ite | fail_if_no_progress (apply holds_upd <;> try rfl) | rfl | intro _ | split | dsimp +zetaDelta only)

theorem Dev.noteWrite_holds {kp : Keep} {d : Dev} (hk : d.Holds kp) (a : Act) (r : BlkReq) : (d.noteWrite a r).Holds kp := by
  unfold Dev.noteWrite; repeat' (with_reducible first | assumption | lift_lets -underBinder | (intro x; refine (fun (hx : Dev.Holds kp x) => ?_) ?_; on_goal 2 => unfold x) | apply Dev.onWr_holds | apply holds_ite | fail_if_no_progress (apply holds_upd <;> try rfl) | rfl | intro _ | split | dsimp +zetaDelta only)

theorem Dev.postCut_holds {kp : Keep} {d : Dev} (hk : d.Holds kp) (a : Act) : (d.postCut a).Holds kp := by
  unfold Dev.postCut; repeat' (with_reducible first | assumption | lift_lets -underBinder | (intro x; refine (fun (hx : Dev.Holds kp x) => ?_) ?_; on_goal 2 => unfold x) | apply Dev.enterRung_holds | apply Dev.unrecovered_holds | apply holds_ite | fail_if_no_progress (apply holds_upd <;> try rfl) | rfl | intro _ | split | dsimp +zetaDelta only)

theorem Dev.post_holds {kp : Keep} {d : Dev} (hk : d.Holds kp) (a : Act) (status : Word) : (d.post a status).Holds kp := by
  unfold Dev.post; repeat' (with_reducible first | assumption | lift_lets -underBinder | (intro x; refine (fun (hx : Dev.Holds kp x) => ?_) ?_; on_goal 2 => unfold x) | apply Dev.noteWrite_holds | apply Dev.freeReqPair_holds | apply Dev.foldStood_holds | apply Dev.postCut_holds | apply Dev.reissue_holds | apply Dev.onBlk_holds | fail_if_no_progress (apply holds_upd <;> try rfl) | rfl | intro _ | split | dsimp +zetaDelta only)

theorem Dev.accept_holds {kp : Keep} {d : Dev} (hk : d.Holds kp) (a : Act) : (d.accept a).Holds kp := by
  unfold Dev.accept; repeat' (with_reducible first | assumption | lift_lets -underBinder | (intro x; refine (fun (hx : Dev.Holds kp x) => ?_) ?_; on_goal 2 => unfold x) | apply Dev.onBlk_holds | fail_if_no_progress (apply holds_upd <;> try rfl) | rfl | intro _ | split | dsimp +zetaDelta only)

theorem Dev.feltArm_holds {kp : Keep} {d : Dev} (hk : d.Holds kp) (a : Act) : (d.feltArm a).Holds kp := by
  unfold Dev.feltArm; repeat' (with_reducible first | assumption | lift_lets -underBinder | apply Dev.onBlk_holds | apply holds_ite | fail_if_no_progress (apply holds_upd <;> try rfl) | rfl | intro _ | split)

theorem Dev.withdrawTags_holds {kp : Keep} {d : Dev} (hk : d.Holds kp) (a : Act) (tags : List Nat) : (d.withdrawTags a tags).Holds kp := by
  unfold Dev.withdrawTags; repeat' (with_reducible first | assumption | refine holds_foldl (fun _ _ _ => ?_) _ ?_ | refine holds_foldl_snd (fun _ _ _ => ?_) _ ?_ | lift_lets -underBinder | (intro x; refine (fun (hx : Dev.Holds kp x) => ?_) ?_; on_goal 2 => unfold x) | apply Dev.onBlk_holds | apply Dev.withdrawLadder_holds | apply Dev.raiseEvt_holds | apply holds_ite | fail_if_no_progress (apply holds_upd <;> try rfl) | rfl | intro _ | split | dsimp +zetaDelta only)

theorem Dev.noteCheck_holds {kp : Keep} {d : Dev} (hk : d.Holds kp) (a : Act) (h : Nat) (bad : Bool) : (d.noteCheck a h bad).Holds kp := by
  unfold Dev.noteCheck; repeat' (with_reducible first | assumption | lift_lets -underBinder | (intro x; refine (fun (hx : Dev.Holds kp x) => ?_) ?_; on_goal 2 => unfold x) | apply Dev.onWr_holds | apply holds_ite | fail_if_no_progress (apply holds_upd <;> try rfl) | rfl | intro _ | split | dsimp +zetaDelta only)

theorem Dev.rewriteMarked_holds {kp : Keep} {d : Dev} (hk : d.Holds kp) (a : Act) (h : Nat) (info : TagInfo) (band pos : Nat) : (d.rewriteMarked a h info band pos).Holds kp := by
  unfold Dev.rewriteMarked; repeat' (with_reducible first | assumption | lift_lets -underBinder | (intro x; refine (fun (hx : Dev.Holds kp x) => ?_) ?_; on_goal 2 => unfold x) | apply Dev.condemn_holds | apply Dev.onWr_holds | apply Dev.askRecord_holds | fail_if_no_progress (apply holds_upd <;> try rfl) | rfl | intro _ | split | dsimp +zetaDelta only)

theorem Dev.rawCheck_holds {kp : Keep} {d : Dev} (hk : d.Holds kp) (a : Act) (same : Bool) : (d.rawCheck a same).Holds kp := by
  unfold Dev.rawCheck; repeat' (with_reducible first | assumption | lift_lets -underBinder | (intro x; refine (fun (hx : Dev.Holds kp x) => ?_) ?_; on_goal 2 => unfold x) | apply Dev.noteCheck_holds | apply Dev.bumpF_holds | apply Dev.onBlk_holds | apply Dev.boltWritten_holds | apply Dev.onWr_holds | apply Dev.rewriteMarked_holds | apply holds_ite | fail_if_no_progress (apply holds_upd <;> try rfl) | rfl | intro _ | split | dsimp +zetaDelta only)

theorem Dev.lateLaunch_holds {kp : Keep} {d : Dev} (hk : d.Holds kp) (a : Act) : (d.lateLaunch a).Holds kp := by
  unfold Dev.lateLaunch; repeat' (with_reducible first | assumption | lift_lets -underBinder | (intro x; refine (fun (hx : Dev.Holds kp x) => ?_) ?_; on_goal 2 => unfold x) | apply Dev.setF_holds | fail_if_no_progress (apply holds_upd <;> try rfl) | rfl | intro _ | dsimp +zetaDelta only)

theorem Dev.missStamp_holds {kp : Keep} {d : Dev} (hk : d.Holds kp) (a : Act) (m : Micro) : (d.missStamp a m).Holds kp := by
  unfold Dev.missStamp; repeat' (with_reducible first | assumption | lift_lets -underBinder | (intro x; refine (fun (hx : Dev.Holds kp x) => ?_) ?_; on_goal 2 => unfold x) | apply Dev.raiseEvt_holds | apply Dev.onBlk_holds | apply Dev.writeFault_holds | apply holds_ite | fail_if_no_progress (apply holds_upd <;> try rfl) | rfl | intro _ | split | dsimp +zetaDelta only)

theorem Dev.armBackOff_holds {kp : Keep} {d : Dev} (hk : d.Holds kp) (a : Act) (m : Micro) (s : Stamp) : (d.armBackOff a m s).Holds kp := by
  unfold Dev.armBackOff; repeat' (with_reducible first | assumption | lift_lets -underBinder | (intro x; refine (fun (hx : Dev.Holds kp x) => ?_) ?_; on_goal 2 => unfold x) | apply Dev.armPreBias_holds | apply Dev.backOffStart_holds | apply holds_ite | fail_if_no_progress (apply holds_upd <;> try rfl) | rfl | intro _ | split | dsimp +zetaDelta only)

theorem Dev.armStamp_holds {kp : Keep} {d : Dev} (hk : d.Holds kp) (a : Act) (m : Micro) (s : Stamp) : (d.armStamp a m s).Holds kp := by
  unfold Dev.armStamp; repeat' (with_reducible first | assumption | lift_lets -underBinder | (intro x; refine (fun (hx : Dev.Holds kp x) => ?_) ?_; on_goal 2 => unfold x) | apply Dev.armBackOff_holds | apply Dev.onBlk_holds | fail_if_no_progress (apply holds_upd <;> try rfl) | rfl | intro _ | dsimp +zetaDelta only)

theorem Dev.issueAg_holds {kp : Keep} {d : Dev} (hk : d.Holds kp) (a : Act) (m : Micro) (o : WordObs) : (d.issueAg a m o).Holds kp := by
  unfold Dev.issueAg; repeat' (with_reducible first | assumption | lift_lets -underBinder | apply Dev.preBiasAt_holds | apply Dev.operate_holds | apply Dev.laneOff_holds | fail_if_no_progress (apply holds_upd <;> try rfl) | rfl | intro _ | split)

theorem Dev.issueSg_holds {kp : Keep} {d : Dev} (hk : d.Holds kp) (a : Act) (m : Micro) : (d.issueSg a m).Holds kp := by
  unfold Dev.issueSg; repeat' (with_reducible first | assumption | lift_lets -underBinder | apply Dev.onBlk_holds | apply Dev.event_holds | apply holds_ite | fail_if_no_progress (apply holds_upd <;> try rfl) | rfl | intro _ | split)

theorem Dev.issueGates_holds {kp : Keep} {d : Dev} (hk : d.Holds kp) (a : Act) (m : Micro) : (d.issueGates a m).Holds kp := by
  unfold Dev.issueGates; repeat' (with_reducible first | assumption | lift_lets -underBinder | (intro x; refine (fun (hx : Dev.Holds kp x) => ?_) ?_; on_goal 2 => unfold x) | apply Dev.openRead_holds | apply Dev.cutRead_holds | apply Dev.openWrite_holds | apply Dev.closeWrite_holds | apply Dev.writeFault_holds | apply holds_ite | fail_if_no_progress (apply holds_upd <;> try rfl) | rfl | intro _ | split | dsimp +zetaDelta only)

theorem Dev.loadRec_holds {kp : Keep} {d : Dev} (hk : d.Holds kp) (a : Act) : (d.loadRec a).Holds kp := by
  unfold Dev.loadRec; repeat' (with_reducible first | assumption | lift_lets -underBinder | apply Dev.onBlk_holds | fail_if_no_progress (apply holds_upd <;> try rfl) | rfl | intro _)

theorem Dev.servoDo_holds {kp : Keep} {d : Dev} (hk : d.Holds kp) (a : Act) (darg h : Nat) : (d.servoDo a darg h).Holds kp := by
  unfold Dev.servoDo; repeat' (with_reducible first | assumption | lift_lets -underBinder | apply Dev.servoReq_holds | apply Dev.servoLoad_holds | apply Dev.servoUnload_holds | fail_if_no_progress (apply holds_upd <;> try rfl) | rfl | intro _ | split)

theorem Dev.issueDop_holds {kp : Keep} {d : Dev} (hk : d.Holds kp) (a : Act) (m : Micro) (o : WordObs) : (d.issueDop a m o).Holds kp := by
  unfold Dev.issueDop; repeat' (with_reducible first | assumption | lift_lets -underBinder | apply Dev.beginRead_holds | apply Dev.beginWrite_holds | apply Dev.loadRec_holds | apply Dev.feltArm_holds | apply Dev.heater_holds | apply Dev.servoDo_holds | apply Dev.post_holds | apply Dev.accept_holds | apply Dev.onDet_holds | apply Dev.rawCheck_holds | apply Dev.onBlk_holds | fail_if_no_progress (apply holds_upd <;> try rfl) | rfl | intro _ | split)

theorem Dev.issue_holds {kp : Keep} {d : Dev} (hk : d.Holds kp) (a : Act) (m : Micro) (o : WordObs) : (d.issue a m o).Holds kp := by
  unfold Dev.issue; repeat' (with_reducible first | assumption | lift_lets -underBinder | (intro x; refine (fun (hx : Dev.Holds kp x) => ?_) ?_; on_goal 2 => unfold x) | apply Dev.servoHead_holds | apply Dev.issueDop_holds | apply Dev.issueGates_holds | apply Dev.issueSg_holds | apply Dev.issueAg_holds | apply holds_ite | intro _ | split | dsimp +zetaDelta only)

theorem Dev.abandon_holds {kp : Keep} {d : Dev} (hk : d.Holds kp) (a : Act) : (d.abandon a).Holds kp := by
  unfold Dev.abandon; repeat' (with_reducible first | assumption | lift_lets -underBinder | (intro x; refine (fun (hx : Dev.Holds kp x) => ?_) ?_; on_goal 2 => unfold x) | apply Dev.onBlk_holds | apply Dev.event_holds | apply holds_ite | fail_if_no_progress (apply holds_upd <;> try rfl) | rfl | intro _ | split | dsimp +zetaDelta only)

theorem Dev.returnTo_holds {kp : Keep} {d : Dev} (hk : d.Holds kp) (a : Act) : (d.returnTo a).Holds kp := by
  unfold Dev.returnTo; repeat' (with_reducible first | assumption | lift_lets -underBinder | (intro x; refine (fun (hx : Dev.Holds kp x) => ?_) ?_; on_goal 2 => unfold x) | apply Dev.abandon_holds | apply Dev.onBlk_holds | apply holds_ite | fail_if_no_progress (apply holds_upd <;> try rfl) | rfl | intro _ | split | dsimp +zetaDelta only)

theorem Dev.blockerFresh_holds {kp : Keep} {d : Dev} (hk : d.Holds kp) (a : Act) (store : List (Nat × BitVec 144)) : (d.blockerFresh a store).Holds kp := by
  unfold Dev.blockerFresh; repeat' (with_reducible first | assumption | lift_lets -underBinder | (intro x; refine (fun (hx : Dev.Holds kp x) => ?_) ?_; on_goal 2 => unfold x) | apply Dev.onBlk_holds | fail_if_no_progress (apply holds_upd <;> try rfl) | rfl | intro _ | dsimp +zetaDelta only)

theorem Dev.replayBlocker_holds {kp : Keep} {d : Dev} (hk : d.Holds kp) (a : Act) : (d.replayBlocker a).Holds kp := by
  unfold Dev.replayBlocker; repeat' (with_reducible first | assumption | lift_lets -underBinder | (intro x; refine (fun (hx : Dev.Holds kp x) => ?_) ?_; on_goal 2 => unfold x) | apply Dev.foldStood_holds | apply Dev.freeReqPair_holds | apply Dev.onBlk_holds | apply holds_ite | fail_if_no_progress (apply holds_upd <;> try rfl) | rfl | intro _ | split | dsimp +zetaDelta only)

theorem Dev.logStore_holds {kp : Keep} {d : Dev} (hk : d.Holds kp) (a : Act) (ue : Bool) (halves pc : Nat) : (d.logStore a ue halves pc).Holds kp := by
  unfold Dev.logStore; repeat' (with_reducible first | assumption | lift_lets -underBinder | (intro x; refine (fun (hx : Dev.Holds kp x) => ?_) ?_; on_goal 2 => unfold x) | apply Dev.bumpF_holds | apply Dev.setF_holds | apply holds_ite | intro _ | split | dsimp +zetaDelta only)

theorem Dev.reloadBlocker_holds {kp : Keep} {d : Dev} (hk : d.Holds kp) (a : Act) : (d.reloadBlocker a).Holds kp := by
  unfold Dev.reloadBlocker; repeat' (with_reducible first | assumption | lift_lets -underBinder | (intro x; refine (fun (hx : Dev.Holds kp x) => ?_) ?_; on_goal 2 => unfold x) | apply Dev.cancelStamps_holds | apply Dev.writeFault_holds | apply Dev.laneOff_holds | apply Dev.cutRead_holds | apply Dev.event_holds | apply Dev.readyUnit_holds | apply Dev.incGen_holds | apply Dev.blockerFresh_holds | apply Dev.replayBlocker_holds | apply holds_ite | fail_if_no_progress (apply holds_upd <;> try rfl) | rfl | intro _ | split | dsimp +zetaDelta only)

theorem Dev.badWord_holds {kp : Keep} {d : Dev} (hk : d.Holds kp) (a : Act) (halves pc : Nat) : (d.badWord a halves pc).Holds kp := by
  unfold Dev.badWord; repeat' (with_reducible first | assumption | apply Dev.reloadBlocker_holds | apply Dev.reportFault_holds | apply Dev.logStore_holds)

theorem Dev.fixWord_holds {kp : Keep} {d : Dev} (hk : d.Holds kp) (a : Act) (halves pc : Nat) (payload : BitVec 128) : (d.fixWord a halves pc payload).Holds kp := by
  unfold Dev.fixWord; repeat' (with_reducible first | assumption | lift_lets -underBinder | apply Dev.onBlk_holds | apply Dev.logStore_holds | apply holds_ite | fail_if_no_progress (apply holds_upd <;> try rfl) | rfl | intro _ | split)

theorem Dev.writeImage_holds {kp : Keep} {d : Dev} (hk : d.Holds kp) (a : Act) : (d.writeImage a).Holds kp := by
  unfold Dev.writeImage; repeat' (with_reducible first | assumption | lift_lets -underBinder | (intro x; refine (fun (hx : Dev.Holds kp x) => ?_) ?_; on_goal 2 => unfold x) | apply Dev.readyUnit_holds | apply Dev.incGen_holds | apply Dev.blockerFresh_holds | apply Dev.replayBlocker_holds | apply holds_ite | intro _ | split | dsimp +zetaDelta only)

theorem execMicrocodeImageWrite_holds {kp : Keep} {s : State} (hk : s.dev.Holds kp) (a : Act) :
    ∃ d, execMicrocodeImageWrite a s = s.next d ∧ d.Holds kp := by
  refine ⟨_, rfl, ?_⟩; repeat' (with_reducible first | assumption | apply State.dev_holds | apply Dev.writeImage_holds | apply holds_ite | intro _ | split)

theorem Dev.finishWord_holds {kp : Keep} {d : Dev} (hk : d.Holds kp) (a : Act) (m : Micro) (x y : Word) : (d.finishWord a m x y).Holds kp := by
  unfold Dev.finishWord; repeat' (with_reducible first | assumption | lift_lets -underBinder | (intro x; refine (fun (hx : Dev.Holds kp x) => ?_) ?_; on_goal 2 => unfold x) | apply Dev.onBlk_holds | apply Dev.findSlot_holds | apply Dev.badWord_holds | apply Dev.gopStep_holds | apply holds_ite | fail_if_no_progress (apply holds_upd <;> try rfl) | rfl | intro _ | split | dsimp +zetaDelta only)

theorem Dev.runWord_holds {kp : Keep} {d : Dev} (hk : d.Holds kp) (a : Act) (m : Micro) (o : WordObs) : (d.runWord a m o).Holds kp := by
  unfold Dev.runWord; repeat' (with_reducible first | assumption | lift_lets -underBinder | (intro x; refine (fun (hx : Dev.Holds kp x) => ?_) ?_; on_goal 2 => unfold x) | apply Dev.issue_holds | apply Dev.sendGroups_holds | apply Dev.returnTo_holds | apply Dev.abandon_holds | apply Dev.finishWord_holds | apply holds_ite | intro _ | split | dsimp +zetaDelta only)

theorem Dev.missWord_holds {kp : Keep} {d : Dev} (hk : d.Holds kp) (a : Act) (m : Micro) : (d.missWord a m).Holds kp := by
  unfold Dev.missWord; repeat' (with_reducible first | assumption | lift_lets -underBinder | (intro x; refine (fun (hx : Dev.Holds kp x) => ?_) ?_; on_goal 2 => unfold x) | apply Dev.finishWord_holds | apply Dev.missStamp_holds | intro _ | dsimp +zetaDelta only)

theorem Dev.stampWord_holds {kp : Keep} {d : Dev} (hk : d.Holds kp) (a : Act) (m : Micro) : (d.stampWord a m).Holds kp := by
  unfold Dev.stampWord; repeat' (with_reducible first | assumption | lift_lets -underBinder | (intro x; refine (fun (hx : Dev.Holds kp x) => ?_) ?_; on_goal 2 => unfold x) | apply Dev.missWord_holds | apply Dev.lateLaunch_holds | apply Dev.setF_holds | apply Dev.armStamp_holds | apply holds_ite | fail_if_no_progress (apply holds_upd <;> try rfl) | rfl | intro _ | split | dsimp +zetaDelta only)

theorem Dev.word_holds {kp : Keep} {d : Dev} (hk : d.Holds kp) (a : Act) (m : Micro) (o : WordObs) : (d.word a m o).Holds kp := by
  unfold Dev.word; repeat' (with_reducible first | assumption | lift_lets -underBinder | (intro x; refine (fun (hx : Dev.Holds kp x) => ?_) ?_; on_goal 2 => unfold x) | apply Dev.takeEvent_holds | apply Dev.onBlk_holds | apply Dev.bindPlank_holds | apply Dev.runWord_holds | apply Dev.stampWord_holds | apply holds_ite | fail_if_no_progress (apply holds_upd <;> try rfl) | rfl | intro _ | split | dsimp +zetaDelta only)

theorem Dev.fetchWord_holds {kp : Keep} {d : Dev} (hk : d.Holds kp) (a : Act) (step : Bool) (o : WordObs) : (d.fetchWord a step o).Holds kp := by
  unfold Dev.fetchWord; repeat' (with_reducible first | assumption | lift_lets -underBinder | (intro x; refine (fun (hx : Dev.Holds kp x) => ?_) ?_; on_goal 2 => unfold x) | apply Dev.badWord_holds | apply Dev.fixWord_holds | apply Dev.onBlk_holds | apply Dev.word_holds | apply holds_ite | fail_if_no_progress (apply holds_upd <;> try rfl) | rfl | intro _ | split | dsimp +zetaDelta only)

theorem execMicroword_holds {kp : Keep} {s : State} (hk : s.dev.Holds kp) (hr : kp.recs = none) (a : Act) (o : WordObs) :
    ∃ d, execMicroword a o s = s.next d ∧ d.Holds kp := by
  refine ⟨_, rfl, ?_⟩; repeat' (with_reducible first | assumption | apply State.dev_holds | apply Dev.settle_holds | apply Dev.fetchWord_holds | apply holds_ite | intro _ | split)

theorem execConditionWait_holds {kp : Keep} {s : State} (hk : s.dev.Holds kp) (a : Act) :
    ∃ d, execConditionWait a s = s.next d ∧ d.Holds kp := by
  refine ⟨_, rfl, ?_⟩; repeat' (with_reducible first | assumption | lift_lets -underBinder | (intro x; refine (fun (hx : Dev.Holds kp x) => ?_) ?_; on_goal 2 => unfold x) | apply State.dev_holds | apply Dev.onBlk_holds | apply holds_ite | fail_if_no_progress (apply holds_upd <;> try rfl) | rfl | intro _ | split | dsimp +zetaDelta only)

theorem Dev.blockerFires_holds {kp : Keep} {d : Dev} (hk : d.Holds kp) (a : Act) (o : WordObs) : (d.blockerFires a o).Holds kp := by
  unfold Dev.blockerFires; repeat' (with_reducible first | assumption | lift_lets -underBinder | (intro x; refine (fun (hx : Dev.Holds kp x) => ?_) ?_; on_goal 2 => unfold x) | apply Dev.onBlk_holds | apply Dev.runWord_holds | apply holds_ite | fail_if_no_progress (apply holds_upd <;> try rfl) | rfl | intro _ | split | dsimp +zetaDelta only)

theorem Dev.rearm_holds {kp : Keep} {d : Dev} (hk : d.Holds kp) (a : Act) : (d.rearm a).Holds kp := by
  unfold Dev.rearm; repeat' (with_reducible first | assumption | lift_lets -underBinder | apply Dev.stampWord_holds | apply Dev.onBlk_holds | apply holds_ite | fail_if_no_progress (apply holds_upd <;> try rfl) | rfl | intro _ | split)

theorem execPlankBind_holds {kp : Keep} {s : State} (hk : s.dev.Holds kp) (a : Act) (o : WordObs) :
    ∃ d, execPlankBind a o s = s.next d ∧ d.Holds kp := by
  refine ⟨_, rfl, ?_⟩; repeat' (with_reducible first | assumption | apply State.dev_holds | apply Dev.bindPlank_holds | apply holds_ite | intro _ | split)

theorem execPlankFind_holds {kp : Keep} {s : State} (hk : s.dev.Holds kp) (a : Act) (gs : Nat) :
    ∃ d, execPlankFind a gs s = s.next d ∧ d.Holds kp := by
  refine ⟨_, rfl, ?_⟩; repeat' (with_reducible first | assumption | apply Dev.findSlot_holds | apply State.dev_holds)

theorem execPlankAdvance_holds {kp : Keep} {s : State} (hk : s.dev.Holds kp) (a : Act) :
    ∃ d, execPlankAdvance a s = s.next d ∧ d.Holds kp := by
  refine ⟨_, rfl, ?_⟩; repeat' (with_reducible first | assumption | apply Dev.onBlk_holds | apply State.dev_holds)

theorem execLoadRec_holds {kp : Keep} {s : State} (hk : s.dev.Holds kp) (a : Act) :
    ∃ d, execLoadRec a s = s.next d ∧ d.Holds kp := by
  refine ⟨_, rfl, ?_⟩; repeat' (with_reducible first | assumption | lift_lets -underBinder | apply Dev.onBlk_holds | apply State.dev_holds | fail_if_no_progress (apply holds_upd <;> try rfl) | rfl | intro _)

theorem execFeltArm_holds {kp : Keep} {s : State} (hk : s.dev.Holds kp) (a : Act) :
    ∃ d, execFeltArm a s = s.next d ∧ d.Holds kp := by
  refine ⟨_, rfl, ?_⟩; repeat' (with_reducible first | assumption | apply Dev.feltArm_holds | apply State.dev_holds)

theorem execPost_holds {kp : Keep} {s : State} (hk : s.dev.Holds kp) (hr : kp.recs = none) (a : Act) (darg : Nat) :
    ∃ d, execPost a darg s = s.next d ∧ d.Holds kp := by
  refine ⟨_, rfl, ?_⟩; repeat' (with_reducible first | assumption | apply Dev.settle_holds | apply Dev.post_holds | apply State.dev_holds)

theorem execAccept_holds {kp : Keep} {s : State} (hk : s.dev.Holds kp) (a : Act) :
    ∃ d, execAccept a s = s.next d ∧ d.Holds kp := by
  refine ⟨_, rfl, ?_⟩; repeat' (with_reducible first | assumption | apply Dev.accept_holds | apply State.dev_holds)

theorem execRawCheck_holds {kp : Keep} {s : State} (hk : s.dev.Holds kp) (hr : kp.recs = none) (a : Act) (same : Bool) :
    ∃ d, execRawCheck a same s = s.next d ∧ d.Holds kp := by
  refine ⟨_, rfl, ?_⟩; repeat' (with_reducible first | assumption | apply Dev.settle_holds | apply Dev.rawCheck_holds | apply State.dev_holds)

theorem execTrace_holds {kp : Keep} {s : State} (hk : s.dev.Holds kp) (a : Act) (darg : Nat) :
    ∃ d, execTrace a darg s = s.next d ∧ d.Holds kp := by
  refine ⟨_, rfl, ?_⟩; repeat' (with_reducible first | assumption | apply Dev.onBlk_holds | apply State.dev_holds | intro _)

theorem execReturn_holds {kp : Keep} {s : State} (hk : s.dev.Holds kp) (a : Act) :
    ∃ d, execReturn a s = s.next d ∧ d.Holds kp := by
  refine ⟨_, rfl, ?_⟩; repeat' (with_reducible first | assumption | apply State.dev_holds | apply Dev.returnTo_holds | apply holds_ite | intro _ | split)

theorem execAbandon_holds {kp : Keep} {s : State} (hk : s.dev.Holds kp) (a : Act) :
    ∃ d, execAbandon a s = s.next d ∧ d.Holds kp := by
  refine ⟨_, rfl, ?_⟩; repeat' (with_reducible first | assumption | apply State.dev_holds | apply Dev.abandon_holds | apply holds_ite | intro _ | split)

theorem execQueueReset_holds {kp : Keep} {s : State} (hk : s.dev.Holds kp) (hr : kp.recs = none) (a : Act) (tags : List Nat) :
    ∃ d, execQueueReset a tags s = s.next d ∧ d.Holds kp := by
  refine ⟨_, rfl, ?_⟩; repeat' (with_reducible first | assumption | apply State.dev_holds | apply Dev.settle_holds | apply Dev.withdrawTags_holds | apply holds_ite | intro _ | split)

theorem Dev.writeHalt_holds {kp : Keep} {d : Dev} (hk : d.Holds kp) (a : Act) (v : Bool) : (d.writeHalt a v).Holds kp := by
  unfold Dev.writeHalt; repeat' (with_reducible first | assumption | lift_lets -underBinder | apply Dev.absentWrite_holds | apply Dev.onBlk_holds | apply Dev.setF_holds | apply Dev.ignoredWrite_holds | apply holds_ite | fail_if_no_progress (apply holds_upd <;> try rfl) | rfl | intro _ | split)

theorem execBlkHalt_holds {kp : Keep} {s : State} (hk : s.dev.Holds kp) (a : Act) (v : Bool) :
    ∃ d, execBlkHalt a v s = s.next d ∧ d.Holds kp := by
  refine ⟨_, rfl, ?_⟩; repeat' (with_reducible first | assumption | apply Dev.writeHalt_holds | apply State.dev_holds)

theorem Dev.writeResume_holds {kp : Keep} {d : Dev} (hk : d.Holds kp) (a : Act) : (d.writeResume a).Holds kp := by
  unfold Dev.writeResume; repeat' (with_reducible first | assumption | lift_lets -underBinder | apply Dev.absentWrite_holds | apply Dev.onBlk_holds | apply Dev.setF_holds | apply holds_ite | fail_if_no_progress (apply holds_upd <;> try rfl) | rfl | intro _ | split)

theorem execBlkResume_holds {kp : Keep} {s : State} (hk : s.dev.Holds kp) (a : Act) :
    ∃ d, execBlkResume a s = s.next d ∧ d.Holds kp := by
  refine ⟨_, rfl, ?_⟩; repeat' (with_reducible first | assumption | apply Dev.writeResume_holds | apply State.dev_holds)

theorem Dev.writeStep_holds {kp : Keep} {d : Dev} (hk : d.Holds kp) (hr : kp.recs = none) (a : Act) (o : WordObs) : (d.writeStep a o).Holds kp := by
  unfold Dev.writeStep; repeat' (with_reducible first | assumption | apply Dev.absentWrite_holds | apply Dev.settle_holds | apply Dev.fetchWord_holds | apply holds_ite | intro _ | split)

theorem execBlkStep_holds {kp : Keep} {s : State} (hk : s.dev.Holds kp) (hr : kp.recs = none) (a : Act) (o : WordObs) :
    ∃ d, execBlkStep a o s = s.next d ∧ d.Holds kp := by
  refine ⟨_, rfl, ?_⟩; repeat' (with_reducible first | assumption | apply Dev.writeStep_holds | apply State.dev_holds)

theorem Dev.cstNext_holds {kp : Keep} {d : Dev} (hk : d.Holds kp) (a : Act) : (d.cstNext a).Holds kp := by
  unfold Dev.cstNext; repeat' (with_reducible first | assumption | lift_lets -underBinder | (intro x; refine (fun (hx : Dev.Holds kp x) => ?_) ?_; on_goal 2 => unfold x) | apply Dev.setF_holds | apply holds_ite | intro _ | split | dsimp +zetaDelta only)

theorem Dev.stageCst_holds {kp : Keep} {d : Dev} (hk : d.Holds kp) (a : Act) (word : Nat) (w : BitVec 144) : (d.stageCst a word w).Holds kp := by
  unfold Dev.stageCst; repeat' (with_reducible first | assumption | lift_lets -underBinder | fail_if_no_progress (apply holds_upd <;> try rfl) | rfl | intro _)

theorem Dev.cstWrite_holds {kp : Keep} {d : Dev} (hk : d.Holds kp) (a : Act) (v : Word) : (d.cstWrite a v).Holds kp := by
  unfold Dev.cstWrite; repeat' (with_reducible first | assumption | lift_lets -underBinder | (intro x; refine (fun (hx : Dev.Holds kp x) => ?_) ?_; on_goal 2 => unfold x) | apply Dev.absentWrite_holds | apply Dev.setReg_holds | apply Dev.cstNext_holds | apply Dev.stageCst_holds | apply holds_ite | intro _ | split | dsimp +zetaDelta only)

theorem execCstData3Write_holds {kp : Keep} {s : State} (hk : s.dev.Holds kp) (a : Act) (v : Word) :
    ∃ d, execCstData3Write a v s = s.next d ∧ d.Holds kp := by
  refine ⟨_, rfl, ?_⟩; repeat' (with_reducible first | assumption | apply Dev.cstWrite_holds | apply State.dev_holds)

theorem execCstData3Read_holds {kp : Keep} {s : State} (hk : s.dev.Holds kp) (a : Act) (who : Requester) :
    ∃ d, execCstData3Read a who s = s.next d ∧ d.Holds kp := by
  refine ⟨_, rfl, ?_⟩; repeat' (with_reducible first | assumption | lift_lets -underBinder | (intro x; refine (fun (hx : Dev.Holds kp x) => ?_) ?_; on_goal 2 => unfold x) | apply State.dev_holds | apply Dev.cstNext_holds | apply Dev.answer_holds | apply holds_ite | intro _ | split | dsimp +zetaDelta only)

end Sys2Proof.Machine
end

