-- ==== Sys2Proof/Laws/Holds/Semaphore.lean ====
section
/-! SUPPORT. The operations of Machine/Semaphore.lean carry `Dev.Holds`. -/

namespace Sys2Proof.Machine

set_option linter.unusedTactic false
set_option linter.unreachableTactic false

theorem Dev.semShow_holds {kp : Keep} {d : Dev} (hk : d.Holds kp) : (d.semShow).Holds kp := by
  unfold Dev.semShow; repeat' (with_reducible first | assumption | apply Dev.setF_holds)

theorem Dev.setQueue_holds {kp : Keep} {d : Dev} (hk : d.Holds kp) (q : List SemReq) : (d.setQueue q).Holds kp := by
  unfold Dev.setQueue; repeat' (with_reducible first | assumption | lift_lets -underBinder | apply Dev.semShow_holds | fail_if_no_progress (apply holds_upd <;> try rfl) | rfl | intro _)

theorem Dev.semGrant_holds {kp : Keep} {d : Dev} (hk : d.Holds kp) (holder : Nat) : (d.semGrant holder).Holds kp := by
  unfold Dev.semGrant; repeat' (with_reducible first | assumption | apply Dev.setF_holds | apply holds_ite | intro _ | split)

theorem Dev.semBegin_holds {kp : Keep} {d : Dev} (hk : d.Holds kp) : (d.semBegin).Holds kp := by
  unfold Dev.semBegin; repeat' (with_reducible first | assumption | lift_lets -underBinder | fail_if_no_progress (apply holds_upd <;> try rfl) | rfl | intro _)

theorem Dev.semClear_holds {kp : Keep} {d : Dev} (hk : d.Holds kp) : (d.semClear).Holds kp := by
  unfold Dev.semClear; repeat' (with_reducible first | assumption | lift_lets -underBinder | (intro x; refine (fun (hx : Dev.Holds kp x) => ?_) ?_; on_goal 2 => unfold x) | apply Dev.setF_holds | fail_if_no_progress (apply holds_upd <;> try rfl) | rfl | intro _ | dsimp +zetaDelta only)

theorem Dev.semAbandon_holds {kp : Keep} {d : Dev} (hk : d.Holds kp) : (d.semAbandon).Holds kp := by
  unfold Dev.semAbandon; repeat' (with_reducible first | assumption | lift_lets -underBinder | (intro x; refine (fun (hx : Dev.Holds kp x) => ?_) ?_; on_goal 2 => unfold x) | apply Dev.event_holds | apply Dev.bumpF_holds | apply Dev.setF_holds | apply Dev.semClear_holds | intro _ | dsimp +zetaDelta only)

theorem Dev.semEnd_holds {kp : Keep} {d : Dev} (hk : d.Holds kp) : (d.semEnd).Holds kp := by
  unfold Dev.semEnd; repeat' (with_reducible first | assumption | lift_lets -underBinder | (intro x; refine (fun (hx : Dev.Holds kp x) => ?_) ?_; on_goal 2 => unfold x) | apply Dev.semAbandon_holds | apply Dev.semClear_holds | apply holds_ite | fail_if_no_progress (apply holds_upd <;> try rfl) | rfl | intro _ | split | dsimp +zetaDelta only)

theorem Dev.semRefused_holds {kp : Keep} {d : Dev} (hk : d.Holds kp) : (d.semRefused).Holds kp := by
  unfold Dev.semRefused; repeat' (with_reducible first | assumption | apply Dev.bumpF_holds)

theorem Dev.semClaim_holds {kp : Keep} {d : Dev} (hk : d.Holds kp) (holder : Nat) : (d.semClaim holder).Holds kp := by
  unfold Dev.semClaim; repeat' (with_reducible first | assumption | apply Dev.setF_holds | apply Dev.semGrant_holds)

theorem Dev.semRelease_holds {kp : Keep} {d : Dev} (hk : d.Holds kp) (holder : Nat) : (d.semRelease holder).2.Holds kp := by
  unfold Dev.semRelease; repeat' (with_reducible first | assumption | apply Dev.setF_holds | apply Dev.semClear_holds | apply holds_ite | intro _ | split)

theorem Dev.semTimer_holds {kp : Keep} {d : Dev} (hk : d.Holds kp) (holder : Nat) : (d.semTimer holder).Holds kp := by
  unfold Dev.semTimer; repeat' (with_reducible first | assumption | lift_lets -underBinder | (intro x; refine (fun (hx : Dev.Holds kp x) => ?_) ?_; on_goal 2 => unfold x) | apply Dev.setQueue_holds | apply Dev.setF_holds | apply holds_ite | intro _ | split | dsimp +zetaDelta only)

end Sys2Proof.Machine
end

