-- ==== Sys2Proof/Laws/Holds/Sizer.lean ====
section
/-! SUPPORT. The operations of Machine/Sizer.lean carry `Dev.Holds`. -/

namespace Sys2Proof.Machine

set_option linter.unusedTactic false
set_option linter.unreachableTactic false

theorem Dev.applyTables_holds {kp : Keep} {d : Dev} (hk : d.Holds kp) (ts : List (Nat × Option Byte)) : (d.applyTables ts).Holds kp := by
  unfold Dev.applyTables; repeat' (with_reducible first | assumption | refine holds_foldl (fun _ _ _ => ?_) _ ?_ | refine holds_foldl_fst (fun _ _ _ => ?_) _ ?_ | refine holds_foldl_snd (fun _ _ _ => ?_) _ ?_ | lift_lets -underBinder | fail_if_no_progress (apply holds_upd <;> try rfl) | rfl | intro _ | split)

theorem Dev.applyCst_holds {kp : Keep} {d : Dev} (hk : d.Holds kp) (ws : List (Nat × Option (BitVec 144))) : (d.applyCst ws).Holds kp := by
  unfold Dev.applyCst; repeat' (with_reducible first | assumption | refine holds_foldl (fun _ _ _ => ?_) _ ?_ | refine holds_foldl_fst (fun _ _ _ => ?_) _ ?_ | refine holds_foldl_snd (fun _ _ _ => ?_) _ ?_ | lift_lets -underBinder | fail_if_no_progress (apply holds_upd <;> try rfl) | rfl | intro _ | split)

theorem Dev.candidate_holds {kp : Keep} {d : Dev} (hk : d.Holds kp) (s : StagedSet) : (d.candidate s).Holds kp := by
  unfold Dev.candidate; repeat' (with_reducible first | assumption | apply Dev.refreshCosts_holds | apply Dev.applyCst_holds | apply Dev.applyTables_holds | apply Dev.applyBits_holds)

theorem Dev.showLoadErr_holds {kp : Keep} {d c : Dev} (hk : d.Holds kp) (hkc : c.Holds kp) (s : StagedSet) (a : Act) : (d.showLoadErr c s a).Holds kp := by
  unfold Dev.showLoadErr; repeat' (with_reducible first | assumption | lift_lets -underBinder | (intro x; refine (fun (hx : Dev.Holds kp x) => ?_) ?_; on_goal 2 => unfold x) | apply Dev.setF_holds | apply holds_ite | intro _ | split | dsimp +zetaDelta only)

theorem Dev.showVerdict_holds {kp : Keep} {d : Dev} (hk : d.Holds kp) (v : Verdict) : (d.showVerdict v).Holds kp := by
  unfold Dev.showVerdict; repeat' (with_reducible first | assumption | apply Dev.setF_holds)

theorem Dev.freeze_holds {kp : Keep} {d : Dev} (hk : d.Holds kp) : (d.freeze).Holds kp := by
  unfold Dev.freeze; repeat' (with_reducible first | assumption | lift_lets -underBinder | fail_if_no_progress (apply holds_upd <;> try rfl) | rfl | intro _)

theorem Dev.commit_holds {kp : Keep} {d : Dev} (hk : d.Holds kp) (holds : Bool) : (d.commit holds).Holds kp := by
  unfold Dev.commit; repeat' (with_reducible first | assumption | lift_lets -underBinder | (intro x; refine (fun (hx : Dev.Holds kp x) => ?_) ?_; on_goal 2 => unfold x) | apply Dev.showLoadErr_holds | apply Dev.candidate_holds | apply Dev.showVerdict_holds | apply Dev.freeze_holds | apply Dev.setF_holds | apply Dev.semBegin_holds | apply holds_ite | fail_if_no_progress (apply holds_upd <;> try rfl) | rfl | intro _ | split | dsimp +zetaDelta only)

theorem Dev.commitFor_holds {kp : Keep} {d : Dev} (hk : d.Holds kp) (holder : Nat) : (d.commitFor holder).Holds kp := by
  unfold Dev.commitFor; repeat' (with_reducible first | assumption | lift_lets -underBinder | (intro x; refine (fun (hx : Dev.Holds kp x) => ?_) ?_; on_goal 2 => unfold x) | apply Dev.setF_holds | apply Dev.semRefused_holds | apply Dev.commit_holds | apply Dev.semGrant_holds | apply Dev.semClear_holds | apply holds_ite | intro _ | split | dsimp +zetaDelta only)

theorem execCommit_holds {kp : Keep} {s : State} (hk : s.dev.Holds kp) (who : Requester) :
    ∃ d, execCommit who s = s.next d ∧ d.Holds kp := by
  refine ⟨_, rfl, ?_⟩; repeat' (with_reducible first | assumption | apply Dev.commitFor_holds | apply State.dev_holds)

theorem Dev.discard_holds {kp : Keep} {d : Dev} (hk : d.Holds kp) : (d.discard).Holds kp := by
  unfold Dev.discard; repeat' (with_reducible first | assumption | apply Dev.freeze_holds | apply holds_ite | intro _ | split)

theorem execDiscard_holds {kp : Keep} {s : State} (hk : s.dev.Holds kp) :
    ∃ d, execDiscard s = s.next d ∧ d.Holds kp := by
  refine ⟨_, rfl, ?_⟩; repeat' (with_reducible first | assumption | apply Dev.discard_holds | apply State.dev_holds)

end Sys2Proof.Machine
end

