-- ==== Sys2Proof/Laws/Holds/Apply.lean ====
section
/-! SUPPORT. The operations of Machine/Apply.lean carry `Dev.Holds`. -/

namespace Sys2Proof.Machine

set_option linter.unusedTactic false
set_option linter.unreachableTactic false

theorem Dev.putWord_holds {kp : Keep} {d : Dev} (hk : d.Holds kp) (t : Nat) (e : Nat × Word × Word) : (d.putWord t e).Holds kp := by
  unfold Dev.putWord; repeat' (with_reducible first | assumption | apply Dev.setTword_holds)

theorem Dev.sealRecord_holds {kp : Keep} {d : Dev} (hk : d.Holds kp) (t base n : Nat) : (d.sealRecord t base n).Holds kp := by
  unfold Dev.sealRecord; repeat' (with_reducible first | assumption | apply Dev.setTword_holds)

theorem Dev.applyAdapt_holds {kp : Keep} {d : Dev} (hk : d.Holds kp) (x : AdaptSet) : (d.applyAdapt x).Holds kp := by
  unfold Dev.applyAdapt; repeat' (with_reducible first | assumption | refine holds_foldl (fun _ _ _ => ?_) _ ?_ | refine holds_foldl_snd (fun _ _ _ => ?_) _ ?_ | lift_lets -underBinder | (intro x; refine (fun (hx : Dev.Holds kp x) => ?_) ?_; on_goal 2 => unfold x) | apply Dev.event_holds | apply Dev.bumpF_holds | apply Dev.sealRecord_holds | apply Dev.putWord_holds | apply Dev.onAssist_holds | apply holds_ite | fail_if_no_progress (apply holds_upd <;> try rfl) | rfl | intro _ | split | dsimp +zetaDelta only)

theorem Dev.applyAdapts_holds {kp : Keep} {d : Dev} (hk : d.Holds kp) : (d.applyAdapts).Holds kp := by
  unfold Dev.applyAdapts; repeat' (with_reducible first | assumption | refine holds_foldl (fun _ _ _ => ?_) _ ?_ | refine holds_foldl_snd (fun _ _ _ => ?_) _ ?_ | lift_lets -underBinder | (intro x; refine (fun (hx : Dev.Holds kp x) => ?_) ?_; on_goal 2 => unfold x) | apply Dev.applyAdapt_holds | fail_if_no_progress (apply holds_upd <;> try rfl) | rfl | intro _ | dsimp +zetaDelta only)

theorem Dev.superseded_holds {kp : Keep} {d c : Dev} (hk : d.Holds kp) (hkc : c.Holds kp) (s : StagedSet) (xs : List AdaptSet) : (d.superseded c s xs).Holds kp := by
  unfold Dev.superseded; repeat' (with_reducible first | assumption | refine holds_foldl (fun _ _ _ => ?_) _ ?_ | refine holds_foldl_fst (fun _ _ _ => ?_) _ ?_ | refine holds_foldl_snd (fun _ _ _ => ?_) _ ?_ | apply Dev.trim_holds | intro _)

theorem Dev.settleRz_holds {kp : Keep} {old d : Dev} (hkold : old.Holds kp) (hk : d.Holds kp) (planks : List Nat) (a : Act) (base : Nat) : (old.settleRz planks d a base).Holds kp := by
  unfold Dev.settleRz; repeat' (with_reducible first | assumption | lift_lets -underBinder | (intro x; refine (fun (hx : Dev.Holds kp x) => ?_) ?_; on_goal 2 => unfold x) | apply Dev.setTword_holds | apply Dev.sealRecord_holds | apply holds_ite | intro _ | split | dsimp +zetaDelta only)

theorem Dev.settleRzs_holds {kp : Keep} {old d : Dev} (hkold : old.Holds kp) (hk : d.Holds kp) (s : StagedSet) (a : Act) : (old.settleRzs d s a).Holds kp := by
  unfold Dev.settleRzs; repeat' (with_reducible first | assumption | refine holds_foldl (fun _ _ _ => ?_) _ ?_ | refine holds_foldl_snd (fun _ _ _ => ?_) _ ?_ | lift_lets -underBinder | (intro x; refine (fun (hx : Dev.Holds kp x) => ?_) ?_; on_goal 2 => unfold x) | apply Dev.settleRz_holds | intro _ | dsimp +zetaDelta only)

theorem Dev.switchSet_holds {kp : Keep} {old d : Dev} (hkold : old.Holds kp) (hk : d.Holds kp) (a : Act) : (old.switchSet d a).Holds kp := by
  unfold Dev.switchSet; repeat' (with_reducible first | assumption | lift_lets -underBinder | (intro x; refine (fun (hx : Dev.Holds kp x) => ?_) ?_; on_goal 2 => unfold x) | apply Dev.setF_holds | apply Dev.onSrv_holds | apply holds_ite | fail_if_no_progress (apply holds_upd <;> try rfl) | rfl | intro _ | split | dsimp +zetaDelta only)

theorem Dev.newImage_holds {kp : Keep} {d : Dev} (hk : d.Holds kp) (s : StagedSet) (a : Act) : (d.newImage s a).Holds kp := by
  unfold Dev.newImage; repeat' (with_reducible first | assumption | lift_lets -underBinder | (intro x; refine (fun (hx : Dev.Holds kp x) => ?_) ?_; on_goal 2 => unfold x) | apply Dev.onBlk_holds | apply Dev.writeImage_holds | apply holds_ite | fail_if_no_progress (apply holds_upd <;> try rfl) | rfl | intro _ | split | dsimp +zetaDelta only)

theorem Dev.wedgeCut_holds {kp : Keep} {d : Dev} (hk : d.Holds kp) : (d.wedgeCut).Holds kp := by
  unfold Dev.wedgeCut; repeat' (with_reducible first | assumption | lift_lets -underBinder | apply holds_ite | fail_if_no_progress (apply holds_upd <;> try rfl) | rfl | intro _ | split)

theorem Dev.latchPower_holds {kp : Keep} {d : Dev} (hk : d.Holds kp) : (d.latchPower).Holds kp := by
  unfold Dev.latchPower; repeat' (with_reducible first | assumption | refine holds_foldl (fun _ _ _ => ?_) _ ?_ | refine holds_foldl_snd (fun _ _ _ => ?_) _ ?_ | lift_lets -underBinder | fail_if_no_progress (apply holds_upd <;> try rfl) | rfl | intro _)

theorem Dev.showProof_holds {kp : Keep} {d : Dev} (hk : d.Holds kp) : (d.showProof).Holds kp := by
  unfold Dev.showProof; repeat' (with_reducible first | assumption | apply Dev.setF_holds)

theorem Dev.leaveSafe_holds {kp : Keep} {d : Dev} (hk : d.Holds kp) : (d.leaveSafe).Holds kp := by
  unfold Dev.leaveSafe; repeat' (with_reducible first | assumption | lift_lets -underBinder | (intro x; refine (fun (hx : Dev.Holds kp x) => ?_) ?_; on_goal 2 => unfold x) | apply Dev.setF_holds | apply holds_ite | intro _ | split | dsimp +zetaDelta only)

theorem Dev.applySet_holds {kp : Keep} {d : Dev} (hk : d.Holds kp) (s : StagedSet) : (d.applySet s).Holds kp := by
  unfold Dev.applySet; repeat' (with_reducible first | assumption | lift_lets -underBinder | (intro x; refine (fun (hx : Dev.Holds kp x) => ?_) ?_; on_goal 2 => unfold x) | apply Dev.candidate_holds | apply Dev.settleRzs_holds | apply Dev.switchSet_holds | apply Dev.latchPower_holds | apply Dev.wedgeCut_holds | apply Dev.newImage_holds | apply Dev.showTarget_holds | apply Dev.showProof_holds | intro _ | dsimp +zetaDelta only)

theorem Dev.applyPending_holds {kp : Keep} {d : Dev} (hk : d.Holds kp) : (d.applyPending).Holds kp := by
  unfold Dev.applyPending; repeat' (with_reducible first | assumption | lift_lets -underBinder | (intro x; refine (fun (hx : Dev.Holds kp x) => ?_) ?_; on_goal 2 => unfold x) | apply Dev.applyAdapts_holds | apply Dev.superseded_holds | apply Dev.applySet_holds | apply Dev.leaveSafe_holds | apply Dev.setF_holds | apply Dev.semEnd_holds | apply holds_ite | fail_if_no_progress (apply holds_upd <;> try rfl) | rfl | intro _ | split | dsimp +zetaDelta only)

theorem Dev.refreshCopies_holds {kp : Keep} {d : Dev} (hk : d.Holds kp) (a : Act) : (d.refreshCopies a).Holds kp := by
  unfold Dev.refreshCopies; repeat' (with_reducible first | assumption | lift_lets -underBinder | apply Dev.copyRecords_holds | fail_if_no_progress (apply holds_upd <;> try rfl) | rfl | intro _ | split)

theorem Dev.latchRwt_holds {kp : Keep} {d : Dev} (hk : d.Holds kp) : (d.latchRwt).Holds kp := by
  unfold Dev.latchRwt; repeat' (with_reducible first | assumption | lift_lets -underBinder | (intro x; refine (fun (hx : Dev.Holds kp x) => ?_) ?_; on_goal 2 => unfold x) | apply Dev.applyBits_holds | fail_if_no_progress (apply holds_upd <;> try rfl) | rfl | intro _ | dsimp +zetaDelta only)

end Sys2Proof.Machine
end

