-- ==== Sys2Proof/Laws/Holds/Clock.lean ====
section
/-! SUPPORT. The operations of Machine/Clock.lean carry `Dev.Holds`. -/

namespace Sys2Proof.Machine

set_option linter.unusedTactic false
set_option linter.unreachableTactic false

theorem Dev.onClock_holds {kp : Keep} {d : Dev} (hk : d.Holds kp) (g : Clock → Clock) : (d.onClock g).Holds kp := by
  unfold Dev.onClock; repeat' (with_reducible first | assumption | lift_lets -underBinder | fail_if_no_progress (apply holds_upd <;> try rfl) | rfl | intro _)

theorem Dev.overran_holds {kp : Keep} {d : Dev} (hk : d.Holds kp) (n : Nat) (reset : Bool) : (d.overran n reset).Holds kp := by
  unfold Dev.overran; repeat' (with_reducible first | assumption | lift_lets -underBinder | (intro x; refine (fun (hx : Dev.Holds kp x) => ?_) ?_; on_goal 2 => unfold x) | apply Dev.reportFault_holds | apply Dev.bumpF_holds | apply Dev.orF_holds | apply Dev.reloadBlocker_holds | apply Dev.raiseEvt_holds | apply Dev.readyUnit_holds | apply Dev.resetUnit_holds | apply Dev.laneOff_holds | apply holds_ite | fail_if_no_progress (apply holds_upd <;> try rfl) | rfl | intro _ | split | dsimp +zetaDelta only)

theorem Dev.doneCheck_holds {kp : Keep} {d : Dev} (hk : d.Holds kp) (late : Nat) : (d.doneCheck late).Holds kp := by
  unfold Dev.doneCheck; repeat' (with_reducible first | assumption | refine holds_foldl (fun _ _ _ => ?_) _ ?_ | refine holds_foldl_snd (fun _ _ _ => ?_) _ ?_ | lift_lets -underBinder | (intro x; refine (fun (hx : Dev.Holds kp x) => ?_) ?_; on_goal 2 => unfold x) | apply Dev.onClock_holds | apply Dev.overran_holds | fail_if_no_progress (apply holds_upd <;> try rfl) | rfl | intro _ | dsimp +zetaDelta only)

theorem Dev.nextTick_holds {kp : Keep} {d : Dev} (hk : d.Holds kp) (periodNs : Nat) : (d.nextTick periodNs).Holds kp := by
  unfold Dev.nextTick; repeat' (with_reducible first | assumption | lift_lets -underBinder | (intro x; refine (fun (hx : Dev.Holds kp x) => ?_) ?_; on_goal 2 => unfold x) | apply Dev.onClock_holds | apply holds_ite | fail_if_no_progress (apply holds_upd <;> try rfl) | rfl | intro _ | split | dsimp +zetaDelta only)

theorem Dev.meanPeriod_holds {kp : Keep} {d : Dev} (hk : d.Holds kp) : (d.meanPeriod).Holds kp := by
  unfold Dev.meanPeriod; repeat' (with_reducible first | assumption | lift_lets -underBinder | apply Dev.onClock_holds | apply Dev.setF_holds | apply holds_ite | fail_if_no_progress (apply holds_upd <;> try rfl) | rfl | intro _ | split)

theorem Dev.track_holds {kp : Keep} {d : Dev} (hk : d.Holds kp) (a : Act) : (d.track a).Holds kp := by
  unfold Dev.track; repeat' (with_reducible first | assumption | lift_lets -underBinder | (intro x; refine (fun (hx : Dev.Holds kp x) => ?_) ?_; on_goal 2 => unfold x) | apply Dev.setF_holds | apply holds_ite | intro _ | split | dsimp +zetaDelta only)

theorem Dev.snapshot_holds {kp : Keep} {d : Dev} (hk : d.Holds kp) (a : Act) : (d.snapshot a).Holds kp := by
  unfold Dev.snapshot; repeat' (with_reducible first | assumption | refine holds_foldl (fun _ _ _ => ?_) _ ?_ | refine holds_foldl_fst (fun _ _ _ => ?_) _ ?_ | refine holds_foldl_snd (fun _ _ _ => ?_) _ ?_ | lift_lets -underBinder | (intro x; refine (fun (hx : Dev.Holds kp x) => ?_) ?_; on_goal 2 => unfold x) | apply Dev.setReg_holds | apply holds_ite | intro _ | split | dsimp +zetaDelta only)

theorem Dev.assistTick_holds {kp : Keep} {d : Dev} (hk : d.Holds kp) (a : Act) : (d.assistTick a).Holds kp := by
  unfold Dev.assistTick; repeat' (with_reducible first | assumption | lift_lets -underBinder | apply Dev.onAssist_holds | apply holds_ite | fail_if_no_progress (apply holds_upd <;> try rfl) | rfl | intro _ | split)

theorem Dev.shiftTick_holds {kp : Keep} {d : Dev} (hk : d.Holds kp) (a : Act) : (d.shiftTick a).Holds kp := by
  unfold Dev.shiftTick; repeat' (with_reducible first | assumption | lift_lets -underBinder | (intro x; refine (fun (hx : Dev.Holds kp x) => ?_) ?_; on_goal 2 => unfold x) | apply Dev.onDet_holds | apply Dev.setF_holds | apply holds_ite | fail_if_no_progress (apply holds_upd <;> try rfl) | rfl | intro _ | split | dsimp +zetaDelta only)

theorem Dev.modeTick_holds {kp : Keep} {d : Dev} (hk : d.Holds kp) (a : Act) (oldSub : Nat) : (d.modeTick a oldSub).Holds kp := by
  unfold Dev.modeTick; repeat' (with_reducible first | assumption | lift_lets -underBinder | (intro x; refine (fun (hx : Dev.Holds kp x) => ?_) ?_; on_goal 2 => unfold x) | apply Dev.setF_holds | apply Dev.modeManual_holds | apply Dev.onSrv_holds | apply Dev.modeOff_holds | apply holds_ite | fail_if_no_progress (apply holds_upd <;> try rfl) | rfl | intro _ | split | dsimp +zetaDelta only)

theorem Dev.injectTick_holds {kp : Keep} {d : Dev} (hk : d.Holds kp) (a : Act) : (d.injectTick a).Holds kp := by
  unfold Dev.injectTick; repeat' (with_reducible first | assumption | lift_lets -underBinder | (intro x; refine (fun (hx : Dev.Holds kp x) => ?_) ?_; on_goal 2 => unfold x) | apply Dev.endInjection_holds | apply holds_ite | fail_if_no_progress (apply holds_upd <;> try rfl) | rfl | intro _ | split | dsimp +zetaDelta only)

theorem Dev.retarget_holds {kp : Keep} {d : Dev} (hk : d.Holds kp) (a : Act) : (d.retarget a).Holds kp := by
  unfold Dev.retarget; repeat' (with_reducible first | assumption | lift_lets -underBinder | (intro x; refine (fun (hx : Dev.Holds kp x) => ?_) ?_; on_goal 2 => unfold x) | apply Dev.onSrv_holds | apply Dev.enterSettle_holds | apply holds_ite | fail_if_no_progress (apply holds_upd <;> try rfl) | rfl | intro _ | split | dsimp +zetaDelta only)

theorem Dev.servoTick_holds {kp : Keep} {d : Dev} (hk : d.Holds kp) (a : Act) : (d.servoTick a).Holds kp := by
  unfold Dev.servoTick; repeat' (with_reducible first | assumption | lift_lets -underBinder | (intro x; refine (fun (hx : Dev.Holds kp x) => ?_) ?_; on_goal 2 => unfold x) | apply Dev.onWr_holds | apply Dev.onSrv_holds | apply holds_ite | fail_if_no_progress (apply holds_upd <;> try rfl) | rfl | intro _ | split | dsimp +zetaDelta only)

theorem Dev.actTick_holds {kp : Keep} {d : Dev} (hk : d.Holds kp) (a : Act) (oldSub : Nat) : (d.actTick a oldSub).Holds kp := by
  unfold Dev.actTick; repeat' (with_reducible first | assumption | apply Dev.snapshot_holds | apply Dev.refreshCopies_holds | apply Dev.track_holds | apply Dev.assistTick_holds | apply Dev.retarget_holds | apply Dev.injectTick_holds | apply Dev.modeTick_holds | apply Dev.shiftTick_holds | apply Dev.servoTick_holds | apply holds_ite | intro _ | split)

theorem Dev.tickEdge_holds {kp : Keep} {d : Dev} (hk : d.Holds kp) (periodNs late : Nat) : (d.tickEdge periodNs late).Holds kp := by
  unfold Dev.tickEdge; repeat' (with_reducible first | assumption | lift_lets -underBinder | (intro x; refine (fun (hx : Dev.Holds kp x) => ?_) ?_; on_goal 2 => unfold x) | apply Dev.meanPeriod_holds | apply Dev.nextTick_holds | apply Dev.doneCheck_holds | apply Dev.retractNotice_holds | apply Dev.latchRwt_holds | apply Dev.applyPending_holds | apply Dev.sendGroups_holds | apply Dev.actTick_holds | intro _ | dsimp +zetaDelta only)

theorem Dev.closeGates_holds {kp : Keep} {d : Dev} (hk : d.Holds kp) (a : Act) : (d.closeGates a).Holds kp := by
  unfold Dev.closeGates; repeat' (with_reducible first | assumption | lift_lets -underBinder | (intro x; refine (fun (hx : Dev.Holds kp x) => ?_) ?_; on_goal 2 => unfold x) | apply Dev.writeFault_holds | apply Dev.laneOff_holds | apply Dev.cutRead_holds | apply Dev.applyEvent_holds | apply Dev.sendGroups_holds | apply Dev.onTnl_holds | apply holds_ite | fail_if_no_progress (apply holds_upd <;> try rfl) | rfl | intro _ | split | dsimp +zetaDelta only)

theorem Dev.stepClock_holds {kp : Keep} {d : Dev} (hk : d.Holds kp) (wedge : Nat) : (d.stepClock wedge).Holds kp := by
  unfold Dev.stepClock; repeat' (with_reducible first | assumption | lift_lets -underBinder | (intro x; refine (fun (hx : Dev.Holds kp x) => ?_) ?_; on_goal 2 => unfold x) | apply Dev.closeGates_holds | apply Dev.onClock_holds | apply Dev.cancelStamps_holds | apply Dev.event_holds | apply Dev.setF_holds | apply Dev.toObserver_holds | apply Dev.onSpn_holds | apply Dev.rearm_holds | apply holds_ite | fail_if_no_progress (apply holds_upd <;> try rfl) | rfl | intro _ | split | dsimp +zetaDelta only)

theorem Dev.compareMark_holds {kp : Keep} {d : Dev} (hk : d.Holds kp) (a : Act) (index : Option Nat) (phase : Nat) : (d.compareMark a index phase).Holds kp := by
  unfold Dev.compareMark; repeat' (with_reducible first | assumption | lift_lets -underBinder | (intro x; refine (fun (hx : Dev.Holds kp x) => ?_) ?_; on_goal 2 => unfold x) | apply Dev.onSrv_holds | apply Dev.setF_holds | apply Dev.stepClock_holds | apply Dev.onClock_holds | apply holds_ite | fail_if_no_progress (apply holds_upd <;> try rfl) | rfl | intro _ | split | dsimp +zetaDelta only)

theorem Dev.detected_holds {kp : Keep} {d : Dev} (hk : d.Holds kp) (a : Act) (index : Option Nat) (phase : Nat) : (d.detected a index phase).Holds kp := by
  unfold Dev.detected; repeat' (with_reducible first | assumption | lift_lets -underBinder | (intro x; refine (fun (hx : Dev.Holds kp x) => ?_) ?_; on_goal 2 => unfold x) | apply Dev.onSrv_holds | apply Dev.bumpF_holds | apply Dev.compareMark_holds | apply Dev.makeMaster_holds | apply holds_ite | fail_if_no_progress (apply holds_upd <;> try rfl) | rfl | intro _ | split | dsimp +zetaDelta only)

theorem Dev.addressMark_holds {kp : Keep} {d : Dev} (hk : d.Holds kp) (a : Act) (field phase : Nat) (confirms : Bool) : (d.addressMark a field phase confirms).Holds kp := by
  unfold Dev.addressMark; repeat' (with_reducible first | assumption | lift_lets -underBinder | (intro x; refine (fun (hx : Dev.Holds kp x) => ?_) ?_; on_goal 2 => unfold x) | apply Dev.detected_holds | apply Dev.onSrv_holds | apply holds_ite | fail_if_no_progress (apply holds_upd <;> try rfl) | rfl | intro _ | split | dsimp +zetaDelta only)

theorem execAddressMark_holds {kp : Keep} {s : State} (hk : s.dev.Holds kp) (a : Act) (field phase : Nat) (confirms : Bool) :
    ∃ d, execAddressMark a field phase confirms s = s.next d ∧ d.Holds kp := by
  refine ⟨_, rfl, ?_⟩; repeat' (with_reducible first | assumption | apply State.dev_holds | apply Dev.addressMark_holds | apply holds_ite | intro _ | split)

theorem Dev.missedMark_holds {kp : Keep} {d : Dev} (hk : d.Holds kp) (a : Act) : (d.missedMark a).Holds kp := by
  unfold Dev.missedMark; repeat' (with_reducible first | assumption | lift_lets -underBinder | (intro x; refine (fun (hx : Dev.Holds kp x) => ?_) ?_; on_goal 2 => unfold x) | apply Dev.onSrv_holds | apply Dev.bumpF_holds | apply Dev.onClock_holds | apply Dev.setF_holds | apply holds_ite | fail_if_no_progress (apply holds_upd <;> try rfl) | rfl | intro _ | split | dsimp +zetaDelta only)

theorem execMissedMark_holds {kp : Keep} {s : State} (hk : s.dev.Holds kp) (a : Act) :
    ∃ d, execMissedMark a s = s.next d ∧ d.Holds kp := by
  refine ⟨_, rfl, ?_⟩; repeat' (with_reducible first | assumption | apply State.dev_holds | apply Dev.missedMark_holds | apply holds_ite | intro _ | split)

theorem Dev.toCoarse_holds {kp : Keep} {d : Dev} (hk : d.Holds kp) : (d.toCoarse).Holds kp := by
  unfold Dev.toCoarse; repeat' (with_reducible first | assumption | lift_lets -underBinder | (intro x; refine (fun (hx : Dev.Holds kp x) => ?_) ?_; on_goal 2 => unfold x) | apply Dev.setF_holds | apply Dev.toObserver_holds | apply Dev.event_holds | intro _ | dsimp +zetaDelta only)

theorem Dev.flywheelLimit_holds {kp : Keep} {d : Dev} (hk : d.Holds kp) : (d.flywheelLimit).Holds kp := by
  unfold Dev.flywheelLimit; repeat' (with_reducible first | assumption | apply Dev.setF_holds | apply Dev.makeMaster_holds | apply Dev.toCoarse_holds | apply holds_ite | intro _ | split)

theorem execFlywheelLimit_holds {kp : Keep} {s : State} (hk : s.dev.Holds kp) :
    ∃ d, execFlywheelLimit s = s.next d ∧ d.Holds kp := by
  refine ⟨_, rfl, ?_⟩; repeat' (with_reducible first | assumption | apply Dev.flywheelLimit_holds | apply State.dev_holds)

theorem Dev.launchStamp_holds {kp : Keep} {d : Dev} (hk : d.Holds kp) (hr : kp.recs = none) (o : StampOwner) (w : WordObs) (sixthNs : Nat) : (d.launchStamp o w sixthNs).Holds kp := by
  unfold Dev.launchStamp; repeat' (with_reducible first | assumption | lift_lets -underBinder | apply Dev.settle_holds | apply Dev.blockerFires_holds | apply Dev.backOffStart_holds | apply Dev.operateRamp_holds | apply Dev.onBlk_holds | apply Dev.commutate_holds | fail_if_no_progress (apply holds_upd <;> try rfl) | rfl | intro _ | split)

theorem Dev.fireStamp_holds {kp : Keep} {d : Dev} (hk : d.Holds kp) (hr : kp.recs = none) (o : StampOwner) (w : WordObs) (sixthNs : Nat) : (d.fireStamp o w sixthNs).Holds kp := by
  unfold Dev.fireStamp; repeat' (with_reducible first | assumption | lift_lets -underBinder | (intro x; refine (fun (hx : Dev.Holds kp x) => ?_) ?_; on_goal 2 => unfold x) | apply Dev.atPhase_holds | apply Dev.onClock_holds | apply Dev.launchStamp_holds | apply holds_ite | fail_if_no_progress (apply holds_upd <;> try rfl) | rfl | intro _ | split | dsimp +zetaDelta only)

theorem execStampFire_holds {kp : Keep} {s : State} (hk : s.dev.Holds kp) (hr : kp.recs = none) (owner : StampOwner) (o : WordObs) (sixthNs : Nat) :
    ∃ d, execStampFire owner o sixthNs s = s.next d ∧ d.Holds kp := by
  refine ⟨_, rfl, ?_⟩; repeat' (with_reducible first | assumption | apply Dev.fireStamp_holds | apply State.dev_holds)

end Sys2Proof.Machine
end

