-- ==== Sys2Proof/Laws/Holds/Hatband.lean ====
section
/-! SUPPORT. The operations of Machine/Hatband.lean carry `Dev.Holds`. -/

namespace Sys2Proof.Machine

set_option linter.unusedTactic false
set_option linter.unreachableTactic false

theorem Dev.onHb_holds {kp : Keep} {d : Dev} {g : Hatband → Hatband} (hk : d.Holds kp) (e1 : (g d.hb).recs = d.hb.recs)
    (e2 : (g d.hb).full = d.hb.full) (e3 : (g d.hb).queue = d.hb.queue) : (d.onHb g).Holds kp :=
  holds_upd hk rfl rfl e1 e2 e3 rfl rfl rfl rfl rfl

theorem execHatbandEvent_holds {kp : Keep} {s : State} (hk : s.dev.Holds kp) (code : Nat) (block : Block) (arg0 arg1 : Nat) :
    ∃ d, execHatbandEvent code block arg0 arg1 s = s.next d ∧ d.Holds kp := by
  refine ⟨_, rfl, ?_⟩; repeat' (with_reducible first | assumption | apply Dev.event_holds | apply State.dev_holds | apply holds_ite | intro _ | split)

theorem Dev.latchRecord_holds {kp : Keep} {d : Dev} (hk : d.Holds kp) (i : Nat) : (d.latchRecord i).Holds kp := by
  unfold Dev.latchRecord; repeat' (with_reducible first | assumption | lift_lets -underBinder | (intro x; refine (fun (hx : Dev.Holds kp x) => ?_) ?_; on_goal 2 => unfold x) | refine Dev.onHb_holds ?_ rfl rfl rfl | apply Dev.setF_holds | fail_if_no_progress (apply holds_upd <;> try rfl) | rfl | intro _ | dsimp +zetaDelta only)

theorem Dev.cursorWrite_holds {kp : Keep} {d : Dev} (hk : d.Holds kp) (w : Word) : (d.cursorWrite w).Holds kp := by
  unfold Dev.cursorWrite; repeat' (with_reducible first | assumption | apply Dev.latchRecord_holds | apply Dev.setF_holds)

theorem execHbrCursorWrite_holds {kp : Keep} {s : State} (hk : s.dev.Holds kp) (w : Word) :
    ∃ d, execHbrCursorWrite w s = s.next d ∧ d.Holds kp := by
  refine ⟨_, rfl, ?_⟩; repeat' (with_reducible first | assumption | apply Dev.cursorWrite_holds | apply State.dev_holds)

theorem Dev.win7Read_holds {kp : Keep} {d : Dev} (hk : d.Holds kp) (who : Requester) : (d.win7Read who).Holds kp := by
  unfold Dev.win7Read; repeat' (with_reducible first | assumption | lift_lets -underBinder | (intro x; refine (fun (hx : Dev.Holds kp x) => ?_) ?_; on_goal 2 => unfold x) | apply Dev.answer_holds | apply Dev.latchRecord_holds | apply holds_ite | intro _ | split | dsimp +zetaDelta only)

theorem execHbrWin7Read_holds {kp : Keep} {s : State} (hk : s.dev.Holds kp) (who : Requester) :
    ∃ d, execHbrWin7Read who s = s.next d ∧ d.Holds kp := by
  refine ⟨_, rfl, ?_⟩; repeat' (with_reducible first | assumption | apply Dev.win7Read_holds | apply State.dev_holds)

theorem Dev.freezeRecs_holds {kp : Keep} {d : Dev} (hk : d.Holds kp) (holder : Nat) : (d.freezeRecs holder).Holds kp := by
  unfold Dev.freezeRecs; repeat' (with_reducible first | assumption | lift_lets -underBinder | refine Dev.onHb_holds ?_ rfl rfl rfl | fail_if_no_progress (apply holds_upd <;> try rfl) | rfl | intro _)

theorem Dev.thawRecs_holds {kp : Keep} {d : Dev} (hk : d.Holds kp) (holder : Nat) : (d.thawRecs holder).Holds kp := by
  unfold Dev.thawRecs; repeat' (with_reducible first | assumption | lift_lets -underBinder | refine Dev.onHb_holds ?_ rfl rfl rfl | fail_if_no_progress (apply holds_upd <;> try rfl) | rfl | intro _)

theorem Hatband.writes_bounded (rs : List HbRec) : ∀ {h : Hatband}, h.bounded = true → (rs.foldl Hatband.write h).bounded = true := by
  induction rs with
  | nil => intro h e; exact e
  | cons r rs ih => intro h e; exact ih (Hatband.write_bounded e r)

theorem Dev.drainEvents_holds {kp : Keep} {d : Dev} (hk : d.Holds kp) : d.drainEvents.Holds kp := by
  refine holds_hb hk ?_
  have h := Hatband.writes_bounded d.hb.queue hk.sound.hb
  simp only [Hatband.bounded, Bool.and_eq_true, decide_eq_true_eq] at h ⊢
  exact ⟨h.1, by simp⟩

theorem Dev.clearHatband_holds {kp : Keep} {d : Dev} (hk : d.Holds kp) (holder : Nat) : (d.clearHatband holder).Holds kp := by
  unfold Dev.clearHatband
  refine Dev.drainEvents_holds (holds_hb hk ?_)
  have h := hk.sound.hb
  simp only [Hatband.bounded, Bool.and_eq_true, Bool.or_eq_true, decide_eq_true_eq, List.length_singleton] at h ⊢
  exact ⟨⟨by omega, .inr (by omega)⟩, h.2⟩

end Sys2Proof.Machine
end

