-- ==== Sys2Proof/Laws/Holds/Memory.lean ====
section
/-! SUPPORT. The operations of Machine/Memory.lean carry `Dev.Holds`. -/

namespace Sys2Proof.Machine

set_option linter.unusedTactic false
set_option linter.unreachableTactic false

theorem Dev.bufUe_holds {kp : Keep} {d : Dev} (hk : d.Holds kp) (no addr : Nat) (scrub : Bool) : (d.bufUe no addr scrub).Holds kp := by
  unfold Dev.bufUe; repeat' (with_reducible first | assumption | lift_lets -underBinder | (intro x; refine (fun (hx : Dev.Holds kp x) => ?_) ?_; on_goal 2 => unfold x) | apply Dev.bumpF_holds | apply Dev.setF_holds | apply holds_ite | intro _ | split | dsimp +zetaDelta only)

theorem Memories.setBuf_wf {m : Memories} (h : Memory.wf m = true) (a data chk : Nat) : Memory.wf (m.setBuf a data chk) = true := by
  simp only [Memory.wf, Bool.and_eq_true, Memories.setBuf] at h ⊢
  exact ⟨⟨⟨swf_sset h.1.1.1 _ _, swf_sset h.1.1.2 _ _⟩, h.1.2⟩, h.2⟩

theorem Memories.writeBuf_wf {m : Memories} (h : Memory.wf m = true) (a : Nat) (b : PByte) : Memory.wf (m.writeBuf a b) = true :=
  Memories.setBuf_wf h _ _ _

theorem Memories.writeBufs_wf (bs : List PByte) : ∀ {m : Memories} (_ : Memory.wf m = true) (a : Nat), Memory.wf (m.writeBufs a bs) = true := by
  induction bs with
  | nil => intro m h a; exact h
  | cons b bs ih => intro m h a; exact ih (Memories.writeBuf_wf h a b) (a + 1)

theorem Memories.sweepBank_wf {m : Memories} (h : Memory.wf m = true) (bank : Nat) : Memory.wf (m.sweepBank bank) = true := by
  simp only [Memory.wf, Bool.and_eq_true, Memories.sweepBank] at h ⊢
  exact ⟨⟨⟨swf_filter h.1.1.1 _, swf_filter h.1.1.2 _⟩, h.1.2⟩, h.2⟩

theorem Memories.setQuarter_wf {m : Memories} (h : Memory.wf m = true) (g q data chk : Nat) : Memory.wf (m.setQuarter g q data chk) = true := by
  simp only [Memory.wf, Bool.and_eq_true, Memories.setQuarter] at h ⊢
  exact ⟨⟨h.1.1, swf_ssetList _ _ h.1.2⟩, swf_sset h.2 _ _⟩

theorem Memories.storeGranule_wf {m : Memories} (h : Memory.wf m = true) (g : Nat) (bytes : List Byte) (p : Bool) :
    Memory.wf (m.storeGranule g bytes p) = true := by
  simp only [Memory.wf, Bool.and_eq_true, Memories.storeGranule] at h ⊢
  exact ⟨⟨h.1.1, swf_ssetList _ _ h.1.2⟩, swf_sset h.2 _ _⟩

theorem Memories.setMeta_wf {m : Memories} (h : Memory.wf m = true) (g : Nat) (w : BitVec 64) :
    Memory.wf { m with dramMeta := sset 0 m.dramMeta g w } = true := by
  simp only [Memory.wf, Bool.and_eq_true] at h ⊢
  exact ⟨h.1, swf_sset h.2 _ _⟩

theorem Memories.writeBack_wf {m : Memories} (h : Memory.wf m = true) (c : Correction) : Memory.wf (m.writeBack c) = true := by
  unfold Memories.writeBack
  dsimp only
  split
  · split
    · exact Memories.setQuarter_wf h _ _ _ _
    · exact h
  · split
    · exact Memories.setBuf_wf h _ _ _
    · exact h

theorem Memory.wf_congr {m n : Memories} (e : n.cells = m.cells) (h : Memory.wf m = true) : Memory.wf n = true := by
  simp only [Memories.cells, Cells.mk.injEq] at e
  simpa only [Memory.wf, e.1, e.2.1, e.2.2.1, e.2.2.2] using h

theorem Memories.correct_wf {m : Memories} (h : Memory.wf m = true) : Memory.wf m.correct = true := by
  unfold Memories.correct
  cases m.fixes with
  | nil => exact h
  | cons c cs =>
    have h2 : Memory.wf { m with fixes := cs } = true := Memory.wf_congr rfl h
    exact Memories.writeBack_wf h2 c

theorem Dev.onMem_keep {kp : Keep} {d : Dev} {g : Memories → Memories} (hk : d.Holds kp) (e : (g d.mem).cells = d.mem.cells) :
    (d.onMem g).Holds kp :=
  holds_upd hk rfl rfl rfl rfl rfl rfl rfl e rfl rfl

theorem Dev.onMem_holds {kp : Keep} {d : Dev} {g : Memories → Memories} (hk : d.Holds kp) (hc : kp.cells = none)
    (hg : ∀ m, Memory.wf m = true → Memory.wf (g m) = true) : (d.onMem g).Holds kp := by
  obtain ⟨⟨s1, s2, s3, s4, s5, s6, s7, s8⟩, h2, h3, h4, h5, h6, h7, h8⟩ := hk
  exact ⟨⟨s1, s2, s3, hg _ s4, s5, s6, s7, s8⟩, h2, fun x hx => absurd (hc.symm.trans hx) (by simp), h4, h5, h6, h7, h8⟩

theorem Dev.readBuf_holds {kp : Keep} {d : Dev} (hk : d.Holds kp) (a : Nat) : (d.readBuf a).2.Holds kp := by
  unfold Dev.readBuf; repeat' (with_reducible first | assumption | lift_lets -underBinder | (intro x; refine (fun (hx : Dev.Holds kp x) => ?_) ?_; on_goal 2 => unfold x) | apply Dev.bufUe_holds | refine Dev.onMem_keep ?_ rfl | refine Dev.onMem_holds ?_ (by assumption) (fun m hm => ?_) | exact Memories.setBuf_wf hm _ _ _ | exact Memories.writeBuf_wf hm _ _ | exact Memories.writeBufs_wf _ hm _ | exact Memories.storeGranule_wf hm _ _ _ | exact Memories.setQuarter_wf hm _ _ _ _ | exact Memories.sweepBank_wf hm _ | exact Memories.setMeta_wf hm _ _ | apply Dev.bumpF_holds | fail_if_no_progress (apply holds_upd <;> try rfl) | rfl | intro _ | split | dsimp +zetaDelta only)

theorem Dev.readBufs_holds {kp : Keep}  (x0 : Nat) : ∀ {d : Dev} (hk : d.Holds kp) (a : Nat), (d.readBufs a x0).2.Holds kp := by
  induction x0 with
  | zero =>
    intro d hk a; unfold Dev.readBufs; repeat' (with_reducible first | assumption | lift_lets -underBinder | (intro x; refine (fun (hx : Dev.Holds kp x) => ?_) ?_; on_goal 2 => unfold x) | apply ih | apply Dev.readBuf_holds | intro _ | split | dsimp +zetaDelta only)
  | succ n ih =>
    intro d hk a; unfold Dev.readBufs; repeat' (with_reducible first | assumption | lift_lets -underBinder | (intro x; refine (fun (hx : Dev.Holds kp x) => ?_) ?_; on_goal 2 => unfold x) | apply ih | apply Dev.readBuf_holds | intro _ | split | dsimp +zetaDelta only)

theorem Dev.dramUe_holds {kp : Keep} {d : Dev} (hk : d.Holds kp) (g : Nat) (scrub : Bool) : (d.dramUe g scrub).Holds kp := by
  unfold Dev.dramUe; repeat' (with_reducible first | assumption | lift_lets -underBinder | (intro x; refine (fun (hx : Dev.Holds kp x) => ?_) ?_; on_goal 2 => unfold x) | apply Dev.bumpF_holds | apply Dev.setF_holds | apply holds_ite | intro _ | split | dsimp +zetaDelta only)

theorem Dev.noteQuarter_holds {kp : Keep} {d : Dev} (hk : d.Holds kp) (g q : Nat) : (d.noteQuarter g q).Holds kp := by
  unfold Dev.noteQuarter; repeat' (with_reducible first | assumption | lift_lets -underBinder | refine Dev.onMem_keep ?_ rfl | refine Dev.onMem_holds ?_ (by assumption) (fun m hm => ?_) | exact Memories.setBuf_wf hm _ _ _ | exact Memories.writeBuf_wf hm _ _ | exact Memories.writeBufs_wf _ hm _ | exact Memories.storeGranule_wf hm _ _ _ | exact Memories.setQuarter_wf hm _ _ _ _ | exact Memories.sweepBank_wf hm _ | exact Memories.setMeta_wf hm _ _ | apply Dev.bumpF_holds | apply holds_ite | fail_if_no_progress (apply holds_upd <;> try rfl) | rfl | intro _ | split)

theorem Dev.readGranule_holds {kp : Keep} {d : Dev} (hk : d.Holds kp) (g : Nat) : (d.readGranule g).2.Holds kp := by
  unfold Dev.readGranule; repeat' (with_reducible first | assumption | lift_lets -underBinder | (intro x; refine (fun (hx : Dev.Holds kp x) => ?_) ?_; on_goal 2 => unfold x) | apply Dev.event_holds | apply Dev.bumpF_holds | apply Dev.noteQuarter_holds | apply Dev.dramUe_holds | apply holds_ite | intro _ | split | dsimp +zetaDelta only)

theorem Dev.writeGranule_holds {kp : Keep} {d : Dev} (hk : d.Holds kp) (hc : kp.cells = none) (w : GranuleWrite) : (d.writeGranule w).Holds kp := by
  unfold Dev.writeGranule; repeat' (with_reducible first | assumption | lift_lets -underBinder | (intro x; refine (fun (hx : Dev.Holds kp x) => ?_) ?_; on_goal 2 => unfold x) | refine Dev.onMem_keep ?_ rfl | refine Dev.onMem_holds ?_ (by assumption) (fun m hm => ?_) | exact Memories.setBuf_wf hm _ _ _ | exact Memories.writeBuf_wf hm _ _ | exact Memories.writeBufs_wf _ hm _ | exact Memories.storeGranule_wf hm _ _ _ | exact Memories.setQuarter_wf hm _ _ _ _ | exact Memories.sweepBank_wf hm _ | exact Memories.setMeta_wf hm _ _ | apply Dev.readGranule_holds | apply holds_ite | intro _ | split | dsimp +zetaDelta only)

theorem Dev.offerGranule_holds {kp : Keep} {d : Dev} (hk : d.Holds kp) (hc : kp.cells = none) (w : GranuleWrite) : (d.offerGranule w).Holds kp := by
  unfold Dev.offerGranule; repeat' (with_reducible first | assumption | lift_lets -underBinder | refine Dev.onMem_keep ?_ rfl | refine Dev.onMem_holds ?_ (by assumption) (fun m hm => ?_) | exact Memories.setBuf_wf hm _ _ _ | exact Memories.writeBuf_wf hm _ _ | exact Memories.writeBufs_wf _ hm _ | exact Memories.storeGranule_wf hm _ _ _ | exact Memories.setQuarter_wf hm _ _ _ _ | exact Memories.sweepBank_wf hm _ | exact Memories.setMeta_wf hm _ _ | apply Dev.writeGranule_holds | apply holds_ite | fail_if_no_progress (apply holds_upd <;> try rfl) | rfl | intro _ | split)

theorem Dev.writeDram_holds {kp : Keep} {d : Dev} (hk : d.Holds kp) (hc : kp.cells = none) (a : Nat) (bs : List PByte) : (d.writeDram a bs).Holds kp := by
  unfold Dev.writeDram; repeat' (with_reducible first | assumption | refine holds_foldl (fun _ _ _ => ?_) _ ?_ | refine holds_foldl_snd (fun _ _ _ => ?_) _ ?_ | apply Dev.offerGranule_holds | intro _)

theorem Dev.readGranules_holds {kp : Keep}  (x0 : Nat) : ∀ {d : Dev} (hk : d.Holds kp) (g : Nat), (d.readGranules g x0).2.Holds kp := by
  induction x0 with
  | zero =>
    intro d hk g; unfold Dev.readGranules; repeat' (with_reducible first | assumption | lift_lets -underBinder | (intro x; refine (fun (hx : Dev.Holds kp x) => ?_) ?_; on_goal 2 => unfold x) | apply ih | apply Dev.readGranule_holds | intro _ | split | dsimp +zetaDelta only)
  | succ n ih =>
    intro d hk g; unfold Dev.readGranules; repeat' (with_reducible first | assumption | lift_lets -underBinder | (intro x; refine (fun (hx : Dev.Holds kp x) => ?_) ?_; on_goal 2 => unfold x) | apply ih | apply Dev.readGranule_holds | intro _ | split | dsimp +zetaDelta only)

theorem Dev.readDram_holds {kp : Keep} {d : Dev} (hk : d.Holds kp) (a n : Nat) : (d.readDram a n).2.Holds kp := by
  unfold Dev.readDram; repeat' (with_reducible first | assumption | lift_lets -underBinder | (intro x; refine (fun (hx : Dev.Holds kp x) => ?_) ?_; on_goal 2 => unfold x) | apply Dev.readGranules_holds | intro _ | dsimp +zetaDelta only)

theorem execCorrectionWriteBack_holds {kp : Keep} {s : State} (hk : s.dev.Holds kp) (hc : kp.cells = none) :
    ∃ d, execCorrectionWriteBack s = s.next d ∧ d.Holds kp :=
  ⟨_, rfl, Dev.onMem_holds hk hc fun _ h => Memories.correct_wf h⟩

theorem Dev.releaseHeld_holds {kp : Keep} {d : Dev} (hk : d.Holds kp) (hc : kp.cells = none) : (d.releaseHeld).Holds kp := by
  unfold Dev.releaseHeld; repeat' (with_reducible first | assumption | refine holds_foldl (fun _ _ _ => ?_) _ ?_ | refine holds_foldl_snd (fun _ _ _ => ?_) _ ?_ | lift_lets -underBinder | (intro x; refine (fun (hx : Dev.Holds kp x) => ?_) ?_; on_goal 2 => unfold x) | refine Dev.onMem_keep ?_ rfl | refine Dev.onMem_holds ?_ (by assumption) (fun m hm => ?_) | exact Memories.setBuf_wf hm _ _ _ | exact Memories.writeBuf_wf hm _ _ | exact Memories.writeBufs_wf _ hm _ | exact Memories.storeGranule_wf hm _ _ _ | exact Memories.setQuarter_wf hm _ _ _ _ | exact Memories.sweepBank_wf hm _ | exact Memories.setMeta_wf hm _ _ | apply Dev.offerGranule_holds | fail_if_no_progress (apply holds_upd <;> try rfl) | rfl | intro _ | dsimp +zetaDelta only)

theorem Dev.fenceAdvance_holds {kp : Keep} {d : Dev} (hk : d.Holds kp) (hc : kp.cells = none) (mib : Nat) : (d.fenceAdvance mib).Holds kp := by
  unfold Dev.fenceAdvance; repeat' (with_reducible first | assumption | apply Dev.releaseHeld_holds | apply Dev.setF_holds | apply holds_ite | intro _ | split)

theorem execFenceAdvance_holds {kp : Keep} {s : State} (hk : s.dev.Holds kp) (hc : kp.cells = none) (mib : Nat) :
    ∃ d, execFenceAdvance mib s = s.next d ∧ d.Holds kp := by
  refine ⟨_, rfl, ?_⟩; repeat' (with_reducible first | assumption | apply Dev.fenceAdvance_holds | apply State.dev_holds)

theorem Dev.fenceDone_holds {kp : Keep} {d : Dev} (hk : d.Holds kp) (hc : kp.cells = none) : (d.fenceDone).Holds kp := by
  unfold Dev.fenceDone; repeat' (with_reducible first | assumption | lift_lets -underBinder | (intro x; refine (fun (hx : Dev.Holds kp x) => ?_) ?_; on_goal 2 => unfold x) | apply Dev.releaseHeld_holds | apply Dev.setF_holds | apply Dev.endStep_holds | apply holds_ite | intro _ | split | dsimp +zetaDelta only)

theorem execFenceDone_holds {kp : Keep} {s : State} (hk : s.dev.Holds kp) (hc : kp.cells = none) :
    ∃ d, execFenceDone s = s.next d ∧ d.Holds kp := by
  refine ⟨_, rfl, ?_⟩; repeat' (with_reducible first | assumption | apply Dev.fenceDone_holds | apply State.dev_holds)

theorem Dev.injectBuf_holds {kp : Keep} {d : Dev} (hk : d.Holds kp) (hc : kp.cells = none) : (d.injectBuf).Holds kp := by
  unfold Dev.injectBuf; repeat' (with_reducible first | assumption | lift_lets -underBinder | (intro x; refine (fun (hx : Dev.Holds kp x) => ?_) ?_; on_goal 2 => unfold x) | refine Dev.onMem_keep ?_ rfl | refine Dev.onMem_holds ?_ (by assumption) (fun m hm => ?_) | exact Memories.setBuf_wf hm _ _ _ | exact Memories.writeBuf_wf hm _ _ | exact Memories.writeBufs_wf _ hm _ | exact Memories.storeGranule_wf hm _ _ _ | exact Memories.setQuarter_wf hm _ _ _ _ | exact Memories.sweepBank_wf hm _ | exact Memories.setMeta_wf hm _ _ | intro _ | dsimp +zetaDelta only)

theorem Dev.injectDram_holds {kp : Keep} {d : Dev} (hk : d.Holds kp) (hc : kp.cells = none) : d.injectDram.Holds kp := by
  unfold Dev.injectDram
  exact Dev.onMem_holds (Dev.onMem_holds hk hc fun _ h => Memories.setQuarter_wf h _ _ _ _) hc fun _ h => Memories.setMeta_wf h _ _

theorem Dev.bufTestGo_holds {kp : Keep} {d : Dev} (hk : d.Holds kp) (hc : kp.cells = none) (cal : Bool) (w : Word) : (d.bufTestGo cal w).Holds kp := by
  unfold Dev.bufTestGo; repeat' (with_reducible first | assumption | lift_lets -underBinder | (intro x; refine (fun (hx : Dev.Holds kp x) => ?_) ?_; on_goal 2 => unfold x) | apply Dev.writeReg_holds | apply Dev.injectBuf_holds | apply holds_ite | intro _ | split | dsimp +zetaDelta only)

theorem execBufTestGo_holds {kp : Keep} {s : State} (hk : s.dev.Holds kp) (hc : kp.cells = none) (cal : Bool) (w : Word) :
    ∃ d, execBufTestGo cal w s = s.next d ∧ d.Holds kp := by
  refine ⟨_, rfl, ?_⟩; repeat' (with_reducible first | assumption | apply Dev.bufTestGo_holds | apply State.dev_holds | apply holds_ite | intro _ | split)

theorem Dev.dmcTestGo_holds {kp : Keep} {d : Dev} (hk : d.Holds kp) (hc : kp.cells = none) (cal : Bool) (w : Word) : (d.dmcTestGo cal w).Holds kp := by
  unfold Dev.dmcTestGo; repeat' (with_reducible first | assumption | lift_lets -underBinder | (intro x; refine (fun (hx : Dev.Holds kp x) => ?_) ?_; on_goal 2 => unfold x) | apply Dev.writeReg_holds | apply Dev.injectDram_holds | apply holds_ite | intro _ | split | dsimp +zetaDelta only)

theorem execDmcTestGo_holds {kp : Keep} {s : State} (hk : s.dev.Holds kp) (hc : kp.cells = none) (cal : Bool) (w : Word) :
    ∃ d, execDmcTestGo cal w s = s.next d ∧ d.Holds kp := by
  refine ⟨_, rfl, ?_⟩; repeat' (with_reducible first | assumption | apply Dev.dmcTestGo_holds | apply State.dev_holds | apply holds_ite | intro _ | split)

end Sys2Proof.Machine
end

