-- ==== Sys2Proof/Laws/Holds/Fuller.lean ====
section
/-! SUPPORT. The operations of Machine/Fuller.lean carry `Dev.Holds`. -/

namespace Sys2Proof.Machine

set_option linter.unusedTactic false
set_option linter.unreachableTactic false

theorem Dev.readChain_holds {kp : Keep}  (x0 : Nat) : ∀ {d : Dev} (hk : d.Holds kp) (idx : Nat), (d.readChain idx x0).2.Holds kp := by
  induction x0 with
  | zero =>
    intro d hk idx; unfold Dev.readChain; repeat' (with_reducible first | assumption | lift_lets -underBinder | (intro x; refine (fun (hx : Dev.Holds kp x) => ?_) ?_; on_goal 2 => unfold x) | apply ih | apply Dev.readDram_holds | apply Dev.readBufs_holds | apply holds_ite | intro _ | split | dsimp +zetaDelta only)
  | succ n ih =>
    intro d hk idx; unfold Dev.readChain; repeat' (with_reducible first | assumption | lift_lets -underBinder | (intro x; refine (fun (hx : Dev.Holds kp x) => ?_) ?_; on_goal 2 => unfold x) | apply ih | apply Dev.readDram_holds | apply Dev.readBufs_holds | apply holds_ite | intro _ | split | dsimp +zetaDelta only)

theorem Dev.writeSpace_holds {kp : Keep} {d : Dev} (hk : d.Holds kp) (hc : kp.cells = none) (buffer : Bool) (addr : Nat) (bs : List PByte) : (d.writeSpace buffer addr bs).Holds kp := by
  unfold Dev.writeSpace; repeat' (with_reducible first | assumption | refine Dev.onMem_keep ?_ rfl | refine Dev.onMem_holds ?_ (by assumption) (fun m hm => ?_) | exact Memories.setBuf_wf hm _ _ _ | exact Memories.writeBuf_wf hm _ _ | exact Memories.writeBufs_wf _ hm _ | exact Memories.storeGranule_wf hm _ _ _ | exact Memories.setQuarter_wf hm _ _ _ _ | exact Memories.sweepBank_wf hm _ | exact Memories.setMeta_wf hm _ _ | apply Dev.writeDram_holds | apply holds_ite | intro _ | split)

theorem Dev.writeJob_holds {kp : Keep} {d : Dev} (hk : d.Holds kp) (hc : kp.cells = none) (job status outLen inLen : Nat) : (d.writeJob job status outLen inLen).Holds kp := by
  unfold Dev.writeJob; repeat' (with_reducible first | assumption | lift_lets -underBinder | (intro x; refine (fun (hx : Dev.Holds kp x) => ?_) ?_; on_goal 2 => unfold x) | refine Dev.onMem_keep ?_ rfl | refine Dev.onMem_holds ?_ (by assumption) (fun m hm => ?_) | exact Memories.setBuf_wf hm _ _ _ | exact Memories.writeBuf_wf hm _ _ | exact Memories.writeBufs_wf _ hm _ | exact Memories.storeGranule_wf hm _ _ _ | exact Memories.setQuarter_wf hm _ _ _ _ | exact Memories.sweepBank_wf hm _ | exact Memories.setMeta_wf hm _ _ | intro _ | dsimp +zetaDelta only)

theorem Dev.countJob_holds {kp : Keep} {d : Dev} (hk : d.Holds kp) (job status : Nat) : (d.countJob job status).Holds kp := by
  unfold Dev.countJob; repeat' (with_reducible first | assumption | lift_lets -underBinder | (intro x; refine (fun (hx : Dev.Holds kp x) => ?_) ?_; on_goal 2 => unfold x) | apply Dev.bumpF_holds | apply Dev.setF_holds | apply holds_ite | intro _ | split | dsimp +zetaDelta only)

theorem Dev.fulShow_holds {kp : Keep} {d : Dev} (hk : d.Holds kp) : (d.fulShow).Holds kp := by
  unfold Dev.fulShow; repeat' (with_reducible first | assumption | apply Dev.setF_holds)

theorem Dev.endJob_holds {kp : Keep} {d : Dev} (hk : d.Holds kp) (hc : kp.cells = none) (e : JobEnd) : (d.endJob e).Holds kp := by
  unfold Dev.endJob; repeat' (with_reducible first | assumption | lift_lets -underBinder | (intro x; refine (fun (hx : Dev.Holds kp x) => ?_) ?_; on_goal 2 => unfold x) | apply Dev.writeJob_holds | apply Dev.tookFree_holds | apply Dev.countJob_holds | apply Dev.fulShow_holds | apply Dev.setF_holds | fail_if_no_progress (apply holds_upd <;> try rfl) | rfl | intro _ | split | dsimp +zetaDelta only)

theorem Dev.runJob_holds {kp : Keep} {d : Dev} (hk : d.Holds kp) (hc : kp.cells = none) (codings : List (List Byte)) : (d.runJob codings).Holds kp := by
  unfold Dev.runJob; repeat' (with_reducible first | assumption | lift_lets -underBinder | (intro x; refine (fun (hx : Dev.Holds kp x) => ?_) ?_; on_goal 2 => unfold x) | apply Dev.endJob_holds | apply Dev.readChain_holds | apply Dev.writeSpace_holds | apply holds_ite | intro _ | split | dsimp +zetaDelta only)

theorem execCompressJob_holds {kp : Keep} {s : State} (hk : s.dev.Holds kp) (hc : kp.cells = none) (codings : List (List Byte)) :
    ∃ d, execCompressJob codings s = s.next d ∧ d.Holds kp := by
  refine ⟨_, rfl, ?_⟩; repeat' (with_reducible first | assumption | lift_lets -underBinder | (intro x; refine (fun (hx : Dev.Holds kp x) => ?_) ?_; on_goal 2 => unfold x) | apply State.dev_holds | apply Dev.runJob_holds | apply holds_ite | intro _ | split | dsimp +zetaDelta only)

theorem execDecompressJob_holds {kp : Keep} {s : State} (hk : s.dev.Holds kp) (hc : kp.cells = none) :
    ∃ d, execDecompressJob s = s.next d ∧ d.Holds kp := by
  refine ⟨_, rfl, ?_⟩; repeat' (with_reducible first | assumption | lift_lets -underBinder | (intro x; refine (fun (hx : Dev.Holds kp x) => ?_) ?_; on_goal 2 => unfold x) | apply State.dev_holds | apply Dev.runJob_holds | apply holds_ite | intro _ | split | dsimp +zetaDelta only)

theorem Dev.fulFlush_holds {kp : Keep} {d : Dev} (hk : d.Holds kp) (consumed : Nat) : (d.fulFlush consumed).Holds kp := by
  unfold Dev.fulFlush; repeat' (with_reducible first | assumption | lift_lets -underBinder | apply holds_ite | fail_if_no_progress (apply holds_upd <;> try rfl) | rfl | intro _ | split)

theorem execFulFlush_holds {kp : Keep} {s : State} (hk : s.dev.Holds kp) (consumed : Nat) :
    ∃ d, execFulFlush consumed s = s.next d ∧ d.Holds kp := by
  refine ⟨_, rfl, ?_⟩; repeat' (with_reducible first | assumption | apply Dev.fulFlush_holds | apply State.dev_holds)

end Sys2Proof.Machine
end

