-- ==== Sys2Proof/Laws/Holds/Crown.lean ====
section
/-! SUPPORT. The operations of Machine/Crown.lean carry `Dev.Holds`. -/

namespace Sys2Proof.Machine

set_option linter.unusedTactic false
set_option linter.unreachableTactic false

theorem Dev.onCrn_holds {kp : Keep} {d : Dev} (hk : d.Holds kp) (g : Crown → Crown) : (d.onCrn g).Holds kp := by
  unfold Dev.onCrn; repeat' (with_reducible first | assumption | lift_lets -underBinder | fail_if_no_progress (apply holds_upd <;> try rfl) | rfl | intro _)

theorem Dev.crownAccess_holds {kp : Keep} {d : Dev} (hk : d.Holds kp) (line w : Nat) : (d.crownAccess line w).Holds kp := by
  unfold Dev.crownAccess; repeat' (with_reducible first | assumption | lift_lets -underBinder | (intro x; refine (fun (hx : Dev.Holds kp x) => ?_) ?_; on_goal 2 => unfold x) | apply Dev.onCrn_holds | apply Dev.bumpF_holds | apply holds_ite | fail_if_no_progress (apply holds_upd <;> try rfl) | rfl | intro _ | split | dsimp +zetaDelta only)

theorem Dev.drainEntry_holds {kp : Keep} {d : Dev} (hk : d.Holds kp) (hc : kp.cells = none) (e : BattEntry) : (d.drainEntry e).Holds kp := by
  unfold Dev.drainEntry; repeat' (with_reducible first | assumption | lift_lets -underBinder | (intro x; refine (fun (hx : Dev.Holds kp x) => ?_) ?_; on_goal 2 => unfold x) | apply Dev.offerGranule_holds | apply holds_ite | intro _ | split | dsimp +zetaDelta only)

theorem Dev.drainLine_holds {kp : Keep} {d : Dev} (hk : d.Holds kp) (hc : kp.cells = none) (line : Nat) : (d.drainLine line).Holds kp := by
  unfold Dev.drainLine; repeat' (with_reducible first | assumption | refine holds_foldl (fun _ _ _ => ?_) _ ?_ | refine holds_foldl_snd (fun _ _ _ => ?_) _ ?_ | lift_lets -underBinder | (intro x; refine (fun (hx : Dev.Holds kp x) => ?_) ?_; on_goal 2 => unfold x) | apply Dev.drainEntry_holds | apply Dev.onCrn_holds | fail_if_no_progress (apply holds_upd <;> try rfl) | rfl | intro _ | dsimp +zetaDelta only)

theorem Dev.drainAll_holds {kp : Keep} {d : Dev} (hk : d.Holds kp) (hc : kp.cells = none) : (d.drainAll).Holds kp := by
  unfold Dev.drainAll; repeat' (with_reducible first | assumption | refine holds_foldl (fun _ _ _ => ?_) _ ?_ | refine holds_foldl_snd (fun _ _ _ => ?_) _ ?_ | lift_lets -underBinder | (intro x; refine (fun (hx : Dev.Holds kp x) => ?_) ?_; on_goal 2 => unfold x) | apply Dev.drainEntry_holds | apply Dev.onCrn_holds | fail_if_no_progress (apply holds_upd <;> try rfl) | rfl | intro _ | dsimp +zetaDelta only)

theorem Dev.battPut_holds {kp : Keep} {d : Dev} (hk : d.Holds kp) (line : Nat) (cells : List (Nat × PByte)) : (d.battPut line cells).Holds kp := by
  unfold Dev.battPut; repeat' (with_reducible first | assumption | lift_lets -underBinder | apply Dev.bumpF_holds | apply Dev.onCrn_holds | apply holds_ite | fail_if_no_progress (apply holds_upd <;> try rfl) | rfl | intro _ | split)

theorem Dev.serve_holds {kp : Keep} {d : Dev} (hk : d.Holds kp) (r : CrownReq) (bs : List PByte) : (d.serve r bs).Holds kp := by
  unfold Dev.serve; repeat' (with_reducible first | assumption | lift_lets -underBinder | apply Dev.onCrn_holds | fail_if_no_progress (apply holds_upd <;> try rfl) | rfl | intro _)

theorem Dev.fillRead_holds {kp : Keep} {d : Dev} (hk : d.Holds kp) (nap : Bool) (g : Nat) : (d.fillRead nap g).2.Holds kp := by
  unfold Dev.fillRead; repeat' (with_reducible first | assumption | lift_lets -underBinder | (intro x; refine (fun (hx : Dev.Holds kp x) => ?_) ?_; on_goal 2 => unfold x) | apply Dev.readGranule_holds | apply holds_ite | intro _ | split | dsimp +zetaDelta only)

theorem Dev.startFill_holds {kp : Keep} {d : Dev} (hk : d.Holds kp) (line : Nat) (way : Option Nat) (critical : Nat) (reader : List CrownReq) : (d.startFill line way critical reader).Holds kp := by
  unfold Dev.startFill; repeat' (with_reducible first | assumption | lift_lets -underBinder | (intro x; refine (fun (hx : Dev.Holds kp x) => ?_) ?_; on_goal 2 => unfold x) | apply Dev.fillRead_holds | apply Dev.onCrn_holds | fail_if_no_progress (apply holds_upd <;> try rfl) | rfl | intro _ | split | dsimp +zetaDelta only)

theorem Dev.napFetch_holds {kp : Keep} {d : Dev} (hk : d.Holds kp) (line : Nat) : (d.napFetch line).Holds kp := by
  unfold Dev.napFetch; repeat' (with_reducible first | assumption | apply Dev.bumpF_holds | apply Dev.startFill_holds | apply holds_ite | intro _ | split)

theorem Dev.napSeq_holds {kp : Keep} {d : Dev} (hk : d.Holds kp) (line : Nat) : (d.napSeq line).Holds kp := by
  unfold Dev.napSeq; repeat' (with_reducible first | assumption | refine holds_foldl (fun _ _ _ => ?_) _ ?_ | refine holds_foldl_snd (fun _ _ _ => ?_) _ ?_ | apply Dev.napFetch_holds | apply holds_ite | intro _ | split)

theorem Dev.install_holds {kp : Keep} {d : Dev} (hk : d.Holds kp) (line w : Nat) (bytes : List PByte) : (d.install line w bytes).Holds kp := by
  unfold Dev.install; repeat' (with_reducible first | assumption | apply Dev.crownAccess_holds | apply Dev.onCrn_holds | intro _)

theorem Dev.crownPoison_holds {kp : Keep} {d : Dev} (hk : d.Holds kp) (r : CrownReq) (w : Nat) (bs : List PByte) : (d.crownPoison r w bs).Holds kp := by
  unfold Dev.crownPoison; repeat' (with_reducible first | assumption | refine holds_foldl (fun _ _ _ => ?_) _ ?_ | refine holds_foldl_fst (fun _ _ _ => ?_) _ ?_ | refine holds_foldl_snd (fun _ _ _ => ?_) _ ?_ | lift_lets -underBinder | (intro x; refine (fun (hx : Dev.Holds kp x) => ?_) ?_; on_goal 2 => unfold x) | apply Dev.onCrn_holds | apply Dev.bufUe_holds | apply holds_ite | intro _ | split | dsimp +zetaDelta only)

theorem Dev.readHit_holds {kp : Keep} {d : Dev} (hk : d.Holds kp) (r : CrownReq) (w : Nat) : (d.readHit r w).Holds kp := by
  unfold Dev.readHit; repeat' (with_reducible first | assumption | lift_lets -underBinder | (intro x; refine (fun (hx : Dev.Holds kp x) => ?_) ?_; on_goal 2 => unfold x) | apply Dev.crownPoison_holds | apply Dev.serve_holds | apply Dev.bumpF_holds | apply Dev.crownAccess_holds | intro _ | dsimp +zetaDelta only)

theorem Dev.readNap_holds {kp : Keep} {d : Dev} (hk : d.Holds kp) (r : CrownReq) (bytes : List PByte) : (d.readNap r bytes).Holds kp := by
  unfold Dev.readNap; repeat' (with_reducible first | assumption | lift_lets -underBinder | (intro x; refine (fun (hx : Dev.Holds kp x) => ?_) ?_; on_goal 2 => unfold x) | apply Dev.serve_holds | apply Dev.bumpF_holds | apply Dev.onCrn_holds | apply Dev.install_holds | fail_if_no_progress (apply holds_upd <;> try rfl) | rfl | intro _ | split | dsimp +zetaDelta only)

theorem Dev.joinFill_holds {kp : Keep} {d : Dev} (hk : d.Holds kp) (r : CrownReq) (f : CrownFill) : (d.joinFill r f).Holds kp := by
  unfold Dev.joinFill; repeat' (with_reducible first | assumption | lift_lets -underBinder | (intro x; refine (fun (hx : Dev.Holds kp x) => ?_) ?_; on_goal 2 => unfold x) | apply Dev.bumpF_holds | apply Dev.onCrn_holds | apply Dev.serve_holds | apply holds_ite | fail_if_no_progress (apply holds_upd <;> try rfl) | rfl | intro _ | split | dsimp +zetaDelta only)

theorem Dev.tryRead_holds {kp : Keep} {d d1 : Dev} {r : CrownReq} (e : d.tryRead r = some d1) (hk : d.Holds kp)
    (hc : kp.cells = none) : d1.Holds kp := by
  unfold Dev.tryRead at e
  dsimp only at e
  split at e
  · cases e; exact Dev.serve_holds (Dev.readDram_holds (Dev.drainLine_holds hk hc _) _ _) _ _
  · split at e
    · cases e; exact Dev.readHit_holds hk _ _
    · split at e
      · cases e; exact Dev.readNap_holds hk _ _
      · split at e
        · cases e; exact Dev.joinFill_holds hk _ _
        · split at e
          · exact absurd e (by simp)
          · split at e
            · cases e; exact Dev.napSeq_holds (Dev.bumpF_holds (Dev.startFill_holds hk _ _ _ _) _ _) _
            · exact absurd e (by simp)

theorem Dev.tryWrite_holds {kp : Keep} {d d1 : Dev} {r : CrownReq} (e : d.tryWrite r = some d1) (hk : d.Holds kp)
    (hc : kp.cells = none) : d1.Holds kp := by
  unfold Dev.tryWrite at e
  dsimp only at e
  split at e
  · cases e; exact Dev.writeDram_holds (Dev.drainLine_holds hk hc _) hc _ _
  · split at e
    · exact absurd e (by simp)
    · cases e
      refine Dev.battPut_holds (Dev.onCrn_holds ?_ _) _ _
      split
      · exact hk
      · exact Dev.crownAccess_holds (Dev.onCrn_holds hk _) _ _

theorem Dev.tryCrown_holds {kp : Keep} {d d1 : Dev} {r : CrownReq} (e : d.tryCrown r = some d1) (hk : d.Holds kp)
    (hc : kp.cells = none) : d1.Holds kp := by
  unfold Dev.tryCrown at e
  split at e
  · exact absurd e (by simp)
  · split at e
    · exact Dev.tryWrite_holds e hk hc
    · exact Dev.tryRead_holds e hk hc

theorem Dev.retryList_holds {kp : Keep} (hc : kp.cells = none) (x0 : List CrownReq) : ∀ {d : Dev} (hk : d.Holds kp) (x1 : List CrownReq), (d.retryList x0 x1).Holds kp := by
  induction x0 with
  | nil =>
    intro d hk x1; unfold Dev.retryList; repeat' (with_reducible first | assumption | lift_lets -underBinder | apply ih | apply Dev.onCrn_holds | refine Dev.tryCrown_holds (by assumption) ?_ (by assumption) | apply holds_ite | fail_if_no_progress (apply holds_upd <;> try rfl) | rfl | intro _ | split)
  | cons y ys ih =>
    intro d hk x1; unfold Dev.retryList; repeat' (with_reducible first | assumption | lift_lets -underBinder | apply ih | apply Dev.onCrn_holds | refine Dev.tryCrown_holds (by assumption) ?_ (by assumption) | apply holds_ite | fail_if_no_progress (apply holds_upd <;> try rfl) | rfl | intro _ | split)

theorem Dev.endFences_holds {kp : Keep} {d : Dev} (hk : d.Holds kp) : (d.endFences).Holds kp := by
  unfold Dev.endFences; repeat' (with_reducible first | assumption | lift_lets -underBinder | (intro x; refine (fun (hx : Dev.Holds kp x) => ?_) ?_; on_goal 2 => unfold x) | apply Dev.onCrn_holds | fail_if_no_progress (apply holds_upd <;> try rfl) | rfl | intro _ | dsimp +zetaDelta only)

theorem Dev.crownShow_holds {kp : Keep} {d : Dev} (hk : d.Holds kp) : (d.crownShow).Holds kp := by
  unfold Dev.crownShow; repeat' (with_reducible first | assumption | lift_lets -underBinder | (intro x; refine (fun (hx : Dev.Holds kp x) => ?_) ?_; on_goal 2 => unfold x) | apply Dev.setF_holds | intro _ | dsimp +zetaDelta only)

theorem Dev.issuePrefetch_holds {kp : Keep} {d : Dev} (hk : d.Holds kp) : (d.issuePrefetch).Holds kp := by
  unfold Dev.issuePrefetch; repeat' (with_reducible first | assumption | lift_lets -underBinder | apply Dev.onCrn_holds | apply Dev.napFetch_holds | apply holds_ite | fail_if_no_progress (apply holds_upd <;> try rfl) | rfl | intro _ | split)

theorem Dev.crownSettle_holds {kp : Keep} {d : Dev} (hk : d.Holds kp) (hc : kp.cells = none) : (d.crownSettle).Holds kp := by
  unfold Dev.crownSettle; repeat' (with_reducible first | assumption | apply Dev.crownShow_holds | apply Dev.endFences_holds | apply Dev.issuePrefetch_holds | apply Dev.retryList_holds)

theorem Dev.tagErrors_holds {kp : Keep} {d : Dev} (hk : d.Holds kp) (line : Nat) (e : TagErr) : (d.tagErrors line e).Holds kp := by
  unfold Dev.tagErrors; repeat' (with_reducible first | assumption | refine holds_foldl (fun _ _ _ => ?_) _ ?_ | refine holds_foldl_snd (fun _ _ _ => ?_) _ ?_ | lift_lets -underBinder | (intro x; refine (fun (hx : Dev.Holds kp x) => ?_) ?_; on_goal 2 => unfold x) | apply Dev.onCrn_holds | apply Dev.bumpF_holds | apply Dev.bufUe_holds | apply holds_ite | fail_if_no_progress (apply holds_upd <;> try rfl) | rfl | intro _ | split | dsimp +zetaDelta only)

theorem Dev.crownRequest_holds {kp : Keep} {d : Dev} (hk : d.Holds kp) (hc : kp.cells = none) (r : CrownReq) (e : TagErr) : (d.crownRequest r e).Holds kp := by
  unfold Dev.crownRequest; repeat' (with_reducible first | assumption | lift_lets -underBinder | (intro x; refine (fun (hx : Dev.Holds kp x) => ?_) ?_; on_goal 2 => unfold x) | apply Dev.setDomLow_holds | apply Dev.tagErrors_holds | apply Dev.onCrn_holds | refine Dev.tryCrown_holds (by assumption) ?_ (by assumption) | apply Dev.bumpF_holds | apply Dev.crownSettle_holds | apply holds_ite | fail_if_no_progress (apply holds_upd <;> try rfl) | rfl | intro _ | split | dsimp +zetaDelta only)

theorem execCrownRead_holds {kp : Keep} {s : State} (hk : s.dev.Holds kp) (hc : kp.cells = none) (who : CrownUser) (addr len : Nat) (err : TagErr) :
    ∃ d, execCrownRead who addr len err s = s.next d ∧ d.Holds kp := by
  refine ⟨_, rfl, ?_⟩; repeat' (with_reducible first | assumption | apply Dev.crownRequest_holds | apply State.dev_holds)

theorem execCrownWrite_holds {kp : Keep} {s : State} (hk : s.dev.Holds kp) (hc : kp.cells = none) (who : CrownUser) (addr : Nat) (data : List PByte) (err : TagErr) :
    ∃ d, execCrownWrite who addr data err s = s.next d ∧ d.Holds kp := by
  refine ⟨_, rfl, ?_⟩; repeat' (with_reducible first | assumption | apply Dev.crownRequest_holds | apply State.dev_holds)

theorem Dev.endFill_holds {kp : Keep} {d : Dev} (hk : d.Holds kp) (f : CrownFill) : (d.endFill f).Holds kp := by
  unfold Dev.endFill; repeat' (with_reducible first | assumption | refine holds_foldl (fun _ _ _ => ?_) _ ?_ | refine holds_foldl_snd (fun _ _ _ => ?_) _ ?_ | lift_lets -underBinder | (intro x; refine (fun (hx : Dev.Holds kp x) => ?_) ?_; on_goal 2 => unfold x) | apply Dev.serve_holds | apply Dev.onCrn_holds | apply Dev.bumpF_holds | apply Dev.install_holds | apply holds_ite | fail_if_no_progress (apply holds_upd <;> try rfl) | rfl | intro _ | split | dsimp +zetaDelta only)

theorem Dev.fillGranule_holds {kp : Keep} {d : Dev} (hk : d.Holds kp) (hc : kp.cells = none) (line : Nat) : (d.fillGranule line).Holds kp := by
  unfold Dev.fillGranule; repeat' (with_reducible first | assumption | refine holds_foldl (fun _ _ _ => ?_) _ ?_ | refine holds_foldl_snd (fun _ _ _ => ?_) _ ?_ | lift_lets -underBinder | (intro x; refine (fun (hx : Dev.Holds kp x) => ?_) ?_; on_goal 2 => unfold x) | apply Dev.onCrn_holds | apply Dev.crownSettle_holds | apply Dev.endFill_holds | apply Dev.serve_holds | apply holds_ite | fail_if_no_progress (apply holds_upd <;> try rfl) | rfl | intro _ | split | dsimp +zetaDelta only)

theorem execFillGranule_holds {kp : Keep} {s : State} (hk : s.dev.Holds kp) (hc : kp.cells = none) (line : Nat) :
    ∃ d, execFillGranule line s = s.next d ∧ d.Holds kp := by
  refine ⟨_, rfl, ?_⟩; repeat' (with_reducible first | assumption | apply Dev.fillGranule_holds | apply State.dev_holds)

theorem execBattDrain_holds {kp : Keep} {s : State} (hk : s.dev.Holds kp) (hc : kp.cells = none) (line : Nat) :
    ∃ d, execBattDrain line s = s.next d ∧ d.Holds kp := by
  refine ⟨_, rfl, ?_⟩; repeat' (with_reducible first | assumption | apply Dev.crownSettle_holds | apply Dev.drainLine_holds | apply State.dev_holds)

theorem Dev.fence_holds {kp : Keep} {d : Dev} (hk : d.Holds kp) (hc : kp.cells = none) (who : Option CrownUser) : (d.fence who).Holds kp := by
  unfold Dev.fence; repeat' (with_reducible first | assumption | lift_lets -underBinder | apply Dev.crownSettle_holds | apply Dev.onCrn_holds | fail_if_no_progress (apply holds_upd <;> try rfl) | rfl | intro _)

theorem execCrownFence_holds {kp : Keep} {s : State} (hk : s.dev.Holds kp) (hc : kp.cells = none) (who : CrownUser) :
    ∃ d, execCrownFence who s = s.next d ∧ d.Holds kp := by
  refine ⟨_, rfl, ?_⟩; repeat' (with_reducible first | assumption | apply State.dev_holds | apply Dev.fence_holds | apply holds_ite | intro _ | split)

theorem Dev.invalidate_holds {kp : Keep} {d : Dev} (hk : d.Holds kp) (maint : Bool) (line : Nat) : (d.invalidate maint line).Holds kp := by
  unfold Dev.invalidate; repeat' (with_reducible first | assumption | lift_lets -underBinder | (intro x; refine (fun (hx : Dev.Holds kp x) => ?_) ?_; on_goal 2 => unfold x) | apply Dev.onCrn_holds | apply holds_ite | fail_if_no_progress (apply holds_upd <;> try rfl) | rfl | intro _ | split | dsimp +zetaDelta only)

theorem execCoherenceReport_holds {kp : Keep} {s : State} (hk : s.dev.Holds kp) (hc : kp.cells = none) (line : Nat) :
    ∃ d, execCoherenceReport line s = s.next d ∧ d.Holds kp := by
  refine ⟨_, rfl, ?_⟩; repeat' (with_reducible first | assumption | apply State.dev_holds | apply Dev.crownSettle_holds | apply Dev.invalidate_holds | apply holds_ite | intro _ | split)

theorem Dev.invalidateAll_holds {kp : Keep} {d : Dev} (hk : d.Holds kp) (maint : Bool) : (d.invalidateAll maint).Holds kp := by
  unfold Dev.invalidateAll; repeat' (with_reducible first | assumption | lift_lets -underBinder | apply Dev.onCrn_holds | fail_if_no_progress (apply holds_upd <;> try rfl) | rfl | intro _)

theorem Dev.maintOp_holds {kp : Keep} {d : Dev} (hk : d.Holds kp) (hc : kp.cells = none) (op : Nat) : (d.maintOp op).Holds kp := by
  unfold Dev.maintOp; repeat' (with_reducible first | assumption | lift_lets -underBinder | (intro x; refine (fun (hx : Dev.Holds kp x) => ?_) ?_; on_goal 2 => unfold x) | apply Dev.crownSettle_holds | apply Dev.invalidate_holds | apply Dev.invalidateAll_holds | apply Dev.fence_holds | apply Dev.onCrn_holds | apply Dev.setF_holds | apply holds_ite | fail_if_no_progress (apply holds_upd <;> try rfl) | rfl | intro _ | split | dsimp +zetaDelta only)

theorem Dev.maintGo_holds {kp : Keep} {d : Dev} (hk : d.Holds kp) (hc : kp.cells = none) (op set way : Nat) : (d.maintGo op set way).Holds kp := by
  unfold Dev.maintGo; repeat' (with_reducible first | assumption | apply Dev.event_holds | apply Dev.maintOp_holds | apply Dev.setF_holds | apply holds_ite | intro _ | split)

theorem execMaintInvalidateLine_holds {kp : Keep} {s : State} (hk : s.dev.Holds kp) (hc : kp.cells = none) (set way : Nat) :
    ∃ d, execMaintInvalidateLine set way s = s.next d ∧ d.Holds kp := by
  refine ⟨_, rfl, ?_⟩; repeat' (with_reducible first | assumption | apply Dev.maintGo_holds | apply State.dev_holds)

theorem execMaintInvalidateWay_holds {kp : Keep} {s : State} (hk : s.dev.Holds kp) (hc : kp.cells = none) (set way : Nat) :
    ∃ d, execMaintInvalidateWay set way s = s.next d ∧ d.Holds kp := by
  refine ⟨_, rfl, ?_⟩; repeat' (with_reducible first | assumption | apply Dev.maintGo_holds | apply State.dev_holds)

theorem execMaintInvalidateAll_holds {kp : Keep} {s : State} (hk : s.dev.Holds kp) (hc : kp.cells = none) (set way : Nat) :
    ∃ d, execMaintInvalidateAll set way s = s.next d ∧ d.Holds kp := by
  refine ⟨_, rfl, ?_⟩; repeat' (with_reducible first | assumption | apply Dev.maintGo_holds | apply State.dev_holds)

theorem execMaintFence_holds {kp : Keep} {s : State} (hk : s.dev.Holds kp) (hc : kp.cells = none) (set way : Nat) :
    ∃ d, execMaintFence set way s = s.next d ∧ d.Holds kp := by
  refine ⟨_, rfl, ?_⟩; repeat' (with_reducible first | assumption | apply Dev.maintGo_holds | apply State.dev_holds)

theorem execMaintPrefetch_holds {kp : Keep} {s : State} (hk : s.dev.Holds kp) (hc : kp.cells = none) (set way : Nat) :
    ∃ d, execMaintPrefetch set way s = s.next d ∧ d.Holds kp := by
  refine ⟨_, rfl, ?_⟩; repeat' (with_reducible first | assumption | apply Dev.maintGo_holds | apply State.dev_holds)

theorem execMaintReadTag_holds {kp : Keep} {s : State} (hk : s.dev.Holds kp) (hc : kp.cells = none) (set way : Nat) :
    ∃ d, execMaintReadTag set way s = s.next d ∧ d.Holds kp := by
  refine ⟨_, rfl, ?_⟩; repeat' (with_reducible first | assumption | apply Dev.maintGo_holds | apply State.dev_holds)

theorem Dev.crownClear_holds {kp : Keep} {d : Dev} (hk : d.Holds kp) (hc : kp.cells = none) : (d.crownClear).Holds kp := by
  unfold Dev.crownClear; repeat' (with_reducible first | assumption | lift_lets -underBinder | (intro x; refine (fun (hx : Dev.Holds kp x) => ?_) ?_; on_goal 2 => unfold x) | apply Dev.drainAll_holds | apply Dev.onCrn_holds | apply Dev.crownShow_holds | apply Dev.endFences_holds | apply Dev.bumpF_holds | fail_if_no_progress (apply holds_upd <;> try rfl) | rfl | intro _ | dsimp +zetaDelta only)

end Sys2Proof.Machine
end

