-- ==== Sys2Proof/Laws/Holds/Scrub.lean ====
section
/-! SUPPORT. The operations of Machine/Scrub.lean carry `Dev.Holds`. -/

namespace Sys2Proof.Machine

set_option linter.unusedTactic false
set_option linter.unreachableTactic false

theorem Dev.scrubUe_holds {kp : Keep} {d : Dev} (hk : d.Holds kp) (no addr : Nat) : (d.scrubUe no addr).Holds kp := by
  unfold Dev.scrubUe; repeat' (with_reducible first | assumption | apply Dev.event_holds | apply Dev.bufUe_holds)

theorem Dev.scrubBuf_holds {kp : Keep} {d : Dev} (hk : d.Holds kp) (hc : kp.cells = none) (a : Nat) : (d.scrubBuf a).Holds kp := by
  unfold Dev.scrubBuf; repeat' (with_reducible first | assumption | lift_lets -underBinder | (intro x; refine (fun (hx : Dev.Holds kp x) => ?_) ?_; on_goal 2 => unfold x) | refine Dev.onMem_keep ?_ rfl | refine Dev.onMem_holds ?_ (by assumption) (fun m hm => ?_) | exact Memories.setBuf_wf hm _ _ _ | exact Memories.writeBuf_wf hm _ _ | exact Memories.writeBufs_wf _ hm _ | exact Memories.storeGranule_wf hm _ _ _ | exact Memories.setQuarter_wf hm _ _ _ _ | exact Memories.sweepBank_wf hm _ | exact Memories.setMeta_wf hm _ _ | apply Dev.scrubUe_holds | apply Dev.bumpF_holds | apply holds_ite | fail_if_no_progress (apply holds_upd <;> try rfl) | rfl | intro _ | split | dsimp +zetaDelta only)

theorem Dev.scrubGranule_holds {kp : Keep} {d : Dev} (hk : d.Holds kp) (hc : kp.cells = none) (g : Nat) : (d.scrubGranule g).Holds kp := by
  unfold Dev.scrubGranule
  generalize d.mem.granule g = r
  generalize ([0, 1, 2, 3].filter fun q => (d.mem.quarterOutcome g q).corrected).length = n
  dsimp only
  have h1 := Dev.bumpF_holds hk Reg.DMC_ECC_CNT_CE n
  refine holds_ite hk (holds_ite ?_ (holds_ite h1 ?_))
  · exact Dev.onMem_holds (Dev.event_holds (Dev.dramUe_holds h1 _ _) _ _ _ _) hc fun _ h => Memories.storeGranule_wf h _ _ _
  · exact Dev.onMem_holds h1 hc fun _ h => Memories.storeGranule_wf h _ _ _

theorem Dev.scrubStore_holds {kp : Keep} {d : Dev} (hk : d.Holds kp) (a : Act) (p : Nat × BitVec 144) : (d.scrubStore a p).Holds kp := by
  unfold Dev.scrubStore; repeat' (with_reducible first | assumption | lift_lets -underBinder | apply Dev.badWord_holds | apply Dev.fixWord_holds | fail_if_no_progress (apply holds_upd <;> try rfl) | rfl | intro _ | split)

theorem Dev.scrubData_holds {kp : Keep} {d : Dev} (hk : d.Holds kp) (a : Act) : (d.scrubData a).Holds kp := by
  unfold Dev.scrubData; repeat' (with_reducible first | assumption | refine holds_foldl (fun _ _ _ => ?_) _ ?_ | refine holds_foldl_fst (fun _ _ _ => ?_) _ ?_ | refine holds_foldl_snd (fun _ _ _ => ?_) _ ?_ | apply Dev.scrubUe_holds | intro _)

theorem Dev.scrubCrown_holds {kp : Keep} {d : Dev} (hk : d.Holds kp) : (d.scrubCrown).Holds kp := by
  unfold Dev.scrubCrown; repeat' (with_reducible first | assumption | refine holds_foldl (fun _ _ _ => ?_) _ ?_ | refine holds_foldl_fst (fun _ _ _ => ?_) _ ?_ | refine holds_foldl_snd (fun _ _ _ => ?_) _ ?_ | apply Dev.scrubUe_holds | intro _)

theorem Dev.mramUe_holds {kp : Keep} {d : Dev} (hk : d.Holds kp) (u : Nat) : (d.mramUe u).Holds kp := by
  unfold Dev.mramUe; repeat' (with_reducible first | assumption | lift_lets -underBinder | (intro x; refine (fun (hx : Dev.Holds kp x) => ?_) ?_; on_goal 2 => unfold x) | apply Dev.bumpF_holds | apply Dev.setF_holds | apply holds_ite | intro _ | split | dsimp +zetaDelta only)

theorem Dev.scrubPass_holds {kp : Keep} {d : Dev} (hk : d.Holds kp) (hc : kp.cells = none) (late : Bool) : (d.scrubPass late).Holds kp := by
  unfold Dev.scrubPass; repeat' (with_reducible first | assumption | refine holds_foldl (fun _ _ _ => ?_) _ ?_ | refine holds_foldl_fst (fun _ _ _ => ?_) _ ?_ | refine holds_foldl_snd (fun _ _ _ => ?_) _ ?_ | lift_lets -underBinder | (intro x; refine (fun (hx : Dev.Holds kp x) => ?_) ?_; on_goal 2 => unfold x) | apply Dev.scrubBuf_holds | apply Dev.scrubData_holds | apply Dev.scrubCrown_holds | apply Dev.scrubStore_holds | apply Dev.scrubGranule_holds | apply Dev.event_holds | apply Dev.setF_holds | apply holds_ite | intro _ | split | dsimp +zetaDelta only)

theorem Dev.scrubMram_holds {kp : Keep} {d : Dev} (hk : d.Holds kp) (ce : Nat) (ue : List Nat) : (d.scrubMram ce ue).Holds kp := by
  unfold Dev.scrubMram; repeat' (with_reducible first | assumption | refine holds_foldl (fun _ _ _ => ?_) _ ?_ | refine holds_foldl_snd (fun _ _ _ => ?_) _ ?_ | lift_lets -underBinder | (intro x; refine (fun (hx : Dev.Holds kp x) => ?_) ?_; on_goal 2 => unfold x) | apply Dev.bumpF_holds | apply Dev.setF_holds | apply Dev.mramUe_holds | apply holds_ite | intro _ | split | dsimp +zetaDelta only)

theorem execScrubPass_holds {kp : Keep} {s : State} (hk : s.dev.Holds kp) (hc : kp.cells = none) (late : Bool) (mramCe : Nat) (mramUe : List Nat) :
    ∃ d, execScrubPass late mramCe mramUe s = s.next d ∧ d.Holds kp := by
  refine ⟨_, rfl, ?_⟩; repeat' (with_reducible first | assumption | apply State.dev_holds | apply Dev.scrubMram_holds | apply Dev.scrubPass_holds | apply holds_ite | intro _ | split)

end Sys2Proof.Machine
end

