-- ==== Sys2Proof/Laws/Holds/Power.lean ====
section
/-! SUPPORT. The operations of Machine/Power.lean carry `Dev.Holds`. -/

namespace Sys2Proof.Machine

set_option linter.unusedTactic false
set_option linter.unreachableTactic false

theorem Dev.onPw_holds {kp : Keep} {d : Dev} (hk : d.Holds kp) (g : Power → Power) : (d.onPw g).Holds kp := by
  unfold Dev.onPw; repeat' (with_reducible first | assumption | lift_lets -underBinder | fail_if_no_progress (apply holds_upd <;> try rfl) | rfl | intro _)

theorem Dev.quiesce_holds {kp : Keep} {d : Dev} (hk : d.Holds kp) (hc : kp.cells = none) (i : Nat) : (d.quiesce i).Holds kp := by
  unfold Dev.quiesce; repeat' (with_reducible first | assumption | lift_lets -underBinder | (intro x; refine (fun (hx : Dev.Holds kp x) => ?_) ?_; on_goal 2 => unfold x) | apply Dev.crownClear_holds | apply Dev.setResetting_holds | apply Dev.onBlk_holds | apply Dev.setF_holds | apply Dev.onPw_holds | apply holds_ite | fail_if_no_progress (apply holds_upd <;> try rfl) | rfl | intro _ | split | dsimp +zetaDelta only)

theorem Dev.losePower_holds {kp : Keep} {d : Dev} (hk : d.Holds kp) (i : Nat) : (d.losePower i).Holds kp := by
  unfold Dev.losePower; repeat' (with_reducible first | assumption | lift_lets -underBinder | (intro x; refine (fun (hx : Dev.Holds kp x) => ?_) ?_; on_goal 2 => unfold x) | apply Dev.setDomLow_holds | apply Dev.setDomOn_holds | apply Dev.setF_holds | apply holds_ite | intro _ | split | dsimp +zetaDelta only)

theorem Dev.powerOff_holds {kp : Keep} {d : Dev} (hk : d.Holds kp) (i : Nat) : (d.powerOff i).Holds kp := by
  unfold Dev.powerOff; repeat' (with_reducible first | assumption | lift_lets -underBinder | (intro x; refine (fun (hx : Dev.Holds kp x) => ?_) ?_; on_goal 2 => unfold x) | apply Dev.onPw_holds | apply Dev.losePower_holds | apply Dev.setF_holds | apply Dev.bumpF_holds | apply holds_ite | fail_if_no_progress (apply holds_upd <;> try rfl) | rfl | intro _ | split | dsimp +zetaDelta only)

theorem Dev.domainOff_holds {kp : Keep} {d : Dev} (hk : d.Holds kp) (hc : kp.cells = none) (i : Nat) (done : Bool) : (d.domainOff i done).Holds kp := by
  unfold Dev.domainOff; repeat' (with_reducible first | assumption | apply Dev.powerOff_holds | apply Dev.setDomLow_holds | apply Dev.quiesce_holds | apply holds_ite | intro _ | split)

theorem execDomainOff_holds {kp : Keep} {s : State} (hk : s.dev.Holds kp) (hc : kp.cells = none) (dom : Nat) (done : Bool) :
    ∃ d, execDomainOff dom done s = s.next d ∧ d.Holds kp := by
  refine ⟨_, rfl, ?_⟩; repeat' (with_reducible first | assumption | apply Dev.domainOff_holds | apply State.dev_holds)

theorem Dev.wakeBlocker_holds {kp : Keep} {d : Dev} (hk : d.Holds kp) (a : Act) : (d.wakeBlocker a).Holds kp := by
  unfold Dev.wakeBlocker; repeat' (with_reducible first | assumption | apply Dev.blockerFresh_holds | apply Dev.replayBlocker_holds | apply holds_ite | intro _ | split)

theorem Dev.domainUp_holds {kp : Keep} {d : Dev} (hk : d.Holds kp) (hc : kp.cells = none) (i : Nat) (o : Training) : (d.domainUp i o).Holds kp := by
  unfold Dev.domainUp; repeat' (with_reducible first | assumption | lift_lets -underBinder | (intro x; refine (fun (hx : Dev.Holds kp x) => ?_) ?_; on_goal 2 => unfold x) | apply Dev.bumpF_holds | apply Dev.setDomLow_holds | apply Dev.setDomOn_holds | refine Dev.onMem_keep ?_ rfl | refine Dev.onMem_holds ?_ (by assumption) (fun m hm => ?_) | exact Memories.setBuf_wf hm _ _ _ | exact Memories.writeBuf_wf hm _ _ | exact Memories.writeBufs_wf _ hm _ | exact Memories.storeGranule_wf hm _ _ _ | exact Memories.setQuarter_wf hm _ _ _ _ | exact Memories.sweepBank_wf hm _ | exact Memories.setMeta_wf hm _ _ | apply Dev.train_holds | apply Dev.wakeBlocker_holds | apply Dev.crownClear_holds | apply Dev.setResetting_holds | apply Dev.readyUnit_holds | apply Dev.incGen_holds | apply holds_ite | fail_if_no_progress (apply holds_upd <;> try rfl) | rfl | intro _ | split | dsimp +zetaDelta only)

theorem Dev.domainOn_holds {kp : Keep} {d : Dev} (hk : d.Holds kp) (hc : kp.cells = none) (i : Nat) (train : Training) : (d.domainOn i train).Holds kp := by
  unfold Dev.domainOn; repeat' (with_reducible first | assumption | apply Dev.domainUp_holds | apply holds_ite | intro _ | split)

theorem execDomainOn_holds {kp : Keep} {s : State} (hk : s.dev.Holds kp) (hc : kp.cells = none) (dom : Nat) (train : Training) :
    ∃ d, execDomainOn dom train s = s.next d ∧ d.Holds kp := by
  refine ⟨_, rfl, ?_⟩; repeat' (with_reducible first | assumption | apply Dev.domainOn_holds | apply State.dev_holds)

theorem Dev.domainsUp_holds {kp : Keep} {d : Dev} (hk : d.Holds kp) (hc : kp.cells = none) (train : Training) (l : List Nat) : (d.domainsUp train l).Holds kp := by
  unfold Dev.domainsUp; repeat' (with_reducible first | assumption | refine holds_foldl (fun _ _ _ => ?_) _ ?_ | refine holds_foldl_snd (fun _ _ _ => ?_) _ ?_ | apply Dev.domainOn_holds | intro _)

theorem Dev.unloadAll_holds {kp : Keep} {d : Dev} (hk : d.Holds kp) : (d.unloadAll).Holds kp := by
  unfold Dev.unloadAll; repeat' (with_reducible first | assumption | lift_lets -underBinder | (intro x; refine (fun (hx : Dev.Holds kp x) => ?_) ?_; on_goal 2 => unfold x) | apply Dev.unload_holds | apply holds_ite | intro _ | split | dsimp +zetaDelta only)

theorem Dev.loadAll_holds {kp : Keep} {d : Dev} (hk : d.Holds kp) : (d.loadAll).Holds kp := by
  unfold Dev.loadAll; repeat' (with_reducible first | assumption | lift_lets -underBinder | (intro x; refine (fun (hx : Dev.Holds kp x) => ?_) ?_; on_goal 2 => unfold x) | apply Dev.startLoad_holds | apply holds_ite | intro _ | split | dsimp +zetaDelta only)

theorem Dev.spindleFollows_holds {kp : Keep} {d : Dev} (hk : d.Holds kp) : (d.spindleFollows).Holds kp := by
  unfold Dev.spindleFollows; repeat' (with_reducible first | assumption | lift_lets -underBinder | (intro x; refine (fun (hx : Dev.Holds kp x) => ?_) ?_; on_goal 2 => unfold x) | apply Dev.showTarget_holds | apply Dev.onSpn_holds | apply Dev.armEdge_holds | apply Dev.driveOff_holds | apply Dev.tryStart_holds | apply holds_ite | fail_if_no_progress (apply holds_upd <;> try rfl) | rfl | intro _ | split | dsimp +zetaDelta only)

theorem Dev.enterPs_holds {kp : Keep} {d : Dev} (hk : d.Holds kp) (hr : kp.recs = none) (n : Nat) : (d.enterPs n).Holds kp := by
  unfold Dev.enterPs; repeat' (with_reducible first | assumption | refine holds_foldl (fun _ _ _ => ?_) _ ?_ | refine holds_foldl_snd (fun _ _ _ => ?_) _ ?_ | lift_lets -underBinder | (intro x; refine (fun (hx : Dev.Holds kp x) => ?_) ?_; on_goal 2 => unfold x) | apply Dev.onPw_holds | apply Dev.onHost_holds | apply Dev.setF_holds | apply Dev.setDomLow_holds | apply Dev.spindleFollows_holds | apply Dev.flushPartials_holds | apply Dev.loadAll_holds | apply holds_ite | fail_if_no_progress (apply holds_upd <;> try rfl) | rfl | intro _ | split | dsimp +zetaDelta only)

theorem Dev.beginEntry_holds {kp : Keep} {d : Dev} (hk : d.Holds kp) (n : Nat) : (d.beginEntry n).Holds kp := by
  unfold Dev.beginEntry; repeat' (with_reducible first | assumption | lift_lets -underBinder | (intro x; refine (fun (hx : Dev.Holds kp x) => ?_) ?_; on_goal 2 => unfold x) | apply Dev.setF_holds | apply Dev.onPw_holds | apply Dev.raiseEvt_holds | apply Dev.unloadAll_holds | apply holds_ite | fail_if_no_progress (apply holds_upd <;> try rfl) | rfl | intro _ | split | dsimp +zetaDelta only)

theorem Dev.headsFollow_holds {kp : Keep} {d : Dev} (hk : d.Holds kp) : (d.headsFollow).Holds kp := by
  unfold Dev.headsFollow; repeat' (with_reducible first | assumption | apply Dev.loadAll_holds | apply Dev.unloadAll_holds | apply holds_ite | intro _ | split)

theorem Dev.powerTransition_holds {kp : Keep} {d : Dev} (hk : d.Holds kp) (hr : kp.recs = none) : (d.powerTransition).Holds kp := by
  unfold Dev.powerTransition; repeat' (with_reducible first | assumption | lift_lets -underBinder | apply Dev.headsFollow_holds | apply Dev.enterPs_holds | apply Dev.beginEntry_holds | apply holds_ite | fail_if_no_progress (apply holds_upd <;> try rfl) | rfl | intro _ | split)

theorem execPowerStateTransition_holds {kp : Keep} {s : State} (hk : s.dev.Holds kp) (hr : kp.recs = none) :
    ∃ d, execPowerStateTransition s = s.next d ∧ d.Holds kp := by
  refine ⟨_, rfl, ?_⟩; repeat' (with_reducible first | assumption | apply Dev.powerTransition_holds | apply State.dev_holds)

theorem Dev.askState_holds {kp : Keep} {d : Dev} (hk : d.Holds kp) : (d.askState).Holds kp := by
  unfold Dev.askState; repeat' (with_reducible first | assumption | lift_lets -underBinder | apply Dev.onPw_holds | apply Dev.onHost_holds | apply holds_ite | fail_if_no_progress (apply holds_upd <;> try rfl) | rfl | intro _ | split)

theorem Dev.showWarning_holds {kp : Keep} {d : Dev} (hk : d.Holds kp) : (d.showWarning).Holds kp := by
  unfold Dev.showWarning; repeat' (with_reducible first | assumption | lift_lets -underBinder | (intro x; refine (fun (hx : Dev.Holds kp x) => ?_) ?_; on_goal 2 => unfold x) | apply Dev.onPw_holds | apply Dev.raiseAll_holds | apply holds_ite | fail_if_no_progress (apply holds_upd <;> try rfl) | rfl | intro _ | split | dsimp +zetaDelta only)

theorem Dev.setLevel_holds {kp : Keep} {d : Dev} (hk : d.Holds kp) (n : Nat) : (d.setLevel n).Holds kp := by
  unfold Dev.setLevel; repeat' (with_reducible first | assumption | lift_lets -underBinder | apply Dev.onPw_holds | apply Dev.event_holds | apply Dev.setF_holds | fail_if_no_progress (apply holds_upd <;> try rfl) | rfl | intro _)

theorem Dev.beginHold_holds {kp : Keep} {d : Dev} (hk : d.Holds kp) : (d.beginHold).Holds kp := by
  unfold Dev.beginHold; repeat' (with_reducible first | assumption | lift_lets -underBinder | (intro x; refine (fun (hx : Dev.Holds kp x) => ?_) ?_; on_goal 2 => unfold x) | apply Dev.bumpF_holds | apply Dev.setF_holds | apply Dev.beginEntry_holds | apply Dev.onHost_holds | apply holds_ite | fail_if_no_progress (apply holds_upd <;> try rfl) | rfl | intro _ | split | dsimp +zetaDelta only)

theorem Dev.raiseLevel_holds {kp : Keep} {d : Dev} (hk : d.Holds kp) : (d.raiseLevel).Holds kp := by
  unfold Dev.raiseLevel; repeat' (with_reducible first | assumption | refine holds_foldl (fun _ _ _ => ?_) _ ?_ | refine holds_foldl_snd (fun _ _ _ => ?_) _ ?_ | lift_lets -underBinder | (intro x; refine (fun (hx : Dev.Holds kp x) => ?_) ?_; on_goal 2 => unfold x) | apply Dev.setLevel_holds | apply Dev.beginHold_holds | apply Dev.bumpF_holds | apply holds_ite | intro _ | split | dsimp +zetaDelta only)

theorem Dev.thermalSample_holds {kp : Keep} {d : Dev} (hk : d.Holds kp) (temps : List Int) : (d.thermalSample temps).Holds kp := by
  unfold Dev.thermalSample; repeat' (with_reducible first | assumption | refine holds_foldl (fun _ _ _ => ?_) _ ?_ | refine holds_foldl_snd (fun _ _ _ => ?_) _ ?_ | lift_lets -underBinder | (intro x; refine (fun (hx : Dev.Holds kp x) => ?_) ?_; on_goal 2 => unfold x) | apply Dev.setF_holds | apply Dev.raiseLevel_holds | apply Dev.onPw_holds | apply Dev.showWarning_holds | apply holds_ite | fail_if_no_progress (apply holds_upd <;> try rfl) | rfl | intro _ | split | dsimp +zetaDelta only)

theorem execThermalSample_holds {kp : Keep} {s : State} (hk : s.dev.Holds kp) (t0 t1 t2 t3 t4 : Int) :
    ∃ d, execThermalSample t0 t1 t2 t3 t4 s = s.next d ∧ d.Holds kp := by
  refine ⟨_, rfl, ?_⟩; repeat' (with_reducible first | assumption | apply Dev.tryStart_holds | apply Dev.thermalSample_holds | apply State.dev_holds)

theorem Dev.levelFall_holds {kp : Keep} {d : Dev} (hk : d.Holds kp) : (d.levelFall).Holds kp := by
  unfold Dev.levelFall; repeat' (with_reducible first | assumption | apply Dev.showWarning_holds | apply Dev.setLevel_holds | apply holds_ite | intro _ | split)

theorem execThrottleLevelFall_holds {kp : Keep} {s : State} (hk : s.dev.Holds kp) :
    ∃ d, execThrottleLevelFall s = s.next d ∧ d.Holds kp := by
  refine ⟨_, rfl, ?_⟩; repeat' (with_reducible first | assumption | apply Dev.levelFall_holds | apply State.dev_holds)

theorem Dev.holdEnd_holds {kp : Keep} {d : Dev} (hk : d.Holds kp) : (d.holdEnd).Holds kp := by
  unfold Dev.holdEnd; repeat' (with_reducible first | assumption | lift_lets -underBinder | apply Dev.onHost_holds | apply Dev.onPw_holds | apply Dev.setF_holds | apply holds_ite | fail_if_no_progress (apply holds_upd <;> try rfl) | rfl | intro _ | split)

theorem execThermalHoldEnd_holds {kp : Keep} {s : State} (hk : s.dev.Holds kp) (hr : kp.recs = none) :
    ∃ d, execThermalHoldEnd s = s.next d ∧ d.Holds kp := by
  refine ⟨_, rfl, ?_⟩; repeat' (with_reducible first | assumption | apply Dev.powerTransition_holds | apply Dev.holdEnd_holds | apply State.dev_holds)

end Sys2Proof.Machine
end

