-- ==== Sys2Proof/Laws/Holds/Flash.lean ====
section
/-! SUPPORT. The operations of Machine/Flash.lean carry `Dev.Holds`. -/

namespace Sys2Proof.Machine

set_option linter.unusedTactic false
set_option linter.unreachableTactic false

theorem Dev.onNv_keep {kp : Keep} {d : Dev} {g : NvDie → NvDie} (hk : d.Holds kp) (e : (g d.nv).flash = d.nv.flash) :
    (d.onNv g).Holds kp :=
  holds_upd hk rfl rfl rfl rfl rfl rfl rfl rfl e rfl

theorem Dev.onNv_holds {kp : Keep} {d : Dev} {g : NvDie → NvDie} (hk : d.Holds kp) (hf : kp.flash = none)
    (hg : ∀ n : NvDie, swf erasedWord n.flash = true → swf erasedWord (g n).flash = true) : (d.onNv g).Holds kp := by
  obtain ⟨⟨s1, s2, s3, s4, s5, s6, s7, s8⟩, h2, h3, h4, h5, h6, h7, h8⟩ := hk
  exact ⟨⟨s1, s2, s3, s4, hg _ s5, s6, s7, s8⟩, h2, h3, fun x hx => absurd (hf.symm.trans hx) (by simp), h5, h6, h7, h8⟩

theorem NvDie.setWord_wf {n : NvDie} (h : swf erasedWord n.flash = true) (idx : Nat) (w : BitVec 266) :
    swf erasedWord (n.setWord idx w).flash = true := swf_sset h _ _

theorem NvDie.eraseSector_wf {n : NvDie} (h : swf erasedWord n.flash = true) (sector : Nat) :
    swf erasedWord (n.eraseSector sector).flash = true := swf_filter h _

theorem NvDie.spoilSector_wf {n : NvDie} (h : swf erasedWord n.flash = true) (sector : Nat) :
    swf erasedWord (n.spoilSector sector).flash = true := swf_filter h _

theorem Dev.onBank_holds {kp : Keep} {d : Dev} (hk : d.Holds kp) (b : Nat) (g : FlashBank → FlashBank) : (d.onBank b g).Holds kp := by
  unfold Dev.onBank; repeat' (with_reducible first | assumption | lift_lets -underBinder | refine Dev.onNv_keep ?_ rfl | refine Dev.onNv_holds ?_ (by assumption) (fun m hm => ?_) | exact NvDie.setWord_wf hm _ _ | exact NvDie.eraseSector_wf hm _ | exact NvDie.spoilSector_wf hm _ | fail_if_no_progress (apply holds_upd <;> try rfl) | rfl | intro _)

theorem Dev.setFlOp_holds {kp : Keep} {d : Dev} (hk : d.Holds kp) (b v : Nat) : (d.setFlOp b v).Holds kp := by
  unfold Dev.setFlOp; repeat' (with_reducible first | assumption | apply Dev.setF_holds)

theorem Dev.flErr_holds {kp : Keep} {d : Dev} (hk : d.Holds kp) (b e : Nat) : (d.flErr b e).Holds kp := by
  unfold Dev.flErr; repeat' (with_reducible first | assumption | lift_lets -underBinder | (intro x; refine (fun (hx : Dev.Holds kp x) => ?_) ?_; on_goal 2 => unfold x) | apply Dev.setF_holds | apply holds_ite | intro _ | split | dsimp +zetaDelta only)

theorem Dev.rawFlash_holds {kp : Keep} {d : Dev} (hk : d.Holds kp) (idx : Nat) : (d.rawFlash idx).2.Holds kp := by
  unfold Dev.rawFlash; repeat' (with_reducible first | assumption | apply Dev.tookFree_holds | apply holds_ite | intro _ | split)

theorem Dev.readFlash_holds {kp : Keep} {d : Dev} (hk : d.Holds kp) (idx : Nat) : (d.readFlash idx).2.Holds kp := by
  unfold Dev.readFlash; repeat' (with_reducible first | assumption | lift_lets -underBinder | (intro x; refine (fun (hx : Dev.Holds kp x) => ?_) ?_; on_goal 2 => unfold x) | apply Dev.rawFlash_holds | apply Dev.bumpF_holds | apply holds_ite | fail_if_no_progress (apply holds_upd <;> try rfl) | rfl | intro _ | split | dsimp +zetaDelta only)

theorem Dev.readFlashWords_holds {kp : Keep}  (x0 : Nat) : ∀ {d : Dev} (hk : d.Holds kp) (idx : Nat), (d.readFlashWords idx x0).2.Holds kp := by
  induction x0 with
  | zero =>
    intro d hk idx; unfold Dev.readFlashWords; repeat' (with_reducible first | assumption | lift_lets -underBinder | (intro x; refine (fun (hx : Dev.Holds kp x) => ?_) ?_; on_goal 2 => unfold x) | apply ih | apply Dev.readFlash_holds | intro _ | split | dsimp +zetaDelta only)
  | succ n ih =>
    intro d hk idx; unfold Dev.readFlashWords; repeat' (with_reducible first | assumption | lift_lets -underBinder | (intro x; refine (fun (hx : Dev.Holds kp x) => ?_) ?_; on_goal 2 => unfold x) | apply ih | apply Dev.readFlash_holds | intro _ | split | dsimp +zetaDelta only)

theorem Dev.readFlashBytes_holds {kp : Keep} {d : Dev} (hk : d.Holds kp) (a n : Nat) : (d.readFlashBytes a n).2.Holds kp := by
  unfold Dev.readFlashBytes; repeat' (with_reducible first | assumption | lift_lets -underBinder | (intro x; refine (fun (hx : Dev.Holds kp x) => ?_) ?_; on_goal 2 => unfold x) | apply Dev.readFlashWords_holds | intro _ | dsimp +zetaDelta only)

theorem Dev.endSeq_holds {kp : Keep} {d : Dev} (hk : d.Holds kp) (b : Nat) : (d.endSeq b).Holds kp := by
  unfold Dev.endSeq; repeat' (with_reducible first | assumption | lift_lets -underBinder | apply Dev.onBank_holds | fail_if_no_progress (apply holds_upd <;> try rfl) | rfl | intro _)

theorem Dev.startErase_holds {kp : Keep} {d : Dev} (hk : d.Holds kp) (b : Nat) : (d.startErase b).Holds kp := by
  unfold Dev.startErase; repeat' (with_reducible first | assumption | lift_lets -underBinder | (intro x; refine (fun (hx : Dev.Holds kp x) => ?_) ?_; on_goal 2 => unfold x) | apply Dev.flErr_holds | apply Dev.onBank_holds | apply Dev.setFlOp_holds | apply holds_ite | fail_if_no_progress (apply holds_upd <;> try rfl) | rfl | intro _ | split | dsimp +zetaDelta only)

theorem Dev.startProgram_holds {kp : Keep} {d : Dev} (hk : d.Holds kp) (b : Nat) : (d.startProgram b).Holds kp := by
  unfold Dev.startProgram; repeat' (with_reducible first | assumption | lift_lets -underBinder | (intro x; refine (fun (hx : Dev.Holds kp x) => ?_) ?_; on_goal 2 => unfold x) | apply Dev.rawFlash_holds | apply Dev.flErr_holds | apply Dev.onBank_holds | apply Dev.setFlOp_holds | apply holds_ite | fail_if_no_progress (apply holds_upd <;> try rfl) | rfl | intro _ | split | dsimp +zetaDelta only)

theorem Dev.suspend_holds {kp : Keep} {d : Dev} (hk : d.Holds kp) (b : Nat) : (d.suspend b).Holds kp := by
  unfold Dev.suspend; repeat' (with_reducible first | assumption | lift_lets -underBinder | apply Dev.onBank_holds | apply Dev.setF_holds | apply Dev.setFlOp_holds | fail_if_no_progress (apply holds_upd <;> try rfl) | rfl | intro _)

theorem Dev.resume_holds {kp : Keep} {d : Dev} (hk : d.Holds kp) (b : Nat) : (d.resume b).Holds kp := by
  unfold Dev.resume; repeat' (with_reducible first | assumption | lift_lets -underBinder | (intro x; refine (fun (hx : Dev.Holds kp x) => ?_) ?_; on_goal 2 => unfold x) | apply Dev.onBank_holds | apply Dev.setF_holds | apply Dev.setFlOp_holds | fail_if_no_progress (apply holds_upd <;> try rfl) | rfl | intro _ | dsimp +zetaDelta only)

theorem Dev.flashSuspend_holds {kp : Keep} {d : Dev} (hk : d.Holds kp) (b : Nat) : (d.flashSuspend b).Holds kp := by
  unfold Dev.flashSuspend; repeat' (with_reducible first | assumption | lift_lets -underBinder | apply Dev.flErr_holds | apply Dev.suspend_holds | apply Dev.onBank_holds | apply holds_ite | fail_if_no_progress (apply holds_upd <;> try rfl) | rfl | intro _ | split)

theorem Dev.flashResume_holds {kp : Keep} {d : Dev} (hk : d.Holds kp) (b : Nat) : (d.flashResume b).Holds kp := by
  unfold Dev.flashResume; repeat' (with_reducible first | assumption | lift_lets -underBinder | apply Dev.resume_holds | apply Dev.onBank_holds | apply holds_ite | fail_if_no_progress (apply holds_upd <;> try rfl) | rfl | intro _ | split)

theorem Dev.flashClear_holds {kp : Keep} {d : Dev} (hk : d.Holds kp) (b : Nat) : (d.flashClear b).Holds kp := by
  unfold Dev.flashClear; repeat' (with_reducible first | assumption | apply Dev.setF_holds)

theorem Dev.seqError_holds {kp : Keep} {d : Dev} (hk : d.Holds kp) (b : Nat) : (d.seqError b).Holds kp := by
  unfold Dev.seqError; repeat' (with_reducible first | assumption | apply Dev.flErr_holds | apply Dev.endSeq_holds)

theorem Dev.flashKey_holds {kp : Keep} {d : Dev} (hk : d.Holds kp) (b : Nat) (w : Word) : (d.flashKey b w).Holds kp := by
  unfold Dev.flashKey; repeat' (with_reducible first | assumption | lift_lets -underBinder | (intro x; refine (fun (hx : Dev.Holds kp x) => ?_) ?_; on_goal 2 => unfold x) | apply Dev.onBank_holds | apply Dev.seqError_holds | apply holds_ite | fail_if_no_progress (apply holds_upd <;> try rfl) | rfl | intro _ | split | dsimp +zetaDelta only)

theorem Dev.flashCmd_holds {kp : Keep} {d : Dev} (hk : d.Holds kp) (b : Nat) (w : Word) : (d.flashCmd b w).Holds kp := by
  unfold Dev.flashCmd; repeat' (with_reducible first | assumption | lift_lets -underBinder | (intro x; refine (fun (hx : Dev.Holds kp x) => ?_) ?_; on_goal 2 => unfold x) | apply Dev.onBank_holds | apply Dev.seqError_holds | apply Dev.flashSuspend_holds | apply Dev.flashResume_holds | apply Dev.flashClear_holds | apply holds_ite | fail_if_no_progress (apply holds_upd <;> try rfl) | rfl | intro _ | split | dsimp +zetaDelta only)

theorem Dev.flashAddr_holds {kp : Keep} {d : Dev} (hk : d.Holds kp) (b : Nat) (w : Word) : (d.flashAddr b w).Holds kp := by
  unfold Dev.flashAddr; repeat' (with_reducible first | assumption | lift_lets -underBinder | (intro x; refine (fun (hx : Dev.Holds kp x) => ?_) ?_; on_goal 2 => unfold x) | apply Dev.setF_holds | apply Dev.startErase_holds | apply Dev.endSeq_holds | apply Dev.onBank_holds | apply Dev.seqError_holds | apply holds_ite | fail_if_no_progress (apply holds_upd <;> try rfl) | rfl | intro _ | split | dsimp +zetaDelta only)

theorem Dev.flashData_holds {kp : Keep} {d : Dev} (hk : d.Holds kp) (b i : Nat) (w : Word) : (d.flashData b i w).Holds kp := by
  unfold Dev.flashData; repeat' (with_reducible first | assumption | lift_lets -underBinder | (intro x; refine (fun (hx : Dev.Holds kp x) => ?_) ?_; on_goal 2 => unfold x) | apply Dev.onBank_holds | apply Dev.startProgram_holds | apply Dev.seqError_holds | apply holds_ite | fail_if_no_progress (apply holds_upd <;> try rfl) | rfl | intro _ | split | dsimp +zetaDelta only)

theorem Dev.flashWrite_holds {kp : Keep} {d : Dev} (hk : d.Holds kp) (b off : Nat) (w : Word) : (d.flashWrite b off w).Holds kp := by
  unfold Dev.flashWrite; repeat' (with_reducible first | assumption | apply Dev.ignoredWrite_holds | apply Dev.flashKey_holds | apply Dev.flashCmd_holds | apply Dev.flashAddr_holds | apply Dev.flashData_holds | apply holds_ite | intro _ | split)

theorem execFlashKey_holds {kp : Keep} {s : State} (hk : s.dev.Holds kp) (bank : Nat) (w : Word) :
    ∃ d, execFlashKey bank w s = s.next d ∧ d.Holds kp := by
  refine ⟨_, rfl, ?_⟩; repeat' (with_reducible first | assumption | apply Dev.flashWrite_holds | apply State.dev_holds | apply holds_ite | intro _ | split)

theorem execFlashProgram_holds {kp : Keep} {s : State} (hk : s.dev.Holds kp) (bank : Nat) (w : Word) :
    ∃ d, execFlashProgram bank w s = s.next d ∧ d.Holds kp := by
  refine ⟨_, rfl, ?_⟩; repeat' (with_reducible first | assumption | apply Dev.flashWrite_holds | apply State.dev_holds | apply holds_ite | intro _ | split)

theorem execFlashErase_holds {kp : Keep} {s : State} (hk : s.dev.Holds kp) (bank : Nat) (w : Word) :
    ∃ d, execFlashErase bank w s = s.next d ∧ d.Holds kp := by
  refine ⟨_, rfl, ?_⟩; repeat' (with_reducible first | assumption | apply Dev.flashWrite_holds | apply State.dev_holds | apply holds_ite | intro _ | split)

theorem execFlashSuspend_holds {kp : Keep} {s : State} (hk : s.dev.Holds kp) (bank : Nat) :
    ∃ d, execFlashSuspend bank s = s.next d ∧ d.Holds kp := by
  refine ⟨_, rfl, ?_⟩; repeat' (with_reducible first | assumption | apply Dev.flashWrite_holds | apply State.dev_holds | apply holds_ite | intro _ | split)

theorem execFlashResume_holds {kp : Keep} {s : State} (hk : s.dev.Holds kp) (bank : Nat) :
    ∃ d, execFlashResume bank s = s.next d ∧ d.Holds kp := by
  refine ⟨_, rfl, ?_⟩; repeat' (with_reducible first | assumption | apply Dev.flashWrite_holds | apply State.dev_holds | apply holds_ite | intro _ | split)

theorem execFlashClear_holds {kp : Keep} {s : State} (hk : s.dev.Holds kp) (bank : Nat) :
    ∃ d, execFlashClear bank s = s.next d ∧ d.Holds kp := by
  refine ⟨_, rfl, ?_⟩; repeat' (with_reducible first | assumption | apply Dev.flashWrite_holds | apply State.dev_holds | apply holds_ite | intro _ | split)

theorem Dev.programDone_holds {kp : Keep} {d : Dev} (hk : d.Holds kp) (hf : kp.flash = none) (b : Nat) (ok : Bool) : (d.programDone b ok).Holds kp := by
  unfold Dev.programDone; repeat' (with_reducible first | assumption | lift_lets -underBinder | (intro x; refine (fun (hx : Dev.Holds kp x) => ?_) ?_; on_goal 2 => unfold x) | refine Dev.onNv_keep ?_ rfl | refine Dev.onNv_holds ?_ (by assumption) (fun m hm => ?_) | exact NvDie.setWord_wf hm _ _ | exact NvDie.eraseSector_wf hm _ | exact NvDie.spoilSector_wf hm _ | apply Dev.flErr_holds | apply Dev.tookFree_holds | apply Dev.onBank_holds | apply Dev.setFlOp_holds | apply Dev.resume_holds | apply holds_ite | fail_if_no_progress (apply holds_upd <;> try rfl) | rfl | intro _ | split | dsimp +zetaDelta only)

theorem execProgramDone_holds {kp : Keep} {s : State} (hk : s.dev.Holds kp) (hf : kp.flash = none) (bank : Nat) (ok : Bool) :
    ∃ d, execProgramDone bank ok s = s.next d ∧ d.Holds kp := by
  refine ⟨_, rfl, ?_⟩; repeat' (with_reducible first | assumption | apply Dev.programDone_holds | apply State.dev_holds | apply holds_ite | intro _ | split)

theorem Dev.eraseDone_holds {kp : Keep} {d : Dev} (hk : d.Holds kp) (hf : kp.flash = none) (b : Nat) (ok : Bool) : (d.eraseDone b ok).Holds kp := by
  unfold Dev.eraseDone; repeat' (with_reducible first | assumption | lift_lets -underBinder | (intro x; refine (fun (hx : Dev.Holds kp x) => ?_) ?_; on_goal 2 => unfold x) | apply Dev.onBank_holds | apply Dev.setFlOp_holds | refine Dev.onNv_keep ?_ rfl | refine Dev.onNv_holds ?_ (by assumption) (fun m hm => ?_) | exact NvDie.setWord_wf hm _ _ | exact NvDie.eraseSector_wf hm _ | exact NvDie.spoilSector_wf hm _ | apply Dev.flErr_holds | apply holds_ite | fail_if_no_progress (apply holds_upd <;> try rfl) | rfl | intro _ | split | dsimp +zetaDelta only)

theorem execEraseDone_holds {kp : Keep} {s : State} (hk : s.dev.Holds kp) (hf : kp.flash = none) (bank : Nat) (ok : Bool) :
    ∃ d, execEraseDone bank ok s = s.next d ∧ d.Holds kp := by
  refine ⟨_, rfl, ?_⟩; repeat' (with_reducible first | assumption | apply Dev.eraseDone_holds | apply State.dev_holds | apply holds_ite | intro _ | split)

theorem Dev.suspendRelease_holds {kp : Keep} {d : Dev} (hk : d.Holds kp) (b : Nat) : (d.suspendRelease b).Holds kp := by
  unfold Dev.suspendRelease; repeat' (with_reducible first | assumption | lift_lets -underBinder | (intro x; refine (fun (hx : Dev.Holds kp x) => ?_) ?_; on_goal 2 => unfold x) | apply Dev.onBank_holds | apply Dev.suspend_holds | apply holds_ite | fail_if_no_progress (apply holds_upd <;> try rfl) | rfl | intro _ | split | dsimp +zetaDelta only)

theorem execSuspendHoldRelease_holds {kp : Keep} {s : State} (hk : s.dev.Holds kp) (bank : Nat) :
    ∃ d, execSuspendHoldRelease bank s = s.next d ∧ d.Holds kp := by
  refine ⟨_, rfl, ?_⟩; repeat' (with_reducible first | assumption | apply Dev.suspendRelease_holds | apply State.dev_holds | apply holds_ite | intro _ | split)

theorem Dev.flashFault_holds {kp : Keep} {d : Dev} (hk : d.Holds kp) (a : Nat) : (d.flashFault a).Holds kp := by
  unfold Dev.flashFault; repeat' (with_reducible first | assumption | lift_lets -underBinder | (intro x; refine (fun (hx : Dev.Holds kp x) => ?_) ?_; on_goal 2 => unfold x) | apply Dev.setF_holds | apply Dev.event_holds | apply holds_ite | intro _ | split | dsimp +zetaDelta only)

theorem Dev.fabricFlashRead_holds {kp : Keep} {d : Dev} (hk : d.Holds kp) (core : Option (Fin 4)) (a : Nat) : (d.fabricFlashRead core a).Holds kp := by
  unfold Dev.fabricFlashRead; repeat' (with_reducible first | assumption | lift_lets -underBinder | (intro x; refine (fun (hx : Dev.Holds kp x) => ?_) ?_; on_goal 2 => unfold x) | apply Dev.flashFault_holds | apply Dev.reportFault_holds | apply Dev.readFlash_holds | apply holds_ite | fail_if_no_progress (apply holds_upd <;> try rfl) | rfl | intro _ | split | dsimp +zetaDelta only)

theorem execFlashBusFault_holds {kp : Keep} {s : State} (hk : s.dev.Holds kp) (core : Option (Fin 4)) (addr : Nat) :
    ∃ d, execFlashBusFault core addr s = s.next d ∧ d.Holds kp := by
  refine ⟨_, rfl, ?_⟩; repeat' (with_reducible first | assumption | apply Dev.fabricFlashRead_holds | apply State.dev_holds | apply holds_ite | intro _ | split)

end Sys2Proof.Machine
end

