-- ==== Sys2Proof/Laws/Holds/Slots.lean ====
section
/-! SUPPORT. The operations of Machine/Slots.lean carry `Dev.Holds`. -/

namespace Sys2Proof.Machine

set_option linter.unusedTactic false
set_option linter.unreachableTactic false

theorem Dev.setTicket_holds {kp : Keep} {d : Dev} (hk : d.Holds kp) (t : Nat) (k : Ticket) : (d.setTicket t k).Holds kp := by
  unfold Dev.setTicket; repeat' (with_reducible first | assumption | lift_lets -underBinder | apply Dev.setReg_holds | refine Dev.onNv_keep ?_ rfl | refine Dev.onNv_holds ?_ (by assumption) (fun m hm => ?_) | exact NvDie.setWord_wf hm _ _ | exact NvDie.eraseSector_wf hm _ | exact NvDie.spoilSector_wf hm _ | fail_if_no_progress (apply holds_upd <;> try rfl) | rfl | intro _)

theorem slotImageIf_holds {kp : Keep} {r : List PByte × Dev} (hk : r.2.Holds kp) (bad : Bool) (addr n : Nat) :
    (slotImageIf bad addr n r).2.Holds kp := by
  cases bad
  · exact Dev.readFlashBytes_holds hk _ _
  · exact hk

theorem slotImageOf_holds {kp : Keep} {r : List PByte × Dev} (hk : r.2.Holds kp) (fw : Bool) (slot : Nat) :
    (slotImageOf fw slot r).2.Holds kp :=
  slotImageIf_holds hk _ _ _

theorem Dev.slotImage_holds {kp : Keep} {d : Dev} (hk : d.Holds kp) (fw : Bool) (slot : Nat) : (d.slotImage fw slot).2.Holds kp :=
  slotImageOf_holds (Dev.readFlashBytes_holds hk _ _) fw slot

theorem slotFaultOf_holds {kp : Keep} {r : Option (List Byte) × Dev} (hk : r.2.Holds kp) (fw sig : Bool) :
    (slotFaultOf fw sig r).2.Holds kp := by
  unfold slotFaultOf
  split <;> exact hk

theorem Dev.slotFault_holds {kp : Keep} {d : Dev} (hk : d.Holds kp) (fw sig : Bool) (slot : Nat) : (d.slotFault fw sig slot).2.Holds kp :=
  slotFaultOf_holds (Dev.slotImage_holds hk fw slot) fw sig

theorem NvDie.eraseSectors_wf (k : Nat) : ∀ {n : NvDie} (_ : swf erasedWord n.flash = true) (first : Nat),
    swf erasedWord (n.eraseSectors first k).flash = true := by
  induction k with
  | zero => intro n h f; exact h
  | succ k ih => intro n h f; exact ih (NvDie.eraseSector_wf h f) (f + 1)

theorem NvDie.programBytes_wf (k : Nat) : ∀ {n : NvDie} (_ : swf erasedWord n.flash = true) (addr : Nat) (bs : List Byte),
    swf erasedWord (n.programBytes addr k bs).flash = true := by
  induction k with
  | zero => intro n h a bs; unfold NvDie.programBytes; exact h
  | succ k ih =>
    intro n h a bs
    unfold NvDie.programBytes
    split
    · exact h
    · exact h
    · rename_i e _; cases e; exact ih (NvDie.setWord_wf h _ _) _ _

theorem Dev.storeImage_holds {kp : Keep} {d : Dev} (hk : d.Holds kp) (hf : kp.flash = none) (fw : Bool) (slot : Nat) (bs : List Byte)
    (e : StoreEnd) : (d.storeImage fw slot bs e).Holds kp := by
  unfold Dev.storeImage
  dsimp only
  split
  · exact Dev.setTicket_holds (Dev.onNv_holds hk hf fun n h =>
      NvDie.programBytes_wf _ (NvDie.programBytes_wf _ (NvDie.eraseSectors_wf _ h _) _ _) _ _) _ _
  · exact Dev.setTicket_holds (Dev.onNv_holds hk hf fun n h => NvDie.spoilSector_wf (NvDie.eraseSectors_wf _ h _) _) _ _
  · exact Dev.setTicket_holds (Dev.onNv_holds hk hf fun n h => NvDie.programBytes_wf _ (NvDie.eraseSectors_wf _ h _) _ _) _ _
  · exact Dev.setTicket_holds (Dev.onNv_holds hk hf fun n h =>
      NvDie.programBytes_wf _ (NvDie.programBytes_wf _ (NvDie.eraseSectors_wf _ h _) _ _) _ _) _ _

theorem Dev.setBoot_holds {kp : Keep} {d : Dev} (hk : d.Holds kp) (b : BootRec) : (d.setBoot b).Holds kp := by
  unfold Dev.setBoot; repeat' (with_reducible first | assumption | lift_lets -underBinder | apply Dev.setF_holds | fail_if_no_progress (apply holds_upd <;> try rfl) | rfl | intro _)

theorem Dev.setPendingFw_holds {kp : Keep} {d : Dev} (hk : d.Holds kp) (slot : Nat) : (d.setPendingFw slot).Holds kp := by
  unfold Dev.setPendingFw; repeat' (with_reducible first | assumption | lift_lets -underBinder | apply Dev.setBoot_holds | fail_if_no_progress (apply holds_upd <;> try rfl) | rfl | intro _)

theorem Dev.fwReady_holds {kp : Keep} {d : Dev} (hk : d.Holds kp) : (d.fwReady).Holds kp := by
  unfold Dev.fwReady; repeat' (with_reducible first | assumption | lift_lets -underBinder | apply Dev.setBoot_holds | apply holds_ite | fail_if_no_progress (apply holds_upd <;> try rfl) | rfl | intro _ | split)

theorem Dev.showAbsent_holds {kp : Keep} {d : Dev} (hk : d.Holds kp) : (d.showAbsent).Holds kp := by
  unfold Dev.showAbsent; repeat' (with_reducible first | assumption | refine holds_foldl (fun _ _ _ => ?_) _ ?_ | refine holds_foldl_snd (fun _ _ _ => ?_) _ ?_ | apply Dev.setReg_holds | intro _)

theorem Dev.loadOption_holds {kp : Keep} {d : Dev} (hk : d.Holds kp) : (d.loadOption).Holds kp := by
  unfold Dev.loadOption; repeat' (with_reducible first | assumption | lift_lets -underBinder | (intro x; refine (fun (hx : Dev.Holds kp x) => ?_) ?_; on_goal 2 => unfold x) | apply Dev.setF_holds | refine Dev.onNv_keep ?_ rfl | refine Dev.onNv_holds ?_ (by assumption) (fun m hm => ?_) | exact NvDie.setWord_wf hm _ _ | exact NvDie.eraseSector_wf hm _ | exact NvDie.spoilSector_wf hm _ | apply Dev.event_holds | apply Dev.showAbsent_holds | fail_if_no_progress (apply holds_upd <;> try rfl) | rfl | intro _ | split | dsimp +zetaDelta only)

theorem Dev.optionWrite_holds {kp : Keep} {d : Dev} (hk : d.Holds kp) (ws : List Word) (e : StoreEnd) : (d.optionWrite ws e).2.Holds kp := by
  unfold Dev.optionWrite; repeat' (with_reducible first | assumption | lift_lets -underBinder | (intro x; refine (fun (hx : Dev.Holds kp x) => ?_) ?_; on_goal 2 => unfold x) | apply Dev.setTicket_holds | refine Dev.onNv_keep ?_ rfl | refine Dev.onNv_holds ?_ (by assumption) (fun m hm => ?_) | exact NvDie.setWord_wf hm _ _ | exact NvDie.eraseSector_wf hm _ | exact NvDie.spoilSector_wf hm _ | apply holds_ite | fail_if_no_progress (apply holds_upd <;> try rfl) | rfl | intro _ | split | dsimp +zetaDelta only)

theorem Dev.handleTicket_holds {kp : Keep} {d : Dev} (hk : d.Holds kp) (hf : kp.flash = none) (b : Nat) : (d.handleTicket b).Holds kp := by
  unfold Dev.handleTicket; repeat' (with_reducible first | assumption | lift_lets -underBinder | (intro x; refine (fun (hx : Dev.Holds kp x) => ?_) ?_; on_goal 2 => unfold x) | apply Dev.setTicket_holds | refine Dev.onNv_keep ?_ rfl | refine Dev.onNv_holds ?_ (by assumption) (fun m hm => ?_) | exact NvDie.setWord_wf hm _ _ | exact NvDie.eraseSector_wf hm _ | exact NvDie.spoilSector_wf hm _ | apply holds_ite | intro _ | split | dsimp +zetaDelta only)

theorem Dev.handleTickets_holds {kp : Keep} {d : Dev} (hk : d.Holds kp) (hf : kp.flash = none) : (d.handleTickets).Holds kp := by
  unfold Dev.handleTickets; repeat' (with_reducible first | assumption | lift_lets -underBinder | (intro x; refine (fun (hx : Dev.Holds kp x) => ?_) ?_; on_goal 2 => unfold x) | apply Dev.handleTicket_holds | apply Dev.setTicket_holds | refine Dev.onNv_keep ?_ rfl | refine Dev.onNv_holds ?_ (by assumption) (fun m hm => ?_) | exact NvDie.setWord_wf hm _ _ | exact NvDie.eraseSector_wf hm _ | exact NvDie.spoilSector_wf hm _ | apply holds_ite | fail_if_no_progress (apply holds_upd <;> try rfl) | rfl | intro _ | split | dsimp +zetaDelta only)

theorem Dev.backgroundErase_holds {kp : Keep} {d : Dev} (hk : d.Holds kp) (hf : kp.flash = none) (b : Nat) : (d.backgroundErase b).Holds kp := by
  unfold Dev.backgroundErase; repeat' (with_reducible first | assumption | lift_lets -underBinder | (intro x; refine (fun (hx : Dev.Holds kp x) => ?_) ?_; on_goal 2 => unfold x) | refine Dev.onNv_keep ?_ rfl | refine Dev.onNv_holds ?_ (by assumption) (fun m hm => ?_) | exact NvDie.setWord_wf hm _ _ | exact NvDie.eraseSector_wf hm _ | exact NvDie.spoilSector_wf hm _ | apply Dev.setTicket_holds | apply holds_ite | fail_if_no_progress (apply holds_upd <;> try rfl) | rfl | intro _ | split | dsimp +zetaDelta only)

end Sys2Proof.Machine
end

