-- ==== Sys2Proof/Laws/Holds/Queues.lean ====
section
/-! SUPPORT. The operations of Machine/Queues.lean carry `Dev.Holds`. -/

namespace Sys2Proof.Machine

set_option linter.unusedTactic false
set_option linter.unreachableTactic false

theorem Dev.checkReady_holds {kp : Keep} {d : Dev} (hk : d.Holds kp) (p : Port) : (d.checkReady p).Holds kp := by
  unfold Dev.checkReady; repeat' (with_reducible first | assumption | lift_lets -underBinder | apply Dev.fwReady_holds | apply Dev.onCtrl_holds | apply holds_ite | fail_if_no_progress (apply holds_upd <;> try rfl) | rfl | intro _ | split)

theorem execCcEnSet_holds {kp : Keep} {s : State} (hk : s.dev.Holds kp) (p : Port) :
    ∃ d, execCcEnSet p s = s.next d ∧ d.Holds kp := by
  refine ⟨_, rfl, ?_⟩; repeat' (with_reducible first | assumption | lift_lets -underBinder | apply State.dev_holds | apply Dev.checkReady_holds | apply Dev.onCtrl_holds | apply holds_ite | fail_if_no_progress (apply holds_upd <;> try rfl) | rfl | intro _ | split)

theorem Dev.closeOpened_holds {kp : Keep} {d : Dev} (hk : d.Holds kp) : (d.closeOpened).Holds kp := by
  unfold Dev.closeOpened; repeat' (with_reducible first | assumption | refine holds_foldl (fun _ _ _ => ?_) _ ?_ | refine holds_foldl_fst (fun _ _ _ => ?_) _ ?_ | refine holds_foldl_snd (fun _ _ _ => ?_) _ ?_ | apply Dev.closeZone_holds | apply holds_ite | intro _ | split)

theorem Dev.dropWrites_holds {kp : Keep} {d : Dev} (hk : d.Holds kp) (gone : CmdId → Bool) : (d.dropWrites gone).Holds kp := by
  unfold Dev.dropWrites; repeat' (with_reducible first | assumption | refine holds_foldl (fun _ _ _ => ?_) _ ?_ | refine holds_foldl_fst (fun _ _ _ => ?_) _ ?_ | refine holds_foldl_snd (fun _ _ _ => ?_) _ ?_ | lift_lets -underBinder | apply Dev.setZone_holds | apply holds_ite | fail_if_no_progress (apply holds_upd <;> try rfl) | rfl | intro _ | split)

theorem Dev.withdrawReads_holds {kp : Keep} {d : Dev} (hk : d.Holds kp) (gone : CmdId → Bool) : (d.withdrawReads gone).Holds kp := by
  unfold Dev.withdrawReads; repeat' (with_reducible first | assumption | lift_lets -underBinder | (intro x; refine (fun (hx : Dev.Holds kp x) => ?_) ?_; on_goal 2 => unfold x) | apply Dev.withdrawTags_holds | apply holds_ite | fail_if_no_progress (apply holds_upd <;> try rfl) | rfl | intro _ | split | dsimp +zetaDelta only)

theorem Dev.resetCtrl_holds {kp : Keep} {d : Dev} (hk : d.Holds kp) (hr : kp.recs = none) (p : Port) (link : Bool) : (d.resetCtrl p link).Holds kp := by
  unfold Dev.resetCtrl; repeat' (with_reducible first | assumption | lift_lets -underBinder | (intro x; refine (fun (hx : Dev.Holds kp x) => ?_) ?_; on_goal 2 => unfold x) | apply Dev.withdrawReads_holds | apply Dev.dropWrites_holds | apply Dev.onHost_holds | apply Dev.semTimer_holds | apply Dev.thawRecs_holds | apply Dev.onCtrl_holds | apply Dev.settle_holds | apply Dev.askState_holds | apply Dev.closeOpened_holds | apply holds_ite | fail_if_no_progress (apply holds_upd <;> try rfl) | rfl | intro _ | split | dsimp +zetaDelta only)

theorem execControllerReset_holds {kp : Keep} {s : State} (hk : s.dev.Holds kp) (hr : kp.recs = none) (p : Port) (linkLost : Bool) :
    ∃ d, execControllerReset p linkLost s = s.next d ∧ d.Holds kp := by
  refine ⟨_, rfl, ?_⟩; repeat' (with_reducible first | assumption | apply State.dev_holds | apply Dev.resetCtrl_holds | apply holds_ite | intro _ | split)

theorem Dev.finishShutdown_holds {kp : Keep} {d : Dev} (hk : d.Holds kp) (hr : kp.recs = none) (p : Port) : (d.finishShutdown p).Holds kp := by
  unfold Dev.finishShutdown; repeat' (with_reducible first | assumption | lift_lets -underBinder | apply Dev.onCtrl_holds | apply Dev.checkpoint_holds | apply Dev.flushPartials_holds | apply holds_ite | fail_if_no_progress (apply holds_upd <;> try rfl) | rfl | intro _ | split)

theorem execNormalShutdown_holds {kp : Keep} {s : State} (hk : s.dev.Holds kp) (hr : kp.recs = none) (p : Port) :
    ∃ d, execNormalShutdown p s = s.next d ∧ d.Holds kp := by
  refine ⟨_, rfl, ?_⟩; repeat' (with_reducible first | assumption | lift_lets -underBinder | apply State.dev_holds | apply Dev.finishShutdown_holds | apply Dev.onCtrl_holds | apply holds_ite | fail_if_no_progress (apply holds_upd <;> try rfl) | rfl | intro _ | split)

theorem execAbruptShutdown_holds {kp : Keep} {s : State} (hk : s.dev.Holds kp) (p : Port) :
    ∃ d, execAbruptShutdown p s = s.next d ∧ d.Holds kp := by
  refine ⟨_, rfl, ?_⟩; repeat' (with_reducible first | assumption | lift_lets -underBinder | apply State.dev_holds | apply Dev.onCtrl_holds | apply holds_ite | fail_if_no_progress (apply holds_upd <;> try rfl) | rfl | intro _ | split)

theorem Dev.createCq_holds {kp : Keep} {d : Dev} (hk : d.Holds kp) (id : CmdId) (qid size : Nat) : (d.createCq id qid size).Holds kp := by
  unfold Dev.createCq; repeat' (with_reducible first | assumption | lift_lets -underBinder | (intro x; refine (fun (hx : Dev.Holds kp x) => ?_) ?_; on_goal 2 => unfold x) | apply Dev.complete_holds | apply Dev.onCtrl_holds | apply holds_ite | fail_if_no_progress (apply holds_upd <;> try rfl) | rfl | intro _ | split | dsimp +zetaDelta only)

theorem execCreateIoCompletionQueue_holds {kp : Keep} {s : State} (hk : s.dev.Holds kp) (id : CmdId) (qid size : Nat) :
    ∃ d, execCreateIoCompletionQueue id qid size s = s.next d ∧ d.Holds kp := by
  refine ⟨_, rfl, ?_⟩; repeat' (with_reducible first | assumption | apply Dev.adminDo_holds | apply State.dev_holds | apply Dev.createCq_holds | intro _)

theorem Dev.createSq_holds {kp : Keep} {d : Dev} (hk : d.Holds kp) (id : CmdId) (qid size cq : Nat) (ordered : Bool) : (d.createSq id qid size cq ordered).Holds kp := by
  unfold Dev.createSq; repeat' (with_reducible first | assumption | lift_lets -underBinder | (intro x; refine (fun (hx : Dev.Holds kp x) => ?_) ?_; on_goal 2 => unfold x) | apply Dev.complete_holds | apply Dev.onCtrl_holds | apply holds_ite | fail_if_no_progress (apply holds_upd <;> try rfl) | rfl | intro _ | split | dsimp +zetaDelta only)

theorem execCreateIoSubmissionQueue_holds {kp : Keep} {s : State} (hk : s.dev.Holds kp) (id : CmdId) (qid size cq : Nat) (ordered : Bool) :
    ∃ d, execCreateIoSubmissionQueue id qid size cq ordered s = s.next d ∧ d.Holds kp := by
  refine ⟨_, rfl, ?_⟩; repeat' (with_reducible first | assumption | apply Dev.adminDo_holds | apply State.dev_holds | apply Dev.createSq_holds | intro _)

theorem Dev.deleteCq_holds {kp : Keep} {d : Dev} (hk : d.Holds kp) (id : CmdId) (qid : Nat) : (d.deleteCq id qid).Holds kp := by
  unfold Dev.deleteCq; repeat' (with_reducible first | assumption | lift_lets -underBinder | (intro x; refine (fun (hx : Dev.Holds kp x) => ?_) ?_; on_goal 2 => unfold x) | apply Dev.complete_holds | apply Dev.onCtrl_holds | apply holds_ite | fail_if_no_progress (apply holds_upd <;> try rfl) | rfl | intro _ | split | dsimp +zetaDelta only)

theorem execDeleteIoCompletionQueue_holds {kp : Keep} {s : State} (hk : s.dev.Holds kp) (id : CmdId) (qid : Nat) :
    ∃ d, execDeleteIoCompletionQueue id qid s = s.next d ∧ d.Holds kp := by
  refine ⟨_, rfl, ?_⟩; repeat' (with_reducible first | assumption | apply Dev.adminDo_holds | apply State.dev_holds | apply Dev.deleteCq_holds | intro _)

theorem Dev.deleteSq_holds {kp : Keep} {d : Dev} (hk : d.Holds kp) (hr : kp.recs = none) (id : CmdId) (qid : Nat) : (d.deleteSq id qid).Holds kp := by
  unfold Dev.deleteSq; repeat' (with_reducible first | assumption | refine holds_foldl (fun _ _ _ => ?_) _ ?_ | refine holds_foldl_snd (fun _ _ _ => ?_) _ ?_ | lift_lets -underBinder | (intro x; refine (fun (hx : Dev.Holds kp x) => ?_) ?_; on_goal 2 => unfold x) | apply Dev.complete_holds | apply Dev.withdrawReads_holds | apply Dev.dropWrites_holds | apply Dev.settle_holds | apply Dev.onCtrl_holds | apply holds_ite | fail_if_no_progress (apply holds_upd <;> try rfl) | rfl | intro _ | split | dsimp +zetaDelta only)

theorem execDeleteIoSubmissionQueue_holds {kp : Keep} {s : State} (hk : s.dev.Holds kp) (hr : kp.recs = none) (id : CmdId) (qid : Nat) :
    ∃ d, execDeleteIoSubmissionQueue id qid s = s.next d ∧ d.Holds kp := by
  refine ⟨_, rfl, ?_⟩; repeat' (with_reducible first | assumption | apply Dev.adminDo_holds | apply State.dev_holds | apply Dev.deleteSq_holds | intro _)

theorem execAbort_holds {kp : Keep} {s : State} (hk : s.dev.Holds kp) (id : CmdId) :
    ∃ d, execAbort id s = s.next d ∧ d.Holds kp := by
  refine ⟨_, rfl, ?_⟩; repeat' (with_reducible first | assumption | apply Dev.adminDo_holds | apply State.dev_holds | apply Dev.complete_holds | intro _)

theorem Dev.asyncRequest_holds {kp : Keep} {d : Dev} (hk : d.Holds kp) (id : CmdId) : (d.asyncRequest id).Holds kp := by
  unfold Dev.asyncRequest; repeat' (with_reducible first | assumption | lift_lets -underBinder | apply Dev.complete_holds | apply Dev.onCtrl_holds | apply holds_ite | fail_if_no_progress (apply holds_upd <;> try rfl) | rfl | intro _ | split)

theorem execAsynchronousEventRequest_holds {kp : Keep} {s : State} (hk : s.dev.Holds kp) (id : CmdId) :
    ∃ d, execAsynchronousEventRequest id s = s.next d ∧ d.Holds kp := by
  refine ⟨_, rfl, ?_⟩; repeat' (with_reducible first | assumption | apply Dev.adminDo_holds | apply State.dev_holds | apply Dev.asyncRequest_holds | intro _)

theorem Dev.sanGated_holds {kp : Keep} {d : Dev} (hk : d.Holds kp) (id : CmdId) (g : Dev → Dev) (hg : ∀ x : Dev, x.Holds kp → (g x).Holds kp) : (d.sanGated id g).Holds kp := by
  unfold Dev.sanGated; repeat' (with_reducible first | assumption | apply Dev.complete_holds | apply hg | apply holds_ite | intro _ | split)

theorem execNamespaceAttachment_holds {kp : Keep} {s : State} (hk : s.dev.Holds kp) (id : CmdId) (attach : Bool) :
    ∃ d, execNamespaceAttachment id attach s = s.next d ∧ d.Holds kp := by
  refine ⟨_, rfl, ?_⟩; repeat' (with_reducible first | assumption | apply Dev.adminDo_holds | apply State.dev_holds | apply Dev.sanGated_holds | apply Dev.complete_holds | apply holds_ite | intro _ | split)

end Sys2Proof.Machine
end

