-- ==== Sys2Proof/Laws/Holds/Logs.lean ====
section
/-! SUPPORT. The operations of Machine/Logs.lean carry `Dev.Holds`. -/

namespace Sys2Proof.Machine

set_option linter.unusedTactic false
set_option linter.unreachableTactic false

theorem Dev.reply_holds {kp : Keep} {d : Dev} (hk : d.Holds kp) (id : CmdId) (fs : List (String × Nat)) : (d.reply id fs).Holds kp := by
  unfold Dev.reply; repeat' (with_reducible first | assumption | apply Dev.complete_holds | apply Dev.giveHost_holds)

theorem Dev.clearChanges_holds {kp : Keep} {d : Dev} (hk : d.Holds kp) (p : Port) (lid : Nat) (retain : Bool) : (d.clearChanges p lid retain).Holds kp := by
  unfold Dev.clearChanges; repeat' (with_reducible first | assumption | lift_lets -underBinder | apply Dev.onCtrl_holds | apply holds_ite | fail_if_no_progress (apply holds_upd <;> try rfl) | rfl | intro _ | split)

theorem Dev.getLog_holds {kp : Keep} {d : Dev} (hk : d.Holds kp) (id : CmdId) (lid : Nat) (retain : Bool) : (d.getLog id lid retain).Holds kp := by
  unfold Dev.getLog; repeat' (with_reducible first | assumption | lift_lets -underBinder | apply Dev.reply_holds | apply Dev.clearChanges_holds | apply Dev.complete_holds | apply holds_ite | fail_if_no_progress (apply holds_upd <;> try rfl) | rfl | intro _ | split)

theorem execGetLogPage_holds {kp : Keep} {s : State} (hk : s.dev.Holds kp) (id : CmdId) (lid : Nat) (retain : Bool) :
    ∃ d, execGetLogPage id lid retain s = s.next d ∧ d.Holds kp := by
  refine ⟨_, rfl, ?_⟩; repeat' (with_reducible first | assumption | apply Dev.adminDo_holds | apply State.dev_holds | apply Dev.getLog_holds | intro _)

theorem Dev.pelEstablish_holds {kp : Keep} {d : Dev} (hk : d.Holds kp) (id : CmdId) : (d.pelEstablish id).Holds kp := by
  unfold Dev.pelEstablish; repeat' (with_reducible first | assumption | lift_lets -underBinder | (intro x; refine (fun (hx : Dev.Holds kp x) => ?_) ?_; on_goal 2 => unfold x) | apply Dev.complete_holds | apply Dev.onCtrl_holds | apply Dev.freezeRecs_holds | apply holds_ite | fail_if_no_progress (apply holds_upd <;> try rfl) | rfl | intro _ | split | dsimp +zetaDelta only)

theorem execPelContextEstablish_holds {kp : Keep} {s : State} (hk : s.dev.Holds kp) (id : CmdId) :
    ∃ d, execPelContextEstablish id s = s.next d ∧ d.Holds kp := by
  refine ⟨_, rfl, ?_⟩; repeat' (with_reducible first | assumption | apply Dev.adminDo_holds | apply State.dev_holds | apply Dev.pelEstablish_holds | intro _)

theorem execPelContextRelease_holds {kp : Keep} {s : State} (hk : s.dev.Holds kp) (id : CmdId) :
    ∃ d, execPelContextRelease id s = s.next d ∧ d.Holds kp := by
  refine ⟨_, rfl, ?_⟩; repeat' (with_reducible first | assumption | lift_lets -underBinder | apply Dev.adminDo_holds | apply State.dev_holds | apply Dev.complete_holds | apply Dev.onCtrl_holds | apply Dev.thawRecs_holds | fail_if_no_progress (apply holds_upd <;> try rfl) | rfl | intro _)

theorem execIdentify_holds {kp : Keep} {s : State} (hk : s.dev.Holds kp) (id : CmdId) (cns ns csi : Nat) :
    ∃ d, execIdentify id cns ns csi s = s.next d ∧ d.Holds kp := by
  refine ⟨_, rfl, ?_⟩; repeat' (with_reducible first | assumption | lift_lets -underBinder | apply Dev.adminDo_holds | apply State.dev_holds | apply Dev.reply_holds | apply Dev.complete_holds | fail_if_no_progress (apply holds_upd <;> try rfl) | rfl | intro _ | split)

theorem Dev.setCtrlFeature_holds {kp : Keep} {d : Dev} (hk : d.Holds kp) (id : CmdId) (fid v : Nat) : (d.setCtrlFeature id fid v).Holds kp := by
  unfold Dev.setCtrlFeature; repeat' (with_reducible first | assumption | lift_lets -underBinder | apply Dev.complete_holds | apply Dev.onCtrl_holds | fail_if_no_progress (apply holds_upd <;> try rfl) | rfl | intro _)

theorem execSetArbitration_holds {kp : Keep} {s : State} (hk : s.dev.Holds kp) (id : CmdId) (v : Nat) :
    ∃ d, execSetArbitration id v s = s.next d ∧ d.Holds kp := by
  refine ⟨_, rfl, ?_⟩; repeat' (with_reducible first | assumption | apply Dev.adminDo_holds | apply State.dev_holds | apply Dev.setCtrlFeature_holds | intro _)

theorem execSetPowerManagement_holds {kp : Keep} {s : State} (hk : s.dev.Holds kp) (id : CmdId) (ps : Nat) :
    ∃ d, execSetPowerManagement id ps s = s.next d ∧ d.Holds kp := by
  refine ⟨_, rfl, ?_⟩; repeat' (with_reducible first | assumption | apply Dev.adminDo_holds | apply State.dev_holds | apply Dev.complete_holds | apply Dev.askState_holds | apply Dev.setCtrlFeature_holds | apply holds_ite | intro _ | split)

theorem execSetVolatileWriteCache_holds {kp : Keep} {s : State} (hk : s.dev.Holds kp) (id : CmdId) :
    ∃ d, execSetVolatileWriteCache id s = s.next d ∧ d.Holds kp := by
  refine ⟨_, rfl, ?_⟩; repeat' (with_reducible first | assumption | apply Dev.adminDo_holds | apply State.dev_holds | apply Dev.complete_holds | intro _)

theorem execSetNumberOfQueues_holds {kp : Keep} {s : State} (hk : s.dev.Holds kp) (id : CmdId) (nsq ncq : Nat) :
    ∃ d, execSetNumberOfQueues id nsq ncq s = s.next d ∧ d.Holds kp := by
  refine ⟨_, rfl, ?_⟩; repeat' (with_reducible first | assumption | lift_lets -underBinder | (intro x; refine (fun (hx : Dev.Holds kp x) => ?_) ?_; on_goal 2 => unfold x) | apply Dev.adminDo_holds | apply State.dev_holds | apply Dev.complete_holds | apply Dev.onCtrl_holds | apply holds_ite | fail_if_no_progress (apply holds_upd <;> try rfl) | rfl | intro _ | split | dsimp +zetaDelta only)

theorem execSetInterruptCoalescing_holds {kp : Keep} {s : State} (hk : s.dev.Holds kp) (id : CmdId) (v : Nat) :
    ∃ d, execSetInterruptCoalescing id v s = s.next d ∧ d.Holds kp := by
  refine ⟨_, rfl, ?_⟩; repeat' (with_reducible first | assumption | apply Dev.adminDo_holds | apply State.dev_holds | apply Dev.setCtrlFeature_holds | intro _)

theorem execSetInterruptVectorConfiguration_holds {kp : Keep} {s : State} (hk : s.dev.Holds kp) (id : CmdId) (vector : Nat) (cd : Bool) :
    ∃ d, execSetInterruptVectorConfiguration id vector cd s = s.next d ∧ d.Holds kp := by
  refine ⟨_, rfl, ?_⟩; repeat' (with_reducible first | assumption | apply Dev.adminDo_holds | apply State.dev_holds | apply Dev.setCtrlFeature_holds | intro _)

theorem execSetWriteAtomicityNormal_holds {kp : Keep} {s : State} (hk : s.dev.Holds kp) (id : CmdId) (v : Nat) :
    ∃ d, execSetWriteAtomicityNormal id v s = s.next d ∧ d.Holds kp := by
  refine ⟨_, rfl, ?_⟩; repeat' (with_reducible first | assumption | apply Dev.adminDo_holds | apply State.dev_holds | apply Dev.setCtrlFeature_holds | intro _)

theorem execSetAsyncEventConfiguration_holds {kp : Keep} {s : State} (hk : s.dev.Holds kp) (id : CmdId) (v : Nat) :
    ∃ d, execSetAsyncEventConfiguration id v s = s.next d ∧ d.Holds kp := by
  refine ⟨_, rfl, ?_⟩; repeat' (with_reducible first | assumption | apply Dev.adminDo_holds | apply State.dev_holds | apply Dev.setCtrlFeature_holds | intro _)

theorem execGetFeatures_holds {kp : Keep} {s : State} (hk : s.dev.Holds kp) (id : CmdId) (fid sel : Nat) :
    ∃ d, execGetFeatures id fid sel s = s.next d ∧ d.Holds kp := by
  refine ⟨_, rfl, ?_⟩; repeat' (with_reducible first | assumption | lift_lets -underBinder | apply Dev.adminDo_holds | apply State.dev_holds | apply Dev.complete_holds | apply Dev.reply_holds | apply holds_ite | fail_if_no_progress (apply holds_upd <;> try rfl) | rfl | intro _ | split)

theorem execGetZoneReorder_holds {kp : Keep} {s : State} (hk : s.dev.Holds kp) (id : CmdId) (depth : Bool) :
    ∃ d, execGetZoneReorder id depth s = s.next d ∧ d.Holds kp := by
  refine ⟨_, rfl, ?_⟩; repeat' (with_reducible first | assumption | apply Dev.adminDo_holds | apply State.dev_holds | apply Dev.complete_holds | apply holds_ite | intro _ | split)

theorem execGetErrorRecoveryVendorData_holds {kp : Keep} {s : State} (hk : s.dev.Holds kp) (id : CmdId) (ns : Nat) :
    ∃ d, execGetErrorRecoveryVendorData id ns s = s.next d ∧ d.Holds kp := by
  refine ⟨_, rfl, ?_⟩; repeat' (with_reducible first | assumption | apply Dev.adminDo_holds | apply State.dev_holds | apply Dev.complete_holds | apply holds_ite | intro _ | split)

end Sys2Proof.Machine
end

