-- ==== Sys2Proof/Laws/Holds/Complex.lean ====
section
/-! SUPPORT. The operations of Machine/Complex.lean carry `Dev.Holds`. -/

namespace Sys2Proof.Machine

set_option linter.unusedTactic false
set_option linter.unreachableTactic false

theorem Dev.onCpx_holds {kp : Keep} {d : Dev} (hk : d.Holds kp) (g : Complexes → Complexes) : (d.onCpx g).Holds kp := by
  unfold Dev.onCpx; repeat' (with_reducible first | assumption | lift_lets -underBinder | fail_if_no_progress (apply holds_upd <;> try rfl) | rfl | intro _)

theorem Dev.setCpxState_holds {kp : Keep} {d : Dev} (hk : d.Holds kp) (c : Cpx) (n : Nat) : (d.setCpxState c n).Holds kp := by
  unfold Dev.setCpxState; repeat' (with_reducible first | assumption | apply Dev.setF_holds)

theorem Dev.setServed_holds {kp : Keep} {d : Dev} (hk : d.Holds kp) (p : Port) (c : Cpx) : (d.setServed p c).Holds kp := by
  unfold Dev.setServed; repeat' (with_reducible first | assumption | apply Dev.setF_holds)

theorem Dev.showCpxGen_holds {kp : Keep} {d : Dev} (hk : d.Holds kp) (c : Cpx) : (d.showCpxGen c).Holds kp := by
  unfold Dev.showCpxGen; repeat' (with_reducible first | assumption | apply Dev.setF_holds)

theorem execMirrorRecord_holds {kp : Keep} {s : State} (hk : s.dev.Holds kp) :
    ∃ d, execMirrorRecord s = s.next d ∧ d.Holds kp := by
  refine ⟨_, rfl, ?_⟩; repeat' (with_reducible first | assumption | apply State.dev_holds | apply Dev.bumpF_holds | apply holds_ite | intro _ | split)

theorem execMirrorAck_holds {kp : Keep} {s : State} (hk : s.dev.Holds kp) :
    ∃ d, execMirrorAck s = s.next d ∧ d.Holds kp := by
  refine ⟨_, rfl, ?_⟩; repeat' (with_reducible first | assumption | apply Dev.setF_holds | apply State.dev_holds)

theorem Dev.resetCpx_holds {kp : Keep} {d : Dev} (hk : d.Holds kp) (c : Cpx) (st : Nat) : (d.resetCpx c st).Holds kp := by
  unfold Dev.resetCpx; repeat' (with_reducible first | assumption | apply Dev.setF_holds | apply Dev.setCpxState_holds | apply Dev.showCpxGen_holds | apply Dev.resetUnit_holds)

theorem Dev.passPorts_holds {kp : Keep} {d : Dev} (hk : d.Holds kp) (dst : Cpx) (ps : List Port) : (d.passPorts dst ps).Holds kp := by
  unfold Dev.passPorts; repeat' (with_reducible first | assumption | refine holds_foldl (fun _ _ _ => ?_) _ ?_ | refine holds_foldl_snd (fun _ _ _ => ?_) _ ?_ | lift_lets -underBinder | (intro x; refine (fun (hx : Dev.Holds kp x) => ?_) ?_; on_goal 2 => unfold x) | apply Dev.setServed_holds | apply Dev.setCpxState_holds | apply holds_ite | intro _ | split | dsimp +zetaDelta only)

theorem Dev.adoptRequests_holds {kp : Keep} {d : Dev} (hk : d.Holds kp) (c : Cpx) : (d.adoptRequests c).Holds kp := by
  unfold Dev.adoptRequests; repeat' (with_reducible first | assumption | lift_lets -underBinder | (intro x; refine (fun (hx : Dev.Holds kp x) => ?_) ?_; on_goal 2 => unfold x) | apply holds_ite | fail_if_no_progress (apply holds_upd <;> try rfl) | rfl | intro _ | split | dsimp +zetaDelta only)

theorem Dev.logTake_holds {kp : Keep} {d : Dev} (hk : d.Holds kp) (c : Cpx) (cause stall contexts : Nat) : (d.logTake c cause stall contexts).Holds kp := by
  unfold Dev.logTake; repeat' (with_reducible first | assumption | lift_lets -underBinder | (intro x; refine (fun (hx : Dev.Holds kp x) => ?_) ?_; on_goal 2 => unfold x) | apply Dev.setF_holds | apply Dev.event_holds | apply Dev.bumpF_holds | apply holds_ite | intro _ | split | dsimp +zetaDelta only)

theorem Dev.takeover_holds {kp : Keep} {d : Dev} (hk : d.Holds kp) (c : Cpx) (cause stall : Nat) : (d.takeover c cause stall).Holds kp := by
  unfold Dev.takeover; repeat' (with_reducible first | assumption | refine holds_foldl (fun _ _ _ => ?_) _ ?_ | refine holds_foldl_snd (fun _ _ _ => ?_) _ ?_ | lift_lets -underBinder | (intro x; refine (fun (hx : Dev.Holds kp x) => ?_) ?_; on_goal 2 => unfold x) | apply Dev.adoptRequests_holds | apply Dev.passPorts_holds | apply Dev.resetCpx_holds | apply Dev.logTake_holds | apply Dev.onCtrl_holds | apply holds_ite | fail_if_no_progress (apply holds_upd <;> try rfl) | rfl | intro _ | split | dsimp +zetaDelta only)

theorem Dev.handover_holds {kp : Keep} {d : Dev} (hk : d.Holds kp) (dst : Cpx) (ps : List Port) : (d.handover dst ps).Holds kp := by
  unfold Dev.handover; repeat' (with_reducible first | assumption | lift_lets -underBinder | (intro x; refine (fun (hx : Dev.Holds kp x) => ?_) ?_; on_goal 2 => unfold x) | apply Dev.bumpF_holds | apply Dev.passPorts_holds | apply holds_ite | intro _ | split | dsimp +zetaDelta only)

theorem Dev.cpxReady_holds {kp : Keep} {d : Dev} (hk : d.Holds kp) (c : Cpx) : (d.cpxReady c).Holds kp := by
  unfold Dev.cpxReady; repeat' (with_reducible first | assumption | lift_lets -underBinder | (intro x; refine (fun (hx : Dev.Holds kp x) => ?_) ?_; on_goal 2 => unfold x) | apply Dev.onCpx_holds | apply Dev.showCpxGen_holds | apply Dev.readyUnit_holds | apply Dev.setCpxState_holds | apply holds_ite | fail_if_no_progress (apply holds_upd <;> try rfl) | rfl | intro _ | split | dsimp +zetaDelta only)

theorem Dev.complexSync_holds {kp : Keep} {d : Dev} (hk : d.Holds kp) (c : Cpx) : (d.complexSync c).Holds kp := by
  unfold Dev.complexSync; repeat' (with_reducible first | assumption | lift_lets -underBinder | (intro x; refine (fun (hx : Dev.Holds kp x) => ?_) ?_; on_goal 2 => unfold x) | apply Dev.setF_holds | apply Dev.setCpxState_holds | apply Dev.handover_holds | apply holds_ite | intro _ | split | dsimp +zetaDelta only)

theorem execComplexSync_holds {kp : Keep} {s : State} (hk : s.dev.Holds kp) (c : Cpx) :
    ∃ d, execComplexSync c s = s.next d ∧ d.Holds kp := by
  refine ⟨_, rfl, ?_⟩; repeat' (with_reducible first | assumption | apply Dev.complexSync_holds | apply State.dev_holds)

theorem Dev.handoverAll_holds {kp : Keep} {d : Dev} (hk : d.Holds kp) (cal : Bool) (dst : Cpx) : (d.handoverAll cal dst).Holds kp := by
  unfold Dev.handoverAll; repeat' (with_reducible first | assumption | apply Dev.handover_holds | apply Dev.ignoredWrite_holds | apply holds_ite | intro _ | split)

theorem execCpxToX_holds {kp : Keep} {s : State} (hk : s.dev.Holds kp) (cal : Bool) :
    ∃ d, execCpxToX cal s = s.next d ∧ d.Holds kp := by
  refine ⟨_, rfl, ?_⟩; repeat' (with_reducible first | assumption | apply Dev.handoverAll_holds | apply State.dev_holds)

theorem execCpxToY_holds {kp : Keep} {s : State} (hk : s.dev.Holds kp) (cal : Bool) :
    ∃ d, execCpxToY cal s = s.next d ∧ d.Holds kp := by
  refine ⟨_, rfl, ?_⟩; repeat' (with_reducible first | assumption | apply Dev.handoverAll_holds | apply State.dev_holds)

theorem Dev.restartCpx_holds {kp : Keep} {d : Dev} (hk : d.Holds kp) (c : Cpx) : (d.restartCpx c).Holds kp := by
  unfold Dev.restartCpx; repeat' (with_reducible first | assumption | apply Dev.resetCpx_holds)

theorem Dev.takeImage_holds {kp : Keep} {d : Dev} (hk : d.Holds kp) (v : Activation) : (d.takeImage v).Holds kp := by
  unfold Dev.takeImage; repeat' (with_reducible first | assumption | lift_lets -underBinder | apply Dev.setF_holds | apply Dev.setBoot_holds | fail_if_no_progress (apply holds_upd <;> try rfl) | rfl | intro _)

theorem Dev.activate_holds {kp : Keep} {d : Dev} (hk : d.Holds kp) (v : Activation) : (d.activate v).2.Holds kp := by
  unfold Dev.activate; repeat' (with_reducible first | assumption | lift_lets -underBinder | (intro x; refine (fun (hx : Dev.Holds kp x) => ?_) ?_; on_goal 2 => unfold x) | apply Dev.onCpx_holds | apply Dev.takeImage_holds | apply Dev.restartCpx_holds | apply Dev.handover_holds | apply holds_ite | fail_if_no_progress (apply holds_upd <;> try rfl) | rfl | intro _ | split | dsimp +zetaDelta only)

end Sys2Proof.Machine
end

