-- ==== Sys2Proof/Laws/Holds/Format.lean ====
section
/-! SUPPORT. The operations of Machine/Format.lean carry `Dev.Holds`. -/

namespace Sys2Proof.Machine

set_option linter.unusedTactic false
set_option linter.unreachableTactic false

theorem Dev.cryptoErase_holds {kp : Keep} {d : Dev} (hk : d.Holds kp) : (d.cryptoErase).Holds kp := by
  unfold Dev.cryptoErase; repeat' (with_reducible first | assumption | apply Dev.bumpF_holds | apply Dev.setF_holds)

theorem Dev.dropRequests_holds {kp : Keep} {d : Dev} (hk : d.Holds kp) (a : Act) : (d.dropRequests a).Holds kp := by
  unfold Dev.dropRequests; repeat' (with_reducible first | assumption | lift_lets -underBinder | (intro x; refine (fun (hx : Dev.Holds kp x) => ?_) ?_; on_goal 2 => unfold x) | apply Dev.onBlk_holds | apply Dev.raiseEvt_holds | apply holds_ite | fail_if_no_progress (apply holds_upd <;> try rfl) | rfl | intro _ | split | dsimp +zetaDelta only)

theorem Dev.wipeZones_holds {kp : Keep} {d : Dev} (hk : d.Holds kp) : (d.wipeZones).Holds kp := by
  unfold Dev.wipeZones; repeat' (with_reducible first | assumption | lift_lets -underBinder | (intro x; refine (fun (hx : Dev.Holds kp x) => ?_) ?_; on_goal 2 => unfold x) | apply Dev.setF_holds | fail_if_no_progress (apply holds_upd <;> try rfl) | rfl | intro _ | dsimp +zetaDelta only)

theorem Dev.wipe_holds {kp : Keep} {d : Dev} (hk : d.Holds kp) : (d.wipe).Holds kp := by
  unfold Dev.wipe; repeat' (with_reducible first | assumption | lift_lets -underBinder | (intro x; refine (fun (hx : Dev.Holds kp x) => ?_) ?_; on_goal 2 => unfold x) | apply Dev.wipeZones_holds | apply Dev.dropRequests_holds | apply Dev.onHost_holds | fail_if_no_progress (apply holds_upd <;> try rfl) | rfl | intro _ | dsimp +zetaDelta only)

theorem Dev.layDown_holds {kp : Keep} {d : Dev} (hk : d.Holds kp) (l : FormatLayout) : (d.layDown l).Holds kp := by
  unfold Dev.layDown; repeat' (with_reducible first | assumption | lift_lets -underBinder | (intro x; refine (fun (hx : Dev.Holds kp x) => ?_) ?_; on_goal 2 => unfold x) | apply Dev.onHost_holds | fail_if_no_progress (apply holds_upd <;> try rfl) | rfl | intro _ | dsimp +zetaDelta only)

theorem Dev.formatted_holds {kp : Keep} {d : Dev} (hk : d.Holds kp) (lbaf : Nat) : (d.formatted lbaf).Holds kp := by
  unfold Dev.formatted; repeat' (with_reducible first | assumption | lift_lets -underBinder | (intro x; refine (fun (hx : Dev.Holds kp x) => ?_) ?_; on_goal 2 => unfold x) | apply Dev.onHost_holds | refine Dev.onNv_keep ?_ rfl | refine Dev.onNv_holds ?_ (by assumption) (fun m hm => ?_) | exact NvDie.setWord_wf hm _ _ | exact NvDie.eraseSector_wf hm _ | exact NvDie.spoilSector_wf hm _ | apply Dev.endStep_holds | apply Dev.setF_holds | apply holds_ite | fail_if_no_progress (apply holds_upd <;> try rfl) | rfl | intro _ | split | dsimp +zetaDelta only)

theorem Dev.formatEnds_holds {kp : Keep} {d : Dev} (hk : d.Holds kp) (r : FormatRun) (status : Nvme) : (d.formatEnds r status).Holds kp := by
  unfold Dev.formatEnds; repeat' (with_reducible first | assumption | lift_lets -underBinder | (intro x; refine (fun (hx : Dev.Holds kp x) => ?_) ?_; on_goal 2 => unfold x) | apply Dev.onHost_holds | apply Dev.semEnd_holds | apply Dev.complete_holds | fail_if_no_progress (apply holds_upd <;> try rfl) | rfl | intro _ | split | dsimp +zetaDelta only)

theorem Dev.formatStep_holds {kp : Keep} {d : Dev} (hk : d.Holds kp) (r : FormatRun) : (d.formatStep r).Holds kp := by
  unfold Dev.formatStep; repeat' (with_reducible first | assumption | lift_lets -underBinder | (intro x; refine (fun (hx : Dev.Holds kp x) => ?_) ?_; on_goal 2 => unfold x) | apply Dev.onHost_holds | apply Dev.formatEnds_holds | apply Dev.event_holds | apply Dev.cryptoErase_holds | apply Dev.setF_holds | apply Dev.wipe_holds | apply Dev.layDown_holds | apply Dev.formatted_holds | apply holds_ite | fail_if_no_progress (apply holds_upd <;> try rfl) | rfl | intro _ | split | dsimp +zetaDelta only)

theorem Dev.overwriteBand_holds {kp : Keep} {d : Dev} (hk : d.Holds kp) (hr : kp.recs = none) (bi block : Nat) :
    (d.overwriteBand bi block).Holds kp := by
  obtain ⟨⟨s1, s2, s3, s4, s5, s6, s7, s8⟩, h2, h3, h4, h5, h6, h7, h8⟩ := hk
  refine ⟨⟨s1, s2, s3, s4, s5, swf_map s6 _ ?_ ?_, s7, s8⟩, h2, h3, h4, fun x hx => absurd (hr.symm.trans hx) (by simp), h6, h7, h8⟩
  · intro p; split <;> rfl
  · intro p hp
    split
    · cases h : p.2 with
      | none => exact absurd h hp
      | some r => simp [Option.map]
    · exact hp

theorem Dev.sanitizeEnds_holds {kp : Keep} {d : Dev} (hk : d.Holds kp) (x : Sanitize) : (d.sanitizeEnds x).Holds kp := by
  unfold Dev.sanitizeEnds; repeat' (with_reducible first | assumption | lift_lets -underBinder | (intro x; refine (fun (hx : Dev.Holds kp x) => ?_) ?_; on_goal 2 => unfold x) | apply Dev.onHost_holds | apply Dev.wipe_holds | apply Dev.cryptoErase_holds | apply Dev.raiseAll_holds | apply Dev.event_holds | apply Dev.semEnd_holds | apply holds_ite | fail_if_no_progress (apply holds_upd <;> try rfl) | rfl | intro _ | split | dsimp +zetaDelta only)

theorem Dev.sanitizeStep_holds {kp : Keep} {d : Dev} (hk : d.Holds kp) (hr : kp.recs = none) (x : Sanitize) : (d.sanitizeStep x).Holds kp := by
  unfold Dev.sanitizeStep; repeat' (with_reducible first | assumption | lift_lets -underBinder | (intro x; refine (fun (hx : Dev.Holds kp x) => ?_) ?_; on_goal 2 => unfold x) | apply Dev.onHost_holds | apply Dev.sanitizeEnds_holds | apply Dev.overwriteBand_holds | apply holds_ite | fail_if_no_progress (apply holds_upd <;> try rfl) | rfl | intro _ | split | dsimp +zetaDelta only)

theorem Dev.eraseTick_holds {kp : Keep} {d : Dev} (hk : d.Holds kp) (hr : kp.recs = none) : (d.eraseTick).Holds kp := by
  unfold Dev.eraseTick; repeat' (with_reducible first | assumption | lift_lets -underBinder | apply Dev.formatStep_holds | apply Dev.sanitizeStep_holds | apply holds_ite | fail_if_no_progress (apply holds_upd <;> try rfl) | rfl | intro _ | split)

end Sys2Proof.Machine
end

