-- ==== Sys2Proof/Laws/Holds/SemRun.lean ====
section
/-! SUPPORT. The operations of Machine/SemRun.lean carry `Dev.Holds`. -/

namespace Sys2Proof.Machine

set_option linter.unusedTactic false
set_option linter.unreachableTactic false

theorem Dev.runFeature_holds {kp : Keep} {d : Dev} (hk : d.Holds kp) (id : CmdId) (key value : Nat) : (d.runFeature id key value).Holds kp := by
  unfold Dev.runFeature; repeat' (with_reducible first | assumption | lift_lets -underBinder | (intro x; refine (fun (hx : Dev.Holds kp x) => ?_) ?_; on_goal 2 => unfold x) | apply Dev.complete_holds | apply Dev.onHost_holds | apply Dev.showWarning_holds | apply holds_ite | fail_if_no_progress (apply holds_upd <;> try rfl) | rfl | intro _ | split | dsimp +zetaDelta only)

theorem Dev.fwDone_holds {kp : Keep} {d : Dev} (hk : d.Holds kp) (id : Option CmdId) (slot ca : Nat) : (d.fwDone id slot ca).Holds kp := by
  unfold Dev.fwDone; repeat' (with_reducible first | assumption | lift_lets -underBinder | (intro x; refine (fun (hx : Dev.Holds kp x) => ?_) ?_; on_goal 2 => unfold x) | apply Dev.event_holds | apply Dev.semEnd_holds | apply Dev.complete_holds | fail_if_no_progress (apply holds_upd <;> try rfl) | rfl | intro _ | split | dsimp +zetaDelta only)

theorem Dev.activationStep_holds {kp : Keep} {d : Dev} (hk : d.Holds kp) : (d.activationStep).Holds kp := by
  unfold Dev.activationStep; repeat' (with_reducible first | assumption | lift_lets -underBinder | (intro x; refine (fun (hx : Dev.Holds kp x) => ?_) ?_; on_goal 2 => unfold x) | apply Dev.activate_holds | apply Dev.fwDone_holds | apply Dev.onCpx_holds | apply holds_ite | fail_if_no_progress (apply holds_upd <;> try rfl) | rfl | intro _ | split | dsimp +zetaDelta only)

theorem Dev.startActivation_holds {kp : Keep} {d : Dev} (hk : d.Holds kp) (id : Option CmdId) (slot ver : Nat) : (d.startActivation id slot ver).Holds kp := by
  unfold Dev.startActivation; repeat' (with_reducible first | assumption | lift_lets -underBinder | (intro x; refine (fun (hx : Dev.Holds kp x) => ?_) ?_; on_goal 2 => unfold x) | apply Dev.activationStep_holds | apply Dev.onCpx_holds | apply Dev.raiseAll_holds | fail_if_no_progress (apply holds_upd <;> try rfl) | rfl | intro _ | dsimp +zetaDelta only)

theorem Dev.runCommit_holds {kp : Keep} {d : Dev} (hk : d.Holds kp) (hf : kp.flash = none) (id : CmdId) (ca fs : Nat) (sig : Bool) (e : StoreEnd) : (d.runCommit id ca fs sig e).Holds kp := by
  unfold Dev.runCommit; repeat' (with_reducible first | assumption | lift_lets -underBinder | (intro x; refine (fun (hx : Dev.Holds kp x) => ?_) ?_; on_goal 2 => unfold x) | apply Dev.semEnd_holds | apply Dev.complete_holds | apply Dev.slotFault_holds | apply Dev.fwDone_holds | apply Dev.setPendingFw_holds | apply Dev.storeImage_holds | apply Dev.onHost_holds | apply Dev.startActivation_holds | apply holds_ite | fail_if_no_progress (apply holds_upd <;> try rfl) | rfl | intro _ | split | dsimp +zetaDelta only)

theorem Dev.runOp_holds {kp : Keep} {d : Dev} (hk : d.Holds kp) (hf : kp.flash = none) (holder : Nat) (op : SemOp) : (d.runOp holder op).Holds kp := by
  unfold Dev.runOp; repeat' (with_reducible first | assumption | lift_lets -underBinder | (intro x; refine (fun (hx : Dev.Holds kp x) => ?_) ?_; on_goal 2 => unfold x) | apply Dev.semClaim_holds | apply Dev.complete_holds | apply Dev.semEnd_holds | apply Dev.runFeature_holds | apply Dev.semBegin_holds | apply Dev.onHost_holds | apply Dev.event_holds | apply Dev.runCommit_holds | apply holds_ite | fail_if_no_progress (apply holds_upd <;> try rfl) | rfl | intro _ | split | dsimp +zetaDelta only)

theorem Dev.runSem_holds {kp : Keep} {d : Dev} (hk : d.Holds kp) (hf : kp.flash = none) (holder : Nat) (op : SemOp) : (d.runSem holder op).Holds kp := by
  unfold Dev.runSem; repeat' (with_reducible first | assumption | apply Dev.semEnd_holds | apply Dev.complete_holds | apply Dev.semBegin_holds | apply Dev.runOp_holds | apply holds_ite | intro _ | split)

theorem Dev.semGrants_holds {kp : Keep} (hf : kp.flash = none) (x0 : Nat) : ∀ {d : Dev} (hk : d.Holds kp), (d.semGrants x0).Holds kp := by
  induction x0 with
  | zero =>
    intro d hk; unfold Dev.semGrants; repeat' (with_reducible first | assumption | lift_lets -underBinder | apply ih | apply Dev.runSem_holds | apply Dev.semGrant_holds | apply Dev.setQueue_holds | apply holds_ite | fail_if_no_progress (apply holds_upd <;> try rfl) | rfl | intro _ | split)
  | succ n ih =>
    intro d hk; unfold Dev.semGrants; repeat' (with_reducible first | assumption | lift_lets -underBinder | apply ih | apply Dev.runSem_holds | apply Dev.semGrant_holds | apply Dev.setQueue_holds | apply holds_ite | fail_if_no_progress (apply holds_upd <;> try rfl) | rfl | intro _ | split)

theorem Dev.semSettle_holds {kp : Keep} {d : Dev} (hk : d.Holds kp) (hf : kp.flash = none) : (d.semSettle).Holds kp := by
  unfold Dev.semSettle; repeat' (with_reducible first | assumption | apply Dev.semGrants_holds)

theorem Dev.semRequest_holds {kp : Keep} {d : Dev} (hk : d.Holds kp) (hf : kp.flash = none) (holder : Nat) (op : SemOp) : (d.semRequest holder op).Holds kp := by
  unfold Dev.semRequest; repeat' (with_reducible first | assumption | apply Dev.semSettle_holds | apply Dev.runSem_holds | apply Dev.semGrant_holds | apply Dev.complete_holds | apply Dev.semRefused_holds | apply Dev.setQueue_holds | apply holds_ite | intro _ | split)

theorem Dev.serialized_holds {kp : Keep} {d : Dev} (hk : d.Holds kp) (hf : kp.flash = none) (op : SemOp) : (d.serialized op).Holds kp := by
  unfold Dev.serialized; repeat' (with_reducible first | assumption | apply Dev.adminDo_holds | apply Dev.semRequest_holds | intro _)

theorem execSemaphoreClaim_holds {kp : Keep} {s : State} (hk : s.dev.Holds kp) (hf : kp.flash = none) (id : CmdId) :
    ∃ d, execSemaphoreClaim id s = s.next d ∧ d.Holds kp := by
  refine ⟨_, rfl, ?_⟩; repeat' (with_reducible first | assumption | apply Dev.serialized_holds | apply State.dev_holds)

theorem execSemaphoreRelease_holds {kp : Keep} {s : State} (hk : s.dev.Holds kp) (hf : kp.flash = none) (id : CmdId) :
    ∃ d, execSemaphoreRelease id s = s.next d ∧ d.Holds kp := by
  refine ⟨_, rfl, ?_⟩; repeat' (with_reducible first | assumption | lift_lets -underBinder | (intro x; refine (fun (hx : Dev.Holds kp x) => ?_) ?_; on_goal 2 => unfold x) | apply Dev.adminDo_holds | apply State.dev_holds | apply Dev.semRelease_holds | apply Dev.semSettle_holds | apply Dev.complete_holds | intro _ | dsimp +zetaDelta only)

theorem Dev.semExpires_holds {kp : Keep} {d : Dev} (hk : d.Holds kp) (hf : kp.flash = none) : (d.semExpires).Holds kp := by
  unfold Dev.semExpires; repeat' (with_reducible first | assumption | lift_lets -underBinder | apply Dev.semSettle_holds | apply Dev.semAbandon_holds | apply holds_ite | fail_if_no_progress (apply holds_upd <;> try rfl) | rfl | intro _ | split)

theorem execSemaphoreAbandoned_holds {kp : Keep} {s : State} (hk : s.dev.Holds kp) (hf : kp.flash = none) :
    ∃ d, execSemaphoreAbandoned s = s.next d ∧ d.Holds kp := by
  refine ⟨_, rfl, ?_⟩; repeat' (with_reducible first | assumption | apply Dev.semExpires_holds | apply State.dev_holds)

theorem execHolderBusIdle_holds {kp : Keep} {s : State} (hk : s.dev.Holds kp) (holder : Nat) :
    ∃ d, execHolderBusIdle holder s = s.next d ∧ d.Holds kp := by
  refine ⟨_, rfl, ?_⟩; repeat' (with_reducible first | assumption | apply Dev.semTimer_holds | apply State.dev_holds | apply holds_ite | intro _ | split)

theorem Dev.semFree_holds {kp : Keep} {d : Dev} (hk : d.Holds kp) : (d.semFree).Holds kp := by
  unfold Dev.semFree; repeat' (with_reducible first | assumption | refine holds_foldl (fun _ _ _ => ?_) _ ?_ | refine holds_foldl_snd (fun _ _ _ => ?_) _ ?_ | lift_lets -underBinder | (intro x; refine (fun (hx : Dev.Holds kp x) => ?_) ?_; on_goal 2 => unfold x) | apply Dev.complete_holds | apply Dev.semClear_holds | apply Dev.setQueue_holds | intro _ | dsimp +zetaDelta only)

theorem execCpxSemFree_holds {kp : Keep} {s : State} (hk : s.dev.Holds kp) (cal : Bool) :
    ∃ d, execCpxSemFree cal s = s.next d ∧ d.Holds kp := by
  refine ⟨_, rfl, ?_⟩; repeat' (with_reducible first | assumption | apply State.dev_holds | apply Dev.semFree_holds | apply Dev.ignoredWrite_holds | apply holds_ite | intro _ | split)

theorem execSetTemperatureThreshold_holds {kp : Keep} {s : State} (hk : s.dev.Holds kp) (hf : kp.flash = none) (id : CmdId) (sensor : Nat) (under : Bool) (kelvins : Nat) :
    ∃ d, execSetTemperatureThreshold id sensor under kelvins s = s.next d ∧ d.Holds kp := by
  refine ⟨_, rfl, ?_⟩; repeat' (with_reducible first | assumption | apply Dev.adminDo_holds | apply State.dev_holds | apply Dev.complete_holds | apply Dev.serialized_holds | apply holds_ite | intro _ | split)

theorem execSetErrorRecovery_holds {kp : Keep} {s : State} (hk : s.dev.Holds kp) (hf : kp.flash = none) (id : CmdId) (ns tler : Nat) (dulbe : Bool) :
    ∃ d, execSetErrorRecovery id ns tler dulbe s = s.next d ∧ d.Holds kp := by
  refine ⟨_, rfl, ?_⟩; repeat' (with_reducible first | assumption | apply Dev.adminDo_holds | apply State.dev_holds | apply Dev.complete_holds | apply Dev.serialized_holds | apply holds_ite | intro _ | split)

theorem execSetTimestamp_holds {kp : Keep} {s : State} (hk : s.dev.Holds kp) (hf : kp.flash = none) (id : CmdId) (ms : Nat) :
    ∃ d, execSetTimestamp id ms s = s.next d ∧ d.Holds kp := by
  refine ⟨_, rfl, ?_⟩; repeat' (with_reducible first | assumption | apply Dev.serialized_holds | apply State.dev_holds)

theorem Dev.fwPiece_holds {kp : Keep} {d : Dev} (hk : d.Holds kp) (id : CmdId) (ofs : Nat) (bs : List Byte) : (d.fwPiece id ofs bs).Holds kp := by
  unfold Dev.fwPiece; repeat' (with_reducible first | assumption | lift_lets -underBinder | apply Dev.complete_holds | apply Dev.onHost_holds | apply holds_ite | fail_if_no_progress (apply holds_upd <;> try rfl) | rfl | intro _ | split)

theorem execFirmwareImageDownload_holds {kp : Keep} {s : State} (hk : s.dev.Holds kp) (id : CmdId) (ofs : Nat) (bs : List Byte) :
    ∃ d, execFirmwareImageDownload id ofs bs s = s.next d ∧ d.Holds kp := by
  refine ⟨_, rfl, ?_⟩; repeat' (with_reducible first | assumption | apply Dev.adminDo_holds | apply State.dev_holds | apply Dev.sanGated_holds | apply Dev.fwPiece_holds | intro _)

theorem Dev.fwCommit_holds {kp : Keep} {d : Dev} (hk : d.Holds kp) (hf : kp.flash = none) (id : CmdId) (ca fs : Nat) (sig : Bool) (e : StoreEnd) : (d.fwCommit id ca fs sig e).Holds kp := by
  unfold Dev.fwCommit; repeat' (with_reducible first | assumption | apply Dev.adminDo_holds | apply Dev.sanGated_holds | apply Dev.semRequest_holds | intro _)

theorem execFirmwareCommitCa000_holds {kp : Keep} {s : State} (hk : s.dev.Holds kp) (hf : kp.flash = none) (id : CmdId) (fs : Nat) (sig : Bool) (e : StoreEnd) :
    ∃ d, execFirmwareCommitCa000 id fs sig e s = s.next d ∧ d.Holds kp := by
  refine ⟨_, rfl, ?_⟩; repeat' (with_reducible first | assumption | apply Dev.fwCommit_holds | apply State.dev_holds)

theorem execFirmwareCommitCa001_holds {kp : Keep} {s : State} (hk : s.dev.Holds kp) (hf : kp.flash = none) (id : CmdId) (fs : Nat) (sig : Bool) (e : StoreEnd) :
    ∃ d, execFirmwareCommitCa001 id fs sig e s = s.next d ∧ d.Holds kp := by
  refine ⟨_, rfl, ?_⟩; repeat' (with_reducible first | assumption | apply Dev.fwCommit_holds | apply State.dev_holds)

theorem execFirmwareCommitCa010_holds {kp : Keep} {s : State} (hk : s.dev.Holds kp) (hf : kp.flash = none) (id : CmdId) (fs : Nat) (sig : Bool) :
    ∃ d, execFirmwareCommitCa010 id fs sig s = s.next d ∧ d.Holds kp := by
  refine ⟨_, rfl, ?_⟩; repeat' (with_reducible first | assumption | apply Dev.fwCommit_holds | apply State.dev_holds)

theorem execFirmwareCommitCa011_holds {kp : Keep} {s : State} (hk : s.dev.Holds kp) (hf : kp.flash = none) (id : CmdId) (fs : Nat) (sig : Bool) (e : StoreEnd) :
    ∃ d, execFirmwareCommitCa011 id fs sig e s = s.next d ∧ d.Holds kp := by
  refine ⟨_, rfl, ?_⟩; repeat' (with_reducible first | assumption | apply Dev.fwCommit_holds | apply State.dev_holds)

theorem execActivationStep_holds {kp : Keep} {s : State} (hk : s.dev.Holds kp) (hf : kp.flash = none) :
    ∃ d, execActivationStep s = s.next d ∧ d.Holds kp := by
  refine ⟨_, rfl, ?_⟩; repeat' (with_reducible first | assumption | apply Dev.semSettle_holds | apply Dev.activationStep_holds | apply State.dev_holds)

theorem execFormatNvm_holds {kp : Keep} {s : State} (hk : s.dev.Holds kp) (hf : kp.flash = none) (id : CmdId) (lbaf ses : Nat) (layout : FormatLayout) :
    ∃ d, execFormatNvm id lbaf ses layout s = s.next d ∧ d.Holds kp := by
  refine ⟨_, rfl, ?_⟩; repeat' (with_reducible first | assumption | apply Dev.adminDo_holds | apply State.dev_holds | apply Dev.sanGated_holds | apply Dev.complete_holds | apply Dev.semRequest_holds | apply holds_ite | intro _ | split)

theorem Dev.sanitizeDo_holds {kp : Keep} {d : Dev} (hk : d.Holds kp) (hf : kp.flash = none) (id : CmdId) (op : SemOp) : (d.sanitizeDo id op).Holds kp := by
  unfold Dev.sanitizeDo; repeat' (with_reducible first | assumption | apply Dev.adminDo_holds | apply Dev.complete_holds | apply Dev.semRequest_holds | apply holds_ite | intro _ | split)

theorem execSanitizeExitFailureMode_holds {kp : Keep} {s : State} (hk : s.dev.Holds kp) (hf : kp.flash = none) (id : CmdId) :
    ∃ d, execSanitizeExitFailureMode id s = s.next d ∧ d.Holds kp := by
  refine ⟨_, rfl, ?_⟩; repeat' (with_reducible first | assumption | apply Dev.sanitizeDo_holds | apply State.dev_holds)

theorem execSanitizeOverwrite_holds {kp : Keep} {s : State} (hk : s.dev.Holds kp) (hf : kp.flash = none) (id : CmdId) (owpass : Nat) (ovrpat : Word) (oipbp ause fails : Bool) :
    ∃ d, execSanitizeOverwrite id owpass ovrpat oipbp ause fails s = s.next d ∧ d.Holds kp := by
  refine ⟨_, rfl, ?_⟩; repeat' (with_reducible first | assumption | apply Dev.sanitizeDo_holds | apply State.dev_holds | apply holds_ite | intro _ | split)

theorem execSanitizeCryptoErase_holds {kp : Keep} {s : State} (hk : s.dev.Holds kp) (hf : kp.flash = none) (id : CmdId) (ause fails : Bool) :
    ∃ d, execSanitizeCryptoErase id ause fails s = s.next d ∧ d.Holds kp := by
  refine ⟨_, rfl, ?_⟩; repeat' (with_reducible first | assumption | apply Dev.sanitizeDo_holds | apply State.dev_holds)

end Sys2Proof.Machine
end

