-- ==== Sys2Proof/Laws/Holds/Supply.lean ====
section
/-! SUPPORT. The operations of Machine/Supply.lean carry `Dev.Holds`. -/

namespace Sys2Proof.Machine

set_option linter.unusedTactic false
set_option linter.unreachableTactic false

theorem Dev.onPd_holds {kp : Keep} {d : Dev} (hk : d.Holds kp) (g : PowerDie → PowerDie) : (d.onPd g).Holds kp := by
  unfold Dev.onPd; repeat' (with_reducible first | assumption | lift_lets -underBinder | fail_if_no_progress (apply holds_upd <;> try rfl) | rfl | intro _)

theorem Dev.resetFile_wf (d : Dev) : swf 0 d.resetFile = true := by
  have H : ∀ (l : List Nat) (m : List (Nat × Word)), swf 0 m = true → swf 0 (l.foldl (fun m x => sset 0 m x (d.reg x)) m) = true := by
    intro l
    induction l with
    | nil => intro m h; exact h
    | cons x l ih => intro m h; exact ih _ (swf_sset h _ _)
  unfold Dev.resetFile
  exact swf_sset (swf_sset (H keptRegs resetRegs (by decide)) _ _) _ _

theorem NvDie.cutOp_wf {n : NvDie} (h : swf erasedWord n.flash = true) (b op k : Nat) : swf erasedWord (n.cutOp b op k).flash = true := by
  unfold NvDie.cutOp
  split
  · exact NvDie.spoilSector_wf h _
  · split
    · exact NvDie.setWord_wf h _ _
    · exact h

theorem resetPreamp_wf : swf 0 resetPreamp = true := by decide

theorem Dev.dieReset_regs (d : Dev) : d.dieReset.regs = d.resetFile := by unfold Dev.dieReset; dsimp only
theorem Dev.dieReset_variant (d : Dev) : d.dieReset.variant = d.variant := by unfold Dev.dieReset Dev.fresh; dsimp only
theorem Dev.dieReset_done (d : Dev) : d.dieReset.completions = d.completions := by unfold Dev.dieReset; dsimp only
theorem Dev.dieReset_preamp (d : Dev) : d.dieReset.preamp = ⟨resetPreamp, resetPreamp⟩ := rfl
theorem Dev.dieReset_mem (d : Dev) : d.dieReset.mem = Memories.fresh := rfl
theorem Dev.dieReset_flash (d : Dev) :
    d.dieReset.nv.flash = ((d.nv.cutOp 0 (d.flOp 0) d.free).cutOp 1 (d.flOp 1) (d.free + 1)).flash := rfl
theorem Dev.dieReset_recs (d : Dev) : d.dieReset.media.recs = d.media.recs := rfl
theorem Dev.dieReset_hbRecs (d : Dev) : d.dieReset.hb.recs = d.hb.recs := rfl
theorem Dev.dieReset_hbFull (d : Dev) : d.dieReset.hb.full = d.hb.full := rfl
theorem Dev.dieReset_hbQueue (d : Dev) : d.dieReset.hb.queue = [] := rfl
theorem Dev.dieReset_units (d : Dev) : d.dieReset.units = Units.fresh := rfl
theorem Dev.dieReset_wseq (d : Dev) : d.dieReset.media.wseq = d.media.wseq := rfl
theorem Dev.dieReset_sent (d : Dev) : d.dieReset.mpi.sent = d.mpi.sent := rfl

theorem Dev.dieReset_sound {d : Dev} (h : d.Sound) : d.dieReset.Sound := by
  obtain ⟨s1, s2, s3, s4, s5, s6, s7, s8⟩ := h
  constructor
  case regs => rw [Dev.dieReset_regs]; exact Dev.resetFile_wf d
  case pa0 => rw [Dev.dieReset_preamp]; exact resetPreamp_wf
  case pa1 => rw [Dev.dieReset_preamp]; exact resetPreamp_wf
  case mem => rw [Dev.dieReset_mem]; rfl
  case flash => rw [Dev.dieReset_flash]; exact NvDie.cutOp_wf (NvDie.cutOp_wf s5 0 (d.flOp 0) d.free) 1 (d.flOp 1) (d.free + 1)
  case recs => rw [Dev.dieReset_recs]; exact s6
  case hb =>
    simp only [Hatband.bounded, Bool.and_eq_true, decide_eq_true_eq] at s7 ⊢
    rw [Dev.dieReset_hbRecs, Dev.dieReset_hbFull, Dev.dieReset_hbQueue]
    exact ⟨s7.1, Nat.zero_le _⟩
  case units => rw [Dev.dieReset_units]; rfl

theorem Dev.dieReset_holds {kp : Keep} {d : Dev} (hk : d.Holds kp) (hc : kp.cells = none) (hf : kp.flash = none) : d.dieReset.Holds kp := by
  constructor
  case sound => exact Dev.dieReset_sound hk.sound
  case variant => rw [Dev.dieReset_variant]; exact hk.variant
  case cells => intro x hx; rw [hc] at hx; cases hx
  case flash => intro x hx; rw [hf] at hx; cases hx
  case recs => rw [Dev.dieReset_recs]; exact hk.recs
  case wseq => rw [Dev.dieReset_wseq]; exact hk.wseq
  case done => rw [Dev.dieReset_done]; exact hk.done
  case sent => rw [Dev.dieReset_sent]; exact hk.sent

theorem Dev.holdReset_holds {kp : Keep} {d : Dev} (hk : d.Holds kp) (hc : kp.cells = none) (hf : kp.flash = none) : (d.holdReset).Holds kp := by
  unfold Dev.holdReset; repeat' (with_reducible first | assumption | lift_lets -underBinder | apply Dev.setF_holds | apply Dev.onPd_holds | apply Dev.dieReset_holds | fail_if_no_progress (apply holds_upd <;> try rfl) | rfl | intro _)

theorem Dev.showReason_holds {kp : Keep} {d : Dev} (hk : d.Holds kp) : (d.showReason).Holds kp := by
  unfold Dev.showReason; repeat' (with_reducible first | assumption | lift_lets -underBinder | (intro x; refine (fun (hx : Dev.Holds kp x) => ?_) ?_; on_goal 2 => unfold x) | apply Dev.setF_holds | intro _ | dsimp +zetaDelta only)

theorem Dev.vaultTick_holds {kp : Keep} {d : Dev} (hk : d.Holds kp) : (d.vaultTick).Holds kp := by
  unfold Dev.vaultTick; repeat' (with_reducible first | assumption | lift_lets -underBinder | (intro x; refine (fun (hx : Dev.Holds kp x) => ?_) ?_; on_goal 2 => unfold x) | apply Dev.showReason_holds | apply Dev.setF_holds | apply holds_ite | intro _ | split | dsimp +zetaDelta only)

theorem Dev.vaultArm_holds {kp : Keep} {d : Dev} (hk : d.Holds kp) : (d.vaultArm).Holds kp := by
  unfold Dev.vaultArm; repeat' (with_reducible first | assumption | lift_lets -underBinder | (intro x; refine (fun (hx : Dev.Holds kp x) => ?_) ?_; on_goal 2 => unfold x) | apply Dev.vaultTick_holds | apply Dev.onHost_holds | apply Dev.setF_holds | apply holds_ite | fail_if_no_progress (apply holds_upd <;> try rfl) | rfl | intro _ | split | dsimp +zetaDelta only)

theorem execVaultArm_holds {kp : Keep} {s : State} (hk : s.dev.Holds kp) :
    ∃ d, execVaultArm s = s.next d ∧ d.Holds kp := by
  refine ⟨_, rfl, ?_⟩; repeat' (with_reducible first | assumption | apply Dev.vaultArm_holds | apply State.dev_holds)

theorem Dev.vaultSick_holds {kp : Keep} {d : Dev} (hk : d.Holds kp) : (d.vaultSick).Holds kp := by
  unfold Dev.vaultSick; repeat' (with_reducible first | assumption | lift_lets -underBinder | apply Dev.raiseAll_holds | apply Dev.onHost_holds | apply holds_ite | fail_if_no_progress (apply holds_upd <;> try rfl) | rfl | intro _ | split)

theorem execVaultUnhealthy_holds {kp : Keep} {s : State} (hk : s.dev.Holds kp) :
    ∃ d, execVaultUnhealthy s = s.next d ∧ d.Holds kp := by
  refine ⟨_, rfl, ?_⟩; repeat' (with_reducible first | assumption | apply Dev.vaultSick_holds | apply State.dev_holds)

theorem Dev.powerLoss_holds {kp : Keep} {d : Dev} (hk : d.Holds kp) : (d.powerLoss).Holds kp := by
  unfold Dev.powerLoss; repeat' (with_reducible first | assumption | lift_lets -underBinder | (intro x; refine (fun (hx : Dev.Holds kp x) => ?_) ?_; on_goal 2 => unfold x) | apply Dev.driveOff_holds | apply Dev.retract_holds | apply Dev.onPd_holds | apply holds_ite | fail_if_no_progress (apply holds_upd <;> try rfl) | rfl | intro _ | split | dsimp +zetaDelta only)

theorem Dev.supplyDrop_holds {kp : Keep} {d : Dev} (hk : d.Holds kp) (hc : kp.cells = none) (hf : kp.flash = none) (cause : Nat) (v12 v5 core : Bool) : (d.supplyDrop cause v12 v5 core).Holds kp := by
  unfold Dev.supplyDrop; repeat' (with_reducible first | assumption | lift_lets -underBinder | (intro x; refine (fun (hx : Dev.Holds kp x) => ?_) ?_; on_goal 2 => unfold x) | apply Dev.setF_holds | apply Dev.holdReset_holds | apply Dev.powerLoss_holds | apply holds_ite | intro _ | split | dsimp +zetaDelta only)

theorem execSupplyDrop_holds {kp : Keep} {s : State} (hk : s.dev.Holds kp) (hc : kp.cells = none) (hf : kp.flash = none) (v12 v5 core : Bool) :
    ∃ d, execSupplyDrop v12 v5 core s = s.next d ∧ d.Holds kp := by
  refine ⟨_, rfl, ?_⟩; repeat' (with_reducible first | assumption | apply Dev.supplyDrop_holds | apply State.dev_holds | apply holds_ite | intro _ | split)

theorem execPwrdis_holds {kp : Keep} {s : State} (hk : s.dev.Holds kp) (hc : kp.cells = none) (hf : kp.flash = none) :
    ∃ d, execPwrdis s = s.next d ∧ d.Holds kp := by
  refine ⟨_, rfl, ?_⟩; repeat' (with_reducible first | assumption | apply State.dev_holds | apply Dev.supplyDrop_holds | apply holds_ite | intro _ | split)

theorem Dev.openVault_holds {kp : Keep} {d : Dev} (hk : d.Holds kp) : (d.openVault).Holds kp := by
  unfold Dev.openVault; repeat' (with_reducible first | assumption | lift_lets -underBinder | fail_if_no_progress (apply holds_upd <;> try rfl) | rfl | intro _)

theorem Dev.failSteps_holds {kp : Keep} {d : Dev} (hk : d.Holds kp) (hc : kp.cells = none) : (d.failSteps).Holds kp := by
  unfold Dev.failSteps; repeat' (with_reducible first | assumption | refine holds_foldl (fun _ _ _ => ?_) _ ?_ | refine holds_foldl_snd (fun _ _ _ => ?_) _ ?_ | lift_lets -underBinder | (intro x; refine (fun (hx : Dev.Holds kp x) => ?_) ?_; on_goal 2 => unfold x) | apply Dev.inhibit_holds | apply Dev.drainAll_holds | apply Dev.dropWrites_holds | apply Dev.onHost_holds | apply Dev.onCtrl_holds | apply Dev.setDomOn_holds | apply holds_ite | fail_if_no_progress (apply holds_upd <;> try rfl) | rfl | intro _ | split | dsimp +zetaDelta only)

theorem Dev.powerFail_holds {kp : Keep} {d : Dev} (hk : d.Holds kp) (hc : kp.cells = none) (hf : kp.flash = none) : (d.powerFail).Holds kp := by
  unfold Dev.powerFail; repeat' (with_reducible first | assumption | lift_lets -underBinder | (intro x; refine (fun (hx : Dev.Holds kp x) => ?_) ?_; on_goal 2 => unfold x) | apply Dev.failSteps_holds | apply Dev.onPd_holds | apply Dev.setF_holds | apply Dev.openVault_holds | apply Dev.holdReset_holds | apply holds_ite | fail_if_no_progress (apply holds_upd <;> try rfl) | rfl | intro _ | split | dsimp +zetaDelta only)

theorem execPowerFail_holds {kp : Keep} {s : State} (hk : s.dev.Holds kp) (hc : kp.cells = none) (hf : kp.flash = none) :
    ∃ d, execPowerFail s = s.next d ∧ d.Holds kp := by
  refine ⟨_, rfl, ?_⟩; repeat' (with_reducible first | assumption | apply Dev.powerFail_holds | apply State.dev_holds)

theorem Dev.sealVault_holds {kp : Keep} {d : Dev} (hk : d.Holds kp) (ms mj : Nat) : (d.sealVault ms mj).Holds kp := by
  unfold Dev.sealVault; repeat' (with_reducible first | assumption | lift_lets -underBinder | (intro x; refine (fun (hx : Dev.Holds kp x) => ?_) ?_; on_goal 2 => unfold x) | apply Dev.setF_holds | fail_if_no_progress (apply holds_upd <;> try rfl) | rfl | intro _ | dsimp +zetaDelta only)

theorem execVaultSeal_holds {kp : Keep} {s : State} (hk : s.dev.Holds kp) (hc : kp.cells = none) (hf : kp.flash = none) (ms mj : Nat) :
    ∃ d, execVaultSeal ms mj s = s.next d ∧ d.Holds kp := by
  refine ⟨_, rfl, ?_⟩; repeat' (with_reducible first | assumption | apply State.dev_holds | apply Dev.holdReset_holds | apply Dev.sealVault_holds | apply holds_ite | intro _ | split)

theorem Dev.vholdLost_holds {kp : Keep} {d : Dev} (hk : d.Holds kp) (hc : kp.cells = none) (hf : kp.flash = none) : (d.vholdLost).Holds kp := by
  unfold Dev.vholdLost; repeat' (with_reducible first | assumption | lift_lets -underBinder | (intro x; refine (fun (hx : Dev.Holds kp x) => ?_) ?_; on_goal 2 => unfold x) | apply Dev.setF_holds | apply Dev.holdReset_holds | apply holds_ite | intro _ | split | dsimp +zetaDelta only)

theorem execVholdLost_holds {kp : Keep} {s : State} (hk : s.dev.Holds kp) (hc : kp.cells = none) (hf : kp.flash = none) :
    ∃ d, execVholdLost s = s.next d ∧ d.Holds kp := by
  refine ⟨_, rfl, ?_⟩; repeat' (with_reducible first | assumption | apply Dev.vholdLost_holds | apply State.dev_holds)

theorem Dev.supplyGood_holds {kp : Keep} {d : Dev} (hk : d.Holds kp) (v12 v5 : Bool) : (d.supplyGood v12 v5).Holds kp := by
  unfold Dev.supplyGood; repeat' (with_reducible first | assumption | lift_lets -underBinder | (intro x; refine (fun (hx : Dev.Holds kp x) => ?_) ?_; on_goal 2 => unfold x) | apply Dev.setF_holds | apply Dev.tryStart_holds | apply holds_ite | intro _ | split | dsimp +zetaDelta only)

theorem execSupplyGood_holds {kp : Keep} {s : State} (hk : s.dev.Holds kp) (v12 v5 : Bool) :
    ∃ d, execSupplyGood v12 v5 s = s.next d ∧ d.Holds kp := by
  refine ⟨_, rfl, ?_⟩; repeat' (with_reducible first | assumption | apply Dev.supplyGood_holds | apply State.dev_holds)

theorem Dev.powerAgain_holds {kp : Keep} {d : Dev} (hk : d.Holds kp) (hc : kp.cells = none) (hf : kp.flash = none) : (d.powerAgain).Holds kp := by
  unfold Dev.powerAgain; repeat' (with_reducible first | assumption | lift_lets -underBinder | (intro x; refine (fun (hx : Dev.Holds kp x) => ?_) ?_; on_goal 2 => unfold x) | apply Dev.onPd_holds | apply Dev.dieReset_holds | apply Dev.setF_holds | apply holds_ite | fail_if_no_progress (apply holds_upd <;> try rfl) | rfl | intro _ | split | dsimp +zetaDelta only)

theorem execSuppliesGood100Ms_holds {kp : Keep} {s : State} (hk : s.dev.Holds kp) (hc : kp.cells = none) (hf : kp.flash = none) :
    ∃ d, execSuppliesGood100Ms s = s.next d ∧ d.Holds kp := by
  refine ⟨_, rfl, ?_⟩; repeat' (with_reducible first | assumption | apply Dev.powerAgain_holds | apply State.dev_holds)

theorem Dev.outputShort_holds {kp : Keep} {d : Dev} (hk : d.Holds kp) (n : Nat) : (d.outputShort n).Holds kp := by
  unfold Dev.outputShort; repeat' (with_reducible first | assumption | lift_lets -underBinder | (intro x; refine (fun (hx : Dev.Holds kp x) => ?_) ?_; on_goal 2 => unfold x) | apply Dev.onPd_holds | apply Dev.reportFault_holds | apply Dev.driveOff_holds | apply holds_ite | fail_if_no_progress (apply holds_upd <;> try rfl) | rfl | intro _ | split | dsimp +zetaDelta only)

theorem execMotorOutputShort_holds {kp : Keep} {s : State} (hk : s.dev.Holds kp) (output : Nat) :
    ∃ d, execMotorOutputShort output s = s.next d ∧ d.Holds kp := by
  refine ⟨_, rfl, ?_⟩; repeat' (with_reducible first | assumption | apply Dev.outputShort_holds | apply State.dev_holds | apply holds_ite | intro _ | split)

end Sys2Proof.Machine
end

