-- ==== Sys2Proof/Laws/Holds/Faults.lean ====
section
/-! SUPPORT. The operations of Machine/Faults.lean carry `Dev.Holds`. -/

namespace Sys2Proof.Machine

set_option linter.unusedTactic false
set_option linter.unreachableTactic false

theorem Dev.onFmg_holds {kp : Keep} {d : Dev} (hk : d.Holds kp) (g : FaultMgr → FaultMgr) : (d.onFmg g).Holds kp := by
  unfold Dev.onFmg; repeat' (with_reducible first | assumption | lift_lets -underBinder | fail_if_no_progress (apply holds_upd <;> try rfl) | rfl | intro _)

theorem Dev.countFault_holds {kp : Keep} {d : Dev} (hk : d.Holds kp) (u : FUnit) (cause : Nat) : (d.countFault u cause).Holds kp := by
  unfold Dev.countFault; repeat' (with_reducible first | assumption | lift_lets -underBinder | (intro x; refine (fun (hx : Dev.Holds kp x) => ?_) ?_; on_goal 2 => unfold x) | apply Dev.bumpF_holds | apply Dev.setF_holds | apply Dev.event_holds | apply Dev.onFmg_holds | apply holds_ite | fail_if_no_progress (apply holds_upd <;> try rfl) | rfl | intro _ | split | dsimp +zetaDelta only)

theorem Dev.recover_holds {kp : Keep} {d : Dev} (hk : d.Holds kp) (u : FUnit) : (d.recover u).Holds kp := by
  unfold Dev.recover; repeat' (with_reducible first | assumption | lift_lets -underBinder | apply Dev.onFmg_holds | fail_if_no_progress (apply holds_upd <;> try rfl) | rfl | intro _)

theorem Dev.markFailed_holds {kp : Keep} {d : Dev} (hk : d.Holds kp) (u : FUnit) : (d.markFailed u).Holds kp := by
  unfold Dev.markFailed; repeat' (with_reducible first | assumption | lift_lets -underBinder | (intro x; refine (fun (hx : Dev.Holds kp x) => ?_) ?_; on_goal 2 => unfold x) | apply Dev.onFmg_holds | apply Dev.setF_holds | apply Dev.raiseAll_holds | apply holds_ite | fail_if_no_progress (apply holds_upd <;> try rfl) | rfl | intro _ | split | dsimp +zetaDelta only)

theorem Dev.endIo_holds {kp : Keep} {d : Dev} (hk : d.Holds kp) : (d.endIo).Holds kp := by
  unfold Dev.endIo; repeat' (with_reducible first | assumption | refine holds_foldl (fun _ _ _ => ?_) _ ?_ | refine holds_foldl_snd (fun _ _ _ => ?_) _ ?_ | lift_lets -underBinder | (intro x; refine (fun (hx : Dev.Holds kp x) => ?_) ?_; on_goal 2 => unfold x) | apply Dev.withdrawReads_holds | apply Dev.dropWrites_holds | apply Dev.completeFull_holds | intro _ | dsimp +zetaDelta only)

theorem Dev.loseMedia_holds {kp : Keep} {d : Dev} (hk : d.Holds kp) : (d.loseMedia).Holds kp := by
  unfold Dev.loseMedia; repeat' (with_reducible first | assumption | lift_lets -underBinder | (intro x; refine (fun (hx : Dev.Holds kp x) => ?_) ?_; on_goal 2 => unfold x) | apply Dev.endIo_holds | apply Dev.unloadAll_holds | apply Dev.onFmg_holds | apply Dev.setF_holds | apply holds_ite | fail_if_no_progress (apply holds_upd <;> try rfl) | rfl | intro _ | split | dsimp +zetaDelta only)

theorem Dev.endsAt7_holds {kp : Keep} {d : Dev} (hk : d.Holds kp) (a : Act) (r : LadderRec) : (d.endsAt7 a r).Holds kp := by
  unfold Dev.endsAt7; repeat' (with_reducible first | assumption | lift_lets -underBinder | (intro x; refine (fun (hx : Dev.Holds kp x) => ?_) ?_; on_goal 2 => unfold x) | apply Dev.onDet_holds | apply Dev.enterRung_holds | apply Dev.unrecovered_holds | apply holds_ite | fail_if_no_progress (apply holds_upd <;> try rfl) | rfl | intro _ | split | dsimp +zetaDelta only)

theorem Dev.dropActuator_holds {kp : Keep} {d : Dev} (hk : d.Holds kp) (a : Act) : (d.dropActuator a).Holds kp := by
  unfold Dev.dropActuator; repeat' (with_reducible first | assumption | refine holds_foldl (fun _ _ _ => ?_) _ ?_ | refine holds_foldl_snd (fun _ _ _ => ?_) _ ?_ | lift_lets -underBinder | (intro x; refine (fun (hx : Dev.Holds kp x) => ?_) ?_; on_goal 2 => unfold x) | apply Dev.onBlk_holds | apply Dev.onDet_holds | apply Dev.endsAt7_holds | fail_if_no_progress (apply holds_upd <;> try rfl) | rfl | intro _ | split | dsimp +zetaDelta only)

theorem Dev.failActuator_holds {kp : Keep} {d : Dev} (hk : d.Holds kp) (hr : kp.recs = none) (a : Act) : (d.failActuator a).Holds kp := by
  unfold Dev.failActuator; repeat' (with_reducible first | assumption | refine holds_foldl (fun _ _ _ => ?_) _ ?_ | refine holds_foldl_snd (fun _ _ _ => ?_) _ ?_ | lift_lets -underBinder | (intro x; refine (fun (hx : Dev.Holds kp x) => ?_) ?_; on_goal 2 => unfold x) | apply Dev.emergencyPark_holds | apply Dev.unload_holds | apply Dev.onFmg_holds | apply Dev.headFailing_holds | apply Dev.settle_holds | apply Dev.dropActuator_holds | apply Dev.loseMedia_holds | apply holds_ite | fail_if_no_progress (apply holds_upd <;> try rfl) | rfl | intro _ | split | dsimp +zetaDelta only)

theorem Dev.restartSave_holds {kp : Keep} {d : Dev} (hk : d.Holds kp) (hc : kp.cells = none) : (d.restartSave).Holds kp := by
  unfold Dev.restartSave; repeat' (with_reducible first | assumption | lift_lets -underBinder | (intro x; refine (fun (hx : Dev.Holds kp x) => ?_) ?_; on_goal 2 => unfold x) | apply Dev.openVault_holds | apply Dev.failSteps_holds | apply Dev.tookFree_holds | apply Dev.sealVault_holds | apply holds_ite | intro _ | split | dsimp +zetaDelta only)

theorem Dev.moduleRestart_holds {kp : Keep} {d : Dev} (hk : d.Holds kp) (hc : kp.cells = none) (hf : kp.flash = none) (cause : Nat) : (d.moduleRestart cause).Holds kp := by
  unfold Dev.moduleRestart; repeat' (with_reducible first | assumption | lift_lets -underBinder | (intro x; refine (fun (hx : Dev.Holds kp x) => ?_) ?_; on_goal 2 => unfold x) | apply Dev.dieReset_holds | apply Dev.restartSave_holds | apply Dev.retract_holds | apply Dev.setF_holds | apply Dev.onFmg_holds | apply holds_ite | fail_if_no_progress (apply holds_upd <;> try rfl) | rfl | intro _ | split | dsimp +zetaDelta only)

theorem Dev.countedReset_holds {kp : Keep} {d : Dev} (hk : d.Holds kp) (b : Block) : (d.countedReset b).Holds kp := by
  unfold Dev.countedReset; repeat' (with_reducible first | assumption | apply Dev.bumpF_holds | apply Dev.resetUnit_holds)

theorem Dev.servoFault_holds {kp : Keep} {d : Dev} (hk : d.Holds kp) (a : Act) : (d.servoFault a).Holds kp := by
  unfold Dev.servoFault; repeat' (with_reducible first | assumption | lift_lets -underBinder | (intro x; refine (fun (hx : Dev.Holds kp x) => ?_) ?_; on_goal 2 => unfold x) | apply Dev.emergencyPark_holds | apply Dev.recover_holds | apply Dev.restartEngine_holds | apply Dev.unload_holds | apply holds_ite | intro _ | split | dsimp +zetaDelta only)

theorem Dev.restoreRecords_holds {kp : Keep} {d : Dev} (hk : d.Holds kp) (a : Act) : (d.restoreRecords a).Holds kp := by
  unfold Dev.restoreRecords; repeat' (with_reducible first | assumption | lift_lets -underBinder | (intro x; refine (fun (hx : Dev.Holds kp x) => ?_) ?_; on_goal 2 => unfold x) | apply Dev.onAssist_holds | apply Dev.onWr_holds | apply Dev.onChn_holds | apply Dev.copyRecords_holds | fail_if_no_progress (apply holds_upd <;> try rfl) | rfl | intro _ | split | dsimp +zetaDelta only)

theorem Dev.restartCore_holds {kp : Keep} {d : Dev} (hk : d.Holds kp) (n : Fin 4) : (d.restartCore n).Holds kp := by
  unfold Dev.restartCore; repeat' (with_reducible first | assumption | lift_lets -underBinder | (intro x; refine (fun (hx : Dev.Holds kp x) => ?_) ?_; on_goal 2 => unfold x) | apply Dev.bumpF_holds | apply Dev.resetUnit_holds | apply Dev.recover_holds | apply Dev.setF_holds | intro _ | dsimp +zetaDelta only)

theorem Dev.activationFault_holds {kp : Keep} {d : Dev} (hk : d.Holds kp) (hf : kp.flash = none) : (d.activationFault).Holds kp := by
  unfold Dev.activationFault; repeat' (with_reducible first | assumption | lift_lets -underBinder | (intro x; refine (fun (hx : Dev.Holds kp x) => ?_) ?_; on_goal 2 => unfold x) | apply Dev.onCpx_holds | apply Dev.semSettle_holds | apply Dev.semEnd_holds | apply Dev.complete_holds | apply holds_ite | fail_if_no_progress (apply holds_upd <;> try rfl) | rfl | intro _ | split | dsimp +zetaDelta only)

theorem Dev.complexFault_holds {kp : Keep} {d : Dev} (hk : d.Holds kp) (hc : kp.cells = none) (hf : kp.flash = none) (c : Cpx) (cause stall : Nat) : (d.complexFault c cause stall).Holds kp := by
  unfold Dev.complexFault; repeat' (with_reducible first | assumption | lift_lets -underBinder | (intro x; refine (fun (hx : Dev.Holds kp x) => ?_) ?_; on_goal 2 => unfold x) | apply Dev.onCpx_holds | apply Dev.bumpF_holds | apply Dev.takeover_holds | apply Dev.activationFault_holds | apply Dev.moduleRestart_holds | apply holds_ite | fail_if_no_progress (apply holds_upd <;> try rfl) | rfl | intro _ | split | dsimp +zetaDelta only)

theorem Dev.faultAction_holds {kp : Keep} {d : Dev} (hk : d.Holds kp) (hc : kp.cells = none) (hf : kp.flash = none) (hr : kp.recs = none) (u : FUnit) (cause : Nat) (own : Bool) (stall : Nat) : (d.faultAction u cause own stall).Holds kp := by
  unfold Dev.faultAction; repeat' (with_reducible first | assumption | lift_lets -underBinder | (intro x; refine (fun (hx : Dev.Holds kp x) => ?_) ?_; on_goal 2 => unfold x) | apply Dev.failActuator_holds | apply Dev.servoFault_holds | apply Dev.bumpF_holds | apply Dev.reloadBlocker_holds | apply Dev.restoreRecords_holds | apply Dev.setF_holds | apply Dev.driveOff_holds | apply Dev.loseMedia_holds | apply Dev.restartCore_holds | apply Dev.complexFault_holds | apply Dev.countedReset_holds | apply Dev.crownClear_holds | apply Dev.recover_holds | apply Dev.moduleRestart_holds | apply holds_ite | fail_if_no_progress (apply holds_upd <;> try rfl) | rfl | intro _ | split | dsimp +zetaDelta only)

theorem Dev.failureAction_holds {kp : Keep} {d : Dev} (hk : d.Holds kp) (hc : kp.cells = none) (hf : kp.flash = none) (hr : kp.recs = none) (u : FUnit) (cause stall : Nat) : (d.failureAction u cause stall).Holds kp := by
  unfold Dev.failureAction; repeat' (with_reducible first | assumption | lift_lets -underBinder | (intro x; refine (fun (hx : Dev.Holds kp x) => ?_) ?_; on_goal 2 => unfold x) | apply Dev.reportFault_holds | apply Dev.failActuator_holds | apply Dev.headFailing_holds | apply Dev.loseMedia_holds | apply Dev.setF_holds | apply Dev.driveOff_holds | apply Dev.setResetting_holds | apply Dev.moduleRestart_holds | apply Dev.complexFault_holds | apply holds_ite | fail_if_no_progress (apply holds_upd <;> try rfl) | rfl | intro _ | split | dsimp +zetaDelta only)

theorem Dev.takeFault_holds {kp : Keep} {d : Dev} (hk : d.Holds kp) (hc : kp.cells = none) (hf : kp.flash = none) (hr : kp.recs = none) (u : FUnit) (cause : Nat) (own : Bool) (stall : Nat) : (d.takeFault u cause own stall).Holds kp := by
  unfold Dev.takeFault; repeat' (with_reducible first | assumption | lift_lets -underBinder | (intro x; refine (fun (hx : Dev.Holds kp x) => ?_) ?_; on_goal 2 => unfold x) | apply Dev.countFault_holds | apply Dev.failureAction_holds | apply Dev.markFailed_holds | apply Dev.faultAction_holds | apply holds_ite | intro _ | split | dsimp +zetaDelta only)

theorem Dev.fault_holds {kp : Keep} {d : Dev} (hk : d.Holds kp) (hc : kp.cells = none) (hf : kp.flash = none) (hr : kp.recs = none) (ext : Option (FUnit × Nat)) (stall : Nat) : (d.fault ext stall).Holds kp := by
  unfold Dev.fault; repeat' (with_reducible first | assumption | lift_lets -underBinder | apply Dev.takeFault_holds | apply Dev.onFmg_holds | apply holds_ite | fail_if_no_progress (apply holds_upd <;> try rfl) | rfl | intro _ | split)

theorem execFault_holds {kp : Keep} {s : State} (hk : s.dev.Holds kp) (hc : kp.cells = none) (hf : kp.flash = none) (hr : kp.recs = none) (ext : Option (FUnit × Nat)) (stall : Nat) :
    ∃ d, execFault ext stall s = s.next d ∧ d.Holds kp := by
  refine ⟨_, rfl, ?_⟩; repeat' (with_reducible first | assumption | apply Dev.fault_holds | apply State.dev_holds)

theorem execCoreWatchdog_holds {kp : Keep} {s : State} (hk : s.dev.Holds kp) (hc : kp.cells = none) (hf : kp.flash = none) (hr : kp.recs = none) (n : Fin 4) :
    ∃ d, execCoreWatchdog n s = s.next d ∧ d.Holds kp := by
  refine ⟨_, rfl, ?_⟩; repeat' (with_reducible first | assumption | apply Dev.takeFault_holds | apply State.dev_holds)

theorem execComplexWatchdog_holds {kp : Keep} {s : State} (hk : s.dev.Holds kp) (hc : kp.cells = none) (hf : kp.flash = none) (hr : kp.recs = none) (c : Cpx) (stall : Nat) :
    ∃ d, execComplexWatchdog c stall s = s.next d ∧ d.Holds kp := by
  refine ⟨_, rfl, ?_⟩; repeat' (with_reducible first | assumption | apply State.dev_holds | apply Dev.takeFault_holds | apply holds_ite | intro _ | split)

theorem execBlockerWatchdog_holds {kp : Keep} {s : State} (hk : s.dev.Holds kp) (hc : kp.cells = none) (hf : kp.flash = none) (hr : kp.recs = none) (a : Act) :
    ∃ d, execBlockerWatchdog a s = s.next d ∧ d.Holds kp := by
  refine ⟨_, rfl, ?_⟩; repeat' (with_reducible first | assumption | apply State.dev_holds | apply Dev.takeFault_holds | apply holds_ite | intro _ | split)

theorem execModuleWatchdog_holds {kp : Keep} {s : State} (hk : s.dev.Holds kp) (hc : kp.cells = none) (hf : kp.flash = none) :
    ∃ d, execModuleWatchdog s = s.next d ∧ d.Holds kp := by
  refine ⟨_, rfl, ?_⟩; repeat' (with_reducible first | assumption | lift_lets -underBinder | apply State.dev_holds | apply Dev.onFmg_holds | apply Dev.moduleRestart_holds | apply holds_ite | fail_if_no_progress (apply holds_upd <;> try rfl) | rfl | intro _ | split)

theorem Dev.kick_holds {kp : Keep} {d : Dev} (hk : d.Holds kp) : (d.kick).Holds kp := by
  unfold Dev.kick; repeat' (with_reducible first | assumption | lift_lets -underBinder | apply Dev.onFmg_holds | fail_if_no_progress (apply holds_upd <;> try rfl) | rfl | intro _)

theorem execFmgKick_holds {kp : Keep} {s : State} (hk : s.dev.Holds kp) :
    ∃ d, execFmgKick s = s.next d ∧ d.Holds kp := by
  refine ⟨_, rfl, ?_⟩; repeat' (with_reducible first | assumption | apply Dev.kick_holds | apply State.dev_holds)

theorem Dev.readyLimit_holds {kp : Keep} {d : Dev} (hk : d.Holds kp) (hc : kp.cells = none) (hf : kp.flash = none) (hr : kp.recs = none) (u : UnitId) : (d.readyLimit u).Holds kp := by
  unfold Dev.readyLimit; repeat' (with_reducible first | assumption | lift_lets -underBinder | apply Dev.takeFault_holds | apply Dev.onFmg_holds | apply holds_ite | fail_if_no_progress (apply holds_upd <;> try rfl) | rfl | intro _ | split)

theorem execReadyLimitExpired_holds {kp : Keep} {s : State} (hk : s.dev.Holds kp) (hc : kp.cells = none) (hf : kp.flash = none) (hr : kp.recs = none) (u : UnitId) :
    ∃ d, execReadyLimitExpired u s = s.next d ∧ d.Holds kp := by
  refine ⟨_, rfl, ?_⟩; repeat' (with_reducible first | assumption | apply Dev.readyLimit_holds | apply State.dev_holds)

theorem execHeartbeatTimeout_holds {kp : Keep} {s : State} (hk : s.dev.Holds kp) (hc : kp.cells = none) (hf : kp.flash = none) (c : Cpx) (stall : Nat) :
    ∃ d, execHeartbeatTimeout c stall s = s.next d ∧ d.Holds kp := by
  refine ⟨_, rfl, ?_⟩; repeat' (with_reducible first | assumption | apply State.dev_holds | apply Dev.complexFault_holds | apply Dev.countFault_holds | apply holds_ite | intro _ | split)

theorem execLockstepMismatch_holds {kp : Keep} {s : State} (hk : s.dev.Holds kp) (hc : kp.cells = none) (hf : kp.flash = none) (c : Cpx) (stall : Nat) :
    ∃ d, execLockstepMismatch c stall s = s.next d ∧ d.Holds kp := by
  refine ⟨_, rfl, ?_⟩; repeat' (with_reducible first | assumption | apply State.dev_holds | apply Dev.complexFault_holds | apply Dev.countFault_holds | apply holds_ite | intro _ | split)

theorem Dev.unitRequest_holds {kp : Keep} {d : Dev} (hk : d.Holds kp) (r : UnitReq) : (d.unitRequest r).Holds kp := by
  unfold Dev.unitRequest; repeat' (with_reducible first | assumption | lift_lets -underBinder | (intro x; refine (fun (hx : Dev.Holds kp x) => ?_) ?_; on_goal 2 => unfold x) | apply Dev.setDomLow_holds | apply holds_ite | fail_if_no_progress (apply holds_upd <;> try rfl) | rfl | intro _ | split | dsimp +zetaDelta only)

theorem execUnitRequest_holds {kp : Keep} {s : State} (hk : s.dev.Holds kp) (r : UnitReq) :
    ∃ d, execUnitRequest r s = s.next d ∧ d.Holds kp := by
  refine ⟨_, rfl, ?_⟩; repeat' (with_reducible first | assumption | apply Dev.unitRequest_holds | apply State.dev_holds)

theorem Dev.unitResponse_holds {kp : Keep} {d : Dev} (hk : d.Holds kp) (r : UnitReq) : (d.unitResponse r).Holds kp := by
  unfold Dev.unitResponse; repeat' (with_reducible first | assumption | lift_lets -underBinder | (intro x; refine (fun (hx : Dev.Holds kp x) => ?_) ?_; on_goal 2 => unfold x) | apply holds_ite | fail_if_no_progress (apply holds_upd <;> try rfl) | rfl | intro _ | split | dsimp +zetaDelta only)

theorem execUnitResponse_holds {kp : Keep} {s : State} (hk : s.dev.Holds kp) (r : UnitReq) :
    ∃ d, execUnitResponse r s = s.next d ∧ d.Holds kp := by
  refine ⟨_, rfl, ?_⟩; repeat' (with_reducible first | assumption | apply Dev.unitResponse_holds | apply State.dev_holds)

theorem Dev.resetEffect_holds {kp : Keep} {d : Dev} (hk : d.Holds kp) (hc : kp.cells = none) (u : UnitId) : (d.resetEffect u).Holds kp := by
  unfold Dev.resetEffect; repeat' (with_reducible first | assumption | lift_lets -underBinder | (intro x; refine (fun (hx : Dev.Holds kp x) => ?_) ?_; on_goal 2 => unfold x) | apply Dev.crownClear_holds | apply Dev.cancelStamps_holds | apply Dev.writeFault_holds | apply Dev.onBlk_holds | apply Dev.laneOff_holds | apply Dev.cutRead_holds | apply Dev.setF_holds | apply holds_ite | fail_if_no_progress (apply holds_upd <;> try rfl) | rfl | intro _ | split | dsimp +zetaDelta only)

theorem Dev.unitReset_holds {kp : Keep} {d : Dev} (hk : d.Holds kp) (hc : kp.cells = none) (u : UnitId) : (d.unitReset u).Holds kp := by
  unfold Dev.unitReset; repeat' (with_reducible first | assumption | lift_lets -underBinder | apply Dev.bumpF_holds | apply Dev.resetCpx_holds | apply Dev.resetUnit_holds | apply Dev.resetEffect_holds | apply holds_ite | fail_if_no_progress (apply holds_upd <;> try rfl) | rfl | intro _ | split)

theorem execUnitReset_holds {kp : Keep} {s : State} (hk : s.dev.Holds kp) (hc : kp.cells = none) (u : UnitId) :
    ∃ d, execUnitReset u s = s.next d ∧ d.Holds kp := by
  refine ⟨_, rfl, ?_⟩; repeat' (with_reducible first | assumption | apply Dev.unitReset_holds | apply State.dev_holds)

theorem Dev.readyNotice_holds {kp : Keep} {d : Dev} (hk : d.Holds kp) (hc : kp.cells = none) (u : UnitId) (oldInFlight : Bool) : (d.readyNotice u oldInFlight).Holds kp := by
  unfold Dev.readyNotice; repeat' (with_reducible first | assumption | lift_lets -underBinder | (intro x; refine (fun (hx : Dev.Holds kp x) => ?_) ?_; on_goal 2 => unfold x) | apply Dev.onFmg_holds | apply Dev.cpxReady_holds | apply Dev.setF_holds | apply Dev.readyUnit_holds | apply Dev.blockerFresh_holds | apply Dev.replayBlocker_holds | apply Dev.crownSettle_holds | apply holds_ite | fail_if_no_progress (apply holds_upd <;> try rfl) | rfl | intro _ | split | dsimp +zetaDelta only)

theorem execReadyNotice_holds {kp : Keep} {s : State} (hk : s.dev.Holds kp) (hc : kp.cells = none) (u : UnitId) (oldInFlight : Bool) :
    ∃ d, execReadyNotice u oldInFlight s = s.next d ∧ d.Holds kp := by
  refine ⟨_, rfl, ?_⟩; repeat' (with_reducible first | assumption | apply Dev.readyNotice_holds | apply State.dev_holds)

end Sys2Proof.Machine
end

