-- ==== Sys2Proof/Laws/Holds/Fabric.lean ====
section
/-! SUPPORT. The operations of Machine/Fabric.lean carry `Dev.Holds`. -/

namespace Sys2Proof.Machine

set_option linter.unusedTactic false
set_option linter.unreachableTactic false

theorem Dev.writeBlkCtl_holds {kp : Keep} {d : Dev} (hk : d.Holds kp) (hr : kp.recs = none) (a : Act) (mask w : Word) (o : FabricObs) : (d.writeBlkCtl a mask w o).Holds kp := by
  unfold Dev.writeBlkCtl; repeat' (with_reducible first | assumption | lift_lets -underBinder | (intro x; refine (fun (hx : Dev.Holds kp x) => ?_) ?_; on_goal 2 => unfold x) | apply Dev.absentWrite_holds | apply Dev.writeHalt_holds | apply Dev.writeResume_holds | apply Dev.writeStep_holds | apply holds_ite | intro _ | split | dsimp +zetaDelta only)

theorem Dev.actEffect_holds {kp : Keep} {d : Dev} (hk : d.Holds kp) (a : Act) (off : Nat) (w g : Word) (o : FabricObs) (b : Block) : (d.actEffect a off w g o b).Holds kp := by
  unfold Dev.actEffect; repeat' (with_reducible first | assumption | lift_lets -underBinder | (intro x; refine (fun (hx : Dev.Holds kp x) => ?_) ?_; on_goal 2 => unfold x) | apply Dev.cstWrite_holds | apply Dev.clearFail_holds | apply Dev.passAccess_holds | apply Dev.retrain_holds | apply Dev.capArm_holds | apply Dev.capAbort_holds | apply holds_ite | fail_if_no_progress (apply holds_upd <;> try rfl) | rfl | intro _ | split | dsimp +zetaDelta only)

theorem Dev.unitEffect_holds {kp : Keep} {d : Dev} (hk : d.Holds kp) (hc : kp.cells = none) (who : Requester) (cal : Bool) (addr : Nat) (mask w g : Word) (o : FabricObs) : (d.unitEffect who cal addr mask w g o).Holds kp := by
  unfold Dev.unitEffect; repeat' (with_reducible first | assumption | lift_lets -underBinder | (intro x; refine (fun (hx : Dev.Holds kp x) => ?_) ?_; on_goal 2 => unfold x) | apply Dev.discard_holds | apply Dev.commitFor_holds | apply Dev.spinRun_holds | apply Dev.retract_holds | apply Dev.injectBuf_holds | apply Dev.injectDram_holds | apply Dev.fulFlush_holds | apply Dev.fulShow_holds | apply Dev.cursorWrite_holds | apply Dev.semFree_holds | apply Dev.handoverAll_holds | apply Dev.kick_holds | apply holds_ite | intro _ | split | dsimp +zetaDelta only)

theorem Dev.fabricWrite_holds {kp : Keep} {d : Dev} (hk : d.Holds kp) (hc : kp.cells = none) (hr : kp.recs = none) (who : Requester) (cal : Bool) (addr : Nat) (mask w : Word) (o : FabricObs) : (d.fabricWrite who cal addr mask w o).Holds kp := by
  unfold Dev.fabricWrite; repeat' (with_reducible first | assumption | lift_lets -underBinder | (intro x; refine (fun (hx : Dev.Holds kp x) => ?_) ?_; on_goal 2 => unfold x) | apply Dev.writeBlkCtl_holds | apply Dev.maintGo_holds | apply Dev.flashWrite_holds | apply Dev.writeMasked_holds | apply Dev.actEffect_holds | apply Dev.unitEffect_holds | apply holds_ite | fail_if_no_progress (apply holds_upd <;> try rfl) | rfl | intro _ | split | dsimp +zetaDelta only)

theorem execRegisterWrite_holds {kp : Keep} {s : State} (hk : s.dev.Holds kp) (hc : kp.cells = none) (hr : kp.recs = none) (who : Requester) (addr : Nat) (w : Word) (o : FabricObs) :
    ∃ d, execRegisterWrite who addr w o s = s.next d ∧ d.Holds kp := by
  refine ⟨_, rfl, ?_⟩; repeat' (with_reducible first | assumption | apply Dev.fabricWrite_holds | apply State.dev_holds)

theorem Dev.tickNowRead_holds {kp : Keep} {d : Dev} (hk : d.Holds kp) (who : Requester) : (d.tickNowRead who).Holds kp := by
  unfold Dev.tickNowRead; repeat' (with_reducible first | assumption | lift_lets -underBinder | (intro x; refine (fun (hx : Dev.Holds kp x) => ?_) ?_; on_goal 2 => unfold x) | apply Dev.answer_holds | fail_if_no_progress (apply holds_upd <;> try rfl) | rfl | intro _ | dsimp +zetaDelta only)

theorem execTickNowLoRead_holds {kp : Keep} {s : State} (hk : s.dev.Holds kp) (who : Requester) :
    ∃ d, execTickNowLoRead who s = s.next d ∧ d.Holds kp := by
  refine ⟨_, rfl, ?_⟩; repeat' (with_reducible first | assumption | apply Dev.tickNowRead_holds | apply State.dev_holds)

theorem Dev.fabricRead_holds {kp : Keep} {d : Dev} (hk : d.Holds kp) (who : Requester) (addr : Nat) (o : FabricObs) : (d.fabricRead who addr o).Holds kp := by
  unfold Dev.fabricRead; repeat' (with_reducible first | assumption | lift_lets -underBinder | apply Dev.answer_holds | apply Dev.tickNowRead_holds | apply Dev.win7Read_holds | apply Dev.cstNext_holds | apply Dev.capRead_holds | apply Dev.clearRc_holds | apply holds_ite | fail_if_no_progress (apply holds_upd <;> try rfl) | rfl | intro _ | split)

theorem execRcRead_holds {kp : Keep} {s : State} (hk : s.dev.Holds kp) (who : Requester) (addr : Nat) (o : FabricObs) :
    ∃ d, execRcRead who addr o s = s.next d ∧ d.Holds kp := by
  refine ⟨_, rfl, ?_⟩; repeat' (with_reducible first | assumption | apply Dev.fabricRead_holds | apply State.dev_holds)

theorem Dev.edge_holds {kp : Keep} {d : Dev} (hk : d.Holds kp) (hf : kp.flash = none) (hr : kp.recs = none) (periodNs late : Nat) : (d.edge periodNs late).Holds kp := by
  unfold Dev.edge; repeat' (with_reducible first | assumption | lift_lets -underBinder | (intro x; refine (fun (hx : Dev.Holds kp x) => ?_) ?_; on_goal 2 => unfold x) | apply Dev.eraseTick_holds | apply Dev.vaultTick_holds | apply Dev.tickEdge_holds | apply Dev.backgroundErase_holds | apply Dev.semSettle_holds | apply Dev.finishShutdown_holds | intro _ | dsimp +zetaDelta only)

end Sys2Proof.Machine
end

