-- ==== Sys2Proof/Laws/Holds/Packet.lean ====
section
/-! SUPPORT. The operations of Machine/Packet.lean carry `Dev.Holds`. -/

namespace Sys2Proof.Machine

set_option linter.unusedTactic false
set_option linter.unreachableTactic false

theorem Dev.endPacketHold_holds {kp : Keep} {d : Dev} (hk : d.Holds kp) (holder : Nat) : (d.endPacketHold holder).Holds kp := by
  unfold Dev.endPacketHold; repeat' (with_reducible first | assumption | lift_lets -underBinder | apply Dev.semBegin_holds | apply Dev.semClear_holds | apply holds_ite | fail_if_no_progress (apply holds_upd <;> try rfl) | rfl | intro _ | split)

theorem Dev.underSem_holds {kp : Keep} {α : Type} {d : Dev} (hk : d.Holds kp) (holder : Nat) (f : Dev → α × Dev) (hf : ∀ x : Dev, x.Holds kp → (f x).2.Holds kp) : (d.underSem holder f).2.Holds kp := by
  unfold Dev.underSem; repeat' (with_reducible first | assumption | lift_lets -underBinder | (intro x; refine (fun (hx : Dev.Holds kp x) => ?_) ?_; on_goal 2 => unfold x) | apply Dev.semGrant_holds | apply Dev.endPacketHold_holds | apply hf | apply holds_ite | intro _ | split | dsimp +zetaDelta only)

theorem Dev.writeItem_holds {kp : Keep} {d : Dev} (hk : d.Holds kp) (hc : kp.cells = none) (hr : kp.recs = none) (who : Requester) (cal : Bool) (addr : Nat) (w mask : Word) (o : FabricObs) : (d.writeItem who cal addr w mask o).2.Holds kp := by
  unfold Dev.writeItem; repeat' (with_reducible first | assumption | apply Dev.fabricWrite_holds)

theorem Dev.regWrite_holds {kp : Keep} {d : Dev} (hk : d.Holds kp) (hc : kp.cells = none) (hr : kp.recs = none) (who : Requester) (cal : Bool) (p : Packet) (o : FabricObs) : (d.regWrite who cal p o).2.Holds kp := by
  unfold Dev.regWrite; repeat' (with_reducible first | assumption | lift_lets -underBinder | (intro x; refine (fun (hx : Dev.Holds kp x) => ?_) ?_; on_goal 2 => unfold x) | apply Dev.writeItem_holds | apply holds_ite | fail_if_no_progress (apply holds_upd <;> try rfl) | rfl | intro _ | split | dsimp +zetaDelta only)

theorem Dev.writeBatch_holds {kp : Keep} (hc : kp.cells = none) (hr : kp.recs = none) (x0 : List (Nat × Nat × Option Word × Option Word)) : ∀ {d : Dev} (hk : d.Holds kp) (who : Requester) (stop : Bool) (o : FabricObs) (x1 : Nat) (x2 : Nat), (d.writeBatch who stop o x0 x1 x2).2.Holds kp := by
  induction x0 with
  | nil =>
    intro d hk who stop o x1 x2; unfold Dev.writeBatch; repeat' (with_reducible first | assumption | lift_lets -underBinder | (intro x; refine (fun (hx : Dev.Holds kp x) => ?_) ?_; on_goal 2 => unfold x) | apply ih | apply Dev.writeItem_holds | apply holds_ite | intro _ | split | dsimp +zetaDelta only)
  | cons y ys ih =>
    intro d hk who stop o x1 x2; unfold Dev.writeBatch; repeat' (with_reducible first | assumption | lift_lets -underBinder | (intro x; refine (fun (hx : Dev.Holds kp x) => ?_) ?_; on_goal 2 => unfold x) | apply ih | apply Dev.writeItem_holds | apply holds_ite | intro _ | split | dsimp +zetaDelta only)

theorem Dev.regBatch_holds {kp : Keep} {d : Dev} (hk : d.Holds kp) (hc : kp.cells = none) (hr : kp.recs = none) (who : Requester) (p : Packet) (o : FabricObs) : (d.regBatch who p o).2.Holds kp := by
  unfold Dev.regBatch; repeat' (with_reducible first | assumption | lift_lets -underBinder | (intro x; refine (fun (hx : Dev.Holds kp x) => ?_) ?_; on_goal 2 => unfold x) | apply Dev.writeBatch_holds | fail_if_no_progress (apply holds_upd <;> try rfl) | rfl | intro _ | split | dsimp +zetaDelta only)

end Sys2Proof.Machine
end

