-- ==== Sys2Proof/Laws/Holds/Profile.lean ====
section
/-! SUPPORT. The operations of Machine/Profile.lean carry `Dev.Holds`. -/

namespace Sys2Proof.Machine

set_option linter.unusedTactic false
set_option linter.unreachableTactic false

theorem Dev.stageTable_holds {kp : Keep} {d : Dev} (hk : d.Holds kp) (table addr : Nat) (bs : List Byte) : (d.stageTable table addr bs).Holds kp := by
  unfold Dev.stageTable; repeat' (with_reducible first | assumption | lift_lets -underBinder | fail_if_no_progress (apply holds_upd <;> try rfl) | rfl | intro _)

theorem Dev.clampField_holds {kp : Keep} {d : Dev} (hk : d.Holds kp) (table base lo hi : Nat) (f : TableField) : (d.clampField table base lo hi f).Holds kp := by
  unfold Dev.clampField; repeat' (with_reducible first | assumption | lift_lets -underBinder | (intro x; refine (fun (hx : Dev.Holds kp x) => ?_) ?_; on_goal 2 => unfold x) | apply Dev.trim_holds | apply Dev.stageTable_holds | apply holds_ite | intro _ | split | dsimp +zetaDelta only)

theorem Dev.recompute_holds {kp : Keep} {d : Dev} (hk : d.Holds kp) (table addr : Nat) (crc group shown : Nat) (seen : Bool) : (d.recompute table addr crc group shown seen).Holds kp := by
  unfold Dev.recompute; repeat' (with_reducible first | assumption | lift_lets -underBinder | (intro x; refine (fun (hx : Dev.Holds kp x) => ?_) ?_; on_goal 2 => unfold x) | apply Dev.stageTable_holds | apply Dev.trim_holds | apply holds_ite | intro _ | split | dsimp +zetaDelta only)

theorem Dev.settleRecord_holds {kp : Keep} {d : Dev} (hk : d.Holds kp) (table base lo hi : Nat) : (d.settleRecord table base lo hi).Holds kp := by
  unfold Dev.settleRecord; repeat' (with_reducible first | assumption | refine holds_foldl (fun _ _ _ => ?_) _ ?_ | refine holds_foldl_snd (fun _ _ _ => ?_) _ ?_ | lift_lets -underBinder | (intro x; refine (fun (hx : Dev.Holds kp x) => ?_) ?_; on_goal 2 => unfold x) | apply Dev.clampField_holds | apply Dev.stageTable_holds | apply Dev.recompute_holds | apply holds_ite | fail_if_no_progress (apply holds_upd <;> try rfl) | rfl | intro _ | split | dsimp +zetaDelta only)

theorem Dev.settleRecords_holds {kp : Keep} {d : Dev} (hk : d.Holds kp) (table addr n : Nat) : (d.settleRecords table addr n).Holds kp := by
  unfold Dev.settleRecords; repeat' (with_reducible first | assumption | refine holds_foldl (fun _ _ _ => ?_) _ ?_ | refine holds_foldl_snd (fun _ _ _ => ?_) _ ?_ | lift_lets -underBinder | (intro x; refine (fun (hx : Dev.Holds kp x) => ?_) ?_; on_goal 2 => unfold x) | apply Dev.settleRecord_holds | apply holds_ite | intro _ | split | dsimp +zetaDelta only)

theorem Dev.settlePlank_holds {kp : Keep} {d : Dev} (hk : d.Holds kp) (table addr n : Nat) : (d.settlePlank table addr n).Holds kp := by
  unfold Dev.settlePlank; repeat' (with_reducible first | assumption | lift_lets -underBinder | (intro x; refine (fun (hx : Dev.Holds kp x) => ?_) ?_; on_goal 2 => unfold x) | apply Dev.recompute_holds | apply holds_ite | intro _ | split | dsimp +zetaDelta only)

theorem Dev.settleRunout_holds {kp : Keep} {d : Dev} (hk : d.Holds kp) (table addr n : Nat) : (d.settleRunout table addr n).Holds kp := by
  unfold Dev.settleRunout; repeat' (with_reducible first | assumption | refine holds_foldl (fun _ _ _ => ?_) _ ?_ | refine holds_foldl_snd (fun _ _ _ => ?_) _ ?_ | lift_lets -underBinder | (intro x; refine (fun (hx : Dev.Holds kp x) => ?_) ?_; on_goal 2 => unfold x) | apply Dev.recompute_holds | apply holds_ite | intro _ | split | dsimp +zetaDelta only)

theorem Dev.tableWrite_holds {kp : Keep} {d : Dev} (hk : d.Holds kp) (p : Packet) : (d.tableWrite p).2.Holds kp := by
  unfold Dev.tableWrite; repeat' (with_reducible first | assumption | lift_lets -underBinder | (intro x; refine (fun (hx : Dev.Holds kp x) => ?_) ?_; on_goal 2 => unfold x) | apply Dev.stageTable_holds | apply Dev.settlePlank_holds | apply Dev.settleRunout_holds | apply Dev.settleRecords_holds | apply holds_ite | fail_if_no_progress (apply holds_upd <;> try rfl) | rfl | intro _ | split | dsimp +zetaDelta only)

theorem Dev.tableRead_holds {kp : Keep} {d : Dev} (hk : d.Holds kp) (p : Packet) : (d.tableRead p).2.Holds kp := by
  unfold Dev.tableRead; repeat' (with_reducible first | assumption | lift_lets -underBinder | (intro x; refine (fun (hx : Dev.Holds kp x) => ?_) ?_; on_goal 2 => unfold x) | apply holds_ite | fail_if_no_progress (apply holds_upd <;> try rfl) | rfl | intro _ | split | dsimp +zetaDelta only)

theorem stageMicro_holds {kp : Keep} (a : Act) (n : Nat) : ∀ {d : Dev} (_ : d.Holds kp) (word : Nat) (ws : List Word),
    (stageMicro d a n word ws).Holds kp := by
  induction n with
  | zero => intro d hk word ws; unfold stageMicro; exact hk
  | succ n ih =>
    intro d hk word ws
    unfold stageMicro
    split
    · exact hk
    · exact hk
    · rename_i e _; cases e; exact ih (Dev.stageCst_holds hk _ _ _) _ _

theorem Dev.cstPacket_holds {kp : Keep} {d : Dev} (hk : d.Holds kp) (p : Packet) : (d.cstPacket p).2.Holds kp := by
  unfold Dev.cstPacket; repeat' (with_reducible first | assumption | lift_lets -underBinder | (intro x; refine (fun (hx : Dev.Holds kp x) => ?_) ?_; on_goal 2 => unfold x) | apply stageMicro_holds | apply holds_ite | intro _ | split | dsimp +zetaDelta only)

theorem Dev.loadPacket_holds {kp : Keep} {d : Dev} (hk : d.Holds kp) (hc : kp.cells = none) (hr : kp.recs = none) (who : Requester) (p : Packet) (o : FabricObs) : (d.loadPacket who p o).2.Holds kp := by
  unfold Dev.loadPacket; repeat' (with_reducible first | assumption | lift_lets -underBinder | apply Dev.regWrite_holds | apply Dev.regBatch_holds | apply Dev.tableWrite_holds | apply Dev.cstPacket_holds | fail_if_no_progress (apply holds_upd <;> try rfl) | rfl | intro _ | split)

theorem Dev.loadPackets_holds {kp : Keep} (hc : kp.cells = none) (hr : kp.recs = none) (x1 : List (List Word)) : ∀ {d : Dev} (hk : d.Holds kp) (who : Requester) (holder : Nat) (o : FabricObs) (x0 : Nat), (d.loadPackets who holder o x0 x1).2.Holds kp := by
  induction x1 with
  | nil =>
    intro d hk who holder o x0; unfold Dev.loadPackets; repeat' (with_reducible first | assumption | lift_lets -underBinder | (intro x; refine (fun (hx : Dev.Holds kp x) => ?_) ?_; on_goal 2 => unfold x) | apply ih | apply Dev.loadPacket_holds | apply holds_ite | fail_if_no_progress (apply holds_upd <;> try rfl) | rfl | intro _ | split | dsimp +zetaDelta only)
  | cons y ys ih =>
    intro d hk who holder o x0; unfold Dev.loadPackets; repeat' (with_reducible first | assumption | lift_lets -underBinder | (intro x; refine (fun (hx : Dev.Holds kp x) => ?_) ?_; on_goal 2 => unfold x) | apply ih | apply Dev.loadPacket_holds | apply holds_ite | fail_if_no_progress (apply holds_upd <;> try rfl) | rfl | intro _ | split | dsimp +zetaDelta only)

theorem Dev.declare_holds {kp : Keep} {d : Dev} (hk : d.Holds kp) (x : ProfileDecl) : (d.declare x).Holds kp := by
  unfold Dev.declare; repeat' (with_reducible first | assumption | lift_lets -underBinder | (intro x; refine (fun (hx : Dev.Holds kp x) => ?_) ?_; on_goal 2 => unfold x) | fail_if_no_progress (apply holds_upd <;> try rfl) | rfl | intro _ | dsimp +zetaDelta only)

theorem Dev.failLoad_holds {kp : Keep} {d old : Dev} (hk : d.Holds kp) (hkold : old.Holds kp) (status : Nat) : (d.failLoad old status).Holds kp := by
  unfold Dev.failLoad; repeat' (with_reducible first | assumption | lift_lets -underBinder | (intro x; refine (fun (hx : Dev.Holds kp x) => ?_) ?_; on_goal 2 => unfold x) | apply Dev.discard_holds | apply Dev.setF_holds | apply holds_ite | fail_if_no_progress (apply holds_upd <;> try rfl) | rfl | intro _ | split | dsimp +zetaDelta only)

theorem Dev.loadProfile_holds {kp : Keep} {d : Dev} (hk : d.Holds kp) (hc : kp.cells = none) (hr : kp.recs = none) (who : Requester) (holder : Nat) (body : List Byte) (x : ProfileDecl) (o : FabricObs) : (d.loadProfile who holder body x o).2.Holds kp := by
  unfold Dev.loadProfile; repeat' (with_reducible first | assumption | lift_lets -underBinder | (intro x; refine (fun (hx : Dev.Holds kp x) => ?_) ?_; on_goal 2 => unfold x) | apply Dev.loadPackets_holds | apply Dev.declare_holds | apply Dev.failLoad_holds | apply Dev.setF_holds | apply Dev.commit_holds | apply holds_ite | fail_if_no_progress (apply holds_upd <;> try rfl) | rfl | intro _ | split | dsimp +zetaDelta only)

end Sys2Proof.Machine
end

