-- ==== Sys2Proof/Laws/Holds/MpiOps.lean ====
section
/-! SUPPORT. The operations of Machine/MpiOps.lean carry `Dev.Holds`. -/

namespace Sys2Proof.Machine

set_option linter.unusedTactic false
set_option linter.unreachableTactic false

theorem Dev.onMpi_holds {kp : Keep} {d : Dev} {g : Mpi → Mpi} (hk : d.Holds kp) (e : (g d.mpi).sent = d.mpi.sent) :
    (d.onMpi g).Holds kp :=
  holds_upd hk rfl rfl rfl rfl rfl rfl rfl rfl rfl e

theorem Dev.onMpi_sent {kp : Keep} {d : Dev} {g : Mpi → Mpi} (hk : d.Holds kp) {x : Nat × List Word}
    (e : (g d.mpi).sent = x :: d.mpi.sent) : (d.onMpi g).Holds kp := by
  obtain ⟨⟨s1, s2, s3, s4, s5, s6, s7, s8⟩, h2, h3, h4, h5, h6, h7, h8⟩ := hk
  refine ⟨⟨s1, s2, s3, s4, s5, s6, s7, s8⟩, h2, h3, h4, h5, h6, h7, ?_⟩
  show kp.sent <:+ (g d.mpi).sent
  rw [e]
  exact h8.trans (List.suffix_cons _ _)

theorem Dev.startJob_holds {kp : Keep} {d : Dev} (hk : d.Holds kp) (op arg : Nat) : (d.startJob op arg).2.Holds kp := by
  unfold Dev.startJob; repeat' (with_reducible first | assumption | lift_lets -underBinder | (intro x; refine (fun (hx : Dev.Holds kp x) => ?_) ?_; on_goal 2 => unfold x) | refine Dev.onMpi_holds ?_ rfl | refine Dev.onMpi_sent ?_ rfl | fail_if_no_progress (apply holds_upd <;> try rfl) | rfl | intro _ | dsimp +zetaDelta only)

theorem Dev.endJobNo_holds {kp : Keep} {d : Dev} (hk : d.Holds kp) (n status : Nat) (result : List Word) (trims : List TrimRec) : (d.endJobNo n status result trims).Holds kp := by
  unfold Dev.endJobNo; repeat' (with_reducible first | assumption | lift_lets -underBinder | (intro x; refine (fun (hx : Dev.Holds kp x) => ?_) ?_; on_goal 2 => unfold x) | refine Dev.onMpi_holds ?_ rfl | refine Dev.onMpi_sent ?_ rfl | apply holds_ite | fail_if_no_progress (apply holds_upd <;> try rfl) | rfl | intro _ | split | dsimp +zetaDelta only)

theorem Dev.shortJob_holds {kp : Keep} {d : Dev} (hk : d.Holds kp) (c : Call) (f : Dev → Rep × Dev) (hf : ∀ x : Dev, x.Holds kp → (f x).2.Holds kp) : (d.shortJob c f).2.Holds kp := by
  unfold Dev.shortJob; repeat' (with_reducible first | assumption | lift_lets -underBinder | (intro x; refine (fun (hx : Dev.Holds kp x) => ?_) ?_; on_goal 2 => unfold x) | apply Dev.startJob_holds | apply Dev.endJobNo_holds | apply hf | apply holds_ite | intro _ | split | dsimp +zetaDelta only)

theorem Dev.mpiEcho_holds {kp : Keep} {d : Dev} (hk : d.Holds kp) (c : Call) : (d.mpiEcho c).2.Holds kp := by
  unfold Dev.mpiEcho; repeat' (with_reducible first | assumption | lift_lets -underBinder | fail_if_no_progress (apply holds_upd <;> try rfl) | rfl | intro _)

theorem Dev.mpiGetInfo_holds {kp : Keep} {d : Dev} (hk : d.Holds kp) (w1_0 : Call) : (d.mpiGetInfo w1_0).2.Holds kp := by
  unfold Dev.mpiGetInfo; repeat' (with_reducible first | assumption)

theorem Dev.mpiSemClaim_holds {kp : Keep} {d : Dev} (hk : d.Holds kp) (c : Call) : (d.mpiSemClaim c).2.Holds kp := by
  unfold Dev.mpiSemClaim; repeat' (with_reducible first | assumption | lift_lets -underBinder | (intro x; refine (fun (hx : Dev.Holds kp x) => ?_) ?_; on_goal 2 => unfold x) | apply Dev.semClaim_holds | apply Dev.semRefused_holds | apply holds_ite | intro _ | split | dsimp +zetaDelta only)

theorem Dev.mpiSemRelease_holds {kp : Keep} {d : Dev} (hk : d.Holds kp) (c : Call) : (d.mpiSemRelease c).2.Holds kp := by
  unfold Dev.mpiSemRelease; repeat' (with_reducible first | assumption | lift_lets -underBinder | (intro x; refine (fun (hx : Dev.Holds kp x) => ?_) ?_; on_goal 2 => unfold x) | apply Dev.semRelease_holds | intro _ | dsimp +zetaDelta only)

theorem Dev.mpiSemStatus_holds {kp : Keep} {d : Dev} (hk : d.Holds kp) (w1_0 : Call) : (d.mpiSemStatus w1_0).2.Holds kp := by
  unfold Dev.mpiSemStatus; repeat' (with_reducible first | assumption)

theorem Dev.mpiJobStatus_holds {kp : Keep} {d : Dev} (hk : d.Holds kp) (c : Call) : (d.mpiJobStatus c).2.Holds kp := by
  unfold Dev.mpiJobStatus; repeat' (with_reducible first | assumption | lift_lets -underBinder | refine Dev.onMpi_holds ?_ rfl | refine Dev.onMpi_sent ?_ rfl | apply holds_ite | fail_if_no_progress (apply holds_upd <;> try rfl) | rfl | intro _ | split)

theorem Dev.mpiJobAbort_holds {kp : Keep} {d : Dev} (hk : d.Holds kp) (c : Call) : (d.mpiJobAbort c).2.Holds kp := by
  unfold Dev.mpiJobAbort; repeat' (with_reducible first | assumption | lift_lets -underBinder | apply Dev.endJobNo_holds | apply Dev.thawRecs_holds | apply holds_ite | fail_if_no_progress (apply holds_upd <;> try rfl) | rfl | intro _ | split)

theorem Dev.readRun_holds {kp : Keep}  (x0 : Nat) : ∀ {d : Dev} (hk : d.Holds kp) (who : Requester) (o : FabricObs) (addr : Nat), (d.readRun who o addr x0).2.Holds kp := by
  induction x0 with
  | zero =>
    intro d hk who o addr; unfold Dev.readRun; repeat' (with_reducible first | assumption | lift_lets -underBinder | (intro x; refine (fun (hx : Dev.Holds kp x) => ?_) ?_; on_goal 2 => unfold x) | apply ih | apply Dev.fabricRead_holds | intro _ | split | dsimp +zetaDelta only)
  | succ n ih =>
    intro d hk who o addr; unfold Dev.readRun; repeat' (with_reducible first | assumption | lift_lets -underBinder | (intro x; refine (fun (hx : Dev.Holds kp x) => ?_) ?_; on_goal 2 => unfold x) | apply ih | apply Dev.fabricRead_holds | intro _ | split | dsimp +zetaDelta only)

theorem Dev.mpiRegRead_holds {kp : Keep} {d : Dev} (hk : d.Holds kp) (c : Call) : (d.mpiRegRead c).2.Holds kp := by
  unfold Dev.mpiRegRead; repeat' (with_reducible first | assumption | lift_lets -underBinder | (intro x; refine (fun (hx : Dev.Holds kp x) => ?_) ?_; on_goal 2 => unfold x) | apply Dev.readRun_holds | apply holds_ite | intro _ | split | dsimp +zetaDelta only)

theorem Dev.mpiRegWrite_holds {kp : Keep} {d : Dev} (hk : d.Holds kp) (hc : kp.cells = none) (hr : kp.recs = none) (c : Call) : (d.mpiRegWrite c).2.Holds kp := by
  unfold Dev.mpiRegWrite; repeat' (with_reducible first | assumption | apply Dev.regWrite_holds)

theorem Dev.mpiRegBatch_holds {kp : Keep} {d : Dev} (hk : d.Holds kp) (hc : kp.cells = none) (hr : kp.recs = none) (c : Call) : (d.mpiRegBatch c).2.Holds kp := by
  unfold Dev.mpiRegBatch; repeat' (with_reducible first | assumption | apply Dev.regBatch_holds)

theorem Dev.pollOnce_holds {kp : Keep} {d : Dev} (hk : d.Holds kp) (who : Requester) (w : MpiWait) : (d.pollOnce who w).2.Holds kp := by
  unfold Dev.pollOnce; repeat' (with_reducible first | assumption | lift_lets -underBinder | (intro x; refine (fun (hx : Dev.Holds kp x) => ?_) ?_; on_goal 2 => unfold x) | apply Dev.fabricRead_holds | apply holds_ite | intro _ | split | dsimp +zetaDelta only)

theorem Dev.mpiRegPoll_holds {kp : Keep} {d : Dev} (hk : d.Holds kp) (c : Call) : (d.mpiRegPoll c).2.Holds kp := by
  unfold Dev.mpiRegPoll; repeat' (with_reducible first | assumption | lift_lets -underBinder | (intro x; refine (fun (hx : Dev.Holds kp x) => ?_) ?_; on_goal 2 => unfold x) | apply Dev.pollOnce_holds | apply holds_ite | fail_if_no_progress (apply holds_upd <;> try rfl) | rfl | intro _ | split | dsimp +zetaDelta only)

theorem Dev.freeBytes_holds {kp : Keep} {d : Dev} (hk : d.Holds kp) (n : Nat) : (d.freeBytes n).2.Holds kp := by
  unfold Dev.freeBytes; repeat' (with_reducible first | assumption | lift_lets -underBinder | fail_if_no_progress (apply holds_upd <;> try rfl) | rfl | intro _)

theorem Dev.readMram_holds {kp : Keep} {d : Dev} (hk : d.Holds kp) (a n : Nat) (bad : List Nat) : (d.readMram a n bad).2.Holds kp := by
  unfold Dev.readMram; repeat' (with_reducible first | assumption | refine holds_foldl (fun _ _ _ => ?_) _ ?_ | refine holds_foldl_fst (fun _ _ _ => ?_) _ ?_ | refine holds_foldl_snd (fun _ _ _ => ?_) _ ?_ | lift_lets -underBinder | (intro x; refine (fun (hx : Dev.Holds kp x) => ?_) ?_; on_goal 2 => unfold x) | apply Dev.freeBytes_holds | apply Dev.mramUe_holds | intro _ | dsimp +zetaDelta only)

theorem Dev.readSpace_holds {kp : Keep} {d : Dev} (hk : d.Holds kp) (c : Call) (least : Nat) : (d.readSpace c least).2.Holds kp := by
  unfold Dev.readSpace; repeat' (with_reducible first | assumption | lift_lets -underBinder | (intro x; refine (fun (hx : Dev.Holds kp x) => ?_) ?_; on_goal 2 => unfold x) | apply Dev.readDram_holds | apply Dev.readBufs_holds | apply Dev.readMram_holds | apply Dev.readFlashBytes_holds | apply holds_ite | fail_if_no_progress (apply holds_upd <;> try rfl) | rfl | intro _ | split | dsimp +zetaDelta only)

theorem Dev.mpiMemRead_holds {kp : Keep} {d : Dev} (hk : d.Holds kp) (c : Call) : (d.mpiMemRead c).2.Holds kp := by
  unfold Dev.mpiMemRead; repeat' (with_reducible first | assumption | apply Dev.readSpace_holds)

theorem Dev.mpiNvRead_holds {kp : Keep} {d : Dev} (hk : d.Holds kp) (c : Call) : (d.mpiNvRead c).2.Holds kp := by
  unfold Dev.mpiNvRead; repeat' (with_reducible first | assumption | apply Dev.readSpace_holds)

theorem Dev.mpiMemWrite_holds {kp : Keep} {d : Dev} (hk : d.Holds kp) (hc : kp.cells = none) (c : Call) : (d.mpiMemWrite c).2.Holds kp := by
  unfold Dev.mpiMemWrite; repeat' (with_reducible first | assumption | lift_lets -underBinder | (intro x; refine (fun (hx : Dev.Holds kp x) => ?_) ?_; on_goal 2 => unfold x) | apply Dev.writeSpace_holds | apply holds_ite | intro _ | split | dsimp +zetaDelta only)

theorem Dev.mpiCfgCommit_holds {kp : Keep} {d : Dev} (hk : d.Holds kp) (w1_0 : Call) : (d.mpiCfgCommit w1_0).2.Holds kp := by
  unfold Dev.mpiCfgCommit; repeat' (with_reducible first | assumption | lift_lets -underBinder | (intro x; refine (fun (hx : Dev.Holds kp x) => ?_) ?_; on_goal 2 => unfold x) | apply Dev.setF_holds | apply Dev.commit_holds | apply holds_ite | intro _ | split | dsimp +zetaDelta only)

theorem Dev.mpiCfgDiscard_holds {kp : Keep} {d : Dev} (hk : d.Holds kp) (w1_0 : Call) : (d.mpiCfgDiscard w1_0).2.Holds kp := by
  unfold Dev.mpiCfgDiscard; repeat' (with_reducible first | assumption | apply Dev.discard_holds)

theorem Dev.mpiCfgStatus_holds {kp : Keep} {d : Dev} (hk : d.Holds kp) (w1_0 : Call) : (d.mpiCfgStatus w1_0).2.Holds kp := by
  unfold Dev.mpiCfgStatus; repeat' (with_reducible first | assumption | lift_lets -underBinder | fail_if_no_progress (apply holds_upd <;> try rfl) | rfl | intro _)

theorem Dev.mpiSizerCheck_holds {kp : Keep} {d : Dev} (hk : d.Holds kp) (w1_0 : Call) : (d.mpiSizerCheck w1_0).2.Holds kp := by
  unfold Dev.mpiSizerCheck; repeat' (with_reducible first | assumption | lift_lets -underBinder | (intro x; refine (fun (hx : Dev.Holds kp x) => ?_) ?_; on_goal 2 => unfold x) | apply Dev.candidate_holds | apply holds_ite | fail_if_no_progress (apply holds_upd <;> try rfl) | rfl | intro _ | split | dsimp +zetaDelta only)

theorem Dev.mpiTableWrite_holds {kp : Keep} {d : Dev} (hk : d.Holds kp) (c : Call) : (d.mpiTableWrite c).2.Holds kp := by
  unfold Dev.mpiTableWrite; repeat' (with_reducible first | assumption | apply Dev.tableWrite_holds)

theorem Dev.mpiTableRead_holds {kp : Keep} {d : Dev} (hk : d.Holds kp) (c : Call) : (d.mpiTableRead c).2.Holds kp := by
  unfold Dev.mpiTableRead; repeat' (with_reducible first | assumption | apply Dev.tableRead_holds)

theorem Dev.mpiCstWrite_holds {kp : Keep} {d : Dev} (hk : d.Holds kp) (c : Call) : (d.mpiCstWrite c).2.Holds kp := by
  unfold Dev.mpiCstWrite; repeat' (with_reducible first | assumption | apply Dev.cstPacket_holds)

theorem Dev.loadImage_holds {kp : Keep} {d : Dev} (hk : d.Holds kp) (hc : kp.cells = none) (hr : kp.recs = none) (c : Call) (img : Option (List Byte)) (slot : Option Nat) : (d.loadImage c img slot).2.Holds kp := by
  unfold Dev.loadImage; repeat' (with_reducible first | assumption | lift_lets -underBinder | (intro x; refine (fun (hx : Dev.Holds kp x) => ?_) ?_; on_goal 2 => unfold x) | apply Dev.loadProfile_holds | apply Dev.setF_holds | apply holds_ite | fail_if_no_progress (apply holds_upd <;> try rfl) | rfl | intro _ | split | dsimp +zetaDelta only)

theorem Dev.mpiProfileLoad_holds {kp : Keep} {d : Dev} (hk : d.Holds kp) (hc : kp.cells = none) (hr : kp.recs = none) (c : Call) :
    (d.mpiProfileLoad c).2.Holds kp := by
  unfold Dev.mpiProfileLoad
  dsimp only
  split
  · exact hk
  · split
    · exact hk
    · refine Dev.shortJob_holds hk c _ fun x hx => ?_
      split
      · have h := Dev.slotImage_holds hx false (c.num Ty.slot)
        generalize x.slotImage false (c.num Ty.slot) = r at h ⊢
        exact Dev.loadImage_holds h hc hr _ _ _
      · exact Dev.loadImage_holds hx hc hr _ _ _

theorem Dev.mpiProfileSection_holds {kp : Keep} {d : Dev} (hk : d.Holds kp) (w1_0 : Call) : (d.mpiProfileSection w1_0).2.Holds kp := by
  unfold Dev.mpiProfileSection; repeat' (with_reducible first | assumption)

theorem Dev.mpiProfileDownload_holds {kp : Keep} {d : Dev} (hk : d.Holds kp) (c : Call) : (d.mpiProfileDownload c).2.Holds kp := by
  unfold Dev.mpiProfileDownload; repeat' (with_reducible first | assumption | lift_lets -underBinder | (intro x; refine (fun (hx : Dev.Holds kp x) => ?_) ?_; on_goal 2 => unfold x) | refine Dev.onMpi_holds ?_ rfl | refine Dev.onMpi_sent ?_ rfl | apply holds_ite | fail_if_no_progress (apply holds_upd <;> try rfl) | rfl | intro _ | split | dsimp +zetaDelta only)

theorem Dev.mpiProfileStore_holds {kp : Keep} {d : Dev} (hk : d.Holds kp) (hf : kp.flash = none) (c : Call) : (d.mpiProfileStore c).2.Holds kp := by
  unfold Dev.mpiProfileStore; repeat' (with_reducible first | assumption | lift_lets -underBinder | (intro x; refine (fun (hx : Dev.Holds kp x) => ?_) ?_; on_goal 2 => unfold x) | apply Dev.startJob_holds | apply Dev.endJobNo_holds | refine Dev.onMpi_holds ?_ rfl | refine Dev.onMpi_sent ?_ rfl | apply Dev.storeImage_holds | apply holds_ite | fail_if_no_progress (apply holds_upd <;> try rfl) | rfl | intro _ | split | dsimp +zetaDelta only)

theorem Dev.mpiProfileSelect_holds {kp : Keep} {d : Dev} (hk : d.Holds kp) (c : Call) : (d.mpiProfileSelect c).2.Holds kp := by
  unfold Dev.mpiProfileSelect; repeat' (with_reducible first | assumption | lift_lets -underBinder | apply Dev.setBoot_holds | apply holds_ite | fail_if_no_progress (apply holds_upd <;> try rfl) | rfl | intro _ | split)

theorem Dev.mpiCalRegWrite_holds {kp : Keep} {d : Dev} (hk : d.Holds kp) (hc : kp.cells = none) (hr : kp.recs = none) (c : Call) : (d.mpiCalRegWrite c).2.Holds kp := by
  unfold Dev.mpiCalRegWrite; repeat' (with_reducible first | assumption | apply Dev.regWrite_holds)

theorem Dev.mpiSpindleRun_holds {kp : Keep} {d : Dev} (hk : d.Holds kp) (c : Call) : (d.mpiSpindleRun c).2.Holds kp := by
  unfold Dev.mpiSpindleRun; repeat' (with_reducible first | assumption | lift_lets -underBinder | (intro x; refine (fun (hx : Dev.Holds kp x) => ?_) ?_; on_goal 2 => unfold x) | apply Dev.startJob_holds | apply Dev.spinRun_holds | apply holds_ite | intro _ | split | dsimp +zetaDelta only)

theorem Dev.mpiHeadLoad_holds {kp : Keep} {d : Dev} (hk : d.Holds kp) (c : Call) : (d.mpiHeadLoad c).2.Holds kp := by
  unfold Dev.mpiHeadLoad; repeat' (with_reducible first | assumption | lift_lets -underBinder | (intro x; refine (fun (hx : Dev.Holds kp x) => ?_) ?_; on_goal 2 => unfold x) | apply Dev.startJob_holds | apply Dev.servoLoad_holds | apply Dev.servoUnload_holds | apply holds_ite | intro _ | split | dsimp +zetaDelta only)

theorem Dev.mpiSeek_holds {kp : Keep} {d : Dev} (hk : d.Holds kp) (c : Call) : (d.mpiSeek c).2.Holds kp := by
  unfold Dev.mpiSeek; repeat' (with_reducible first | assumption | lift_lets -underBinder | (intro x; refine (fun (hx : Dev.Holds kp x) => ?_) ?_; on_goal 2 => unfold x) | apply Dev.onSrv_holds | apply Dev.setF_holds | apply Dev.servoHead_holds | apply Dev.decideSeek_holds | apply holds_ite | fail_if_no_progress (apply holds_upd <;> try rfl) | rfl | intro _ | split | dsimp +zetaDelta only)

theorem Dev.calWrites_holds {kp : Keep} (hc : kp.cells = none) (hr : kp.recs = none) (x0 : List (Nat × Word)) : ∀ {d : Dev} (hk : d.Holds kp) (c : Call), (d.calWrites c x0).Holds kp := by
  induction x0 with
  | nil =>
    intro d hk c; unfold Dev.calWrites; repeat' (with_reducible first | assumption | apply ih | apply Dev.fabricWrite_holds | intro _ | split)
  | cons y ys ih =>
    intro d hk c; unfold Dev.calWrites; repeat' (with_reducible first | assumption | apply ih | apply Dev.fabricWrite_holds | intro _ | split)

theorem Dev.mpiInject_holds {kp : Keep} {d : Dev} (hk : d.Holds kp) (hc : kp.cells = none) (hr : kp.recs = none) (c : Call) : (d.mpiInject c).2.Holds kp := by
  unfold Dev.mpiInject; repeat' (with_reducible first | assumption | apply Dev.calWrites_holds | apply holds_ite | intro _ | split)

theorem Dev.mpiCaptureArm_holds {kp : Keep} {d : Dev} (hk : d.Holds kp) (hc : kp.cells = none) (hr : kp.recs = none) (c : Call) : (d.mpiCaptureArm c).2.Holds kp := by
  unfold Dev.mpiCaptureArm; repeat' (with_reducible first | assumption | lift_lets -underBinder | (intro x; refine (fun (hx : Dev.Holds kp x) => ?_) ?_; on_goal 2 => unfold x) | apply Dev.calWrites_holds | fail_if_no_progress (apply holds_upd <;> try rfl) | rfl | intro _ | split | dsimp +zetaDelta only)

theorem Dev.mpiCaptureRead_holds {kp : Keep} {d : Dev} (hk : d.Holds kp) (c : Call) : (d.mpiCaptureRead c).2.Holds kp := by
  unfold Dev.mpiCaptureRead; repeat' (with_reducible first | assumption | lift_lets -underBinder | (intro x; refine (fun (hx : Dev.Holds kp x) => ?_) ?_; on_goal 2 => unfold x) | apply holds_ite | fail_if_no_progress (apply holds_upd <;> try rfl) | rfl | intro _ | split | dsimp +zetaDelta only)

theorem Dev.mpiPreampAccess_holds {kp : Keep} {d : Dev} (hk : d.Holds kp) (hc : kp.cells = none) (hr : kp.recs = none) (c : Call) : (d.mpiPreampAccess c).2.Holds kp := by
  unfold Dev.mpiPreampAccess; repeat' (with_reducible first | assumption | lift_lets -underBinder | apply Dev.calWrites_holds | fail_if_no_progress (apply holds_upd <;> try rfl) | rfl | intro _ | split)

theorem Dev.mpiLinkRetrain_holds {kp : Keep} {d : Dev} (hk : d.Holds kp) (c : Call) : (d.mpiLinkRetrain c).2.Holds kp := by
  unfold Dev.mpiLinkRetrain; repeat' (with_reducible first | assumption | lift_lets -underBinder | (intro x; refine (fun (hx : Dev.Holds kp x) => ?_) ?_; on_goal 2 => unfold x) | apply Dev.retrain_holds | intro _ | dsimp +zetaDelta only)

theorem Dev.mpiReaderClear_holds {kp : Keep} {d : Dev} (hk : d.Holds kp) (c : Call) : (d.mpiReaderClear c).2.Holds kp := by
  unfold Dev.mpiReaderClear; repeat' (with_reducible first | assumption | lift_lets -underBinder | (intro x; refine (fun (hx : Dev.Holds kp x) => ?_) ?_; on_goal 2 => unfold x) | apply Dev.clearFail_holds | apply holds_ite | intro _ | split | dsimp +zetaDelta only)

theorem Dev.stageSpOp_holds {kp : Keep} {d : Dev} (hk : d.Holds kp) (a : Act) (h sp : Nat) (p : Nat × Nat) : (d.stageSpOp a h sp p).Holds kp := by
  unfold Dev.stageSpOp; repeat' (with_reducible first | assumption | lift_lets -underBinder | (intro x; refine (fun (hx : Dev.Holds kp x) => ?_) ?_; on_goal 2 => unfold x) | apply Dev.stageTable_holds | apply Dev.settleRecord_holds | apply Dev.recompute_holds | intro _ | dsimp +zetaDelta only)

theorem Dev.mpiAssistRecal_holds {kp : Keep} {d : Dev} (hk : d.Holds kp) (c : Call) : (d.mpiAssistRecal c).2.Holds kp := by
  unfold Dev.mpiAssistRecal; repeat' (with_reducible first | assumption | refine holds_foldl (fun _ _ _ => ?_) _ ?_ | refine holds_foldl_snd (fun _ _ _ => ?_) _ ?_ | lift_lets -underBinder | (intro x; refine (fun (hx : Dev.Holds kp x) => ?_) ?_; on_goal 2 => unfold x) | apply Dev.shortJob_holds | apply Dev.onWr_holds | apply Dev.healthUpdate_holds | apply Dev.setF_holds | apply Dev.servoHead_holds | apply Dev.commit_holds | apply Dev.stageSpOp_holds | apply holds_ite | fail_if_no_progress (apply holds_upd <;> try rfl) | rfl | intro _ | split | dsimp +zetaDelta only)

theorem Dev.mpiEccInject_holds {kp : Keep} {d : Dev} (hk : d.Holds kp) (hc : kp.cells = none) (hr : kp.recs = none) (c : Call) : (d.mpiEccInject c).2.Holds kp := by
  unfold Dev.mpiEccInject; repeat' (with_reducible first | assumption | lift_lets -underBinder | (intro x; refine (fun (hx : Dev.Holds kp x) => ?_) ?_; on_goal 2 => unfold x) | apply Dev.calWrites_holds | apply holds_ite | fail_if_no_progress (apply holds_upd <;> try rfl) | rfl | intro _ | split | dsimp +zetaDelta only)

theorem Dev.endFaultHold_holds {kp : Keep} {d : Dev} (hk : d.Holds kp) : (d.endFaultHold).Holds kp := by
  unfold Dev.endFaultHold; repeat' (with_reducible first | assumption | apply Dev.setF_holds | apply holds_ite | intro _ | split)

theorem Dev.mpiHandover_holds {kp : Keep} {d : Dev} (hk : d.Holds kp) (c : Call) : (d.mpiHandover c).2.Holds kp := by
  unfold Dev.mpiHandover; repeat' (with_reducible first | assumption | lift_lets -underBinder | apply Dev.handoverAll_holds | apply Dev.endFaultHold_holds | apply Dev.semFree_holds | fail_if_no_progress (apply holds_upd <;> try rfl) | rfl | intro _ | split)

end Sys2Proof.Machine
end

