-- ==== Sys2Proof/Laws/Holds/MpiMedia.lean ====
section
/-! SUPPORT. The operations of Machine/MpiMedia.lean carry `Dev.Holds`. -/

namespace Sys2Proof.Machine

set_option linter.unusedTactic false
set_option linter.unreachableTactic false

theorem Dev.diagRead_holds {kp : Keep} {d : Dev} (hk : d.Holds kp) (a : Act) (band pos slot : Nat) (conv : Bool) (e : ReadEnd) : (d.diagRead a band pos slot conv e).2.Holds kp := by
  unfold Dev.diagRead; repeat' (with_reducible first | assumption | lift_lets -underBinder | (intro x; refine (fun (hx : Dev.Holds kp x) => ?_) ?_; on_goal 2 => unfold x) | apply Dev.event_holds | apply Dev.bumpF_holds | apply Dev.keyEvent_holds | apply holds_ite | fail_if_no_progress (apply holds_upd <;> try rfl) | rfl | intro _ | split | dsimp +zetaDelta only)

theorem Dev.mpiTrackRead_holds {kp : Keep} {d : Dev} (hk : d.Holds kp) (c : Call) : (d.mpiTrackRead c).2.Holds kp := by
  unfold Dev.mpiTrackRead; repeat' (with_reducible first | assumption | lift_lets -underBinder | (intro x; refine (fun (hx : Dev.Holds kp x) => ?_) ?_; on_goal 2 => unfold x) | apply Dev.diagRead_holds | apply holds_ite | fail_if_no_progress (apply holds_upd <;> try rfl) | rfl | intro _ | split | dsimp +zetaDelta only)

theorem Dev.scanSlots_holds {kp : Keep}  (x0 : Nat) : ∀ {d : Dev} (hk : d.Holds kp) (c : Call) (bi : Nat) (b : BandRec) (t i : Nat) (x1 : Nat), (d.scanSlots c bi b t i x0 x1).2.Holds kp := by
  induction x0 with
  | zero =>
    intro d hk c bi b t i x1; unfold Dev.scanSlots; repeat' (with_reducible first | assumption | lift_lets -underBinder | (intro x; refine (fun (hx : Dev.Holds kp x) => ?_) ?_; on_goal 2 => unfold x) | apply ih | apply Dev.diagRead_holds | intro _ | split | dsimp +zetaDelta only)
  | succ n ih =>
    intro d hk c bi b t i x1; unfold Dev.scanSlots; repeat' (with_reducible first | assumption | lift_lets -underBinder | (intro x; refine (fun (hx : Dev.Holds kp x) => ?_) ?_; on_goal 2 => unfold x) | apply ih | apply Dev.diagRead_holds | intro _ | split | dsimp +zetaDelta only)

theorem Dev.scanTracks_holds {kp : Keep}  (x0 : Nat) : ∀ {d : Dev} (hk : d.Holds kp) (c : Call) (track i : Nat), (d.scanTracks c track i x0).2.Holds kp := by
  induction x0 with
  | zero =>
    intro d hk c track i; unfold Dev.scanTracks; repeat' (with_reducible first | assumption | lift_lets -underBinder | (intro x; refine (fun (hx : Dev.Holds kp x) => ?_) ?_; on_goal 2 => unfold x) | apply ih | apply Dev.scanSlots_holds | fail_if_no_progress (apply holds_upd <;> try rfl) | rfl | intro _ | split | dsimp +zetaDelta only)
  | succ n ih =>
    intro d hk c track i; unfold Dev.scanTracks; repeat' (with_reducible first | assumption | lift_lets -underBinder | (intro x; refine (fun (hx : Dev.Holds kp x) => ?_) ?_; on_goal 2 => unfold x) | apply ih | apply Dev.scanSlots_holds | fail_if_no_progress (apply holds_upd <;> try rfl) | rfl | intro _ | split | dsimp +zetaDelta only)

theorem Dev.mpiTrackScan_holds {kp : Keep} {d : Dev} (hk : d.Holds kp) (c : Call) : (d.mpiTrackScan c).2.Holds kp := by
  unfold Dev.mpiTrackScan; repeat' (with_reducible first | assumption | lift_lets -underBinder | (intro x; refine (fun (hx : Dev.Holds kp x) => ?_) ?_; on_goal 2 => unfold x) | apply Dev.shortJob_holds | apply Dev.scanTracks_holds | apply holds_ite | intro _ | split | dsimp +zetaDelta only)

theorem Dev.mpiReplayRead_holds {kp : Keep} {d : Dev} (hk : d.Holds kp) (c : Call) : (d.mpiReplayRead c).2.Holds kp := by
  unfold Dev.mpiReplayRead; repeat' (with_reducible first | assumption | lift_lets -underBinder | (intro x; refine (fun (hx : Dev.Holds kp x) => ?_) ?_; on_goal 2 => unfold x) | apply holds_ite | fail_if_no_progress (apply holds_upd <;> try rfl) | rfl | intro _ | split | dsimp +zetaDelta only)

theorem Dev.mpiLbaToPhys_holds {kp : Keep} {d : Dev} (hk : d.Holds kp) (c : Call) : (d.mpiLbaToPhys c).2.Holds kp := by
  unfold Dev.mpiLbaToPhys; repeat' (with_reducible first | assumption | lift_lets -underBinder | (intro x; refine (fun (hx : Dev.Holds kp x) => ?_) ?_; on_goal 2 => unfold x) | apply holds_ite | intro _ | split | dsimp +zetaDelta only)

theorem Dev.mpiDefectRead_holds {kp : Keep} {d : Dev} (hk : d.Holds kp) (c : Call) : (d.mpiDefectRead c).2.Holds kp := by
  unfold Dev.mpiDefectRead; repeat' (with_reducible first | assumption | lift_lets -underBinder | (intro x; refine (fun (hx : Dev.Holds kp x) => ?_) ?_; on_goal 2 => unfold x) | apply holds_ite | fail_if_no_progress (apply holds_upd <;> try rfl) | rfl | intro _ | split | dsimp +zetaDelta only)

theorem Dev.mpiDefectPend_holds {kp : Keep} {d : Dev} (hk : d.Holds kp) (c : Call) : (d.mpiDefectPend c).2.Holds kp := by
  unfold Dev.mpiDefectPend; repeat' (with_reducible first | assumption | lift_lets -underBinder | (intro x; refine (fun (hx : Dev.Holds kp x) => ?_) ?_; on_goal 2 => unfold x) | apply Dev.pendSlip_holds | apply holds_ite | fail_if_no_progress (apply holds_upd <;> try rfl) | rfl | intro _ | split | dsimp +zetaDelta only)

theorem Dev.mpiHeadFail_holds {kp : Keep} {d : Dev} (hk : d.Holds kp) (c : Call) : (d.mpiHeadFail c).2.Holds kp := by
  unfold Dev.mpiHeadFail; repeat' (with_reducible first | assumption | apply Dev.shortJob_holds | apply Dev.headFailing_holds | apply holds_ite | intro _ | split)

theorem Dev.mpiReconRead_holds {kp : Keep} {d : Dev} (hk : d.Holds kp) (c : Call) : (d.mpiReconRead c).2.Holds kp := by
  unfold Dev.mpiReconRead; repeat' (with_reducible first | assumption | lift_lets -underBinder | (intro x; refine (fun (hx : Dev.Holds kp x) => ?_) ?_; on_goal 2 => unfold x) | apply Dev.bumpF_holds | apply Dev.reconFailed_holds | apply holds_ite | fail_if_no_progress (apply holds_upd <;> try rfl) | rfl | intro _ | split | dsimp +zetaDelta only)

theorem Dev.mpiHatbandRead_holds {kp : Keep} {d : Dev} (hk : d.Holds kp) (c : Call) : (d.mpiHatbandRead c).2.Holds kp := by
  unfold Dev.mpiHatbandRead; repeat' (with_reducible first | assumption | lift_lets -underBinder | (intro x; refine (fun (hx : Dev.Holds kp x) => ?_) ?_; on_goal 2 => unfold x) | apply holds_ite | intro _ | split | dsimp +zetaDelta only)

theorem Dev.mpiHatbandClear_holds {kp : Keep} {d : Dev} (hk : d.Holds kp) (c : Call) : (d.mpiHatbandClear c).2.Holds kp := by
  unfold Dev.mpiHatbandClear; repeat' (with_reducible first | assumption | apply Dev.clearHatband_holds | apply holds_ite | intro _ | split)

theorem Dev.archive_holds {kp : Keep} {d : Dev} (hk : d.Holds kp) (hc : kp.cells = none) (o : MpiObs) : (d.archive o).2.Holds kp := by
  unfold Dev.archive; repeat' (with_reducible first | assumption | lift_lets -underBinder | (intro x; refine (fun (hx : Dev.Holds kp x) => ?_) ?_; on_goal 2 => unfold x) | apply Dev.freezeRecs_holds | apply Dev.countJob_holds | apply Dev.writeSpace_holds | fail_if_no_progress (apply holds_upd <;> try rfl) | rfl | intro _ | dsimp +zetaDelta only)

theorem Dev.foreseeJob_holds {kp : Keep} {d : Dev} (hk : d.Holds kp) (n status : Nat) (result : List Word) : (d.foreseeJob n status result).Holds kp := by
  unfold Dev.foreseeJob; repeat' (with_reducible first | assumption | lift_lets -underBinder | refine Dev.onMpi_holds ?_ rfl | refine Dev.onMpi_sent ?_ rfl | apply holds_ite | fail_if_no_progress (apply holds_upd <;> try rfl) | rfl | intro _ | split)

theorem Dev.mpiHatbandArchive_holds {kp : Keep} {d : Dev} (hk : d.Holds kp) (hc : kp.cells = none) (c : Call) : (d.mpiHatbandArchive c).2.Holds kp := by
  unfold Dev.mpiHatbandArchive; repeat' (with_reducible first | assumption | lift_lets -underBinder | (intro x; refine (fun (hx : Dev.Holds kp x) => ?_) ?_; on_goal 2 => unfold x) | apply Dev.startJob_holds | apply Dev.archive_holds | apply Dev.foreseeJob_holds | intro _ | dsimp +zetaDelta only)

theorem Dev.readList_holds {kp : Keep}  (x0 : List Nat) : ∀ {d : Dev} (hk : d.Holds kp) (who : Requester) (o : FabricObs), (d.readList who o x0).2.Holds kp := by
  induction x0 with
  | nil =>
    intro d hk who o; unfold Dev.readList; repeat' (with_reducible first | assumption | lift_lets -underBinder | (intro x; refine (fun (hx : Dev.Holds kp x) => ?_) ?_; on_goal 2 => unfold x) | apply ih | apply Dev.fabricRead_holds | intro _ | split | dsimp +zetaDelta only)
  | cons y ys ih =>
    intro d hk who o; unfold Dev.readList; repeat' (with_reducible first | assumption | lift_lets -underBinder | (intro x; refine (fun (hx : Dev.Holds kp x) => ?_) ?_; on_goal 2 => unfold x) | apply ih | apply Dev.fabricRead_holds | intro _ | split | dsimp +zetaDelta only)

theorem Dev.mpiCounters_holds {kp : Keep} {d : Dev} (hk : d.Holds kp) (c : Call) : (d.mpiCounters c).2.Holds kp := by
  unfold Dev.mpiCounters; repeat' (with_reducible first | assumption | lift_lets -underBinder | (intro x; refine (fun (hx : Dev.Holds kp x) => ?_) ?_; on_goal 2 => unfold x) | apply Dev.readList_holds | fail_if_no_progress (apply holds_upd <;> try rfl) | rfl | intro _ | split | dsimp +zetaDelta only)

theorem Dev.mpiHeadHealth_holds {kp : Keep} {d : Dev} (hk : d.Holds kp) (c : Call) : (d.mpiHeadHealth c).2.Holds kp := by
  unfold Dev.mpiHeadHealth; repeat' (with_reducible first | assumption | apply holds_ite | intro _ | split)

theorem Dev.mpiFeltLog_holds {kp : Keep} {d : Dev} (hk : d.Holds kp) (c : Call) : (d.mpiFeltLog c).2.Holds kp := by
  unfold Dev.mpiFeltLog; repeat' (with_reducible first | assumption | lift_lets -underBinder | (intro x; refine (fun (hx : Dev.Holds kp x) => ?_) ?_; on_goal 2 => unfold x) | apply holds_ite | intro _ | split | dsimp +zetaDelta only)

theorem Dev.mpiVaultInfo_holds {kp : Keep} {d : Dev} (hk : d.Holds kp) (w1_0 : Call) : (d.mpiVaultInfo w1_0).2.Holds kp := by
  unfold Dev.mpiVaultInfo; repeat' (with_reducible first | assumption)

theorem Dev.mpiOptionWrite_holds {kp : Keep} {d : Dev} (hk : d.Holds kp) (c : Call) : (d.mpiOptionWrite c).2.Holds kp := by
  unfold Dev.mpiOptionWrite; repeat' (with_reducible first | assumption | lift_lets -underBinder | (intro x; refine (fun (hx : Dev.Holds kp x) => ?_) ?_; on_goal 2 => unfold x) | apply Dev.optionWrite_holds | apply holds_ite | intro _ | split | dsimp +zetaDelta only)

theorem Dev.mpiSlotInfo_holds {kp : Keep} {d : Dev} (hk : d.Holds kp) (c : Call) : (d.mpiSlotInfo c).2.Holds kp := by
  unfold Dev.mpiSlotInfo; repeat' (with_reducible first | assumption)

theorem Dev.mpiFwDownload_holds {kp : Keep} {d : Dev} (hk : d.Holds kp) (c : Call) : (d.mpiFwDownload c).2.Holds kp := by
  unfold Dev.mpiFwDownload; repeat' (with_reducible first | assumption | lift_lets -underBinder | (intro x; refine (fun (hx : Dev.Holds kp x) => ?_) ?_; on_goal 2 => unfold x) | refine Dev.onMpi_holds ?_ rfl | refine Dev.onMpi_sent ?_ rfl | apply holds_ite | fail_if_no_progress (apply holds_upd <;> try rfl) | rfl | intro _ | split | dsimp +zetaDelta only)

theorem Dev.fwCommitted_holds {kp : Keep} {d : Dev} (hk : d.Holds kp) (job slot ca : Nat) (h : ImageHeader) : (d.fwCommitted job slot ca h).Holds kp := by
  unfold Dev.fwCommitted; repeat' (with_reducible first | assumption | lift_lets -underBinder | apply Dev.startActivation_holds | apply Dev.semBegin_holds | refine Dev.onMpi_holds ?_ rfl | refine Dev.onMpi_sent ?_ rfl | apply Dev.endJobNo_holds | apply Dev.fwDone_holds | apply Dev.setPendingFw_holds | apply holds_ite | fail_if_no_progress (apply holds_upd <;> try rfl) | rfl | intro _ | split)

theorem Dev.mpiFwCommit_holds {kp : Keep} {d : Dev} (hk : d.Holds kp) (hf : kp.flash = none) (c : Call) :
    (d.mpiFwCommit c).2.Holds kp := by
  unfold Dev.mpiFwCommit
  dsimp only
  split
  · exact hk
  · split
    · exact hk
    · split
      · exact hk
      · have hs := Dev.startJob_holds hk c.p.op (c.num Ty.slot)
        generalize d.startJob c.p.op (c.num Ty.slot) = s at hs ⊢
        split
        · have h := Dev.slotFault_holds hs true c.o.sig (c.num Ty.slot)
          generalize s.2.slotFault true c.o.sig (c.num Ty.slot) = r at h ⊢
          split
          · exact Dev.fwCommitted_holds h _ _ _ _
          · exact Dev.endJobNo_holds h _ _ _ _
        · generalize (if c.num Ty.value = 3 then s.2.commitImage s.2.mpi.fw (c.num Ty.slot) else imageOfPieces s.2.mpi.fw) = img
          cases img with
          | none => exact Dev.endJobNo_holds hs _ _ _ _
          | some bs =>
            dsimp only
            split
            · exact Dev.endJobNo_holds hs _ _ _ _
            · split
              · exact Dev.endJobNo_holds hs _ _ _ _
              · split
                · exact Dev.fwCommitted_holds hs _ _ _ _
                · have h1 := Dev.onMpi_holds (g := fun m => { m with fw := [] }) (Dev.storeImage_holds hs hf true (c.num Ty.slot)
                    (bs.take (256 + (ImageHeader.ofBytes bs).clen)) c.o.store) rfl
                  exact holds_ite (Dev.fwCommitted_holds h1 _ _ _ _) h1

theorem Dev.mpiFullerJob_holds {kp : Keep} {d : Dev} (hk : d.Holds kp) (hc : kp.cells = none) (c : Call) : (d.mpiFullerJob c).2.Holds kp := by
  unfold Dev.mpiFullerJob; repeat' (with_reducible first | assumption | lift_lets -underBinder | (intro x; refine (fun (hx : Dev.Holds kp x) => ?_) ?_; on_goal 2 => unfold x) | apply Dev.shortJob_holds | apply Dev.readDram_holds | apply Dev.countJob_holds | apply Dev.writeSpace_holds | apply holds_ite | fail_if_no_progress (apply holds_upd <;> try rfl) | rfl | intro _ | split | dsimp +zetaDelta only)

theorem Dev.mpiMirrorVersion_holds {kp : Keep} {d : Dev} (hk : d.Holds kp) (w1_0 : Call) : (d.mpiMirrorVersion w1_0).2.Holds kp := by
  unfold Dev.mpiMirrorVersion; repeat' (with_reducible first | assumption | lift_lets -underBinder | (intro x; refine (fun (hx : Dev.Holds kp x) => ?_) ?_; on_goal 2 => unfold x) | intro _ | dsimp +zetaDelta only)

theorem Dev.mpiHandoverReq_holds {kp : Keep} {d : Dev} (hk : d.Holds kp) (c : Call) : (d.mpiHandoverReq c).2.Holds kp := by
  unfold Dev.mpiHandoverReq; repeat' (with_reducible first | assumption | refine holds_foldl (fun _ _ _ => ?_) _ ?_ | refine holds_foldl_snd (fun _ _ _ => ?_) _ ?_ | apply Dev.handover_holds | intro _)

theorem Dev.mpiHandoverDone_holds {kp : Keep} {d : Dev} (hk : d.Holds kp) (w1_0 : Call) : (d.mpiHandoverDone w1_0).2.Holds kp := by
  unfold Dev.mpiHandoverDone; repeat' (with_reducible first | assumption)

theorem Dev.mpiHeartbeat_holds {kp : Keep} {d : Dev} (hk : d.Holds kp) (w1_0 : Call) : (d.mpiHeartbeat w1_0).2.Holds kp := by
  unfold Dev.mpiHeartbeat; repeat' (with_reducible first | assumption | intro _)

end Sys2Proof.Machine
end

