-- ==== Sys2Proof/Laws/Holds/Mpi.lean ====
section
/-! SUPPORT. The operations of Machine/Mpi.lean carry `Dev.Holds`. -/

namespace Sys2Proof.Machine

set_option linter.unusedTactic false
set_option linter.unreachableTactic false

-- TODO nodev handlers :  : List (Nat × (Dev → Call → Rep × Dev))

theorem handlers_holds {kp : Keep} (hc : kp.cells = none) (hf : kp.flash = none) (hr : kp.recs = none) :
    ∀ h ∈ handlers, ∀ {d : Dev}, d.Holds kp → ∀ c : Call, (h.2 d c).2.Holds kp := by
  unfold handlers
  repeat' (first | exact List.forall_mem_nil _ | refine List.forall_mem_cons.mpr ⟨fun {d} hk c => ?_, ?_⟩)
  · first | exact Dev.mpiEcho_holds hk c | exact Dev.mpiEcho_holds hk hc c | exact Dev.mpiEcho_holds hk hc hf hr c | exact Dev.mpiEcho_holds hk hf c | exact Dev.mpiEcho_holds hk hr c | exact Dev.mpiEcho_holds hk hc hr c | exact Dev.mpiEcho_holds hk hc hf c | exact Dev.mpiEcho_holds hk hf hr c
  · first | exact Dev.mpiGetInfo_holds hk c | exact Dev.mpiGetInfo_holds hk hc c | exact Dev.mpiGetInfo_holds hk hc hf hr c | exact Dev.mpiGetInfo_holds hk hf c | exact Dev.mpiGetInfo_holds hk hr c | exact Dev.mpiGetInfo_holds hk hc hr c | exact Dev.mpiGetInfo_holds hk hc hf c | exact Dev.mpiGetInfo_holds hk hf hr c
  · first | exact Dev.mpiSemClaim_holds hk c | exact Dev.mpiSemClaim_holds hk hc c | exact Dev.mpiSemClaim_holds hk hc hf hr c | exact Dev.mpiSemClaim_holds hk hf c | exact Dev.mpiSemClaim_holds hk hr c | exact Dev.mpiSemClaim_holds hk hc hr c | exact Dev.mpiSemClaim_holds hk hc hf c | exact Dev.mpiSemClaim_holds hk hf hr c
  · first | exact Dev.mpiSemRelease_holds hk c | exact Dev.mpiSemRelease_holds hk hc c | exact Dev.mpiSemRelease_holds hk hc hf hr c | exact Dev.mpiSemRelease_holds hk hf c | exact Dev.mpiSemRelease_holds hk hr c | exact Dev.mpiSemRelease_holds hk hc hr c | exact Dev.mpiSemRelease_holds hk hc hf c | exact Dev.mpiSemRelease_holds hk hf hr c
  · first | exact Dev.mpiSemStatus_holds hk c | exact Dev.mpiSemStatus_holds hk hc c | exact Dev.mpiSemStatus_holds hk hc hf hr c | exact Dev.mpiSemStatus_holds hk hf c | exact Dev.mpiSemStatus_holds hk hr c | exact Dev.mpiSemStatus_holds hk hc hr c | exact Dev.mpiSemStatus_holds hk hc hf c | exact Dev.mpiSemStatus_holds hk hf hr c
  · first | exact Dev.mpiJobStatus_holds hk c | exact Dev.mpiJobStatus_holds hk hc c | exact Dev.mpiJobStatus_holds hk hc hf hr c | exact Dev.mpiJobStatus_holds hk hf c | exact Dev.mpiJobStatus_holds hk hr c | exact Dev.mpiJobStatus_holds hk hc hr c | exact Dev.mpiJobStatus_holds hk hc hf c | exact Dev.mpiJobStatus_holds hk hf hr c
  · first | exact Dev.mpiJobAbort_holds hk c | exact Dev.mpiJobAbort_holds hk hc c | exact Dev.mpiJobAbort_holds hk hc hf hr c | exact Dev.mpiJobAbort_holds hk hf c | exact Dev.mpiJobAbort_holds hk hr c | exact Dev.mpiJobAbort_holds hk hc hr c | exact Dev.mpiJobAbort_holds hk hc hf c | exact Dev.mpiJobAbort_holds hk hf hr c
  · first | exact Dev.mpiRegRead_holds hk c | exact Dev.mpiRegRead_holds hk hc c | exact Dev.mpiRegRead_holds hk hc hf hr c | exact Dev.mpiRegRead_holds hk hf c | exact Dev.mpiRegRead_holds hk hr c | exact Dev.mpiRegRead_holds hk hc hr c | exact Dev.mpiRegRead_holds hk hc hf c | exact Dev.mpiRegRead_holds hk hf hr c
  · first | exact Dev.mpiRegWrite_holds hk c | exact Dev.mpiRegWrite_holds hk hc c | exact Dev.mpiRegWrite_holds hk hc hf hr c | exact Dev.mpiRegWrite_holds hk hf c | exact Dev.mpiRegWrite_holds hk hr c | exact Dev.mpiRegWrite_holds hk hc hr c | exact Dev.mpiRegWrite_holds hk hc hf c | exact Dev.mpiRegWrite_holds hk hf hr c
  · first | exact Dev.mpiRegBatch_holds hk c | exact Dev.mpiRegBatch_holds hk hc c | exact Dev.mpiRegBatch_holds hk hc hf hr c | exact Dev.mpiRegBatch_holds hk hf c | exact Dev.mpiRegBatch_holds hk hr c | exact Dev.mpiRegBatch_holds hk hc hr c | exact Dev.mpiRegBatch_holds hk hc hf c | exact Dev.mpiRegBatch_holds hk hf hr c
  · first | exact Dev.mpiRegPoll_holds hk c | exact Dev.mpiRegPoll_holds hk hc c | exact Dev.mpiRegPoll_holds hk hc hf hr c | exact Dev.mpiRegPoll_holds hk hf c | exact Dev.mpiRegPoll_holds hk hr c | exact Dev.mpiRegPoll_holds hk hc hr c | exact Dev.mpiRegPoll_holds hk hc hf c | exact Dev.mpiRegPoll_holds hk hf hr c
  · first | exact Dev.mpiMemRead_holds hk c | exact Dev.mpiMemRead_holds hk hc c | exact Dev.mpiMemRead_holds hk hc hf hr c | exact Dev.mpiMemRead_holds hk hf c | exact Dev.mpiMemRead_holds hk hr c | exact Dev.mpiMemRead_holds hk hc hr c | exact Dev.mpiMemRead_holds hk hc hf c | exact Dev.mpiMemRead_holds hk hf hr c
  · first | exact Dev.mpiMemWrite_holds hk c | exact Dev.mpiMemWrite_holds hk hc c | exact Dev.mpiMemWrite_holds hk hc hf hr c | exact Dev.mpiMemWrite_holds hk hf c | exact Dev.mpiMemWrite_holds hk hr c | exact Dev.mpiMemWrite_holds hk hc hr c | exact Dev.mpiMemWrite_holds hk hc hf c | exact Dev.mpiMemWrite_holds hk hf hr c
  · first | exact Dev.mpiCfgCommit_holds hk c | exact Dev.mpiCfgCommit_holds hk hc c | exact Dev.mpiCfgCommit_holds hk hc hf hr c | exact Dev.mpiCfgCommit_holds hk hf c | exact Dev.mpiCfgCommit_holds hk hr c | exact Dev.mpiCfgCommit_holds hk hc hr c | exact Dev.mpiCfgCommit_holds hk hc hf c | exact Dev.mpiCfgCommit_holds hk hf hr c
  · first | exact Dev.mpiCfgDiscard_holds hk c | exact Dev.mpiCfgDiscard_holds hk hc c | exact Dev.mpiCfgDiscard_holds hk hc hf hr c | exact Dev.mpiCfgDiscard_holds hk hf c | exact Dev.mpiCfgDiscard_holds hk hr c | exact Dev.mpiCfgDiscard_holds hk hc hr c | exact Dev.mpiCfgDiscard_holds hk hc hf c | exact Dev.mpiCfgDiscard_holds hk hf hr c
  · first | exact Dev.mpiCfgStatus_holds hk c | exact Dev.mpiCfgStatus_holds hk hc c | exact Dev.mpiCfgStatus_holds hk hc hf hr c | exact Dev.mpiCfgStatus_holds hk hf c | exact Dev.mpiCfgStatus_holds hk hr c | exact Dev.mpiCfgStatus_holds hk hc hr c | exact Dev.mpiCfgStatus_holds hk hc hf c | exact Dev.mpiCfgStatus_holds hk hf hr c
  · first | exact Dev.mpiSizerCheck_holds hk c | exact Dev.mpiSizerCheck_holds hk hc c | exact Dev.mpiSizerCheck_holds hk hc hf hr c | exact Dev.mpiSizerCheck_holds hk hf c | exact Dev.mpiSizerCheck_holds hk hr c | exact Dev.mpiSizerCheck_holds hk hc hr c | exact Dev.mpiSizerCheck_holds hk hc hf c | exact Dev.mpiSizerCheck_holds hk hf hr c
  · first | exact Dev.mpiTableWrite_holds hk c | exact Dev.mpiTableWrite_holds hk hc c | exact Dev.mpiTableWrite_holds hk hc hf hr c | exact Dev.mpiTableWrite_holds hk hf c | exact Dev.mpiTableWrite_holds hk hr c | exact Dev.mpiTableWrite_holds hk hc hr c | exact Dev.mpiTableWrite_holds hk hc hf c | exact Dev.mpiTableWrite_holds hk hf hr c
  · first | exact Dev.mpiTableRead_holds hk c | exact Dev.mpiTableRead_holds hk hc c | exact Dev.mpiTableRead_holds hk hc hf hr c | exact Dev.mpiTableRead_holds hk hf c | exact Dev.mpiTableRead_holds hk hr c | exact Dev.mpiTableRead_holds hk hc hr c | exact Dev.mpiTableRead_holds hk hc hf c | exact Dev.mpiTableRead_holds hk hf hr c
  · first | exact Dev.mpiCstWrite_holds hk c | exact Dev.mpiCstWrite_holds hk hc c | exact Dev.mpiCstWrite_holds hk hc hf hr c | exact Dev.mpiCstWrite_holds hk hf c | exact Dev.mpiCstWrite_holds hk hr c | exact Dev.mpiCstWrite_holds hk hc hr c | exact Dev.mpiCstWrite_holds hk hc hf c | exact Dev.mpiCstWrite_holds hk hf hr c
  · first | exact Dev.mpiProfileLoad_holds hk c | exact Dev.mpiProfileLoad_holds hk hc c | exact Dev.mpiProfileLoad_holds hk hc hf hr c | exact Dev.mpiProfileLoad_holds hk hf c | exact Dev.mpiProfileLoad_holds hk hr c | exact Dev.mpiProfileLoad_holds hk hc hr c | exact Dev.mpiProfileLoad_holds hk hc hf c | exact Dev.mpiProfileLoad_holds hk hf hr c
  · first | exact Dev.mpiProfileSection_holds hk c | exact Dev.mpiProfileSection_holds hk hc c | exact Dev.mpiProfileSection_holds hk hc hf hr c | exact Dev.mpiProfileSection_holds hk hf c | exact Dev.mpiProfileSection_holds hk hr c | exact Dev.mpiProfileSection_holds hk hc hr c | exact Dev.mpiProfileSection_holds hk hc hf c | exact Dev.mpiProfileSection_holds hk hf hr c
  · first | exact Dev.mpiProfileDownload_holds hk c | exact Dev.mpiProfileDownload_holds hk hc c | exact Dev.mpiProfileDownload_holds hk hc hf hr c | exact Dev.mpiProfileDownload_holds hk hf c | exact Dev.mpiProfileDownload_holds hk hr c | exact Dev.mpiProfileDownload_holds hk hc hr c | exact Dev.mpiProfileDownload_holds hk hc hf c | exact Dev.mpiProfileDownload_holds hk hf hr c
  · first | exact Dev.mpiProfileStore_holds hk c | exact Dev.mpiProfileStore_holds hk hc c | exact Dev.mpiProfileStore_holds hk hc hf hr c | exact Dev.mpiProfileStore_holds hk hf c | exact Dev.mpiProfileStore_holds hk hr c | exact Dev.mpiProfileStore_holds hk hc hr c | exact Dev.mpiProfileStore_holds hk hc hf c | exact Dev.mpiProfileStore_holds hk hf hr c
  · first | exact Dev.mpiProfileSelect_holds hk c | exact Dev.mpiProfileSelect_holds hk hc c | exact Dev.mpiProfileSelect_holds hk hc hf hr c | exact Dev.mpiProfileSelect_holds hk hf c | exact Dev.mpiProfileSelect_holds hk hr c | exact Dev.mpiProfileSelect_holds hk hc hr c | exact Dev.mpiProfileSelect_holds hk hc hf c | exact Dev.mpiProfileSelect_holds hk hf hr c
  · first | exact Dev.mpiCalRegWrite_holds hk c | exact Dev.mpiCalRegWrite_holds hk hc c | exact Dev.mpiCalRegWrite_holds hk hc hf hr c | exact Dev.mpiCalRegWrite_holds hk hf c | exact Dev.mpiCalRegWrite_holds hk hr c | exact Dev.mpiCalRegWrite_holds hk hc hr c | exact Dev.mpiCalRegWrite_holds hk hc hf c | exact Dev.mpiCalRegWrite_holds hk hf hr c
  · first | exact Dev.mpiSpindleRun_holds hk c | exact Dev.mpiSpindleRun_holds hk hc c | exact Dev.mpiSpindleRun_holds hk hc hf hr c | exact Dev.mpiSpindleRun_holds hk hf c | exact Dev.mpiSpindleRun_holds hk hr c | exact Dev.mpiSpindleRun_holds hk hc hr c | exact Dev.mpiSpindleRun_holds hk hc hf c | exact Dev.mpiSpindleRun_holds hk hf hr c
  · first | exact Dev.mpiHeadLoad_holds hk c | exact Dev.mpiHeadLoad_holds hk hc c | exact Dev.mpiHeadLoad_holds hk hc hf hr c | exact Dev.mpiHeadLoad_holds hk hf c | exact Dev.mpiHeadLoad_holds hk hr c | exact Dev.mpiHeadLoad_holds hk hc hr c | exact Dev.mpiHeadLoad_holds hk hc hf c | exact Dev.mpiHeadLoad_holds hk hf hr c
  · first | exact Dev.mpiSeek_holds hk c | exact Dev.mpiSeek_holds hk hc c | exact Dev.mpiSeek_holds hk hc hf hr c | exact Dev.mpiSeek_holds hk hf c | exact Dev.mpiSeek_holds hk hr c | exact Dev.mpiSeek_holds hk hc hr c | exact Dev.mpiSeek_holds hk hc hf c | exact Dev.mpiSeek_holds hk hf hr c
  · first | exact Dev.mpiInject_holds hk c | exact Dev.mpiInject_holds hk hc c | exact Dev.mpiInject_holds hk hc hf hr c | exact Dev.mpiInject_holds hk hf c | exact Dev.mpiInject_holds hk hr c | exact Dev.mpiInject_holds hk hc hr c | exact Dev.mpiInject_holds hk hc hf c | exact Dev.mpiInject_holds hk hf hr c
  · first | exact Dev.mpiCaptureArm_holds hk c | exact Dev.mpiCaptureArm_holds hk hc c | exact Dev.mpiCaptureArm_holds hk hc hf hr c | exact Dev.mpiCaptureArm_holds hk hf c | exact Dev.mpiCaptureArm_holds hk hr c | exact Dev.mpiCaptureArm_holds hk hc hr c | exact Dev.mpiCaptureArm_holds hk hc hf c | exact Dev.mpiCaptureArm_holds hk hf hr c
  · first | exact Dev.mpiCaptureRead_holds hk c | exact Dev.mpiCaptureRead_holds hk hc c | exact Dev.mpiCaptureRead_holds hk hc hf hr c | exact Dev.mpiCaptureRead_holds hk hf c | exact Dev.mpiCaptureRead_holds hk hr c | exact Dev.mpiCaptureRead_holds hk hc hr c | exact Dev.mpiCaptureRead_holds hk hc hf c | exact Dev.mpiCaptureRead_holds hk hf hr c
  · first | exact Dev.mpiPreampAccess_holds hk c | exact Dev.mpiPreampAccess_holds hk hc c | exact Dev.mpiPreampAccess_holds hk hc hf hr c | exact Dev.mpiPreampAccess_holds hk hf c | exact Dev.mpiPreampAccess_holds hk hr c | exact Dev.mpiPreampAccess_holds hk hc hr c | exact Dev.mpiPreampAccess_holds hk hc hf c | exact Dev.mpiPreampAccess_holds hk hf hr c
  · first | exact Dev.mpiLinkRetrain_holds hk c | exact Dev.mpiLinkRetrain_holds hk hc c | exact Dev.mpiLinkRetrain_holds hk hc hf hr c | exact Dev.mpiLinkRetrain_holds hk hf c | exact Dev.mpiLinkRetrain_holds hk hr c | exact Dev.mpiLinkRetrain_holds hk hc hr c | exact Dev.mpiLinkRetrain_holds hk hc hf c | exact Dev.mpiLinkRetrain_holds hk hf hr c
  · first | exact Dev.mpiReaderClear_holds hk c | exact Dev.mpiReaderClear_holds hk hc c | exact Dev.mpiReaderClear_holds hk hc hf hr c | exact Dev.mpiReaderClear_holds hk hf c | exact Dev.mpiReaderClear_holds hk hr c | exact Dev.mpiReaderClear_holds hk hc hr c | exact Dev.mpiReaderClear_holds hk hc hf c | exact Dev.mpiReaderClear_holds hk hf hr c
  · first | exact Dev.mpiAssistRecal_holds hk c | exact Dev.mpiAssistRecal_holds hk hc c | exact Dev.mpiAssistRecal_holds hk hc hf hr c | exact Dev.mpiAssistRecal_holds hk hf c | exact Dev.mpiAssistRecal_holds hk hr c | exact Dev.mpiAssistRecal_holds hk hc hr c | exact Dev.mpiAssistRecal_holds hk hc hf c | exact Dev.mpiAssistRecal_holds hk hf hr c
  · first | exact Dev.mpiEccInject_holds hk c | exact Dev.mpiEccInject_holds hk hc c | exact Dev.mpiEccInject_holds hk hc hf hr c | exact Dev.mpiEccInject_holds hk hf c | exact Dev.mpiEccInject_holds hk hr c | exact Dev.mpiEccInject_holds hk hc hr c | exact Dev.mpiEccInject_holds hk hc hf c | exact Dev.mpiEccInject_holds hk hf hr c
  · first | exact Dev.mpiHandover_holds hk c | exact Dev.mpiHandover_holds hk hc c | exact Dev.mpiHandover_holds hk hc hf hr c | exact Dev.mpiHandover_holds hk hf c | exact Dev.mpiHandover_holds hk hr c | exact Dev.mpiHandover_holds hk hc hr c | exact Dev.mpiHandover_holds hk hc hf c | exact Dev.mpiHandover_holds hk hf hr c
  · first | exact Dev.mpiTrackRead_holds hk c | exact Dev.mpiTrackRead_holds hk hc c | exact Dev.mpiTrackRead_holds hk hc hf hr c | exact Dev.mpiTrackRead_holds hk hf c | exact Dev.mpiTrackRead_holds hk hr c | exact Dev.mpiTrackRead_holds hk hc hr c | exact Dev.mpiTrackRead_holds hk hc hf c | exact Dev.mpiTrackRead_holds hk hf hr c
  · first | exact Dev.mpiTrackScan_holds hk c | exact Dev.mpiTrackScan_holds hk hc c | exact Dev.mpiTrackScan_holds hk hc hf hr c | exact Dev.mpiTrackScan_holds hk hf c | exact Dev.mpiTrackScan_holds hk hr c | exact Dev.mpiTrackScan_holds hk hc hr c | exact Dev.mpiTrackScan_holds hk hc hf c | exact Dev.mpiTrackScan_holds hk hf hr c
  · first | exact Dev.mpiReplayRead_holds hk c | exact Dev.mpiReplayRead_holds hk hc c | exact Dev.mpiReplayRead_holds hk hc hf hr c | exact Dev.mpiReplayRead_holds hk hf c | exact Dev.mpiReplayRead_holds hk hr c | exact Dev.mpiReplayRead_holds hk hc hr c | exact Dev.mpiReplayRead_holds hk hc hf c | exact Dev.mpiReplayRead_holds hk hf hr c
  · first | exact Dev.mpiLbaToPhys_holds hk c | exact Dev.mpiLbaToPhys_holds hk hc c | exact Dev.mpiLbaToPhys_holds hk hc hf hr c | exact Dev.mpiLbaToPhys_holds hk hf c | exact Dev.mpiLbaToPhys_holds hk hr c | exact Dev.mpiLbaToPhys_holds hk hc hr c | exact Dev.mpiLbaToPhys_holds hk hc hf c | exact Dev.mpiLbaToPhys_holds hk hf hr c
  · first | exact Dev.mpiDefectRead_holds hk c | exact Dev.mpiDefectRead_holds hk hc c | exact Dev.mpiDefectRead_holds hk hc hf hr c | exact Dev.mpiDefectRead_holds hk hf c | exact Dev.mpiDefectRead_holds hk hr c | exact Dev.mpiDefectRead_holds hk hc hr c | exact Dev.mpiDefectRead_holds hk hc hf c | exact Dev.mpiDefectRead_holds hk hf hr c
  · first | exact Dev.mpiDefectPend_holds hk c | exact Dev.mpiDefectPend_holds hk hc c | exact Dev.mpiDefectPend_holds hk hc hf hr c | exact Dev.mpiDefectPend_holds hk hf c | exact Dev.mpiDefectPend_holds hk hr c | exact Dev.mpiDefectPend_holds hk hc hr c | exact Dev.mpiDefectPend_holds hk hc hf c | exact Dev.mpiDefectPend_holds hk hf hr c
  · first | exact Dev.mpiHeadFail_holds hk c | exact Dev.mpiHeadFail_holds hk hc c | exact Dev.mpiHeadFail_holds hk hc hf hr c | exact Dev.mpiHeadFail_holds hk hf c | exact Dev.mpiHeadFail_holds hk hr c | exact Dev.mpiHeadFail_holds hk hc hr c | exact Dev.mpiHeadFail_holds hk hc hf c | exact Dev.mpiHeadFail_holds hk hf hr c
  · first | exact Dev.mpiReconRead_holds hk c | exact Dev.mpiReconRead_holds hk hc c | exact Dev.mpiReconRead_holds hk hc hf hr c | exact Dev.mpiReconRead_holds hk hf c | exact Dev.mpiReconRead_holds hk hr c | exact Dev.mpiReconRead_holds hk hc hr c | exact Dev.mpiReconRead_holds hk hc hf c | exact Dev.mpiReconRead_holds hk hf hr c
  · first | exact Dev.mpiHatbandRead_holds hk c | exact Dev.mpiHatbandRead_holds hk hc c | exact Dev.mpiHatbandRead_holds hk hc hf hr c | exact Dev.mpiHatbandRead_holds hk hf c | exact Dev.mpiHatbandRead_holds hk hr c | exact Dev.mpiHatbandRead_holds hk hc hr c | exact Dev.mpiHatbandRead_holds hk hc hf c | exact Dev.mpiHatbandRead_holds hk hf hr c
  · first | exact Dev.mpiHatbandClear_holds hk c | exact Dev.mpiHatbandClear_holds hk hc c | exact Dev.mpiHatbandClear_holds hk hc hf hr c | exact Dev.mpiHatbandClear_holds hk hf c | exact Dev.mpiHatbandClear_holds hk hr c | exact Dev.mpiHatbandClear_holds hk hc hr c | exact Dev.mpiHatbandClear_holds hk hc hf c | exact Dev.mpiHatbandClear_holds hk hf hr c
  · first | exact Dev.mpiHatbandArchive_holds hk c | exact Dev.mpiHatbandArchive_holds hk hc c | exact Dev.mpiHatbandArchive_holds hk hc hf hr c | exact Dev.mpiHatbandArchive_holds hk hf c | exact Dev.mpiHatbandArchive_holds hk hr c | exact Dev.mpiHatbandArchive_holds hk hc hr c | exact Dev.mpiHatbandArchive_holds hk hc hf c | exact Dev.mpiHatbandArchive_holds hk hf hr c
  · first | exact Dev.mpiCounters_holds hk c | exact Dev.mpiCounters_holds hk hc c | exact Dev.mpiCounters_holds hk hc hf hr c | exact Dev.mpiCounters_holds hk hf c | exact Dev.mpiCounters_holds hk hr c | exact Dev.mpiCounters_holds hk hc hr c | exact Dev.mpiCounters_holds hk hc hf c | exact Dev.mpiCounters_holds hk hf hr c
  · first | exact Dev.mpiHeadHealth_holds hk c | exact Dev.mpiHeadHealth_holds hk hc c | exact Dev.mpiHeadHealth_holds hk hc hf hr c | exact Dev.mpiHeadHealth_holds hk hf c | exact Dev.mpiHeadHealth_holds hk hr c | exact Dev.mpiHeadHealth_holds hk hc hr c | exact Dev.mpiHeadHealth_holds hk hc hf c | exact Dev.mpiHeadHealth_holds hk hf hr c
  · first | exact Dev.mpiFeltLog_holds hk c | exact Dev.mpiFeltLog_holds hk hc c | exact Dev.mpiFeltLog_holds hk hc hf hr c | exact Dev.mpiFeltLog_holds hk hf c | exact Dev.mpiFeltLog_holds hk hr c | exact Dev.mpiFeltLog_holds hk hc hr c | exact Dev.mpiFeltLog_holds hk hc hf c | exact Dev.mpiFeltLog_holds hk hf hr c
  · first | exact Dev.mpiVaultInfo_holds hk c | exact Dev.mpiVaultInfo_holds hk hc c | exact Dev.mpiVaultInfo_holds hk hc hf hr c | exact Dev.mpiVaultInfo_holds hk hf c | exact Dev.mpiVaultInfo_holds hk hr c | exact Dev.mpiVaultInfo_holds hk hc hr c | exact Dev.mpiVaultInfo_holds hk hc hf c | exact Dev.mpiVaultInfo_holds hk hf hr c
  · first | exact Dev.mpiNvRead_holds hk c | exact Dev.mpiNvRead_holds hk hc c | exact Dev.mpiNvRead_holds hk hc hf hr c | exact Dev.mpiNvRead_holds hk hf c | exact Dev.mpiNvRead_holds hk hr c | exact Dev.mpiNvRead_holds hk hc hr c | exact Dev.mpiNvRead_holds hk hc hf c | exact Dev.mpiNvRead_holds hk hf hr c
  · first | exact Dev.mpiOptionWrite_holds hk c | exact Dev.mpiOptionWrite_holds hk hc c | exact Dev.mpiOptionWrite_holds hk hc hf hr c | exact Dev.mpiOptionWrite_holds hk hf c | exact Dev.mpiOptionWrite_holds hk hr c | exact Dev.mpiOptionWrite_holds hk hc hr c | exact Dev.mpiOptionWrite_holds hk hc hf c | exact Dev.mpiOptionWrite_holds hk hf hr c
  · first | exact Dev.mpiSlotInfo_holds hk c | exact Dev.mpiSlotInfo_holds hk hc c | exact Dev.mpiSlotInfo_holds hk hc hf hr c | exact Dev.mpiSlotInfo_holds hk hf c | exact Dev.mpiSlotInfo_holds hk hr c | exact Dev.mpiSlotInfo_holds hk hc hr c | exact Dev.mpiSlotInfo_holds hk hc hf c | exact Dev.mpiSlotInfo_holds hk hf hr c
  · first | exact Dev.mpiFwDownload_holds hk c | exact Dev.mpiFwDownload_holds hk hc c | exact Dev.mpiFwDownload_holds hk hc hf hr c | exact Dev.mpiFwDownload_holds hk hf c | exact Dev.mpiFwDownload_holds hk hr c | exact Dev.mpiFwDownload_holds hk hc hr c | exact Dev.mpiFwDownload_holds hk hc hf c | exact Dev.mpiFwDownload_holds hk hf hr c
  · first | exact Dev.mpiFwCommit_holds hk c | exact Dev.mpiFwCommit_holds hk hc c | exact Dev.mpiFwCommit_holds hk hc hf hr c | exact Dev.mpiFwCommit_holds hk hf c | exact Dev.mpiFwCommit_holds hk hr c | exact Dev.mpiFwCommit_holds hk hc hr c | exact Dev.mpiFwCommit_holds hk hc hf c | exact Dev.mpiFwCommit_holds hk hf hr c
  · first | exact Dev.mpiFullerJob_holds hk c | exact Dev.mpiFullerJob_holds hk hc c | exact Dev.mpiFullerJob_holds hk hc hf hr c | exact Dev.mpiFullerJob_holds hk hf c | exact Dev.mpiFullerJob_holds hk hr c | exact Dev.mpiFullerJob_holds hk hc hr c | exact Dev.mpiFullerJob_holds hk hc hf c | exact Dev.mpiFullerJob_holds hk hf hr c
  · first | exact Dev.mpiMirrorVersion_holds hk c | exact Dev.mpiMirrorVersion_holds hk hc c | exact Dev.mpiMirrorVersion_holds hk hc hf hr c | exact Dev.mpiMirrorVersion_holds hk hf c | exact Dev.mpiMirrorVersion_holds hk hr c | exact Dev.mpiMirrorVersion_holds hk hc hr c | exact Dev.mpiMirrorVersion_holds hk hc hf c | exact Dev.mpiMirrorVersion_holds hk hf hr c
  · first | exact Dev.mpiHandoverReq_holds hk c | exact Dev.mpiHandoverReq_holds hk hc c | exact Dev.mpiHandoverReq_holds hk hc hf hr c | exact Dev.mpiHandoverReq_holds hk hf c | exact Dev.mpiHandoverReq_holds hk hr c | exact Dev.mpiHandoverReq_holds hk hc hr c | exact Dev.mpiHandoverReq_holds hk hc hf c | exact Dev.mpiHandoverReq_holds hk hf hr c
  · first | exact Dev.mpiHandoverDone_holds hk c | exact Dev.mpiHandoverDone_holds hk hc c | exact Dev.mpiHandoverDone_holds hk hc hf hr c | exact Dev.mpiHandoverDone_holds hk hf c | exact Dev.mpiHandoverDone_holds hk hr c | exact Dev.mpiHandoverDone_holds hk hc hr c | exact Dev.mpiHandoverDone_holds hk hc hf c | exact Dev.mpiHandoverDone_holds hk hf hr c
  · first | exact Dev.mpiHeartbeat_holds hk c | exact Dev.mpiHeartbeat_holds hk hc c | exact Dev.mpiHeartbeat_holds hk hc hf hr c | exact Dev.mpiHeartbeat_holds hk hf c | exact Dev.mpiHeartbeat_holds hk hr c | exact Dev.mpiHeartbeat_holds hk hc hr c | exact Dev.mpiHeartbeat_holds hk hc hf c | exact Dev.mpiHeartbeat_holds hk hf hr c

theorem Dev.handle_holds {kp : Keep} {d : Dev} (hk : d.Holds kp) (hc : kp.cells = none) (hf : kp.flash = none) (hr : kp.recs = none)
    (c : Call) : (d.handle c).2.Holds kp := by
  unfold Dev.handle
  split
  · exact hk
  · rename_i h e
    exact handlers_holds hc hf hr h (List.mem_of_find?_eq_some e) hk c

theorem Dev.perform_holds {kp : Keep} {d : Dev} (hk : d.Holds kp) (hc : kp.cells = none) (hf : kp.flash = none) (hr : kp.recs = none) (c : Call) : (d.perform c).2.Holds kp := by
  unfold Dev.perform; repeat' (with_reducible first | assumption | lift_lets -underBinder | (intro x; refine (fun (hx : Dev.Holds kp x) => ?_) ?_; on_goal 2 => unfold x) | apply Dev.handle_holds | apply Dev.semGrant_holds | apply Dev.endPacketHold_holds | apply Dev.semBegin_holds | apply holds_ite | fail_if_no_progress (apply holds_upd <;> try rfl) | rfl | intro _ | split | dsimp +zetaDelta only)

theorem Dev.setPath_holds {kp : Keep} {d : Dev} (hk : d.Holds kp) (p : Path) (x : MpiPath) : (d.setPath p x).Holds kp := by
  unfold Dev.setPath; repeat' (with_reducible first | assumption | lift_lets -underBinder | refine Dev.onMpi_holds ?_ rfl | refine Dev.onMpi_sent ?_ rfl | fail_if_no_progress (apply holds_upd <;> try rfl) | rfl | intro _)

theorem Dev.answerPacket_holds {kp : Keep} {d : Dev} (hk : d.Holds kp) (path : Path) (head : Word) (flags : Nat) (crc : Word) (cmd : Option CmdId) (mine : List TrimRec) (r : Rep) : (d.answerPacket path head flags crc cmd mine r).Holds kp := by
  unfold Dev.answerPacket; repeat' (with_reducible first | assumption | lift_lets -underBinder | (intro x; refine (fun (hx : Dev.Holds kp x) => ?_) ?_; on_goal 2 => unfold x) | refine Dev.onMpi_holds ?_ rfl | refine Dev.onMpi_sent ?_ rfl | apply Dev.setPath_holds | apply Dev.complete_holds | apply holds_ite | fail_if_no_progress (apply holds_upd <;> try rfl) | rfl | intro _ | split | dsimp +zetaDelta only)

theorem Dev.badFrame_holds {kp : Keep} {d : Dev} (hk : d.Holds kp) (path : Path) (cmd : Option CmdId) : (d.badFrame path cmd).Holds kp := by
  unfold Dev.badFrame; repeat' (with_reducible first | assumption | lift_lets -underBinder | apply Dev.complete_holds | apply Dev.bumpF_holds | apply holds_ite | fail_if_no_progress (apply holds_upd <;> try rfl) | rfl | intro _ | split)

theorem Dev.runPacket_holds {kp : Keep} {d : Dev} (hk : d.Holds kp) (hc : kp.cells = none) (hf : kp.flash = none) (hr : kp.recs = none) (path : Path) (x : MpiArrival) (p : Packet) : (d.runPacket path x p).Holds kp := by
  unfold Dev.runPacket; repeat' (with_reducible first | assumption | lift_lets -underBinder | (intro x; refine (fun (hx : Dev.Holds kp x) => ?_) ?_; on_goal 2 => unfold x) | apply Dev.answerPacket_holds | apply Dev.semRefused_holds | apply Dev.perform_holds | apply Dev.bumpF_holds | apply Dev.setPath_holds | apply holds_ite | fail_if_no_progress (apply holds_upd <;> try rfl) | rfl | intro _ | split | dsimp +zetaDelta only)

theorem Dev.takePacket_holds {kp : Keep} {d : Dev} (hk : d.Holds kp) (hc : kp.cells = none) (hf : kp.flash = none) (hr : kp.recs = none) (path : Path) (x : MpiArrival) : (d.takePacket path x).Holds kp := by
  unfold Dev.takePacket; repeat' (with_reducible first | assumption | lift_lets -underBinder | (intro x; refine (fun (hx : Dev.Holds kp x) => ?_) ?_; on_goal 2 => unfold x) | apply Dev.setPath_holds | apply Dev.bumpF_holds | apply Dev.badFrame_holds | refine Dev.onMpi_holds ?_ rfl | refine Dev.onMpi_sent ?_ rfl | apply Dev.runPacket_holds | apply holds_ite | fail_if_no_progress (apply holds_upd <;> try rfl) | rfl | intro _ | split | dsimp +zetaDelta only)

theorem Dev.settleJobs_holds {kp : Keep} {d : Dev} (hk : d.Holds kp) : (d.settleJobs).Holds kp := by
  unfold Dev.settleJobs; repeat' (with_reducible first | assumption | refine holds_foldl (fun _ _ _ => ?_) _ ?_ | refine holds_foldl_fst (fun _ _ _ => ?_) _ ?_ | refine holds_foldl_snd (fun _ _ _ => ?_) _ ?_ | lift_lets -underBinder | apply Dev.endJobNo_holds | apply Dev.thawRecs_holds | apply holds_ite | fail_if_no_progress (apply holds_upd <;> try rfl) | rfl | intro _ | split)

theorem Dev.drainPath_holds {kp : Keep} (hc : kp.cells = none) (hf : kp.flash = none) (hr : kp.recs = none) (x0 : Nat) : ∀ {d : Dev} (hk : d.Holds kp) (path : Path), (d.drainPath path x0).Holds kp := by
  induction x0 with
  | zero =>
    intro d hk path; unfold Dev.drainPath; repeat' (with_reducible first | assumption | lift_lets -underBinder | (intro x; refine (fun (hx : Dev.Holds kp x) => ?_) ?_; on_goal 2 => unfold x) | apply ih | apply Dev.takePacket_holds | apply Dev.setPath_holds | fail_if_no_progress (apply holds_upd <;> try rfl) | rfl | intro _ | split | dsimp +zetaDelta only)
  | succ n ih =>
    intro d hk path; unfold Dev.drainPath; repeat' (with_reducible first | assumption | lift_lets -underBinder | (intro x; refine (fun (hx : Dev.Holds kp x) => ?_) ?_; on_goal 2 => unfold x) | apply ih | apply Dev.takePacket_holds | apply Dev.setPath_holds | fail_if_no_progress (apply holds_upd <;> try rfl) | rfl | intro _ | split | dsimp +zetaDelta only)

theorem Dev.tryWait_holds {kp : Keep} {d : Dev} (hk : d.Holds kp) (hc : kp.cells = none) (hf : kp.flash = none) (hr : kp.recs = none) (path : Path) : (d.tryWait path).Holds kp := by
  unfold Dev.tryWait; repeat' (with_reducible first | assumption | lift_lets -underBinder | (intro x; refine (fun (hx : Dev.Holds kp x) => ?_) ?_; on_goal 2 => unfold x) | apply Dev.pollOnce_holds | apply Dev.answerPacket_holds | apply Dev.drainPath_holds | apply Dev.semEnd_holds | apply holds_ite | fail_if_no_progress (apply holds_upd <;> try rfl) | rfl | intro _ | split | dsimp +zetaDelta only)

theorem Dev.mpiTick_holds {kp : Keep} {d : Dev} (hk : d.Holds kp) (hc : kp.cells = none) (hf : kp.flash = none) (hr : kp.recs = none) : (d.mpiTick).Holds kp := by
  unfold Dev.mpiTick; repeat' (with_reducible first | assumption | refine holds_foldl (fun _ _ _ => ?_) _ ?_ | refine holds_foldl_snd (fun _ _ _ => ?_) _ ?_ | apply Dev.semSettle_holds | apply Dev.tryWait_holds | apply Dev.settleJobs_holds | intro _)

theorem execTickEdge_holds {kp : Keep} {s : State} (hk : s.dev.Holds kp) (hc : kp.cells = none) (hf : kp.flash = none) (hr : kp.recs = none) (periodNs late : Nat) :
    ∃ d, execTickEdge periodNs late s = s.next d ∧ d.Holds kp := by
  refine ⟨_, rfl, ?_⟩; repeat' (with_reducible first | assumption | apply Dev.mpiTick_holds | apply Dev.edge_holds | apply State.dev_holds)

theorem Dev.arrivePacket_holds {kp : Keep} {d : Dev} (hk : d.Holds kp) (hc : kp.cells = none) (hf : kp.flash = none) (hr : kp.recs = none) (path : Path) (x : MpiArrival) : (d.arrivePacket path x).Holds kp := by
  unfold Dev.arrivePacket; repeat' (with_reducible first | assumption | lift_lets -underBinder | (intro x; refine (fun (hx : Dev.Holds kp x) => ?_) ?_; on_goal 2 => unfold x) | apply Dev.setPath_holds | apply Dev.semSettle_holds | apply Dev.settleJobs_holds | apply Dev.takePacket_holds | apply holds_ite | fail_if_no_progress (apply holds_upd <;> try rfl) | rfl | intro _ | split | dsimp +zetaDelta only)

theorem Dev.packet_holds {kp : Keep} {d : Dev} (hk : d.Holds kp) (hc : kp.cells = none) (hf : kp.flash = none) (hr : kp.recs = none) (op : Nat) (path : Path) (ws : List Word) (o : MpiObs) : (d.packet op path ws o).Holds kp := by
  unfold Dev.packet; repeat' (with_reducible first | assumption | apply Dev.arrivePacket_holds | apply holds_ite | intro _ | split)

theorem execJobStatusExpired_holds {kp : Keep} {s : State} (hk : s.dev.Holds kp) (no : Nat) :
    ∃ d, execJobStatusExpired no s = s.next d ∧ d.Holds kp := by
  refine ⟨_, rfl, ?_⟩; repeat' (with_reducible first | assumption | lift_lets -underBinder | (intro x; refine (fun (hx : Dev.Holds kp x) => ?_) ?_; on_goal 2 => unfold x) | apply State.dev_holds | refine Dev.onMpi_holds ?_ rfl | refine Dev.onMpi_sent ?_ rfl | fail_if_no_progress (apply holds_upd <;> try rfl) | rfl | intro _ | dsimp +zetaDelta only)

theorem execUartGapTimeout_holds {kp : Keep} {s : State} (hk : s.dev.Holds kp) :
    ∃ d, execUartGapTimeout s = s.next d ∧ d.Holds kp := by
  refine ⟨_, rfl, ?_⟩; repeat' (with_reducible first | assumption | apply State.dev_holds | apply Dev.bumpF_holds | apply holds_ite | intro _ | split)

theorem execMpiSend_holds {kp : Keep} {s : State} (hk : s.dev.Holds kp) (hc : kp.cells = none) (hf : kp.flash = none) (hr : kp.recs = none) (id : CmdId) (ws : List Word) (o : MpiObs) :
    ∃ d, execMpiSend id ws o s = s.next d ∧ d.Holds kp := by
  refine ⟨_, rfl, ?_⟩; repeat' (with_reducible first | assumption | apply Dev.adminDo_holds | apply State.dev_holds | apply Dev.complete_holds | apply Dev.arrivePacket_holds | apply holds_ite | intro _ | split)

theorem Dev.mpiReceive_holds {kp : Keep} {d : Dev} (hk : d.Holds kp) (id : CmdId) (len : Nat) : (d.mpiReceive id len).Holds kp := by
  unfold Dev.mpiReceive; repeat' (with_reducible first | assumption | lift_lets -underBinder | (intro x; refine (fun (hx : Dev.Holds kp x) => ?_) ?_; on_goal 2 => unfold x) | apply Dev.complete_holds | apply Dev.giveHost_holds | apply Dev.setPath_holds | apply holds_ite | fail_if_no_progress (apply holds_upd <;> try rfl) | rfl | intro _ | split | dsimp +zetaDelta only)

theorem execMpiReceive_holds {kp : Keep} {s : State} (hk : s.dev.Holds kp) (id : CmdId) (len : Nat) :
    ∃ d, execMpiReceive id len s = s.next d ∧ d.Holds kp := by
  refine ⟨_, rfl, ?_⟩; repeat' (with_reducible first | assumption | apply Dev.adminDo_holds | apply State.dev_holds | apply Dev.mpiReceive_holds | intro _)

theorem execEcho_holds {kp : Keep} {s : State} (hk : s.dev.Holds kp) (hc : kp.cells = none) (hf : kp.flash = none) (hr : kp.recs = none) (path : Path) (ws : List Word) (o : MpiObs) :
    ∃ d, execEcho path ws o s = s.next d ∧ d.Holds kp := by
  refine ⟨_, rfl, ?_⟩; repeat' (with_reducible first | assumption | apply Dev.packet_holds | apply State.dev_holds)

theorem execGetInfo_holds {kp : Keep} {s : State} (hk : s.dev.Holds kp) (hc : kp.cells = none) (hf : kp.flash = none) (hr : kp.recs = none) (path : Path) (ws : List Word) (o : MpiObs) :
    ∃ d, execGetInfo path ws o s = s.next d ∧ d.Holds kp := by
  refine ⟨_, rfl, ?_⟩; repeat' (with_reducible first | assumption | apply Dev.packet_holds | apply State.dev_holds)

theorem execSemClaim_holds {kp : Keep} {s : State} (hk : s.dev.Holds kp) (hc : kp.cells = none) (hf : kp.flash = none) (hr : kp.recs = none) (path : Path) (ws : List Word) (o : MpiObs) :
    ∃ d, execSemClaim path ws o s = s.next d ∧ d.Holds kp := by
  refine ⟨_, rfl, ?_⟩; repeat' (with_reducible first | assumption | apply Dev.packet_holds | apply State.dev_holds)

theorem execSemRelease_holds {kp : Keep} {s : State} (hk : s.dev.Holds kp) (hc : kp.cells = none) (hf : kp.flash = none) (hr : kp.recs = none) (path : Path) (ws : List Word) (o : MpiObs) :
    ∃ d, execSemRelease path ws o s = s.next d ∧ d.Holds kp := by
  refine ⟨_, rfl, ?_⟩; repeat' (with_reducible first | assumption | apply Dev.packet_holds | apply State.dev_holds)

theorem execSemStatus_holds {kp : Keep} {s : State} (hk : s.dev.Holds kp) (hc : kp.cells = none) (hf : kp.flash = none) (hr : kp.recs = none) (path : Path) (ws : List Word) (o : MpiObs) :
    ∃ d, execSemStatus path ws o s = s.next d ∧ d.Holds kp := by
  refine ⟨_, rfl, ?_⟩; repeat' (with_reducible first | assumption | apply Dev.packet_holds | apply State.dev_holds)

theorem execJobStatus_holds {kp : Keep} {s : State} (hk : s.dev.Holds kp) (hc : kp.cells = none) (hf : kp.flash = none) (hr : kp.recs = none) (path : Path) (ws : List Word) (o : MpiObs) :
    ∃ d, execJobStatus path ws o s = s.next d ∧ d.Holds kp := by
  refine ⟨_, rfl, ?_⟩; repeat' (with_reducible first | assumption | apply Dev.packet_holds | apply State.dev_holds)

theorem execJobAbort_holds {kp : Keep} {s : State} (hk : s.dev.Holds kp) (hc : kp.cells = none) (hf : kp.flash = none) (hr : kp.recs = none) (path : Path) (ws : List Word) (o : MpiObs) :
    ∃ d, execJobAbort path ws o s = s.next d ∧ d.Holds kp := by
  refine ⟨_, rfl, ?_⟩; repeat' (with_reducible first | assumption | apply Dev.packet_holds | apply State.dev_holds)

theorem execRegRead_holds {kp : Keep} {s : State} (hk : s.dev.Holds kp) (hc : kp.cells = none) (hf : kp.flash = none) (hr : kp.recs = none) (path : Path) (ws : List Word) (o : MpiObs) :
    ∃ d, execRegRead path ws o s = s.next d ∧ d.Holds kp := by
  refine ⟨_, rfl, ?_⟩; repeat' (with_reducible first | assumption | apply Dev.packet_holds | apply State.dev_holds)

theorem execRegWrite_holds {kp : Keep} {s : State} (hk : s.dev.Holds kp) (hc : kp.cells = none) (hf : kp.flash = none) (hr : kp.recs = none) (path : Path) (ws : List Word) (o : MpiObs) :
    ∃ d, execRegWrite path ws o s = s.next d ∧ d.Holds kp := by
  refine ⟨_, rfl, ?_⟩; repeat' (with_reducible first | assumption | apply Dev.packet_holds | apply State.dev_holds)

theorem execRegWriteBatch_holds {kp : Keep} {s : State} (hk : s.dev.Holds kp) (hc : kp.cells = none) (hf : kp.flash = none) (hr : kp.recs = none) (path : Path) (ws : List Word) (o : MpiObs) :
    ∃ d, execRegWriteBatch path ws o s = s.next d ∧ d.Holds kp := by
  refine ⟨_, rfl, ?_⟩; repeat' (with_reducible first | assumption | apply Dev.packet_holds | apply State.dev_holds)

theorem execRegPoll_holds {kp : Keep} {s : State} (hk : s.dev.Holds kp) (hc : kp.cells = none) (hf : kp.flash = none) (hr : kp.recs = none) (path : Path) (ws : List Word) (o : MpiObs) :
    ∃ d, execRegPoll path ws o s = s.next d ∧ d.Holds kp := by
  refine ⟨_, rfl, ?_⟩; repeat' (with_reducible first | assumption | apply Dev.packet_holds | apply State.dev_holds)

theorem execMemRead_holds {kp : Keep} {s : State} (hk : s.dev.Holds kp) (hc : kp.cells = none) (hf : kp.flash = none) (hr : kp.recs = none) (path : Path) (ws : List Word) (o : MpiObs) :
    ∃ d, execMemRead path ws o s = s.next d ∧ d.Holds kp := by
  refine ⟨_, rfl, ?_⟩; repeat' (with_reducible first | assumption | apply Dev.packet_holds | apply State.dev_holds)

theorem execMemWrite_holds {kp : Keep} {s : State} (hk : s.dev.Holds kp) (hc : kp.cells = none) (hf : kp.flash = none) (hr : kp.recs = none) (path : Path) (ws : List Word) (o : MpiObs) :
    ∃ d, execMemWrite path ws o s = s.next d ∧ d.Holds kp := by
  refine ⟨_, rfl, ?_⟩; repeat' (with_reducible first | assumption | apply Dev.packet_holds | apply State.dev_holds)

theorem execCfgCommit_holds {kp : Keep} {s : State} (hk : s.dev.Holds kp) (hc : kp.cells = none) (hf : kp.flash = none) (hr : kp.recs = none) (path : Path) (ws : List Word) (o : MpiObs) :
    ∃ d, execCfgCommit path ws o s = s.next d ∧ d.Holds kp := by
  refine ⟨_, rfl, ?_⟩; repeat' (with_reducible first | assumption | apply Dev.packet_holds | apply State.dev_holds)

theorem execCfgDiscard_holds {kp : Keep} {s : State} (hk : s.dev.Holds kp) (hc : kp.cells = none) (hf : kp.flash = none) (hr : kp.recs = none) (path : Path) (ws : List Word) (o : MpiObs) :
    ∃ d, execCfgDiscard path ws o s = s.next d ∧ d.Holds kp := by
  refine ⟨_, rfl, ?_⟩; repeat' (with_reducible first | assumption | apply Dev.packet_holds | apply State.dev_holds)

theorem execCfgStatus_holds {kp : Keep} {s : State} (hk : s.dev.Holds kp) (hc : kp.cells = none) (hf : kp.flash = none) (hr : kp.recs = none) (path : Path) (ws : List Word) (o : MpiObs) :
    ∃ d, execCfgStatus path ws o s = s.next d ∧ d.Holds kp := by
  refine ⟨_, rfl, ?_⟩; repeat' (with_reducible first | assumption | apply Dev.packet_holds | apply State.dev_holds)

theorem execSizerCheck_holds {kp : Keep} {s : State} (hk : s.dev.Holds kp) (hc : kp.cells = none) (hf : kp.flash = none) (hr : kp.recs = none) (path : Path) (ws : List Word) (o : MpiObs) :
    ∃ d, execSizerCheck path ws o s = s.next d ∧ d.Holds kp := by
  refine ⟨_, rfl, ?_⟩; repeat' (with_reducible first | assumption | apply Dev.packet_holds | apply State.dev_holds)

theorem execTableWrite_holds {kp : Keep} {s : State} (hk : s.dev.Holds kp) (hc : kp.cells = none) (hf : kp.flash = none) (hr : kp.recs = none) (path : Path) (ws : List Word) (o : MpiObs) :
    ∃ d, execTableWrite path ws o s = s.next d ∧ d.Holds kp := by
  refine ⟨_, rfl, ?_⟩; repeat' (with_reducible first | assumption | apply Dev.packet_holds | apply State.dev_holds)

theorem execTableRead_holds {kp : Keep} {s : State} (hk : s.dev.Holds kp) (hc : kp.cells = none) (hf : kp.flash = none) (hr : kp.recs = none) (path : Path) (ws : List Word) (o : MpiObs) :
    ∃ d, execTableRead path ws o s = s.next d ∧ d.Holds kp := by
  refine ⟨_, rfl, ?_⟩; repeat' (with_reducible first | assumption | apply Dev.packet_holds | apply State.dev_holds)

theorem execCstWrite_holds {kp : Keep} {s : State} (hk : s.dev.Holds kp) (hc : kp.cells = none) (hf : kp.flash = none) (hr : kp.recs = none) (path : Path) (ws : List Word) (o : MpiObs) :
    ∃ d, execCstWrite path ws o s = s.next d ∧ d.Holds kp := by
  refine ⟨_, rfl, ?_⟩; repeat' (with_reducible first | assumption | apply Dev.packet_holds | apply State.dev_holds)

theorem execProfileLoad_holds {kp : Keep} {s : State} (hk : s.dev.Holds kp) (hc : kp.cells = none) (hf : kp.flash = none) (hr : kp.recs = none) (path : Path) (ws : List Word) (o : MpiObs) :
    ∃ d, execProfileLoad path ws o s = s.next d ∧ d.Holds kp := by
  refine ⟨_, rfl, ?_⟩; repeat' (with_reducible first | assumption | apply Dev.packet_holds | apply State.dev_holds)

theorem execProfileSection_holds {kp : Keep} {s : State} (hk : s.dev.Holds kp) (hc : kp.cells = none) (hf : kp.flash = none) (hr : kp.recs = none) (path : Path) (ws : List Word) (o : MpiObs) :
    ∃ d, execProfileSection path ws o s = s.next d ∧ d.Holds kp := by
  refine ⟨_, rfl, ?_⟩; repeat' (with_reducible first | assumption | apply Dev.packet_holds | apply State.dev_holds)

theorem execProfileDownload_holds {kp : Keep} {s : State} (hk : s.dev.Holds kp) (hc : kp.cells = none) (hf : kp.flash = none) (hr : kp.recs = none) (path : Path) (ws : List Word) (o : MpiObs) :
    ∃ d, execProfileDownload path ws o s = s.next d ∧ d.Holds kp := by
  refine ⟨_, rfl, ?_⟩; repeat' (with_reducible first | assumption | apply Dev.packet_holds | apply State.dev_holds)

theorem execProfileStore_holds {kp : Keep} {s : State} (hk : s.dev.Holds kp) (hc : kp.cells = none) (hf : kp.flash = none) (hr : kp.recs = none) (path : Path) (ws : List Word) (o : MpiObs) :
    ∃ d, execProfileStore path ws o s = s.next d ∧ d.Holds kp := by
  refine ⟨_, rfl, ?_⟩; repeat' (with_reducible first | assumption | apply Dev.packet_holds | apply State.dev_holds)

theorem execProfileSelect_holds {kp : Keep} {s : State} (hk : s.dev.Holds kp) (hc : kp.cells = none) (hf : kp.flash = none) (hr : kp.recs = none) (path : Path) (ws : List Word) (o : MpiObs) :
    ∃ d, execProfileSelect path ws o s = s.next d ∧ d.Holds kp := by
  refine ⟨_, rfl, ?_⟩; repeat' (with_reducible first | assumption | apply Dev.packet_holds | apply State.dev_holds)

theorem execCalRegWrite_holds {kp : Keep} {s : State} (hk : s.dev.Holds kp) (hc : kp.cells = none) (hf : kp.flash = none) (hr : kp.recs = none) (path : Path) (ws : List Word) (o : MpiObs) :
    ∃ d, execCalRegWrite path ws o s = s.next d ∧ d.Holds kp := by
  refine ⟨_, rfl, ?_⟩; repeat' (with_reducible first | assumption | apply Dev.packet_holds | apply State.dev_holds)

theorem execSpindleRun_holds {kp : Keep} {s : State} (hk : s.dev.Holds kp) (hc : kp.cells = none) (hf : kp.flash = none) (hr : kp.recs = none) (path : Path) (ws : List Word) (o : MpiObs) :
    ∃ d, execSpindleRun path ws o s = s.next d ∧ d.Holds kp := by
  refine ⟨_, rfl, ?_⟩; repeat' (with_reducible first | assumption | apply Dev.packet_holds | apply State.dev_holds)

theorem execHeadLoad_holds {kp : Keep} {s : State} (hk : s.dev.Holds kp) (hc : kp.cells = none) (hf : kp.flash = none) (hr : kp.recs = none) (path : Path) (ws : List Word) (o : MpiObs) :
    ∃ d, execHeadLoad path ws o s = s.next d ∧ d.Holds kp := by
  refine ⟨_, rfl, ?_⟩; repeat' (with_reducible first | assumption | apply Dev.packet_holds | apply State.dev_holds)

theorem execSeek_holds {kp : Keep} {s : State} (hk : s.dev.Holds kp) (hc : kp.cells = none) (hf : kp.flash = none) (hr : kp.recs = none) (path : Path) (ws : List Word) (o : MpiObs) :
    ∃ d, execSeek path ws o s = s.next d ∧ d.Holds kp := by
  refine ⟨_, rfl, ?_⟩; repeat' (with_reducible first | assumption | apply Dev.packet_holds | apply State.dev_holds)

theorem execInject_holds {kp : Keep} {s : State} (hk : s.dev.Holds kp) (hc : kp.cells = none) (hf : kp.flash = none) (hr : kp.recs = none) (path : Path) (ws : List Word) (o : MpiObs) :
    ∃ d, execInject path ws o s = s.next d ∧ d.Holds kp := by
  refine ⟨_, rfl, ?_⟩; repeat' (with_reducible first | assumption | apply Dev.packet_holds | apply State.dev_holds)

theorem execCaptureArm_holds {kp : Keep} {s : State} (hk : s.dev.Holds kp) (hc : kp.cells = none) (hf : kp.flash = none) (hr : kp.recs = none) (path : Path) (ws : List Word) (o : MpiObs) :
    ∃ d, execCaptureArm path ws o s = s.next d ∧ d.Holds kp := by
  refine ⟨_, rfl, ?_⟩; repeat' (with_reducible first | assumption | apply Dev.packet_holds | apply State.dev_holds)

theorem execCaptureRead_holds {kp : Keep} {s : State} (hk : s.dev.Holds kp) (hc : kp.cells = none) (hf : kp.flash = none) (hr : kp.recs = none) (path : Path) (ws : List Word) (o : MpiObs) :
    ∃ d, execCaptureRead path ws o s = s.next d ∧ d.Holds kp := by
  refine ⟨_, rfl, ?_⟩; repeat' (with_reducible first | assumption | apply Dev.packet_holds | apply State.dev_holds)

theorem execPreampAccess_holds {kp : Keep} {s : State} (hk : s.dev.Holds kp) (hc : kp.cells = none) (hf : kp.flash = none) (hr : kp.recs = none) (path : Path) (ws : List Word) (o : MpiObs) :
    ∃ d, execPreampAccess path ws o s = s.next d ∧ d.Holds kp := by
  refine ⟨_, rfl, ?_⟩; repeat' (with_reducible first | assumption | apply Dev.packet_holds | apply State.dev_holds)

theorem execLinkRetrain_holds {kp : Keep} {s : State} (hk : s.dev.Holds kp) (hc : kp.cells = none) (hf : kp.flash = none) (hr : kp.recs = none) (path : Path) (ws : List Word) (o : MpiObs) :
    ∃ d, execLinkRetrain path ws o s = s.next d ∧ d.Holds kp := by
  refine ⟨_, rfl, ?_⟩; repeat' (with_reducible first | assumption | apply Dev.packet_holds | apply State.dev_holds)

theorem execReaderClear_holds {kp : Keep} {s : State} (hk : s.dev.Holds kp) (hc : kp.cells = none) (hf : kp.flash = none) (hr : kp.recs = none) (path : Path) (ws : List Word) (o : MpiObs) :
    ∃ d, execReaderClear path ws o s = s.next d ∧ d.Holds kp := by
  refine ⟨_, rfl, ?_⟩; repeat' (with_reducible first | assumption | apply Dev.packet_holds | apply State.dev_holds)

theorem execAssistRecal_holds {kp : Keep} {s : State} (hk : s.dev.Holds kp) (hc : kp.cells = none) (hf : kp.flash = none) (hr : kp.recs = none) (path : Path) (ws : List Word) (o : MpiObs) :
    ∃ d, execAssistRecal path ws o s = s.next d ∧ d.Holds kp := by
  refine ⟨_, rfl, ?_⟩; repeat' (with_reducible first | assumption | apply Dev.packet_holds | apply State.dev_holds)

theorem execEccInject_holds {kp : Keep} {s : State} (hk : s.dev.Holds kp) (hc : kp.cells = none) (hf : kp.flash = none) (hr : kp.recs = none) (path : Path) (ws : List Word) (o : MpiObs) :
    ∃ d, execEccInject path ws o s = s.next d ∧ d.Holds kp := by
  refine ⟨_, rfl, ?_⟩; repeat' (with_reducible first | assumption | apply Dev.packet_holds | apply State.dev_holds)

theorem execHandover_holds {kp : Keep} {s : State} (hk : s.dev.Holds kp) (hc : kp.cells = none) (hf : kp.flash = none) (hr : kp.recs = none) (path : Path) (ws : List Word) (o : MpiObs) :
    ∃ d, execHandover path ws o s = s.next d ∧ d.Holds kp := by
  refine ⟨_, rfl, ?_⟩; repeat' (with_reducible first | assumption | apply Dev.packet_holds | apply State.dev_holds)

theorem execTrackRead_holds {kp : Keep} {s : State} (hk : s.dev.Holds kp) (hc : kp.cells = none) (hf : kp.flash = none) (hr : kp.recs = none) (path : Path) (ws : List Word) (o : MpiObs) :
    ∃ d, execTrackRead path ws o s = s.next d ∧ d.Holds kp := by
  refine ⟨_, rfl, ?_⟩; repeat' (with_reducible first | assumption | apply Dev.packet_holds | apply State.dev_holds)

theorem execTrackScan_holds {kp : Keep} {s : State} (hk : s.dev.Holds kp) (hc : kp.cells = none) (hf : kp.flash = none) (hr : kp.recs = none) (path : Path) (ws : List Word) (o : MpiObs) :
    ∃ d, execTrackScan path ws o s = s.next d ∧ d.Holds kp := by
  refine ⟨_, rfl, ?_⟩; repeat' (with_reducible first | assumption | apply Dev.packet_holds | apply State.dev_holds)

theorem execReplayRead_holds {kp : Keep} {s : State} (hk : s.dev.Holds kp) (hc : kp.cells = none) (hf : kp.flash = none) (hr : kp.recs = none) (path : Path) (ws : List Word) (o : MpiObs) :
    ∃ d, execReplayRead path ws o s = s.next d ∧ d.Holds kp := by
  refine ⟨_, rfl, ?_⟩; repeat' (with_reducible first | assumption | apply Dev.packet_holds | apply State.dev_holds)

theorem execLbaToPhys_holds {kp : Keep} {s : State} (hk : s.dev.Holds kp) (hc : kp.cells = none) (hf : kp.flash = none) (hr : kp.recs = none) (path : Path) (ws : List Word) (o : MpiObs) :
    ∃ d, execLbaToPhys path ws o s = s.next d ∧ d.Holds kp := by
  refine ⟨_, rfl, ?_⟩; repeat' (with_reducible first | assumption | apply Dev.packet_holds | apply State.dev_holds)

theorem execDefectRead_holds {kp : Keep} {s : State} (hk : s.dev.Holds kp) (hc : kp.cells = none) (hf : kp.flash = none) (hr : kp.recs = none) (path : Path) (ws : List Word) (o : MpiObs) :
    ∃ d, execDefectRead path ws o s = s.next d ∧ d.Holds kp := by
  refine ⟨_, rfl, ?_⟩; repeat' (with_reducible first | assumption | apply Dev.packet_holds | apply State.dev_holds)

theorem execDefectPend_holds {kp : Keep} {s : State} (hk : s.dev.Holds kp) (hc : kp.cells = none) (hf : kp.flash = none) (hr : kp.recs = none) (path : Path) (ws : List Word) (o : MpiObs) :
    ∃ d, execDefectPend path ws o s = s.next d ∧ d.Holds kp := by
  refine ⟨_, rfl, ?_⟩; repeat' (with_reducible first | assumption | apply Dev.packet_holds | apply State.dev_holds)

theorem execHeadFail_holds {kp : Keep} {s : State} (hk : s.dev.Holds kp) (hc : kp.cells = none) (hf : kp.flash = none) (hr : kp.recs = none) (path : Path) (ws : List Word) (o : MpiObs) :
    ∃ d, execHeadFail path ws o s = s.next d ∧ d.Holds kp := by
  refine ⟨_, rfl, ?_⟩; repeat' (with_reducible first | assumption | apply Dev.packet_holds | apply State.dev_holds)

theorem execReconRead_holds {kp : Keep} {s : State} (hk : s.dev.Holds kp) (hc : kp.cells = none) (hf : kp.flash = none) (hr : kp.recs = none) (path : Path) (ws : List Word) (o : MpiObs) :
    ∃ d, execReconRead path ws o s = s.next d ∧ d.Holds kp := by
  refine ⟨_, rfl, ?_⟩; repeat' (with_reducible first | assumption | apply Dev.packet_holds | apply State.dev_holds)

theorem execHatbandRead_holds {kp : Keep} {s : State} (hk : s.dev.Holds kp) (hc : kp.cells = none) (hf : kp.flash = none) (hr : kp.recs = none) (path : Path) (ws : List Word) (o : MpiObs) :
    ∃ d, execHatbandRead path ws o s = s.next d ∧ d.Holds kp := by
  refine ⟨_, rfl, ?_⟩; repeat' (with_reducible first | assumption | apply Dev.packet_holds | apply State.dev_holds)

theorem execHatbandClear_holds {kp : Keep} {s : State} (hk : s.dev.Holds kp) (hc : kp.cells = none) (hf : kp.flash = none) (hr : kp.recs = none) (path : Path) (ws : List Word) (o : MpiObs) :
    ∃ d, execHatbandClear path ws o s = s.next d ∧ d.Holds kp := by
  refine ⟨_, rfl, ?_⟩; repeat' (with_reducible first | assumption | apply Dev.packet_holds | apply State.dev_holds)

theorem execHatbandArchive_holds {kp : Keep} {s : State} (hk : s.dev.Holds kp) (hc : kp.cells = none) (hf : kp.flash = none) (hr : kp.recs = none) (path : Path) (ws : List Word) (o : MpiObs) :
    ∃ d, execHatbandArchive path ws o s = s.next d ∧ d.Holds kp := by
  refine ⟨_, rfl, ?_⟩; repeat' (with_reducible first | assumption | apply Dev.packet_holds | apply State.dev_holds)

theorem execCounters_holds {kp : Keep} {s : State} (hk : s.dev.Holds kp) (hc : kp.cells = none) (hf : kp.flash = none) (hr : kp.recs = none) (path : Path) (ws : List Word) (o : MpiObs) :
    ∃ d, execCounters path ws o s = s.next d ∧ d.Holds kp := by
  refine ⟨_, rfl, ?_⟩; repeat' (with_reducible first | assumption | apply Dev.packet_holds | apply State.dev_holds)

theorem execHeadHealth_holds {kp : Keep} {s : State} (hk : s.dev.Holds kp) (hc : kp.cells = none) (hf : kp.flash = none) (hr : kp.recs = none) (path : Path) (ws : List Word) (o : MpiObs) :
    ∃ d, execHeadHealth path ws o s = s.next d ∧ d.Holds kp := by
  refine ⟨_, rfl, ?_⟩; repeat' (with_reducible first | assumption | apply Dev.packet_holds | apply State.dev_holds)

theorem execFeltLog_holds {kp : Keep} {s : State} (hk : s.dev.Holds kp) (hc : kp.cells = none) (hf : kp.flash = none) (hr : kp.recs = none) (path : Path) (ws : List Word) (o : MpiObs) :
    ∃ d, execFeltLog path ws o s = s.next d ∧ d.Holds kp := by
  refine ⟨_, rfl, ?_⟩; repeat' (with_reducible first | assumption | apply Dev.packet_holds | apply State.dev_holds)

theorem execVaultInfo_holds {kp : Keep} {s : State} (hk : s.dev.Holds kp) (hc : kp.cells = none) (hf : kp.flash = none) (hr : kp.recs = none) (path : Path) (ws : List Word) (o : MpiObs) :
    ∃ d, execVaultInfo path ws o s = s.next d ∧ d.Holds kp := by
  refine ⟨_, rfl, ?_⟩; repeat' (with_reducible first | assumption | apply Dev.packet_holds | apply State.dev_holds)

theorem execNvRead_holds {kp : Keep} {s : State} (hk : s.dev.Holds kp) (hc : kp.cells = none) (hf : kp.flash = none) (hr : kp.recs = none) (path : Path) (ws : List Word) (o : MpiObs) :
    ∃ d, execNvRead path ws o s = s.next d ∧ d.Holds kp := by
  refine ⟨_, rfl, ?_⟩; repeat' (with_reducible first | assumption | apply Dev.packet_holds | apply State.dev_holds)

theorem execOptionWrite_holds {kp : Keep} {s : State} (hk : s.dev.Holds kp) (hc : kp.cells = none) (hf : kp.flash = none) (hr : kp.recs = none) (path : Path) (ws : List Word) (o : MpiObs) :
    ∃ d, execOptionWrite path ws o s = s.next d ∧ d.Holds kp := by
  refine ⟨_, rfl, ?_⟩; repeat' (with_reducible first | assumption | apply Dev.packet_holds | apply State.dev_holds)

theorem execSlotInfo_holds {kp : Keep} {s : State} (hk : s.dev.Holds kp) (hc : kp.cells = none) (hf : kp.flash = none) (hr : kp.recs = none) (path : Path) (ws : List Word) (o : MpiObs) :
    ∃ d, execSlotInfo path ws o s = s.next d ∧ d.Holds kp := by
  refine ⟨_, rfl, ?_⟩; repeat' (with_reducible first | assumption | apply Dev.packet_holds | apply State.dev_holds)

theorem execFwDownload_holds {kp : Keep} {s : State} (hk : s.dev.Holds kp) (hc : kp.cells = none) (hf : kp.flash = none) (hr : kp.recs = none) (path : Path) (ws : List Word) (o : MpiObs) :
    ∃ d, execFwDownload path ws o s = s.next d ∧ d.Holds kp := by
  refine ⟨_, rfl, ?_⟩; repeat' (with_reducible first | assumption | apply Dev.packet_holds | apply State.dev_holds)

theorem execFwCommit_holds {kp : Keep} {s : State} (hk : s.dev.Holds kp) (hc : kp.cells = none) (hf : kp.flash = none) (hr : kp.recs = none) (path : Path) (ws : List Word) (o : MpiObs) :
    ∃ d, execFwCommit path ws o s = s.next d ∧ d.Holds kp := by
  refine ⟨_, rfl, ?_⟩; repeat' (with_reducible first | assumption | apply Dev.packet_holds | apply State.dev_holds)

theorem execFullerJob_holds {kp : Keep} {s : State} (hk : s.dev.Holds kp) (hc : kp.cells = none) (hf : kp.flash = none) (hr : kp.recs = none) (path : Path) (ws : List Word) (o : MpiObs) :
    ∃ d, execFullerJob path ws o s = s.next d ∧ d.Holds kp := by
  refine ⟨_, rfl, ?_⟩; repeat' (with_reducible first | assumption | apply Dev.packet_holds | apply State.dev_holds)

theorem execMirrorVersion_holds {kp : Keep} {s : State} (hk : s.dev.Holds kp) (hc : kp.cells = none) (hf : kp.flash = none) (hr : kp.recs = none) (path : Path) (ws : List Word) (o : MpiObs) :
    ∃ d, execMirrorVersion path ws o s = s.next d ∧ d.Holds kp := by
  refine ⟨_, rfl, ?_⟩; repeat' (with_reducible first | assumption | apply Dev.packet_holds | apply State.dev_holds)

theorem execHandoverReq_holds {kp : Keep} {s : State} (hk : s.dev.Holds kp) (hc : kp.cells = none) (hf : kp.flash = none) (hr : kp.recs = none) (path : Path) (ws : List Word) (o : MpiObs) :
    ∃ d, execHandoverReq path ws o s = s.next d ∧ d.Holds kp := by
  refine ⟨_, rfl, ?_⟩; repeat' (with_reducible first | assumption | apply Dev.packet_holds | apply State.dev_holds)

theorem execHandoverDone_holds {kp : Keep} {s : State} (hk : s.dev.Holds kp) (hc : kp.cells = none) (hf : kp.flash = none) (hr : kp.recs = none) (path : Path) (ws : List Word) (o : MpiObs) :
    ∃ d, execHandoverDone path ws o s = s.next d ∧ d.Holds kp := by
  refine ⟨_, rfl, ?_⟩; repeat' (with_reducible first | assumption | apply Dev.packet_holds | apply State.dev_holds)

theorem execHeartbeat_holds {kp : Keep} {s : State} (hk : s.dev.Holds kp) (hc : kp.cells = none) (hf : kp.flash = none) (hr : kp.recs = none) (path : Path) (ws : List Word) (o : MpiObs) :
    ∃ d, execHeartbeat path ws o s = s.next d ∧ d.Holds kp := by
  refine ⟨_, rfl, ?_⟩; repeat' (with_reducible first | assumption | apply Dev.packet_holds | apply State.dev_holds)

end Sys2Proof.Machine
end

