-- ==== Sys2Proof/Laws/Holds/Mi.lean ====
section
/-! SUPPORT. The operations of Machine/Mi.lean carry `Dev.Holds`. -/

namespace Sys2Proof.Machine

set_option linter.unusedTactic false
set_option linter.unreachableTactic false

theorem Dev.setMiCfg_holds {kp : Keep} {d : Dev} (hk : d.Holds kp) (p : Port) (c : MiConfig) (v : Nat) : (d.setMiCfg p c v).Holds kp := by
  unfold Dev.setMiCfg; repeat' (with_reducible first | assumption | lift_lets -underBinder | (intro x; refine (fun (hx : Dev.Holds kp x) => ?_) ?_; on_goal 2 => unfold x) | apply Dev.onHost_holds | fail_if_no_progress (apply holds_upd <;> try rfl) | rfl | intro _ | split | dsimp +zetaDelta only)

theorem Dev.miTunnel_holds {kp : Keep} {d : Dev} (hk : d.Holds kp) (p : Port) (x : MiAdmin) : (d.miTunnel p x).2.Holds kp := by
  unfold Dev.miTunnel; repeat' (with_reducible first | assumption | lift_lets -underBinder | (intro x; refine (fun (hx : Dev.Holds kp x) => ?_) ?_; on_goal 2 => unfold x) | apply Dev.clearChanges_holds | fail_if_no_progress (apply holds_upd <;> try rfl) | rfl | intro _ | split | dsimp +zetaDelta only)

theorem Dev.miServe_holds {kp : Keep} {d : Dev} (hk : d.Holds kp) (p : Port) (r : MiRequest) : (d.miServe p r).2.Holds kp := by
  unfold Dev.miServe; repeat' (with_reducible first | assumption | lift_lets -underBinder | apply Dev.setMiCfg_holds | apply Dev.miTunnel_holds | fail_if_no_progress (apply holds_upd <;> try rfl) | rfl | intro _ | split)

theorem Dev.miSend_holds {kp : Keep} {d : Dev} (hk : d.Holds kp) (hc : kp.cells = none) (hf : kp.flash = none) (hr : kp.recs = none) (id : CmdId) (r : MiRequest) : (d.miSend id r).Holds kp := by
  unfold Dev.miSend; repeat' (with_reducible first | assumption | lift_lets -underBinder | (intro x; refine (fun (hx : Dev.Holds kp x) => ?_) ?_; on_goal 2 => unfold x) | apply Dev.setPath_holds | apply Dev.onCtrl_holds | apply Dev.complete_holds | apply Dev.arrivePacket_holds | apply Dev.miServe_holds | fail_if_no_progress (apply holds_upd <;> try rfl) | rfl | intro _ | split | dsimp +zetaDelta only)

theorem execNvmeMiSend_holds {kp : Keep} {s : State} (hk : s.dev.Holds kp) (hc : kp.cells = none) (hf : kp.flash = none) (hr : kp.recs = none) (id : CmdId) (r : MiRequest) :
    ∃ d, execNvmeMiSend id r s = s.next d ∧ d.Holds kp := by
  refine ⟨_, rfl, ?_⟩; repeat' (with_reducible first | assumption | apply Dev.adminDo_holds | apply State.dev_holds | apply Dev.miSend_holds | intro _)

theorem Dev.miReceive_holds {kp : Keep} {d : Dev} (hk : d.Holds kp) (id : CmdId) : (d.miReceive id).Holds kp := by
  unfold Dev.miReceive; repeat' (with_reducible first | assumption | lift_lets -underBinder | (intro x; refine (fun (hx : Dev.Holds kp x) => ?_) ?_; on_goal 2 => unfold x) | apply Dev.reply_holds | apply Dev.onCtrl_holds | apply Dev.complete_holds | apply Dev.giveHost_holds | apply Dev.setPath_holds | apply holds_ite | fail_if_no_progress (apply holds_upd <;> try rfl) | rfl | intro _ | split | dsimp +zetaDelta only)

theorem execNvmeMiReceive_holds {kp : Keep} {s : State} (hk : s.dev.Holds kp) (id : CmdId) :
    ∃ d, execNvmeMiReceive id s = s.next d ∧ d.Holds kp := by
  refine ⟨_, rfl, ?_⟩; repeat' (with_reducible first | assumption | apply Dev.adminDo_holds | apply State.dev_holds | apply Dev.miReceive_holds | intro _)

theorem Dev.miBus_holds {kp : Keep} {d : Dev} (hk : d.Holds kp) (p : Port) (r : MiRequest) : (d.miBus p r).Holds kp := by
  unfold Dev.miBus; repeat' (with_reducible first | assumption | lift_lets -underBinder | (intro x; refine (fun (hx : Dev.Holds kp x) => ?_) ?_; on_goal 2 => unfold x) | apply Dev.miServe_holds | apply Dev.onHost_holds | apply holds_ite | fail_if_no_progress (apply holds_upd <;> try rfl) | rfl | intro _ | split | dsimp +zetaDelta only)

theorem execBasicManagementCommand_holds {kp : Keep} {s : State} (hk : s.dev.Holds kp) (p : Port) :
    ∃ d, execBasicManagementCommand p s = s.next d ∧ d.Holds kp := by
  refine ⟨_, rfl, ?_⟩; repeat' (with_reducible first | assumption | lift_lets -underBinder | apply State.dev_holds | apply Dev.onHost_holds | apply holds_ite | fail_if_no_progress (apply holds_upd <;> try rfl) | rfl | intro _ | split)

theorem execReadNvmeMiDataStructure_holds {kp : Keep} {s : State} (hk : s.dev.Holds kp) (p : Port) (x : MiData) :
    ∃ d, execReadNvmeMiDataStructure p x s = s.next d ∧ d.Holds kp := by
  refine ⟨_, rfl, ?_⟩; repeat' (with_reducible first | assumption | apply Dev.miBus_holds | apply State.dev_holds)

theorem execNvmSubsystemHealthStatusPoll_holds {kp : Keep} {s : State} (hk : s.dev.Holds kp) (p : Port) :
    ∃ d, execNvmSubsystemHealthStatusPoll p s = s.next d ∧ d.Holds kp := by
  refine ⟨_, rfl, ?_⟩; repeat' (with_reducible first | assumption | apply Dev.miBus_holds | apply State.dev_holds)

theorem execControllerHealthStatusPoll_holds {kp : Keep} {s : State} (hk : s.dev.Holds kp) (p : Port) :
    ∃ d, execControllerHealthStatusPoll p s = s.next d ∧ d.Holds kp := by
  refine ⟨_, rfl, ?_⟩; repeat' (with_reducible first | assumption | apply Dev.miBus_holds | apply State.dev_holds)

theorem execConfigurationGet_holds {kp : Keep} {s : State} (hk : s.dev.Holds kp) (p : Port) (c : MiConfig) :
    ∃ d, execConfigurationGet p c s = s.next d ∧ d.Holds kp := by
  refine ⟨_, rfl, ?_⟩; repeat' (with_reducible first | assumption | apply Dev.miBus_holds | apply State.dev_holds)

theorem execConfigurationSet_holds {kp : Keep} {s : State} (hk : s.dev.Holds kp) (p : Port) (c : MiConfig) (v : Nat) :
    ∃ d, execConfigurationSet p c v s = s.next d ∧ d.Holds kp := by
  refine ⟨_, rfl, ?_⟩; repeat' (with_reducible first | assumption | apply Dev.miBus_holds | apply State.dev_holds)

theorem execVpdRead_holds {kp : Keep} {s : State} (hk : s.dev.Holds kp) (p : Port) (off len : Nat) :
    ∃ d, execVpdRead p off len s = s.next d ∧ d.Holds kp := by
  refine ⟨_, rfl, ?_⟩; repeat' (with_reducible first | assumption | apply Dev.miBus_holds | apply State.dev_holds)

theorem Dev.miTunnelled_holds {kp : Keep} {d : Dev} (hk : d.Holds kp) (p c : Port) (x : MiAdmin) : (d.miTunnelled p c x).Holds kp := by
  unfold Dev.miTunnelled; repeat' (with_reducible first | assumption | lift_lets -underBinder | (intro x; refine (fun (hx : Dev.Holds kp x) => ?_) ?_; on_goal 2 => unfold x) | apply Dev.miTunnel_holds | apply Dev.onHost_holds | apply holds_ite | fail_if_no_progress (apply holds_upd <;> try rfl) | rfl | intro _ | split | dsimp +zetaDelta only)

theorem execTunnelledAdminCommand_holds {kp : Keep} {s : State} (hk : s.dev.Holds kp) (p c : Port) (x : MiAdmin) :
    ∃ d, execTunnelledAdminCommand p c x s = s.next d ∧ d.Holds kp := by
  refine ⟨_, rfl, ?_⟩; repeat' (with_reducible first | assumption | apply Dev.miTunnelled_holds | apply State.dev_holds)

theorem execVendorSpecificMessage_holds {kp : Keep} {s : State} (hk : s.dev.Holds kp) (hc : kp.cells = none) (hf : kp.flash = none) (hr : kp.recs = none) (p : Port) (ws : List Word) (o : MpiObs) :
    ∃ d, execVendorSpecificMessage p ws o s = s.next d ∧ d.Holds kp := by
  refine ⟨_, rfl, ?_⟩; repeat' (with_reducible first | assumption | apply Dev.arrivePacket_holds | apply State.dev_holds)

end Sys2Proof.Machine
end

