-- ==== Sys2Proof/Laws/Holds/Boot.lean ====
section
/-! SUPPORT. The operations of Machine/Boot.lean carry `Dev.Holds`. -/

namespace Sys2Proof.Machine

set_option linter.unusedTactic false
set_option linter.unreachableTactic false

theorem Dev.deriveKeys_holds {kp : Keep} {d : Dev} (hk : d.Holds kp) : (d.deriveKeys).Holds kp := by
  unfold Dev.deriveKeys; repeat' (with_reducible first | assumption | apply Dev.setF_holds)

theorem Dev.powerGood_holds {kp : Keep} {d : Dev} (hk : d.Holds kp) (hc : kp.cells = none) (pins : Nat) (portOff : Bool) : (d.powerGood pins portOff).Holds kp := by
  unfold Dev.powerGood; repeat' (with_reducible first | assumption | lift_lets -underBinder | (intro x; refine (fun (hx : Dev.Holds kp x) => ?_) ?_; on_goal 2 => unfold x) | apply Dev.setF_holds | apply Dev.endStep_holds | apply Dev.deriveKeys_holds | apply Dev.domainsUp_holds | apply holds_ite | fail_if_no_progress (apply holds_upd <;> try rfl) | rfl | intro _ | split | dsimp +zetaDelta only)

theorem execPowerGood_holds {kp : Keep} {s : State} (hk : s.dev.Holds kp) (hc : kp.cells = none) (pins : Nat) (portOff : Bool) :
    ∃ d, execPowerGood pins portOff s = s.next d ∧ d.Holds kp := by
  refine ⟨_, rfl, ?_⟩; repeat' (with_reducible first | assumption | apply Dev.powerGood_holds | apply State.dev_holds)

theorem Dev.trainPorts_holds {kp : Keep} {d : Dev} (hk : d.Holds kp) : (d.trainPorts).Holds kp := by
  unfold Dev.trainPorts; repeat' (with_reducible first | assumption | lift_lets -underBinder | (intro x; refine (fun (hx : Dev.Holds kp x) => ?_) ?_; on_goal 2 => unfold x) | apply Dev.onCtrl_holds | apply holds_ite | fail_if_no_progress (apply holds_upd <;> try rfl) | rfl | intro _ | split | dsimp +zetaDelta only)

theorem Dev.clockLocked_holds {kp : Keep} {d : Dev} (hk : d.Holds kp) (alt : Bool) : (d.clockLocked alt).Holds kp := by
  unfold Dev.clockLocked; repeat' (with_reducible first | assumption | lift_lets -underBinder | (intro x; refine (fun (hx : Dev.Holds kp x) => ?_) ?_; on_goal 2 => unfold x) | apply Dev.setF_holds | apply Dev.event_holds | apply Dev.trainPorts_holds | apply Dev.endStep_holds | apply holds_ite | intro _ | split | dsimp +zetaDelta only)

theorem Dev.optionLoad_holds {kp : Keep} {d : Dev} (hk : d.Holds kp) (hc : kp.cells = none) (hf : kp.flash = none) (edges : Bool) : (d.optionLoad edges).Holds kp := by
  unfold Dev.optionLoad; repeat' (with_reducible first | assumption | lift_lets -underBinder | (intro x; refine (fun (hx : Dev.Holds kp x) => ?_) ?_; on_goal 2 => unfold x) | apply Dev.loadOption_holds | apply Dev.deriveKeys_holds | apply Dev.domainsUp_holds | apply Dev.drainEvents_holds | refine Dev.onHb_holds ?_ rfl rfl rfl | apply Dev.handleTickets_holds | apply Dev.event_holds | refine Dev.onNv_keep ?_ rfl | refine Dev.onNv_holds ?_ (by assumption) (fun m hm => ?_) | exact NvDie.setWord_wf hm _ _ | exact NvDie.eraseSector_wf hm _ | exact NvDie.spoilSector_wf hm _ | apply Dev.clockLocked_holds | apply holds_ite | fail_if_no_progress (apply holds_upd <;> try rfl) | rfl | intro _ | split | dsimp +zetaDelta only)

theorem execOptionAreaLoad_holds {kp : Keep} {s : State} (hk : s.dev.Holds kp) (hc : kp.cells = none) (hf : kp.flash = none) (edges : Bool) :
    ∃ d, execOptionAreaLoad edges s = s.next d ∧ d.Holds kp := by
  refine ⟨_, rfl, ?_⟩; repeat' (with_reducible first | assumption | apply Dev.optionLoad_holds | apply State.dev_holds)

theorem execClockSourceTimeout_holds {kp : Keep} {s : State} (hk : s.dev.Holds kp) (other : Bool) :
    ∃ d, execClockSourceTimeout other s = s.next d ∧ d.Holds kp := by
  refine ⟨_, rfl, ?_⟩; repeat' (with_reducible first | assumption | apply State.dev_holds | apply Dev.clockLocked_holds | apply holds_ite | intro _ | split)

theorem execClockSourceRetry_holds {kp : Keep} {s : State} (hk : s.dev.Holds kp) (chosen other : Bool) :
    ∃ d, execClockSourceRetry chosen other s = s.next d ∧ d.Holds kp := by
  refine ⟨_, rfl, ?_⟩; repeat' (with_reducible first | assumption | apply State.dev_holds | apply Dev.clockLocked_holds | apply holds_ite | intro _ | split)

theorem Dev.perstHigh_holds {kp : Keep} {d : Dev} (hk : d.Holds kp) (p : Port) : (d.perstHigh p).Holds kp := by
  unfold Dev.perstHigh; repeat' (with_reducible first | assumption | lift_lets -underBinder | (intro x; refine (fun (hx : Dev.Holds kp x) => ?_) ?_; on_goal 2 => unfold x) | apply Dev.onHost_holds | apply Dev.checkReady_holds | apply Dev.onCtrl_holds | apply holds_ite | fail_if_no_progress (apply holds_upd <;> try rfl) | rfl | intro _ | split | dsimp +zetaDelta only)

theorem execPerstDeassert_holds {kp : Keep} {s : State} (hk : s.dev.Holds kp) (p : Port) :
    ∃ d, execPerstDeassert p s = s.next d ∧ d.Holds kp := by
  refine ⟨_, rfl, ?_⟩; repeat' (with_reducible first | assumption | apply Dev.perstHigh_holds | apply State.dev_holds)

theorem Dev.enterRecovery_holds {kp : Keep} {d : Dev} (hk : d.Holds kp) : (d.enterRecovery).Holds kp := by
  unfold Dev.enterRecovery; repeat' (with_reducible first | assumption | lift_lets -underBinder | (intro x; refine (fun (hx : Dev.Holds kp x) => ?_) ?_; on_goal 2 => unfold x) | apply Dev.onCtrl_holds | apply Dev.setF_holds | fail_if_no_progress (apply holds_upd <;> try rfl) | rfl | intro _ | dsimp +zetaDelta only)

theorem slotSoundOf_holds {kp : Keep} {r : Option (List Byte) × Dev} (hk : r.2.Holds kp) (sig : Bool) :
    (slotSoundOf sig r).2.Holds kp := by
  unfold slotSoundOf
  split <;> exact hk

theorem Dev.slotSound_holds {kp : Keep} {d : Dev} (hk : d.Holds kp) (sigs : Two Bool) (slot : Nat) :
    (d.slotSound sigs slot).2.Holds kp := slotSoundOf_holds (Dev.slotImage_holds hk true slot) _

theorem Dev.bootFrom_holds {kp : Keep}  (x0 : List Nat) : ∀ {d : Dev} (hk : d.Holds kp) (sigs : Two Bool), (d.bootFrom sigs x0).Holds kp := by
  induction x0 with
  | nil =>
    intro d hk sigs; unfold Dev.bootFrom; repeat' (with_reducible first | assumption | lift_lets -underBinder | (intro x; refine (fun (hx : Dev.Holds kp x) => ?_) ?_; on_goal 2 => unfold x) | apply ih | apply Dev.enterRecovery_holds | apply Dev.slotSound_holds | apply Dev.endStep_holds | apply Dev.setF_holds | apply holds_ite | intro _ | split | dsimp +zetaDelta only)
  | cons y ys ih =>
    intro d hk sigs; unfold Dev.bootFrom; repeat' (with_reducible first | assumption | lift_lets -underBinder | (intro x; refine (fun (hx : Dev.Holds kp x) => ?_) ?_; on_goal 2 => unfold x) | apply ih | apply Dev.enterRecovery_holds | apply Dev.slotSound_holds | apply Dev.endStep_holds | apply Dev.setF_holds | apply holds_ite | intro _ | split | dsimp +zetaDelta only)

theorem Dev.verifyFirmware_holds {kp : Keep} {d : Dev} (hk : d.Holds kp) (sigs : Two Bool) : (d.verifyFirmware sigs).Holds kp := by
  unfold Dev.verifyFirmware; repeat' (with_reducible first | assumption | lift_lets -underBinder | (intro x; refine (fun (hx : Dev.Holds kp x) => ?_) ?_; on_goal 2 => unfold x) | apply Dev.setBoot_holds | apply Dev.event_holds | apply Dev.setF_holds | apply Dev.bootFrom_holds | apply holds_ite | fail_if_no_progress (apply holds_upd <;> try rfl) | rfl | intro _ | split | dsimp +zetaDelta only)

theorem execFirmwareVerify_holds {kp : Keep} {s : State} (hk : s.dev.Holds kp) (sigA sigB : Bool) :
    ∃ d, execFirmwareVerify sigA sigB s = s.next d ∧ d.Holds kp := by
  refine ⟨_, rfl, ?_⟩; repeat' (with_reducible first | assumption | apply Dev.verifyFirmware_holds | apply State.dev_holds)

theorem decompressOf_holds {kp : Keep} {r : Option (List Byte) × Dev} (hk : r.2.Holds kp) (hc : kp.cells = none) (slot : Nat) :
    (decompressOf slot r).Holds kp := by
  unfold decompressOf
  split
  · have h2 := Dev.setF_holds (Dev.onNv_keep (g := fun n => { n with badSlots := slot :: n.badSlots }) hk rfl) Reg.SYS_BOOT_STEP 3
    exact holds_ite (Dev.enterRecovery_holds h2) h2
  · exact Dev.endStep_holds (Dev.setF_holds (Dev.setF_holds (Dev.cpxReady_holds (Dev.cpxReady_holds (Dev.setServed_holds
      (Dev.setServed_holds (Dev.setF_holds (Dev.domainsUp_holds hk hc _ _) _ _) _ _) _ _) _) _) _ _) _ _) _

theorem Dev.decompressFirmware_holds {kp : Keep} {d : Dev} (hk : d.Holds kp) (hc : kp.cells = none) : d.decompressFirmware.Holds kp := by
  unfold Dev.decompressFirmware
  exact holds_ite hk (decompressOf_holds (Dev.slotImage_holds hk _ _) hc _)

theorem execFirmwareDecompress_holds {kp : Keep} {s : State} (hk : s.dev.Holds kp) (hc : kp.cells = none) :
    ∃ d, execFirmwareDecompress s = s.next d ∧ d.Holds kp := by
  refine ⟨_, rfl, ?_⟩; repeat' (with_reducible first | assumption | apply Dev.decompressFirmware_holds | apply State.dev_holds)

theorem Dev.trainDram_holds {kp : Keep} {d : Dev} (hk : d.Holds kp) (hc : kp.cells = none) (c0 c1 : Bool) : (d.trainDram c0 c1).Holds kp := by
  unfold Dev.trainDram; repeat' (with_reducible first | assumption | lift_lets -underBinder | (intro x; refine (fun (hx : Dev.Holds kp x) => ?_) ?_; on_goal 2 => unfold x) | apply Dev.setF_holds | apply Dev.domainsUp_holds | apply holds_ite | intro _ | split | dsimp +zetaDelta only)

theorem execDramTraining_holds {kp : Keep} {s : State} (hk : s.dev.Holds kp) (hc : kp.cells = none) (c0 c1 : Bool) :
    ∃ d, execDramTraining c0 c1 s = s.next d ∧ d.Holds kp := by
  refine ⟨_, rfl, ?_⟩; repeat' (with_reducible first | assumption | apply Dev.trainDram_holds | apply State.dev_holds)

theorem Dev.enterSafe_holds {kp : Keep} {d : Dev} (hk : d.Holds kp) (hf : kp.flash = none) : (d.enterSafe).Holds kp := by
  unfold Dev.enterSafe; repeat' (with_reducible first | assumption | lift_lets -underBinder | (intro x; refine (fun (hx : Dev.Holds kp x) => ?_) ?_; on_goal 2 => unfold x) | apply Dev.setF_holds | apply Dev.semSettle_holds | apply Dev.endStep_holds | apply Dev.semEnd_holds | apply Dev.event_holds | intro _ | dsimp +zetaDelta only)

theorem Dev.admitProfile_holds {kp : Keep} {d : Dev} (hk : d.Holds kp) (hc : kp.cells = none) (hf : kp.flash = none) (hr : kp.recs = none) (slot : Nat) (x : ProfileDecl) (o : FabricObs) : (d.admitProfile slot x o).Holds kp := by
  unfold Dev.admitProfile; repeat' (with_reducible first | assumption | lift_lets -underBinder | (intro x; refine (fun (hx : Dev.Holds kp x) => ?_) ?_; on_goal 2 => unfold x) | apply Dev.slotImage_holds | apply Dev.loadProfile_holds | apply Dev.setF_holds | apply Dev.enterSafe_holds | apply holds_ite | intro _ | split | dsimp +zetaDelta only)

theorem Dev.chooseProfile_holds {kp : Keep} {d : Dev} (hk : d.Holds kp) (hc : kp.cells = none) (hf : kp.flash = none) (hr : kp.recs = none) (sigs : Two Bool) (decls : Two ProfileDecl) (o : FabricObs) : (d.chooseProfile sigs decls o).Holds kp := by
  unfold Dev.chooseProfile; repeat' (with_reducible first | assumption | lift_lets -underBinder | (intro x; refine (fun (hx : Dev.Holds kp x) => ?_) ?_; on_goal 2 => unfold x) | apply Dev.slotFault_holds | apply Dev.admitProfile_holds | apply Dev.enterSafe_holds | apply holds_ite | intro _ | split | dsimp +zetaDelta only)

theorem Dev.linksUp_holds {kp : Keep} {d : Dev} (hk : d.Holds kp) (hc : kp.cells = none) (t0 t1 : Training) : (d.linksUp t0 t1).Holds kp := by
  unfold Dev.linksUp; repeat' (with_reducible first | assumption | lift_lets -underBinder | (intro x; refine (fun (hx : Dev.Holds kp x) => ?_) ?_; on_goal 2 => unfold x) | apply Dev.train_holds | apply Dev.domainOn_holds | apply Dev.endStep_holds | apply Dev.domainsUp_holds | apply holds_ite | intro _ | split | dsimp +zetaDelta only)

theorem Dev.profileAdmission_holds {kp : Keep} {d : Dev} (hk : d.Holds kp) (hc : kp.cells = none) (hf : kp.flash = none) (hr : kp.recs = none) (sigs : Two Bool) (decls : Two ProfileDecl) (o : FabricObs) (t0 t1 : Training) : (d.profileAdmission sigs decls o t0 t1).Holds kp := by
  unfold Dev.profileAdmission; repeat' (with_reducible first | assumption | apply Dev.linksUp_holds | apply Dev.chooseProfile_holds | apply Dev.domainsUp_holds | apply Dev.semBegin_holds | apply Dev.semGrant_holds | apply holds_ite | intro _ | split)

theorem execProfileAdmission_holds {kp : Keep} {s : State} (hk : s.dev.Holds kp) (hc : kp.cells = none) (hf : kp.flash = none) (hr : kp.recs = none) (sig0 sig1 : Bool) (decl0 decl1 : ProfileDecl) (o : FabricObs) (train0 train1 : Training) :
    ∃ d, execProfileAdmission sig0 sig1 decl0 decl1 o train0 train1 s = s.next d ∧ d.Holds kp := by
  refine ⟨_, rfl, ?_⟩; repeat' (with_reducible first | assumption | apply Dev.profileAdmission_holds | apply State.dev_holds)

theorem Dev.controllersReady_holds {kp : Keep} {d : Dev} (hk : d.Holds kp) : (d.controllersReady).Holds kp := by
  unfold Dev.controllersReady; repeat' (with_reducible first | assumption | lift_lets -underBinder | (intro x; refine (fun (hx : Dev.Holds kp x) => ?_) ?_; on_goal 2 => unfold x) | apply Dev.onHost_holds | apply Dev.setF_holds | apply Dev.checkReady_holds | apply Dev.endStep_holds | apply holds_ite | fail_if_no_progress (apply holds_upd <;> try rfl) | rfl | intro _ | split | dsimp +zetaDelta only)

theorem execControllersReady_holds {kp : Keep} {s : State} (hk : s.dev.Holds kp) :
    ∃ d, execControllersReady s = s.next d ∧ d.Holds kp := by
  refine ⟨_, rfl, ?_⟩; repeat' (with_reducible first | assumption | apply Dev.controllersReady_holds | apply State.dev_holds)

theorem Dev.bootLoad_holds {kp : Keep} {d : Dev} (hk : d.Holds kp) (a : Act) (emf : Word) : (d.bootLoad a emf).Holds kp := by
  unfold Dev.bootLoad; repeat' (with_reducible first | assumption | lift_lets -underBinder | apply Dev.servoLoad_holds | apply Dev.onSrv_holds | apply holds_ite | fail_if_no_progress (apply holds_upd <;> try rfl) | rfl | intro _ | split)

theorem Dev.bootCheck_holds {kp : Keep} {d : Dev} (hk : d.Holds kp) (a : Act) (bad : List Nat) : (d.bootCheck a bad).Holds kp := by
  unfold Dev.bootCheck; repeat' (with_reducible first | assumption | refine holds_foldl (fun _ _ _ => ?_) _ ?_ | refine holds_foldl_snd (fun _ _ _ => ?_) _ ?_ | lift_lets -underBinder | (intro x; refine (fun (hx : Dev.Holds kp x) => ?_) ?_; on_goal 2 => unfold x) | apply Dev.servoHead_holds | apply Dev.headFailing_holds | apply Dev.event_holds | apply holds_ite | intro _ | split | dsimp +zetaDelta only)

theorem Dev.headCalibration_holds {kp : Keep} {d : Dev} (hk : d.Holds kp) (emf : Per Word) (bad : Per (List Nat)) : (d.headCalibration emf bad).Holds kp := by
  unfold Dev.headCalibration; repeat' (with_reducible first | assumption | refine holds_foldl (fun _ _ _ => ?_) _ ?_ | refine holds_foldl_snd (fun _ _ _ => ?_) _ ?_ | apply Dev.endStep_holds | apply Dev.bootCheck_holds | apply Dev.bootLoad_holds | apply holds_ite | intro _ | split)

theorem execHeadLoadCalibration_holds {kp : Keep} {s : State} (hk : s.dev.Holds kp) (emf0 emf1 : Word) (bad0 bad1 : List Nat) :
    ∃ d, execHeadLoadCalibration emf0 emf1 bad0 bad1 s = s.next d ∧ d.Holds kp := by
  refine ⟨_, rfl, ?_⟩; repeat' (with_reducible first | assumption | apply Dev.headCalibration_holds | apply State.dev_holds)

theorem Dev.replayJournal_holds {kp : Keep} {d : Dev} (hk : d.Holds kp) (bad : List Nat) : (d.replayJournal bad).Holds kp := by
  unfold Dev.replayJournal; repeat' (with_reducible first | assumption | refine holds_foldl (fun _ _ _ => ?_) _ ?_ | refine holds_foldl_fst (fun _ _ _ => ?_) _ ?_ | refine holds_foldl_snd (fun _ _ _ => ?_) _ ?_ | lift_lets -underBinder | (intro x; refine (fun (hx : Dev.Holds kp x) => ?_) ?_; on_goal 2 => unfold x) | apply Dev.event_holds | apply Dev.closeOpened_holds | fail_if_no_progress (apply holds_upd <;> try rfl) | rfl | intro _ | dsimp +zetaDelta only)

theorem Dev.restoreBlock_holds {kp : Keep} {d : Dev} (hk : d.Holds kp) (b : VaultBlock) (sound : Bool) : (d.restoreBlock b sound).Holds kp := by
  unfold Dev.restoreBlock; repeat' (with_reducible first | assumption | lift_lets -underBinder | (intro x; refine (fun (hx : Dev.Holds kp x) => ?_) ?_; on_goal 2 => unfold x) | apply Dev.onHost_holds | apply Dev.setZone_holds | apply holds_ite | fail_if_no_progress (apply holds_upd <;> try rfl) | rfl | intro _ | split | dsimp +zetaDelta only)

theorem Dev.restoreVault_holds {kp : Keep} {d : Dev} (hk : d.Holds kp) (o : RestoreObs) : (d.restoreVault o).Holds kp := by
  unfold Dev.restoreVault; repeat' (with_reducible first | assumption | refine holds_foldl (fun _ _ _ => ?_) _ ?_ | refine holds_foldl_fst (fun _ _ _ => ?_) _ ?_ | refine holds_foldl_snd (fun _ _ _ => ?_) _ ?_ | lift_lets -underBinder | (intro x; refine (fun (hx : Dev.Holds kp x) => ?_) ?_; on_goal 2 => unfold x) | apply Dev.event_holds | refine Dev.onNv_keep ?_ rfl | refine Dev.onNv_holds ?_ (by assumption) (fun m hm => ?_) | exact NvDie.setWord_wf hm _ _ | exact NvDie.eraseSector_wf hm _ | exact NvDie.spoilSector_wf hm _ | apply Dev.restoreBlock_holds | refine Dev.onHb_holds ?_ rfl rfl rfl | apply Dev.setF_holds | apply Dev.setReg_holds | apply holds_ite | fail_if_no_progress (apply holds_upd <;> try rfl) | rfl | intro _ | split | dsimp +zetaDelta only)

theorem Dev.resumeErase_holds {kp : Keep} {d : Dev} (hk : d.Holds kp) : (d.resumeErase).Holds kp := by
  unfold Dev.resumeErase; repeat' (with_reducible first | assumption | lift_lets -underBinder | apply Dev.setF_holds | apply Dev.onHost_holds | apply Dev.semEnd_holds | apply holds_ite | fail_if_no_progress (apply holds_upd <;> try rfl) | rfl | intro _ | split)

theorem Dev.stopAt_holds {kp : Keep} {d : Dev} (hk : d.Holds kp) (hf : kp.flash = none) (result : Nat) : (d.stopAt result).Holds kp := by
  unfold Dev.stopAt; repeat' (with_reducible first | assumption | lift_lets -underBinder | (intro x; refine (fun (hx : Dev.Holds kp x) => ?_) ?_; on_goal 2 => unfold x) | apply Dev.setF_holds | apply Dev.semSettle_holds | apply Dev.semEnd_holds | apply holds_ite | intro _ | split | dsimp +zetaDelta only)

theorem Dev.stateRestore_holds {kp : Keep} {d : Dev} (hk : d.Holds kp) (hf : kp.flash = none) (o : RestoreObs) : (d.stateRestore o).Holds kp := by
  unfold Dev.stateRestore; repeat' (with_reducible first | assumption | lift_lets -underBinder | (intro x; refine (fun (hx : Dev.Holds kp x) => ?_) ?_; on_goal 2 => unfold x) | apply Dev.event_holds | apply Dev.loseMedia_holds | apply Dev.stopAt_holds | apply Dev.setF_holds | apply Dev.restoreVault_holds | apply Dev.replayJournal_holds | apply Dev.semSettle_holds | apply Dev.resumeErase_holds | apply holds_ite | fail_if_no_progress (apply holds_upd <;> try rfl) | rfl | intro _ | split | dsimp +zetaDelta only)

theorem execStateRestore_holds {kp : Keep} {s : State} (hk : s.dev.Holds kp) (hf : kp.flash = none) (o : RestoreObs) :
    ∃ d, execStateRestore o s = s.next d ∧ d.Holds kp := by
  refine ⟨_, rfl, ?_⟩; repeat' (with_reducible first | assumption | apply Dev.stateRestore_holds | apply State.dev_holds)

theorem Dev.sendRestored_holds {kp : Keep} {d : Dev} (hk : d.Holds kp) (hr : kp.recs = none) : (d.sendRestored).Holds kp := by
  unfold Dev.sendRestored; repeat' (with_reducible first | assumption | refine holds_foldl (fun _ _ _ => ?_) _ ?_ | refine holds_foldl_fst (fun _ _ _ => ?_) _ ?_ | refine holds_foldl_snd (fun _ _ _ => ?_) _ ?_ | lift_lets -underBinder | (intro x; refine (fun (hx : Dev.Holds kp x) => ?_) ?_; on_goal 2 => unfold x) | apply Dev.settle_holds | apply Dev.askConvWrite_holds | fail_if_no_progress (apply holds_upd <;> try rfl) | rfl | intro _ | dsimp +zetaDelta only)

theorem Dev.rebuildCopy_holds {kp : Keep} {d : Dev} (hk : d.Holds kp) : (d.rebuildCopy).Holds kp := by
  unfold Dev.rebuildCopy; repeat' (with_reducible first | assumption | lift_lets -underBinder | (intro x; refine (fun (hx : Dev.Holds kp x) => ?_) ?_; on_goal 2 => unfold x) | fail_if_no_progress (apply holds_upd <;> try rfl) | rfl | intro _ | split | dsimp +zetaDelta only)

theorem Dev.namespacesReady_holds {kp : Keep} {d : Dev} (hk : d.Holds kp) (hr : kp.recs = none) : (d.namespacesReady).Holds kp := by
  unfold Dev.namespacesReady; repeat' (with_reducible first | assumption | apply Dev.sendRestored_holds | apply Dev.rebuildCopy_holds | apply Dev.endStep_holds | apply holds_ite | intro _ | split)

theorem execNamespacesReady_holds {kp : Keep} {s : State} (hk : s.dev.Holds kp) (hr : kp.recs = none) :
    ∃ d, execNamespacesReady s = s.next d ∧ d.Holds kp := by
  refine ⟨_, rfl, ?_⟩; repeat' (with_reducible first | assumption | apply Dev.namespacesReady_holds | apply State.dev_holds)

end Sys2Proof.Machine
end

