-- ==== Sys2Proof/Tests/Slice0.lean ====
section
/-! SUPPORT. The model's own tests: for each statement that has hypotheses a named witness that meets each of its sets of
hypotheses, an ill-formed command for each check of WellFormed, and the manual's worked examples. -/

namespace Sys2Proof.Tests

open Sys2Proof Sys2Proof.Machine

-- each witness is checked in turn: in parallel the checks would hold too much memory at once
set_option Elab.async false

/-- A KH7250-D at power good with some register fields set and one change made. -/
def wst (l : List (Fld × Nat)) (g : Dev → Dev) : State :=
  { pending := [], dev := g (l.foldl (fun d p => d.setF p.1 p.2) (Dev.fresh .D)) }

/-- An admin command of controller A. -/
def cid : CmdId := { port := .A, sq := 0, cid := 7 }

/-- Two zones on shingled bands of surfaces 0 and 1, a conventional band pair on surfaces 0 and 12, a Plank table of four
slots for head 0 of actuator 0, and one felt group of both zones. -/
def disk (d : Dev) : Dev :=
  let b (s k : Nat) : Option BandRec := some { surface := s, kind := k, dir := false, start := 100, rzone := 0, pitch := 0, offset := 0, tracks := 1000, skew := 0, spares := 4, slipBase := 0, slips := 0 }
  let d1 : Dev := { d with media := { d.media with bands := [(0, b 0 0), (1, b 1 0), (20, b 0 2), (21, b 12 2)], zoneMap := [(0, some 0), (1, some 1)], convMap := [(0, some (20, 21))] } }
  let d2 := (d1.setTword (Tbl.plank .a0) 0 0x01000000#32).setTword (Tbl.plank .a0) 8 4#32
  (((d2.setTword Tbl.felt 0 (BitVec.ofNat 32 (5 * 2 ^ 27 + 6 * 2 ^ 22 + 2 * 2 ^ 17))).setTword Tbl.felt 4 0#32).setTword Tbl.felt 8 (BitVec.ofNat 32 (2 ^ 18 + 1))).setF Reg.FLT_GRP_CNT_COUNT 1

/-- A record of the ladder. -/
def lrec (band pos rung : Nat) : LadderRec :=
  { tag := 3, band := band, pos := pos, slot := 0, conv := false, rung := rung, plan := 0, noback := false, distrust := false, ends := false, single := false, sync2 := false, cut := false }

/-- A DATA entry of a Plank table, and a binding that holds it. -/
def dataEntry : PlankEntry :=
  { kind := 1, wedge := 0, start := 0, pre := 3, sync := 0, length := 1000, slot := 0, frag := 0, first := true, last := true, smark2 := false, sm2off := 0, cwOffset := 0 }

def bound (es : List PlankEntry) : Binding :=
  { band := 0, track := 5, table := 0, bitrate := 0, crate := 0, format := 0, slots := 4, skew := 0, entries := es }

/-- A request of a Blocker. -/
def breq : BlkReq :=
  { op := 0, head := 0, tag := 3, band := 0, track := 5, slot := 0, count := 1, desc := 0, rung := 0, felt := 15, requester := 0 }

/-- A bolt record on the media. -/
def mrec : MediaRec := { place := 100, slot := 0, valid := 255, bad := 0, firstLba := 0, nsid := 1, zone := 0, wseq := 1, keygen := 0, data := List.replicate 8 7 }

/-- Controller A runs, start-up has ended, and the device has two zones. -/
def online (d : Dev) : Dev :=
  let d1 := (disk d).setF Reg.SYS_BOOT_STEP 11
  { d1 with host := { d1.host with ctrl := d1.host.ctrl.set 0 { d1.host.ctrl.get 0 with en := true, rdy := true, link := true } }, zq := { d1.zq with count := 2 } }

/-- The device of `online` with its first zone changed. -/
def inZone (f : Zone → Zone) (d : Dev) : Dev := (online d).setZone 0 (f ((online d).zone 0))

/-- A write of one block of a zone. -/
def zwrite (off : Nat) : ZWrite := { id := cid, off := off, len := 1, data := [9] }

/-- An image: the header of Table 19.4 and a stream of one stored block of four bytes. -/
def image (magic : Nat) : List Byte :=
  let stream := streamHeader 4 1 ++ streamBody [[1, 2, 3, 4]] [[]]
  let head := le32 magic ++ le32 1 ++ le32 0 ++ [0, 0, 0, 0] ++ le32 stream.length ++ le32 4 ++ List.replicate 132 0
  head ++ le32 (crc32 head) ++ List.replicate 96 0 ++ stream

/-- No domain is on in any power state. -/
def psNone (d : Dev) : Dev := (List.range 20).foldl (fun d k => d.setReg (Reg.PDM_PS_ON + 4 * k) 0#32) d

/-- A firmware image, and an image placed in a slot. -/
def fwImage : List Byte := image 0x4B480001

def burn (fw : Bool) (slot : Nat) (bs : List Byte) (d : Dev) : Dev :=
  d.onNv fun n => n.programBytes (slotBase fw slot) ((bs.length + 31) / 32) bs

/-- The words of a packet with its CRC (Table 18.1). -/
def packetOf (op : Nat) (tlvs : List Tlv) : List Word :=
  let body := tlvs.flatMap Tlv.words
  let ws := BitVec.ofNat 32 (op * 2 ^ 16 + 5) :: BitVec.ofNat 32 (2 ^ 24 + (body.length + 4)) :: 0#32 :: body
  ws ++ [BitVec.ofNat 32 (crc32Words ws)]

/-- The shortest packet of an opcode: its required TLVs, their values zero. -/
def sample (op : Nat) : List Word :=
  packetOf op (((opRow op).map OpRow.req).getD [] |>.map fun ty => { ty := ty, len := if ty = Ty.lba then 12 else 4, ws := List.replicate (if ty = Ty.lba then 3 else 1) 0#32 })

/-- A call whose packet holds some TLVs of words. -/
def callOf (op : Nat) (tlvs : List Tlv) : Call :=
  { path := .uart, p := Packet.ofWords (packetOf op tlvs),
    o := { fabric := { word := { rz := .good, wr := .good, assist := .good, same := true }, train := Training.blank, consumed := 0, poisoned := false },
           sig := true, store := .done, codings := [], decl := { nh := 12, readers := [], data0 := [], data1 := [] }, reads := [],
           source := { missing := [], pBad := false, qBad := false, parityPoison := false, poison := 0, columns := [] },
           samples := [], spOp := none, mram := [] } }

/-- TLVs of one word each. -/
def call (op : Nat) (l : List (Nat × Nat)) : Call := callOf op (l.map fun p => Tlv.ofWords p.1 [BitVec.ofNat 32 p.2])

/-! ### Witnesses: one conjunct for each set of hypotheses, in the order of the statement -/

theorem witness_FieldsAndCounters :
    (let d : Dev := (wst [] fun d => d).dev; (let x : Fld := (⟨0x10, 31, 28⟩ : Fld); swf 0 d.regs = true ∧ x.hi < 32 ∧
      x.lo ≤ x.hi)) ∧
    (let d : Dev := (wst [] fun d => d).dev; (let x : Fld := (⟨0x10, 31, 28⟩ : Fld); swf 0 d.regs = true ∧ x.hi < 32 ∧
      x.lo ≤ x.hi ∧ (let y : Fld := (⟨0x20, 31, 28⟩ : Fld); y.addr ≠ x.addr))) ∧
    (let d : Dev := (wst [] fun d => d).dev; (let x : Fld := (⟨0x10, 31, 28⟩ : Fld); swf 0 d.regs = true ∧ x.hi < 32 ∧
      x.lo ≤ x.hi ∧ (let y : Fld := (⟨0x10, 27, 0⟩ : Fld); y.addr = x.addr ∧ (y.hi < x.lo ∨ x.hi < y.lo)))) ∧
    (let d : Dev := (wst [] fun d => d).dev; (let x : Fld := (⟨0x10, 31, 28⟩ : Fld); swf 0 d.regs = true ∧ x.hi < 32 ∧
      x.lo ≤ x.hi ∧ (let y : Fld := (⟨0x0, 31, 31⟩ : Fld); y.addr ≠ x.addr))) :=
  ⟨by decide +kernel, by decide +kernel, by decide +kernel, by decide +kernel⟩

theorem witness_AbsentUnitReads :
    (let s : State := wst [] fun d => { d with variant := .S }; (let addr := 0x310000; s.dev.absentAt addr = true)) ∧
    (let s : State := wst [] fun d => { d with variant := .S }; (let addr := 0x310000; s.dev.absentAt addr = true ∧
      (let d : Dev := (wst [] fun d => { d with variant := .S }).dev; d.absentAt addr = true))) :=
  ⟨by decide +kernel, by decide +kernel⟩

theorem witness_SemaphoreRelease :
    (let s : State := wst [(Reg.CPX_SEM_HOLDER, 1)] fun d => d.onCtrl .A fun c => { c with rdy := true };
      (let id : CmdId := cid; s.dev.admits id = true ∧ (let h := 1 + id.port.idx; s.dev.semHolder = h ∧
      s.dev.sem.ops = 0))) ∧
    (let s : State := wst [(Reg.CPX_SEM_HOLDER, 1)] fun d => { (d.onCtrl .A fun c => { c with rdy := true }) with sem := { queue := [], ops := 1, expired := false } };
      (let id : CmdId := cid; s.dev.admits id = true ∧ (let h := 1 + id.port.idx; s.dev.semHolder = h ∧
      s.dev.sem.ops ≠ 0))) ∧
    (let s : State := wst [(Reg.CPX_SEM_HOLDER, 5)] fun d => d.onCtrl .A fun c => { c with rdy := true };
      (let id : CmdId := cid; s.dev.admits id = true ∧ (let h := 1 + id.port.idx; s.dev.semHolder ≠ 0 ∧
      s.dev.semHolder ≠ h ∧ (∀ r ∈ s.dev.sem.queue, r.holder ≠ s.dev.semHolder)))) ∧
    (let s : State := wst [] fun d => d.onCtrl .A fun c => { c with rdy := true }; (let id : CmdId := cid;
      s.dev.admits id = true ∧ s.dev.semHolder = 0 ∧ s.dev.sem.queue = [])) ∧
    (let d : Dev := (wst [] fun d => d).dev; swf 0 d.regs = true) ∧
    (let d : Dev := (wst [] fun d => { d with sem := { queue := [⟨1, .claim cid⟩], ops := 0, expired := false } }).dev;
      swf 0 d.regs = true ∧ (let r := (⟨1, .claim cid⟩ : SemReq); (let rest := ([] : List SemReq); d.semHolder = 0 ∧
      d.sem.queue = r :: rest))) ∧
    (let d : Dev := (wst [(Reg.CPX_SEM_HOLDER, 1)] fun d => { d with sem := { queue := [], ops := 1, expired := false } }).dev;
      swf 0 d.regs = true ∧ d.sem.ops = 1 ∧ d.sem.expired = false ∧ d.f Reg.CPX_SEM_EXPLICIT = 0 ∧
      d.semOwnNext = false) :=
  ⟨by decide +kernel, by decide +kernel, by decide +kernel, by decide +kernel, by decide +kernel, by decide +kernel,
   by decide +kernel⟩

theorem witness_RecorderFull_stopped :
    (let s : State := wst [] fun d => d.onHb fun h => { h with ready := true, full := true, recs := [({ code := 5, block := 25, rep := 3, boot := 0, time := 0, src := 0, stamp := 0, arg0 := 0, arg1 := 0 } : HbRec)] };
      (let code := (5 : Nat);
      (let l := ({ code := 5, block := 25, rep := 3, boot := 0, time := 0, src := 0, stamp := 0, arg0 := 0, arg1 := 0 } : HbRec);
      0 < code ∧ code < 4096 ∧ s.dev.hb.ready = true ∧ s.dev.hb.clearing = false ∧ s.dev.hb.recs.getLast? = some l ∧
      (let h := s.dev.hb; h.full = true)))) := by decide +kernel

theorem witness_SpindleStartSequence :
    (let s : State := wst [(Reg.PWR_SMON_STATUS_GOOD5, 1), (Reg.PWR_SMON_STATUS_GOOD12, 1)] fun d => d;
      s.dev.safe = false ∧ s.dev.f Reg.FMG_STATUS_HOLD = 0 ∧ (let d1 := s.dev.setF Reg.SPN_CTL_RUN 1;
      (let d2 := d1.setF Reg.SPN_TARGET_SPEED d1.targetSpeed; d2.targetSpeed ≠ 0 ∧ d2.spnState = 0 ∧
      s.dev.spn.waiting = false ∧ d2.mayStart = true))) ∧
    (let s : State := wst [(Reg.SPN_STATUS_STATE, 1)] fun d => d; (let rpm := 0; s.dev.spnState = 1 ∧
      (s.dev.spn.sensed < 3 ∨ rpm < 60))) ∧
    (let s : State := wst [(Reg.SPN_STATUS_STATE, 1)] fun d => d.onSpn fun x => { x with sensed := 3 }; (let rpm := 60;
      s.dev.spnState = 1 ∧ 3 ≤ s.dev.spn.sensed ∧ 60 ≤ rpm)) ∧
    (let s : State := wst [(Reg.SPN_STATUS_STATE, 2)] fun d => d; s.dev.spnState = 2) ∧
    (let s : State := wst [(Reg.SPN_STATUS_STATE, 3)] fun d => d; s.dev.spnState = 3) ∧
    (let s : State := wst [(Reg.SPN_STATUS_STATE, 4)] fun d => d; s.dev.spnState = 4) ∧
    (let s : State := wst [(Reg.SPN_STATUS_STATE, 5)] fun d => d; 2 ≤ s.dev.spnState ∧ s.dev.spnState ≤ 5) ∧
    (let s : State := wst [(Reg.PWR_SMON_STATUS_GOOD5, 1), (Reg.PWR_SMON_STATUS_GOOD12, 1), (Reg.SPN_CTL_RUN, 1)] fun d => d.onSpn fun x => { x with waiting := true };
      s.dev.spn.waiting = true ∧ s.dev.targetSpeed ≠ 0 ∧ s.dev.mayStart = true) :=
  ⟨by decide +kernel, by decide +kernel, by decide +kernel, by decide +kernel, by decide +kernel, by decide +kernel,
   by decide +kernel, by decide +kernel⟩

theorem witness_SpindleTurning :
    (let s : State := wst [(Reg.SPN_STATUS_STATE, 1)] fun d => d; s.dev.spnState = 1) ∧
    (let s : State := wst [(Reg.SPN_STATUS_STATE, 4)] fun d => d.onSpn fun x => { x with confirmed := 2 };
      s.dev.spnState = 4 ∧ 2 ≤ s.dev.spn.confirmed) ∧
    (let s : State := wst [(Reg.SPN_STATUS_STATE, 6), (Reg.SPN_COMM_MAP_ALIGNED, 1)] fun d => d; (let err := (-30 : Int);
      s.dev.spnState = 6 ∧ s.dev.f Reg.SPN_COMM_MAP_ALIGNED = 1 ∧ err.natAbs ≤ 30)) ∧
    (let s : State := wst [(Reg.SPN_STATUS_STATE, 6), (Reg.SPN_OBS_MISSED, 1)] fun d => d; s.dev.spnState = 6 ∧
      s.dev.f Reg.SPN_OBS_MISSED < 2) ∧
    (let s : State := wst [(Reg.SPN_STATUS_STATE, 6), (Reg.SPN_OBS_MISSED, 2)] fun d => d; s.dev.spnState = 6 ∧
      s.dev.f Reg.SPN_OBS_MISSED = 2 ∧ s.dev.f Reg.SPN_COMM_MAP_ALIGNED = 0) ∧
    (let s : State := wst [(Reg.SPN_STATUS_STATE, 7)] fun d => d.onSpn fun x => { x with catching := some true };
      s.dev.spnState = 7 ∧ (s.dev.spn.catching).isSome = true) ∧
    (let s : State := wst [(Reg.SPN_STATUS_STATE, 5)] fun d => d.onSpn fun x => { x with catching := some true };
      (s.dev.spnState = 5 ∨ s.dev.spnState = 7) ∧ (s.dev.spn.catching).isSome = true) ∧
    (let s : State := wst [(Reg.SPN_STATUS_STATE, 6), (Reg.SPN_STATUS_SRC, 2), (Reg.TICK_STATUS_SRC, 1), (Reg.SPN_CTL_RUN, 1), (Reg.SPN_SPEED_CMD_SPEED, 720000)] fun d => d;
      (let sixthNs := 1388889; s.dev.spnState = 6 ∧ s.dev.f Reg.SPN_STATUS_SRC = 2 ∧ s.dev.src = 1 ∧
      s.dev.f Reg.SPN_COMM_MAP_ALIGNED = 0 ∧ s.dev.f Reg.SPN_STATUS_INHIBIT = 0 ∧ 476838 ≤ sixthNs ∧
      s.dev.targetSpeed ≠ 0 ∧ (let v : Nat := 1000000000000 / sixthNs; (let t : Nat := s.dev.targetSpeed;
      (let ppm : Int := Int.tdiv (((v : Int) - t) * 1000000) t; ppm.natAbs ≤ 10000))))) ∧
    (let s : State := wst [(Reg.SPN_STATUS_STATE, 8)] fun d => d; (s.dev.spnState = 7 ∨ s.dev.spnState = 8) ∧
      s.dev.f Reg.SPN_CTL_RUN = 0) :=
  ⟨by decide +kernel, by decide +kernel, by decide +kernel, by decide +kernel, by decide +kernel, by decide +kernel,
   by decide +kernel, by decide +kernel, by decide +kernel⟩

theorem witness_ServoSeeks :
    (let s : State := wst [] fun d => (d.onBlk .a0 fun b => { b with plank := { bind := some ({ band := 0, track := 5, table := 0, bitrate := 0, crate := 0, format := 0, slots := 1, skew := 0, entries := [] } : Binding), cur := none } }).onSrv .a0 fun v => { v with due := some false };
      (let a : Act := Act.a0; s.dev.hasAct a = true ∧ (let p := (Instr.servoReqSeek, 0); (let h := 0;
      (let x := ({ band := 0, track := 5, table := 0, bitrate := 0, crate := 0, format := 0, slots := 1, skew := 0, entries := [] } : Binding);
      h < 16 ∧ (s.dev.blk.get a).plank.bind = some x ∧
      (let r : ServoReq := { darg := p.2, head := h, band := x.band, track := x.track, write := (s.dev.blk.get a).writing };
      s.dev.keepsSettled a r = false ∧ (s.dev.srv.get a).traj.isSome ∨ (s.dev.srv.get a).due.isSome)))))) ∧
    (let s : State := wst [((Reg.SRV_STATUS_MOTION.on .a0), 3)] fun d => ((d.onBlk .a0 fun b => { b with plank := { bind := some ({ band := 0, track := 5, table := 0, bitrate := 0, crate := 0, format := 0, slots := 1, skew := 0, entries := [] } : Binding), cur := none } }).onSrv .a0 fun v => { v with settled := true, recent := List.replicate 16 (some 0) }).onSrv .a0 fun v => { v with target := ((d.onBlk .a0 fun b => { b with plank := { bind := some ({ band := 0, track := 5, table := 0, bitrate := 0, crate := 0, format := 0, slots := 1, skew := 0, entries := [] } : Binding), cur := none } }).aim .a0 { darg := 0, head := 0, band := 0, track := 5, write := false }).srv.a0.target, ref := ((d.onBlk .a0 fun b => { b with plank := { bind := some ({ band := 0, track := 5, table := 0, bitrate := 0, crate := 0, format := 0, slots := 1, skew := 0, entries := [] } : Binding), cur := none } }).aim .a0 { darg := 0, head := 0, band := 0, track := 5, write := false }).srv.a0.target };
      (let a : Act := Act.a0; s.dev.hasAct a = true ∧ (let p := (Instr.servoReqSeek, 0); (let h := 0;
      (let x := ({ band := 0, track := 5, table := 0, bitrate := 0, crate := 0, format := 0, slots := 1, skew := 0, entries := [] } : Binding);
      h < 16 ∧ (s.dev.blk.get a).plank.bind = some x ∧
      (let r : ServoReq := { darg := p.2, head := h, band := x.band, track := x.track, write := (s.dev.blk.get a).writing };
      s.dev.keepsSettled a r = true)))))) ∧
    (let s : State := wst [((Reg.SRV_STATUS_PES_VALID.on .a0), 1)] fun d => (d.onBlk .a0 fun b => { b with plank := { bind := some ({ band := 0, track := 5, table := 0, bitrate := 0, crate := 0, format := 0, slots := 1, skew := 0, entries := [] } : Binding), cur := none } }).onSrv .a0 fun v => { v with pos := some 7 };
      (let a : Act := Act.a0; s.dev.hasAct a = true ∧ (let p := (Instr.servoReqSeek, 0); (let h := 0;
      (let x := ({ band := 0, track := 5, table := 0, bitrate := 0, crate := 0, format := 0, slots := 1, skew := 0, entries := [] } : Binding);
      (let pos := (7 : Int); h < 16 ∧ (s.dev.blk.get a).plank.bind = some x ∧
      (let r : ServoReq := { darg := p.2, head := h, band := x.band, track := x.track, write := (s.dev.blk.get a).writing };
      (let d1 := s.dev.onSrv a fun v => { v with req := some r, late := 0, gaveUp := false, settled := false, waitReq := none };
      (let d2 := d1.aim a r; s.dev.keepsSettled a r = false ∧ (s.dev.srv.get a).traj = none ∧
      (s.dev.srv.get a).due = none ∧ s.dev.head a = h ∧ s.dev.f (Reg.SRV_STATUS_PES_VALID.on a) = 1 ∧
      (s.dev.srv.get a).pos = some pos ∧ (d2.srv.get a).pos = some pos))))))))) ∧
    (let s : State := wst [] fun d => d.onSrv .a0 fun v => { v with due := some true }; (let a : Act := Act.a0;
      s.dev.hasAct a = true ∧ ((s.dev.srv.get a).due).isSome = true ∧ (s.dev.srv.get a).stagger = none)) ∧
    (let s : State := wst [] fun d => d.onSrv .a1 fun v => { v with stagger := some 0 }; (let a : Act := Act.a0;
      s.dev.hasAct a = true ∧ (s.dev.srv.get .a1).stagger = some 0)) ∧
    (let s : State := wst [] fun d => d.onSrv .a0 fun v => { v with traj := some ({ k := 4, n := 4, ref0 := 0, goal := 9 } : Traj) };
      (let a : Act := Act.a0; s.dev.hasAct a = true ∧ (let t := ({ k := 4, n := 4, ref0 := 0, goal := 9 } : Traj);
      (s.dev.srv.get a).traj = some t ∧ t.n ≤ t.k ∧ (s.dev.srv.get a).waitReq = none))) ∧
    (let s : State := wst [((Reg.SRV_STATUS_MOTION.on .a0), 2)] fun d => d.onSrv .a0 fun v => { v with settleTicks := 72 };
      (let a : Act := Act.a0; s.dev.hasAct a = true ∧ s.dev.srvMotion a = 2 ∧ (s.dev.srv.get a).deciding = false ∧
      (s.dev.srv.get a).gaveUp = false ∧ s.dev.f (Reg.SRV_SETTLE_MAX.on a) ≤ (s.dev.srv.get a).settleTicks)) ∧
    (let s : State := wst [] fun d => d.onWr .a0 fun w => { w with requal := 3 }; (let a : Act := Act.a0;
      s.dev.hasAct a = true ∧ s.dev.f (Reg.WAS_WR_CFG_REQUAL.on a) ≤ (s.dev.wr.get a).requal)) :=
  ⟨by decide +kernel, by decide +kernel, by decide +kernel, by decide +kernel, by decide +kernel, by decide +kernel,
   by decide +kernel, by decide +kernel⟩

theorem witness_ServoWedgeAndCapture :
    (let s : State := wst [] fun d => d; (let a : Act := Act.a0; s.dev.hasAct a = true ∧
      (let o := ({ gray := 0, weak := 0, n := 1000, q := 0, runout := some 0, velocity := 0, sensorA := 0, sensorB := 0, miss := none, ffLost := false } : ServoField);
      (let d1 := s.dev.demod a o; d1.f (Reg.SRV_STATUS_PES_VALID.on a) = 0)))) ∧
    (let s : State := wst [((Reg.SRV_STATUS_MODE_NOW.on .a0), 1)] fun d => d.onSrv .a0 fun v => { v with marked := true, hunt := 0, transfer := some 0, pos := some 0, strong := false };
      (let a : Act := Act.a0; s.dev.hasAct a = true ∧
      (let o := ({ gray := 0, weak := 0, n := 1000, q := 40000, runout := some 0, velocity := 0, sensorA := 0, sensorB := 0, miss := none, ffLost := false } : ServoField);
      (let d1 := s.dev.demod a o; d1.f (Reg.SRV_STATUS_PES_VALID.on a) = 1 ∧ (d1.srv.get a).transfer.isSome = true)))) ∧
    (let s : State := wst [((Reg.SRV_INJ_CTL_EN.on .a0), 1), ((Reg.SRV_STATUS_MODE_NOW.on .a0), 1)] fun d => d;
      (let a : Act := Act.a0; s.dev.hasAct a = true ∧ s.dev.f (Reg.SRV_INJ_CTL_EN.on a) = 1 ∧
      (s.dev.srv.get a).inj = none ∧ s.dev.srvMode a ≠ 0 ∧ (s.dev.blk.get a).writing = false)) ∧
    (let s : State := wst [] fun d => d.onSrv .a0 fun v => { v with transfer := some 4, loading := none };
      (let a : Act := Act.a0; s.dev.hasAct a = true ∧ (let n := 4; (s.dev.srv.get a).transfer = some n ∧
      (s.dev.srv.get a).loading = none ∧ s.dev.f (Reg.SRV_DEMOD_CFG_PES_MISS_MAX.on a) ≤ n))) ∧
    (let s : State := wst [] fun d => d; (let a : Act := Act.a0; s.dev.hasAct a = true)) ∧
    (let s : State := wst [(Reg.SIZ_STATUS_SAFE, 1)] fun d => d.onSrv .a0 fun v => { v with cap := { v.cap with on := true } };
      (let a : Act := Act.a0; s.dev.hasAct a = true ∧ s.dev.safe = true ∧ (s.dev.srv.get a).cap.on = true)) ∧
    (let s : State := wst [] fun d => d.onSrv .a0 fun v => { v with cap := { v.cap with samples := [(1#32, 2#32, 3#32)] } };
      (let a : Act := Act.a0; s.dev.hasAct a = true ∧ (let p := ((1#32, 2#32, 3#32) : Word × Word × Word);
      (s.dev.srv.get a).cap.samples.reverse[s.dev.f (Reg.SRV_CAP_RD_INDEX.on a)]? = some p))) :=
  ⟨by decide +kernel, by decide +kernel, by decide +kernel, by decide +kernel, by decide +kernel, by decide +kernel,
   by decide +kernel⟩

theorem witness_HeadLoadAndUnload :
    (let s : State := wst [(Reg.SPN_STATUS_AT_SPEED, 1), (Reg.TICK_STATUS_SRC, 1), (Reg.PWR_SMON_STATUS_GOOD5, 1), (Reg.PWR_SMON_STATUS_GOOD12, 1)] fun d => d;
      (let a : Act := Act.a0; s.dev.hasAct a = true ∧ (let h := 0; h < 16 ∧ s.dev.mayLoad a = true))) ∧
    (let s : State := wst [] fun d => d; (let a : Act := Act.a0; s.dev.hasAct a = true ∧ (let h := 0; h < 16 ∧
      s.dev.mayLoad a = false))) ∧
    (let s : State := wst [((Reg.SRV_LOAD_STATUS_STATE.on .a0), 2)] fun d => d; (let a : Act := Act.a0;
      s.dev.hasAct a = true ∧ s.dev.loadState a ≠ 0 ∧ s.dev.loadState a ≠ 4)) ∧
    (let s : State := wst [] fun d => d; (let a : Act := Act.a0; s.dev.hasAct a = true ∧
      (s.dev.loadState a = 0 ∨ s.dev.loadState a = 4))) ∧
    (let s : State := wst [] fun d => d.onSrv .a0 fun v => { v with loading := some 10000 }; (let a : Act := Act.a0;
      s.dev.hasAct a = true ∧ (let n := 10000; (s.dev.srv.get a).loading = some n ∧
      s.dev.f (Reg.SRV_LOAD_TIME_LOAD_MAX.on a) ≤ n))) ∧
    (let s : State := wst [((Reg.SRV_LOAD_STATUS_STATE.on .a0), 3)] fun d => d.onSrv .a0 fun v => { v with slowTicks := 4 };
      (let a : Act := Act.a0; s.dev.hasAct a = true ∧ s.dev.loadState a = 3 ∧ (s.dev.srv.get a).latch = none ∧
      4 ≤ (s.dev.srv.get a).slowTicks)) ∧
    (let s : State := wst [] fun d => d.onSrv .a0 fun v => { v with latch := some 3600 }; (let a : Act := Act.a0;
      s.dev.hasAct a = true ∧ (let n := 3600; (s.dev.srv.get a).latch = some n ∧
      s.dev.f (Reg.SRV_LOAD_TIME_LATCH.on a) ≤ n ∧ (s.dev.srv.get a).loadTries = 0 ∧
      FUnit.servoEngine a ∉ s.dev.fmg.recovering))) ∧
    (let s : State := wst [((Reg.SRV_STATUS_MODE_NOW.on .a0), 2), ((Reg.SRV_STATUS_PES_MISS.on .a0), 4)] fun d => d;
      (let a : Act := Act.a0; s.dev.hasAct a = true ∧ s.dev.srvMode a = 2 ∧ (s.dev.srv.get a).reacq = none ∧
      s.dev.f (Reg.SRV_DEMOD_CFG_PES_MISS_MAX.on a) ≤ s.dev.f (Reg.SRV_STATUS_PES_MISS.on a))) ∧
    (let s : State := wst [] fun d => d.onSrv .a0 fun v => { v with reacq := some 72 }; (let a : Act := Act.a0;
      s.dev.hasAct a = true ∧ (let n := 72; (s.dev.srv.get a).reacq = some n ∧
      s.dev.f (Reg.SRV_SETTLE_MAX.on a) ≤ n))) :=
  ⟨by decide +kernel, by decide +kernel, by decide +kernel, by decide +kernel, by decide +kernel, by decide +kernel,
   by decide +kernel, by decide +kernel, by decide +kernel⟩

theorem witness_ShockAndRetract :
    (let s : State := wst [] fun d => d; (let a : Act := Act.a0; s.dev.hasAct a = true)) ∧
    (let s : State := wst [] fun d => (d.onWr .a0 fun w => { w with inhibits := 4 }).onSrv .a0 fun v => { v with shockQuiet := 16 };
      (let a : Act := Act.a0; s.dev.hasAct a = true ∧
      s.dev.f (Reg.SRV_SHOCK_CFG_HOLD.on a) ≤ (s.dev.srv.get a).shockQuiet ∧ s.dev.inhibited a 0x2 = true)) ∧
    (let s : State := wst [((Reg.SRV_LOAD_STATUS_STATE.on .a0), 2)] fun d => d.onSrv .a0 fun v => { v with shockRun := 8 };
      (let a : Act := Act.a0; s.dev.hasAct a = true ∧ s.dev.f (Reg.SRV_SHOCK_CFG_PARK.on a) = 1 ∧
      s.dev.f (Reg.SRV_SHOCK_CFG_PARK_TICKS.on a) ≤ (s.dev.srv.get a).shockRun ∧
      (s.dev.loadState a = 1 ∨ s.dev.loadState a = 2))) ∧
    (let s : State := wst [((Reg.SRV_LOAD_STATUS_STATE.on .a0), 2)] fun d => d; (let a : Act := Act.a0;
      s.dev.hasAct a = true ∧ s.dev.loadState a = 2 ∧ s.dev.pd.retract = none)) ∧
    (let s : State := wst [] fun d => d.onPd fun p => { p with retract := some 0 }; (let a : Act := Act.a0;
      s.dev.hasAct a = true ∧ s.dev.pd.retract.isSome = true)) ∧
    (let s : State := wst [] fun d => d.onPd fun p => { p with retract := some 0 }; (let a : Act := Act.a0;
      s.dev.hasAct a = true ∧ s.dev.pd.retract = some 0)) ∧
    (let s : State := wst [] fun d => d.onPd fun p => { p with retract := some 1 }; (let a : Act := Act.a0;
      s.dev.hasAct a = true ∧ s.dev.pd.retract = some 1)) :=
  ⟨by decide +kernel, by decide +kernel, by decide +kernel, by decide +kernel, by decide +kernel, by decide +kernel,
   by decide +kernel⟩

theorem witness_HeaterAndAssistLane :
    (let s : State := wst [] fun d => d; (let a : Act := Act.a0; s.dev.hasAct a = true ∧ (let st := (15 : Nat); st < 16))) ∧
    (let s : State := wst [(((Reg.WAS_AS_HEAD_TYPE.nth 0).on .a0), 2)] fun d => d; (let a : Act := Act.a0;
      s.dev.hasAct a = true ∧ s.dev.hasAssist a = true ∧ s.dev.asType a (s.dev.head a) ≠ 0)) ∧
    (let s : State := wst [(((Reg.WAS_AS_HEAD_TYPE.nth 0).on .a0), 2), ((Reg.WAS_AS_STATUS_STATE.on .a0), 2)] fun d => d;
      (let a : Act := Act.a0; s.dev.hasAct a = true ∧ s.dev.hasAssist a = true ∧ s.dev.asType a (s.dev.head a) ≠ 0 ∧
      (s.dev.tnl.get a).rampDue = false)) ∧
    (let s : State := wst [(((Reg.WAS_AS_HEAD_TYPE.nth 0).on .a0), 2)] fun d => d.onTnl .a0 fun t => { t with queue := [{ prio := 3, read := false, addr := Reg.PA_RAMP, data := 0, tries := 0 }] };
      (let a : Act := Act.a0; s.dev.hasAct a = true ∧ s.dev.hasAssist a = true ∧ (s.dev.tnl.get a).rampDue = true)) ∧
    (let s : State := wst [(((Reg.WAS_AS_HEAD_TYPE.nth 0).on .a0), 2), ((Reg.WAS_AS_STATUS_STATE.on .a0), 1)] fun d => d;
      (let a : Act := Act.a0; s.dev.hasAct a = true ∧ s.dev.hasAssist a = true ∧ s.dev.asType a (s.dev.head a) ≠ 0 ∧
      s.dev.asState a ≠ 0)) ∧
    (let s : State := wst [((Reg.WAS_AS_STATUS_STATE.on .a0), 1)] fun d => d; (let a : Act := Act.a0;
      s.dev.hasAct a = true ∧ s.dev.hasAssist a = true ∧ s.dev.asState a ≠ 0)) ∧
    (let s : State := wst [((Reg.WAS_AS_STATUS_STATE.on .a0), 1)] fun d => d.onAssist .a0 fun l => { l with idle := 30 };
      (let a : Act := Act.a0; s.dev.hasAct a = true ∧ s.dev.hasAssist a = true ∧ s.dev.asState a ≠ 0 ∧
      s.dev.asPrelead a (s.dev.asHead a) + s.dev.asPbHold a (s.dev.asHead a) ≤ (s.dev.assist.get a).idle)) ∧
    (let s : State := wst [] fun d => d.onWr .a0 fun w => { w with unwind := sset 0 w.unwind 0 2 };
      (let a : Act := Act.a0; s.dev.hasAct a = true ∧ (let h := 0; sget 0 (s.dev.wr.get a).unwind h = 2))) ∧
    (let s : State := wst [] fun d => d.onWr .a0 fun w => { w with unwind := sset 0 w.unwind 0 1 };
      (let a : Act := Act.a0; s.dev.hasAct a = true ∧ (let h := 0; sget 0 (s.dev.wr.get a).unwind h = 1))) :=
  ⟨by decide +kernel, by decide +kernel, by decide +kernel, by decide +kernel, by decide +kernel, by decide +kernel,
   by decide +kernel, by decide +kernel, by decide +kernel⟩

theorem witness_AssistLoopAndHeadHealth :
    (let s : State := wst [] fun d => d.onAssist .a0 fun l => { l with ilimRun := 8 }; (let a : Act := Act.a0;
      s.dev.hasAct a = true ∧ 8 ≤ (s.dev.assist.get a).ilimRun)) ∧
    (let s : State := wst [] fun d => d.onAssist .a0 fun l => { l with frameDue := true, operatedBefore := true, prevNft := 255, record := [(4, 0x00FF0000#32)] };
      (let a : Act := Act.a0; s.dev.hasAct a = true ∧ (let nft := (0 : Nat); nft < 256 ∧
      (s.dev.assist.get a).frameDue = true ∧ (s.dev.assist.get a).operatedBefore = true ∧
      (let l0 := s.dev.assist.get a; (let diff := if nft < l0.prevNft then l0.prevNft - nft else nft - l0.prevNft;
      diff ≤ bits (s.dev.asWord a 4) 23 16))))) ∧
    (let s : State := wst [] fun d => d.onAssist .a0 fun l => { l with frameDue := true, lostRun := 1 };
      (let a : Act := Act.a0; s.dev.hasAct a = true ∧ (s.dev.assist.get a).frameDue = true ∧
      (s.dev.assist.get a).lostRun < 2)) ∧
    (let s : State := wst [] fun d => d.onAssist .a0 fun l => { l with trimTicks := 32768 }; (let a : Act := Act.a0;
      s.dev.hasAct a = true ∧ (let n := 2 ^ s.dev.f (Reg.WAS_AGE_CFG_AGE_LOG2.on a);
      (let mean := Int.tdiv (s.dev.assist.get a).trimSum (n : Nat); s.dev.hasAssist a = true ∧
      n ≤ (s.dev.assist.get a).trimTicks ∧ mean.natAbs < s.dev.f (Reg.WAS_AGE_CFG_AGE_THR.on a))))) ∧
    (let s : State := wst [(((Reg.WAS_AS_HEAD_ILIM.nth 0).on .a0), 1023), (((Reg.WAS_AS_HEAD_TYPE.nth 0).on .a0), 2)] fun d => (d.onAssist .a0 fun l => { l with trimTicks := 32768, trimSum := 131072 }).setTword (Tbl.assist .a0) 0 0x01000000#32;
      (let a : Act := Act.a0; s.dev.hasAct a = true ∧ (let h := (0 : Nat);
      (let n := 2 ^ s.dev.f (Reg.WAS_AGE_CFG_AGE_LOG2.on a);
      (let mean := Int.tdiv (s.dev.assist.get a).trimSum (n : Nat); s.dev.hasAssist a = true ∧
      n ≤ (s.dev.assist.get a).trimTicks ∧ s.dev.f (Reg.WAS_AGE_CFG_AGE_THR.on a) ≤ mean.natAbs ∧
      ((s.dev.assistRecs a h).all fun p => s.dev.assistRecOk a h (agedWord (s.dev.asTable a h p.1 p.2 1) mean) (s.dev.asTable a h p.1 p.2 2) (s.dev.asTable a h p.1 p.2 3) (s.dev.asTable a h p.1 p.2 4)) = true))))) ∧
    (let s : State := wst [] fun d => d; (let a : Act := Act.a0; s.dev.hasAct a = true ∧ (let h := (11 : Nat);
      h < s.dev.conf.nh))) :=
  ⟨by decide +kernel, by decide +kernel, by decide +kernel, by decide +kernel, by decide +kernel, by decide +kernel⟩

theorem witness_TenilLink :
    (let s : State := wst [] fun d => d; (let a : Act := Act.a0; s.dev.hasAct a = true ∧ (let causes := (0x1FB : Nat);
      causes < 2048 ∧ causes &&& 0x5FB ≠ 0 ∧ testBit causes 10 = false))) ∧
    (let s : State := wst [] fun d => d.onTnl .a0 fun t => { t with lineLow := true }; (let a : Act := Act.a0;
      s.dev.hasAct a = true ∧ (s.dev.tnl.get a).lineLow = true ∧ s.dev.paCauses a = 0)) ∧
    (let s : State := wst [((Reg.TNL_STATUS_CTL_UP.on .a0), 1)] fun d => d.onTnl .a0 fun t => { t with queue := [({ prio := 4, read := true, addr := 0, data := 0, tries := 0 } : CtlReq)] };
      (let a : Act := Act.a0; s.dev.hasAct a = true ∧
      (let r := ({ prio := 4, read := true, addr := 0, data := 0, tries := 0 } : CtlReq);
      (s.dev.tnl.get a).flight = none ∧ s.dev.ctlFits a = true ∧ s.dev.f (Reg.TNL_STATUS_CTL_UP.on a) = 1 ∧
      bestCtl (s.dev.ctlReady a) (s.dev.tnl.get a).queue = some r))) ∧
    (let s : State := wst [] fun d => d.onTnl .a0 fun t => { t with flight := some ({ prio := 4, read := true, addr := 0, data := 0, tries := 0 } : CtlReq) };
      (let a : Act := Act.a0; s.dev.hasAct a = true ∧
      (let r := ({ prio := 4, read := true, addr := 0, data := 0, tries := 0 } : CtlReq);
      (s.dev.tnl.get a).flight = some r ∧ r.prio = 4 ∧ r.read = true ∧ r.addr ≤ 4 ∧ s.dev.paCauses a = 0))) ∧
    (let s : State := wst [] fun d => d.onTnl .a0 fun t => { t with flight := some ({ prio := 4, read := true, addr := 0, data := 0, tries := 0 } : CtlReq) };
      (let a : Act := Act.a0; s.dev.hasAct a = true ∧
      (let r := ({ prio := 4, read := true, addr := 0, data := 0, tries := 0 } : CtlReq);
      (s.dev.tnl.get a).flight = some r ∧ r.tries < s.dev.f (Reg.TNL_CTL_CFG_RETRY.on a)))) ∧
    (let s : State := wst [] fun d => d.onTnl .a0 fun t => { t with flight := some ({ prio := 4, read := true, addr := 0, data := 0, tries := 0 } : CtlReq) };
      (let a : Act := Act.a0; s.dev.hasAct a = true)) ∧
    (let s : State := wst [(Reg.SIZ_STATUS_SAFE, 1)] fun d => d; (let a : Act := Act.a0; s.dev.hasAct a = true ∧
      s.dev.safe = true ∧ s.dev.f (Reg.TNL_STATUS_FAILED.on a) = 0)) :=
  ⟨by decide +kernel, by decide +kernel, by decide +kernel, by decide +kernel, by decide +kernel, by decide +kernel,
   by decide +kernel⟩

theorem witness_DetectionAndLadder :
    (let s : State := wst [] fun d => d.onDet .a0 fun t => { t with ready := [lrec 0 0 0] }; (let a : Act := Act.a0;
      (let r := lrec 0 0 0; ((s.dev.det.get a).ready.find? fun r => decide (r.rung = 0)) = some r ∧
      (s.dev.det.get a).slices + (if r.conv then 1 else 4) ≤ 4 ∧ r.rung = 0))) ∧
    (let s : State := wst [] fun d => ({ (disk d) with media := { (disk d).media with recs := [(posKey 0 0, some mrec)] } }).onDet .a0 fun t => { t with decodes := [lrec 0 0 0] };
      (let a : Act := Act.a0; (let tag := (3 : Nat); (let slot := (0 : Nat); (let r := lrec 0 0 0; (let m := mrec;
      ((s.dev.det.get a).decodes.find? fun r => decide (r.tag = tag ∧ r.slot = slot)) = some r ∧ r.rung = 0 ∧
      s.dev.mediaAt r.band r.pos = some m)))))) ∧
    (let s : State := wst [] fun d => d.onDet .a0 fun t => { t with active := some (lrec 0 0 7) }; (let a : Act := Act.a0;
      (let r := lrec 0 0 7; (s.dev.det.get a).active = some r ∧
      (let d1 := (s.dev.leaveRung a r).onDet a fun t => t.dropAttempts r;
      d1.nextRung r.plan r.rung r.noback = none)))) ∧
    (let s : State := wst [] fun d => d.onDet .a0 fun t => { t with active := some (lrec 0 0 0) }; (let a : Act := Act.a0;
      (let r := lrec 0 0 0; (let k := (1 : Nat); (s.dev.det.get a).active = some r ∧
      (let d1 := (s.dev.leaveRung a r).onDet a fun t => t.dropAttempts r;
      d1.nextRung r.plan r.rung r.noback = some k))))) ∧
    (let s : State := wst [] fun d => ((disk d).setStride 0 0 ({ live := true, mask := 3, ploc := 0, qloc := 0, opened := false, slot := 0, folded := [], cover := [], half := 0, dirty := false } : Stride)).onDet .a0 fun t => { t with recon := [lrec 0 0 7] };
      (let a : Act := Act.a0; (let tag := (3 : Nat);
      (let o := ({ missing := [], pBad := false, qBad := false, parityPoison := false, poison := 0, columns := [] } : SourceReads);
      (let r := lrec 0 0 7; (let z := (0 : Nat); (let b := (0 : Nat);
      (let plan := ({ group := 0, member := 0, stride := 0, rec0 := 0, others := [1] } : ReconPlan);
      ((s.dev.det.get a).recon.find? fun r => decide (r.tag = tag)) = some r ∧
      (let d0 := s.dev.onDet a fun t => { t with recon := t.recon.erase r }; d0.zoneOfBand r.band = some z ∧
      boltAt (slipsInForce (d0.slipsOf r.band)) r.pos = some b ∧ d0.locate z b = some plan ∧
      d0.reconCause (some plan) o = none))))))))) ∧
    (let s : State := wst [] fun d => (disk d).onDet .a0 fun t => { t with recon := [lrec 0 0 7] };
      (let a : Act := Act.a0; (let tag := (3 : Nat); (let r := lrec 0 0 7; (let z := (0 : Nat);
      ((s.dev.det.get a).recon.find? fun r => decide (r.tag = tag)) = some r ∧
      (let d0 := s.dev.onDet a fun t => { t with recon := t.recon.erase r }; d0.zoneOfBand r.band = some z)))))) :=
  ⟨by decide +kernel, by decide +kernel, by decide +kernel, by decide +kernel, by decide +kernel, by decide +kernel⟩

theorem witness_ChannelFrontEnd :
    (let s : State := wst [] fun d => d.onChn .a0 fun c => { c with key := some (0, 0) }; (let a : Act := Act.a0;
      s.dev.hasAct a = true ∧ (s.dev.chn.get a).key.isSome = true ∧ (s.dev.chn.get a).synthOff = false)) ∧
    (let s : State := wst [((Reg.CHN_ADAPT_STATUS_ACCUM.on .a0), 256)] fun d => d.onChn .a0 fun c => { c with key := some (0, 0) };
      (let a : Act := Act.a0; s.dev.hasAct a = true ∧ (let k := ((0, 0) : Nat × Nat); (s.dev.chn.get a).key = some k ∧
      2 ^ s.dev.f (Reg.CHN_ADAPT_CTL_AVG_LOG2.on a) ≤ s.dev.f (Reg.CHN_ADAPT_STATUS_ACCUM.on a)))) ∧
    (let s : State := wst [] fun d => d.onChn .a0 fun c => { c with averages := [({ head := 0, rzone := 0, rgen := 0, words := [], drift := 0 } : Average)] };
      (let a : Act := Act.a0; s.dev.hasAct a = true ∧
      (let v := ({ head := 0, rzone := 0, rgen := 0, words := [], drift := 0 } : Average);
      (let vs := ([] : List Average); (s.dev.chn.get a).averages = v :: vs ∧ v.drift = 0)))) ∧
    (let s : State := wst [(Reg.CHN_WB_CFG_WORDS, 0)] fun d => d.onChn .a0 fun c => { c with averages := [({ head := 0, rzone := 0, rgen := 0, words := (List.range 8).map fun i => (22 + i, 0#32), drift := 15 } : Average)] };
      (let a : Act := Act.a0; s.dev.hasAct a = true ∧
      (let v := ({ head := 0, rzone := 0, rgen := 0, words := (List.range 8).map fun i => (22 + i, 0#32), drift := 15 } : Average);
      (let vs := ([] : List Average); (s.dev.chn.get a).averages = v :: vs ∧ v.drift ≠ 0 ∧
      s.dev.f Reg.CHN_WB_CFG_WORDS < v.entries.length)))) ∧
    (let s : State := wst [] fun d => { (d.onChn .a0 fun c => { c with averages := [({ head := 0, rzone := 0, rgen := 0, words := [(22, 0#32)], drift := 15 } : Average)] }) with conf := { d.conf with readers := [(0, 7)] } };
      (let a : Act := Act.a0; s.dev.hasAct a = true ∧
      (let v := ({ head := 0, rzone := 0, rgen := 0, words := [(22, 0#32)], drift := 15 } : Average);
      (let vs := ([] : List Average); (s.dev.chn.get a).averages = v :: vs ∧ v.drift ≠ 0 ∧
      v.entries.length ≤ s.dev.f Reg.CHN_WB_CFG_WORDS ∧ v.entries.length ≠ 0 ∧
      sget 0 s.dev.conf.readers (12 * a.idx + v.head) ≠ 0 ∧ (∀ p ∈ v.entries,
      s.dev.legalRz a v.head p.1 p.2.2 &&& p.2.1 = p.2.2 &&& p.2.1))))) ∧
    (let s : State := wst [] fun d => d.onChn .a0 fun c => { c with badRun := [(35, 16)] }; (let a : Act := Act.a0;
      s.dev.hasAct a = true ∧ (let h := (11 : Nat); (let e := (2 : Nat); h < 12 ∧ e < 3 ∧ s.dev.laneBad a h e = true ∧
      s.dev.metElsewhere a h e = false)))) ∧
    (let s : State := wst [] fun d => d.onChn .a0 fun c => { c with badRun := [(2, 16), (5, 16)] };
      (let a : Act := Act.a0; s.dev.hasAct a = true ∧ (let h := (0 : Nat); (let e := (2 : Nat); h < 12 ∧ e < 3 ∧
      s.dev.laneBad a h e = true ∧ s.dev.metElsewhere a h e = true ∧
      testBit (s.dev.f (Reg.AFE_LANE_STATUS_FAIL.on a)) e = false)))) ∧
    (let s : State := wst [] fun d => d; (let a : Act := Act.a0; s.dev.hasAct a = true ∧ (let e := (2 : Nat);
      (e = 0 ∨ e = 2)))) ∧
    (let s : State := wst [] fun d => d; (let a : Act := Act.a0; s.dev.hasAct a = true)) ∧
    (let s : State := wst [] fun d => d; (let a : Act := Act.a0; s.dev.hasAct a = true ∧ (let h := (11 : Nat); h < 12))) :=
  ⟨by decide +kernel, by decide +kernel, by decide +kernel, by decide +kernel, by decide +kernel, by decide +kernel,
   by decide +kernel, by decide +kernel, by decide +kernel, by decide +kernel⟩

theorem witness_Fragments :
    (let s : State := wst [] fun d => d.onBlk .a0 fun b => { b with frag := some ({ write := false, entry := { dataEntry with last := false }, darg := 0, band := 0, pos := 0, sampled := true } : FragRun) };
      (let a : Act := Act.a0; s.dev.hasAct a = true ∧
      (let r := ({ write := false, entry := { dataEntry with last := false }, darg := 0, band := 0, pos := 0, sampled := true } : FragRun);
      (s.dev.blk.get a).frag = some r ∧ r.write = false ∧ r.entry.last = false))) ∧
    (let s : State := wst [] fun d => d.onBlk .a0 fun b => { b with frag := some ({ write := false, entry := { dataEntry with last := true }, darg := 0, band := 0, pos := 0, sampled := true } : FragRun) };
      (let a : Act := Act.a0; s.dev.hasAct a = true ∧
      (let o := ({ primary := some 0, secondary := none, bad := 0, live := [], saturated := [] } : FragObs);
      (let r := ({ write := false, entry := { dataEntry with last := true }, darg := 0, band := 0, pos := 0, sampled := true } : FragRun);
      (s.dev.blk.get a).frag = some r ∧ r.write = false ∧ r.entry.last = true ∧ testBit r.darg 1 = false ∧
      (let d1 := (s.dev.onBlk a fun b => { b with frag := none, rg := false, cut := b.cut || !r.sampled }).placeFrag a r o;
      (let d2 := (if r.sampled then (d1.countLanes a o.bad).countSaturated a o.saturated else d1).onBlk a fun b => { b with recOpen := none };
      d2.attempted a r.band r.pos = none)))))) ∧
    (let s : State := wst [] fun d => d.onBlk .a0 fun b => { b with frag := some ({ write := true, entry := { dataEntry with last := true }, darg := 0, band := 0, pos := 0, sampled := true } : FragRun) };
      (let a : Act := Act.a0; s.dev.hasAct a = true ∧
      (let r := ({ write := true, entry := { dataEntry with last := true }, darg := 0, band := 0, pos := 0, sampled := true } : FragRun);
      (s.dev.blk.get a).frag = some r ∧ r.write = true))) ∧
    (let s : State := wst [] fun d => ((disk d).onBlk .a0 fun b => { b with plank := { bind := some (bound [dataEntry]), cur := some (0, 0) } }).onWr .a0 fun w => { w with inhibits := 2 };
      (let a : Act := Act.a0; s.dev.hasAct a = true ∧ (let e := dataEntry; (let p := ((0, 20) : Nat × Nat);
      (let c := inhCause (s.dev.wr.get a).inhibits; (let d1 := s.dev.writeFault a c; (s.dev.blk.get a).frag = none ∧
      (s.dev.wr.get a).inhibits ≠ 0 ∧ c ≠ 0xA ∧ (d1.blk.get a).entry = some e ∧ (d1.blk.get a).place = some p ∧
      (d1.blk.get a).wg = false ∧ (d1.blk.get a).frag = none)))))) :=
  ⟨by decide +kernel, by decide +kernel, by decide +kernel, by decide +kernel⟩

theorem witness_BlockerRequests :
    (let s : State := wst [] fun d => d.onBlk .a0 fun b => { b with queue := [breq] }; (let a : Act := Act.a0;
      (let r := breq; s.dev.nextRequest a = some r))) ∧
    (let s : State := wst [] fun d => { (d.onBlk .a0 fun b => { b with g := [(13, 0#32)] }) with felt := { d.felt with pairs := [(0, true)] } };
      (let a : Act := Act.a0; bits ((s.dev.blk.get a).gr 13) 27 24 ≠ 0xF ∧ s.dev.feltReady a = true ∧
      s.dev.feltOn = true)) ∧
    (let r := (15 : Nat); r < 16) ∧
    (let s : State := wst [] fun d => d; (let a : Act := Act.a0; (s.dev.blk.get a).cur = none)) ∧
    (let s : State := wst [] fun d => d.onBlk .a0 fun b => { b with cur := some breq }; (let a : Act := Act.a0;
      (let r := (15 : Nat); (let cur := breq; r < 16 ∧ (s.dev.blk.get a).cur = some cur)))) ∧
    (let s : State := wst [] fun d => d; (let a : Act := Act.a0; s.dev.hasAct a = true)) :=
  ⟨by decide +kernel, by decide +kernel, by decide +kernel, by decide +kernel, by decide +kernel, by decide +kernel⟩

theorem witness_PlankOperations :
    (let s : State := wst [] fun d => disk d; (let a : Act := Act.a0; s.dev.hasAct a = true ∧ (let b := s.dev.blk.get a;
      (let r := ((disk (Dev.fresh .D)).band 0).getD ⟨0, 0, false, 0, 0, 0, 0, 0, 0, 0, 0, 0⟩;
      s.dev.band (b.gr 9).toNat = some r ∧ (let t := s.dev.plankTable a (plankAddr (s.dev.headOf r.surface) r.rzone);
      t.version = 1 ∧ s.dev.actOf r.surface = a))))) ∧
    (let s : State := wst [] fun d => d; (let a : Act := Act.a0; s.dev.hasAct a = true ∧ (let b := s.dev.blk.get a;
      s.dev.band (b.gr 9).toNat = none))) ∧
    (let s : State := wst [] fun d => d.onBlk .a0 fun b => { b with plank := { bind := some (bound [dataEntry]), cur := none } };
      (let a : Act := Act.a0; s.dev.hasAct a = true ∧ (let b := s.dev.blk.get a; (let r := (15 : Nat);
      (let x := bound [dataEntry]; (let i := (0 : Nat); (let e := dataEntry; r < 16 ∧ b.plank.bind = some x ∧
      firstOf x.entries ((b.gr r).toNat % 1024) = some i ∧ x.entries[i]? = some e))))))) ∧
    (let s : State := wst [] fun d => d.onBlk .a0 fun b => { b with plank := { bind := some (bound [dataEntry, dataEntry]), cur := some (0, 0) } };
      (let a : Act := Act.a0; s.dev.hasAct a = true ∧ (let b := s.dev.blk.get a;
      (let x := bound [dataEntry, dataEntry]; (let c := ((0, 0) : Nat × Nat); (let e := dataEntry;
      b.plank.bind = some x ∧ b.plank.cur = some c ∧ x.entries[c.1 + 1]? = some e ∧ e.kind = 1)))))) ∧
    (let s : State := wst [] fun d => d.onBlk .a0 fun b => { b with plank := { bind := some (bound [dataEntry, { dataEntry with kind := 3 }]), cur := some (0, 0) } };
      (let a : Act := Act.a0; s.dev.hasAct a = true ∧ (let b := s.dev.blk.get a;
      (let x := bound [dataEntry, { dataEntry with kind := 3 }]; (let c := ((0, 0) : Nat × Nat);
      (let e := ({ dataEntry with kind := 3 } : PlankEntry); b.plank.bind = some x ∧ b.plank.cur = some c ∧
      x.entries[c.1 + 1]? = some e ∧ (let e0 := dataEntry; e.kind = 3 ∧ x.entries[0]? = some e0 ∧ e0.kind = 1))))))) :=
  ⟨by decide +kernel, by decide +kernel, by decide +kernel, by decide +kernel, by decide +kernel⟩

theorem witness_MicrocodeWords :
    (let s : State := wst [] fun d => d.onBlk .a0 fun b => { b with loaded := true, resetting := false, wait := .run };
      (let a : Act := Act.a0; s.dev.hasAct a = true ∧ (let b := s.dev.blk.get a; (let p := (0#128);
      s.dev.blkRuns a = true ∧ b.halted = false ∧ readWord (storeWord b.store b.pc.toNat) = .ok (p, 0) ∧
      (let m := Micro.ofPayload p; m.safe = false ∧ m.plk = 0 ∧ m.smode = 0 ∧ m.dop ≠ 0xC ∧ m.dop ≠ 0xD ∧
      m.gop ≠ 13))))) ∧
    (let s : State := wst [] fun d => d.onBlk .a0 fun b => { b with wait := .cond, loaded := true, store := [(0, sealWord (BitVec.ofNat 128 (2 ^ 94)))] };
      (let a : Act := Act.a0; s.dev.hasAct a = true ∧ (let b := s.dev.blk.get a;
      (let m := Micro.ofPayload (BitVec.ofNat 128 (2 ^ 94)); s.dev.waitingWord a = some m ∧ b.wait = .cond ∧
      s.dev.condition a m.cond ≠ m.cinv)))) ∧
    (let s : State := wst [] fun d => d.onBlk .a0 fun b => { b with depth := 1 }; (let a : Act := Act.a0;
      s.dev.hasAct a = true ∧ (let b := s.dev.blk.get a; 0 < b.depth))) ∧
    (let s : State := wst [] fun d => d; (let a : Act := Act.a0; s.dev.hasAct a = true ∧ (let b := s.dev.blk.get a;
      b.depth = 0))) ∧
    (let s : State := wst [] fun d => d.onBlk .a0 fun b => { b with loadPending := true, loaded := false };
      (let a : Act := Act.a0; s.dev.hasAct a = true ∧ (let b := s.dev.blk.get a; b.loadPending = true ∧
      (b.loaded = false ∨ b.wait = .cond ∧ b.pc.toNat = s.dev.f (Reg.BLK_VEC_ENTRY.on a))))) :=
  ⟨by decide +kernel, by decide +kernel, by decide +kernel, by decide +kernel, by decide +kernel⟩

theorem witness_ControlWindowAndCommit :
    (let s : State := wst [] fun d => d; (let a : Act := Act.a0; s.dev.hasAct a = true)) ∧
    (let s : State := wst [] fun d => d.onBlk .a0 fun b => { b with halted := true }; (let a : Act := Act.a0;
      s.dev.hasAct a = true ∧ (s.dev.blk.get a).halted = true)) ∧
    (let s : State := wst [] fun d => d.onBlk .a0 fun b => { b with halted := true, loaded := true, resetting := false, wait := .run };
      (let a : Act := Act.a0; s.dev.hasAct a = true ∧ (s.dev.blk.get a).halted = true ∧ s.dev.blkRuns a = true)) ∧
    (let s : State := wst [] fun d => d; (let a : Act := Act.a0; s.dev.hasAct a = true ∧ s.dev.safe = false)) ∧
    (let s : State := wst [] fun d => d; (let a : Act := Act.a0; s.dev.hasAct a = true ∧
      s.dev.f (Reg.CST_ADDR_AUTOINC.at 0x20000 a) = 0)) ∧
    (let s : State := wst [] fun d => { d with conf := { d.conf with pending := some { set := StagedSet.empty, skip := false, holds := false } } };
      s.dev.busy = true) ∧
    (let s : State := wst [] fun d => d; (let who := Requester.debug; s.dev.busy = false ∧
      s.dev.mayCommit (requesterHolder who) = false)) ∧
    (let s : State := wst [(Reg.CPX_SEM_HOLDER, 5)] fun d => d; (let who := Requester.path .uart; s.dev.busy = false ∧
      s.dev.mayCommit (requesterHolder who) = true ∧ s.dev.semHolder = requesterHolder who)) ∧
    (let s : State := wst [] fun d => d; (let who := Requester.path .uart; s.dev.busy = false ∧
      s.dev.mayCommit (requesterHolder who) = true ∧ s.dev.semHolder ≠ requesterHolder who)) :=
  ⟨by decide +kernel, by decide +kernel, by decide +kernel, by decide +kernel, by decide +kernel, by decide +kernel,
   by decide +kernel, by decide +kernel, by decide +kernel⟩

theorem witness_RotationClock :
    (let d := (wst [(Reg.TICK_STATUS_SRC, 2)] fun d => { d with clock := { d.clock with wedge := 598 } }).dev; d.src ≠ 0 ∧
      d.clock.wedge.toNat + 1 < d.wedges ∧ d.wedges ≤ 1023) ∧
    (let d := (wst [] fun d => d).dev; d.src = 0) ∧
    (let s : State := wst [] fun d => d.onSrv .a0 fun v => { v with hunt := 1 }; (let a : Act := Act.a0;
      s.dev.hasAct a = true ∧ (s.dev.srv.get a).hunt = 1)) ∧
    (let s : State := wst [(Reg.TICK_STATUS_SRC, 2)] fun d => d.onSrv .a0 fun v => { v with hunt := 0 };
      (let a : Act := Act.a0; (let field := (0 : Nat); (let i := (0 : Nat); s.dev.hasAct a = true ∧
      (s.dev.srv.get a).hunt = 0 ∧ (s.dev.src = 2 ∨ s.dev.src = 3) ∧ goodIndex field = some i ∧
      s.dev.disciplines a = false)))) ∧
    (let s : State := wst [] fun d => d; (let a : Act := Act.a0; s.dev.hasAct a = true)) ∧
    (let s : State := wst [(Reg.TICK_STATUS_SRC, 3), (Reg.TICK_STATUS_MISSED, 8)] fun d => d; s.dev.src = 3 ∧
      s.dev.f Reg.TICK_STATUS_MISSED = 8) ∧
    (let s : State := wst [] fun d => { d with clock := { d.clock with stamps := [({ owner := .spindle, rev := none, pos := 0, due := 0 } : Stamp)] } };
      (let t := ({ owner := .spindle, rev := none, pos := 0, due := 0 } : Stamp);
      s.dev.clock.stamps.find? (fun x => decide (x.owner = t.owner)) = some t ∧ t.due ≤ s.dev.nowUnits)) :=
  ⟨by decide +kernel, by decide +kernel, by decide +kernel, by decide +kernel, by decide +kernel, by decide +kernel,
   by decide +kernel⟩

theorem witness_ZonedWrites :
    (let s : State := wst [] fun d => online d; (let id : CmdId := cid; (let lba : Nat := 0; (let data : List Nat := [9];
      (let marked : Bool := false; (s.dev.admits id = true ∧ s.dev.ioGate = none ∧ s.dev.isOrdered id = false) ∧
      (let z := lba / s.dev.media.zoneBlocks; (let off := lba % s.dev.media.zoneBlocks;
      (let i := (Instr.write cid 1 0 [9] 0 false .ok); (i = Instr.write id 1 lba data 0 marked .ok ∧
      data.length ≤ 512) ∧ s.dev.rangeFault 1 lba data.length false = none ∧
      (let d := withCmd s (hostCmd id .zonedWrite 1 lba data.length data false false);
      d.zoneOutcome z off data.length = .inOrder ∧ (d.makeRoom z).1 = .success))))))))) ∧
    (let s : State := wst [] fun d => online d; (let id : CmdId := cid; (let lba : Nat := 1; (let data : List Nat := [9];
      (let marked : Bool := false; (s.dev.admits id = true ∧ s.dev.ioGate = none ∧ s.dev.isOrdered id = false) ∧
      (let z := lba / s.dev.media.zoneBlocks; (let off := lba % s.dev.media.zoneBlocks;
      (let i := (Instr.write cid 1 1 [9] 0 false .ok); (i = Instr.write id 1 lba data 0 marked .ok ∧
      data.length ≤ 512) ∧ s.dev.rangeFault 1 lba data.length false = none ∧
      (let d := withCmd s (hostCmd id .zonedWrite 1 lba data.length data false false);
      d.zoneOutcome z off data.length = .hold ∧ (d.makeRoom z).1 = .success))))))))) ∧
    (let s : State := wst [(Reg.ZQE_LIMITS_MAX_ACTIVE, 0)] fun d => online d; (let id : CmdId := cid; (let lba : Nat := 0;
      (let data : List Nat := [9]; (let marked : Bool := false; (s.dev.admits id = true ∧ s.dev.ioGate = none ∧
      s.dev.isOrdered id = false) ∧ (let z := lba / s.dev.media.zoneBlocks; (let off := lba % s.dev.media.zoneBlocks;
      (let i := (Instr.write cid 1 0 [9] 0 false .ok); (i = Instr.write id 1 lba data 0 marked .ok ∧
      data.length ≤ 512) ∧ s.dev.rangeFault 1 lba data.length false = none ∧
      (let d := withCmd s (hostCmd id .zonedWrite 1 lba data.length data false false); (let e := Nvme.tooManyActive;
      (d.zoneOutcome z off data.length = .inOrder ∨ d.zoneOutcome z off data.length = .hold) ∧ (d.makeRoom z).1 = e ∧
      e ≠ .success)))))))))) ∧
    (let s : State := wst [] fun d => inZone (fun z => { z with state := 0xE }) (d); (let id : CmdId := cid;
      (let lba : Nat := 0; (let data : List Nat := [9]; (let marked : Bool := false; (s.dev.admits id = true ∧
      s.dev.ioGate = none ∧ s.dev.isOrdered id = false) ∧ (let z := lba / s.dev.media.zoneBlocks;
      (let off := lba % s.dev.media.zoneBlocks; (let i := (Instr.write cid 1 0 [9] 0 false .ok);
      (i = Instr.write id 1 lba data 0 marked .ok ∧ data.length ≤ 512) ∧
      s.dev.rangeFault 1 lba data.length false = none ∧
      (let d := withCmd s (hostCmd id .zonedWrite 1 lba data.length data false false); (let o := ZOutcome.full;
      d.zoneOutcome z off data.length = o ∧ o ≠ .inOrder ∧ o ≠ .hold)))))))))) ∧
    (let s : State := wst [] fun d => online d; (let id : CmdId := cid; (let lba : Nat := 0; (let data : List Nat := [9];
      (s.dev.admits id = true ∧ s.dev.ioGate = none ∧ s.dev.isOrdered id = false) ∧
      (let z := lba / s.dev.media.zoneBlocks; (let off := lba % s.dev.media.zoneBlocks;
      s.dev.rangeFault 1 lba 1 false = none ∧ data.length ≤ 512 ∧ off = 0 ∧
      (let d := withCmd s (hostCmd id .append 1 lba data.length data false false); (d.zone z).state ≠ 0xD ∧
      (d.zone z).state ≠ 0xE ∧ (d.zone z).state ≠ 0xF ∧ (∀ v ∈ (d.zone z).held, d.appendOff z + data.length ≤ v.off) ∧
      d.appendOff z + data.length ≤ d.zoneCap ∧ (d.makeRoom z).1 = .success))))))) ∧
    (let s : State := wst [] fun d => inZone (fun z => { z with state := 0xE }) (d); (let id : CmdId := cid;
      (let lba : Nat := 0; (let data : List Nat := [9]; (s.dev.admits id = true ∧ s.dev.ioGate = none ∧
      s.dev.isOrdered id = false) ∧ (let z := lba / s.dev.media.zoneBlocks; (let off := lba % s.dev.media.zoneBlocks;
      s.dev.rangeFault 1 lba 1 false = none ∧ data.length ≤ 512 ∧ off = 0 ∧
      (let d := withCmd s (hostCmd id .append 1 lba data.length data false false); (d.zone z).state = 0xE))))))) :=
  ⟨by decide +kernel, by decide +kernel, by decide +kernel, by decide +kernel, by decide +kernel, by decide +kernel⟩

theorem witness_ZoneAcceptance :
    (let s : State := wst [(Reg.PWR_VAULT_STATUS_ARMED, 1), (Reg.BUF_DIRTY_MAX, 8), (Reg.ZQE_RESCUE_FREE, 1024)] fun d => inZone (fun z => { z with waiting := [zwrite 0] }) (d);
      (let z : Nat := 0; (let id : CmdId := cid; (let w := zwrite 0;
      ((s.dev.zone z).waiting.find? fun w => decide (w.id = id)) = some w ∧ s.dev.acceptFault z w = none ∧
      s.dev.armed = true ∧ w.len ≤ s.dev.cacheRoom ∧ s.dev.zq.ring.length < 262144 ∧ s.dev.feltRoom z = true ∧
      (s.dev.makeRoom z).1 = .success)))) ∧
    (let s : State := wst [] fun d => inZone (fun z => { z with waiting := [zwrite 0], state := 0xE }) (d);
      (let z : Nat := 0; (let id : CmdId := cid; (let w := zwrite 0; (let e := Nvme.zoneFull;
      ((s.dev.zone z).waiting.find? fun w => decide (w.id = id)) = some w ∧ s.dev.acceptFault z w = some e))))) ∧
    (let id : CmdId := cid; (let w := zwrite 5; w.id = id)) ∧
    (let s : State := wst [(Reg.ZQE_JRNL_FILL_CKPT, 1)] fun d => d; s.dev.f Reg.ZQE_JRNL_FILL_CKPT = 1 ∧
      s.dev.media.sysRebuild = none) :=
  ⟨by decide +kernel, by decide +kernel, by decide +kernel, by decide +kernel⟩

theorem witness_ReadsAndConventionalWrites :
    (let s : State := wst [] fun d => online d; (let id : CmdId := cid; (s.dev.admits id = true ∧ s.dev.ioGate = none ∧
      s.dev.isOrdered id = false))) ∧
    (let s : State := wst [] fun d => online d; (let id : CmdId := cid; (let lba : Nat := 0; (s.dev.admits id = true ∧
      s.dev.ioGate = none ∧ s.dev.isOrdered id = false) ∧ s.dev.rangeFault 1 lba 1 true = none ∧
      (let zn := s.dev.zone (lba / s.dev.media.zoneBlocks); zn.state ≠ 0xF ∧ zn.wp ≤ lba % s.dev.media.zoneBlocks ∧
      zn.finish = none ∧ s.dev.host.cmds = [])))) ∧
    (let s : State := wst [] fun d => inZone (fun z => { z with state := 0xF }) (d); (let id : CmdId := cid;
      (let lba : Nat := 0; (s.dev.admits id = true ∧ s.dev.ioGate = none ∧ s.dev.isOrdered id = false) ∧
      s.dev.rangeFault 1 lba 1 true = none ∧ (s.dev.zone (lba / s.dev.media.zoneBlocks)).state = 0xF))) ∧
    (let s : State := wst [(Reg.PWR_VAULT_STATUS_ARMED, 1), (Reg.BUF_DIRTY_MAX, 8)] fun d => { (online d) with host := { (online d).host with convBlocks := 4096 } };
      (let id : CmdId := cid; (let lba : Nat := 0; (s.dev.admits id = true ∧ s.dev.ioGate = none ∧
      s.dev.isOrdered id = false) ∧ s.dev.rangeFault 2 lba 1 true = none ∧ s.dev.armed = true ∧
      s.dev.dirtyBlocks + 1 ≤ 256 * s.dev.f Reg.BUF_DIRTY_MAX))) ∧
    (let s : State := wst [] fun d => (online d).setF Reg.SYS_BOOT_STEP 10; (let id : CmdId := cid;
      (let e : Nvme × Bool × Nat := (Nvme.namespaceNotReady, false, 1); s.dev.admits id = true ∧
      s.dev.ioGate = some e))) :=
  ⟨by decide +kernel, by decide +kernel, by decide +kernel, by decide +kernel, by decide +kernel⟩

theorem witness_ZoneManagement :
    (let s : State := wst [] fun d => inZone (fun z => { z with state := 0x3, wp := 8 }) (d); (let id : CmdId := cid;
      (let lba : Nat := 0; (s.dev.admits id = true ∧ s.dev.ioGate = none ∧ s.dev.isOrdered id = false) ∧
      s.dev.rangeFault 1 lba 1 false = none ∧ (let z := lba / s.dev.media.zoneBlocks;
      (let act (n : Nat) : Dev := withCmd s (hostCmd id (.zoneAct n false) 1 lba 0 [] false false);
      ((act 1).zone z).isOpen = true))))) ∧
    (let s : State := wst [] fun d => online d; (let id : CmdId := cid; (let lba : Nat := 0; (s.dev.admits id = true ∧
      s.dev.ioGate = none ∧ s.dev.isOrdered id = false) ∧ s.dev.rangeFault 1 lba 1 false = none ∧
      (let z := lba / s.dev.media.zoneBlocks;
      (let act (n : Nat) : Dev := withCmd s (hostCmd id (.zoneAct n false) 1 lba 0 [] false false);
      ((act 2).zone z).state = 0x1 ∨ ((act 2).zone z).isActive = true))))) ∧
    (let s : State := wst [] fun d => online d; (let id : CmdId := cid; (let lba : Nat := 0; (s.dev.admits id = true ∧
      s.dev.ioGate = none ∧ s.dev.isOrdered id = false) ∧ s.dev.rangeFault 1 lba 1 false = none ∧
      (let z := lba / s.dev.media.zoneBlocks;
      (let act (n : Nat) : Dev := withCmd s (hostCmd id (.zoneAct n false) 1 lba 0 [] false false);
      ((act 3).zone z).state = 0x1 ∨ ((act 3).zone z).state = 0x4 ∧ ((act 3).makeRoom z).1 = .success))))) ∧
    (let s : State := wst [] fun d => inZone (fun z => { z with state := 0xE, wp := 65536 }) (d); (let id : CmdId := cid;
      (let lba : Nat := 0; (s.dev.admits id = true ∧ s.dev.ioGate = none ∧ s.dev.isOrdered id = false) ∧
      s.dev.rangeFault 1 lba 1 false = none ∧ (let z := lba / s.dev.media.zoneBlocks;
      (let act (n : Nat) : Dev := withCmd s (hostCmd id (.zoneAct n false) 1 lba 0 [] false false);
      ((act 4).zone z).state = 0xE ∧ (((act 4).resetZone z).zone z).state = 0x1))))) ∧
    (let s : State := wst [] fun d => inZone (fun z => { z with state := 0xD }) (d); (let id : CmdId := cid;
      (let lba : Nat := 0; (s.dev.admits id = true ∧ s.dev.ioGate = none ∧ s.dev.isOrdered id = false) ∧
      s.dev.rangeFault 1 lba 1 false = none ∧ (let z := lba / s.dev.media.zoneBlocks;
      (let act (n : Nat) : Dev := withCmd s (hostCmd id (.zoneAct n false) 1 lba 0 [] false false);
      ((act 5).zone z).state = 0xD))))) ∧
    (let s : State := wst [] fun d => online d; (let id : CmdId := cid; (let lba : Nat := 0; (s.dev.admits id = true ∧
      s.dev.ioGate = none ∧ s.dev.isOrdered id = false) ∧ s.dev.rangeFault 1 lba 1 false = none ∧
      (let z := lba / s.dev.media.zoneBlocks;
      (let act (n : Nat) : Dev := withCmd s (hostCmd id (.zoneAct n false) 1 lba 0 [] false false);
      ((act 5).zone z).state ≠ 0xD))))) ∧
    (let s : State := wst [] fun d => online d; (let id : CmdId := cid; (let lba : Nat := 0; (s.dev.admits id = true ∧
      s.dev.ioGate = none ∧ s.dev.isOrdered id = false) ∧ s.dev.rangeFault 1 lba 1 false = none))) ∧
    (let s : State := wst [] fun d => online d; (let id : CmdId := cid; (let lba : Nat := 0; (let marked : Bool := false;
      (s.dev.admits id = true ∧ s.dev.ioGate = none ∧ s.dev.isOrdered id = false) ∧
      s.dev.rangeFault 1 lba 1 false = none ∧ (let n := (64 : Nat); (let ext := false; (let part := true;
      (let i := (Instr.reportZones cid 1 0 64 true false); (ext = false ∧
      i = Instr.reportZones id 1 lba n part marked) ∨ (ext = true ∧
      i = Instr.extendedReportZones id 1 lba n part marked))))))))) :=
  ⟨by decide +kernel, by decide +kernel, by decide +kernel, by decide +kernel, by decide +kernel, by decide +kernel,
   by decide +kernel, by decide +kernel⟩

theorem witness_FeltUpkeep :
    (let s : State := wst [(Reg.FLT_CFG_ON, 1)] fun d => d; s.dev.feltOn = true) ∧
    (let s : State := wst [(Reg.FLT_CFG_ON, 1)] fun d => d; s.dev.feltOn = true ∧
      (let d : Dev := (wst [] (fun d => d.setStride 0 0 ({ live := false, mask := 0, ploc := 0, qloc := 0, opened := true, slot := 0, folded := [(0, 4)], cover := [], half := 0, dirty := true } : Stride)) |>.dev);
      (let g := (0 : Nat); (let k := (0 : Nat); (d.stride g k).opened = true ∧ (d.stride g k).dirty = true)))) ∧
    (let s : State := wst [(Reg.FLT_CFG_ON, 1)] fun d => d; s.dev.feltOn = true ∧
      (let d : Dev := (wst [] (fun d => d.setStride 0 0 ({ live := false, mask := 0, ploc := 0, qloc := 0, opened := false, slot := 0, folded := [(0, 4)], cover := [], half := 0, dirty := false } : Stride)) |>.dev);
      (let g := (0 : Nat); (let k := (0 : Nat); (d.stride g k).opened = false ∨ (d.stride g k).dirty = false)))) ∧
    (let s : State := wst [(Reg.FLT_CFG_ON, 1), (Reg.FLT_GC_START, 8)] fun d => d; s.dev.feltOn = true ∧
      (let x := (3 : Nat); s.dev.logFree x ≤ s.dev.f Reg.FLT_GC_START ∧
      (s.dev.f Reg.PDM_THERM_STATUS_LEVEL = 0 ∨ s.dev.logFree x < s.dev.f Reg.FLT_GC_START / 2))) ∧
    (let s : State := wst [(Reg.FLT_CFG_ON, 1), (Reg.PDM_THERM_STATUS_LEVEL, 2), (Reg.FLT_GC_START, 0)] fun d => d;
      s.dev.feltOn = true ∧ (let x := (3 : Nat); s.dev.f Reg.PDM_THERM_STATUS_LEVEL ≠ 0 ∧
      s.dev.f Reg.FLT_GC_START / 2 ≤ s.dev.logFree x)) :=
  ⟨by decide +kernel, by decide +kernel, by decide +kernel, by decide +kernel, by decide +kernel⟩

theorem witness_MemoryProtection :
    (let s : State := wst [] fun d => { d with mem := { d.mem with fixes := [({ dram := false, addr := 7, data := (d.mem.bufRaw 7).1, chk := (d.mem.bufRaw 7).2 } : Correction)] } };
      (let c := ({ dram := false, addr := 7, data := ((Dev.fresh .D).mem.bufRaw 7).1, chk := ((Dev.fresh .D).mem.bufRaw 7).2 } : Correction);
      (let cs := ([] : List Correction); s.dev.mem.fixes = c :: cs ∧ c.dram = false ∧
      s.dev.mem.bufRaw c.addr = (c.data, c.chk)))) ∧
    (let s : State := wst [] fun d => { d with mem := { d.mem with fixes := [({ dram := true, addr := 4, data := (d.mem.quarter 1 0), chk := (metaChk (sget 0 d.mem.dramMeta 1) 0) } : Correction)] } };
      (let c := ({ dram := true, addr := 4, data := ((Dev.fresh .D).mem.quarter 1 0), chk := (metaChk (sget 0 (Dev.fresh .D).mem.dramMeta 1) 0) } : Correction);
      (let cs := ([] : List Correction); s.dev.mem.fixes = c :: cs ∧ c.dram = true ∧
      s.dev.mem.quarter (c.addr / 4) (c.addr % 4) = c.data ∧
      metaChk (sget 0 s.dev.mem.dramMeta (c.addr / 4)) (c.addr % 4) = c.chk))) ∧
    (let s : State := wst [] fun d => { d with mem := { d.mem with fixes := [({ dram := false, addr := 7, data := 0x55, chk := 0 } : Correction)] } };
      (let c := ({ dram := false, addr := 7, data := 0x55, chk := 0 } : Correction);
      (let cs := ([] : List Correction); s.dev.mem.fixes = c :: cs ∧ c.dram = false ∧
      s.dev.mem.bufRaw c.addr ≠ (c.data, c.chk)))) ∧
    (let s : State := wst [] fun d => d; s.dev.f Reg.DMC_FENCE_DONE ≠ 1) ∧
    (let s : State := wst [(Reg.DMC_CAP_MIB, 3584)] fun d => d; s.dev.f Reg.DMC_CAP_MIB ≠ 0 ∧
      s.dev.f Reg.DMC_FENCE_DONE ≠ 1) ∧
    (let s : State := wst [] fun d => d; (let cal := true; (let w := 0x80000000#32; bits w 31 31 = 1 ∧
      (cal || s.dev.safe) = true))) ∧
    (let s : State := wst [] fun d => d; s.dev.f Reg.PDM_THERM_STATUS_LEVEL = 0) ∧
    (let s : State := wst [(Reg.PDM_THERM_STATUS_LEVEL, 1)] fun d => d; s.dev.f Reg.PDM_THERM_STATUS_LEVEL ≠ 0) ∧
    (let d : Dev := (wst [] fun d => (List.range 4).foldl (fun d i => d.setF (Reg.PDM_ON_ON.nth i) 0xFFFFFFFF) { d with mem := { d.mem with bufChk := [(0, 3)] } }).dev;
      (let a := (0 : Nat); d.domOn (34 + a / 2 ^ 22) = true ∧
      eccDecode 4 8 (d.mem.bufRaw a).1 (d.mem.bufRaw a).2 = .bad)) :=
  ⟨by decide +kernel, by decide +kernel, by decide +kernel, by decide +kernel, by decide +kernel, by decide +kernel,
   by decide +kernel, by decide +kernel, by decide +kernel⟩

theorem witness_CrownRequests :
    (let s : State := wst [((Reg.CRN_WIN_EN.nth 0), 1), ((Reg.CRN_WIN_SIZE.nth 0), 16), ((Reg.CRN_WIN_BASE.nth 0), 0), ((Reg.PDM_ON_ON.nth 0), 0xFFFFFFFF), ((Reg.PDM_ON_ON.nth 1), 0xFFFFFFFF), ((Reg.PDM_ON_ON.nth 2), 0xFFFFFFFF)] fun d => { d with crn := { d.crn with ways := [(0, ({ valid := true, tag := 0, reserved := false, bytes := [] } : CrownWay))] } };
      (let who : CrownUser := (CrownUser.core 0); (let addr : Nat := 0; (let d := s.dev.setDomLow 52 false;
      (let line := addr / 128; s.dev.hasCrownUser who = true ∧ s.dev.domOn 52 = true ∧ d.crownUp = true ∧
      d.crn.waits = [] ∧ (let len := 4; crownForm addr len = true ∧ d.cacheable line = true ∧
      (let w := ((CrownUser.core 0, (0 : Nat)).2); d.crn.wayOf line = some w))))))) ∧
    (let s : State := wst [((Reg.CRN_WIN_EN.nth 0), 1), ((Reg.CRN_WIN_SIZE.nth 0), 16), ((Reg.CRN_WIN_BASE.nth 0), 0), ((Reg.PDM_ON_ON.nth 0), 0xFFFFFFFF), ((Reg.PDM_ON_ON.nth 1), 0xFFFFFFFF), ((Reg.PDM_ON_ON.nth 2), 0xFFFFFFFF)] fun d => d;
      (let who : CrownUser := (CrownUser.core 0); (let addr : Nat := 0; (let d := s.dev.setDomLow 52 false;
      (let line := addr / 128; s.dev.hasCrownUser who = true ∧ s.dev.domOn 52 = true ∧ d.crownUp = true ∧
      d.crn.waits = [] ∧ (let len := 4; crownForm addr len = true ∧ d.cacheable line = true ∧ (let w := (0 : Nat);
      d.crn.wayOf line = none ∧ (d.crn.nap.find? fun p => decide (p.1 = line)) = none ∧ d.crn.fillOf line = none ∧
      d.crn.victim line none = some w ∧ d.missRoom = true))))))) ∧
    (let s : State := wst [((Reg.CRN_WIN_EN.nth 0), 1), ((Reg.CRN_WIN_SIZE.nth 0), 16), ((Reg.CRN_WIN_BASE.nth 0), 0), ((Reg.PDM_ON_ON.nth 0), 0xFFFFFFFF), ((Reg.PDM_ON_ON.nth 1), 0xFFFFFFFF), ((Reg.PDM_ON_ON.nth 2), 0xFFFFFFFF)] fun d => d;
      (let who : CrownUser := (CrownUser.core 0); (let addr : Nat := 0; (let d := s.dev.setDomLow 52 false;
      (let line := addr / 128; s.dev.hasCrownUser who = true ∧ s.dev.domOn 52 = true ∧ d.crownUp = true ∧
      d.crn.waits = [] ∧ (let bs := [1, 2, 3, 4]; crownForm addr bs.length = true ∧ d.cacheable line = true ∧
      d.crn.wayOf line = none ∧ d.crn.batt.length < 32)))))) ∧
    (let s : State := wst [((Reg.PDM_ON_ON.nth 0), 0xFFFFFFFF), ((Reg.PDM_ON_ON.nth 1), 0xFFFFFFFF), ((Reg.PDM_ON_ON.nth 2), 0xFFFFFFFF)] fun d => d;
      (let who : CrownUser := (CrownUser.core 0); (let addr : Nat := 0; (let d := s.dev.setDomLow 52 false;
      (let line := addr / 128; s.dev.hasCrownUser who = true ∧ s.dev.domOn 52 = true ∧ d.crownUp = true ∧
      d.crn.waits = [] ∧ (let bs := [1, 2, 3, 4]; crownForm addr bs.length = true ∧ d.cacheable line = false)))))) ∧
    (let s : State := wst [((Reg.CRN_WIN_EN.nth 0), 1), ((Reg.CRN_WIN_SIZE.nth 0), 16), ((Reg.CRN_WIN_BASE.nth 0), 0), ((Reg.PDM_ON_ON.nth 0), 0xFFFFFFFF), ((Reg.PDM_ON_ON.nth 1), 0xFFFFFFFF), ((Reg.PDM_ON_ON.nth 2), 0xFFFFFFFF)] fun d => { d with crn := { d.crn with fills := [({ line := 0, way := some 0, bytes := [], critical := 0, arrived := 1, compat := false, joined := [], nap := false, noInstall := false, maint := false })] } };
      (let who : CrownUser := (CrownUser.core 0); (let addr : Nat := 0; (let d := s.dev.setDomLow 52 false;
      (let line := addr / 128; s.dev.hasCrownUser who = true ∧ s.dev.domOn 52 = true ∧ d.crownUp = true ∧
      d.crn.waits = [] ∧
      (let f := (({ line := 0, way := some 0, bytes := [], critical := 0, arrived := 1, compat := false, joined := [], nap := false, noInstall := false, maint := false }) : CrownFill);
      (s.dev.crn.fills.find? fun f => decide (f.line = line)) = some f ∧ f.arrived ≠ 0)))))) ∧
    (let s : State := wst [((Reg.CRN_WIN_EN.nth 0), 1), ((Reg.CRN_WIN_SIZE.nth 0), 16), ((Reg.CRN_WIN_BASE.nth 0), 0), ((Reg.PDM_ON_ON.nth 0), 0xFFFFFFFF), ((Reg.PDM_ON_ON.nth 1), 0xFFFFFFFF), ((Reg.PDM_ON_ON.nth 2), 0xFFFFFFFF)] fun d => { d with crn := { d.crn with fills := [({ line := 0, way := some 0, bytes := [], critical := 0, arrived := 1, compat := false, joined := [], nap := false, noInstall := false, maint := false })] } };
      (let who : CrownUser := (CrownUser.core 0); (let d := s.dev.setDomLow 52 false; s.dev.hasCrownUser who = true ∧
      s.dev.domOn 52 = true ∧ d.crownUp = true ∧ d.crn.waits = []))) ∧
    (let s : State := wst [((Reg.CRN_WIN_EN.nth 0), 1), ((Reg.CRN_WIN_SIZE.nth 0), 16), ((Reg.CRN_WIN_BASE.nth 0), 0), ((Reg.PDM_ON_ON.nth 0), 0xFFFFFFFF), ((Reg.PDM_ON_ON.nth 1), 0xFFFFFFFF), ((Reg.PDM_ON_ON.nth 2), 0xFFFFFFFF)] fun d => { d with crn := { d.crn with fills := [({ line := 0, way := some 0, bytes := [], critical := 0, arrived := 1, compat := false, joined := [], nap := false, noInstall := false, maint := false })] } };
      (let who : CrownUser := (CrownUser.core 0); (let addr : Nat := 0; (let d := s.dev.setDomLow 52 false;
      (let line := addr / 128; s.dev.hasCrownUser who = true ∧ s.dev.domOn 52 = true ∧ d.crownUp = true ∧
      d.crn.waits = [] ∧ s.dev.cacheable line = true))))) :=
  ⟨by decide +kernel, by decide +kernel, by decide +kernel, by decide +kernel, by decide +kernel, by decide +kernel,
   by decide +kernel⟩

theorem witness_CrownMaintenance :
    (let s : State := wst [(Reg.CRN_MAINT_BUSY, 0)] fun d => { d with crn := { d.crn with ways := [(0, ({ valid := true, tag := 0, reserved := false, bytes := [] } : CrownWay))] } };
      s.dev.f Reg.CRN_MAINT_BUSY ≠ 1) ∧
    (let s : State := wst [(Reg.CRN_MAINT_BUSY, 0)] fun d => { d with crn := { d.crn with ways := [(0, ({ valid := true, tag := 0, reserved := false, bytes := [] } : CrownWay))] } };
      (let set : Nat := 0; (let way : Nat := 0;
      (let start (op : Nat) : Dev := ((s.dev.setF Reg.CRN_MAINT_OP op).setF Reg.CRN_MAINT_SET set).setF Reg.CRN_MAINT_WAY way;
      s.dev.f Reg.CRN_MAINT_BUSY ≠ 1 ∧ ((start 2).crn.way (start 2).maintKey).valid = true)))) ∧
    (let s : State := wst [(Reg.CRN_MAINT_BUSY, 1)] fun d => { d with crn := { d.crn with ways := [(0, ({ valid := true, tag := 0, reserved := false, bytes := [] } : CrownWay))] } };
      s.dev.f Reg.CRN_MAINT_BUSY = 1) :=
  ⟨by decide +kernel, by decide +kernel, by decide +kernel⟩

theorem witness_FlashOperations :
    (let s : State := wst [] fun d => d; (let b : Nat := 0; b < 2 ∧ s.dev.safe = false)) ∧
    (let s : State := wst [(Reg.SIZ_STATUS_SAFE, 1)] fun d => d; (let b : Nat := 0; b < 2 ∧
      (let st := (s.dev.nv.bank.get b).step; s.dev.safe = true ∧ st = 0))) ∧
    (let s : State := wst [(Reg.SIZ_STATUS_SAFE, 1)] fun d => d.onBank 0 fun k => { k with step := 1 }; (let b : Nat := 0;
      b < 2 ∧ (let st := (s.dev.nv.bank.get b).step; s.dev.safe = true ∧ st = 1))) ∧
    (let s : State := wst [(Reg.SIZ_STATUS_SAFE, 1)] fun d => d.onBank 0 fun k => { k with step := 2 }; (let b : Nat := 0;
      b < 2 ∧ (let st := (s.dev.nv.bank.get b).step; s.dev.safe = true ∧ st = 2))) ∧
    (let s : State := wst [(Reg.SIZ_STATUS_SAFE, 1)] fun d => d.onBank 0 fun k => { k with step := 3, cmd := 0x20 };
      (let b : Nat := 0; b < 2 ∧ (let st := (s.dev.nv.bank.get b).step; s.dev.safe = true ∧ (let w := 0#32; st = 3 ∧
      (s.dev.nv.bank.get b).cmd = 0x20 ∧
      (let d1 := (s.dev.setF (flF Reg.NVC_FL_ADDR_ADDR b) (bits w 24 0)).onBank b fun k => { k with step := 0, data := [] };
      d1.f (flF Reg.NVC_FL_STATUS_ERR b) = 0 ∧ d1.flOp b = 0))))) ∧
    (let s : State := wst [(Reg.SIZ_STATUS_SAFE, 1)] fun d => d.onBank 0 fun k => { k with step := 11 };
      (let b : Nat := 0; b < 2 ∧ (let st := (s.dev.nv.bank.get b).step; s.dev.safe = true ∧ (let w := 0#32; st = 11 ∧
      (let d1 := (s.dev.onBank b fun k => { k with step := k.step + 1, data := k.data ++ [w] }).onBank b fun k => { k with step := 0 };
      (let idx := (2 ^ 24 * b + d1.f (flF Reg.NVC_FL_ADDR_ADDR b) % 2 ^ 24) / 32;
      d1.f (flF Reg.NVC_FL_STATUS_ERR b) = 0 ∧ d1.flOp b = 0 ∧ (d1.rawFlash idx).1 = erasedWord)))))) ∧
    (let s : State := wst [(((flF Reg.NVC_FL_STATUS_OP 0)), 2), (Reg.SIZ_STATUS_SAFE, 1)] fun d => d.onBank 0 fun k => { k with ran := true };
      (let b : Nat := 0; b < 2 ∧ (let st := (s.dev.nv.bank.get b).step; s.dev.safe = true ∧ st = 0 ∧
      s.dev.flOp b = 2 ∧ (s.dev.nv.bank.get b).ran = true))) ∧
    (let s : State := wst [(((flF Reg.NVC_FL_STATUS_OP 0)), 3), (Reg.SIZ_STATUS_SAFE, 1)] fun d => d; (let b : Nat := 0;
      b < 2 ∧ (let st := (s.dev.nv.bank.get b).step; s.dev.safe = true ∧ st = 0 ∧ s.dev.flOp b = 3))) ∧
    (let s : State := wst [(((flF Reg.NVC_FL_STATUS_OP 0)), 1), (Reg.SIZ_STATUS_SAFE, 1)] fun d => d; (let b : Nat := 0;
      b < 2 ∧ s.dev.flOp b = 1)) ∧
    (let s : State := wst [(((flF Reg.NVC_FL_STATUS_OP 0)), 2), (Reg.SIZ_STATUS_SAFE, 1)] fun d => d; (let b : Nat := 0;
      b < 2 ∧ s.dev.flOp b = 2)) ∧
    (let s : State := wst [(((flF Reg.NVC_FL_STATUS_OP 0)), 2), (Reg.SIZ_STATUS_SAFE, 1)] fun d => d.onBank 0 fun k => { k with holdSuspend := true };
      (let b : Nat := 0; b < 2 ∧ (let k := s.dev.nv.bank.get b; s.dev.flOp b = 2 ∧ k.holdSuspend = true))) ∧
    (let s : State := wst [(((flF Reg.NVC_FL_STATUS_OP 0)), 2)] fun d => d; (let b : Nat := 0; b < 2 ∧
      (let a := (0 : Nat); a < 2 ^ 25 ∧ s.dev.flashBusy a = true))) ∧
    (let s : State := wst [] fun d => d; (let b : Nat := 0; b < 2 ∧ (let a := (33554431 : Nat); a < 2 ^ 25 ∧
      s.dev.flashBusy a = false))) :=
  ⟨by decide +kernel, by decide +kernel, by decide +kernel, by decide +kernel, by decide +kernel, by decide +kernel,
   by decide +kernel, by decide +kernel, by decide +kernel, by decide +kernel, by decide +kernel, by decide +kernel,
   by decide +kernel⟩

theorem witness_HatbandRecorder :
    (let s : State := wst [] fun d => d.onHb fun h => { h with ready := true }; (let code := (5 : Nat);
      (let b := Block.spn; (let x := (0 : Nat); (let y := (0 : Nat); 0 < code ∧ code < 4096 ∧
      (let r := s.dev.hbRec code b x y; s.dev.hb.ready = true ∧ s.dev.hb.clearing = false ∧ s.dev.hb.full = false ∧
      s.dev.hb.recs.length < 65535 ∧ (∀ l ∈ s.dev.hb.recs.getLast?, l.same r = false))))))) ∧
    (let s : State := wst [] fun d => d.onHb fun h => { h with ready := true, recs := [((Dev.fresh .D).hbRec 5 Block.spn 0 0)] };
      (let code := (5 : Nat); (let b := Block.spn; (let x := (0 : Nat); (let y := (0 : Nat); 0 < code ∧ code < 4096 ∧
      (let r := s.dev.hbRec code b x y; (let l := ((Dev.fresh .D).hbRec 5 Block.spn 0 0); s.dev.hb.ready = true ∧
      s.dev.hb.clearing = false ∧ s.dev.hb.full = false ∧ s.dev.hb.recs.getLast? = some l ∧ l.same r = true ∧
      l.rep < 0xFFFF ∧ s.dev.hb.frozenAt (s.dev.hb.recs.length - 1) = false))))))) ∧
    (let s : State := wst [] fun d => d.onHb fun h => { h with clearing := true }; (let code := (5 : Nat); 0 < code ∧
      code < 4096 ∧ s.dev.hb.clearing = true ∧ s.dev.hb.queue.length < 64)) ∧
    (let s : State := wst [] fun d => d.onHb fun h => { h with clearing := true, queue := List.replicate 64 ((Dev.fresh .D).hbRec 5 Block.spn 0 0) };
      (let code := (5 : Nat); 0 < code ∧ code < 4096 ∧ s.dev.hb.clearing = true ∧ 64 ≤ s.dev.hb.queue.length)) ∧
    (let s : State := wst [(Reg.HBR_CURSOR_AUTOINC, 0)] fun d => d; s.dev.f Reg.HBR_CURSOR_AUTOINC ≠ 1) ∧
    (let s : State := wst [(Reg.HBR_CURSOR_AUTOINC, 1)] fun d => d; s.dev.f Reg.HBR_CURSOR_AUTOINC = 1) :=
  ⟨by decide +kernel, by decide +kernel, by decide +kernel, by decide +kernel, by decide +kernel, by decide +kernel⟩

theorem witness_CompressionJobs :
    (let s : State := wst [(Reg.FUL_STATUS_HEAD, 0), (Reg.FUL_RING_TAIL_TAIL, 1)] fun d => d; s.dev.fulPending = true ∧
      (let job := s.dev.f Reg.FUL_STATUS_HEAD; (let w0 := s.dev.jobWord job 0; (let w2 := s.dev.jobWord job 2;
      w0 / 2 ^ 28 = 0 ∧ w0 / 2 ^ 26 % 4 ≠ 3 ∧ w2 / 2 ^ 30 < 2 ∧ w2 % 2 ^ 30 % 4 = 0 ∧ s.dev.ful.abort = false)))) ∧
    (let s : State := wst [(Reg.FUL_STATUS_HEAD, 0), (Reg.FUL_RING_TAIL_TAIL, 1), ((Reg.PDM_ON_ON.nth 0), 0xFFFFFFFF), ((Reg.PDM_ON_ON.nth 1), 0xFFFFFFFF), ((Reg.PDM_ON_ON.nth 2), 0xFFFFFFFF)] fun d => { d with mem := d.mem.setBuf 3 0x10 (checkBits 4 8 0x10) };
      s.dev.fulPending = true ∧ (let job := s.dev.f Reg.FUL_STATUS_HEAD; (let w0 := s.dev.jobWord job 0;
      (let w2 := s.dev.jobWord job 2; w0 / 2 ^ 28 = 1 ∧ w2 / 2 ^ 30 < 2 ∧ w2 % 2 ^ 30 % 4 = 0 ∧
      s.dev.ful.abort = false)))) ∧
    (let s : State := wst [(Reg.FUL_STATUS_HEAD, 0), (Reg.FUL_RING_TAIL_TAIL, 1), ((Reg.PDM_ON_ON.nth 0), 0xFFFFFFFF), ((Reg.PDM_ON_ON.nth 1), 0xFFFFFFFF), ((Reg.PDM_ON_ON.nth 2), 0xFFFFFFFF)] fun d => { d with mem := d.mem.setBuf 3 0x20 (checkBits 4 8 0x20) };
      s.dev.fulPending = true ∧ (let job := s.dev.f Reg.FUL_STATUS_HEAD; (let w0 := s.dev.jobWord job 0;
      (let w2 := s.dev.jobWord job 2; w0 / 2 ^ 28 ≠ 1 ∧ (2 ≤ w0 / 2 ^ 28 ∨ 2 ≤ w2 / 2 ^ 30 ∨ w2 % 2 ^ 30 % 4 ≠ 0))))) ∧
    (let s : State := wst [(Reg.FUL_STATUS_HEAD, 0), (Reg.FUL_RING_TAIL_TAIL, 1)] fun d => d; s.dev.fulPending = true ∧
      (let job := s.dev.f Reg.FUL_STATUS_HEAD; (let w0 := s.dev.jobWord job 0; w0 / 2 ^ 28 = 0))) :=
  ⟨by decide +kernel, by decide +kernel, by decide +kernel, by decide +kernel⟩

theorem witness_PowerDomainsAndStates :
    (let s : State := wst [((Reg.PDM_ON_ON.nth 0), 0), ((Reg.PDM_ON_ON.nth 1), 4194304), ((Reg.PDM_ON_ON.nth 2), 0)] fun d => psNone (d);
      (let i : Nat := (54 : Nat); i < 80 ∧ s.dev.domOn i = true ∧ (∀ x ∈ s.dev.pw.turningOff, x.1 ≠ i) ∧
      s.dev.wantOn i = false ∧ s.dev.domQuiet i = true ∧ s.dev.dependentsOff i = true)) ∧
    (let s : State := wst [((Reg.PDM_ON_ON.nth 0), 0), ((Reg.PDM_ON_ON.nth 1), 262144), ((Reg.PDM_ON_ON.nth 2), 0), (Reg.SYS_BOOT_DRAM_CH, 3)] fun d => (List.range 20).foldl (fun d k => d.setReg (Reg.PDM_PS_LOW + 4 * k) 0xFFFFFFFF#32) d;
      (let i : Nat := (50 : Nat); i < 80 ∧ s.dev.domOn i = true ∧ (∀ x ∈ s.dev.pw.turningOff, x.1 ≠ i) ∧
      s.dev.wantOn i = true ∧ s.dev.psLow s.dev.host.ps i = true ∧ hasLow i = true ∧ s.dev.unitHeld i = false)) ∧
    (let s : State := wst [((Reg.PDM_ON_ON.nth 0), 0), ((Reg.PDM_ON_ON.nth 1), 4194304), ((Reg.PDM_ON_ON.nth 2), 0)] fun d => d.onPw fun p => { p with turningOff := [(54, true)] };
      (let i : Nat := (54 : Nat); i < 80 ∧ (let met := true; s.dev.domOn i = true ∧
      (s.dev.pw.turningOff.find? fun x => decide (x.1 = i)) = some (i, met)))) ∧
    (let s : State := wst [((Reg.PDM_ON_ON.nth 0), 0xFFFFFFFF), ((Reg.PDM_ON_ON.nth 1), 0xFFFFFFFF), ((Reg.PDM_ON_ON.nth 2), 0xFFFFFFFF), ((Reg.PDM_ON_ON.nth 0), 0)] fun d => d;
      (let i : Nat := (30 : Nat); i < 80 ∧ s.dev.domOn i = false ∧ s.dev.wantOn i = true ∧ s.dev.depsOn i = true)) ∧
    (let s : State := wst [((Reg.PDM_ON_ON.nth 0), 0), ((Reg.PDM_ON_ON.nth 1), 0), ((Reg.PDM_ON_ON.nth 2), 0)] fun d => d;
      (let i : Nat := (30 : Nat); i < 80 ∧ s.dev.depsOn i = false)) ∧
    (let s : State := wst [] fun d => d.onHost fun x => { x with psNext := some 1 }; (let n := (1 : Nat);
      s.dev.host.psNext = some n ∧ s.dev.pw.entering = false ∧ s.dev.host.ps < n ∧ s.dev.host.cmds = [])) ∧
    (let s : State := wst [] fun d => (d.onHost fun x => { x with psNext := some 1 }).onPw fun p => { p with entering := true, reversing := false };
      (let n := (1 : Nat); s.dev.host.psNext = some n ∧ s.dev.pw.entering = true ∧ s.dev.pw.reversing = false ∧
      s.dev.entryDone n = true)) ∧
    (let s : State := wst [] fun d => (d.onHost fun x => { x with psNext := some 1 }).onPw fun p => { p with entering := true, reversing := true };
      (let n := (1 : Nat); s.dev.host.psNext = some n ∧ s.dev.pw.entering = true ∧ s.dev.pw.reversing = true ∧
      s.dev.safePoint n = true)) ∧
    (let s : State := wst [] fun d => d.onHost fun x => { x with psNext := some 1, ps := 3 }; (let n := (1 : Nat);
      s.dev.host.psNext = some n ∧ s.dev.pw.entering = false ∧ n ≤ s.dev.host.ps)) ∧
    (let s : State := wst [(Reg.PDM_THERM_STATUS_LEVEL, 1)] fun d => d.onPw fun p => { p with coolTicks := 1000 };
      s.dev.throttle ≠ 0 ∧ 1000 ≤ s.dev.pw.coolTicks) ∧
    (let s : State := wst [] fun d => d; (s.dev.throttle = 0 ∨ s.dev.pw.coolTicks < 1000)) ∧
    (let s : State := wst [(Reg.PDM_THERM_STATUS_HOLD, 1)] fun d => d.onPw fun p => { p with warnTicks := 6000 };
      s.dev.f Reg.PDM_THERM_STATUS_HOLD = 1 ∧ 6000 ≤ s.dev.pw.warnTicks) :=
  ⟨by decide +kernel, by decide +kernel, by decide +kernel, by decide +kernel, by decide +kernel, by decide +kernel,
   by decide +kernel, by decide +kernel, by decide +kernel, by decide +kernel, by decide +kernel, by decide +kernel⟩

theorem witness_QueuesAndEvents :
    (let s : State := wst [] fun d => online d; (let id : CmdId := cid; s.dev.admits id = true ∧
      (let c := s.dev.ctrl id.port; (let qid := (128 : Nat); (let size := (4096 : Nat); 0 < qid ∧ qid ≤ c.queues ∧
      (∀ q ∈ c.cqs, q.id ≠ qid) ∧ 2 ≤ size ∧ size ≤ 4096))))) ∧
    (let s : State := wst [] fun d => online d; (let id : CmdId := cid; s.dev.admits id = true ∧
      (let c := s.dev.ctrl id.port; (let qid := (128 : Nat); (let size := (4097 : Nat); 0 < qid ∧ qid ≤ c.queues ∧
      (∀ q ∈ c.cqs, q.id ≠ qid) ∧ (size < 2 ∨ 4096 < size)))))) ∧
    (let s : State := wst [] fun d => (online d).onCtrl .A fun c => { c with cqs := [⟨1, 64⟩] }; (let id : CmdId := cid;
      s.dev.admits id = true ∧ (let c := s.dev.ctrl id.port; (let qid := (1 : Nat); (let size := (2 : Nat);
      (let cq := (1 : Nat); (∃ q ∈ c.cqs, q.id = cq) ∧ 0 < qid ∧ qid ≤ c.queues ∧ (∀ q ∈ c.sqs, q.id ≠ qid) ∧
      2 ≤ size ∧ size ≤ 4096)))))) ∧
    (let s : State := wst [] fun d => (online d).onCtrl .A fun c => { c with cqs := [⟨1, 64⟩], sqs := [⟨1, 64, 1, false⟩] };
      (let id : CmdId := cid; s.dev.admits id = true ∧ (let c := s.dev.ctrl id.port; (let qid := (1 : Nat);
      (∃ q ∈ c.cqs, q.id = qid) ∧ (∃ q ∈ c.sqs, q.cq = qid))))) ∧
    (let s : State := wst [] fun d => (online d).onCtrl .A fun c => { c with cqs := [⟨1, 64⟩] }; (let id : CmdId := cid;
      s.dev.admits id = true ∧ (let c := s.dev.ctrl id.port; (let qid := (1 : Nat); (∃ q ∈ c.cqs, q.id = qid) ∧
      (∀ q ∈ c.sqs, q.cq ≠ qid))))) ∧
    (let s : State := wst [] fun d => (online d).onCtrl .A fun c => { c with cqs := [⟨1, 64⟩], sqs := [⟨1, 64, 1, false⟩] };
      (let id : CmdId := cid; s.dev.admits id = true ∧ (let c := s.dev.ctrl id.port; (let qid := (1 : Nat);
      (∃ q ∈ c.sqs, q.id = qid))))) ∧
    (let s : State := wst [] fun d => online d; (let id : CmdId := cid; s.dev.admits id = true)) ∧
    (let s : State := wst [] fun d => online d; (let id : CmdId := cid; s.dev.admits id = true ∧
      (let c := s.dev.ctrl id.port; c.raised = [] ∧ c.aers.length < 8))) ∧
    (let s : State := wst [] fun d => (online d).onCtrl .A fun c => { c with raised := [(AsyncEv.headHealth)] };
      (let id : CmdId := cid; s.dev.admits id = true ∧ (let c := s.dev.ctrl id.port; (let e := (AsyncEv.headHealth);
      (let es := ([] : List AsyncEv); c.raised = e :: es))))) ∧
    (let s : State := wst [] fun d => (online d).onCtrl .A fun c => { c with aers := List.replicate 8 cid };
      (let id : CmdId := cid; s.dev.admits id = true ∧ (let c := s.dev.ctrl id.port; c.raised = [] ∧
      8 ≤ c.aers.length))) ∧
    (let s : State := wst [] fun d => online d; (let id : CmdId := cid; s.dev.admits id = true ∧
      s.dev.host.sanitize = none ∧ s.dev.host.sanFailed = false)) :=
  ⟨by decide +kernel, by decide +kernel, by decide +kernel, by decide +kernel, by decide +kernel, by decide +kernel,
   by decide +kernel, by decide +kernel, by decide +kernel, by decide +kernel, by decide +kernel⟩

theorem witness_ControllersAndComplexes :
    (let s : State := wst [] fun d => d; (let p : Port := Port.A; s.dev.hasPort p = true)) ∧
    (let s : State := wst [] fun d => d; (let p : Port := Port.A; s.dev.hasPort p = true ∧
      (let d : Dev := (wst [] fun d => (d.onHost fun x => { x with mayReady := true }).onCtrl .A fun c => { c with en := true, link := true, rdy := false }).dev;
      d.hasPort p = true ∧ d.host.mayReady = true ∧ (d.ctrl p).en = true ∧ (d.ctrl p).link = true ∧
      (d.ctrl p).rdy = false))) ∧
    (let s : State := wst [] fun d => online d; (let p : Port := Port.A; s.dev.hasPort p = true ∧ s.dev.fetches p = true ∧
      (let d1 := s.dev.onCtrl p fun c => { c with stopped := true, shst := 1 }; d1.dirtyLeft = 0))) ∧
    (let s : State := wst [] fun d => (online d).onHost fun x => { x with dirty := [(0, 1)] }; (let p : Port := Port.A;
      s.dev.hasPort p = true ∧ s.dev.fetches p = true ∧
      (let d1 := s.dev.onCtrl p fun c => { c with stopped := true, shst := 1 }; d1.dirtyLeft ≠ 0))) ∧
    (let s : State := wst [] fun d => online d; (let p : Port := Port.A; s.dev.hasPort p = true ∧ s.dev.fetches p = true)) ∧
    (let s : State := wst [(Reg.CPX_STATUS_SYNC, 1)] fun d => d; s.dev.inSync = true) ∧
    (let s : State := wst [(Reg.CPX_STATUS_SYNC, 0)] fun d => d; s.dev.inSync = false) ∧
    (let s : State := wst [(((cpxStateFld Cpx.X)), 1), (Reg.CPX_STATUS_SYNC, 0)] fun d => d; (let c := Cpx.X;
      s.dev.isResetting (.complex c) = false ∧ s.dev.isResetting (.complex c.other) = false ∧ s.dev.cpxState c = 1 ∧
      s.dev.inSync = false ∧ s.dev.cpx.reloaded.get c.idx = false)) ∧
    (let s : State := wst [(((cpxStateFld Cpx.X)), 2), (((cpxStateFld Cpx.Y)), 2), (Reg.CPX_STATUS_SYNC, 1), (((byFld Port.A)), 1)] fun d => d;
      (let dst := Cpx.X;
      (let move := [Port.A, Port.B].filter fun p => s.dev.hasPort p && decide (s.dev.servedBy p ≠ dst);
      (let cal := true; (cal || s.dev.safe) = true ∧ s.dev.inSync = true ∧ s.dev.cpxUp dst = true ∧ move ≠ [])))) ∧
    (let s : State := wst [(((cpxStateFld Cpx.X)), 2), (((cpxStateFld Cpx.Y)), 2), (Reg.CPX_STATUS_SYNC, 1), (((byFld Port.A)), 1)] fun d => d;
      (let cal := false; (cal || s.dev.safe) = false)) :=
  ⟨by decide +kernel, by decide +kernel, by decide +kernel, by decide +kernel, by decide +kernel, by decide +kernel,
   by decide +kernel, by decide +kernel, by decide +kernel, by decide +kernel⟩

theorem witness_SemaphoreCommands :
    (let s : State := wst [] fun d => online d; (let id : CmdId := cid; s.dev.admits id = true ∧ s.dev.semHolder = 0 ∧
      s.dev.sem.queue = [])) ∧
    (let s : State := wst [(Reg.CPX_SEM_HOLDER, 2)] fun d => online d; (let id : CmdId := cid; s.dev.admits id = true ∧
      (let h := 1 + id.port.idx; s.dev.semHolder ≠ 0 ∧ s.dev.semHolder ≠ h ∧ s.dev.sem.queue.length < 64))) ∧
    (let s : State := wst [(Reg.CPX_SEM_HOLDER, 2)] fun d => { (online d) with sem := { queue := List.replicate 64 (⟨2, .claim cid⟩ : SemReq), ops := 0, expired := false } };
      (let id : CmdId := cid; s.dev.admits id = true ∧ (let h := 1 + id.port.idx; s.dev.semHolder ≠ 0 ∧
      s.dev.semHolder ≠ h ∧ 64 ≤ s.dev.sem.queue.length))) ∧
    (let s : State := wst [(Reg.CPX_SEM_HOLDER, 1)] fun d => online d; (let id : CmdId := cid; s.dev.admits id = true ∧
      (let h := 1 + id.port.idx; s.dev.semHolder = h ∧ s.dev.sem.ops = 0))) ∧
    (let s : State := wst [(Reg.CPX_SEM_HOLDER, 2)] fun d => online d; (let id : CmdId := cid; s.dev.admits id = true ∧
      (let h := 1 + id.port.idx; s.dev.semHolder ≠ 0 ∧ s.dev.semHolder ≠ h))) ∧
    (let s : State := wst [(Reg.CPX_SEM_HOLDER, 1), (Reg.CPX_SEM_TIMER, 1)] fun d => d; s.dev.f Reg.CPX_SEM_TIMER ≠ 0 ∧
      s.dev.sem.ops = 0) ∧
    (let s : State := wst [(Reg.CPX_SEM_HOLDER, 1), (Reg.CPX_SEM_TIMER, 1)] fun d => { d with sem := { queue := [], ops := 1, expired := false } };
      s.dev.f Reg.CPX_SEM_TIMER ≠ 0 ∧ s.dev.sem.ops ≠ 0) ∧
    (let h := (5 : Nat); 3 ≤ h ∧ h ≤ 5) ∧
    (let s : State := wst [] fun d => d; (let cal := true; (cal || s.dev.safe) = true)) ∧
    (let s : State := wst [] fun d => d; (let cal := false; (cal || s.dev.safe) = false)) :=
  ⟨by decide +kernel, by decide +kernel, by decide +kernel, by decide +kernel, by decide +kernel, by decide +kernel,
   by decide +kernel, by decide +kernel, by decide +kernel, by decide +kernel⟩

theorem witness_SerializedFeatures :
    (let s : State := wst [] fun d => online d; (let id : CmdId := cid; s.dev.admits id = true ∧
      (let h := 1 + id.port.idx; s.dev.semOpen h = true ∧ s.dev.sem.queue = [] ∧ (let t := (5 : Nat); t ≤ 5)))) ∧
    (let s : State := wst [] fun d => online d; (let id : CmdId := cid; s.dev.admits id = true ∧
      (let h := 1 + id.port.idx; s.dev.semOpen h = true ∧ s.dev.sem.queue = [] ∧ (let t := (6 : Nat); 5 < t)))) ∧
    (let s : State := wst [] fun d => online d; (let id : CmdId := cid; s.dev.admits id = true ∧
      (let h := 1 + id.port.idx; s.dev.semOpen h = true ∧ s.dev.sem.queue = []))) ∧
    (let s : State := wst [] fun d => online d; (let id : CmdId := cid; s.dev.admits id = true ∧
      (let h := 1 + id.port.idx; s.dev.semOpen h = true ∧ s.dev.sem.queue = [] ∧ (let ns := (2 : Nat);
      (ns = 1 ∨ ns = 2))))) ∧
    (let s : State := wst [] fun d => online d; (let id : CmdId := cid; s.dev.admits id = true ∧
      (let h := 1 + id.port.idx; s.dev.semOpen h = true ∧ s.dev.sem.queue = [] ∧
      (let x : Dev := (wst [(Reg.SPN_SPEED_CMD_SPEED, 60000)] fun d => d).dev; (let key := (0x501 : Nat);
      (let v := (1 : Nat); 0x500 ≤ key ∧ key < 0x600 ∧ v ≠ 0 ∧ v * x.speed * x.wedges < x.floorTicks * 60000)))))) ∧
    (let s : State := wst [] fun d => online d; (let id : CmdId := cid; s.dev.admits id = true ∧
      (let h := 1 + id.port.idx; s.dev.semOpen h = true ∧ s.dev.sem.queue = [] ∧
      (let x : Dev := (wst [(Reg.SPN_SPEED_CMD_SPEED, 720000)] fun d => d).dev; (let key := (0x501 : Nat);
      (let v := (65535 : Nat); 0x500 ≤ key ∧ key < 0x600 ∧ x.floorTicks * 60000 ≤ v * x.speed * x.wedges)))))) :=
  ⟨by decide +kernel, by decide +kernel, by decide +kernel, by decide +kernel, by decide +kernel, by decide +kernel⟩

theorem witness_FirmwareCommands :
    (let s : State := wst [] fun d => online d; (let id : CmdId := cid; s.dev.admits id = true ∧
      s.dev.host.sanitize = none ∧ s.dev.host.sanFailed = false ∧ (let ofs := (0 : Nat);
      (let bs := (List.replicate 4096 7); bs ≠ [] ∧ ofs % 4096 = 0 ∧ bs.length % 4096 = 0 ∧
      ofs + bs.length ≤ 12 * 2 ^ 20 ∧ (∀ p ∈ s.dev.host.pieces, piecesMeet p (ofs, bs) = false))))) ∧
    (let s : State := wst [] fun d => (online d).onHost fun x => { x with pieces := [(0, List.replicate 4096 7)] };
      (let id : CmdId := cid; s.dev.admits id = true ∧ s.dev.host.sanitize = none ∧ s.dev.host.sanFailed = false ∧
      (let ofs := (0 : Nat); (let bs := (List.replicate 4096 7); bs ≠ [] ∧ ofs % 4096 = 0 ∧ bs.length % 4096 = 0 ∧
      ofs + bs.length ≤ 12 * 2 ^ 20 ∧ (∃ p ∈ s.dev.host.pieces, piecesMeet p (ofs, bs) = true))))) ∧
    (let s : State := wst [] fun d => online d; (let id : CmdId := cid; s.dev.admits id = true ∧
      s.dev.host.sanitize = none ∧ s.dev.host.sanFailed = false ∧ (let h := 1 + id.port.idx; s.dev.semOpen h = true))) ∧
    (let s : State := wst [] fun d => online d; (let id : CmdId := cid; s.dev.admits id = true ∧
      s.dev.host.sanitize = none ∧ s.dev.host.sanFailed = false ∧
      (let x : Dev := (wst [] fun d => d.onHost fun x => { x with pieces := [(0, fwImage)] }).dev; (let bs := fwImage;
      (let ca := (1 : Nat); imageOfPieces x.host.pieces = some bs ∧ x.host.pieces ≠ [] ∧
      x.imageFault true true bs = 0 ∧ ca ≤ 1 ∧ x.nv.boot.active = 0))))) ∧
    (let s : State := wst [(Reg.CPX_STATUS_SYNC, 0)] fun d => (online d).onCpx fun x => { x with act := some ({ id := some cid, slot := 1, old := 0, ver := 2, step := 0, back := false } : Activation) };
      (let id : CmdId := cid; s.dev.admits id = true ∧ s.dev.host.sanitize = none ∧ s.dev.host.sanFailed = false ∧
      (let v := ({ id := some cid, slot := 1, old := 0, ver := 2, step := 0, back := false } : Activation);
      s.dev.cpx.act = some v ∧ (s.dev.activate v).1 = false))) ∧
    (let s : State := wst [(Reg.CPX_STATUS_SYNC, 1)] fun d => (online d).onCpx fun x => { x with act := some ({ id := some cid, slot := 1, old := 0, ver := 2, step := 4, back := false } : Activation) };
      (let id : CmdId := cid; s.dev.admits id = true ∧ s.dev.host.sanitize = none ∧ s.dev.host.sanFailed = false ∧
      (let v := ({ id := some cid, slot := 1, old := 0, ver := 2, step := 4, back := false } : Activation);
      s.dev.cpx.act = some v ∧ (s.dev.activate v).1 = true))) :=
  ⟨by decide +kernel, by decide +kernel, by decide +kernel, by decide +kernel, by decide +kernel, by decide +kernel⟩

theorem witness_FormatAndSanitize :
    (let s : State := wst [] fun d => online d; (let id : CmdId := cid; s.dev.admits id = true ∧
      s.dev.host.sanitize = none ∧ (let h := 1 + id.port.idx; (let lbaf := (2 : Nat); (let ses := (2 : Nat);
      s.dev.host.sanFailed = false ∧ lbaf ≤ 2 ∧ ses ≤ 2 ∧ s.dev.semOpen h = true ∧ s.dev.sem.queue = []))))) ∧
    (let s : State := wst [] fun d => online d; (let id : CmdId := cid; s.dev.admits id = true ∧
      s.dev.host.sanitize = none ∧ (let lbaf := (3 : Nat); s.dev.host.sanFailed = false ∧ 2 < lbaf))) ∧
    (let s : State := wst [] fun d => (online d).onHost fun x => { x with sanFailed := true }; (let id : CmdId := cid;
      s.dev.admits id = true ∧ s.dev.host.sanitize = none ∧ s.dev.host.sanFailed = true)) ∧
    (let s : State := wst [] fun d => online d; (let id : CmdId := cid; s.dev.admits id = true ∧
      s.dev.host.sanitize = none ∧ (let h := 1 + id.port.idx; s.dev.semOpen h = true))) ∧
    (let s : State := wst [] fun d => (online d).onHost fun x => { x with sanFailed := true, sanAuse := true };
      (let id : CmdId := cid; s.dev.admits id = true ∧ s.dev.host.sanitize = none ∧ (let h := 1 + id.port.idx;
      s.dev.semOpen h = true ∧ s.dev.host.sanFailed = true ∧ s.dev.host.sanAuse = true))) :=
  ⟨by decide +kernel, by decide +kernel, by decide +kernel, by decide +kernel, by decide +kernel⟩

theorem witness_PowerLossAndVault :
    (let s : State := wst [(Reg.PWR_SMON_STATUS_GOOD5, 1), (Reg.PWR_SMON_STATUS_GOOD12, 1), (Reg.PWR_SMON_STATUS_GOODHOLD, 1), (Reg.PWR_SMON_STATUS_CORE_PG, 1), (Reg.PWR_VAULT_REASON_RESTORE, 0), (Reg.SPN_STATUS_AT_SPEED, 1), (Reg.SPN_SPEED_CMD_SPEED, 720000)] fun d => d;
      (let d1 := s.dev.vaultTick; d1.pd.generator = false ∧ d1.pd.held = false ∧ d1.mayArm = true)) ∧
    (let s : State := wst [(Reg.PWR_SMON_STATUS_GOOD5, 1), (Reg.PWR_SMON_STATUS_GOOD12, 1), (Reg.PWR_SMON_STATUS_GOODHOLD, 1), (Reg.PWR_SMON_STATUS_CORE_PG, 1), (Reg.SPN_STATUS_AT_SPEED, 1)] fun d => d;
      s.dev.host.unhealthy = false ∧ s.dev.armed = false ∧ s.dev.host.ps < 4 ∧ s.dev.f Reg.SPN_STATUS_AT_SPEED ≠ 0) ∧
    (let s : State := wst [(Reg.PWR_SMON_STATUS_GOOD5, 1), (Reg.PWR_SMON_STATUS_GOOD12, 1), (Reg.PWR_SMON_STATUS_GOODHOLD, 1), (Reg.PWR_SMON_STATUS_CORE_PG, 1)] fun d => d;
      s.dev.pd.generator = false ∧ s.dev.pd.held = false ∧ s.dev.f Reg.PWR_SMON_STATUS_CORE_PG ≠ 0) ∧
    (let s : State := wst [(Reg.PWR_SMON_STATUS_GOOD5, 1), (Reg.PWR_SMON_STATUS_GOOD12, 1), (Reg.PWR_SMON_STATUS_GOODHOLD, 1), (Reg.PWR_SMON_STATUS_CORE_PG, 1), (Reg.PWR_VAULT_STATUS_ARMED, 1)] fun d => d.onPd fun p => { p with failed := true };
      s.dev.pd.failed = true ∧ s.dev.pd.saving = false ∧ s.dev.pd.held = false ∧ (let d1 := s.dev.failSteps;
      d1.armed = true)) ∧
    (let s : State := wst [(Reg.PWR_SMON_STATUS_GOOD5, 1), (Reg.PWR_SMON_STATUS_GOOD12, 1), (Reg.PWR_SMON_STATUS_GOODHOLD, 1), (Reg.PWR_SMON_STATUS_CORE_PG, 1)] fun d => d.onPd fun p => { p with failed := true };
      s.dev.pd.failed = true ∧ s.dev.pd.saving = false ∧ s.dev.pd.held = false ∧ (let d1 := s.dev.failSteps;
      d1.armed = false)) ∧
    (let s : State := wst [] fun d => d.onPd fun p => { p with saving := true }; s.dev.pd.saving = true) ∧
    (let s : State := wst [] fun d => d.onPd fun p => { p with saving := true }; s.dev.pd.saving = true) ∧
    (let s : State := wst [] fun d => d; s.dev.pd.saving = false) :=
  ⟨by decide +kernel, by decide +kernel, by decide +kernel, by decide +kernel, by decide +kernel, by decide +kernel,
   by decide +kernel, by decide +kernel⟩

theorem witness_PowerUpAndOutputs :
    (let s : State := wst [] fun d => d; s.dev.pd.held = false ∧ s.dev.pd.generator = false ∧
      (let d1 := (s.dev.setF Reg.PWR_SMON_STATUS_GOOD12 1).setF Reg.PWR_SMON_STATUS_GOOD5 1;
      d1.f Reg.PWR_SMON_STATUS_GOOD12 ≠ 0 ∧ d1.f Reg.PWR_SMON_STATUS_GOOD5 ≠ 0)) ∧
    (let s : State := wst [] fun d => d.onPd fun p => { p with held := true }; s.dev.pd.held = true) ∧
    (let s : State := wst [] fun d => d; s.dev.pd.held = false) ∧
    (let s : State := wst [] fun d => d; (let n := (4 : Nat); 1 ≤ n ∧ n ≤ 4 ∧
      s.dev.hasAct (Act.ofBit ((n - 1) % 2)) = true)) :=
  ⟨by decide +kernel, by decide +kernel, by decide +kernel, by decide +kernel⟩

theorem witness_FaultsAndWatchdogs :
    (let s : State := wst [] fun d => d.onFmg fun m => { m with queue := [(FUnit.felt, 1)] }; (let u := FUnit.felt;
      (let c := (1 : Nat); (let rest := ([] : List (FUnit × Nat)); s.dev.fmg.queue = (u, c) :: rest)))) ∧
    (let s : State := wst [] fun d => d; (let u := FUnit.spindle; s.dev.hasUnit u = true)) ∧
    (let d : Dev := (wst [] fun d => d.onFmg fun m => { m with failed := [FUnit.felt] }).dev; (let u := FUnit.felt;
      (let c := (1 : Nat); (let d1 := d.countFault u c; d1.isFailed u = true)))) ∧
    (let d : Dev := (wst [(Reg.FMG_CFG_LIMIT, 2), (Reg.FMG_CFG_WINDOW, 60)] fun d => d.onFmg fun m => { m with history := [(FUnit.felt, 0)] }).dev;
      (let u := FUnit.felt; (let c := (1 : Nat); (let d1 := d.countFault u c; d1.isFailed u = false ∧
      canFail u = true ∧ d1.f Reg.FMG_CFG_LIMIT ≤ d1.faultCount u)))) ∧
    (let d : Dev := (wst [(Reg.FMG_CFG_LIMIT, 2), (Reg.FMG_CFG_WINDOW, 60)] fun d => d.onFmg fun m => { m with recovering := [FUnit.felt] }).dev;
      (let u := FUnit.felt; (let c := (1 : Nat); (let d1 := d.countFault u c; d1.isFailed u = false ∧
      (canFail u = false ∨ d1.faultCount u < d1.f Reg.FMG_CFG_LIMIT) ∧ d1.isRecovering u = true)))) ∧
    (let d : Dev := (wst [(Reg.FMG_CFG_LIMIT, 2), (Reg.FMG_CFG_WINDOW, 60)] fun d => d.onFmg fun m => { m with history := [] }).dev;
      (let u := FUnit.felt; (let c := (1 : Nat); (let d1 := d.countFault u c; d1.isFailed u = false ∧
      (canFail u = false ∨ d1.faultCount u < d1.f Reg.FMG_CFG_LIMIT) ∧ d1.isRecovering u = false)))) ∧
    (let s : State := wst [(((cpxStateFld Cpx.X)), 3)] fun d => d; (let c := Cpx.X; s.dev.cpxUp c = true)) ∧
    (let s : State := wst [] fun d => d.onBlk .a0 fun b => { b with cur := some breq }; (let a : Act := Act.a0;
      s.dev.hasAct a = true ∧ (s.dev.blk.get a).cur.isSome = true)) ∧
    (let s : State := wst [] fun d => d.onFmg fun m => { m with kicked := true }; s.dev.fmg.kicked = true) ∧
    (let s : State := wst [] fun d => d; s.dev.fmg.kicked = false) ∧
    (let s : State := wst [] fun d => d.setResetting (.core 2) true; (let u := (UnitId.core 2); (let f := (FUnit.core 2);
      s.dev.isResetting u = true ∧ faultUnit u = some f ∧ s.dev.isFailed f = false))) :=
  ⟨by decide +kernel, by decide +kernel, by decide +kernel, by decide +kernel, by decide +kernel, by decide +kernel,
   by decide +kernel, by decide +kernel, by decide +kernel, by decide +kernel, by decide +kernel⟩

theorem witness_UnitRequestsAndResets :
    (let s : State := wst [((Reg.PDM_ON_ON.nth 0), 0xFFFFFFFF), ((Reg.PDM_ON_ON.nth 1), 0xFFFFFFFF), ((Reg.PDM_ON_ON.nth 2), 0xFFFFFFFF)] fun d => { d with units := { d.units with gens := [((UnitId.block .crn).key, 3), ((UnitId.core 0).key, 1)] } };
      (let r := ({ tag := 1, requester := .core 0, target := .block .crn, targetGen := 3, requesterGen := 1 } : UnitReq);
      (let i := (52 : Nat); unitDomain r.target = some i ∧ s.dev.unitPowered r.target = true ∧
      s.dev.isResetting r.target = false ∧ s.dev.gen r.target = r.targetGen ∧ s.dev.gen r.target ≠ 0))) ∧
    (let s : State := wst [((Reg.PDM_ON_ON.nth 0), 0xFFFFFFFF), ((Reg.PDM_ON_ON.nth 1), 0xFFFFFFFF), ((Reg.PDM_ON_ON.nth 2), 0xFFFFFFFF)] fun d => { d with units := { d.units with gens := [((UnitId.block .crn).key, 3), ((UnitId.core 0).key, 1)] } };
      (let r := ({ tag := 1, requester := .core 0, target := .block .crn, targetGen := 2, requesterGen := 1 } : UnitReq);
      (let i := (52 : Nat); unitDomain r.target = some i ∧ s.dev.unitPowered r.target = true ∧
      (s.dev.isResetting r.target = true ∨ s.dev.gen r.target ≠ r.targetGen)))) ∧
    (let s : State := wst [((Reg.PDM_ON_ON.nth 0), 0xFFFFFFFF), ((Reg.PDM_ON_ON.nth 1), 0xFFFFFFFF), ((Reg.PDM_ON_ON.nth 2), 0xFFFFFFFF)] fun d => { d with units := { d.units with gens := [((UnitId.block .crn).key, 3), ((UnitId.core 0).key, 1)], outstanding := [({ tag := 1, requester := .core 0, target := .block .crn, targetGen := 3, requesterGen := 1 } : UnitReq)] } };
      (let r := ({ tag := 1, requester := .core 0, target := .block .crn, targetGen := 3, requesterGen := 1 } : UnitReq);
      (let mine (q : UnitReq) : Bool := decide (q.tag = r.tag ∧ q.requester = r.requester ∧ q.target = r.target);
      r.targetGen = s.dev.gen r.target ∧ r.requesterGen = s.dev.gen r.requester ∧
      s.dev.units.outstanding.any mine = true))) ∧
    (let s : State := wst [((Reg.PDM_ON_ON.nth 0), 0xFFFFFFFF), ((Reg.PDM_ON_ON.nth 1), 0xFFFFFFFF), ((Reg.PDM_ON_ON.nth 2), 0xFFFFFFFF)] fun d => { d with units := { d.units with gens := [((UnitId.block .crn).key, 3), ((UnitId.core 0).key, 1)] } };
      (let r := ({ tag := 1, requester := .core 0, target := .block .crn, targetGen := 2, requesterGen := 1 } : UnitReq);
      (r.targetGen ≠ s.dev.gen r.target ∨ r.requesterGen ≠ s.dev.gen r.requester))) ∧
    (let s : State := wst [] fun d => d; (let u := (UnitId.block .fmg); s.dev.unitPowered u = true ∧
      (u ≠ UnitId.complex .X ∧ u ≠ UnitId.complex .Y))) ∧
    (let s : State := wst [((Reg.PDM_ON_ON.nth 0), 0xFFFFFFFF), ((Reg.PDM_ON_ON.nth 1), 0xFFFFFFFF), ((Reg.PDM_ON_ON.nth 2), 0xFFFFFFFF)] fun d => d;
      (let c := Cpx.X; s.dev.unitPowered (.complex c) = true)) ∧
    (let s : State := wst [((Reg.PDM_ON_ON.nth 0), 0xFFFFFFFF), ((Reg.PDM_ON_ON.nth 1), 0xFFFFFFFF), ((Reg.PDM_ON_ON.nth 2), 0xFFFFFFFF)] fun d => d.setResetting (.core 3) true;
      (let n := (3 : Fin 4); s.dev.isResetting (.core n) = true ∧ s.dev.unitPowered (.core n) = true ∧
      s.dev.isFailed (.core n) = false)) ∧
    (let s : State := wst [((Reg.PDM_ON_ON.nth 0), 0xFFFFFFFF), ((Reg.PDM_ON_ON.nth 1), 0xFFFFFFFF), ((Reg.PDM_ON_ON.nth 2), 0xFFFFFFFF)] fun d => d.setResetting (.complex .Y) true;
      (let c := Cpx.Y; s.dev.isResetting (.complex c) = true ∧ s.dev.unitPowered (.complex c) = true ∧
      s.dev.isFailed (.complex c) = false)) :=
  ⟨by decide +kernel, by decide +kernel, by decide +kernel, by decide +kernel, by decide +kernel, by decide +kernel,
   by decide +kernel, by decide +kernel⟩

theorem witness_IdentifyLogsAndFeatures :
    (let s : State := wst [] fun d => online d; (let id : CmdId := cid; s.dev.admits id = true ∧
      (let d := s.dev.wakeHost id.port; (let cns := (1 : Nat); (let ns := (1 : Nat); (let csi := (0 : Nat);
      (d.identify id.port cns ns csi).isSome = true)))))) ∧
    (let s : State := wst [] fun d => online d; (let id : CmdId := cid; s.dev.admits id = true ∧
      (let d := s.dev.wakeHost id.port; (let cns := (255 : Nat); (let ns := (1 : Nat); (let csi := (0 : Nat);
      d.identify id.port cns ns csi = none)))))) ∧
    (let s : State := wst [] fun d => online d; (let id : CmdId := cid; s.dev.admits id = true ∧
      (let d := s.dev.wakeHost id.port; (let lid := (2 : Nat); (d.logPage id.port lid).isSome = true)))) ∧
    (let s : State := wst [] fun d => online d; (let id : CmdId := cid; s.dev.admits id = true ∧
      (let d := s.dev.wakeHost id.port; (let lid := (255 : Nat); d.logPage id.port lid = none ∧ lid ≠ 0x0D)))) ∧
    (let s : State := wst [] fun d => online d; (let id : CmdId := cid; s.dev.admits id = true ∧ (let retain := true;
      retain = true))) ∧
    (let s : State := wst [] fun d => online d; (let id : CmdId := cid; s.dev.admits id = true)) ∧
    (let s : State := wst [] fun d => online d; (let id : CmdId := cid; s.dev.admits id = true ∧
      (s.dev.ctrl id.port).pel = none)) ∧
    (let s : State := wst [] fun d => online d; (let id : CmdId := cid; s.dev.admits id = true ∧ (let ps := (4 : Nat);
      ps ≤ 4))) ∧
    (let s : State := wst [] fun d => online d; (let id : CmdId := cid; s.dev.admits id = true ∧ (let ps := (5 : Nat);
      4 < ps))) ∧
    (let s : State := wst [] fun d => online d; (let id : CmdId := cid; s.dev.admits id = true ∧ (let a := (65534 : Nat);
      (let b := (0 : Nat); a ≠ 65535 ∧ b ≠ 65535)))) ∧
    (let s : State := wst [] fun d => online d; (let id : CmdId := cid; s.dev.admits id = true ∧
      (let d := s.dev.wakeHost id.port; (let fid := (2 : Nat); (let sel := (0 : Nat); (let v := (0 : Nat);
      d.feature id.port fid sel = some v ∧ fid ≠ 0x0E)))))) ∧
    (let s : State := wst [] fun d => online d; (let id : CmdId := cid; s.dev.admits id = true ∧
      (let d := s.dev.wakeHost id.port; (let fid := (0xFF : Nat); (let sel := (0 : Nat);
      d.feature id.port fid sel = none))))) ∧
    (let s : State := wst [] fun d => online d; (let id : CmdId := cid; s.dev.admits id = true ∧ (let ns := (2 : Nat);
      (ns = 1 ∨ ns = 2)))) :=
  ⟨by decide +kernel, by decide +kernel, by decide +kernel, by decide +kernel, by decide +kernel, by decide +kernel,
   by decide +kernel, by decide +kernel, by decide +kernel, by decide +kernel, by decide +kernel, by decide +kernel,
   by decide +kernel⟩

theorem witness_ManagementInterface :
    (let s : State := wst [] fun d => online d; (let id : CmdId := cid; s.dev.admits id = true)) ∧
    (let s : State := wst [] fun d => (online d).onCtrl .A fun c => { c with miReply := some [("STATUS", 0)] };
      (let id : CmdId := cid; s.dev.admits id = true ∧ ((s.dev.ctrl id.port).miReply).isSome = true)) ∧
    (let s : State := wst [(Reg.SYS_BOOT_STEP, 5)] fun d => d; (let p := Port.A; s.dev.serves (.miBus p) = true)) ∧
    (let s : State := wst [(Reg.SYS_BOOT_STEP, 5)] fun d => d; (let p := Port.A; s.dev.serves (.miBus p) = true ∧
      (let c := Port.A; s.dev.hasPort c = true))) ∧
    (let s : State := wst [(Reg.SYS_BOOT_STEP, 4)] fun d => d; (let p := Port.A; s.dev.serves (.miBus p) = false)) :=
  ⟨by decide +kernel, by decide +kernel, by decide +kernel, by decide +kernel, by decide +kernel⟩

theorem witness_RegisterFabric :
    (let s : State := wst [] fun d => { d with variant := .S }; (let addr := (0x310000 : Nat);
      s.dev.absentAt addr = true)) ∧
    (let s : State := wst [] fun d => d; (let addr := Reg.SIZ_STATUS; (let b := (Block.siz); s.dev.absentAt addr = false ∧
      addr ≠ Reg.TICK_NOW_LO ∧ addr ≠ Reg.TICK_NOW_HI ∧ addr ≠ Reg.HBR_WIN_WORD.addr + 28 ∧ blockOf addr = some b ∧
      (b ≠ .cst Act.a0 ∧ b ≠ .srv Act.a0 ∧ b ≠ .cst Act.a1 ∧ b ≠ .srv Act.a1)))) ∧
    (let s : State := wst [] fun d => d; (let addr := Reg.FMG_CFG; (let b := Block.fmg;
      (addr < 0x600000 ∨ 0x600200 ≤ addr) ∧ addr ≠ Reg.CRN_MAINT ∧ blockOf addr = some b ∧
      s.dev.honours false addr = true ∧ addr ≠ blkCtlAddr .a0 ∧ addr ≠ blkCtlAddr .a1 ∧ (b ≠ .cst Act.a0 ∧
      b ≠ .afe Act.a0 ∧ b ≠ .tnl Act.a0 ∧ b ≠ .srv Act.a0 ∧ b ≠ .cst Act.a1 ∧ b ≠ .afe Act.a1 ∧ b ≠ .tnl Act.a1 ∧
      b ≠ .srv Act.a1) ∧
      addr ∉ [Reg.SIZ_CTL, Reg.SPN_CTL, Reg.PWR_RET_CTL, Reg.BUF_TEST_CTL, Reg.DMC_TEST_CTL, Reg.FUL_CTL, Reg.FUL_RING_TAIL, Reg.HBR_CURSOR, Reg.CPX_CTL, Reg.FMG_KICK]))) ∧
    (let d : Dev := (wst [] fun d => { d with variant := .S }).dev; (let addr := (0x310000 : Nat);
      d.absentAt addr = true)) ∧
    (let s : State := wst [] fun d => d; (let w := 1#32; testBit w.toNat 0 = true ∧
      s.dev.honours false Reg.FMG_KICK = true)) :=
  ⟨by decide +kernel, by decide +kernel, by decide +kernel, by decide +kernel, by decide +kernel⟩

theorem witness_StartUpFirmware :
    (let s : State := wst [(Reg.PWR_SMON_STATUS_GOOD5, 1), (Reg.PWR_SMON_STATUS_GOOD12, 1), (Reg.SYS_BOOT_STEP, 1)] fun d => d;
      s.dev.pd.held = false ∧ s.dev.pd.generator = false ∧ s.dev.bootStep = 1 ∧
      s.dev.f Reg.PWR_SMON_STATUS_GOOD12 ≠ 0 ∧ s.dev.f Reg.PWR_SMON_STATUS_GOOD5 ≠ 0) ∧
    (let s : State := wst [(Reg.SYS_BOOT_STEP, 2)] fun d => d; s.dev.bootStep = 2 ∧ s.dev.hb.ready = false) ∧
    (let s : State := wst [(Reg.SYS_BOOT_STEP, 2)] fun d => d.onHb fun h => { h with ready := true }; s.dev.bootStep = 2 ∧
      s.dev.hb.ready = true) ∧
    (let s : State := wst [(Reg.SYS_BOOT_STEP, 3)] fun d => burn true 0 fwImage d; (let a := true; (let b := true;
      s.dev.bootStep = 3 ∧ s.dev.inRecovery = false ∧ s.dev.nv.badSlots = [] ∧
      (let c := bootChoice (s.dev.opt 4 1 0) s.dev.nv.boot; (let d1 := s.dev.setBoot c.2.1;
      (let d2 := if c.2.2 then (d1.setF Reg.NVC_BOOT_FALLBACK 1).event Ev.bootFallback .nvc ((d1.setF Reg.NVC_BOOT_FALLBACK 1).reg Reg.NVC_BOOT).toNat 0 else d1;
      (let first := d2.slotSound ⟨a, b⟩ c.1; first.1 = true))))))) ∧
    (let s : State := wst [(Reg.SYS_BOOT_STEP, 3)] fun d => burn true 1 fwImage d; (let a := true; (let b := true;
      s.dev.bootStep = 3 ∧ s.dev.inRecovery = false ∧ s.dev.nv.badSlots = [] ∧
      (let c := bootChoice (s.dev.opt 4 1 0) s.dev.nv.boot; (let d1 := s.dev.setBoot c.2.1;
      (let d2 := if c.2.2 then (d1.setF Reg.NVC_BOOT_FALLBACK 1).event Ev.bootFallback .nvc ((d1.setF Reg.NVC_BOOT_FALLBACK 1).reg Reg.NVC_BOOT).toNat 0 else d1;
      (let first := d2.slotSound ⟨a, b⟩ c.1; first.1 = false))))))) ∧
    (let s : State := wst [(Reg.SYS_BOOT_STEP, 4), (Reg.NVC_BOOT_FW_BOOTED, 0)] fun d => burn true 0 fwImage d;
      (let slot := (0 : Nat);
      (let r := ((wst [(Reg.SYS_BOOT_STEP, 4), (Reg.NVC_BOOT_FW_BOOTED, 0)] fun d => burn true 0 fwImage d).dev.slotImage true 0);
      s.dev.bootStep = 4 ∧ s.dev.inRecovery = false ∧ s.dev.f Reg.NVC_BOOT_FW_BOOTED = slot ∧ (let bs := fwImage;
      r.1 = some bs ∧ (imageBody bs).isSome = true)))) ∧
    (let s : State := wst [(Reg.SYS_BOOT_STEP, 4), (Reg.NVC_BOOT_FW_BOOTED, 0)] fun d => burn true 0 (fwImage.take 276 ++ [9] ++ fwImage.drop 277) d;
      (let slot := (0 : Nat);
      (let r := ((wst [(Reg.SYS_BOOT_STEP, 4), (Reg.NVC_BOOT_FW_BOOTED, 0)] fun d => burn true 0 (fwImage.take 276 ++ [9] ++ fwImage.drop 277) d).dev.slotImage true 0);
      s.dev.bootStep = 4 ∧ s.dev.inRecovery = false ∧ s.dev.f Reg.NVC_BOOT_FW_BOOTED = slot ∧
      (let bs := (fwImage.take 276 ++ [9] ++ fwImage.drop 277); r.1 = some bs ∧ imageBody bs = none ∧
      r.2.nv.badSlots = [] ∧ slot < 2)))) ∧
    (let s : State := wst [(Reg.SYS_BOOT_STEP, 5)] fun d => d; s.dev.bootStep = 5 ∧ s.dev.f Reg.SYS_BOOT_DRAM_CH = 0 ∧
      s.dev.f Reg.FMG_STATUS_HOLD ≠ 1 ∧ (let c0 := true; (let c1 := false; (c0 || c1) = true))) ∧
    (let s : State := wst [(Reg.SYS_BOOT_STEP, 5)] fun d => d; s.dev.bootStep = 5 ∧ s.dev.f Reg.SYS_BOOT_DRAM_CH = 0 ∧
      s.dev.f Reg.FMG_STATUS_HOLD ≠ 1) :=
  ⟨by decide +kernel, by decide +kernel, by decide +kernel, by decide +kernel, by decide +kernel, by decide +kernel,
   by decide +kernel, by decide +kernel, by decide +kernel⟩

theorem witness_StartUpService :
    (let s : State := wst [(Reg.SYS_BOOT_STEP, 6), (Reg.DMC_FENCE_DONE, 1), (Reg.CPX_SEM_HOLDER, 6)] fun d => d;
      s.dev.bootStep = 6 ∧ s.dev.f Reg.DMC_FENCE_DONE ≠ 0 ∧ s.dev.busy = false ∧ s.dev.semHolder = 6) ∧
    (let s : State := wst [(Reg.SYS_BOOT_STEP, 6), (Reg.DMC_FENCE_DONE, 1)] fun d => burn false 0 (image 0x4B480002) d;
      (let a := true; (let b := true; s.dev.bootStep = 6 ∧ s.dev.f Reg.DMC_FENCE_DONE ≠ 0 ∧ s.dev.busy = false ∧
      s.dev.semHolder ≠ 6 ∧ s.dev.host.mayReady = false ∧ s.dev.semOpen 6 = true ∧
      (let d := ((s.dev.semGrant 6).semBegin.domainsUp Training.blank [13, 28]); (let p := d.nv.boot.profSel;
      (let r := d.slotFault false ((Two.mk a b).get p) p; r.1 = 0)))))) ∧
    (let s : State := wst [(Reg.SYS_BOOT_STEP, 6), (Reg.DMC_FENCE_DONE, 1)] fun d => burn false 1 (image 0x4B480002) d;
      (let a := true; (let b := true; s.dev.bootStep = 6 ∧ s.dev.f Reg.DMC_FENCE_DONE ≠ 0 ∧ s.dev.busy = false ∧
      s.dev.semHolder ≠ 6 ∧ s.dev.host.mayReady = false ∧ s.dev.semOpen 6 = true ∧
      (let d := ((s.dev.semGrant 6).semBegin.domainsUp Training.blank [13, 28]); (let p := d.nv.boot.profSel;
      (let r := d.slotFault false ((Two.mk a b).get p) p;
      (let q := r.2.slotFault false ((Two.mk a b).get (1 - p)) (1 - p); r.1 ≠ 0 ∧ q.1 = 0))))))) ∧
    (let s : State := wst [(Reg.SYS_BOOT_STEP, 6), (Reg.DMC_FENCE_DONE, 1)] fun d => d; (let a := true; (let b := true;
      s.dev.bootStep = 6 ∧ s.dev.f Reg.DMC_FENCE_DONE ≠ 0 ∧ s.dev.busy = false ∧ s.dev.semHolder ≠ 6 ∧
      s.dev.host.mayReady = false ∧ s.dev.semOpen 6 = true ∧
      (let d := ((s.dev.semGrant 6).semBegin.domainsUp Training.blank [13, 28]); (let p := d.nv.boot.profSel;
      (let r := d.slotFault false ((Two.mk a b).get p) p;
      (let q := r.2.slotFault false ((Two.mk a b).get (1 - p)) (1 - p); r.1 ≠ 0 ∧ q.1 ≠ 0))))))) ∧
    (let s : State := wst [(Reg.SYS_BOOT_STEP, 7), (Reg.SIZ_STATUS_SAFE, 1)] fun d => d; s.dev.bootStep = 7 ∧
      s.dev.f Reg.FMG_STATUS_HOLD ≠ 1 ∧
      (let d2 := (((s.dev.setF Reg.NVC_FL_MODE_NESTED 0).onHost fun h => { h with mayReady := true }).checkReady .A).checkReady .B;
      d2.safe = true)) ∧
    (let s : State := wst [(Reg.SYS_BOOT_STEP, 7), (Reg.FMG_CFG_RESTARTS, 0)] fun d => d; s.dev.bootStep = 7 ∧
      s.dev.f Reg.FMG_STATUS_HOLD ≠ 1 ∧
      (let d2 := (((s.dev.setF Reg.NVC_FL_MODE_NESTED 0).onHost fun h => { h with mayReady := true }).checkReady .A).checkReady .B;
      d2.safe = false ∧ d2.f Reg.FMG_CFG_RESTARTS ≤ d2.recentRestarts.length)) ∧
    (let s : State := wst [(Reg.SYS_BOOT_STEP, 7), (Reg.FMG_CFG_RESTARTS, 3)] fun d => d; s.dev.bootStep = 7 ∧
      s.dev.f Reg.FMG_STATUS_HOLD ≠ 1 ∧
      (let d2 := (((s.dev.setF Reg.NVC_FL_MODE_NESTED 0).onHost fun h => { h with mayReady := true }).checkReady .A).checkReady .B;
      d2.safe = false ∧ d2.recentRestarts.length < d2.f Reg.FMG_CFG_RESTARTS)) ∧
    (let s : State := wst [(Reg.SYS_BOOT_STEP, 9), ((Reg.SRV_LOAD_STATUS_STATE.on .a0), 2), ((Reg.SRV_LOAD_STATUS_STATE.on .a1), 2)] fun d => d;
      s.dev.bootStep = 9 ∧ s.dev.fmg.mediaOff = false ∧
      (s.dev.bootActs.all fun a => decide (s.dev.loadState a = 2)) = true) ∧
    (let s : State := wst [(Reg.SYS_BOOT_STEP, 9)] fun d => d; s.dev.bootStep = 9 ∧ s.dev.fmg.mediaOff = false ∧
      (s.dev.bootActs.all fun a => decide (s.dev.loadState a = 2)) = false) ∧
    (let s : State := wst [(Reg.SYS_BOOT_STEP, 10), (Reg.PWR_VAULT_REASON_RESTORE, 1)] fun d => { d with media := { d.media with sysSeq := ⟨1, 1⟩ } };
      s.dev.bootStep = 10 ∧ s.dev.fmg.mediaOff = false ∧ s.dev.f Reg.PWR_VAULT_REASON_RESTORE ≠ 0 ∧
      s.dev.f Reg.SYS_BOOT_RESULT = 0) ∧
    (let s : State := wst [(Reg.SYS_BOOT_STEP, 10), (Reg.PWR_VAULT_REASON_RESTORE, 1)] fun d => ({ d with media := { d.media with sysSeq := ⟨1, 1⟩ } }).onNv fun n => { n with formatted := true };
      s.dev.bootStep = 10 ∧ s.dev.fmg.mediaOff = false ∧ s.dev.f Reg.PWR_VAULT_REASON_RESTORE ≠ 0 ∧
      s.dev.f Reg.SYS_BOOT_RESULT = 0 ∧ s.dev.nv.formatted = true) ∧
    (let s : State := wst [(Reg.SYS_BOOT_STEP, 10), (Reg.PWR_VAULT_REASON_RESTORE, 1)] fun d => { d with media := { d.media with sysSeq := ⟨1, 1⟩ } };
      s.dev.bootStep = 10 ∧ s.dev.fmg.mediaOff = false ∧ s.dev.f Reg.PWR_VAULT_REASON_RESTORE ≠ 0 ∧
      s.dev.f Reg.SYS_BOOT_RESULT = 0 ∧ s.dev.nv.formatted = false) ∧
    (let s : State := wst [(Reg.SYS_BOOT_STEP, 10), (Reg.PWR_VAULT_REASON_RESTORE, 0)] fun d => d; s.dev.bootStep = 10 ∧
      s.dev.f Reg.PWR_VAULT_REASON_RESTORE ≠ 1 ∧ s.dev.f Reg.SYS_BOOT_RESULT = 0 ∧ s.dev.fmg.mediaOff = false) :=
  ⟨by decide +kernel, by decide +kernel, by decide +kernel, by decide +kernel, by decide +kernel, by decide +kernel,
   by decide +kernel, by decide +kernel, by decide +kernel, by decide +kernel, by decide +kernel, by decide +kernel,
   by decide +kernel⟩

theorem witness_SessionAndRegisterPackets :
    (let s : State := wst [(Reg.SYS_BOOT_STEP, 11)] fun d => d; (let path := Path.uart; (let ws := (sample 0x0001);
      (let q := s.dev.mpiPath path; let p := Packet.ofWords ws; p.op = 0x0001 ∧ s.dev.serves path = true ∧
      q.wait = none ∧ (pathIsNvme path = false ∨ q.unread = false) ∧ p.crcOk = true ∧ ws.length ≤ 16384 ∧
      (pathKeeps path = false ∨ q.last ≠ some (p.seq, ws.getD (ws.length - 1) 0)) ∧
      s.dev.packetFault path (holderOf path) false p = none)))) ∧
    (let s : State := wst [(Reg.SYS_BOOT_STEP, 11)] fun d => d; (let path := Path.uart; (let ws := (sample 0x0002);
      (let q := s.dev.mpiPath path; let p := Packet.ofWords ws; p.op = 0x0002 ∧ s.dev.serves path = true ∧
      q.wait = none ∧ (pathIsNvme path = false ∨ q.unread = false) ∧ p.crcOk = true ∧ ws.length ≤ 16384 ∧
      (pathKeeps path = false ∨ q.last ≠ some (p.seq, ws.getD (ws.length - 1) 0)) ∧
      s.dev.packetFault path (holderOf path) false p = none)))) ∧
    (let s : State := wst [(Reg.SYS_BOOT_STEP, 11)] fun d => d; (let path := Path.uart; (let ws := (sample 0x0003);
      (let q := s.dev.mpiPath path; let p := Packet.ofWords ws; p.op = 0x0003 ∧ s.dev.serves path = true ∧
      q.wait = none ∧ (pathIsNvme path = false ∨ q.unread = false) ∧ p.crcOk = true ∧ ws.length ≤ 16384 ∧
      (pathKeeps path = false ∨ q.last ≠ some (p.seq, ws.getD (ws.length - 1) 0)) ∧
      s.dev.packetFault path (holderOf path) false p = none)))) ∧
    (let s : State := wst [(Reg.SYS_BOOT_STEP, 11)] fun d => d; (let path := Path.uart; (let ws := (sample 0x0004);
      (let q := s.dev.mpiPath path; let p := Packet.ofWords ws; p.op = 0x0004 ∧ s.dev.serves path = true ∧
      q.wait = none ∧ (pathIsNvme path = false ∨ q.unread = false) ∧ p.crcOk = true ∧ ws.length ≤ 16384 ∧
      (pathKeeps path = false ∨ q.last ≠ some (p.seq, ws.getD (ws.length - 1) 0)) ∧
      s.dev.packetFault path (holderOf path) false p = none)))) ∧
    (let s : State := wst [(Reg.SYS_BOOT_STEP, 11)] fun d => d; (let path := Path.uart; (let ws := (sample 0x0005);
      (let q := s.dev.mpiPath path; let p := Packet.ofWords ws; p.op = 0x0005 ∧ s.dev.serves path = true ∧
      q.wait = none ∧ (pathIsNvme path = false ∨ q.unread = false) ∧ p.crcOk = true ∧ ws.length ≤ 16384 ∧
      (pathKeeps path = false ∨ q.last ≠ some (p.seq, ws.getD (ws.length - 1) 0)) ∧
      s.dev.packetFault path (holderOf path) false p = none)))) ∧
    (let s : State := wst [(Reg.SYS_BOOT_STEP, 11)] fun d => d; (let path := Path.uart; (let ws := (sample 0x0006);
      (let q := s.dev.mpiPath path; let p := Packet.ofWords ws; p.op = 0x0006 ∧ s.dev.serves path = true ∧
      q.wait = none ∧ (pathIsNvme path = false ∨ q.unread = false) ∧ p.crcOk = true ∧ ws.length ≤ 16384 ∧
      (pathKeeps path = false ∨ q.last ≠ some (p.seq, ws.getD (ws.length - 1) 0)) ∧
      s.dev.packetFault path (holderOf path) false p = none)))) ∧
    (let s : State := wst [(Reg.SYS_BOOT_STEP, 11)] fun d => d; (let path := Path.uart; (let ws := (sample 0x0007);
      (let q := s.dev.mpiPath path; let p := Packet.ofWords ws; p.op = 0x0007 ∧ s.dev.serves path = true ∧
      q.wait = none ∧ (pathIsNvme path = false ∨ q.unread = false) ∧ p.crcOk = true ∧ ws.length ≤ 16384 ∧
      (pathKeeps path = false ∨ q.last ≠ some (p.seq, ws.getD (ws.length - 1) 0)) ∧
      s.dev.packetFault path (holderOf path) false p = none)))) ∧
    (let s : State := wst [(Reg.SYS_BOOT_STEP, 11)] fun d => d; (let path := Path.uart; (let ws := (sample 0x0101);
      (let q := s.dev.mpiPath path; let p := Packet.ofWords ws; p.op = 0x0101 ∧ s.dev.serves path = true ∧
      q.wait = none ∧ (pathIsNvme path = false ∨ q.unread = false) ∧ p.crcOk = true ∧ ws.length ≤ 16384 ∧
      (pathKeeps path = false ∨ q.last ≠ some (p.seq, ws.getD (ws.length - 1) 0)) ∧
      s.dev.packetFault path (holderOf path) false p = none)))) ∧
    (let s : State := wst [(Reg.SYS_BOOT_STEP, 11)] fun d => d; (let path := Path.uart; (let ws := (sample 0x0102);
      (let q := s.dev.mpiPath path; let p := Packet.ofWords ws; p.op = 0x0102 ∧ s.dev.serves path = true ∧
      q.wait = none ∧ (pathIsNvme path = false ∨ q.unread = false) ∧ p.crcOk = true ∧ ws.length ≤ 16384 ∧
      (pathKeeps path = false ∨ q.last ≠ some (p.seq, ws.getD (ws.length - 1) 0)) ∧
      s.dev.packetFault path (holderOf path) false p = none)))) ∧
    (let s : State := wst [(Reg.SYS_BOOT_STEP, 11)] fun d => d; (let path := Path.uart; (let ws := (sample 0x0103);
      (let q := s.dev.mpiPath path; let p := Packet.ofWords ws; p.op = 0x0103 ∧ s.dev.serves path = true ∧
      q.wait = none ∧ (pathIsNvme path = false ∨ q.unread = false) ∧ p.crcOk = true ∧ ws.length ≤ 16384 ∧
      (pathKeeps path = false ∨ q.last ≠ some (p.seq, ws.getD (ws.length - 1) 0)) ∧
      s.dev.packetFault path (holderOf path) false p = none)))) ∧
    (let s : State := wst [(Reg.SYS_BOOT_STEP, 11)] fun d => d; (let path := Path.uart; (let ws := (sample 0x0104);
      (let q := s.dev.mpiPath path; let p := Packet.ofWords ws; p.op = 0x0104 ∧ s.dev.serves path = true ∧
      q.wait = none ∧ (pathIsNvme path = false ∨ q.unread = false) ∧ p.crcOk = true ∧ ws.length ≤ 16384 ∧
      (pathKeeps path = false ∨ q.last ≠ some (p.seq, ws.getD (ws.length - 1) 0)) ∧
      s.dev.packetFault path (holderOf path) false p = none)))) ∧
    (let s : State := wst [(Reg.SYS_BOOT_STEP, 11)] fun d => d; (let path := Path.uart; (let ws := (sample 0x0105);
      (let q := s.dev.mpiPath path; let p := Packet.ofWords ws; p.op = 0x0105 ∧ s.dev.serves path = true ∧
      q.wait = none ∧ (pathIsNvme path = false ∨ q.unread = false) ∧ p.crcOk = true ∧ ws.length ≤ 16384 ∧
      (pathKeeps path = false ∨ q.last ≠ some (p.seq, ws.getD (ws.length - 1) 0)) ∧
      s.dev.packetFault path (holderOf path) false p = none)))) ∧
    (let s : State := wst [(Reg.SYS_BOOT_STEP, 11), (Reg.SIZ_STATUS_SAFE, 1)] fun d => d; (let path := Path.uart;
      (let ws := (sample 0x0106); (let q := s.dev.mpiPath path; let p := Packet.ofWords ws; p.op = 0x0106 ∧
      s.dev.serves path = true ∧ q.wait = none ∧ (pathIsNvme path = false ∨ q.unread = false) ∧ p.crcOk = true ∧
      ws.length ≤ 16384 ∧ (pathKeeps path = false ∨ q.last ≠ some (p.seq, ws.getD (ws.length - 1) 0)) ∧
      s.dev.packetFault path (holderOf path) false p = none)))) ∧
    (let d : Dev := (wst [] fun d => d).dev; (let c : Call := (call 0x0002 []); d.semOpen c.holder = true)) ∧
    (let d : Dev := (wst [(Reg.CPX_SEM_HOLDER, 1)] fun d => d).dev; (let c : Call := (call 0x0002 []);
      d.semOpen c.holder = false)) ∧
    (let d : Dev := (wst [(Reg.CPX_SEM_HOLDER, 5)] fun d => d).dev; (let c : Call := (call 0x0002 []);
      d.semHolder = c.holder ∧ c.holder ≠ 0 ∧ d.sem.ops = 0)) ∧
    (let d : Dev := (wst [(Reg.CPX_SEM_HOLDER, 1)] fun d => d).dev; (let c : Call := (call 0x0002 []); d.semHolder ≠ 0 ∧
      d.semHolder ≠ c.holder)) ∧
    (let d : Dev := (wst [] fun d => d.onMpi fun m => { m with jobs := [({ no := 0, op := 0x0302, arg := 0, progress := 0, done := true, status := 0, result := [], trims := [], endedAt := 0 } : MpiJob)] }).dev;
      (let c : Call := (call 0x0006 [(Ty.job, 0)]);
      (let j := ({ no := 0, op := 0x0302, arg := 0, progress := 0, done := true, status := 0, result := [], trims := [], endedAt := 0 } : MpiJob);
      (d.mpi.jobs.find? fun j => decide (j.no = c.num Ty.job)) = some j ∧ j.done = true))) ∧
    (let d : Dev := (wst [] fun d => d.onMpi fun m => { m with jobs := [({ no := 0, op := 0x0302, arg := 0, progress := 0, done := false, status := 0, result := [], trims := [], endedAt := 0 } : MpiJob)] }).dev;
      (let c : Call := (call 0x0006 [(Ty.job, 0)]);
      (let j := ({ no := 0, op := 0x0302, arg := 0, progress := 0, done := false, status := 0, result := [], trims := [], endedAt := 0 } : MpiJob);
      (d.mpi.jobs.find? fun j => decide (j.no = c.num Ty.job)) = some j ∧ j.done = false))) ∧
    (let d : Dev := (wst [] fun d => d).dev; (let c : Call := (call 0x0006 [(Ty.job, 9)]);
      (d.mpi.jobs.find? fun j => decide (j.no = c.num Ty.job)) = none)) ∧
    (let d : Dev := (wst [] fun d => d.onMpi fun m => { m with jobs := [({ no := 0, op := 0x0302, arg := 0, progress := 0, done := false, status := 0, result := [], trims := [], endedAt := 0 } : MpiJob)] }).dev;
      (let c : Call := (call 0x0006 [(Ty.job, 0)]);
      (let j := ({ no := 0, op := 0x0302, arg := 0, progress := 0, done := false, status := 0, result := [], trims := [], endedAt := 0 } : MpiJob);
      (d.mpi.jobs.find? fun j => decide (j.no = c.num Ty.job)) = some j ∧ j.op ≠ 0x0503))) ∧
    (let c : Call := (call 0x0101 [(Ty.addr, 0), (Ty.count, 1024)]); c.num Ty.addr % 4 = 0 ∧ 0 < c.p.num Ty.count 1 ∧
      c.p.num Ty.count 1 ≤ 1024) ∧
    (let c : Call := (call 0x0101 [(Ty.addr, 2)]); c.num Ty.addr % 4 ≠ 0) ∧
    (let c : Call := (call 0x0102 [(Ty.addr, 0), (Ty.data, 7)]); (let w := 7#32; c.num Ty.addr % 4 = 0 ∧ c.data = [w])) ∧
    (let d : Dev := (wst [] fun d => d).dev; (let c : Call := (call 0x0106 [(Ty.space, 1), (Ty.addr, 0), (Ty.data, 7)]);
      c.num Ty.space ≤ 1 ∧
      c.num Ty.addr + (((c.p.get Ty.data).map Tlv.bytes).getD []).length ≤ d.spaceSize (c.num Ty.space))) ∧
    (let c : Call := (call 0x0106 [(Ty.space, 2), (Ty.addr, 0), (Ty.data, 7)]); 1 < c.num Ty.space) :=
  ⟨by decide +kernel, by decide +kernel, by decide +kernel, by decide +kernel, by decide +kernel, by decide +kernel,
   by decide +kernel, by decide +kernel, by decide +kernel, by decide +kernel, by decide +kernel, by decide +kernel,
   by decide +kernel, by decide +kernel, by decide +kernel, by decide +kernel, by decide +kernel, by decide +kernel,
   by decide +kernel, by decide +kernel, by decide +kernel, by decide +kernel, by decide +kernel, by decide +kernel,
   by decide +kernel, by decide +kernel⟩

theorem witness_ConfigurationPackets :
    (let s : State := wst [(Reg.SYS_BOOT_STEP, 11)] fun d => d; (let path := Path.uart; (let ws := (sample 0x0201);
      (let q := s.dev.mpiPath path; let p := Packet.ofWords ws; p.op = 0x0201 ∧ s.dev.serves path = true ∧
      q.wait = none ∧ (pathIsNvme path = false ∨ q.unread = false) ∧ p.crcOk = true ∧ ws.length ≤ 16384 ∧
      (pathKeeps path = false ∨ q.last ≠ some (p.seq, ws.getD (ws.length - 1) 0)) ∧
      s.dev.packetFault path (holderOf path) false p = none)))) ∧
    (let s : State := wst [(Reg.SYS_BOOT_STEP, 11)] fun d => d; (let path := Path.uart; (let ws := (sample 0x0202);
      (let q := s.dev.mpiPath path; let p := Packet.ofWords ws; p.op = 0x0202 ∧ s.dev.serves path = true ∧
      q.wait = none ∧ (pathIsNvme path = false ∨ q.unread = false) ∧ p.crcOk = true ∧ ws.length ≤ 16384 ∧
      (pathKeeps path = false ∨ q.last ≠ some (p.seq, ws.getD (ws.length - 1) 0)) ∧
      s.dev.packetFault path (holderOf path) false p = none)))) ∧
    (let s : State := wst [(Reg.SYS_BOOT_STEP, 11)] fun d => d; (let path := Path.uart; (let ws := (sample 0x0203);
      (let q := s.dev.mpiPath path; let p := Packet.ofWords ws; p.op = 0x0203 ∧ s.dev.serves path = true ∧
      q.wait = none ∧ (pathIsNvme path = false ∨ q.unread = false) ∧ p.crcOk = true ∧ ws.length ≤ 16384 ∧
      (pathKeeps path = false ∨ q.last ≠ some (p.seq, ws.getD (ws.length - 1) 0)) ∧
      s.dev.packetFault path (holderOf path) false p = none)))) ∧
    (let s : State := wst [(Reg.SYS_BOOT_STEP, 11)] fun d => d; (let path := Path.uart; (let ws := (sample 0x0204);
      (let q := s.dev.mpiPath path; let p := Packet.ofWords ws; p.op = 0x0204 ∧ s.dev.serves path = true ∧
      q.wait = none ∧ (pathIsNvme path = false ∨ q.unread = false) ∧ p.crcOk = true ∧ ws.length ≤ 16384 ∧
      (pathKeeps path = false ∨ q.last ≠ some (p.seq, ws.getD (ws.length - 1) 0)) ∧
      s.dev.packetFault path (holderOf path) false p = none)))) ∧
    (let s : State := wst [(Reg.SYS_BOOT_STEP, 11)] fun d => d; (let path := Path.uart; (let ws := (sample 0x0205);
      (let q := s.dev.mpiPath path; let p := Packet.ofWords ws; p.op = 0x0205 ∧ s.dev.serves path = true ∧
      q.wait = none ∧ (pathIsNvme path = false ∨ q.unread = false) ∧ p.crcOk = true ∧ ws.length ≤ 16384 ∧
      (pathKeeps path = false ∨ q.last ≠ some (p.seq, ws.getD (ws.length - 1) 0)) ∧
      s.dev.packetFault path (holderOf path) false p = none)))) ∧
    (let s : State := wst [(Reg.SYS_BOOT_STEP, 11)] fun d => d; (let path := Path.uart; (let ws := (sample 0x0206);
      (let q := s.dev.mpiPath path; let p := Packet.ofWords ws; p.op = 0x0206 ∧ s.dev.serves path = true ∧
      q.wait = none ∧ (pathIsNvme path = false ∨ q.unread = false) ∧ p.crcOk = true ∧ ws.length ≤ 16384 ∧
      (pathKeeps path = false ∨ q.last ≠ some (p.seq, ws.getD (ws.length - 1) 0)) ∧
      s.dev.packetFault path (holderOf path) false p = none)))) ∧
    (let s : State := wst [(Reg.SYS_BOOT_STEP, 11)] fun d => d; (let path := Path.uart; (let ws := (sample 0x0207);
      (let q := s.dev.mpiPath path; let p := Packet.ofWords ws; p.op = 0x0207 ∧ s.dev.serves path = true ∧
      q.wait = none ∧ (pathIsNvme path = false ∨ q.unread = false) ∧ p.crcOk = true ∧ ws.length ≤ 16384 ∧
      (pathKeeps path = false ∨ q.last ≠ some (p.seq, ws.getD (ws.length - 1) 0)) ∧
      s.dev.packetFault path (holderOf path) false p = none)))) ∧
    (let s : State := wst [(Reg.SYS_BOOT_STEP, 11)] fun d => d; (let path := Path.uart; (let ws := (sample 0x0208);
      (let q := s.dev.mpiPath path; let p := Packet.ofWords ws; p.op = 0x0208 ∧ s.dev.serves path = true ∧
      q.wait = none ∧ (pathIsNvme path = false ∨ q.unread = false) ∧ p.crcOk = true ∧ ws.length ≤ 16384 ∧
      (pathKeeps path = false ∨ q.last ≠ some (p.seq, ws.getD (ws.length - 1) 0)) ∧
      s.dev.packetFault path (holderOf path) false p = none)))) ∧
    (let s : State := wst [(Reg.SYS_BOOT_STEP, 11)] fun d => d; (let path := Path.uart; (let ws := (sample 0x0209);
      (let q := s.dev.mpiPath path; let p := Packet.ofWords ws; p.op = 0x0209 ∧ s.dev.serves path = true ∧
      q.wait = none ∧ (pathIsNvme path = false ∨ q.unread = false) ∧ p.crcOk = true ∧ ws.length ≤ 16384 ∧
      (pathKeeps path = false ∨ q.last ≠ some (p.seq, ws.getD (ws.length - 1) 0)) ∧
      s.dev.packetFault path (holderOf path) false p = none)))) ∧
    (let s : State := wst [(Reg.SYS_BOOT_STEP, 11)] fun d => d; (let path := Path.uart; (let ws := (sample 0x020A);
      (let q := s.dev.mpiPath path; let p := Packet.ofWords ws; p.op = 0x020A ∧ s.dev.serves path = true ∧
      q.wait = none ∧ (pathIsNvme path = false ∨ q.unread = false) ∧ p.crcOk = true ∧ ws.length ≤ 16384 ∧
      (pathKeeps path = false ∨ q.last ≠ some (p.seq, ws.getD (ws.length - 1) 0)) ∧
      s.dev.packetFault path (holderOf path) false p = none)))) ∧
    (let s : State := wst [(Reg.SYS_BOOT_STEP, 11)] fun d => d; (let path := Path.uart; (let ws := (sample 0x020B);
      (let q := s.dev.mpiPath path; let p := Packet.ofWords ws; p.op = 0x020B ∧ s.dev.serves path = true ∧
      q.wait = none ∧ (pathIsNvme path = false ∨ q.unread = false) ∧ p.crcOk = true ∧ ws.length ≤ 16384 ∧
      (pathKeeps path = false ∨ q.last ≠ some (p.seq, ws.getD (ws.length - 1) 0)) ∧
      s.dev.packetFault path (holderOf path) false p = none)))) ∧
    (let s : State := wst [(Reg.SYS_BOOT_STEP, 11)] fun d => d; (let path := Path.uart; (let ws := (sample 0x020C);
      (let q := s.dev.mpiPath path; let p := Packet.ofWords ws; p.op = 0x020C ∧ s.dev.serves path = true ∧
      q.wait = none ∧ (pathIsNvme path = false ∨ q.unread = false) ∧ p.crcOk = true ∧ ws.length ≤ 16384 ∧
      (pathKeeps path = false ∨ q.last ≠ some (p.seq, ws.getD (ws.length - 1) 0)) ∧
      s.dev.packetFault path (holderOf path) false p = none)))) ∧
    (let d : Dev := (wst [] fun d => d).dev; d.busy = false) ∧
    (let d : Dev := (wst [] fun d => { d with conf := { d.conf with pending := some { set := StagedSet.empty, skip := false, holds := false } } }).dev;
      d.busy = true) ∧
    (let c : Call := (callOf 0x0207 ([(Ty.head, 0), (Ty.addr, 16383)].map (fun p => Tlv.ofWords p.1 [BitVec.ofNat 32 p.2]) ++ [Tlv.ofWords Ty.data [1#32, 2#32, 3#32, 4#32]]));
      c.data.length % 4 = 0 ∧ c.num Ty.addr + c.data.length / 4 ≤ 16384) ∧
    (let d : Dev := (wst [] fun d => d).dev; (let c : Call := (call 0x020A [(Ty.addr, 0x2FFFFC), (Ty.blob, 0)]);
      c.num Ty.addr + c.blob.length ≤ slotSectors false * 2 ^ 16 ∧ (putPiece d.mpi.prof (c.num Ty.addr,
      c.blob)).isSome = true)) ∧
    (let c : Call := (call 0x020A [(Ty.addr, 0x2FFFFD), (Ty.blob, 0)]);
      slotSectors false * 2 ^ 16 < c.num Ty.addr + c.blob.length) ∧
    (let d : Dev := (wst [] fun d => d).dev; (let c : Call := (call 0x020B [(Ty.slot, 0)]); c.num Ty.slot ≤ 1 ∧
      (d.profInForce (c.num Ty.slot) || decide (c.num Ty.slot = d.nv.boot.profSel) || d.mpi.prof.isEmpty) = true)) ∧
    (let c : Call := (call 0x020B [(Ty.slot, 1)]); c.num Ty.slot ≤ 1) ∧
    (let c : Call := (call 0x020B [(Ty.slot, 2)]); 1 < c.num Ty.slot) :=
  ⟨by decide +kernel, by decide +kernel, by decide +kernel, by decide +kernel, by decide +kernel, by decide +kernel,
   by decide +kernel, by decide +kernel, by decide +kernel, by decide +kernel, by decide +kernel, by decide +kernel,
   by decide +kernel, by decide +kernel, by decide +kernel, by decide +kernel, by decide +kernel, by decide +kernel,
   by decide +kernel, by decide +kernel⟩

theorem witness_CalibrationPackets :
    (let s : State := wst [(Reg.SYS_BOOT_STEP, 11)] fun d => d; (let path := Path.uart; (let ws := (sample 0x0301);
      (let q := s.dev.mpiPath path; let p := Packet.ofWords ws; p.op = 0x0301 ∧ s.dev.serves path = true ∧
      q.wait = none ∧ (pathIsNvme path = false ∨ q.unread = false) ∧ p.crcOk = true ∧ ws.length ≤ 16384 ∧
      (pathKeeps path = false ∨ q.last ≠ some (p.seq, ws.getD (ws.length - 1) 0)) ∧
      s.dev.packetFault path (holderOf path) false p = none)))) ∧
    (let s : State := wst [(Reg.SYS_BOOT_STEP, 11)] fun d => d; (let path := Path.uart; (let ws := (sample 0x0302);
      (let q := s.dev.mpiPath path; let p := Packet.ofWords ws; p.op = 0x0302 ∧ s.dev.serves path = true ∧
      q.wait = none ∧ (pathIsNvme path = false ∨ q.unread = false) ∧ p.crcOk = true ∧ ws.length ≤ 16384 ∧
      (pathKeeps path = false ∨ q.last ≠ some (p.seq, ws.getD (ws.length - 1) 0)) ∧
      s.dev.packetFault path (holderOf path) false p = none)))) ∧
    (let s : State := wst [(Reg.SYS_BOOT_STEP, 11)] fun d => d; (let path := Path.uart; (let ws := (sample 0x0303);
      (let q := s.dev.mpiPath path; let p := Packet.ofWords ws; p.op = 0x0303 ∧ s.dev.serves path = true ∧
      q.wait = none ∧ (pathIsNvme path = false ∨ q.unread = false) ∧ p.crcOk = true ∧ ws.length ≤ 16384 ∧
      (pathKeeps path = false ∨ q.last ≠ some (p.seq, ws.getD (ws.length - 1) 0)) ∧
      s.dev.packetFault path (holderOf path) false p = none)))) ∧
    (let s : State := wst [(Reg.SYS_BOOT_STEP, 11)] fun d => d; (let path := Path.uart; (let ws := (sample 0x0304);
      (let q := s.dev.mpiPath path; let p := Packet.ofWords ws; p.op = 0x0304 ∧ s.dev.serves path = true ∧
      q.wait = none ∧ (pathIsNvme path = false ∨ q.unread = false) ∧ p.crcOk = true ∧ ws.length ≤ 16384 ∧
      (pathKeeps path = false ∨ q.last ≠ some (p.seq, ws.getD (ws.length - 1) 0)) ∧
      s.dev.packetFault path (holderOf path) false p = none)))) ∧
    (let s : State := wst [(Reg.SYS_BOOT_STEP, 11)] fun d => d; (let path := Path.uart; (let ws := (sample 0x0305);
      (let q := s.dev.mpiPath path; let p := Packet.ofWords ws; p.op = 0x0305 ∧ s.dev.serves path = true ∧
      q.wait = none ∧ (pathIsNvme path = false ∨ q.unread = false) ∧ p.crcOk = true ∧ ws.length ≤ 16384 ∧
      (pathKeeps path = false ∨ q.last ≠ some (p.seq, ws.getD (ws.length - 1) 0)) ∧
      s.dev.packetFault path (holderOf path) false p = none)))) ∧
    (let s : State := wst [(Reg.SYS_BOOT_STEP, 11)] fun d => d; (let path := Path.uart; (let ws := (sample 0x0306);
      (let q := s.dev.mpiPath path; let p := Packet.ofWords ws; p.op = 0x0306 ∧ s.dev.serves path = true ∧
      q.wait = none ∧ (pathIsNvme path = false ∨ q.unread = false) ∧ p.crcOk = true ∧ ws.length ≤ 16384 ∧
      (pathKeeps path = false ∨ q.last ≠ some (p.seq, ws.getD (ws.length - 1) 0)) ∧
      s.dev.packetFault path (holderOf path) false p = none)))) ∧
    (let s : State := wst [(Reg.SYS_BOOT_STEP, 11)] fun d => d; (let path := Path.uart; (let ws := (sample 0x0307);
      (let q := s.dev.mpiPath path; let p := Packet.ofWords ws; p.op = 0x0307 ∧ s.dev.serves path = true ∧
      q.wait = none ∧ (pathIsNvme path = false ∨ q.unread = false) ∧ p.crcOk = true ∧ ws.length ≤ 16384 ∧
      (pathKeeps path = false ∨ q.last ≠ some (p.seq, ws.getD (ws.length - 1) 0)) ∧
      s.dev.packetFault path (holderOf path) false p = none)))) ∧
    (let s : State := wst [(Reg.SYS_BOOT_STEP, 11)] fun d => d; (let path := Path.uart; (let ws := (sample 0x0308);
      (let q := s.dev.mpiPath path; let p := Packet.ofWords ws; p.op = 0x0308 ∧ s.dev.serves path = true ∧
      q.wait = none ∧ (pathIsNvme path = false ∨ q.unread = false) ∧ p.crcOk = true ∧ ws.length ≤ 16384 ∧
      (pathKeeps path = false ∨ q.last ≠ some (p.seq, ws.getD (ws.length - 1) 0)) ∧
      s.dev.packetFault path (holderOf path) false p = none)))) ∧
    (let s : State := wst [(Reg.SYS_BOOT_STEP, 11)] fun d => d; (let path := Path.uart; (let ws := (sample 0x0309);
      (let q := s.dev.mpiPath path; let p := Packet.ofWords ws; p.op = 0x0309 ∧ s.dev.serves path = true ∧
      q.wait = none ∧ (pathIsNvme path = false ∨ q.unread = false) ∧ p.crcOk = true ∧ ws.length ≤ 16384 ∧
      (pathKeeps path = false ∨ q.last ≠ some (p.seq, ws.getD (ws.length - 1) 0)) ∧
      s.dev.packetFault path (holderOf path) false p = none)))) ∧
    (let s : State := wst [(Reg.SYS_BOOT_STEP, 11)] fun d => d; (let path := Path.uart; (let ws := (sample 0x030A);
      (let q := s.dev.mpiPath path; let p := Packet.ofWords ws; p.op = 0x030A ∧ s.dev.serves path = true ∧
      q.wait = none ∧ (pathIsNvme path = false ∨ q.unread = false) ∧ p.crcOk = true ∧ ws.length ≤ 16384 ∧
      (pathKeeps path = false ∨ q.last ≠ some (p.seq, ws.getD (ws.length - 1) 0)) ∧
      s.dev.packetFault path (holderOf path) false p = none)))) ∧
    (let s : State := wst [(Reg.SYS_BOOT_STEP, 11)] fun d => d; (let path := Path.uart; (let ws := (sample 0x030B);
      (let q := s.dev.mpiPath path; let p := Packet.ofWords ws; p.op = 0x030B ∧ s.dev.serves path = true ∧
      q.wait = none ∧ (pathIsNvme path = false ∨ q.unread = false) ∧ p.crcOk = true ∧ ws.length ≤ 16384 ∧
      (pathKeeps path = false ∨ q.last ≠ some (p.seq, ws.getD (ws.length - 1) 0)) ∧
      s.dev.packetFault path (holderOf path) false p = none)))) ∧
    (let s : State := wst [(Reg.SYS_BOOT_STEP, 11)] fun d => d; (let path := Path.uart; (let ws := (sample 0x030C);
      (let q := s.dev.mpiPath path; let p := Packet.ofWords ws; p.op = 0x030C ∧ s.dev.serves path = true ∧
      q.wait = none ∧ (pathIsNvme path = false ∨ q.unread = false) ∧ p.crcOk = true ∧ ws.length ≤ 16384 ∧
      (pathKeeps path = false ∨ q.last ≠ some (p.seq, ws.getD (ws.length - 1) 0)) ∧
      s.dev.packetFault path (holderOf path) false p = none)))) ∧
    (let s : State := wst [(Reg.SYS_BOOT_STEP, 11)] fun d => d; (let path := Path.uart; (let ws := (sample 0x030D);
      (let q := s.dev.mpiPath path; let p := Packet.ofWords ws; p.op = 0x030D ∧ s.dev.serves path = true ∧
      q.wait = none ∧ (pathIsNvme path = false ∨ q.unread = false) ∧ p.crcOk = true ∧ ws.length ≤ 16384 ∧
      (pathKeeps path = false ∨ q.last ≠ some (p.seq, ws.getD (ws.length - 1) 0)) ∧
      s.dev.packetFault path (holderOf path) false p = none)))) ∧
    (let c : Call := (call 0x0301 [(Ty.addr, 0), (Ty.data, 7)]); (let w := 7#32; c.num Ty.addr % 4 = 0 ∧ c.data = [w])) ∧
    (let c : Call := (call 0x0302 [(Ty.value, 1)]); c.num Ty.value ≤ 1) ∧
    (let d : Dev := (wst [] fun d => d).dev; (let c : Call := (call 0x0303 [(Ty.head, 0), (Ty.value, 1)]);
      d.headNamed c = true ∧ c.num Ty.value ≤ 1)) ∧
    (let d : Dev := (wst [] fun d => d).dev; (let c : Call := (call 0x0304 [(Ty.head, 11), (Ty.track, 0x3FFFFF)]);
      (let a := c.p.act; d.headNamed c = true ∧ c.num Ty.track < 2 ^ 22 ∧
      (d.loadState a ≠ 2 ∨ (d.srv.get a).traj.isSome ∨ (d.srv.get a).due.isSome)))) ∧
    (let d : Dev := (wst [((Reg.SRV_LOAD_STATUS_STATE.on .a0), 2)] fun d => d).dev;
      (let c : Call := (call 0x0304 [(Ty.head, 11), (Ty.track, 0x3FFFFF)]); (let a := c.p.act; d.headNamed c = true ∧
      c.num Ty.track < 2 ^ 22 ∧ d.loadState a = 2 ∧ (d.srv.get a).traj = none ∧ (d.srv.get a).due = none))) ∧
    (let c : Call := (callOf 0x0305 ([(Ty.head, 0)].map (fun p => Tlv.ofWords p.1 [BitVec.ofNat 32 p.2]) ++ [Tlv.ofWords Ty.data [1#32, 2#32, 3#32, 4#32, 5#32]]));
      (let w0 := 1#32; (let w1 := 2#32; (let w2 := 3#32; (let w3 := 4#32; (let w4 := 5#32;
      c.data = [w0, w1, w2, w3, w4])))))) ∧
    (let c : Call := (callOf 0x0306 ([(Ty.head, 0)].map (fun p => Tlv.ofWords p.1 [BitVec.ofNat 32 p.2]) ++ [Tlv.ofWords Ty.data [1#32, 2#32, 3#32]]));
      (let ctl := 1#32; (let sel := 2#32; (let trig := 3#32; c.data = [ctl, sel, trig])))) ∧
    (let c : Call := (call 0x0308 [(Ty.head, 0), (Ty.data, 7)]); (let w := 7#32; c.data = [w])) ∧
    (let d : Dev := (wst [] fun d => d).dev; (let c : Call := (call 0x030A [(Ty.head, 0), (Ty.mask, 7)]);
      d.headNamed c = true ∧ c.num Ty.mask % 8 ≠ 0 ∧ c.num Ty.mask / 256 % 8 = 0)) ∧
    (let c : Call := (call 0x030C [(Ty.space, 0), (Ty.addr, 0), (Ty.data, 7)]); (let w := 7#32; c.num Ty.space = 0 ∧
      c.data = [w])) ∧
    (let c : Call := (call 0x030D [(Ty.value, 0)]); c.num Ty.value = 0) ∧
    (let c : Call := (call 0x030D [(Ty.value, 1)]); c.num Ty.value = 1) ∧
    (let c : Call := (call 0x030D [(Ty.value, 2)]); c.num Ty.value = 2) ∧
    (let d : Dev := (wst [] fun d => d).dev; (let c : Call := (call 0x0309 [(Ty.head, 12)]); d.headNamed c = false)) :=
  ⟨by decide +kernel, by decide +kernel, by decide +kernel, by decide +kernel, by decide +kernel, by decide +kernel,
   by decide +kernel, by decide +kernel, by decide +kernel, by decide +kernel, by decide +kernel, by decide +kernel,
   by decide +kernel, by decide +kernel, by decide +kernel, by decide +kernel, by decide +kernel, by decide +kernel,
   by decide +kernel, by decide +kernel, by decide +kernel, by decide +kernel, by decide +kernel, by decide +kernel,
   by decide +kernel, by decide +kernel, by decide +kernel⟩

theorem witness_MediaAndLogPackets :
    (let s : State := wst [(Reg.SYS_BOOT_STEP, 11)] fun d => d; (let path := Path.uart; (let ws := (sample 0x0401);
      (let q := s.dev.mpiPath path; let p := Packet.ofWords ws; p.op = 0x0401 ∧ s.dev.serves path = true ∧
      q.wait = none ∧ (pathIsNvme path = false ∨ q.unread = false) ∧ p.crcOk = true ∧ ws.length ≤ 16384 ∧
      (pathKeeps path = false ∨ q.last ≠ some (p.seq, ws.getD (ws.length - 1) 0)) ∧
      s.dev.packetFault path (holderOf path) false p = none)))) ∧
    (let s : State := wst [(Reg.SYS_BOOT_STEP, 11)] fun d => d; (let path := Path.uart; (let ws := (sample 0x0402);
      (let q := s.dev.mpiPath path; let p := Packet.ofWords ws; p.op = 0x0402 ∧ s.dev.serves path = true ∧
      q.wait = none ∧ (pathIsNvme path = false ∨ q.unread = false) ∧ p.crcOk = true ∧ ws.length ≤ 16384 ∧
      (pathKeeps path = false ∨ q.last ≠ some (p.seq, ws.getD (ws.length - 1) 0)) ∧
      s.dev.packetFault path (holderOf path) false p = none)))) ∧
    (let s : State := wst [(Reg.SYS_BOOT_STEP, 11)] fun d => d; (let path := Path.uart; (let ws := (sample 0x0403);
      (let q := s.dev.mpiPath path; let p := Packet.ofWords ws; p.op = 0x0403 ∧ s.dev.serves path = true ∧
      q.wait = none ∧ (pathIsNvme path = false ∨ q.unread = false) ∧ p.crcOk = true ∧ ws.length ≤ 16384 ∧
      (pathKeeps path = false ∨ q.last ≠ some (p.seq, ws.getD (ws.length - 1) 0)) ∧
      s.dev.packetFault path (holderOf path) false p = none)))) ∧
    (let s : State := wst [(Reg.SYS_BOOT_STEP, 11)] fun d => d; (let path := Path.uart; (let ws := (sample 0x0404);
      (let q := s.dev.mpiPath path; let p := Packet.ofWords ws; p.op = 0x0404 ∧ s.dev.serves path = true ∧
      q.wait = none ∧ (pathIsNvme path = false ∨ q.unread = false) ∧ p.crcOk = true ∧ ws.length ≤ 16384 ∧
      (pathKeeps path = false ∨ q.last ≠ some (p.seq, ws.getD (ws.length - 1) 0)) ∧
      s.dev.packetFault path (holderOf path) false p = none)))) ∧
    (let s : State := wst [(Reg.SYS_BOOT_STEP, 11)] fun d => d; (let path := Path.uart; (let ws := (sample 0x0405);
      (let q := s.dev.mpiPath path; let p := Packet.ofWords ws; p.op = 0x0405 ∧ s.dev.serves path = true ∧
      q.wait = none ∧ (pathIsNvme path = false ∨ q.unread = false) ∧ p.crcOk = true ∧ ws.length ≤ 16384 ∧
      (pathKeeps path = false ∨ q.last ≠ some (p.seq, ws.getD (ws.length - 1) 0)) ∧
      s.dev.packetFault path (holderOf path) false p = none)))) ∧
    (let s : State := wst [(Reg.SYS_BOOT_STEP, 11)] fun d => d; (let path := Path.uart; (let ws := (sample 0x0406);
      (let q := s.dev.mpiPath path; let p := Packet.ofWords ws; p.op = 0x0406 ∧ s.dev.serves path = true ∧
      q.wait = none ∧ (pathIsNvme path = false ∨ q.unread = false) ∧ p.crcOk = true ∧ ws.length ≤ 16384 ∧
      (pathKeeps path = false ∨ q.last ≠ some (p.seq, ws.getD (ws.length - 1) 0)) ∧
      s.dev.packetFault path (holderOf path) false p = none)))) ∧
    (let s : State := wst [(Reg.SYS_BOOT_STEP, 11)] fun d => d; (let path := Path.uart; (let ws := (sample 0x0407);
      (let q := s.dev.mpiPath path; let p := Packet.ofWords ws; p.op = 0x0407 ∧ s.dev.serves path = true ∧
      q.wait = none ∧ (pathIsNvme path = false ∨ q.unread = false) ∧ p.crcOk = true ∧ ws.length ≤ 16384 ∧
      (pathKeeps path = false ∨ q.last ≠ some (p.seq, ws.getD (ws.length - 1) 0)) ∧
      s.dev.packetFault path (holderOf path) false p = none)))) ∧
    (let s : State := wst [(Reg.SYS_BOOT_STEP, 11)] fun d => d; (let path := Path.uart; (let ws := (sample 0x0408);
      (let q := s.dev.mpiPath path; let p := Packet.ofWords ws; p.op = 0x0408 ∧ s.dev.serves path = true ∧
      q.wait = none ∧ (pathIsNvme path = false ∨ q.unread = false) ∧ p.crcOk = true ∧ ws.length ≤ 16384 ∧
      (pathKeeps path = false ∨ q.last ≠ some (p.seq, ws.getD (ws.length - 1) 0)) ∧
      s.dev.packetFault path (holderOf path) false p = none)))) ∧
    (let s : State := wst [(Reg.SYS_BOOT_STEP, 11)] fun d => d; (let path := Path.uart; (let ws := (sample 0x0501);
      (let q := s.dev.mpiPath path; let p := Packet.ofWords ws; p.op = 0x0501 ∧ s.dev.serves path = true ∧
      q.wait = none ∧ (pathIsNvme path = false ∨ q.unread = false) ∧ p.crcOk = true ∧ ws.length ≤ 16384 ∧
      (pathKeeps path = false ∨ q.last ≠ some (p.seq, ws.getD (ws.length - 1) 0)) ∧
      s.dev.packetFault path (holderOf path) false p = none)))) ∧
    (let s : State := wst [(Reg.SYS_BOOT_STEP, 11)] fun d => d; (let path := Path.uart; (let ws := (sample 0x0502);
      (let q := s.dev.mpiPath path; let p := Packet.ofWords ws; p.op = 0x0502 ∧ s.dev.serves path = true ∧
      q.wait = none ∧ (pathIsNvme path = false ∨ q.unread = false) ∧ p.crcOk = true ∧ ws.length ≤ 16384 ∧
      (pathKeeps path = false ∨ q.last ≠ some (p.seq, ws.getD (ws.length - 1) 0)) ∧
      s.dev.packetFault path (holderOf path) false p = none)))) ∧
    (let s : State := wst [(Reg.SYS_BOOT_STEP, 11)] fun d => d; (let path := Path.uart; (let ws := (sample 0x0503);
      (let q := s.dev.mpiPath path; let p := Packet.ofWords ws; p.op = 0x0503 ∧ s.dev.serves path = true ∧
      q.wait = none ∧ (pathIsNvme path = false ∨ q.unread = false) ∧ p.crcOk = true ∧ ws.length ≤ 16384 ∧
      (pathKeeps path = false ∨ q.last ≠ some (p.seq, ws.getD (ws.length - 1) 0)) ∧
      s.dev.packetFault path (holderOf path) false p = none)))) ∧
    (let s : State := wst [(Reg.SYS_BOOT_STEP, 11)] fun d => d; (let path := Path.uart; (let ws := (sample 0x0504);
      (let q := s.dev.mpiPath path; let p := Packet.ofWords ws; p.op = 0x0504 ∧ s.dev.serves path = true ∧
      q.wait = none ∧ (pathIsNvme path = false ∨ q.unread = false) ∧ p.crcOk = true ∧ ws.length ≤ 16384 ∧
      (pathKeeps path = false ∨ q.last ≠ some (p.seq, ws.getD (ws.length - 1) 0)) ∧
      s.dev.packetFault path (holderOf path) false p = none)))) ∧
    (let s : State := wst [(Reg.SYS_BOOT_STEP, 11)] fun d => d; (let path := Path.uart; (let ws := (sample 0x0505);
      (let q := s.dev.mpiPath path; let p := Packet.ofWords ws; p.op = 0x0505 ∧ s.dev.serves path = true ∧
      q.wait = none ∧ (pathIsNvme path = false ∨ q.unread = false) ∧ p.crcOk = true ∧ ws.length ≤ 16384 ∧
      (pathKeeps path = false ∨ q.last ≠ some (p.seq, ws.getD (ws.length - 1) 0)) ∧
      s.dev.packetFault path (holderOf path) false p = none)))) ∧
    (let s : State := wst [(Reg.SYS_BOOT_STEP, 11)] fun d => d; (let path := Path.uart; (let ws := (sample 0x0506);
      (let q := s.dev.mpiPath path; let p := Packet.ofWords ws; p.op = 0x0506 ∧ s.dev.serves path = true ∧
      q.wait = none ∧ (pathIsNvme path = false ∨ q.unread = false) ∧ p.crcOk = true ∧ ws.length ≤ 16384 ∧
      (pathKeeps path = false ∨ q.last ≠ some (p.seq, ws.getD (ws.length - 1) 0)) ∧
      s.dev.packetFault path (holderOf path) false p = none)))) ∧
    (let s : State := wst [(Reg.SYS_BOOT_STEP, 11)] fun d => d; (let path := Path.uart; (let ws := (sample 0x0507);
      (let q := s.dev.mpiPath path; let p := Packet.ofWords ws; p.op = 0x0507 ∧ s.dev.serves path = true ∧
      q.wait = none ∧ (pathIsNvme path = false ∨ q.unread = false) ∧ p.crcOk = true ∧ ws.length ≤ 16384 ∧
      (pathKeeps path = false ∨ q.last ≠ some (p.seq, ws.getD (ws.length - 1) 0)) ∧
      s.dev.packetFault path (holderOf path) false p = none)))) ∧
    (let d : Dev := (wst [] fun d => disk d).dev;
      (let c : Call := (call 0x0401 [(Ty.head, 0), (Ty.track, 100), (Ty.slots, 196609)]); (let bi := (0 : Nat);
      (let b := ({ surface := 0, kind := 0, dir := false, start := 100, rzone := 0, pitch := 0, offset := 0, tracks := 1000, skew := 0, spares := 4, slipBase := 0, slips := 0 } : BandRec);
      (let t := (0 : Nat); d.headNamed c = true ∧ c.num Ty.slots % 1024 = 1 ∧
      d.bandAt c.p.act c.p.headNo (c.num Ty.track) = some (bi, b, t) ∧
      c.num Ty.slots / 65536 % 1024 < d.slotsOf b))))) ∧
    (let d : Dev := (wst [] fun d => disk d).dev;
      (let c : Call := (call 0x0401 [(Ty.head, 0), (Ty.track, 5), (Ty.slots, 1)]); d.headNamed c = true ∧
      c.num Ty.slots % 1024 ≤ 1 ∧ d.bandAt c.p.act c.p.headNo (c.num Ty.track) = none)) ∧
    (let d : Dev := (wst [] fun d => disk d).dev;
      (let c : Call := (callOf 0x0404 [Tlv.ofWords Ty.lba [1#32, 65536#32, 0#32]]); c.nsid = 1 ∧
      (d.mapZoned c.lba).isSome = true)) ∧
    (let d : Dev := (wst [] fun d => disk d).dev;
      (let c : Call := (callOf 0x0404 [Tlv.ofWords Ty.lba [2#32, 255#32, 0#32]]); c.nsid = 2 ∧
      (d.mapConv c.lba 0).isSome = true ∧ (d.mapConv c.lba 1).isSome = true)) ∧
    (let d : Dev := (wst [] fun d => disk d).dev; (let c : Call := (call 0x0405 [(Ty.value, 1)]);
      (let b := ({ surface := 1, kind := 0, dir := false, start := 100, rzone := 0, pitch := 0, offset := 0, tracks := 1000, skew := 0, spares := 4, slipBase := 0, slips := 0 } : BandRec);
      d.band (c.num Ty.value) = some b ∧ b.kind ≤ 1))) ∧
    (let d : Dev := (wst [] fun d => disk d).dev; (let c : Call := (call 0x0406 [(Ty.value, 1), (Ty.addr, 65535)]);
      (let b := ({ surface := 1, kind := 0, dir := false, start := 100, rzone := 0, pitch := 0, offset := 0, tracks := 1000, skew := 0, spares := 4, slipBase := 0, slips := 0 } : BandRec);
      d.band (c.num Ty.value) = some b ∧ b.kind ≤ 1 ∧ c.num Ty.addr < 65536))) ∧
    (let d : Dev := (wst [] fun d => disk d).dev; (let c : Call := (call 0x0405 [(Ty.value, 20)]);
      (let b := ({ surface := 0, kind := 2, dir := false, start := 100, rzone := 0, pitch := 0, offset := 0, tracks := 1000, skew := 0, spares := 4, slipBase := 0, slips := 0 } : BandRec);
      d.band (c.num Ty.value) = some b ∧ 2 ≤ b.kind))) ∧
    (let d : Dev := (wst [] fun d => disk d).dev; (let c : Call := (call 0x0407 [(Ty.head, 11)]); d.headNamed c = true)) ∧
    (let d : Dev := (wst [] fun d => (disk d).setStride 0 0 ({ live := true, mask := 3, ploc := 0, qloc := 0, opened := false, slot := 0, folded := [], cover := [], half := 0, dirty := false } : Stride)).dev;
      (let c : Call := (callOf 0x0408 [Tlv.ofWords Ty.lba [1#32, 0#32, 0#32]]);
      (let p := ({ group := 0, member := 0, stride := 0, rec0 := 0, others := [1] } : ReconPlan); c.nsid = 1 ∧
      (d.mapZoned c.lba).isSome = true ∧
      d.locate (c.lba / d.media.zoneBlocks) (c.lba % d.media.zoneBlocks / 8) = some p ∧
      d.reconCause (some p) c.o.source = none))) ∧
    (let d : Dev := (wst [] fun d => disk d).dev;
      (let c : Call := (callOf 0x0408 [Tlv.ofWords Ty.lba [1#32, 0#32, 0#32]]); (let k := (1 : Nat); c.nsid = 1 ∧
      (d.mapZoned c.lba).isSome = true ∧ (let z := c.lba / d.media.zoneBlocks;
      d.reconCause (d.locate z (c.lba % d.media.zoneBlocks / 8)) c.o.source = some k)))) ∧
    (let d : Dev := (wst [] fun d => d).dev; d.hb.frozen = []) ∧
    (let d : Dev := (wst [] fun d => d.onHb fun h => { h with frozen := [(0, 3)] }).dev; d.hb.frozen ≠ []) ∧
    (let c : Call := (call 0x0504 [(Ty.value, 0)]); (blockAt (c.num Ty.value)).isSome = true) :=
  ⟨by decide +kernel, by decide +kernel, by decide +kernel, by decide +kernel, by decide +kernel, by decide +kernel,
   by decide +kernel, by decide +kernel, by decide +kernel, by decide +kernel, by decide +kernel, by decide +kernel,
   by decide +kernel, by decide +kernel, by decide +kernel, by decide +kernel, by decide +kernel, by decide +kernel,
   by decide +kernel, by decide +kernel, by decide +kernel, by decide +kernel, by decide +kernel, by decide +kernel,
   by decide +kernel, by decide +kernel, by decide +kernel, by decide +kernel⟩

theorem witness_ImageAndTwinPackets :
    (let s : State := wst [(Reg.SYS_BOOT_STEP, 11)] fun d => d; (let path := Path.uart; (let ws := (sample 0x0601);
      (let q := s.dev.mpiPath path; let p := Packet.ofWords ws; p.op = 0x0601 ∧ s.dev.serves path = true ∧
      q.wait = none ∧ (pathIsNvme path = false ∨ q.unread = false) ∧ p.crcOk = true ∧ ws.length ≤ 16384 ∧
      (pathKeeps path = false ∨ q.last ≠ some (p.seq, ws.getD (ws.length - 1) 0)) ∧
      s.dev.packetFault path (holderOf path) false p = none)))) ∧
    (let s : State := wst [(Reg.SYS_BOOT_STEP, 11)] fun d => d; (let path := Path.uart; (let ws := (sample 0x0602);
      (let q := s.dev.mpiPath path; let p := Packet.ofWords ws; p.op = 0x0602 ∧ s.dev.serves path = true ∧
      q.wait = none ∧ (pathIsNvme path = false ∨ q.unread = false) ∧ p.crcOk = true ∧ ws.length ≤ 16384 ∧
      (pathKeeps path = false ∨ q.last ≠ some (p.seq, ws.getD (ws.length - 1) 0)) ∧
      s.dev.packetFault path (holderOf path) false p = none)))) ∧
    (let s : State := wst [(Reg.SYS_BOOT_STEP, 11)] fun d => d; (let path := Path.uart; (let ws := (sample 0x0603);
      (let q := s.dev.mpiPath path; let p := Packet.ofWords ws; p.op = 0x0603 ∧ s.dev.serves path = true ∧
      q.wait = none ∧ (pathIsNvme path = false ∨ q.unread = false) ∧ p.crcOk = true ∧ ws.length ≤ 16384 ∧
      (pathKeeps path = false ∨ q.last ≠ some (p.seq, ws.getD (ws.length - 1) 0)) ∧
      s.dev.packetFault path (holderOf path) false p = none)))) ∧
    (let s : State := wst [(Reg.SYS_BOOT_STEP, 11)] fun d => d; (let path := Path.uart; (let ws := (sample 0x0604);
      (let q := s.dev.mpiPath path; let p := Packet.ofWords ws; p.op = 0x0604 ∧ s.dev.serves path = true ∧
      q.wait = none ∧ (pathIsNvme path = false ∨ q.unread = false) ∧ p.crcOk = true ∧ ws.length ≤ 16384 ∧
      (pathKeeps path = false ∨ q.last ≠ some (p.seq, ws.getD (ws.length - 1) 0)) ∧
      s.dev.packetFault path (holderOf path) false p = none)))) ∧
    (let s : State := wst [(Reg.SYS_BOOT_STEP, 11)] fun d => d; (let path := Path.uart; (let ws := (sample 0x0605);
      (let q := s.dev.mpiPath path; let p := Packet.ofWords ws; p.op = 0x0605 ∧ s.dev.serves path = true ∧
      q.wait = none ∧ (pathIsNvme path = false ∨ q.unread = false) ∧ p.crcOk = true ∧ ws.length ≤ 16384 ∧
      (pathKeeps path = false ∨ q.last ≠ some (p.seq, ws.getD (ws.length - 1) 0)) ∧
      s.dev.packetFault path (holderOf path) false p = none)))) ∧
    (let s : State := wst [(Reg.SYS_BOOT_STEP, 11)] fun d => d; (let path := Path.uart; (let ws := (sample 0x0606);
      (let q := s.dev.mpiPath path; let p := Packet.ofWords ws; p.op = 0x0606 ∧ s.dev.serves path = true ∧
      q.wait = none ∧ (pathIsNvme path = false ∨ q.unread = false) ∧ p.crcOk = true ∧ ws.length ≤ 16384 ∧
      (pathKeeps path = false ∨ q.last ≠ some (p.seq, ws.getD (ws.length - 1) 0)) ∧
      s.dev.packetFault path (holderOf path) false p = none)))) ∧
    (let s : State := wst [(Reg.SYS_BOOT_STEP, 11)] fun d => d; (let path := Path.twin; (let ws := (sample 0x0801);
      (let q := s.dev.mpiPath path; let p := Packet.ofWords ws; p.op = 0x0801 ∧ s.dev.serves path = true ∧
      q.wait = none ∧ (pathIsNvme path = false ∨ q.unread = false) ∧ p.crcOk = true ∧ ws.length ≤ 16384 ∧
      (pathKeeps path = false ∨ q.last ≠ some (p.seq, ws.getD (ws.length - 1) 0)) ∧
      s.dev.packetFault path (holderOf path) false p = none)))) ∧
    (let s : State := wst [(Reg.SYS_BOOT_STEP, 11)] fun d => d; (let path := Path.twin; (let ws := (sample 0x0802);
      (let q := s.dev.mpiPath path; let p := Packet.ofWords ws; p.op = 0x0802 ∧ s.dev.serves path = true ∧
      q.wait = none ∧ (pathIsNvme path = false ∨ q.unread = false) ∧ p.crcOk = true ∧ ws.length ≤ 16384 ∧
      (pathKeeps path = false ∨ q.last ≠ some (p.seq, ws.getD (ws.length - 1) 0)) ∧
      s.dev.packetFault path (holderOf path) false p = none)))) ∧
    (let s : State := wst [(Reg.SYS_BOOT_STEP, 11)] fun d => d; (let path := Path.twin; (let ws := (sample 0x0803);
      (let q := s.dev.mpiPath path; let p := Packet.ofWords ws; p.op = 0x0803 ∧ s.dev.serves path = true ∧
      q.wait = none ∧ (pathIsNvme path = false ∨ q.unread = false) ∧ p.crcOk = true ∧ ws.length ≤ 16384 ∧
      (pathKeeps path = false ∨ q.last ≠ some (p.seq, ws.getD (ws.length - 1) 0)) ∧
      s.dev.packetFault path (holderOf path) false p = none)))) ∧
    (let s : State := wst [(Reg.SYS_BOOT_STEP, 11)] fun d => d; (let path := Path.twin; (let ws := (sample 0x0804);
      (let q := s.dev.mpiPath path; let p := Packet.ofWords ws; p.op = 0x0804 ∧ s.dev.serves path = true ∧
      q.wait = none ∧ (pathIsNvme path = false ∨ q.unread = false) ∧ p.crcOk = true ∧ ws.length ≤ 16384 ∧
      (pathKeeps path = false ∨ q.last ≠ some (p.seq, ws.getD (ws.length - 1) 0)) ∧
      s.dev.packetFault path (holderOf path) false p = none)))) ∧
    (let c : Call := (call 0x0601 [(Ty.space, 4), (Ty.addr, 4095), (Ty.count, 1)]); c.num Ty.space = 4 ∧
      c.num Ty.count ≤ 16000 ∧ c.num Ty.addr + c.num Ty.count ≤ 4096 ∧ 0 < c.num Ty.count) ∧
    (let c : Call := (call 0x0601 [(Ty.space, 1), (Ty.addr, 0), (Ty.count, 1)]); c.num Ty.space < 2) ∧
    (let c : Call := (call 0x0602 [(Ty.blob, 0)]); c.blob.length ≠ 2048) ∧
    (let c : Call := (callOf 0x0602 [{ ty := Ty.blob, len := 2048, ws := List.replicate 512 0#32 }]);
      c.blob.length = 2048) ∧
    (let d : Dev := (wst [] fun d => d).dev; (let c : Call := (call 0x0604 [(Ty.addr, 0xBFFFFC), (Ty.blob, 0)]);
      c.num Ty.addr + c.blob.length ≤ slotSectors true * 2 ^ 16 ∧ (putPiece d.mpi.fw (c.num Ty.addr,
      c.blob)).isSome = true)) ∧
    (let d : Dev := (wst [] fun d => d).dev; (let c : Call := (call 0x0605 [(Ty.slot, 0), (Ty.value, 1)]);
      c.num Ty.slot ≤ 1 ∧ c.num Ty.value ≤ 1 ∧ c.num Ty.slot = d.nv.boot.active)) ∧
    (let d : Dev := (wst [] fun d => d.onHost fun h => { h with sanitize := some { overwrite := false, passes := 1, pattern := 0, invert := false, ause := false, pass := 0, bands := 0, fails := false, resumed := false } }).dev;
      (let c : Call := (call 0x0605 [(Ty.slot, 0), (Ty.value, 3)]); c.num Ty.slot ≤ 1 ∧ c.num Ty.value ≤ 3 ∧
      d.host.sanitize.isSome = true)) ∧
    (let d : Dev := (wst [] fun d => burn true 0 fwImage d).dev;
      (let c : Call := (call 0x0605 [(Ty.slot, 0), (Ty.value, 2)]); (let x := d.startJob c.p.op (c.num Ty.slot);
      (let r := x.2.slotFault true c.o.sig (c.num Ty.slot); c.num Ty.slot ≤ 1 ∧ c.num Ty.value = 2 ∧
      d.host.sanitize = none ∧ r.1 = 0)))) ∧
    (let d : Dev := (wst [] fun d => d).dev; (let c : Call := (call 0x0605 [(Ty.slot, 0), (Ty.value, 2)]);
      (let x := d.startJob c.p.op (c.num Ty.slot); (let r := x.2.slotFault true c.o.sig (c.num Ty.slot);
      c.num Ty.slot ≤ 1 ∧ c.num Ty.value = 2 ∧ d.host.sanitize = none ∧ r.1 ≠ 0)))) ∧
    (let c : Call := (call 0x0606 [(Ty.value, 2)]); 1 < c.num Ty.value) ∧
    (let c : Call := (call 0x0606 [(Ty.value, 1), (Ty.space, 1)]); c.num Ty.value ≤ 1 ∧ c.num Ty.space ≠ 0) ∧
    (let c : Call := (call 0x0802 [(Ty.value, 1)]); c.num Ty.value = 1) ∧
    (let c : Call := (call 0x0802 [(Ty.value, 2)]); c.num Ty.value = 2) ∧
    (let c : Call := (call 0x0803 [(Ty.value, 3)]); c.num Ty.value = 3) :=
  ⟨by decide +kernel, by decide +kernel, by decide +kernel, by decide +kernel, by decide +kernel, by decide +kernel,
   by decide +kernel, by decide +kernel, by decide +kernel, by decide +kernel, by decide +kernel, by decide +kernel,
   by decide +kernel, by decide +kernel, by decide +kernel, by decide +kernel, by decide +kernel, by decide +kernel,
   by decide +kernel, by decide +kernel, by decide +kernel, by decide +kernel, by decide +kernel, by decide +kernel⟩

theorem witness_PacketTransport :
    (let s : State := wst [(Reg.SYS_BOOT_STEP, 5)] fun d => d; (let path := Path.uart;
      (let ws := (let ws := [0x00010005#32, 0x01000004#32, 1#32]; ws ++ [BitVec.ofNat 32 (crc32Words ws)]);
      (let st := (4 : Nat); (let detail := (0 : Nat); (let q := s.dev.mpiPath path; (let p := Packet.ofWords ws;
      p.op = 0x0001 ∧ s.dev.serves path = true ∧ q.wait = none ∧ (pathIsNvme path = false ∨ q.unread = false) ∧
      p.crcOk = true ∧ ws.length ≤ 16384 ∧ (pathKeeps path = false ∨ q.last ≠ some (p.seq,
      ws.getD (ws.length - 1) 0)) ∧ s.dev.packetFault path (holderOf path) false p = some (st, detail) ∧
      st ≠ 0x05))))))) ∧
    (let s : State := wst [(Reg.SYS_BOOT_STEP, 5)] fun d => d; (let ws := ((sample 0x0001).set 3 0#32);
      (let p := Packet.ofWords ws; p.op = 0x0001 ∧ s.dev.serves .uart = true ∧ (s.dev.mpiPath .uart).wait = none ∧
      p.crcOk = false))) ∧
    (let s : State := wst [(Reg.SYS_BOOT_STEP, 5)] fun d => d.setPath .uart { (d.mpiPath .uart) with last := some (5, (sample 0x0001).getD 3 0), reply := (sample 0x0001) };
      (let path := Path.uart; (let ws := (sample 0x0001); (let q := s.dev.mpiPath path; (let p := Packet.ofWords ws;
      p.op = 0x0001 ∧ pathKeeps path = true ∧ s.dev.serves path = true ∧ q.wait = none ∧ p.crcOk = true ∧
      ws.length ≤ 16384 ∧ q.last = some (p.seq, ws.getD (ws.length - 1) 0)))))) ∧
    (let s : State := wst [] fun d => d.setPath .uart { (d.mpiPath .uart) with wait := some ({ head := 0, flags := 0, crc := 0, poll := false, addr := 0, mask := 0, value := 0, due := 0, obs := (call 1 []).o.fabric, holds := false, cmd := none } : MpiWait) };
      (let path := Path.uart; (let ws := (sample 0x0001); (Packet.ofWords ws).op = 0x0001 ∧
      (s.dev.mpiPath path).wait.isSome = true))) ∧
    (let ws := (sample 0x0002); (Packet.ofWords ws).op ≠ 0x0001) ∧
    (let s : State := wst [] fun d => online d; (let id : CmdId := cid; (let ws := (List.replicate 16385 0#32);
      s.dev.admits id = true ∧ (ws.length = 0 ∨ 16384 < ws.length)))) ∧
    (let s : State := wst [] fun d => online d; (let id : CmdId := cid; (let ws := (List.replicate 16384 0#32);
      s.dev.admits id = true ∧ 0 < ws.length ∧ ws.length ≤ 16384))) ∧
    (let s : State := wst [] fun d => online d; (let id : CmdId := cid; s.dev.admits id = true ∧
      (let d := s.dev.wakeHost id.port; (let q := d.mpiPath (.nvme id.port); q.unread = false)))) ∧
    (let s : State := wst [] fun d => (online d).setPath (.nvme .A) { (d.mpiPath (.nvme .A)) with unread := true, reply := (sample 0x0001) };
      (let id : CmdId := cid; (let len := (15 : Nat); s.dev.admits id = true ∧ (let d := s.dev.wakeHost id.port;
      (let q := d.mpiPath (.nvme id.port); q.unread = true ∧ len < 4 * q.reply.length))))) ∧
    (let s : State := wst [] fun d => (online d).setPath (.nvme .A) { (d.mpiPath (.nvme .A)) with unread := true, reply := (sample 0x0001) };
      (let id : CmdId := cid; (let len := (16 : Nat); s.dev.admits id = true ∧ (let d := s.dev.wakeHost id.port;
      (let q := d.mpiPath (.nvme id.port); q.unread = true ∧ 4 * q.reply.length ≤ len))))) ∧
    (let s : State := wst [(Reg.SYS_BOOT_STEP, 5)] fun d => d; s.dev.serves .uart = true) ∧
    (let s : State := wst [(Reg.SYS_BOOT_STEP, 4)] fun d => d; s.dev.serves .uart = false) :=
  ⟨by decide +kernel, by decide +kernel, by decide +kernel, by decide +kernel, by decide +kernel, by decide +kernel,
   by decide +kernel, by decide +kernel, by decide +kernel, by decide +kernel, by decide +kernel, by decide +kernel⟩

/-! ### Hypotheses met where the state is large or a step is named -/

theorem fresh_sound : (Dev.fresh .D).Sound := by constructor <;> decide +kernel

theorem witness_EveryStepKeepsSoundness : ∃ s t : State, s.Sound ∧ step s = .next t ∧ s.pending ≠ [] :=
  ⟨⟨[.spinUp], Dev.fresh .D⟩, _, ⟨fresh_sound, by decide +kernel⟩, rfl, by decide⟩

theorem witness_ContentsFrame : ∃ (c : Instr) (s t : State), s.dev.Sound ∧ exec c s = .next t ∧ c.reachesMemory = false ∧
    c.reachesFlash = false ∧ c.reachesMedia = false :=
  ⟨.spinUp, ⟨[], Dev.fresh .D⟩, _, fresh_sound, rfl, rfl, rfl, rfl⟩

/-- A recorder of n equal records. -/
def fullOf (n : Nat) (l : HbRec) : Dev := (Dev.fresh .D).onHb fun h => { h with ready := true, recs := List.replicate n l }

theorem fullOf_records (n : Nat) (l : HbRec) :
    (fullOf (n + 1) l).hb.recs.length = n + 1 ∧ (fullOf (n + 1) l).hb.recs.getLast? = some l := by
  constructor
  · exact List.length_replicate
  · show (List.replicate (n + 1) l).getLast? = some l
    simp [List.getLast?_replicate]

def spnRec : HbRec :=
  { code := 5, block := Block.spn.index, rep := 3, boot := 0, time := 0, src := 0, stamp := 0, arg0 := 0, arg1 := 0 }

theorem spnRec_same (n k : Nat) : (spnRec.same ((fullOf n spnRec).hbRec k .spn 0 0) = decide (5 = k)) := by
  show (decide (5 = k) && decide (Block.spn.index = Block.spn.index) && decide (0 = 0) && decide (0 = 0)) = decide (5 = k)
  simp

theorem witness_RecorderFull : (∃ (s : State) (l : HbRec), s.dev.hb.ready = true ∧ s.dev.hb.clearing = false ∧
      s.dev.hb.recs.getLast? = some l ∧ s.dev.hb.recs.length = 65535 ∧ s.dev.hb.full = false ∧
      (l.same (s.dev.hbRec 5 .spn 0 0) && decide (l.rep < 0xFFFF) && !s.dev.hb.frozenAt 65534) = true ∧
      (l.same (s.dev.hbRec 4095 .spn 0 0) && decide (l.rep < 0xFFFF) && !s.dev.hb.frozenAt 65534) = false) :=
  ⟨⟨[], fullOf (65534 + 1) spnRec⟩, spnRec, rfl, rfl, (fullOf_records 65534 spnRec).2, (fullOf_records 65534 spnRec).1, rfl,
    by rw [spnRec_same]; rfl, by rw [spnRec_same]; rfl⟩

/-! ### Ill-formed commands, one for each check -/

def wid : CmdId := { port := .A, sq := 65536, cid := 0 }

theorem test_illformed_command_id : (Instr.flush wid false).wellFormed = false := by decide
theorem test_illformed_namespace : (Instr.identify cid 0 (2 ^ 32) 0).wellFormed = false := by decide
theorem test_illformed_block : (Instr.write cid 1 0 [2 ^ 32768] 0 false .ok).wellFormed = false := by decide +kernel
theorem test_illformed_lba : (Instr.resetZone cid 1 (2 ^ 64) false false).wellFormed = false := by decide
theorem test_illformed_queue : (Instr.deleteIoSubmissionQueue cid 65536).wellFormed = false := by decide
theorem test_illformed_address : (Instr.registerWrite .debug 2 0 (call 1 []).o.fabric).wellFormed = false ∧
    (Instr.rcRead .debug (2 ^ 24) (call 1 []).o.fabric).wellFormed = false := by decide
theorem test_illformed_mark : (Instr.addressMark .a0 1024 0 true).wellFormed = false ∧
    (Instr.addressMark .a0 0 (2 ^ 18) true).wellFormed = false := by decide
theorem test_illformed_head : (Instr.servoReqSeek .a0 12).wellFormed = false := by decide
theorem test_illformed_lane : (Instr.readerFail .a0 0 3).wellFormed = false ∧ (Instr.lanePowerFault .a0 3).wellFormed = false := by decide
theorem test_illformed_heads : (Instr.laneFailClear .a0 (some 12) 1).wellFormed = false := by decide
theorem test_illformed_argument : (Instr.post .a0 16).wellFormed = false ∧ (Instr.plankFind .a0 16).wellFormed = false ∧
    (Instr.heater .a0 16).wellFormed = false := by decide
theorem test_illformed_record : (Instr.averageComplete .a0 [(64, 0#32)]).wellFormed = false := by decide
theorem test_illformed_surface : (Instr.garbageCollection 24).wellFormed = false := by decide
theorem test_illformed_mram_unit : (Instr.scrubPass false 0 [2 ^ 22]).wellFormed = false := by decide
theorem test_illformed_crown : (Instr.crownRead (.core 0) 124 8 { ways := 0, plru := false }).wellFormed = false ∧
    (Instr.crownWrite (.core 0) (2 ^ 34) [(1, false), (2, false), (3, false), (4, false)] { ways := 0, plru := false }).wellFormed = false ∧ (Instr.fillGranule (2 ^ 27)).wellFormed = false := by decide
theorem test_illformed_maintenance : (Instr.maintReadTag 1024 0).wellFormed = false ∧ (Instr.maintFence 0 16).wellFormed = false := by decide
theorem test_illformed_bank : (Instr.flashClear 2).wellFormed = false ∧ (Instr.flashBusFault none (2 ^ 25)).wellFormed = false := by decide
theorem test_illformed_domain : (Instr.domainOff 80 true).wellFormed = false := by decide
theorem test_illformed_temperature : (Instr.thermalSample 0 0 0 0 32768).wellFormed = false := by decide
theorem test_illformed_pins : (Instr.powerGood 16 false).wellFormed = false := by decide
theorem test_illformed_holder : (Instr.holderBusIdle 6).wellFormed = false := by decide
theorem test_illformed_output : (Instr.motorOutputShort 5).wellFormed = false := by decide
theorem test_illformed_packet : (Instr.echo .uart (sample 0x0002) (call 1 []).o).wellFormed = false ∧
    (Instr.mpiSend cid [0#32, 0#32, 0#32] (call 1 []).o).wellFormed = false := by decide +kernel
theorem test_wellformed_packets : (Instr.echo .uart (sample 0x0001) (call 1 []).o).wellFormed = true ∧
    (Instr.heartbeat .twin (sample 0x0804) (call 1 []).o).wellFormed = true := by decide +kernel

/-! ### Worked examples of the manual -/

/-- Table 14.4. -/
theorem test_byte_code : checkBits 4 8 0x3C = 0x12 ∧ eccDecode 4 8 0x3C 0x12 = .clean ∧ eccDecode 4 8 0x1C 0x12 = .flip 5 ∧
    eccDecode 4 8 0x1D 0x12 = .bad ∧ eccDecode 4 8 0x3C 0x0D = .bad := by decide +kernel

/-- Table 15.2: the set, the walk to way 0, the hit on way 0, the walk to way 8 and the install. -/
theorem test_victim_walk : crownSet (0x123456780 / 128) = 0x2CF ∧ crownTag (0x123456780 / 128) = 0x91A2 ∧
    plruWalk 0 (fun _ => true) 4 1 = 16 ∧ plruTouch 0 0 = 0x0116 ∧ plruWalk 0x0116 (fun _ => true) 4 1 = 24 ∧
    plruTouch 0x0116 8 = 0x115C := by decide +kernel

/-- Table 13.2. -/
theorem test_felt_column : feltP [(0, 0x5A), (1, 0x3C), (2, 0x81), (3, 0x07)] = 0xE0 ∧
    feltQ [(0, 0x5A), (1, 0x3C), (2, 0x81), (3, 0x07)] = 0x24 ∧
    solveTwo 0xE0 0x24 1 3 [(0, 0x5A), (2, 0x81)] = (0x3C, 0x07) := by decide +kernel

/-- Table 19.7: the open ticket of bank 1 at the reset. -/
theorem test_ticket_rewritten :
    ((wst [] fun d => d.setTicket 1 { op := 2, phase := 0, bank := 1, copy := 0, first := 0, count := 192, done := 84 }).dev.handleTickets).ticket 1 =
      { op := 1, phase := 0, bank := 1, copy := 0, first := 85, count := 107, done := 0 } := by decide +kernel

/-- R62's costs of the Unrek-60, felt parity on: the plan that TLER 1 fixes, and the word of R420. -/
def unrek (d : Dev) : Dev :=
  ([(0, 2), (1, 8), (2, 36), (3, 3600), (4, 2400), (5, 1500), (6, 1800), (7, 3000)] : List (Nat × Nat)).foldl
    (fun d p => d.setF (Reg.cost p.1) p.2)
    ((((d.setF Reg.FLT_CFG_ON 1).setF ((Reg.SRV_SEEK_TBL_DIST.nth 0).on .a0) 1).setF ((Reg.SRV_SEEK_TBL_TICKS.nth 0).on .a0) 1260).setF
      Reg.SIZ_FLOOR_FLOOR_100MS 1)

theorem test_recovery_word : (unrek (Dev.fresh .D)).floorTicks = 1978 ∧
    (match exec (.getErrorRecoveryVendorData cid 1) (wst [] fun d => (online (unrek d)).onHost fun x => { x with feats := [(0x501, 1)] }) with
      | .next t => t.dev.completions.map fun c => c.dw0
      | _ => []) = [0x80100000] := by decide +kernel

/-- Table 18.7: SYS_CAPS read over the UART. -/
theorem test_uart_exchange :
    (match exec (.regRead .uart [0x01010007#32, 0x01000006#32, 0#32, 0x00010004#32, 0x00000008#32,
        BitVec.ofNat 32 (crc32Words [0x01010007#32, 0x01000006#32, 0#32, 0x00010004#32, 0x00000008#32])] (call 1 []).o)
        (wst [(Reg.SYS_BOOT_STEP, 11)] id) with
      | .next t => (t.dev.mpi.sent.map fun x => x.2.take 5)
      | _ => []) = [[0x01010007#32, 0x01000006#32, 0#32, 0x00800004#32, 0x018C00FF#32]] := by decide +kernel

/-- Table 17.3, the first row: B's claim is granted, and Dword 0 says so. -/
theorem test_claim_granted :
    (match exec (.semaphoreClaim { port := .B, sq := 0, cid := 1 }) (wst [] fun d => (online d).onCtrl .B fun c => { c with en := true, rdy := true }) with
      | .next t => (t.dev.semHolder, t.dev.completions.map fun c => c.dw0)
      | _ => (0, [])) = (2, [0x00010000]) := by decide +kernel

end Sys2Proof.Tests
end

/-! ### What every command keeps: soundness, and what has been given out -/

namespace Sys2Proof.Machine

/-- The demand on a device that its variant stays, its write sequence number does not fall, and nothing given out is
taken back; the stored contents are left free. -/
def Dev.outputKeep (d : Dev) : Keep :=
  { variant := d.variant, cells := none, flash := none, recs := none, wseq := d.media.wseq, done := d.completions,
    sent := d.mpi.sent }

/-- A sound device meets its own demand. -/
theorem Dev.holds_outputKeep {d : Dev} (h : d.Sound) : d.Holds d.outputKeep where
  sound := h
  variant := rfl
  cells := nofun
  flash := nofun
  recs := nofun
  wseq := le_rfl
  done := List.suffix_rfl
  sent := List.suffix_rfl

/-- Every command answers a next state with the queue as it was, and carries every demand that leaves free what the
command can reach: each arm cites the lemma of its own effect. -/
theorem exec_holds {kp : Keep} {s : State} (hk : s.dev.Holds kp) : ∀ i : Instr,
    (i.reachesMemory = true → kp.cells = none) → (i.reachesFlash = true → kp.flash = none) →
    (i.reachesMedia = true → kp.recs = none) → ∃ d, exec i s = s.next d ∧ d.Holds kp
  | .registerWrite .., hc, _, hr => execRegisterWrite_holds hk (hc rfl) (hr rfl) ..
  | .rcRead .., _, _, _ => execRcRead_holds hk ..
  | .tickNowLoRead .., _, _, _ => execTickNowLoRead_holds hk ..
  | .tickEdge .., hc, hf, hr => execTickEdge_holds hk (hc rfl) (hf rfl) (hr rfl) ..
  | .addressMark .., _, _, _ => execAddressMark_holds hk ..
  | .missedMark .., _, _, _ => execMissedMark_holds hk ..
  | .flywheelLimit, _, _, _ => execFlywheelLimit_holds hk
  | .stampFire .., _, _, hr => execStampFire_holds hk (hr rfl) ..
  | .unitRequest .., _, _, _ => execUnitRequest_holds hk ..
  | .unitResponse .., _, _, _ => execUnitResponse_holds hk ..
  | .unitReset .., hc, _, _ => execUnitReset_holds hk (hc rfl) ..
  | .readyNotice .., hc, _, _ => execReadyNotice_holds hk (hc rfl) ..
  | .commit .., _, _, _ => execCommit_holds hk ..
  | .discard, _, _, _ => execDiscard_holds hk
  | .microword .., _, _, hr => execMicroword_holds hk (hr rfl) ..
  | .conditionWait .., _, _, _ => execConditionWait_holds hk ..
  | .readFrag .., _, _, hr => execReadFrag_holds hk (hr rfl) ..
  | .writeFrag .., _, _, hr => execWriteFrag_holds hk (hr rfl) ..
  | .loadRec .., _, _, _ => execLoadRec_holds hk ..
  | .feltArm .., _, _, _ => execFeltArm_holds hk ..
  | .heater .., _, _, _ => execHeater_holds hk ..
  | .servoReqSeek .., _, _, _ => execServoReqSeek_holds hk ..
  | .servoReqSelect .., _, _, _ => execServoReqSelect_holds hk ..
  | .servoReqLoad .., _, _, _ => execServoReqLoad_holds hk ..
  | .servoReqUnload .., _, _, _ => execServoReqUnload_holds hk ..
  | .post .., _, _, hr => execPost_holds hk (hr rfl) ..
  | .accept .., _, _, _ => execAccept_holds hk ..
  | .holdSamples .., _, _, _ => execHoldSamples_holds hk ..
  | .rawCheck .., _, _, hr => execRawCheck_holds hk (hr rfl) ..
  | .trace .., _, _, _ => execTrace_holds hk ..
  | .return .., _, _, _ => execReturn_holds hk ..
  | .abandon .., _, _, _ => execAbandon_holds hk ..
  | .plankBind .., _, _, _ => execPlankBind_holds hk ..
  | .plankFind .., _, _, _ => execPlankFind_holds hk ..
  | .plankAdvance .., _, _, _ => execPlankAdvance_holds hk ..
  | .preBias .., _, _, _ => execPreBias_holds hk ..
  | .backOffStart .., _, _, _ => execBackOffStart_holds hk ..
  | .operate .., _, _, _ => execOperate_holds hk ..
  | .assistOff .., _, _, _ => execAssistOff_holds hk ..
  | .unwindStep .., _, _, _ => execUnwindStep_holds hk ..
  | .assistSelfOff .., _, _, _ => execAssistSelfOff_holds hk ..
  | .queueReset .., _, _, hr => execQueueReset_holds hk (hr rfl) ..
  | .blkHalt .., _, _, _ => execBlkHalt_holds hk ..
  | .blkResume .., _, _, _ => execBlkResume_holds hk ..
  | .blkStep .., _, _, hr => execBlkStep_holds hk (hr rfl) ..
  | .cstData3Write .., _, _, _ => execCstData3Write_holds hk ..
  | .cstData3Read .., _, _, _ => execCstData3Read_holds hk ..
  | .microcodeImageWrite .., _, _, _ => execMicrocodeImageWrite_holds hk ..
  | .synthLocked .., _, _, _ => execSynthLocked_holds hk ..
  | .averageComplete .., _, _, _ => execAverageComplete_holds hk ..
  | .writeBackBatch .., _, _, _ => execWriteBackBatch_holds hk ..
  | .readerFail .., _, _, _ => execReaderFail_holds hk ..
  | .laneFail .., _, _, _ => execLaneFail_holds hk ..
  | .lanePowerFault .., _, _, _ => execLanePowerFault_holds hk ..
  | .laneFailClear .., _, _, _ => execLaneFailClear_holds hk ..
  | .decodeStart .., _, _, _ => execDecodeStart_holds hk ..
  | .decodeDone .., _, _, hr => execDecodeDone_holds hk (hr rfl) ..
  | .rungCostElapsed .., _, _, hr => execRungCostElapsed_holds hk (hr rfl) ..
  | .reconstruction .., _, _, hr => execReconstruction_holds hk (hr rfl) ..
  | .reconstructionBound .., _, _, hr => execReconstructionBound_holds hk (hr rfl) ..
  | .servoFieldEnd .., _, _, _ => execServoFieldEnd_holds hk ..
  | .offtrackRequalified .., _, _, _ => execOfftrackRequalified_holds hk ..
  | .pesMissLimit .., _, _, _ => execPesMissLimit_holds hk ..
  | .reacquisitionTimeout .., _, _, _ => execReacquisitionTimeout_holds hk ..
  | .transferTimeout .., _, _, _ => execTransferTimeout_holds hk ..
  | .injectionStart .., _, _, _ => execInjectionStart_holds hk ..
  | .capCtlArm .., _, _, _ => execCapCtlArm_holds hk ..
  | .capCtlAbort .., _, _, _ => execCapCtlAbort_holds hk ..
  | .capDataRead .., _, _, _ => execCapDataRead_holds hk ..
  | .trajectoryStart .., _, _, _ => execTrajectoryStart_holds hk ..
  | .trajectoryEnd .., _, _, _ => execTrajectoryEnd_holds hk ..
  | .settleLate .., _, _, _ => execSettleLate_holds hk ..
  | .staggerExpiry, _, _, _ => execStaggerExpiry_holds hk
  | .shockSensorTrigger .., _, _, _ => execShockSensorTrigger_holds hk ..
  | .shockClear .., _, _, _ => execShockClear_holds hk ..
  | .shockPark .., _, _, _ => execShockPark_holds hk ..
  | .loadTimeout .., _, _, _ => execLoadTimeout_holds hk ..
  | .unloadVelocityLow .., _, _, _ => execUnloadVelocityLow_holds hk ..
  | .latchEnd .., _, _, _ => execLatchEnd_holds hk ..
  | .pwrRetGo, _, _, _ => execPwrRetGo_holds hk
  | .commandFrameTimeout .., _, _, _ => execCommandFrameTimeout_holds hk ..
  | .retractRegulationEnd, _, _, _ => execRetractRegulationEnd_holds hk
  | .retractLatchEnd, _, _, _ => execRetractLatchEnd_holds hk
  | .commutationStep .., _, _, _ => execCommutationStep_holds hk ..
  | .zeroCrossing .., _, _, _ => execZeroCrossing_holds hk ..
  | .missedCrossing, _, _, _ => execMissedCrossing_holds hk
  | .spnCtlRun .., _, _, _ => execSpnCtlRun_holds hk ..
  | .senseEnd .., _, _, _ => execSenseEnd_holds hk ..
  | .brakeEnd, _, _, _ => execBrakeEnd_holds hk
  | .alignEnd, _, _, _ => execAlignEnd_holds hk
  | .forcedStep, _, _, _ => execForcedStep_holds hk
  | .lockedRotor, _, _, _ => execLockedRotor_holds hk
  | .lockRetry, _, _, _ => execLockRetry_holds hk
  | .startTimeout, _, _, _ => execStartTimeout_holds hk
  | .coastEnd, _, _, _ => execCoastEnd_holds hk
  | .catchTimeout, _, _, _ => execCatchTimeout_holds hk
  | .supplyDrop .., hc, hf, _ => execSupplyDrop_holds hk (hc rfl) (hf rfl) ..
  | .powerFail, hc, hf, _ => execPowerFail_holds hk (hc rfl) (hf rfl)
  | .vaultSeal .., hc, hf, _ => execVaultSeal_holds hk (hc rfl) (hf rfl) ..
  | .vholdLost, hc, hf, _ => execVholdLost_holds hk (hc rfl) (hf rfl)
  | .supplyGood .., _, _, _ => execSupplyGood_holds hk ..
  | .vaultArm, _, _, _ => execVaultArm_holds hk
  | .vaultUnhealthy, _, _, _ => execVaultUnhealthy_holds hk
  | .write .., _, _, hr => execWrite_holds hk (hr rfl) ..
  | .writeAccept .., _, _, hr => execWriteAccept_holds hk (hr rfl) ..
  | .holdExpired .., _, _, hr => execHoldExpired_holds hk (hr rfl) ..
  | .journalCheckpoint, _, _, _ => execJournalCheckpoint_holds hk
  | .zoneAppend .., _, _, hr => execZoneAppend_holds hk (hr rfl) ..
  | .openZone .., _, _, hr => execOpenZone_holds hk (hr rfl) ..
  | .closeZone .., _, _, hr => execCloseZone_holds hk (hr rfl) ..
  | .finishZone .., _, _, hr => execFinishZone_holds hk (hr rfl) ..
  | .resetZone .., _, _, hr => execResetZone_holds hk (hr rfl) ..
  | .offlineZone .., _, _, hr => execOfflineZone_holds hk (hr rfl) ..
  | .setZoneDescriptorExtension .., _, _, hr => execSetZoneDescriptorExtension_holds hk (hr rfl) ..
  | .reportZones .., _, _, hr => execReportZones_holds hk (hr rfl) ..
  | .extendedReportZones .., _, _, hr => execExtendedReportZones_holds hk (hr rfl) ..
  | .feltCheckpoint, _, _, _ => execFeltCheckpoint_holds hk
  | .garbageCollection .., _, _, _ => execGarbageCollection_holds hk ..
  | .headHealthUpdate .., _, _, _ => execHeadHealthUpdate_holds hk ..
  | .agingCompensation .., _, _, _ => execAgingCompensation_holds hk ..
  | .temperatureFrame .., _, _, _ => execTemperatureFrame_holds hk ..
  | .temperatureFrameLost .., _, _, _ => execTemperatureFrameLost_holds hk ..
  | .assistIlimLimit .., _, _, _ => execAssistIlimLimit_holds hk ..
  | .controlRequest .., _, _, _ => execControlRequest_holds hk ..
  | .controlResponse .., _, _, _ => execControlResponse_holds hk ..
  | .responseLost .., _, _, _ => execResponseLost_holds hk ..
  | .faultLine .., _, _, _ => execFaultLine_holds hk ..
  | .faultLineStuck .., _, _, _ => execFaultLineStuck_holds hk ..
  | .tnlRetrainGo .., _, _, _ => execTnlRetrainGo_holds hk ..
  | .paAccGo .., _, _, _ => execPaAccGo_holds hk ..
  | .correctionWriteBack, hc, _, _ => execCorrectionWriteBack_holds hk (hc rfl)
  | .fenceAdvance .., hc, _, _ => execFenceAdvance_holds hk (hc rfl) ..
  | .fenceDone, hc, _, _ => execFenceDone_holds hk (hc rfl)
  | .scrubPass .., hc, _, _ => execScrubPass_holds hk (hc rfl) ..
  | .bufTestGo .., hc, _, _ => execBufTestGo_holds hk (hc rfl) ..
  | .dmcTestGo .., hc, _, _ => execDmcTestGo_holds hk (hc rfl) ..
  | .crownRead .., hc, _, _ => execCrownRead_holds hk (hc rfl) ..
  | .crownWrite .., hc, _, _ => execCrownWrite_holds hk (hc rfl) ..
  | .fillGranule .., hc, _, _ => execFillGranule_holds hk (hc rfl) ..
  | .battDrain .., hc, _, _ => execBattDrain_holds hk (hc rfl) ..
  | .crownFence .., hc, _, _ => execCrownFence_holds hk (hc rfl) ..
  | .coherenceReport .., hc, _, _ => execCoherenceReport_holds hk (hc rfl) ..
  | .maintInvalidateLine .., hc, _, _ => execMaintInvalidateLine_holds hk (hc rfl) ..
  | .maintInvalidateWay .., hc, _, _ => execMaintInvalidateWay_holds hk (hc rfl) ..
  | .maintInvalidateAll .., hc, _, _ => execMaintInvalidateAll_holds hk (hc rfl) ..
  | .maintFence .., hc, _, _ => execMaintFence_holds hk (hc rfl) ..
  | .maintPrefetch .., hc, _, _ => execMaintPrefetch_holds hk (hc rfl) ..
  | .maintReadTag .., hc, _, _ => execMaintReadTag_holds hk (hc rfl) ..
  | .read .., _, _, hr => execRead_holds hk (hr rfl) ..
  | .writeZeroes .., _, _, hr => execWriteZeroes_holds hk (hr rfl) ..
  | .flush .., _, _, hr => execFlush_holds hk (hr rfl) ..
  | .abort .., _, _, _ => execAbort_holds hk ..
  | .deleteIoSubmissionQueue .., _, _, hr => execDeleteIoSubmissionQueue_holds hk (hr rfl) ..
  | .deleteIoCompletionQueue .., _, _, _ => execDeleteIoCompletionQueue_holds hk ..
  | .createIoSubmissionQueue .., _, _, _ => execCreateIoSubmissionQueue_holds hk ..
  | .createIoCompletionQueue .., _, _, _ => execCreateIoCompletionQueue_holds hk ..
  | .getLogPage .., _, _, _ => execGetLogPage_holds hk ..
  | .pelContextEstablish .., _, _, _ => execPelContextEstablish_holds hk ..
  | .pelContextRelease .., _, _, _ => execPelContextRelease_holds hk ..
  | .identify .., _, _, _ => execIdentify_holds hk ..
  | .asynchronousEventRequest .., _, _, _ => execAsynchronousEventRequest_holds hk ..
  | .setArbitration .., _, _, _ => execSetArbitration_holds hk ..
  | .setPowerManagement .., _, _, _ => execSetPowerManagement_holds hk ..
  | .setTemperatureThreshold .., _, hf, _ => execSetTemperatureThreshold_holds hk (hf rfl) ..
  | .setErrorRecovery .., _, hf, _ => execSetErrorRecovery_holds hk (hf rfl) ..
  | .setVolatileWriteCache .., _, _, _ => execSetVolatileWriteCache_holds hk ..
  | .setNumberOfQueues .., _, _, _ => execSetNumberOfQueues_holds hk ..
  | .setInterruptCoalescing .., _, _, _ => execSetInterruptCoalescing_holds hk ..
  | .setInterruptVectorConfiguration .., _, _, _ => execSetInterruptVectorConfiguration_holds hk ..
  | .setWriteAtomicityNormal .., _, _, _ => execSetWriteAtomicityNormal_holds hk ..
  | .setAsyncEventConfiguration .., _, _, _ => execSetAsyncEventConfiguration_holds hk ..
  | .setTimestamp .., _, hf, _ => execSetTimestamp_holds hk (hf rfl) ..
  | .getFeatures .., _, _, _ => execGetFeatures_holds hk ..
  | .getZoneReorder .., _, _, _ => execGetZoneReorder_holds hk ..
  | .getErrorRecoveryVendorData .., _, _, _ => execGetErrorRecoveryVendorData_holds hk ..
  | .firmwareImageDownload .., _, _, _ => execFirmwareImageDownload_holds hk ..
  | .firmwareCommitCa000 .., _, hf, _ => execFirmwareCommitCa000_holds hk (hf rfl) ..
  | .firmwareCommitCa001 .., _, hf, _ => execFirmwareCommitCa001_holds hk (hf rfl) ..
  | .firmwareCommitCa010 .., _, hf, _ => execFirmwareCommitCa010_holds hk (hf rfl) ..
  | .firmwareCommitCa011 .., _, hf, _ => execFirmwareCommitCa011_holds hk (hf rfl) ..
  | .activationStep, _, hf, _ => execActivationStep_holds hk (hf rfl)
  | .namespaceAttachment .., _, _, _ => execNamespaceAttachment_holds hk ..
  | .formatNvm .., _, hf, _ => execFormatNvm_holds hk (hf rfl) ..
  | .sanitizeExitFailureMode .., _, hf, _ => execSanitizeExitFailureMode_holds hk (hf rfl) ..
  | .sanitizeOverwrite .., _, hf, _ => execSanitizeOverwrite_holds hk (hf rfl) ..
  | .sanitizeCryptoErase .., _, hf, _ => execSanitizeCryptoErase_holds hk (hf rfl) ..
  | .nvmeMiSend .., hc, hf, hr => execNvmeMiSend_holds hk (hc rfl) (hf rfl) (hr rfl) ..
  | .nvmeMiReceive .., _, _, _ => execNvmeMiReceive_holds hk ..
  | .mpiSend .., hc, hf, hr => execMpiSend_holds hk (hc rfl) (hf rfl) (hr rfl) ..
  | .mpiReceive .., _, _, _ => execMpiReceive_holds hk ..
  | .semaphoreClaim .., _, hf, _ => execSemaphoreClaim_holds hk (hf rfl) ..
  | .semaphoreRelease .., _, hf, _ => execSemaphoreRelease_holds hk (hf rfl) ..
  | .semaphoreAbandoned, _, hf, _ => execSemaphoreAbandoned_holds hk (hf rfl)
  | .controllerReset .., _, _, hr => execControllerReset_holds hk (hr rfl) ..
  | .ccEnSet .., _, _, _ => execCcEnSet_holds hk ..
  | .normalShutdown .., _, _, hr => execNormalShutdown_holds hk (hr rfl) ..
  | .abruptShutdown .., _, _, _ => execAbruptShutdown_holds hk ..
  | .powerStateTransition, _, _, hr => execPowerStateTransition_holds hk (hr rfl)
  | .basicManagementCommand .., _, _, _ => execBasicManagementCommand_holds hk ..
  | .readNvmeMiDataStructure .., _, _, _ => execReadNvmeMiDataStructure_holds hk ..
  | .nvmSubsystemHealthStatusPoll .., _, _, _ => execNvmSubsystemHealthStatusPoll_holds hk ..
  | .controllerHealthStatusPoll .., _, _, _ => execControllerHealthStatusPoll_holds hk ..
  | .configurationGet .., _, _, _ => execConfigurationGet_holds hk ..
  | .configurationSet .., _, _, _ => execConfigurationSet_holds hk ..
  | .vpdRead .., _, _, _ => execVpdRead_holds hk ..
  | .tunnelledAdminCommand .., _, _, _ => execTunnelledAdminCommand_holds hk ..
  | .vendorSpecificMessage .., hc, hf, hr => execVendorSpecificMessage_holds hk (hc rfl) (hf rfl) (hr rfl) ..
  | .mirrorRecord, _, _, _ => execMirrorRecord_holds hk
  | .mirrorAck, _, _, _ => execMirrorAck_holds hk
  | .complexSync .., _, _, _ => execComplexSync_holds hk ..
  | .heartbeatTimeout .., hc, hf, _ => execHeartbeatTimeout_holds hk (hc rfl) (hf rfl) ..
  | .lockstepMismatch .., hc, hf, _ => execLockstepMismatch_holds hk (hc rfl) (hf rfl) ..
  | .cpxToX .., _, _, _ => execCpxToX_holds hk ..
  | .cpxToY .., _, _, _ => execCpxToY_holds hk ..
  | .cpxSemFree .., _, _, _ => execCpxSemFree_holds hk ..
  | .echo .., hc, hf, hr => execEcho_holds hk (hc rfl) (hf rfl) (hr rfl) ..
  | .getInfo .., hc, hf, hr => execGetInfo_holds hk (hc rfl) (hf rfl) (hr rfl) ..
  | .semClaim .., hc, hf, hr => execSemClaim_holds hk (hc rfl) (hf rfl) (hr rfl) ..
  | .semRelease .., hc, hf, hr => execSemRelease_holds hk (hc rfl) (hf rfl) (hr rfl) ..
  | .semStatus .., hc, hf, hr => execSemStatus_holds hk (hc rfl) (hf rfl) (hr rfl) ..
  | .jobStatus .., hc, hf, hr => execJobStatus_holds hk (hc rfl) (hf rfl) (hr rfl) ..
  | .jobAbort .., hc, hf, hr => execJobAbort_holds hk (hc rfl) (hf rfl) (hr rfl) ..
  | .jobStatusExpired .., _, _, _ => execJobStatusExpired_holds hk ..
  | .regRead .., hc, hf, hr => execRegRead_holds hk (hc rfl) (hf rfl) (hr rfl) ..
  | .regWrite .., hc, hf, hr => execRegWrite_holds hk (hc rfl) (hf rfl) (hr rfl) ..
  | .regWriteBatch .., hc, hf, hr => execRegWriteBatch_holds hk (hc rfl) (hf rfl) (hr rfl) ..
  | .regPoll .., hc, hf, hr => execRegPoll_holds hk (hc rfl) (hf rfl) (hr rfl) ..
  | .memRead .., hc, hf, hr => execMemRead_holds hk (hc rfl) (hf rfl) (hr rfl) ..
  | .memWrite .., hc, hf, hr => execMemWrite_holds hk (hc rfl) (hf rfl) (hr rfl) ..
  | .cfgCommit .., hc, hf, hr => execCfgCommit_holds hk (hc rfl) (hf rfl) (hr rfl) ..
  | .cfgDiscard .., hc, hf, hr => execCfgDiscard_holds hk (hc rfl) (hf rfl) (hr rfl) ..
  | .cfgStatus .., hc, hf, hr => execCfgStatus_holds hk (hc rfl) (hf rfl) (hr rfl) ..
  | .sizerCheck .., hc, hf, hr => execSizerCheck_holds hk (hc rfl) (hf rfl) (hr rfl) ..
  | .tableWrite .., hc, hf, hr => execTableWrite_holds hk (hc rfl) (hf rfl) (hr rfl) ..
  | .tableRead .., hc, hf, hr => execTableRead_holds hk (hc rfl) (hf rfl) (hr rfl) ..
  | .cstWrite .., hc, hf, hr => execCstWrite_holds hk (hc rfl) (hf rfl) (hr rfl) ..
  | .profileLoad .., hc, hf, hr => execProfileLoad_holds hk (hc rfl) (hf rfl) (hr rfl) ..
  | .profileSection .., hc, hf, hr => execProfileSection_holds hk (hc rfl) (hf rfl) (hr rfl) ..
  | .profileDownload .., hc, hf, hr => execProfileDownload_holds hk (hc rfl) (hf rfl) (hr rfl) ..
  | .profileStore .., hc, hf, hr => execProfileStore_holds hk (hc rfl) (hf rfl) (hr rfl) ..
  | .profileSelect .., hc, hf, hr => execProfileSelect_holds hk (hc rfl) (hf rfl) (hr rfl) ..
  | .calRegWrite .., hc, hf, hr => execCalRegWrite_holds hk (hc rfl) (hf rfl) (hr rfl) ..
  | .spindleRun .., hc, hf, hr => execSpindleRun_holds hk (hc rfl) (hf rfl) (hr rfl) ..
  | .headLoad .., hc, hf, hr => execHeadLoad_holds hk (hc rfl) (hf rfl) (hr rfl) ..
  | .seek .., hc, hf, hr => execSeek_holds hk (hc rfl) (hf rfl) (hr rfl) ..
  | .inject .., hc, hf, hr => execInject_holds hk (hc rfl) (hf rfl) (hr rfl) ..
  | .captureArm .., hc, hf, hr => execCaptureArm_holds hk (hc rfl) (hf rfl) (hr rfl) ..
  | .captureRead .., hc, hf, hr => execCaptureRead_holds hk (hc rfl) (hf rfl) (hr rfl) ..
  | .preampAccess .., hc, hf, hr => execPreampAccess_holds hk (hc rfl) (hf rfl) (hr rfl) ..
  | .linkRetrain .., hc, hf, hr => execLinkRetrain_holds hk (hc rfl) (hf rfl) (hr rfl) ..
  | .readerClear .., hc, hf, hr => execReaderClear_holds hk (hc rfl) (hf rfl) (hr rfl) ..
  | .assistRecal .., hc, hf, hr => execAssistRecal_holds hk (hc rfl) (hf rfl) (hr rfl) ..
  | .eccInject .., hc, hf, hr => execEccInject_holds hk (hc rfl) (hf rfl) (hr rfl) ..
  | .handover .., hc, hf, hr => execHandover_holds hk (hc rfl) (hf rfl) (hr rfl) ..
  | .trackRead .., hc, hf, hr => execTrackRead_holds hk (hc rfl) (hf rfl) (hr rfl) ..
  | .trackScan .., hc, hf, hr => execTrackScan_holds hk (hc rfl) (hf rfl) (hr rfl) ..
  | .replayRead .., hc, hf, hr => execReplayRead_holds hk (hc rfl) (hf rfl) (hr rfl) ..
  | .lbaToPhys .., hc, hf, hr => execLbaToPhys_holds hk (hc rfl) (hf rfl) (hr rfl) ..
  | .defectRead .., hc, hf, hr => execDefectRead_holds hk (hc rfl) (hf rfl) (hr rfl) ..
  | .defectPend .., hc, hf, hr => execDefectPend_holds hk (hc rfl) (hf rfl) (hr rfl) ..
  | .headFail .., hc, hf, hr => execHeadFail_holds hk (hc rfl) (hf rfl) (hr rfl) ..
  | .reconRead .., hc, hf, hr => execReconRead_holds hk (hc rfl) (hf rfl) (hr rfl) ..
  | .hatbandRead .., hc, hf, hr => execHatbandRead_holds hk (hc rfl) (hf rfl) (hr rfl) ..
  | .hatbandClear .., hc, hf, hr => execHatbandClear_holds hk (hc rfl) (hf rfl) (hr rfl) ..
  | .hatbandArchive .., hc, hf, hr => execHatbandArchive_holds hk (hc rfl) (hf rfl) (hr rfl) ..
  | .counters .., hc, hf, hr => execCounters_holds hk (hc rfl) (hf rfl) (hr rfl) ..
  | .headHealth .., hc, hf, hr => execHeadHealth_holds hk (hc rfl) (hf rfl) (hr rfl) ..
  | .feltLog .., hc, hf, hr => execFeltLog_holds hk (hc rfl) (hf rfl) (hr rfl) ..
  | .vaultInfo .., hc, hf, hr => execVaultInfo_holds hk (hc rfl) (hf rfl) (hr rfl) ..
  | .nvRead .., hc, hf, hr => execNvRead_holds hk (hc rfl) (hf rfl) (hr rfl) ..
  | .optionWrite .., hc, hf, hr => execOptionWrite_holds hk (hc rfl) (hf rfl) (hr rfl) ..
  | .slotInfo .., hc, hf, hr => execSlotInfo_holds hk (hc rfl) (hf rfl) (hr rfl) ..
  | .fwDownload .., hc, hf, hr => execFwDownload_holds hk (hc rfl) (hf rfl) (hr rfl) ..
  | .fwCommit .., hc, hf, hr => execFwCommit_holds hk (hc rfl) (hf rfl) (hr rfl) ..
  | .fullerJob .., hc, hf, hr => execFullerJob_holds hk (hc rfl) (hf rfl) (hr rfl) ..
  | .mirrorVersion .., hc, hf, hr => execMirrorVersion_holds hk (hc rfl) (hf rfl) (hr rfl) ..
  | .handoverReq .., hc, hf, hr => execHandoverReq_holds hk (hc rfl) (hf rfl) (hr rfl) ..
  | .handoverDone .., hc, hf, hr => execHandoverDone_holds hk (hc rfl) (hf rfl) (hr rfl) ..
  | .heartbeat .., hc, hf, hr => execHeartbeat_holds hk (hc rfl) (hf rfl) (hr rfl) ..
  | .uartGapTimeout, _, _, _ => execUartGapTimeout_holds hk
  | .flashKey .., _, _, _ => execFlashKey_holds hk ..
  | .flashProgram .., _, _, _ => execFlashProgram_holds hk ..
  | .flashErase .., _, _, _ => execFlashErase_holds hk ..
  | .flashSuspend .., _, _, _ => execFlashSuspend_holds hk ..
  | .flashResume .., _, _, _ => execFlashResume_holds hk ..
  | .flashClear .., _, _, _ => execFlashClear_holds hk ..
  | .programDone .., _, hf, _ => execProgramDone_holds hk (hf rfl) ..
  | .eraseDone .., _, hf, _ => execEraseDone_holds hk (hf rfl) ..
  | .suspendHoldRelease .., _, _, _ => execSuspendHoldRelease_holds hk ..
  | .flashBusFault .., _, _, _ => execFlashBusFault_holds hk ..
  | .compressJob .., hc, _, _ => execCompressJob_holds hk (hc rfl) ..
  | .decompressJob, hc, _, _ => execDecompressJob_holds hk (hc rfl)
  | .fulFlush .., _, _, _ => execFulFlush_holds hk ..
  | .hatbandEvent .., _, _, _ => execHatbandEvent_holds hk ..
  | .hbrCursorWrite .., _, _, _ => execHbrCursorWrite_holds hk ..
  | .hbrWin7Read .., _, _, _ => execHbrWin7Read_holds hk ..
  | .domainOn .., hc, _, _ => execDomainOn_holds hk (hc rfl) ..
  | .domainOff .., hc, _, _ => execDomainOff_holds hk (hc rfl) ..
  | .thermalSample .., _, _, _ => execThermalSample_holds hk ..
  | .throttleLevelFall, _, _, _ => execThrottleLevelFall_holds hk
  | .thermalHoldEnd, _, _, hr => execThermalHoldEnd_holds hk (hr rfl)
  | .fault .., hc, hf, hr => execFault_holds hk (hc rfl) (hf rfl) (hr rfl) ..
  | .coreWatchdog .., hc, hf, hr => execCoreWatchdog_holds hk (hc rfl) (hf rfl) (hr rfl) ..
  | .complexWatchdog .., hc, hf, hr => execComplexWatchdog_holds hk (hc rfl) (hf rfl) (hr rfl) ..
  | .blockerWatchdog .., hc, hf, hr => execBlockerWatchdog_holds hk (hc rfl) (hf rfl) (hr rfl) ..
  | .moduleWatchdog, hc, hf, _ => execModuleWatchdog_holds hk (hc rfl) (hf rfl)
  | .fmgKick, _, _, _ => execFmgKick_holds hk
  | .powerGood .., hc, _, _ => execPowerGood_holds hk (hc rfl) ..
  | .optionAreaLoad .., hc, hf, _ => execOptionAreaLoad_holds hk (hc rfl) (hf rfl) ..
  | .clockSourceTimeout .., _, _, _ => execClockSourceTimeout_holds hk ..
  | .firmwareVerify .., _, _, _ => execFirmwareVerify_holds hk ..
  | .firmwareDecompress, hc, _, _ => execFirmwareDecompress_holds hk (hc rfl)
  | .dramTraining .., hc, _, _ => execDramTraining_holds hk (hc rfl) ..
  | .profileAdmission .., hc, hf, hr => execProfileAdmission_holds hk (hc rfl) (hf rfl) (hr rfl) ..
  | .controllersReady, _, _, _ => execControllersReady_holds hk
  | .spinUp, _, _, _ => execSpinUp_holds hk
  | .headLoadCalibration .., _, _, _ => execHeadLoadCalibration_holds hk ..
  | .stateRestore .., _, hf, _ => execStateRestore_holds hk (hf rfl) ..
  | .namespacesReady, _, _, hr => execNamespacesReady_holds hk (hr rfl)
  | .perstDeassert .., _, _, _ => execPerstDeassert_holds hk ..
  | .pwrdis, hc, hf, _ => execPwrdis_holds hk (hc rfl) (hf rfl)
  | .faultLineRelease .., _, _, _ => execFaultLineRelease_holds hk ..
  | .suppliesGood100Ms, hc, hf, _ => execSuppliesGood100Ms_holds hk (hc rfl) (hf rfl)
  | .holderBusIdle .., _, _, _ => execHolderBusIdle_holds hk ..
  | .readyLimitExpired .., hc, hf, hr => execReadyLimitExpired_holds hk (hc rfl) (hf rfl) (hr rfl) ..
  | .clockSourceRetry .., _, _, _ => execClockSourceRetry_holds hk ..
  | .spindleStopped, _, _, _ => execSpindleStopped_holds hk
  | .motorOutputShort .., _, _, _ => execMotorOutputShort_holds hk ..

/-- A step carries every demand that names no stored contents: the empty queue idles, and a command at the front is
executed on the same device. -/
theorem step_holds {kp : Keep} {s t : State} (hk : s.dev.Holds kp) (hc : kp.cells = none) (hf : kp.flash = none)
    (hr : kp.recs = none) (hstep : step s = .next t) : t.dev.Holds kp := by
  obtain ⟨pending, dev⟩ := s
  cases pending with
  | nil =>
    obtain rfl : State.mk [] dev = t := by simpa [step] using hstep
    exact hk
  | cons c rest =>
    obtain ⟨d, hexec, hd⟩ := exec_holds (s := ⟨rest, dev⟩) hk c (fun _ => hc) (fun _ => hf) (fun _ => hr)
    have hnext : State.next ⟨rest, dev⟩ d = .next t := hexec.symm.trans hstep
    obtain rfl : State.mk rest d = t := by simpa using hnext
    exact hd

/-- Settles O5: a sound device meets its own demand `outputKeep`, and a step carries it. -/
theorem stepsOnlyAddToOutput : Obligations.StepsOnlyAddToOutput := by
  unfold Obligations.StepsOnlyAddToOutput
  intro s t hs hstep
  obtain ⟨-, hvariant, -, -, -, hwseq, hdone, hsent⟩ := step_holds (Dev.holds_outputKeep hs.dev) rfl rfl rfl hstep
  exact ⟨hvariant, hwseq, hdone, hsent⟩

end Sys2Proof.Machine

/-! ### Register fields and accesses of the register fabric -/

namespace Sys2Proof.Machine

/-- Settles O7, by the laws of a field's write and of a counter. -/
theorem fieldsAndCounters : Obligations.FieldsAndCounters := by
  unfold Obligations.FieldsAndCounters
  intro d x hregs hhi hlo
  exact ⟨fun v => Dev.f_setF_same d hregs x v hhi hlo,
    fun y v hy => Dev.f_setF_other d x y v hy,
    fun y v hy hapart => Dev.f_setF_apart d hregs x y v hy hhi hapart,
    fun _ => rfl,
    fun n => Dev.f_bumpF_same d hregs x n hhi hlo,
    fun y n hy => Dev.f_bumpF_other d x y n hy⟩

/-! #### Reads -/

theorem Dev.fabricRead_absent {d : Dev} {addr : Nat} (h : d.absentAt addr = true) (who : Requester) (o : FabricObs) :
    d.fabricRead who addr o = d.answer who 0 := if_pos h

/-- Outside the special registers and the windows of the control store and the servo engine, a read answers the live
value and clears the RC fields. -/
theorem Dev.fabricRead_present {d : Dev} {addr : Nat} {b : Block} (h : d.absentAt addr = false)
    (hlo : addr ≠ Reg.TICK_NOW_LO) (hhi : addr ≠ Reg.TICK_NOW_HI) (hwin : addr ≠ Reg.HBR_WIN_WORD.addr + 28)
    (hb : blockOf addr = some b) (hplain : ∀ a, b ≠ .cst a ∧ b ≠ .srv a) (who : Requester) (o : FabricObs) :
    d.fabricRead who addr o = (d.answer who (d.live addr)).clearRc addr := by
  unfold Dev.fabricRead
  rw [h, if_neg Bool.false_ne_true, if_neg hlo, if_neg hhi, if_neg hwin, hb]
  cases b with
  | cst a => obtain ⟨hcst, -⟩ := hplain a; exact absurd rfl hcst
  | srv a => obtain ⟨-, hsrv⟩ := hplain a; exact absurd rfl hsrv
  | _ => rfl

/-- Settles O8, by `Dev.fabricRead_absent`. -/
theorem absentUnitReads : Obligations.AbsentUnitReads := by
  unfold Obligations.AbsentUnitReads
  intro s who addr o h
  exact ⟨congrArg s.next (Dev.fabricRead_absent h who o), fun d hd => Dev.fabricRead_absent hd who o⟩

/-! #### Writes -/

theorem Dev.writeMasked_absent {d : Dev} {addr : Nat} (h : d.absentAt addr = true) (cal : Bool) (m w : Word) :
    d.writeMasked cal addr m w = d.absentWrite addr := if_pos h

/-- An honoured write of a whole register outside the windows that take a write as an operation, and outside the
actuators' windows with effects of their own, is a write of its fields and then its unit's effect. -/
theorem Dev.fabricWrite_honoured {d : Dev} {cal : Bool} {addr : Nat} {b : Block}
    (hflash : addr < 0x600000 ∨ 0x600200 ≤ addr) (hcrn : addr ≠ Reg.CRN_MAINT) (hb : blockOf addr = some b)
    (hhon : d.honours cal addr = true) (hblk0 : addr ≠ blkCtlAddr .a0) (hblk1 : addr ≠ blkCtlAddr .a1)
    (hplain : ∀ a, b ≠ .cst a ∧ b ≠ .afe a ∧ b ≠ .tnl a ∧ b ≠ .srv a) (who : Requester) (w : Word) (o : FabricObs) :
    ∃ g, d.fabricWrite who cal addr 0xFFFFFFFF#32 w o =
      (d.writeMasked cal addr 0xFFFFFFFF#32 w).unitEffect who cal addr 0xFFFFFFFF#32 w g o := by
  have hw : w &&& 0xFFFFFFFF#32 = w := BitVec.and_allOnes
  have hnv : ¬ (0x600000 ≤ addr ∧ addr < 0x600200 ∧ 4 ≤ addr % 0x100 ∧ addr % 0x100 < 0x30) := by omega
  have hmaint : ∀ p : Prop, ¬ (addr = Reg.CRN_MAINT ∧ p) := fun _ h => hcrn h.1
  unfold Dev.fabricWrite
  rw [if_neg hblk0, if_neg hblk1, if_neg (hmaint _), if_neg hnv, if_pos hhon, hb, hw]
  cases b with
  | cst a => obtain ⟨hcst, -⟩ := hplain a; exact absurd rfl hcst
  | afe a => obtain ⟨-, hafe, -⟩ := hplain a; exact absurd rfl hafe
  | tnl a => obtain ⟨-, -, htnl, -⟩ := hplain a; exact absurd rfl htnl
  | srv a => obtain ⟨-, -, -, hsrv⟩ := hplain a; exact absurd rfl hsrv
  | _ => exact ⟨_, rfl⟩

/-- The registers outside the actuators' windows whose write does more than take the value. -/
def effectRegs : List Nat :=
  [Reg.SIZ_CTL, Reg.SPN_CTL, Reg.PWR_RET_CTL, Reg.BUF_TEST_CTL, Reg.DMC_TEST_CTL, Reg.FUL_CTL, Reg.FUL_RING_TAIL,
    Reg.HBR_CURSOR, Reg.CPX_CTL, Reg.FMG_KICK]

theorem Dev.unitEffect_other {addr : Nat} (h : addr ∉ effectRegs) (d : Dev) (who : Requester) (cal : Bool)
    (mask w g : Word) (o : FabricObs) : d.unitEffect who cal addr mask w g o = d := by
  simp only [effectRegs, List.mem_cons, List.not_mem_nil, or_false, not_or] at h
  obtain ⟨h1, h2, h3, h4, h5, h6, h7, h8, h9, h10⟩ := h
  unfold Dev.unitEffect
  rw [if_neg h1, if_neg h2, if_neg h3, if_neg h4, if_neg h5, if_neg h6, if_neg h7, if_neg h8, if_neg h9, if_neg h10]

/-- The tests for the registers before FMG_KICK compare closed addresses, which differ by evaluation. -/
theorem Dev.unitEffect_fmgKick (d : Dev) (who : Requester) (cal : Bool) (mask w g : Word) (o : FabricObs)
    (h : testBit w.toNat 0 = true) : d.unitEffect who cal Reg.FMG_KICK mask w g o = d.kick := if_pos h

/-- Settles O52: the reads by the cases of `Dev.fabricRead`, the writes by `Dev.fabricWrite_honoured` and the unit's
effect. -/
theorem registerFabric : Obligations.RegisterFabric := by
  unfold Obligations.RegisterFabric
  intro s who
  refine ⟨rfl, fun addr o h => congrArg s.next (Dev.fabricRead_absent h who o), ?_, ?_, ?_, ?_⟩
  · intro addr o b h hlo hhi hwin hb hplain
    exact congrArg s.next (Dev.fabricRead_present h hlo hhi hwin hb hplain who o)
  · intro addr w o b hflash hcrn hb hhon hblk0 hblk1 hplain hmem
    obtain ⟨g, hwrite⟩ := Dev.fabricWrite_honoured hflash hcrn hb hhon hblk0 hblk1 hplain who w o
    exact congrArg s.next (hwrite.trans (Dev.unitEffect_other hmem ..))
  · exact fun d cal addr m w h => Dev.writeMasked_absent h cal m w
  · intro w o hbit hhon
    obtain ⟨g, hwrite⟩ := Dev.fabricWrite_honoured (b := .fmg) (.inr (by decide)) (by decide) (by decide) hhon (by decide)
      (by decide) (fun _ => ⟨nofun, nofun, nofun, nofun⟩) who w o
    exact congrArg s.next (hwrite.trans (Dev.unitEffect_fmgKick _ _ _ _ _ _ _ hbit))

end Sys2Proof.Machine

/-! ### The architecture: reset, soundness, the frame of stored contents, requests between units -/

namespace Sys2Proof.Machine

/-! #### Soundness and the frame of stored contents -/

/-- What a command's next state is: the queue as it was, and every demand kept that leaves free what the command can
reach. -/
theorem exec_next_holds {kp : Keep} {c : Instr} {s t : State} (hk : s.dev.Holds kp)
    (hmem : c.reachesMemory = true → kp.cells = none) (hflash : c.reachesFlash = true → kp.flash = none)
    (hmedia : c.reachesMedia = true → kp.recs = none) (hexec : exec c s = .next t) :
    t.pending = s.pending ∧ t.dev.Holds kp := by
  obtain ⟨d, hd, hholds⟩ := exec_holds hk c hmem hflash hmedia
  have hnext : s.next d = .next t := hd.symm.trans hexec
  obtain rfl : { s with dev := d } = t := by simpa using hnext
  exact ⟨rfl, hholds⟩

/-- A step from a sound device leaves the queue without its front; the empty queue stays empty. -/
theorem step_pending {s t : State} (hs : s.dev.Sound) (hstep : step s = .next t) : t.pending = s.pending.tail := by
  obtain ⟨pending, dev⟩ := s
  cases pending with
  | nil =>
    obtain rfl : State.mk [] dev = t := by simpa [step] using hstep
    rfl
  | cons c rest =>
    exact (exec_next_holds (s := ⟨rest, dev⟩) (Dev.holds_outputKeep hs) (fun _ => rfl) (fun _ => rfl) (fun _ => rfl) hstep).1

/-- Settles O4: the device stays sound with the demand `outputKeep` that a step carries, and the waiting commands of the
next state are among those that waited. -/
theorem everyStepKeepsSoundness : Obligations.EveryStepKeepsSoundness := by
  unfold Obligations.EveryStepKeepsSoundness
  intro s t hs hstep
  have hdev : t.dev.Holds s.dev.outputKeep := step_holds (Dev.holds_outputKeep hs.dev) rfl rfl rfl hstep
  have hqueue : ∀ c ∈ s.pending, c.wellFormed = true := List.all_eq_true.mp hs.queue
  refine ⟨hdev.sound, List.all_eq_true.mpr fun c hc => hqueue c ?_⟩
  rw [step_pending hs.dev hstep] at hc
  exact List.mem_of_mem_tail hc

/-- The demand on a device that its stored contents stay, but for those that the command can reach. -/
def Dev.contentsKeep (d : Dev) (c : Instr) : Keep :=
  { d.outputKeep with
    cells := if c.reachesMemory then none else some d.mem.cells
    flash := if c.reachesFlash then none else some d.nv.flash
    recs := if c.reachesMedia then none else some d.media.recs }

/-- A sound device meets its own demand, whichever command is to come. -/
theorem Dev.holds_contentsKeep {d : Dev} (h : d.Sound) (c : Instr) : d.Holds (d.contentsKeep c) :=
  { Dev.holds_outputKeep h with
    cells := fun _ hx => Option.some.inj (Option.ite_none_left_eq_some.mp hx).2
    flash := fun _ hx => Option.some.inj (Option.ite_none_left_eq_some.mp hx).2
    recs := fun _ hx => Option.some.inj (Option.ite_none_left_eq_some.mp hx).2 }

/-- Settles O6: a sound device meets its own demand `contentsKeep`, and the command carries it. -/
theorem contentsFrame : Obligations.ContentsFrame := by
  unfold Obligations.ContentsFrame
  intro c s t hs hexec
  obtain ⟨-, ht⟩ := exec_next_holds (Dev.holds_contentsKeep hs c) (if_pos ·) (if_pos ·) (if_pos ·) hexec
  refine ⟨fun hmem => ?_, fun hflash => ?_, fun hmedia => ?_⟩
  · have hcells : t.dev.mem.cells = s.dev.mem.cells := ht.cells _ (if_neg (by simp [hmem]))
    simpa using hcells
  · exact ht.flash _ (if_neg (by simp [hflash]))
  · exact ht.recs _ (if_neg (by simp [hmedia]))

/-! #### The machine right after reset -/

theorem resetRegs_wf : swf 0 resetRegs = true := by decide

/-- A new module of any variant is sound: the register tables are listed in canonical form, and the stores are empty. -/
theorem Dev.fresh_sound (v : Variant) : (Dev.fresh v).Sound where
  regs := resetRegs_wf
  pa0 := resetPreamp_wf
  pa1 := resetPreamp_wf
  mem := rfl
  flash := rfl
  recs := rfl
  hb := rfl
  units := rfl

/-- Settles O3: a new module is sound, and no command waits. -/
theorem resetIsSound : Obligations.ResetIsSound := ⟨Dev.fresh_sound .D, rfl⟩

/-- Each field of the register tables read from the registers at reset. -/
theorem reset_tableResets : ∀ p ∈ tableResets, State.reset.dev.f p.1 = p.2 := by decide

/-- Settles O2: the registers by evaluation over the tables, the stores as `Dev.fresh` gives them. -/
theorem resetValues : Obligations.ResetValues := by
  have hsem : State.reset.dev.semHolder = 0 := by decide
  exact ⟨reset_tableResets, fun _ => rfl, rfl, rfl, rfl, rfl, hsem, rfl, rfl, rfl, rfl, rfl⟩

/-! #### Requests between units, unit resets and ready notices -/

/-- A request to a powered unit of a domain ends the domain's low mode; it is held or accepted by the target's
generation (R34, R524). -/
theorem Dev.unitRequest_powered {d : Dev} {r : UnitReq} {i : Nat} (hdom : unitDomain r.target = some i)
    (hpow : d.unitPowered r.target = true) :
    let d1 := d.setDomLow i false
    d.unitRequest r =
      if d.isResetting r.target ∨ d.gen r.target ≠ r.targetGen ∨ d.gen r.target = 0 then
        { d1 with units := { d1.units with held := d1.units.held ++ [r] } }
      else { d1 with units := { d1.units with outstanding := d1.units.outstanding ++ [r] } } := by
  simp [Dev.unitRequest, hdom, hpow]

/-- A response to a request still outstanding, in the present generations of both units, ends it (R35). -/
theorem Dev.unitResponse_answered {d : Dev} {r : UnitReq} (htarget : r.targetGen = d.gen r.target)
    (hrequester : r.requesterGen = d.gen r.requester) :
    let mine (q : UnitReq) : Bool := decide (q.tag = r.tag ∧ q.requester = r.requester ∧ q.target = r.target)
    d.units.outstanding.any mine = true →
      d.unitResponse r = { d with units := { d.units with
        outstanding := d.units.outstanding.filter fun q => !mine q, answered := r.tag :: d.units.answered } } :=
  fun hmine => if_pos ⟨htarget, hrequester, hmine⟩

theorem Dev.unitResponse_stale {d : Dev} {r : UnitReq}
    (h : r.targetGen ≠ d.gen r.target ∨ r.requesterGen ≠ d.gen r.requester) : d.unitResponse r = d :=
  if_neg fun ⟨htarget, hrequester, _⟩ => h.elim (· htarget) (· hrequester)

theorem Dev.unitReset_other {d : Dev} {u : UnitId} (hpow : d.unitPowered u = true) (hu : ∀ c, u ≠ .complex c) :
    d.unitReset u = ((d.resetEffect u).resetUnit u).bumpF Reg.FMG_CNT_RESETS 1 := by
  cases u with
  | complex c => exact absurd rfl (hu c)
  | _ => simp [Dev.unitReset, hpow]

theorem Dev.unitReset_complex {d : Dev} {c : Cpx} (hpow : d.unitPowered (.complex c) = true) :
    d.unitReset (.complex c) = (d.resetCpx c 5).bumpF Reg.FMG_CNT_RESETS 1 := by
  simp [Dev.unitReset, hpow]

theorem Dev.readyNotice_early (d : Dev) (u : UnitId) : d.readyNotice u true = d := by
  simp [Dev.readyNotice]

theorem Dev.readyNotice_core {d : Dev} {n : Fin 4} (hres : d.isResetting (.core n) = true)
    (hpow : d.unitPowered (.core n) = true) (hfail : d.isFailed (.core n) = false) :
    let d0 := d.onFmg fun m => { m with recovering := m.recovering.filter fun x => decide (some x ≠ faultUnit (.core n)) }
    d.readyNotice (.core n) false =
      (d0.readyUnit (.core n)).setF Reg.FMG_STATUS_CORES (putBit (d0.f Reg.FMG_STATUS_CORES) n.val true) :=
  if_neg (by simp [hres, hpow, hfail, faultUnit])

theorem Dev.readyNotice_complex {d : Dev} {c : Cpx} (hres : d.isResetting (.complex c) = true)
    (hpow : d.unitPowered (.complex c) = true) (hfail : d.isFailed (.complex c) = false) :
    d.readyNotice (.complex c) false =
      (d.onFmg fun m => { m with
        recovering := m.recovering.filter fun x => decide (some x ≠ faultUnit (.complex c)) }).cpxReady c :=
  if_neg (by simp [hres, hpow, hfail, faultUnit])

/-- Settles O49, by the cases of `Dev.unitRequest`, `Dev.unitResponse`, `Dev.unitReset` and `Dev.readyNotice`. -/
theorem unitRequestsAndResets : Obligations.UnitRequestsAndResets := by
  unfold Obligations.UnitRequestsAndResets
  intro s
  refine ⟨fun r i hdom hpow => ⟨?accepted, ?held⟩,
    fun r => ⟨fun htarget hrequester hmine => congrArg s.next (Dev.unitResponse_answered htarget hrequester hmine),
      fun hstale => congrArg s.next (Dev.unitResponse_stale hstale)⟩,
    fun u hpow hu => congrArg s.next (Dev.unitReset_other hpow hu),
    fun c hpow => congrArg s.next (Dev.unitReset_complex hpow),
    fun u => congrArg s.next (s.dev.readyNotice_early u),
    fun n hres hpow hfail => congrArg s.next (Dev.readyNotice_core hres hpow hfail),
    fun c hres hpow hfail => congrArg s.next (Dev.readyNotice_complex hres hpow hfail)⟩
  case accepted =>
    intro hready hgen hnonzero
    have haccept : ¬ (s.dev.isResetting r.target = true ∨ s.dev.gen r.target ≠ r.targetGen ∨ s.dev.gen r.target = 0) := by
      simp [hready, ← hgen, hnonzero]
    exact congrArg s.next ((Dev.unitRequest_powered hdom hpow).trans (if_neg haccept))
  case held =>
    intro hbusy
    exact congrArg s.next ((Dev.unitRequest_powered hdom hpow).trans (if_pos (hbusy.imp_right .inl)))

end Sys2Proof.Machine

/-! ### Packets taken up at once -/

namespace Sys2Proof.Machine

/-- What an opcode's handler does to a call of that opcode. -/
theorem Dev.handle_of_find {d : Dev} {c : Call} {f : Dev → Call → Rep × Dev}
    (hf : handlers.find? (fun h => decide (h.1 = c.p.op)) = some (c.p.op, f)) : d.handle c = f d c := by
  rw [Dev.handle, hf]

/-- A call is executed under its path's hold where its row of Table 18.5 serializes it. -/
theorem Dev.perform_of_row {c : Call} {r : OpRow} {f : Dev → Call → Rep × Dev} (hrow : opRow c.p.op = some r)
    (hf : handlers.find? (fun h => decide (h.1 = c.p.op)) = some (c.p.op, f)) (d : Dev) :
    d.perform c =
      underHold d c.holder (decide (r.ser = 1) || (decide (r.ser = 2) && d.packetStages c.p)) fun d => f d c := by
  unfold Dev.perform underHold
  rw [hrow]
  cases hheld : decide (r.ser = 1) || (decide (r.ser = 2) && d.packetStages c.p) with
  | false => simp [hheld, Dev.handle_of_find hf]
  | true =>
    by_cases hown : d.semHolder = c.holder
    · simp [hown, Dev.handle_of_find hf]
    · cases hwait : (f (d.semGrant c.holder) c).1.wait with
      | none => simp [hheld, hown, Dev.handle_of_find hf, hwait]
      | some w => simp [hheld, hown, Dev.handle_of_find hf, hwait]

/-- A packet that its path takes up is run at once: no unread reply is lost, and nothing is answered again. -/
theorem Dev.takePacket_of_takesUp {d : Dev} {path : Path} {ws : List Word} {op : Nat} (h : takesUp d path ws op)
    (o : MpiObs) :
    d.takePacket path { words := ws, obs := o, cmd := none } =
      d.runPacket path { words := ws, obs := o, cmd := none } (Packet.ofWords ws) := by
  obtain ⟨-, hserves, -, hunread, hcrc, hlen, hlast, -⟩ := h
  have hread : ¬ (pathIsNvme path = true ∧ (d.mpiPath path).unread = true) := fun ⟨hnvme, hleft⟩ => by
    simp [hunread hnvme] at hleft
  have hsound : ¬ ((!(Packet.ofWords ws).crcOk) = true ∨ 16384 < ws.length) := by simp [hcrc, hlen]
  have hnew : ¬ (pathKeeps path = true ∧
      (d.mpiPath path).last = some ((Packet.ofWords ws).seq, ws.getD (ws.length - 1) 0)) := fun ⟨hkeeps, hsame⟩ =>
    hlast hkeeps hsame
  unfold Dev.takePacket
  simp only [if_neg hread, hserves, if_neg hsound, if_neg hnew, Bool.not_true, Bool.false_eq_true, if_false]

/-- A packet that its path takes up is counted, executed as its row says, and answered. -/
theorem Dev.packet_of_takesUp {d : Dev} {path : Path} {ws : List Word} {op : Nat} (h : takesUp d path ws op) {r : OpRow}
    {f : Dev → Call → Rep × Dev} (hrow : opRow op = some r)
    (hf : handlers.find? (fun h => decide (h.1 = op)) = some (op, f)) (o : MpiObs) :
    d.packet op path ws o = packetServed d path ws o (decide (r.ser = 1) ||
      (decide (r.ser = 2) && (d.bumpF Reg.SYS_MPI_CNT_PACKETS 1).packetStages (Packet.ofWords ws))) f := by
  have htake := Dev.takePacket_of_takesUp h o
  obtain ⟨rfl, -, hwait, -, -, -, -, hfault⟩ := h
  have harrive : d.packet (Packet.ofWords ws).op path ws o =
      (d.takePacket path { words := ws, obs := o, cmd := none }).settleJobs.semSettle := by
    simp only [Dev.packet, Dev.arrivePacket, hwait, Option.isSome_none, Bool.false_eq_true, if_false]
    exact if_pos rfl
  rw [harrive, htake, Dev.runPacket, hfault]
  generalize hdone : (d.bumpF Reg.SYS_MPI_CNT_PACKETS 1).perform { path := path, p := Packet.ofWords ws, o := o } = x
  have hheld : underHold (d.bumpF Reg.SYS_MPI_CNT_PACKETS 1) (holderOf path) (decide (r.ser = 1) ||
      (decide (r.ser = 2) && (d.bumpF Reg.SYS_MPI_CNT_PACKETS 1).packetStages (Packet.ofWords ws)))
      (fun d => f d { path := path, p := Packet.ofWords ws, o := o }) = x :=
    (Dev.perform_of_row (c := { path := path, p := Packet.ofWords ws, o := o }) hrow hf _).symm.trans hdone
  simp only [packetServed, hheld]
  cases x.1.wait <;> rfl

/-- A packet that Table 18.5 serializes runs under its path's hold. -/
theorem Dev.packet_serialized {d : Dev} {path : Path} {ws : List Word} {op : Nat} (h : takesUp d path ws op)
    {f : Dev → Call → Rep × Dev} (hrow : (opRow op).map OpRow.ser = some 1)
    (hf : handlers.find? (fun h => decide (h.1 = op)) = some (op, f)) (o : MpiObs) :
    d.packet op path ws o = packetServed d path ws o true f := by
  obtain ⟨r, hr, hser⟩ := Option.map_eq_some_iff.mp hrow
  simpa [hser] using Dev.packet_of_takesUp h hr hf o

theorem Dev.packet_unserialized {d : Dev} {path : Path} {ws : List Word} {op : Nat} (h : takesUp d path ws op)
    {f : Dev → Call → Rep × Dev} (hrow : (opRow op).map OpRow.ser = some 0)
    (hf : handlers.find? (fun h => decide (h.1 = op)) = some (op, f)) (o : MpiObs) :
    d.packet op path ws o = packetServed d path ws o false f := by
  obtain ⟨r, hr, hser⟩ := Option.map_eq_some_iff.mp hrow
  simpa [hser] using Dev.packet_of_takesUp h hr hf o

end Sys2Proof.Machine

/-! ### Configuration and profile packets -/

namespace Sys2Proof.Machine

theorem Dev.mpiCfgCommit_idle {d : Dev} (h : d.busy = false) (c : Call) :
    d.mpiCfgCommit c = ((d.commit false).commitRep, d.commit false) := if_neg (by simp [h])

theorem Dev.mpiCfgCommit_busy {d : Dev} (h : d.busy = true) (c : Call) :
    d.mpiCfgCommit c = (d.droppedRep, d.setF Reg.SIZ_STATUS_DROPPED 1) := if_pos h

/-- A table read leaves the device as it was, whether it is refused or answered. -/
theorem Dev.mpiTableRead_dev (d : Dev) (c : Call) : (d.mpiTableRead c).2 = d := by
  unfold Dev.mpiTableRead Dev.tableRead
  dsimp only
  split
  · rfl
  · split <;> rfl

theorem Dev.mpiCstWrite_whole {d : Dev} {c : Call} (hwhole : c.data.length % 4 = 0)
    (hfits : c.num Ty.addr + c.data.length / 4 ≤ 16384) :
    d.mpiCstWrite c = (Rep.ok, stageMicro d c.p.act (c.data.length / 4) (c.num Ty.addr) c.data) :=
  (if_neg (not_not_intro hwhole)).trans (if_neg (Nat.not_lt.mpr hfits))

theorem Dev.mpiProfileDownload_kept {d : Dev} {c : Call} {ps : List (Nat × List Byte)}
    (hfits : c.num Ty.addr + c.blob.length ≤ slotSectors false * 2 ^ 16)
    (hput : putPiece d.mpi.prof (c.num Ty.addr, c.blob) = some ps) :
    d.mpiProfileDownload c = (Rep.ok, d.onMpi fun m => { m with prof := ps }) := by
  unfold Dev.mpiProfileDownload
  simp only [if_neg (Nat.not_lt.mpr hfits), hput]

theorem Dev.mpiProfileDownload_pastEnd {d : Dev} {c : Call}
    (hpast : slotSectors false * 2 ^ 16 < c.num Ty.addr + c.blob.length) :
    d.mpiProfileDownload c = (c.p.bad Ty.addr, d) := if_pos hpast

theorem Dev.mpiProfileStore_conflict {d : Dev} {c : Call} (hslot : c.num Ty.slot ≤ 1)
    (h : (d.profInForce (c.num Ty.slot) || decide (c.num Ty.slot = d.nv.boot.profSel) || d.mpi.prof.isEmpty) = true) :
    d.mpiProfileStore c = (Rep.code 0x0E 0, d) :=
  (if_neg (Nat.not_lt.mpr hslot)).trans (if_pos (by simpa [or_assoc] using h))

theorem Dev.mpiProfileStore_noSlot {d : Dev} {c : Call} (hslot : 1 < c.num Ty.slot) :
    d.mpiProfileStore c = (c.p.bad Ty.slot, d) := if_pos hslot

theorem Dev.mpiProfileSelect_slot {d : Dev} {c : Call} (hslot : c.num Ty.slot ≤ 1) :
    d.mpiProfileSelect c = (Rep.ok, d.setBoot { d.nv.boot with profSel := c.num Ty.slot }) :=
  if_neg (Nat.not_lt.mpr hslot)

theorem Dev.mpiProfileSelect_noSlot {d : Dev} {c : Call} (hslot : 1 < c.num Ty.slot) :
    d.mpiProfileSelect c = (c.p.bad Ty.slot, d) := if_pos hslot

/-- Settles O56: the packets' arrival by `Dev.packet_serialized` and `Dev.packet_unserialized`, what each does by the
cases of its handler. -/
theorem configurationPackets : Obligations.ConfigurationPackets := by
  unfold Obligations.ConfigurationPackets
  refine ⟨fun s path ws o => ⟨?cfgCommit, ?cfgDiscard, ?cfgStatus, ?sizerCheck, ?tableWrite, ?tableRead, ?cstWrite,
      ?profileLoad, ?profileSection, ?profileDownload, ?profileStore, ?profileSelect⟩,
    fun d c => ⟨(Dev.mpiCfgCommit_idle · c), (Dev.mpiCfgCommit_busy · c), rfl, rfl, rfl, d.mpiTableRead_dev c, rfl, rfl,
      Dev.mpiCstWrite_whole, fun _ => Dev.mpiProfileDownload_kept, Dev.mpiProfileDownload_pastEnd,
      Dev.mpiProfileStore_conflict, Dev.mpiProfileSelect_slot,
      fun hslot => ⟨Dev.mpiProfileSelect_noSlot hslot, Dev.mpiProfileStore_noSlot hslot⟩⟩⟩
  case cfgStatus | tableRead | profileSection | profileDownload =>
    exact fun h => congrArg s.next (Dev.packet_unserialized h rfl rfl o)
  case cfgCommit | cfgDiscard | sizerCheck | tableWrite | cstWrite | profileLoad | profileStore | profileSelect =>
    exact fun h => congrArg s.next (Dev.packet_serialized h rfl rfl o)

end Sys2Proof.Machine

/-! ### Serialized host commands and features -/

namespace Sys2Proof.Machine

theorem Dev.adminDo_admitted {d : Dev} {id : CmdId} (h : d.admits id = true) (g : Dev → Dev) :
    d.adminDo id g = g (d.wakeHost id.port) := if_pos h

/-- A domain's low mode stands in registers of the power manager, apart from the semaphore's. -/
theorem Dev.semHolder_setDomLow (d : Dev) (i : Nat) (b : Bool) : (d.setDomLow i b).semHolder = d.semHolder := by
  refine Dev.f_setF_other _ _ _ _ ?_
  simp only [Fld.nth, Reg.CPX_SEM_HOLDER, Reg.PDM_LOW_LOW]
  omega

theorem Dev.semHolder_wakeHost (d : Dev) (p : Port) : (d.wakeHost p).semHolder = d.semHolder := by
  simp only [Dev.wakeHost, Dev.semHolder_setDomLow]

theorem Dev.semOpen_wakeHost (d : Dev) (p : Port) (holder : Nat) : (d.wakeHost p).semOpen holder = d.semOpen holder := by
  rw [Dev.semOpen, Dev.semHolder_wakeHost]; rfl

theorem Dev.clock_semGrant (d : Dev) (holder : Nat) : (d.semGrant holder).clock = d.clock := by
  unfold Dev.semGrant; split <;> rfl

/-- An admitted command's operation that no sanitize keeps out runs at once under its holder's grant, where the semaphore
is open. -/
theorem Dev.serialized_open {d : Dev} {op : SemOp} (hadmit : d.admits op.id = true)
    (hopen : d.semOpen (hostHolder op.id) = true) (hfree : op.barred = false) :
    d.serialized op =
      (((d.wakeHost op.id.port).semGrant (hostHolder op.id)).runOp (hostHolder op.id) op).semSettle := by
  have hrun (x : Dev) : x.runSem (hostHolder op.id) op = x.runOp (hostHolder op.id) op := if_neg (by simp [hfree])
  have hwoken : (d.wakeHost op.id.port).semOpen (hostHolder op.id) = true := (d.semOpen_wakeHost ..).trans hopen
  rw [Dev.serialized, Dev.adminDo_admitted hadmit, Dev.semRequest, if_pos hwoken, hrun]

/-- A limit of the time for error recovery that lies below the floor of the geometry is refused (R61). -/
theorem Dev.runFeature_belowFloor {d : Dev} {key v : Nat} (hlo : 0x500 ≤ key) (hhi : key < 0x600) (hv : v ≠ 0)
    (hfloor : v * d.speed * d.wedges < d.floorTicks * 60000) (id : CmdId) :
    d.runFeature id key v = d.complete id .invalidField 0 :=
  (if_pos ⟨hlo, hhi⟩).trans (if_pos ⟨hv, hfloor⟩)

theorem Dev.runFeature_aboveFloor {d : Dev} {key v : Nat} (hlo : 0x500 ≤ key) (hhi : key < 0x600)
    (hfloor : d.floorTicks * 60000 ≤ v * d.speed * d.wedges) (id : CmdId) :
    d.runFeature id key v = (d.onHost fun h => { h with feats := sset 0 h.feats key v }).complete id .success 0 :=
  (if_pos ⟨hlo, hhi⟩).trans (if_neg fun ⟨_, hbelow⟩ => absurd hfloor (Nat.not_le.mpr hbelow))

/-- Settles O43, by `Dev.serialized_open` and the cases of `Dev.runFeature`. -/
theorem serializedFeatures : Obligations.SerializedFeatures := by
  unfold Obligations.SerializedFeatures
  intro s id hadmit d h hopen _
  have hfeature (key v : Nat) : s.dev.serialized (.feature id key v) =
      (((d.semGrant h).semBegin.runFeature id key v).semEnd).semSettle := Dev.serialized_open hadmit hopen rfl
  have hrefused : s.dev.adminDo id (fun d => d.complete id .invalidField 0) = d.complete id .invalidField 0 :=
    Dev.adminDo_admitted hadmit _
  refine ⟨fun t u k ht => congrArg s.next ((if_neg (Nat.not_lt.mpr ht)).trans (hfeature ..)),
    fun t u k ht => congrArg s.next ((if_pos ht).trans hrefused), fun ns t => congrArg s.next hrefused,
    fun ns t hns => congrArg s.next
      ((if_neg Bool.false_ne_true).trans ((if_neg fun ⟨hone, htwo⟩ => hns.elim hone htwo).trans (hfeature ..))),
    fun x key v hlo hhi hv hfloor => Dev.runFeature_belowFloor hlo hhi hv hfloor id,
    fun x key v hlo hhi hfloor => Dev.runFeature_aboveFloor hlo hhi hfloor id, fun ms => congrArg s.next ?timestamp⟩
  case timestamp =>
    have hclock : (d.semGrant h).clock = s.dev.clock := (d.clock_semGrant h).trans rfl
    rw [← hclock]
    exact Dev.serialized_open (op := .timestamp id (ms % 2 ^ 48)) hadmit hopen rfl

end Sys2Proof.Machine

/-! ### Start-up from the profile to service -/

namespace Sys2Proof.Machine

/-- Where the slot that PROF_SEL names is valid, its profile is admitted (R487). -/
theorem Dev.chooseProfile_selected {d : Dev} {sigs : Two Bool} {decls : Two ProfileDecl} {o : FabricObs} :
    let p := d.nv.boot.profSel
    let r := d.slotFault false (sigs.get p) p
    r.1 = 0 → d.chooseProfile sigs decls o = r.2.admitProfile p (decls.get p) o :=
  fun hp => if_pos hp

/-- Where only the other slot is valid, that slot's profile is admitted (R487). -/
theorem Dev.chooseProfile_other {d : Dev} {sigs : Two Bool} {decls : Two ProfileDecl} {o : FabricObs} :
    let p := d.nv.boot.profSel
    let r := d.slotFault false (sigs.get p) p
    let q := r.2.slotFault false (sigs.get (1 - p)) (1 - p)
    r.1 ≠ 0 → q.1 = 0 → d.chooseProfile sigs decls o = q.2.admitProfile (1 - p) (decls.get (1 - p)) o :=
  fun hp hq => (if_neg hp).trans (if_pos hq)

theorem Dev.chooseProfile_none {d : Dev} {sigs : Two Bool} {decls : Two ProfileDecl} {o : FabricObs} :
    let p := d.nv.boot.profSel
    let r := d.slotFault false (sigs.get p) p
    let q := r.2.slotFault false (sigs.get (1 - p)) (1 - p)
    r.1 ≠ 0 → q.1 ≠ 0 → d.chooseProfile sigs decls o = q.2.enterSafe :=
  fun hp hq => (if_neg hp).trans (if_neg hq)

section
variable {d : Dev} (hstep : d.bootStep = 6) (hfence : d.f Reg.DMC_FENCE_DONE ≠ 0) (hbusy : d.busy = false)
include hstep hfence hbusy

/-- Behind the fill and with no commit running, the holder of the semaphore decides what the command does. -/
theorem Dev.profileAdmission_ready (sigs : Two Bool) (decls : Two ProfileDecl) (o : FabricObs) (t0 t1 : Training) :
    d.profileAdmission sigs decls o t0 t1 =
      if d.semHolder = 6 ∨ d.host.mayReady then d.linksUp t0 t1
      else if !d.semOpen 6 then d
      else ((d.semGrant 6).semBegin.domainsUp Training.blank [13, 28]).chooseProfile sigs decls o :=
  if_neg (by simp [hstep, hfence, hbusy])

theorem Dev.profileAdmission_applied (hown : d.semHolder = 6) (sigs : Two Bool) (decls : Two ProfileDecl) (o : FabricObs)
    (t0 t1 : Training) : d.profileAdmission sigs decls o t0 t1 = d.linksUp t0 t1 :=
  (Dev.profileAdmission_ready hstep hfence hbusy ..).trans (if_pos (.inl hown))

theorem Dev.profileAdmission_loads (hother : d.semHolder ≠ 6) (hearly : d.host.mayReady = false)
    (hopen : d.semOpen 6 = true) (sigs : Two Bool) (decls : Two ProfileDecl) (o : FabricObs) (t0 t1 : Training) :
    d.profileAdmission sigs decls o t0 t1 =
      ((d.semGrant 6).semBegin.domainsUp Training.blank [13, 28]).chooseProfile sigs decls o :=
  (Dev.profileAdmission_ready hstep hfence hbusy ..).trans
    ((if_neg (by simp [hother, hearly])).trans (if_neg (by simp [hopen])))

end

/-- The device in step 7 with NESTED at 0 and RDY allowed to follow CC.EN (R548). -/
def Dev.controllersOpened (d : Dev) : Dev :=
  (((d.setF Reg.NVC_FL_MODE_NESTED 0).onHost fun h => { h with mayReady := true }).checkReady .A).checkReady .B

theorem Dev.controllersReady_opened {d : Dev} (hstep : d.bootStep = 7) (hhold : d.f Reg.FMG_STATUS_HOLD ≠ 1) :
    d.controllersReady =
      if d.controllersOpened.safe then d.controllersOpened
      else if d.controllersOpened.f Reg.FMG_CFG_RESTARTS ≤ d.controllersOpened.recentRestarts.length then
        (d.controllersOpened.setF Reg.FMG_STATUS_HOLD 1).setF Reg.SYS_BOOT_RESULT 5
      else d.controllersOpened.endStep 7 :=
  if_neg (by simp [hstep, hhold])

theorem Dev.headCalibration_stepNine {d : Dev} (hstep : d.bootStep = 9) (hmedia : d.fmg.mediaOff = false) (emf : Per Word)
    (bad : Per (List Nat)) :
    d.headCalibration emf bad =
      if d.bootActs.all fun a => decide (d.loadState a = 2) then
        (d.bootActs.foldl (fun (d : Dev) a => d.bootCheck a (bad.get a)) d).endStep 9
      else d.bootActs.foldl (fun (d : Dev) a => d.bootLoad a (emf.get a)) d :=
  if_neg (by simp [hstep, hmedia])

/-- The device with journal and vault restored while the copies of the system area can be read as `c0` and `c1` say: a
copy that cannot is rebuilt from the other (R95, R551, R552). -/
def Dev.restoredFrom (d : Dev) (o : RestoreObs) (c0 c1 : Bool) : Dev :=
  let d1 : Dev := { d with media := { d.media with sysRebuild := if !c0 then some 0 else if !c1 then some 1 else none } }
  let d2 := ((d1.replayJournal o.journal).restoreVault o).setF Reg.PWR_VAULT_REASON_RESTORE 0
  (d2.resumeErase.setF (Reg.SYS_BOOT_MS_MS.nth 9) (d.clock.nowNs / 1000000)).semSettle

section
variable {d : Dev} (hstep : d.bootStep = 10) (hmedia : d.fmg.mediaOff = false)
  (hdue : d.f Reg.PWR_VAULT_REASON_RESTORE ≠ 0) (hgoing : d.f Reg.SYS_BOOT_RESULT = 0) {o : RestoreObs}
include hstep hmedia hdue hgoing

theorem Dev.stateRestore_readable (hsound : (d.copySound o 0 || d.copySound o 1) = true) :
    d.stateRestore o = d.restoredFrom o (d.copySound o 0) (d.copySound o 1) := by
  unfold Dev.stateRestore
  rw [if_neg (by simp [hstep, hmedia, hdue, hgoing])]
  revert hsound
  cases d.copySound o 0 with
  | true => exact fun _ => rfl
  | false =>
    cases d.copySound o 1 with
    | true => exact fun _ => rfl
    | false => exact nofun

theorem Dev.stateRestore_unreadable (hlost : (d.copySound o 0 || d.copySound o 1) = false) :
    d.stateRestore o =
      if d.nv.formatted then ((d.loseMedia).event Ev.other .sys Reg.SYS_BOOT 0).stopAt 4 else d.stopAt 2 := by
  obtain ⟨hcopy0, hcopy1⟩ := Bool.or_eq_false_iff.mp hlost
  unfold Dev.stateRestore
  rw [if_neg (by simp [hstep, hmedia, hdue, hgoing]), hcopy0, hcopy1]

end

theorem Dev.namespacesReady_stepTen {d : Dev} (hstep : d.bootStep = 10) (hdone : d.f Reg.PWR_VAULT_REASON_RESTORE ≠ 1)
    (hgoing : d.f Reg.SYS_BOOT_RESULT = 0) (hmedia : d.fmg.mediaOff = false) :
    d.namespacesReady = (d.endStep 11).rebuildCopy.sendRestored :=
  if_neg (by simp [hstep, hdone, hgoing, hmedia])

/-- Settles O54, by the cases of each step's command. -/
theorem startUpService : Obligations.StartUpService := by
  unfold Obligations.StartUpService
  intro s
  refine ⟨fun a b x y o t0 t1 hstep hfence hbusy => ⟨fun hown => ?applied, fun hother hearly hopen => ?loads⟩,
    fun hstep hhold => ?controllers, fun e0 e1 b0 b1 hstep hmedia => ?heads,
    fun o hstep hmedia hdue hgoing => ?restore,
    fun hstep hdone hgoing hmedia => congrArg s.next (Dev.namespacesReady_stepTen hstep hdone hgoing hmedia)⟩
  case applied => exact congrArg s.next (Dev.profileAdmission_applied hstep hfence hbusy hown ..)
  case loads =>
    have hloads := Dev.profileAdmission_loads hstep hfence hbusy hother hearly hopen ⟨a, b⟩ ⟨x, y⟩ o t0 t1
    exact ⟨fun hp => congrArg s.next (hloads.trans (Dev.chooseProfile_selected hp)),
      fun hp hq => congrArg s.next (hloads.trans (Dev.chooseProfile_other hp hq)),
      fun hp hq => congrArg s.next (hloads.trans (Dev.chooseProfile_none hp hq))⟩
  case controllers =>
    have hopened := Dev.controllersReady_opened hstep hhold
    exact ⟨fun hsafe => congrArg s.next (hopened.trans (if_pos hsafe)),
      fun hsafe hmany => congrArg s.next (hopened.trans ((if_neg (ne_true_of_eq_false hsafe)).trans (if_pos hmany))),
      fun hsafe hfew => congrArg s.next
        (hopened.trans ((if_neg (ne_true_of_eq_false hsafe)).trans (if_neg (Nat.not_le.mpr hfew))))⟩
  case heads =>
    have hnine := Dev.headCalibration_stepNine hstep hmedia ⟨e0, e1⟩ ⟨b0, b1⟩
    exact ⟨fun hall => congrArg s.next (hnine.trans (if_pos hall)),
      fun hsome => congrArg s.next (hnine.trans (if_neg (ne_true_of_eq_false hsome)))⟩
  case restore =>
    exact ⟨fun hsound => congrArg s.next (Dev.stateRestore_readable hstep hmedia hdue hgoing hsound),
      fun hlost hformatted => congrArg s.next
        ((Dev.stateRestore_unreadable hstep hmedia hdue hgoing hlost).trans (if_pos hformatted)),
      fun hlost hblank => congrArg s.next
        ((Dev.stateRestore_unreadable hstep hmedia hdue hgoing hlost).trans (if_neg (ne_true_of_eq_false hblank)))⟩

end Sys2Proof.Machine

/-! ### Reads, conventional writes and flushes -/

namespace Sys2Proof.Machine

/-! #### The device that an I/O command finds -/

/-- What an accepted I/O command does to the power state touches two of its fields only (R432, R433). -/
theorem Dev.ioArrives_eq (d : Dev) :
    ∃ pw n, d.ioArrives = { d with pw := pw, host := { d.host with psNext := n } } := by
  unfold Dev.ioArrives
  split
  · exact ⟨_, d.host.psNext, rfl⟩
  · split
    · exact ⟨d.pw, _, rfl⟩
    · exact ⟨d.pw, d.host.psNext, rfl⟩

section
variable (d : Dev) (p : Port)

theorem Dev.zq_ioReady : ((d.wakeHost p).ioArrives).zq = d.zq := by
  obtain ⟨pw, n, h⟩ := (d.wakeHost p).ioArrives_eq
  rw [h]; rfl

theorem Dev.media_ioReady : ((d.wakeHost p).ioArrives).media = d.media := by
  obtain ⟨pw, n, h⟩ := (d.wakeHost p).ioArrives_eq
  rw [h]; rfl

theorem Dev.regs_ioReady : ((d.wakeHost p).ioArrives).regs = (d.wakeHost p).regs := by
  obtain ⟨pw, n, h⟩ := (d.wakeHost p).ioArrives_eq
  rw [h]

theorem Dev.host_ioReady : ∃ n, ((d.wakeHost p).ioArrives).host = { d.host with psNext := n } := by
  obtain ⟨pw, n, h⟩ := (d.wakeHost p).ioArrives_eq
  exact ⟨n, by rw [h]; rfl⟩

theorem Dev.zone_ioReady (z : Nat) : ((d.wakeHost p).ioArrives).zone z = d.zone z := by
  rw [Dev.zone, Dev.zq_ioReady]; rfl

theorem Dev.zonedHere_ioReady (lba : Nat) : ((d.wakeHost p).ioArrives).zonedHere lba = d.zonedHere lba := by
  simp only [Dev.zonedHere, Dev.media_ioReady, Dev.zone_ioReady]

theorem Dev.poisonHere_ioReady (lba : Nat) : ((d.wakeHost p).ioArrives).poisonHere 1 lba = d.poisonHere 1 lba := by
  simp only [Dev.poisonHere, Dev.media_ioReady, Dev.zone_ioReady, if_true]

theorem Dev.cmds_ioReady : ((d.wakeHost p).ioArrives).host.cmds = d.host.cmds := by
  obtain ⟨n, h⟩ := d.host_ioReady p
  rw [h]

theorem Dev.isOrdered_ioReady (id : CmdId) : ((d.wakeHost p).ioArrives).isOrdered id = d.isOrdered id := by
  obtain ⟨n, h⟩ := d.host_ioReady p
  rw [Dev.isOrdered, Dev.sqOf, Dev.ctrl, h]; rfl

theorem Dev.rangeFault_ioReady (ns lba len : Nat) (mdts : Bool) :
    ((d.wakeHost p).ioArrives).rangeFault ns lba len mdts = d.rangeFault ns lba len mdts := by
  obtain ⟨n, h⟩ := d.host_ioReady p
  rw [Dev.rangeFault, h, Dev.zq_ioReady, Dev.media_ioReady]; rfl

theorem Dev.dirtyBlocks_ioReady : ((d.wakeHost p).ioArrives).dirtyBlocks = d.dirtyBlocks := by
  obtain ⟨n, h⟩ := d.host_ioReady p
  rw [Dev.dirtyBlocks, h, Dev.zq_ioReady]; rfl

/-- The low modes that a command ends stand in two registers of the power manager; a field below them reads as before. -/
theorem Dev.f_ioReady {x : Fld} (hx : x.addr < Reg.PDM_LOW_LOW.addr) : ((d.wakeHost p).ioArrives).f x = d.f x := by
  have hlow (e : Dev) (i : Nat) : (e.setDomLow i false).f x = e.f x := by
    refine Dev.f_setF_other _ _ _ _ ?_
    simp only [Fld.nth, Reg.PDM_LOW_LOW] at hx ⊢
    omega
  have hwake : (d.wakeHost p).f x = d.f x := by simp only [Dev.wakeHost, hlow]
  rw [← hwake, Dev.f, Dev.f, Dev.reg, Dev.reg, Dev.regs_ioReady]

end

/-! #### The fetch of an I/O command -/

theorem Dev.ioDo_ready {d : Dev} {id : CmdId} (hadmit : d.admits id = true) (hgate : d.ioGate = none) (g : Dev → Dev) :
    d.ioDo id g = g ((d.wakeHost id.port).ioArrives) := by
  rw [Dev.ioDo, if_pos hadmit, hgate]

theorem Dev.ioDo_gated {d : Dev} {id : CmdId} {e : Nvme × Bool × Nat} (hadmit : d.admits id = true)
    (hgate : d.ioGate = some e) (g : Dev → Dev) : d.ioDo id g = d.completeWith id e.1 e.2.1 e.2.2 := by
  rw [Dev.ioDo, if_pos hadmit, hgate]

/-- A data command whose range its namespace holds, and whose transfer passes its checks, goes on. -/
theorem Dev.dataDo_inRange {d : Dev} {id : CmdId} {ns lba len : Nat} {mdts : Bool}
    (hrange : d.rangeFault ns lba len mdts = none) (g : Dev → Dev) : d.dataDo id ns lba len mdts .ok g = g d := by
  rw [Dev.dataDo, hrange]; rfl

/-- The device with one more command outstanding. -/
def Dev.addCmd (d : Dev) (c : HostCmd) : Dev := d.onHost fun h => { h with cmds := h.cmds ++ [c] }

theorem withCmd_eq_addCmd (s : State) (c : HostCmd) :
    withCmd s c = ((s.dev.wakeHost c.id.port).ioArrives).addCmd c := rfl

theorem Dev.addCmd_cmds (d : Dev) (c : HostCmd) : (d.addCmd c).host.cmds = d.host.cmds ++ [c] := rfl

/-- A command of a queue without marked commands is dispatched at once, as an unmarked one (R419). -/
theorem Dev.arrive_unordered {d : Dev} {c : HostCmd} (h : d.isOrdered c.id = false) (first : Nat) :
    let c1 := { c with marked := false, waiting := false }
    d.arrive first c = (d.addCmd c1).start first c1 := by
  simp [Dev.arrive, Dev.addCmd, h]

/-- A served command takes its context and is dispatched. -/
theorem arrive_served {s : State} {id : CmdId} (h : served s id) (first : Nat) (kind : HostKind) (ns lba len : Nat)
    (data : List Nat) (limited marked : Bool) :
    ((s.dev.wakeHost id.port).ioArrives).arrive first (hostCmd id kind ns lba len data limited marked) =
      (withCmd s (hostCmd id kind ns lba len data limited false)).start first
        (hostCmd id kind ns lba len data limited false) := by
  obtain ⟨-, -, hplain⟩ := h
  rw [withCmd_eq_addCmd]
  exact Dev.arrive_unordered ((s.dev.isOrdered_ioReady id.port id).trans hplain) first

section
variable {s : State} {id : CmdId} (h : served s id)
include h

theorem ioDo_served (g : Dev → Dev) : s.dev.ioDo id g = g ((s.dev.wakeHost id.port).ioArrives) := by
  obtain ⟨hadmit, hgate, -⟩ := h
  exact Dev.ioDo_ready hadmit hgate g

/-- A served data command whose range its namespace holds, on the device that it finds. -/
theorem dataDo_served {ns lba len : Nat} {mdts : Bool} (hrange : s.dev.rangeFault ns lba len mdts = none) (g : Dev → Dev) :
    s.dev.ioDo id (fun d => d.dataDo id ns lba len mdts .ok g) = g ((s.dev.wakeHost id.port).ioArrives) := by
  rw [ioDo_served h, Dev.dataDo_inRange ((s.dev.rangeFault_ioReady ..).trans hrange)]

theorem exec_flush_served (marked : Bool) :
    exec (.flush id marked) s =
      s.next ((withCmd s (hostCmd id .flush 1 0 0 [] false false)).complete id .success 0).settle :=
  congrArg s.next ((ioDo_served h _).trans (congrArg Dev.settle (arrive_served h ..)))

theorem exec_write_served {ns lba : Nat} {data : List Nat} (hrange : s.dev.rangeFault ns lba data.length true = none)
    (marked : Bool) :
    let c := hostCmd id (if ns = 1 then .zonedWrite else .convWrite) ns lba data.length data false false
    exec (.write id ns lba data 0 marked .ok) s = s.next ((withCmd s c).start 0 c).settle :=
  congrArg s.next ((dataDo_served h hrange _).trans (congrArg Dev.settle (arrive_served h ..)))

section
variable {lba : Nat} (hrange : s.dev.rangeFault 1 lba 1 true = none) (limited marked : Bool) (first : Nat)
include hrange

/-- A read of one block of a zone that is not Offline is dispatched. -/
theorem exec_readOne_served (hstate : (s.dev.zone (lba / s.dev.media.zoneBlocks)).state ≠ 0xF) :
    let c := hostCmd id .read 1 lba 1 [] limited false
    exec (.read id 1 lba 1 limited marked first) s = s.next ((withCmd s c).startRead c first).settle := by
  refine congrArg s.next ((dataDo_served h hrange _).trans ((if_neg ?_).trans (congrArg Dev.settle (arrive_served h ..))))
  simp [Dev.media_ioReady, Dev.zone_ioReady, hstate]

theorem exec_readOne_offline (hstate : (s.dev.zone (lba / s.dev.media.zoneBlocks)).state = 0xF) :
    exec (.read id 1 lba 1 limited marked first) s =
      s.next (((s.dev.wakeHost id.port).ioArrives).complete id .zoneOffline 0) := by
  refine congrArg s.next ((dataDo_served h hrange _).trans (if_pos ?_))
  simp [Dev.media_ioReady, Dev.zone_ioReady, hstate]

end

end

/-! #### Reads of one block that need no media access -/

section
variable {d : Dev} {lba : Nat} (habove : (d.zone (lba / d.media.zoneBlocks)).wp ≤ lba % d.media.zoneBlocks)
include habove

/-- A block at or above the write pointer reads as zeros (R92). -/
theorem Dev.zonedHere_aboveWp (hopen : (d.zone (lba / d.media.zoneBlocks)).finish = none) : d.zonedHere lba = some 0 := by
  simp [Dev.zonedHere, hopen, habove]

theorem Dev.poisonHere_aboveWp : d.poisonHere 1 lba = false := by
  simp [Dev.poisonHere, Nat.not_lt.mpr habove]

end

/-- The context that a completion ends leaves no trace in the outstanding commands. -/
theorem Dev.addCmd_complete (d : Dev) (c : HostCmd) (status : Nvme) (dw0 : Nat) :
    (d.addCmd c).complete c.id status dw0 = d.complete c.id status dw0 := by
  simp [Dev.addCmd, Dev.complete, Dev.completeFull, Dev.onHost]

/-- A read that is alone outstanding and waits for nothing is finished. -/
theorem Dev.finishDone_alone {d : Dev} {c : HostCmd} (hcmds : d.host.cmds = [c]) (hneed : c.need = [])
    (hwait : c.waiting = false) (hkind : c.kind = .read) : d.finishDone = d.finishRead c := by
  simp [Dev.finishDone, hcmds, hneed, hwait, hkind]

theorem Dev.addCmd_finishRead {c : HostCmd} (hlost : c.lost = none) (d : Dev) :
    (d.addCmd c).finishRead c = (d.giveHost c.id (.blocks c.blocks)).complete c.id .success 0 := by
  rw [Dev.finishRead, hlost]
  exact (d.giveHost c.id (.blocks c.blocks)).addCmd_complete c .success 0

theorem Dev.addCmd_updCmd {d : Dev} (halone : d.host.cmds = []) (c c1 : HostCmd) :
    (d.addCmd c).updCmd c.id (fun _ => c1) = d.addCmd c1 := by
  simp [Dev.addCmd, Dev.updCmd, Dev.onHost, halone]

/-- The context of a read of one block of the zoned namespace that needs no media access, once its block is given. -/
theorem Dev.startRead_given {d : Dev} {c : HostCmd} {v : Nat} (hns : c.ns = 1) (hlen : c.len = 1)
    (hhere : d.zonedHere c.lba = some v) (hclean : d.poisonHere 1 c.lba = false) (first : Nat) :
    d.startRead c first =
      (d.updCmd c.id fun _ => { c with need := [], got := (c.lba, v) :: c.got }).finishDone := by
  simp [Dev.startRead, HostCmd.block, firstOfBolts, hns, hlen, hhere, hclean]

/-- A read of one block of the zoned namespace that needs no media access answers the block's contents at once. -/
theorem Dev.startRead_here {d : Dev} {id : CmdId} {lba v : Nat} {limited : Bool} (halone : d.host.cmds = [])
    (hhere : d.zonedHere lba = some v) (hclean : d.poisonHere 1 lba = false) (first : Nat) :
    let c := hostCmd id .read 1 lba 1 [] limited false
    (d.addCmd c).startRead c first = (d.giveHost id (.blocks [v])).complete id .success 0 := by
  intro c
  let c1 : HostCmd := { c with got := [(lba, v)] }
  have hblocks : c1.blocks = [v] := by simp [c1, c, hostCmd, HostCmd.blocks, sget]
  calc (d.addCmd c).startRead c first
      = ((d.addCmd c).updCmd c.id fun _ => c1).finishDone :=
        Dev.startRead_given (d := d.addCmd c) (c := c) rfl rfl hhere hclean first
    _ = (d.addCmd c1).finishDone := by rw [Dev.addCmd_updCmd halone]
    _ = (d.addCmd c1).finishRead c1 :=
        Dev.finishDone_alone (by rw [Dev.addCmd_cmds, halone, List.nil_append]) rfl rfl rfl
    _ = (d.giveHost id (.blocks [v])).complete id .success 0 := by rw [Dev.addCmd_finishRead rfl, hblocks]; rfl

/-! #### Writes of one block with room in the protected cache -/

/-- A conventional write of one block with room in the protected cache ends once the block is there; its band has been
written first, and both copies are asked for (R91, R93). -/
theorem Dev.startConv_room {d : Dev} {id : CmdId} {lba v : Nat} (harmed : d.armed = true)
    (hroom : d.dirtyBlocks + 1 ≤ 256 * d.f Reg.BUF_DIRTY_MAX) :
    d.startConv (hostCmd id .convWrite 2 lba 1 [v] false false) =
      ((d.firstConvWrite (lba / 256)).convBlock id lba v).1.complete id .success 0 := by
  have hbands : (lba % 256 + 1 + 255) / 256 = 1 := by omega
  simp [Dev.startConv, hostCmd, harmed, hroom, hbands, offsetsFrom]


/-- Settles O30: each served command by its dispatch, each refused one by `Dev.ioDo_gated`. -/
theorem readsAndConventionalWrites : Obligations.ReadsAndConventionalWrites := by
  unfold Obligations.ReadsAndConventionalWrites
  intro s id lba marked
  refine ⟨fun hserved => ⟨exec_flush_served hserved marked,
      fun limited first hrange hstate habove hopen halone => ?aboveWp,
      fun limited first hrange hoffline => exec_readOne_offline hserved hrange limited marked first hoffline,
      fun v hrange harmed hroom => ?convWrite⟩,
    fun e hadmit hgate => ?gated⟩
  case aboveWp =>
    have hzeros := (s.dev.zonedHere_ioReady id.port lba).trans (Dev.zonedHere_aboveWp habove hopen)
    have hclean := (s.dev.poisonHere_ioReady id.port lba).trans (Dev.poisonHere_aboveWp habove)
    have hread := Dev.startRead_here (id := id) (limited := limited) ((s.dev.cmds_ioReady id.port).trans halone) hzeros hclean
      first
    exact (exec_readOne_served hserved hrange limited marked first hstate).trans
      (congrArg (fun d => s.next (Dev.settle d)) hread)
  case convWrite =>
    let d := withCmd s (hostCmd id .convWrite 2 lba 1 [v] false false)
    have harmed1 : d.armed = true :=
      (congrArg (fun x => decide (x = 1)) (s.dev.f_ioReady id.port (by decide))).trans harmed
    have hlimit : d.f Reg.BUF_DIRTY_MAX = s.dev.f Reg.BUF_DIRTY_MAX := s.dev.f_ioReady id.port (by decide)
    have hroom1 : d.dirtyBlocks + 1 ≤ 256 * d.f Reg.BUF_DIRTY_MAX := by
      rw [hlimit]; exact (congrArg (· + 1) (s.dev.dirtyBlocks_ioReady id.port)).le.trans hroom
    exact (exec_write_served hserved hrange marked).trans
      (congrArg (fun d => s.next (Dev.settle d)) (Dev.startConv_room harmed1 hroom1))
  case gated =>
    have hgated (g : Dev → Dev) : s.next (s.dev.ioDo id g) = s.next (s.dev.completeWith id e.1 e.2.1 e.2.2) :=
      congrArg s.next (Dev.ioDo_gated hadmit hgate g)
    exact ⟨fun _ _ _ _ _ => hgated _, fun _ _ _ _ _ => hgated _, fun _ _ _ => hgated _, fun _ _ _ _ => hgated _,
      hgated _, fun _ _ _ => hgated _⟩

end Sys2Proof.Machine

/-! ### Media and log packets -/

namespace Sys2Proof.Machine

section
variable {d : Dev} {c : Call}

/-! #### Media diagnostics -/

/-- A track read of one slot answers its record's bytes, with the decode status behind them. -/
theorem Dev.mpiTrackRead_record {bi t : Nat} {b : BandRec} (hhead : d.headNamed c = true)
    (hone : c.num Ty.slots % 1024 = 1)
    (hband : d.bandAt c.p.act c.p.headNo (c.num Ty.track) = some (bi, b, t))
    (hslot : c.num Ty.slots / 65536 % 1024 < d.slotsOf b) :
    let slot := c.num Ty.slots / 65536 % 1024
    let r := d.diagRead c.p.act bi (t * d.slotsOf b + slot) slot (decide (2 ≤ b.kind)) (c.read 0)
    let x := Rep.bytes r.1.2
    d.mpiTrackRead c = ({ x with tlvs := x.tlvs ++ [Tlv.ofWords Ty.dstatus [r.1.1]] }, r.2) := by
  have hfits : ¬ d.slotsOf b < c.num Ty.slots / 65536 % 1024 + 1 := Nat.not_lt.mpr hslot
  simp [Dev.mpiTrackRead, hhead, hone, hband, hfits]

theorem Dev.mpiTrackRead_noTrack (hhead : d.headNamed c = true) (hcount : c.num Ty.slots % 1024 ≤ 1)
    (hband : d.bandAt c.p.act c.p.headNo (c.num Ty.track) = none) : d.mpiTrackRead c = (c.p.bad Ty.track, d) := by
  simp [Dev.mpiTrackRead, hhead, Nat.not_lt.mpr hcount, hband]

theorem Dev.mpiLbaToPhys_zoned {pl : Place} (hns : c.nsid = 1) (hmap : d.mapZoned c.lba = some pl) :
    d.mpiLbaToPhys c = (Rep.nats (d.placeWords pl), d) := by
  simp [Dev.mpiLbaToPhys, hns, hmap]

theorem Dev.mpiLbaToPhys_conventional {p0 p1 : Place} (hns : c.nsid = 2) (hmap0 : d.mapConv c.lba 0 = some p0)
    (hmap1 : d.mapConv c.lba 1 = some p1) :
    d.mpiLbaToPhys c = (Rep.nats (d.placeWords p0 ++ d.placeWords p1), d) := by
  simp [Dev.mpiLbaToPhys, hns, hmap0, hmap1]

section
variable {b : BandRec} (hband : d.band (c.num Ty.value) = some b)
include hband

theorem Dev.mpiDefectRead_slips (hslips : b.kind ≤ 1) :
    d.mpiDefectRead c = (Rep.nats ((d.slipsOf (c.num Ty.value)).map Slip.word), d) := by
  simp [Dev.mpiDefectRead, hband, hslips]

theorem Dev.mpiDefectPend_slips (hslips : b.kind ≤ 1) (haddr : c.num Ty.addr < 65536) :
    d.mpiDefectPend c = (Rep.ok, d.pendSlip (c.num Ty.value) (c.num Ty.addr)) := by
  simp [Dev.mpiDefectPend, hband, Nat.not_le.mpr (Nat.lt_succ_of_le hslips), Nat.not_le.mpr haddr]

theorem Dev.mpiDefectPend_reassigns (hkind : 2 ≤ b.kind) : d.mpiDefectPend c = (c.p.bad Ty.value, d) := by
  simp [Dev.mpiDefectPend, hband, hkind]

end

/-- A job that answers nothing but success ends within its step with status 0. -/
theorem Dev.shortJob_ok (d : Dev) (c : Call) (g : Dev → Dev) :
    let x := d.startJob c.p.op 0
    d.shortJob c (fun d => (Rep.ok, g d)) = (Rep.job x.1, (g x.2).endJobNo x.1 0 [] []) := rfl

theorem Dev.mpiHeadFail_named (hhead : d.headNamed c = true) :
    let x := d.startJob c.p.op 0
    d.mpiHeadFail c = (Rep.job x.1, (x.2.headFailing c.p.act c.p.headNo).endJobNo x.1 0 [] []) :=
  (if_neg (by simp [hhead])).trans (d.shortJob_ok c fun d => d.headFailing c.p.act c.p.headNo)

/-- A bolt that its sources rebuild is counted, and its bytes stand as the last solution (R364). -/
theorem Dev.mpiReconRead_rebuilt {pl : Place} {p : ReconPlan} (hns : c.nsid = 1) (hmap : d.mapZoned c.lba = some pl)
    (hplan : d.locate (c.lba / d.media.zoneBlocks) (c.lba % d.media.zoneBlocks / 8) = some p)
    (hcause : d.reconCause (some p) c.o.source = none) :
    let d1 := d.bumpF Reg.FLT_CNT_RECON_OK 1
    (d.mpiReconRead c).2 = { d1 with felt := { d1.felt with solved := (d.rebuilt p c.o.source).map Prod.fst } } := by
  simp [Dev.mpiReconRead, hns, hmap, hplan, hcause]

/-- A bolt that its sources do not rebuild is counted by its cause; the packet ends with OK, and its decode status tells. -/
theorem Dev.mpiReconRead_failed {pl : Place} {k : Nat} (hns : c.nsid = 1) (hmap : d.mapZoned c.lba = some pl)
    (hcause : d.reconCause (d.locate (c.lba / d.media.zoneBlocks) (c.lba % d.media.zoneBlocks / 8)) c.o.source = some k) :
    (d.mpiReconRead c).2 = d.reconFailed (c.lba / d.media.zoneBlocks) k ∧ (d.mpiReconRead c).1.status = 0 := by
  simp [Dev.mpiReconRead, hns, hmap, hcause, Rep.ok, Rep.code]

/-! #### Logs and records -/

theorem Dev.mpiHatbandClear_unfrozen (h : d.hb.frozen = []) : d.mpiHatbandClear c = (Rep.ok, d.clearHatband c.holder) :=
  if_pos (by simp [h])

theorem Dev.mpiHatbandClear_frozen (h : d.hb.frozen ≠ []) : d.mpiHatbandClear c = (Rep.code 0x0E 0, d) :=
  if_neg (by simp [h])

theorem Dev.mpiCounters_block {b : Block} (hb : blockAt (c.num Ty.value) = some b) :
    let r := d.readList c.who c.o.fabric (counterRegs b)
    d.mpiCounters c = (Rep.result r.1, r.2) := by
  simp [Dev.mpiCounters, hb]

/-- Whether it is refused or answered, a read of the recorder leaves the device as it was. -/
theorem Dev.mpiHatbandRead_dev (d : Dev) (c : Call) : (d.mpiHatbandRead c).2 = d := by
  unfold Dev.mpiHatbandRead
  dsimp only
  split
  · rfl
  · split <;> rfl

theorem Dev.mpiHeadHealth_dev (d : Dev) (c : Call) : (d.mpiHeadHealth c).2 = d := by
  unfold Dev.mpiHeadHealth; split <;> rfl

theorem Dev.mpiFeltLog_dev (d : Dev) (c : Call) : (d.mpiFeltLog c).2 = d := by
  unfold Dev.mpiFeltLog; split <;> rfl

end

/-- Settles O58: the packets' arrival by `Dev.packet_serialized` and `Dev.packet_unserialized`, what each does by the
cases of its handler. -/
theorem mediaAndLogPackets : Obligations.MediaAndLogPackets := by
  unfold Obligations.MediaAndLogPackets
  refine ⟨fun s path ws o => ⟨?trackRead, ?trackScan, ?replayRead, ?lbaToPhys, ?defectRead, ?defectPend, ?headFail,
      ?reconRead, ?hatbandRead, ?hatbandClear, ?hatbandArchive, ?counters, ?headHealth, ?feltLog, ?vaultInfo⟩,
    fun d c => ⟨fun _ _ _ => Dev.mpiTrackRead_record, Dev.mpiTrackRead_noTrack, fun _ => Dev.mpiLbaToPhys_zoned,
      fun _ _ => Dev.mpiLbaToPhys_conventional,
      fun _ hband hslips => ⟨Dev.mpiDefectRead_slips hband hslips, Dev.mpiDefectPend_slips hband hslips⟩,
      fun _ => Dev.mpiDefectPend_reassigns, Dev.mpiHeadFail_named, fun _ _ => Dev.mpiReconRead_rebuilt,
      fun _ _ hns hmap => Dev.mpiReconRead_failed hns hmap, Dev.mpiHatbandClear_unfrozen, Dev.mpiHatbandClear_frozen, rfl,
      fun _ => Dev.mpiCounters_block, d.mpiHatbandRead_dev c, d.mpiHeadHealth_dev c, d.mpiFeltLog_dev c, rfl⟩⟩
  case trackRead | replayRead | lbaToPhys | defectRead | reconRead | hatbandRead | counters | headHealth | feltLog
      | vaultInfo =>
    exact fun h => congrArg s.next (Dev.packet_unserialized h rfl rfl o)
  case trackScan | defectPend | headFail | hatbandClear | hatbandArchive =>
    exact fun h => congrArg s.next (Dev.packet_serialized h rfl rfl o)

end Sys2Proof.Machine

/-! ### The Blocker: fragments, requests and microwords -/

namespace Sys2Proof.Machine

@[simp] theorem Dev.get_onBlk (d : Dev) (a : Act) (g : Blocker → Blocker) : (d.onBlk a g).blk.get a = g (d.blk.get a) :=
  Per.get_set_same ..

/-! #### Fragments of a record (R109, R197, R201, R202, R582) -/

section
variable {d : Dev} {a : Act} {r : FragRun}

/-- The device after the field of a read fragment: placed by its marks, and counted when it was sampled. -/
def Dev.fieldRead (d : Dev) (a : Act) (r : FragRun) (o : FragObs) : Dev :=
  let d1 := (d.onBlk a fun b => { b with frag := none, rg := false, cut := b.cut || !r.sampled }).placeFrag a r o
  if r.sampled then (d1.countLanes a o.bad).countSaturated a o.saturated else d1

theorem Dev.endRead_more (hmore : r.entry.last = false) (o : FragObs) : d.endRead a r o = d.fieldRead a r o :=
  if_pos (by rw [hmore]; rfl)

/-- The LAST fragment of an ordinary read, of a record that no rung of the ladder attempts again (R109, R174). -/
theorem Dev.endRead_last {o : FragObs} (hlast : r.entry.last = true) (hordinary : testBit r.darg 1 = false) :
    let d1 := (d.fieldRead a r o).onBlk a fun b => { b with recOpen := none }
    d1.attempted a r.band r.pos = none →
      d.endRead a r o = d1.lastRead a (d1.readRec a r.band r.pos r.entry.slot) := by
  intro d1 hfirst
  simp only [d1, Dev.fieldRead] at hfirst
  simp [Dev.endRead, hlast, hordinary, hfirst, d1, Dev.fieldRead]

theorem Dev.readFrag_running (hrun : (d.blk.get a).frag = some r) (hread : r.write = false) (darg : Nat) (o : FragObs) :
    d.readFrag a darg o = d.endRead a r o := by
  simp [Dev.readFrag, hrun, hread]

theorem Dev.writeFrag_running (hrun : (d.blk.get a).frag = some r) (hwrite : r.write = true) :
    d.writeFrag a = d.endWrite a r := by
  simp [Dev.writeFrag, hrun, hwrite]

/-- A write gate that an active inhibit refuses is a write fault of the lowest active cause (R198, R201). -/
theorem Dev.openWrite_inhibited (hinh : (d.wr.get a).inhibits ≠ 0) (hcause : inhCause (d.wr.get a).inhibits ≠ 0xA) :
    d.openWrite a = d.writeFault a (inhCause (d.wr.get a).inhibits) := by
  have hrefused : d.writeRefused a = some (inhCause (d.wr.get a).inhibits) := if_pos hinh
  simp [Dev.openWrite, hrefused, hcause]

/-- After a refused gate a write fragment only shows whether its entry is the LAST one. -/
theorem Dev.beginWrite_refused {e : PlankEntry} {p : Nat × Nat} (hentry : (d.blk.get a).entry = some e)
    (hplace : (d.blk.get a).place = some p) (hgate : (d.blk.get a).wg = false) :
    d.beginWrite a true = d.onBlk a fun b => { b with fragLast := e.last } := by
  simp [Dev.beginWrite, hentry, hplace, hgate]

/-- A write fragment that does not begin leaves what its gate and its beginning have done. -/
theorem Dev.writeFrag_noFragment (hidle : (d.blk.get a).frag = none) :
    let d1 := (d.openWrite a).beginWrite a true
    (d1.blk.get a).frag = none → d.writeFrag a = d1 := by
  intro d1 hnone
  simp [Dev.writeFrag, hidle, d1, hnone]

end

section
variable {s : State} {a : Act} (hact : s.dev.hasAct a = true)
include hact

theorem exec_readFrag_present (darg : Nat) (o : FragObs) :
    exec (.readFrag a darg o) s = s.next (s.dev.readFrag a (darg % 16) o).settle :=
  congrArg s.next (if_pos hact)

theorem exec_writeFrag_present : exec (.writeFrag a) s = s.next (s.dev.writeFrag a).settle :=
  congrArg s.next (if_pos hact)

end

/-- Settles O22, by how `Dev.endRead` ends a fragment and `Dev.openWrite` refuses a gate. -/
theorem fragments : Obligations.Fragments := by
  unfold Obligations.Fragments
  intro s a hact
  refine ⟨?readMore, ?readLast, ?write, ?refused⟩
  case readMore =>
    intro darg o r hrun hread hmore
    rw [exec_readFrag_present hact, Dev.readFrag_running hrun hread, Dev.endRead_more hmore]
    rfl
  case readLast =>
    intro darg o r hrun hread hlast hordinary d1 d2 q hfirst
    rw [exec_readFrag_present hact, Dev.readFrag_running hrun hread, Dev.endRead_last hlast hordinary hfirst]
    rfl
  case write =>
    intro r hrun hwrite
    rw [exec_writeFrag_present hact, Dev.writeFrag_running hrun hwrite]
    rfl
  case refused =>
    intro e p c d1 hidle hinh hcause hentry hplace hgate hnone
    have hbegun : (s.dev.openWrite a).beginWrite a true = d1.onBlk a fun b => { b with fragLast := e.last } := by
      rw [Dev.openWrite_inhibited hinh hcause, Dev.beginWrite_refused hentry hplace hgate]
    have hstill : (((s.dev.openWrite a).beginWrite a true).blk.get a).frag = none := by
      rw [hbegun, Dev.get_onBlk]
      exact hnone
    rw [exec_writeFrag_present hact, Dev.writeFrag_noFragment hidle hstill, hbegun]

/-! #### Requests at a Blocker (R109, R110, R113, R218, R355, R585) -/

section
variable {d : Dev} {a : Act}

theorem Dev.rawCheck_noRequest (hidle : (d.blk.get a).cur = none) (same : Bool) :
    let w := (d.blk.get a).lastDecode
    let pass := same && decide (bits w 31 28 = 0) && decide (bits w 27 25 = 0) &&
      decide (bits w 15 12 ≤ d.f (Reg.WAS_RAW_CFG_MAXG.on a))
    let d1 := ((d.onBlk a fun b => { b with rawMismatch := !pass }).bumpF (Reg.WAS_RAW_STATUS_CHECKS.on a) 1).noteCheck a
      (d.head a) (!pass)
    d.rawCheck a same = if pass then d1 else d1.bumpF (Reg.WAS_RAW_STATUS_MISMATCH.on a) 1 := by
  simp only [Dev.rawCheck, hidle]

theorem Dev.post_current {r : BlkReq} (hcur : (d.blk.get a).cur = some r) (status : Word) :
    d.post a status = (((((d.postCut a).foldStood a).freeReqPair a r).noteWrite a r).reissue a r).onBlk a fun b =>
      { b with posted := (r.tag, status) :: b.posted, cur := none, recOpen := none, feltArmed := false } := by
  simp only [Dev.post, hcur]

end

/-- Settles O23: each command is its operation, taken at the case that the clause states. -/
theorem blockerRequests : Obligations.BlockerRequests := by
  unfold Obligations.BlockerRequests
  intro s a
  refine ⟨?accept, rfl, fun hpair hready hon => congrArg s.next (if_pos ⟨hpair, hready, hon⟩), ?trace,
    fun same hidle => congrArg (fun d => s.next (Dev.settle d)) (Dev.rawCheck_noRequest hidle same), ?post,
    fun tags hact => congrArg s.next (if_pos hact)⟩
  case accept =>
    intro r hnext
    exact congrArg s.next (by simp only [Dev.accept, hnext])
  case trace =>
    intro r hr
    exact congrArg (fun i => s.next (s.dev.onBlk a fun b => b.traceReg i)) (Nat.mod_eq_of_lt hr)
  case post =>
    intro r cur hr hcur
    have hreg : (s.dev.blk.get a).gr (r % 16) = (s.dev.blk.get a).gr r := by rw [Nat.mod_eq_of_lt hr]
    refine (congrArg (fun d => s.next (Dev.settle d)) (Dev.post_current hcur _)).trans ?_
    rw [hreg]

/-! #### Microwords, waits and returns (R100, R104, R119, R122) -/

section
variable {d : Dev} {a : Act} {m : Micro}

/-- A word that leaves the Plank position and reads no data memory: its GOP and KOP, then ALT or NEXT (R100 steps 5
and 6). -/
theorem Dev.finishWord_noPlank (hplk : m.plk = 0) (hgop : m.gop ≠ 13) (x y : Word) :
    let d1 := (d.gopStep a m x y).onBlk a fun b => b.kopStep m y
    d.finishWord a m x y = d1.onBlk a fun b =>
      { b with pc := BitVec.ofNat 14 (if d1.condition a m.cond != m.cinv then m.alt else m.next), wait := .run } := by
  simp [Dev.finishWord, hplk, hgop]

theorem Dev.runWord_finished (hreturn : m.dop ≠ 0xC) (habandon : m.dop ≠ 0xD) (o : WordObs) :
    d.runWord a m o =
      ((d.issue a m o).finishWord a m ((d.blk.get a).gr m.gd) ((d.blk.get a).gr m.gs)).sendGroups a := by
  simp [Dev.runWord, hreturn, habandon]

/-- A word that is not SAFE takes no event and is no wait; with no stamp its actions follow at once. -/
theorem Dev.word_unstamped (hsafe : m.safe = false) (hplk : m.plk = 0) (hmode : m.smode = 0) (o : WordObs) :
    d.word a m o = d.runWord a m o := by
  simp [Dev.word, Micro.isWait, hsafe, hplk, hmode]

/-- A word read without an error and without SAFE is executed, whether or not a halt is ordered (R98, R126). -/
theorem Dev.fetchWord_clean {p : BitVec 128}
    (hread : readWord (storeWord (d.blk.get a).store (d.blk.get a).pc.toNat) = .ok (p, 0))
    (hsafe : (Micro.ofPayload p).safe = false) (step : Bool) (o : WordObs) :
    d.fetchWord a step o = d.word a (Micro.ofPayload p) o := by
  simp [Dev.fetchWord, Dev.fixWord, hread, hsafe]

theorem Dev.abandon_atDepthZero (hdepth : (d.blk.get a).depth = 0) :
    d.abandon a = (d.onBlk a fun b => { b with pc := BitVec.ofNat 14 (d.f (Reg.BLK_VEC_ENTRY.on a)), wait := .run }).event
      Ev.other (.blk a) (d.blk.get a).pc.toNat 0 := if_pos hdepth

theorem Dev.returnTo_atDepthZero (hdepth : (d.blk.get a).depth = 0) : d.returnTo a = d.abandon a := if_pos hdepth

theorem Dev.writeImage_atDispatch (hpending : (d.blk.get a).loadPending = true)
    (hidle : (d.blk.get a).loaded = false ∨
      (d.blk.get a).wait = .cond ∧ (d.blk.get a).pc.toNat = d.f (Reg.BLK_VEC_ENTRY.on a)) :
    d.writeImage a = (((d.replayBlocker a).blockerFresh a (d.imageOf a)).incGen (.block (.blk a))).readyUnit
      (.block (.blk a)) :=
  if_pos ⟨hpending, by simpa using hidle⟩

end

section
variable {s : State} {a : Act}

theorem exec_microword_runs (hruns : s.dev.blkRuns a = true) (hhalted : (s.dev.blk.get a).halted = false) (o : WordObs) :
    exec (.microword a o) s = s.next (s.dev.fetchWord a false o).settle :=
  congrArg s.next (if_pos (by simp [hruns, hhalted]))

theorem exec_conditionWait_met {m : Micro} (hword : s.dev.waitingWord a = some m) (hwait : (s.dev.blk.get a).wait = .cond)
    (hmet : s.dev.condition a m.cond ≠ m.cinv) :
    exec (.conditionWait a) s =
      s.next (s.dev.onBlk a fun b => { b with pc := BitVec.ofNat 14 m.alt, wait := .run }) := by
  refine congrArg s.next ?_
  simp [hword, hwait, hmet]

end

/-- Settles O25: a word by the steps of R100, the returns by the depth they find. -/
theorem microcodeWords : Obligations.MicrocodeWords := by
  unfold Obligations.MicrocodeWords
  intro s a hact b
  refine ⟨?word, fun m => exec_conditionWait_met, ?abandon, ?depthZero, ?returned, ?image⟩
  case word =>
    intro o p hruns hhalted hread m hsafe hplk hmode hreturn habandon hgop
    rw [exec_microword_runs hruns hhalted, Dev.fetchWord_clean hread hsafe, Dev.word_unstamped hsafe hplk hmode,
      Dev.runWord_finished hreturn habandon, Dev.finishWord_noPlank hplk hgop]
  case abandon =>
    intro hdepth
    exact congrArg s.next ((if_pos hact).trans (if_neg (Nat.ne_of_gt hdepth)))
  case depthZero =>
    intro hdepth i hi
    have habandon := Dev.abandon_atDepthZero (d := s.dev) hdepth
    obtain rfl | rfl : i = .abandon a ∨ i = .return a := by simpa using hi
    · exact congrArg s.next ((if_pos hact).trans habandon)
    · exact congrArg s.next ((if_pos hact).trans ((Dev.returnTo_atDepthZero hdepth).trans habandon))
  case returned =>
    intro hdepth w
    exact congrArg s.next ((if_pos hact).trans (if_neg (Nat.ne_of_gt hdepth)))
  case image =>
    intro hpending hidle
    exact congrArg s.next ((if_pos hact).trans (Dev.writeImage_atDispatch hpending hidle))

end Sys2Proof.Machine

/-! ### The channel front end -/

namespace Sys2Proof.Machine

section
variable {d : Dev} {a : Act}

/-! #### Fine adaptation (R151 to R155) -/

theorem Dev.averageDone_full {k : Nat × Nat} (hkey : (d.chn.get a).key = some k)
    (hfull : 2 ^ d.f (Reg.CHN_ADAPT_CTL_AVG_LOG2.on a) ≤ d.f (Reg.CHN_ADAPT_STATUS_ACCUM.on a)) (ws : List (Nat × Word)) :
    let d1 := d.setF (Reg.CHN_ADAPT_STATUS_ACCUM.on a) 0
    let v : Average := { head := k.1, rzone := k.2, rgen := bits (d.rzWord a k.1 k.2 0) 11 0, words := ws,
                         drift := d.driftFlags a k.1 k.2 ws }
    d.averageDone a ws =
      if 2 ≤ (d.chn.get a).averages.length then d1.bumpF (Reg.CHN_ADAPT_STATUS_DROPPED.on a) 1
      else (d1.onChn a fun c => { c with averages := c.averages ++ [v] }).showReady a := by
  unfold Dev.averageDone
  rw [hkey]
  exact if_neg (Nat.not_lt.mpr hfull)

/-- The device once the oldest average has left its buffer. -/
def Dev.dropOldest (d : Dev) (a : Act) (vs : List Average) : Dev :=
  ((d.onChn a fun c => { c with averages := vs }).showReady a).atPhase (d.f Reg.CHN_WB_CFG_START)

section
variable {v : Average} {vs : List Average} (hheld : (d.chn.get a).averages = v :: vs)
include hheld

theorem Dev.writeBack_noDrift (hdrift : v.drift = 0) : d.writeBack a = d.dropOldest a vs := by
  unfold Dev.writeBack
  rw [hheld]
  exact if_pos hdrift

theorem Dev.writeBack_tooMany (hdrift : v.drift ≠ 0) (hmany : d.f Reg.CHN_WB_CFG_WORDS < v.entries.length) :
    d.writeBack a = (d.dropOldest a vs).bumpF (Reg.CHN_WB_STATUS_REFUSED.on a) 1 := by
  unfold Dev.writeBack
  rw [hheld]
  exact (if_neg hdrift).trans (if_pos (.inr (.inl hmany)))

/-- A batch whose words are legal as they are stages them with no clamp reported (R152 to R155). -/
theorem Dev.writeBack_staged (hdrift : v.drift ≠ 0) (hfits : v.entries.length ≤ d.f Reg.CHN_WB_CFG_WORDS)
    (hsome : v.entries.length ≠ 0) (hreaders : sget 0 d.conf.readers (12 * a.idx + v.head) ≠ 0)
    (hlegal : ∀ p ∈ v.entries, d.legalRz a v.head p.1 p.2.2 &&& p.2.1 = p.2.2 &&& p.2.1) :
    let d1 := d.dropOldest a vs
    let base := 256 * (64 * v.head + v.rzone)
    d.writeBack a = { d1 with conf := { d1.conf with adaptPending := d1.conf.adaptPending ++
      [{ act := a, table := Tbl.rz a, base := base, length := 64, rgen := some v.rgen,
         entries := v.entries.map fun p => (base + 4 * p.1, p.2.1, d.legalRz a v.head p.1 p.2.2),
         skip := d1.pastCutoff }] } } := by
  have haccept : ¬ (v.entries.length = 0 ∨ d.f Reg.CHN_WB_CFG_WORDS < v.entries.length ∨
      sget 0 d.conf.readers (12 * a.idx + v.head) = 0) := by
    rintro (hnone | hmany | hnoReader)
    · exact hsome hnone
    · exact absurd hmany (Nat.not_lt.mpr hfits)
    · exact hreaders hnoReader
  have hclamped : (v.entries.filter fun p =>
      decide (d.legalRz a v.head p.1 p.2.2 &&& p.2.1 ≠ p.2.2 &&& p.2.1)) = [] :=
    List.filter_eq_nil_iff.mpr fun p hp => by simp [hlegal p hp]
  unfold Dev.writeBack
  simp only [hheld, if_neg hdrift, if_neg haccept, hclamped, List.foldl_nil, List.map_map]
  rfl

end

/-! #### Lane and reader failure (R157, R158) -/

theorem Dev.readerFail_firstHead {h e : Nat} (hbad : d.laneBad a h e = true) (hfirst : d.metElsewhere a h e = false) :
    let x := (Reg.AFE_RDR_FAIL_FAIL.nth h).on a
    d.readerFail a h e = d.setF x (putBit (d.f x) e true) := if_pos (by simp [hbad, hfirst])

theorem Dev.failLane_sound {e : Nat} (hsound : testBit (d.f (Reg.AFE_LANE_STATUS_FAIL.on a)) e = false) :
    let x := Reg.AFE_LANE_STATUS_FAIL.on a
    let d1 := (d.setF x (putBit (d.f x) e true)).event Ev.laneFail (.afe a) (headArg a e) 0
    d.failLane a e = if e = 1 then d1 else d1.setDomOn (laneDomain a e) false := if_neg (by simp [hsound])

end

section
variable {s : State} {a : Act}

theorem exec_laneFail_secondHead {h e : Nat} (hh : h < 12) (he : e < 3) (hbad : s.dev.laneBad a h e = true)
    (hmet : s.dev.metElsewhere a h e = true) : exec (.laneFail a h e) s = s.next (s.dev.failLane a e) :=
  congrArg s.next (if_pos ⟨he, hh, hbad, hmet⟩)

variable (hact : s.dev.hasAct a = true)
include hact

theorem exec_synthLocked_bound (hkey : (s.dev.chn.get a).key.isSome = true) (hon : (s.dev.chn.get a).synthOff = false) :
    exec (.synthLocked a) s = s.next (s.dev.setF (Reg.AFE_SYN_STATUS_LOCKED.on a) 1) :=
  congrArg s.next (if_pos ⟨hkey, by simp [hon], hact⟩)

theorem exec_averageComplete_present (ws : List (Nat × Word)) :
    exec (.averageComplete a ws) s = s.next (s.dev.averageDone a ws) := congrArg s.next (if_pos hact)

theorem exec_writeBackBatch_present : exec (.writeBackBatch a) s = s.next (s.dev.writeBack a) :=
  congrArg s.next (if_pos hact)

theorem exec_lanePowerFault_otherLane {e : Nat} (he : e = 0 ∨ e = 2) :
    exec (.lanePowerFault a e) s = s.next (s.dev.failLane a e) :=
  congrArg s.next ((if_pos ⟨hact, by omega⟩).trans (if_neg (by omega)))

theorem exec_lanePowerFault_synthesizer :
    exec (.lanePowerFault a 1) s = s.next (((((s.dev.failLane a 1).setF (Reg.AFE_SYN_STATUS_LOCKED.on a) 0).onChn a
      fun c => { c with synthOff := true }).setDomOn (laneDomain a 1) false).reportFault (.channelLane a) 7) :=
  congrArg s.next (if_pos ⟨hact, by decide⟩)

/-- The FAIL bits of a head's readers are written in safe mode only (R158). -/
theorem exec_laneFailClear_readers {h : Nat} (hh : h < 12) (m : Nat) :
    exec (.laneFailClear a (some h) m) s = s.next (if s.dev.safe then s.dev.clearFail a (some h) m
      else s.dev.ignoredWrite (0x220040 + 4 * h + 0x10000 * a.idx)) := by
  refine congrArg s.next ((if_neg (by simp [hact])).trans ?_)
  simp only [Option.map_some, Nat.mod_eq_of_lt hh]

end

/-- Settles O21, by how `Dev.averageDone` and `Dev.writeBack` treat an average, and by the failure rules of lanes and
readers. -/
theorem channelFrontEnd : Obligations.ChannelFrontEnd := by
  unfold Obligations.ChannelFrontEnd
  intro s a hact
  refine ⟨exec_synthLocked_bound hact, ?average, ?batch, ?reader, ?lane, fun e => exec_lanePowerFault_otherLane hact,
    exec_lanePowerFault_synthesizer hact, fun h m hh => exec_laneFailClear_readers hact hh m⟩
  case average =>
    intro ws k hkey hfull
    exact (exec_averageComplete_present hact ws).trans (congrArg s.next (Dev.averageDone_full hkey hfull ws))
  case batch =>
    intro v vs hheld
    rw [exec_writeBackBatch_present hact]
    exact ⟨fun hdrift => congrArg s.next (Dev.writeBack_noDrift hheld hdrift),
      fun hdrift hmany => congrArg s.next (Dev.writeBack_tooMany hheld hdrift hmany),
      fun hdrift hfits hsome hreaders hlegal =>
        congrArg s.next (Dev.writeBack_staged hheld hdrift hfits hsome hreaders hlegal)⟩
  case reader =>
    intro h e hh he hbad hfirst
    exact congrArg s.next ((if_pos ⟨he, hh⟩).trans (Dev.readerFail_firstHead hbad hfirst))
  case lane =>
    intro h e hh he hbad hmet hsound
    exact (exec_laneFail_secondHead hh he hbad hmet).trans (congrArg s.next (Dev.failLane_sound hsound))

end Sys2Proof.Machine

/-! ### Calibration packets -/

namespace Sys2Proof.Machine

section
variable {d : Dev} {c : Call}

theorem Dev.mpiCalRegWrite_word {w : Word} (haddr : c.num Ty.addr % 4 = 0) (hdata : c.data = [w]) :
    d.mpiCalRegWrite c =
      (Rep.ok, d.fabricWrite c.who true (c.num Ty.addr) (w32 (c.p.num Ty.mask 0xFFFFFFFF)) w c.o.fabric) := by
  have hdata1 : (c.p.get Ty.data).map Tlv.ws = some [w] := by
    cases htlv : c.p.get Ty.data with
    | none => simp [Call.data, htlv] at hdata
    | some t => simpa [Call.data, htlv] using hdata
  unfold Dev.mpiCalRegWrite Dev.regWrite
  rw [hdata1]
  exact if_neg (not_not_intro haddr)

theorem Dev.mpiSpindleRun_valid (hvalue : c.num Ty.value ≤ 1) :
    let x := (d.spinRun (decide (c.num Ty.value = 1))).startJob c.p.op (c.num Ty.value)
    d.mpiSpindleRun c = (Rep.job x.1, x.2) := if_neg (Nat.not_lt.mpr hvalue)

/-! #### Packets that name a head -/

section
variable (hhead : d.headNamed c = true)
include hhead

theorem Dev.mpiHeadLoad_named (hvalue : c.num Ty.value ≤ 1) :
    let a := c.p.act
    let x := (if c.num Ty.value = 1 then d.servoLoad a c.p.headNo else d.servoUnload a).startJob c.p.op
      (2 * a.idx + c.num Ty.value)
    d.mpiHeadLoad c = (Rep.job x.1, x.2) :=
  (if_neg (by simp [hhead])).trans (if_neg (Nat.not_lt.mpr hvalue))

section
variable (htrack : c.num Ty.track < 2 ^ 22)
include htrack

/-- A seek is refused while the heads are not loaded or a trajectory runs or is due (R283). -/
theorem Dev.mpiSeek_refused
    (hbusy : d.loadState c.p.act ≠ 2 ∨ (d.srv.get c.p.act).traj.isSome ∨ (d.srv.get c.p.act).due.isSome) :
    d.mpiSeek c = (Rep.code 0x0E 0, d) :=
  (if_neg (by simp [hhead])).trans ((if_neg (Nat.not_le.mpr htrack)).trans (if_pos hbusy))

/-- A seek that is taken is decided at once when its head is the selected one and has a valid position; otherwise the
decision is left open (R283). -/
theorem Dev.mpiSeek_taken (hloaded : d.loadState c.p.act = 2) (htraj : (d.srv.get c.p.act).traj = none)
    (hdue : (d.srv.get c.p.act).due = none) :
    let a := c.p.act
    let h := c.p.headNo
    let d1 := ((d.servoHead a h).setF (Reg.SRV_TARGET_TRACK.on a) (c.num Ty.track)).onSrv a fun v => { v with
      target := 65536 * (c.num Ty.track : Int), req := none, waitReq := none, late := 0, gaveUp := false, settled := false }
    let d2 := if d.head a ≠ h ∨ (d1.srv.get a).pos = none ∨ d1.f (Reg.SRV_STATUS_PES_VALID.on a) = 0 then
      d1.onSrv a fun v => { v with deciding := true } else d1.decideSeek a
    d.mpiSeek c = (Rep.result [d2.live (Reg.SRV_STATUS + 0x10000 * a.idx)], d2) := by
  have hfree : ¬ (d.loadState c.p.act ≠ 2 ∨ (d.srv.get c.p.act).traj.isSome ∨ (d.srv.get c.p.act).due.isSome) := by
    simp [hloaded, htraj, hdue]
  unfold Dev.mpiSeek
  simp only [hhead, Bool.not_true, Bool.false_eq_true, if_false, if_neg (Nat.not_le.mpr htrack), if_neg hfree,
    decide_eq_true_eq]

end

/-- With bits [10:8] of MASK clear only the readers of the head are cleared (R158). -/
theorem Dev.mpiReaderClear_readers (hreaders : c.num Ty.mask % 8 ≠ 0) (hlanes : c.num Ty.mask / 256 % 8 = 0) :
    d.mpiReaderClear c = (Rep.ok, d.clearFail c.p.act (some c.p.headNo) (c.num Ty.mask % 8)) := by
  simp [Dev.mpiReaderClear, hhead, hreaders, hlanes]

end

/-- A head that the actuator does not have is a bad parameter of each packet that names one (Table 18.5). -/
theorem Dev.headPackets_noHead (hhead : d.headNamed c = false) :
    let bad := (c.p.bad Ty.head, d)
    d.mpiHeadLoad c = bad ∧ d.mpiSeek c = bad ∧ d.mpiReaderClear c = bad ∧ d.mpiAssistRecal c = bad := by
  have hnone : (!d.headNamed c) = true := by simp [hhead]
  exact ⟨if_pos hnone, if_pos hnone, if_pos hnone, if_pos hnone⟩

/-! #### Packets that write registers -/

theorem Dev.mpiInject_fiveWords {w0 w1 w2 w3 w4 : Word} (hdata : c.data = [w0, w1, w2, w3, w4]) :
    let at0 := Reg.SRV_INJ_CTL + 0x10000 * c.p.act.idx
    d.mpiInject c =
      (Rep.ok, d.calWrites c [(at0, w0), (at0 + 4, w1), (at0 + 8, w2), (at0 + 12, w3), (at0 + 16, w4)]) := by
  unfold Dev.mpiInject
  rw [hdata]
  rfl

theorem Dev.mpiCaptureArm_threeWords {ctl sel trig : Word} (hdata : c.data = [ctl, sel, trig]) :
    let b := 0x10000 * c.p.act.idx
    d.mpiCaptureArm c = (Rep.ok, d.calWrites c
      [(Reg.SRV_CAP_SEL + b, sel), (Reg.SRV_CAP_TRIG + b, trig), (Reg.SRV_CAP_CTL + b, ctl)]) := by
  simp only [Dev.mpiCaptureArm, hdata]

theorem Dev.mpiPreampAccess_word {w : Word} (hdata : c.data = [w]) :
    d.mpiPreampAccess c = ({ Rep.ok with wait := some (preampWait c.p.act c.o.fabric) },
      d.calWrites c [(Reg.TNL_PA_ACC + 0x10000 * c.p.act.idx, w ||| 0x80000000#32)]) := by
  simp only [Dev.mpiPreampAccess, hdata]

theorem Dev.mpiEccInject_dram {w : Word} (hspace : c.num Ty.space = 0) (hdata : c.data = [w]) :
    d.mpiEccInject c = (Rep.ok, d.calWrites c
      [(Reg.DMC_TEST_ADDR, w32 (c.num Ty.addr / 64)), (Reg.DMC_TEST_CTL, w ||| 0x80000000#32)]) := by
  simp only [Dev.mpiEccInject, hspace, hdata]

/-! #### Handover -/

theorem Dev.mpiHandover_x (hvalue : c.num Ty.value = 0) : d.mpiHandover c = (Rep.ok, d.handoverAll true .X) := by
  simp only [Dev.mpiHandover, hvalue]

theorem Dev.mpiHandover_y (hvalue : c.num Ty.value = 1) : d.mpiHandover c = (Rep.ok, d.handoverAll true .Y) := by
  simp only [Dev.mpiHandover, hvalue]

theorem Dev.mpiHandover_endHold (hvalue : c.num Ty.value = 2) :
    d.mpiHandover c = (Rep.ok, d.semFree.endFaultHold) := by
  simp only [Dev.mpiHandover, hvalue]

end

/-- Settles O57: the packets' arrival by `Dev.packet_serialized` and `Dev.packet_unserialized`, what each does by the
cases of its handler. -/
theorem calibrationPackets : Obligations.CalibrationPackets := by
  unfold Obligations.CalibrationPackets
  refine ⟨fun s path ws o => ⟨?calRegWrite, ?spindleRun, ?headLoad, ?seek, ?inject, ?captureArm, ?captureRead,
      ?preampAccess, ?linkRetrain, ?readerClear, ?assistRecal, ?eccInject, ?handover⟩,
    fun d c => ⟨fun _ => Dev.mpiCalRegWrite_word, Dev.mpiSpindleRun_valid, Dev.mpiHeadLoad_named, Dev.mpiSeek_refused,
      Dev.mpiSeek_taken, fun _ _ _ _ _ => Dev.mpiInject_fiveWords, fun _ _ _ => Dev.mpiCaptureArm_threeWords,
      fun _ => Dev.mpiPreampAccess_word, rfl, Dev.mpiReaderClear_readers, fun _ => Dev.mpiEccInject_dram,
      Dev.mpiHandover_x, Dev.mpiHandover_y, Dev.mpiHandover_endHold, Dev.headPackets_noHead⟩⟩
  case captureRead => exact fun h => congrArg s.next (Dev.packet_unserialized h rfl rfl o)
  case calRegWrite | spindleRun | headLoad | seek | inject | captureArm | preampAccess | linkRetrain | readerClear
      | assistRecal | eccInject | handover =>
    exact fun h => congrArg s.next (Dev.packet_serialized h rfl rfl o)

end Sys2Proof.Machine

/-! ### Detection and the retry ladder -/

namespace Sys2Proof.Machine

theorem Dev.onDet_congr {d : Dev} {a : Act} {g h : Detect → Detect} (heq : g (d.det.get a) = h (d.det.get a)) :
    d.onDet a g = d.onDet a h := by
  unfold Dev.onDet
  rw [heq]

/-! #### Decodes (R77, R170, R171, R179) -/

/-- The detector after a waiting rung 0 decode has started on free decoders: the record's buffer is pending. -/
def Detect.startRung0 (t : Detect) (r : LadderRec) : Detect :=
  let t1 := { t with ready := t.ready.erase r, decodes := t.decodes ++ [r] }
  match t1.bufOf r.tag r.slot with
  | none => t1
  | some i => t1.setBuf i .pending r.tag r.slot

theorem Detect.startDecode_rung0 {t : Detect} {r : LadderRec}
    (hwaits : (t.ready.find? fun r => decide (r.rung = 0)) = some r)
    (hfree : t.slices + (if r.conv then 1 else 4) ≤ 4) (hrung : r.rung = 0) : t.startDecode = t.startRung0 r := by
  simp only [Detect.startDecode, hwaits, Option.orElse_some, if_pos hfree, if_pos hrung]
  rfl

section
variable {d : Dev} {a : Act} {r : LadderRec}

/-- The device once a decode has left its decoders. -/
def Dev.endDecode (d : Dev) (a : Act) (r : LadderRec) : Dev :=
  d.onDet a fun t => { t with decodes := t.decodes.erase r }

/-- The checks of R170 and R77 on the decode of a record that the medium holds: syndrome, CRC, no cut fragment, and
place. -/
def Dev.passesChecks (d : Dev) (r : LadderRec) (m : MediaRec) (e : DecodeEnd) : Bool :=
  e.zeroSyndrome && e.crcGood && !r.cut && d.placedAt r.band r.pos m

theorem Dev.decodeDone_rung0 {tag slot : Nat} {m : MediaRec} {e : DecodeEnd}
    (hdecode : ((d.det.get a).decodes.find? fun r => decide (r.tag = tag ∧ r.slot = slot)) = some r)
    (hrung : r.rung = 0) (hmedia : d.mediaAt r.band r.pos = some m) :
    d.decodeDone a tag slot e =
      if d.passesChecks r m e then
        (((d.endDecode a r).secondEnds a r true e).deliverRec a r 0 0 0 e).contribute a r
      else (d.endDecode a r).failRung0 a r := by
  have hmedia0 : (d.endDecode a r).mediaAt r.band r.pos = some m := hmedia
  unfold Dev.endDecode at hmedia0
  simp only [Dev.decodeDone, hdecode, hmedia0, hrung, if_true]
  rfl

/-! #### The ladder (R179, R188) -/

/-- The device once a record has left its rung and its attempts no longer count. -/
def Dev.rungLeft (d : Dev) (a : Act) (r : LadderRec) : Dev := (d.leaveRung a r).onDet a fun t => t.dropAttempts r

theorem Dev.ladderOn_pastLast (hlast : (d.rungLeft a r).nextRung r.plan r.rung r.noback = none) :
    d.ladderOn a r = ((d.rungLeft a r).unrecovered a r).ladderFree a := by
  unfold Dev.rungLeft at hlast
  simp only [Dev.ladderOn, hlast]
  rfl

theorem Dev.ladderOn_next {k : Nat} (hnext : (d.rungLeft a r).nextRung r.plan r.rung r.noback = some k) :
    let d2 := (d.rungLeft a r).enterRung a r k
    d.ladderOn a r = if (d2.det.get a).active.isSome then d2 else d2.ladderFree a := by
  unfold Dev.rungLeft at hnext
  simp only [Dev.ladderOn, hnext]
  rfl

/-! #### Reconstruction (R364, R365) -/

/-- The device once a record is no longer under reconstruction. -/
def Dev.endRecon (d : Dev) (a : Act) (r : LadderRec) : Dev :=
  d.onDet a fun t => { t with recon := t.recon.erase r }

/-- The device once a reconstruction is solved: counted, with the bytes that its columns give. -/
def Dev.reconSolved (d : Dev) (plan : ReconPlan) (o : SourceReads) : Dev :=
  let d1 := d.bumpF Reg.FLT_CNT_RECON_OK 1
  { d1 with felt := { d1.felt with solved := d1.solveBytes plan o } }

/-- Whether a band's surface is known and not lost: the position of a record rebuilt on it counts as weak. -/
def Dev.surfaceKept (d : Dev) (band : Nat) : Bool :=
  match d.band band with
  | none => false
  | some x => !sget false d.felt.lost x.surface

theorem Dev.reconstruct_solved {o : SourceReads} {z b : Nat} {plan : ReconPlan}
    (hzone : (d.endRecon a r).zoneOfBand r.band = some z)
    (hbolt : boltAt (slipsInForce ((d.endRecon a r).slipsOf r.band)) r.pos = some b)
    (hplan : (d.endRecon a r).locate z b = some plan) (hsolved : (d.endRecon a r).reconCause (some plan) o = none) :
    let d2 := (d.endRecon a r).reconSolved plan o
    d.reconstruct a r o = d2.deliverRec a r 7 2 o.poison
      { zeroSyndrome := true, crcGood := true, globals := 0, locals := 0, offset := false,
        weak := d2.surfaceKept r.band } := by
  unfold Dev.endRecon at hzone hbolt hplan hsolved
  simp only [Dev.reconstruct, hzone, hbolt, hplan, hsolved]
  rfl

theorem Dev.reconBoundEnds_bolt {tag z : Nat}
    (hrecon : ((d.det.get a).recon.find? fun r => decide (r.tag = tag)) = some r)
    (hzone : (d.endRecon a r).zoneOfBand r.band = some z) :
    d.reconBoundEnds a tag = ((d.endRecon a r).reconFailed z 3).unrecovered a r := by
  unfold Dev.endRecon at hzone
  simp only [Dev.reconBoundEnds, hrecon, hzone]
  rfl

end

section
variable {s : State} {a : Act} {r : LadderRec}

theorem exec_rungCostElapsed_active (hactive : (s.dev.det.get a).active = some r) :
    exec (.rungCostElapsed a) s = s.next (s.dev.ladderOn a r).settle :=
  congrArg s.next (by simp only [hactive])

theorem exec_reconstruction_found {tag : Nat}
    (hrecon : ((s.dev.det.get a).recon.find? fun r => decide (r.tag = tag)) = some r) (o : SourceReads) :
    exec (.reconstruction a tag o) s = s.next (s.dev.reconstruct a r o).settle :=
  congrArg s.next (by simp only [hrecon])

end

/-- Settles O20, by how `Detect.startDecode` and `Dev.decodeDone` treat a rung 0 decode, how `Dev.ladderOn` leaves a
rung, and how a reconstruction ends solved or at its bound. -/
theorem detectionAndLadder : Obligations.DetectionAndLadder := by
  unfold Obligations.DetectionAndLadder
  intro s a
  refine ⟨rfl, ?start, ?done, ?lastRung, ?nextRung, ?solved, ?bound⟩
  case start =>
    intro r hwaits hfree hrung
    exact congrArg s.next (Dev.onDet_congr (Detect.startDecode_rung0 hwaits hfree hrung))
  case done =>
    intro tag slot e r m hdecode hrung hmedia d0 good
    exact congrArg (fun d => s.next (Dev.settle d)) (Dev.decodeDone_rung0 hdecode hrung hmedia)
  case lastRung =>
    intro r hactive d1 hlast
    rw [exec_rungCostElapsed_active hactive, Dev.ladderOn_pastLast hlast]
    rfl
  case nextRung =>
    intro r k hactive d1 hnext
    rw [exec_rungCostElapsed_active hactive, Dev.ladderOn_next hnext]
    rfl
  case solved =>
    intro tag o r z b plan hrecon d0 hzone hbolt hplan hsolved d1 d2 healthy
    rw [exec_reconstruction_found hrecon, Dev.reconstruct_solved hzone hbolt hplan hsolved]
    rfl
  case bound =>
    intro tag r z hrecon d0 hzone
    exact congrArg (fun d => s.next (Dev.settle d)) (Dev.reconBoundEnds_bolt hrecon hzone)

end Sys2Proof.Machine

/-! ### The heater and the assist lane -/

namespace Sys2Proof.Machine

@[simp] theorem Dev.get_onWr (d : Dev) (a : Act) (g : WritePath → WritePath) : (d.onWr a g).wr.get a = g (d.wr.get a) :=
  Per.get_set_same ..

section
variable {d : Dev} {a : Act} {h : Nat}

/-! #### Heater steps and unwinds (R196, R215, R216) -/

/-- The device once a head has its new heater step: a target, of which nothing is sent yet. -/
def Dev.setStep (d : Dev) (a : Act) (h st : Nat) : Dev := d.onWr a fun w => { w with step := sset 0 w.step h st }

theorem Dev.unwinding_setStep (st : Nat) : (d.setStep a h st).unwinding a h = d.unwinding a h := by
  simp only [Dev.unwinding, Dev.setStep, Dev.get_onWr]

theorem Dev.sendCode_setStep (st c : Nat) :
    (d.setStep a h st).sendCode a h c = if sget 0 (d.wr.get a).code h = c then d.setStep a h st
      else ((d.setStep a h st).onWr a fun w => { w with code := sset 0 w.code h c }).launch a 0x4 (256 * h + c) := by
  simp only [Dev.sendCode, Dev.setStep, Dev.get_onWr]

theorem Dev.heater_eq (st : Nat) :
    let d1 := d.setStep a (d.head a) st
    let c := d1.heaterCode a (d.head a)
    d.heater a st = if d.unwinding a (d.head a) ∨ sget 0 (d.wr.get a).code (d.head a) = c then d1
      else (d1.onWr a fun w => { w with code := sset 0 w.code (d.head a) c }).launch a 0x4 (256 * d.head a + c) := by
  intro d1 c
  have hstep : d.heater a st = if d1.unwinding a (d.head a) then d1 else d1.sendCode a (d.head a) c := rfl
  rw [hstep, Dev.unwinding_setStep, Dev.sendCode_setStep]
  by_cases hunwind : d.unwinding a (d.head a) = true
  · rw [if_pos hunwind, if_pos (.inl hunwind)]
  · simp only [hunwind, false_or, if_false, Bool.false_eq_true]
    rfl

theorem Dev.unwindHead_half (hhalf : sget 0 (d.wr.get a).unwind h = 2) :
    let goal := d.heaterCodeBo a h 0
    let now := sget 0 (d.wr.get a).code h
    d.unwindHead a h = (d.onWr a fun w => { w with unwind := sset 0 w.unwind h 1 }).sendCode a h
      (if now ≤ goal then now + (goal - now) / 2 else now - (now - goal) / 2) := by
  simp [Dev.unwindHead, hhalf]

theorem Dev.unwindHead_rest (hrest : sget 0 (d.wr.get a).unwind h = 1) :
    d.unwindHead a h = (d.onWr a fun w => { w with unwind := sset 0 w.unwind h 0 }).sendCode a h
      (d.heaterCodeBo a h 0) := by
  simp [Dev.unwindHead, hrest]

/-! #### The lane's way through pre-bias, operate and off (R205, R208, R210, R215) -/

/-- The device once the lane's back-off has begun: BO_PRE of the record in force on the selected head. -/
def Dev.beginBackOff (d : Dev) (a : Act) : Dev :=
  let w := d.asTable a (d.head a) (d.boundZone a) (d.assist.get a).band 3
  ((d.onAssist a fun l => { l with backOffBegun := true }).setBo a (d.head a) (bits w 31 24)).sendHeater a (d.head a)

theorem Dev.backOffStart_typed (htype : d.asType a (d.head a) ≠ 0) : d.backOffStart a = d.beginBackOff a := if_neg htype

/-- The record of the selected head, the bound rate zone and the temperature band now. -/
def Dev.recordNow (d : Dev) (a : Act) : List Word :=
  (List.range 8).map fun i => d.asTable a (d.head a) (d.boundZone a) (d.assist.get a).band i

/-- The device once a record is latched for the selected head and the lane shows pre-bias. -/
def Dev.startPreBias (d : Dev) (a : Act) (words : List Word) : Dev :=
  (((d.onAssist a fun l =>
      { l with record := ssetList 0 [] 0 words, recBad := false, sincePre := 0, idle := 0, backOffBegun := false }).setF
    (Reg.WAS_AS_STATUS_STATE.on a) 1).setF (Reg.WAS_AS_STATUS_HEAD.on a) (d.head a)).setF
    (Reg.WAS_AS_STATUS_BAND.on a) (d.assist.get a).band

/-- A head's unwind ends where it is, and a new back-off is in force. -/
def Dev.backOffTo (d : Dev) (a : Act) (h bo : Nat) : Dev :=
  ((d.onWr a fun w => { w with unwind := sset 0 w.unwind h 0 }).setBo a h bo).sendHeater a h

theorem Dev.preBias_good (htype : d.asType a (d.head a) ≠ 0) :
    let words := d.recordNow a
    d.preBias a .good = ((d.startPreBias a words).asLevel a 1 (bits (words.getD 1 0) 25 16)).backOffTo a (d.head a)
      (bits (words.getD 3 0) 31 24) := by
  simp only [Dev.preBias, if_neg htype, if_true, reduceCtorEq, if_false]
  rfl

theorem Dev.preBiasAt_due (hdue : (d.tnl.get a).rampDue = true) (f : Fetch) :
    d.preBiasAt a f = d.onTnl a fun t => { t with preHeld := some f } := if_pos hdue

theorem Dev.preBiasAt_acknowledged (hdue : (d.tnl.get a).rampDue = false) (f : Fetch) : d.preBiasAt a f = d.preBias a f :=
  if_neg (by rw [hdue]; exact Bool.false_ne_true)

theorem Dev.operate_on (htype : d.asType a (d.head a) ≠ 0) (hon : d.asState a ≠ 0) :
    d.operate a = ((d.setF (Reg.WAS_AS_STATUS_STATE.on a) 2).setBo a (d.head a) (bits (d.asWord a 3) 23 16)).sendHeater a
      (d.head a) := if_neg (not_or.mpr ⟨htype, hon⟩)

theorem Dev.laneOff_on (hon : d.asState a ≠ 0) :
    d.laneOff a = ((((d.setF (Reg.WAS_AS_STATUS_STATE.on a) 0).asLevel a 0 0).startUnwind a (d.asHead a)).onAssist a
      fun l => { l with record := [], backOffBegun := false, operated := false, frameDue := false }) := if_neg hon

end

section
variable {s : State} {a : Act}

theorem exec_heater_present (hact : s.dev.hasAct a = true) {st : Nat} (hst : st < 16) :
    exec (.heater a st) s = s.next (s.dev.heater a st) :=
  congrArg s.next ((if_pos hact).trans (by rw [Nat.mod_eq_of_lt hst]))

theorem exec_assistSelfOff_idle (hon : s.dev.asState a ≠ 0)
    (hidle : s.dev.asPrelead a (s.dev.asHead a) + s.dev.asPbHold a (s.dev.asHead a) ≤ (s.dev.assist.get a).idle) :
    exec (.assistSelfOff a) s = s.next ((s.dev.laneOff a).assistFault a 3) := congrArg s.next (if_pos ⟨hon, hidle⟩)

variable (hassist : s.dev.hasAssist a = true)
include hassist

theorem exec_backOffStart_present :
    let d1 := s.dev.backOffStart a
    exec (.backOffStart a) s = s.next
      { d1 with clock := { d1.clock with stamps := d1.clock.stamps.filter fun t => decide (t.owner ≠ .backOff a) } } :=
  congrArg s.next (if_pos hassist)

theorem exec_preBias_present (f : Fetch) : exec (.preBias a f) s = s.next (s.dev.preBiasAt a f) :=
  congrArg s.next (if_pos hassist)

theorem exec_operate_gateShut : exec (.operate a false) s = s.next (s.dev.operate a) := congrArg s.next (if_pos hassist)

theorem exec_assistOff_present : exec (.assistOff a) s = s.next (s.dev.laneOff a) := congrArg s.next (if_pos hassist)

end

/-- Settles O17, by what `Dev.heater` sends, and by what each step of the assist lane and of an unwind leaves behind. -/
theorem heaterAndAssistLane : Obligations.HeaterAndAssistLane := by
  unfold Obligations.HeaterAndAssistLane
  intro s a hact
  refine ⟨?step, ?backOff, ?preBias, fun f hassist hdue => ?held, ?operate, ?off, fun h hhalf => ?half, fun h hrest => ?rest⟩
  case step =>
    intro st hst h d1 c
    exact (exec_heater_present hact hst).trans (congrArg s.next (Dev.heater_eq st))
  case backOff =>
    intro hassist htype h w d1
    rw [exec_backOffStart_present hassist, Dev.backOffStart_typed htype]
    rfl
  case preBias =>
    intro hassist htype hdue h b words d1 d2 v d3
    rw [exec_preBias_present hassist, Dev.preBiasAt_acknowledged hdue, Dev.preBias_good htype]
    rfl
  case held => rw [exec_preBias_present hassist, Dev.preBiasAt_due hdue]
  case operate =>
    intro hassist htype hon
    rw [exec_operate_gateShut hassist, Dev.operate_on htype hon]
  case off =>
    intro hassist hon d1 d2
    have hoff : s.dev.laneOff a = d2 := Dev.laneOff_on hon
    refine ⟨?_, fun hidle => ?_⟩
    · rw [exec_assistOff_present hassist, hoff]
    · rw [exec_assistSelfOff_idle hon hidle, hoff]
  case half => exact congrArg s.next (Dev.unwindHead_half hhalf)
  case rest => exact congrArg s.next (Dev.unwindHead_rest hrest)

end Sys2Proof.Machine

/-! ### The Tenil link -/

namespace Sys2Proof.Machine

@[simp] theorem Dev.get_onTnl (d : Dev) (a : Act) (g : Tenil → Tenil) : (d.onTnl a g).tnl.get a = g (d.tnl.get a) :=
  Per.get_set_same ..

/-! #### PA_STATUS stands while other state changes -/

@[simp] theorem Dev.paCauses_setReg (d : Dev) (a : Act) (x : Nat) (w : Word) :
    (d.setReg x w).paCauses a = d.paCauses a := rfl

@[simp] theorem Dev.paCauses_setF (d : Dev) (a : Act) (x : Fld) (v : Nat) : (d.setF x v).paCauses a = d.paCauses a := rfl

@[simp] theorem Dev.paCauses_onTnl (d : Dev) (a b : Act) (g : Tenil → Tenil) :
    (d.onTnl b g).paCauses a = d.paCauses a := rfl

section
variable {d : Dev} {a : Act}

/-! #### The fault line (R239, R240) -/

/-- The device once the line has fallen and its causes are latched and cleared, the assist lane off where they ask for it. -/
def Dev.clearFallenLine (d : Dev) (a : Act) (causes persist : Nat) : Dev :=
  let d1 := ((d.preampActs a causes).onTnl a fun t => { t with lineLow := true }).setF (Reg.TNL_STATUS_FAULT_IN.on a) 1
  let d2 := (d1.inhibit a 0x5).latchCauses a causes
  let d3 := if causes &&& 0x5F8 ≠ 0 then d2.laneOff a else d2
  ((d3.restoreHead a).paWrite a Reg.PA_STATUS causes).setPaF a Reg.PA_STATUS_CAUSE (persist &&& causes)

/-- Only cause 10 adds a retrain to the steps of R240. -/
theorem Dev.faultLine_locked {causes : Nat} (hlock : testBit causes 10 = false) (persist : Nat) (o : Training) :
    d.faultLine a causes persist o = d.clearFallenLine a causes persist :=
  if_neg (by rw [hlock]; exact Bool.false_ne_true)

theorem Dev.faultEnds_high (hhigh : (d.tnl.get a).lineLow = false) (hclear : d.paCauses a = 0) :
    d.faultEnds a = d.release a 0x5 := if_pos (by simp [hhigh, hclear])

/-! #### Control transactions (R232, R234, R237) -/

theorem Dev.startCtl_best {r : CtlReq} (hfree : (d.tnl.get a).flight = none) (hfits : d.ctlFits a = true)
    (hup : d.f (Reg.TNL_STATUS_CTL_UP.on a) = 1) (hbest : bestCtl (d.ctlReady a) (d.tnl.get a).queue = some r) :
    d.startCtl a = d.onTnl a fun t => { t with flight := some r, queue := t.queue.erase r } := by
  simp [Dev.startCtl, hfree, hfits, hup, hbest]

/-- A read of PA_ID to PA_HEAD answers OK with the register's value and changes nothing. -/
theorem Dev.paAnswer_readLow {r : CtlReq} (hread : r.read = true) (haddr : r.addr ≤ 4) :
    d.paAnswer a r = (0, (d.pa a r.addr).toNat % 65536, d) := by
  have hknown : paKnown r.addr = true := by simp [paKnown, haddr]
  have hmaker : ¬ 0x40 ≤ r.addr := by omega
  have hcount : r.addr ≠ Reg.PA_LINKCNT := fun h => absurd (h ▸ haddr) (by decide)
  simp [Dev.paAnswer, Dev.paRead, hknown, hread, hmaker, hcount]

theorem Dev.passResult_pass {r : CtlReq} (hpass : r.prio = 4) (data : Nat) :
    d.passResult a r 0 (data % 65536) = d.setReg (Reg.TNL_PA_RESULT + 0x10000 * a.idx)
      (BitVec.ofNat 32 (2 ^ 31 + data % 65536)) := by
  simp [Dev.passResult, hpass]

/-- A pass-through read that finds no cause asks for nothing more. -/
theorem Dev.ctlDone_passRead {r : CtlReq} (hpass : r.prio = 4) (hread : r.read = true) (haddr : r.addr ≤ 4)
    (hclear : d.paCauses a = 0) (o : Training) :
    d.ctlDone a r o = (d.setReg (Reg.TNL_PA_RESULT + 0x10000 * a.idx)
      (BitVec.ofNat 32 (2 ^ 31 + (d.pa a r.addr).toNat % 65536))).onTnl a fun t =>
        { t with flight := none, failRun := 0 } := by
  simp [Dev.ctlDone, Dev.paAnswer_readLow hread haddr, Dev.passResult_pass hpass, hpass, hclear]

theorem Dev.ctlResponse_good {r : CtlReq} (hflight : (d.tnl.get a).flight = some r) (o : Training) :
    d.ctlResponse a .good o = d.ctlDone a r o := by
  simp only [Dev.ctlResponse, hflight]

theorem Dev.ctlFailed_again {r : CtlReq} (hagain : r.tries < d.f (Reg.TNL_CTL_CFG_RETRY.on a)) (status : Nat)
    (o : Training) :
    d.ctlFailed a r status o = d.onTnl a fun t =>
      { t with flight := none, queue := { r with tries := r.tries + 1 } :: t.queue } := if_pos hagain

/-- RETRY stands in another register than the count of lost responses. -/
theorem Dev.retry_bumpLost :
    (d.bumpF (Reg.TNL_ERR_CNT_CTL_LOST.on a) 1).f (Reg.TNL_CTL_CFG_RETRY.on a) = d.f (Reg.TNL_CTL_CFG_RETRY.on a) :=
  Dev.f_bumpF_other _ _ _ _ (by cases a <;> decide)

/-! #### Retraining (R242) -/

theorem Dev.retrain_unfailed (hlink : d.f (Reg.TNL_STATUS_FAILED.on a) = 0) (o : Training) :
    let recent := (d.tnl.get a).retrains.filter fun t => decide (d.instantNs < t + 1000000000)
    let d1 := (d.bumpF (Reg.TNL_ERR_CNT_RETRAIN.on a) 1).onTnl a fun t =>
      { t with retrains := d.instantNs :: recent, failRun := 0 }
    d.retrain a o = if 2 ≤ recent.length then d1.failLink a else d1.train a o := if_neg (by simp [hlink])

end

section
variable {s : State} {a : Act}

theorem exec_faultLineRelease_clear (hlow : (s.dev.tnl.get a).lineLow = true) (hclear : s.dev.paCauses a = 0) :
    exec (.faultLineRelease a) s = s.next (((s.dev.onTnl a fun t => { t with lineLow := false }).setF
      (Reg.TNL_STATUS_FAULT_IN.on a) 0).faultEnds a) :=
  congrArg s.next (if_pos ⟨hlow, by rw [hclear, Nat.zero_and]⟩)

theorem exec_faultLineStuck_clear (hlow : (s.dev.tnl.get a).lineLow = true) (hclear : s.dev.paCauses a = 0) :
    exec (.faultLineStuck a) s = s.next (s.dev.failLink a) := congrArg s.next (if_pos ⟨hlow, hclear⟩)

theorem exec_responseLost_flight {r : CtlReq} (hflight : (s.dev.tnl.get a).flight = some r) (o : Training) :
    exec (.responseLost a o) s =
      s.next ((s.dev.bumpF (Reg.TNL_ERR_CNT_CTL_LOST.on a) 1).ctlFailed a r 3 o) := by
  change s.next _ = _
  rw [hflight]

variable (hact : s.dev.hasAct a = true)
include hact

theorem exec_faultLine_present {causes : Nat} (hbound : causes < 2048) (hline : causes &&& 0x5FB ≠ 0) (persist : Nat)
    (o : Training) : exec (.faultLine a causes persist o) s = s.next (s.dev.faultLine a causes persist o) := by
  have hmod : causes % 2048 = causes := Nat.mod_eq_of_lt hbound
  exact congrArg s.next ((if_pos ⟨hact, by rw [hmod]; exact hline⟩).trans (by rw [hmod]))

theorem exec_paAccGo_present (w : Word) :
    exec (.paAccGo a w) s = s.next (if s.dev.safe then s.dev.passAccess a w
      else s.dev.ignoredWrite (Reg.TNL_PA_ACC + 0x10000 * a.idx)) := congrArg s.next (if_neg (by simp [hact]))

theorem exec_tnlRetrainGo_safe (hsafe : s.dev.safe = true) (o : Training) :
    exec (.tnlRetrainGo a o) s = s.next (s.dev.retrain a o) :=
  congrArg s.next ((if_neg (by simp [hact])).trans (if_pos hsafe))

end

/-- Settles O19, by the steps of R240 at the fault line, by what a control transaction leaves when it starts, is answered or
is lost, and by the retrain rule of R242. -/
theorem tenilLink : Obligations.TenilLink := by
  unfold Obligations.TenilLink
  intro s a hact
  refine ⟨?falls, ?rises, exec_faultLineStuck_clear, ?start, ?response, ?lost, exec_paAccGo_present hact, ?retrain⟩
  case falls =>
    intro causes persist o hbound hline hlock d1 d2 d3
    rw [exec_faultLine_present hact hbound hline, Dev.faultLine_locked hlock]
    rfl
  case rises =>
    intro hlow hclear
    rw [exec_faultLineRelease_clear hlow hclear, Dev.faultEnds_high]
    · simp
    · simpa using hclear
  case start =>
    intro r hfree hfits hup hbest
    exact congrArg s.next (Dev.startCtl_best hfree hfits hup hbest)
  case response =>
    intro r o hflight hpass hread haddr hclear
    exact congrArg s.next ((Dev.ctlResponse_good hflight o).trans (Dev.ctlDone_passRead hpass hread haddr hclear o))
  case lost =>
    intro r o hflight hagain
    rw [exec_responseLost_flight hflight, Dev.ctlFailed_again (by rwa [Dev.retry_bumpLost])]
  case retrain =>
    intro o hsafe hlink recent d1
    exact (exec_tnlRetrainGo_safe hact hsafe o).trans (congrArg s.next (Dev.retrain_unfailed hlink o))

end Sys2Proof.Machine

/-! ### The servo engine: a wedge, its test functions and the capture memories -/

namespace Sys2Proof.Machine

section
variable {d : Dev} {a : Act} {o : ServoField}

/-! #### A servo field (R255, R266, R272) -/

/-- The work that follows the position of a wedge, in its order; `first` is the engine's first tick in automatic mode. -/
def Dev.wedgeWork (d : Dev) (a : Act) (o : ServoField) (first : Bool) : Dev :=
  (((((d.offTrack a).engine a o first).settleWedge a).onPosition a).capTriggers a).capSample a o

/-- The velocity measured at a servo field is below the unload velocity (R299). -/
def Dev.slowUnload (d : Dev) (a : Act) (o : ServoField) : Bool :=
  let slow := d.backEmf a o
  !(bfOfInt 0 (signed 16 (d.f (Reg.SRV_LOAD_VEL_UNLOAD.on a))).natAbs 21).le { slow with m := slow.m.natAbs }

/-- The slow ticks of an unload counted at a wedge's end; any other wedge starts the count again. -/
def Dev.countSlow (d : Dev) (a : Act) (low : Bool) : Dev :=
  d.onSrv a fun v => { v with slowTicks := if low && decide (d.loadState a = 3) then v.slowTicks + 1 else 0 }

/-- A waiting transfer to automatic gets one tick older. -/
def Dev.transferLater (d : Dev) (a : Act) : Dev :=
  d.onSrv a fun v => { v with transfer := v.transfer.map fun n => n + 1 }

/-- A wedge's delivery ends a waiting transfer: its position is valid and a transfer waits for one. -/
def Dev.transferDue (d : Dev) (a : Act) : Bool :=
  decide (d.f (Reg.SRV_STATUS_PES_VALID.on a) = 1) && (d.srv.get a).transfer.isSome

theorem Dev.fieldEnd_eq :
    let d1 := d.demod a o
    let first := d1.transferDue a
    d.fieldEnd a o = ((if first then d1.transferNow a else d1.transferLater a).wedgeWork a o first).countSlow a
      (d.slowUnload a o) := rfl

theorem Dev.transferDue_invalid (hinvalid : d.f (Reg.SRV_STATUS_PES_VALID.on a) = 0) : d.transferDue a = false := by
  simp [Dev.transferDue, hinvalid]

theorem Dev.transferDue_waiting (hvalid : d.f (Reg.SRV_STATUS_PES_VALID.on a) = 1)
    (hwaiting : (d.srv.get a).transfer.isSome = true) : d.transferDue a = true := by
  simp [Dev.transferDue, hvalid, hwaiting]

theorem Dev.fieldEnd_invalid (hinvalid : (d.demod a o).f (Reg.SRV_STATUS_PES_VALID.on a) = 0) :
    d.fieldEnd a o = ((((d.demod a o).transferLater a).wedgeWork a o false).countSlow a (d.slowUnload a o)) := by
  rw [Dev.fieldEnd_eq, Dev.transferDue_invalid hinvalid, if_neg Bool.false_ne_true]

theorem Dev.fieldEnd_transfer (hvalid : (d.demod a o).f (Reg.SRV_STATUS_PES_VALID.on a) = 1)
    (hwaiting : ((d.demod a o).srv.get a).transfer.isSome = true) :
    d.fieldEnd a o = ((((d.demod a o).transferNow a).wedgeWork a o true).countSlow a (d.slowUnload a o)) := by
  rw [Dev.fieldEnd_eq, Dev.transferDue_waiting hvalid hwaiting, if_pos rfl]

/-! #### The capture memories (R278) -/

theorem Dev.capAbort_running (hon : (d.srv.get a).cap.on = true) :
    d.capAbort a = (d.onSrv a fun v => { v with cap := { v.cap with on := false } }).setF
      (Reg.SRV_CAP_STATUS_DONE.on a) 1 := if_pos hon

/-- A sample's word in the memory that CAP_RD.MEM names. -/
def Dev.capWord (d : Dev) (a : Act) (p : Word × Word × Word) : Word :=
  match d.f (Reg.SRV_CAP_RD_MEM.on a) with | 0 => p.1 | 1 => p.2.1 | _ => p.2.2

theorem Dev.capValue_held {p : Word × Word × Word}
    (hheld : (d.srv.get a).cap.samples.reverse[d.f (Reg.SRV_CAP_RD_INDEX.on a)]? = some p) :
    d.capValue a false = d.capWord a p := by
  simp only [Dev.capValue, hheld, Bool.false_eq_true, if_false]
  rfl

end

section
variable {s : State} {a : Act}

/-- A transfer fails once it has waited PES_MISS_MAX ticks, unless a load waits for its position (R272). -/
theorem exec_transferTimeout_late {n : Nat} (hwaiting : (s.dev.srv.get a).transfer = some n)
    (hloading : (s.dev.srv.get a).loading = none) (hlate : s.dev.f (Reg.SRV_DEMOD_CFG_PES_MISS_MAX.on a) ≤ n) :
    exec (.transferTimeout a) s = s.next (((s.dev.onSrv a fun v => { v with transfer := none }).setF
      (Reg.SRV_STATUS_XFER_FAIL.on a) 1).setF (Reg.SRV_MODE_MODE.on a) (s.dev.srvMode a)) := by
  change s.next _ = _
  rw [hwaiting]
  exact congrArg s.next (if_neg (by simp [hloading, hlate]))

variable (hact : s.dev.hasAct a = true)
include hact

theorem exec_servoFieldEnd_present (o : ServoField) : exec (.servoFieldEnd a o) s = s.next (s.dev.fieldEnd a o) :=
  congrArg s.next (if_pos hact)

theorem exec_injectionStart_ready (henabled : s.dev.f (Reg.SRV_INJ_CTL_EN.on a) = 1)
    (hidle : (s.dev.srv.get a).inj = none) (hmode : s.dev.srvMode a ≠ 0)
    (hwriting : (s.dev.blk.get a).writing = false) :
    exec (.injectionStart a) s = s.next ((s.dev.onSrv a fun v => { v with
      inj := some { phase := 0, inc := s.dev.f (Reg.SRV_INJ_F0_INC.on a), lfsr := 2 ^ 20 - 1, held := 0 } }).capTrigger a 1) :=
  congrArg s.next (if_pos ⟨hact, henabled, hidle, hmode, by rw [hwriting]; rfl⟩)

theorem exec_capCtlArm_present (mode trig pre : Nat) :
    exec (.capCtlArm a mode trig pre) s = s.next (if s.dev.safe then s.dev.capArm a mode trig pre
      else s.dev.ignoredWrite (Reg.SRV_CAP_CTL + 0x10000 * a.idx)) := congrArg s.next (if_neg (by simp [hact]))

theorem exec_capCtlAbort_safe (hsafe : s.dev.safe = true) : exec (.capCtlAbort a) s = s.next (s.dev.capAbort a) :=
  congrArg s.next ((if_neg (by simp [hact])).trans (if_pos hsafe))

theorem exec_capDataRead_present (who : Requester) (poisoned : Bool) :
    exec (.capDataRead a who poisoned) s = s.next (s.dev.capRead a who poisoned) := congrArg s.next (if_pos hact)

end

/-- Settles O14, by the order of a wedge's work in `Dev.fieldEnd_eq`, where the delivery alone decides whether a waiting
transfer ends, and by what each test function and each access to the capture memories leaves behind. -/
theorem servoWedgeAndCapture : Obligations.ServoWedgeAndCapture := by
  unfold Obligations.ServoWedgeAndCapture
  intro s a hact
  refine ⟨?invalid, ?transfer, exec_injectionStart_ready hact, fun _ => exec_transferTimeout_late,
    exec_capCtlArm_present hact, ?abort, ?read⟩
  case invalid =>
    intro o d1 d2 d3 slow low hinvalid
    exact (exec_servoFieldEnd_present hact o).trans (congrArg s.next (Dev.fieldEnd_invalid hinvalid))
  case transfer =>
    intro o d1 d3 slow low hvalid hwaiting
    exact (exec_servoFieldEnd_present hact o).trans (congrArg s.next (Dev.fieldEnd_transfer hvalid hwaiting))
  case abort =>
    intro hsafe hon
    rw [exec_capCtlAbort_safe hact hsafe, Dev.capAbort_running hon]
  case read =>
    intro who p hheld
    rw [exec_capDataRead_present hact, Dev.capRead, Dev.capValue_held hheld]
    rfl

end Sys2Proof.Machine

/-! ### Servo motion: seeks, loading and unloading, shock and the retract -/

namespace Sys2Proof.Machine

section
variable {d : Dev} {a : Act}

@[simp] theorem Dev.get_onSrv (d : Dev) (a : Act) (g : Servo → Servo) : (d.onSrv a g).srv.get a = g (d.srv.get a) :=
  Per.get_set_same _ _ _

@[simp] theorem Dev.f_onSrv (d : Dev) (a : Act) (g : Servo → Servo) (x : Fld) : (d.onSrv a g).f x = d.f x := rfl

/-! #### Mastership and settling leave the other parts of an engine (R18, R282) -/

@[simp] theorem Dev.makeMaster_srv (d : Dev) (a : Act) : (d.makeMaster a).srv = d.srv := by
  unfold Dev.makeMaster
  split <;> rfl

@[simp] theorem Dev.masterCheck_srv (d : Dev) : d.masterCheck.srv = d.srv := by
  unfold Dev.masterCheck
  split
  · rfl
  · exact Dev.makeMaster_srv _ _

theorem Dev.enterSettle_waitReq (d : Dev) (a : Act) :
    ((d.enterSettle a).srv.get a).waitReq = (d.srv.get a).waitReq := by
  simp [Dev.enterSettle]

/-! #### A request and its decision (R282, R283, R288) -/

/-- The request that SERVO_REQ makes of the bound track. -/
def Dev.boundReq (d : Dev) (a : Act) (darg h : Nat) (x : Binding) : ServoReq :=
  { darg := darg, head := h, band := x.band, track := x.track, write := (d.blk.get a).writing }

/-- A request in force, with the engine's attempts counted anew. -/
def Dev.takeUp (d : Dev) (a : Act) (r : ServoReq) : Dev :=
  d.onSrv a fun v => { v with req := some r, late := 0, gaveUp := false, settled := false, waitReq := none }

section
variable {darg h : Nat} {x : Binding} (hbind : (d.blk.get a).plank.bind = some x)
include hbind

theorem Dev.servoReq_bound :
    let r := d.boundReq a darg h x
    d.servoReq a darg h = if d.keepsSettled a r then (d.aim a r).onSrv a fun v => { v with req := some r }
      else if (d.srv.get a).traj.isSome ∨ (d.srv.get a).due.isSome then
        d.onSrv a fun v => { v with waitReq := some r, settled := false }
      else d.startReq a r := by
  simp only [Dev.servoReq, hbind]
  rfl

theorem Dev.servoReq_keeps (hkeeps : d.keepsSettled a (d.boundReq a darg h x) = true) :
    d.servoReq a darg h =
      (d.aim a (d.boundReq a darg h x)).onSrv a fun v => { v with req := some (d.boundReq a darg h x) } :=
  (Dev.servoReq_bound hbind).trans (if_pos hkeeps)

variable (hmoves : d.keepsSettled a (d.boundReq a darg h x) = false)
include hmoves

theorem Dev.servoReq_waits (hbusy : (d.srv.get a).traj.isSome ∨ (d.srv.get a).due.isSome) :
    d.servoReq a darg h = d.onSrv a fun v => { v with waitReq := some (d.boundReq a darg h x), settled := false } :=
  (Dev.servoReq_bound hbind).trans ((if_neg (by simp [hmoves])).trans (if_pos hbusy))

theorem Dev.servoReq_starts (htraj : (d.srv.get a).traj = none) (hdue : (d.srv.get a).due = none) :
    d.servoReq a darg h = d.startReq a (d.boundReq a darg h x) :=
  (Dev.servoReq_bound hbind).trans ((if_neg (by simp [hmoves])).trans (if_neg (by simp [htraj, hdue])))

end

/-- With the head kept and a valid position the request is aimed and decided at once. -/
theorem Dev.startReq_positioned {r : ServoReq} {pos : Int} (hhead : d.head a = r.head)
    (hvalid : d.f (Reg.SRV_STATUS_PES_VALID.on a) = 1) (hpos : (d.srv.get a).pos = some pos) :
    d.startReq a r = ((d.takeUp a r).aim a r).decideSeek a := by
  simp [Dev.startReq, Dev.takeUp, hhead, hvalid, hpos]

theorem Dev.decideSeek_positioned {pos : Int} (hpos : (d.srv.get a).pos = some pos) :
    let v1 := d.onSrv a fun v => { v with deciding := false }
    d.decideSeek a =
      if ((d.srv.get a).target - pos).natAbs ≤ 65536 * d.f (Reg.SRV_SEEK_CFG_SHORT.on a) then
        (v1.onSrv a fun v => { v with ref := v.target }).enterSettle a
      else ((v1.setF (Reg.SRV_STATUS_MOTION.on a) 1).onSrv a fun v =>
        { v with due := some false, settled := false }).masterCheck := by
  simp only [Dev.decideSeek, hpos]

/-! #### A trajectory and its settling (R284, R287, R288, R303) -/

theorem Dev.trajStart_due (hdue : (d.srv.get a).due = some true) (hstagger : (d.srv.get a).stagger = none) :
    let n := d.f (Reg.SRV_SEEK_CFG_STAGGER.on .a1)
    d.trajStart a =
      if a = .a1 ∧ d.sharedStart ∧ n ≠ 0 then d.onSrv a fun v => { v with stagger := some n } else d.runTraj a :=
  if_neg (by simp [hdue, hstagger])

theorem Dev.trajEnd_arrived {t : Traj} (htraj : (d.srv.get a).traj = some t) (hlast : t.n ≤ t.k)
    (hwait : (d.srv.get a).waitReq = none) :
    d.trajEnd a = (d.onSrv a fun v => { v with traj := none, ref := t.goal }).enterSettle a := by
  have hnone : (((d.onSrv a fun v => { v with traj := none, ref := t.goal }).enterSettle a).srv.get a).waitReq = none := by
    rw [Dev.enterSettle_waitReq, Dev.get_onSrv, hwait]
  simp only [Dev.trajEnd, htraj, if_neg (Nat.not_lt.mpr hlast), hnone]

theorem Dev.settleLate_exceeded (hmotion : d.srvMotion a = 2) (hdecided : (d.srv.get a).deciding = false)
    (htrying : (d.srv.get a).gaveUp = false) (hlate : d.f (Reg.SRV_SETTLE_MAX.on a) ≤ (d.srv.get a).settleTicks) :
    d.settleLate a =
      if (d.srv.get a).late = 0 then d.onSrv a fun v => { v with late := 1, count := 0, settleTicks := 0 }
      else (d.onSrv a fun v => { v with late := v.late + 1, gaveUp := true, settled := false }).reportFault
        (.servoEngine a) 7 :=
  if_neg (by simp [hmotion, hdecided, htrying, hlate])

end

/-- The two requests for the bound track, each with its DARG. -/
theorem exec_servoReq_present {s : State} {a : Act} (hact : s.dev.hasAct a = true) {h : Nat} (hh : h < 16)
    {p : (Act → Nat → Instr) × Nat} (hp : p ∈ [(Instr.servoReqSeek, 0), (Instr.servoReqSelect, 1)]) :
    exec (p.1 a h) s = s.next (s.dev.servoReq a p.2 h) := by
  have hmod : h % 16 = h := Nat.mod_eq_of_lt hh
  have hrun (darg : Nat) : (if s.dev.hasAct a then s.dev.servoReq a darg (h % 16) else s.dev) = s.dev.servoReq a darg h := by
    rw [if_pos hact, hmod]
  rcases List.mem_pair.mp hp with rfl | rfl
  · exact congrArg s.next (hrun 0)
  · exact congrArg s.next (hrun 1)

/-- Settles O13: a request by the cases of `Dev.servoReq_bound`, its decision by the distance, and a trajectory by what its
start, its end and a late settle do. -/
theorem servoSeeks : Obligations.ServoSeeks := by
  unfold Obligations.ServoSeeks
  intro s a hact
  refine ⟨?waits, ?keeps, ?decides, fun hdue hstagger => congrArg s.next (Dev.trajStart_due hdue hstagger),
    fun hexpired => congrArg s.next (if_pos hexpired),
    fun _ htraj hlast hwait => congrArg s.next (Dev.trajEnd_arrived htraj hlast hwait),
    fun hmotion hdecided htrying hlate => congrArg s.next (Dev.settleLate_exceeded hmotion hdecided htrying hlate),
    fun hgood => congrArg s.next (if_pos hgood)⟩
  case waits =>
    intro p hp h x hh hbind r hmoves hbusy
    exact (exec_servoReq_present hact hh hp).trans (congrArg s.next (Dev.servoReq_waits hbind hmoves hbusy))
  case keeps =>
    intro p hp h x hh hbind r hkeeps
    exact (exec_servoReq_present hact hh hp).trans (congrArg s.next (Dev.servoReq_keeps hbind hkeeps))
  case decides =>
    intro p hp h x pos hh hbind r d1 d2 hmoves htraj hdue hhead hvalid hpos haimed
    rw [exec_servoReq_present hact hh hp, Dev.servoReq_starts hbind hmoves htraj hdue,
      Dev.startReq_positioned hhead hvalid hpos]
    exact congrArg s.next (Dev.decideSeek_positioned haimed)

/-! #### Loading, unloading and a lost position (R293, R297 to R299) -/

section
variable {d : Dev} {a : Act}

theorem Dev.endInjection_fmg (d : Dev) (a : Act) : (d.endInjection a).fmg = d.fmg := by
  unfold Dev.endInjection
  split <;> rfl

theorem Dev.modeOff_fmg (d : Dev) (a : Act) : (d.modeOff a).fmg = d.fmg :=
  Dev.endInjection_fmg _ _

theorem Dev.setLoad_fmg (d : Dev) (a : Act) (st : Nat) : (d.setLoad a st).fmg = d.fmg := by
  simp only [Dev.setLoad, Dev.setF_fmg]

/-- A load request asked for: not settled, and no load tried yet. -/
def Dev.askLoad (d : Dev) (a : Act) : Dev := d.onSrv a fun v => { v with settled := false, loadTries := 0 }

theorem Dev.servoLoad_allowed (hmay : d.mayLoad a = true) (h : Nat) :
    d.servoLoad a h = ((d.askLoad a).servoHead a h).startLoad a := if_pos hmay

theorem Dev.servoLoad_forbidden (hmay : d.mayLoad a = false) (h : Nat) : d.servoLoad a h = (d.askLoad a).loadEvent a :=
  if_neg (ne_true_of_eq_false hmay)

theorem Dev.servoUnload_offRamp (hloaded : d.loadState a ≠ 0) (hfailed : d.loadState a ≠ 4) :
    d.servoUnload a = (d.unload a).onSrv a fun v => { v with unloadReq := true } :=
  if_neg (not_or.mpr ⟨hloaded, hfailed⟩)

theorem Dev.servoUnload_onRamp (hramp : d.loadState a = 0 ∨ d.loadState a = 4) :
    d.servoUnload a = d.onSrv a fun v => { v with settled := true } := if_pos hramp

theorem Dev.loadTimeout_expired {n : Nat} (hloading : (d.srv.get a).loading = some n)
    (hlate : d.f (Reg.SRV_LOAD_TIME_LOAD_MAX.on a) ≤ n) :
    let tries := (d.srv.get a).loadTries + 1
    let d1 := (((d.bumpF (Reg.SRV_LOAD_STATUS_FAILS.on a) 1).unload a).onSrv a fun v =>
      { v with loadTries := tries }).loadEvent a
    d.loadTimeout a = if 3 ≤ tries then (d1.reportFault (.servoEngine a) 7).emergencyPark a else d1 := by
  simp only [Dev.loadTimeout, hloading, if_neg (Nat.not_lt.mpr hlate)]

/-- The heads latched on the ramp (R299 step 3): mode off, STATE 0, and settled for a request that asked for it. -/
def Dev.latched (d : Dev) (a : Act) : Dev :=
  ((d.modeOff a).setLoad a 0).onSrv a fun v =>
    { v with settled := (d.srv.get a).unloadReq, unloadReq := false, slowTicks := 0 }

theorem Dev.latched_fmg (d : Dev) (a : Act) : (d.latched a).fmg = d.fmg := by
  rw [Dev.latched, Dev.onSrv_fmg, Dev.setLoad_fmg, Dev.modeOff_fmg]

theorem Dev.latchEnd_expired {n : Nat} (hlatch : (d.srv.get a).latch = some n)
    (hlate : d.f (Reg.SRV_LOAD_TIME_LATCH.on a) ≤ n) :
    let tries := (d.srv.get a).loadTries
    d.latchEnd a = if FUnit.servoEngine a ∈ (d.latched a).fmg.recovering then (d.latched a).restartEngine a
      else if 0 < tries ∧ tries < 3 ∧ (d.latched a).mayLoad a then (d.latched a).startLoad a else d.latched a := by
  unfold Dev.latchEnd
  rw [hlatch]
  exact if_neg (Nat.not_lt.mpr hlate)

/-- A latch that no failed load and no recovery waits for leaves the heads on the ramp. -/
theorem Dev.latchEnd_unloaded {n : Nat} (hlatch : (d.srv.get a).latch = some n)
    (hlate : d.f (Reg.SRV_LOAD_TIME_LATCH.on a) ≤ n) (htries : (d.srv.get a).loadTries = 0)
    (hsound : FUnit.servoEngine a ∉ d.fmg.recovering) : d.latchEnd a = d.latched a := by
  have hstill : FUnit.servoEngine a ∉ (d.latched a).fmg.recovering := by rwa [Dev.latched_fmg]
  have hfirst : ¬ (0 < (d.srv.get a).loadTries ∧ (d.srv.get a).loadTries < 3 ∧ (d.latched a).mayLoad a = true) := by
    simp [htries]
  rw [Dev.latchEnd_expired hlatch hlate, if_neg hstill, if_neg hfirst]

end

section
variable {s : State} {a : Act}

theorem exec_servoReqLoad_present (hact : s.dev.hasAct a = true) {h : Nat} (hh : h < 16) :
    exec (.servoReqLoad a h) s = s.next (s.dev.servoLoad a h) :=
  congrArg s.next ((if_pos hact).trans (by rw [Nat.mod_eq_of_lt hh]))

theorem exec_servoReqUnload_present (hact : s.dev.hasAct a = true) :
    exec (.servoReqUnload a) s = s.next (s.dev.servoUnload a) := congrArg s.next (if_pos hact)

theorem exec_reacquisitionTimeout_expired {n : Nat} (hreacq : (s.dev.srv.get a).reacq = some n)
    (hlate : s.dev.f (Reg.SRV_SETTLE_MAX.on a) ≤ n) :
    exec (.reacquisitionTimeout a) s = s.next (((s.dev.emergencyPark a).unload a).loadEvent a) := by
  change s.next _ = _
  rw [hreacq]
  exact congrArg s.next (if_neg (Nat.not_lt.mpr hlate))

end

/-- Settles O15: the requests by what forbids a load and where an unload finds the actuator, the timeouts by the count that
each of them waits for. -/
theorem headLoadAndUnload : Obligations.HeadLoadAndUnload := by
  unfold Obligations.HeadLoadAndUnload
  intro s a hact
  refine ⟨?load, ?forbidden, ?unload, ?onRamp,
    fun _ hloading hlate => congrArg s.next (Dev.loadTimeout_expired hloading hlate),
    fun hunloading hnone hslow => congrArg s.next (if_pos ⟨hunloading, hnone, hslow⟩),
    fun _ hlatch hlate htries hsound => congrArg s.next (Dev.latchEnd_unloaded hlatch hlate htries hsound),
    fun hmode hnone hmissed => congrArg s.next (if_pos ⟨hmode, hnone, hmissed⟩),
    fun _ hreacq hlate => exec_reacquisitionTimeout_expired hreacq hlate⟩
  case load =>
    intro h hh d0 d1 d2 hmay
    exact (exec_servoReqLoad_present hact hh).trans (congrArg s.next (Dev.servoLoad_allowed hmay h))
  case forbidden =>
    intro h hh hmay
    exact (exec_servoReqLoad_present hact hh).trans (congrArg s.next (Dev.servoLoad_forbidden hmay h))
  case unload =>
    intro hloaded hfailed d1
    exact (exec_servoReqUnload_present hact).trans (congrArg s.next (Dev.servoUnload_offRamp hloaded hfailed))
  case onRamp =>
    intro hramp
    exact (exec_servoReqUnload_present hact).trans (congrArg s.next (Dev.servoUnload_onRamp hramp))

/-! #### Shock and the retract (R294 to R296, R300 to R302) -/

section
variable {d : Dev}

theorem Dev.retract_idle (hidle : d.pd.retract = none) (cause : Nat) :
    let d1 := { d with pd := { d.pd with retract := some 0, notice := true, moving := ⟨d.offRamp .a0, d.offRamp .a1⟩ } }
    d.retract cause = ((((d1.setF Reg.PWR_RET_STATUS_VALID 1).setF Reg.PWR_RET_STATUS_ACTIVE 1).setF
      Reg.PWR_RET_STATUS_CAUSE cause).setF Reg.PWR_RET_STATUS_DONE 0).bumpF Reg.PWR_RET_STATUS_COUNT 1 :=
  if_neg (by simp [hidle])

theorem Dev.retract_running (hruns : d.pd.retract.isSome = true) (cause : Nat) : d.retract cause = d := if_pos hruns

end

section
variable {s : State} {a : Act}

theorem exec_pwrRetGo : exec .pwrRetGo s = s.next (s.dev.retract 2) := rfl

theorem exec_commandFrameTimeout_loaded (hloaded : s.dev.loadState a = 2) :
    exec (.commandFrameTimeout a) s = s.next (s.dev.retract 4) := congrArg s.next (if_pos hloaded)

/-- Missing command frames change nothing while a retract runs, whether or not the heads are loaded (R301). -/
theorem exec_commandFrameTimeout_running (hruns : s.dev.pd.retract.isSome = true) :
    exec (.commandFrameTimeout a) s = s.next s.dev := by
  by_cases hloaded : s.dev.loadState a = 2
  · rw [exec_commandFrameTimeout_loaded hloaded, Dev.retract_running hruns]
  · exact congrArg s.next (if_neg hloaded)

end

/-- Settles O16: the shock commands by their conditions, and the retract by whether one runs and in which phase. -/
theorem shockAndRetract : Obligations.ShockAndRetract := by
  unfold Obligations.ShockAndRetract
  intro s a hact
  refine ⟨fun b => congrArg s.next (if_pos hact),
    fun hquiet hinhibited => congrArg s.next (if_pos ⟨hquiet, hinhibited⟩),
    fun hpark hlong hover => congrArg s.next (if_pos ⟨hpark, hlong, hover⟩), ?starts, ?ignored,
    fun hvelocity => congrArg s.next (if_pos hvelocity), fun hlatch => congrArg s.next (if_pos hlatch)⟩
  case starts =>
    intro p hp hloaded hidle
    rcases List.mem_pair.mp hp with rfl | rfl
    · exact congrArg s.next (Dev.retract_idle hidle 2)
    · exact (exec_commandFrameTimeout_loaded hloaded).trans (congrArg s.next (Dev.retract_idle hidle 4))
  case ignored =>
    intro i hi hruns
    rcases List.mem_pair.mp hi with rfl | rfl
    · exact congrArg s.next (Dev.retract_running hruns 2)
    · exact exec_commandFrameTimeout_running hruns

end Sys2Proof.Machine

/-! ### Every command answers a next state -/

namespace Sys2Proof.Machine

/-- Each command of the table has its meaning as an effect on the device alone; the queue is not its concern. -/
theorem exec_next (c : Instr) (s : State) : ∃ d : Dev, exec c s = s.next d := by
  cases c <;> exact ⟨_, rfl⟩

/-- Settles O1: the steps by the queue's two shapes, the commands by `exec_next`. -/
theorem stepRunsFrontCommand : Obligations.StepRunsFrontCommand :=
  ⟨fun _ _ _ => rfl, fun _ => rfl, exec_next⟩

end Sys2Proof.Machine

/-! ### The subsystem semaphore -/

namespace Sys2Proof.Machine

section
variable {d : Dev} {id : CmdId} {holder : Nat}

theorem hostHolder_ne_zero (id : CmdId) : hostHolder id ≠ 0 := (Nat.add_comm 1 _).trans_ne (Nat.succ_ne_zero _)

/-- The requests that wait stay where they are when the oldest of them cannot be granted, and when there is none. -/
theorem Dev.semSettle_eq_self (h : ∀ r ∈ d.sem.queue.head?, d.semMayGrant r = false) : d.semSettle = d := by
  unfold Dev.semSettle
  cases hq : d.sem.queue with
  | nil => rfl
  | cons r rest =>
    have hwaits : d.semMayGrant r = false := h r (by simp [hq])
    simp [Dev.semGrants, hq, hwaits]

theorem Dev.semSettle_nil (h : d.sem.queue = []) : d.semSettle = d := Dev.semSettle_eq_self (by simp [h])

theorem Dev.semMayGrant_other {r : SemReq} (hheld : d.semHolder ≠ 0) (hother : r.holder ≠ d.semHolder) :
    d.semMayGrant r = false := by simp [Dev.semMayGrant, hheld, Ne.symm hother]

/-- A free semaphore goes to the oldest request that waits, then to those behind it that can be granted (R444). -/
theorem Dev.semSettle_free {r : SemReq} {rest : List SemReq} (hfree : d.semHolder = 0) (hq : d.sem.queue = r :: rest) :
    d.semSettle = (((d.setQueue rest).semGrant r.holder).runSem r.holder r.op).semGrants rest.length := by
  have hgrants : d.semMayGrant r = true := by simp [Dev.semMayGrant, hfree]
  simp [Dev.semSettle, Dev.semGrants, hq, hgrants]

/-- A completion leaves the semaphore's registers and its queue, so what can be granted is the same. -/
theorem Dev.semMayGrant_complete (d : Dev) (id : CmdId) (st : Nvme) (dw0 : Nat) (r : SemReq) :
    (d.complete id st dw0).semMayGrant r = d.semMayGrant r := rfl

/-! #### Releases (R444) -/

theorem Dev.semRelease_holder (hheld : d.semHolder = holder) (hsome : holder ≠ 0) (hidle : d.sem.ops = 0) :
    d.semRelease holder = (0, d.semClear) := by
  simp [Dev.semRelease, hheld, hsome, hidle]

theorem Dev.semRelease_running (hheld : d.semHolder = holder) (hsome : holder ≠ 0) (hruns : d.sem.ops ≠ 0) :
    d.semRelease holder = (0, d.setF Reg.CPX_SEM_EXPLICIT 0) := by
  simp [Dev.semRelease, hheld, hsome, hruns]

theorem Dev.semRelease_other (hheld : d.semHolder ≠ 0) (hother : d.semHolder ≠ holder) :
    d.semRelease holder = (5, d) := by
  simp [Dev.semRelease, hheld, hother]

theorem Dev.semRelease_free (hfree : d.semHolder = 0) : d.semRelease holder = (0, d) := by
  simp [Dev.semRelease, hfree]

/-- An admitted release is completed with what `Dev.semRelease` answers on the woken device. -/
theorem exec_semaphoreRelease_admitted {s : State} {id : CmdId} (hadmit : s.dev.admits id = true) {n : Nat} {d1 : Dev}
    (hrelease : (s.dev.wakeHost id.port).semRelease (hostHolder id) = (n, d1)) :
    exec (.semaphoreRelease id) s = s.next (d1.complete id .success n).semSettle := by
  refine congrArg s.next ((Dev.adminDo_admitted hadmit _).trans ?_)
  simp only [hrelease]

section
variable {s : State} {id : CmdId} (hadmit : s.dev.admits id = true)
include hadmit

theorem exec_semaphoreRelease_holder (hheld : s.dev.semHolder = 1 + id.port.idx) (hidle : s.dev.sem.ops = 0) :
    exec (.semaphoreRelease id) s =
      s.next ((s.dev.wakeHost id.port).semClear.complete id .success 0).semSettle :=
  exec_semaphoreRelease_admitted hadmit
    (Dev.semRelease_holder ((s.dev.semHolder_wakeHost _).trans hheld) (hostHolder_ne_zero id) hidle)

theorem exec_semaphoreRelease_other (hheld : s.dev.semHolder ≠ 0) (hother : s.dev.semHolder ≠ 1 + id.port.idx) :
    exec (.semaphoreRelease id) s = s.next ((s.dev.wakeHost id.port).complete id .success 5).semSettle :=
  exec_semaphoreRelease_admitted hadmit
    (Dev.semRelease_other ((s.dev.semHolder_wakeHost _).trans_ne hheld) ((s.dev.semHolder_wakeHost _).trans_ne hother))

end

/-! #### The end of a hold -/

/-- The freed semaphore has no holder: its register's other fields share no bit with HOLDER. -/
theorem Dev.semHolder_semClear (hregs : swf 0 d.regs = true) : d.semClear.semHolder = 0 := by
  have h0 := d.setF_wf hregs Reg.CPX_SEM_HOLDER 0
  have h1 := Dev.setF_wf _ h0 Reg.CPX_SEM_EXPLICIT 0
  calc d.semClear.semHolder
      = (((d.setF Reg.CPX_SEM_HOLDER 0).setF Reg.CPX_SEM_EXPLICIT 0).setF Reg.CPX_SEM_TIMER 0).f Reg.CPX_SEM_HOLDER := rfl
    _ = ((d.setF Reg.CPX_SEM_HOLDER 0).setF Reg.CPX_SEM_EXPLICIT 0).f Reg.CPX_SEM_HOLDER :=
        Dev.f_setF_apart _ h1 _ _ _ rfl (by decide) (by decide)
    _ = (d.setF Reg.CPX_SEM_HOLDER 0).f Reg.CPX_SEM_HOLDER :=
        Dev.f_setF_apart _ h0 _ _ _ rfl (by decide) (by decide)
    _ = 0 := Dev.f_setF_same d hregs _ _ (by decide) (by decide)

/-- The last operation under a hold that is no claim frees the semaphore, unless the holder's own request is next. -/
theorem Dev.semEnd_last (hlast : d.sem.ops = 1) (hlive : d.sem.expired = false) (himplicit : d.f Reg.CPX_SEM_EXPLICIT = 0)
    (hnext : d.semOwnNext = false) :
    d.semEnd = { d with sem := { d.sem with ops := d.sem.ops - 1 } }.semClear := by
  have hkept : ¬ (d.f Reg.CPX_SEM_EXPLICIT = 1 ∨ d.semOwnNext = true) := by simp [himplicit, hnext]
  exact (if_neg (by simp [hlast])).trans ((if_neg (by simp [hlive])).trans (if_neg hkept))

end

/-- Settles O9: a release by what `Dev.semRelease` answers, what follows by which waiting request can be granted. -/
theorem semaphoreRelease : Obligations.SemaphoreRelease := by
  unfold Obligations.SemaphoreRelease
  refine ⟨fun s id hadmit => ⟨exec_semaphoreRelease_holder hadmit, fun hheld hruns => ?running, ?other, ?free⟩,
    fun d hregs => ⟨Dev.semHolder_semClear hregs, fun r rest => Dev.semSettle_free, fun hlast hlive himplicit hnext => ?last⟩⟩
  case running =>
    exact exec_semaphoreRelease_admitted hadmit
      (Dev.semRelease_running ((s.dev.semHolder_wakeHost _).trans hheld) (hostHolder_ne_zero id) hruns)
  case other =>
    intro hheld hother hqueue
    have hwoken : (s.dev.wakeHost id.port).semHolder = s.dev.semHolder := s.dev.semHolder_wakeHost _
    have hwaits : ∀ r ∈ s.dev.sem.queue.head?, ((s.dev.wakeHost id.port).complete id .success 5).semMayGrant r = false := by
      intro r hr
      rw [Dev.semMayGrant_complete]
      exact Dev.semMayGrant_other (hwoken.trans_ne hheld) ((hqueue r (List.mem_of_head? hr)).trans_eq hwoken.symm)
    exact (exec_semaphoreRelease_other hadmit hheld hother).trans (congrArg s.next (Dev.semSettle_eq_self hwaits))
  case free =>
    intro hfree hqueue
    exact (exec_semaphoreRelease_admitted hadmit (Dev.semRelease_free ((s.dev.semHolder_wakeHost _).trans hfree))).trans
      (congrArg s.next (Dev.semSettle_nil hqueue))
  case last =>
    rw [Dev.semEnd_last hlast hlive himplicit hnext]
    exact Dev.semHolder_semClear hregs

/-! #### Claims, the abandonment timer and the clear (R442 to R445, R455) -/

section
variable {d : Dev} {holder : Nat} {op : SemOp}

/-- A request while another holds the semaphore waits at the end of the queue (R442). -/
theorem Dev.semRequest_waits (hheld : d.semHolder ≠ 0) (hother : d.semHolder ≠ holder) (hroom : d.sem.queue.length < 64) :
    d.semRequest holder op = d.setQueue (d.sem.queue ++ [{ holder := holder, op := op }]) :=
  (if_neg (by simp [Dev.semOpen, hheld, hother])).trans (if_neg (Nat.not_le.mpr hroom))

/-- Behind 64 others it is refused (R443). -/
theorem Dev.semRequest_full (hheld : d.semHolder ≠ 0) (hother : d.semHolder ≠ holder) (hfull : 64 ≤ d.sem.queue.length) :
    d.semRequest holder op = d.semRefused.complete op.id .commandSequenceError 0 :=
  (if_neg (by simp [Dev.semOpen, hheld, hother])).trans (if_pos hfull)

theorem Dev.semOpen_free (hfree : d.semHolder = 0) (hqueue : d.sem.queue = []) : d.semOpen holder = true := by
  simp [Dev.semOpen, hfree, hqueue]

theorem Dev.sem_semGrant (d : Dev) (holder : Nat) : (d.semGrant holder).sem = d.sem := by
  unfold Dev.semGrant; split <;> rfl

end

section
variable {s : State} {id : CmdId} (hadmit : s.dev.admits id = true)
include hadmit

theorem exec_semaphoreClaim_free (hfree : s.dev.semHolder = 0) (hqueue : s.dev.sem.queue = []) :
    let d1 := ((s.dev.wakeHost id.port).semGrant (1 + id.port.idx)).semClaim (1 + id.port.idx)
    exec (.semaphoreClaim id) s = s.next (d1.complete id .success (d1.f Reg.CPX_SEM_GRANTS * 65536)) := by
  intro d1
  have hnone : d1.sem.queue = [] := by
    simp only [d1, Dev.semClaim, Dev.setF_sem, Dev.sem_semGrant]
    exact hqueue
  exact congrArg s.next ((Dev.serialized_open (op := .claim id) hadmit (Dev.semOpen_free hfree hqueue) rfl).trans
    (Dev.semSettle_nil hnone))

end

/-- Settles O42: claims by how the semaphore is held, the timer and the clear by their conditions. -/
theorem semaphoreCommands : Obligations.SemaphoreCommands := by
  unfold Obligations.SemaphoreCommands
  intro s
  refine ⟨fun id hadmit => ⟨exec_semaphoreClaim_free hadmit, ?waits, ?refused, exec_semaphoreRelease_holder hadmit,
      exec_semaphoreRelease_other hadmit⟩,
    fun htimer hidle => congrArg s.next ((if_neg htimer).trans (if_neg (not_not_intro hidle))),
    fun htimer hruns => congrArg s.next ((if_neg htimer).trans (if_pos hruns)), ?busIdle,
    fun cal hhonoured => congrArg s.next (if_pos hhonoured),
    fun cal hignored => congrArg s.next (if_neg (ne_true_of_eq_false hignored))⟩
  case waits =>
    intro hheld hother hroom
    exact congrArg s.next ((Dev.adminDo_admitted hadmit _).trans (Dev.semRequest_waits
      ((s.dev.semHolder_wakeHost _).trans_ne hheld) ((s.dev.semHolder_wakeHost _).trans_ne hother) hroom))
  case refused =>
    intro hheld hother hfull
    exact congrArg s.next ((Dev.adminDo_admitted hadmit _).trans (Dev.semRequest_full
      ((s.dev.semHolder_wakeHost _).trans_ne hheld) ((s.dev.semHolder_wakeHost _).trans_ne hother) hfull))
  case busIdle =>
    intro h hlow hhigh d1
    have hsome : (s.dev.semHolder = h ∧ h ≠ 0) = (s.dev.semHolder = h) := propext (and_iff_left (by omega))
    refine congrArg s.next ((if_pos ⟨hlow, hhigh⟩).trans ?_)
    simp only [Dev.semTimer, hsome, d1]

end Sys2Proof.Machine

/-! ### The spindle's start, power loss and power up -/

namespace Sys2Proof.Machine

/-! #### Starting the spindle (R314 to R317, R549) -/

section
variable {d : Dev}

/-- A start that is ordered begins with the sense window when its conditions hold (R314). -/
theorem Dev.tryStart_begins (htarget : d.showTarget.targetSpeed ≠ 0) (hrest : d.showTarget.spnState = 0)
    (hwaiting : d.spn.waiting = false) (hmay : d.showTarget.mayStart = true) : d.tryStart = d.showTarget.beginStart :=
  (if_pos ⟨htarget, hrest, by simp [Dev.showTarget, hwaiting]⟩).trans (if_pos hmay)

theorem Dev.beginStart_eq (d : Dev) :
    d.beginStart = ((d.setF Reg.SPN_STATUS_STATE 1).setF Reg.SPN_STATUS_SRC 0).onSpn fun x => sensing x := rfl

theorem Dev.starting_true (hlo : 2 ≤ d.spnState) (hhi : d.spnState ≤ 5) : d.starting = true := decide_eq_true ⟨hlo, hhi⟩

theorem Dev.lockedRotor_starting (hstart : d.starting = true) :
    let d1 := (((d.driveOff 7).setF Reg.SPN_EVENT_LOCKED 1).bumpF Reg.SPN_CNT_LOCKED 1).onSpn fun x =>
      { x with starts := d.spn.starts + 1, waiting := true }
    d.lockedRotor = if d.f Reg.SPN_LOCK_CFG_RETRIES ≤ d.spn.starts + 1 then d1.spnEvent.spindleFault else d1.spnEvent :=
  if_neg (by simp [hstart])

/-- What the sense window found decides how the start goes on (R314, Table 11.2). -/
theorem Dev.senseEnd_sensing (hstate : d.spnState = 1) (back : Bool) (rpm : Nat) :
    let d1 := d.setF Reg.SPN_STATUS_DIR (flag back)
    d.senseEnd back rpm =
      if d.spn.sensed < 3 ∨ rpm < 60 then d1.alignGo
      else if back then (d1.setSpn 2 0).setF Reg.SPN_EVENT_BRAKED 1
      else d1.catchFly false := if_neg (not_not_intro hstate)

/-- A sense window with three crossings at 60 rpm or more finds the spindle turning. -/
theorem Dev.senseEnd_turning (hstate : d.spnState = 1) {rpm : Nat} (hsensed : 3 ≤ d.spn.sensed) (hrpm : 60 ≤ rpm)
    (back : Bool) :
    let d1 := d.setF Reg.SPN_STATUS_DIR (flag back)
    d.senseEnd back rpm = if back then (d1.setSpn 2 0).setF Reg.SPN_EVENT_BRAKED 1 else d1.catchFly false :=
  (Dev.senseEnd_sensing hstate back rpm).trans (if_neg (by omega))

end

/-- Settles O11, by how an order to run, a sense window and each end of a start leave the drive. -/
theorem spindleStartSequence : Obligations.SpindleStartSequence := by
  unfold Obligations.SpindleStartSequence
  intro s
  refine ⟨?run, rfl, fun run => rfl,
    fun back rpm hstate hslow => congrArg s.next ((Dev.senseEnd_sensing hstate back rpm).trans (if_pos hslow)),
    fun rpm hstate hsensed hrpm => congrArg s.next (Dev.senseEnd_turning hstate hsensed hrpm false),
    fun rpm hstate hsensed hrpm => congrArg s.next (Dev.senseEnd_turning hstate hsensed hrpm true),
    fun hstate => congrArg s.next (if_pos hstate), fun hstate => congrArg s.next (if_pos hstate),
    fun hstate => congrArg s.next (if_neg (not_not_intro hstate)),
    fun hlo hhi => congrArg s.next (if_pos (.inl (Dev.starting_true hlo hhi))),
    fun hlo hhi => congrArg s.next (Dev.lockedRotor_starting (Dev.starting_true hlo hhi)),
    fun hwaiting htarget hmay => congrArg s.next ((if_pos ⟨hwaiting, htarget⟩).trans (if_pos hmay))⟩
  case run =>
    intro i hi hsafe hhold d1 d2 htarget hrest hwaiting hmay
    have hbegins : s.dev.spinRun true = d2.beginStart := Dev.tryStart_begins (d := d1) htarget hrest hwaiting hmay
    rw [← Dev.beginStart_eq, ← hbegins]
    rcases List.mem_pair.mp hi with rfl | rfl
    · rfl
    · exact congrArg s.next (if_neg (by simp [hsafe, hhold]))

/-! #### Power loss and the vault (R319 to R324, R425, R493, R577) -/

section
variable {d : Dev}

/-- A drop of a running module's supply, or PWRDIS, is latched with its cause, and the power die's own sequence starts
(R319, R321). -/
theorem Dev.supplyDrop_running (hgen : d.pd.generator = false) (hheld : d.pd.held = false)
    (hcore : d.f Reg.PWR_SMON_STATUS_CORE_PG ≠ 0) (cause : Nat) (v12 v5 : Bool) :
    let d1 := if v12 then d.setF Reg.PWR_SMON_STATUS_GOOD12 0 else d
    let d2 := if v5 then d1.setF Reg.PWR_SMON_STATUS_GOOD5 0 else d1
    d.supplyDrop cause v12 v5 false =
      ((d2.setF Reg.PWR_SMON_STATUS_TRIP 1).setF Reg.PWR_SMON_STATUS_CAUSE cause).powerLoss :=
  (if_neg (by simp [hgen, hheld])).trans (if_neg hcore)

/-- The digital die's first steps run once for a power fail that is signalled (R322). -/
theorem Dev.powerFail_signalled (hfailed : d.pd.failed = true) (hsaving : d.pd.saving = false) (hheld : d.pd.held = false) :
    d.powerFail =
      if d.failSteps.armed then (d.failSteps.openVault.setF Reg.FUL_STATUS_VAULT 1).onPd fun p => { p with saving := true }
      else (d.failSteps.setF Reg.PWR_VAULT_STATUS_LAST 2).holdReset :=
  if_neg (by simp [hfailed, hsaving, hheld])

end

/-- Settles O46, by the conditions under which the vault arms, the supplies drop and the save goes on. -/
theorem powerLossAndVault : Obligations.PowerLossAndVault := by
  unfold Obligations.PowerLossAndVault
  intro s
  refine ⟨fun hgen hheld hmay => congrArg s.next (if_neg (by simp [hgen, hheld, hmay])),
    fun hhealthy harmed hstate hspeed => congrArg s.next (if_neg (by simp [hhealthy, harmed, hstate, hspeed])),
    fun hgen hheld hcore => ⟨congrArg s.next (Dev.supplyDrop_running hgen hheld hcore 1 true false),
      congrArg s.next (Dev.supplyDrop_running hgen hheld hcore 2 false true), ?pwrdis⟩,
    fun _ => rfl,
    fun hfailed hsaving hheld => ⟨fun harmed => ?saves, fun harmed => ?resets⟩,
    fun ms mj hsaving => congrArg s.next (if_pos hsaving), fun hsaving => congrArg s.next (if_pos hsaving),
    fun ms mj hsaving => congrArg s.next (if_neg (ne_true_of_eq_false hsaving))⟩
  case pwrdis =>
    exact congrArg s.next
      ((if_neg (by simp [hgen, hheld])).trans (Dev.supplyDrop_running hgen hheld hcore 3 false false))
  case saves =>
    exact congrArg s.next ((Dev.powerFail_signalled hfailed hsaving hheld).trans (if_pos harmed))
  case resets =>
    exact congrArg s.next ((Dev.powerFail_signalled hfailed hsaving hheld).trans (if_neg (ne_true_of_eq_false harmed)))

/-! #### Power up and the motor outputs (R320, R572, R575, R576) -/

theorem Dev.hasAct_onPd (d : Dev) (g : PowerDie → PowerDie) (a : Act) : (d.onPd g).hasAct a = d.hasAct a := by
  cases a <;> rfl

/-- The output of an actuator's motor that shorts is a fault of its servo (R572). -/
theorem Dev.outputShort_servo {d : Dev} {n : Nat} (hn : n ≠ 0) (hact : d.hasAct (Act.ofBit ((n - 1) % 2)) = true) :
    d.outputShort n =
      (d.onPd fun p => { p with outputsOff := p.outputsOff ||| 2 ^ n }).reportFault
        (.servoEngine (Act.ofBit ((n - 1) % 2))) 7 :=
  (if_neg hn).trans (if_pos ((d.hasAct_onPd ..).trans hact))

/-- Settles O47, by the supplies' state and by which output shorts. -/
theorem powerUpAndOutputs : Obligations.PowerUpAndOutputs := by
  unfold Obligations.PowerUpAndOutputs
  intro s
  refine ⟨fun hheld hgen h12 h5 => congrArg s.next (if_neg (by simp [hheld, hgen, h12, h5])),
    fun hheld => congrArg s.next (if_neg (by simp [hheld])), fun hheld => congrArg s.next (if_pos (by simp [hheld])),
    rfl, fun n hlo hhi hact => ?servo⟩
  case servo =>
    exact congrArg s.next ((if_pos (by omega)).trans (Dev.outputShort_servo (by omega) hact))

end Sys2Proof.Machine

/-! ### Zoned writes, their acceptance, and the zone actions -/

namespace Sys2Proof.Machine

/-! #### The dispatch of a served command of the zoned namespace (R412, R413, R417) -/

theorem media_withCmd (s : State) (c : HostCmd) : (withCmd s c).media = s.dev.media := s.dev.media_ioReady _

theorem zoneBlocks_withCmd (s : State) (c : HostCmd) : (withCmd s c).media.zoneBlocks = s.dev.media.zoneBlocks :=
  congrArg Media.zoneBlocks (media_withCmd s c)

theorem zq_withCmd (s : State) (c : HostCmd) : (withCmd s c).zq = s.dev.zq := s.dev.zq_ioReady _

theorem Dev.zonedDo_inRange {d : Dev} {id : CmdId} {ns lba len : Nat} (hzoned : ns ≠ 2)
    (hrange : d.rangeFault ns lba len false = none) (g : Dev → Dev) : d.zonedDo id ns lba len g = g d := by
  rw [Dev.zonedDo, if_neg hzoned, hrange]

/-- A range that MDTS allows faults as one without that check (Table 16.3). -/
theorem Dev.rangeFault_shortTransfer (d : Dev) (ns lba : Nat) {len : Nat} (hlen : len ≤ 512) :
    d.rangeFault ns lba len true = d.rangeFault ns lba len false := by
  simp [Dev.rangeFault, Nat.not_lt.mpr hlen]

section
variable {s : State} {id : CmdId} (h : served s id)
include h

section
variable {lba : Nat} {data : List Nat}

/-- A Write or a Write Zeroes of the zoned namespace is dispatched as a zoned write. -/
theorem exec_zonedWrite_served {marked : Bool} {i : Instr}
    (hi : (i = Instr.write id 1 lba data 0 marked .ok ∧ data.length ≤ 512) ∨
      ∃ n, data = List.replicate n 0 ∧ i = Instr.writeZeroes id 1 lba n marked)
    (hrange : s.dev.rangeFault 1 lba data.length false = none) :
    let c := hostCmd id .zonedWrite 1 lba data.length data false false
    exec i s = s.next ((withCmd s c).startZoned c).settle := by
  rcases hi with ⟨rfl, hlen⟩ | ⟨n, rfl, rfl⟩
  · exact exec_write_served h ((s.dev.rangeFault_shortTransfer 1 lba hlen).trans hrange) marked
  · rw [List.length_replicate] at hrange ⊢
    exact congrArg s.next ((dataDo_served h hrange _).trans (congrArg Dev.settle (arrive_served h ..)))

theorem zonedDo_served {len : Nat} (hrange : s.dev.rangeFault 1 lba len false = none) (g : Dev → Dev) :
    s.dev.ioDo id (fun d => d.zonedDo id 1 lba len g) = g ((s.dev.wakeHost id.port).ioArrives) := by
  rw [ioDo_served h, Dev.zonedDo_inRange (by decide) ((s.dev.rangeFault_ioReady ..).trans hrange)]

theorem exec_zoneAppend_served (hrange : s.dev.rangeFault 1 lba 1 false = none) (hlen : data.length ≤ 512)
    (marked : Bool) :
    let c := hostCmd id .append 1 lba data.length data false false
    exec (.zoneAppend id 1 lba data marked .ok) s = s.next ((withCmd s c).startAppend c).settle :=
  congrArg s.next ((zonedDo_served h hrange _).trans
    ((if_neg (Nat.not_lt.mpr hlen)).trans (congrArg Dev.settle (arrive_served h ..))))

/-- A zone action on one zone is dispatched, and completed with the status of the action. -/
theorem zoneSend_served (hrange : s.dev.rangeFault 1 lba 1 false = none) (action : Nat) (marked : Bool) :
    let d := withCmd s (hostCmd id (.zoneAct action false) 1 lba 0 [] false false)
    let r := d.zoneAct action (lba / s.dev.media.zoneBlocks) false
    s.dev.zoneSend id 1 lba action false marked = (r.2.complete id r.1 0).settle := by
  intro d r
  rw [show r = d.zoneAct action (lba / d.media.zoneBlocks) false by rw [zoneBlocks_withCmd]]
  exact (zonedDo_served h hrange _).trans (congrArg Dev.settle (arrive_served h ..))

/-- A report is dispatched: the number of zones, then the descriptors (R328, R348). -/
theorem zoneReceive_served (hrange : s.dev.rangeFault 1 lba 1 false = none) (n : Nat) (ext part marked : Bool) :
    let d := withCmd s (hostCmd id (.report n ext part) 1 lba 0 [] false false)
    let z := lba / s.dev.media.zoneBlocks
    let left := s.dev.zq.count - z
    s.dev.zoneReceive id 1 lba n ext part marked = ((d.giveHost id (.fields (("NUMBER_OF_ZONES", if part then Nat.min n left
      else left) :: d.zoneReport z n ext))).complete id .success 0).settle := by
  intro d z left
  rw [show left = d.zq.count - z by rw [zq_withCmd], show z = lba / d.media.zoneBlocks by rw [zoneBlocks_withCmd]]
  exact (zonedDo_served h hrange _).trans (congrArg Dev.settle (arrive_served h ..))

end

end

/-! #### The arrival of a zoned write (R333, R334, Table 12.3) -/

/-- What an in-order write does once the zone limits have been checked: it waits its turn, or ends with the limits' status. -/
def Dev.placeWaiting (m : Nvme × Dev) (z : Nat) (w : ZWrite) : Dev :=
  if m.1 = .success then m.2.setZone z { m.2.zone z with waiting := (m.2.zone z).waiting ++ [w] }
  else m.2.complete w.id m.1 0

/-- What a write to be held does once the zone limits have been checked. -/
def Dev.placeHeld (m : Nvme × Dev) (z : Nat) (w : ZWrite) : Dev :=
  if m.1 = .success then
    (m.2.implicitOpen z).setZone z { (m.2.implicitOpen z).zone z with held := ((m.2.implicitOpen z).zone z).held ++ [w] }
  else m.2.complete w.id m.1 0

section
variable {m : Nvme × Dev} {d1 : Dev} {w : ZWrite}

theorem Dev.placeWaiting_room (hroom : m = (.success, d1)) (z : Nat) (w : ZWrite) :
    Dev.placeWaiting m z w = d1.setZone z { d1.zone z with waiting := (d1.zone z).waiting ++ [w] } := by
  subst hroom; rfl

theorem Dev.placeWaiting_limit {e : Nvme} (hlimit : m = (e, d1)) (he : e ≠ .success) (z : Nat) (w : ZWrite) :
    Dev.placeWaiting m z w = d1.complete w.id e 0 := by
  subst hlimit; exact if_neg he

theorem Dev.placeHeld_room (hroom : m = (.success, d1)) (z : Nat) (w : ZWrite) :
    Dev.placeHeld m z w = (d1.implicitOpen z).setZone z { (d1.implicitOpen z).zone z with
      held := ((d1.implicitOpen z).zone z).held ++ [w] } := by
  subst hroom; rfl

theorem Dev.placeHeld_limit {e : Nvme} (hlimit : m = (e, d1)) (he : e ≠ .success) (z : Nat) (w : ZWrite) :
    Dev.placeHeld m z w = d1.complete w.id e 0 := by
  subst hlimit; exact if_neg he

end

section
variable {d : Dev} {c : HostCmd} {zb : Nat} (hzb : d.media.zoneBlocks = zb)
include hzb

theorem Dev.startZoned_inOrder (hout : d.zoneOutcome (c.lba / zb) (c.lba % zb) c.len = .inOrder) :
    d.startZoned c = Dev.placeWaiting (d.makeRoom (c.lba / zb)) (c.lba / zb)
      { id := c.id, off := c.lba % zb, len := c.len, data := c.data } := by
  subst hzb
  simp only [Dev.startZoned, hout]
  rfl

theorem Dev.startZoned_hold (hout : d.zoneOutcome (c.lba / zb) (c.lba % zb) c.len = .hold) :
    d.startZoned c = Dev.placeHeld (d.makeRoom (c.lba / zb)) (c.lba / zb)
      { id := c.id, off := c.lba % zb, len := c.len, data := c.data } := by
  subst hzb
  simp only [Dev.startZoned, hout]
  rfl

theorem Dev.startZoned_rejected {o : ZOutcome} (hout : d.zoneOutcome (c.lba / zb) (c.lba % zb) c.len = o)
    (horder : o ≠ .inOrder) (hhold : o ≠ .hold) : d.startZoned c = (o.count d).complete c.id o.status 0 := by
  subst hzb
  cases o with
  | inOrder => exact absurd rfl horder
  | hold => exact absurd rfl hhold
  | _ => simp only [Dev.startZoned, hout]

/-- A Zone Append that names its zone, on a zone that takes writes and with room below the held writes and the capacity,
is placed past the in-order writes that wait (R337). -/
theorem Dev.startAppend_placed (hstart : c.lba % zb = 0) (hreadOnly : (d.zone (c.lba / zb)).state ≠ 0xD)
    (hfull : (d.zone (c.lba / zb)).state ≠ 0xE) (hoffline : (d.zone (c.lba / zb)).state ≠ 0xF)
    (hheld : ∀ v ∈ (d.zone (c.lba / zb)).held, d.appendOff (c.lba / zb) + c.len ≤ v.off)
    (hcap : d.appendOff (c.lba / zb) + c.len ≤ d.zoneCap) :
    d.startAppend c = Dev.placeWaiting (d.makeRoom (c.lba / zb)) (c.lba / zb)
      { id := c.id, off := d.appendOff (c.lba / zb), len := c.len, data := c.data } := by
  subst hzb
  have hbelow : ¬ ((d.zone (c.lba / d.media.zoneBlocks)).held.any fun w =>
      decide (w.off < d.appendOff (c.lba / d.media.zoneBlocks) + c.len)) = true := by simpa using hheld
  unfold Dev.startAppend
  simp only [if_neg (not_not_intro hstart), if_neg hoffline, if_neg hreadOnly, if_neg hfull, if_neg hbelow,
    if_neg (Nat.not_lt.mpr hcap)]
  rfl

theorem Dev.startAppend_full (hstart : c.lba % zb = 0) (hfull : (d.zone (c.lba / zb)).state = 0xE) :
    d.startAppend c = d.complete c.id .zoneFull 0 := by
  subst hzb
  simp [Dev.startAppend, hstart, hfull]

end

/-- Settles O28: each write by its outcome and the zone limits, the append by the state of its zone. -/
theorem zonedWrites : Obligations.ZonedWrites := by
  unfold Obligations.ZonedWrites
  intro s id lba data marked h z off w
  refine ⟨fun i hi hrange => ?write, fun hrange hlen hstart => ?append⟩
  case write =>
    intro d
    have hzb : d.media.zoneBlocks = s.dev.media.zoneBlocks := zoneBlocks_withCmd ..
    have hexec {d1 : Dev} (hd : d.startZoned (hostCmd id .zonedWrite 1 lba data.length data false false) = d1) :
        exec i s = s.next d1.settle :=
      (exec_zonedWrite_served h hi hrange).trans (congrArg (fun d => s.next (Dev.settle d)) hd)
    refine ⟨fun d1 hout hroom => hexec ((Dev.startZoned_inOrder hzb hout).trans (Dev.placeWaiting_room hroom z w)),
      fun d1 hout hroom => hexec ((Dev.startZoned_hold hzb hout).trans (Dev.placeHeld_room hroom z w)), ?limits,
      fun o hout horder hhold => hexec (Dev.startZoned_rejected hzb hout horder hhold)⟩
    case limits =>
      intro e d1 hout hlimit he
      rcases hout with hout | hout
      · exact hexec ((Dev.startZoned_inOrder hzb hout).trans (Dev.placeWaiting_limit hlimit he z w))
      · exact hexec ((Dev.startZoned_hold hzb hout).trans (Dev.placeHeld_limit hlimit he z w))
  case append =>
    intro d
    have hzb : d.media.zoneBlocks = s.dev.media.zoneBlocks := zoneBlocks_withCmd ..
    have hexec {d1 : Dev} (hd : d.startAppend (hostCmd id .append 1 lba data.length data false false) = d1) :
        exec (.zoneAppend id 1 lba data marked .ok) s = s.next d1.settle :=
      (exec_zoneAppend_served h hrange hlen marked).trans (congrArg (fun d => s.next (Dev.settle d)) hd)
    exact ⟨fun d1 hreadOnly hfull hoffline hheld hcap hroom =>
        hexec ((Dev.startAppend_placed hzb hstart hreadOnly hfull hoffline hheld hcap).trans
          (Dev.placeWaiting_room hroom z { w with off := d.appendOff z })),
      fun hfull => hexec (Dev.startAppend_full hzb hstart hfull)⟩

/-! #### Acceptance, expiry and the journal's checkpoint (R333, R336, R340) -/

section
variable {d : Dev} {z : Nat} {id : CmdId} {w : ZWrite}
  (hwaits : ((d.zone z).waiting.find? fun w => decide (w.id = id)) = some w)
include hwaits

/-- A write whose turn comes, whose data the armed vault's cache has room for, is accepted (R333). -/
theorem Dev.writeAccept_buffered {d1 : Dev} (hplace : d.acceptFault z w = none) (harmed : d.armed = true)
    (hroom : w.len ≤ d.cacheRoom) (hring : d.zq.ring.length < 262144) (hfelt : d.feltRoom z = true)
    (hlimits : d.makeRoom z = (.success, d1)) :
    d.writeAccept z id false = d1.acceptWrite z w (d.acceptDw0 z w) := by
  simp [Dev.writeAccept, hwaits, hplace, harmed, hroom, hring, hfelt, hlimits]

theorem Dev.writeAccept_placeLost {e : Nvme} (hplace : d.acceptFault z w = some e) (onMedia : Bool) :
    d.writeAccept z id onMedia = (d.setZone z { d.zone z with
      waiting := (d.zone z).waiting.filter fun v => decide (v.id ≠ id) }).complete id e 0 := by
  simp only [Dev.writeAccept, hwaits, hplace]

end

/-- Settles O29, by what an in-order write finds when its turn comes, the held writes of the zone, and the checkpoint's
conditions. -/
theorem zoneAcceptance : Obligations.ZoneAcceptance := by
  unfold Obligations.ZoneAcceptance
  intro s z id
  refine ⟨?accepted, ?placeLost, ?expired, fun hdue hready => congrArg s.next (if_pos ⟨hdue, hready⟩)⟩
  case accepted =>
    intro w d1 hwaits hplace harmed hroom hring hfelt hlimits
    exact congrArg (fun d => s.next (Dev.sealZone d z).settle)
      (Dev.writeAccept_buffered hwaits hplace harmed hroom hring hfelt hlimits)
  case placeLost =>
    intro w e hwaits hplace
    exact congrArg (fun d => s.next (Dev.sealZone d z).settle) (Dev.writeAccept_placeLost hwaits hplace false)
  case expired =>
    intro w hheld hid
    exact congrArg s.next (if_pos (List.any_eq_true.mpr ⟨w, hheld, by simp [hid]⟩))

/-! #### Zone actions (R330 to R332, R341 to R343) -/

section
variable {d : Dev} {z : Nat}

/-- An action of Table 16.5 on one zone. -/
theorem Dev.zoneAct_one {action : Nat} (hlo : action ≠ 0) (hhi : action ≤ 5) :
    d.zoneAct action z false = d.zoneDo action z :=
  (if_neg (by omega)).trans (if_neg Bool.false_ne_true)

/-- Any other action is not supported (R332). -/
theorem Dev.zoneAct_unsupported {action : Nat} (h : 5 < action) : d.zoneAct action z false = (.invalidField, d) :=
  if_pos (.inl h)

theorem Dev.closeZone_open (hopen : (d.zone z).isOpen = true) :
    d.closeZone z = (.success, (d.setZone z { d.zone z with
      state := if (decide ((d.zone z).wp = 0) && (d.zone z).held.isEmpty) = true then 0x1 else 0x4 }).journal 2 z) := by
  have hstate : (d.zone z).state ≠ 0x4 := by
    intro hclosed
    simp [Zone.isOpen, hclosed] at hopen
  exact (if_neg hstate).trans (if_pos hopen)

theorem Dev.finishZone_active (hactive : (d.zone z).state = 0x1 ∨ (d.zone z).isActive = true) :
    let zn := d.zone z
    let d2 := ((d.completeAll .zoneInvalidWrite (zn.held ++ zn.waiting)).setZone z
      { zn with held := [], waiting := [] }).writePartial z
    d.finishZone z =
      (.success, (d2.setZone z { d2.zone z with state := 0xE, finish := some zn.wp, wp := d2.zoneCap }).journal 4 z) := by
  have hstate : (d.zone z).state ≠ 0xE := by
    intro hfull
    simp [Zone.isActive, hfull] at hactive
  exact (if_neg hstate).trans (if_pos hactive)

theorem Dev.openZone_room {d1 : Dev} (hstate : (d.zone z).state = 0x1 ∨ (d.zone z).state = 0x4)
    (hroom : d.makeRoom z = (.success, d1)) :
    d.openZone z = (.success, (d1.setZone z { d1.zone z with state := 0x3 }).journal 2 z) := by
  have hnew : (d.zone z).state ≠ 0x3 := by omega
  have hopens : (d.zone z).state = 0x1 ∨ (d.zone z).state = 0x2 ∨ (d.zone z).state = 0x4 := by omega
  simp only [Dev.openZone, if_neg hnew, if_pos hopens, hroom, if_true]

/-- A Full zone's reset leaves the reported capacity, unless the zone retires with it. -/
theorem Dev.zoneDo_resetFull (hfull : (d.zone z).state = 0xE) (hempty : ((d.resetZone z).zone z).state = 0x1) :
    d.zoneDo 4 z = (.success, d.resetZone z) := by
  have hreset : d.resetAct z = (.success, d.resetZone z) := by simp [Dev.resetAct, hfull]
  simp [Dev.zoneDo, hreset, hfull, hempty]

theorem Dev.offlineAct_readOnly (hreadOnly : (d.zone z).state = 0xD) :
    d.offlineAct z = (.success, (d.resetZone z).capacityFell z) := if_pos hreadOnly

theorem Dev.offlineAct_other (hother : (d.zone z).state ≠ 0xD) : d.offlineAct z = (.invalidTransition, d) := if_neg hother

end

/-- Settles O31: every command is dispatched by `zoneSend_served` or `zoneReceive_served`, then each action by the state of
its zone. -/
theorem zoneManagement : Obligations.ZoneManagement := by
  unfold Obligations.ZoneManagement
  intro s id lba marked h hrange z act
  have hsend (action : Nat) {e : Nvme} {d1 : Dev} (hr : (act action).zoneAct action z false = (e, d1)) :
      s.next (s.dev.zoneSend id 1 lba action false marked) = s.next (d1.complete id e 0).settle := by
    rw [zoneSend_served h hrange action marked, hr]
  have hact (action : Nat) (hlo : action ≠ 0) (hhi : action ≤ 5) {e : Nvme} {d1 : Dev}
      (hr : (act action).zoneDo action z = (e, d1)) :
      s.next (s.dev.zoneSend id 1 lba action false marked) = s.next (d1.complete id e 0).settle :=
    hsend action ((Dev.zoneAct_one hlo hhi).trans hr)
  refine ⟨fun hopen => hact 1 (by decide) (by decide) (Dev.closeZone_open hopen),
    fun hactive => hact 2 (by decide) (by decide) (Dev.finishZone_active hactive),
    fun d1 hstate hroom => hact 3 (by decide) (by decide) (Dev.openZone_room hstate hroom),
    fun hfull hempty => hact 4 (by decide) (by decide) (Dev.zoneDo_resetFull hfull hempty),
    fun hreadOnly => hact 5 (by decide) (by decide) (Dev.offlineAct_readOnly hreadOnly),
    fun hother => hact 5 (by decide) (by decide) (Dev.offlineAct_other hother),
    hsend 0x10 (Dev.zoneAct_unsupported (by decide)), ?reports,
    fun all l => congrArg s.next ((ioDo_served h _).trans (if_pos rfl))⟩
  case reports =>
    intro n ext part i hi d
    rcases hi with ⟨rfl, rfl⟩ | ⟨rfl, rfl⟩
    · exact congrArg s.next (zoneReceive_served h hrange n false part marked)
    · exact congrArg s.next (zoneReceive_served h hrange n true part marked)

end Sys2Proof.Machine

/-! ### Felt upkeep, the protected memories, the Crown's maintenance, the recorder and the Fuller engine -/

namespace Sys2Proof.Machine

/-! #### Felt upkeep (R359 to R361) -/

section
variable {d : Dev} {g k : Nat}

theorem Dev.checkpointStride_dirty (hopen : (d.stride g k).opened = true) (hdirty : (d.stride g k).dirty = true) :
    let st := d.stride g k
    d.checkpointStride g k = (d.coverAll (d.feltGroup g) st st.folded).setStride g k
      { st with cover := st.folded, half := 1 - st.half, dirty := false } :=
  if_pos (by simp [hopen, hdirty])

theorem Dev.checkpointStride_clean (h : (d.stride g k).opened = false ∨ (d.stride g k).dirty = false) :
    d.checkpointStride g k = d :=
  if_neg fun hdue => by
    obtain ⟨hopen, hdirty⟩ := Bool.and_eq_true_iff.mp hdue
    exact h.elim (ne_false_of_eq_true hopen) (ne_false_of_eq_true hdirty)

end

/-- Settles O32: a checkpoint takes each stride by whether it is open and dirty, a collection by the surface's free
positions and the throttle level. -/
theorem feltUpkeep : Obligations.FeltUpkeep := by
  unfold Obligations.FeltUpkeep
  intro s hon
  exact ⟨congrArg s.next (if_pos hon), fun d g k => Dev.checkpointStride_dirty, fun d g k => Dev.checkpointStride_clean,
    fun x hlow hcool => congrArg s.next (if_pos (by simp [hon, hlow, hcool])),
    fun x hlevel hhigh => congrArg s.next (if_neg (by simp [hlevel, hhigh]))⟩

/-! #### Corrections written back, and the scrubber (R378, R384) -/

section
variable {m : Memories} {c : Correction} {cs : List Correction}

theorem Memories.correct_oldest (hdue : m.fixes = c :: cs) : m.correct = { m with fixes := cs }.writeBack c := by
  simp only [Memories.correct, hdue]

theorem Memories.writeBack_buffer (hbuf : c.dram = false) (hsame : m.bufRaw c.addr = (c.data, c.chk)) :
    let v := (eccDecode 4 8 c.data c.chk).fix c.data
    m.writeBack c = m.setBuf c.addr v (checkBits 4 8 v) :=
  (if_neg (ne_true_of_eq_false hbuf)).trans (if_pos hsame)

/-- The bits that were read have been overwritten since: the correction is dropped. -/
theorem Memories.writeBack_overwritten (hbuf : c.dram = false) (hother : m.bufRaw c.addr ≠ (c.data, c.chk)) :
    m.writeBack c = m := (if_neg (ne_true_of_eq_false hbuf)).trans (if_neg hother)

theorem Memories.writeBack_quarter (hdram : c.dram = true) (hdata : m.quarter (c.addr / 4) (c.addr % 4) = c.data)
    (hchk : metaChk (sget 0 m.dramMeta (c.addr / 4)) (c.addr % 4) = c.chk) :
    let v := (eccDecode 8 128 c.data c.chk).fix c.data
    m.writeBack c = m.setQuarter (c.addr / 4) (c.addr % 4) v (checkBits 8 128 v) :=
  (if_pos hdram).trans (if_pos ⟨hdata, hchk⟩)

end

theorem Dev.scrubBuf_bad {d : Dev} {a : Nat} (hon : d.domOn (34 + a / 2 ^ 22) = true)
    (hbad : eccDecode 4 8 (d.mem.bufRaw a).1 (d.mem.bufRaw a).2 = .bad) :
    d.scrubBuf a =
      (d.scrubUe MemNo.buffer a).onMem fun m => m.writeBuf a (BitVec.ofNat 8 (d.mem.bufRaw a).1, true) := by
  simp only [Dev.scrubBuf, hon, hbad, Bool.not_true, Bool.false_eq_true, if_false]

/-- What a command makes of the oldest write-back that is due. -/
theorem exec_correctionWriteBack_oldest {s : State} {c : Correction} {cs : List Correction} {m : Memories}
    (hdue : s.dev.mem.fixes = c :: cs) (hback : { s.dev.mem with fixes := cs }.writeBack c = m) :
    exec .correctionWriteBack s = s.next { s.dev with mem := m } :=
  congrArg (fun m => s.next { s.dev with mem := m }) ((Memories.correct_oldest hdue).trans hback)

/-- Settles O33: write-backs by `Memories.writeBack`, the fence, the injection and the scrubber by their conditions. -/
theorem memoryProtection : Obligations.MemoryProtection := by
  unfold Obligations.MemoryProtection
  intro s
  exact ⟨fun c cs hdue hbuf hsame => exec_correctionWriteBack_oldest hdue (Memories.writeBack_buffer hbuf hsame),
    fun c cs hdue hdram hdata hchk => exec_correctionWriteBack_oldest hdue (Memories.writeBack_quarter hdram hdata hchk),
    fun c cs hdue hbuf hother => exec_correctionWriteBack_oldest hdue (Memories.writeBack_overwritten hbuf hother),
    fun mib hfilling => congrArg s.next (if_neg hfilling),
    fun hcap hfilling => congrArg s.next (if_neg (not_or.mpr ⟨hcap, hfilling⟩)),
    fun cal w hgo heffective => ⟨congrArg s.next ((if_pos hgo).trans (if_pos heffective)),
      congrArg s.next ((if_pos hgo).trans (if_pos heffective))⟩,
    fun late ce ue hcool => congrArg s.next (if_pos hcool), fun late ce ue hhot => congrArg s.next (if_neg hhot),
    fun d a => Dev.scrubBuf_bad⟩

/-! #### Maintenance of the Crown cache (R407) -/

theorem Dev.maintGo_idle {d : Dev} (hidle : d.f Reg.CRN_MAINT_BUSY ≠ 1) (op set way : Nat) :
    d.maintGo op set way =
      (((d.setF Reg.CRN_MAINT_OP op).setF Reg.CRN_MAINT_SET set).setF Reg.CRN_MAINT_WAY way).maintOp op := if_neg hidle

theorem Dev.maintGo_busy {d : Dev} (hbusy : d.f Reg.CRN_MAINT_BUSY = 1) (op set way : Nat) :
    d.maintGo op set way = d.event Ev.other .crn Reg.CRN_MAINT 0 := if_pos hbusy

/-- Settles O35, by whether an operation runs. -/
theorem crownMaintenance : Obligations.CrownMaintenance := by
  unfold Obligations.CrownMaintenance
  intro s set way start
  refine ⟨fun hidle => ?idle, fun hbusy i hi => ?busy⟩
  case idle =>
    have hgo (op : Nat) {d : Dev} (hop : (start op).maintOp op = d) : s.next (s.dev.maintGo op set way) = s.next d :=
      congrArg s.next ((Dev.maintGo_idle hidle op set way).trans hop)
    exact ⟨hgo 1 rfl, fun hvalid => hgo 2 (if_pos hvalid), hgo 3 rfl, hgo 4 rfl, hgo 5 rfl, hgo 6 rfl⟩
  case busy =>
    have hignored (op : Nat) : s.next (s.dev.maintGo op set way) = s.next (s.dev.event Ev.other .crn Reg.CRN_MAINT 0) :=
      congrArg s.next (Dev.maintGo_busy hbusy op set way)
    simp only [List.mem_cons, List.not_mem_nil, or_false] at hi
    rcases hi with rfl | rfl | rfl | rfl | rfl | rfl
    · exact hignored 1
    · exact hignored 2
    · exact hignored 3
    · exact hignored 4
    · exact hignored 5
    · exact hignored 6

/-! #### The recorder (R508, R509, R511) -/

section
variable {h : Hatband} {r : HbRec}

theorem Hatband.write_new (hfull : h.full = false) (hroom : h.recs.length < 65535)
    (hother : ∀ l ∈ h.recs.getLast?, l.same r = false) : h.write r = { h with recs := h.recs ++ [r], seq := h.seq + 1 } := by
  unfold Hatband.write
  cases hlast : h.recs.getLast? with
  | none => simp [List.getLast?_eq_none_iff.mp hlast]
  | some l => simp [hfull, hother l hlast, Nat.ne_of_lt hroom]

theorem Hatband.write_again {l : HbRec} (hfull : h.full = false) (hlast : h.recs.getLast? = some l)
    (hsame : l.same r = true) (hrep : l.rep < 0xFFFF) (hthawed : h.frozenAt (h.recs.length - 1) = false) :
    h.write r = { h with recs := h.recs.dropLast ++ [{ l with rep := l.rep + 1 }], seq := h.seq + 1 } := by
  have hcount : satAdd 0xFFFF l.rep 1 = l.rep + 1 := Nat.min_eq_right hrep
  simp [Hatband.write, hlast, hfull, hsame, hrep, hthawed, hcount]

end

section
variable {d : Dev} {code x y : Nat} {b : Block}

theorem Dev.event_recorded (hready : d.hb.ready = true) (hidle : d.hb.clearing = false) :
    d.event code b x y = { d with hb := d.hb.write (d.hbRec code b x y) } := if_pos (by simp [hready, hidle])

theorem Dev.event_clearing (hclears : d.hb.clearing = true) :
    d.event code b x y =
      if d.hb.queue.length < 64 then { d with hb := { d.hb with queue := d.hb.queue ++ [d.hbRec code b x y] } }
      else d.bumpF Reg.HBR_LOST_COUNT 1 := if_neg (by simp [hclears])

end

/-- Settles O37: events by the recorder's state and its last record, the window by the cursor's AUTOINC. -/
theorem hatbandRecorder : Obligations.HatbandRecorder := by
  unfold Obligations.HatbandRecorder
  intro s
  refine ⟨fun code b x y hlo hhi => ?events, fun w => rfl, fun who hstays => congrArg s.next (if_neg hstays),
    fun who hmoves => congrArg s.next (if_pos hmoves)⟩
  case events =>
    intro r
    have hevent {d : Dev} (hd : s.dev.event code b x y = d) : exec (.hatbandEvent code b x y) s = s.next d :=
      congrArg s.next ((if_pos ⟨hlo, hhi⟩).trans hd)
    have hrecords (hready : s.dev.hb.ready = true) (hidle : s.dev.hb.clearing = false) {h : Hatband}
        (hh : s.dev.hb.write r = h) : exec (.hatbandEvent code b x y) s = s.next { s.dev with hb := h } :=
      hevent ((Dev.event_recorded hready hidle).trans (congrArg (fun h => { s.dev with hb := h }) hh))
    exact ⟨fun hready hidle hfull hroom hother => hrecords hready hidle (Hatband.write_new hfull hroom hother),
      fun l hready hidle hfull hlast hsame hrep hthawed =>
        hrecords hready hidle (Hatband.write_again hfull hlast hsame hrep hthawed),
      fun hclears hroom => hevent ((Dev.event_clearing hclears).trans (if_pos hroom)),
      fun hclears hlost => hevent ((Dev.event_clearing hclears).trans (if_neg (Nat.not_lt.mpr hlost)))⟩

/-! #### Jobs of the Fuller engine (R499 to R503) -/

/-- The ending of a job of either kind that is not refused (R500, R502). -/
def Dev.jobEnding (d : Dev) (input : List (List PByte)) (codings : List (List Byte)) : JobEnd :=
  let job := d.f Reg.FUL_STATUS_HEAD
  let w0 := d.jobWord job 0
  if w0 / 2 ^ 28 = 1 then decompressJob input.flatten (d.jobWord job 3)
  else compressJob input.flatten (2 ^ (14 + w0 / 2 ^ 26 % 4)) (d.jobWord job 3)
    ((if testBit w0 25 then segmentEnds 0 input else []) ++ d.ful.flushes) codings

section
variable {d : Dev} {w0 w2 : Nat} (hw0 : d.jobWord (d.f Reg.FUL_STATUS_HEAD) 0 = w0)
  (hw2 : d.jobWord (d.f Reg.FUL_STATUS_HEAD) 2 = w2)
include hw0

/-- The job at HEAD is run as the compress row has it. -/
theorem Dev.compressRow_due (hpending : d.fulPending = true) (hop : w0 / 2 ^ 28 ≠ 1) :
    (d.fulPending && decide (d.jobWord (d.f Reg.FUL_STATUS_HEAD) 0 / 2 ^ 28 ≠ 1)) = true := by
  rw [hw0, hpending, decide_eq_true hop]; rfl

theorem Dev.decompressRow_due (hpending : d.fulPending = true) {n : Nat} (hop : w0 / 2 ^ 28 = n) :
    (d.fulPending && decide (d.jobWord (d.f Reg.FUL_STATUS_HEAD) 0 / 2 ^ 28 = n)) = true := by
  rw [hw0, hpending, decide_eq_true hop]; rfl

include hw2

theorem Dev.runJob_accepted (hop : w0 / 2 ^ 28 < 2) (hsize : w0 / 2 ^ 28 = 0 → w0 / 2 ^ 26 % 4 ≠ 3)
    (hspace : w2 / 2 ^ 30 < 2) (haligned : w2 % 2 ^ 30 % 4 = 0) (hgoes : d.ful.abort = false)
    (codings : List (List Byte)) :
    let c := d.readChain (d.jobWord (d.f Reg.FUL_STATUS_HEAD) 1) 65536
    let e := d.jobEnding c.1 codings
    d.runJob codings =
      (c.2.writeSpace (decide (w2 / 2 ^ 30 = 1)) (w2 % 2 ^ 30 + e.skip) (e.out.map fun b => (b, false))).endJob e := by
  subst hw0 hw2
  refine (if_neg (by omega)).trans ?_
  simp only [hgoes, Bool.false_eq_true, if_false]
  rfl

/-- A descriptor with an unknown operation or space, or an unaligned output, is refused (R499). -/
theorem Dev.runJob_refused (hbad : 2 ≤ w0 / 2 ^ 28 ∨ 2 ≤ w2 / 2 ^ 30 ∨ w2 % 2 ^ 30 % 4 ≠ 0)
    (codings : List (List Byte)) :
    d.runJob codings = d.endJob { status := 4, skip := 0, out := [], outLen := 0, inLen := some 0 } := by
  subst hw0 hw2
  exact if_pos (by omega)

end

/-- Settles O38, by the kind of the job at HEAD and what its descriptor allows. -/
theorem compressionJobs : Obligations.CompressionJobs := by
  unfold Obligations.CompressionJobs
  intro s hpending job w0 w2 c ends
  refine ⟨fun hop hsize hspace haligned hgoes codings => ?compress, fun hop hspace haligned hgoes => ?decompress,
    fun codings hop hbad => congrArg s.next ((if_pos (Dev.compressRow_due rfl hpending hop)).trans
      (Dev.runJob_refused rfl rfl hbad codings)),
    fun n hop => congrArg s.next (if_pos (Dev.decompressRow_due rfl hpending hop))⟩
  case compress =>
    intro e
    have hother : w0 / 2 ^ 28 ≠ 1 := hop.trans_ne Nat.zero_ne_one
    have he : s.dev.jobEnding c.1 codings = e := if_neg hother
    rw [← he]
    exact congrArg s.next ((if_pos (Dev.compressRow_due rfl hpending hother)).trans
      (Dev.runJob_accepted rfl rfl (hop.trans_lt Nat.two_pos) (fun _ => hsize) hspace haligned hgoes codings))
  case decompress =>
    intro e
    have he : s.dev.jobEnding c.1 [] = e := if_pos hop
    rw [← he]
    exact congrArg s.next ((if_pos (Dev.decompressRow_due rfl hpending hop)).trans
      (Dev.runJob_accepted rfl rfl (hop.trans_lt Nat.one_lt_two) (fun hzero => absurd (hzero.symm.trans hop) Nat.zero_ne_one)
        hspace haligned hgoes []))

end Sys2Proof.Machine

/-! ### Flash operations -/

namespace Sys2Proof.Machine

section
variable {d : Dev} {b : Nat} {w : Word}

/-! #### The register window (R476, R479) -/

theorem Dev.flashWrite_locked (hlocked : d.safe = false) (off : Nat) :
    d.flashWrite b off w = d.ignoredWrite (0x600000 + 0x100 * b + off) := if_pos (by simp [hlocked])

section
variable (hsafe : d.safe = true)
include hsafe

theorem Dev.flashWrite_key : d.flashWrite b 0x04 w = d.flashKey b w := by
  simp [Dev.flashWrite, hsafe]

theorem Dev.flashWrite_cmd : d.flashWrite b 0x08 w = d.flashCmd b w := by
  simp [Dev.flashWrite, hsafe]

theorem Dev.flashWrite_addr : d.flashWrite b 0x0C w = d.flashAddr b w := by
  simp [Dev.flashWrite, hsafe]

theorem Dev.flashWrite_lastData : d.flashWrite b 0x2C w = d.flashData b 7 w := by
  simp [Dev.flashWrite, hsafe]

end

/-- A key after both keys have been written is out of place. -/
theorem Dev.flashKey_third (hstep : (d.nv.bank.get b).step = 2) : d.flashKey b w = d.seqError b := by
  simp [Dev.flashKey, hstep]

/-- Outside a sequence CMD takes the single commands (R480). -/
theorem Dev.flashCmd_idle (hstep : (d.nv.bank.get b).step = 0) :
    d.flashCmd b w = if bits w 7 0 = 0x30 then d.flashSuspend b else if bits w 7 0 = 0x31 then d.flashResume b
      else if bits w 7 0 = 0x40 then d.flashClear b else d :=
  (if_neg (by simp [hstep])).trans (if_neg (not_not_intro hstep))

/-! #### Programs and erases (R477, R480) -/

theorem Dev.flashAddr_erase (hstep : (d.nv.bank.get b).step = 3) (hcmd : (d.nv.bank.get b).cmd = 0x20) :
    d.flashAddr b w = ((d.setF (flF Reg.NVC_FL_ADDR_ADDR b) (bits w 24 0)).endSeq b).startErase b := by
  simp [Dev.flashAddr, hstep, hcmd]

theorem Dev.startErase_idle (hnone : d.f (flF Reg.NVC_FL_STATUS_ERR b) = 0) (hidle : d.flOp b = 0) :
    d.startErase b = (d.setFlOp b 2).onBank b fun k => { k with
      target := d.f (flF Reg.NVC_FL_ADDR_ADDR b) / 2 ^ 16 % 256, ran := true, holdSuspend := false, holdResume := false } := by
  simp [Dev.startErase, hnone, hidle]

theorem Dev.flashData_last (hstep : (d.nv.bank.get b).step = 11) :
    d.flashData b 7 w = ((d.onBank b fun k => { k with step := k.step + 1, data := k.data ++ [w] }).onBank b fun k =>
      { k with step := 0 }).startProgram b := by
  simp [Dev.flashData, hstep]

theorem Dev.startProgram_idle (hnone : d.f (flF Reg.NVC_FL_STATUS_ERR b) = 0) (hidle : d.flOp b = 0) :
    let idx := (2 ^ 24 * b + d.f (flF Reg.NVC_FL_ADDR_ADDR b) % 2 ^ 24) / 32
    (d.rawFlash idx).1 = erasedWord →
      d.startProgram b = ((d.rawFlash idx).2.setFlOp b 1).onBank b fun k => { k with target := idx } := by
  intro idx herased
  exact (if_neg (not_not_intro hnone)).trans ((if_pos hidle).trans (if_neg (not_not_intro herased)))

theorem Dev.flashSuspend_ran (herase : d.flOp b = 2) (hran : (d.nv.bank.get b).ran = true) :
    d.flashSuspend b = d.suspend b := by
  simp [Dev.flashSuspend, herase, hran]

theorem Dev.flashResume_suspended (hsuspended : d.flOp b = 3) : d.flashResume b = d.resume b := if_pos hsuspended

/-! #### The ends of operations (R477, R478, R481) -/

theorem Dev.programDone_verified (hprogram : d.flOp b = 1) :
    d.programDone b true = ((d.onNv fun n => n.setWord (d.nv.bank.get b).target
      (flashWord ((d.nv.bank.get b).data.flatMap fun x => bytesOfNat 4 x.toNat))).setFlOp b 0).onBank b fun k =>
        { k with data := [] } := by
  simp [Dev.programDone, hprogram]

theorem Dev.programDone_failed (hprogram : d.flOp b = 1) :
    d.programDone b false = (((d.tookFree.flErr b 3).onNv fun n => n.setWord (d.nv.bank.get b).target
      (BitVec.ofNat 266 (Config.freeNat d.free))).setFlOp b 0).onBank b fun k => { k with data := [] } := by
  simp [Dev.programDone, hprogram]

theorem Dev.eraseDone_erasing (herase : d.flOp b = 2) (ok : Bool) :
    let d1 := (d.setFlOp b 0).onBank b fun k => { k with holdSuspend := false, ran := true }
    let sector := 256 * b + (d.nv.bank.get b).target
    d.eraseDone b ok =
      if ok then d1.onNv fun n => n.eraseSector sector else (d1.flErr b 3).onNv fun n => n.spoilSector sector :=
  if_neg (not_not_intro herase)

theorem Dev.suspendRelease_held (herase : d.flOp b = 2) (hheld : (d.nv.bank.get b).holdSuspend = true) :
    d.suspendRelease b = (d.onBank b fun k => { k with ran := true }).suspend b :=
  (if_neg (not_not_intro herase)).trans (if_pos hheld)

theorem Dev.fabricFlashRead_busyReader {a : Nat} (hbusy : d.flashBusy a = true) :
    d.fabricFlashRead none a = d.flashFault a := if_pos hbusy

theorem Dev.fabricFlashRead_busyCore {a : Nat} (hbusy : d.flashBusy a = true) (n : Fin 4) :
    d.fabricFlashRead (some n) a = (d.flashFault a).reportFault (.core n) 3 := if_pos hbusy

end

/-- Settles O36: a command by its register's write in the bank's step, an end by the operation that runs. -/
theorem flashOperations : Obligations.FlashOperations := by
  unfold Obligations.FlashOperations
  refine ⟨fun s b hb => ⟨fun hlocked w => ?locked, fun hsafe => ?commands⟩, fun s b hb => ?ends⟩
  case locked =>
    have hignored (off : Nat) :
        s.next (if b < 2 then s.dev.flashWrite b off w else s.dev) = s.next (s.dev.ignoredWrite (0x600000 + 0x100 * b + off)) :=
      congrArg s.next ((if_pos hb).trans (Dev.flashWrite_locked hlocked off))
    exact ⟨hignored 0x04, hignored 0x0C, hignored 0x2C⟩
  case commands =>
    have hkey (w : Word) {d : Dev} (hd : s.dev.flashKey b w = d) : exec (.flashKey b w) s = s.next d :=
      congrArg s.next ((if_pos hb).trans ((Dev.flashWrite_key hsafe).trans hd))
    have hcmd (w : Word) {d : Dev} (hd : s.dev.flashCmd b w = d) :
        s.next (if b < 2 then s.dev.flashWrite b 0x08 w else s.dev) = s.next d :=
      congrArg s.next ((if_pos hb).trans ((Dev.flashWrite_cmd hsafe).trans hd))
    refine ⟨fun hstep => hkey _ (if_pos ⟨hstep, rfl⟩), fun hstep => hkey _ ?second,
      fun w hstep => hkey w (Dev.flashKey_third hstep), ?erase, ?program, ?suspend, ?resume, ?clear⟩
    case second =>
      exact (if_neg (by simp [hstep])).trans (if_pos ⟨hstep, rfl⟩)
    case erase =>
      intro w hstep hcommand d1 hnone hidle
      exact congrArg s.next ((if_pos hb).trans ((Dev.flashWrite_addr hsafe).trans
        ((Dev.flashAddr_erase hstep hcommand).trans (Dev.startErase_idle hnone hidle))))
    case program =>
      intro w hstep d1 idx hnone hidle herased
      exact congrArg s.next ((if_pos hb).trans ((Dev.flashWrite_lastData hsafe).trans
        ((Dev.flashData_last hstep).trans (Dev.startProgram_idle hnone hidle herased))))
    case suspend =>
      intro hstep herase hran
      exact hcmd 0x30 ((Dev.flashCmd_idle hstep).trans ((if_pos rfl).trans (Dev.flashSuspend_ran herase hran)))
    case resume =>
      intro hstep hsuspended
      exact hcmd 0x31 ((Dev.flashCmd_idle hstep).trans
        ((if_neg (by decide)).trans ((if_pos rfl).trans (Dev.flashResume_suspended hsuspended))))
    case clear =>
      intro hstep
      exact hcmd 0x40 ((Dev.flashCmd_idle hstep).trans
        ((if_neg (by decide)).trans ((if_neg (by decide)).trans (if_pos rfl))))
  case ends =>
    have hbank {d e : Dev} (hd : d = e) : s.next (if b < 2 then d else s.dev) = s.next e :=
      congrArg s.next ((if_pos hb).trans hd)
    exact ⟨fun hprogram => ⟨hbank (Dev.programDone_verified hprogram), hbank (Dev.programDone_failed hprogram)⟩,
      fun herase => ⟨hbank (Dev.eraseDone_erasing herase true), hbank (Dev.eraseDone_erasing herase false),
        fun hheld => hbank (Dev.suspendRelease_held herase hheld)⟩,
      fun a ha hbusy => ⟨congrArg s.next ((if_pos ha).trans (Dev.fabricFlashRead_busyReader hbusy)),
        fun n => congrArg s.next ((if_pos ha).trans (Dev.fabricFlashRead_busyCore hbusy n))⟩,
      fun c a ha hfree => congrArg s.next ((if_pos ha).trans (if_neg (ne_true_of_eq_false hfree)))⟩

end Sys2Proof.Machine

/-! ### Power domains, power states and thermal management -/

namespace Sys2Proof.Machine

section
variable {α : Type} {p : α → Prop} [DecidablePred p] {l : List α}

theorem not_any_decide (h : ∀ x ∈ l, ¬ p x) : ¬ (l.any fun x => decide (p x)) = true := by simpa using h

theorem any_decide_true (h : ∃ x ∈ l, p x) : (l.any fun x => decide (p x)) = true := by simpa using h

end

section
variable {d : Dev} {i : Nat}

/-! #### Turning a domain off and on (R523, R524) -/

section
variable (hi : i < 80) (hon : d.domOn i = true)
include hi hon

/-- A domain that is on and is not being turned off stays as it is wanted (R524). -/
theorem Dev.domainOff_steady (hsteady : ∀ x ∈ d.pw.turningOff, x.1 ≠ i) (done : Bool) :
    d.domainOff i done =
      if d.wantOn i then (if d.psLow d.host.ps i ∧ hasLow i ∧ !d.unitHeld i then d.setDomLow i true else d)
      else if d.domQuiet i ∧ d.dependentsOff i then (if done then (d.quiesce i).powerOff i else d.quiesce i)
      else d :=
  (if_neg (by simp [hi, hon])).trans (if_neg (not_any_decide hsteady))

theorem Dev.domainOff_unwanted (hsteady : ∀ x ∈ d.pw.turningOff, x.1 ≠ i) (hwant : d.wantOn i = false)
    (hquiet : d.domQuiet i = true) (hfree : d.dependentsOff i = true) (done : Bool) :
    d.domainOff i done = if done then (d.quiesce i).powerOff i else d.quiesce i :=
  (Dev.domainOff_steady hi hon hsteady done).trans
    ((if_neg (ne_true_of_eq_false hwant)).trans (if_pos ⟨hquiet, hfree⟩))

theorem Dev.domainOff_low (hsteady : ∀ x ∈ d.pw.turningOff, x.1 ≠ i) (hwant : d.wantOn i = true)
    (hstate : d.psLow d.host.ps i = true) (hlow : hasLow i = true) (hnone : d.unitHeld i = false) (done : Bool) :
    d.domainOff i done = d.setDomLow i true :=
  (Dev.domainOff_steady hi hon hsteady done).trans ((if_pos hwant).trans (if_pos ⟨hstate, hlow, by simp [hnone]⟩))

/-- A domain that was quiesced loses its power, and a request that it met meanwhile counts (R524 steps 3 and 4). -/
theorem Dev.domainOff_quiesced {met : Bool}
    (hquiesced : (d.pw.turningOff.find? fun x => decide (x.1 = i)) = some (i, met)) :
    let d1 := (d.losePower i).onPw fun p => { p with turningOff := p.turningOff.filter fun y => decide (y.1 ≠ i) }
    let d2 := d1.setF Reg.PDM_STATUS_BUSY (flag (!d1.pw.turningOff.isEmpty))
    d.domainOff i true = if met then d2.bumpF Reg.PDM_CNT_REWAKE 1 else d2 := by
  have hany : (d.pw.turningOff.any fun x => decide (x.1 = i)) = true :=
    any_decide_true ⟨_, List.mem_of_find?_eq_some hquiesced, rfl⟩
  have hoff : d.domainOff i true = d.powerOff i := (if_neg (by simp [hi, hon])).trans (if_pos hany)
  rw [hoff, Dev.powerOff, hquiesced]

end

/-! #### Power states (R432, R433) -/

section
variable {n : Nat} (hnext : d.host.psNext = some n)
include hnext

/-- The next step of a change of state that the drive has been asked for. -/
theorem Dev.powerTransition_asked :
    d.powerTransition =
      if d.pw.entering then
        if d.pw.reversing then (if d.safePoint n then d.enterPs d.host.ps else d)
        else if d.entryDone n then d.enterPs n
        else d
      else if n ≤ d.host.ps then d.enterPs n
      else if d.host.cmds.isEmpty then d.beginEntry n
      else d := by
  simp only [Dev.powerTransition, hnext]

theorem Dev.powerTransition_begins (hnot : d.pw.entering = false) (hlower : d.host.ps < n) (hnone : d.host.cmds = []) :
    d.powerTransition = d.beginEntry n := by
  simp [Dev.powerTransition_asked hnext, hnot, Nat.not_le.mpr hlower, hnone]

theorem Dev.powerTransition_done (henters : d.pw.entering = true) (hgoes : d.pw.reversing = false)
    (hdone : d.entryDone n = true) : d.powerTransition = d.enterPs n := by
  simp [Dev.powerTransition_asked hnext, henters, hgoes, hdone]

theorem Dev.powerTransition_reversed (henters : d.pw.entering = true) (hback : d.pw.reversing = true)
    (hsafe : d.safePoint n = true) : d.powerTransition = d.enterPs d.host.ps := by
  simp [Dev.powerTransition_asked hnext, henters, hback, hsafe]

theorem Dev.powerTransition_higher (hnot : d.pw.entering = false) (hhigher : n ≤ d.host.ps) :
    d.powerTransition = d.enterPs n := by
  simp [Dev.powerTransition_asked hnext, hnot, hhigher]

end

end

/-- Settles O39: the domains by what is wanted and what is being turned off, the states and the thermal hold by their
conditions. -/
theorem powerDomainsAndStates : Obligations.PowerDomainsAndStates := by
  unfold Obligations.PowerDomainsAndStates
  refine ⟨fun s i hi => ⟨fun hon hsteady hwant hquiet hfree => ?unwanted,
      fun hon hsteady hwant hstate hlow hnone done =>
        congrArg s.next (Dev.domainOff_low hi hon hsteady hwant hstate hlow hnone done),
      fun met hon hquiesced => congrArg s.next (Dev.domainOff_quiesced hi hon hquiesced),
      fun o hoff hwant hdeps => congrArg s.next (if_pos ⟨hi, by simp [hoff], hwant, hdeps⟩),
      fun o hdeps => congrArg s.next (if_neg fun ⟨_, _, _, hmet⟩ => ne_true_of_eq_false hdeps hmet)⟩,
    fun s => ⟨fun n hnext hnot hlower hnone => congrArg s.next (Dev.powerTransition_begins hnext hnot hlower hnone),
      fun n hnext henters hgoes hdone => congrArg s.next (Dev.powerTransition_done hnext henters hgoes hdone),
      fun n hnext henters hback hsafe => congrArg s.next (Dev.powerTransition_reversed hnext henters hback hsafe),
      fun n hnext hnot hhigher => congrArg s.next (Dev.powerTransition_higher hnext hnot hhigher),
      fun _ _ _ _ _ => rfl, fun hlevel hcool => congrArg s.next (if_pos ⟨hlevel, hcool⟩),
      fun hstays => congrArg s.next (if_neg fun ⟨hlevel, hcool⟩ => hstays.elim hlevel (Nat.not_lt.mpr hcool)),
      fun hhold hwarn => congrArg (fun d => s.next (Dev.powerTransition d)) (if_pos ⟨hhold, hwarn⟩)⟩⟩
  case unwanted =>
    exact ⟨congrArg s.next (Dev.domainOff_unwanted hi hon hsteady hwant hquiet hfree false),
      congrArg s.next (Dev.domainOff_unwanted hi hon hsteady hwant hquiet hfree true)⟩

end Sys2Proof.Machine

/-! ### Queues, events and attachment -/

namespace Sys2Proof.Machine

section
variable {d : Dev} {id : CmdId} {qid size : Nat}

/-! #### Creation (R417, R419) -/

theorem Dev.createCq_new (hlo : 0 < qid) (hhi : qid ≤ (d.ctrl id.port).queues) (hnew : ∀ q ∈ (d.ctrl id.port).cqs, q.id ≠ qid) :
    d.createCq id qid size =
      if size < 2 ∨ 4096 < size then d.complete id .invalidQueueSize 0
      else (d.onCtrl id.port fun c => { c with cqs := c.cqs ++ [{ id := qid, size := size }] }).complete id .success 0 :=
  if_neg fun hbad => hbad.elim (Nat.ne_of_gt hlo) fun hbad => hbad.elim (Nat.not_lt.mpr hhi) (not_any_decide hnew)

theorem Dev.createSq_new {cq : Nat} {o : Bool} (hcq : ∃ q ∈ (d.ctrl id.port).cqs, q.id = cq) (hlo : 0 < qid)
    (hhi : qid ≤ (d.ctrl id.port).queues) (hnew : ∀ q ∈ (d.ctrl id.port).sqs, q.id ≠ qid) (hsize : 2 ≤ size ∧ size ≤ 4096) :
    d.createSq id qid size cq o = (d.onCtrl id.port fun c => { c with
      sqs := c.sqs ++ [{ id := qid, size := size, cq := cq, ordered := o }] }).complete id .success 0 :=
  (if_neg (by simp [any_decide_true hcq])).trans
    ((if_neg fun hbad => hbad.elim (Nat.ne_of_gt hlo) fun hbad => hbad.elim (Nat.not_lt.mpr hhi) (not_any_decide hnew)).trans
      (if_neg (by omega)))

/-! #### Deletion (R423) -/

theorem Dev.deleteCq_held (hcq : ∃ q ∈ (d.ctrl id.port).cqs, q.id = qid) :
    d.deleteCq id qid =
      if (d.ctrl id.port).sqs.any fun q => decide (q.cq = qid) then d.complete id .invalidQueueDeletion 0
      else (d.onCtrl id.port fun c => { c with cqs := c.cqs.filter fun q => decide (q.id ≠ qid) }).complete id .success 0 :=
  if_neg (by simp [any_decide_true hcq])

theorem Dev.deleteSq_held (hsq : ∃ q ∈ (d.ctrl id.port).sqs, q.id = qid) :
    let mine (x : CmdId) : Bool := decide (x.port = id.port ∧ x.sq = qid)
    let d1 := (d.dropWrites mine).withdrawReads mine
    let d2 := (d1.host.cmds.filter fun c => mine c.id).foldl (fun (d : Dev) c => d.complete c.id .abortedSqDeletion 0) d1
    d.deleteSq id qid = ((d2.onCtrl id.port fun c => { c with
      sqs := c.sqs.filter fun q => decide (q.id ≠ qid) }).complete id .success 0).settle :=
  if_neg (by simp [any_decide_true hsq])

/-! #### Asynchronous events (Table 16.4) -/

theorem Dev.asyncRequest_answered {e : AsyncEv} {es : List AsyncEv} (hraised : (d.ctrl id.port).raised = e :: es) :
    d.asyncRequest id = (d.onCtrl id.port fun c => { c with raised := es }).complete id .success e.dw0 := by
  simp only [Dev.asyncRequest, hraised]

theorem Dev.asyncRequest_quiet (hraised : (d.ctrl id.port).raised = []) :
    d.asyncRequest id =
      if 8 ≤ (d.ctrl id.port).aers.length then d.complete id .asyncLimit 0
      else d.onCtrl id.port fun c => { c with aers := c.aers ++ [id] } := by
  simp only [Dev.asyncRequest, hraised]

theorem Dev.sanGated_open (hnone : d.host.sanitize = none) (hgood : d.host.sanFailed = false) (g : Dev → Dev) :
    d.sanGated id g = g d := by
  simp [Dev.sanGated, hnone, hgood]

end

/-- Settles O40: each command is admitted, then decided by its controller's queues and its waiting events. -/
theorem queuesAndEvents : Obligations.QueuesAndEvents := by
  unfold Obligations.QueuesAndEvents
  intro s id hadmit d c
  have hadmin (g : Dev → Dev) {e : Dev} (he : g d = e) : s.next (s.dev.adminDo id g) = s.next e :=
    congrArg s.next ((Dev.adminDo_admitted hadmit g).trans he)
  refine ⟨fun qid size hlo hhi hnew hmin hmax => hadmin _ ((Dev.createCq_new (d := d) hlo hhi hnew).trans (if_neg (by omega))),
    fun qid size hlo hhi hnew hsize => hadmin _ ((Dev.createCq_new (d := d) hlo hhi hnew).trans (if_pos hsize)),
    fun qid size cq o hcq hlo hhi hnew hmin hmax => hadmin _ (Dev.createSq_new (d := d) hcq hlo hhi hnew ⟨hmin, hmax⟩),
    fun qid hcq hused => hadmin _ ((Dev.deleteCq_held (d := d) hcq).trans (if_pos (any_decide_true hused))),
    fun qid hcq hunused => hadmin _ ((Dev.deleteCq_held (d := d) hcq).trans (if_neg (not_any_decide hunused))),
    fun qid hsq => hadmin _ (Dev.deleteSq_held (d := d) hsq), hadmin _ rfl,
    fun hquiet hroom => hadmin _ ((Dev.asyncRequest_quiet (d := d) hquiet).trans (if_neg (Nat.not_le.mpr hroom))),
    fun e es hraised => hadmin _ (Dev.asyncRequest_answered (d := d) hraised),
    fun hquiet hninth => hadmin _ ((Dev.asyncRequest_quiet (d := d) hquiet).trans (if_pos hninth)),
    fun att hnone hgood => hadmin _ (Dev.sanGated_open (d := d) hnone hgood _)⟩

end Sys2Proof.Machine

/-! ### Controllers and the twin complexes -/

namespace Sys2Proof.Machine

section
variable {d : Dev} {p : Port}

/-! #### Readiness and shutdown (R427, R548) -/

theorem Dev.checkReady_due (hport : d.hasPort p = true) (hmay : d.host.mayReady = true) (hen : (d.ctrl p).en = true)
    (hlink : (d.ctrl p).link = true) (hrdy : (d.ctrl p).rdy = false) :
    d.checkReady p = (d.onCtrl p fun c => { c with rdy := true }).fwReady :=
  if_pos ⟨hport, hmay, hen, hlink, by simp [hrdy]⟩

/-- A controller reads as what was just made of it. -/
theorem Dev.ctrl_onCtrl_same (d : Dev) (p : Port) (g : Ctrl → Ctrl) : (d.onCtrl p g).ctrl p = g (d.ctrl p) := by
  cases p <;> rfl

theorem Dev.finishShutdown_clean (hasked : (d.ctrl p).shst = 1) (hclean : d.dirtyLeft = 0) :
    d.finishShutdown p = d.flushPartials.checkpoint.onCtrl p fun c => { c with shst := 2 } := if_pos ⟨hasked, hclean⟩

theorem Dev.finishShutdown_dirty (hdirty : d.dirtyLeft ≠ 0) : d.finishShutdown p = d := if_neg fun h => hdirty h.2

/-! #### The twins (R448, R453, R455) -/

theorem Dev.complexSync_copied {c : Cpx} (hready : d.isResetting (.complex c) = false) (htwin : d.isResetting (.complex c.other) = false)
    (hcopying : d.cpxState c = 1) (hapart : d.inSync = false) (hfirst : d.cpx.reloaded.get c.idx = false) :
    d.complexSync c = (d.setCpxState c 2).setF Reg.CPX_STATUS_SYNC 1 := by
  have hhome : (d.setCpxState c 2).cpx.reloaded.get c.idx = false := hfirst
  simp [Dev.complexSync, hready, htwin, hcopying, hapart, hhome]

/-- A handover that is honoured moves the ports that the receiver does not serve. -/
theorem Dev.handoverAll_moves {cal : Bool} {dst : Cpx} {move : List Port}
    (hmove : ([Port.A, Port.B].filter fun p => d.hasPort p && decide (d.servedBy p ≠ dst)) = move)
    (hhonoured : (cal || d.safe) = true) (hsync : d.inSync = true) (hup : d.cpxUp dst = true) (hsome : move ≠ []) :
    d.handoverAll cal dst = (d.passPorts dst move).bumpF Reg.CPX_TAKE_CNT_HANDOVER 1 := by
  subst hmove
  exact (if_pos hhonoured).trans (if_pos ⟨hsync, hup, by simpa using hsome⟩)

theorem Dev.handoverAll_ignored {cal : Bool} {dst : Cpx} (h : (cal || d.safe) = false) :
    d.handoverAll cal dst = d.ignoredWrite Reg.CPX_CTL := if_neg (by simp [h])

end

/-- Settles O41: a controller's steps are decided by its own flags, a complex's by both states and SYNC. -/
theorem controllersAndComplexes : Obligations.ControllersAndComplexes := by
  unfold Obligations.ControllersAndComplexes
  refine ⟨fun s p hport => ⟨congrArg s.next (if_pos hport), fun d => Dev.checkReady_due, fun lost => congrArg s.next (if_pos hport),
    fun hfetches => ?_⟩, fun s => ?_⟩
  · intro d1
    have hasked : (d1.ctrl p).shst = 1 := congrArg Ctrl.shst (Dev.ctrl_onCtrl_same s.dev p _)
    exact ⟨fun hclean => congrArg s.next ((if_pos hfetches).trans (Dev.finishShutdown_clean hasked hclean)),
      fun hdirty => congrArg s.next ((if_pos hfetches).trans (Dev.finishShutdown_dirty hdirty)), congrArg s.next (if_pos hfetches)⟩
  · refine ⟨fun hsync => congrArg s.next (if_pos hsync), fun hapart => congrArg s.next (if_neg (by simp [hapart])), rfl,
      fun c hready htwin hcopying hapart hfirst => congrArg s.next (Dev.complexSync_copied hready htwin hcopying hapart hfirst),
      fun i dst hi => ?_⟩
    intro move
    have hstep (cal : Bool) : exec (i cal) s = s.next (s.dev.handoverAll cal dst) := by
      simp only [List.mem_cons, Prod.mk.injEq, List.not_mem_nil, or_false] at hi
      obtain ⟨rfl, rfl⟩ | ⟨rfl, rfl⟩ := hi <;> rfl
    exact ⟨fun cal hhonoured hsync hup hsome => (hstep cal).trans (congrArg s.next (Dev.handoverAll_moves rfl hhonoured hsync hup hsome)),
      fun cal hignored => (hstep cal).trans (congrArg s.next (Dev.handoverAll_ignored hignored))⟩

end Sys2Proof.Machine

/-! ### Firmware, Format NVM and Sanitize -/

namespace Sys2Proof.Machine

section
variable {d : Dev} {holder : Nat} {op : SemOp}

/-! #### Operations under the hold (R440) -/

theorem Dev.host_semGrant (d : Dev) (holder : Nat) : (d.semGrant holder).host = d.host := by
  unfold Dev.semGrant; split <;> rfl

theorem Dev.runSem_quiet (hnone : d.host.sanitize = none) : d.runSem holder op = d.runOp holder op :=
  if_neg (by simp [hnone])

/-- With the semaphore open and no sanitize running, an operation runs at once under its holder's grant. -/
theorem Dev.semRequest_granted (hopen : d.semOpen holder = true) (hnone : d.host.sanitize = none) :
    d.semRequest holder op = ((d.semGrant holder).runOp holder op).semSettle := by
  have hquiet : (d.semGrant holder).host.sanitize = none := (congrArg HostIf.sanitize (d.host_semGrant holder)).trans hnone
  rw [Dev.semRequest, if_pos hopen, Dev.runSem_quiet hquiet]

/-! #### Firmware (R431, R454, Table 19.5) -/

/-- A piece of whole 4 KiB units within 12 MiB is kept unless it meets an earlier one. -/
theorem Dev.fwPiece_placed {id : CmdId} {ofs : Nat} {bs : List Byte} (hsome : bs ≠ []) (hofs : ofs % 4096 = 0)
    (hlen : bs.length % 4096 = 0) (hfits : ofs + bs.length ≤ 12 * 2 ^ 20) :
    d.fwPiece id ofs bs =
      if d.host.pieces.any fun p => piecesMeet p (ofs, bs) then d.complete id .overlappingRange 0
      else (d.onHost fun h => { h with pieces := h.pieces ++ [(ofs, bs)] }).complete id .success 0 :=
  if_neg fun hbad => hbad.elim (fun hnil => hsome (List.isEmpty_iff.mp hnil)) fun hbad => hbad.elim (fun h => h hofs) fun hbad =>
    hbad.elim (fun h => h hlen) (Nat.not_lt.mpr hfits)

/-- A commit of a sound downloaded image into the slot that is not active: stored, made pending by CA 001, completed. -/
theorem Dev.runCommit_stored {id : CmdId} {ca : Nat} {bs : List Byte} (himage : imageOfPieces d.host.pieces = some bs)
    (hpieces : d.host.pieces ≠ []) (hsound : d.imageFault true true bs = 0) (hca : ca ≤ 1) (hactive : d.nv.boot.active = 0) :
    let y := (d.storeImage true 1 (bs.take (256 + (ImageHeader.ofBytes bs).clen)) .done).onHost fun h => { h with pieces := [] }
    d.runCommit id ca 0 true .done = (if ca = 1 then y.setPendingFw 1 else y).fwDone (some id) 1 ca := by
  have hslot : d.fwSlot 0 = some 1 := by simp [Dev.fwSlot, hactive]
  have hpending : ca ≠ 2 := by omega
  have hactivates : ca ≠ 3 := by omega
  simp [Dev.runCommit, hslot, hpending, hactivates, hactive, himage, hpieces, hsound]

theorem Dev.activationStep_goesOn {v : Activation} {e : Dev} (hact : d.cpx.act = some v) (hstep : d.activate v = (false, e)) :
    d.activationStep = e := by
  simp only [Dev.activationStep, hact, hstep]
  rfl

theorem Dev.activationStep_ends {v : Activation} {e : Dev} (hact : d.cpx.act = some v) (hstep : d.activate v = (true, e)) :
    d.activationStep = (e.onCpx fun x => { x with act := none }).fwDone v.id v.slot 3 := by
  simp only [Dev.activationStep, hact, hstep]
  rfl

end

/-- Settles O44: pieces by their range and their overlap, commits under the grant, the activation by its next step. -/
theorem firmwareCommands : Obligations.FirmwareCommands := by
  unfold Obligations.FirmwareCommands
  intro s id hadmit hnone hgood d h
  have hadmin (g : Dev → Dev) {e : Dev} (he : g d = e) : s.next (s.dev.adminDo id fun x => x.sanGated id g) = s.next e :=
    congrArg s.next ((Dev.adminDo_admitted hadmit _).trans ((Dev.sanGated_open (d := d) hnone hgood g).trans he))
  have hpieces : d.host.pieces = s.dev.host.pieces := rfl
  refine ⟨fun ofs bs hsome hofs hlen hfits hapart => hadmin _ ((Dev.fwPiece_placed (d := d) hsome hofs hlen hfits).trans
      (if_neg (by simpa [hpieces] using hapart))),
    fun ofs bs hsome hofs hlen hfits hmeets => hadmin _ ((Dev.fwPiece_placed (d := d) hsome hofs hlen hfits).trans
      (if_pos (by simpa [hpieces] using hmeets))), fun hopen fs sig e => ?commits,
    fun x bs ca himage hpieces hsound hca hactive => Dev.runCommit_stored himage hpieces hsound hca hactive,
    fun v d1 hact hstep => congrArg (fun x : Dev => s.next x.semSettle) (Dev.activationStep_goesOn hact hstep),
    fun v d1 hact hstep => congrArg (fun x : Dev => s.next x.semSettle) (Dev.activationStep_ends hact hstep)⟩
  case commits =>
    have hcommit (ca : Nat) (e : StoreEnd) :
        d.semRequest h (.fwCommit id ca fs sig e) = ((d.semGrant h).semBegin.runCommit id ca fs sig e).semSettle :=
      Dev.semRequest_granted ((s.dev.semOpen_wakeHost id.port h).trans hopen) hnone
    exact ⟨hadmin _ (hcommit 0 e), hadmin _ (hcommit 1 e), hadmin _ (hcommit 2 .done), hadmin _ (hcommit 3 e)⟩

/-- Settles O45: a format runs on behind its grant, a sanitize ends its hold at once; each else ends with its status. -/
theorem formatAndSanitize : Obligations.FormatAndSanitize := by
  unfold Obligations.FormatAndSanitize
  intro s id hadmit hnone d h
  have hquiet : ¬ d.host.sanitize.isSome = true := Bool.eq_false_iff.mp (congrArg Option.isSome hnone)
  have hgranted (op : SemOp) (hopen : s.dev.semOpen h = true) : d.semRequest h op = ((d.semGrant h).runOp h op).semSettle :=
    Dev.semRequest_granted ((s.dev.semOpen_wakeHost id.port h).trans hopen) hnone
  have hformat (lbaf ses : Nat) (l : FormatLayout) (hgood : s.dev.host.sanFailed = false) {e : Dev}
      (he : (if 2 < lbaf then d.complete id .invalidFormat 0 else if 2 < ses then d.complete id .invalidField 0
        else d.semRequest h (.format id lbaf ses l)) = e) : exec (.formatNvm id lbaf ses l) s = s.next e :=
    congrArg s.next ((Dev.adminDo_admitted hadmit _).trans ((Dev.sanGated_open (d := d) hnone hgood _).trans he))
  have hsanitize (op : SemOp) (hopen : s.dev.semOpen h = true) :
      s.next (s.dev.sanitizeDo id op) = s.next ((d.semGrant h).runOp h op).semSettle :=
    congrArg s.next ((Dev.adminDo_admitted hadmit _).trans ((if_neg hquiet).trans (hgranted op hopen)))
  refine ⟨fun lbaf ses l hgood hlbaf hses hopen hqueue => ?_,
    fun lbaf ses l hgood hlbaf => hformat lbaf ses l hgood (if_pos hlbaf), fun lbaf ses l hfailed => ?_, fun hopen => ?_⟩
  · have hempty : (d.semGrant h).sem.queue = [] := (congrArg Sem.queue (d.sem_semGrant h)).trans hqueue
    exact hformat lbaf ses l hgood ((if_neg (Nat.not_lt.mpr hlbaf)).trans ((if_neg (Nat.not_lt.mpr hses)).trans
      ((hgranted _ hopen).trans (Dev.semSettle_nil hempty))))
  · exact congrArg s.next ((Dev.adminDo_admitted hadmit _).trans ((if_neg hquiet).trans (if_pos hfailed)))
  · intro go
    refine ⟨fun n p inv ause fails => hsanitize _ hopen, fun ause fails => hsanitize _ hopen, fun hfailed hause => ?_⟩
    have hleaves : (d.semGrant h).host.sanFailed = true ∧ (d.semGrant h).host.sanAuse = true := by
      rw [d.host_semGrant h]; exact ⟨hfailed, hause⟩
    exact (hsanitize (.sanitizeExit id) hopen).trans (congrArg (fun x : Dev => s.next x.semEnd.semSettle) (if_pos hleaves))

end Sys2Proof.Machine

/-! ### Faults and watchdogs -/

namespace Sys2Proof.Machine

section
variable {d : Dev} {u : FUnit} {c stall : Nat} {own : Bool}

/-- The oldest fault that a unit has reported is the one taken. -/
theorem Dev.fault_reported {rest : List (FUnit × Nat)} (hqueue : d.fmg.queue = (u, c) :: rest) :
    d.fault none stall = (d.onFmg fun m => { m with queue := rest }).takeFault u c true stall := by
  simp only [Dev.fault, hqueue]

/-! #### A fault taken (R530, R531) -/

theorem Dev.takeFault_failed (hfailed : (d.countFault u c).isFailed u = true) : d.takeFault u c own stall = d.countFault u c :=
  if_pos hfailed

theorem Dev.takeFault_fails (hlive : (d.countFault u c).isFailed u = false) (hcan : canFail u = true)
    (hlimit : (d.countFault u c).f Reg.FMG_CFG_LIMIT ≤ (d.countFault u c).faultCount u) :
    d.takeFault u c own stall = ((d.countFault u c).markFailed u).failureAction u c stall :=
  (if_neg (Bool.eq_false_iff.mp hlive)).trans (if_pos ⟨hcan, hlimit⟩)

/-- Below LIMIT, or where no number of faults fails the unit, a fault is acted on unless the unit already recovers. -/
theorem Dev.takeFault_below (hlive : (d.countFault u c).isFailed u = false)
    (hbelow : canFail u = false ∨ (d.countFault u c).faultCount u < (d.countFault u c).f Reg.FMG_CFG_LIMIT) :
    d.takeFault u c own stall =
      if (d.countFault u c).isRecovering u then d.countFault u c else (d.countFault u c).faultAction u c own stall :=
  (if_neg (Bool.eq_false_iff.mp hlive)).trans (if_neg fun ⟨hcan, hlimit⟩ =>
    hbelow.elim (Bool.eq_false_iff.mp · hcan) (Nat.not_lt.mpr hlimit))

/-! #### Limits (R529) -/

theorem Dev.readyLimit_resetting {x : UnitId} (hresets : d.isResetting x = true) (hunit : faultUnit x = some u)
    (hlive : d.isFailed u = false) :
    d.readyLimit x =
      (d.onFmg fun m => { m with recovering := m.recovering.filter fun y => decide (y ≠ u) }).takeFault u 6 false 0 := by
  simp only [Dev.readyLimit, hresets, hunit, hlive]
  rfl

end

/-- Settles O48: a fault by the branches of `Dev.takeFault`, each watchdog by the state that starts it. -/
theorem faultsAndWatchdogs : Obligations.FaultsAndWatchdogs := by
  unfold Obligations.FaultsAndWatchdogs
  intro s
  refine ⟨fun u c rest stall hqueue => congrArg s.next (Dev.fault_reported hqueue),
    fun u c stall hunit => congrArg s.next (if_pos hunit), fun d u c own stall => ?taken, fun n => rfl,
    fun c stall hup => congrArg s.next (if_pos hup), fun a hact hcur => congrArg s.next (if_pos (by simp [hact, hcur])), rfl,
    fun hkicked => congrArg s.next (if_pos hkicked), fun hquiet => congrArg s.next (if_neg (Bool.eq_false_iff.mp hquiet)),
    fun u f hresets hunit hlive => congrArg s.next (Dev.readyLimit_resetting hresets hunit hlive),
    fun c stall hup => ⟨congrArg s.next (if_pos hup), congrArg s.next (if_pos hup)⟩⟩
  case taken =>
    exact ⟨Dev.takeFault_failed, Dev.takeFault_fails,
      fun hlive hbelow hrecovers => (Dev.takeFault_below hlive hbelow).trans (if_pos hrecovers),
      fun hlive hbelow hidle => (Dev.takeFault_below hlive hbelow).trans (if_neg (Bool.eq_false_iff.mp hidle))⟩

end Sys2Proof.Machine

/-! ### Identify, log pages, features and NVMe-MI -/

namespace Sys2Proof.Machine

section
variable {d : Dev} {id : CmdId}

/-! #### Log pages (R412, R516, Table 16.7) -/

theorem Dev.getLog_listed {lid : Nat} {retain : Bool} {fs : List (String × Nat)} (hpage : d.logPage id.port lid = some fs) :
    d.getLog id lid retain = (d.clearChanges id.port lid retain).reply id fs := by
  simp only [Dev.getLog, hpage]

theorem Dev.getLog_unlisted {lid : Nat} {retain : Bool} (hpage : d.logPage id.port lid = none) :
    d.getLog id lid retain = d.complete id (if lid = 0x0D then .commandSequenceError else .invalidLogPage) 0 := by
  simp only [Dev.getLog, hpage]

theorem Dev.pelEstablish_first (hnone : (d.ctrl id.port).pel = none) :
    d.pelEstablish id = ((d.freezeRecs (1 + id.port.idx)).onCtrl id.port fun c =>
      { c with pel := some d.hb.recs
               pelOfs := d.timestampNow.map fun t => (t : Int) - d.clock.nowNs / 1000000 }).complete id .success 0 :=
  if_neg (by simp [hnone])

/-! #### NVMe-MI (R436, Table 16.13) -/

/-- A request that carries no packet is served at once, and its response waits to be fetched. -/
theorem Dev.miSend_served {r : MiRequest} (hserved : ∀ ws o, r ≠ .vendor ws o) :
    let d1 := (d.onCtrl id.port fun c => { c with miReply := none }).setPath (.miInBand id.port)
      { d.mpiPath (.miInBand id.port) with unread := false }
    d.miSend id r = ((d1.miServe id.port r).2.onCtrl id.port fun c =>
      { c with miReply := some (d1.miServe id.port r).1 }).complete id .success 0 := by
  cases r
  case vendor ws o => exact absurd rfl (hserved ws o)
  all_goals rfl

theorem Dev.miReceive_response {fs : List (String × Nat)} (hreply : (d.ctrl id.port).miReply = some fs) :
    d.miReceive id = (d.onCtrl id.port fun c => { c with miReply := none }).reply id fs := by
  simp only [Dev.miReceive, hreply]

end

/-- Settles O50: an admitted command is decided by the page, the data or the feature that it names. -/
theorem identifyLogsAndFeatures : Obligations.IdentifyLogsAndFeatures := by
  unfold Obligations.IdentifyLogsAndFeatures
  refine ⟨fun s id hadmit => ?logs, fun s id hadmit => ?features⟩
  case logs =>
    intro d
    have hadmin (g : Dev → Dev) {e : Dev} (he : g d = e) : s.next (s.dev.adminDo id g) = s.next e :=
      congrArg s.next ((Dev.adminDo_admitted hadmit g).trans he)
    refine ⟨fun cns ns csi fs hdata => hadmin _ (by simp only [hdata]; rfl), fun cns ns csi hnone => hadmin _ (by simp only [hnone]),
      fun lid retain fs hpage => hadmin _ (Dev.getLog_listed hpage),
      fun lid retain hpage hother => hadmin _ ((Dev.getLog_unlisted hpage).trans (by rw [if_neg hother])),
      fun x p => ⟨fun retain hretain => if_pos hretain, rfl⟩, fun hnone => hadmin _ (Dev.pelEstablish_first (d := d) hnone), hadmin _ rfl⟩
  case features =>
    intro d set
    have hadmin (g : Dev → Dev) {e : Dev} (he : g d = e) : s.next (s.dev.adminDo id g) = s.next e :=
      congrArg s.next ((Dev.adminDo_admitted hadmit g).trans he)
    refine ⟨fun v => ⟨hadmin _ rfl, hadmin _ rfl, hadmin _ rfl, hadmin _ rfl⟩, fun v cd => hadmin _ rfl,
      fun ps hps => hadmin _ (if_neg (Nat.not_lt.mpr hps)), fun ps hps => hadmin _ (if_pos hps), hadmin _ rfl,
      fun a b ha hb => hadmin _ (if_neg (not_or_intro ha hb)),
      fun fid sel v hvalue hdata => hadmin _ (by simp only [hvalue, if_neg hdata]),
      fun fid sel hnone => hadmin _ (by simp only [hnone]), hadmin _ rfl, hadmin _ rfl,
      fun ns hns => hadmin _ (if_neg fun ⟨hone, htwo⟩ => hns.elim hone htwo)⟩

/-- Settles O51: in band through the admitted command, on the bus from the step of start-up that serves it. -/
theorem managementInterface : Obligations.ManagementInterface := by
  unfold Obligations.ManagementInterface
  intro s
  refine ⟨fun id r hadmit hserved => congrArg s.next ((Dev.adminDo_admitted hadmit _).trans (Dev.miSend_served hserved)),
    fun id fs hadmit hreply => congrArg s.next ((Dev.adminDo_admitted hadmit _).trans
      (Dev.miReceive_response (d := s.dev.wakeHost id.port) hreply)), fun p hserves => ?_, fun p hsilent => ?_⟩
  · intro out
    have hbus (r : MiRequest) : s.next (s.dev.miBus p r) = s.next ((s.dev.miServe p r).2.onHost fun h =>
        { h with miOut := (p, (s.dev.miServe p r).1) :: h.miOut }) := congrArg s.next (if_pos hserves)
    refine ⟨congrArg s.next (if_pos hserves), fun x => hbus (.data x), hbus .subsystemHealth, hbus .controllerHealth,
      fun c => hbus (.configGet c), fun c v => hbus (.configSet c v), fun off len => hbus (.vpdRead off len),
      fun c x hport => ?_, fun ws o => rfl⟩
    exact congrArg s.next ((if_pos hserves).trans (by simp only [if_pos hport]))
  · have hquiet : ¬ s.dev.serves (.miBus p) = true := Bool.eq_false_iff.mp hsilent
    exact ⟨congrArg s.next (if_neg hquiet), congrArg s.next (if_neg hquiet)⟩

end Sys2Proof.Machine

/-! ### Start-up, steps 1 to 5 -/

namespace Sys2Proof.Machine

section
variable {d : Dev}

/-! #### Steps 1 and 2 (R542, R543) -/

theorem Dev.powerGood_due {pins : Nat} {off : Bool} (hheld : d.pd.held = false) (hgen : d.pd.generator = false)
    (hstep : d.bootStep = 1) (h12 : d.f Reg.PWR_SMON_STATUS_GOOD12 ≠ 0) (h5 : d.f Reg.PWR_SMON_STATUS_GOOD5 ≠ 0) :
    let d1 := (d.setF Reg.PWR_SMON_STATUS_CORE_PG 1).setF Reg.SYS_STRAP_PINS (pins % 16)
    let d2 := { d1 with portBOff := off, hb := { d1.hb with boot := d1.hb.boot + 1, atPowerGood := d1.hb.recs.length } }
    d.powerGood pins off = ((d2.domainsUp Training.blank domainsOne).deriveKeys).endStep 1 :=
  if_neg (by simp [hheld, hgen, hstep, h12, h5])

/-- The clock locks on the source that REF selects. -/
theorem Dev.clockLocked_chosen (d : Dev) :
    d.clockLocked false = ((d.setF Reg.SYS_STRAP_EFFECTIVE d.strapsNow).endStep 2).trainPorts := rfl

theorem Dev.clockLocked_other (d : Dev) :
    d.clockLocked true = ((((d.setF Reg.SYS_STRAP_EFFECTIVE d.strapsNow).setF Reg.SYS_BOOT_CLK_ALT 1).event
      Ev.other .sys Reg.SYS_BOOT 0).endStep 2).trainPorts := rfl

theorem Dev.optionLoad_due {edges : Bool} (hstep : d.bootStep = 2) (hfresh : d.hb.ready = false) :
    let d1 := ((d.domainsUp Training.blank domainsOne).deriveKeys).loadOption
    let d2 := (d1.onHb fun h => { h with ready := true }).drainEvents
    let d3 := (d2.event Ev.powerOn .nvc (d2.reg Reg.NVC_BOOT).toNat (d2.reg Reg.PWR_VAULT_STATUS).toNat).handleTickets
    let d4 := d3.onNv fun n => { n with badSlots := [] }
    d.optionLoad edges = if edges then d4.clockLocked false else d4 :=
  if_neg (by simp [hstep, hfresh])

theorem Dev.awaitsClock_loaded (hstep : d.bootStep = 2) (hloaded : d.hb.ready = true) : d.awaitsClock = true := by
  simp [Dev.awaitsClock, hstep, hloaded]

/-! #### Step 3 (R486): the slots in the record's order -/

theorem Dev.bootFrom_sound {sigs : Two Bool} {slot : Nat} {rest : List Nat} (hsound : (d.slotSound sigs slot).1 = true) :
    d.bootFrom sigs (slot :: rest) = ((d.slotSound sigs slot).2.setF Reg.NVC_BOOT_FW_BOOTED slot).endStep 3 := if_pos hsound

theorem Dev.bootFrom_unsound {sigs : Two Bool} {slot : Nat} {rest : List Nat} (hbad : (d.slotSound sigs slot).1 = false) :
    d.bootFrom sigs (slot :: rest) = (d.slotSound sigs slot).2.bootFrom sigs rest := if_neg (Bool.eq_false_iff.mp hbad)

theorem Dev.verifyFirmware_first {sigs : Two Bool} (hstep : d.bootStep = 3) (hrec : d.inRecovery = false) (hfresh : d.nv.badSlots = []) :
    let c := bootChoice (d.opt 4 1 0) d.nv.boot
    let d1 := d.setBoot c.2.1
    let d2 := if c.2.2 then (d1.setF Reg.NVC_BOOT_FALLBACK 1).event Ev.bootFallback .nvc
      ((d1.setF Reg.NVC_BOOT_FALLBACK 1).reg Reg.NVC_BOOT).toNat 0 else d1
    d.verifyFirmware sigs = d2.bootFrom sigs [c.1, 1 - c.1] := by
  intro c d1 d2
  refine (if_neg (by simp [hstep, hrec])).trans ?_
  rw [hfresh]

/-! #### Step 4 (R544): the image decompressed, or not -/

theorem Dev.decompressFirmware_due {slot : Nat} {r : Option (List Byte) × Dev} (hstep : d.bootStep = 4) (hrec : d.inRecovery = false)
    (hbooted : d.f Reg.NVC_BOOT_FW_BOOTED = slot) (himage : d.slotImage true slot = r) : d.decompressFirmware = decompressOf slot r := by
  subst hbooted himage
  exact if_neg (by simp [hstep, hrec])

theorem decompressOf_body {slot : Nat} {r : Option (List Byte) × Dev} {bs body : List Byte} (himage : r.1 = some bs)
    (hbody : imageBody bs = some body) :
    let d3 := (((r.2.domainsUp Training.blank domainsFour).setF Reg.CPX_MIRROR_VER (ImageHeader.ofBytes bs).mirrorVer).setServed .A .X).setServed .B .Y
    decompressOf slot r =
      ((((d3.cpxReady .X).cpxReady .Y).setF Reg.CPX_STATUS_SYNC 0).setF Reg.FMG_STATUS_CORES 0xF).endStep 4 := by
  simp only [decompressOf, himage, Option.bind_some, hbody, Option.map_some]

theorem decompressOf_broken {slot : Nat} {r : Option (List Byte) × Dev} {bs : List Byte} (himage : r.1 = some bs)
    (hbroken : imageBody bs = none) (hfirst : r.2.nv.badSlots = []) (hslot : slot < 2) :
    decompressOf slot r = (r.2.onNv fun n => { n with badSlots := slot :: n.badSlots }).setF Reg.SYS_BOOT_STEP 3 := by
  have hother : (slot :: r.2.nv.badSlots).contains (1 - slot) = false := by
    simp only [hfirst, List.contains_eq_mem, List.mem_singleton, decide_eq_false_iff_not]
    omega
  simp only [decompressOf, himage, Option.bind_some, hbroken, Option.map_none]
  exact if_neg (Bool.eq_false_iff.mp hother)

/-! #### Step 5 (R546) -/

theorem Dev.trainDram_due {c0 c1 : Bool} (hstep : d.bootStep = 5) (huntrained : d.f Reg.SYS_BOOT_DRAM_CH = 0)
    (hgoes : d.f Reg.FMG_STATUS_HOLD ≠ 1) :
    d.trainDram c0 c1 = if !c0 && !c1 then (d.setF Reg.FMG_STATUS_HOLD 1).setF Reg.SYS_BOOT_RESULT 5
      else ((((d.setF Reg.SYS_BOOT_DRAM_CH (flag c0 + 2 * flag c1)).setF Reg.DMC_CAP_MIB (3584 * (flag c0 + flag c1))).setF
        Reg.DMC_FENCE_MIB 0).setF Reg.DMC_FENCE_DONE 0).domainsUp Training.blank [50, 51, 52, 54, 55, 56] :=
  if_neg (by simp [hstep, huntrained, hgoes])

end

/-- Settles O53: each step's command is honoured in its own step of start-up, and ends it. -/
theorem startUpFirmware : Obligations.StartUpFirmware := by
  unfold Obligations.StartUpFirmware
  intro s
  refine ⟨fun pins off hheld hgen hstep h12 h5 => congrArg s.next (Dev.powerGood_due hheld hgen hstep h12 h5), ?option, ?clock,
    fun p => rfl, ?verify, ?decompress, ?dram⟩
  case option =>
    intro edges hstep hfresh d1 d2 d3 d4
    have hlocked := congrArg (fun x : Dev => if edges then x else d4) d4.clockLocked_chosen
    exact congrArg s.next ((Dev.optionLoad_due hstep hfresh).trans hlocked)
  case clock =>
    intro hstep hloaded alt
    have hwaits : s.dev.awaitsClock = true := Dev.awaitsClock_loaded hstep hloaded
    refine ⟨congrArg s.next ((if_pos (by simp [hwaits])).trans s.dev.clockLocked_other), congrArg s.next (if_neg (by simp)),
      congrArg s.next ((if_pos (by simp [hwaits])).trans s.dev.clockLocked_other), congrArg s.next (if_neg (by simp)),
      fun other => congrArg s.next ((if_pos (by simp [hwaits])).trans s.dev.clockLocked_chosen)⟩
  case verify =>
    intro a b hstep hrec hfresh c d1 d2 first
    have hexec : exec (.firmwareVerify a b) s = s.next (s.dev.verifyFirmware ⟨a, b⟩) := rfl
    have hboot : exec (.firmwareVerify a b) s = s.next (d2.bootFrom ⟨a, b⟩ [c.1, 1 - c.1]) := by
      rw [hexec, Dev.verifyFirmware_first hstep hrec hfresh]
    clear_value d2
    exact ⟨fun hsound => hboot.trans (congrArg s.next (Dev.bootFrom_sound (d := d2) (slot := c.1) hsound)),
      fun hbad hsecond => hboot.trans (congrArg s.next ((Dev.bootFrom_unsound (d := d2) (slot := c.1) hbad).trans
        (Dev.bootFrom_sound (d := first.2) (slot := 1 - c.1) hsecond)))⟩
  case decompress =>
    intro slot r hstep hrec hbooted himage
    have hdecompress : exec .firmwareDecompress s = s.next (decompressOf slot r) :=
      congrArg s.next (Dev.decompressFirmware_due hstep hrec hbooted himage)
    exact ⟨fun bs body hbytes hbody => hdecompress.trans (congrArg s.next (decompressOf_body hbytes hbody)),
      fun bs hbytes hbroken hfirst hslot => hdecompress.trans (congrArg s.next (decompressOf_broken hbytes hbroken hfirst hslot))⟩
  case dram =>
    intro hstep huntrained hgoes
    exact ⟨fun c0 c1 htrained => congrArg s.next ((Dev.trainDram_due hstep huntrained hgoes).trans
        (if_neg (by simpa [imp_iff_not_or] using htrained))),
      congrArg s.next ((Dev.trainDram_due hstep huntrained hgoes).trans (if_pos rfl))⟩

end Sys2Proof.Machine

/-! ### Packets: transport, session and register window -/

namespace Sys2Proof.Machine

section
variable {d : Dev} {path : Path} {ws : List Word} {o : MpiObs}

/-! #### Arrival (R460 to R463) -/

theorem Dev.packet_of_op {op : Nat} (hop : (Packet.ofWords ws).op = op) :
    d.packet op path ws o = d.arrivePacket path { words := ws, obs := o, cmd := none } := if_pos hop

theorem Dev.packet_other {op : Nat} (hop : (Packet.ofWords ws).op ≠ op) : d.packet op path ws o = d := if_neg hop

theorem Dev.arrivePacket_answered {x : MpiArrival} (hwait : (d.mpiPath path).wait = none) :
    d.arrivePacket path x = (d.takePacket path x).settleJobs.semSettle := if_neg (by simp [hwait])

theorem Dev.arrivePacket_behind {x : MpiArrival} (hwait : (d.mpiPath path).wait.isSome = true) :
    d.arrivePacket path x = d.setPath path { d.mpiPath path with queue := (d.mpiPath path).queue ++ [x] } := if_pos hwait

/-- With no reply left unread, a packet that its path serves is discarded, answered again, or run. -/
theorem Dev.takePacket_read {x : MpiArrival} (hserves : d.serves path = true)
    (hread : pathIsNvme path = true → (d.mpiPath path).unread = false) :
    d.takePacket path x =
      if !(Packet.ofWords x.words).crcOk ∨ 16384 < x.words.length then d.badFrame path x.cmd
      else if pathKeeps path ∧ (d.mpiPath path).last = some ((Packet.ofWords x.words).seq, x.words.getD (x.words.length - 1) 0) then
        d.onMpi fun m => { m with sent := (pathKey path, (d.mpiPath path).reply) :: m.sent }
      else d.runPacket path x (Packet.ofWords x.words) := by
  have hkept : ¬ (pathIsNvme path = true ∧ (d.mpiPath path).unread = true) := fun ⟨hnvme, hleft⟩ => by
    simp [hread hnvme] at hleft
  unfold Dev.takePacket
  simp only [if_neg hkept, hserves, Bool.not_true, Bool.false_eq_true, if_false]

/-- A frame whose words pass the CRC and the limit of their number is not discarded. -/
theorem frame_sound (hcrc : (Packet.ofWords ws).crcOk = true) (hlen : ws.length ≤ 16384) :
    ¬ ((!(Packet.ofWords ws).crcOk) = true ∨ 16384 < ws.length) := by simp [hcrc, hlen]

/-- Only the NVMe path loses an unread reply, and it keeps none for a retransmission. -/
theorem pathIsNvme_of_keeps (hkeeps : pathKeeps path = true) : pathIsNvme path = false := by
  cases path with
  | nvme q => exact absurd hkeeps Bool.false_ne_true
  | _ => rfl

theorem Dev.runPacket_refused {x : MpiArrival} {p : Packet} {st detail : Nat}
    (hfault : d.packetFault path (holderOf path) false p = some (st, detail)) (hbusy : st ≠ 0x05) :
    d.runPacket path x p = d.answerPacket path (x.words.getD 0 0) p.flags (x.words.getD (x.words.length - 1) 0) x.cmd []
      (Rep.code st detail) := by
  simp only [Dev.runPacket, hfault, if_neg hbusy]

/-! #### The NVMe transport (R435) -/

theorem Dev.mpiReceive_none {id : CmdId} {len : Nat} (hread : (d.mpiPath (.nvme id.port)).unread = false) :
    d.mpiReceive id len = d.complete id .success 0 := if_pos (by simp [hread])

theorem Dev.mpiReceive_unread {id : CmdId} {len : Nat} (hunread : (d.mpiPath (.nvme id.port)).unread = true) :
    let q := d.mpiPath (.nvme id.port)
    d.mpiReceive id len = if len < 4 * q.reply.length then d.complete id .invalidField 0
      else ((d.setPath (.nvme id.port) { q with unread := false }).giveHost id (.words q.reply)).complete id .success
        (bits (q.reply.getD 1 0) 23 16 + 65536 * q.reply.length) := if_neg (by simp [hunread])

end

/-- Settles O60: an ECHO by the branches of its arrival, the NVMe commands by the lengths they name. -/
theorem packetTransport : Obligations.PacketTransport := by
  unfold Obligations.PacketTransport
  intro s
  refine ⟨fun path ws o st detail => ?refused, fun ws o => ?discarded, fun path ws o => ?again,
    fun path ws o hop hwait => congrArg s.next ((Dev.packet_of_op hop).trans (Dev.arrivePacket_behind hwait)),
    fun path ws o hop => congrArg s.next (Dev.packet_other hop), fun id ws o hadmit => ?send, fun id len hadmit => ?receive,
    fun no => rfl, fun hserves => congrArg s.next (if_pos hserves),
    fun hsilent => congrArg s.next (if_neg (Bool.eq_false_iff.mp hsilent))⟩
  case refused =>
    intro q p hop hserves hwait hread hcrc hlen hnew hfault hbusy
    have htaken : s.dev.takePacket path { words := ws, obs := o, cmd := none } =
        s.dev.runPacket path { words := ws, obs := o, cmd := none } p :=
      (Dev.takePacket_read hserves hread).trans ((if_neg (frame_sound hcrc hlen)).trans (if_neg fun ⟨hkeeps, hsame⟩ => hnew hkeeps hsame))
    have harrived := (Dev.packet_of_op (o := o) hop).trans (Dev.arrivePacket_answered hwait)
    rw [htaken, Dev.runPacket_refused hfault hbusy] at harrived
    exact congrArg s.next harrived
  case discarded =>
    intro p hop hserves hwait hcrc
    have htaken : s.dev.takePacket .uart { words := ws, obs := o, cmd := none } = s.dev.bumpF Reg.SYS_MPI_CNT_BAD_FRAME 1 :=
      (Dev.takePacket_read hserves (fun h => absurd h Bool.false_ne_true)).trans (if_pos (Or.inl (congrArg not hcrc)))
    have harrived := (Dev.packet_of_op (o := o) hop).trans (Dev.arrivePacket_answered hwait)
    rw [htaken] at harrived
    exact congrArg s.next harrived
  case again =>
    intro q p hop hkeeps hserves hwait hcrc hlen hsame
    have hread (hnvme : pathIsNvme path = true) : (s.dev.mpiPath path).unread = false :=
      absurd hnvme (Bool.eq_false_iff.mp (pathIsNvme_of_keeps hkeeps))
    have htaken : s.dev.takePacket path { words := ws, obs := o, cmd := none } =
        s.dev.onMpi fun m => { m with sent := (pathKey path, q.reply) :: m.sent } :=
      (Dev.takePacket_read hserves hread).trans ((if_neg (frame_sound hcrc hlen)).trans (if_pos ⟨hkeeps, hsame⟩))
    have harrived := (Dev.packet_of_op (o := o) hop).trans (Dev.arrivePacket_answered hwait)
    rw [htaken] at harrived
    exact congrArg s.next harrived
  case send =>
    have hadmin (g : Dev → Dev) {e : Dev} (he : g (s.dev.wakeHost id.port) = e) : s.next (s.dev.adminDo id g) = s.next e :=
      congrArg s.next ((Dev.adminDo_admitted hadmit g).trans he)
    exact ⟨fun hbad => hadmin _ (if_pos (hbad.imp_left (List.isEmpty_iff_length_eq_zero.mpr ·))),
      fun hsome hlen => hadmin _ (if_neg fun hbad => hbad.elim
        (fun hnone => Nat.ne_of_gt hsome (List.isEmpty_iff_length_eq_zero.mp hnone)) (Nat.not_lt.mpr hlen))⟩
  case receive =>
    intro d q
    have hadmin {e : Dev} (he : d.mpiReceive id len = e) : exec (.mpiReceive id len) s = s.next e :=
      congrArg s.next ((Dev.adminDo_admitted hadmit _).trans he)
    exact ⟨fun hread => hadmin (Dev.mpiReceive_none hread), fun hunread hshort => hadmin ((Dev.mpiReceive_unread hunread).trans (if_pos hshort)),
      fun hunread hfits => hadmin ((Dev.mpiReceive_unread hunread).trans (if_neg (Nat.not_lt.mpr hfits)))⟩

/-! #### Session and register window -/

section
variable {d : Dev} {c : Call}

/-- The count of a packet is no part of what decides whether a register packet stages. -/
theorem Dev.packetStages_counted (d : Dev) (p : Packet) :
    (d.bumpF Reg.SYS_MPI_CNT_PACKETS 1).packetStages p = d.packetStages p := rfl

/-- A packet that Table 18.5 serializes where it stages or commits runs under its path's hold only then. -/
theorem Dev.packet_staging {path : Path} {ws : List Word} {op : Nat} (h : takesUp d path ws op) {f : Dev → Call → Rep × Dev}
    (hrow : (opRow op).map OpRow.ser = some 2) (hf : handlers.find? (fun h => decide (h.1 = op)) = some (op, f)) (o : MpiObs) :
    d.packet op path ws o = packetServed d path ws o (d.packetStages (Packet.ofWords ws)) f := by
  obtain ⟨r, hr, hser⟩ := Option.map_eq_some_iff.mp hrow
  simpa [hser, Dev.packetStages_counted] using Dev.packet_of_takesUp h hr hf o

theorem Dev.mpiSemClaim_open (hopen : d.semOpen c.holder = true) :
    d.mpiSemClaim c = (Rep.nats [(d.semClaim c.holder).f Reg.CPX_SEM_GRANTS], d.semClaim c.holder) := if_pos hopen

theorem Dev.mpiSemClaim_held (hheld : d.semOpen c.holder = false) : d.mpiSemClaim c = (Rep.code 0x05 0, d.semRefused) :=
  if_neg (Bool.eq_false_iff.mp hheld)

theorem Dev.mpiSemRelease_of {n : Nat} {e : Dev} (hrelease : d.semRelease c.holder = (n, e)) :
    d.mpiSemRelease c = (Rep.code n 0, e) := by
  simp only [Dev.mpiSemRelease, hrelease]

theorem Dev.mpiJobStatus_found {j : MpiJob} (hjob : (d.mpi.jobs.find? fun j => decide (j.no = c.num Ty.job)) = some j) :
    (d.mpiJobStatus c).2 =
      if j.done then d.onMpi fun m => { m with jobs := m.jobs.filter fun (x : MpiJob) => decide (x.no ≠ j.no) } else d := by
  simp only [Dev.mpiJobStatus, hjob]

theorem Dev.mpiJob_unknown (hnone : (d.mpi.jobs.find? fun j => decide (j.no = c.num Ty.job)) = none) :
    d.mpiJobStatus c = (c.p.bad Ty.job, d) ∧ d.mpiJobAbort c = (c.p.bad Ty.job, d) := by
  simp only [Dev.mpiJobStatus, Dev.mpiJobAbort, hnone, and_self]

theorem Dev.mpiJobAbort_found {j : MpiJob} (hjob : (d.mpi.jobs.find? fun j => decide (j.no = c.num Ty.job)) = some j)
    (hop : j.op ≠ 0x0503) : d.mpiJobAbort c = (Rep.ok, d.endJobNo j.no 0x0E [] []) := by
  have hkind : ¬ (j.op = 0x0503 ∧ (!j.done) = true) := fun h => hop h.1
  simp only [Dev.mpiJobAbort, hjob, if_neg hkind]

theorem Dev.mpiRegRead_run (haddr : c.num Ty.addr % 4 = 0) (hlo : 0 < c.p.num Ty.count 1) (hhi : c.p.num Ty.count 1 ≤ 1024) :
    let r := d.readRun c.who c.o.fabric (c.num Ty.addr) (c.p.num Ty.count 1)
    d.mpiRegRead c = (Rep.result r.1, r.2) :=
  (if_neg (not_not_intro haddr)).trans (if_neg (by omega))

theorem Dev.mpiReg_unaligned (haddr : c.num Ty.addr % 4 ≠ 0) :
    d.mpiRegRead c = (c.p.bad Ty.addr, d) ∧ d.mpiRegWrite c = (c.p.bad Ty.addr, d) := ⟨if_pos haddr, if_pos haddr⟩

theorem Call.data_get {w : Word} (hdata : c.data = [w]) : (c.p.get Ty.data).map Tlv.ws = some [w] := by
  unfold Call.data at hdata
  cases hget : (c.p.get Ty.data).map Tlv.ws with
  | none => rw [hget] at hdata; cases hdata
  | some ws => rw [hget] at hdata; exact congrArg some hdata

theorem Dev.mpiRegWrite_word {w : Word} (haddr : c.num Ty.addr % 4 = 0) (hdata : c.data = [w]) :
    d.mpiRegWrite c =
      (Rep.ok, d.fabricWrite c.who false (c.num Ty.addr) (w32 (c.p.num Ty.mask 0xFFFFFFFF)) w c.o.fabric) := by
  refine (if_neg (not_not_intro haddr)).trans ?_
  simp only [Call.data_get hdata]
  rfl

theorem Dev.mpiMemWrite_fits (hspace : c.num Ty.space ≤ 1)
    (hfits : c.num Ty.addr + (((c.p.get Ty.data).map Tlv.bytes).getD []).length ≤ d.spaceSize (c.num Ty.space)) :
    d.mpiMemWrite c = (Rep.ok, d.writeSpace (decide (c.num Ty.space = 1)) (c.num Ty.addr)
      ((((c.p.get Ty.data).map Tlv.bytes).getD []).map fun b => (b, false))) :=
  (if_neg (Nat.not_lt.mpr hspace)).trans (if_neg (Nat.not_lt.mpr hfits))

theorem Dev.mpiMemWrite_noSpace (hspace : 1 < c.num Ty.space) : d.mpiMemWrite c = (c.p.bad Ty.space, d) := if_pos hspace

end

/-- Settles O55: the packets' arrival by their rows of Table 18.5, what each does by the cases of its handler. -/
theorem sessionAndRegisterPackets : Obligations.SessionAndRegisterPackets := by
  unfold Obligations.SessionAndRegisterPackets
  refine ⟨fun s path ws o => ⟨?echo, ?getInfo, ?semClaim, ?semRelease, ?semStatus, ?jobStatus, ?jobAbort, ?regRead, ?regWrite,
      ?regBatch, ?regPoll, ?memRead, ?memWrite⟩,
    fun d c => ⟨rfl, Dev.mpiSemClaim_open, Dev.mpiSemClaim_held,
      fun hheld hsome hidle => Dev.mpiSemRelease_of (Dev.semRelease_holder hheld hsome hidle),
      fun hheld hother => Dev.mpiSemRelease_of (Dev.semRelease_other hheld hother), rfl,
      fun j hjob hdone => (Dev.mpiJobStatus_found hjob).trans (if_pos hdone),
      fun j hjob hruns => (Dev.mpiJobStatus_found hjob).trans (if_neg (Bool.eq_false_iff.mp hruns)), Dev.mpiJob_unknown,
      fun j => Dev.mpiJobAbort_found, Dev.mpiRegRead_run, Dev.mpiReg_unaligned, fun w => Dev.mpiRegWrite_word,
      Dev.mpiMemWrite_fits, Dev.mpiMemWrite_noSpace⟩⟩
  case regWrite | regBatch => exact fun h => congrArg s.next (Dev.packet_staging h rfl rfl o)
  case memWrite => exact fun h => congrArg s.next (Dev.packet_serialized h rfl rfl o)
  case echo | getInfo | semClaim | semRelease | semStatus | jobStatus | jobAbort | regRead | regPoll | memRead =>
    exact fun h => congrArg s.next (Dev.packet_unserialized h rfl rfl o)

end Sys2Proof.Machine
